-- ==== Sys2Proof/Word.lean ====
section
/-! DEFINITION. The words of the Rhaef architecture and the plain records that outside agents send to it. -/

namespace Sys2Proof

/-- One byte (R5). -/
abbrev Byte := BitVec 8
/-- A scalar register, an address or a register-block word: 64 bits. -/
abbrev Word := BitVec 64
/-- One lane of a vector register, or one FP32 code (R77). -/
abbrev Lane32 := BitVec 32
/-- A vector register: the 1,024-bit image of R77, lane i in bits [32i+31 : 32i]. -/
abbrev VReg := BitVec 1024

/-- A context's number: 16 core + 4 partition + slot. It is also the context's order-wheel position (R135). -/
abbrev CtxNo := Fin 2048
/-- A partition's number: 4 core + partition. -/
abbrev PartNo := Fin 512
/-- A core's number (R12). -/
abbrev CoreNo := Fin 128
/-- A voltage island's number (R148). -/
abbrev IslandNo := Fin 196
/-- A supervisor's number: the group of eight cores it serves. -/
abbrev SupNo := Fin 16
/-- A rope's number (R13). -/
abbrev RopeNo := Fin 256

/-- The energy measured for one island in one interval, with the weighted activity of its four partitions and of what is
attributed to no task (R154). -/
structure Measured where
  island : Nat
  au : Nat
  weights : Vector Nat 4
  rest : Nat
  deriving DecidableEq, Repr

/-- A partition's share of the island's energy: the weights are scaled so that the four shares and the unattributed part add up to
what was measured (R154). -/
def Measured.share (m : Measured) (p : Nat) : Nat :=
  m.au * m.weights.toList.getD p 0 / (m.weights.toList.foldl (· + ·) m.rest)

/-- What reaches the governor from outside the digital model at one boundary: the regulators' measurements (R154),
the grants that firmware's policy asks for (R403), the limits that temperatures set, and the ceilings of islands whose energy
breached a contract (R162). -/
structure GovInput where
  measured : List Measured
  /-- (island, AU) asked for -/
  asked : List (Nat × Nat)
  /-- (core island, highest OP under its temperature limits) -/
  temp : List (Nat × Nat)
  /-- (core island, highest OP when the last interval exceeded a resident's PMAX) -/
  breach : List (Nat × Nat)
  deriving DecidableEq, Repr, Inhabited

/-- What the regulator of an island measured in the last interval. -/
def GovInput.energy (gi : GovInput) (i : Nat) : Measured :=
  (gi.measured.find? (fun m => m.island = i)).getD ⟨i, 0, Vector.replicate 4 0, 0⟩

/-- What the host answers to an ATS translation request: a physical page of 2^bits bytes, no page present, or a refusal (R356, R359,
R360). -/
inductive AtsAnswer where
  | page (pa bits : Nat)
  | absent
  | refused
  deriving DecidableEq, Repr

/-- An arbitration message (R405). -/
structure ArbMsg where
  round : Nat
  modnum : Nat
  chbud : Nat
  mincap : Nat
  peakcap : Nat
  demand : Nat
  fallback : Nat
  deriving DecidableEq, Repr, Inhabited

/-- A firmware image as boot and UPDATE read it: its bytes and its security version (R386, R394). -/
structure FwImage where
  bytes : List Byte
  sig : List Byte
  version : Nat
  deriving DecidableEq, Repr, Inhabited

/-- Where an error of a store shows (R407, R410): an 8-byte granule of a scratchpad or vault, a bundle of an instruction store by its
place, where the resident teams' texts stand one after another, a granule of device memory in the system cache, a directory or
lease table, a granule in DRAM, or a register or landing-buffer entry of a context by its code of R379. -/
inductive ErrAt where
  | spad (core : CoreNo) (granule : Nat)
  | vault (core : CoreNo) (granule : Nat)
  | istore (core : CoreNo) (bundle : Nat)
  | cache (granule : Nat)
  | table
  | dram (granule : Nat)
  | reg (x : CtxNo) (code : Nat)
  deriving DecidableEq, Repr

/-- An error of a store: where, and whether two bits of the granule are wrong (R408). -/
structure MemErr where
  at_ : ErrAt
  double : Bool
  deriving DecidableEq, Repr

/-- The parameters of an SPDM request, and whether it came over the management bus or through the DOE mailbox (R388). -/
structure SpdmParam where
  bus : Bool
  bytes : List Byte
  deriving DecidableEq, Repr, Inhabited

/-- COMMIT of a checkpoint: its number, and the modules whose part has no mirror (R419, R421). -/
structure CkCommit where
  n : BitVec 32
  nomir : BitVec 4
  deriving DecidableEq, Repr, Inhabited

/-- A request that arrives over a hawser link for this module's fabric addresses (R414). -/
structure FabricReq where
  /-- the module whose addresses are named -/
  target : Nat
  off : Nat
  /-- 0 read, 1 write, 2 atomic -/
  kind : Nat
  /-- function of an atomic: 0 to 7 as F of amo, 8 swap, 9 compare-and-swap, 10 the FP32 sum -/
  func : Nat
  n : Nat
  data : Word
  /-- the value that a compare-and-swap expects -/
  exp : Word
  deriving DecidableEq, Repr, Inhabited

end Sys2Proof
end

