-- ==== Sys2Proof/Syntax.lean ====
section
/-! DEFINITION. Every operation and event of spec/opcode_table.json, one constructor per row.
A slot operation carries the raw fields of its 32-bit slot word (R167, R168); the long immediate, XORD and XSCOPE belong to
the bundle (R165, R166) and are read from the state. A routine word carries the fields of R235. An event carries who it
concerns and what arrives from outside. -/

namespace Sys2Proof

/-- One row of the table of operations and events. -/
inductive Instr where
  /-- NOP (R167). Slot operation with no effect; a nop word has bits [24:0] all zero. -/
  | nop
  /-- ADD (R178). s[D] := s[A] + s[B] modulo 2^64. -/
  | add (g : BitVec 4) (d : BitVec 6) (a : BitVec 6) (b : BitVec 6)
  /-- SUB (R178). s[D] := s[A] - s[B] modulo 2^64. -/
  | sub (g : BitVec 4) (d : BitVec 6) (a : BitVec 6) (b : BitVec 6)
  /-- AND (R178). s[D] := s[A] and s[B]. -/
  | and (g : BitVec 4) (d : BitVec 6) (a : BitVec 6) (b : BitVec 6)
  /-- OR (R178). s[D] := s[A] or s[B]. -/
  | or (g : BitVec 4) (d : BitVec 6) (a : BitVec 6) (b : BitVec 6)
  /-- XOR (R178). s[D] := s[A] xor s[B]. -/
  | xor (g : BitVec 4) (d : BitVec 6) (a : BitVec 6) (b : BitVec 6)
  /-- ANDN (R178). s[D] := s[A] and not s[B]. -/
  | andn (g : BitVec 4) (d : BitVec 6) (a : BitVec 6) (b : BitVec 6)
  /-- MIN (R178). s[D] := signed minimum of s[A] and s[B]. -/
  | min (g : BitVec 4) (d : BitVec 6) (a : BitVec 6) (b : BitVec 6)
  /-- MAX (R178). s[D] := signed maximum of s[A] and s[B]. -/
  | max (g : BitVec 4) (d : BitVec 6) (a : BitVec 6) (b : BitVec 6)
  /-- MINU (R178). s[D] := unsigned minimum of s[A] and s[B]. -/
  | minu (g : BitVec 4) (d : BitVec 6) (a : BitVec 6) (b : BitVec 6)
  /-- MAXU (R178). s[D] := unsigned maximum of s[A] and s[B]. -/
  | maxu (g : BitVec 4) (d : BitVec 6) (a : BitVec 6) (b : BitVec 6)
  /-- MUL (R178). s[D] := low 64 bits of s[A] x s[B]. -/
  | mul (g : BitVec 4) (d : BitVec 6) (a : BitVec 6) (b : BitVec 6)
  /-- MULH (R178). s[D] := high 64 bits of the signed product. -/
  | mulh (g : BitVec 4) (d : BitVec 6) (a : BitVec 6) (b : BitVec 6)
  /-- MULHU (R178). s[D] := high 64 bits of the unsigned product. -/
  | mulhu (g : BitVec 4) (d : BitVec 6) (a : BitVec 6) (b : BitVec 6)
  /-- SLL (R178). s[D] := s[A] shifted left by Bits(s[B],5,0). -/
  | sll (g : BitVec 4) (d : BitVec 6) (a : BitVec 6) (b : BitVec 6)
  /-- SRL (R178). s[D] := s[A] shifted right logically by Bits(s[B],5,0). -/
  | srl (g : BitVec 4) (d : BitVec 6) (a : BitVec 6) (b : BitVec 6)
  /-- SRA (R178). s[D] := s[A] shifted right arithmetically by Bits(s[B],5,0). -/
  | sra (g : BitVec 4) (d : BitVec 6) (a : BitVec 6) (b : BitVec 6)
  /-- ADDI (R179). s[D] := s[A] + sign-extended 9-bit immediate or long immediate. -/
  | addi (g : BitVec 4) (d : BitVec 6) (a : BitVec 6) (i : BitVec 9)
  /-- ANDI (R179). s[D] := s[A] and immediate. -/
  | andi (g : BitVec 4) (d : BitVec 6) (a : BitVec 6) (i : BitVec 9)
  /-- ORI (R179). s[D] := s[A] or immediate. -/
  | ori (g : BitVec 4) (d : BitVec 6) (a : BitVec 6) (i : BitVec 9)
  /-- XORI (R179). s[D] := s[A] xor immediate. -/
  | xori (g : BitVec 4) (d : BitVec 6) (a : BitVec 6) (i : BitVec 9)
  /-- SLLI (R179). s[D] := s[A] shifted left by a 6-bit immediate amount. -/
  | slli (g : BitVec 4) (d : BitVec 6) (a : BitVec 6) (n : BitVec 6)
  /-- SRLI (R179). s[D] := s[A] shifted right logically by a 6-bit immediate amount. -/
  | srli (g : BitVec 4) (d : BitVec 6) (a : BitVec 6) (n : BitVec 6)
  /-- SRAI (R179). s[D] := s[A] shifted right arithmetically by a 6-bit immediate amount. -/
  | srai (g : BitVec 4) (d : BitVec 6) (a : BitVec 6) (n : BitVec 6)
  /-- MULI (R179). s[D] := s[A] x immediate modulo 2^64. -/
  | muli (g : BitVec 4) (d : BitVec 6) (a : BitVec 6) (i : BitVec 9)
  /-- SEL (R183). s[D] := s[A] when bit 0 of short predicate pF is 1, else s[B]. -/
  | sel (g : BitVec 4) (d : BitVec 6) (a : BitVec 6) (b : BitVec 6) (p : BitVec 3)
  /-- CMP_EQ (R184). Writes all ones to pD when s[A] = s[B], else 0. -/
  | cmpEq (g : BitVec 4) (p : BitVec 7) (a : BitVec 6) (b : BitVec 6)
  /-- CMP_NE (R184). Writes all ones to pD when s[A] differs from s[B], else 0. -/
  | cmpNe (g : BitVec 4) (p : BitVec 7) (a : BitVec 6) (b : BitVec 6)
  /-- CMP_LT (R184). Writes all ones to pD when s[A] < s[B] signed, else 0. -/
  | cmpLt (g : BitVec 4) (p : BitVec 7) (a : BitVec 6) (b : BitVec 6)
  /-- CMP_LE (R184). Writes all ones to pD when s[A] <= s[B] signed, else 0. -/
  | cmpLe (g : BitVec 4) (p : BitVec 7) (a : BitVec 6) (b : BitVec 6)
  /-- CMP_LTU (R184). Writes all ones to pD when s[A] < s[B] unsigned, else 0. -/
  | cmpLtu (g : BitVec 4) (p : BitVec 7) (a : BitVec 6) (b : BitVec 6)
  /-- CMP_LEU (R184). Writes all ones to pD when s[A] <= s[B] unsigned, else 0. -/
  | cmpLeu (g : BitVec 4) (p : BitVec 7) (a : BitVec 6) (b : BitVec 6)
  /-- CMP_TST (R184). Writes all ones to pD when s[A] and s[B] is non-zero, else 0. -/
  | cmpTst (g : BitVec 4) (p : BitVec 7) (a : BitVec 6) (b : BitVec 6)
  /-- CMP_NTST (R184). Writes all ones to pD when s[A] and s[B] is zero, else 0. -/
  | cmpNtst (g : BitVec 4) (p : BitVec 7) (a : BitVec 6) (b : BitVec 6)
  /-- CMPI_EQ (R184). Compares s[A] for equality with a 6-bit signed immediate into pD. -/
  | cmpiEq (g : BitVec 4) (p : BitVec 7) (a : BitVec 6) (i : BitVec 6)
  /-- CMPI_NE (R184). Compares s[A] for inequality with a 6-bit signed immediate into pD. -/
  | cmpiNe (g : BitVec 4) (p : BitVec 7) (a : BitVec 6) (i : BitVec 6)
  /-- CMPI_LT (R184). Signed less-than compare of s[A] with an immediate into pD. -/
  | cmpiLt (g : BitVec 4) (p : BitVec 7) (a : BitVec 6) (i : BitVec 6)
  /-- CMPI_LE (R184). Signed less-or-equal compare of s[A] with an immediate into pD. -/
  | cmpiLe (g : BitVec 4) (p : BitVec 7) (a : BitVec 6) (i : BitVec 6)
  /-- PAND (R185). P(PD) := P(PA) and P(PB). -/
  | pand (g : BitVec 4) (d : BitVec 7) (a : BitVec 7) (b : BitVec 7)
  /-- POR (R185). P(PD) := P(PA) or P(PB). -/
  | por (g : BitVec 4) (d : BitVec 7) (a : BitVec 7) (b : BitVec 7)
  /-- PXOR (R185). P(PD) := P(PA) xor P(PB). -/
  | pxor (g : BitVec 4) (d : BitVec 7) (a : BitVec 7) (b : BitVec 7)
  /-- PANDN (R185). P(PD) := P(PA) and not P(PB). -/
  | pandn (g : BitVec 4) (d : BitVec 7) (a : BitVec 7) (b : BitVec 7)
  /-- PSET (R186). P(PD) := low 32 bits of s[A]. -/
  | pset (g : BitVec 4) (p : BitVec 7) (a : BitVec 6)
  /-- PGET (R186). s[A] := zero-extended predicate P(PD). -/
  | pget (g : BitVec 4) (p : BitVec 7) (a : BitVec 6)
  /-- PCNT (R186). s[A] := number of bits set in P(PD). -/
  | pcnt (g : BitVec 4) (p : BitVec 7) (a : BitVec 6)
  /-- PFIRST (R186). s[A] := index of the lowest set bit of P(PD), or 32. -/
  | pfirst (g : BitVec 4) (p : BitVec 7) (a : BitVec 6)
  /-- SETB (R187). Writes an absolute bundle index into b[BD]. -/
  | setb (g : BitVec 4) (b : BitVec 3) (t : BitVec 13)
  /-- SETB_REG (R187). Writes Bits(s[A],12,0) into b[BD]. -/
  | setbReg (g : BitVec 4) (b : BitVec 3) (s : BitVec 6)
  /-- CALL (R189). Lowers s4 by the frame with a spill check, writes the link and branches to b[BD]. -/
  | call (g : BitVec 4) (b : BitVec 3) (f : BitVec 7) (l : BitVec 6)
  /-- RET (R190). Raises s4 by the frame and branches to the link in s[L]. -/
  | ret (g : BitVec 4) (f : BitVec 7) (l : BitVec 6)
  /-- LP0 (R193). Closes a counted loop on lc0, decrementing and branching while lc0 > 1. -/
  | lp0 (g : BitVec 4) (b : BitVec 3)
  /-- LP1 (R193). Closes a counted loop on lc1, decrementing and branching while lc1 > 1. -/
  | lp1 (g : BitVec 4) (b : BitVec 3)
  /-- LPE (R194). Closes a software-pipelined loop: counts lc0 and ec, rotates VRB and PRB and writes the stage predicate. -/
  | lpe (g : BitVec 4) (b : BitVec 3)
  /-- LSET (R192). Writes lc0, lc1 or ec from an unsigned immediate. -/
  | lset (g : BitVec 4) (c : BitVec 2) (i : BitVec 18)
  /-- LSET_REG (R192). Writes lc0, lc1 or ec from a scalar register, narrowed. -/
  | lsetReg (g : BitVec 4) (c : BitVec 2) (s : BitVec 6)
  /-- ROT_STEP (R195). Steps both rotation bases down by one without writing a predicate. -/
  | rotStep (g : BitVec 4)
  /-- ROT_SETV (R195). Writes VRB from an immediate. -/
  | rotSetv (g : BitVec 4) (i : BitVec 18)
  /-- ROT_SETV_REG (R195). Writes VRB from Bits(s[A],4,0). -/
  | rotSetvReg (g : BitVec 4) (s : BitVec 6)
  /-- ROT_SETP (R195). Writes PRB from an immediate. -/
  | rotSetp (g : BitVec 4) (i : BitVec 18)
  /-- ROT_SETP_REG (R195). Writes PRB from Bits(s[A],5,0). -/
  | rotSetpReg (g : BitVec 4) (s : BitVec 6)
  /-- MFS (R196). s[D] := zero-extended special register SR. -/
  | mfs (g : BitVec 4) (d : BitVec 6) (r : BitVec 8)
  /-- MTS (R197). Writes special register SR from s[D], field by field. -/
  | mts (g : BitVec 4) (d : BitVec 6) (r : BitVec 8)
  /-- ADDS (R178). s[D] := s[A] + (s[B] << k). -/
  | adds (g : BitVec 4) (d : BitVec 6) (a : BitVec 6) (b : BitVec 6) (k : BitVec 3)
  /-- CLZ (R181). s[D] := count of leading zero bits of s[A]. -/
  | clz (g : BitVec 4) (d : BitVec 6) (a : BitVec 6)
  /-- CTZ (R181). s[D] := count of trailing zero bits of s[A]. -/
  | ctz (g : BitVec 4) (d : BitVec 6) (a : BitVec 6)
  /-- POPC (R181). s[D] := number of bits set in s[A]. -/
  | popc (g : BitVec 4) (d : BitVec 6) (a : BitVec 6)
  /-- REV8 (R181). s[D] := bytes of s[A] in reverse order. -/
  | rev8 (g : BitVec 4) (d : BitVec 6) (a : BitVec 6)
  /-- SEXT_B (R181). s[D] := sign extension of the low 8 bits of s[A]. -/
  | sextB (g : BitVec 4) (d : BitVec 6) (a : BitVec 6)
  /-- SEXT_H (R181). s[D] := sign extension of the low 16 bits of s[A]. -/
  | sextH (g : BitVec 4) (d : BitVec 6) (a : BitVec 6)
  /-- SEXT_W (R181). s[D] := sign extension of the low 32 bits of s[A]. -/
  | sextW (g : BitVec 4) (d : BitVec 6) (a : BitVec 6)
  /-- ZEXT_B (R181). s[D] := zero extension of the low 8 bits of s[A]. -/
  | zextB (g : BitVec 4) (d : BitVec 6) (a : BitVec 6)
  /-- ZEXT_H (R181). s[D] := zero extension of the low 16 bits of s[A]. -/
  | zextH (g : BitVec 4) (d : BitVec 6) (a : BitVec 6)
  /-- ZEXT_W (R181). s[D] := zero extension of the low 32 bits of s[A]. -/
  | zextW (g : BitVec 4) (d : BitVec 6) (a : BitVec 6)
  /-- MOVI (R182). s[D] := sign-extended 15-bit immediate or the 64-bit long immediate. -/
  | movi (g : BitVec 4) (d : BitVec 6) (i : BitVec 15)
  /-- DIV (R180). Signed division rounded towards zero, landing after 24 cycles. -/
  | div (g : BitVec 4) (d : BitVec 6) (a : BitVec 6) (b : BitVec 6)
  /-- DIVU (R180). Unsigned division rounded down. -/
  | divu (g : BitVec 4) (d : BitVec 6) (a : BitVec 6) (b : BitVec 6)
  /-- REM (R180). Signed remainder with the sign of the dividend. -/
  | rem (g : BitVec 4) (d : BitVec 6) (a : BitVec 6) (b : BitVec 6)
  /-- REMU (R180). Unsigned remainder. -/
  | remu (g : BitVec 4) (d : BitVec 6) (a : BitVec 6) (b : BitVec 6)
  /-- VADD (R206). Element-wise wrapping integer add. -/
  | vadd (g : BitVec 4) (d : BitVec 6) (a : BitVec 6) (b : BitVec 6) (t : BitVec 3)
  /-- VSUB (R206). Element-wise wrapping integer subtract. -/
  | vsub (g : BitVec 4) (d : BitVec 6) (a : BitVec 6) (b : BitVec 6) (t : BitVec 3)
  /-- VMUL (R206). Element-wise wrapping integer multiply. -/
  | vmul (g : BitVec 4) (d : BitVec 6) (a : BitVec 6) (b : BitVec 6) (t : BitVec 3)
  /-- VADDS (R206). Element-wise saturating integer add, setting SAT on clamp. -/
  | vadds (g : BitVec 4) (d : BitVec 6) (a : BitVec 6) (b : BitVec 6) (t : BitVec 3)
  /-- VSUBS (R206). Element-wise saturating integer subtract. -/
  | vsubs (g : BitVec 4) (d : BitVec 6) (a : BitVec 6) (b : BitVec 6) (t : BitVec 3)
  /-- VMIN (R206). Element-wise integer minimum. -/
  | vmin (g : BitVec 4) (d : BitVec 6) (a : BitVec 6) (b : BitVec 6) (t : BitVec 3)
  /-- VMAX (R206). Element-wise integer maximum. -/
  | vmax (g : BitVec 4) (d : BitVec 6) (a : BitVec 6) (b : BitVec 6) (t : BitVec 3)
  /-- VAND (R207). Bitwise and of two vectors. -/
  | vand (g : BitVec 4) (d : BitVec 6) (a : BitVec 6) (b : BitVec 6)
  /-- VOR (R207). Bitwise or of two vectors. -/
  | vor (g : BitVec 4) (d : BitVec 6) (a : BitVec 6) (b : BitVec 6)
  /-- VXOR (R207). Bitwise xor of two vectors. -/
  | vxor (g : BitVec 4) (d : BitVec 6) (a : BitVec 6) (b : BitVec 6)
  /-- VANDN (R207). Bitwise and-not of two vectors. -/
  | vandn (g : BitVec 4) (d : BitVec 6) (a : BitVec 6) (b : BitVec 6)
  /-- VNOT (R207). Bitwise not of a vector. -/
  | vnot (g : BitVec 4) (d : BitVec 6) (a : BitVec 6)
  /-- VSLL (R208). Per-lane left shift by the count in the matching lane of vB. -/
  | vsll (g : BitVec 4) (d : BitVec 6) (a : BitVec 6) (b : BitVec 6)
  /-- VSRL (R208). Per-lane logical right shift by lane count. -/
  | vsrl (g : BitVec 4) (d : BitVec 6) (a : BitVec 6) (b : BitVec 6)
  /-- VSRA (R208). Per-lane arithmetic right shift by lane count. -/
  | vsra (g : BitVec 4) (d : BitVec 6) (a : BitVec 6) (b : BitVec 6)
  /-- VSLLS (R208). Left shift of every lane by the count in s[VB]. -/
  | vslls (g : BitVec 4) (d : BitVec 6) (a : BitVec 6) (s : BitVec 6)
  /-- VSRLS (R208). Logical right shift of every lane by the count in s[VB]. -/
  | vsrls (g : BitVec 4) (d : BitVec 6) (a : BitVec 6) (s : BitVec 6)
  /-- VSRAS (R208). Arithmetic right shift of every lane by the count in s[VB]. -/
  | vsras (g : BitVec 4) (d : BitVec 6) (a : BitVec 6) (s : BitVec 6)
  /-- VFADD (R209). Element-wise floating add rounded in RMODE. -/
  | vfadd (g : BitVec 4) (d : BitVec 6) (a : BitVec 6) (b : BitVec 6) (t : BitVec 3)
  /-- VFSUB (R209). Element-wise floating subtract. -/
  | vfsub (g : BitVec 4) (d : BitVec 6) (a : BitVec 6) (b : BitVec 6) (t : BitVec 3)
  /-- VFMUL (R209). Element-wise floating multiply. -/
  | vfmul (g : BitVec 4) (d : BitVec 6) (a : BitVec 6) (b : BitVec 6) (t : BitVec 3)
  /-- VFMIN (R211). Element-wise floating minimum in the rank order of R91. -/
  | vfmin (g : BitVec 4) (d : BitVec 6) (a : BitVec 6) (b : BitVec 6) (t : BitVec 3)
  /-- VFMA (R210). Fused multiply-add with vD as addend, one rounding. -/
  | vfma (g : BitVec 4) (d : BitVec 6) (a : BitVec 6) (b : BitVec 6) (t : BitVec 3)
  /-- VFMS (R210). Fused multiply-subtract with vD as subtrahend, one rounding. -/
  | vfms (g : BitVec 4) (d : BitVec 6) (a : BitVec 6) (b : BitVec 6) (t : BitVec 3)
  /-- VFMAX (R211). Element-wise floating maximum in the rank order of R91. -/
  | vfmax (g : BitVec 4) (d : BitVec 6) (a : BitVec 6) (b : BitVec 6) (t : BitVec 3)
  /-- VCVT_V0_V31 (R213). Converts elements of a source in v0 to v31 from SF to DF in CMODE. -/
  | vcvtV0V31 (g : BitVec 4) (d : BitVec 6) (a : BitVec 5) (f : BitVec 5) (s : BitVec 5)
  /-- VCVT_V32_V63 (R213). Converts elements of a source in v32 to v63 from SF to DF. -/
  | vcvtV32V63 (g : BitVec 4) (d : BitVec 6) (a : BitVec 5) (f : BitVec 5) (s : BitVec 5)
  /-- VCVT_SAT_V0_V31 (R213). Saturating conversion of a source in v0 to v31. -/
  | vcvtSatV0V31 (g : BitVec 4) (d : BitVec 6) (a : BitVec 5) (f : BitVec 5) (s : BitVec 5)
  /-- VCVT_SAT_V32_V63 (R213). Saturating conversion of a source in v32 to v63. -/
  | vcvtSatV32V63 (g : BitVec 4) (d : BitVec 6) (a : BitVec 5) (f : BitVec 5) (s : BitVec 5)
  /-- VCMP_EQ (R214). Per-lane signed equality compare into predicate pD. -/
  | vcmpEq (g : BitVec 4) (p : BitVec 7) (a : BitVec 6) (b : BitVec 6)
  /-- VCMP_NE (R214). Per-lane inequality compare into pD. -/
  | vcmpNe (g : BitVec 4) (p : BitVec 7) (a : BitVec 6) (b : BitVec 6)
  /-- VCMP_LT (R214). Per-lane signed less-than compare into pD. -/
  | vcmpLt (g : BitVec 4) (p : BitVec 7) (a : BitVec 6) (b : BitVec 6)
  /-- VCMP_LE (R214). Per-lane signed less-or-equal compare into pD. -/
  | vcmpLe (g : BitVec 4) (p : BitVec 7) (a : BitVec 6) (b : BitVec 6)
  /-- VCMPU_LTU (R214). Per-lane unsigned less-than compare into pD. -/
  | vcmpuLtu (g : BitVec 4) (p : BitVec 7) (a : BitVec 6) (b : BitVec 6)
  /-- VCMPU_LEU (R214). Per-lane unsigned less-or-equal compare into pD. -/
  | vcmpuLeu (g : BitVec 4) (p : BitVec 7) (a : BitVec 6) (b : BitVec 6)
  /-- VCMPU_TST (R214). Per-lane test of a and b non-zero into pD. -/
  | vcmpuTst (g : BitVec 4) (p : BitVec 7) (a : BitVec 6) (b : BitVec 6)
  /-- VCMPU_NTST (R214). Per-lane test of a and b zero into pD. -/
  | vcmpuNtst (g : BitVec 4) (p : BitVec 7) (a : BitVec 6) (b : BitVec 6)
  /-- VFCMP_EQ (R214). Per-lane FP32 equality compare into pD. -/
  | vfcmpEq (g : BitVec 4) (p : BitVec 7) (a : BitVec 6) (b : BitVec 6)
  /-- VFCMP_NE (R214). Per-lane FP32 inequality compare into pD. -/
  | vfcmpNe (g : BitVec 4) (p : BitVec 7) (a : BitVec 6) (b : BitVec 6)
  /-- VFCMP_LT (R214). Per-lane FP32 less-than compare into pD. -/
  | vfcmpLt (g : BitVec 4) (p : BitVec 7) (a : BitVec 6) (b : BitVec 6)
  /-- VFCMP_LE (R214). Per-lane FP32 less-or-equal compare into pD. -/
  | vfcmpLe (g : BitVec 4) (p : BitVec 7) (a : BitVec 6) (b : BitVec 6)
  /-- VSEL (R215). Per-lane select between vA and vB by short predicate pT. -/
  | vsel (g : BitVec 4) (d : BitVec 6) (a : BitVec 6) (b : BitVec 6) (p : BitVec 3)
  /-- VPERM (R216). Lane permutation of vA indexed by lanes of vB. -/
  | vperm (g : BitVec 4) (d : BitVec 6) (a : BitVec 6) (b : BitVec 6)
  /-- VROTL (R216). Rotates lanes of vA up by the count in s[VB]. -/
  | vrotl (g : BitVec 4) (d : BitVec 6) (a : BitVec 6) (s : BitVec 6)
  /-- VBCL (R216). Broadcasts lane n of vA, with n from s[VB]. -/
  | vbcl (g : BitVec 4) (d : BitVec 6) (a : BitVec 6) (s : BitVec 6)
  /-- VZIPL (R216). Interleaves the low halves of vA and vB. -/
  | vzipl (g : BitVec 4) (d : BitVec 6) (a : BitVec 6) (b : BitVec 6)
  /-- VZIPH (R216). Interleaves the high halves of vA and vB. -/
  | vziph (g : BitVec 4) (d : BitVec 6) (a : BitVec 6) (b : BitVec 6)
  /-- VUZPL (R216). De-interleaves the even lanes of vA and vB. -/
  | vuzpl (g : BitVec 4) (d : BitVec 6) (a : BitVec 6) (b : BitVec 6)
  /-- VUZPH (R216). De-interleaves the odd lanes of vA and vB. -/
  | vuzph (g : BitVec 4) (d : BitVec 6) (a : BitVec 6) (b : BitVec 6)
  /-- VRED_FSUM (R218). FP32 pairwise-tree sum of enabled lanes into lane 0. -/
  | vredFsum (g : BitVec 4) (d : BitVec 6) (a : BitVec 6)
  /-- VRED_ISUM (R218). INT32 wrapping sum of enabled lanes into lane 0. -/
  | vredIsum (g : BitVec 4) (d : BitVec 6) (a : BitVec 6)
  /-- VRED_FMAX (R218). FP32 maximum of enabled lanes into lane 0. -/
  | vredFmax (g : BitVec 4) (d : BitVec 6) (a : BitVec 6)
  /-- VRED_FMIN (R218). FP32 minimum of enabled lanes into lane 0. -/
  | vredFmin (g : BitVec 4) (d : BitVec 6) (a : BitVec 6)
  /-- VRED_IMAX (R218). Signed INT32 maximum of enabled lanes into lane 0. -/
  | vredImax (g : BitVec 4) (d : BitVec 6) (a : BitVec 6)
  /-- VRED_IMIN (R218). Signed INT32 minimum of enabled lanes into lane 0. -/
  | vredImin (g : BitVec 4) (d : BitVec 6) (a : BitVec 6)
  /-- VRED_AMAX (R218). Index-carrying FP32 maximum: value into lane 0, index into lane 1. -/
  | vredAmax (g : BitVec 4) (d : BitVec 6) (a : BitVec 6)
  /-- VTR_LOG2 (R219). Correctly rounded log2 of each element. -/
  | vtrLog2 (g : BitVec 4) (d : BitVec 6) (a : BitVec 6) (m : BitVec 5)
  /-- VTR_EXP2 (R219). Correctly rounded exp2 of each element. -/
  | vtrExp2 (g : BitVec 4) (d : BitVec 6) (a : BitVec 6) (m : BitVec 5)
  /-- VTR_RCP (R219). Correctly rounded reciprocal of each element. -/
  | vtrRcp (g : BitVec 4) (d : BitVec 6) (a : BitVec 6) (m : BitVec 5)
  /-- VTR_RSQRT (R219). Correctly rounded reciprocal square root of each element. -/
  | vtrRsqrt (g : BitVec 4) (d : BitVec 6) (a : BitVec 6) (m : BitVec 5)
  /-- VTR_SIG (R219). Correctly rounded sigmoid of each element. -/
  | vtrSig (g : BitVec 4) (d : BitVec 6) (a : BitVec 6) (m : BitVec 5)
  /-- VTR_TANH (R219). Correctly rounded tanh of each element. -/
  | vtrTanh (g : BitVec 4) (d : BitVec 6) (a : BitVec 6) (m : BitVec 5)
  /-- VHASH (R220). Writes vhash(seed, counter, lane) into each enabled lane. -/
  | vhash (g : BitVec 4) (d : BitVec 6) (a : BitVec 6) (b : BitVec 6)
  /-- VACC (R221). Variable-latency read of 32 FP32 elements of accumulator row ROW into vD. -/
  | vacc (g : BitVec 4) (d : BitVec 6) (c : BitVec 3) (r : BitVec 5) (k : BitVec 3)
  /-- VACC_LC (R221). Accumulator row read with row (ROW + lc0) mod 32. -/
  | vaccLc (g : BitVec 4) (d : BitVec 6) (c : BitVec 3) (r : BitVec 5) (k : BitVec 3)
  /-- VBC (R217). Broadcasts the low 32 bits of s[VA] to every enabled lane. -/
  | vbc (g : BitVec 4) (d : BitVec 6) (a : BitVec 6)
  /-- VGET (R217). s[D] := zero-extended lane s[VB] of vA. -/
  | vget (g : BitVec 4) (d : BitVec 6) (a : BitVec 6) (b : BitVec 6)
  /-- VPUT (R217). Writes the low 32 bits of s[VA] into lane s[VB] of vD. -/
  | vput (g : BitVec 4) (d : BitVec 6) (a : BitVec 6) (b : BitVec 6)
  /-- VIOTA (R217). Lane i := s[VA] + i. -/
  | viota (g : BitVec 4) (d : BitVec 6) (a : BitVec 6)
  /-- MCALL (R240). Pushes a routine call with base tile, fe from lc1 and a copy of m0-m7, or traps MTX ENTRY. -/
  | mcall (g : BitVec 4) (e : BitVec 6) (c : BitVec 3)
  /-- MWAIT (R241). Stalls while QCNT > 0, then returns MSTAT and clears its bits [32:0]. -/
  | mwait (g : BitVec 4) (d : BitVec 6)
  /-- MPAR (R240). m[MD] := s[A]. -/
  | mpar (g : BitVec 4) (m : BitVec 3) (a : BitVec 6)
  /-- MPARI (R240). m[MD] := sign-extended 18-bit immediate or long immediate. -/
  | mpari (g : BitVec 4) (m : BitVec 3) (i : BitVec 18)
  /-- MFT (R240). Pushes a command that sets a format-table entry to (AF, BF). -/
  | mft (g : BitVec 4) (f : BitVec 4) (a : BitVec 5) (b : BitVec 5)
  /-- MZERO (R240). Pushes a command that zeroes the tiles in MASK. -/
  | mzero (g : BitVec 4) (k : BitVec 8)
  /-- MMOV_ST (R244). Pushes a move of accumulator rows to the scratchpad in format OF. -/
  | mmovSt (g : BitVec 4) (c : BitVec 3) (a : BitVec 6) (o : BitVec 5)
  /-- MMOV_ST_SAT (R244). Pushes a saturating move of accumulator rows to the scratchpad. -/
  | mmovStSat (g : BitVec 4) (c : BitVec 3) (a : BitVec 6) (o : BitVec 5)
  /-- MMOV_LD (R244). Pushes a move of scratchpad rows into an accumulator tile. -/
  | mmovLd (g : BitVec 4) (c : BitVec 3) (a : BitVec 6) (o : BitVec 5)
  /-- MRSW (R243). Writes routine-store word IDX and uninstalls entries whose span holds it. -/
  | mrsw (g : BitVec 4) (i : BitVec 9) (a : BitVec 6)
  /-- MRSE (R243). Validates the span at IDX and installs entry ENTRY, or traps MTX INSTALL. -/
  | mrse (g : BitVec 4) (e : BitVec 6) (i : BitVec 9)
  /-- MSTAT (R240). s[D] := MSTAT without clearing it. -/
  | mstat (g : BitVec 4) (d : BitVec 6)
  /-- MSTAT_CNT (R240). s[D] := the context's completed-call count. -/
  | mstatCnt (g : BitVec 4) (d : BitVec 6)
  /-- LD_B (R250). Loads a zero-extended byte from LOCAL space. -/
  | ldB (g : BitVec 4) (d : BitVec 6) (a : BitVec 6) (k : BitVec 6)
  /-- LD_H (R250). Loads a zero-extended halfword from LOCAL space. -/
  | ldH (g : BitVec 4) (d : BitVec 6) (a : BitVec 6) (k : BitVec 6)
  /-- LD_W (R250). Loads a zero-extended word from LOCAL space. -/
  | ldW (g : BitVec 4) (d : BitVec 6) (a : BitVec 6) (k : BitVec 6)
  /-- LD_D (R250). Loads a doubleword from LOCAL space. -/
  | ldD (g : BitVec 4) (d : BitVec 6) (a : BitVec 6) (k : BitVec 6)
  /-- LD_BS (R250). Loads a sign-extended byte from LOCAL space. -/
  | ldBs (g : BitVec 4) (d : BitVec 6) (a : BitVec 6) (k : BitVec 6)
  /-- LD_HS (R250). Loads a sign-extended halfword from LOCAL space. -/
  | ldHs (g : BitVec 4) (d : BitVec 6) (a : BitVec 6) (k : BitVec 6)
  /-- LD_WS (R250). Loads a sign-extended word from LOCAL space. -/
  | ldWs (g : BitVec 4) (d : BitVec 6) (a : BitVec 6) (k : BitVec 6)
  /-- LDV_B (R250). Loads a zero-extended byte from VAULT space. -/
  | ldvB (g : BitVec 4) (d : BitVec 6) (a : BitVec 6) (k : BitVec 6)
  /-- LDV_H (R250). Loads a zero-extended halfword from VAULT space. -/
  | ldvH (g : BitVec 4) (d : BitVec 6) (a : BitVec 6) (k : BitVec 6)
  /-- LDV_W (R250). Loads a zero-extended word from VAULT space. -/
  | ldvW (g : BitVec 4) (d : BitVec 6) (a : BitVec 6) (k : BitVec 6)
  /-- LDV_D (R250). Loads a doubleword from VAULT space. -/
  | ldvD (g : BitVec 4) (d : BitVec 6) (a : BitVec 6) (k : BitVec 6)
  /-- LDV_BS (R250). Loads a sign-extended byte from VAULT space. -/
  | ldvBs (g : BitVec 4) (d : BitVec 6) (a : BitVec 6) (k : BitVec 6)
  /-- LDV_HS (R250). Loads a sign-extended halfword from VAULT space. -/
  | ldvHs (g : BitVec 4) (d : BitVec 6) (a : BitVec 6) (k : BitVec 6)
  /-- LDV_WS (R250). Loads a sign-extended word from VAULT space. -/
  | ldvWs (g : BitVec 4) (d : BitVec 6) (a : BitVec 6) (k : BitVec 6)
  /-- ST_B (R250). Stores a byte to LOCAL space at s[A] + K. -/
  | stB (g : BitVec 4) (d : BitVec 6) (a : BitVec 6) (k : BitVec 6)
  /-- ST_H (R250). Stores a halfword to LOCAL space. -/
  | stH (g : BitVec 4) (d : BitVec 6) (a : BitVec 6) (k : BitVec 6)
  /-- ST_W (R250). Stores a word to LOCAL space. -/
  | stW (g : BitVec 4) (d : BitVec 6) (a : BitVec 6) (k : BitVec 6)
  /-- ST_D (R250). Stores a doubleword to LOCAL space. -/
  | stD (g : BitVec 4) (d : BitVec 6) (a : BitVec 6) (k : BitVec 6)
  /-- STV_B (R250). Stores a byte to VAULT space. -/
  | stvB (g : BitVec 4) (d : BitVec 6) (a : BitVec 6) (k : BitVec 6)
  /-- STV_H (R250). Stores a halfword to VAULT space. -/
  | stvH (g : BitVec 4) (d : BitVec 6) (a : BitVec 6) (k : BitVec 6)
  /-- STV_W (R250). Stores a word to VAULT space. -/
  | stvW (g : BitVec 4) (d : BitVec 6) (a : BitVec 6) (k : BitVec 6)
  /-- STV_D (R250). Stores a doubleword to VAULT space. -/
  | stvD (g : BitVec 4) (d : BitVec 6) (a : BitVec 6) (k : BitVec 6)
  /-- VLD_V (R251). Loads 32 consecutive words from LOCAL space into enabled lanes. -/
  | vldV (g : BitVec 4) (d : BitVec 6) (a : BitVec 6) (k : BitVec 6)
  /-- VLD_BC (R251). Loads one LOCAL word into every enabled lane. -/
  | vldBc (g : BitVec 4) (d : BitVec 6) (a : BitVec 6) (k : BitVec 6)
  /-- VLD_H (R251). Loads 16 LOCAL words into lanes 0-15 and zeroes lanes 16-31. -/
  | vldH (g : BitVec 4) (d : BitVec 6) (a : BitVec 6) (k : BitVec 6)
  /-- VLDV_V (R251). Loads 32 consecutive words from VAULT space. -/
  | vldvV (g : BitVec 4) (d : BitVec 6) (a : BitVec 6) (k : BitVec 6)
  /-- VLDV_BC (R251). Loads one VAULT word into every enabled lane. -/
  | vldvBc (g : BitVec 4) (d : BitVec 6) (a : BitVec 6) (k : BitVec 6)
  /-- VLDV_H (R251). Loads 16 VAULT words into lanes 0-15. -/
  | vldvH (g : BitVec 4) (d : BitVec 6) (a : BitVec 6) (k : BitVec 6)
  /-- VST_V (R251). Stores enabled lanes to 32 consecutive LOCAL words. -/
  | vstV (g : BitVec 4) (d : BitVec 6) (a : BitVec 6) (k : BitVec 6)
  /-- VST_H (R251). Stores enabled lanes 0-15 to LOCAL space. -/
  | vstH (g : BitVec 4) (d : BitVec 6) (a : BitVec 6) (k : BitVec 6)
  /-- VSTV_V (R251). Stores enabled lanes to 32 consecutive VAULT words. -/
  | vstvV (g : BitVec 4) (d : BitVec 6) (a : BitVec 6) (k : BitVec 6)
  /-- VSTV_H (R251). Stores enabled lanes 0-15 to VAULT space. -/
  | vstvH (g : BitVec 4) (d : BitVec 6) (a : BitVec 6) (k : BitVec 6)
  /-- BGT_MAP (R253). Maps bight entry n from a 32-byte descriptor in the own window. -/
  | bgtMap (g : BitVec 4) (n : BitVec 6) (a : BitVec 6)
  /-- BGT_UNMAP (R254). Captures and writes back dirty words, unmaps the range and frees the entry. -/
  | bgtUnmap (g : BitVec 4) (n : BitVec 6)
  /-- BGT_FLUSH (R254). Captures dirty words, clears DIRTY and starts their write-back. -/
  | bgtFlush (g : BitVec 4) (n : BitVec 6)
  /-- BGT_TOUCH (R255). Starts fills of the lines holding a range of elements. -/
  | bgtTouch (g : BitVec 4) (n : BitVec 6) (a : BitVec 6) (b : BitVec 6)
  /-- BGT_QUERY (R256). Returns the state word of bight entry n. -/
  | bgtQuery (g : BitVec 4) (n : BitVec 6) (a : BitVec 6)
  /-- CPY_G2S (R258). Pushes a global-to-window row copy command and returns its tag. -/
  | cpyG2s (g : BitVec 4) (d : BitVec 6) (a : BitVec 6) (e : BitVec 2)
  /-- CPY_S2G (R258). Pushes a window-to-global row copy command. -/
  | cpyS2g (g : BitVec 4) (d : BitVec 6) (a : BitVec 6) (e : BitVec 2)
  /-- CPY_S2S (R258). Pushes a window-to-window row copy command. -/
  | cpyS2s (g : BitVec 4) (d : BitVec 6) (a : BitVec 6) (e : BitVec 2)
  /-- CPY_G2G (R258). Pushes a global-to-global row copy command. -/
  | cpyG2g (g : BitVec 4) (d : BitVec 6) (a : BitVec 6) (e : BitVec 2)
  /-- CPY_GATH (R258). Pushes an indexed gather command. -/
  | cpyGath (g : BitVec 4) (d : BitVec 6) (a : BitVec 6) (e : BitVec 2)
  /-- CPY_SCAT (R258). Pushes an indexed scatter command. -/
  | cpyScat (g : BitVec 4) (d : BitVec 6) (a : BitVec 6) (e : BitVec 2)
  /-- CPY_MCAST (R258). Pushes a multicast command to the receivers of RMASK. -/
  | cpyMcast (g : BitVec 4) (d : BitVec 6) (a : BitVec 6) (e : BitVec 2)
  /-- CPY_TR (R258). Pushes a transposing copy command. -/
  | cpyTr (g : BitVec 4) (d : BitVec 6) (a : BitVec 6) (e : BitVec 2)
  /-- CQ_POP (R265). Stalls while empty, then pops the oldest completion word of an engine with acquire. -/
  | cqPop (g : BitVec 4) (d : BitVec 6) (e : BitVec 2)
  /-- CQ_PROG (R265). Returns PROG and STATE of the outstanding command with a given tag. -/
  | cqProg (g : BitVec 4) (d : BitVec 6) (a : BitVec 6) (e : BitVec 2)
  /-- CQ_CNT (R265). Returns counts of outstanding commands and waiting completions. -/
  | cqCnt (g : BitVec 4) (d : BitVec 6) (e : BitVec 2)
  /-- HY_START (R268). Starts the halyard at block offset s[A] in RUN. -/
  | hyStart (g : BitVec 4) (a : BitVec 6)
  /-- HY_STOP (R268). Requests a halyard stop: STOPPING, then IDLE when its commands end. -/
  | hyStop (g : BitVec 4)
  /-- HY_CRED (R268). Adds credits to CR, saturating. -/
  | hyCred (g : BitVec 4) (a : BitVec 6)
  /-- HY_BASE (R268). Sets HBASE for later pushes. -/
  | hyBase (g : BitVec 4) (a : BitVec 6)
  /-- HY_CLR (R268). Returns a FAULT halyard to IDLE. -/
  | hyClr (g : BitVec 4)
  /-- HY_POP (R268). Stalls while empty, then pops the halyard's oldest completion word. -/
  | hyPop (g : BitVec 4) (a : BitVec 6)
  /-- HY_STAT (R268). Returns HSTAT. -/
  | hyStat (g : BitVec 4) (a : BitVec 6)
  /-- HY_PROG (R268). Returns RIDX and BLK. -/
  | hyProg (g : BitVec 4) (a : BitVec 6)
  /-- HY_RDC (R268). Returns the credit count CR. -/
  | hyRdc (g : BitVec 4) (a : BitVec 6)
  /-- HY_DROP (R268). Discards every waiting halyard completion. -/
  | hyDrop (g : BitVec 4)
  /-- LSEND (R270). Waits for credit, then sends 128 bytes as the next flit of an owned (link, vc) pair. -/
  | lsend (g : BitVec 4) (l : BitVec 3) (v : BitVec 2) (a : BitVec 6)
  /-- LRECV (R270). Waits for a flit, writes it to the buffer and returns a credit. -/
  | lrecv (g : BitVec 4) (l : BitVec 3) (v : BitVec 2) (a : BitVec 6)
  /-- AMO_ADD_W (R278). Atomic 4-byte add returning the old value. -/
  | amoAddW (g : BitVec 4) (d : BitVec 6) (a : BitVec 6) (b : BitVec 6)
  /-- AMO_AND_W (R278). Atomic 4-byte and returning the old value. -/
  | amoAndW (g : BitVec 4) (d : BitVec 6) (a : BitVec 6) (b : BitVec 6)
  /-- AMO_OR_W (R278). Atomic 4-byte or returning the old value. -/
  | amoOrW (g : BitVec 4) (d : BitVec 6) (a : BitVec 6) (b : BitVec 6)
  /-- AMO_XOR_W (R278). Atomic 4-byte xor returning the old value. -/
  | amoXorW (g : BitVec 4) (d : BitVec 6) (a : BitVec 6) (b : BitVec 6)
  /-- AMO_MIN_W (R278). Atomic 4-byte signed minimum. -/
  | amoMinW (g : BitVec 4) (d : BitVec 6) (a : BitVec 6) (b : BitVec 6)
  /-- AMO_MAX_W (R278). Atomic 4-byte signed maximum. -/
  | amoMaxW (g : BitVec 4) (d : BitVec 6) (a : BitVec 6) (b : BitVec 6)
  /-- AMO_MINU_W (R278). Atomic 4-byte unsigned minimum. -/
  | amoMinuW (g : BitVec 4) (d : BitVec 6) (a : BitVec 6) (b : BitVec 6)
  /-- AMO_MAXU_W (R278). Atomic 4-byte unsigned maximum. -/
  | amoMaxuW (g : BitVec 4) (d : BitVec 6) (a : BitVec 6) (b : BitVec 6)
  /-- AMO_ADD_D (R278). Atomic 8-byte add returning the old value. -/
  | amoAddD (g : BitVec 4) (d : BitVec 6) (a : BitVec 6) (b : BitVec 6)
  /-- AMO_AND_D (R278). Atomic 8-byte and. -/
  | amoAndD (g : BitVec 4) (d : BitVec 6) (a : BitVec 6) (b : BitVec 6)
  /-- AMO_OR_D (R278). Atomic 8-byte or. -/
  | amoOrD (g : BitVec 4) (d : BitVec 6) (a : BitVec 6) (b : BitVec 6)
  /-- AMO_XOR_D (R278). Atomic 8-byte xor. -/
  | amoXorD (g : BitVec 4) (d : BitVec 6) (a : BitVec 6) (b : BitVec 6)
  /-- AMO_MIN_D (R278). Atomic 8-byte signed minimum. -/
  | amoMinD (g : BitVec 4) (d : BitVec 6) (a : BitVec 6) (b : BitVec 6)
  /-- AMO_MAX_D (R278). Atomic 8-byte signed maximum. -/
  | amoMaxD (g : BitVec 4) (d : BitVec 6) (a : BitVec 6) (b : BitVec 6)
  /-- AMO_MINU_D (R278). Atomic 8-byte unsigned minimum. -/
  | amoMinuD (g : BitVec 4) (d : BitVec 6) (a : BitVec 6) (b : BitVec 6)
  /-- AMO_MAXU_D (R278). Atomic 8-byte unsigned maximum. -/
  | amoMaxuD (g : BitVec 4) (d : BitVec 6) (a : BitVec 6) (b : BitVec 6)
  /-- AMOX_SWAP_W (R279). Atomic 4-byte swap. -/
  | amoxSwapW (g : BitVec 4) (d : BitVec 6) (a : BitVec 6) (b : BitVec 6)
  /-- AMOX_SWAP_D (R279). Atomic 8-byte swap. -/
  | amoxSwapD (g : BitVec 4) (d : BitVec 6) (a : BitVec 6) (b : BitVec 6)
  /-- AMOX_CAS_W (R279). Atomic 4-byte compare-and-swap with s[D] as expected value. -/
  | amoxCasW (g : BitVec 4) (d : BitVec 6) (a : BitVec 6) (b : BitVec 6)
  /-- AMOX_CAS_D (R279). Atomic 8-byte compare-and-swap. -/
  | amoxCasD (g : BitVec 4) (d : BitVec 6) (a : BitVec 6) (b : BitVec 6)
  /-- AMOX_FADD_F32 (R279). Atomic FP32 add in RNE returning the old value. -/
  | amoxFaddF32 (g : BitVec 4) (d : BitVec 6) (a : BitVec 6) (b : BitVec 6)
  /-- RED_ADD_W (R280). Non-returning 4-byte add reduction at the home slice. -/
  | redAddW (g : BitVec 4) (a : BitVec 6) (b : BitVec 6)
  /-- RED_ADD_D (R280). Non-returning 8-byte add reduction. -/
  | redAddD (g : BitVec 4) (a : BitVec 6) (b : BitVec 6)
  /-- RED_MIN_W (R280). Non-returning 4-byte signed minimum. -/
  | redMinW (g : BitVec 4) (a : BitVec 6) (b : BitVec 6)
  /-- RED_MAX_W (R280). Non-returning 4-byte signed maximum. -/
  | redMaxW (g : BitVec 4) (a : BitVec 6) (b : BitVec 6)
  /-- RED_MINU_W (R280). Non-returning 4-byte unsigned minimum. -/
  | redMinuW (g : BitVec 4) (a : BitVec 6) (b : BitVec 6)
  /-- RED_MAXU_W (R280). Non-returning 4-byte unsigned maximum. -/
  | redMaxuW (g : BitVec 4) (a : BitVec 6) (b : BitVec 6)
  /-- RED_FADD_F32 (R280). Non-returning FP32 add reduction; flags discarded. -/
  | redFaddF32 (g : BitVec 4) (a : BitVec 6) (b : BitVec 6)
  /-- RED_OR_D (R280). Non-returning 8-byte or reduction. -/
  | redOrD (g : BitVec 4) (a : BitVec 6) (b : BitVec 6)
  /-- SC_LD_W (R281). Sequentially consistent 4-byte load on the order wheel. -/
  | scLdW (g : BitVec 4) (d : BitVec 6) (a : BitVec 6)
  /-- SC_LD_D (R281). Sequentially consistent 8-byte load. -/
  | scLdD (g : BitVec 4) (d : BitVec 6) (a : BitVec 6)
  /-- SC_ST_W (R281). Sequentially consistent 4-byte store. -/
  | scStW (g : BitVec 4) (a : BitVec 6) (b : BitVec 6)
  /-- SC_ST_D (R281). Sequentially consistent 8-byte store. -/
  | scStD (g : BitVec 4) (a : BitVec 6) (b : BitVec 6)
  /-- SC_SWAP_W (R281). Sequentially consistent 4-byte swap. -/
  | scSwapW (g : BitVec 4) (d : BitVec 6) (a : BitVec 6) (b : BitVec 6)
  /-- SC_SWAP_D (R281). Sequentially consistent 8-byte swap. -/
  | scSwapD (g : BitVec 4) (d : BitVec 6) (a : BitVec 6) (b : BitVec 6)
  /-- SC_ADD_D (R281). Sequentially consistent 8-byte add. -/
  | scAddD (g : BitVec 4) (d : BitVec 6) (a : BitVec 6) (b : BitVec 6)
  /-- SC_CAS_D (R281). Sequentially consistent 8-byte compare-and-swap. -/
  | scCasD (g : BitVec 4) (d : BitVec 6) (a : BitVec 6) (b : BitVec 6)
  /-- DRAIN_BRAID (R282). Drain at BRAID scope. -/
  | drainBraid (g : BitVec 4)
  /-- DRAIN_DIE (R282). Drain at DIE scope. -/
  | drainDie (g : BitVec 4)
  /-- DRAIN_DEV (R282). Drain at DEVICE scope. -/
  | drainDev (g : BitVec 4)
  /-- DRAIN_SYS (R282). Drain at SYSTEM scope. -/
  | drainSys (g : BitVec 4)
  /-- SPL_CALL (R290). Sends a splice call with operand O and buffer W, returning a response word. -/
  | splCall (g : BitVec 4) (d : BitVec 6) (a : BitVec 6) (b : BitVec 6)
  /-- SPL_CALLN (R290). Sends a non-returning splice call. -/
  | splCalln (g : BitVec 4) (d : BitVec 6) (a : BitVec 6) (b : BitVec 6)
  /-- SPL_INST (R291). Sends a routine body to the monitor for installation and returns the status. -/
  | splInst (g : BitVec 4) (d : BitVec 6) (a : BitVec 6)
  /-- SPL_RM (R291). Unmaps routine number n in every slice and returns the status. -/
  | splRm (g : BitVec 4) (d : BitVec 6)
  /-- KNOT_ADD (R285). Non-returning add to a knot of the task's rope. -/
  | knotAdd (g : BitVec 4) (a : BitVec 6) (b : BitVec 6)
  /-- KNOT_RD (R285). Reads a knot value. -/
  | knotRd (g : BitVec 4) (d : BitVec 6) (a : BitVec 6)
  /-- KNOT_MAX (R285). Raises a knot to the unsigned maximum, returning the old value. -/
  | knotMax (g : BitVec 4) (d : BitVec 6) (a : BitVec 6) (b : BitVec 6)
  /-- KNOT_SWAP (R285). Swaps a knot value, returning the old value. -/
  | knotSwap (g : BitVec 4) (d : BitVec 6) (a : BitVec 6) (b : BitVec 6)
  /-- NRG_Q (R158). Reads the energy value selected by the selector. -/
  | nrgQ (g : BitVec 4) (d : BitVec 6) (s : BitVec 8)
  /-- NRG_VREG (R163). Registers a variant-table entry of the task's rope. -/
  | nrgVreg (g : BitVec 4) (a : BitVec 6) (b : BitVec 6)
  /-- NRG_VSW (R164). Requests a switch of the task to variant entry j. -/
  | nrgVsw (g : BitVec 4) (a : BitVec 6)
  /-- CEND (R284). Ends the context; no further bundle issues. -/
  | cend (g : BitVec 4)
  /-- TRAP (R292). Advances the context and raises SWT with a 12-bit code. -/
  | trap (g : BitVec 4) (c : BitVec 12)
  /-- RTU (R293). Returns from the user trap handler to UPC, UNPC and UBP. -/
  | rtu (g : BitVec 4)
  /-- BKPT (R294). Raises DEBUG BKPT precisely. -/
  | bkpt (g : BitVec 4)
  /-- PIN (R295). Pins a system-cache line for the ASID and returns a status. -/
  | pin (g : BitVec 4) (d : BitVec 6) (a : BitVec 6)
  /-- UNPIN (R295). Releases a pin of the ASID and returns a status. -/
  | unpin (g : BitVec 4) (d : BitVec 6) (a : BitVec 6)
  /-- DBG_MARK (R294). Appends PCYC and s[A] to the task's Wonus record when recorded. -/
  | dbgMark (g : BitVec 4) (a : BitVec 6)
  /-- DBG_BRK (R294). Raises DEBUG BRK while CSTAT.DBG = 1. -/
  | dbgBrk (g : BitVec 4)
  /-- BAR_BRAID (R283). Braid barrier over the teams named by a 4-bit mask. -/
  | barBraid (g : BitVec 4) (a : BitVec 6)
  /-- ROUTINE_END (R235). Routine word that ends the call. -/
  | routineEnd
  /-- ROUTINE_NOP (R235). Routine word with no effect. -/
  | routineNop
  /-- LDB (R236). Routine word that starts a background B-tile load into a weight bank. -/
  | ldb (bank : BitVec 1) (fsel : BitVec 5) (mb : BitVec 3)
  /-- PASS (R236). Routine word that accumulates one matrix pass into tile rows. -/
  | pass (t : BitVec 3) (row0 : BitVec 5) (nrm1 : BitVec 5) (bank : BitVec 1) (ma : BitVec 3)
  /-- PASSW (R236). Routine word that writes the first rounding of a pass, discarding old values. -/
  | passw (t : BitVec 3) (row0 : BitVec 5) (nrm1 : BitVec 5) (bank : BitVec 1) (ma : BitVec 3)
  /-- SETP (R235). Routine word setting a call parameter register. -/
  | setp (md : BitVec 3) (imm : BitVec 57)
  /-- ADDP (R235). Routine word adding to a call parameter register. -/
  | addp (md : BitVec 3) (imm : BitVec 57)
  /-- SETC (R235). Routine word setting a routine counter. -/
  | setc (c : BitVec 1) (n : BitVec 13)
  /-- LOOP (R235). Routine word closing a counted loop on a routine counter. -/
  | loop (c : BitVec 1) (back : BitVec 9)
  /-- SKIPZ (R235). Routine word skipping forward when a parameter register is zero. -/
  | skipz (mr : BitVec 3) (fwd : BitVec 9)
  /-- ZERO (R235). Routine word zeroing tile rows. -/
  | zero (t : BitVec 3) (row0 : BitVec 5) (nrm1 : BitVec 5)
  /-- BIAS (R235). Routine word adding a bias row to tile rows. -/
  | bias (t : BitVec 3) (row0 : BitVec 5) (nrm1 : BitVec 5) (ma : BitVec 3)
  /-- SCALE (R235). Routine word scaling tile rows by a power of two. -/
  | scale (t : BitVec 3) (row0 : BitVec 5) (nrm1 : BitVec 5) (e : BitVec 9)
  /-- ROUTINE_COPY (R235). Routine word copying rows between tiles. -/
  | routineCopy (t : BitVec 3) (row0 : BitVec 5) (nrm1 : BitVec 5) (src : BitVec 3) (srow0 : BitVec 5)
  /-- ADDT (R235). Routine word adding rows of another tile. -/
  | addt (t : BitVec 3) (row0 : BitVec 5) (nrm1 : BitVec 5) (src : BitVec 3) (srow0 : BitVec 5)
  /-- MAXZ (R235). Routine word applying a ReLU to tile rows. -/
  | maxz (t : BitVec 3) (row0 : BitVec 5) (nrm1 : BitVec 5)
  /-- RESULT_LANDING (R57). A result of an issued op is written to its destination at its landing cycle. -/
  | resultLanding (q : PartNo)
  /-- LOAD_DATA_ARRIVAL (R61). Load data reaches the landing buffer, ending a freeze that waits on it. -/
  | loadDataArrival (x : CtxNo) (id : Nat)
  /-- STALL_CLEAR (R47). A STALLED context's condition clears and it becomes READY. -/
  | stallClear (x : CtxNo)
  /-- BOUND (R38). DCOUNT reaches LIMIT and the context takes a BOUND trap when next chosen. -/
  | bound (x : CtxNo)
  /-- DEFERRED_TRAP (R275). A deferred fault is reported and the context traps before it next issues. -/
  | deferredTrap (x : CtxNo)
  /-- USER_TRAP_ENTRY (R372). A pending THROTTLE enters the user trap handler, holding in-flight results. -/
  | userTrapEntry (x : CtxNo)
  /-- CONTEXT_ENDED (R284). After cend, the context becomes ENDED once its results have landed and its operations have performed. -/
  | contextEnded (x : CtxNo)
  /-- BARRIER_ARRIVAL (R283). A bar's arrival is counted once its braid-scope accesses have performed; the generation may complete. -/
  | barrierArrival (x : CtxNo)
  /-- SC_ORDER_POINT (R135). An SC operation takes its order point when the wheel reaches its context's position. -/
  | scOrderPoint (id : Nat)
  /-- HOME_ATOMIC_EXECUTE (R140). An atomic or reduction executes indivisibly at its home slice. -/
  | homeAtomicExecute (id : Nat)
  /-- SPLICE_EXECUTE (R289). A splice holds its line at the home slice, runs the routine and responds. -/
  | spliceExecute (id : Nat)
  /-- GLOBAL_WRITE_PERFORM (R125). A write reaches its home slice and applies after invalidations are acknowledged. -/
  | globalWritePerform (id : Nat)
  /-- FILL_COMPLETE (R106). A bight fill returns its line and sets not-valid words VALID. -/
  | fillComplete (id : Nat)
  /-- DIR_RECALL (R115). A slice recalls its least recently registered range entry; the owner writes back and acknowledges. -/
  | dirRecall (slice : Fin 64)
  /-- OWNERSHIP_RECALL (R141). Another agent's access to a bight-owned word recalls ownership and forces its write-back. -/
  | ownershipRecall (pa : Nat)
  /-- HOST_SNOOP (R122). A host snoop on a HOST-bias line writes back dirty words and invalidates the line in every bight; the
  bytes of the host write that caused it, if one did, stand in the line afterwards. -/
  | hostSnoop (pa : Nat) (data : List Byte)
  /-- HOST_MEM_WRITE (R347). A host write through CXL.mem performs at the home slice. -/
  | hostMemWrite (pa : Nat) (data : List Byte)
  /-- HOST_MEM_READ (R347). A host read through CXL.mem reads the home value. -/
  | hostMemRead (pa n : Nat)
  /-- LEASE_TICK (R116). Every 32 ns the hub broadcasts DLT and every core advances pts. -/
  | leaseTick
  /-- REBASE_SWEEP (R120). The rebase sweep raises old timestamps and drops stale lease entries. -/
  | rebaseSweep
  /-- ROPE_ENABLE (R23). Software sets EN and the rope enters LINK or HEAD. -/
  | ropeEnable (r : RopeNo)
  /-- ROPE_DISABLE (R427). Software clears EN; fetching and dispatch stop and unfetched state is discarded. -/
  | ropeDisable (r : RopeNo)
  /-- HEAD_WRITE (R23). Software writes a non-zero HEAD into a rope waiting in LINK. -/
  | headWrite (r : RopeNo) (head : Word)
  /-- DESCRIPTOR_WRITE_OBSERVED (R428). A write to RO fields of an enabled descriptor takes effect within 2 us. -/
  | descriptorWriteObserved (r : RopeNo)
  /-- NEXT_WORD_OBSERVED (R24). The engine reads a non-zero NEXT word of the last fetched record and moves to HEAD or FAULT. -/
  | nextWordObserved (r : RopeNo)
  /-- RECORD_FETCH (R24). The rope engine fetches a record ahead of dispatch and checks it under R16. -/
  | recordFetch (r : RopeNo)
  /-- KNOT_WRITE_OBSERVED (R21). A knot write wakes the engine within 2 us and waits are latched. -/
  | knotWriteObserved (r : RopeNo)
  /-- DISPATCH_CHOICE (R28). Every 16 hub cycles the dispatcher starts the best startable record and debits reservations. -/
  | dispatchChoice
  /-- TEAM_ARMED (R33). A supervisor finishes loading a team and reports it armed; when all are armed the task's contexts begin. -/
  | teamArmed (task pos : Nat)
  /-- LAUNCH_FAILURE (R35). A team fails to load; the task is undone and the rope faults IMAGE. -/
  | launchFailure (task pos : Nat)
  /-- TASK_RETIRE (R22). A task whose contexts ended, commands completed and stores performed retires and signals its knots. -/
  | taskRetire (task : Nat)
  /-- VARIANT_SWITCH (R164). When every context has stopped after a switch request, the task is freed and returns as the variant. -/
  | variantSwitch (task : Nat)
  /-- MATRIX_COMMAND_START (R229). The engine starts the command at the head of the matrix queue. -/
  | matrixCommandStart (c : CoreNo)
  /-- MFT_EXECUTE (R242). A queued MFT command sets its format-table entry. -/
  | mftExecute (c : CoreNo)
  /-- MZERO_EXECUTE (R240). A queued MZERO command zeroes its tiles. -/
  | mzeroExecute (c : CoreNo)
  /-- MMOV_EXECUTE (R244). A queued MMOV moves rows between a tile and the scratchpad. -/
  | mmovExecute (c : CoreNo)
  /-- LDB_LOAD_COMPLETE (R238). A background B-tile load finishes and the bank becomes LOADED, or poison ends the call. -/
  | ldbLoadComplete (c : CoreNo) (bank : Fin 2)
  /-- CALL_END (R238). A call ends; tiles become free and the completed-call count rises. -/
  | callEnd (c : CoreNo)
  /-- VACC_TILE_READ (R222). A VACC reads its tile at the first cycle the tile is not busy. -/
  | vaccTileRead (x : CtxNo) (id : Nat)
  /-- COPY_COMMAND_START (R262). A copy engine starts the next command of its queue. -/
  | copyCommandStart (c : CoreNo) (e : Fin 2)
  /-- COPY_COMMAND_END (R262). A command ends and its completion word is posted after its writes perform. -/
  | copyCommandEnd (c : CoreNo) (e : Fin 2)
  /-- COPY_COMMAND_PARK (R262). A command waiting on a translation fault is parked and the next command starts. -/
  | copyCommandPark (c : CoreNo) (e : Fin 2)
  /-- COPY_COMMAND_RESUME (R262). A parked command resumes from PROG after its fault is resolved. -/
  | copyCommandResume (c : CoreNo) (e : Fin 2)
  /-- COPY_HOLD (R156). Copy and halyard commands are held at a line boundary while HOLD <= 0 or RATE is reached. -/
  | copyHold (c : CoreNo)
  /-- COPY_HOLD_RELEASE (R156). Held commands resume when HOLD rises above 0 or the next boundary arrives. -/
  | copyHoldRelease (c : CoreNo)
  /-- MEMORY_DEBIT (R155). A completed 64-byte DRAM transfer debits its island and charges the task. -/
  | memoryDebit (i : IslandNo) (task : Option Nat)
  /-- HALYARD_BLOCK_BEGIN (R267). The halyard reads a block and checks it, faulting on an invalid block. -/
  | halyardBlockBegin (c : CoreNo)
  /-- HALYARD_PUSH (R267). After credit and engine room, the halyard pushes one repetition's command. -/
  | halyardPush (c : CoreNo)
  /-- HALYARD_COMPLETION (R267). The halyard posts its own completion word once the covered commands have ended. -/
  | halyardCompletion (c : CoreNo)
  /-- HALYARD_FAULT (R267). A halyard command ends with non-zero STATUS; the halyard enters FAULT. -/
  | halyardFault (c : CoreNo)
  /-- HALYARD_STOP_COMPLETE (R268). A STOPPING halyard becomes IDLE once its commands have ended. -/
  | halyardStopComplete (c : CoreNo)
  /-- FLIT_ARRIVAL (R44). A flit from a peer enters a receive queue of a (link, vc) pair. -/
  | flitArrival (link : Fin 8) (vc : Fin 4) (flit : VReg)
  /-- CREDIT_RETURN (R44). A credit returns to the sender, releasing a send stalled without credit. -/
  | creditReturn (link : Fin 8) (vc : Fin 4)
  /-- GOVERNOR_BOUNDARY (R150). At each 10 us boundary the governor debits measured energy, grants allowance and recomputes OP. -/
  | governorBoundary (gi : GovInput)
  /-- OP_HOP_COMPLETE (R399). A raising frequency hop completes once PLL and voltage have settled. -/
  | opHopComplete (c : CoreNo)
  /-- RAIL_FAULT (R396). A rail out of tolerance for 1 us sets RAILFLT and drops its group to OP0 at once. -/
  | railFault (grp : Fin 8)
  /-- DROOP_TRIP (R400). Supply below VTRIP starts clock stretching and counts DRPCNT. -/
  | droopTrip (c : CoreNo)
  /-- STRETCH_END (R400). Stretching ends after 16 island cycles above VTRIP. -/
  | stretchEnd (c : CoreNo)
  /-- FEED_OUT_OF_RANGE (R395). One feed outside range for 50 us sets FEEDFLT; the module continues on the other feed. -/
  | feedOutOfRange (f : Fin 2)
  /-- FEED_LOSS (R395). Both feeds low for 50 us shut down all regulators. -/
  | feedLoss
  /-- FEED_OVERVOLTAGE (R395). A feed above 14.0 V opens its input switch within 10 us. -/
  | feedOvervoltage (f : Fin 2)
  /-- FEED_SWITCH_CLOSE (R395). An opened input switch closes after its feed stays in range for 100 ms. -/
  | feedSwitchClose (f : Fin 2)
  /-- FAULT_RECORD_WRITE (R349). The hub writes a fault record into the host fault queue when it has room. -/
  | faultRecordWrite
  /-- SUPERVISOR_FAULT_RECORD_WRITE (R371). The hub writes a fault record into a supervisor's fault queue when it has room. -/
  | supervisorFaultRecordWrite (k : SupNo)
  /-- TRAP_RECORD_WRITE (R371). A trap record is written into the supervisor's trap queue when it has room. -/
  | trapRecordWrite (k : SupNo)
  /-- FAULT_ANSWER (R357). A host write of RFID and RRES answers a fault RETRY or PERMANENT. -/
  | faultAnswer (fid : BitVec 16) (res : BitVec 2)
  /-- ATS_COMPLETION (R359). An ATS translation completion arrives and is cached or treated as not present. -/
  | atsCompletion (asid : BitVec 16) (va : Nat) (a : AtsAnswer) (w : Bool)
  /-- PAGE_REQUEST_RESPONSE (R360). A PRI response arrives: Success re-walks; failures end the access with ATS. -/
  | pageRequestResponse (prg : Nat) (code : Fin 3)
  /-- ATS_INVALIDATION (R361). A host ATS invalidation is carried out as a shootdown and then completed. -/
  | atsInvalidation (pasid : BitVec 20) (va npg : Nat)
  /-- RT_ENABLE (R348). A write of RTEN enables the rope table, or sets RTERR when RTBASE is invalid. -/
  | rtEnable (v : Word)
  /-- MQ_PUSH (R362). A write of MQPUSH enters a descriptor in the maintenance queue or sets MQOVF. -/
  | mqPush (v : Word)
  /-- FQ_HEAD_WRITE (R349). A write of FQHEAD frees fault-queue space for waiting records. -/
  | fqHeadWrite (v : Word)
  /-- SMQ_PUSH (R371). A supervisor write of SMQPUSH enters a descriptor in the maintenance queue. -/
  | smqPush (k : SupNo) (v : Word)
  /-- TQ_HEAD_WRITE (R371). A write of TQHEAD frees trap-queue space for waiting records. -/
  | tqHeadWrite (k : SupNo) (v : Word)
  /-- SF_HEAD_WRITE (R371). A write of SFHEAD frees supervisor fault-queue space. -/
  | sfHeadWrite (k : SupNo) (v : Word)
  /-- SHOOT (R363). Shootdown of an ASID range: invalidate, pause commands, write back bights, release pins, DONE. -/
  | shoot
  /-- FLIPH (R365). Flips a page from DEV to HOST bias. -/
  | fliph
  /-- FLIPD (R365). Flips a page from HOST to DEV bias. -/
  | flipd
  /-- RESUME (R373). Supervisor command making a TRAPPED context READY. -/
  | resume (k : SupNo) (w : Word)
  /-- WREG (R373). Supervisor command writing a register of a TRAPPED context from SMBOX. -/
  | wreg (k : SupNo) (w : Word)
  /-- STOP (R373). Supervisor command requesting a stop of a task as in pre-emption. -/
  | stop (k : SupNo) (w : Word)
  /-- WITHDRAW (R373). Supervisor command withdrawing a pending stop. -/
  | withdraw (k : SupNo) (w : Word)
  /-- DSAVE (R377). Supervisor command taking a drain save of a stopped team. -/
  | dsave (k : SupNo) (w : Word)
  /-- FSAVE (R378). Supervisor command taking a frozen save. -/
  | fsave (k : SupNo) (w : Word)
  /-- RESTORE (R380). Supervisor command restoring a team from a save block. -/
  | restore (k : SupNo) (w : Word)
  /-- TERM (R375). Supervisor command terminating a task without drain. -/
  | term (k : SupNo) (w : Word)
  /-- FANS (R357). Supervisor command answering or forwarding a fault. -/
  | fans (k : SupNo) (w : Word)
  /-- STATE_READBACK (R383). A management or supervisor read of one 64-bit word of a state space. -/
  | stateReadback (addr : BitVec 48)
  /-- QUIESCE (R384). A write of QUIESCE stops or restarts the rope engine and dispatcher. -/
  | quiesce (v : Word)
  /-- BIND (R390). Monitor request binding an ASID and extending PMR4. -/
  | bind (ch : Option SupNo) (blk : BitVec 512)
  /-- UNBIND (R390). Monitor request unbinding an unused ASID after a whole-range shootdown. -/
  | unbind (ch : Option SupNo) (blk : BitVec 512)
  /-- ROOT (R390). Monitor request replacing an ASID's root and shooting down its range. -/
  | root (ch : Option SupNo) (blk : BitVec 512)
  /-- ROUTE (R390). Monitor request replacing an ASID's routing and policy bits. -/
  | route (ch : Option SupNo) (blk : BitVec 512)
  /-- FLOOR (R390). Monitor request setting a core island GFLOOR or a fixed island grant. -/
  | floor (ch : Option SupNo) (blk : BitVec 512)
  /-- UPDATE (R394). Monitor request staging or committing a firmware image. -/
  | update (ch : Option SupNo) (blk : BitVec 512)
  /-- QUERY (R390). Monitor request returning the ASID table address. -/
  | query (ch : Option SupNo) (blk : BitVec 512)
  /-- GET_VERSION (R388). SPDM request for the supported versions. -/
  | getVersion (param : SpdmParam)
  /-- GET_CAPABILITIES (R388). SPDM request for capabilities. -/
  | getCapabilities (param : SpdmParam)
  /-- NEGOTIATE_ALGORITHMS (R388). SPDM request negotiating SM2 and SM3. -/
  | negotiateAlgorithms (param : SpdmParam)
  /-- GET_DIGESTS (R388). SPDM request for certificate digests. -/
  | getDigests (param : SpdmParam)
  /-- GET_CERTIFICATE (R388). SPDM request for the slot 0 certificate. -/
  | getCertificate (param : SpdmParam)
  /-- CHALLENGE (R388). SPDM challenge signed by the identity key. -/
  | challenge (param : SpdmParam)
  /-- GET_MEASUREMENTS (R388). SPDM request returning PMR0 to PMR7. -/
  | getMeasurements (param : SpdmParam)
  /-- UNSUPPORTED_REQUEST (R388). An SPDM request naming another algorithm or feature gets ERROR UnsupportedRequest. -/
  | unsupportedRequest (param : SpdmParam)
  /-- COLD_RESET (R386). Cold reset runs the measured boot sequence of ROM, monitor and firmware. -/
  | coldReset (monitor sup mgmt : FwImage) (fuses : BitVec 256)
  /-- MODCAP_WRITE (R404). A write of MODCAP takes effect at the next boundary, announced if below FLOOR. -/
  | modcapWrite (v : Word)
  /-- RAILFLT_CLEAR (R396). Firmware clears RAILFLT and CEIL returns at the next boundary. -/
  | railfltClear (v : Word)
  /-- DRPCNT_READ (R402). A read of DRPCNT returns and clears the stretch count. -/
  | drpcntRead (c : CoreNo)
  /-- ERRLOG_READ (R409). A read of CECNT and UECNT returns and clears them. -/
  | errlogRead
  /-- CFENCE_WRITE (R411). A write of CFENCE fences or unfences cores. -/
  | cfenceWrite (v : BitVec 128)
  /-- UNFENCE (R415). A write of HBSTAT.UNFENCE starts re-admission of a module. -/
  | unfence (v : Word)
  /-- WHEAD_WRITE (R423). A write of WHEAD consumes Wonus records, discarded if it overruns WTAIL. -/
  | wheadWrite (v : Word)
  /-- REGISTER_WRITE (R6). Write of any register without a row of its own, under its field types. -/
  | registerWrite (space : Nat) (off : Nat) (v : Word)
  /-- ARBITRATION_ROUND (R405). Every 100 us each member sends its message and computes the chassis shares. -/
  | arbitrationRound
  /-- ARBITRATION_MESSAGE (R405). An arbitration message from a peer is received. -/
  | arbitrationMessage (m : ArbMsg)
  /-- HEARTBEAT_SEND (R412). Every 1 ms a member sends a heartbeat to every other member. -/
  | heartbeatSend
  /-- HEARTBEAT_RECEIVE (R412). A heartbeat from a peer restarts its silence count or clears a re-admitted fence. -/
  | heartbeatReceive (k : Fin 4) (ck : BitVec 32)
  /-- HEARTBEAT_TIMEOUT (R413). 5 ms without a heartbeat fences the module and sends a fence notice. -/
  | heartbeatTimeout (k : Fin 4)
  /-- FENCE_NOTICE (R412). A received fence notice fences the named module at once. -/
  | fenceNotice (k : Fin 4)
  /-- ISOLATION (R415). 5 ms without any peer sets ISOL and fences every member. -/
  | isolation
  /-- CHECKPOINT_PERIOD (R417). Each CKPER the coordinator sends BEGIN n. -/
  | checkpointPeriod
  /-- BEGIN (R417). A member receiving BEGIN n stops, saves, writes and mirrors its checkpoint. -/
  | begin (n : BitVec 32)
  /-- DONE (R421). The coordinator receives DONE n, and commits once all survivors are done. -/
  | done (k : Fin 4) (n : BitVec 32) (nomir : Bool)
  /-- FAIL (R418). The coordinator receives FAIL n and abandons the checkpoint. -/
  | fail (k : Fin 4) (n : BitVec 32)
  /-- COMMIT (R421). A member receiving COMMIT n sets CKCOMMIT. -/
  | commit (n : CkCommit)
  /-- CHECKPOINT_MARKER (R420). A marker flit arrives, separating pre-checkpoint flits from later ones. -/
  | checkpointMarker (link : Fin 8) (vc : Fin 4)
  /-- WONUS_RECORD_WRITE (R423). A recorded operation writes its Wonus record when the ring has space. -/
  | wonusRecordWrite
  /-- SCRUB_PASS (R407). The scrubber reads and corrects every granule once per scrub period. -/
  | scrubPass
  /-- SHARED_PARITY_ERROR (R410). A parity error in shared core state fences the core and terminates its task. -/
  | sharedParityError (c : CoreNo)
  /-- HUB_FATAL_ERROR (R410). A hub latch parity error stops the module and its heartbeats. -/
  | hubFatalError
  /-- ENV_LIMIT_EXCEEDED (R425). Humidity or corrosion above its limit sets ENVW and is reported. -/
  | envLimitExceeded (rh corr : BitVec 8)
  /-- FABRIC_REQUEST (R414). A read, write or atomic from a hawser peer arrives over a link for this module's fabric addresses and performs at the home slice, or gets the poisoned answer from the takeover module. -/
  | fabricRequest (q : FabricReq)
  /-- ILLEGAL_ENCODING (R173). A bundle whose header, tree word or slot word is not an assigned encoding raises a precise ILLEGAL trap at issue. -/
  | illegalEncoding (x : CtxNo)
  /-- MONITOR_REQUEST_OTHER_OP (R390). A monitor request with an OP not in the table is answered with STATUS ARG. -/
  | monitorRequestOtherOp (ch : Option SupNo) (blk : BitVec 512)
  /-- MAINTENANCE_DESCRIPTOR_INVALID (R362). The hub carries out a queued descriptor with an invalid OP, reserved bits or NPG = 0 and writes STATUS INVALID with no effect. -/
  | maintenanceDescriptorInvalid
  /-- FEED_RETURN (R395). A feed that was below range comes back into 10.8 V to 13.2 V, and the module returns to normal two-feed sharing. -/
  | feedReturn (f : Fin 2)
  deriving DecidableEq, Repr

end Sys2Proof
end

