-- ==== Sys2Proof/WellFormed.lean ====
section
/-! DEFINITION. Which instructions an encoding may hold (R173, R200, R224, R237, R246, R272, R296), the decoded bundle and
the causes of ILLEGAL. -/

namespace Sys2Proof

/-- Causes of ILLEGAL (R173, R293). -/
inductive Cause where
  | opcode | slot | func | rsvd | tree | dest | limm | sreg | pc | lane | order | inh
  deriving DecidableEq, Repr

/-- Cause codes (R173; 0x0C of R293). -/
def Cause.code : Cause → BitVec 8
  | .opcode => 1
  | .slot => 2
  | .func => 3
  | .rsvd => 4
  | .tree => 5
  | .dest => 6
  | .limm => 7
  | .sreg => 8
  | .pc => 9
  | .lane => 10
  | .order => 11
  | .inh => 12

/-- The five slots of a bundle (R165). -/
inductive Slot where
  | s | v0 | v1 | m | x
  deriving DecidableEq, Repr

/-- The words of an instruction. -/
inductive Encoding where
  | slot (w : BitVec 32)
  | routine (w : Word)
  deriving DecidableEq, Repr

/-- Modes of a tree test (R64). -/
inductive TestMode where
  | l0 | any | all | none
  deriving DecidableEq, Repr

/-- A test of the branch tree: a logical predicate and a mode (R170). -/
structure TreeTest where
  mode : TestMode
  p : BitVec 7
  deriving DecidableEq, Repr

/-- The shape of a branch tree (R171). -/
inductive Tree where
  | leaf
  | node (l r : Tree)
  deriving DecidableEq, Repr

/-- A decoded bundle (R63, R165, R166). A leaf is none for fall-through, or the number of a b register. -/
structure Bundle where
  drain : Bool
  t : Bool
  tree : Tree
  tests : List TreeTest
  leaves : List (Option (BitVec 3))
  tagS : BitVec 3
  tagV0 : BitVec 3
  tagV1 : BitVec 3
  tagM : BitVec 3
  tagX : BitVec 3
  xord : BitVec 2
  xscope : BitVec 2
  limm : Word
  opS : Instr
  opV0 : Instr
  opV1 : Instr
  opM : Instr
  opX : Instr
  deriving DecidableEq, Repr

/-- Format codes that VCVT accepts (R212). -/
def cvtFmtOk (f : BitVec 5) : Bool := f.toNat ≤ 0x0D || (0x10 ≤ f.toNat && f.toNat ≤ 0x13)

/-- The pairs of R232 that a weight bank may have. -/
def pairOk (af bf : BitVec 5) : Bool :=
  (af = 0x12 && bf = 0x12) || (af = 0x11 && bf = 0x11) || (af = 0x13 && bf = 0x13) ||
  ((af = 0x10 || af = 0x0D) && (bf = 0x10 || bf = 0x0D))

/-- Formats of MMOV (R244). -/
def mmovFmtOk (f : BitVec 5) : Bool :=
  f.toNat ≤ 2 || (0x08 ≤ f.toNat && f.toNat ≤ 0x0D)

/-- Rows ROW0 to ROW0 + NRM1 stay in the tile (R237). -/
def rowsOk (row0 nrm1 : BitVec 5) : Bool := row0.toNat + nrm1.toNat ≤ 31

/-- The value checks that an encoding must pass beside its fixed bits. -/
def Instr.wf : Instr → Bool
  | .call _ _ _ l => l ≠ 4
  | .lset _ c i => c ≠ 3 && (c ≠ 2 || i.toNat ≤ 65535)
  | .lsetReg _ c _ => c ≠ 3
  | .rotSetv _ i => i.toNat ≤ 31
  | .rotSetp _ i => i.toNat ≤ 63
  | .mfs _ _ r => r.toNat ≤ 13
  | .mts _ _ r => r.toNat ≤ 13
  | .vfadd _ _ _ _ t => t.toNat ≤ 2
  | .vfsub _ _ _ _ t => t.toNat ≤ 2
  | .vfmul _ _ _ _ t => t.toNat ≤ 2
  | .vfmin _ _ _ _ t => t.toNat ≤ 2
  | .vfma _ _ _ _ t => t.toNat ≤ 2
  | .vfms _ _ _ _ t => t.toNat ≤ 2
  | .vfmax _ _ _ _ t => t.toNat ≤ 2
  | .vcvtV0V31 _ _ _ f s => cvtFmtOk f && cvtFmtOk s
  | .vcvtV32V63 _ _ _ f s => cvtFmtOk f && cvtFmtOk s
  | .vcvtSatV0V31 _ _ _ f s => cvtFmtOk f && cvtFmtOk s
  | .vcvtSatV32V63 _ _ _ f s => cvtFmtOk f && cvtFmtOk s
  | .vtrLog2 _ _ _ m => 8 ≤ m.toNat && m.toNat ≤ 10
  | .vtrExp2 _ _ _ m => 8 ≤ m.toNat && m.toNat ≤ 10
  | .vtrRcp _ _ _ m => 8 ≤ m.toNat && m.toNat ≤ 10
  | .vtrRsqrt _ _ _ m => 8 ≤ m.toNat && m.toNat ≤ 10
  | .vtrSig _ _ _ m => 8 ≤ m.toNat && m.toNat ≤ 10
  | .vtrTanh _ _ _ m => 8 ≤ m.toNat && m.toNat ≤ 10
  | .vacc _ _ _ _ k => k.toNat ≤ 5
  | .vaccLc _ _ _ _ k => k.toNat ≤ 5
  | .mft _ _ a b => pairOk a b
  | .mzero _ k => k ≠ 0
  | .mmovSt _ _ _ o => mmovFmtOk o
  | .mmovStSat _ _ _ o => mmovFmtOk o
  | .mmovLd _ _ _ o => mmovFmtOk o
  | .cpyG2s _ _ _ e => e.toNat ≤ 1
  | .cpyS2g _ _ _ e => e.toNat ≤ 1
  | .cpyS2s _ _ _ e => e.toNat ≤ 1
  | .cpyG2g _ _ _ e => e.toNat ≤ 1
  | .cpyGath _ _ _ e => e.toNat ≤ 1
  | .cpyScat _ _ _ e => e.toNat ≤ 1
  | .cpyMcast _ _ _ e => e.toNat ≤ 1
  | .cpyTr _ _ _ e => e.toNat ≤ 1
  | .cqPop _ _ e => e.toNat ≤ 1
  | .cqProg _ _ _ e => e.toNat ≤ 1
  | .cqCnt _ _ e => e.toNat ≤ 1
  | .nrgQ _ _ s => s.toNat ≤ 11
  | .ldb _ fsel _ => fsel.toNat ≤ 16
  | .pass _ row0 nrm1 _ _ => rowsOk row0 nrm1
  | .passw _ row0 nrm1 _ _ => rowsOk row0 nrm1
  | .zero _ row0 nrm1 => rowsOk row0 nrm1
  | .bias _ row0 nrm1 _ => rowsOk row0 nrm1
  | .scale _ row0 nrm1 _ => rowsOk row0 nrm1
  | .maxz _ row0 nrm1 => rowsOk row0 nrm1
  | .routineCopy _ row0 nrm1 _ srow0 => rowsOk row0 nrm1 && rowsOk srow0 nrm1
  | .addt _ row0 nrm1 _ srow0 => rowsOk row0 nrm1 && rowsOk srow0 nrm1
  | .setc _ n => 1 ≤ n.toNat && n.toNat ≤ 4096
  | .loop _ back => back ≠ 0
  | _ => true

end Sys2Proof
end

