-- ==== Sys2Proof/Decode.lean ====
section
/-! DEFINITION. From the bits of slot words, routine words and bundles to instructions, with the cause when they are none
(R165 to R174, R235), and back. -/

namespace Sys2Proof

/-- Field of a slot word: `len` bits from bit `lo` (R4). -/
def fld (w : BitVec 32) (lo len : Nat) : BitVec len := BitVec.ofNat len (w.toNat / 2 ^ lo)

/-- Field of a routine word (R4). -/
def fldR (w : Word) (lo len : Nat) : BitVec len := BitVec.ofNat len (w.toNat / 2 ^ lo)

/-! Words from fields, the most significant first: one packing per layout of R168 and R235. -/

/-- Layout of segments 7, 25 bits. -/
def pack7_25 (x0 : BitVec 7) (x1 : BitVec 25) : BitVec 32 :=
  BitVec.ofNat 32 (x0.toNat * 2 ^ 25 + x1.toNat)

/-- Layout of segments 7, 4, 6, 6, 6, 3 bits. -/
def pack7_4_6_6_6_3 (x0 : BitVec 7) (x1 : BitVec 4) (x2 : BitVec 6) (x3 : BitVec 6) (x4 : BitVec 6) (x5 : BitVec 3) : BitVec 32 :=
  BitVec.ofNat 32 (x0.toNat * 2 ^ 25 + x1.toNat * 2 ^ 21 + x2.toNat * 2 ^ 15 + x3.toNat * 2 ^ 9 + x4.toNat * 2 ^ 3 + x5.toNat)

/-- Layout of segments 7, 4, 6, 6, 9 bits. -/
def pack7_4_6_6_9 (x0 : BitVec 7) (x1 : BitVec 4) (x2 : BitVec 6) (x3 : BitVec 6) (x4 : BitVec 9) : BitVec 32 :=
  BitVec.ofNat 32 (x0.toNat * 2 ^ 25 + x1.toNat * 2 ^ 21 + x2.toNat * 2 ^ 15 + x3.toNat * 2 ^ 9 + x4.toNat)

/-- Layout of segments 7, 4, 6, 6, 3, 6 bits. -/
def pack7_4_6_6_3_6 (x0 : BitVec 7) (x1 : BitVec 4) (x2 : BitVec 6) (x3 : BitVec 6) (x4 : BitVec 3) (x5 : BitVec 6) : BitVec 32 :=
  BitVec.ofNat 32 (x0.toNat * 2 ^ 25 + x1.toNat * 2 ^ 21 + x2.toNat * 2 ^ 15 + x3.toNat * 2 ^ 9 + x4.toNat * 2 ^ 6 + x5.toNat)

/-- Layout of segments 7, 4, 7, 6, 6, 2 bits. -/
def pack7_4_7_6_6_2 (x0 : BitVec 7) (x1 : BitVec 4) (x2 : BitVec 7) (x3 : BitVec 6) (x4 : BitVec 6) (x5 : BitVec 2) : BitVec 32 :=
  BitVec.ofNat 32 (x0.toNat * 2 ^ 25 + x1.toNat * 2 ^ 21 + x2.toNat * 2 ^ 14 + x3.toNat * 2 ^ 8 + x4.toNat * 2 ^ 2 + x5.toNat)

/-- Layout of segments 7, 4, 7, 7, 7 bits. -/
def pack7_4_7_7_7 (x0 : BitVec 7) (x1 : BitVec 4) (x2 : BitVec 7) (x3 : BitVec 7) (x4 : BitVec 7) : BitVec 32 :=
  BitVec.ofNat 32 (x0.toNat * 2 ^ 25 + x1.toNat * 2 ^ 21 + x2.toNat * 2 ^ 14 + x3.toNat * 2 ^ 7 + x4.toNat)

/-- Layout of segments 7, 4, 7, 6, 8 bits. -/
def pack7_4_7_6_8 (x0 : BitVec 7) (x1 : BitVec 4) (x2 : BitVec 7) (x3 : BitVec 6) (x4 : BitVec 8) : BitVec 32 :=
  BitVec.ofNat 32 (x0.toNat * 2 ^ 25 + x1.toNat * 2 ^ 21 + x2.toNat * 2 ^ 14 + x3.toNat * 2 ^ 8 + x4.toNat)

/-- Layout of segments 7, 4, 3, 5, 13 bits. -/
def pack7_4_3_5_13 (x0 : BitVec 7) (x1 : BitVec 4) (x2 : BitVec 3) (x3 : BitVec 5) (x4 : BitVec 13) : BitVec 32 :=
  BitVec.ofNat 32 (x0.toNat * 2 ^ 25 + x1.toNat * 2 ^ 21 + x2.toNat * 2 ^ 18 + x3.toNat * 2 ^ 13 + x4.toNat)

/-- Layout of segments 7, 4, 3, 12, 6 bits. -/
def pack7_4_3_12_6 (x0 : BitVec 7) (x1 : BitVec 4) (x2 : BitVec 3) (x3 : BitVec 12) (x4 : BitVec 6) : BitVec 32 :=
  BitVec.ofNat 32 (x0.toNat * 2 ^ 25 + x1.toNat * 2 ^ 21 + x2.toNat * 2 ^ 18 + x3.toNat * 2 ^ 6 + x4.toNat)

/-- Layout of segments 7, 4, 3, 5, 7, 6 bits. -/
def pack7_4_3_5_7_6 (x0 : BitVec 7) (x1 : BitVec 4) (x2 : BitVec 3) (x3 : BitVec 5) (x4 : BitVec 7) (x5 : BitVec 6) : BitVec 32 :=
  BitVec.ofNat 32 (x0.toNat * 2 ^ 25 + x1.toNat * 2 ^ 21 + x2.toNat * 2 ^ 18 + x3.toNat * 2 ^ 13 + x4.toNat * 2 ^ 6 + x5.toNat)

/-- Layout of segments 7, 4, 8, 7, 6 bits. -/
def pack7_4_8_7_6 (x0 : BitVec 7) (x1 : BitVec 4) (x2 : BitVec 8) (x3 : BitVec 7) (x4 : BitVec 6) : BitVec 32 :=
  BitVec.ofNat 32 (x0.toNat * 2 ^ 25 + x1.toNat * 2 ^ 21 + x2.toNat * 2 ^ 13 + x3.toNat * 2 ^ 6 + x4.toNat)

/-- Layout of segments 7, 4, 3, 18 bits. -/
def pack7_4_3_18 (x0 : BitVec 7) (x1 : BitVec 4) (x2 : BitVec 3) (x3 : BitVec 18) : BitVec 32 :=
  BitVec.ofNat 32 (x0.toNat * 2 ^ 25 + x1.toNat * 2 ^ 21 + x2.toNat * 2 ^ 18 + x3.toNat)

/-- Layout of segments 7, 4, 2, 1, 18 bits. -/
def pack7_4_2_1_18 (x0 : BitVec 7) (x1 : BitVec 4) (x2 : BitVec 2) (x3 : BitVec 1) (x4 : BitVec 18) : BitVec 32 :=
  BitVec.ofNat 32 (x0.toNat * 2 ^ 25 + x1.toNat * 2 ^ 21 + x2.toNat * 2 ^ 19 + x3.toNat * 2 ^ 18 + x4.toNat)

/-- Layout of segments 7, 4, 2, 13, 6 bits. -/
def pack7_4_2_13_6 (x0 : BitVec 7) (x1 : BitVec 4) (x2 : BitVec 2) (x3 : BitVec 13) (x4 : BitVec 6) : BitVec 32 :=
  BitVec.ofNat 32 (x0.toNat * 2 ^ 25 + x1.toNat * 2 ^ 21 + x2.toNat * 2 ^ 19 + x3.toNat * 2 ^ 6 + x4.toNat)

/-- Layout of segments 7, 4, 21 bits. -/
def pack7_4_21 (x0 : BitVec 7) (x1 : BitVec 4) (x2 : BitVec 21) : BitVec 32 :=
  BitVec.ofNat 32 (x0.toNat * 2 ^ 25 + x1.toNat * 2 ^ 21 + x2.toNat)

/-- Layout of segments 7, 4, 15, 6 bits. -/
def pack7_4_15_6 (x0 : BitVec 7) (x1 : BitVec 4) (x2 : BitVec 15) (x3 : BitVec 6) : BitVec 32 :=
  BitVec.ofNat 32 (x0.toNat * 2 ^ 25 + x1.toNat * 2 ^ 21 + x2.toNat * 2 ^ 6 + x3.toNat)

/-- Layout of segments 7, 4, 6, 8, 7 bits. -/
def pack7_4_6_8_7 (x0 : BitVec 7) (x1 : BitVec 4) (x2 : BitVec 6) (x3 : BitVec 8) (x4 : BitVec 7) : BitVec 32 :=
  BitVec.ofNat 32 (x0.toNat * 2 ^ 25 + x1.toNat * 2 ^ 21 + x2.toNat * 2 ^ 15 + x3.toNat * 2 ^ 7 + x4.toNat)

/-- Layout of segments 7, 4, 6, 15 bits. -/
def pack7_4_6_15 (x0 : BitVec 7) (x1 : BitVec 4) (x2 : BitVec 6) (x3 : BitVec 15) : BitVec 32 :=
  BitVec.ofNat 32 (x0.toNat * 2 ^ 25 + x1.toNat * 2 ^ 21 + x2.toNat * 2 ^ 15 + x3.toNat)

/-- Layout of segments 7, 4, 6, 5, 5, 5 bits. -/
def pack7_4_6_5_5_5 (x0 : BitVec 7) (x1 : BitVec 4) (x2 : BitVec 6) (x3 : BitVec 5) (x4 : BitVec 5) (x5 : BitVec 5) : BitVec 32 :=
  BitVec.ofNat 32 (x0.toNat * 2 ^ 25 + x1.toNat * 2 ^ 21 + x2.toNat * 2 ^ 15 + x3.toNat * 2 ^ 10 + x4.toNat * 2 ^ 5 + x5.toNat)

/-- Layout of segments 7, 4, 6, 6, 1, 5, 3 bits. -/
def pack7_4_6_6_1_5_3 (x0 : BitVec 7) (x1 : BitVec 4) (x2 : BitVec 6) (x3 : BitVec 6) (x4 : BitVec 1) (x5 : BitVec 5) (x6 : BitVec 3) : BitVec 32 :=
  BitVec.ofNat 32 (x0.toNat * 2 ^ 25 + x1.toNat * 2 ^ 21 + x2.toNat * 2 ^ 15 + x3.toNat * 2 ^ 9 + x4.toNat * 2 ^ 8 + x5.toNat * 2 ^ 3 + x6.toNat)

/-- Layout of segments 7, 4, 6, 3, 5, 3, 4 bits. -/
def pack7_4_6_3_5_3_4 (x0 : BitVec 7) (x1 : BitVec 4) (x2 : BitVec 6) (x3 : BitVec 3) (x4 : BitVec 5) (x5 : BitVec 3) (x6 : BitVec 4) : BitVec 32 :=
  BitVec.ofNat 32 (x0.toNat * 2 ^ 25 + x1.toNat * 2 ^ 21 + x2.toNat * 2 ^ 15 + x3.toNat * 2 ^ 12 + x4.toNat * 2 ^ 7 + x5.toNat * 2 ^ 4 + x6.toNat)

/-- Layout of segments 7, 4, 6, 3, 12 bits. -/
def pack7_4_6_3_12 (x0 : BitVec 7) (x1 : BitVec 4) (x2 : BitVec 6) (x3 : BitVec 3) (x4 : BitVec 12) : BitVec 32 :=
  BitVec.ofNat 32 (x0.toNat * 2 ^ 25 + x1.toNat * 2 ^ 21 + x2.toNat * 2 ^ 15 + x3.toNat * 2 ^ 12 + x4.toNat)

/-- Layout of segments 7, 4, 3, 6, 12 bits. -/
def pack7_4_3_6_12 (x0 : BitVec 7) (x1 : BitVec 4) (x2 : BitVec 3) (x3 : BitVec 6) (x4 : BitVec 12) : BitVec 32 :=
  BitVec.ofNat 32 (x0.toNat * 2 ^ 25 + x1.toNat * 2 ^ 21 + x2.toNat * 2 ^ 18 + x3.toNat * 2 ^ 12 + x4.toNat)

/-- Layout of segments 7, 4, 4, 5, 5, 7 bits. -/
def pack7_4_4_5_5_7 (x0 : BitVec 7) (x1 : BitVec 4) (x2 : BitVec 4) (x3 : BitVec 5) (x4 : BitVec 5) (x5 : BitVec 7) : BitVec 32 :=
  BitVec.ofNat 32 (x0.toNat * 2 ^ 25 + x1.toNat * 2 ^ 21 + x2.toNat * 2 ^ 17 + x3.toNat * 2 ^ 12 + x4.toNat * 2 ^ 7 + x5.toNat)

/-- Layout of segments 7, 4, 8, 13 bits. -/
def pack7_4_8_13 (x0 : BitVec 7) (x1 : BitVec 4) (x2 : BitVec 8) (x3 : BitVec 13) : BitVec 32 :=
  BitVec.ofNat 32 (x0.toNat * 2 ^ 25 + x1.toNat * 2 ^ 21 + x2.toNat * 2 ^ 13 + x3.toNat)

/-- Layout of segments 7, 4, 3, 6, 5, 7 bits. -/
def pack7_4_3_6_5_7 (x0 : BitVec 7) (x1 : BitVec 4) (x2 : BitVec 3) (x3 : BitVec 6) (x4 : BitVec 5) (x5 : BitVec 7) : BitVec 32 :=
  BitVec.ofNat 32 (x0.toNat * 2 ^ 25 + x1.toNat * 2 ^ 21 + x2.toNat * 2 ^ 18 + x3.toNat * 2 ^ 12 + x4.toNat * 2 ^ 7 + x5.toNat)

/-- Layout of segments 7, 4, 9, 6, 6 bits. -/
def pack7_4_9_6_6 (x0 : BitVec 7) (x1 : BitVec 4) (x2 : BitVec 9) (x3 : BitVec 6) (x4 : BitVec 6) : BitVec 32 :=
  BitVec.ofNat 32 (x0.toNat * 2 ^ 25 + x1.toNat * 2 ^ 21 + x2.toNat * 2 ^ 12 + x3.toNat * 2 ^ 6 + x4.toNat)

/-- Layout of segments 7, 4, 6, 9, 6 bits. -/
def pack7_4_6_9_6 (x0 : BitVec 7) (x1 : BitVec 4) (x2 : BitVec 6) (x3 : BitVec 9) (x4 : BitVec 6) : BitVec 32 :=
  BitVec.ofNat 32 (x0.toNat * 2 ^ 25 + x1.toNat * 2 ^ 21 + x2.toNat * 2 ^ 15 + x3.toNat * 2 ^ 6 + x4.toNat)

/-- Layout of segments 7, 4, 6, 6, 2, 7 bits. -/
def pack7_4_6_6_2_7 (x0 : BitVec 7) (x1 : BitVec 4) (x2 : BitVec 6) (x3 : BitVec 6) (x4 : BitVec 2) (x5 : BitVec 7) : BitVec 32 :=
  BitVec.ofNat 32 (x0.toNat * 2 ^ 25 + x1.toNat * 2 ^ 21 + x2.toNat * 2 ^ 15 + x3.toNat * 2 ^ 9 + x4.toNat * 2 ^ 7 + x5.toNat)

/-- Layout of segments 7, 4, 3, 2, 6, 10 bits. -/
def pack7_4_3_2_6_10 (x0 : BitVec 7) (x1 : BitVec 4) (x2 : BitVec 3) (x3 : BitVec 2) (x4 : BitVec 6) (x5 : BitVec 10) : BitVec 32 :=
  BitVec.ofNat 32 (x0.toNat * 2 ^ 25 + x1.toNat * 2 ^ 21 + x2.toNat * 2 ^ 18 + x3.toNat * 2 ^ 16 + x4.toNat * 2 ^ 10 + x5.toNat)

/-- Layout of segments 7, 4, 6, 12, 3 bits. -/
def pack7_4_6_12_3 (x0 : BitVec 7) (x1 : BitVec 4) (x2 : BitVec 6) (x3 : BitVec 12) (x4 : BitVec 3) : BitVec 32 :=
  BitVec.ofNat 32 (x0.toNat * 2 ^ 25 + x1.toNat * 2 ^ 21 + x2.toNat * 2 ^ 15 + x3.toNat * 2 ^ 3 + x4.toNat)

/-- Layout of segments 4, 60 bits. -/
def packR4_60 (x0 : BitVec 4) (x1 : BitVec 60) : BitVec 64 :=
  BitVec.ofNat 64 (x0.toNat * 2 ^ 60 + x1.toNat)

/-- Layout of segments 4, 1, 5, 3, 51 bits. -/
def packR4_1_5_3_51 (x0 : BitVec 4) (x1 : BitVec 1) (x2 : BitVec 5) (x3 : BitVec 3) (x4 : BitVec 51) : BitVec 64 :=
  BitVec.ofNat 64 (x0.toNat * 2 ^ 60 + x1.toNat * 2 ^ 59 + x2.toNat * 2 ^ 54 + x3.toNat * 2 ^ 51 + x4.toNat)

/-- Layout of segments 4, 3, 5, 5, 1, 3, 43 bits. -/
def packR4_3_5_5_1_3_43 (x0 : BitVec 4) (x1 : BitVec 3) (x2 : BitVec 5) (x3 : BitVec 5) (x4 : BitVec 1) (x5 : BitVec 3) (x6 : BitVec 43) : BitVec 64 :=
  BitVec.ofNat 64 (x0.toNat * 2 ^ 60 + x1.toNat * 2 ^ 57 + x2.toNat * 2 ^ 52 + x3.toNat * 2 ^ 47 + x4.toNat * 2 ^ 46 + x5.toNat * 2 ^ 43 + x6.toNat)

/-- Layout of segments 4, 3, 57 bits. -/
def packR4_3_57 (x0 : BitVec 4) (x1 : BitVec 3) (x2 : BitVec 57) : BitVec 64 :=
  BitVec.ofNat 64 (x0.toNat * 2 ^ 60 + x1.toNat * 2 ^ 57 + x2.toNat)

/-- Layout of segments 4, 1, 46, 13 bits. -/
def packR4_1_46_13 (x0 : BitVec 4) (x1 : BitVec 1) (x2 : BitVec 46) (x3 : BitVec 13) : BitVec 64 :=
  BitVec.ofNat 64 (x0.toNat * 2 ^ 60 + x1.toNat * 2 ^ 59 + x2.toNat * 2 ^ 13 + x3.toNat)

/-- Layout of segments 4, 1, 50, 9 bits. -/
def packR4_1_50_9 (x0 : BitVec 4) (x1 : BitVec 1) (x2 : BitVec 50) (x3 : BitVec 9) : BitVec 64 :=
  BitVec.ofNat 64 (x0.toNat * 2 ^ 60 + x1.toNat * 2 ^ 59 + x2.toNat * 2 ^ 9 + x3.toNat)

/-- Layout of segments 4, 3, 48, 9 bits. -/
def packR4_3_48_9 (x0 : BitVec 4) (x1 : BitVec 3) (x2 : BitVec 48) (x3 : BitVec 9) : BitVec 64 :=
  BitVec.ofNat 64 (x0.toNat * 2 ^ 60 + x1.toNat * 2 ^ 57 + x2.toNat * 2 ^ 9 + x3.toNat)

/-- Layout of segments 4, 3, 5, 5, 47 bits. -/
def packR4_3_5_5_47 (x0 : BitVec 4) (x1 : BitVec 3) (x2 : BitVec 5) (x3 : BitVec 5) (x4 : BitVec 47) : BitVec 64 :=
  BitVec.ofNat 64 (x0.toNat * 2 ^ 60 + x1.toNat * 2 ^ 57 + x2.toNat * 2 ^ 52 + x3.toNat * 2 ^ 47 + x4.toNat)

/-- Layout of segments 4, 3, 5, 5, 1, 9, 37 bits. -/
def packR4_3_5_5_1_9_37 (x0 : BitVec 4) (x1 : BitVec 3) (x2 : BitVec 5) (x3 : BitVec 5) (x4 : BitVec 1) (x5 : BitVec 9) (x6 : BitVec 37) : BitVec 64 :=
  BitVec.ofNat 64 (x0.toNat * 2 ^ 60 + x1.toNat * 2 ^ 57 + x2.toNat * 2 ^ 52 + x3.toNat * 2 ^ 47 + x4.toNat * 2 ^ 46 + x5.toNat * 2 ^ 37 + x6.toNat)

/-- Layout of segments 4, 3, 5, 5, 3, 5, 39 bits. -/
def packR4_3_5_5_3_5_39 (x0 : BitVec 4) (x1 : BitVec 3) (x2 : BitVec 5) (x3 : BitVec 5) (x4 : BitVec 3) (x5 : BitVec 5) (x6 : BitVec 39) : BitVec 64 :=
  BitVec.ofNat 64 (x0.toNat * 2 ^ 60 + x1.toNat * 2 ^ 57 + x2.toNat * 2 ^ 52 + x3.toNat * 2 ^ 47 + x4.toNat * 2 ^ 44 + x5.toNat * 2 ^ 39 + x6.toNat)

/-- The S, V, M or X operation whose slot word is w, by its opcode and function subfields (R168, R172); none when no row of the
map has these bits. -/
noncomputable def decodeBits (w : BitVec 32) : Option Instr :=
  match (fld w 25 7).toNat with
  | 0x00 =>
      if fld w 0 25 = 0#25 then some (.nop)
      else none
  | 0x01 =>
      if fld w 0 3 = 0#3 then some (.add (fld w 21 4) (fld w 15 6) (fld w 9 6) (fld w 3 6))
      else if fld w 0 3 = 1#3 then some (.sub (fld w 21 4) (fld w 15 6) (fld w 9 6) (fld w 3 6))
      else if fld w 0 3 = 2#3 then some (.and (fld w 21 4) (fld w 15 6) (fld w 9 6) (fld w 3 6))
      else if fld w 0 3 = 3#3 then some (.or (fld w 21 4) (fld w 15 6) (fld w 9 6) (fld w 3 6))
      else if fld w 0 3 = 4#3 then some (.xor (fld w 21 4) (fld w 15 6) (fld w 9 6) (fld w 3 6))
      else if fld w 0 3 = 5#3 then some (.andn (fld w 21 4) (fld w 15 6) (fld w 9 6) (fld w 3 6))
      else if fld w 0 3 = 6#3 then some (.min (fld w 21 4) (fld w 15 6) (fld w 9 6) (fld w 3 6))
      else if fld w 0 3 = 7#3 then some (.max (fld w 21 4) (fld w 15 6) (fld w 9 6) (fld w 3 6))
      else none
  | 0x02 =>
      if fld w 0 3 = 0#3 then some (.minu (fld w 21 4) (fld w 15 6) (fld w 9 6) (fld w 3 6))
      else if fld w 0 3 = 1#3 then some (.maxu (fld w 21 4) (fld w 15 6) (fld w 9 6) (fld w 3 6))
      else if fld w 0 3 = 2#3 then some (.mul (fld w 21 4) (fld w 15 6) (fld w 9 6) (fld w 3 6))
      else if fld w 0 3 = 3#3 then some (.mulh (fld w 21 4) (fld w 15 6) (fld w 9 6) (fld w 3 6))
      else if fld w 0 3 = 4#3 then some (.mulhu (fld w 21 4) (fld w 15 6) (fld w 9 6) (fld w 3 6))
      else if fld w 0 3 = 5#3 then some (.sll (fld w 21 4) (fld w 15 6) (fld w 9 6) (fld w 3 6))
      else if fld w 0 3 = 6#3 then some (.srl (fld w 21 4) (fld w 15 6) (fld w 9 6) (fld w 3 6))
      else if fld w 0 3 = 7#3 then some (.sra (fld w 21 4) (fld w 15 6) (fld w 9 6) (fld w 3 6))
      else none
  | 0x03 =>
      some (.addi (fld w 21 4) (fld w 15 6) (fld w 9 6) (fld w 0 9))
  | 0x04 =>
      some (.andi (fld w 21 4) (fld w 15 6) (fld w 9 6) (fld w 0 9))
  | 0x05 =>
      some (.ori (fld w 21 4) (fld w 15 6) (fld w 9 6) (fld w 0 9))
  | 0x06 =>
      some (.xori (fld w 21 4) (fld w 15 6) (fld w 9 6) (fld w 0 9))
  | 0x07 =>
      if fld w 6 3 = 0#3 then some (.slli (fld w 21 4) (fld w 15 6) (fld w 9 6) (fld w 0 6))
      else if fld w 6 3 = 2#3 then some (.srli (fld w 21 4) (fld w 15 6) (fld w 9 6) (fld w 0 6))
      else if fld w 6 3 = 4#3 then some (.srai (fld w 21 4) (fld w 15 6) (fld w 9 6) (fld w 0 6))
      else none
  | 0x08 =>
      some (.muli (fld w 21 4) (fld w 15 6) (fld w 9 6) (fld w 0 9))
  | 0x09 =>
      some (.sel (fld w 21 4) (fld w 15 6) (fld w 9 6) (fld w 3 6) (fld w 0 3))
  | 0x0A =>
      if fld w 0 2 = 0#2 then some (.cmpEq (fld w 21 4) (fld w 14 7) (fld w 8 6) (fld w 2 6))
      else if fld w 0 2 = 1#2 then some (.cmpNe (fld w 21 4) (fld w 14 7) (fld w 8 6) (fld w 2 6))
      else if fld w 0 2 = 2#2 then some (.cmpLt (fld w 21 4) (fld w 14 7) (fld w 8 6) (fld w 2 6))
      else if fld w 0 2 = 3#2 then some (.cmpLe (fld w 21 4) (fld w 14 7) (fld w 8 6) (fld w 2 6))
      else none
  | 0x0B =>
      if fld w 0 2 = 0#2 then some (.cmpLtu (fld w 21 4) (fld w 14 7) (fld w 8 6) (fld w 2 6))
      else if fld w 0 2 = 1#2 then some (.cmpLeu (fld w 21 4) (fld w 14 7) (fld w 8 6) (fld w 2 6))
      else if fld w 0 2 = 2#2 then some (.cmpTst (fld w 21 4) (fld w 14 7) (fld w 8 6) (fld w 2 6))
      else if fld w 0 2 = 3#2 then some (.cmpNtst (fld w 21 4) (fld w 14 7) (fld w 8 6) (fld w 2 6))
      else none
  | 0x0C =>
      if fld w 0 2 = 0#2 then some (.cmpiEq (fld w 21 4) (fld w 14 7) (fld w 8 6) (fld w 2 6))
      else if fld w 0 2 = 1#2 then some (.cmpiNe (fld w 21 4) (fld w 14 7) (fld w 8 6) (fld w 2 6))
      else if fld w 0 2 = 2#2 then some (.cmpiLt (fld w 21 4) (fld w 14 7) (fld w 8 6) (fld w 2 6))
      else if fld w 0 2 = 3#2 then some (.cmpiLe (fld w 21 4) (fld w 14 7) (fld w 8 6) (fld w 2 6))
      else none
  | 0x0D =>
      some (.pand (fld w 21 4) (fld w 14 7) (fld w 7 7) (fld w 0 7))
  | 0x0E =>
      some (.por (fld w 21 4) (fld w 14 7) (fld w 7 7) (fld w 0 7))
  | 0x0F =>
      some (.pxor (fld w 21 4) (fld w 14 7) (fld w 7 7) (fld w 0 7))
  | 0x10 =>
      some (.pandn (fld w 21 4) (fld w 14 7) (fld w 7 7) (fld w 0 7))
  | 0x11 =>
      if fld w 0 8 = 0#8 then some (.pset (fld w 21 4) (fld w 14 7) (fld w 8 6))
      else if fld w 0 8 = 1#8 then some (.pget (fld w 21 4) (fld w 14 7) (fld w 8 6))
      else if fld w 0 8 = 2#8 then some (.pcnt (fld w 21 4) (fld w 14 7) (fld w 8 6))
      else if fld w 0 8 = 3#8 then some (.pfirst (fld w 21 4) (fld w 14 7) (fld w 8 6))
      else none
  | 0x12 =>
      if fld w 13 5 = 0#5 then some (.setb (fld w 21 4) (fld w 18 3) (fld w 0 13))
      else if fld w 6 12 = 128#12 then some (.setbReg (fld w 21 4) (fld w 18 3) (fld w 0 6))
      else none
  | 0x13 =>
      if fld w 13 5 = 0#5 then some (.call (fld w 21 4) (fld w 18 3) (fld w 6 7) (fld w 0 6))
      else if fld w 13 8 = 1#8 then some (.ret (fld w 21 4) (fld w 6 7) (fld w 0 6))
      else if fld w 0 18 = 16384#18 then some (.lp0 (fld w 21 4) (fld w 18 3))
      else if fld w 0 18 = 24576#18 then some (.lp1 (fld w 21 4) (fld w 18 3))
      else if fld w 0 18 = 32768#18 then some (.lpe (fld w 21 4) (fld w 18 3))
      else none
  | 0x14 =>
      if fld w 18 1 = 0#1 then some (.lset (fld w 21 4) (fld w 19 2) (fld w 0 18))
      else if fld w 6 13 = 4096#13 then some (.lsetReg (fld w 21 4) (fld w 19 2) (fld w 0 6))
      else none
  | 0x15 =>
      if fld w 0 21 = 0#21 then some (.rotStep (fld w 21 4))
      else if fld w 18 3 = 2#3 then some (.rotSetv (fld w 21 4) (fld w 0 18))
      else if fld w 6 15 = 12288#15 then some (.rotSetvReg (fld w 21 4) (fld w 0 6))
      else if fld w 18 3 = 4#3 then some (.rotSetp (fld w 21 4) (fld w 0 18))
      else if fld w 6 15 = 20480#15 then some (.rotSetpReg (fld w 21 4) (fld w 0 6))
      else none
  | 0x16 =>
      if fld w 0 7 = 0#7 then some (.mfs (fld w 21 4) (fld w 15 6) (fld w 7 8))
      else none
  | 0x17 =>
      if fld w 0 7 = 0#7 then some (.mts (fld w 21 4) (fld w 15 6) (fld w 7 8))
      else none
  | 0x18 =>
      some (.adds (fld w 21 4) (fld w 15 6) (fld w 9 6) (fld w 3 6) (fld w 0 3))
  | 0x19 =>
      if fld w 0 9 = 0#9 then some (.clz (fld w 21 4) (fld w 15 6) (fld w 9 6))
      else if fld w 0 9 = 1#9 then some (.ctz (fld w 21 4) (fld w 15 6) (fld w 9 6))
      else if fld w 0 9 = 2#9 then some (.popc (fld w 21 4) (fld w 15 6) (fld w 9 6))
      else if fld w 0 9 = 3#9 then some (.rev8 (fld w 21 4) (fld w 15 6) (fld w 9 6))
      else none
  | 0x1A =>
      if fld w 0 9 = 0#9 then some (.sextB (fld w 21 4) (fld w 15 6) (fld w 9 6))
      else if fld w 0 9 = 1#9 then some (.sextH (fld w 21 4) (fld w 15 6) (fld w 9 6))
      else if fld w 0 9 = 2#9 then some (.sextW (fld w 21 4) (fld w 15 6) (fld w 9 6))
      else if fld w 0 9 = 3#9 then some (.zextB (fld w 21 4) (fld w 15 6) (fld w 9 6))
      else if fld w 0 9 = 4#9 then some (.zextH (fld w 21 4) (fld w 15 6) (fld w 9 6))
      else if fld w 0 9 = 5#9 then some (.zextW (fld w 21 4) (fld w 15 6) (fld w 9 6))
      else none
  | 0x1B =>
      some (.movi (fld w 21 4) (fld w 15 6) (fld w 0 15))
  | 0x1C =>
      if fld w 0 3 = 0#3 then some (.div (fld w 21 4) (fld w 15 6) (fld w 9 6) (fld w 3 6))
      else if fld w 0 3 = 1#3 then some (.divu (fld w 21 4) (fld w 15 6) (fld w 9 6) (fld w 3 6))
      else if fld w 0 3 = 2#3 then some (.rem (fld w 21 4) (fld w 15 6) (fld w 9 6) (fld w 3 6))
      else if fld w 0 3 = 3#3 then some (.remu (fld w 21 4) (fld w 15 6) (fld w 9 6) (fld w 3 6))
      else none
  | 0x20 =>
      some (.vadd (fld w 21 4) (fld w 15 6) (fld w 9 6) (fld w 3 6) (fld w 0 3))
  | 0x21 =>
      some (.vsub (fld w 21 4) (fld w 15 6) (fld w 9 6) (fld w 3 6) (fld w 0 3))
  | 0x22 =>
      some (.vmul (fld w 21 4) (fld w 15 6) (fld w 9 6) (fld w 3 6) (fld w 0 3))
  | 0x23 =>
      some (.vadds (fld w 21 4) (fld w 15 6) (fld w 9 6) (fld w 3 6) (fld w 0 3))
  | 0x24 =>
      some (.vsubs (fld w 21 4) (fld w 15 6) (fld w 9 6) (fld w 3 6) (fld w 0 3))
  | 0x25 =>
      some (.vmin (fld w 21 4) (fld w 15 6) (fld w 9 6) (fld w 3 6) (fld w 0 3))
  | 0x26 =>
      some (.vmax (fld w 21 4) (fld w 15 6) (fld w 9 6) (fld w 3 6) (fld w 0 3))
  | 0x27 =>
      if fld w 0 3 = 0#3 then some (.vand (fld w 21 4) (fld w 15 6) (fld w 9 6) (fld w 3 6))
      else if fld w 0 3 = 1#3 then some (.vor (fld w 21 4) (fld w 15 6) (fld w 9 6) (fld w 3 6))
      else if fld w 0 3 = 2#3 then some (.vxor (fld w 21 4) (fld w 15 6) (fld w 9 6) (fld w 3 6))
      else if fld w 0 3 = 3#3 then some (.vandn (fld w 21 4) (fld w 15 6) (fld w 9 6) (fld w 3 6))
      else if fld w 0 9 = 4#9 then some (.vnot (fld w 21 4) (fld w 15 6) (fld w 9 6))
      else none
  | 0x28 =>
      if fld w 0 3 = 0#3 then some (.vsll (fld w 21 4) (fld w 15 6) (fld w 9 6) (fld w 3 6))
      else if fld w 0 3 = 1#3 then some (.vsrl (fld w 21 4) (fld w 15 6) (fld w 9 6) (fld w 3 6))
      else if fld w 0 3 = 2#3 then some (.vsra (fld w 21 4) (fld w 15 6) (fld w 9 6) (fld w 3 6))
      else if fld w 0 3 = 3#3 then some (.vslls (fld w 21 4) (fld w 15 6) (fld w 9 6) (fld w 3 6))
      else if fld w 0 3 = 4#3 then some (.vsrls (fld w 21 4) (fld w 15 6) (fld w 9 6) (fld w 3 6))
      else if fld w 0 3 = 5#3 then some (.vsras (fld w 21 4) (fld w 15 6) (fld w 9 6) (fld w 3 6))
      else none
  | 0x29 =>
      some (.vfadd (fld w 21 4) (fld w 15 6) (fld w 9 6) (fld w 3 6) (fld w 0 3))
  | 0x2A =>
      some (.vfsub (fld w 21 4) (fld w 15 6) (fld w 9 6) (fld w 3 6) (fld w 0 3))
  | 0x2B =>
      some (.vfmul (fld w 21 4) (fld w 15 6) (fld w 9 6) (fld w 3 6) (fld w 0 3))
  | 0x2C =>
      some (.vfmin (fld w 21 4) (fld w 15 6) (fld w 9 6) (fld w 3 6) (fld w 0 3))
  | 0x2D =>
      some (.vfma (fld w 21 4) (fld w 15 6) (fld w 9 6) (fld w 3 6) (fld w 0 3))
  | 0x2E =>
      some (.vfms (fld w 21 4) (fld w 15 6) (fld w 9 6) (fld w 3 6) (fld w 0 3))
  | 0x2F =>
      some (.vfmax (fld w 21 4) (fld w 15 6) (fld w 9 6) (fld w 3 6) (fld w 0 3))
  | 0x30 =>
      some (.vcvtV0V31 (fld w 21 4) (fld w 15 6) (fld w 10 5) (fld w 5 5) (fld w 0 5))
  | 0x31 =>
      some (.vcvtV32V63 (fld w 21 4) (fld w 15 6) (fld w 10 5) (fld w 5 5) (fld w 0 5))
  | 0x32 =>
      some (.vcvtSatV0V31 (fld w 21 4) (fld w 15 6) (fld w 10 5) (fld w 5 5) (fld w 0 5))
  | 0x33 =>
      some (.vcvtSatV32V63 (fld w 21 4) (fld w 15 6) (fld w 10 5) (fld w 5 5) (fld w 0 5))
  | 0x34 =>
      if fld w 0 2 = 0#2 then some (.vcmpEq (fld w 21 4) (fld w 14 7) (fld w 8 6) (fld w 2 6))
      else if fld w 0 2 = 1#2 then some (.vcmpNe (fld w 21 4) (fld w 14 7) (fld w 8 6) (fld w 2 6))
      else if fld w 0 2 = 2#2 then some (.vcmpLt (fld w 21 4) (fld w 14 7) (fld w 8 6) (fld w 2 6))
      else if fld w 0 2 = 3#2 then some (.vcmpLe (fld w 21 4) (fld w 14 7) (fld w 8 6) (fld w 2 6))
      else none
  | 0x35 =>
      if fld w 0 2 = 0#2 then some (.vcmpuLtu (fld w 21 4) (fld w 14 7) (fld w 8 6) (fld w 2 6))
      else if fld w 0 2 = 1#2 then some (.vcmpuLeu (fld w 21 4) (fld w 14 7) (fld w 8 6) (fld w 2 6))
      else if fld w 0 2 = 2#2 then some (.vcmpuTst (fld w 21 4) (fld w 14 7) (fld w 8 6) (fld w 2 6))
      else if fld w 0 2 = 3#2 then some (.vcmpuNtst (fld w 21 4) (fld w 14 7) (fld w 8 6) (fld w 2 6))
      else none
  | 0x36 =>
      if fld w 0 2 = 0#2 then some (.vfcmpEq (fld w 21 4) (fld w 14 7) (fld w 8 6) (fld w 2 6))
      else if fld w 0 2 = 1#2 then some (.vfcmpNe (fld w 21 4) (fld w 14 7) (fld w 8 6) (fld w 2 6))
      else if fld w 0 2 = 2#2 then some (.vfcmpLt (fld w 21 4) (fld w 14 7) (fld w 8 6) (fld w 2 6))
      else if fld w 0 2 = 3#2 then some (.vfcmpLe (fld w 21 4) (fld w 14 7) (fld w 8 6) (fld w 2 6))
      else none
  | 0x37 =>
      some (.vsel (fld w 21 4) (fld w 15 6) (fld w 9 6) (fld w 3 6) (fld w 0 3))
  | 0x38 =>
      if fld w 0 3 = 0#3 then some (.vperm (fld w 21 4) (fld w 15 6) (fld w 9 6) (fld w 3 6))
      else if fld w 0 3 = 1#3 then some (.vrotl (fld w 21 4) (fld w 15 6) (fld w 9 6) (fld w 3 6))
      else if fld w 0 3 = 2#3 then some (.vbcl (fld w 21 4) (fld w 15 6) (fld w 9 6) (fld w 3 6))
      else if fld w 0 3 = 3#3 then some (.vzipl (fld w 21 4) (fld w 15 6) (fld w 9 6) (fld w 3 6))
      else if fld w 0 3 = 4#3 then some (.vziph (fld w 21 4) (fld w 15 6) (fld w 9 6) (fld w 3 6))
      else if fld w 0 3 = 5#3 then some (.vuzpl (fld w 21 4) (fld w 15 6) (fld w 9 6) (fld w 3 6))
      else if fld w 0 3 = 6#3 then some (.vuzph (fld w 21 4) (fld w 15 6) (fld w 9 6) (fld w 3 6))
      else none
  | 0x39 =>
      if fld w 0 9 = 0#9 then some (.vredFsum (fld w 21 4) (fld w 15 6) (fld w 9 6))
      else if fld w 0 9 = 1#9 then some (.vredIsum (fld w 21 4) (fld w 15 6) (fld w 9 6))
      else if fld w 0 9 = 2#9 then some (.vredFmax (fld w 21 4) (fld w 15 6) (fld w 9 6))
      else if fld w 0 9 = 3#9 then some (.vredFmin (fld w 21 4) (fld w 15 6) (fld w 9 6))
      else if fld w 0 9 = 4#9 then some (.vredImax (fld w 21 4) (fld w 15 6) (fld w 9 6))
      else if fld w 0 9 = 5#9 then some (.vredImin (fld w 21 4) (fld w 15 6) (fld w 9 6))
      else if fld w 0 9 = 6#9 then some (.vredAmax (fld w 21 4) (fld w 15 6) (fld w 9 6))
      else none
  | 0x3A =>
      if fld w 8 1 = 0#1 ∧ fld w 0 3 = 0#3 then some (.vtrLog2 (fld w 21 4) (fld w 15 6) (fld w 9 6) (fld w 3 5))
      else if fld w 8 1 = 0#1 ∧ fld w 0 3 = 1#3 then some (.vtrExp2 (fld w 21 4) (fld w 15 6) (fld w 9 6) (fld w 3 5))
      else if fld w 8 1 = 0#1 ∧ fld w 0 3 = 2#3 then some (.vtrRcp (fld w 21 4) (fld w 15 6) (fld w 9 6) (fld w 3 5))
      else if fld w 8 1 = 0#1 ∧ fld w 0 3 = 3#3 then some (.vtrRsqrt (fld w 21 4) (fld w 15 6) (fld w 9 6) (fld w 3 5))
      else if fld w 8 1 = 0#1 ∧ fld w 0 3 = 4#3 then some (.vtrSig (fld w 21 4) (fld w 15 6) (fld w 9 6) (fld w 3 5))
      else if fld w 8 1 = 0#1 ∧ fld w 0 3 = 5#3 then some (.vtrTanh (fld w 21 4) (fld w 15 6) (fld w 9 6) (fld w 3 5))
      else none
  | 0x3B =>
      if fld w 0 3 = 0#3 then some (.vhash (fld w 21 4) (fld w 15 6) (fld w 9 6) (fld w 3 6))
      else none
  | 0x3C =>
      if fld w 0 4 = 0#4 then some (.vacc (fld w 21 4) (fld w 15 6) (fld w 12 3) (fld w 7 5) (fld w 4 3))
      else if fld w 0 4 = 1#4 then some (.vaccLc (fld w 21 4) (fld w 15 6) (fld w 12 3) (fld w 7 5) (fld w 4 3))
      else none
  | 0x3D =>
      if fld w 0 9 = 0#9 then some (.vbc (fld w 21 4) (fld w 15 6) (fld w 9 6))
      else if fld w 0 3 = 1#3 then some (.vget (fld w 21 4) (fld w 15 6) (fld w 9 6) (fld w 3 6))
      else if fld w 0 3 = 2#3 then some (.vput (fld w 21 4) (fld w 15 6) (fld w 9 6) (fld w 3 6))
      else if fld w 0 9 = 3#9 then some (.viota (fld w 21 4) (fld w 15 6) (fld w 9 6))
      else none
  | 0x40 =>
      if fld w 0 12 = 0#12 then some (.mcall (fld w 21 4) (fld w 15 6) (fld w 12 3))
      else none
  | 0x41 =>
      if fld w 0 15 = 0#15 then some (.mwait (fld w 21 4) (fld w 15 6))
      else none
  | 0x42 =>
      if fld w 0 12 = 0#12 then some (.mpar (fld w 21 4) (fld w 18 3) (fld w 12 6))
      else none
  | 0x43 =>
      some (.mpari (fld w 21 4) (fld w 18 3) (fld w 0 18))
  | 0x44 =>
      if fld w 0 7 = 0#7 then some (.mft (fld w 21 4) (fld w 17 4) (fld w 12 5) (fld w 7 5))
      else none
  | 0x45 =>
      if fld w 0 13 = 0#13 then some (.mzero (fld w 21 4) (fld w 13 8))
      else none
  | 0x46 =>
      if fld w 0 7 = 0#7 then some (.mmovSt (fld w 21 4) (fld w 18 3) (fld w 12 6) (fld w 7 5))
      else if fld w 0 7 = 64#7 then some (.mmovStSat (fld w 21 4) (fld w 18 3) (fld w 12 6) (fld w 7 5))
      else if fld w 0 7 = 1#7 then some (.mmovLd (fld w 21 4) (fld w 18 3) (fld w 12 6) (fld w 7 5))
      else none
  | 0x47 =>
      if fld w 0 6 = 0#6 then some (.mrsw (fld w 21 4) (fld w 12 9) (fld w 6 6))
      else none
  | 0x48 =>
      if fld w 0 6 = 0#6 then some (.mrse (fld w 21 4) (fld w 15 6) (fld w 6 9))
      else none
  | 0x49 =>
      if fld w 0 15 = 0#15 then some (.mstat (fld w 21 4) (fld w 15 6))
      else if fld w 0 15 = 1#15 then some (.mstatCnt (fld w 21 4) (fld w 15 6))
      else none
  | 0x50 =>
      if fld w 0 3 = 0#3 then some (.ldB (fld w 21 4) (fld w 15 6) (fld w 9 6) (fld w 3 6))
      else if fld w 0 3 = 1#3 then some (.ldH (fld w 21 4) (fld w 15 6) (fld w 9 6) (fld w 3 6))
      else if fld w 0 3 = 2#3 then some (.ldW (fld w 21 4) (fld w 15 6) (fld w 9 6) (fld w 3 6))
      else if fld w 0 3 = 3#3 then some (.ldD (fld w 21 4) (fld w 15 6) (fld w 9 6) (fld w 3 6))
      else if fld w 0 3 = 4#3 then some (.ldBs (fld w 21 4) (fld w 15 6) (fld w 9 6) (fld w 3 6))
      else if fld w 0 3 = 5#3 then some (.ldHs (fld w 21 4) (fld w 15 6) (fld w 9 6) (fld w 3 6))
      else if fld w 0 3 = 6#3 then some (.ldWs (fld w 21 4) (fld w 15 6) (fld w 9 6) (fld w 3 6))
      else none
  | 0x51 =>
      if fld w 0 3 = 0#3 then some (.ldvB (fld w 21 4) (fld w 15 6) (fld w 9 6) (fld w 3 6))
      else if fld w 0 3 = 1#3 then some (.ldvH (fld w 21 4) (fld w 15 6) (fld w 9 6) (fld w 3 6))
      else if fld w 0 3 = 2#3 then some (.ldvW (fld w 21 4) (fld w 15 6) (fld w 9 6) (fld w 3 6))
      else if fld w 0 3 = 3#3 then some (.ldvD (fld w 21 4) (fld w 15 6) (fld w 9 6) (fld w 3 6))
      else if fld w 0 3 = 4#3 then some (.ldvBs (fld w 21 4) (fld w 15 6) (fld w 9 6) (fld w 3 6))
      else if fld w 0 3 = 5#3 then some (.ldvHs (fld w 21 4) (fld w 15 6) (fld w 9 6) (fld w 3 6))
      else if fld w 0 3 = 6#3 then some (.ldvWs (fld w 21 4) (fld w 15 6) (fld w 9 6) (fld w 3 6))
      else none
  | 0x52 =>
      if fld w 0 3 = 0#3 then some (.stB (fld w 21 4) (fld w 15 6) (fld w 9 6) (fld w 3 6))
      else if fld w 0 3 = 1#3 then some (.stH (fld w 21 4) (fld w 15 6) (fld w 9 6) (fld w 3 6))
      else if fld w 0 3 = 2#3 then some (.stW (fld w 21 4) (fld w 15 6) (fld w 9 6) (fld w 3 6))
      else if fld w 0 3 = 3#3 then some (.stD (fld w 21 4) (fld w 15 6) (fld w 9 6) (fld w 3 6))
      else none
  | 0x53 =>
      if fld w 0 3 = 0#3 then some (.stvB (fld w 21 4) (fld w 15 6) (fld w 9 6) (fld w 3 6))
      else if fld w 0 3 = 1#3 then some (.stvH (fld w 21 4) (fld w 15 6) (fld w 9 6) (fld w 3 6))
      else if fld w 0 3 = 2#3 then some (.stvW (fld w 21 4) (fld w 15 6) (fld w 9 6) (fld w 3 6))
      else if fld w 0 3 = 3#3 then some (.stvD (fld w 21 4) (fld w 15 6) (fld w 9 6) (fld w 3 6))
      else none
  | 0x54 =>
      if fld w 0 3 = 0#3 then some (.vldV (fld w 21 4) (fld w 15 6) (fld w 9 6) (fld w 3 6))
      else if fld w 0 3 = 1#3 then some (.vldBc (fld w 21 4) (fld w 15 6) (fld w 9 6) (fld w 3 6))
      else if fld w 0 3 = 2#3 then some (.vldH (fld w 21 4) (fld w 15 6) (fld w 9 6) (fld w 3 6))
      else none
  | 0x55 =>
      if fld w 0 3 = 0#3 then some (.vldvV (fld w 21 4) (fld w 15 6) (fld w 9 6) (fld w 3 6))
      else if fld w 0 3 = 1#3 then some (.vldvBc (fld w 21 4) (fld w 15 6) (fld w 9 6) (fld w 3 6))
      else if fld w 0 3 = 2#3 then some (.vldvH (fld w 21 4) (fld w 15 6) (fld w 9 6) (fld w 3 6))
      else none
  | 0x56 =>
      if fld w 0 3 = 0#3 then some (.vstV (fld w 21 4) (fld w 15 6) (fld w 9 6) (fld w 3 6))
      else if fld w 0 3 = 1#3 then some (.vstH (fld w 21 4) (fld w 15 6) (fld w 9 6) (fld w 3 6))
      else none
  | 0x57 =>
      if fld w 0 3 = 0#3 then some (.vstvV (fld w 21 4) (fld w 15 6) (fld w 9 6) (fld w 3 6))
      else if fld w 0 3 = 1#3 then some (.vstvH (fld w 21 4) (fld w 15 6) (fld w 9 6) (fld w 3 6))
      else none
  | 0x58 =>
      if fld w 0 9 = 0#9 then some (.bgtMap (fld w 21 4) (fld w 15 6) (fld w 9 6))
      else if fld w 0 15 = 1#15 then some (.bgtUnmap (fld w 21 4) (fld w 15 6))
      else if fld w 0 15 = 2#15 then some (.bgtFlush (fld w 21 4) (fld w 15 6))
      else if fld w 0 3 = 3#3 then some (.bgtTouch (fld w 21 4) (fld w 15 6) (fld w 9 6) (fld w 3 6))
      else if fld w 0 9 = 4#9 then some (.bgtQuery (fld w 21 4) (fld w 15 6) (fld w 9 6))
      else none
  | 0x59 =>
      if fld w 0 7 = 0#7 then some (.cpyG2s (fld w 21 4) (fld w 15 6) (fld w 9 6) (fld w 7 2))
      else if fld w 0 7 = 8#7 then some (.cpyS2g (fld w 21 4) (fld w 15 6) (fld w 9 6) (fld w 7 2))
      else if fld w 0 7 = 16#7 then some (.cpyS2s (fld w 21 4) (fld w 15 6) (fld w 9 6) (fld w 7 2))
      else if fld w 0 7 = 24#7 then some (.cpyG2g (fld w 21 4) (fld w 15 6) (fld w 9 6) (fld w 7 2))
      else if fld w 0 7 = 32#7 then some (.cpyGath (fld w 21 4) (fld w 15 6) (fld w 9 6) (fld w 7 2))
      else if fld w 0 7 = 40#7 then some (.cpyScat (fld w 21 4) (fld w 15 6) (fld w 9 6) (fld w 7 2))
      else if fld w 0 7 = 48#7 then some (.cpyMcast (fld w 21 4) (fld w 15 6) (fld w 9 6) (fld w 7 2))
      else if fld w 0 7 = 56#7 then some (.cpyTr (fld w 21 4) (fld w 15 6) (fld w 9 6) (fld w 7 2))
      else none
  | 0x5A =>
      if fld w 9 6 = 0#6 ∧ fld w 0 7 = 0#7 then some (.cqPop (fld w 21 4) (fld w 15 6) (fld w 7 2))
      else if fld w 0 7 = 1#7 then some (.cqProg (fld w 21 4) (fld w 15 6) (fld w 9 6) (fld w 7 2))
      else if fld w 9 6 = 0#6 ∧ fld w 0 7 = 2#7 then some (.cqCnt (fld w 21 4) (fld w 15 6) (fld w 7 2))
      else none
  | 0x5B =>
      if fld w 15 6 = 0#6 ∧ fld w 0 9 = 0#9 then some (.hyStart (fld w 21 4) (fld w 9 6))
      else if fld w 0 21 = 131072#21 then some (.hyStop (fld w 21 4))
      else if fld w 15 6 = 8#6 ∧ fld w 0 9 = 0#9 then some (.hyCred (fld w 21 4) (fld w 9 6))
      else if fld w 15 6 = 12#6 ∧ fld w 0 9 = 0#9 then some (.hyBase (fld w 21 4) (fld w 9 6))
      else if fld w 0 21 = 524288#21 then some (.hyClr (fld w 21 4))
      else if fld w 15 6 = 20#6 ∧ fld w 0 9 = 0#9 then some (.hyPop (fld w 21 4) (fld w 9 6))
      else if fld w 15 6 = 24#6 ∧ fld w 0 9 = 0#9 then some (.hyStat (fld w 21 4) (fld w 9 6))
      else if fld w 15 6 = 28#6 ∧ fld w 0 9 = 0#9 then some (.hyProg (fld w 21 4) (fld w 9 6))
      else if fld w 15 6 = 32#6 ∧ fld w 0 9 = 0#9 then some (.hyRdc (fld w 21 4) (fld w 9 6))
      else if fld w 0 21 = 1179648#21 then some (.hyDrop (fld w 21 4))
      else none
  | 0x5C =>
      if fld w 0 10 = 0#10 then some (.lsend (fld w 21 4) (fld w 18 3) (fld w 16 2) (fld w 10 6))
      else none
  | 0x5D =>
      if fld w 0 10 = 0#10 then some (.lrecv (fld w 21 4) (fld w 18 3) (fld w 16 2) (fld w 10 6))
      else none
  | 0x5E =>
      if fld w 0 3 = 0#3 then some (.amoAddW (fld w 21 4) (fld w 15 6) (fld w 9 6) (fld w 3 6))
      else if fld w 0 3 = 1#3 then some (.amoAndW (fld w 21 4) (fld w 15 6) (fld w 9 6) (fld w 3 6))
      else if fld w 0 3 = 2#3 then some (.amoOrW (fld w 21 4) (fld w 15 6) (fld w 9 6) (fld w 3 6))
      else if fld w 0 3 = 3#3 then some (.amoXorW (fld w 21 4) (fld w 15 6) (fld w 9 6) (fld w 3 6))
      else if fld w 0 3 = 4#3 then some (.amoMinW (fld w 21 4) (fld w 15 6) (fld w 9 6) (fld w 3 6))
      else if fld w 0 3 = 5#3 then some (.amoMaxW (fld w 21 4) (fld w 15 6) (fld w 9 6) (fld w 3 6))
      else if fld w 0 3 = 6#3 then some (.amoMinuW (fld w 21 4) (fld w 15 6) (fld w 9 6) (fld w 3 6))
      else if fld w 0 3 = 7#3 then some (.amoMaxuW (fld w 21 4) (fld w 15 6) (fld w 9 6) (fld w 3 6))
      else none
  | 0x5F =>
      if fld w 0 3 = 0#3 then some (.amoAddD (fld w 21 4) (fld w 15 6) (fld w 9 6) (fld w 3 6))
      else if fld w 0 3 = 1#3 then some (.amoAndD (fld w 21 4) (fld w 15 6) (fld w 9 6) (fld w 3 6))
      else if fld w 0 3 = 2#3 then some (.amoOrD (fld w 21 4) (fld w 15 6) (fld w 9 6) (fld w 3 6))
      else if fld w 0 3 = 3#3 then some (.amoXorD (fld w 21 4) (fld w 15 6) (fld w 9 6) (fld w 3 6))
      else if fld w 0 3 = 4#3 then some (.amoMinD (fld w 21 4) (fld w 15 6) (fld w 9 6) (fld w 3 6))
      else if fld w 0 3 = 5#3 then some (.amoMaxD (fld w 21 4) (fld w 15 6) (fld w 9 6) (fld w 3 6))
      else if fld w 0 3 = 6#3 then some (.amoMinuD (fld w 21 4) (fld w 15 6) (fld w 9 6) (fld w 3 6))
      else if fld w 0 3 = 7#3 then some (.amoMaxuD (fld w 21 4) (fld w 15 6) (fld w 9 6) (fld w 3 6))
      else none
  | 0x60 =>
      if fld w 0 3 = 0#3 then some (.amoxSwapW (fld w 21 4) (fld w 15 6) (fld w 9 6) (fld w 3 6))
      else if fld w 0 3 = 1#3 then some (.amoxSwapD (fld w 21 4) (fld w 15 6) (fld w 9 6) (fld w 3 6))
      else if fld w 0 3 = 2#3 then some (.amoxCasW (fld w 21 4) (fld w 15 6) (fld w 9 6) (fld w 3 6))
      else if fld w 0 3 = 3#3 then some (.amoxCasD (fld w 21 4) (fld w 15 6) (fld w 9 6) (fld w 3 6))
      else if fld w 0 3 = 4#3 then some (.amoxFaddF32 (fld w 21 4) (fld w 15 6) (fld w 9 6) (fld w 3 6))
      else none
  | 0x61 =>
      if fld w 15 6 = 0#6 ∧ fld w 0 3 = 0#3 then some (.redAddW (fld w 21 4) (fld w 9 6) (fld w 3 6))
      else if fld w 15 6 = 0#6 ∧ fld w 0 3 = 1#3 then some (.redAddD (fld w 21 4) (fld w 9 6) (fld w 3 6))
      else if fld w 15 6 = 0#6 ∧ fld w 0 3 = 2#3 then some (.redMinW (fld w 21 4) (fld w 9 6) (fld w 3 6))
      else if fld w 15 6 = 0#6 ∧ fld w 0 3 = 3#3 then some (.redMaxW (fld w 21 4) (fld w 9 6) (fld w 3 6))
      else if fld w 15 6 = 0#6 ∧ fld w 0 3 = 4#3 then some (.redMinuW (fld w 21 4) (fld w 9 6) (fld w 3 6))
      else if fld w 15 6 = 0#6 ∧ fld w 0 3 = 5#3 then some (.redMaxuW (fld w 21 4) (fld w 9 6) (fld w 3 6))
      else if fld w 15 6 = 0#6 ∧ fld w 0 3 = 6#3 then some (.redFaddF32 (fld w 21 4) (fld w 9 6) (fld w 3 6))
      else if fld w 15 6 = 0#6 ∧ fld w 0 3 = 7#3 then some (.redOrD (fld w 21 4) (fld w 9 6) (fld w 3 6))
      else none
  | 0x62 =>
      if fld w 0 9 = 0#9 then some (.scLdW (fld w 21 4) (fld w 15 6) (fld w 9 6))
      else if fld w 0 9 = 1#9 then some (.scLdD (fld w 21 4) (fld w 15 6) (fld w 9 6))
      else if fld w 15 6 = 0#6 ∧ fld w 0 3 = 2#3 then some (.scStW (fld w 21 4) (fld w 9 6) (fld w 3 6))
      else if fld w 15 6 = 0#6 ∧ fld w 0 3 = 3#3 then some (.scStD (fld w 21 4) (fld w 9 6) (fld w 3 6))
      else if fld w 0 3 = 4#3 then some (.scSwapW (fld w 21 4) (fld w 15 6) (fld w 9 6) (fld w 3 6))
      else if fld w 0 3 = 5#3 then some (.scSwapD (fld w 21 4) (fld w 15 6) (fld w 9 6) (fld w 3 6))
      else if fld w 0 3 = 6#3 then some (.scAddD (fld w 21 4) (fld w 15 6) (fld w 9 6) (fld w 3 6))
      else if fld w 0 3 = 7#3 then some (.scCasD (fld w 21 4) (fld w 15 6) (fld w 9 6) (fld w 3 6))
      else none
  | 0x63 =>
      if fld w 0 21 = 0#21 then some (.drainBraid (fld w 21 4))
      else if fld w 0 21 = 1#21 then some (.drainDie (fld w 21 4))
      else if fld w 0 21 = 2#21 then some (.drainDev (fld w 21 4))
      else if fld w 0 21 = 3#21 then some (.drainSys (fld w 21 4))
      else none
  | 0x64 =>
      if fld w 0 3 = 0#3 then some (.splCall (fld w 21 4) (fld w 15 6) (fld w 9 6) (fld w 3 6))
      else if fld w 0 3 = 1#3 then some (.splCalln (fld w 21 4) (fld w 15 6) (fld w 9 6) (fld w 3 6))
      else if fld w 0 9 = 2#9 then some (.splInst (fld w 21 4) (fld w 15 6) (fld w 9 6))
      else if fld w 0 15 = 3#15 then some (.splRm (fld w 21 4) (fld w 15 6))
      else none
  | 0x65 =>
      if fld w 15 6 = 0#6 ∧ fld w 0 3 = 0#3 then some (.knotAdd (fld w 21 4) (fld w 9 6) (fld w 3 6))
      else if fld w 0 9 = 1#9 then some (.knotRd (fld w 21 4) (fld w 15 6) (fld w 9 6))
      else if fld w 0 3 = 2#3 then some (.knotMax (fld w 21 4) (fld w 15 6) (fld w 9 6) (fld w 3 6))
      else if fld w 0 3 = 3#3 then some (.knotSwap (fld w 21 4) (fld w 15 6) (fld w 9 6) (fld w 3 6))
      else none
  | 0x66 =>
      if fld w 0 7 = 0#7 then some (.nrgQ (fld w 21 4) (fld w 15 6) (fld w 7 8))
      else if fld w 15 6 = 0#6 ∧ fld w 0 3 = 1#3 then some (.nrgVreg (fld w 21 4) (fld w 9 6) (fld w 3 6))
      else if fld w 15 6 = 0#6 ∧ fld w 0 9 = 2#9 then some (.nrgVsw (fld w 21 4) (fld w 9 6))
      else none
  | 0x67 =>
      if fld w 0 21 = 0#21 then some (.cend (fld w 21 4))
      else if fld w 15 6 = 0#6 ∧ fld w 0 3 = 1#3 then some (.trap (fld w 21 4) (fld w 3 12))
      else if fld w 0 21 = 2#21 then some (.rtu (fld w 21 4))
      else if fld w 0 21 = 3#21 then some (.bkpt (fld w 21 4))
      else none
  | 0x68 =>
      if fld w 0 9 = 0#9 then some (.pin (fld w 21 4) (fld w 15 6) (fld w 9 6))
      else if fld w 0 9 = 1#9 then some (.unpin (fld w 21 4) (fld w 15 6) (fld w 9 6))
      else none
  | 0x69 =>
      if fld w 15 6 = 0#6 ∧ fld w 0 9 = 0#9 then some (.dbgMark (fld w 21 4) (fld w 9 6))
      else if fld w 0 21 = 1#21 then some (.dbgBrk (fld w 21 4))
      else none
  | 0x6A =>
      if fld w 15 6 = 0#6 ∧ fld w 0 9 = 0#9 then some (.barBraid (fld w 21 4) (fld w 9 6))
      else none
  | _ => none

/-- The routine word w (R235); none when a reserved bit is set. -/
noncomputable def decodeRoutine (w : Word) : Option Instr :=
  match (fldR w 60 4).toNat with
  | 0 => if fldR w 0 60 = 0#60 then some (.routineEnd) else none
  | 1 => if fldR w 0 60 = 0#60 then some (.routineNop) else none
  | 2 => if fldR w 0 51 = 0#51 then some (.ldb (fldR w 59 1) (fldR w 54 5) (fldR w 51 3)) else none
  | 3 => if fldR w 0 43 = 0#43 then some (.pass (fldR w 57 3) (fldR w 52 5) (fldR w 47 5) (fldR w 46 1) (fldR w 43 3)) else none
  | 4 => if fldR w 0 43 = 0#43 then some (.passw (fldR w 57 3) (fldR w 52 5) (fldR w 47 5) (fldR w 46 1) (fldR w 43 3)) else none
  | 5 => some (.setp (fldR w 57 3) (fldR w 0 57))
  | 6 => some (.addp (fldR w 57 3) (fldR w 0 57))
  | 7 => if fldR w 13 46 = 0#46 then some (.setc (fldR w 59 1) (fldR w 0 13)) else none
  | 8 => if fldR w 9 50 = 0#50 then some (.loop (fldR w 59 1) (fldR w 0 9)) else none
  | 9 => if fldR w 9 48 = 0#48 then some (.skipz (fldR w 57 3) (fldR w 0 9)) else none
  | 10 => if fldR w 0 47 = 0#47 then some (.zero (fldR w 57 3) (fldR w 52 5) (fldR w 47 5)) else none
  | 11 => if fldR w 46 1 = 0#1 ∧ fldR w 0 43 = 0#43 then some (.bias (fldR w 57 3) (fldR w 52 5) (fldR w 47 5) (fldR w 43 3)) else none
  | 12 => if fldR w 46 1 = 0#1 ∧ fldR w 0 37 = 0#37 then some (.scale (fldR w 57 3) (fldR w 52 5) (fldR w 47 5) (fldR w 37 9)) else none
  | 13 => if fldR w 0 39 = 0#39 then some (.routineCopy (fldR w 57 3) (fldR w 52 5) (fldR w 47 5) (fldR w 44 3) (fldR w 39 5)) else none
  | 14 => if fldR w 0 39 = 0#39 then some (.addt (fldR w 57 3) (fldR w 52 5) (fldR w 47 5) (fldR w 44 3) (fldR w 39 5)) else none
  | 15 => if fldR w 0 47 = 0#47 then some (.maxz (fldR w 57 3) (fldR w 52 5) (fldR w 47 5)) else none
  | _ => none

/-- A decoded slot word whose operand values are valid too. -/
noncomputable def decodeWord (w : BitVec 32) : Option Instr :=
  match decodeBits w with
  | some i => if i.wf then some i else none
  | none => none

/-- The bits of a slot word are an assigned encoding with valid operands: decodeWord answers (R168, R173). A ret whose L is 4 is one: R190
gives L as for call, and R200 refuses L = 4 for call alone (DESIGN CHOICE, log 123). -/
def wordOk (w : BitVec 32) : Bool :=
  match (fld w 25 7).toNat with
  | 0x00 =>
      if fld w 0 25 = 0#25 then true
      else false
  | 0x01 =>
      if fld w 0 3 = 0#3 then true
      else if fld w 0 3 = 1#3 then true
      else if fld w 0 3 = 2#3 then true
      else if fld w 0 3 = 3#3 then true
      else if fld w 0 3 = 4#3 then true
      else if fld w 0 3 = 5#3 then true
      else if fld w 0 3 = 6#3 then true
      else if fld w 0 3 = 7#3 then true
      else false
  | 0x02 =>
      if fld w 0 3 = 0#3 then true
      else if fld w 0 3 = 1#3 then true
      else if fld w 0 3 = 2#3 then true
      else if fld w 0 3 = 3#3 then true
      else if fld w 0 3 = 4#3 then true
      else if fld w 0 3 = 5#3 then true
      else if fld w 0 3 = 6#3 then true
      else if fld w 0 3 = 7#3 then true
      else false
  | 0x03 =>
      true
  | 0x04 =>
      true
  | 0x05 =>
      true
  | 0x06 =>
      true
  | 0x07 =>
      if fld w 6 3 = 0#3 then true
      else if fld w 6 3 = 2#3 then true
      else if fld w 6 3 = 4#3 then true
      else false
  | 0x08 =>
      true
  | 0x09 =>
      true
  | 0x0A =>
      if fld w 0 2 = 0#2 then true
      else if fld w 0 2 = 1#2 then true
      else if fld w 0 2 = 2#2 then true
      else if fld w 0 2 = 3#2 then true
      else false
  | 0x0B =>
      if fld w 0 2 = 0#2 then true
      else if fld w 0 2 = 1#2 then true
      else if fld w 0 2 = 2#2 then true
      else if fld w 0 2 = 3#2 then true
      else false
  | 0x0C =>
      if fld w 0 2 = 0#2 then true
      else if fld w 0 2 = 1#2 then true
      else if fld w 0 2 = 2#2 then true
      else if fld w 0 2 = 3#2 then true
      else false
  | 0x0D =>
      true
  | 0x0E =>
      true
  | 0x0F =>
      true
  | 0x10 =>
      true
  | 0x11 =>
      if fld w 0 8 = 0#8 then true
      else if fld w 0 8 = 1#8 then true
      else if fld w 0 8 = 2#8 then true
      else if fld w 0 8 = 3#8 then true
      else false
  | 0x12 =>
      if fld w 13 5 = 0#5 then true
      else if fld w 6 12 = 128#12 then true
      else false
  | 0x13 =>
      if fld w 13 5 = 0#5 then (fld w 0 6) ≠ 4
      else if fld w 13 8 = 1#8 then true
      else if fld w 0 18 = 16384#18 then true
      else if fld w 0 18 = 24576#18 then true
      else if fld w 0 18 = 32768#18 then true
      else false
  | 0x14 =>
      if fld w 18 1 = 0#1 then (fld w 19 2) ≠ 3 && ((fld w 19 2) ≠ 2 || (fld w 0 18).toNat ≤ 65535)
      else if fld w 6 13 = 4096#13 then (fld w 19 2) ≠ 3
      else false
  | 0x15 =>
      if fld w 0 21 = 0#21 then true
      else if fld w 18 3 = 2#3 then (fld w 0 18).toNat ≤ 31
      else if fld w 6 15 = 12288#15 then true
      else if fld w 18 3 = 4#3 then (fld w 0 18).toNat ≤ 63
      else if fld w 6 15 = 20480#15 then true
      else false
  | 0x16 =>
      if fld w 0 7 = 0#7 then (fld w 7 8).toNat ≤ 13
      else false
  | 0x17 =>
      if fld w 0 7 = 0#7 then (fld w 7 8).toNat ≤ 13
      else false
  | 0x18 =>
      true
  | 0x19 =>
      if fld w 0 9 = 0#9 then true
      else if fld w 0 9 = 1#9 then true
      else if fld w 0 9 = 2#9 then true
      else if fld w 0 9 = 3#9 then true
      else false
  | 0x1A =>
      if fld w 0 9 = 0#9 then true
      else if fld w 0 9 = 1#9 then true
      else if fld w 0 9 = 2#9 then true
      else if fld w 0 9 = 3#9 then true
      else if fld w 0 9 = 4#9 then true
      else if fld w 0 9 = 5#9 then true
      else false
  | 0x1B =>
      true
  | 0x1C =>
      if fld w 0 3 = 0#3 then true
      else if fld w 0 3 = 1#3 then true
      else if fld w 0 3 = 2#3 then true
      else if fld w 0 3 = 3#3 then true
      else false
  | 0x20 =>
      true
  | 0x21 =>
      true
  | 0x22 =>
      true
  | 0x23 =>
      true
  | 0x24 =>
      true
  | 0x25 =>
      true
  | 0x26 =>
      true
  | 0x27 =>
      if fld w 0 3 = 0#3 then true
      else if fld w 0 3 = 1#3 then true
      else if fld w 0 3 = 2#3 then true
      else if fld w 0 3 = 3#3 then true
      else if fld w 0 9 = 4#9 then true
      else false
  | 0x28 =>
      if fld w 0 3 = 0#3 then true
      else if fld w 0 3 = 1#3 then true
      else if fld w 0 3 = 2#3 then true
      else if fld w 0 3 = 3#3 then true
      else if fld w 0 3 = 4#3 then true
      else if fld w 0 3 = 5#3 then true
      else false
  | 0x29 =>
      (fld w 0 3).toNat ≤ 2
  | 0x2A =>
      (fld w 0 3).toNat ≤ 2
  | 0x2B =>
      (fld w 0 3).toNat ≤ 2
  | 0x2C =>
      (fld w 0 3).toNat ≤ 2
  | 0x2D =>
      (fld w 0 3).toNat ≤ 2
  | 0x2E =>
      (fld w 0 3).toNat ≤ 2
  | 0x2F =>
      (fld w 0 3).toNat ≤ 2
  | 0x30 =>
      cvtFmtOk (fld w 5 5) && cvtFmtOk (fld w 0 5)
  | 0x31 =>
      cvtFmtOk (fld w 5 5) && cvtFmtOk (fld w 0 5)
  | 0x32 =>
      cvtFmtOk (fld w 5 5) && cvtFmtOk (fld w 0 5)
  | 0x33 =>
      cvtFmtOk (fld w 5 5) && cvtFmtOk (fld w 0 5)
  | 0x34 =>
      if fld w 0 2 = 0#2 then true
      else if fld w 0 2 = 1#2 then true
      else if fld w 0 2 = 2#2 then true
      else if fld w 0 2 = 3#2 then true
      else false
  | 0x35 =>
      if fld w 0 2 = 0#2 then true
      else if fld w 0 2 = 1#2 then true
      else if fld w 0 2 = 2#2 then true
      else if fld w 0 2 = 3#2 then true
      else false
  | 0x36 =>
      if fld w 0 2 = 0#2 then true
      else if fld w 0 2 = 1#2 then true
      else if fld w 0 2 = 2#2 then true
      else if fld w 0 2 = 3#2 then true
      else false
  | 0x37 =>
      true
  | 0x38 =>
      if fld w 0 3 = 0#3 then true
      else if fld w 0 3 = 1#3 then true
      else if fld w 0 3 = 2#3 then true
      else if fld w 0 3 = 3#3 then true
      else if fld w 0 3 = 4#3 then true
      else if fld w 0 3 = 5#3 then true
      else if fld w 0 3 = 6#3 then true
      else false
  | 0x39 =>
      if fld w 0 9 = 0#9 then true
      else if fld w 0 9 = 1#9 then true
      else if fld w 0 9 = 2#9 then true
      else if fld w 0 9 = 3#9 then true
      else if fld w 0 9 = 4#9 then true
      else if fld w 0 9 = 5#9 then true
      else if fld w 0 9 = 6#9 then true
      else false
  | 0x3A =>
      if fld w 8 1 = 0#1 ∧ fld w 0 3 = 0#3 then 8 ≤ (fld w 3 5).toNat && (fld w 3 5).toNat ≤ 10
      else if fld w 8 1 = 0#1 ∧ fld w 0 3 = 1#3 then 8 ≤ (fld w 3 5).toNat && (fld w 3 5).toNat ≤ 10
      else if fld w 8 1 = 0#1 ∧ fld w 0 3 = 2#3 then 8 ≤ (fld w 3 5).toNat && (fld w 3 5).toNat ≤ 10
      else if fld w 8 1 = 0#1 ∧ fld w 0 3 = 3#3 then 8 ≤ (fld w 3 5).toNat && (fld w 3 5).toNat ≤ 10
      else if fld w 8 1 = 0#1 ∧ fld w 0 3 = 4#3 then 8 ≤ (fld w 3 5).toNat && (fld w 3 5).toNat ≤ 10
      else if fld w 8 1 = 0#1 ∧ fld w 0 3 = 5#3 then 8 ≤ (fld w 3 5).toNat && (fld w 3 5).toNat ≤ 10
      else false
  | 0x3B =>
      if fld w 0 3 = 0#3 then true
      else false
  | 0x3C =>
      if fld w 0 4 = 0#4 then (fld w 4 3).toNat ≤ 5
      else if fld w 0 4 = 1#4 then (fld w 4 3).toNat ≤ 5
      else false
  | 0x3D =>
      if fld w 0 9 = 0#9 then true
      else if fld w 0 3 = 1#3 then true
      else if fld w 0 3 = 2#3 then true
      else if fld w 0 9 = 3#9 then true
      else false
  | 0x40 =>
      if fld w 0 12 = 0#12 then true
      else false
  | 0x41 =>
      if fld w 0 15 = 0#15 then true
      else false
  | 0x42 =>
      if fld w 0 12 = 0#12 then true
      else false
  | 0x43 =>
      true
  | 0x44 =>
      if fld w 0 7 = 0#7 then pairOk (fld w 12 5) (fld w 7 5)
      else false
  | 0x45 =>
      if fld w 0 13 = 0#13 then (fld w 13 8) ≠ 0
      else false
  | 0x46 =>
      if fld w 0 7 = 0#7 then mmovFmtOk (fld w 7 5)
      else if fld w 0 7 = 64#7 then mmovFmtOk (fld w 7 5)
      else if fld w 0 7 = 1#7 then mmovFmtOk (fld w 7 5)
      else false
  | 0x47 =>
      if fld w 0 6 = 0#6 then true
      else false
  | 0x48 =>
      if fld w 0 6 = 0#6 then true
      else false
  | 0x49 =>
      if fld w 0 15 = 0#15 then true
      else if fld w 0 15 = 1#15 then true
      else false
  | 0x50 =>
      if fld w 0 3 = 0#3 then true
      else if fld w 0 3 = 1#3 then true
      else if fld w 0 3 = 2#3 then true
      else if fld w 0 3 = 3#3 then true
      else if fld w 0 3 = 4#3 then true
      else if fld w 0 3 = 5#3 then true
      else if fld w 0 3 = 6#3 then true
      else false
  | 0x51 =>
      if fld w 0 3 = 0#3 then true
      else if fld w 0 3 = 1#3 then true
      else if fld w 0 3 = 2#3 then true
      else if fld w 0 3 = 3#3 then true
      else if fld w 0 3 = 4#3 then true
      else if fld w 0 3 = 5#3 then true
      else if fld w 0 3 = 6#3 then true
      else false
  | 0x52 =>
      if fld w 0 3 = 0#3 then true
      else if fld w 0 3 = 1#3 then true
      else if fld w 0 3 = 2#3 then true
      else if fld w 0 3 = 3#3 then true
      else false
  | 0x53 =>
      if fld w 0 3 = 0#3 then true
      else if fld w 0 3 = 1#3 then true
      else if fld w 0 3 = 2#3 then true
      else if fld w 0 3 = 3#3 then true
      else false
  | 0x54 =>
      if fld w 0 3 = 0#3 then true
      else if fld w 0 3 = 1#3 then true
      else if fld w 0 3 = 2#3 then true
      else false
  | 0x55 =>
      if fld w 0 3 = 0#3 then true
      else if fld w 0 3 = 1#3 then true
      else if fld w 0 3 = 2#3 then true
      else false
  | 0x56 =>
      if fld w 0 3 = 0#3 then true
      else if fld w 0 3 = 1#3 then true
      else false
  | 0x57 =>
      if fld w 0 3 = 0#3 then true
      else if fld w 0 3 = 1#3 then true
      else false
  | 0x58 =>
      if fld w 0 9 = 0#9 then true
      else if fld w 0 15 = 1#15 then true
      else if fld w 0 15 = 2#15 then true
      else if fld w 0 3 = 3#3 then true
      else if fld w 0 9 = 4#9 then true
      else false
  | 0x59 =>
      if fld w 0 7 = 0#7 then (fld w 7 2).toNat ≤ 1
      else if fld w 0 7 = 8#7 then (fld w 7 2).toNat ≤ 1
      else if fld w 0 7 = 16#7 then (fld w 7 2).toNat ≤ 1
      else if fld w 0 7 = 24#7 then (fld w 7 2).toNat ≤ 1
      else if fld w 0 7 = 32#7 then (fld w 7 2).toNat ≤ 1
      else if fld w 0 7 = 40#7 then (fld w 7 2).toNat ≤ 1
      else if fld w 0 7 = 48#7 then (fld w 7 2).toNat ≤ 1
      else if fld w 0 7 = 56#7 then (fld w 7 2).toNat ≤ 1
      else false
  | 0x5A =>
      if fld w 9 6 = 0#6 ∧ fld w 0 7 = 0#7 then (fld w 7 2).toNat ≤ 1
      else if fld w 0 7 = 1#7 then (fld w 7 2).toNat ≤ 1
      else if fld w 9 6 = 0#6 ∧ fld w 0 7 = 2#7 then (fld w 7 2).toNat ≤ 1
      else false
  | 0x5B =>
      if fld w 15 6 = 0#6 ∧ fld w 0 9 = 0#9 then true
      else if fld w 0 21 = 131072#21 then true
      else if fld w 15 6 = 8#6 ∧ fld w 0 9 = 0#9 then true
      else if fld w 15 6 = 12#6 ∧ fld w 0 9 = 0#9 then true
      else if fld w 0 21 = 524288#21 then true
      else if fld w 15 6 = 20#6 ∧ fld w 0 9 = 0#9 then true
      else if fld w 15 6 = 24#6 ∧ fld w 0 9 = 0#9 then true
      else if fld w 15 6 = 28#6 ∧ fld w 0 9 = 0#9 then true
      else if fld w 15 6 = 32#6 ∧ fld w 0 9 = 0#9 then true
      else if fld w 0 21 = 1179648#21 then true
      else false
  | 0x5C =>
      if fld w 0 10 = 0#10 then true
      else false
  | 0x5D =>
      if fld w 0 10 = 0#10 then true
      else false
  | 0x5E =>
      if fld w 0 3 = 0#3 then true
      else if fld w 0 3 = 1#3 then true
      else if fld w 0 3 = 2#3 then true
      else if fld w 0 3 = 3#3 then true
      else if fld w 0 3 = 4#3 then true
      else if fld w 0 3 = 5#3 then true
      else if fld w 0 3 = 6#3 then true
      else if fld w 0 3 = 7#3 then true
      else false
  | 0x5F =>
      if fld w 0 3 = 0#3 then true
      else if fld w 0 3 = 1#3 then true
      else if fld w 0 3 = 2#3 then true
      else if fld w 0 3 = 3#3 then true
      else if fld w 0 3 = 4#3 then true
      else if fld w 0 3 = 5#3 then true
      else if fld w 0 3 = 6#3 then true
      else if fld w 0 3 = 7#3 then true
      else false
  | 0x60 =>
      if fld w 0 3 = 0#3 then true
      else if fld w 0 3 = 1#3 then true
      else if fld w 0 3 = 2#3 then true
      else if fld w 0 3 = 3#3 then true
      else if fld w 0 3 = 4#3 then true
      else false
  | 0x61 =>
      if fld w 15 6 = 0#6 ∧ fld w 0 3 = 0#3 then true
      else if fld w 15 6 = 0#6 ∧ fld w 0 3 = 1#3 then true
      else if fld w 15 6 = 0#6 ∧ fld w 0 3 = 2#3 then true
      else if fld w 15 6 = 0#6 ∧ fld w 0 3 = 3#3 then true
      else if fld w 15 6 = 0#6 ∧ fld w 0 3 = 4#3 then true
      else if fld w 15 6 = 0#6 ∧ fld w 0 3 = 5#3 then true
      else if fld w 15 6 = 0#6 ∧ fld w 0 3 = 6#3 then true
      else if fld w 15 6 = 0#6 ∧ fld w 0 3 = 7#3 then true
      else false
  | 0x62 =>
      if fld w 0 9 = 0#9 then true
      else if fld w 0 9 = 1#9 then true
      else if fld w 15 6 = 0#6 ∧ fld w 0 3 = 2#3 then true
      else if fld w 15 6 = 0#6 ∧ fld w 0 3 = 3#3 then true
      else if fld w 0 3 = 4#3 then true
      else if fld w 0 3 = 5#3 then true
      else if fld w 0 3 = 6#3 then true
      else if fld w 0 3 = 7#3 then true
      else false
  | 0x63 =>
      if fld w 0 21 = 0#21 then true
      else if fld w 0 21 = 1#21 then true
      else if fld w 0 21 = 2#21 then true
      else if fld w 0 21 = 3#21 then true
      else false
  | 0x64 =>
      if fld w 0 3 = 0#3 then true
      else if fld w 0 3 = 1#3 then true
      else if fld w 0 9 = 2#9 then true
      else if fld w 0 15 = 3#15 then true
      else false
  | 0x65 =>
      if fld w 15 6 = 0#6 ∧ fld w 0 3 = 0#3 then true
      else if fld w 0 9 = 1#9 then true
      else if fld w 0 3 = 2#3 then true
      else if fld w 0 3 = 3#3 then true
      else false
  | 0x66 =>
      if fld w 0 7 = 0#7 then (fld w 7 8).toNat ≤ 11
      else if fld w 15 6 = 0#6 ∧ fld w 0 3 = 1#3 then true
      else if fld w 15 6 = 0#6 ∧ fld w 0 9 = 2#9 then true
      else false
  | 0x67 =>
      if fld w 0 21 = 0#21 then true
      else if fld w 15 6 = 0#6 ∧ fld w 0 3 = 1#3 then true
      else if fld w 0 21 = 2#21 then true
      else if fld w 0 21 = 3#21 then true
      else false
  | 0x68 =>
      if fld w 0 9 = 0#9 then true
      else if fld w 0 9 = 1#9 then true
      else false
  | 0x69 =>
      if fld w 15 6 = 0#6 ∧ fld w 0 9 = 0#9 then true
      else if fld w 0 21 = 1#21 then true
      else false
  | 0x6A =>
      if fld w 15 6 = 0#6 ∧ fld w 0 9 = 0#9 then true
      else false
  | _ => false

/-- Major opcodes that a slot accepts (R172); opcode 0 is nop in every slot. -/
def slotAccepts (k : Slot) (op : Nat) : Bool :=
  op = 0 || match k with
  | .s => 0x01 ≤ op && op ≤ 0x1C
  | .v0 => 0x20 ≤ op && op ≤ 0x3D
  | .v1 => 0x20 ≤ op && op ≤ 0x3D && op ≠ 0x3C
  | .m => 0x40 ≤ op && op ≤ 0x49
  | .x => 0x50 ≤ op && op ≤ 0x6A

/-- Assigned major opcodes (R172). -/
def opAssigned (op : Nat) : Bool :=
  op ≤ 0x1C || (0x20 ≤ op && op ≤ 0x3D) || (0x40 ≤ op && op ≤ 0x49) || (0x50 ≤ op && op ≤ 0x6A)

/-- The opcode needs an engine that the team does not own: an M operation or VACC without the matrix engine (R225), hy
without the halyard (R266). -/
def unowned (mtx hal : Bool) (op : Nat) : Bool :=
  (!mtx && ((0x40 ≤ op && op ≤ 0x49) || op = 0x3C)) || (!hal && op = 0x5B)

/-- A reserved bit of the slot word is set (R168, R200, R224, R246, R272, R296). -/
def rsvdSet (w : BitVec 32) : Bool :=
  let f3 := (fld w 0 3).toNat
  let nz := fun lo len => fld w lo len ≠ 0
  match (fld w 25 7).toNat with
  | 0x00 => nz 0 25
  | 0x07 => nz 6 1
  | 0x11 => nz 3 5
  | 0x12 => (fld w 13 5).toNat = 1 && nz 6 7
  | 0x13 =>
    match (fld w 13 5).toNat with
    | 1 => nz 18 3
    | 2 | 3 | 4 => nz 0 13
    | _ => false
  | 0x14 => fld w 18 1 = 1 && nz 6 12
  | 0x15 => ((fld w 19 2).toNat = 0 && nz 0 19) || (fld w 18 1 = 1 && nz 6 12)
  | 0x16 | 0x17 => nz 0 7
  | 0x19 | 0x1A => nz 3 6
  | 0x27 => f3 = 4 && nz 3 6
  | 0x39 => nz 3 6
  | 0x3A => nz 8 1
  | 0x3B => nz 0 3
  | 0x3D => (f3 = 0 || f3 = 3) && nz 3 6
  | 0x40 | 0x42 => nz 0 12
  | 0x41 => nz 0 15
  | 0x44 => nz 0 7
  | 0x45 => nz 0 13
  | 0x46 => nz 3 3
  | 0x47 | 0x48 => nz 0 6
  | 0x49 => nz 3 12
  | 0x58 =>
    match f3 with
    | 0 | 4 => nz 3 6
    | 1 | 2 => nz 3 12
    | _ => false
  | 0x59 => nz 0 3
  | 0x5A => nz 3 4 || ((f3 = 0 || f3 = 2) && nz 9 6)
  | 0x5B => nz 15 2 || nz 0 9 ||
      ((fld w 17 4 = 1 || fld w 17 4 = 4 || fld w 17 4 = 9) && nz 9 6)
  | 0x5C | 0x5D => nz 0 10
  | 0x61 => nz 15 6
  | 0x62 =>
    match f3 with
    | 0 | 1 => nz 3 6
    | 2 | 3 => nz 15 6
    | _ => false
  | 0x63 => nz 3 18
  | 0x64 =>
    match f3 with
    | 2 => nz 3 6
    | 3 => nz 3 12
    | _ => false
  | 0x65 =>
    match f3 with
    | 0 => nz 15 6
    | 1 => nz 3 6
    | _ => false
  | 0x66 =>
    match f3 with
    | 0 => nz 3 4
    | 1 => nz 15 6
    | 2 => nz 15 6 || nz 3 6
    | _ => false
  | 0x67 =>
    match f3 with
    | 0 | 2 | 3 => nz 3 18
    | 1 => nz 15 6
    | _ => false
  | 0x68 => nz 3 6
  | 0x69 =>
    match f3 with
    | 0 => nz 15 6 || nz 3 6
    | 1 => nz 3 18
    | _ => false
  | 0x6A => nz 15 6 || nz 3 6
  | _ => false

/-- The first of OPCODE, SLOT, RSVD, FUNC, SREG of a slot word in slot k (R174); none when the word is an operation. -/
def slotCause (mtx hal : Bool) (k : Slot) (w : BitVec 32) : Option Cause :=
  let op := (fld w 25 7).toNat
  if !opAssigned op then some .opcode
  else if !slotAccepts k op || unowned mtx hal op then some .slot
  else if rsvdSet w then some .rsvd
  else if wordOk w then none
  else if op = 0x16 || op = 0x17 then some .sreg else some .func

/-- A signed immediate field of the word holds its escape value (R169). -/
def holdsEscape (w : BitVec 32) : Bool :=
  match (fld w 25 7).toNat with
  | 0x03 | 0x04 | 0x05 | 0x06 | 0x08 => fld w 0 9 = 0x100
  | 0x0C => fld w 2 6 = 0x20
  | 0x1B => fld w 0 15 = 0x4000
  | 0x43 => fld w 0 18 = 0x20000
  | _ => false

/-- The word is a control-transfer operation (R188). -/
def isCtl (w : BitVec 32) : Bool := (fld w 25 7).toNat = 0x13

/-- The word is rtu (R293). -/
def isRtu (w : BitVec 32) : Bool := (fld w 25 7).toNat = 0x67 && fld w 0 3 = 2

/-- The word's opcode is marked ordered (R172). -/
def isOrdered (w : BitVec 32) : Bool :=
  let op := (fld w 25 7).toNat
  op = 0x5E || op = 0x5F || op = 0x60 || op = 0x61 || op = 0x64 || op = 0x65

/-- Cause ORDER for the X word under XORD and XSCOPE (R132, R166, R173, R280, R285, R290). -/
def orderBad (w : BitVec 32) (xord xscope : BitVec 2) : Bool :=
  let op := (fld w 25 7).toNat
  let f3 := (fld w 0 3).toNat
  let acq := xord = 1 || xord = 3
  (!isOrdered w && (xord ≠ 0 || xscope ≠ 0)) || (xord = 0 && xscope ≠ 0) ||
  (acq && (op = 0x61 || (op = 0x64 && f3 = 1) || (op = 0x65 && f3 = 0))) ||
  (xord ≠ 0 && op = 0x64 && (f3 = 2 || f3 = 3))

/-- The tree of a shape code (R171), tests in pre-order, leaves from left to right. -/
def treeOfShape (n : Nat) : Option Tree :=
  let o := Tree.leaf
  let t := Tree.node
  match n with
  | 0 => some (t o o)
  | 1 => some (t (t o o) o)
  | 2 => some (t o (t o o))
  | 3 => some (t (t (t o o) o) o)
  | 4 => some (t (t o (t o o)) o)
  | 5 => some (t (t o o) (t o o))
  | 6 => some (t o (t (t o o) o))
  | 7 => some (t o (t o (t o o)))
  | 8 => some (t (t (t (t o o) o) o) o)
  | 9 => some (t (t (t o (t o o)) o) o)
  | 10 => some (t (t (t o o) (t o o)) o)
  | 11 => some (t (t o (t (t o o) o)) o)
  | 12 => some (t (t o (t o (t o o))) o)
  | 13 => some (t (t (t o o) o) (t o o))
  | 14 => some (t (t o (t o o)) (t o o))
  | 15 => some (t (t o o) (t (t o o) o))
  | 16 => some (t (t o o) (t o (t o o)))
  | 17 => some (t o (t (t (t o o) o) o))
  | 18 => some (t o (t (t o (t o o)) o))
  | 19 => some (t o (t (t o o) (t o o)))
  | 20 => some (t o (t o (t (t o o) o)))
  | 21 => some (t o (t o (t o (t o o))))
  | _ => none

/-- Number of tests of a tree; it has one leaf more (R64). -/
def Tree.tests : Tree → Nat
  | .leaf => 0
  | .node l r => l.tests + r.tests + 1

/-- Number of leaves of a tree. -/
def Tree.leaves : Tree → Nat
  | .leaf => 1
  | .node l r => l.leaves + r.leaves

/-- Test mode of a 2-bit code (R170). -/
def testMode (m : BitVec 2) : TestMode :=
  if m = 0 then .l0 else if m = 1 then .any else if m = 2 then .all else .none

/-- Test i of a tree word (R170). -/
def treeTest (w : Word) (i : Nat) : TreeTest := ⟨testMode (fldR w (9 * i + 7) 2), fldR w (9 * i) 7⟩

/-- Leaf j of a tree word: none is fall-through (R170). -/
def treeLeaf (w : Word) (j : Nat) : Option (BitVec 3) :=
  if fldR w (39 + 4 * j) 1 = 1 then some (fldR w (36 + 4 * j) 3) else none

/-- A malformed leaf, or a non-zero unused test or leaf (R173 TREE). -/
def treeWordBad (t : Tree) (w : Word) : Bool :=
  (List.range 5).any (fun j =>
    let l := fldR w (36 + 4 * j) 4
    (j < t.leaves && l ≠ 0 && l.toNat < 8) || (t.leaves ≤ j && l ≠ 0)) ||
  (List.range 4).any (fun i => t.tests ≤ i && fldR w (9 * i) 9 ≠ 0)

/-- A path tag that the bundle cannot have (R65, R68). -/
def tagBad (t : Bool) (leaves : Nat) (tag : BitVec 3) : Bool :=
  if t then 1 ≤ tag.toNat && tag.toNat ≤ 5 && leaves < tag.toNat else tag ≠ 0 && tag ≠ 7

/-- Causes LIMM and TREE of a slot word within its bundle (R169, R188, R293). -/
def slotInBundle (k : Slot) (t : Bool) (tag : BitVec 3) (sCtl : Bool) (w : BitVec 32) : Option Cause :=
  if t && holdsEscape w then some .limm
  else if k = .s && isCtl w && (t || tag ≠ 0) then some .tree
  else if k = .x && isRtu w && (t || sCtl) then some .tree
  else none

/-- A 32-bit part of a bundle (R165). -/
def bundlePart (b : BitVec 256) (i : Nat) : BitVec 32 := b.extractLsb' (32 * i) 32

/-- The tree word or long-immediate word of a bundle (R165). -/
def bundleLast (b : BitVec 256) : Word := b.extractLsb' 192 64

/-- The first cause of ILLEGAL that the encoding decides, with its part, in the order of R174 (all but PC, DEST, INH). Only an operation that
its slot accepts counts as a field that holds its escape; so does an mpari in a team without the matrix engine, which the M slot accepts and
R225 refuses with SLOT, part 3 (DESIGN CHOICE, log 80). -/
def bundleCause (mtx hal : Bool) (b : BitVec 256) : Option (Cause × BitVec 3) :=
  let h := bundlePart b 0
  let t := fld h 1 1 = 1
  let shape := (fld h 2 5).toNat
  let last := bundleLast b
  let ws := bundlePart b 1
  let wm := bundlePart b 4
  let wx := bundlePart b 5
  let tr := (treeOfShape shape).getD .leaf
  let tag := fun i => fld h (7 + 3 * i) 3
  let slots : List (Slot × Nat) := [(.s, 0), (.v0, 1), (.v1, 2), (.m, 3), (.x, 4)]
  if fld h 26 6 ≠ 0 then some (.rsvd, 5)
  else if (t && (treeOfShape shape).isNone) || (!t && shape ≠ 0) then some (.tree, 5)
  else if slots.any (fun p => tagBad t tr.leaves (tag p.2)) then some (.tree, 5)
  else if t && fldR last 56 8 ≠ 0 then some (.rsvd, 6)
  else if t && treeWordBad tr last then some (.tree, 6)
  else if !t && last ≠ 0 && !(holdsEscape ws && slotAccepts .s (fld ws 25 7).toNat) &&
      !(holdsEscape wm && slotAccepts .m (fld wm 25 7).toNat) then some (.limm, 6)
  else
    match slots.findSome? (fun p =>
      let w := bundlePart b (p.2 + 1)
      let c := match slotCause mtx hal p.1 w with
        | some c => some c
        | none => slotInBundle p.1 t (tag p.2) (isCtl ws) w
      c.map (fun c => (c, BitVec.ofNat 3 p.2))) with
    | some r => some r
    | none => if orderBad wx (fld h 22 2) (fld h 24 2) then some (.order, 4) else none

/-- The decoded bundle, or the first cause of ILLEGAL that its encoding decides. -/
noncomputable def decodeBundle (mtx hal : Bool) (b : BitVec 256) : Except (Cause × BitVec 3) Bundle :=
  match bundleCause mtx hal b with
  | some c => .error c
  | none =>
    let h := bundlePart b 0
    let t := fld h 1 1 = 1
    let last := bundleLast b
    let tr := if t then (treeOfShape (fld h 2 5).toNat).getD .leaf else .leaf
    let op := fun i => (decodeWord (bundlePart b (i + 1))).getD .nop
    .ok { drain := fld h 0 1 = 1, t := t, tree := tr
          tests := (List.range tr.tests).map (treeTest last)
          leaves := if t then (List.range tr.leaves).map (treeLeaf last) else [none]
          tagS := fld h 7 3, tagV0 := fld h 10 3, tagV1 := fld h 13 3, tagM := fld h 16 3, tagX := fld h 19 3
          xord := fld h 22 2, xscope := fld h 24 2, limm := if t then 0 else last
          opS := op 0, opV0 := op 1, opV1 := op 2, opM := op 3, opX := op 4 }

/-- The slot in which a slot word's opcode stands, V0 for a vector operation (R172). -/
def slotOf (w : BitVec 32) : Slot :=
  let op := (fld w 25 7).toNat
  if op < 0x20 then .s else if op < 0x40 then .v0 else if op < 0x50 then .m else .x

/-- Number of a slot as in R174. -/
def Slot.no : Slot → Nat
  | .s => 0
  | .v0 => 1
  | .v1 => 2
  | .m => 3
  | .x => 4

/-- The bundle that holds the slot word w in its slot and nops elsewhere, tag and guard as w has them, no tree. -/
def bundleOf (w : BitVec 32) : BitVec 256 := BitVec.ofNat 256 (w.toNat * 2 ^ (32 * ((slotOf w).no + 1)))

/-- The words of an instruction: a slot word of 32 bits or a routine word of 64; an event has none. -/
def encode : Instr → Option Encoding
  | .nop => some (.slot (pack7_25 0#7 0#25))
  | .add g d a b => some (.slot (pack7_4_6_6_6_3 1#7 g d a b 0#3))
  | .sub g d a b => some (.slot (pack7_4_6_6_6_3 1#7 g d a b 1#3))
  | .and g d a b => some (.slot (pack7_4_6_6_6_3 1#7 g d a b 2#3))
  | .or g d a b => some (.slot (pack7_4_6_6_6_3 1#7 g d a b 3#3))
  | .xor g d a b => some (.slot (pack7_4_6_6_6_3 1#7 g d a b 4#3))
  | .andn g d a b => some (.slot (pack7_4_6_6_6_3 1#7 g d a b 5#3))
  | .min g d a b => some (.slot (pack7_4_6_6_6_3 1#7 g d a b 6#3))
  | .max g d a b => some (.slot (pack7_4_6_6_6_3 1#7 g d a b 7#3))
  | .minu g d a b => some (.slot (pack7_4_6_6_6_3 2#7 g d a b 0#3))
  | .maxu g d a b => some (.slot (pack7_4_6_6_6_3 2#7 g d a b 1#3))
  | .mul g d a b => some (.slot (pack7_4_6_6_6_3 2#7 g d a b 2#3))
  | .mulh g d a b => some (.slot (pack7_4_6_6_6_3 2#7 g d a b 3#3))
  | .mulhu g d a b => some (.slot (pack7_4_6_6_6_3 2#7 g d a b 4#3))
  | .sll g d a b => some (.slot (pack7_4_6_6_6_3 2#7 g d a b 5#3))
  | .srl g d a b => some (.slot (pack7_4_6_6_6_3 2#7 g d a b 6#3))
  | .sra g d a b => some (.slot (pack7_4_6_6_6_3 2#7 g d a b 7#3))
  | .addi g d a i => some (.slot (pack7_4_6_6_9 3#7 g d a i))
  | .andi g d a i => some (.slot (pack7_4_6_6_9 4#7 g d a i))
  | .ori g d a i => some (.slot (pack7_4_6_6_9 5#7 g d a i))
  | .xori g d a i => some (.slot (pack7_4_6_6_9 6#7 g d a i))
  | .slli g d a n => some (.slot (pack7_4_6_6_3_6 7#7 g d a 0#3 n))
  | .srli g d a n => some (.slot (pack7_4_6_6_3_6 7#7 g d a 2#3 n))
  | .srai g d a n => some (.slot (pack7_4_6_6_3_6 7#7 g d a 4#3 n))
  | .muli g d a i => some (.slot (pack7_4_6_6_9 8#7 g d a i))
  | .sel g d a b p => some (.slot (pack7_4_6_6_6_3 9#7 g d a b p))
  | .cmpEq g p a b => some (.slot (pack7_4_7_6_6_2 10#7 g p a b 0#2))
  | .cmpNe g p a b => some (.slot (pack7_4_7_6_6_2 10#7 g p a b 1#2))
  | .cmpLt g p a b => some (.slot (pack7_4_7_6_6_2 10#7 g p a b 2#2))
  | .cmpLe g p a b => some (.slot (pack7_4_7_6_6_2 10#7 g p a b 3#2))
  | .cmpLtu g p a b => some (.slot (pack7_4_7_6_6_2 11#7 g p a b 0#2))
  | .cmpLeu g p a b => some (.slot (pack7_4_7_6_6_2 11#7 g p a b 1#2))
  | .cmpTst g p a b => some (.slot (pack7_4_7_6_6_2 11#7 g p a b 2#2))
  | .cmpNtst g p a b => some (.slot (pack7_4_7_6_6_2 11#7 g p a b 3#2))
  | .cmpiEq g p a i => some (.slot (pack7_4_7_6_6_2 12#7 g p a i 0#2))
  | .cmpiNe g p a i => some (.slot (pack7_4_7_6_6_2 12#7 g p a i 1#2))
  | .cmpiLt g p a i => some (.slot (pack7_4_7_6_6_2 12#7 g p a i 2#2))
  | .cmpiLe g p a i => some (.slot (pack7_4_7_6_6_2 12#7 g p a i 3#2))
  | .pand g d a b => some (.slot (pack7_4_7_7_7 13#7 g d a b))
  | .por g d a b => some (.slot (pack7_4_7_7_7 14#7 g d a b))
  | .pxor g d a b => some (.slot (pack7_4_7_7_7 15#7 g d a b))
  | .pandn g d a b => some (.slot (pack7_4_7_7_7 16#7 g d a b))
  | .pset g p a => some (.slot (pack7_4_7_6_8 17#7 g p a 0#8))
  | .pget g p a => some (.slot (pack7_4_7_6_8 17#7 g p a 1#8))
  | .pcnt g p a => some (.slot (pack7_4_7_6_8 17#7 g p a 2#8))
  | .pfirst g p a => some (.slot (pack7_4_7_6_8 17#7 g p a 3#8))
  | .setb g b t => some (.slot (pack7_4_3_5_13 18#7 g b 0#5 t))
  | .setbReg g b s => some (.slot (pack7_4_3_12_6 18#7 g b 128#12 s))
  | .call g b f l => some (.slot (pack7_4_3_5_7_6 19#7 g b 0#5 f l))
  | .ret g f l => some (.slot (pack7_4_8_7_6 19#7 g 1#8 f l))
  | .lp0 g b => some (.slot (pack7_4_3_18 19#7 g b 16384#18))
  | .lp1 g b => some (.slot (pack7_4_3_18 19#7 g b 24576#18))
  | .lpe g b => some (.slot (pack7_4_3_18 19#7 g b 32768#18))
  | .lset g c i => some (.slot (pack7_4_2_1_18 20#7 g c 0#1 i))
  | .lsetReg g c s => some (.slot (pack7_4_2_13_6 20#7 g c 4096#13 s))
  | .rotStep g => some (.slot (pack7_4_21 21#7 g 0#21))
  | .rotSetv g i => some (.slot (pack7_4_3_18 21#7 g 2#3 i))
  | .rotSetvReg g s => some (.slot (pack7_4_15_6 21#7 g 12288#15 s))
  | .rotSetp g i => some (.slot (pack7_4_3_18 21#7 g 4#3 i))
  | .rotSetpReg g s => some (.slot (pack7_4_15_6 21#7 g 20480#15 s))
  | .mfs g d r => some (.slot (pack7_4_6_8_7 22#7 g d r 0#7))
  | .mts g d r => some (.slot (pack7_4_6_8_7 23#7 g d r 0#7))
  | .adds g d a b k => some (.slot (pack7_4_6_6_6_3 24#7 g d a b k))
  | .clz g d a => some (.slot (pack7_4_6_6_9 25#7 g d a 0#9))
  | .ctz g d a => some (.slot (pack7_4_6_6_9 25#7 g d a 1#9))
  | .popc g d a => some (.slot (pack7_4_6_6_9 25#7 g d a 2#9))
  | .rev8 g d a => some (.slot (pack7_4_6_6_9 25#7 g d a 3#9))
  | .sextB g d a => some (.slot (pack7_4_6_6_9 26#7 g d a 0#9))
  | .sextH g d a => some (.slot (pack7_4_6_6_9 26#7 g d a 1#9))
  | .sextW g d a => some (.slot (pack7_4_6_6_9 26#7 g d a 2#9))
  | .zextB g d a => some (.slot (pack7_4_6_6_9 26#7 g d a 3#9))
  | .zextH g d a => some (.slot (pack7_4_6_6_9 26#7 g d a 4#9))
  | .zextW g d a => some (.slot (pack7_4_6_6_9 26#7 g d a 5#9))
  | .movi g d i => some (.slot (pack7_4_6_15 27#7 g d i))
  | .div g d a b => some (.slot (pack7_4_6_6_6_3 28#7 g d a b 0#3))
  | .divu g d a b => some (.slot (pack7_4_6_6_6_3 28#7 g d a b 1#3))
  | .rem g d a b => some (.slot (pack7_4_6_6_6_3 28#7 g d a b 2#3))
  | .remu g d a b => some (.slot (pack7_4_6_6_6_3 28#7 g d a b 3#3))
  | .vadd g d a b t => some (.slot (pack7_4_6_6_6_3 32#7 g d a b t))
  | .vsub g d a b t => some (.slot (pack7_4_6_6_6_3 33#7 g d a b t))
  | .vmul g d a b t => some (.slot (pack7_4_6_6_6_3 34#7 g d a b t))
  | .vadds g d a b t => some (.slot (pack7_4_6_6_6_3 35#7 g d a b t))
  | .vsubs g d a b t => some (.slot (pack7_4_6_6_6_3 36#7 g d a b t))
  | .vmin g d a b t => some (.slot (pack7_4_6_6_6_3 37#7 g d a b t))
  | .vmax g d a b t => some (.slot (pack7_4_6_6_6_3 38#7 g d a b t))
  | .vand g d a b => some (.slot (pack7_4_6_6_6_3 39#7 g d a b 0#3))
  | .vor g d a b => some (.slot (pack7_4_6_6_6_3 39#7 g d a b 1#3))
  | .vxor g d a b => some (.slot (pack7_4_6_6_6_3 39#7 g d a b 2#3))
  | .vandn g d a b => some (.slot (pack7_4_6_6_6_3 39#7 g d a b 3#3))
  | .vnot g d a => some (.slot (pack7_4_6_6_9 39#7 g d a 4#9))
  | .vsll g d a b => some (.slot (pack7_4_6_6_6_3 40#7 g d a b 0#3))
  | .vsrl g d a b => some (.slot (pack7_4_6_6_6_3 40#7 g d a b 1#3))
  | .vsra g d a b => some (.slot (pack7_4_6_6_6_3 40#7 g d a b 2#3))
  | .vslls g d a s => some (.slot (pack7_4_6_6_6_3 40#7 g d a s 3#3))
  | .vsrls g d a s => some (.slot (pack7_4_6_6_6_3 40#7 g d a s 4#3))
  | .vsras g d a s => some (.slot (pack7_4_6_6_6_3 40#7 g d a s 5#3))
  | .vfadd g d a b t => some (.slot (pack7_4_6_6_6_3 41#7 g d a b t))
  | .vfsub g d a b t => some (.slot (pack7_4_6_6_6_3 42#7 g d a b t))
  | .vfmul g d a b t => some (.slot (pack7_4_6_6_6_3 43#7 g d a b t))
  | .vfmin g d a b t => some (.slot (pack7_4_6_6_6_3 44#7 g d a b t))
  | .vfma g d a b t => some (.slot (pack7_4_6_6_6_3 45#7 g d a b t))
  | .vfms g d a b t => some (.slot (pack7_4_6_6_6_3 46#7 g d a b t))
  | .vfmax g d a b t => some (.slot (pack7_4_6_6_6_3 47#7 g d a b t))
  | .vcvtV0V31 g d a f s => some (.slot (pack7_4_6_5_5_5 48#7 g d a f s))
  | .vcvtV32V63 g d a f s => some (.slot (pack7_4_6_5_5_5 49#7 g d a f s))
  | .vcvtSatV0V31 g d a f s => some (.slot (pack7_4_6_5_5_5 50#7 g d a f s))
  | .vcvtSatV32V63 g d a f s => some (.slot (pack7_4_6_5_5_5 51#7 g d a f s))
  | .vcmpEq g p a b => some (.slot (pack7_4_7_6_6_2 52#7 g p a b 0#2))
  | .vcmpNe g p a b => some (.slot (pack7_4_7_6_6_2 52#7 g p a b 1#2))
  | .vcmpLt g p a b => some (.slot (pack7_4_7_6_6_2 52#7 g p a b 2#2))
  | .vcmpLe g p a b => some (.slot (pack7_4_7_6_6_2 52#7 g p a b 3#2))
  | .vcmpuLtu g p a b => some (.slot (pack7_4_7_6_6_2 53#7 g p a b 0#2))
  | .vcmpuLeu g p a b => some (.slot (pack7_4_7_6_6_2 53#7 g p a b 1#2))
  | .vcmpuTst g p a b => some (.slot (pack7_4_7_6_6_2 53#7 g p a b 2#2))
  | .vcmpuNtst g p a b => some (.slot (pack7_4_7_6_6_2 53#7 g p a b 3#2))
  | .vfcmpEq g p a b => some (.slot (pack7_4_7_6_6_2 54#7 g p a b 0#2))
  | .vfcmpNe g p a b => some (.slot (pack7_4_7_6_6_2 54#7 g p a b 1#2))
  | .vfcmpLt g p a b => some (.slot (pack7_4_7_6_6_2 54#7 g p a b 2#2))
  | .vfcmpLe g p a b => some (.slot (pack7_4_7_6_6_2 54#7 g p a b 3#2))
  | .vsel g d a b p => some (.slot (pack7_4_6_6_6_3 55#7 g d a b p))
  | .vperm g d a b => some (.slot (pack7_4_6_6_6_3 56#7 g d a b 0#3))
  | .vrotl g d a s => some (.slot (pack7_4_6_6_6_3 56#7 g d a s 1#3))
  | .vbcl g d a s => some (.slot (pack7_4_6_6_6_3 56#7 g d a s 2#3))
  | .vzipl g d a b => some (.slot (pack7_4_6_6_6_3 56#7 g d a b 3#3))
  | .vziph g d a b => some (.slot (pack7_4_6_6_6_3 56#7 g d a b 4#3))
  | .vuzpl g d a b => some (.slot (pack7_4_6_6_6_3 56#7 g d a b 5#3))
  | .vuzph g d a b => some (.slot (pack7_4_6_6_6_3 56#7 g d a b 6#3))
  | .vredFsum g d a => some (.slot (pack7_4_6_6_9 57#7 g d a 0#9))
  | .vredIsum g d a => some (.slot (pack7_4_6_6_9 57#7 g d a 1#9))
  | .vredFmax g d a => some (.slot (pack7_4_6_6_9 57#7 g d a 2#9))
  | .vredFmin g d a => some (.slot (pack7_4_6_6_9 57#7 g d a 3#9))
  | .vredImax g d a => some (.slot (pack7_4_6_6_9 57#7 g d a 4#9))
  | .vredImin g d a => some (.slot (pack7_4_6_6_9 57#7 g d a 5#9))
  | .vredAmax g d a => some (.slot (pack7_4_6_6_9 57#7 g d a 6#9))
  | .vtrLog2 g d a m => some (.slot (pack7_4_6_6_1_5_3 58#7 g d a 0#1 m 0#3))
  | .vtrExp2 g d a m => some (.slot (pack7_4_6_6_1_5_3 58#7 g d a 0#1 m 1#3))
  | .vtrRcp g d a m => some (.slot (pack7_4_6_6_1_5_3 58#7 g d a 0#1 m 2#3))
  | .vtrRsqrt g d a m => some (.slot (pack7_4_6_6_1_5_3 58#7 g d a 0#1 m 3#3))
  | .vtrSig g d a m => some (.slot (pack7_4_6_6_1_5_3 58#7 g d a 0#1 m 4#3))
  | .vtrTanh g d a m => some (.slot (pack7_4_6_6_1_5_3 58#7 g d a 0#1 m 5#3))
  | .vhash g d a b => some (.slot (pack7_4_6_6_6_3 59#7 g d a b 0#3))
  | .vacc g d c r k => some (.slot (pack7_4_6_3_5_3_4 60#7 g d c r k 0#4))
  | .vaccLc g d c r k => some (.slot (pack7_4_6_3_5_3_4 60#7 g d c r k 1#4))
  | .vbc g d a => some (.slot (pack7_4_6_6_9 61#7 g d a 0#9))
  | .vget g d a b => some (.slot (pack7_4_6_6_6_3 61#7 g d a b 1#3))
  | .vput g d a b => some (.slot (pack7_4_6_6_6_3 61#7 g d a b 2#3))
  | .viota g d a => some (.slot (pack7_4_6_6_9 61#7 g d a 3#9))
  | .mcall g e c => some (.slot (pack7_4_6_3_12 64#7 g e c 0#12))
  | .mwait g d => some (.slot (pack7_4_6_15 65#7 g d 0#15))
  | .mpar g m a => some (.slot (pack7_4_3_6_12 66#7 g m a 0#12))
  | .mpari g m i => some (.slot (pack7_4_3_18 67#7 g m i))
  | .mft g f a b => some (.slot (pack7_4_4_5_5_7 68#7 g f a b 0#7))
  | .mzero g k => some (.slot (pack7_4_8_13 69#7 g k 0#13))
  | .mmovSt g c a o => some (.slot (pack7_4_3_6_5_7 70#7 g c a o 0#7))
  | .mmovStSat g c a o => some (.slot (pack7_4_3_6_5_7 70#7 g c a o 64#7))
  | .mmovLd g c a o => some (.slot (pack7_4_3_6_5_7 70#7 g c a o 1#7))
  | .mrsw g i a => some (.slot (pack7_4_9_6_6 71#7 g i a 0#6))
  | .mrse g e i => some (.slot (pack7_4_6_9_6 72#7 g e i 0#6))
  | .mstat g d => some (.slot (pack7_4_6_15 73#7 g d 0#15))
  | .mstatCnt g d => some (.slot (pack7_4_6_15 73#7 g d 1#15))
  | .ldB g d a k => some (.slot (pack7_4_6_6_6_3 80#7 g d a k 0#3))
  | .ldH g d a k => some (.slot (pack7_4_6_6_6_3 80#7 g d a k 1#3))
  | .ldW g d a k => some (.slot (pack7_4_6_6_6_3 80#7 g d a k 2#3))
  | .ldD g d a k => some (.slot (pack7_4_6_6_6_3 80#7 g d a k 3#3))
  | .ldBs g d a k => some (.slot (pack7_4_6_6_6_3 80#7 g d a k 4#3))
  | .ldHs g d a k => some (.slot (pack7_4_6_6_6_3 80#7 g d a k 5#3))
  | .ldWs g d a k => some (.slot (pack7_4_6_6_6_3 80#7 g d a k 6#3))
  | .ldvB g d a k => some (.slot (pack7_4_6_6_6_3 81#7 g d a k 0#3))
  | .ldvH g d a k => some (.slot (pack7_4_6_6_6_3 81#7 g d a k 1#3))
  | .ldvW g d a k => some (.slot (pack7_4_6_6_6_3 81#7 g d a k 2#3))
  | .ldvD g d a k => some (.slot (pack7_4_6_6_6_3 81#7 g d a k 3#3))
  | .ldvBs g d a k => some (.slot (pack7_4_6_6_6_3 81#7 g d a k 4#3))
  | .ldvHs g d a k => some (.slot (pack7_4_6_6_6_3 81#7 g d a k 5#3))
  | .ldvWs g d a k => some (.slot (pack7_4_6_6_6_3 81#7 g d a k 6#3))
  | .stB g d a k => some (.slot (pack7_4_6_6_6_3 82#7 g d a k 0#3))
  | .stH g d a k => some (.slot (pack7_4_6_6_6_3 82#7 g d a k 1#3))
  | .stW g d a k => some (.slot (pack7_4_6_6_6_3 82#7 g d a k 2#3))
  | .stD g d a k => some (.slot (pack7_4_6_6_6_3 82#7 g d a k 3#3))
  | .stvB g d a k => some (.slot (pack7_4_6_6_6_3 83#7 g d a k 0#3))
  | .stvH g d a k => some (.slot (pack7_4_6_6_6_3 83#7 g d a k 1#3))
  | .stvW g d a k => some (.slot (pack7_4_6_6_6_3 83#7 g d a k 2#3))
  | .stvD g d a k => some (.slot (pack7_4_6_6_6_3 83#7 g d a k 3#3))
  | .vldV g d a k => some (.slot (pack7_4_6_6_6_3 84#7 g d a k 0#3))
  | .vldBc g d a k => some (.slot (pack7_4_6_6_6_3 84#7 g d a k 1#3))
  | .vldH g d a k => some (.slot (pack7_4_6_6_6_3 84#7 g d a k 2#3))
  | .vldvV g d a k => some (.slot (pack7_4_6_6_6_3 85#7 g d a k 0#3))
  | .vldvBc g d a k => some (.slot (pack7_4_6_6_6_3 85#7 g d a k 1#3))
  | .vldvH g d a k => some (.slot (pack7_4_6_6_6_3 85#7 g d a k 2#3))
  | .vstV g d a k => some (.slot (pack7_4_6_6_6_3 86#7 g d a k 0#3))
  | .vstH g d a k => some (.slot (pack7_4_6_6_6_3 86#7 g d a k 1#3))
  | .vstvV g d a k => some (.slot (pack7_4_6_6_6_3 87#7 g d a k 0#3))
  | .vstvH g d a k => some (.slot (pack7_4_6_6_6_3 87#7 g d a k 1#3))
  | .bgtMap g n a => some (.slot (pack7_4_6_6_9 88#7 g n a 0#9))
  | .bgtUnmap g n => some (.slot (pack7_4_6_15 88#7 g n 1#15))
  | .bgtFlush g n => some (.slot (pack7_4_6_15 88#7 g n 2#15))
  | .bgtTouch g n a b => some (.slot (pack7_4_6_6_6_3 88#7 g n a b 3#3))
  | .bgtQuery g n a => some (.slot (pack7_4_6_6_9 88#7 g n a 4#9))
  | .cpyG2s g d a e => some (.slot (pack7_4_6_6_2_7 89#7 g d a e 0#7))
  | .cpyS2g g d a e => some (.slot (pack7_4_6_6_2_7 89#7 g d a e 8#7))
  | .cpyS2s g d a e => some (.slot (pack7_4_6_6_2_7 89#7 g d a e 16#7))
  | .cpyG2g g d a e => some (.slot (pack7_4_6_6_2_7 89#7 g d a e 24#7))
  | .cpyGath g d a e => some (.slot (pack7_4_6_6_2_7 89#7 g d a e 32#7))
  | .cpyScat g d a e => some (.slot (pack7_4_6_6_2_7 89#7 g d a e 40#7))
  | .cpyMcast g d a e => some (.slot (pack7_4_6_6_2_7 89#7 g d a e 48#7))
  | .cpyTr g d a e => some (.slot (pack7_4_6_6_2_7 89#7 g d a e 56#7))
  | .cqPop g d e => some (.slot (pack7_4_6_6_2_7 90#7 g d 0#6 e 0#7))
  | .cqProg g d a e => some (.slot (pack7_4_6_6_2_7 90#7 g d a e 1#7))
  | .cqCnt g d e => some (.slot (pack7_4_6_6_2_7 90#7 g d 0#6 e 2#7))
  | .hyStart g a => some (.slot (pack7_4_6_6_9 91#7 g 0#6 a 0#9))
  | .hyStop g => some (.slot (pack7_4_21 91#7 g 131072#21))
  | .hyCred g a => some (.slot (pack7_4_6_6_9 91#7 g 8#6 a 0#9))
  | .hyBase g a => some (.slot (pack7_4_6_6_9 91#7 g 12#6 a 0#9))
  | .hyClr g => some (.slot (pack7_4_21 91#7 g 524288#21))
  | .hyPop g a => some (.slot (pack7_4_6_6_9 91#7 g 20#6 a 0#9))
  | .hyStat g a => some (.slot (pack7_4_6_6_9 91#7 g 24#6 a 0#9))
  | .hyProg g a => some (.slot (pack7_4_6_6_9 91#7 g 28#6 a 0#9))
  | .hyRdc g a => some (.slot (pack7_4_6_6_9 91#7 g 32#6 a 0#9))
  | .hyDrop g => some (.slot (pack7_4_21 91#7 g 1179648#21))
  | .lsend g l v a => some (.slot (pack7_4_3_2_6_10 92#7 g l v a 0#10))
  | .lrecv g l v a => some (.slot (pack7_4_3_2_6_10 93#7 g l v a 0#10))
  | .amoAddW g d a b => some (.slot (pack7_4_6_6_6_3 94#7 g d a b 0#3))
  | .amoAndW g d a b => some (.slot (pack7_4_6_6_6_3 94#7 g d a b 1#3))
  | .amoOrW g d a b => some (.slot (pack7_4_6_6_6_3 94#7 g d a b 2#3))
  | .amoXorW g d a b => some (.slot (pack7_4_6_6_6_3 94#7 g d a b 3#3))
  | .amoMinW g d a b => some (.slot (pack7_4_6_6_6_3 94#7 g d a b 4#3))
  | .amoMaxW g d a b => some (.slot (pack7_4_6_6_6_3 94#7 g d a b 5#3))
  | .amoMinuW g d a b => some (.slot (pack7_4_6_6_6_3 94#7 g d a b 6#3))
  | .amoMaxuW g d a b => some (.slot (pack7_4_6_6_6_3 94#7 g d a b 7#3))
  | .amoAddD g d a b => some (.slot (pack7_4_6_6_6_3 95#7 g d a b 0#3))
  | .amoAndD g d a b => some (.slot (pack7_4_6_6_6_3 95#7 g d a b 1#3))
  | .amoOrD g d a b => some (.slot (pack7_4_6_6_6_3 95#7 g d a b 2#3))
  | .amoXorD g d a b => some (.slot (pack7_4_6_6_6_3 95#7 g d a b 3#3))
  | .amoMinD g d a b => some (.slot (pack7_4_6_6_6_3 95#7 g d a b 4#3))
  | .amoMaxD g d a b => some (.slot (pack7_4_6_6_6_3 95#7 g d a b 5#3))
  | .amoMinuD g d a b => some (.slot (pack7_4_6_6_6_3 95#7 g d a b 6#3))
  | .amoMaxuD g d a b => some (.slot (pack7_4_6_6_6_3 95#7 g d a b 7#3))
  | .amoxSwapW g d a b => some (.slot (pack7_4_6_6_6_3 96#7 g d a b 0#3))
  | .amoxSwapD g d a b => some (.slot (pack7_4_6_6_6_3 96#7 g d a b 1#3))
  | .amoxCasW g d a b => some (.slot (pack7_4_6_6_6_3 96#7 g d a b 2#3))
  | .amoxCasD g d a b => some (.slot (pack7_4_6_6_6_3 96#7 g d a b 3#3))
  | .amoxFaddF32 g d a b => some (.slot (pack7_4_6_6_6_3 96#7 g d a b 4#3))
  | .redAddW g a b => some (.slot (pack7_4_6_6_6_3 97#7 g 0#6 a b 0#3))
  | .redAddD g a b => some (.slot (pack7_4_6_6_6_3 97#7 g 0#6 a b 1#3))
  | .redMinW g a b => some (.slot (pack7_4_6_6_6_3 97#7 g 0#6 a b 2#3))
  | .redMaxW g a b => some (.slot (pack7_4_6_6_6_3 97#7 g 0#6 a b 3#3))
  | .redMinuW g a b => some (.slot (pack7_4_6_6_6_3 97#7 g 0#6 a b 4#3))
  | .redMaxuW g a b => some (.slot (pack7_4_6_6_6_3 97#7 g 0#6 a b 5#3))
  | .redFaddF32 g a b => some (.slot (pack7_4_6_6_6_3 97#7 g 0#6 a b 6#3))
  | .redOrD g a b => some (.slot (pack7_4_6_6_6_3 97#7 g 0#6 a b 7#3))
  | .scLdW g d a => some (.slot (pack7_4_6_6_9 98#7 g d a 0#9))
  | .scLdD g d a => some (.slot (pack7_4_6_6_9 98#7 g d a 1#9))
  | .scStW g a b => some (.slot (pack7_4_6_6_6_3 98#7 g 0#6 a b 2#3))
  | .scStD g a b => some (.slot (pack7_4_6_6_6_3 98#7 g 0#6 a b 3#3))
  | .scSwapW g d a b => some (.slot (pack7_4_6_6_6_3 98#7 g d a b 4#3))
  | .scSwapD g d a b => some (.slot (pack7_4_6_6_6_3 98#7 g d a b 5#3))
  | .scAddD g d a b => some (.slot (pack7_4_6_6_6_3 98#7 g d a b 6#3))
  | .scCasD g d a b => some (.slot (pack7_4_6_6_6_3 98#7 g d a b 7#3))
  | .drainBraid g => some (.slot (pack7_4_21 99#7 g 0#21))
  | .drainDie g => some (.slot (pack7_4_21 99#7 g 1#21))
  | .drainDev g => some (.slot (pack7_4_21 99#7 g 2#21))
  | .drainSys g => some (.slot (pack7_4_21 99#7 g 3#21))
  | .splCall g d a b => some (.slot (pack7_4_6_6_6_3 100#7 g d a b 0#3))
  | .splCalln g d a b => some (.slot (pack7_4_6_6_6_3 100#7 g d a b 1#3))
  | .splInst g d a => some (.slot (pack7_4_6_6_9 100#7 g d a 2#9))
  | .splRm g d => some (.slot (pack7_4_6_15 100#7 g d 3#15))
  | .knotAdd g a b => some (.slot (pack7_4_6_6_6_3 101#7 g 0#6 a b 0#3))
  | .knotRd g d a => some (.slot (pack7_4_6_6_9 101#7 g d a 1#9))
  | .knotMax g d a b => some (.slot (pack7_4_6_6_6_3 101#7 g d a b 2#3))
  | .knotSwap g d a b => some (.slot (pack7_4_6_6_6_3 101#7 g d a b 3#3))
  | .nrgQ g d s => some (.slot (pack7_4_6_8_7 102#7 g d s 0#7))
  | .nrgVreg g a b => some (.slot (pack7_4_6_6_6_3 102#7 g 0#6 a b 1#3))
  | .nrgVsw g a => some (.slot (pack7_4_6_6_9 102#7 g 0#6 a 2#9))
  | .cend g => some (.slot (pack7_4_21 103#7 g 0#21))
  | .trap g c => some (.slot (pack7_4_6_12_3 103#7 g 0#6 c 1#3))
  | .rtu g => some (.slot (pack7_4_21 103#7 g 2#21))
  | .bkpt g => some (.slot (pack7_4_21 103#7 g 3#21))
  | .pin g d a => some (.slot (pack7_4_6_6_9 104#7 g d a 0#9))
  | .unpin g d a => some (.slot (pack7_4_6_6_9 104#7 g d a 1#9))
  | .dbgMark g a => some (.slot (pack7_4_6_6_9 105#7 g 0#6 a 0#9))
  | .dbgBrk g => some (.slot (pack7_4_21 105#7 g 1#21))
  | .barBraid g a => some (.slot (pack7_4_6_6_9 106#7 g 0#6 a 0#9))
  | .routineEnd => some (.routine (packR4_60 0#4 0#60))
  | .routineNop => some (.routine (packR4_60 1#4 0#60))
  | .ldb bank fsel mb => some (.routine (packR4_1_5_3_51 2#4 bank fsel mb 0#51))
  | .pass t row0 nrm1 bank ma => some (.routine (packR4_3_5_5_1_3_43 3#4 t row0 nrm1 bank ma 0#43))
  | .passw t row0 nrm1 bank ma => some (.routine (packR4_3_5_5_1_3_43 4#4 t row0 nrm1 bank ma 0#43))
  | .setp md imm => some (.routine (packR4_3_57 5#4 md imm))
  | .addp md imm => some (.routine (packR4_3_57 6#4 md imm))
  | .setc c n => some (.routine (packR4_1_46_13 7#4 c 0#46 n))
  | .loop c back => some (.routine (packR4_1_50_9 8#4 c 0#50 back))
  | .skipz mr fwd => some (.routine (packR4_3_48_9 9#4 mr 0#48 fwd))
  | .zero t row0 nrm1 => some (.routine (packR4_3_5_5_47 10#4 t row0 nrm1 0#47))
  | .bias t row0 nrm1 ma => some (.routine (packR4_3_5_5_1_3_43 11#4 t row0 nrm1 0#1 ma 0#43))
  | .scale t row0 nrm1 e => some (.routine (packR4_3_5_5_1_9_37 12#4 t row0 nrm1 0#1 e 0#37))
  | .routineCopy t row0 nrm1 src srow0 => some (.routine (packR4_3_5_5_3_5_39 13#4 t row0 nrm1 src srow0 0#39))
  | .addt t row0 nrm1 src srow0 => some (.routine (packR4_3_5_5_3_5_39 14#4 t row0 nrm1 src srow0 0#39))
  | .maxz t row0 nrm1 => some (.routine (packR4_3_5_5_47 15#4 t row0 nrm1 0#47))
  | .resultLanding _ => none
  | .loadDataArrival _ _ => none
  | .stallClear _ => none
  | .bound _ => none
  | .deferredTrap _ => none
  | .userTrapEntry _ => none
  | .contextEnded _ => none
  | .barrierArrival _ => none
  | .scOrderPoint _ => none
  | .homeAtomicExecute _ => none
  | .spliceExecute _ => none
  | .globalWritePerform _ => none
  | .fillComplete _ => none
  | .dirRecall _ => none
  | .ownershipRecall _ => none
  | .hostSnoop _ _ => none
  | .hostMemWrite _ _ => none
  | .hostMemRead _ _ => none
  | .leaseTick => none
  | .rebaseSweep => none
  | .ropeEnable _ => none
  | .ropeDisable _ => none
  | .headWrite _ _ => none
  | .descriptorWriteObserved _ => none
  | .nextWordObserved _ => none
  | .recordFetch _ => none
  | .knotWriteObserved _ => none
  | .dispatchChoice => none
  | .teamArmed _ _ => none
  | .launchFailure _ _ => none
  | .taskRetire _ => none
  | .variantSwitch _ => none
  | .matrixCommandStart _ => none
  | .mftExecute _ => none
  | .mzeroExecute _ => none
  | .mmovExecute _ => none
  | .ldbLoadComplete _ _ => none
  | .callEnd _ => none
  | .vaccTileRead _ _ => none
  | .copyCommandStart _ _ => none
  | .copyCommandEnd _ _ => none
  | .copyCommandPark _ _ => none
  | .copyCommandResume _ _ => none
  | .copyHold _ => none
  | .copyHoldRelease _ => none
  | .memoryDebit _ _ => none
  | .halyardBlockBegin _ => none
  | .halyardPush _ => none
  | .halyardCompletion _ => none
  | .halyardFault _ => none
  | .halyardStopComplete _ => none
  | .flitArrival _ _ _ => none
  | .creditReturn _ _ => none
  | .governorBoundary _ => none
  | .opHopComplete _ => none
  | .railFault _ => none
  | .droopTrip _ => none
  | .stretchEnd _ => none
  | .feedOutOfRange _ => none
  | .feedLoss => none
  | .feedOvervoltage _ => none
  | .feedSwitchClose _ => none
  | .faultRecordWrite => none
  | .supervisorFaultRecordWrite _ => none
  | .trapRecordWrite _ => none
  | .faultAnswer _ _ => none
  | .atsCompletion _ _ _ _ => none
  | .pageRequestResponse _ _ => none
  | .atsInvalidation _ _ _ => none
  | .rtEnable _ => none
  | .mqPush _ => none
  | .fqHeadWrite _ => none
  | .smqPush _ _ => none
  | .tqHeadWrite _ _ => none
  | .sfHeadWrite _ _ => none
  | .shoot => none
  | .fliph => none
  | .flipd => none
  | .resume _ _ => none
  | .wreg _ _ => none
  | .stop _ _ => none
  | .withdraw _ _ => none
  | .dsave _ _ => none
  | .fsave _ _ => none
  | .restore _ _ => none
  | .term _ _ => none
  | .fans _ _ => none
  | .stateReadback _ => none
  | .quiesce _ => none
  | .bind _ _ => none
  | .unbind _ _ => none
  | .root _ _ => none
  | .route _ _ => none
  | .floor _ _ => none
  | .update _ _ => none
  | .query _ _ => none
  | .getVersion _ => none
  | .getCapabilities _ => none
  | .negotiateAlgorithms _ => none
  | .getDigests _ => none
  | .getCertificate _ => none
  | .challenge _ => none
  | .getMeasurements _ => none
  | .unsupportedRequest _ => none
  | .coldReset _ _ _ _ => none
  | .modcapWrite _ => none
  | .railfltClear _ => none
  | .drpcntRead _ => none
  | .errlogRead => none
  | .cfenceWrite _ => none
  | .unfence _ => none
  | .wheadWrite _ => none
  | .registerWrite _ _ _ => none
  | .arbitrationRound => none
  | .arbitrationMessage _ => none
  | .heartbeatSend => none
  | .heartbeatReceive _ _ => none
  | .heartbeatTimeout _ => none
  | .fenceNotice _ => none
  | .isolation => none
  | .checkpointPeriod => none
  | .begin _ => none
  | .done _ _ _ => none
  | .fail _ _ => none
  | .commit _ => none
  | .checkpointMarker _ _ => none
  | .wonusRecordWrite => none
  | .scrubPass => none
  | .sharedParityError _ => none
  | .hubFatalError => none
  | .envLimitExceeded _ _ => none
  | .fabricRequest _ => none
  | .illegalEncoding _ => none
  | .monitorRequestOtherOp _ _ => none
  | .maintenanceDescriptorInvalid => none
  | .feedReturn _ => none

/-- What the decoder reads from the words of an encoding. -/
noncomputable def decodeEncoding : Encoding → Option Instr
  | .slot w => decodeWord w
  | .routine w => decodeRoutine w

/-- The instruction that the decoder reads from a table row's bits: 32 bits are a slot word, decoded inside the bundle
that holds it; 64 bits are a routine word. -/
noncomputable def decodeTableWord (nbits w : Nat) : Option Instr :=
  if nbits = 64 then decodeRoutine (BitVec.ofNat 64 w)
  else
    let sw := BitVec.ofNat 32 w
    match decodeBundle true true (bundleOf sw) with
    | .ok b =>
      match slotOf sw with
      | .s => some b.opS
      | .v0 => some b.opV0
      | .v1 => some b.opV1
      | .m => some b.opM
      | .x => some b.opX
    | .error _ => none

end Sys2Proof
end

