-- ==== Sys2Proof/Config.lean ====
section
/-! DEFINITION. What an implementation fixes, and the free values: constants without a body for what the spec leaves open. -/

namespace Sys2Proof.Config

/-- Which of the pending global accesses performs next, and whether one does (R125 fixes the point at which an access
performs, not the moment). FREE VALUE, log 11. -/
opaque choice : Nat → Nat

/-- What the regulators and the temperature sensors measure and what firmware's policy asks for at boundary n (R154, R162, R403:
left open). FREE VALUE, log 12. -/
opaque govInput : Nat → GovInput

/-- Firmware's table: an EFFCAP and a core island to an operating point (R403). FREE VALUE, log 12. -/
opaque ceilTable : Nat → Nat → BitVec 3

/-- Millivolts by which firmware raises the voltage of an operating point from the manufacturing trim table (R398). FREE VALUE,
log 101. -/
opaque trim : Nat → Nat

/-- The round of the chassis arbitration at which fabric training left the common count (R405). FREE VALUE, log 102. -/
opaque roundBase : Nat

/-- The contents of a mapped word that was neither filled nor stored, once it is unmapped (R105: not defined).
FREE VALUE, log 13. -/
opaque freeWord : Nat → BitVec 32

/-- Use of a cached or of a fresh translation before a shootdown (R355: either). FREE VALUE, log 14. -/
opaque useCached : Nat → Bool

/-- Whether a read of ASID, KNOTS or VTAB after a write to an enabled descriptor takes the new value (R428: left open).
FREE VALUE, log 15. -/
opaque useNewField : Nat → Bool

/-- The correctly rounded transcendental where the model's rational enclosure does not separate two neighbours:
the integer part of the scaled magnitude. FREE VALUE, log 16. -/
opaque transFloor : Nat → Nat → Nat → Nat

/-- The watts of the power that the feed shunts show (R397). FREE VALUE, log 12. -/
opaque pwr1ms : Nat → BitVec 16

/-- The SM3 digest, named and not defined by the spec (R387). FREE VALUE, log 17. -/
opaque sm3 : List Byte → BitVec 256

/-- Whether a firmware image's SM2 signature verifies under a fused key hash (R386, R394). FREE VALUE, log 17. -/
opaque sm2Valid : BitVec 256 → FwImage → Bool

/-- The security version that the bytes of a firmware image carry (R386, R394: the image format is not stated). FREE VALUE,
log 17. -/
opaque fwVersion : List Byte → Nat

/-- The identity key's signature over an SPDM transcript (R388). FREE VALUE, log 17. -/
opaque sm2Sign : List Byte → List Byte

/-- The debug lock state in the fuses (R387). FREE VALUE, log 17. -/
opaque debugLock : Byte

/-- The certificate chain of slot 0 (R388). FREE VALUE, log 17. -/
opaque certificate : List Byte

/-- The fused rollback counter of a firmware target, 0 monitor, 1 supervisor, 2 management, at the first power-on (R386).
FREE VALUE, log 17. -/
opaque fusedCounter : Nat → Nat

/-- Values that firmware loads before the first task (Reset FW, R6): a register's number to its value. The model's own
State.reset holds 0 for them (log 2); this is what COLD_RESET's firmware load gives. FREE VALUE, log 2. -/
opaque fwValue : Nat → Nat

/-- Position of this module in the chassis: the strap of R402. FREE VALUE, log 18. -/
opaque modnum : BitVec 2

/-- True when the build is strapped for a single feed (R395). FREE VALUE, log 18. -/
opaque singleFeed : Bool

/-- The device's silicon revision (R348). FREE VALUE, log 18. -/
opaque revision : BitVec 8

/-- The DEMAND estimate of firmware in W (R405). FREE VALUE, log 12. -/
opaque demand : Nat → Nat

/-- The address the monitor reports for the ASID table (R354, R390). FREE VALUE, log 18. -/
opaque asidTable : Word

/-- The module whose fabric address space a hawser answer comes from: the value a read of a live peer returns (R413 and
R414 fix only a fenced peer's answer). FREE VALUE, log 19. -/
opaque peerByte : Nat → Nat → Byte

/-- FADDR of a MEM trap that no address raises: a bight number, a link pair, a halyard that is not IDLE (R370 gives the fault
address only). FREE VALUE, log 24. -/
opaque freeFaddr : Nat → Word

/-- STATUS of a halyard block that cannot be read for poison or a permanent translation fault (R267 gives none).
FREE VALUE, log 25. -/
opaque freeStatus : Nat → BitVec 8

/-- KIND of the fault record that a rope fault sends to the rope's OWNER (R23 sends one, R356 and R358 give it no code).
FREE VALUE, log 27. -/
opaque ropeFaultKind : Nat → BitVec 4

/-- The member of the chassis at the far end of a hawser link: wiring (R44). FREE VALUE, log 18. -/
opaque linkPeer : Nat → Nat

/-- Whether an access at a home slice moves its line between DRAM and the package: the state of the system cache, which R155's
debits follow and no rule fixes. FREE VALUE, log 23. -/
opaque cacheMiss : Nat → Bool

/-- Which evictable LEASE line a line drives out of its slice as it enters, and whether a dirty line goes to DRAM (R117, R155).
FREE VALUE, log 23. -/
opaque evict : Nat → Nat × Bool

/-- What the host had changed in a line that it cached, when a flip to DEV takes the line back (R365). FREE VALUE, log 104. -/
opaque hostDirty : Nat → Option (BitVec 512)

/-- A timestamp or write clock of a peer module's slice, which an access through a hawser window brings back (R118, R125, R133).
FREE VALUE, log 19. -/
opaque peerClock : Nat → BitVec 32

/-- A value that the spec names without stating it: fields of Wonus records of types 4 and 6 (R423). FREE VALUE, log 30. -/
opaque stateWord : Nat → Nat → BitVec 64

/-- The word at a state address, of contents whose arrangement in words the spec does not state (R383). FREE VALUE, log 30. -/
opaque stateLayout : Nat → List Nat → BitVec 64

/-- KIND, from ATS to ADDR, of the fault of an access to a page that the monitor keeps as a save area (R391 makes it inaccessible
and names no kind). FREE VALUE, log 44. -/
opaque hiddenKind : Nat → BitVec 2

/-- A word at an address of a save area or a checkpoint slot whose contents R377 and R417 name without its layout.
FREE VALUES, logs 44 and 68. -/
opaque saveWord : Nat → Nat → BitVec 64

/-- The page that supervisor firmware picks for a save of its own (R377, R382: the supervisor gives the area). FREE VALUE,
log 44. -/
opaque saveArea : Nat → Nat

/-- Core cycles past the least that a load takes from another vault of the same die, by the two cores (R102: 24 to 48 by lateral
distance, which no rule lays out). FREE VALUE, log 82. -/
opaque lateral : Nat → Nat → Nat

/-- Core cycles past the least that a load takes from a vault on the other die (R102: 160 to 320). FREE VALUE, log 82. -/
opaque bridge : Nat → Nat

/-- Core cycles that a store waits in the queue of its bank, where other contexts do not see it yet (R99, R100, R128: any
order). FREE VALUE, log 83. -/
opaque storeHold : Nat → Nat

/-- Core cycles that a load waits in the queue of its bank before it reads (R99, R128: loads of one context perform in any order but for
those of one word). FREE VALUE, log 83. -/
opaque loadHold : Nat → Nat


end Sys2Proof.Config
end

