-- ==== Sys2Proof/Machine/State.lean ====
section
/-! DEFINITION. The state of the module as plain data, the reasons a step can stop, and the state after reset. -/

namespace Sys2Proof.Machine

/-- A sparse map: keys strictly rising, no entry equal to what an unlisted key reads as (the reader names that default). -/
abbrev SMap (α : Type) := List (Nat × α)

/-- Bytes by address: the canonical memory of every store (an unlisted address reads as 0, log 3). -/
abbrev Memory := List Host.Cell

/-- States of a resident context (R47); `empty` is a slot that the team does not use. -/
inductive CtxState where
  | empty | ready | running | stalled | ended | trapped | stopped
  deriving DecidableEq, Repr

/-- Architectural destinations of a result: s, v, p, b registers by physical number, counters, special registers, m. -/
inductive Dest where
  | none
  | s (n : Fin 64)
  | v (n : Fin 64)
  | p (n : Fin 128)
  | b (n : Fin 8)
  | lc0 | lc1 | ec | utv | vrb | prb
  | astat
  | m (n : Fin 8)
  deriving DecidableEq, Repr

/-- One element access of a load: the lane it lands in, and the resolved core, window and offset (R98). -/
structure Elem where
  lane : Nat
  core : Nat
  vault : Bool
  off : Nat
  /-- the value once the access has performed (R125) -/
  val : Option Word
  /-- words of the store that a later map mapped: it acts on them as unmapped words (R253) -/
  raw : List Nat := []
  /-- the program named it by a braid-window address (R96) -/
  braid : Bool := false
  deriving DecidableEq, Repr

/-- Where the data of a variable-latency result comes from (R60). -/
inductive Source where
  /-- a fixed-latency result, or data already returned -/
  | none
  /-- a load of n-byte elements; `bcast` serves every enabled lane with one read (R251); no element performs before the
  accesses `after` have performed (R128, R130, R132) -/
  | mem (n : Nat) (sext bcast : Bool) (elems : List Elem) (after : List Nat)
  /-- a merge store waiting on its fill (R107) -/
  | merge (n : Nat) (e : Elem) (data : Word) (after : List Nat)
  /-- an accumulator read: tile, row, column block, and the partition cycle of its arrival (R221, R222) -/
  | vacc (tile row cb at_ : Nat)
  /-- a value that returns from the global operation with this number (R274) -/
  | hub (op : Nat)
  /-- W of a splice: 64 bytes that land in the own window at this offset as a store (R290) -/
  | wout (op : Nat) (off : Nat)
  deriving DecidableEq, Repr

/-- A result in flight: it lands in `dst` at the start of partition cycle `due` (R57). -/
structure Flight where
  /-- number of a memory access, for the order of accesses; 0 for any other result -/
  id : Nat
  due : Nat
  dst : Dest
  lanes : BitVec 32
  /-- none until the data is present -/
  value : Option VReg
  /-- ASTAT flags that land with it: NV OF UF NX SAT in bits 0 to 4 -/
  flags : BitVec 5
  /-- it holds a landing-buffer entry (R60) -/
  buf : Bool
  src : Source
  /-- a load of an interlocked P4 image: it lands when its data is present from `due` on (R317) -/
  lock : Bool
  /-- bundle of the op, for deferred traps (R110) -/
  orig : Word
  /-- core cycles until what was read is back at the core (R100, R102) -/
  back : Nat := 0
  /-- core cycles for which a load waits in the queue of its bank before it reads (R99, R128) -/
  hold : Nat := 0
  /-- the register of a load under R317 that a later landing has written meanwhile: its readers still wait for the load -/
  was : Dest := .none
  deriving DecidableEq, Repr

/-- A store that waits at the memory port (R128, R131): n-byte elements (core, vault, offset, data). -/
structure PendStore where
  id : Nat
  n : Nat
  elems : List (Nat × Bool × Nat × Word)
  after : List Nat
  /-- bundle of the store, for deferred traps (R110) -/
  orig : Word
  /-- words (vault, word) whose data a later flush has captured: the store leaves their DIRTY bit as it is (R108, R128) -/
  flushed : List (Bool × Nat)
  /-- core cycles for which it waits in the queue of its bank (R99, R128) -/
  hold : Nat := 0
  /-- words (vault, word) that a later map mapped: the store acts on them as unmapped words (R253) -/
  raw : List (Bool × Nat) := []
  deriving DecidableEq, Repr

/-- A deferred fault that was reported and not yet taken (R275, R369). -/
structure Deferred where
  cls : BitVec 8
  cause : BitVec 8
  faddr : Word
  orig : Word
  deriving DecidableEq, Repr

/-- A trap that a bundle takes: class, cause, part of R174 and fault address. -/
structure TrapInfo where
  cls : BitVec 8
  cause : BitVec 8
  part : BitVec 3
  faddr : Word
  deriving DecidableEq, Repr

/-- A trap record by the fields of R370. -/
structure TrapRec where
  cls : BitVec 8
  cause : BitVec 8
  partid : BitVec 3
  bp : Bool
  inh : Bool
  deferred : Bool
  rope : BitVec 8
  pc : BitVec 13
  npc : BitVec 13
  faddr : Word
  core : BitVec 7
  part : BitVec 2
  slot : BitVec 2
  tctx : BitVec 4
  asid : BitVec 16
  orig : BitVec 13
  pcyc : Word
  deriving DecidableEq, Repr

/-- A context: registers, special registers, and the results in flight (R49, R51, R53, R226, R257, R372). -/
structure Ctx where
  st : CtxState
  s : Vector Word 64
  v : Vector VReg 64
  p : Vector (BitVec 32) 128
  b : Vector (BitVec 13) 8
  lc0 : BitVec 32
  lc1 : BitVec 32
  ec : BitVec 16
  astat : BitVec 32
  tctx : BitVec 4
  bp : Bool
  dbg : Bool
  compat : Bool
  inh : Bool
  pc : Word
  npc : Word
  vrb : BitVec 5
  prb : BitVec 6
  utv : BitVec 14
  splim : Word
  limit : BitVec 24
  dcount : BitVec 24
  m : Vector Word 8
  mstat : Word
  ccount : Word
  tag : Vector (BitVec 16) 2
  cq : Vector (List Word) 2
  flight : List Flight
  /-- results held since a supervisor trap, with `due` holding REM (R368) -/
  held : List Flight
  /-- results held since user-trap entry, with `due` holding REM (R372) -/
  heldU : List Flight
  /-- held results are released when the bundle at PC issues (R372, R373) -/
  release : Bool
  /-- stores that wait at the memory port (R131) -/
  stq : List PendStore
  upc : Word
  unpc : Word
  ubp : Bool
  deferred : List Deferred
  /-- a trap op that issued and is taken in the next cycle (R292) -/
  swt : Option (BitVec 12)
  /-- THROTTLE is raised (R160) -/
  throttle : Bool
  /-- cend has issued (R284) -/
  ending : Bool
  /-- waiting at a bar with this mask; the flag says the arrival was counted, the list holds the accesses it waits for (R283) -/
  bar : Option (BitVec 4 × Bool × List Nat)
  /-- the bar was a drain bundle: the waiting context counts as stopped (R283) -/
  barDrain : Bool
  /-- global operations that later accesses wait for: an open drain or acquire (R130, R132) -/
  fence : List Nat
  /-- SC operations that every later access waits for, also one of the own window (R136) -/
  scFence : List Nat
  /-- the bundle that stalled the context, as it was decoded -/
  waiting : Option Bundle
  /-- registers with a parity error, in the file or in the landing buffer (R367 RPAR) -/
  rpar : List Dest
  /-- the team and task the context belongs to -/
  task : Nat
  deriving DecidableEq, Repr

/-- A context slot with no context in it; the register values are log 1's. -/
def Ctx.none : Ctx where
  st := .empty
  s := Vector.replicate 64 0
  v := Vector.replicate 64 0
  p := Vector.replicate 128 0
  b := Vector.replicate 8 0
  lc0 := 0
  lc1 := 0
  ec := 0
  astat := 0
  tctx := 0
  bp := false
  dbg := false
  compat := false
  inh := false
  pc := 0
  npc := 0
  vrb := 0
  prb := 0
  utv := 0
  splim := 0
  limit := 0
  dcount := 0
  m := Vector.replicate 8 0
  mstat := 0
  ccount := 0
  tag := Vector.replicate 2 0
  cq := Vector.replicate 2 []
  flight := []
  held := []
  heldU := []
  release := false
  stq := []
  upc := 0
  unpc := 0
  ubp := false
  deferred := []
  swt := Option.none
  throttle := false
  ending := false
  bar := Option.none
  barDrain := false
  fence := []
  scFence := []
  waiting := Option.none
  rpar := []
  task := 0

/-- A partition (R46, R61). -/
structure Part where
  /-- partition cycle count -/
  pcyc : Nat
  frozen : Bool
  /-- hub cycle at which the freeze began (R382) -/
  since : Nat
  /-- the slot that last held the issue slot, where the selector's search starts (R47) -/
  last : BitVec 2
  /-- the slot that last held the issue slot: the RUNNING slot of a save while no context runs (R47, R379, R380) -/
  ran : BitVec 2
  deriving DecidableEq, Repr

def Part.none : Part := ⟨0, false, 0, 3, 0⟩

/-- A bight entry in the fields of R103. -/
structure Bight where
  vbase : Word
  stride : BitVec 32
  count : BitVec 24
  elem : BitVec 10
  loff : BitVec 24
  space : Bool
  wr : Bool
  pf : Bool
  v : Bool
  lt : BitVec 8
  /-- number of the map that made the entry: the identity that DIR range entries hold (R113) -/
  gen : Nat
  deriving DecidableEq, Repr

def Bight.none : Bight := ⟨0, 0, 0, 0, 0, false, false, false, false, 0, 0⟩

/-- VALID and DIRTY of one mapped 32-bit word (R105). -/
structure Side where
  valid : Bool
  dirty : Bool
  /-- the word was filled or stored since it was mapped: its contents are defined (R105) -/
  defined : Bool
  /-- the LEASE line that a clean word came from or was written back to (R120) -/
  lease : Option Nat := none
  deriving DecidableEq, Repr

def Side.none : Side := { valid := false, dirty := false, defined := false }

/-- The side bits of a stored word (R105). -/
def Side.stored : Side := { valid := true, dirty := true, defined := true }

/-- The side bits of a clean copy, of a LEASE line or of none (R105, R106, R120). -/
def Side.clean (lease : Option Nat) : Side := { valid := true, dirty := false, defined := true, lease := lease }

/-- A team: the contexts of one task on one core (R11, R18, R95, R334). -/
structure Team where
  task : Nat
  pos : Nat
  core : Nat
  /-- partitions of the core, team partition 0 first -/
  parts : List Nat
  nctx : Nat
  /-- the loaded bundles by index (R165) -/
  bundles : SMap (BitVec 256)
  nbun : Nat
  /-- bundles with an uncorrectable word in the instruction store (R367 IPAR) -/
  ipar : List Nat
  spadBase : Nat
  spadSize : Nat
  vaultBase : Nat
  vaultSize : Nat
  nbgt : Nat
  bights : SMap Bight
  mtx : Bool
  hal : Bool
  lld : Bool
  armed : Bool
  /-- a save is flushing its bights: a write-back that fails for good is dropped (log 22) -/
  leaving : Bool
  /-- a save of the team has begun: its frozen partitions stay at their cycle (R378) -/
  saving : Bool := false
  deriving DecidableEq, Repr

/-- A lease-table entry: the line (device physical address / 64) and its rts (R118). -/
structure Lease where
  line : Nat
  rts : BitVec 32
  deriving DecidableEq, Repr

/-- State of a weight bank (R226, R236). -/
inductive BankSt where
  | empty
  /-- loading from this vault offset: rows moved, rows to move, the LDB's word, and the first engine cycle in which a row may move (R238) -/
  | loading (o moved rows word start : Nat)
  | loaded
  deriving DecidableEq, Repr

/-- A weight bank: its state, its format pair, and the bytes of its B tile (R233). -/
structure Bank where
  st : BankSt
  af : BitVec 5
  bf : BitVec 5
  data : Memory
  deriving DecidableEq, Repr

def Bank.none : Bank := ⟨.empty, 0, 0, []⟩

/-- An entry-table entry (R228). -/
structure MEnt where
  v : Bool
  idx : BitVec 9
  endx : BitVec 9
  wset : BitVec 8
  deriving DecidableEq, Repr

def MEnt.none : MEnt := ⟨false, 0, 0, 0⟩

/-- An engine command of the matrix queue (R229). -/
inductive MKind where
  | call (entry acc fe : Nat) (m : Vector Word 8) (wset : BitVec 8)
  | mft (ft : BitVec 4) (af bf : BitVec 5)
  | mzero (mask : BitVec 8)
  | mmov (ld sat : Bool) (acc : BitVec 3) (fmt : BitVec 5) (desc : Word) (mode : Nat)
  deriving DecidableEq, Repr

structure MCmd where
  /-- the issuing context -/
  x : CtxNo
  kind : MKind
  /-- accesses of the context that its first access waits for (R230) -/
  after : List Nat
  deriving DecidableEq, Repr

/-- The command that runs: its word index, counters, parameter copy, executed words and the cycles it still takes. -/
structure MRun where
  cmd : MCmd
  w : Nat
  rc0 : Nat
  rc1 : Nat
  m : Vector Word 8
  /-- words executed (R237) -/
  steps : Nat
  /-- core cycles before it acts again -/
  wait : Nat
  /-- the next row of a pass or a tile move (R238, R244) -/
  row : Nat
  /-- END has issued, or a fault ended the call -/
  ended : Bool
  /-- the fill that the word at hand waits for (R238), and how that fill failed: 4 XLATE, 5 POISON -/
  fill : Option Nat
  bad : Option Nat
  /-- the word or move at hand has issued and not completed (R238, R239) -/
  begun : Bool
  /-- a B row was poisoned: the call ends once the executing word completes (R239) -/
  stop : Bool
  /-- engine cycle in which a row, keyed tile x 32 + row, is in its tile after its last write (R238) -/
  land : SMap Nat
  /-- engine cycle before which the command does not end (R238) -/
  last : Nat
  /-- the fill that the row at the vault port waits for, and how that fill failed -/
  lfill : Option Nat
  lbad : Option Nat
  deriving DecidableEq, Repr

/-- The load of an LDB whose bank a later LDB has taken: its rows still move (R238, R239). -/
structure PastLoad where
  o : Nat
  moved : Nat
  rows : Nat
  word : Nat
  start : Nat
  deriving DecidableEq, Repr

/-- The matrix engine of a core (R226). -/
structure Mtx where
  /-- element (tile, row, column) at key tile x 6,144 + row x 192 + column -/
  acc : SMap (BitVec 32)
  ft : SMap (BitVec 10)
  rs : SMap Word
  ent : SMap MEnt
  bank0 : Bank
  bank1 : Bank
  queue : List MCmd
  run : Option MRun
  /-- core cycles counted since the engine was reset, which the times of R238 are kept in -/
  cyc : Nat
  past : List PastLoad
  deriving DecidableEq, Repr

def Mtx.none : Mtx := ⟨[], [], [], [], Bank.none, Bank.none, [], Option.none, 0, []⟩

/-- State of a copy command (R265). -/
inductive CopySt where
  | queued | running | parked | held | ended
  deriving DecidableEq, Repr

/-- A copy command with its block (R259), progress and origin. -/
structure CopyCmd where
  tag : BitVec 16
  /-- the pushing context, or none for the halyard -/
  x : Option CtxNo
  task : Nat
  kind : BitVec 4
  blk : BitVec 512
  prog : Nat
  st : CopySt
  /-- receivers excluded from a multicast (R264) -/
  fmask : BitVec 32
  excl : Nat
  /-- the fault identifier it is parked on, or its want of a free identifier (R262, R357) -/
  fid : Option Nat
  room : Bool
  /-- the fill it waits for (R105), and how a fill or a claimant ended it: 4 XLATE, 5 POISON -/
  fill : Option Nat
  bad : Option Nat
  /-- a range shootdown or flip paused it (R363) -/
  paused : Bool
  /-- halyard only: the number of the push -/
  hid : Nat
  /-- accesses, each with its context, that its first access waits for (R138) -/
  after : List (CtxNo × Nat)
  deriving DecidableEq, Repr

/-- Halyard states (R269). -/
inductive HalSt where
  | idle | run | wait | stopping | fault
  deriving DecidableEq, Repr

/-- A command that the halyard pushed and whose completion is not settled: its number, block, repetition, whether it posts
a word, and STATUS once it has ended (R267). -/
structure HSent where
  hid : Nat
  blk : Nat
  rep : Nat
  post : Bool
  status : Option (BitVec 8)
  deriving DecidableEq, Repr

structure Halyard where
  st : HalSt
  cr : BitVec 32
  hbase : Word
  blk : BitVec 20
  /-- the next repetition, 2^24 after the last of a block with REP = 2^24 - 1; its 24 bits are what is read -/
  ridx : BitVec 25
  fst : BitVec 8
  cq : List Word
  /-- the block as read when it was begun (R267) -/
  cur : Option (BitVec 512)
  /-- a credit was taken for a command not yet pushed -/
  taken : Bool
  /-- commands pushed and not settled, oldest first -/
  sent : List HSent
  /-- the faulting command's word, posted once the others have ended -/
  bad : Option Word
  /-- accesses that hy.start and hy.cred released to later commands (R268) -/
  rel : List (CtxNo × Nat)
  /-- the fill its block read waits for, and how it failed (R105) -/
  fill : Option Nat
  failed : Bool
  /-- the state in which a supervisor stopped it for a save (R269, R380) -/
  saved : Option HalSt
  deriving DecidableEq, Repr

/-- The state to go back to once a stop ends: a fault that came meanwhile stays (R269). -/
def Halyard.unstopped (h : Halyard) : HalSt := if h.st = .fault then .fault else h.saved.getD h.st

def Halyard.none : Halyard :=
  ⟨.idle, 0, 0, 0, 0, 0, [], Option.none, false, [], Option.none, [], Option.none, false, Option.none⟩

/-- Clock of a core island (R399 to R402). -/
structure Clock where
  /-- accumulated phase in 1/40 hub cycle, DESIGN CHOICE log 5 -/
  phase : Nat
  /-- operating point whose frequency is in force -/
  op : BitVec 3
  /-- operating point a pending raise will reach -/
  hop : Option (BitVec 3)
  /-- a stretch episode is under way (R400) -/
  stretch : Bool
  /-- hub cycles for which a hop still gates the clock (R399) -/
  gate : Nat
  /-- edges still to come before the episode doubles the period (R400, R401) -/
  lead : Nat
  drpcnt : BitVec 32
  deriving DecidableEq, Repr

def Clock.none : Clock := ⟨0, 0, Option.none, false, 0, 0, 0⟩

structure Core where
  spad : Memory
  vault : Memory
  spadSide : SMap Side
  vaultSide : SMap Side
  /-- poisoned 8-byte granules (R408) -/
  spadPoison : List Nat
  vaultPoison : List Nat
  pts : BitVec 32
  lease : List Lease
  teams : List Team
  mtx : Mtx
  eng0 : List CopyCmd
  eng1 : List CopyCmd
  hal : Halyard
  clk : Clock
  /-- commands held by R156 -/
  held : Bool
  deriving DecidableEq, Repr

def Core.none : Core :=
  ⟨[], [], [], [], [], [], 0, [], [], Mtx.none, [], [], Halyard.none, Clock.none, false⟩

/-- Function of an atomic, reduction, knot or SC operation (R278 to R281, R285). -/
inductive AmoFn where
  | add | and | or | xor | min | max | minu | maxu | swap | cas | fadd | ld
  deriving DecidableEq, Repr

/-- What a global operation does at its home. -/
inductive GKind where
  /-- fill of the line that holds `va` for bight entry n of the team of `task` on `core` (R106) -/
  | fill (n : Nat)
  /-- write-back of captured words (virtual address, value) of one line of entry n; `flush` keeps WBK of bgt.query; the map
  that made the entry (R108) -/
  | wb (n : Nat) (flush : Bool) (words : List (Nat × BitVec 32)) (gen : Nat)
  /-- atomic of n bytes; y operand, z expected value; `ret` returns the old value -/
  | amo (fn : AmoFn) (n : Nat) (y z : Word) (ret : Bool)
  /-- SC operation (R281) -/
  | sc (fn : AmoFn) (n : Nat) (y z : Word) (ret : Bool)
  /-- knot operation (R285) -/
  | knot (fn : AmoFn) (y : Word) (ret : Bool)
  /-- splice: routine number, operand, W buffer offset when called with a response (R289, R290) -/
  | splice (num : Nat) (o : BitVec 512) (wbuf : Option Nat)
  /-- installation and removal of a routine (R291) -/
  | inst (num : Nat) (body : BitVec 512)
  | rm (num : Nat)
  | pin
  | unpin
  /-- registration of a variant: one indivisible 16-byte write (R163) -/
  | vreg (data : BitVec 128)
  deriving DecidableEq, Repr

/-- A global operation that has issued and not yet performed (R125). -/
structure GOp where
  id : Nat
  x : CtxNo
  core : Nat
  task : Nat
  asid : BitVec 16
  kind : GKind
  va : Nat
  /-- operations that must have performed before it (R128, R130, R132) -/
  after : List Nat
  acq : Bool
  scope : BitVec 2
  orig : Word
  /-- the fault identifier it waits on -/
  fid : Option Nat
  /-- its fault was answered PERMANENT -/
  perm : Bool
  /-- an engine started it: it belongs to no context's order (R131) -/
  eng : Bool
  /-- words of a fill's line, 0 to 15, that an invalidation or an expiry met while it is in flight: they stay not VALID (R109) -/
  drop : List Nat := []
  deriving DecidableEq, Repr

/-- Timestamps of a LEASE line in the system cache (R117). -/
structure LineTs where
  line : Nat
  wts : BitVec 32
  rts : BitVec 32
  slice : Nat
  /-- the slice has evicted the line: it takes EVT when it enters again (R117) -/
  out : Bool
  /-- a line of a STREAM page: the first to be evicted (R111) -/
  stream : Bool := false
  deriving DecidableEq, Repr

/-- A DIR range entry (R113): slice, and the bight it stands for. -/
structure DirEnt where
  slice : Nat
  core : Nat
  task : Nat
  n : Nat
  gen : Nat
  deriving DecidableEq, Repr

/-- Ownership of a word (device physical address / 4) by a bight entry (R141). -/
structure Owner where
  word : Nat
  core : Nat
  task : Nat
  n : Nat
  /-- the bight word: its store and its word index there -/
  vault : Bool
  w : Nat
  /-- once a flush or an unmap has captured it: its virtual address and the captured value, which is the home's value until the
  write-back performs -/
  cap : Option (Nat × BitVec 32) := none
  deriving DecidableEq, Repr

structure Pin where
  line : Nat
  /-- its virtual line address -/
  va : Nat
  slice : Nat
  asid : BitVec 16
  deriving DecidableEq, Repr

/-- An entry of the ASID table (R354). -/
structure AsidEnt where
  v : Bool
  hmgd : Bool
  prien : Bool
  splok : Bool
  hide : Bool
  root : BitVec 39
  pasid : BitVec 20
  claim : BitVec 8
  deriving DecidableEq, Repr

def AsidEnt.none : AsidEnt := ⟨false, false, false, false, false, 0, 0, 0⟩

/-- A cached translation (R355): `at` is a braid 0 to 31, or 32 for the hub. -/
structure TEnt where
  at_ : Nat
  asid : BitVec 16
  page : Nat
  /-- a leaf entry of the page; for a page that the host answered with, KIND is 2, bit 3 is W of the ATS leaf and bit 4 the host's
  permission to write -/
  entry : BitVec 128
  /-- the page has 2^bits bytes (R353, R359) -/
  bits : Nat
  deriving DecidableEq, Repr

/-- State of a rope (R13). -/
inductive RopeSt where
  | off | link | head | fault
  deriving DecidableEq, Repr

/-- A fetched record (R24). -/
structure Fetched where
  addr : Word
  recd : BitVec 512
  /-- waits latched so far (R20) -/
  latched : BitVec 4
  /-- it breaks R16, or its launch failed: the fault code held against it -/
  bad : Option (BitVec 8)
  /-- it is dispatched, and an older record is not, or its own launch may still fail (R26, R35, R427) -/
  gone : Bool
  /-- home slices of the knots whose waits a read has latched: the launch acquires there (R28, R133, R139) -/
  homes : List Nat
  deriving DecidableEq, Repr

/-- A rope: the descriptor's fields (R13) and what the engine holds for it (R24, R427). -/
structure Rope where
  en : Bool
  pre : Bool
  prio : BitVec 6
  asid : BitVec 16
  owner : BitVec 8
  mask : BitVec 128
  head : Word
  knots : Word
  vtab : Word
  st : RopeSt
  fcode : BitVec 8
  inflight : BitVec 3
  retired : BitVec 32
  fetched : List Fetched
  /-- address of the last record fetched and whether its NEXT word is still awaited -/
  last : Option Word
  waitNext : Bool
  /-- address to fetch next, 0 for none -/
  toFetch : Word
  /-- addresses of dispatched records at or after HEAD that clearing EN kept (R427) -/
  kept : List Word
  /-- a dispatched record's NEXT word broke R16: the rope faults once nothing fetched is left (R23) -/
  badNext : Option Word
  /-- dispatched records whose launches failed and which the engine has still to read again: each is held against the rope then (R35) -/
  failed : List Word
  deriving DecidableEq, Repr

def Rope.none : Rope :=
  ⟨false, false, 0, 0, 0, 0, 0, 0, 0, .off, 0, 0, 0, [], Option.none, false, 0, [], Option.none, []⟩

/-- States of a dispatched task. -/
inductive TaskSt where
  | loading
  | running
  /-- a pre-emption or a supervisor's STOP is pending (R40) -/
  | stopping
  /-- its save has begun (R377, R378, R382) -/
  | saving
  /-- every context has stopped for a switch, and the task is being freed (R164) -/
  | switching
  /-- saved, waiting to be restarted (R42) -/
  | saved
  /-- switched to a variant, waiting to be placed (R164) -/
  | switched
  /-- retired or terminated and freed; its signals are still to be sent (R22) -/
  | retired
  deriving DecidableEq, Repr

/-- A dispatched and unretired task (R11, R27, R153, R157). -/
structure Task where
  id : Nat
  rope : RopeNo
  recd : BitVec 512
  recAddr : Word
  asid : BitVec 16
  /-- image in force, the record's or a variant's -/
  image : Word
  eclass : BitVec 4
  tcon : BitVec 4
  base : Nat
  ncores : Nat
  st : TaskSt
  /-- (core island, remaining credit) (R153) -/
  credit : List (Nat × Nat)
  joule : Word
  debits : Nat
  /-- requested variant entry (R164) -/
  sw : Option Nat
  /-- order of first dispatch and of last dispatch -/
  first : Nat
  seq : Nat
  /-- a supervisor's STOP, not a pre-emption, made it stop -/
  supStop : Bool
  links : BitVec 32
  dflits : Nat
  /-- cores whose supervisor has saved or terminated its part (R373) -/
  doneParts : List Nat
  /-- indices of the knots still to be signalled (R22) -/
  sigs : List Nat
  /-- while LOADING: the state it came from, LOADING itself for a first start -/
  was : TaskSt
  /-- variant-table entry in force, 0 for the record's own image -/
  variant : Nat
  /-- home slices at which its launch acquires (R28, R139) -/
  homes : List Nat
  /-- its resident task slot, 0 to 1,023 (R383, R423, log 110) -/
  slot : Nat
  deriving DecidableEq, Repr

/-- A pending pre-emption: the rope and record that asked for it, and the victims (R40). -/
structure Preempt where
  rope : RopeNo
  recAddr : Word
  victims : List Nat
  deriving DecidableEq, Repr

/-- A team in a save area (R377): the block's contents by field; the pages are readable only by RESTORE (R391). -/
structure SavedTeam where
  /-- save-area address / 4 KiB -/
  page : Nat
  frozen : Bool
  task : Nat
  pos : Nat
  core : Nat
  pts : BitVec 32
  team : Team
  /-- contexts by index; locations in them are (position, window offset) -/
  ctxs : List (Nat × Ctx)
  /-- partition cycle and RUNNING slot of each team partition (R379, R380) -/
  pcycs : List Nat
  runs : List Nat
  spad : Memory
  vault : Memory
  /-- poisoned 8-byte granules of the windows, by their place in the window -/
  spadPoison : List Nat
  vaultPoison : List Nat
  mtx : Option Mtx
  hal : Option Halyard
  cmds : List (Nat × CopyCmd)
  /-- operations that had issued and not performed, each with its context's index -/
  ops : List (Nat × GOp)
  deriving DecidableEq, Repr

/-- Island record (R149) with the fraction of R155. -/
structure Island where
  hold : Int
  max : Nat
  grant : Nat
  op : BitVec 3
  ceil : BitVec 3
  floor : BitVec 3
  aop : BitVec 3
  acause : BitVec 4
  apend : Bool
  joule : Word
  aint : Word
  rem : Nat
  gfloor : Nat
  deriving DecidableEq, Repr

def Island.none : Island := ⟨0, 0, 0, 0, 0, 0, 0, 0, false, 0, 0, 0, 0⟩

/-- An entry of the retirement log (R376). -/
structure RetEnt where
  recAddr : Word
  joule : Word
  status : BitVec 8
  tclass : BitVec 8
  dflits : BitVec 16
  rseq : BitVec 32
  deriving DecidableEq, Repr

/-- A translation fault: outstanding, or (FID 0) final (R357, R358). -/
structure FaultRec where
  fid : Nat
  kind : BitVec 4
  wr : Bool
  fwd : Bool
  final : Bool
  asid : BitVec 16
  claim : BitVec 8
  src : BitVec 3
  va : Nat
  core : Nat
  deriving DecidableEq, Repr

/-- An ATS translation request: the page and permission asked for, and the claimant and core of the access (R357, R359). -/
structure AtsReq where
  asid : BitVec 16
  page : Nat
  w : Bool
  claim : BitVec 8
  core : Nat
  deriving DecidableEq, Repr

/-- Whose access of the hub or a supervisor waits: a rope's for the record at an address, a task's, or the monitor's (R357). -/
inductive HubWho where
  | rope (r : Nat) (record : Word)
  | task (t : Nat)
  /-- the monitor's read of an image that UPDATE stages (R394) -/
  | monitor
  deriving DecidableEq, Repr

/-- An access of the rope engine, the dispatcher or a supervisor that waits for the answer to its fault, or for the host's answer when
it has no identifier; `perm` once the answer was PERMANENT (R357, R359). -/
structure HubWait where
  who : HubWho
  asid : BitVec 16
  va : Nat
  w : Bool
  fid : Option Nat
  perm : Bool
  deriving DecidableEq, Repr

/-- Who entered a maintenance operation, and so what its completion is: STATUS in DRAM at a virtual address in ASID 0 or in a
supervisor's SRAM, an ATS invalidation completion, or the response of a monitor request (R361, R362, R371, R390). -/
inductive MFrom where
  | host (va : Nat)
  | sup (k addr : Nat)
  | ats (pasid : BitVec 20) (last : Bool)
  | monitor (ch : Option SupNo) (unbind : Bool)
  deriving DecidableEq, Repr

/-- A descriptor in the maintenance queue (R362); none until the hub has been able to read it. -/
structure MDesc where
  desc : Option (BitVec 256)
  orig : MFrom
  deriving DecidableEq, Repr

/-- BAR0 registers (R348). -/
structure HostRegs where
  rtbase : BitVec 34
  rten : Bool
  rterr : Bool
  mqpush : BitVec 43
  mqovf : Bool
  fqbase : BitVec 36
  fqlog : BitVec 3
  fqen : Bool
  fqtail : BitVec 32
  fqhead : BitVec 32
  rfid : BitVec 16
  rres : BitVec 2
  /-- claimant k: HOST in bit 0, SUP in bit 1 -/
  route : SMap (BitVec 2)
  /-- page requests are refused until PRI is enabled again (R360) -/
  priOff : Bool
  deriving DecidableEq, Repr

def HostRegs.none : HostRegs := ⟨0, false, false, 0, false, 0, 0, false, 0, 0, 0, 0, [], false⟩

/-- Supervisor registers and SRAM (R371). -/
structure Sup where
  tqtail : BitVec 32
  tqhead : BitVec 32
  /-- the last value written to SCMD -/
  scmd : Word
  /-- the command in progress -/
  scur : Word
  /-- the next SCMD row is a step of the command in progress, or begins the oldest queued one: no write of SCMD -/
  spoll : Bool
  sbusy : Bool
  sstat : BitVec 7
  tqbase : Word
  smbox : Word
  sftail : BitVec 32
  sfhead : BitVec 32
  sfqbase : Word
  smqpush : BitVec 27
  smqovf : Bool
  sram : Memory
  /-- trap and fault records waiting in the hub, oldest first -/
  twait : List TrapRec
  fwait : List FaultRec
  /-- SCMD writes that wait for the command in progress, each with the task of its CTX when it was written (R373, R374) -/
  scq : List (Word × Option Nat)
  /-- the task of the command in progress -/
  stask : Option Nat
  /-- the monitor mailbox: the block, whether its request is pending, and the response (R389) -/
  mblock : BitVec 512
  mbell : Bool
  mresp : BitVec 128
  deriving DecidableEq, Repr

def Sup.none : Sup := ⟨0, 0, 0, 0, false, false, 0, 0, 0, 0, 0, 0, 0, false, [], [], [], [], Option.none, 0, false, 0⟩

/-- Management registers (R402, R409, R411, R415, R416, R418, R423, R425, R384). -/
structure Mgmt where
  modcap : BitVec 16
  effcap : BitVec 16
  peakcap : BitVec 16
  mincap : BitVec 16
  pwr1ms : BitVec 16
  kann : BitVec 4
  drpmv : BitVec 8
  feedflt : BitVec 2
  railflt : BitVec 8
  /-- groups that left tolerance since the last boundary (R396) -/
  railNew : BitVec 8
  /-- caps enforced, each from a boundary on, the newest first: those of the last 1 ms bound PWR1MS (R404) -/
  capHist : List (Nat × Nat)
  chen : Bool
  chmemb : BitVec 4
  chbud : BitVec 16
  fallback : BitVec 16
  chshare : BitVec 16
  chround : BitVec 32
  cecnt : BitVec 16
  uecnt : BitVec 16
  lstore : BitVec 4
  lcore : BitVec 7
  laddr : BitVec 52
  cfence : BitVec 128
  fmask : BitVec 4
  /-- modules whose re-admission was asked for and whose first heartbeat has not come (R415) -/
  unfence : BitVec 4
  /-- modules whose links retrain after such a request (R415) -/
  retrain : BitVec 4
  isol : Bool
  tkovr : BitVec 2
  cknum : BitVec 32
  ckcommit : BitVec 32
  ckper : BitVec 16
  ckbase : BitVec 48
  ckropes : BitVec 256
  ckrt : BitVec 46
  cknreg : BitVec 8
  ckslot : BitVec 32
  nomir : BitVec 4
  wrec : BitVec 256
  wbase : BitVec 46
  wlog : BitVec 5
  wtail : BitVec 32
  whead : BitVec 32
  rh : BitVec 8
  corr : BitVec 8
  rhlim : BitVec 8
  corlim : BitVec 8
  envw : Bool
  quiesce : Bool
  /-- the hub drain cap in cycles (R39) -/
  drainCap : Nat
  /-- the freeze limit of the supervisors, in hub cycles (R382) -/
  freezeLimit : Nat
  /-- the policy for P4 images: bit 0 allows the rewrite, bit 1 interlocked running (R316) -/
  p4Policy : BitVec 2
  /-- CETHR: corrected errors in 24 h above which firmware fences a core (R411) -/
  cethr : Nat
  deriving DecidableEq, Repr

/-- Management registers after cold reset: stated values, and 0 for FW fields (log 2, log 8); the drain cap, the freeze
limit, the P4 policy and CETHR have their defaults, 1,048,576 cycles, 100 us, both and 64 (R39, R316, R382, R411). -/
def Mgmt.none : Mgmt :=
  { modcap := 0, effcap := 0, peakcap := 0, mincap := 0, pwr1ms := 0, kann := 2, drpmv := 40, feedflt := 0, railflt := 0, railNew := 0, capHist := []
    chen := false, chmemb := 0, chbud := 0, fallback := 0, chshare := 0, chround := 0
    cecnt := 0, uecnt := 0, lstore := 0, lcore := 0, laddr := 0, cfence := 0
    fmask := 0, unfence := 0, retrain := 0, isol := false, tkovr := 0
    cknum := 0, ckcommit := 0, ckper := 0, ckbase := 0, ckropes := 0, ckrt := 0, cknreg := 0, ckslot := 0, nomir := 0
    wrec := 0, wbase := 0, wlog := 0, wtail := 0, whead := 0
    rh := 0, corr := 0, rhlim := 85, corlim := 50, envw := false, quiesce := false
    drainCap := 1048576, freezeLimit := 200000, p4Policy := 3, cethr := 64 }

/-- A 16-byte Wonus record by its fields (R423). -/
structure WonusRec where
  typ : BitVec 4
  src : BitVec 8
  task : BitVec 20
  seq : BitVec 32
  data : Word
  deriving DecidableEq, Repr

/-- A (link, virtual channel) pair (R44, R420). -/
structure LinkQ where
  /-- flits received and not yet taken, oldest first; none is a checkpoint marker -/
  rx : List (Option VReg)
  credits : Nat
  owner : Option Nat
  /-- flits sent and not yet on the wire, oldest first, with the sender and the accesses its release waits for (R138); none is
  a checkpoint marker -/
  tx : List (CtxNo × List Nat × Option VReg)
  deriving DecidableEq, Repr

def LinkQ.none : LinkQ := ⟨[], 64, Option.none, []⟩

/-- What this module knows of another chassis member (R405, R406, R412); its own entry keeps the message that it sent last. -/
structure Peer where
  last : Option ArbMsg
  /-- the last message is of the round that is being collected -/
  fresh : Bool
  /-- a message of a later round, which waits for it (R405) -/
  ahead : Option ArbMsg
  missing : Nat
  /-- hub cycles of silence -/
  silent : Nat
  /-- CKCOMMIT of its last heartbeat (R412) -/
  ck : BitVec 32
  /-- the checkpoint that it reported DONE, and its NOMIR flag (R419, R421) -/
  done : Option (BitVec 32 × Bool)
  /-- it is in F since the round after its fence, until its CHMEMB bit is cleared (R406) -/
  out : Bool
  deriving DecidableEq, Repr

def Peer.none : Peer := ⟨Option.none, false, Option.none, 0, 0, 0, Option.none, false⟩

/-- A checkpoint in its slot (R417, R418): the saved tasks with their team blocks, the ropes as the engine holds them, ranges of
DRAM (base, bytes, contents) and the flits of link pairs. -/
structure Ckpt where
  n : BitVec 32
  tasks : List Task
  saves : List SavedTeam
  ropes : List (Nat × Rope)
  mem : List (Nat × Nat × Memory)
  flits : List (Nat × List (Option VReg))
  /-- the credits of this module on those pairs (R44, R422) -/
  credits : List (Nat × Nat)
  deriving DecidableEq, Repr

/-- A checkpoint being taken (R417): its number, the table's regions, whether the table broke R418, the tasks that it stopped,
whether the markers are sent, the buddy for the mirror (R419), and whether the slot is written and the mirror under way. -/
structure CkRun where
  n : BitVec 32
  regions : List (Nat × Nat)
  bad : Bool
  stopped : List Nat
  marked : Bool
  buddy : Option Nat
  written : Bool
  deriving DecidableEq, Repr

/-- Boot progress (R386). -/
inductive Boot where
  | off
  /-- the RSC halted: the device never enumerates -/
  | halted
  /-- a firmware image failed: only SPDM is answered; the failed PMR index is kept -/
  | spdmOnly (idx : Nat)
  | up
  deriving DecidableEq, Repr

/-- The SPDM requests of R388. -/
inductive SpdmKind where
  | version | capabilities | algorithms | digests | certificate | challenge | measurements | unsupported
  deriving DecidableEq, Repr

/-- What reaches the monitor: a request of the host (none) or through a supervisor's mailbox, an SPDM request on the management bus or
the DOE mailbox, and a routine installation or removal that a supervisor forwards, by its operation (R388, R389, R394). -/
inductive MonReq where
  | req (ch : Option SupNo) (blk : BitVec 512)
  | spdm (k : SpdmKind) (param : SpdmParam)
  | inst (id : Nat)
  /-- the splices of an image, which a task installs at its gang start (R287) -/
  | launch (task : Nat)
  deriving DecidableEq, Repr

/-- The two boot flash slots of a target: an image that UPDATE wrote, or none for the one that the slot held from manufacture; the slot
that booted last; and whether the other one is marked as next (R394). -/
structure Flash where
  slot0 : Option FwImage
  slot1 : Option FwImage
  active : Bool
  next : Bool
  deriving DecidableEq, Repr

def Flash.none : Flash := ⟨Option.none, Option.none, false, false⟩

/-- The trusted monitor (R386, R387, R392, R394). -/
structure Monitor where
  boot : Boot
  pmr : Vector (BitVec 256) 8
  keyHash : BitVec 256
  counters : List Nat
  /-- the flash slots of the targets monitor, supervisor and management (R394) -/
  flash : Vector Flash 3
  /-- security versions of the staged images that have booted, by target (R394) -/
  booted : List (Nat × Nat)
  /-- save-area pages named by supervisors (R391) -/
  saveAreas : List Nat
  /-- requests that wait for the one being carried out, in arrival order (R388, R389) -/
  queue : List MonReq
  /-- where the ASID table stands in DRAM, once firmware runs (R354, R391, log 18) -/
  table : Option Nat
  /-- the monitor takes up the oldest waiting request in this step: no new one arrives -/
  poll : Bool
  deriving DecidableEq, Repr

def Monitor.none : Monitor := ⟨.off, Vector.replicate 8 0, 0, [0, 0, 0], Vector.replicate 3 Flash.none, [], [], [], Option.none, false⟩

/-- Feeds (R395): presence in range and the input switches. -/
structure Feeds where
  okA : Bool
  okB : Bool
  swA : Bool
  swB : Bool
  /-- all regulators are shut down -/
  down : Bool
  deriving DecidableEq, Repr

/-- A message that leaves the module. -/
inductive Msg where
  /-- an SPDM response on the management bus, or on the DOE mailbox (R388) -/
  | spdm (bus : Bool) (code : Nat) (data : List Byte)
  /-- the response to a monitor request of the host (R389) -/
  | monitor (status : Nat) (rval : Word)
  | readback (v : Word)
  | hostRead (pa : Nat) (data : List Byte)
  | flit (link vc : Nat) (data : VReg)
  | marker (link vc : Nat)
  | credit (link vc : Nat)
  | arb (m : ArbMsg)
  | heartbeat (modnum : Nat) (ck : BitVec 32)
  | fenceNotice (k : Nat)
  | ckBegin (n : BitVec 32)
  | ckDone (n : BitVec 32) (nomir : Bool)
  | ckFail (n : BitVec 32)
  | ckCommit (n : BitVec 32) (nomir : BitVec 4)
  | report (code : Nat)
  | fabric (data : List Byte) (poison : Bool)
  /-- a host untranslated address (R359, R360) -/
  | atsRequest (pasid : BitVec 20) (addr : Nat) (w : Bool)
  | pageRequest (prg : Nat) (pasid : BitVec 20) (addr : Nat)
  /-- a back-invalidate snoop of a line of device memory (R347, R365) -/
  | backInvalidate (line : Nat)
  | atsInvalidated (pasid : BitVec 20)
  /-- the mirror of a checkpoint into its slot at the buddy (R418, R419) -/
  | mirror (module slot : Nat) (n : BitVec 32)
  | peerWrite (module off : Nat) (data : List Byte)
  | peerAtomic (module off : Nat) (fn : AmoFn) (n : Nat) (y z : Word)
  | regRead (v : Word)
  deriving DecidableEq, Repr

/-- An access of the host or of a peer to this module's memory, or a host write that snoops (R122, R347, R414). -/
inductive HostAcc where
  | snoop (pa : Nat) (data : List Byte)
  | write (pa : Nat) (data : List Byte)
  | read (pa n : Nat)
  | fabric (q : FabricReq)
  deriving DecidableEq, Repr

/-- Who acts at a step when no outside event waits. -/
inductive Agent where
  | part (q : PartNo)
  | mtx (c : CoreNo)
  | copy (c : CoreNo) (e : Fin 2)
  | hal (c : CoreNo)
  /-- a supervisor's command goes on, or its oldest queued one begins (R373) -/
  | sup (k : SupNo)
  /-- the monitor takes up its oldest waiting request (R389) -/
  | mon
  /-- one pending global operation performs, if the free choice says so -/
  | home
  | ev (i : Instr)
  deriving DecidableEq, Repr

/-- The bundle being issued, as far as its ops read it: the context, the partition cycle, the slot (0 S, 1 V0, 2 V1,
3 M, 4 X), the long immediate, XORD and XSCOPE (R165, R166), and what the ops leave for the end of the bundle. -/
structure Issue where
  x : CtxNo
  cycle : Nat
  slotno : Nat
  limm : Word
  xord : BitVec 2
  xscope : BitVec 2
  /-- header bit T, for operations that a bundle with a tree cannot carry -/
  tree : Bool
  /-- the leaf that a control operation supplied: none is fall-through (R188) -/
  leaf : Option Word
  /-- PC, NPC and BP were set by the op itself (rtu, cend) -/
  jumped : Bool
  /-- the supervisor trap taken last -/
  trap : Option TrapInfo
  deriving DecidableEq, Repr

/-- The whole module. -/
structure State where
  ctxs : SMap Ctx
  parts : SMap Part
  cores : SMap Core
  dram : Memory
  hostMem : Memory
  poison : List Nat
  lines : List LineTs
  evt : SMap (BitVec 32)
  swc : SMap (BitVec 32)
  dir : List DirEnt
  owners : List Owner
  pins : List Pin
  dlt : BitVec 32
  /-- (ASID x 256 + routine number, index) of mapped routines (R287) -/
  rmap : List (Nat × Nat)
  routines : SMap (BitVec 512)
  asids : SMap AsidEnt
  tcache : List TEnt
  /-- host-side lines of DEV pages that the host caches (R347) -/
  hostCached : List Nat
  ops : List GOp
  nextOp : Nat
  rev : Nat
  wpos : Nat
  /-- an SC operation has taken the order point of the wheel's present place (R135) -/
  scTaken : Bool
  ropes : SMap Rope
  tasks : List Task
  nextTask : Nat
  /-- (priority, rope last started) (R28) -/
  lastRope : SMap Nat
  retlog : SMap (List RetEnt)
  /-- the pre-emption requests that are pending, oldest first (R40) -/
  preempt : List Preempt
  saves : List SavedTeam
  gint : Word
  islands : SMap Island
  ecls : SMap Word
  tct : SMap Word
  dcost : SMap (BitVec 16)
  /-- writes of ECLS (false) and TCT (true) that apply from the next boundary (R151) -/
  newTabs : List (Bool × Nat × Word)
  host : HostRegs
  fids : List FaultRec
  fqwait : List FaultRec
  /-- page requests not answered, by group (R360) -/
  prgs : List (Nat × AtsReq)
  /-- ATS translation requests sent and not answered (R359) -/
  ats : List AtsReq
  hubWaits : List HubWait
  nextPrg : Nat
  mq : List MDesc
  sups : SMap Sup
  mon : Monitor
  mgmt : Mgmt
  wonus : List WonusRec
  /-- writes performed per home slice: the place in its modification order (R277) -/
  modSeq : SMap Nat
  /-- the hub cycle in which each home slice last served a request, counted from 1 (R156) -/
  served : SMap Nat
  /-- accesses of the host and of peers that a slice could not serve yet: they come again in the next hub cycle (R156) -/
  waits : List HostAcc
  links : SMap LinkQ
  peers : SMap Peer
  feeds : Feeds
  /-- the checkpoint being taken, those in slots 0 and 1, and whether the coordinator abandoned the last begun (R417, R421) -/
  ckRun : Option CkRun
  ckpts : List Ckpt
  ckGone : Bool
  /-- tasks to be saved and restarted because a core of theirs was fenced (R411) -/
  evac : List Nat
  /-- errors of the stores that have arisen and that nothing has found: an input (R407, log 71) -/
  errs : List MemErr
  /-- by core: the hub cycles of the corrected errors in its scratchpad and vault, of the last 24 h (R411) -/
  ceTimes : SMap (List Nat)
  /-- a hub latch parity error stopped the module (R410) -/
  fatal : Bool
  now : Nat
  todo : List Agent
  inputs : List Instr
  issue : Issue
  freeCtr : Nat
  outbox : List Msg
  deriving DecidableEq, Repr

/-- Why the machine stops with a fault. -/
inductive Fault where
  /-- A physical access outside device DRAM on a path that takes no translation fault: raised by HOST_MEM_READ and
  HOST_MEM_WRITE beyond the HDM range of 0x90_0000_0000 bytes (R347). Safe: the model stops. -/
  | noSuchAddress
  deriving DecidableEq, Repr

/-- Why a step has no meaning in the model. -/
inductive Refusal where
  /-- An instruction without a meaning yet: raised by exec's arms only. Safe: the model stops. -/
  | notModelled (mnemonic : String)
  deriving DecidableEq, Repr

def Issue.none : Issue := ⟨0, 0, 0, 0, 0, 0, false, Option.none, false, Option.none⟩

/-- The module right after reset: nothing resident, no rope enabled, every stated reset value; the rest as the log says. -/
def State.reset : State where
  ctxs := []
  parts := []
  cores := []
  dram := []
  hostMem := []
  poison := []
  lines := []
  evt := []
  swc := []
  dir := []
  owners := []
  pins := []
  dlt := 0
  rmap := []
  routines := []
  asids := []
  tcache := []
  hostCached := []
  ops := []
  nextOp := 1
  rev := 0
  wpos := 0
  scTaken := false
  ropes := []
  tasks := []
  nextTask := 1
  lastRope := []
  retlog := []
  preempt := []
  saves := []
  gint := 0
  islands := []
  ecls := []
  tct := []
  dcost := []
  newTabs := []
  host := HostRegs.none
  fids := []
  fqwait := []
  prgs := []
  hubWaits := []
  ats := []
  nextPrg := 0
  mq := []
  sups := []
  mon := Monitor.none
  mgmt := Mgmt.none
  wonus := []
  modSeq := []
  served := []
  waits := []
  links := []
  peers := []
  feeds := ⟨true, true, true, true, false⟩
  ckRun := Option.none
  ckpts := []
  ckGone := false
  evac := []
  errs := []
  ceTimes := []
  fatal := false
  now := 0
  todo := []
  inputs := []
  issue := Issue.none
  freeCtr := 0
  outbox := []

end Sys2Proof.Machine
end

