-- ==== Sys2Proof/Machine/Ops.lean ====
section
/-! DEFINITION. The named operations over maps, memory, registers and results, and taking and leaving a trap. -/

namespace Sys2Proof.Machine

/-! ## Sparse maps -/

/-- What key n reads as: its entry, or the default d. -/
def SMap.get {α : Type} (d : α) : SMap α → Nat → α
  | [], _ => d
  | (k, v) :: r, n => if n = k then v else SMap.get d r n

/-- Put an entry at its place in rising key order. -/
def SMap.put {α : Type} : SMap α → Nat → α → SMap α
  | [], n, v => [(n, v)]
  | (k, w) :: r, n, v =>
    if n < k then (n, v) :: (k, w) :: r
    else if n = k then (n, v) :: r
    else (k, w) :: SMap.put r n v

/-- Remove the entry of a key. -/
def SMap.del {α : Type} : SMap α → Nat → SMap α
  | [], _ => []
  | (k, w) :: r, n => if n = k then SMap.del r n else (k, w) :: SMap.del r n

/-- Write key n; writing the default removes the entry. -/
def SMap.set {α : Type} [DecidableEq α] (d : α) (m : SMap α) (n : Nat) (v : α) : SMap α :=
  if v = d then SMap.del m n else SMap.put m n v

/-- Keys strictly rising from `lo` on. -/
def SMap.rising {α : Type} : Nat → SMap α → Bool
  | _, [] => true
  | lo, (k, _) :: r => decide (lo ≤ k) && SMap.rising (k + 1) r

/-- The canonical form: keys strictly rising, and no entry that equals the default. -/
def SMap.wf {α : Type} [DecidableEq α] (d : α) (m : SMap α) : Bool :=
  SMap.rising 0 m && m.all (fun e => decide (e.2 ≠ d))

/-! ## Memory: bytes by address, little-endian (R5) -/

/-- One byte; an unlisted address reads as 0 (log 3). -/
def Memory.rd (m : Memory) (a : Nat) : Byte := SMap.get (0 : Byte) m a

/-- Write one byte. -/
def Memory.wr (m : Memory) (a : Nat) (b : Byte) : Memory := SMap.set (0 : Byte) m a b

/-- The canonical form of a memory. -/
def Memory.wf (m : Memory) : Bool := SMap.wf (0 : Byte) m

/-- n bytes from address a as one little-endian number (R5). -/
def Memory.rdN (m : Memory) (a : Nat) : Nat → Nat
  | 0 => 0
  | n + 1 => (Memory.rd m a).toNat + 256 * Memory.rdN m (a + 1) n

/-- Write the low n bytes of v from address a, little-endian (R5). -/
def Memory.wrN (m : Memory) (a : Nat) (v : Nat) : Nat → Memory
  | 0 => m
  | n + 1 => Memory.wrN (Memory.wr m a (BitVec.ofNat 8 v)) (a + 1) (v / 256) n

/-- The bytes of addresses a to a + n - 1 in order. -/
def Memory.bytes (m : Memory) (a : Nat) : Nat → List Byte
  | 0 => []
  | n + 1 => Memory.rd m a :: Memory.bytes m (a + 1) n

/-- Write a list of bytes from address a. -/
def Memory.wrBytes (m : Memory) (a : Nat) : List Byte → Memory
  | [] => m
  | b :: r => Memory.wrBytes (Memory.wr m a b) (a + 1) r

/-- A list of bytes as one little-endian number. -/
def bytesNat : List Byte → Nat
  | [] => 0
  | b :: r => b.toNat + 256 * bytesNat r

/-- The low n bytes of a number, lowest first. -/
def natBytes (v : Nat) : Nat → List Byte
  | 0 => []
  | n + 1 => BitVec.ofNat 8 v :: natBytes (v / 256) n

/-! ## Numbers, bits and lanes -/

/-- Bits [hi:lo] of a number. -/
def bitsOf (v lo len : Nat) : Nat := v / 2 ^ lo % 2 ^ len

/-- One bit of a number as a truth value. -/
def bitOf (v i : Nat) : Bool := v / 2 ^ i % 2 = 1

/-- A truth value as a bit. -/
def b2n (b : Bool) : Nat := if b then 1 else 0

/-- Lane i of a vector register (R56); lanes are 0 to 31. -/
def laneOf (v : VReg) (i : Nat) : Lane32 := v.extractLsb' (32 * i) 32

/-- The image of lanes 0 to n - 1. -/
def lanesNat (f : Nat → Lane32) : Nat → Nat
  | 0 => 0
  | n + 1 => lanesNat f n + (f n).toNat * 2 ^ (32 * n)

/-- The vector register whose lane i is f i. -/
def vregOf (f : Nat → Lane32) : VReg := BitVec.ofNat 1024 (lanesNat f 32)

/-- The number of the bits set at places 0 to n - 1. -/
def maskNat (f : Nat → Bool) : Nat → Nat
  | 0 => 0
  | n + 1 => maskNat f n + b2n (f n) * 2 ^ n

/-- The 32-bit mask whose bit i is f i. -/
def maskOf (f : Nat → Bool) : BitVec 32 := BitVec.ofNat 32 (maskNat f 32)

/-- All lanes. -/
def allLanes : BitVec 32 := BitVec.allOnes 32

/-- A scalar value as a result's value. -/
def ofWord (w : Word) : VReg := w.setWidth 1024

/-! ## Numbering (R12, R46, R135) -/

/-- Core of a context. -/
def ctxCore (x : CtxNo) : Nat := x.val / 16
/-- Partition of a context within its core. -/
def ctxPart (x : CtxNo) : Nat := x.val / 4 % 4
/-- Slot of a context within its partition. -/
def ctxSlot (x : CtxNo) : Nat := x.val % 4
/-- Partition of a context, 4 core + partition. -/
def ctxPartNo (x : CtxNo) : Nat := x.val / 4
/-- Context number of a number, modulo the count. -/
def ctxOf (n : Nat) : CtxNo := Fin.ofNat 2048 n

/-! ## The parts of the state -/

def State.ctx (s : State) (x : CtxNo) : Ctx := SMap.get Ctx.none s.ctxs x.val
def State.setCtx (s : State) (x : CtxNo) (c : Ctx) : State := { s with ctxs := SMap.set Ctx.none s.ctxs x.val c }
def State.modCtx (s : State) (x : CtxNo) (f : Ctx → Ctx) : State := s.setCtx x (f (s.ctx x))

def State.part (s : State) (q : Nat) : Part := SMap.get Part.none s.parts q
def State.setPart (s : State) (q : Nat) (p : Part) : State := { s with parts := SMap.set Part.none s.parts q p }

def State.core (s : State) (c : Nat) : Core := SMap.get Core.none s.cores c
def State.setCore (s : State) (c : Nat) (k : Core) : State := { s with cores := SMap.set Core.none s.cores c k }
def State.modCore (s : State) (c : Nat) (f : Core → Core) : State := s.setCore c (f (s.core c))

def State.sup (s : State) (k : Nat) : Sup := SMap.get Sup.none s.sups k
def State.setSup (s : State) (k : Nat) (u : Sup) : State := { s with sups := SMap.set Sup.none s.sups k u }
def State.modSup (s : State) (k : Nat) (f : Sup → Sup) : State := s.setSup k (f (s.sup k))

def State.ropeOf (s : State) (r : Nat) : Rope := SMap.get Rope.none s.ropes r
def State.setRope (s : State) (r : Nat) (k : Rope) : State := { s with ropes := SMap.set Rope.none s.ropes r k }
def State.modRope (s : State) (r : Nat) (f : Rope → Rope) : State := s.setRope r (f (s.ropeOf r))

def State.island (s : State) (i : Nat) : Island := SMap.get Island.none s.islands i
def State.setIsland (s : State) (i : Nat) (k : Island) : State := { s with islands := SMap.set Island.none s.islands i k }
def State.modIsland (s : State) (i : Nat) (f : Island → Island) : State := s.setIsland i (f (s.island i))

def State.link (s : State) (i : Nat) : LinkQ := SMap.get LinkQ.none s.links i
def State.setLink (s : State) (i : Nat) (k : LinkQ) : State := { s with links := SMap.set LinkQ.none s.links i k }

def State.peer (s : State) (i : Nat) : Peer := SMap.get Peer.none s.peers i
def State.setPeer (s : State) (i : Nat) (k : Peer) : State := { s with peers := SMap.set Peer.none s.peers i k }

/-- Tasks by identity. -/
def State.task? (s : State) (t : Nat) : Option Task := s.tasks.find? (fun k => k.id = t)

/-- Update one task. -/
def State.modTask (s : State) (t : Nat) (f : Task → Task) : State :=
  { s with tasks := s.tasks.map (fun k => if k.id = t then f k else k) }

/-- The team of a task on a core. -/
def Core.team? (c : Core) (t : Nat) : Option Team := c.teams.find? (fun k => k.task = t)

/-- Update the team of a task on a core. -/
def Core.modTeam (c : Core) (t : Nat) (f : Team → Team) : Core :=
  { c with teams := c.teams.map (fun k => if k.task = t then f k else k) }

/-- The team of a context. -/
def State.teamOf (s : State) (x : CtxNo) : Option Team := (s.core (ctxCore x)).team? (s.ctx x).task

/-- The next number for an access or an operation. -/
def State.fresh (s : State) : Nat × State := (s.nextOp, { s with nextOp := s.nextOp + 1 })

/-- The next free choice, below n (log 11). -/
def State.choose (s : State) (n : Nat) : Nat × State :=
  (Config.choice s.freeCtr % n, { s with freeCtr := s.freeCtr + 1 })

/-- A message leaves the module. -/
def State.send (s : State) (m : Msg) : State := { s with outbox := s.outbox ++ [m] }

/-- Something acts after what already waits. -/
def State.after (s : State) (l : List Agent) : State := { s with todo := s.todo ++ l }

/-! ## Registers (R49, R50, R55) -/

/-- Scalar register n; s0 reads 0 (R49). -/
def Ctx.rs (c : Ctx) (n : BitVec 6) : Word := if n = 0 then 0 else c.s[n.toNat]'n.isLt

/-- Physical vector register of a logical number (R55). -/
def Ctx.physV (c : Ctx) (n : BitVec 6) : Fin 64 :=
  if n.toNat < 32 then ⟨n.toNat, n.isLt⟩
  else ⟨32 + (n.toNat - 32 + c.vrb.toNat) % 32, by omega⟩

/-- Physical predicate register of a logical number (R55). -/
def Ctx.physP (c : Ctx) (n : BitVec 7) : Fin 128 :=
  if n.toNat < 64 then ⟨n.toNat, n.isLt⟩
  else ⟨64 + (n.toNat - 64 + c.prb.toNat) % 64, by omega⟩

/-- Vector register by its logical number. -/
def Ctx.rv (c : Ctx) (n : BitVec 6) : VReg := c.v[(c.physV n).val]

/-- Physical predicate register; p0 reads all ones (R49). -/
def Ctx.rpPhys (c : Ctx) (n : Fin 128) : BitVec 32 := if n = 0 then allLanes else c.p[n.val]

/-- Predicate register by its logical number. -/
def Ctx.rp (c : Ctx) (n : BitVec 7) : BitVec 32 := c.rpPhys (c.physP n)

/-- Branch-target register. -/
def Ctx.rb (c : Ctx) (n : BitVec 3) : BitVec 13 := c.b[n.toNat]'n.isLt

/-- The predicate that a guard names: p0 to p7, or the stage predicates p64 to p71 (R56). -/
def guardReg (g : BitVec 4) : BitVec 7 := if g.toNat ≤ 7 then g.setWidth 7 else BitVec.ofNat 7 (56 + g.toNat)

/-- GuardOn(g, i) for every lane i (R56). -/
def Ctx.guard (c : Ctx) (g : BitVec 4) : BitVec 32 := if g = 0 then allLanes else c.rp (guardReg g)

/-- GuardOn(g, 0) (R56). -/
def Ctx.guard0 (c : Ctx) (g : BitVec 4) : Bool := (c.guard g).getLsbD 0

/-- Destination s[n]; a write to s0 is discarded (R50). -/
def dstS (n : BitVec 6) : Dest := if n = 0 then .none else .s ⟨n.toNat, n.isLt⟩

/-- Destination v[n], mapped at issue (R55). -/
def Ctx.dstV (c : Ctx) (n : BitVec 6) : Dest := .v (c.physV n)

/-- Destination p[n], mapped at issue; a write to p0 is discarded (R50, R55). -/
def Ctx.dstP (c : Ctx) (n : BitVec 7) : Dest := if n = 0 then .none else .p (c.physP n)

/-- Destination b[n]. -/
def dstB (n : BitVec 3) : Dest := .b ⟨n.toNat, n.isLt⟩

/-- ASTAT after a program write of w (R52, R197). -/
def astatWrite (old : BitVec 32) (w : BitVec 32) : BitVec 32 :=
  let keep (lo : Nat) : Nat :=
    let f := bitsOf w.toNat lo 3
    if f ≤ 4 then f else bitsOf old.toNat lo 3
  BitVec.ofNat 32 (bitsOf w.toNat 0 5 + keep 8 * 2 ^ 8 + keep 12 * 2 ^ 12 + bitsOf w.toNat 15 1 * 2 ^ 15)

/-- The old register with the enabled lanes of the new one. -/
def mergeLanes (lanes : BitVec 32) (old new : VReg) : VReg :=
  vregOf (fun i => if lanes.getLsbD i then laneOf new i else laneOf old i)

/-- Write a destination, over the lanes that the op writes (R50, R58). -/
def Ctx.write (c : Ctx) (d : Dest) (lanes : BitVec 32) (v : VReg) : Ctx :=
  match d with
  | .none => c
  | .s n => if n = 0 then c else { c with s := c.s.set n.val (v.setWidth 64) }
  | .v n => { c with v := c.v.set n.val (mergeLanes lanes c.v[n.val] v) }
  | .p n => if n = 0 then c else { c with p := c.p.set n.val ((c.p[n.val] &&& ~~~lanes) ||| (v.setWidth 32 &&& lanes)) }
  | .b n => { c with b := c.b.set n.val (v.setWidth 13) }
  | .lc0 => { c with lc0 := v.setWidth 32 }
  | .lc1 => { c with lc1 := v.setWidth 32 }
  | .ec => { c with ec := v.setWidth 16 }
  | .utv => { c with utv := v.setWidth 14 }
  | .vrb => { c with vrb := v.setWidth 5 }
  | .prb => { c with prb := v.setWidth 6 }
  | .astat => { c with astat := astatWrite c.astat (v.setWidth 32) }
  | .m n => { c with m := c.m.set n.val (v.setWidth 64) }

/-- OR sticky flags into ASTAT (R52, R198). -/
def Ctx.orFlags (c : Ctx) (f : BitVec 5) : Ctx := { c with astat := c.astat ||| f.setWidth 32 }

/-- Land a result (R57). -/
def Ctx.landOne (c : Ctx) (f : Flight) : Ctx :=
  match f.value with
  | some v => { (c.write f.dst f.lanes v).orFlags f.flags with rpar := c.rpar.filter (fun d => d ≠ f.dst) }
  | .none => c

/-- A fixed-latency result in flight. -/
def flightOf (due : Nat) (dst : Dest) (lanes : BitVec 32) (v : VReg) (flags : BitVec 5) (orig : Word) : Flight :=
  { id := 0, due := due, dst := dst, lanes := lanes, value := some v, flags := flags, buf := false, src := .none
    lock := false, orig := orig }

/-- The context whose bundle is issuing. -/
def State.me (s : State) : Ctx := s.ctx s.issue.x

/-- Post results of the issuing context, due `lat` partition cycles after issue: Land(dst, value, c + L) (R57). -/
def State.land (s : State) (dst : Dest) (lanes : BitVec 32) (v : VReg) (flags : BitVec 5) (lat : Nat) : State :=
  s.modCtx s.issue.x (fun c =>
    { c with flight := c.flight ++ [flightOf (s.issue.cycle + lat) dst lanes v flags c.pc] })

/-- Post a scalar result. -/
def State.landS (s : State) (d : BitVec 6) (w : Word) (lat : Nat) : State :=
  s.land (dstS d) allLanes (ofWord w) 0 lat

/-- Post a predicate result over some lanes. -/
def State.landP (s : State) (d : BitVec 7) (lanes w : BitVec 32) (flags : BitVec 5) (lat : Nat) : State :=
  s.land (s.me.dstP d) lanes (w.setWidth 1024) flags lat

/-- Post a vector result over some lanes. -/
def State.landV (s : State) (d : BitVec 6) (lanes : BitVec 32) (v : VReg) (flags : BitVec 5) (lat : Nat) : State :=
  s.land (s.me.dstV d) lanes v flags lat

/-- The data of a result is at the core: it has been read and is back (R60, R100). -/
def Flight.here (f : Flight) : Bool := f.value.isSome && f.back = 0

/-- A core cycle passes for a load in the queue of its bank and for data on its way back. -/
def Flight.nearer (f : Flight) : Flight := { f with back := f.back - 1, hold := f.hold - 1 }

/-- Whether a result of a context lands at the start of partition cycle t: it is due, and its data is present. -/
def Flight.lands (f : Flight) (t : Nat) : Bool := decide (f.due ≤ t) && f.here

/-- Insert a result after those that land no later (R58). -/
def insDue (f : Flight) : List Flight → List Flight
  | [] => [f]
  | g :: r => if f.due < g.due then f :: g :: r else g :: insDue f r

/-- Results by landing cycle, those of one cycle in issue order (R58). -/
def byDue (l : List Flight) : List Flight := l.foldl (fun acc f => insDue f acc) []

/-- A load under R317 that lands late leaves alone what a later landing has written: lane by lane for v and p, else whole. -/
def Flight.yieldTo (f g : Flight) : Flight :=
  if f.lock && decide (f.dst = g.dst) && decide (f.due ≤ g.due) then
    match f.dst with
    | .v _ => { f with lanes := f.lanes &&& ~~~g.lanes }
    | .p _ => { f with lanes := f.lanes &&& ~~~g.lanes }
    | d => { f with dst := .none, was := d }
  else f

/-- Strip from the results that stay what the landing results write after them; issue order decides in one cycle. -/
def yieldAll (t : Nat) : List Flight → List Flight
  | [] => []
  | f :: r =>
    let r' := yieldAll t r
    if f.lands t then r'
    else (r.filter (fun g => g.lands t)).foldl Flight.yieldTo f :: r'

/-- As yieldAll for landing results issued earlier, which land later only when due later. -/
def yieldBack (t : Nat) (all : List Flight) (f : Flight) : Flight :=
  (all.filter (fun g => g.lands t && decide (f.due < g.due))).foldl Flight.yieldTo f

/-- Land what is due at cycle t: an MTS write to ASTAT first, then by landing cycle and issue order, so that the result of
the later landing, and in one cycle of the later bundle, remains (R57, R58, R198, R317). -/
def Ctx.landDue (c : Ctx) (t : Nat) : Ctx :=
  let due := byDue (c.flight.filter (fun f => f.lands t))
  let c := { c with flight := (yieldAll t c.flight).map (yieldBack t c.flight) }
  let c := (due.filter (fun f => f.dst = .astat)).foldl Ctx.landOne c
  (due.filter (fun f => f.dst ≠ .astat)).foldl Ctx.landOne c

/-- A result whose data is absent when it is due freezes the partition (R61); a load under R317 only its readers. -/
def Flight.late (f : Flight) (t : Nat) : Bool := decide (f.due ≤ t) && !f.here && !f.lock

/-! ## Traps (R367 to R373) -/

/-- Trap classes (R367). -/
def tILLEGAL : BitVec 8 := 0x01
def tMEM : BitVec 8 := 0x02
def tSPILL : BitVec 8 := 0x03
def tBOUND : BitVec 8 := 0x04
def tEARLY : BitVec 8 := 0x05
def tNRG : BitVec 8 := 0x07
def tMTX : BitVec 8 := 0x08
def tSYNC : BitVec 8 := 0x09
def tSPL : BitVec 8 := 0x0A
def tSWT : BitVec 8 := 0x0B
def tDEBUG : BitVec 8 := 0x0C
def tMACHINE : BitVec 8 := 0x0D

/-- MEM causes (R97, R137, R163, R258, R275, R285). -/
def mRANGE : BitVec 8 := 0x01
def mPLACE : BitVec 8 := 0x02
def mALIGN : BitVec 8 := 0x03
def mXLATE : BitVec 8 := 0x04
def mPOISON : BitVec 8 := 0x05
def mBIGHT : BitVec 8 := 0x06
def mBRO : BitVec 8 := 0x07
def mWHEEL : BitVec 8 := 0x08
def mCMD : BitVec 8 := 0x09

/-- The 32 bytes of a trap record (R370). -/
def TrapRec.word (r : TrapRec) : Nat :=
  r.cls.toNat + r.cause.toNat * 2 ^ 8 + r.partid.toNat * 2 ^ 16 + b2n r.bp * 2 ^ 19 + b2n r.inh * 2 ^ 20 +
  b2n r.deferred * 2 ^ 21 + r.rope.toNat * 2 ^ 24 + r.pc.toNat * 2 ^ 32 + r.npc.toNat * 2 ^ 48 +
  r.faddr.toNat * 2 ^ 64 + r.core.toNat * 2 ^ 128 + r.part.toNat * 2 ^ 135 + r.slot.toNat * 2 ^ 137 +
  r.tctx.toNat * 2 ^ 139 + r.asid.toNat * 2 ^ 144 + r.orig.toNat * 2 ^ 160 + r.pcyc.toNat * 2 ^ 192

/-- Move waiting trap records into the queue while it holds fewer than 256 (R371). -/
def Sup.drainTraps (u : Sup) : Nat → Sup
  | 0 => u
  | n + 1 =>
    match u.twait with
    | [] => u
    | r :: rest =>
      if (u.tqtail - u.tqhead).toNat ≥ 256 then u
      else Sup.drainTraps { u with
        sram := Memory.wrN u.sram (u.tqbase.toNat + 32 * (u.tqtail.toNat % 256)) r.word 32
        tqtail := u.tqtail + 1, twait := rest } n

/-- Append a record to a supervisor's trap queue; when it is full the record waits in the hub (R371). -/
def Sup.addTrap (u : Sup) (r : TrapRec) : Sup :=
  Sup.drainTraps { u with twait := u.twait ++ [r] } (u.twait.length + 1)

/-- Results in flight at cycle t, held with REM (R368, R372). -/
def holdAt (t : Nat) (l : List Flight) : List Flight := l.map (fun f => { f with due := f.due - t })

/-- Held results, due REM cycles after cycle t (R372, R373). -/
def releaseAt (t : Nat) (l : List Flight) : List Flight := l.map (fun f => { f with due := f.due + t })

/-- The record of a trap of context x at partition cycle t (R370). -/
def State.trapRec (s : State) (x : CtxNo) (i : TrapInfo) (orig : Option Word) : TrapRec :=
  let c := s.ctx x
  let task := s.task? c.task
  { cls := i.cls, cause := i.cause, partid := i.part, bp := c.bp, inh := c.inh, deferred := orig.isSome
    rope := BitVec.ofNat 8 ((task.map (fun k => k.rope.val)).getD 0)
    pc := c.pc.setWidth 13, npc := c.npc.setWidth 13, faddr := i.faddr
    core := BitVec.ofNat 7 (ctxCore x), part := BitVec.ofNat 2 (ctxPart x), slot := BitVec.ofNat 2 (ctxSlot x)
    tctx := c.tctx, asid := (task.map (·.asid)).getD 0, orig := ((orig.getD c.pc).setWidth 13)
    pcyc := BitVec.ofNat 64 (s.part (ctxPartNo x)).pcyc }

/-- Trap(class, cause) of R368: the results are held with REM, the context is TRAPPED, PC, NPC and BP stay as R67 says,
and the record goes to the supervisor of the core's group of eight. A deferred trap names the faulting bundle. -/
def State.takeTrap (s : State) (x : CtxNo) (i : TrapInfo) (orig : Option Word) : State :=
  let t := (s.part (ctxPartNo x)).pcyc
  let s1 := s.modSup (ctxCore x / 8) (fun u => u.addTrap (s.trapRec x i orig))
  State.modCtx { s1 with issue := { s1.issue with trap := some i }, freeCtr := s1.freeCtr + 1 } x (fun c =>
    { c with st := .trapped, flight := [], held := c.held ++ holdAt t c.flight, release := false })

/-- Entry into the user trap handler at UTV (R372). Results that a resume has not released yet wait with the others. -/
def Ctx.userTrap (c : Ctx) (t : Nat) : Ctx :=
  { c with
    upc := c.pc, unpc := c.npc, ubp := c.bp
    heldU := c.heldU ++ c.held ++ holdAt t c.flight, flight := [], held := [], release := false, throttle := false
    pc := c.utv.setWidth 64 &&& 0x1FFF, npc := (c.utv.setWidth 64 &&& 0x1FFF) + 1, bp := false, inh := true }

/-- Return from the user trap handler (R293): UPC, UNPC and UBP come back, and the held results land REM cycles after the
bundle at UPC issues (R372). -/
def Ctx.userReturn (c : Ctx) : Ctx :=
  { c with
    pc := c.upc, npc := c.unpc, bp := c.ubp, inh := false
    held := c.held ++ c.heldU, heldU := [], release := true }

/-- The context cannot issue its bundle: it is STALLED (R47, R48). -/
def State.stallCtx (s : State) (x : CtxNo) : State := s.modCtx x (fun c => { c with st := .stalled })

/-- What the tests before issue say of one op: it may issue, it stalls the bundle, or it traps (R48, R369). -/
inductive Pre where
  | go
  | stall
  | trap (i : TrapInfo)
  deriving DecidableEq, Repr

/-- An op under its guard: guarded off it has no effect (R56); else its tests, then its effect. -/
def State.gated (s : State) (g : BitVec 4) (p : Pre) (eff : State) : State :=
  if s.me.guard0 g then
    match p with
    | .go => eff
    | .stall => s.stallCtx s.issue.x
    | .trap i => s.takeTrap s.issue.x i none
  else s

/-- Advance past a bundle that issued: the leaf gives the target, fall-through NPC + 1 (R66). -/
def Ctx.advance (c : Ctx) (leaf : Option Word) : Ctx :=
  match leaf with
  | .some target => { c with pc := c.npc, npc := target, bp := true }
  | .none => { c with pc := c.npc, npc := c.npc + 1, bp := false }

end Sys2Proof.Machine
end

