-- ==== Sys2Proof/Machine/Flags.lean ====
section
/-! DEFINITION. Exact values, the formats of R76, RoundTo with every flag it sets (R84, R88), stochastic bits (R85), FP32
addition and the lane hash (R93). -/

namespace Sys2Proof.Machine

/-! ## Flags of ASTAT (R52): NV OF UF NX SAT in bits 0 to 4 -/

def fNV : BitVec 5 := 1
def fOF : BitVec 5 := 2
def fUF : BitVec 5 := 4
def fNX : BitVec 5 := 8
def fSAT : BitVec 5 := 16

/-- A flag when a condition holds. -/
def flagIf (b : Bool) (f : BitVec 5) : BitVec 5 := if b then f else 0

/-! ## Exact values -/

/-- An exact value: NaN, an infinity, or the finite value with magnitude (mant + d) x 2^exp, where d is 0, or when `sticky`
some number strictly between 0 and 1. Zero keeps its sign (R80). -/
inductive Exact where
  | nan (neg : Bool)
  | inf (neg : Bool)
  | fin (neg : Bool) (mant : Nat) (exp : Int) (sticky : Bool)
  deriving DecidableEq, Repr

/-- The sign of a value. -/
def Exact.neg? : Exact → Bool
  | .nan n => n
  | .inf n => n
  | .fin n _ _ _ => n

/-- The value is a NaN. -/
def Exact.isNan : Exact → Bool
  | .nan _ => true
  | _ => false

/-- The value is an exact zero. -/
def Exact.isZero : Exact → Bool
  | .fin _ 0 _ false => true
  | _ => false

/-- An integer as an exact value. -/
def Exact.ofInt (i : Int) : Exact := .fin (i < 0) i.natAbs 0 false

/-- Number of significant bits of a number; 0 for 0. -/
def bitLen (n : Nat) : Nat := if n = 0 then 0 else Nat.log2 n + 1

/-! ## Formats (R76, R78) -/

/-- How a floating format writes NaN. -/
inductive NanKind where
  | ieee | e4m3 | none
  deriving DecidableEq, Repr

/-- A floating format: width, stored significand bits, bias, infinity, NaN, and the code of its largest finite value. -/
structure FpFmt where
  width : Nat
  mb : Nat
  bias : Nat
  hasInf : Bool
  nan : NanKind
  maxCode : Nat
  /-- FlushApplies is possible: FP32, FP16 and BF16 (R84) -/
  flushes : Bool
  deriving DecidableEq, Repr

def fp32 : FpFmt := ⟨32, 23, 127, true, .ieee, 0x7F7FFFFF, true⟩
def fp16 : FpFmt := ⟨16, 10, 15, true, .ieee, 0x7BFF, true⟩
def bf16 : FpFmt := ⟨16, 7, 127, true, .ieee, 0x7F7F, true⟩
def fpE4m3 : FpFmt := ⟨8, 3, 7, false, .e4m3, 0x7E, false⟩
def fpE5m2 : FpFmt := ⟨8, 2, 15, true, .ieee, 0x7B, false⟩
def fpE2m1 : FpFmt := ⟨4, 1, 1, false, .none, 0x7, false⟩

/-- A format that RoundTo narrows to. -/
inductive NumFmt where
  | fp (f : FpFmt)
  | int (signed : Bool) (w : Nat)
  deriving DecidableEq, Repr

/-- EMin of a format (R84). -/
def FpFmt.emin (f : FpFmt) : Int := 1 - (f.bias : Int)

/-- The code of infinity without its sign: the exponent field all ones. -/
def FpFmt.infCode (f : FpFmt) : Nat := (2 ^ (f.width - 1 - f.mb) - 1) * 2 ^ f.mb

/-- The sign bit of a code. -/
def FpFmt.signBit (f : FpFmt) (neg : Bool) : Nat := if neg then 2 ^ (f.width - 1) else 0

/-- The canonical NaN of a format with a sign (R79); 0 where the format has none. -/
def FpFmt.nanCode (f : FpFmt) (neg : Bool) : Nat :=
  match f.nan with
  | .ieee => f.signBit neg + f.infCode + 2 ^ (f.mb - 1)
  | .e4m3 => f.signBit neg + 0x7F
  | .none => 0

/-- The exact value of a code (R78). -/
def FpFmt.value (f : FpFmt) (code : Nat) : Exact :=
  let neg := bitOf code (f.width - 1)
  let mag := code % 2 ^ (f.width - 1)
  let e := mag / 2 ^ f.mb
  let m := mag % 2 ^ f.mb
  if f.nan = .ieee && e = 2 ^ (f.width - 1 - f.mb) - 1 then
    if m = 0 then .inf neg else .nan neg
  else if f.nan = .e4m3 && mag = 0x7F then .nan neg
  else if e = 0 then .fin neg m (f.emin - f.mb) false
  else .fin neg (m + 2 ^ f.mb) (f.emin - f.mb + (e - 1 : Nat)) false

/-- A subnormal value of a format replaced by zero of the same sign (FTZ, R52). -/
def FpFmt.flushIn (f : FpFmt) (ftz : Bool) (x : Exact) : Exact :=
  match x with
  | .fin neg m e st =>
    if ftz && f.flushes && m ≠ 0 && decide (e + (bitLen m : Int) - 1 < f.emin) then .fin neg 0 0 false
    else .fin neg m e st
  | x => x

/-! ## Rounding (R84, R85) -/

/-- Rounding modes of ASTAT: 0 RNE, 1 RTZ, 2 RUP, 3 RDN, 4 stochastic. -/
abbrev RMode := Nat

/-- Round the magnitude (m + d) x 2^e to a multiple of 2^q: the multiple, and whether it is inexact. A magnitude whose
exponent is already at or above q is exact. -/
def roundAt (neg : Bool) (m : Nat) (e : Int) (sticky : Bool) (q : Int) (mode : RMode) (r : Nat) : Nat × Bool :=
  if q ≤ e then (m * 2 ^ (e - q).toNat, sticky)
  else
    let d := (q - e).toNat
    let a := m / 2 ^ d
    let rem := m % 2 ^ d
    let half := 2 ^ (d - 1)
    let inexact := rem ≠ 0 || sticky
    let up : Bool :=
      match mode with
      | 0 => decide (half < rem) || (decide (rem = half) && (sticky || a % 2 = 1))
      | 1 => false
      | 2 => inexact && !neg
      | 3 => inexact && neg
      | _ => inexact && decide (r * 2 ^ d < rem * 65536)
    (if up then a + 1 else a, inexact)

/-- TowardZero(mode, sign) (R84). -/
def towardZero (mode : RMode) (neg : Bool) : Bool := mode = 1 || (mode = 3 && !neg) || (mode = 2 && neg)

/-- A result code with the flags its rounding sets. -/
structure Rounded where
  code : Nat
  flags : BitVec 5
  deriving DecidableEq, Repr

/-- The bounds of an integer format. -/
def intMax (signed : Bool) (w : Nat) : Int := if signed then 2 ^ (w - 1) - 1 else 2 ^ w - 1
def intMin (signed : Bool) (w : Nat) : Int := if signed then -(2 ^ (w - 1)) else 0

/-- The two's-complement code of an integer in w bits. -/
def intCode (i : Int) (w : Nat) : Nat := (i % (2 ^ w : Nat)).toNat

/-- RoundTo for an integer format (R84). -/
def roundInt (x : Exact) (signed : Bool) (w : Nat) (mode : RMode) (r : Nat) : Rounded :=
  match x with
  | .nan _ => ⟨0, fNV⟩
  | .inf neg => ⟨intCode (if neg then intMin signed w else intMax signed w) w, fSAT⟩
  | .fin neg m e st =>
    let (a, nx) := roundAt neg m e st 0 mode r
    let y : Int := if neg then -(a : Int) else a
    let fl := flagIf nx fNX
    if intMax signed w < y then ⟨intCode (intMax signed w) w, fl ||| fSAT⟩
    else if y < intMin signed w then ⟨intCode (intMin signed w) w, fl ||| fSAT⟩
    else ⟨intCode y w, fl⟩

/-- RoundTo for a floating format (R84); `ftz` says that the calling op is a vector op and ASTAT.FTZ = 1. -/
def roundFp (x : Exact) (f : FpFmt) (mode : RMode) (sat ftz : Bool) (r : Nat) : Rounded :=
  match x with
  | .nan neg => if f.nan = .none then ⟨0, fNV⟩ else ⟨f.nanCode neg, 0⟩
  | .inf neg => if f.hasInf then ⟨f.signBit neg + f.infCode, 0⟩ else ⟨f.signBit neg + f.maxCode, fSAT⟩
  | .fin neg m e st =>
    if m = 0 && !st then ⟨f.signBit neg, 0⟩
    else
      let flush := ftz && f.flushes
      let top := e + (bitLen m : Int) - 1
      let tiny := decide (top < f.emin)
      if flush && tiny then ⟨f.signBit neg, fUF ||| fNX⟩
      else
        let q := (if tiny then f.emin else top) - f.mb
        let (a, nx) := roundAt neg m e st q mode r
        let mag := (q - (f.emin - f.mb)).toNat * 2 ^ f.mb + a
        let fl := flagIf nx fNX ||| flagIf (nx && tiny) fUF
        if f.maxCode < mag then
          let fl := fl ||| fOF ||| fNX
          if towardZero mode neg then ⟨f.signBit neg + f.maxCode, fl⟩
          else if sat || f.nan = .none then ⟨f.signBit neg + f.maxCode, fl ||| fSAT⟩
          else if f.hasInf then ⟨f.signBit neg + f.infCode, fl⟩
          else ⟨f.nanCode neg, fl⟩
        else if flush && mag ≠ 0 && mag < 2 ^ f.mb then ⟨f.signBit neg, fl ||| fUF ||| fNX⟩
        else ⟨f.signBit neg + mag, fl⟩

/-- RoundTo(x, fmt, mode, sat) with its flags (R84). -/
def roundTo (x : Exact) (fmt : NumFmt) (mode : RMode) (sat ftz : Bool) (r : Nat) : Rounded :=
  match fmt with
  | .fp f => roundFp x f mode sat ftz r
  | .int signed w => roundInt x signed w mode r

/-! ## Exact arithmetic -/

/-- A signed magnitude at a common exponent. -/
def signedAt (neg : Bool) (m : Nat) (e lo : Int) : Int :=
  let v : Int := (m * 2 ^ (e - lo).toNat : Nat)
  if neg then -v else v

/-- The exact sum, and whether it is invalid (R80, R88). An exact zero sum of opposite signs is +0, and -0 in RDN. -/
def exactAdd (mode : RMode) (x y : Exact) : Exact × Bool :=
  match x, y with
  | .nan _, _ => (.nan false, false)
  | _, .nan _ => (.nan false, false)
  | .inf a, .inf b => if a = b then (.inf a, false) else (.nan false, true)
  | .inf a, _ => (.inf a, false)
  | _, .inf b => (.inf b, false)
  | .fin a m e _, .fin b n k _ =>
    if m = 0 && n = 0 then (.fin (if a = b then a else mode = 3) 0 0 false, false)
    else
      let lo := if e ≤ k then e else k
      let s := signedAt a m e lo + signedAt b n k lo
      if s = 0 then (.fin (mode = 3) 0 0 false, false) else (.fin (s < 0) s.natAbs lo false, false)

/-- The exact product, and whether it is invalid (R80, R88). -/
def exactMul (x y : Exact) : Exact × Bool :=
  let neg := x.neg? != y.neg?
  match x, y with
  | .nan _, _ => (.nan false, false)
  | _, .nan _ => (.nan false, false)
  | .inf _, .fin _ m _ _ => if m = 0 then (.nan false, true) else (.inf neg, false)
  | .fin _ m _ _, .inf _ => if m = 0 then (.nan false, true) else (.inf neg, false)
  | .inf _, .inf _ => (.inf neg, false)
  | .fin _ m e _, .fin _ n k _ => (.fin neg (m * n) (e + k) false, false)

/-- The value with its sign reversed; a NaN stays as it is. -/
def Exact.negate : Exact → Exact
  | .nan n => .nan n
  | .inf n => .inf !n
  | .fin n m e s => .fin (!n) m e s

/-- x < y for values that are not NaN; zeros of both signs are equal. -/
def exactLt (x y : Exact) : Bool :=
  match x, y with
  | .nan _, _ => false
  | _, .nan _ => false
  | .inf a, .inf b => a && !b
  | .inf a, .fin .. => a
  | .fin .., .inf b => !b
  | .fin a m e _, .fin b n k _ =>
    let lo := if e ≤ k then e else k
    decide (signedAt a m e lo < signedAt b n k lo)

/-- x = y for values that are not NaN. -/
def exactEq (x y : Exact) : Bool := !x.isNan && !y.isNan && !exactLt x y && !exactLt y x

/-- IEEE FP32 addition in RNE without flush and without flags (R89, R216 uses it too). -/
def fp32Add (c t : Nat) : Nat :=
  (roundFp (exactAdd 0 (fp32.value c) (fp32.value t)).1 fp32 0 false false 0).code

/-! ## The lane hash and stochastic bits (R85, R93) -/

/-- vhash(seed, ctr, lane) (R93). -/
def vhash (seed ctr lane : BitVec 32) : BitVec 32 :=
  let x := seed ^^^ (ctr * 0x6C8E9CF5) ^^^ (lane * 0x01000001)
  let x := x ^^^ (x >>> 15)
  let x := x * 0xA3B195C7
  let x := x ^^^ (x >>> 13)
  let x := x * 0x6C8E9CF5
  x ^^^ (x >>> 16)

/-- Bits [14:0] of CSTAT: SLOT, PART, TCTX and CORE (R53). -/
def cstatLow (x : CtxNo) (tctx : BitVec 4) : Nat :=
  ctxSlot x + ctxPart x * 4 + tctx.toNat * 16 + ctxCore x * 256

/-- StochBits(slotno, lane, k) of the issuing op (R85). -/
def State.stochBits (s : State) (lane k : Nat) : Nat :=
  let seed := BitVec.ofNat 32 (cstatLow s.issue.x s.me.tctx) ^^^ BitVec.ofNat 32 (s.issue.slotno * 2 ^ 16)
  let h := vhash seed (BitVec.ofNat 32 s.issue.cycle) (BitVec.ofNat 32 (lane + 32 * (k / 2)))
  if k % 2 = 0 then h.toNat / 2 ^ 16 else h.toNat % 2 ^ 16

/-- ASTAT.RMODE, CMODE and FTZ (R52). -/
def Ctx.rmode (c : Ctx) : RMode := bitsOf c.astat.toNat 8 3
def Ctx.cmode (c : Ctx) : RMode := bitsOf c.astat.toNat 12 3
def Ctx.ftz (c : Ctx) : Bool := c.astat.getLsbD 15

end Sys2Proof.Machine
end

