-- ==== Sys2Proof/Machine/Operands.lean ====
section
/-! DEFINITION. Operand forms: immediates and their escapes (R169, R177), lane selection, and the shapes of the plain
operations: a result under a guard. -/

namespace Sys2Proof.Machine

/-- The outcome of an instruction. -/
abbrev Out := Host.Outcome State Fault Refusal

/-! ## Immediates (R169, R177) -/

/-- A sign-extended immediate of n bits, or the long immediate when it holds the escape value 2^(n-1). -/
def immOf {n : Nat} (i : BitVec n) (limm : Word) : Word :=
  if i.toNat = 2 ^ (n - 1) then limm else i.signExtend 64

/-- An immediate of the issuing bundle. -/
def State.imm {n : Nat} (s : State) (i : BitVec n) : Word := immOf i s.issue.limm

/-! ## Plain operations: the result lands `lat` cycles after issue, under the guard of lane 0 (R56, R57, R175) -/

/-- A scalar result. -/
def State.opS (s : State) (g : BitVec 4) (d : BitVec 6) (w : Word) (lat : Nat) : State :=
  s.gated g .go (s.landS d w lat)

/-- A whole predicate result (R184, R185). -/
def State.opP (s : State) (g : BitVec 4) (d : BitVec 7) (w : BitVec 32) : State :=
  s.gated g .go (s.landP d allLanes w 0 1)

/-- A result in a counter, base or special register. -/
def State.opD (s : State) (g : BitVec 4) (d : Dest) (w : Word) : State :=
  s.gated g .go (s.land d allLanes (ofWord w) 0 1)

/-- A vector result, written in the lanes that the guard enables (R202). -/
def State.opV (s : State) (g : BitVec 4) (d : BitVec 6) (v : VReg) (flags : BitVec 5) (lat : Nat) : State :=
  s.landV d (s.me.guard g) v flags lat

/-- A lane predicate result, written in the lanes that the guard enables (R214). -/
def State.opVP (s : State) (g : BitVec 4) (p : BitVec 7) (f : Nat → Bool) : State :=
  s.landP p (s.me.guard g) (maskOf f) 0 2

/-- A predicate value of a scalar compare (R184). -/
def predOf (b : Bool) : BitVec 32 := if b then allLanes else 0

/-- The leaf that a control operation supplies (R188). -/
def State.setLeaf (s : State) (target : Word) : State := { s with issue := { s.issue with leaf := some target } }

/-! ## Operands of vector operations -/

/-- Vector register n of the issuing context. -/
def State.v (s : State) (n : BitVec 6) : VReg := s.me.rv n

/-- Element e of width w of a bit image (R77). -/
def elemOf (v : VReg) (w e : Nat) : Nat := bitsOf v.toNat (w * e) w

/-- The image of n elements of width w (R77). -/
def elemsNat (w : Nat) (f : Nat → Nat) : Nat → Nat
  | 0 => 0
  | n + 1 => elemsNat w f n + (f n % 2 ^ w) * 2 ^ (w * n)

/-- The register whose element e of width w is f e, for the first n elements; the bits above are 0. -/
def vregElems (w n : Nat) (f : Nat → Nat) : VReg := BitVec.ofNat 1024 (elemsNat w f n)

/-- Some lane that element e of width w occupies is enabled (R202). -/
def elemOn (lanes : BitVec 32) (w e : Nat) : Bool :=
  lanes.getLsbD (w * e / 32) || lanes.getLsbD ((w * e + w - 1) / 32)

/-- The flags of all written elements, ORed (R202, R203). -/
def flagsOf (lanes : BitVec 32) (w : Nat) (f : Nat → BitVec 5) : Nat → BitVec 5
  | 0 => 0
  | n + 1 => flagsOf lanes w f n ||| (if elemOn lanes w n then f n else 0)

/-- The low five bits of a number. -/
def low5 (n : Nat) : Nat := n % 32

end Sys2Proof.Machine
end

