-- ==== Sys2Proof/Machine/Translate.lean ====
section
/-! DEFINITION. Device virtual addresses, page attributes, the page-table walk, translation caches and translation faults
with their identifiers, routes and records (R111, R112, R351 to R360). -/

namespace Sys2Proof.Machine

/-! ## Physical addresses (R351) -/

/-- Bytes of device DRAM. -/
def dramSize : Nat := 0x9000000000

/-- Target nibble [51:48] of a device physical address. -/
def paTarget (pa : Nat) : Nat := pa / 2 ^ 48 % 16

/-- Offset [47:0] of a device physical address. -/
def paOff (pa : Nat) : Nat := pa % 2 ^ 48

/-- A physical target that a leaf may name; an offset beyond a module's DRAM is invalid, its own or a peer's (R351, R414). -/
def paValid (pa : Nat) : Bool :=
  match paTarget pa with
  | 0 => decide (paOff pa < dramSize)
  | 8 => true
  | t => decide (1 ≤ t) && decide (t ≤ 4) && decide (t - 1 ≠ Config.modnum.toNat) && decide (paOff pa < dramSize)

/-- The address lies in a hawser window. -/
def paHawser (pa : Nat) : Bool := decide (1 ≤ paTarget pa) && decide (paTarget pa ≤ 4)

/-! ## Page attributes (R111) -/

/-- PATTR. -/
structure Attr where
  coh : Nat
  host : Bool
  hfix : Bool
  hslice : Nat
  lticks : Nat
  /-- system-cache policy: 0 ALLOC, 1 STREAM, 2 BYPASS -/
  scp : Nat
  deriving DecidableEq, Repr

/-- PATTR's fields. -/
def attrOf (p : Nat) : Attr := ⟨bitsOf p 0 2, bitOf p 2, bitOf p 3, bitsOf p 4 6, bitsOf p 12 8, bitsOf p 10 2⟩

/-- PATTR breaks R111: COH = 3, a non-zero reserved bit, or LEASE with LTICKS = 0. R111 calls SCP = 3 reserved and does not list it
among the permanent faults: the model faults it like COH = 3 (DESIGN CHOICE, log 85). -/
def attrBad (p : Nat) : Bool :=
  bitsOf p 0 2 = 3 || bitsOf p 10 2 = 3 || bitsOf p 20 4 ≠ 0 || (bitsOf p 0 2 = 2 && bitsOf p 12 8 = 0)

/-- The hash of R112. -/
def homeHash (x : Nat) : Nat :=
  bitsOf x 6 6 ^^^ bitsOf x 12 6 ^^^ bitsOf x 18 6 ^^^ bitsOf x 24 6 ^^^ bitsOf x 30 6 ^^^ bitsOf x 36 6 ^^^
    bitsOf x 42 6 ^^^ bitsOf x 48 4

/-- The home slice of a line (R112). -/
def homeSlice (a : Attr) (pa : Nat) : Nat := if a.hfix then a.hslice else homeHash pa

/-! ## The walk (R352) -/

/-- Kinds of translation fault (R356). -/
def kNOTPRES : Nat := 1
def kWRITE : Nat := 2
def kATS : Nat := 3
def kPATTR : Nat := 4
def kTABLE : Nat := 5
def kADDR : Nat := 6

/-- A final kind is permanent from the start (R356). -/
def kindFinal (k : Nat) : Bool := decide (3 ≤ k)

/-- What a walk finds: a leaf entry with its level and its own address, an ATS leaf, or a fault kind. -/
inductive Walk where
  | leaf (e : Nat) (level : Nat) (addr : Nat)
  | ats (e : Nat) (level : Nat)
  | fault (k : Nat)
  deriving DecidableEq, Repr

/-- Reserved bits of an entry (R352): bits [11:5], [63:52] and [127:88]. -/
def entryRsvd (e : Nat) : Bool := bitsOf e 5 7 ≠ 0 || bitsOf e 52 12 ≠ 0 || bitsOf e 88 40 ≠ 0

/-- A leaf's page address. -/
def entryPage (e : Nat) : Nat := bitsOf e 12 40 * 4096

/-- Bytes of a page at a level. -/
def pageSize (level : Nat) : Nat := 2 ^ (12 + 9 * level)

/-- A leaf entry breaks R352 or R111: its fault kind. -/
def leafFault (e level : Nat) (ats : Bool) : Option Nat :=
  let p := bitsOf e 64 24
  if level = 3 || entryRsvd e || entryPage e % pageSize level ≠ 0 then some kTABLE
  else if !ats && !paValid (entryPage e) then some kTABLE
  else if attrBad p then some kPATTR
  else if (ats || paTarget (entryPage e) = 8) && !(attrOf p).host then some kTABLE
  else none

/-- One level of the walk: the entry at this level, then the next table. -/
def walkFrom (dram : Memory) (va : Nat) : Nat → Nat → Walk
  | level, table =>
    let addr := table + 16 * bitsOf va (12 + 9 * level) 9
    let e := Memory.rdN dram addr 16
    if !bitOf e 0 then .fault kNOTPRES
    else
      match bitsOf e 1 2 with
      | 0 =>
        if entryRsvd e || bitsOf e 64 24 ≠ 0 || bitsOf e 12 1 = 1 || dramSize < entryPage e + 8192 then .fault kTABLE
        else
          match level with
          | 0 => .fault kTABLE
          | l + 1 => walkFrom dram va l (entryPage e)
      | 1 => match leafFault e level false with
        | some k => .fault k
        | none => .leaf e level addr
      | 2 => match leafFault e level true with
        | some k => .fault k
        | none => .ats e level
      | _ => .fault kTABLE

/-- The ASID table's entry (R354). -/
def State.asid (s : State) (a : BitVec 16) : AsidEnt := SMap.get AsidEnt.none s.asids a.toNat

/-- The 16 bytes of an ASID entry (R354). -/
def AsidEnt.word (e : AsidEnt) : Nat :=
  b2n e.v + b2n e.hmgd * 2 + b2n e.prien * 2 ^ 2 + b2n e.splok * 2 ^ 3 + b2n e.hide * 2 ^ 4 + e.root.toNat * 2 ^ 13 +
    e.pasid.toNat * 2 ^ 64 + e.claim.toNat * 2 ^ 84

/-- The value of an owned word: the captured one once a flush or an unmap has captured it, else what the bight holds (R141). -/
def Owner.bytes (o : Owner) (s : State) : Nat :=
  match o.cap with
  | some v => v.2.toNat
  | none =>
    let c := s.core o.core
    Memory.rdN (if o.vault then c.vault else c.spad) (4 * o.w) 4

/-- DRAM as a walk's reads at the home slices find it: an owned word has its owner's value (R141, R355). -/
def State.tableMem (s : State) : Memory := s.owners.foldl (fun m o => Memory.wrN m (4 * o.word) (o.bytes s) 4) s.dram

/-- Bytes of a peer's memory, as far as this module can tell (log 19). -/
def peerBytes (pa ctr : Nat) : Nat → Nat
  | 0 => 0
  | n + 1 => (Config.peerByte pa ctr).toNat + 256 * peerBytes (pa + 1) ctr n

/-- The home value of n bytes at a device physical address: owned words have their owners' values (R141, R351). -/
def State.homeValue (s : State) (pa n : Nat) : Nat :=
  if paTarget pa = 0 then Memory.rdN s.tableMem pa n
  else if paTarget pa = 8 then Memory.rdN s.hostMem (paOff pa) n
  else peerBytes pa s.freeCtr n

/-- The fresh walk of an address in an ASID (R351, R352, R354). -/
def State.walk (s : State) (asid : BitVec 16) (va : Nat) : Walk :=
  let a := s.asid asid
  if 2 ^ 48 ≤ va || !a.v then .fault kADDR else walkFrom s.tableMem va 3 (a.root.toNat * 8192)

/-- Addresses of the entries that a walk reads (R352). -/
def walkPath (dram : Memory) (va : Nat) : Nat → Nat → List Nat
  | level, table =>
    let addr := table + 16 * bitsOf va (12 + 9 * level) 9
    let e := Memory.rdN dram addr 16
    match level with
    | 0 => [addr]
    | l + 1 => if bitOf e 0 && bitsOf e 1 2 = 0 then addr :: walkPath dram va l (entryPage e) else [addr]

/-- A translation: a physical address with its attributes, a question that the host must answer, a fault kind, or a wait for the
maintenance of the page. -/
inductive Xlate where
  | ok (pa : Nat) (a : Attr)
  | ats
  | fault (k : Nat)
  | hold
  deriving DecidableEq, Repr

/-- A leaf entry of a page of 2^bits bytes applied to an address, with the write permission (R352, R356). -/
def applyLeaf (e bits va : Nat) (w : Bool) : Xlate :=
  if w && !bitOf e 3 then .fault kWRITE
  else .ok (entryPage e + va % 2 ^ bits) (attrOf (bitsOf e 64 24))

/-- A cached entry applied to an address; a page that the host let only be read must be asked for again (R359). -/
def TEnt.apply (t : TEnt) (va : Nat) (w : Bool) : Xlate :=
  let e := t.entry.toNat
  if w && bitsOf e 1 2 = 2 && bitOf e 3 && !bitOf e 4 then .ats else applyLeaf e t.bits va w

/-- A cached entry covers an address (R355). -/
def TEnt.covers (t : TEnt) (at_ : Nat) (asid : BitVec 16) (va : Nat) : Bool :=
  t.at_ = at_ && t.asid = asid && t.page = va / 2 ^ t.bits

/-- The cached entry that an agent of core c would use: its braid's cache, then the hub's (R355). -/
def State.cached (s : State) (core : Nat) (asid : BitVec 16) (va : Nat) : Option TEnt :=
  match s.tcache.find? (fun t => t.covers (core / 4) asid va) with
  | some t => some t
  | none => s.tcache.find? (fun t => t.covers 32 asid va)

/-- A page that the monitor keeps as a save area is accessible to no ASID: a final fault, whose kind R391 does not name
(R391, log 44). -/
def State.shown (s : State) (x : Xlate) : Xlate :=
  match x with
  | .ok pa _ =>
    if s.mon.saveAreas.contains (pa / 4096) then .fault (kATS + (Config.hiddenKind s.freeCtr).toNat) else x
  | _ => x

/-- Translate, whatever maintenance is under way. Where a cached entry and a fresh walk disagree, either is used (R355, log 14). An ATS
leaf uses the host's cached answer or asks for one, a write only where the leaf permits it (R352, R359). -/
def State.look (s : State) (core : Nat) (asid : BitVec 16) (va : Nat) (w : Bool) : Xlate :=
  let fresh : Xlate :=
    match s.walk asid va with
    | .leaf e l _ => applyLeaf e (12 + 9 * l) va w
    | .ats e _ =>
      if w && !bitOf e 3 then .fault kWRITE
      else
        match s.tcache.find? (fun t => t.covers 32 asid va) with
        | some t => match t.apply va w with
          | .fault _ => .ats
          | r => r
        | none => .ats
    | .fault k => .fault k
  s.shown (match s.cached core asid va with
    | some t =>
      let old := t.apply va w
      if old = fresh then fresh else if Config.useCached s.freeCtr then old else fresh
    | none => fresh)

/-- Translate as before a change that maintenance makes known: a cached entry where there is one (R355, R363). -/
def State.lookOld (s : State) (core : Nat) (asid : BitVec 16) (va : Nat) (w : Bool) : Xlate :=
  match s.cached core asid va with
  | some t => s.shown (t.apply va w)
  | none => s.look core asid va w

/-- log2 of the bytes of the leaf page that an agent of a core finds at an address: of the cached entry, else of the walk (R353, R355). -/
def State.pageBits (s : State) (core : Nat) (asid : BitVec 16) (va : Nat) : Nat :=
  match s.cached core asid va with
  | some t => t.bits
  | none =>
    match s.walk asid va with
    | .leaf _ l _ => 12 + 9 * l
    | .ats _ l => 12 + 9 * l
    | .fault _ => 12

/-- Two addresses lie in one leaf page (R363, R365). -/
def State.samePage (s : State) (core : Nat) (asid : BitVec 16) (a b : Nat) : Bool :=
  let n := 2 ^ s.pageBits core asid a
  a / n = b / n

/-! ## Maintenance under way (R362 to R366) -/

/-- Fields of a maintenance descriptor (R362); the count takes one bit more, which only the monitor's whole-range SHOOT sets
(R390). -/
def mdOp (d : BitVec 256) : Nat := bitsOf d.toNat 0 4
def mdAsid (d : BitVec 256) : BitVec 16 := BitVec.ofNat 16 (bitsOf d.toNat 32 16)
def mdVa (d : BitVec 256) : Nat := bitsOf d.toNat 64 64
def mdNpg (d : BitVec 256) : Nat := bitsOf d.toNat 128 37

/-- A pushed descriptor has an invalid OP, a non-zero reserved bit, or NPG = 0. -/
def mdBad (d : BitVec 256) : Bool :=
  let n := d.toNat
  mdOp d = 0 || decide (3 < mdOp d) || bitsOf n 4 28 ≠ 0 || bitsOf n 48 16 ≠ 0 || bitsOf n 164 28 ≠ 0 || bitsOf n 200 56 ≠ 0 ||
    mdNpg d = 0

/-- A push of the host or of a supervisor made the entry. -/
def MFrom.pushed : MFrom → Bool
  | .host _ => true
  | .sup _ _ => true
  | _ => false

/-- The host pushed it for an ASID that it may not manage (R362). -/
def State.mqDenied (s : State) (m : MDesc) (d : BitVec 256) : Bool :=
  match m.orig with
  | .host _ => !(s.asid (mdAsid d)).hmgd
  | _ => false

/-- BIAS of a leaf entry. -/
def leafHost (e : Nat) : Bool := bitOf e 66

/-- The leaf page in DRAM that a flip names: its physical address and size, the entry's address and the entry (R362, R365). -/
def State.flipPage (s : State) (d : BitVec 256) : Option (Nat × Nat × Nat × Nat) :=
  match s.walk (mdAsid d) (mdVa d) with
  | .leaf e l a => if paTarget (entryPage e) = 0 then some (entryPage e, pageSize l, a, e) else none
  | _ => none

/-- A physical address lies in a page. -/
def inPage (p : Nat × Nat × Nat × Nat) (pa : Nat) : Bool := decide (p.1 ≤ pa) && decide (pa < p.1 + p.2.1)

/-- The descriptor being carried out, when it has an effect: well formed, not denied, and for a flip of a page that has the other
bias (R362, R365). -/
def State.underway (s : State) : Option (BitVec 256) :=
  match s.mq with
  | [] => none
  | m :: _ =>
    match m.desc with
    | none => none
    | some d =>
      if (m.orig.pushed && mdBad d) || s.mqDenied m d then none
      else if mdOp d = 1 then some d
      else if (s.flipPage d).any (fun p => leafHost p.2.2.2 ≠ (mdOp d = 2)) then some d
      else none

/-- A maintenance descriptor covers an address of an ASID: a SHOOT by its range, a flip by its physical page (R363, R365). -/
def State.covers (s : State) (core : Nat) (d : BitVec 256) (asid : BitVec 16) (a : Nat) : Bool :=
  if mdOp d = 1 then asid = mdAsid d && decide (mdVa d / 4096 ≤ a / 4096) && decide (a / 4096 < mdVa d / 4096 + mdNpg d)
  else
    match s.flipPage d, s.lookOld core asid a false with
    | some p, .ok pa _ => inPage p pa
    | _, _ => false

/-- The maintenance under way keeps new accesses from an address (R363, R365). -/
def State.barred (s : State) (core : Nat) (asid : BitVec 16) (va : Nat) : Bool := s.underway.any (fun d => s.covers core d asid va)

/-- Translate for one access: while a shootdown or a flip that covers the address is under way it waits (R363, R365, R366). -/
def State.xlate (s : State) (core : Nat) (asid : BitVec 16) (va : Nat) (w : Bool) : Xlate :=
  if s.barred core asid va then .hold else s.look core asid va w

/-- Keep at most n entries of one cache, newest first. -/
def keepAt (at_ : Nat) : Nat → List TEnt → List TEnt
  | _, [] => []
  | n, t :: r =>
    if t.at_ = at_ then
      match n with
      | 0 => keepAt at_ 0 r
      | m + 1 => t :: keepAt at_ m r
    else t :: keepAt at_ n r

/-- A level 0 leaf entry e at an address belongs to 16 entries with C64 that are equal but for ADDR, which rises by 1 from a multiple of
16: then the first of them (R353). -/
def group64 (mem : Memory) (e addr : Nat) : Option Nat :=
  let base := addr / 256 * 256
  let first := Memory.rdN mem base 16
  if bitOf e 4 && bitsOf first 12 4 = 0 && (List.range 16).all (fun k => Memory.rdN mem (base + 16 * k) 16 = first + k * 2 ^ 12) then
    some first
  else none

/-- Enter a successful leaf translation into the braid's cache and the hub's, a 64 KiB page as one entry (R353, R355). -/
def State.cacheIn (s : State) (core : Nat) (asid : BitVec 16) (va : Nat) : State :=
  let s := { s with freeCtr := s.freeCtr + 1 }
  match s.walk asid va with
  | .leaf e l addr =>
    match s.cached core asid va with
    | some _ => s
    | none =>
      let g := if l = 0 then group64 s.tableMem e addr else none
      let bits := if g.isSome then 16 else 12 + 9 * l
      let t := fun at_ => TEnt.mk at_ asid (va / 2 ^ bits) (BitVec.ofNat 128 (g.getD e)) bits
      { s with tcache := keepAt 32 32768 (keepAt (core / 4) 1024 (t (core / 4) :: t 32 :: s.tcache)) }
  | _ => s

/-! ## Faults (R357, R358) -/

/-- Sources of a fault record (R358). -/
def srcFill : BitVec 3 := 0
def srcCopy : BitVec 3 := 1
def srcHalyard : BitVec 3 := 2
def srcAtomic : BitVec 3 := 3
def srcRope : BitVec 3 := 4
def srcSup : BitVec 3 := 5

/-- Routing of a claimant: HOST in bit 0, SUP in bit 1 (R348). -/
def State.routeOf (s : State) (claim : BitVec 8) : BitVec 2 := SMap.get 0 s.host.route claim.toNat

/-- The 16 bytes of a fault record (R358). -/
def FaultRec.word (f : FaultRec) : Nat :=
  f.fid % 2 ^ 16 + f.kind.toNat * 2 ^ 16 + b2n f.wr * 2 ^ 20 + b2n f.fwd * 2 ^ 21 + b2n f.final * 2 ^ 22 +
  f.asid.toNat * 2 ^ 32 + f.claim.toNat * 2 ^ 48 + f.src.toNat * 2 ^ 56 + (f.va % 2 ^ 48) * 2 ^ 64 +
  (if f.src = srcRope || f.src = srcSup then 0 else f.core % 128) * 2 ^ 112

/-- Send a record along its route: the supervisor of the faulting core first, else the host (R357). -/
def State.routeFault (s : State) (f : FaultRec) : State :=
  let r := s.routeOf f.claim
  if r.getLsbD 1 then s.modSup (f.core / 8) (fun u => { u with fwait := u.fwait ++ [f] })
  else if r.getLsbD 0 then { s with fqwait := s.fqwait ++ [f] }
  else s

/-- The outstanding fault on an ASID, a 4 KiB page and W (R357). -/
def State.fidOn (s : State) (asid : BitVec 16) (va : Nat) (w : Bool) : Option FaultRec :=
  s.fids.find? (fun f => f.asid = asid && f.va / 4096 = va / 4096 && f.wr = w)

/-- The first fault identifier not in use of the k that follow n in the pool of 4,096, round its end (R357). -/
def State.freeFid (s : State) : Nat → Nat → Option Nat
  | 0, _ => none
  | k + 1, n => if s.fids.any (fun f => f.fid = n % 4096) then s.freeFid k (n + 1) else some (n % 4096)

/-- What an access that faulted becomes. -/
inductive FaultOut where
  /-- it waits on this identifier -/
  | wait (fid : Nat)
  /-- every identifier is in use: it waits without a record -/
  | full
  /-- it has its permanent outcome -/
  | perm
  deriving DecidableEq, Repr

/-- A translation fault of kind k: final kinds and unrouted faults are permanent at once; others wait on a FID (R356,
R357, R358). Which free identifier it takes is free (log 81). -/
def State.faultAt (s : State) (k : Nat) (asid : BitVec 16) (va : Nat) (w : Bool) (claim : BitVec 8) (src : BitVec 3)
    (core : Nat) : FaultOut × State :=
  let rec0 (fid : Nat) (final : Bool) : FaultRec :=
    { fid := fid, kind := BitVec.ofNat 4 k, wr := w, fwd := false, final := final, asid := asid, claim := claim
      src := src, va := va, core := core }
  if kindFinal k then (.perm, s.routeFault (rec0 0 true))
  else if s.routeOf claim = 0 then (.perm, s)
  else
    match s.fidOn asid va w with
    | some f => (.wait f.fid, s)
    | none =>
      match s.freeFid 4096 (Config.choice s.freeCtr) with
      | none => (.full, s)
      | some n => (.wait n, { s with fids := s.fids ++ [rec0 n false], freeCtr := s.freeCtr + 1 }.routeFault (rec0 n false))

/-- The claimant of an access of a task: its rope's OWNER (R357). -/
def State.claimOf (s : State) (task : Nat) : BitVec 8 :=
  match s.task? task with
  | some t => (s.ropeOf t.rope.val).owner
  | none => 0

end Sys2Proof.Machine
end

