-- ==== Sys2Proof/Machine/Errors.lean ====
section
/-! DEFINITION. Errors of the stores: what finding one does, and the reads that find them (R367, R407 to R411). -/

namespace Sys2Proof.Machine

/-! ## What an error does (R408 to R411) -/

/-- Tasks with a team on a core. -/
def State.residents (s : State) (c : Nat) : List Task := (s.core c).teams.filterMap (fun t => s.task? t.task)

/-- The core is fenced (R411). -/
def State.coreFenced (s : State) (c : Nat) : Bool := s.mgmt.cfence.getLsbD c

/-- Tasks with a team on a core that a new fence moves elsewhere. -/
def State.evacuate (s : State) (c : Nat) : State :=
  (s.residents c).foldl (fun s t =>
    let s := s.modTask t.id (fun k => if k.st = .running then { k with st := .stopping } else k)
    if s.evac.contains t.id then s else { s with evac := s.evac ++ [t.id] }) s

/-- Core c is fenced, and the tasks on it are saved and restarted elsewhere (R411). -/
def State.fenceCore (s : State) (c : Nat) : State :=
  if s.coreFenced c then s
  else State.evacuate { s with mgmt := { s.mgmt with cfence := s.mgmt.cfence ||| BitVec.ofNat 128 (2 ^ c) } } c

/-- One more, up to the largest of 16 bits. -/
def satInc (n : BitVec 16) : BitVec 16 := if n.toNat < 65535 then n + 1 else n

/-- An error in ERRLOG: the counter of its kind, its store, and its core or its address where it has one (R409, log 71). -/
def Mgmt.logError (m : Mgmt) (double : Bool) (store : BitVec 4) (core : Option Nat) (pa : Option Nat) : Mgmt :=
  { m with
    cecnt := if double then m.cecnt else satInc m.cecnt, uecnt := if double then satInc m.uecnt else m.uecnt, lstore := store
    lcore := (core.map (BitVec.ofNat 7)).getD m.lcore, laddr := (pa.map (BitVec.ofNat 52)).getD m.laddr }

/-- Hub cycles in 24 h. -/
def ceWindow : Nat := 172800000000000

/-- A corrected error in a core's scratchpad or vault; more than CETHR of them in 24 h fence the core (R411). -/
def State.corrected (s : State) (c : Nat) : State :=
  let l := (SMap.get [] s.ceTimes c).filter (fun t => decide (s.now < t + ceWindow)) ++ [s.now]
  let t := { s with ceTimes := SMap.set [] s.ceTimes c l }
  if s.mgmt.cethr < l.length then t.fenceCore c else t

/-- A granule joins those that are poisoned. -/
def markGranule (l : List Nat) (g : Nat) : List Nat := if l.contains g then l else l ++ [g]

/-- A granule of device memory with an error (R408). -/
def State.memError (s : State) (e : MemErr) (store : BitVec 4) (g : Nat) : State :=
  if dramSize < 8 * g + 8 then s
  else
    { s with
      mgmt := s.mgmt.logError e.double store none (some (8 * g))
      poison := if e.double then markGranule s.poison g else s.poison }

/-- A granule of a core's scratchpad or vault with an error (R408, R411). -/
def State.storeError (s : State) (e : MemErr) (c : Nat) (vault : Bool) (g : Nat) : State :=
  if (if vault then 12582912 else 1048576) < 8 * g + 8 then s
  else
    let s := { s with mgmt := s.mgmt.logError e.double (if vault then 2 else 1) (some c) none }
    if e.double then
      s.modCore c (fun k =>
        if vault then { k with vaultPoison := markGranule k.vaultPoison g } else { k with spadPoison := markGranule k.spadPoison g })
    else s.corrected c

/-- The team and its bundle that stand at a place of the instruction store. -/
def bundleAt : List Team → Nat → Option (Nat × Nat)
  | [], _ => none
  | t :: r, n => if n < t.nbun then some (t.task, n) else bundleAt r (n - t.nbun)

/-- A bundle of a core's instruction store with an error: an uncorrectable one traps at its issue, and the core is fenced (R367,
R408, R411). -/
def State.istoreError (s : State) (e : MemErr) (c n : Nat) : State :=
  if 8192 ≤ n then s
  else
    let s := { s with mgmt := s.mgmt.logError e.double 3 (some c) none }
    if e.double then
      (match bundleAt (s.core c).teams n with
        | some p => s.modCore c (fun k => k.modTeam p.1 (fun t => { t with ipar := markGranule t.ipar p.2 }))
        | none => s).fenceCore c
    else s

/-- The register that a code names (R379). -/
def destOf (code : Nat) : Option Dest :=
  let n := code % 256
  match code / 256 with
  | 0 => if n < 64 then some (.s (Fin.ofNat 64 n)) else none
  | 1 => if n < 64 then some (.v (Fin.ofNat 64 n)) else none
  | 2 => if n < 128 then some (.p (Fin.ofNat 128 n)) else none
  | 3 => if n < 8 then some (.b (Fin.ofNat 8 n)) else none
  | 4 => match n with
    | 0 => some .astat
    | 4 => some .vrb
    | 5 => some .prb
    | 6 => some .lc0
    | 7 => some .lc1
    | 8 => some .ec
    | 9 => some .utv
    | _ => none
  | 5 => if n < 8 then some (.m (Fin.ofNat 8 n)) else none
  | _ => none

/-- A parity error in a register or landing-buffer entry of a context: the bundle that reads it traps (R367, R410). -/
def State.regError (s : State) (x : CtxNo) (code : Nat) : State :=
  match destOf code with
  | some d => if (s.ctx x).st = .empty then s else s.modCtx x (fun c => { c with rpar := if c.rpar.contains d then c.rpar else c.rpar ++ [d] })
  | none => s

/-- An error of a store shows: a read or the scrubber finds it (R408, R410). -/
def State.storeErr (s : State) (e : MemErr) : State :=
  match e.at_ with
  | .spad c g => s.storeError e c.val false g
  | .vault c g => s.storeError e c.val true g
  | .istore c n => s.istoreError e c.val n
  | .cache g => s.memError e 4 g
  | .table => { s with mgmt := s.mgmt.logError e.double 4 none none }
  | .dram g => s.memError e 5 g
  | .reg x code => s.regError x code

/-! ## Reads that find errors (R408, log 71) -/

/-- The errors that satisfy a test are found. -/
def State.findErrs (s : State) (p : ErrAt → Bool) : State :=
  if s.errs.any (fun e => p e.at_) then
    (s.errs.filter (fun e => p e.at_)).foldl State.storeErr { s with errs := s.errs.filter (fun e => !p e.at_) }
  else s

/-- An 8-byte granule shares a byte with n bytes at an address. -/
def granuleIn (g a n : Nat) : Bool := decide (8 * g < a + n) && decide (a < 8 * g + 8)

/-- A read of n bytes of device memory finds its errors, in DRAM or in the system cache. -/
def State.findMem (s : State) (pa n : Nat) : State :=
  s.findErrs (fun e => match e with
    | .dram g => granuleIn g pa n
    | .cache g => granuleIn g pa n
    | _ => false)

/-- A read of n bytes of a core's store finds its errors. -/
def State.findStore (s : State) (core : Nat) (vault : Bool) (off n : Nat) : State :=
  s.findErrs (fun e => match e with
    | .spad c g => !vault && c.val = core && granuleIn g off n
    | .vault c g => vault && c.val = core && granuleIn g off n
    | _ => false)

/-- The fetch of the bundle at a context's PC finds its errors, and the registers of the context show theirs. -/
def State.findBundle (s : State) (x : CtxNo) : State :=
  s.findErrs (fun e => match e with
    | .istore c n => c.val = ctxCore x && bundleAt (s.core c.val).teams n = some ((s.ctx x).task, (s.ctx x).pc.toNat)
    | .reg y _ => y = x
    | _ => false)

end Sys2Proof.Machine
end

