-- ==== Sys2Proof/Machine/Mem.lean ====
section
/-! DEFINITION. Windows and their resolution (R95 to R98), bight words with their side bits (R103 to R107), lease tables
(R116 to R120), and the order of the accesses of one context (R126 to R132). -/

namespace Sys2Proof.Machine

/-! ## Serial numbers (R116) -/

def serialLT (a b : BitVec 32) : Bool :=
  let d := (b - a).toNat
  decide (1 ≤ d) && decide (d ≤ 2 ^ 31 - 1)
def serialLE (a b : BitVec 32) : Bool := a = b || serialLT a b
def serialMax (a b : BitVec 32) : BitVec 32 := if serialLT a b then b else a

/-! ## Windows (R95, R96) -/

/-- Size of a team's window. -/
def Team.winSize (t : Team) (vault : Bool) : Nat := if vault then t.vaultSize else t.spadSize

/-- Base of a team's window in its core's store. -/
def Team.winBase (t : Team) (vault : Bool) : Nat := if vault then t.vaultBase else t.spadBase

/-- The store of a core. -/
def Core.store (c : Core) (vault : Bool) : Memory := if vault then c.vault else c.spad

/-- Replace the store of a core. -/
def Core.setStore (c : Core) (vault : Bool) (m : Memory) : Core :=
  if vault then { c with vault := m } else { c with spad := m }

/-- The side bits of a core's store. -/
def Core.sides (c : Core) (vault : Bool) : SMap Side := if vault then c.vaultSide else c.spadSide

/-- Side bits of one word (R105). -/
def Core.side (c : Core) (vault : Bool) (w : Nat) : Side := SMap.get Side.none (c.sides vault) w

/-- Set the side bits of one word. -/
def Core.setSide (c : Core) (vault : Bool) (w : Nat) (b : Side) : Core :=
  if vault then { c with vaultSide := SMap.set Side.none c.vaultSide w b }
  else { c with spadSide := SMap.set Side.none c.spadSide w b }

/-- A resolved access: core, store, and byte offset in the core's store. -/
structure Loc where
  core : Nat
  vault : Bool
  off : Nat
  deriving DecidableEq, Repr

/-- Offset `off` of the window of a task on a core, for n bytes. -/
def State.inWindow (s : State) (core task : Nat) (vault : Bool) (off n : Nat) : Except (BitVec 8) Loc :=
  match (s.core core).team? task with
  | none => .error mRANGE
  | some t => if off + n ≤ t.winSize vault then .ok ⟨core, vault, t.winBase vault + off⟩ else .error mRANGE

/-- Core at a shape position of a task (R17). -/
def State.coreAt (s : State) (task p : Nat) : Option Nat :=
  match s.task? task with
  | some t => if p < t.ncores then some (t.base + p) else none
  | none => none

/-- The core belongs to the task's placement (R34). -/
def State.placed (s : State) (task core : Nat) : Bool :=
  match s.task? task with
  | some t => decide (t.base ≤ core) && decide (core < t.base + t.ncores)
  | none => false

/-- Resolve(space, a, n) for an agent of a task on a core (R98). -/
def State.resolve (s : State) (core task : Nat) (vault : Bool) (a n : Nat) : Except (BitVec 8) Loc :=
  if a % n ≠ 0 then .error mALIGN
  else if vault then
    if 2 ^ 31 ≤ a then .error mRANGE
    else
      match s.coreAt task (bitsOf a 24 7) with
      | none => .error mPLACE
      | some c => s.inWindow c task true (a % 2 ^ 24) n
  else
    match s.inWindow core task false a n with
    | .ok l => .ok l
    | .error _ =>
      if 0x400000 ≤ a && a + n ≤ 0x800000 then
        let c := 4 * (core / 4) + bitsOf a 20 2
        if s.placed task c then s.inWindow c task false (a % 2 ^ 20) n else .error mPLACE
      else .error mRANGE

/-! ## Bight words (R103 to R105) -/

/-- Words of one element. -/
def Bight.w4 (b : Bight) : Nat := b.elem.toNat + 1

/-- Words of the local range. -/
def Bight.words (b : Bight) : Nat := b.count.toNat * b.w4

/-- Global address of word i of the range (R104). -/
def Bight.va (b : Bight) (i : Nat) : Nat :=
  (b.vbase.toNat + i / b.w4 * b.stride.toNat + 4 * (i % b.w4)) % 2 ^ 64

/-- The word of the range whose global address is va (R104, R106). -/
def Bight.wordAt (b : Bight) (va : Nat) : Option Nat :=
  let o := (va + 2 ^ 64 - b.vbase.toNat) % 2 ^ 64
  let e := if b.count = 1 then 0 else o / b.stride.toNat
  let r := if b.count = 1 then o else o % b.stride.toNat
  if e < b.count.toNat && r < 4 * b.w4 then .some (e * b.w4 + r / 4) else .none

/-- A mapped word: the task and number of its entry, the entry, and its place in the range. -/
structure MapInfo where
  task : Nat
  n : Nat
  b : Bight
  i : Nat
  deriving DecidableEq, Repr

/-- Global address of a mapped word. -/
def MapInfo.va (m : MapInfo) : Nat := m.b.va m.i

/-- First word of the range of an entry in its core's store. -/
def Team.bightBase (t : Team) (b : Bight) : Nat := t.winBase b.space / 4 + b.loff.toNat

/-- The entry of a team that maps word w of the store (R105). -/
def Team.mapOf (t : Team) (vault : Bool) (w : Nat) : Option MapInfo :=
  t.bights.findSome? (fun (n, b) =>
    let lo := t.bightBase b
    if b.v && b.space = vault && lo ≤ w && w < lo + b.words then some ⟨t.task, n, b, w - lo⟩ else none)

/-- The entry that maps word w of a core's store; none for an unmapped word. -/
def Core.mapOf (c : Core) (vault : Bool) (w : Nat) : Option MapInfo :=
  c.teams.findSome? (fun t => t.mapOf vault w)

/-- The ASID of a task. -/
def State.taskAsid (s : State) (task : Nat) : BitVec 16 :=
  match s.task? task with
  | some t => t.asid
  | none => 0

/-- The translation of a mapped word. -/
def State.mapXlate (s : State) (core : Nat) (m : MapInfo) (w : Bool) : Xlate :=
  s.look core (s.taskAsid m.task) m.va w

/-- A lease entry of a core is current (R120). -/
def Core.leaseCurrent (c : Core) (line : Nat) : Bool :=
  match c.lease.find? (fun e => e.line = line) with
  | .some e => serialLE c.pts e.rts && decide ((e.rts - c.pts).toNat < 2 ^ 30)
  | .none => false

/-- The page is a LEASE page: COH = 2 with DEV bias (R111, R122). -/
def Attr.lease (a : Attr) : Bool := a.coh = 2 && !a.host

/-- Usable(u): VALID, and for a clean word of a LEASE page a current lease, whether or not its page still translates (R98, R105,
R120). An unmapped word is usable. -/
def State.usable (s : State) (core : Nat) (vault : Bool) (w : Nat) : Bool :=
  let c := s.core core
  match c.mapOf vault w with
  | none => true
  | some m =>
    let b := c.side vault w
    b.valid && (b.dirty || match b.lease with
      | .some line => c.leaseCurrent line
      | .none =>
        match s.mapXlate core m false with
        | .ok pa a => !a.lease || c.leaseCurrent (pa / 64)
        | _ => true)

/-- Words that n bytes at a byte offset touch. -/
def wordsOf (off n : Nat) : List Nat := if off % 4 + n ≤ 4 then [off / 4] else [off / 4, off / 4 + 1]

/-- The word is mapped. -/
def State.isMapped (s : State) (core : Nat) (vault : Bool) (w : Nat) : Bool := ((s.core core).mapOf vault w).isSome

/-- Every word of n bytes is usable. -/
def State.allUsable (s : State) (l : Loc) (n : Nat) : Bool := (wordsOf l.off n).all (fun w => s.usable l.core l.vault w)

/-- A store there would meet a read-only bight (R107). -/
def State.readOnly (s : State) (l : Loc) (n : Nat) : Bool :=
  (wordsOf l.off n).any (fun w =>
    match (s.core l.core).mapOf l.vault w with
    | some m => !m.b.wr
    | none => false)

/-- An uncorrectable 8-byte granule lies in the bytes (R97 POISON, R408). -/
def State.poisoned (s : State) (l : Loc) : Bool :=
  let c := s.core l.core
  (if l.vault then c.vaultPoison else c.spadPoison).contains (l.off / 8)

/-- The bytes at a location, without tests. -/
def State.rdLoc (s : State) (l : Loc) (n : Nat) : Nat := Memory.rdN ((s.core l.core).store l.vault) l.off n

/-- A write of n bytes at a byte offset clears the poison of each 8-byte granule that it covers whole (R408). -/
def Core.clearPoison (c : Core) (vault : Bool) (off n : Nat) : Core :=
  let keep (l : List Nat) : List Nat := l.filter (fun g => !(decide (off ≤ 8 * g) && decide (8 * g + 8 ≤ off + n)))
  if vault then { c with vaultPoison := keep c.vaultPoison } else { c with spadPoison := keep c.spadPoison }

/-- Write bytes at a location; a mapped word becomes VALID and DIRTY (R98, R105). -/
def State.wrLoc (s : State) (l : Loc) (n v : Nat) : State :=
  s.modCore l.core (fun c =>
    let c := (c.setStore l.vault (Memory.wrN (c.store l.vault) l.off v n)).clearPoison l.vault l.off n
    (wordsOf l.off n).foldl (fun c w => if (c.mapOf l.vault w).isSome then c.setSide l.vault w .stored else c) c)

/-- Write bytes at a location as an unmapped word: side bits stay (R98, R253). -/
def State.wrPlain (s : State) (l : Loc) (n v : Nat) : State :=
  s.modCore l.core (fun c => (c.setStore l.vault (Memory.wrN (c.store l.vault) l.off v n)).clearPoison l.vault l.off n)

/-! ## Fills (R106) -/

/-- The line that a global address lies in. -/
def lineVa (va : Nat) : Nat := va / 64 * 64

/-- A fill in flight of a line for an entry. -/
def State.fillOf (s : State) (core task n va : Nat) : Option GOp :=
  s.ops.find? (fun o => o.core = core && o.task = task && o.kind = .fill n && o.va = lineVa va)

/-- A global operation of a context. -/
def State.addOp (s : State) (x : CtxNo) (core task : Nat) (kind : GKind) (va : Nat) (after : List Nat) (acq : Bool)
    (scope : BitVec 2) (orig : Word) : Nat × State :=
  (s.nextOp, { s with
    nextOp := s.nextOp + 1
    ops := s.ops ++ [{ id := s.nextOp, x := x, core := core, task := task, asid := s.taskAsid task, kind := kind, va := va
                       after := after, acq := acq, scope := scope, orig := orig, fid := none, perm := false, eng := false }] })

/-- A write-back, which a flush or an unmap started (R108, R126). -/
def GKind.isWb : GKind → Bool
  | .wb .. => true
  | _ => false

/-- An SC operation. -/
def GKind.isSc : GKind → Bool
  | .sc .. => true
  | _ => false

/-- The global words an operation touches: (address, bytes). -/
def GOp.spans (o : GOp) : List (Nat × Nat) :=
  match o.kind with
  | .fill _ => [(o.va, 64)]
  | .wb _ _ ws _ => ws.map (fun w => (w.1, 4))
  | .amo _ n _ _ _ => [(o.va, n)]
  | .sc _ n _ _ _ => [(o.va, n)]
  | .knot .. => [(o.va, 8)]
  | .splice .. => [(o.va, 64)]
  | .vreg _ => [(o.va, 16)]
  | _ => []

/-- Operations that a context issued before access `id`, which touch some global bytes and have not performed (R128). -/
def State.sameBytes (s : State) (x : CtxNo) (id va n : Nat) : List Nat :=
  (s.ops.filter (fun o => o.x = x && !o.eng && decide (o.id < id) &&
    o.spans.any (fun p => decide (p.1 < va + n) && decide (va < p.1 + p.2)))).map (·.id)

/-- Every pending result of a context, in flight or held. -/
def Ctx.allFlights (c : Ctx) : List Flight := c.flight ++ c.held ++ c.heldU

/-- Update every pending result of a context. -/
def Ctx.mapFlights (c : Ctx) (f : Flight → Flight) : Ctx :=
  { c with flight := c.flight.map f, held := c.held.map f, heldU := c.heldU.map f }

/-- A memory access of a context that has not performed. The W of spl.call, which its response stores into the own window, is no access
that a drain or a push waits for: R130 and R290 do not say (DESIGN CHOICE, log 122). -/
def Flight.pending (f : Flight) : Bool :=
  match f.src with
  | .mem .. => f.value.isNone
  | .merge .. => f.value.isNone
  | _ => false

/-- An element lies in a range of words of a store, `n` bytes long. -/
def Elem.inRange (e : Elem) (n core : Nat) (vault : Bool) (lo k : Nat) : Bool :=
  e.core = core && e.vault = vault && (wordsOf e.off n).any (fun w => decide (lo ≤ w) && decide (w < lo + k))

/-- A pending element takes note of its words in a range: it acts on them as unmapped words from now on (R253). -/
def Elem.markRaw (core : Nat) (vault : Bool) (lo k n : Nat) (e : Elem) : Elem :=
  if e.val.isNone && e.inRange n core vault lo k then
    { e with raw := e.raw ++ (wordsOf e.off n).filter (fun w => decide (lo ≤ w) && decide (w < lo + k)) }
  else e

/-- A pending access to a range of words acts on them as unmapped words from now on (R253). -/
def Flight.markRaw (core : Nat) (vault : Bool) (lo k : Nat) (f : Flight) : Flight :=
  let el := Elem.markRaw core vault lo k
  match f.src with
  | .mem n x b es a => { f with src := .mem n x b (es.map (el n)) a }
  | .merge n e d a => { f with src := .merge n (el n e) d a }
  | _ => f

/-- A queued store to a range of words acts on them as unmapped words from now on (R253). -/
def PendStore.markRaw (core : Nat) (vault : Bool) (lo k : Nat) (p : PendStore) : PendStore :=
  { p with raw := p.raw ++ p.elems.flatMap (fun e =>
      if e.1 = core && e.2.1 = vault then
        ((wordsOf e.2.2.1 p.n).filter (fun w => decide (lo ≤ w) && decide (w < lo + k))).map (fun w => (vault, w))
      else []) }

/-- The context's pending accesses to a range of words act on them as unmapped words from now on (R253). -/
def Ctx.markRaw (c : Ctx) (core : Nat) (vault : Bool) (lo k : Nat) : Ctx :=
  { c with
    flight := c.flight.map (Flight.markRaw core vault lo k), held := c.held.map (Flight.markRaw core vault lo k)
    heldU := c.heldU.map (Flight.markRaw core vault lo k), stq := c.stq.map (PendStore.markRaw core vault lo k) }

/-- A pending access acts on words as unmapped that are mapped now. -/
def Flight.hasRaw (f : Flight) : Bool :=
  match f.src with
  | .mem _ _ _ es _ => es.any (fun e => !e.raw.isEmpty && e.val.isNone)
  | .merge _ e _ _ => !e.raw.isEmpty
  | _ => false

/-- The accesses of a context issued before access `id` that are pending and act on words as unmapped (R253). -/
def Ctx.rawIds (c : Ctx) (id : Nat) : List Nat :=
  ((c.allFlights.filter (fun f => f.pending && f.hasRaw)).map (·.id) ++ (c.stq.filter (fun p => !p.raw.isEmpty)).map (·.id)).filter
    (fun k => decide (k < id))

/-- Start the fill of a mapped word's line for access `id` of a context, or join the one in flight; the operation's number. It follows
what the context issued before that access, and nothing that it issued later (R106, R128, R253). -/
def State.startFill (s : State) (x : CtxNo) (id core : Nat) (m : MapInfo) (orig : Word) : Nat × State :=
  match s.fillOf core m.task m.n m.va with
  | some o => (o.id, s)
  | none => s.addOp x core m.task (.fill m.n) (lineVa m.va) (s.sameBytes x id (lineVa m.va) 64 ++ (s.ctx x).rawIds id) false 0 orig

/-- Start fills for some words of a store, those of n bytes at a location that are not usable; the number of one of them, none when every
word is usable. -/
def State.fillSome (s : State) (x : CtxNo) (id : Nat) (l : Loc) (ws : List Nat) (orig : Word) : Option Nat × State :=
  ws.foldl (fun (r : Option Nat × State) w =>
    if r.2.usable l.core l.vault w then r
    else
      match (r.2.core l.core).mapOf l.vault w with
      | none => r
      | some m =>
        let f := r.2.startFill x id l.core m orig
        (some f.1, f.2)) (none, s)

/-- Start fills for the unusable words of n bytes. -/
def State.fillWords (s : State) (x : CtxNo) (id : Nat) (l : Loc) (n : Nat) (orig : Word) : Option Nat × State :=
  s.fillSome x id l (wordsOf l.off n) orig

/-- A fill that an engine of a core starts or joins; it belongs to no context's order and follows nothing (R105, R131). -/
def State.engFill (s : State) (core : Nat) (l : Loc) (n : Nat) : Option Nat × State :=
  let r := s.fillWords (ctxOf (16 * core)) 0 l n 0
  (r.1, { r.2 with ops := r.2.ops.map (fun o => if s.nextOp ≤ o.id then { o with eng := true } else o) })

/-! ## Order of one context's accesses (R126, R128, R130) -/

/-- Locations of the elements that a pending result still waits for. -/
def Flight.locs (f : Flight) : List (Loc × Nat) :=
  match f.src with
  | .mem n _ _ es _ => (es.filter (fun e => e.val.isNone)).map (fun e => (⟨e.core, e.vault, e.off⟩, n))
  | .merge n e _ _ => [(⟨e.core, e.vault, e.off⟩, n)]
  | _ => []

/-- Locations of a store that waits. -/
def PendStore.locs (p : PendStore) : List (Loc × Nat) := p.elems.map (fun e => (⟨e.1, e.2.1, e.2.2.1⟩, p.n))

/-- The access or operation with this number has not performed. -/
def State.outstanding (s : State) (x : CtxNo) (id : Nat) : Bool :=
  s.ops.any (fun o => o.id = id) || (s.ctx x).stq.any (fun p => p.id = id) ||
    (s.ctx x).allFlights.any (fun f => f.pending && f.id = id)

/-- Nothing in a list of accesses is outstanding. -/
def State.clearOf (s : State) (x : CtxNo) (l : List Nat) : Bool := l.all (fun id => !s.outstanding x id)

/-- Two byte ranges share a word. -/
def shareWord (a b : Loc × Nat) : Bool :=
  a.1.core = b.1.core && a.1.vault = b.1.vault &&
    (wordsOf a.1.off a.2).any (fun w => (wordsOf b.1.off b.2).contains w)

/-- Unmapped words of the context's own scratchpad window, which no drain holds (R130). -/
def State.ownPlain (s : State) (x : CtxNo) (l : Loc × Nat) : Bool :=
  l.1.core = ctxCore x && !l.1.vault && (wordsOf l.1.off l.2).all (fun w => !s.isMapped l.1.core l.1.vault w) &&
    match s.teamOf x with
    | some t => decide (t.spadBase ≤ l.1.off) && decide (l.1.off < t.spadBase + t.spadSize)
    | none => false

/-- The open drains, acquires and SC operations of a context (R130, R132, R136). -/
def State.openFences (s : State) (x : CtxNo) : List Nat :=
  ((s.ctx x).fence ++ (s.ctx x).scFence).filter (s.outstanding x)

/-- What an access to some locations must wait for: the open drains and acquires, unless it touches only unmapped words of
the own window, the SC operations in any case, and earlier accesses of the context to the same words (R128, R130, R132,
R136). -/
def State.waitsFor (s : State) (x : CtxNo) (ls : List (Loc × Nat)) : List Nat :=
  let c := s.ctx x
  let fence := (if ls.all (s.ownPlain x) then [] else c.fence.filter (s.outstanding x)) ++ c.scFence.filter (s.outstanding x)
  let same := (c.allFlights.filter (fun f => f.pending && f.locs.any (fun a => ls.any (shareWord a)))).map (·.id) ++
    (c.stq.filter (fun p => p.locs.any (fun a => ls.any (shareWord a)))).map (·.id)
  fence ++ same

/-- Every access of a context that has not performed: what a push to an engine waits for (R138). -/
def State.allOutstanding (s : State) (x : CtxNo) : List Nat :=
  let c := s.ctx x
  (c.allFlights.filter Flight.pending).map (·.id) ++ c.stq.map (·.id) ++ (s.ops.filter (fun o => o.x = x && !o.eng)).map (·.id)

/-- An operation's global word lies on this module, as far as its translation tells (R126). -/
def State.opLocal (s : State) (o : GOp) : Bool :=
  match s.look o.core o.asid o.va false with
  | .ok pa _ => paTarget pa = 0
  | _ => true

/-- E of Drain(scope): the earlier accesses of the context that R126 lists for the scope (R130). -/
def State.drainSet (s : State) (x : CtxNo) (scope : BitVec 2) : List Nat :=
  let c := s.ctx x
  let covers (l : Loc × Nat) : Bool := !l.1.vault || scope ≠ 0
  let fl := (c.allFlights.filter (fun f => f.pending && f.locs.any covers)).map (·.id)
  let st := (c.stq.filter (fun p => p.locs.any covers)).map (·.id)
  let ops := s.ops.filter (fun o => o.x = x && !o.eng && (scope = 3 || (scope = 2 && (o.kind.isWb || s.opLocal o))))
  fl ++ st ++ ops.map (·.id)

/-- Drain(scope) (R130, R131): later accesses wait for the set. -/
def State.drain (s : State) (x : CtxNo) (scope : BitVec 2) : State :=
  let e := s.drainSet x scope
  s.modCtx x (fun c => { c with fence := (c.fence.filter (s.outstanding x)) ++ e })

/-! ## Pending loads and stores at the memory port -/

/-- Words of an element that it meets as mapped words (R253). -/
def Elem.mappedWords (e : Elem) (n : Nat) : List Nat := (wordsOf e.off n).filter (fun w => !e.raw.contains w)

/-- Take the value of an element of access `id` whose words are usable, a read that finds their errors; else start its fills
(R125, R408). -/
def State.pollElem (s : State) (x : CtxNo) (id n : Nat) (orig : Word) (e : Elem) : Elem × State :=
  match e.val with
  | some _ => (e, s)
  | none =>
    let l : Loc := ⟨e.core, e.vault, e.off⟩
    if (e.mappedWords n).all (s.usable l.core l.vault) then
      ({ e with val := some (BitVec.ofNat 64 (s.rdLoc l n)) }, s.findStore l.core l.vault l.off n)
    else (e, (s.fillSome x id l (e.mappedWords n) orig).2)

/-- Poll elements in order. -/
def State.pollElems (s : State) (x : CtxNo) (id n : Nat) (orig : Word) : List Elem → List Elem × State
  | [] => ([], s)
  | e :: r =>
    let a := s.pollElem x id n orig e
    let b := State.pollElems a.2 x id n orig r
    (a.1 :: b.1, b.2)

/-- A scalar value extended as the load says (R250). -/
def extendLoad (n : Nat) (sext : Bool) (v : Word) : Word :=
  if sext then BitVec.ofInt 64 (if bitOf (v.toNat % 2 ^ (8 * n)) (8 * n - 1) then (v.toNat % 2 ^ (8 * n) : Int) - 2 ^ (8 * n)
    else (v.toNat % 2 ^ (8 * n) : Int))
  else BitVec.ofNat 64 (v.toNat % 2 ^ (8 * n))

/-- The value of a load whose elements are all present (R250, R251). -/
def loadValue (dst : Dest) (n : Nat) (sext bcast : Bool) (es : List Elem) : VReg :=
  let at_ (i : Nat) : Word :=
    match es.find? (fun e => bcast || e.lane = i) with
    | some e => e.val.getD 0
    | none => 0
  match dst with
  | .v _ => vregOf (fun i => (at_ i).setWidth 32)
  | _ => ofWord (extendLoad n sext ((es.headD ⟨0, 0, false, 0, none, [], false⟩).val.getD 0))

/-- A location as its offset in the window of a task, for a fault address. -/
def State.windowOff (s : State) (task : Nat) (l : Loc) : Nat :=
  match (s.core l.core).team? task with
  | some t => l.off - t.winBase l.vault
  | none => l.off

/-- The address by which the program named an element: VAULT by position and offset, LOCAL in the own window or a braid window
(R96). -/
def State.progAddr (s : State) (x : CtxNo) (e : Elem) : Nat :=
  let o := s.windowOff (s.ctx x).task ⟨e.core, e.vault, e.off⟩
  if e.vault then ((s.task? (s.ctx x).task).map (fun t => e.core - t.base)).getD 0 * 2 ^ 24 + o
  else if e.braid || e.core ≠ ctxCore x then 0x400000 + e.core % 4 * 0x100000 + o
  else o

/-- The address of the first element that read poison. -/
def State.poisonAddr (s : State) (x : CtxNo) (es : List Elem) : Nat :=
  ((es.find? (fun e => s.poisoned ⟨e.core, e.vault, e.off⟩)).map (s.progAddr x)).getD 0

/-- Some element read an uncorrectable granule (R110). -/
def State.anyPoison (s : State) (es : List Elem) : Bool := es.any (fun e => s.poisoned ⟨e.core, e.vault, e.off⟩)

/-- One step of a pending result at the memory port: nothing while it must wait; else its elements are read or filled, and
when all are present the value is; poison lands as 0 with a deferred trap (R110). -/
def State.pollFlight (s : State) (x : CtxNo) (f : Flight) : Flight × State :=
  if f.value.isSome then (f, s)
  else
    match f.src with
    | .mem n sext bcast es after =>
      if 0 < f.hold || !s.clearOf x after then (f, s)
      else
        let (es', s') := s.pollElems x f.id n f.orig es
        if es'.all (fun e => e.val.isSome) then
          if s'.anyPoison es' then
            ({ f with value := some 0, src := .mem n sext bcast (es'.map (fun e => { e with val := none })) [] },
              s'.modCtx x (fun c => { c with deferred := c.deferred ++
                [⟨tMEM, mPOISON, BitVec.ofNat 64 (s'.poisonAddr x es'), f.orig⟩] }))
          else ({ f with value := some (loadValue f.dst n sext bcast es'), src := .mem n sext bcast es' [] }, s')
        else ({ f with src := .mem n sext bcast es' [] }, s')
    | .merge n e d after =>
      if !s.clearOf x after then (f, s)
      else
        let l : Loc := ⟨e.core, e.vault, e.off⟩
        if !e.raw.isEmpty then ({ f with value := some 0 }, s.wrPlain l n d.toNat)
        else if s.allUsable l n then ({ f with value := some 0 }, s.wrLoc l n d.toNat)
        else (f, (s.fillWords x f.id l n f.orig).2)
    | _ => (f, s)

/-- Poll the results of a list in order, giving the list and the state. -/
def State.pollList (s : State) (x : CtxNo) : List Flight → List Flight × State
  | [] => ([], s)
  | f :: r =>
    let a := s.pollFlight x f
    let b := State.pollList a.2 x r
    (a.1 :: b.1, b.2)

/-- Perform one element of a queued store; a word that a flush captured keeps its DIRTY bit, and one that was mapped since the
store issued keeps its side bits (R98, R108, R253). -/
def State.storeElem (s : State) (p : PendStore) (e : Nat × Bool × Nat × Word) : State :=
  let l : Loc := ⟨e.1, e.2.1, e.2.2.1⟩
  let was (w : Nat) : Side := (s.core l.core).side l.vault w
  (wordsOf l.off p.n).foldl (fun t w =>
    if p.raw.contains (l.vault, w) then t.modCore l.core (fun c => c.setSide l.vault w (was w))
    else if p.flushed.contains (l.vault, w) then
      t.modCore l.core (fun c =>
        if (c.mapOf l.vault w).isSome then c.setSide l.vault w { Side.stored with dirty := (was w).dirty } else c)
    else t) (s.wrLoc l p.n e.2.2.2.toNat)

/-- An element of a queued store still needs a fill: a sub-word store to a word that is mapped for it and not usable (R107). -/
def State.storeFill (s : State) (p : PendStore) (e : Nat × Bool × Nat × Word) : Bool :=
  decide (p.n < 4) && (wordsOf e.2.2.1 p.n).any (fun w => !p.raw.contains (e.2.1, w) && !s.usable e.1 e.2.1 w)

/-- Perform the stores of a queue whose earlier accesses have performed, in order (R128, R131). -/
def State.pollStores (s : State) (x : CtxNo) : List PendStore → List PendStore × State
  | [] => ([], s)
  | p :: r =>
    let fill := p.elems.find? (s.storeFill p)
    if 0 < p.hold || !s.clearOf x p.after then
      let b := State.pollStores s x r
      (p :: b.1, b.2)
    else if fill.isNone then
      let s1 := p.elems.foldl (fun s e => s.storeElem p e) s
      State.pollStores (s1.modCtx x (fun c => { c with stq := c.stq.filter (fun q => q.id ≠ p.id) })) x r
    else
      let s1 := match fill with
        | some e => (s.fillWords x p.id ⟨e.1, e.2.1, e.2.2.1⟩ p.n p.orig).2
        | none => s
      let b := State.pollStores s1 x r
      (p :: b.1, b.2)

/-- A queued store of n-byte elements. -/
def newStore (id n : Nat) (es : List (Loc × Word)) (after : List Nat) (hold : Nat) (orig : Word) : PendStore :=
  { id := id, n := n, elems := es.map (fun e => (e.1.core, e.1.vault, e.1.off, e.2)), after := after, orig := orig
    flushed := [], hold := hold }

/-- Queue a store of n-byte elements at the memory port of a context (R131). -/
def State.queueStore (s : State) (x : CtxNo) (n : Nat) (es : List (Loc × Word)) (after : List Nat) (hold : Nat) (orig : Word) :
    State :=
  State.modCtx { s with nextOp := s.nextOp + 1 } x (fun c => { c with stq := c.stq ++ [newStore s.nextOp n es after hold orig] })

/-- The byte that a queued store holds for a location, if any. -/
def PendStore.byteAt (p : PendStore) (core : Nat) (vault : Bool) (off : Nat) : Option Byte :=
  p.elems.findSome? (fun e =>
    if e.1 = core && e.2.1 = vault && decide (e.2.2.1 ≤ off) && decide (off < e.2.2.1 + p.n) then
      some (BitVec.ofNat 8 (bitsOf e.2.2.2.toNat (8 * (off - e.2.2.1)) 8))
    else none)

/-- A byte as a context sees it: its own queued stores come first, the latest wins (R100, R128). -/
def State.seenByte (s : State) (x : CtxNo) (core : Nat) (vault : Bool) (off : Nat) : Byte :=
  (s.ctx x).stq.foldl (fun b p => (p.byteAt core vault off).getD b) (Memory.rd ((s.core core).store vault) off)

/-- n bytes as a context sees them, little-endian (R100). -/
def State.seen (s : State) (x : CtxNo) (core : Nat) (vault : Bool) (off : Nat) : Nat → Nat
  | 0 => 0
  | n + 1 => (s.seenByte x core vault off).toNat + 256 * State.seen s x core vault (off + 1) n

/-- One visit of a context's memory port: loads, held loads, and stores that wait. -/
def State.pollCtx (s : State) (x : CtxNo) : State :=
  let c := s.ctx x
  if c.allFlights.all (fun f => !f.pending) && c.stq.isEmpty then s
  else
    let a := s.pollList x c.flight
    let s := a.2.modCtx x (fun k => { k with flight := a.1 })
    let b := s.pollList x c.held
    let s := b.2.modCtx x (fun k => { k with held := b.1 })
    let d := s.pollList x c.heldU
    let s := d.2.modCtx x (fun k => { k with heldU := d.1 })
    let e := s.pollStores x (s.ctx x).stq
    e.2

/-! ## The landing buffer (R60) -/

/-- Landing-buffer entries in use in the partition of a context (R60). -/
def State.bufUsed (s : State) (x : CtxNo) : Nat :=
  (List.range 4).foldl (fun n k =>
    n + ((s.ctx (ctxOf (4 * ctxPartNo x + k))).allFlights.filter (fun f => f.buf)).length) 0

/-- One free landing-buffer entry is needed (R60). -/
def bufPre (s : State) : Pre := if 64 ≤ s.bufUsed s.issue.x then .stall else .go

end Sys2Proof.Machine
end

