-- ==== Sys2Proof/Machine/Energy.lean ====
section
/-! DEFINITION. Allowance accounting (R147 to R157), the energy query and variant requests (R158, R163, R164, R286). -/

namespace Sys2Proof.Machine

/-! ## Accounting (R150, R153, R155, R157) -/

/-- Arithmetic on HOLD saturates (R150). -/
def satHold (h : Int) : Int := max (-2147483648) (min h 2147483647)

/-- Debit(island, au) (R150, R153). -/
def State.debit (s : State) (i : Nat) (au : Int) : State := s.modIsland i (fun k => { k with hold := satHold (k.hold - au) })

/-- Credit returned to an island, limited by MAX (R153). A HOLD that already stands above MAX keeps its value; the spec does not say
whether it comes down (DESIGN CHOICE, log 97). -/
def State.credit (s : State) (i : Nat) (au : Int) : State :=
  s.modIsland i (fun k => { k with hold := if k.max < k.hold + au then max k.hold k.max else satHold (k.hold + au) })

/-- The whole AU of one 64-byte DRAM transfer debited to an island, with the remainder carried (R155). -/
def State.transferCost (s : State) (i : Nat) : Nat × Nat :=
  let k := s.island i
  let c := (SMap.get 0 s.dcost (if i < 128 then k.op.toNat else 0)).toNat + k.rem
  (c / 256, c % 256)

/-- A completed 64-byte transfer between DRAM and the package debits its island and charges the task (R155, R157). -/
def State.memDebit (s : State) (i : Nat) (task : Option Nat) : State :=
  let c := s.transferCost i
  let s := s.modIsland i (fun k =>
    { k with hold := satHold (k.hold - c.1), joule := k.joule + BitVec.ofNat 64 c.1, rem := c.2 })
  match task with
  | some t => s.modTask t (fun k => { k with joule := k.joule + BitVec.ofNat 64 c.1, debits := k.debits + c.1 })
  | none => s

/-- MEMORY_DEBIT (R155). -/
def execMemoryDebit (i : IslandNo) (task : Option Nat) (s : State) : Out := .next (s.memDebit i.val task)

/-! ## The energy query (R158) -/

/-- A task's remaining credit on an island (R153). -/
def Task.creditOn (t : Task) (i : Nat) : Nat := ((t.credit.find? (fun p => p.1 = i)).map (·.2)).getD 0

/-- The value that a selector names (R158). -/
def nrgValue (s : State) (x : CtxNo) (sel : Nat) : Word :=
  let k := s.island (ctxCore x)
  let t := s.task? (s.ctx x).task
  match sel with
  | 0 => BitVec.ofInt 64 k.hold
  | 1 => BitVec.ofNat 64 k.max
  | 2 => BitVec.ofNat 64 k.grant
  | 3 => (t.map (·.joule)).getD 0
  | 4 => k.joule
  | 5 => s.gint
  | 6 => BitVec.ofNat 64 (k.op.toNat + k.ceil.toNat * 2 ^ 3 + k.floor.toNat * 2 ^ 6)
  | 7 => BitVec.ofNat 64 (b2n k.apend + k.aop.toNat * 2 + k.acause.toNat * 2 ^ 4 + k.aint.toNat % 2 ^ 56 * 2 ^ 8)
  | 8 => BitVec.ofNat 64 ((t.map (fun t => t.creditOn (ctxCore x))).getD 0)
  | 9 => SMap.get 0 s.ecls ((t.map (·.eclass.toNat)).getD 0)
  | 10 => SMap.get 0 s.tct ((t.map (·.tcon.toNat)).getD 0)
  | 11 => BitVec.ofNat 64 ((t.map (·.debits)).getD 0)
  | _ => 0

/-- nrg.q reads a snapshot in the issue cycle; its value takes a landing-buffer entry like every value of its chapter (R158,
R274, R286). -/
def execNrgQ (g : BitVec 4) (d : BitVec 6) (sel : BitVec 8) (s : State) : Out :=
  .next (s.gated g (bufPre s) (s.modCtx s.issue.x (fun c =>
    { c with flight := c.flight ++
      [{ flightOf (s.issue.cycle + 1) (dstS d) allLanes (ofWord (nrgValue s s.issue.x sel.toNat)) 0 c.pc with buf := true }] })))

/-! ## Variants (R163, R164) -/

/-- VTAB of the issuing task's rope. -/
def State.myVtab (s : State) : Nat :=
  match s.task? s.me.task with
  | some t => (s.ropeOf t.rope.val).vtab.toNat
  | none => 0

/-- A trap of class NRG at the X slot. -/
def nrgTrap (cause : BitVec 8) (v : Word) : Pre := .trap ⟨tNRG, cause, 4, v⟩

/-- The tests of nrg.vreg: INDEX, VTAB, ENTRY; R163 gives no order for a registration that meets several, and the model tests them in
this one (DESIGN CHOICE, log 113). -/
def vregPre (s : State) (a b : BitVec 6) : Pre :=
  let w := (s.me.rs b).toNat
  if bitsOf w 0 5 = 0 || bitsOf w 5 3 ≠ 0 || bitsOf w 16 48 ≠ 0 then nrgTrap 0x04 (BitVec.ofNat 64 (bitsOf w 0 5))
  else if s.myVtab = 0 then nrgTrap 0x01 (BitVec.ofNat 64 (bitsOf w 0 5))
  else if bitsOf (s.me.rs a).toNat 0 6 ≠ 0 then nrgTrap 0x02 (BitVec.ofNat 64 (bitsOf w 0 5))
  else .go

/-- The 16 bytes of a variant entry: VIMAGE, VCLASS, VTCON (R31, R163). -/
def variantEntry (image cls tcon : Nat) : BitVec 128 := BitVec.ofNat 128 (image + cls * 2 ^ 64 + tcon * 2 ^ 68)

/-- Entry j of a variant table in an ASID, by its value at the home: its image, class and contract; an entry that does not translate is
empty (R31, R141, R351). -/
def State.vtabEntry (s : State) (core : Nat) (asid : BitVec 16) (vtab j : Nat) : Nat × BitVec 4 × BitVec 4 :=
  match s.look core asid (vtab + 16 * j) false with
  | .ok pa _ =>
    let e := s.homeValue pa 16
    (bitsOf e 0 64, BitVec.ofNat 4 (bitsOf e 64 4), BitVec.ofNat 4 (bitsOf e 68 4))
  | _ => (0, 0, 0)

/-- The tests of nrg.vsw: INDEX, then EMPTY (R164, R286). With a VTAB of 0 there is no entry to be valid, and the model raises EMPTY,
where the spec gives cause VTAB to registration alone (DESIGN CHOICE, log 98). -/
def vswPre (s : State) (a : BitVec 6) : Pre :=
  let j := (s.me.rs a).toNat
  if j = 0 || 31 < j then nrgTrap 0x04 (s.me.rs a)
  else if s.myVtab = 0 || (s.vtabEntry (ctxCore s.issue.x) (s.taskAsid s.me.task) s.myVtab j).1 = 0 then
    nrgTrap 0x03 (s.me.rs a)
  else .go

end Sys2Proof.Machine
end

