-- ==== Sys2Proof/Machine/Trans.lean ====
section
/-! DEFINITION. The transcendentals of R92: each is enclosed between two rationals, and both bounds are rounded. Where the
two bounds round to one code, that is the correctly rounded result; else a free value picks between them (log 16). -/

namespace Sys2Proof.Machine

/-- Binary places of the fixed-point enclosures. -/
def tW : Nat := 192

/-- The integer part of ln 2 times 2^192. -/
def tLn2 : Nat := 4350955369971217654477563090224794165364344896676135745069

/-- Slack of an enclosure, in units of 2^-192: more than the truncations of the series can add up to. -/
def tSlack : Nat := 4096

/-- A value enclosed between lo x 2^e and hi x 2^e, both excluded, or an exact value. -/
inductive Enclosed where
  | exact (x : Exact) (nv : Bool)
  | between (neg : Bool) (lo hi : Nat) (e : Int)
  deriving DecidableEq, Repr

/-- Round an enclosed value in RNE (R92). -/
def Enclosed.round (v : Enclosed) (f : FpFmt) (ftz : Bool) : Rounded :=
  match v with
  | .exact x nv =>
    let r := roundFp x f 0 false ftz 0
    ⟨r.code, r.flags ||| flagIf nv fNV⟩
  | .between neg lo hi e =>
    let a := roundFp (.fin neg lo e true) f 0 false ftz 0
    let b := roundFp (.fin neg (hi - 1) e true) f 0 false ftz 0
    if a = b then a
    else if Config.transFloor lo hi e.toNat % 2 = 0 then a else b

/-- The Taylor sum of e^r for r in units of 2^-192, terms from t on. -/
def expSum (r : Nat) : Nat → Nat → Nat → Nat
  | 0, _, _ => 0
  | fuel + 1, i, t => t + expSum r fuel (i + 1) (t * r / 2 ^ tW / (i + 1))

/-- Bounds of e^r in units of 2^-192. -/
def expBounds (r : Nat) : Nat × Nat :=
  let t := expSum r 64 0 (2 ^ tW)
  (t - tSlack, t + tSlack)

/-- Bounds of e^x for the rational x = num / 2^k with |x| below 1,024: mantissas in units of 2^-192, and the power of two. -/
def expRational (num : Int) (k : Nat) : Nat × Nat × Int :=
  let x := num * (2 ^ tW : Nat) / (2 ^ k : Nat)
  let n := x / (tLn2 : Int)
  let b := expBounds (x - n * tLn2).toNat
  (b.1, b.2, n)

/-- Odd terms of atanh z, z in units of 2^-192. -/
def atanhSum (zz : Nat) : Nat → Nat → Nat → Nat
  | 0, _, _ => 0
  | fuel + 1, i, t => t / (2 * i + 1) + atanhSum zz fuel (i + 1) (t * zz / 2 ^ tW)

/-- Bounds of log2 y for y = m / 2^l in [1, 2), in units of 2^-192. -/
def log2Bounds (m l : Nat) : Nat × Nat :=
  let z := (m - 2 ^ l) * 2 ^ tW / (m + 2 ^ l)
  let s := atanhSum (z * z / 2 ^ tW) 66 0 z
  ((2 * s - tSlack) * 2 ^ tW / (tLn2 + 1), (2 * s + tSlack) * 2 ^ tW / tLn2 + 1)

/-- The whole part of a square root, from the highest candidate place down. -/
def sqrtFrom (n : Nat) : Nat → Nat → Nat
  | 0, a => a
  | i + 1, a => if (a + 2 ^ i) * (a + 2 ^ i) ≤ n then sqrtFrom n i (a + 2 ^ i) else sqrtFrom n i a

/-- A finite magnitude as numerator and power of two below: m x 2^e = num / 2^k. -/
def asRational (m : Nat) (e : Int) : Nat × Nat := if 0 ≤ e then (m * 2 ^ e.toNat, 0) else (m, (-e).toNat)

/-- The magnitude m x 2^e is at least 2^p. -/
def atLeastPow (m : Nat) (e p : Int) : Bool := decide (p ≤ e + (bitLen m : Int) - 1)

/-- log2 (R92). -/
def transLog2 (x : Exact) : Enclosed :=
  match x with
  | .nan _ => .exact (.nan false) false
  | .inf neg => if neg then .exact (.nan false) true else .exact (.inf false) false
  | .fin neg m e _ =>
    if m = 0 then .exact (.inf true) false
    else if neg then .exact (.nan false) true
    else
      let l := bitLen m - 1
      let k := e + (l : Int)
      if m = 2 ^ l then .exact (Exact.ofInt k) false
      else
        let b := log2Bounds m l
        let lo := k * (2 ^ tW : Nat) + (b.1 : Int)
        let hi := k * (2 ^ tW : Nat) + (b.2 : Int)
        if 0 ≤ lo then .between false lo.toNat hi.toNat (-(tW : Int))
        else .between true (-hi).toNat (-lo).toNat (-(tW : Int))

/-- exp2 (R92). -/
def transExp2 (x : Exact) : Enclosed :=
  match x with
  | .nan _ => .exact (.nan false) false
  | .inf neg => if neg then .exact (.fin false 0 0 false) false else .exact (.inf false) false
  | .fin neg m e _ =>
    if m = 0 then .exact (.fin false 1 0 false) false
    else if atLeastPow m e 10 then .exact (.fin false 1 (if neg then -2000 else 2000) false) false
    else if !atLeastPow m e (-100) then
      if neg then .between false (2 ^ tW - 1) (2 ^ tW) (-(tW : Int)) else .between false (2 ^ tW) (2 ^ tW + 1) (-(tW : Int))
    else
      let q := asRational m e
      let num : Int := if neg then -(q.1 : Int) else q.1
      let i := num / (2 ^ q.2 : Nat)
      let f := (num % (2 ^ q.2 : Nat)).toNat
      if f = 0 then .exact (.fin false 1 i false) false
      else
        let b := expBounds (f * tLn2 / 2 ^ q.2)
        .between false b.1 b.2 (i - tW)

/-- Reciprocal (R92). -/
def transRcp (x : Exact) : Enclosed :=
  match x with
  | .nan _ => .exact (.nan false) false
  | .inf neg => .exact (.fin neg 0 0 false) false
  | .fin neg m e _ =>
    if m = 0 then .exact (.inf neg) false
    else
      let k := 64 + 2 * bitLen m
      .exact (.fin neg (2 ^ k / m) (-e - (k : Int)) (2 ^ k % m ≠ 0)) false

/-- Reciprocal square root (R92). -/
def transRsqrt (x : Exact) : Enclosed :=
  match x with
  | .nan _ => .exact (.nan false) false
  | .inf neg => if neg then .exact (.nan false) true else .exact (.fin false 0 0 false) false
  | .fin neg m e _ =>
    if m = 0 then .exact (.inf neg) false
    else if neg then .exact (.nan false) true
    else
      let m' := if e % 2 = 0 then m else 2 * m
      let e' := if e % 2 = 0 then e else e - 1
      let k := 64 + bitLen m'
      let n := 2 ^ (2 * k) / m'
      let r := sqrtFrom n (k + 1) 0
      .exact (.fin false r (-(e' / 2) - (k : Int)) (r * r * m' ≠ 2 ^ (2 * k))) false

/-- Just below and just above one half and one, as enclosures. -/
def belowPow (p : Int) : Enclosed := .between false (2 ^ tW - 1) (2 ^ tW) (p - tW)
def abovePow (p : Int) : Enclosed := .between false (2 ^ tW) (2 ^ tW + 1) (p - tW)

/-- A magnitude in units of 2^-192 shifted by n places, rounded down and up. -/
def shiftDown (a : Nat) (n : Int) : Nat := if 0 ≤ n then a * 2 ^ n.toNat else a / 2 ^ (-n).toNat
def shiftUp (a : Nat) (n : Int) : Nat := shiftDown a n + 1

/-- Sigmoid (R92). -/
def transSig (x : Exact) : Enclosed :=
  match x with
  | .nan _ => .exact (.nan false) false
  | .inf neg => if neg then .exact (.fin false 0 0 false) false else .exact (.fin false 1 0 false) false
  | .fin neg m e _ =>
    if m = 0 then .exact (.fin false 1 (-1) false) false
    else if !atLeastPow m e (-60) then if neg then belowPow (-1) else abovePow (-1)
    else if atLeastPow m e 8 then if neg then .between false 1 2 (-360) else belowPow 0
    else
      let q := asRational m e
      let (lo, hi, n) := expRational (-(q.1 : Int)) q.2
      let dLo := 2 ^ tW + shiftDown lo n
      let dHi := 2 ^ tW + shiftUp hi n
      if neg then .between false (lo * 2 ^ tW / dHi) (hi * 2 ^ tW / dLo + 1) (n - tW)
      else .between false (2 ^ (2 * tW) / dHi) (2 ^ (2 * tW) / dLo + 1) (-(tW : Int))

/-- Hyperbolic tangent (R92). -/
def transTanh (x : Exact) : Enclosed :=
  match x with
  | .nan _ => .exact (.nan false) false
  | .inf neg => .exact (.fin neg 1 0 false) false
  | .fin neg m e _ =>
    if m = 0 then .exact (.fin neg 0 0 false) false
    else if !atLeastPow m e (-40) then .between neg (m * 2 ^ 40 - 1) (m * 2 ^ 40) (e - 40)
    else if atLeastPow m e 7 then .between neg (2 ^ tW - 1) (2 ^ tW) (-(tW : Int))
    else
      let q := asRational m e
      let (lo, hi, n) := expRational (-(2 * q.1 : Int)) q.2
      let eLo := shiftDown lo n
      let eHi := shiftUp hi n
      .between neg ((2 ^ tW - eHi) * 2 ^ tW / (2 ^ tW + eHi)) ((2 ^ tW - eLo) * 2 ^ tW / (2 ^ tW + eLo) + 1) (-(tW : Int))

end Sys2Proof.Machine
end

