-- ==== Sys2Proof/Machine/VectorInt.lean ====
section
/-! DEFINITION. Integer, logic, shift, compare, select, shuffle and lane-move operations of the V slots, and the hash
(R201 to R208, R214 to R217, R220). -/

namespace Sys2Proof.Machine

/-- Width and sign of an integer type T (R206). -/
def intW (t : BitVec 3) : Nat := 8 * 2 ^ (t.toNat % 4)
def intSigned (t : BitVec 3) : Bool := t.toNat < 4

/-- A code of w bits as an integer. -/
def intOf (signed : Bool) (w c : Nat) : Int := if signed && bitOf c (w - 1) then (c : Int) - 2 ^ w else c

/-- Elementwise integer operation of type T, with the flags of the written elements (R202, R206). -/
def State.opVI (s : State) (g : BitVec 4) (d a b : BitVec 6) (t : BitVec 3) (f : Int → Int → Rounded) (lat : Nat) : State :=
  let w := intW t
  let n := 1024 / w
  let va := s.v a
  let vb := s.v b
  let r := fun e => f (intOf (intSigned t) w (elemOf va w e)) (intOf (intSigned t) w (elemOf vb w e))
  s.opV g d (vregElems w n (fun e => (r e).code)) (flagsOf (s.me.guard g) w (fun e => (r e).flags) n) lat

/-- A wrapped result without flags (R206). -/
def wrapTo (t : BitVec 3) (i : Int) : Rounded := ⟨intCode i (intW t), 0⟩

/-- A clamped result (R206). -/
def clampTo (t : BitVec 3) (i : Int) : Rounded := roundInt (Exact.ofInt i) (intSigned t) (intW t) 0 0

/-- Lane by lane (R207, R208, R215 to R217). -/
def State.opLanes (s : State) (g : BitVec 4) (d : BitVec 6) (f : Nat → Lane32) (lat : Nat) : State :=
  s.opV g d (vregOf f) 0 lat

/-- Shifts of a 32-bit lane by count[4:0] (R208). -/
def laneSll (a : Lane32) (n : Nat) : Lane32 := a <<< low5 n
def laneSrl (a : Lane32) (n : Nat) : Lane32 := a >>> low5 n
def laneSra (a : Lane32) (n : Nat) : Lane32 := a.sshiftRight (low5 n)

/-- Bits [4:0] of a scalar register. -/
def State.cnt5 (s : State) (r : BitVec 6) : Nat := low5 (s.me.rs r).toNat

/-- Bits [31:0] of a scalar register. -/
def State.rs32 (s : State) (r : BitVec 6) : Lane32 := (s.me.rs r).setWidth 32

/-- Wrapping sum (R206). -/
def execVadd (g : BitVec 4) (d a b : BitVec 6) (t : BitVec 3) (s : State) : Out :=
  .next (s.opVI g d a b t (fun x y => wrapTo t (x + y)) 2)

/-- Wrapping difference (R206). -/
def execVsub (g : BitVec 4) (d a b : BitVec 6) (t : BitVec 3) (s : State) : Out :=
  .next (s.opVI g d a b t (fun x y => wrapTo t (x - y)) 2)

/-- Wrapping product (R206). -/
def execVmul (g : BitVec 4) (d a b : BitVec 6) (t : BitVec 3) (s : State) : Out :=
  .next (s.opVI g d a b t (fun x y => wrapTo t (x * y)) 4)

/-- Saturating sum (R206). -/
def execVadds (g : BitVec 4) (d a b : BitVec 6) (t : BitVec 3) (s : State) : Out :=
  .next (s.opVI g d a b t (fun x y => clampTo t (x + y)) 2)

/-- Saturating difference (R206). -/
def execVsubs (g : BitVec 4) (d a b : BitVec 6) (t : BitVec 3) (s : State) : Out :=
  .next (s.opVI g d a b t (fun x y => clampTo t (x - y)) 2)

/-- Lower element (R206). -/
def execVmin (g : BitVec 4) (d a b : BitVec 6) (t : BitVec 3) (s : State) : Out :=
  .next (s.opVI g d a b t (fun x y => wrapTo t (if x ≤ y then x else y)) 2)

/-- Higher element (R206). -/
def execVmax (g : BitVec 4) (d a b : BitVec 6) (t : BitVec 3) (s : State) : Out :=
  .next (s.opVI g d a b t (fun x y => wrapTo t (if y ≤ x then x else y)) 2)

/-- a and b (R207). -/
def execVand (g : BitVec 4) (d a b : BitVec 6) (s : State) : Out :=
  .next (s.opV g d (s.v a &&& s.v b) 0 2)

/-- a or b (R207). -/
def execVor (g : BitVec 4) (d a b : BitVec 6) (s : State) : Out :=
  .next (s.opV g d (s.v a ||| s.v b) 0 2)

/-- a xor b (R207). -/
def execVxor (g : BitVec 4) (d a b : BitVec 6) (s : State) : Out :=
  .next (s.opV g d (s.v a ^^^ s.v b) 0 2)

/-- a and not b (R207). -/
def execVandn (g : BitVec 4) (d a b : BitVec 6) (s : State) : Out :=
  .next (s.opV g d (s.v a &&& ~~~(s.v b)) 0 2)

/-- not a (R207). -/
def execVnot (g : BitVec 4) (d a : BitVec 6) (s : State) : Out :=
  .next (s.opV g d (~~~(s.v a)) 0 2)

/-- Lane shift by the count in lane i of b (R208). -/
def execVsll (g : BitVec 4) (d a b : BitVec 6) (s : State) : Out :=
  .next (s.opLanes g d (fun i => laneSll (laneOf (s.v a) i) (laneOf (s.v b) i).toNat) 2)

/-- Lane shift by the count in lane i of b (R208). -/
def execVsrl (g : BitVec 4) (d a b : BitVec 6) (s : State) : Out :=
  .next (s.opLanes g d (fun i => laneSrl (laneOf (s.v a) i) (laneOf (s.v b) i).toNat) 2)

/-- Lane shift by the count in lane i of b (R208). -/
def execVsra (g : BitVec 4) (d a b : BitVec 6) (s : State) : Out :=
  .next (s.opLanes g d (fun i => laneSra (laneOf (s.v a) i) (laneOf (s.v b) i).toNat) 2)

/-- Lane shift by the count in a scalar register (R208). -/
def execVslls (g : BitVec 4) (d a c : BitVec 6) (s : State) : Out :=
  .next (s.opLanes g d (fun i => laneSll (laneOf (s.v a) i) (s.cnt5 c)) 2)

/-- Lane shift by the count in a scalar register (R208). -/
def execVsrls (g : BitVec 4) (d a c : BitVec 6) (s : State) : Out :=
  .next (s.opLanes g d (fun i => laneSrl (laneOf (s.v a) i) (s.cnt5 c)) 2)

/-- Lane shift by the count in a scalar register (R208). -/
def execVsras (g : BitVec 4) (d a c : BitVec 6) (s : State) : Out :=
  .next (s.opLanes g d (fun i => laneSra (laneOf (s.v a) i) (s.cnt5 c)) 2)

/-- Lane predicate: equal (R214). -/
def execVcmpEq (g : BitVec 4) (p : BitVec 7) (a b : BitVec 6) (s : State) : Out :=
  .next (s.opVP g p (fun i => decide ((laneOf (s.v a) i) = (laneOf (s.v b) i))))

/-- Lane predicate: different (R214). -/
def execVcmpNe (g : BitVec 4) (p : BitVec 7) (a b : BitVec 6) (s : State) : Out :=
  .next (s.opVP g p (fun i => decide ((laneOf (s.v a) i) ≠ (laneOf (s.v b) i))))

/-- Lane predicate: signed below (R214). -/
def execVcmpLt (g : BitVec 4) (p : BitVec 7) (a b : BitVec 6) (s : State) : Out :=
  .next (s.opVP g p (fun i => (laneOf (s.v a) i).slt (laneOf (s.v b) i)))

/-- Lane predicate: signed at most (R214). -/
def execVcmpLe (g : BitVec 4) (p : BitVec 7) (a b : BitVec 6) (s : State) : Out :=
  .next (s.opVP g p (fun i => (laneOf (s.v a) i).sle (laneOf (s.v b) i)))

/-- Lane predicate: unsigned below (R214). -/
def execVcmpuLtu (g : BitVec 4) (p : BitVec 7) (a b : BitVec 6) (s : State) : Out :=
  .next (s.opVP g p (fun i => (laneOf (s.v a) i).ult (laneOf (s.v b) i)))

/-- Lane predicate: unsigned at most (R214). -/
def execVcmpuLeu (g : BitVec 4) (p : BitVec 7) (a b : BitVec 6) (s : State) : Out :=
  .next (s.opVP g p (fun i => (laneOf (s.v a) i).ule (laneOf (s.v b) i)))

/-- Lane predicate: common bits set (R214). -/
def execVcmpuTst (g : BitVec 4) (p : BitVec 7) (a b : BitVec 6) (s : State) : Out :=
  .next (s.opVP g p (fun i => decide (((laneOf (s.v a) i) &&& (laneOf (s.v b) i)) ≠ 0)))

/-- Lane predicate: no common bit set (R214). -/
def execVcmpuNtst (g : BitVec 4) (p : BitVec 7) (a b : BitVec 6) (s : State) : Out :=
  .next (s.opVP g p (fun i => decide (((laneOf (s.v a) i) &&& (laneOf (s.v b) i)) = 0)))

/-- Lane of a where the short predicate is set, else of b (R215). -/
def execVsel (g : BitVec 4) (d a b : BitVec 6) (p : BitVec 3) (s : State) : Out :=
  .next (s.opLanes g d (fun i => if (s.me.rp (p.setWidth 7)).getLsbD i then laneOf (s.v a) i else laneOf (s.v b) i) 2)

/-- Lane b[4:0] of a (R216). -/
def execVperm (g : BitVec 4) (d a b : BitVec 6) (s : State) : Out :=
  .next (s.opLanes g d (fun i => laneOf (s.v a) (low5 (laneOf (s.v b) i).toNat)) 2)

/-- Rotation by n lanes: lane (i - n) mod 32 of a (R216). -/
def execVrotl (g : BitVec 4) (d a c : BitVec 6) (s : State) : Out :=
  .next (s.opLanes g d (fun i => laneOf (s.v a) ((i + 32 - s.cnt5 c) % 32)) 2)

/-- Lane n of a in every lane (R216). -/
def execVbcl (g : BitVec 4) (d a c : BitVec 6) (s : State) : Out :=
  .next (s.opLanes g d (fun _ => laneOf (s.v a) (s.cnt5 c)) 2)

/-- Interleaved low lanes (R216). -/
def execVzipl (g : BitVec 4) (d a b : BitVec 6) (s : State) : Out :=
  .next (s.opLanes g d (fun i => if i % 2 = 0 then laneOf (s.v a) (i / 2) else laneOf (s.v b) (i / 2)) 2)

/-- Interleaved high lanes (R216). -/
def execVziph (g : BitVec 4) (d a b : BitVec 6) (s : State) : Out :=
  .next (s.opLanes g d (fun i => if i % 2 = 0 then laneOf (s.v a) (i / 2 + 16) else laneOf (s.v b) (i / 2 + 16)) 2)

/-- Even lanes of a, then of b (R216). -/
def execVuzpl (g : BitVec 4) (d a b : BitVec 6) (s : State) : Out :=
  .next (s.opLanes g d (fun i => if i < 16 then laneOf (s.v a) (2 * i) else laneOf (s.v b) (2 * (i - 16))) 2)

/-- Odd lanes of a, then of b (R216). -/
def execVuzph (g : BitVec 4) (d a b : BitVec 6) (s : State) : Out :=
  .next (s.opLanes g d (fun i => if i < 16 then laneOf (s.v a) (2 * i + 1) else laneOf (s.v b) (2 * (i - 16) + 1)) 2)

/-- A scalar in every enabled lane (R217). -/
def execVbc (g : BitVec 4) (d a : BitVec 6) (s : State) : Out :=
  .next (s.opLanes g d (fun _ => s.rs32 a) 2)

/-- A lane into a scalar register, under the guard of lane 0 (R217). -/
def execVget (g : BitVec 4) (d a b : BitVec 6) (s : State) : Out :=
  .next (s.opS g d ((laneOf (s.v a) (s.cnt5 b)).setWidth 64) 2)

/-- A scalar into lane j, when the guard of lane j holds (R217). -/
def execVput (g : BitVec 4) (d a b : BitVec 6) (s : State) : Out :=
  .next (s.landV d (s.me.guard g &&& maskOf (fun i => decide (i = s.cnt5 b))) (vregOf (fun _ => s.rs32 a)) 0 2)

/-- s[A] + i in lane i (R217). -/
def execViota (g : BitVec 4) (d a : BitVec 6) (s : State) : Out :=
  .next (s.opLanes g d (fun i => s.rs32 a + BitVec.ofNat 32 i) 2)

/-- The lane hash of two scalars and the lane number (R220). -/
def execVhash (g : BitVec 4) (d a b : BitVec 6) (s : State) : Out :=
  .next (s.opLanes g d (fun i => vhash (s.rs32 a) (s.rs32 b) (BitVec.ofNat 32 i)) 4)

end Sys2Proof.Machine
end

