-- ==== Sys2Proof/Machine/VectorFp.lean ====
section
/-! DEFINITION. Floating-point arithmetic, conversions, compares, reductions and transcendentals of the V slots (R203, R204,
R209 to R214, R218, R219). -/

namespace Sys2Proof.Machine

/-- The floating format of T: .f32, .f16, .bf16 (R172). -/
def fpOf (t : Nat) : FpFmt := if t = 0 then fp32 else if t = 1 then fp16 else bf16

/-- Element e of a register in a floating format, after the source flush (R203). -/
def State.fpElem (s : State) (f : FpFmt) (v : VReg) (e : Nat) : Exact := f.flushIn s.me.ftz (f.value (elemOf v f.width e))

/-- The random bits of element e of width w (R204). -/
def State.elemBits (s : State) (w e : Nat) : Nat :=
  let lane := w * e / 32
  s.stochBits lane (e - (32 * lane + w - 1) / w)

/-- Narrow an element result in RMODE, with NV of an invalid operation (R203). -/
def State.fpRound (s : State) (f : FpFmt) (e : Nat) (x : Exact × Bool) : Rounded :=
  let r := roundFp x.1 f s.me.rmode false s.me.ftz (s.elemBits f.width e)
  ⟨r.code, r.flags ||| flagIf x.2 fNV⟩

/-- Elementwise results of width w over n elements, with the flags of the written elements (R202, R203). -/
def State.opElems (s : State) (g : BitVec 4) (d : BitVec 6) (w n : Nat) (r : Nat → Rounded) (lat : Nat) : State :=
  s.opV g d (vregElems w n (fun e => (r e).code)) (flagsOf (s.me.guard g) w (fun e => (r e).flags) n) lat

/-- Elementwise floating operation of two sources. -/
def State.opF2 (s : State) (g : BitVec 4) (d a b : BitVec 6) (t : BitVec 3) (f : Exact → Exact → Exact × Bool) : State :=
  let k := fpOf t.toNat
  s.opElems g d k.width (1024 / k.width) (fun e => s.fpRound k e (f (s.fpElem k (s.v a) e) (s.fpElem k (s.v b) e))) 4

/-- RoundTo(x + y) (R209). -/
def execVfadd (g : BitVec 4) (d a b : BitVec 6) (t : BitVec 3) (s : State) : Out :=
  .next (s.opF2 g d a b t (fun x y => exactAdd s.me.rmode x y))

/-- RoundTo(x - y) (R209). -/
def execVfsub (g : BitVec 4) (d a b : BitVec 6) (t : BitVec 3) (s : State) : Out :=
  .next (s.opF2 g d a b t (fun x y => exactAdd s.me.rmode x y.negate))

/-- RoundTo(x y) (R209). -/
def execVfmul (g : BitVec 4) (d a b : BitVec 6) (t : BitVec 3) (s : State) : Out :=
  .next (s.opF2 g d a b t (fun x y => exactMul x y))

/-- The exact x y + z with its invalid cases (R210). -/
def exactFma (mode : RMode) (x y z : Exact) : Exact × Bool :=
  let p := exactMul x y
  if p.2 then p else exactAdd mode p.1 z

/-- vfma and vfms, whose addend is the destination (R210). -/
def State.opFma (s : State) (g : BitVec 4) (d a b : BitVec 6) (t : BitVec 3) (sub : Bool) : State :=
  let k := fpOf t.toNat
  s.opElems g d k.width (1024 / k.width) (fun e =>
    let z := s.fpElem k (s.v d) e
    s.fpRound k e (exactFma s.me.rmode (s.fpElem k (s.v a) e) (s.fpElem k (s.v b) e) (if sub then z.negate else z))) 4

/-- x y + d with one rounding (R210). -/
def execVfma (g : BitVec 4) (d a b : BitVec 6) (t : BitVec 3) (s : State) : Out := .next (s.opFma g d a b t false)

/-- x y - d with one rounding (R210). -/
def execVfms (g : BitVec 4) (d a b : BitVec 6) (t : BitVec 3) (s : State) : Out := .next (s.opFma g d a b t true)

/-- x ranks below y in the order of R91: NaN lowest, both zeros equal. -/
def rankLt (x y : Exact) : Bool := (x.isNan && !y.isNan) || exactLt x y

/-- The code of a value that is already in the format; a NaN as the canonical NaN (R79). -/
def FpFmt.codeOf (f : FpFmt) (x : Exact) : Nat :=
  match x with
  | .nan _ => f.nanCode false
  | x => (roundFp x f 0 false false 0).code

/-- vfmin and vfmax (R211). -/
def State.opFsel (s : State) (g : BitVec 4) (d a b : BitVec 6) (t : BitVec 3) (useB : Exact → Exact → Bool) : State :=
  let k := fpOf t.toNat
  s.opElems g d k.width (1024 / k.width) (fun e =>
    let x := s.fpElem k (s.v a) e
    let y := s.fpElem k (s.v b) e
    ⟨k.codeOf (if useB x y then y else x), 0⟩) 2

/-- The lower-ranked operand (R211). -/
def execVfmin (g : BitVec 4) (d a b : BitVec 6) (t : BitVec 3) (s : State) : Out :=
  .next (s.opFsel g d a b t (fun x y => rankLt y x))

/-- The higher-ranked operand (R211). -/
def execVfmax (g : BitVec 4) (d a b : BitVec 6) (t : BitVec 3) (s : State) : Out :=
  .next (s.opFsel g d a b t (fun x y => rankLt x y))

/-! ## Conversions (R212, R213) -/

/-- The format of a code as VCVT reads it: mx codes are plain signed integers. -/
def cvtFmt (c : Nat) : NumFmt :=
  match c with
  | 0x00 => .int true 8
  | 0x01 => .int true 16
  | 0x02 => .int true 32
  | 0x03 => .int true 64
  | 0x04 => .int false 8
  | 0x05 => .int false 16
  | 0x06 => .int false 32
  | 0x07 => .int false 64
  | 0x08 => .fp fp32
  | 0x09 => .fp fp16
  | 0x0A => .fp bf16
  | 0x0B => .fp fpE4m3
  | 0x0C => .fp fpE5m2
  | 0x0D => .fp fpE2m1
  | 0x10 => .int true 4
  | 0x11 => .int true 6
  | 0x12 => .int true 8
  | _ => .int true 16

/-- Width of a format. -/
def NumFmt.width : NumFmt → Nat
  | .fp f => f.width
  | .int _ w => w

/-- The exact value of a code. -/
def NumFmt.value (k : NumFmt) (c : Nat) : Exact :=
  match k with
  | .fp f => f.value c
  | .int signed w => Exact.ofInt (intOf signed w c)

/-- The source flush of R203. -/
def NumFmt.flushIn (k : NumFmt) (ftz : Bool) (x : Exact) : Exact :=
  match k with
  | .fp f => f.flushIn ftz x
  | .int .. => x

/-- A width of 6 counts as 8 (R213). -/
def w8 (w : Nat) : Nat := if w = 6 then 8 else w

/-- VCVT from logical register a of format sf into df (R213). -/
def State.opCvt (s : State) (g : BitVec 4) (d a : BitVec 6) (df sf : BitVec 5) (sat : Bool) : State :=
  let kd := cvtFmt df.toNat
  let ks := cvtFmt sf.toNat
  let n := 1024 / Nat.max (w8 ks.width) (w8 kd.width)
  s.opElems g d kd.width n (fun e =>
    roundTo (ks.flushIn s.me.ftz (ks.value (elemOf (s.v a) ks.width e))) kd s.me.cmode sat s.me.ftz
      (s.elemBits kd.width e)) 4

/-- vcvt with a source below v32 (R212). -/
def execVcvtV0V31 (g : BitVec 4) (d : BitVec 6) (a df sf : BitVec 5) (s : State) : Out :=
  .next (s.opCvt g d (a.setWidth 6) df sf false)

/-- vcvt with a source from v32 on (R212). -/
def execVcvtV32V63 (g : BitVec 4) (d : BitVec 6) (a df sf : BitVec 5) (s : State) : Out :=
  .next (s.opCvt g d (a.setWidth 6 ||| 32) df sf false)

/-- vcvt.sat with a source below v32 (R212). -/
def execVcvtSatV0V31 (g : BitVec 4) (d : BitVec 6) (a df sf : BitVec 5) (s : State) : Out :=
  .next (s.opCvt g d (a.setWidth 6) df sf true)

/-- vcvt.sat with a source from v32 on (R212). -/
def execVcvtSatV32V63 (g : BitVec 4) (d : BitVec 6) (a df sf : BitVec 5) (s : State) : Out :=
  .next (s.opCvt g d (a.setWidth 6 ||| 32) df sf true)

/-! ## Compares (R214) -/

/-- FP32 lane i of a register after the source flush. -/
def State.f32Lane (s : State) (v : VReg) (i : Nat) : Exact := s.fpElem fp32 v i

/-- Lane predicate: equal; a NaN makes it false (R214). -/
def execVfcmpEq (g : BitVec 4) (p : BitVec 7) (a b : BitVec 6) (s : State) : Out :=
  .next (s.opVP g p (fun i => exactEq (s.f32Lane (s.v a) i) (s.f32Lane (s.v b) i)))

/-- Lane predicate: different; a NaN makes it true (R214). -/
def execVfcmpNe (g : BitVec 4) (p : BitVec 7) (a b : BitVec 6) (s : State) : Out :=
  .next (s.opVP g p (fun i => !exactEq (s.f32Lane (s.v a) i) (s.f32Lane (s.v b) i)))

/-- Lane predicate: below; a NaN makes it false (R214). -/
def execVfcmpLt (g : BitVec 4) (p : BitVec 7) (a b : BitVec 6) (s : State) : Out :=
  .next (s.opVP g p (fun i => exactLt (s.f32Lane (s.v a) i) (s.f32Lane (s.v b) i)))

/-- Lane predicate: at most; a NaN makes it false (R214). -/
def execVfcmpLe (g : BitVec 4) (p : BitVec 7) (a b : BitVec 6) (s : State) : Out :=
  .next (s.opVP g p (fun i =>
    exactLt (s.f32Lane (s.v a) i) (s.f32Lane (s.v b) i) || exactEq (s.f32Lane (s.v a) i) (s.f32Lane (s.v b) i)))

/-! ## Reductions (R90, R91, R218) -/

/-- One level of the pairwise tree (R90). -/
def pairUp {α : Type} (op : α → α → α) : List α → List α
  | x :: y :: r => op x y :: pairUp op r
  | l => l

/-- The five levels of the tree of R90. -/
def reduceTree {α : Type} (op : α → α → α) : Nat → List α → List α
  | 0, l => l
  | n + 1, l => reduceTree op n (pairUp op l)

/-- The reduction of 32 lanes, d when there is nothing to reduce. -/
def reduce32 {α : Type} (op : α → α → α) (d : α) (f : Nat → α) : α :=
  (reduceTree op 5 ((List.range 32).map f)).headD d

/-- Write lane 0 of the destination, whatever the guard holds (R218). -/
def State.redOut (s : State) (d : BitVec 6) (w : Lane32) (flags : BitVec 5) (lat : Nat) : State :=
  s.landV d 1 (vregOf (fun _ => w)) flags lat

/-- Lane i under its guard: none when it is excluded. -/
def State.redLane (s : State) (g : BitVec 4) (a : BitVec 6) (i : Nat) : Option Lane32 :=
  if (s.me.guard g).getLsbD i then some (laneOf (s.v a) i) else none

/-- A step over lanes that may be absent: an absent lane never wins (R90). -/
def optStep {α : Type} (op : α → α → α) : Option α → Option α → Option α
  | some x, some y => some (op x y)
  | some x, .none => some x
  | .none, y => y

/-- One step of fsum: FP32 addition in RMODE with stochastic taken as RNE (R218). -/
def fsumStep (mode : RMode) (ftz : Bool) (x y : Rounded) : Rounded :=
  let m := if mode = 4 then 0 else mode
  let z := exactAdd m (fp32.flushIn ftz (fp32.value x.code)) (fp32.flushIn ftz (fp32.value y.code))
  let r := roundFp z.1 fp32 m false ftz 0
  ⟨r.code, r.flags ||| flagIf z.2 fNV ||| x.flags ||| y.flags⟩

/-- Floating sum; an excluded lane enters as -0.0 (R90, R218). -/
def execVredFsum (g : BitVec 4) (d a : BitVec 6) (s : State) : Out :=
  let r := reduce32 (fsumStep s.me.rmode s.me.ftz) ⟨0x80000000, 0⟩
    (fun i => ⟨((s.redLane g a i).getD 0x80000000).toNat, 0⟩)
  .next (s.redOut d (BitVec.ofNat 32 r.code) r.flags 10)

/-- Integer sum; an excluded lane enters as 0 (R90, R218). -/
def execVredIsum (g : BitVec 4) (d a : BitVec 6) (s : State) : Out :=
  .next (s.redOut d (reduce32 (fun x y => x + y) 0 (fun i => (s.redLane g a i).getD 0)) 0 6)

/-- vfmax or vfmin of two codes (R211). -/
def fselCode (ftz max : Bool) (x y : Lane32) : Lane32 :=
  let u := fp32.flushIn ftz (fp32.value x.toNat)
  let v := fp32.flushIn ftz (fp32.value y.toNat)
  BitVec.ofNat 32 (fp32.codeOf (if (if max then rankLt u v else rankLt v u) then v else u))

/-- One lane as the floating reductions read it: flushed, a NaN canonical (R203, R211). -/
def State.redF (s : State) (g : BitVec 4) (a : BitVec 6) (i : Nat) : Option Lane32 :=
  (s.redLane g a i).map (fun x => BitVec.ofNat 32 (fp32.codeOf (fp32.flushIn s.me.ftz (fp32.value x.toNat))))

/-- Floating maximum (R218). -/
def execVredFmax (g : BitVec 4) (d a : BitVec 6) (s : State) : Out :=
  .next (s.redOut d ((reduce32 (optStep (fselCode s.me.ftz true)) .none (s.redF g a)).getD 0x7FC00000) 0 6)

/-- Floating minimum (R218). -/
def execVredFmin (g : BitVec 4) (d a : BitVec 6) (s : State) : Out :=
  .next (s.redOut d ((reduce32 (optStep (fselCode s.me.ftz false)) .none (s.redF g a)).getD 0x7FC00000) 0 6)

/-- Signed maximum (R218). -/
def execVredImax (g : BitVec 4) (d a : BitVec 6) (s : State) : Out :=
  .next (s.redOut d ((reduce32 (optStep (fun x y => if x.slt y then y else x)) .none (s.redLane g a)).getD 0x80000000) 0 6)

/-- Signed minimum (R218). -/
def execVredImin (g : BitVec 4) (d a : BitVec 6) (s : State) : Out :=
  .next (s.redOut d ((reduce32 (optStep (fun x y => if y.slt x then y else x)) .none (s.redLane g a)).getD 0x7FFFFFFF) 0 6)

/-- The index-carrying maximum of two lanes: the lower index wins a tie (R91). -/
def amaxStep (x y : Lane32 × Nat) : Lane32 × Nat :=
  if rankLt (fp32.value x.1.toNat) (fp32.value y.1.toNat) then y else x

/-- Index-carrying maximum: lane 0 the value, lane 1 the index (R91, R218). -/
def execVredAmax (g : BitVec 4) (d a : BitVec 6) (s : State) : Out :=
  let r := (reduce32 (optStep amaxStep) .none (fun i => (s.redF g a i).map (fun x => (x, i)))).getD (0x7FC00000, 32)
  .next (s.landV d 3 (vregOf (fun i => if i = 0 then r.1 else BitVec.ofNat 32 r.2)) 0 6)

/-! ## Transcendentals (R219) -/

/-- Elementwise transcendental in RNE (R92, R219). -/
def State.opTrans (s : State) (g : BitVec 4) (d a : BitVec 6) (m : BitVec 5) (f : Exact → Enclosed) : State :=
  let k := fpOf (m.toNat - 8)
  s.opElems g d k.width (1024 / k.width) (fun e => (f (s.fpElem k (s.v a) e)).round k s.me.ftz) 8

/-- log2 (R92, R219). -/
def execVtrLog2 (g : BitVec 4) (d a : BitVec 6) (m : BitVec 5) (s : State) : Out := .next (s.opTrans g d a m transLog2)

/-- exp2 (R92, R219). -/
def execVtrExp2 (g : BitVec 4) (d a : BitVec 6) (m : BitVec 5) (s : State) : Out := .next (s.opTrans g d a m transExp2)

/-- Reciprocal (R92, R219). -/
def execVtrRcp (g : BitVec 4) (d a : BitVec 6) (m : BitVec 5) (s : State) : Out := .next (s.opTrans g d a m transRcp)

/-- Reciprocal square root (R92, R219). -/
def execVtrRsqrt (g : BitVec 4) (d a : BitVec 6) (m : BitVec 5) (s : State) : Out := .next (s.opTrans g d a m transRsqrt)

/-- Sigmoid (R92, R219). -/
def execVtrSig (g : BitVec 4) (d a : BitVec 6) (m : BitVec 5) (s : State) : Out := .next (s.opTrans g d a m transSig)

/-- Hyperbolic tangent (R92, R219). -/
def execVtrTanh (g : BitVec 4) (d a : BitVec 6) (m : BitVec 5) (s : State) : Out := .next (s.opTrans g d a m transTanh)

end Sys2Proof.Machine
end

