-- ==== Sys2Proof/Machine/Matrix.lean ====
section
/-! DEFINITION. The M-slot operations (R225 to R231, R240 to R246) and accumulator reads (R221, R222). -/

namespace Sys2Proof.Machine

/-! ## The command queue (R229) -/

/-- The matrix engine of a core. -/
def State.mtx (s : State) (c : Nat) : Mtx := (s.core c).mtx

/-- Replace the matrix engine of a core. -/
def State.setMtx (s : State) (c : Nat) (m : Mtx) : State := s.modCore c (fun k => { k with mtx := m })

/-- Update the matrix engine of a core. -/
def State.modMtx (s : State) (c : Nat) (f : Mtx → Mtx) : State := s.modCore c (fun k => { k with mtx := f k.mtx })

/-- Commands queued or running, oldest first. -/
def Mtx.cmds (m : Mtx) : List MCmd :=
  match m.run with
  | .some r => r.cmd :: m.queue
  | .none => m.queue

/-- QCNT of a context (R229, R245). -/
def Mtx.qcnt (m : Mtx) (x : CtxNo) : Nat := (m.cmds.filter (fun k => k.x = x)).length

/-- A push would exceed 16 commands in the queue or 8 of the context; a running command holds its entry (R229, log 21). -/
def Mtx.full (m : Mtx) (x : CtxNo) : Bool := decide (16 ≤ m.cmds.length) || decide (8 ≤ m.qcnt x)

/-- The engine of the issuing context's core. -/
def State.myMtx (s : State) : Mtx := s.mtx (ctxCore s.issue.x)

/-- The stall test of an engine command (R229). -/
def cmdPre (s : State) : Pre := if s.myMtx.full s.issue.x then .stall else .go

/-- Push a command of the issuing context; the push releases to the engine (R230). -/
def State.pushM (s : State) (k : MKind) : State :=
  s.modMtx (ctxCore s.issue.x) (fun m =>
    { m with queue := m.queue ++ [⟨s.issue.x, k, s.allOutstanding s.issue.x⟩] })

/-- An entry-table entry (R228). -/
def Mtx.entry (m : Mtx) (n : Nat) : MEnt := SMap.get MEnt.none m.ent n

/-- The tests of mcall: the queue, then the installed entry (R240, R369). -/
def mcallPre (s : State) (e : BitVec 6) : Pre :=
  if s.myMtx.full s.issue.x then .stall
  else if (s.myMtx.entry e.toNat).v then .go
  else .trap ⟨tMTX, 0x01, 3, e.setWidth 64⟩

/-- mcall pushes a call with its base tile, the entry fe = lc1 mod 16 and a copy of m0 to m7 (R240). -/
def execMcall (g : BitVec 4) (e : BitVec 6) (acc : BitVec 3) (s : State) : Out :=
  .next (s.gated g (mcallPre s e)
    (s.pushM (.call e.toNat acc.toNat (s.me.lc1.toNat % 16) s.me.m (s.myMtx.entry e.toNat).wset)))

/-- mwait stalls while the context has commands (R240). -/
def mwaitPre (s : State) : Pre := if 0 < s.myMtx.qcnt s.issue.x then .stall else .go

/-- MSTAT with its live QCNT (R245). -/
def State.mstatAt (s : State) (x : CtxNo) : Word :=
  BitVec.ofNat 64 ((s.ctx x).mstat.toNat % 2 ^ 33 + (s.mtx (ctxCore x)).qcnt x * 2 ^ 33)

/-- MSTAT of the issuing context. -/
def mstatOf (s : State) : Word := s.mstatAt s.issue.x

/-- mwait returns MSTAT and clears bits [32:0] (R240). -/
def execMwait (g : BitVec 4) (d : BitVec 6) (s : State) : Out :=
  .next (s.gated g (mwaitPre s) ((s.landS d (mstatOf s) 1).modCtx s.issue.x (fun c => { c with mstat := 0 })))

/-- Destination m[n]. -/
def dstM (n : BitVec 3) : Dest := .m ⟨n.toNat, n.isLt⟩

/-- mpar (R240). -/
def execMpar (g : BitVec 4) (m : BitVec 3) (a : BitVec 6) (s : State) : Out := .next (s.opD g (dstM m) (s.me.rs a))

/-- mpari (R240). -/
def execMpari (g : BitVec 4) (m : BitVec 3) (i : BitVec 18) (s : State) : Out := .next (s.opD g (dstM m) (s.imm i))

/-- mft pushes a change of a format-table entry (R240, R242). -/
def execMft (g ft : BitVec 4) (af bf : BitVec 5) (s : State) : Out :=
  .next (s.gated g (cmdPre s) (s.pushM (.mft ft af bf)))

/-- mzero pushes the zeroing of the tiles of its mask (R240). -/
def execMzero (g : BitVec 4) (mask : BitVec 8) (s : State) : Out :=
  .next (s.gated g (cmdPre s) (s.pushM (.mzero mask)))

/-- CMODE as a tile move takes it: never stochastic (R244). -/
def mmovMode (s : State) : Nat := if s.me.cmode = 4 then 0 else s.me.cmode

/-- mmov.st (R244). -/
def execMmovSt (g : BitVec 4) (acc : BitVec 3) (a : BitVec 6) (o : BitVec 5) (s : State) : Out :=
  .next (s.gated g (cmdPre s) (s.pushM (.mmov false false acc o (s.me.rs a) (mmovMode s))))

/-- mmov.st.sat (R244). -/
def execMmovStSat (g : BitVec 4) (acc : BitVec 3) (a : BitVec 6) (o : BitVec 5) (s : State) : Out :=
  .next (s.gated g (cmdPre s) (s.pushM (.mmov false true acc o (s.me.rs a) (mmovMode s))))

/-- mmov.ld (R244). -/
def execMmovLd (g : BitVec 4) (acc : BitVec 3) (a : BitVec 6) (o : BitVec 5) (s : State) : Out :=
  .next (s.gated g (cmdPre s) (s.pushM (.mmov true false acc o (s.me.rs a) (mmovMode s))))

/-- The span of an entry holds word i (R228). -/
def MEnt.spans (e : MEnt) (i : Nat) : Bool := e.v && decide (e.idx.toNat ≤ i) && decide (i ≤ e.endx.toNat)

/-- A queued or running call names an entry of a set (R243). -/
def Mtx.names (m : Mtx) (p : Nat → Bool) : Bool :=
  m.cmds.any (fun k => match k.kind with
    | .call e .. => p e
    | _ => false)

/-- mrsw stalls while a call names a valid entry whose span holds the word (R243). -/
def mrswPre (s : State) (i : BitVec 9) : Pre :=
  if s.myMtx.names (fun e => (s.myMtx.entry e).spans i.toNat) then .stall else .go

/-- Uninstall every entry whose span holds word i (R243). -/
def uninstall (ent : SMap MEnt) (i : Nat) : SMap MEnt :=
  (List.range 64).foldl (fun m e =>
    let k := SMap.get MEnt.none m e
    if k.spans i then SMap.set MEnt.none m e { k with v := false } else m) ent

/-- mrsw writes a word of the routine store (R243). -/
def execMrsw (g : BitVec 4) (i : BitVec 9) (a : BitVec 6) (s : State) : Out :=
  .next (s.gated g (mrswPre s i) (s.modMtx (ctxCore s.issue.x) (fun m =>
    { m with rs := SMap.set 0 m.rs i.toNat (s.me.rs a), ent := uninstall m.ent i.toNat })))

/-! ## Validation of a span (R237) -/

/-- A word of the routine store. -/
def Mtx.word (m : Mtx) (i : Nat) : Word := SMap.get 0 m.rs i

/-- OPC of a routine word (R235). -/
def opcOf (w : Word) : Nat := bitsOf w.toNat 60 4

/-- The first END at or after i, among k words. -/
def Mtx.endFrom (m : Mtx) : Nat → Nat → Option Nat
  | 0, _ => .none
  | k + 1, i => if opcOf (m.word i) = 0 then .some i else m.endFrom k (i + 1)

/-- A routine word has a non-zero reserved bit (R235). -/
def rtRsvd (w : Word) : Bool :=
  let v := w.toNat
  match opcOf w with
  | 0x0 | 0x1 => bitsOf v 0 60 ≠ 0
  | 0x2 => bitsOf v 0 51 ≠ 0
  | 0x3 | 0x4 => bitsOf v 0 43 ≠ 0
  | 0x5 | 0x6 => false
  | 0x7 => bitsOf v 13 46 ≠ 0
  | 0x8 => bitsOf v 9 50 ≠ 0
  | 0x9 => bitsOf v 9 48 ≠ 0
  | 0xA | 0xF => bitsOf v 0 47 ≠ 0
  | 0xB => bitOf v 46 || bitsOf v 0 43 ≠ 0
  | 0xC => bitOf v 46 || bitsOf v 0 37 ≠ 0
  | _ => bitsOf v 0 39 ≠ 0

/-- The word names rows of a tile T (R235). -/
def rtRows (w : Word) : Bool :=
  match opcOf w with
  | 0x3 | 0x4 | 0xA | 0xB | 0xC | 0xD | 0xE | 0xF => true
  | _ => false

/-- Word i of a span idx to endx breaks R237. -/
def rtBad (w : Word) (idx i endx : Nat) : Bool :=
  let v := w.toNat
  rtRsvd w || (rtRows w && decide (31 < bitsOf v 52 5 + bitsOf v 47 5)) ||
  match opcOf w with
  | 0x2 => decide (16 < bitsOf v 54 5)
  | 0xD | 0xE => decide (31 < bitsOf v 39 5 + bitsOf v 47 5)
  | 0x7 => bitsOf v 0 13 = 0 || decide (4096 < bitsOf v 0 13)
  | 0x8 => bitsOf v 0 9 = 0 || decide (i < idx + bitsOf v 0 9)
  | 0x9 => decide (endx < i + 1 + bitsOf v 0 9)
  | _ => false

/-- The entry that a span installs, none when it is invalid (R237, R243). -/
def Mtx.validate (m : Mtx) (idx : Nat) : Option MEnt :=
  match m.endFrom (512 - idx) idx with
  | .none => .none
  | .some endx =>
    let ws := (List.range (endx + 1 - idx)).map (fun k => (idx + k, m.word (idx + k)))
    if ws.any (fun p => rtBad p.2 idx p.1 endx) then .none
    else
      let wset := ws.foldl (fun a p => if rtRows p.2 then a ||| 2 ^ bitsOf p.2.toNat 57 3 else a) 0
      .some ⟨true, BitVec.ofNat 9 idx, BitVec.ofNat 9 endx, BitVec.ofNat 8 wset⟩

/-- mrse stalls while a call names the entry, and traps on an invalid span (R243). -/
def mrsePre (s : State) (e : BitVec 6) (i : BitVec 9) : Pre :=
  if s.myMtx.names (fun n => n = e.toNat) then .stall
  else if (s.myMtx.validate i.toNat).isSome then .go
  else .trap ⟨tMTX, 0x02, 3, e.setWidth 64⟩

/-- mrse installs an entry (R243). -/
def execMrse (g : BitVec 4) (e : BitVec 6) (i : BitVec 9) (s : State) : Out :=
  .next (s.gated g (mrsePre s e i) (s.modMtx (ctxCore s.issue.x) (fun m =>
    match m.validate i.toNat with
    | some k => { m with ent := SMap.set MEnt.none m.ent e.toNat k }
    | none => m)))

/-- mstat (R240). -/
def execMstat (g : BitVec 4) (d : BitVec 6) (s : State) : Out := .next (s.opS g d (mstatOf s) 1)

/-- mstat.cnt (R240, R241). -/
def execMstatCnt (g : BitVec 4) (d : BitVec 6) (s : State) : Out := .next (s.opS g d s.me.ccount 1)

/-! ## Accumulator reads (R221, R222) -/

/-- Key of an accumulator element. -/
def accKey (tile row col : Nat) : Nat := tile % 8 * 6144 + row % 32 * 192 + col

/-- An accumulator element. -/
def Mtx.accAt (m : Mtx) (tile row col : Nat) : BitVec 32 := SMap.get 0 m.acc (accKey tile row col)

/-- Write an accumulator element. -/
def Mtx.setAcc (m : Mtx) (tile row col : Nat) (v : BitVec 32) : Mtx :=
  { m with acc := SMap.set 0 m.acc (accKey tile row col) v }

/-- A tile is busy while a command that writes it is queued or running (R231). -/
def Mtx.busy (m : Mtx) (tile : Nat) : Bool :=
  m.cmds.any (fun k => match k.kind with
    | .call _ acc _ _ wset => bitOf wset.toNat ((tile + 8 - acc % 8) % 8)
    | .mzero mask => bitOf mask.toNat tile
    | .mmov ld _ acc _ _ _ => ld && acc.toNat = tile
    | .mft .. => false)

/-- The 32 elements of an accumulator read (R221). -/
def Mtx.vaccValue (m : Mtx) (tile row cb : Nat) : VReg := vregOf (fun i => m.accAt tile row (32 * cb + i))

/-- Post an accumulator read: a variable-latency result of arrival c + 6, over the lanes of its guard (R222). -/
def State.postVacc (s : State) (g : BitVec 4) (d : BitVec 6) (tile row cb : Nat) : State :=
  State.modCtx { s with nextOp := s.nextOp + 1 } s.issue.x (fun c =>
    { c with flight := c.flight ++
      [{ id := s.nextOp, due := s.issue.cycle + 6, dst := c.dstV d, lanes := c.guard g, value := .none, flags := 0, buf := true
         src := .vacc tile row cb (s.issue.cycle + 6), lock := false, orig := c.pc }] })

/-- A vector operation that needs a landing-buffer entry: it stalls without one (R60). With no lane enabled it does nothing (R56): R60 gives
an entry to every variable-latency load that executes and R249 exempts vector loads alone; the model lets such a VACC take none and wait
for no tile (DESIGN CHOICE, log 116). -/
def State.bufGated (s : State) (g : BitVec 4) (eff : State) : State :=
  if s.me.guard g = 0 then s
  else
    match bufPre s with
    | .stall => s.stallCtx s.issue.x
    | _ => eff

/-- vacc (R221). -/
def execVacc (g : BitVec 4) (d : BitVec 6) (acc : BitVec 3) (row : BitVec 5) (cb : BitVec 3) (s : State) : Out :=
  .next (s.bufGated g (s.postVacc g d acc.toNat row.toNat cb.toNat))

/-- vacc.lc: the row moves with lc0, read at issue (R221). -/
def execVaccLc (g : BitVec 4) (d : BitVec 6) (acc : BitVec 3) (row : BitVec 5) (cb : BitVec 3) (s : State) : Out :=
  .next (s.bufGated g (s.postVacc g d acc.toNat ((row.toNat + s.me.lc0.toNat) % 32) cb.toNat))

end Sys2Proof.Machine
end

