-- ==== Sys2Proof/Machine/Routine.lean ====
section
/-! DEFINITION. The matrix engine at work: starting and ending commands, routine words, weight banks, passes and tile moves
(R81, R83, R89, R229 to R239, R244). -/

namespace Sys2Proof.Machine

/-- The context whose command runs on a core's engine. -/
def State.runOf (s : State) (c : Nat) : Option MRun := (s.mtx c).run

/-- Update the running command. -/
def State.modRun (s : State) (c : Nat) (f : MRun → MRun) : State :=
  s.modMtx c (fun m => { m with run := m.run.map f })

/-- Start the command at the head of the queue. It is found there in the cycle after it came, or after the previous command ended, and
acts in the next: 2 cycles in all (R229). -/
def State.mtxStart (s : State) (c : Nat) : State :=
  let m := s.mtx c
  match m.run, m.queue with
  | none, k :: rest =>
      let w := match k.kind with
        | .call e .. => (m.entry e).idx.toNat
        | _ => 0
      let p := match k.kind with
        | .call _ _ _ p _ => p
        | _ => Vector.replicate 8 0
      s.setMtx c { m with
        queue := rest
        run := some { cmd := k, w := w, rc0 := 0, rc1 := 0, m := p, steps := 0, wait := 0, row := 0, ended := false
                      fill := none, bad := none, begun := false, stop := false, land := [], last := 0, lfill := none
                      lbad := none } }
  | _, _ => s

/-- The accesses that the push of the running command releases have performed: it may make its first access (R138, R230). -/
def State.mayAccess (s : State) (r : MRun) : Bool := s.clearOf r.cmd.x r.cmd.after

/-- OR flags into MSTAT of a context (R239, R245). -/
def State.mFlags (s : State) (x : CtxNo) (f : BitVec 5) : State :=
  s.modCtx x (fun c => { c with mstat := c.mstat ||| f.setWidth 64 })

/-- A fault of the running command is recorded: MSTAT keeps the first one (R239, R245). -/
def State.mRecord (s : State) (c : Nat) (code word row : Nat) : State :=
  match s.runOf c with
  | none => s
  | some r =>
    let fmov := match r.cmd.kind with
      | .mmov .. => true
      | _ => false
    let fe := match r.cmd.kind with
      | .call e .. => e
      | _ => 0
    s.modCtx r.cmd.x (fun k =>
      if bitsOf k.mstat.toNat 8 4 = 0 then
        { k with mstat := BitVec.ofNat 64 (k.mstat.toNat % 2 ^ 8 + code * 2 ^ 8 + b2n fmov * 2 ^ 12 + fe % 64 * 2 ^ 13 +
            word % 512 * 2 ^ 19 + row % 32 * 2 ^ 28) }
      else k)

/-- The command ends with the cycle at hand, or once the rows it has written have landed (R238, R239). -/
def MRun.finish (r : MRun) (cyc : Nat) : MRun :=
  { r with ended := true, row := 0, fill := none, bad := none, begun := false, last := max r.last (cyc + 1) }

/-- A fault of the running command at the word or row at hand, where the command ends (R239). -/
def State.mFault (s : State) (c : Nat) (code word row : Nat) : State :=
  (s.mRecord c code word row).modRun c (fun r => r.finish (s.mtx c).cyc)

/-- The executing word is a pass that waits for bank k (R235, R236, R238): no row of it has entered. -/
def Mtx.waitsBank (m : Mtx) (r : MRun) (k : Nat) : Bool :=
  let w := (SMap.get 0 m.rs r.w).toNat
  r.begun && r.row = 0 && (bitsOf w 60 4 = 3 || bitsOf w 60 4 = 4) && bitsOf w 46 1 = k

/-- Poison of a B row of load k is found in the background: the call ends in this cycle, but a word that is executing completes its rows;
a pass that waits for that bank does not run (R239). -/
def State.mPoison (s : State) (c : Nat) (k code word : Nat) : State :=
  (s.mRecord c code word 0).modRun c (fun r =>
    if r.begun && !(s.mtx c).waitsBank r k then { r with stop := true }
    else { r with ended := true, row := 0, fill := none, bad := none, begun := false, last := max r.last (s.mtx c).cyc })

/-- The word after the executing one; none follows when the call is to stop (R238, R239). -/
def MRun.nextWord (r : MRun) : MRun :=
  { r with w := r.w + 1, steps := r.steps + 1, row := 0, begun := false, ended := r.stop }

/-- The tile that T names in a call: (ACC + T) mod 8 (R235). -/
def MRun.tile (r : MRun) (t : Nat) : Nat :=
  match r.cmd.kind with
  | .call _ acc _ _ _ => (acc + t) % 8
  | _ => t % 8

/-- A word that acts on the running call of the engine it runs on; without a call it has no effect. -/
def onCall (s : State) (f : Nat → MRun → State) : State :=
  let c := ctxCore s.issue.x
  match s.runOf c with
  | some r => match r.cmd.kind with
    | .call .. => if r.ended then s else f c r
    | _ => s
  | none => s

/-- END (R238): the call ends in the next cycle, or when its rows have landed and its background loads have completed. -/
def execRoutineEnd (s : State) : Out :=
  .next (onCall s (fun c _ => s.modRun c (fun r =>
    { r.nextWord with ended := true, last := max r.last ((s.mtx c).cyc + 1) })))

/-- NOP (R235). -/
def execRoutineNop (s : State) : Out := .next (onCall s (fun c _ => s.modRun c MRun.nextWord))

/-- An immediate of 57 bits, sign-extended (R235). -/
def imm57 (i : BitVec 57) : Word := i.signExtend 64

/-- SETP (R235). -/
def execSetp (md : BitVec 3) (imm : BitVec 57) (s : State) : Out :=
  .next (onCall s (fun c _ => s.modRun c (fun r => { r.nextWord with m := r.m.set md.toNat (imm57 imm) md.isLt })))

/-- ADDP (R235). -/
def execAddp (md : BitVec 3) (imm : BitVec 57) (s : State) : Out :=
  .next (onCall s (fun c _ => s.modRun c (fun r =>
    { r.nextWord with m := r.m.set md.toNat (r.m[md.toNat]'md.isLt + imm57 imm) md.isLt })))

/-- A routine counter. -/
def MRun.rc (r : MRun) (c : BitVec 1) : Nat := if c = 0 then r.rc0 else r.rc1

/-- Set a routine counter. -/
def MRun.setRc (r : MRun) (c : BitVec 1) (n : Nat) : MRun := if c = 0 then { r with rc0 := n } else { r with rc1 := n }

/-- SETC (R235). -/
def execSetc (k : BitVec 1) (n : BitVec 13) (s : State) : Out :=
  .next (onCall s (fun c _ => s.modRun c (fun r => r.nextWord.setRc k n.toNat)))

/-- LOOP (R235). -/
def execLoop (k : BitVec 1) (back : BitVec 9) (s : State) : Out :=
  .next (onCall s (fun c _ => s.modRun c (fun r =>
    if 1 < r.rc k then { r.nextWord.setRc k (r.rc k - 1) with w := r.w - back.toNat } else r.nextWord.setRc k 0)))

/-- SKIPZ (R235). -/
def execSkipz (mr : BitVec 3) (fwd : BitVec 9) (s : State) : Out :=
  .next (onCall s (fun c _ => s.modRun c (fun r =>
    if r.m[mr.toNat]'mr.isLt = 0 then { r.nextWord with w := r.w + 1 + fwd.toNat } else r.nextWord)))

/-! ## Weight banks (R232, R233, R236) -/

/-- The dimensions of a ganging mode (R232): K, NB, A bytes, column words, B rows. -/
structure Mode where
  k : Nat
  nb : Nat
  abytes : Nat
  kw : Nat
  rb : Nat
  deriving DecidableEq, Repr

/-- The mode of an accepted pair (R232). -/
def modeOf (af bf : BitVec 5) : Option Mode :=
  if !pairOk af bf then none
  else if af = 0x12 then some ⟨96, 4, 96, 24, 25⟩
  else if af = 0x11 then some ⟨144, 6, 108, 27, 29⟩
  else if af = 0x13 then some ⟨24, 1, 48, 12, 13⟩
  else some ⟨384, 16, 192, 48, 52⟩

/-- A weight bank. -/
def Mtx.bank (m : Mtx) (b : Nat) : Bank := if b = 0 then m.bank0 else m.bank1

/-- Replace a weight bank. -/
def Mtx.setBank (m : Mtx) (b : Nat) (k : Bank) : Mtx := if b = 0 then { m with bank0 := k } else { m with bank1 := k }

/-- A format-table entry (R227). -/
def Mtx.ftAt (m : Mtx) (n : Nat) : BitVec 10 := SMap.get 0 m.ft (n % 16)

/-- The team whose engine runs on a core, through the issuing context of its command. -/
def State.runTeam (s : State) (r : MRun) : Option Team := s.teamOf r.cmd.x

/-- A bank that an LDB takes becomes EMPTY; a load of it that has rows to move goes on without a bank (R236, R238). -/
def Mtx.takeBank (m : Mtx) (b : Nat) : Mtx :=
  let k := m.bank b
  let m := m.setBank b { k with st := .empty }
  match k.st with
  | .loading o moved rows word start => { m with past := m.past ++ [⟨o, moved, rows, word, start⟩] }
  | _ => m

/-- LDB (R236, R238): its checks, then the load runs in the background, from the next cycle on. -/
def execLdb (bank : BitVec 1) (fsel : BitVec 5) (mb : BitVec 3) (s : State) : Out :=
  .next (onCall s (fun c r =>
    let s := s.modMtx c (fun m => m.takeBank bank.toNat)
    let fe := match r.cmd.kind with
      | .call _ _ fe _ _ => fe
      | _ => 0
    let f := (s.mtx c).ftAt (if fsel.toNat < 16 then fsel.toNat else fe)
    let af := f.setWidth 5
    let bf := (f >>> 5).setWidth 5
    match modeOf af bf with
    | none => s.mFault c 3 r.w 0
    | some md =>
      let o := (r.m[mb.toNat]'mb.isLt).toNat
      let size := match s.runTeam r with
        | some t => t.vaultSize
        | none => 0
      if 2 ^ 24 ≤ o || size < o + 768 * md.rb then s.mFault c 1 r.w 0
      else if o % 768 ≠ 0 then s.mFault c 2 r.w 0
      else
        (s.modMtx c (fun m => m.setBank bank.toNat ⟨.loading o 0 md.rb r.w (m.cyc + 1), af, bf, []⟩)).modRun c
          MRun.nextWord))

/-- A load by its number: bank 0 or 1, and from 2 on the loads whose bank was taken. -/
def Mtx.loadAt (m : Mtx) (k : Nat) : Option PastLoad :=
  if 2 ≤ k then m.past[k - 2]?
  else
    match (m.bank k).st with
    | .loading o moved rows word start => .some ⟨o, moved, rows, word, start⟩
    | _ => .none

/-- A row of load k has moved; in a bank its bytes are kept. -/
def Mtx.rowMoved (m : Mtx) (k : Nat) (p : PastLoad) (bytes : List Byte) : Mtx :=
  if 2 ≤ k then { m with past := m.past.set (k - 2) { p with moved := p.moved + 1 } }
  else m.setBank k { m.bank k with
    st := .loading p.o (p.moved + 1) p.rows p.word p.start, data := Memory.wrBytes (m.bank k).data (768 * p.moved) bytes }

/-- Load k has ended with a fault: its bank is EMPTY (R236). -/
def Mtx.dropLoad (m : Mtx) (k : Nat) : Mtx :=
  if 2 ≤ k then { m with past := m.past.eraseIdx (k - 2) } else m.setBank k { m.bank k with st := .empty }

/-- A load moves a row, waits for a fill of it or for the accesses that its command's push released, or is poisoned. A fill of a B row that
fails for good ends the call with XLATE, where R239 names A and bias words only (DESIGN CHOICE, log 117)
(R105, R230, R236, R238, R239, R408). -/
def State.loadRow (s : State) (c : Nat) (k : Nat) (r : MRun) : State :=
  match (s.mtx c).loadAt k, s.runTeam r with
  | some p, some t =>
    if !s.mayAccess r then s else
    let l : Loc := ⟨c, true, t.vaultBase + p.o + 768 * p.moved⟩
    let s := s.findStore c true l.off 768
    let ws := (List.range 192).map (fun k => l.off + 4 * k)
    let ends (code : Nat) : State :=
      State.mPoison ((s.modMtx c (fun m => m.dropLoad k)).modRun c (fun r => { r with lfill := none, lbad := none })) c k code p.word
    match ws.find? (fun a => !s.allUsable ⟨c, true, a⟩ 4) with
    | some a =>
      match r.lbad with
      | some b => ends (if b = 4 then 5 else 6)
      | none =>
        let f := s.engFill c ⟨c, true, a⟩ 4
        f.2.modRun c (fun r => { r with lfill := f.1 })
    | none =>
      if ws.any (fun a => s.poisoned ⟨c, true, a⟩) then ends 6
      else s.modMtx c (fun m => m.rowMoved k p (Memory.bytes (s.core c).vault l.off 768))
  | _, _ => s

/-- A bank whose rows have all moved is LOADED (R236). -/
def Bank.settle (b : Bank) : Bank :=
  match b.st with
  | .loading _ moved rows _ _ => if rows ≤ moved then { b with st := .loaded } else b
  | _ => b

/-- A bank is LOADING (R226). -/
def Bank.isLoading (b : Bank) : Bool :=
  match b.st with
  | .loading .. => true
  | _ => false

/-- A background load is under way (R238). -/
def Mtx.loading (m : Mtx) : Bool := m.bank0.isLoading || m.bank1.isLoading || !m.past.isEmpty

/-- The load of two that began first. -/
def Mtx.older (m : Mtx) (a b : Option Nat) : Option Nat :=
  match a, b with
  | .some i, .some j =>
    if ((m.loadAt i).map (·.start)).getD 0 ≤ ((m.loadAt j).map (·.start)).getD 0 then .some i else .some j
  | .some i, .none => .some i
  | .none, b => b

/-- The load that has the vault port in this cycle: of those with rows to move, the one that began first (R238). -/
def Mtx.loader (m : Mtx) : Option Nat :=
  let due (k : Nat) : Bool := (m.loadAt k).any (fun p => decide (p.moved < p.rows) && decide (p.start ≤ m.cyc))
  (List.range (2 + m.past.length)).foldl (fun a k => if due k then m.older a (.some k) else a) .none

/-- A core cycle of the engine begins: it is counted, a load ends in the cycle after its last row, and one row moves. -/
def State.loads (s : State) (c : Nat) : State :=
  let s := s.modMtx c (fun m => { m with
    cyc := m.cyc + 1, bank0 := m.bank0.settle, bank1 := m.bank1.settle
    past := m.past.filter (fun p => decide (p.moved < p.rows)) })
  match s.runOf c, (s.mtx c).loader with
  | some r, some k => s.loadRow c k r
  | _, _ => s

/-! ## Passes (R81, R83, R89, R233, R234, R236) -/

/-- An element as R89's integer: SExt(q, w), or twice an E2M1 value. -/
def passInt (f : BitVec 5) (w q : Nat) : Int :=
  if f = 0x0D then
    let mag : Int := match q % 8 with
      | 0 => 0
      | 1 => 1
      | 2 => 2
      | 3 => 3
      | 4 => 4
      | 5 => 6
      | 6 => 8
      | _ => 12
    if bitOf q 3 then -mag else mag
  else intOf true w q

/-- Fraction places of an element (R89). -/
def passFrac (f : BitVec 5) (w : Nat) : Int := if f = 0x0D then 1 else (w : Int) - 2

/-- Width of an element of a pass format. -/
def passW (f : BitVec 5) : Nat :=
  match f.toNat with
  | 0x12 => 8
  | 0x11 => 6
  | 0x13 => 16
  | _ => 4

/-- The integer sum of one block: n more element pairs from element e on. -/
def blockSum (af bf : BitVec 5) (a b : Nat) : Nat → Nat → Int
  | 0, _ => 0
  | n + 1, e =>
    passInt af (passW af) (bitsOf a (passW af * e) (passW af)) * passInt bf (passW bf) (bitsOf b (passW bf * e) (passW bf)) +
      blockSum af bf a b n (e + 1)

/-- The exact sum of R89 over blocks in ascending K: n more blocks from block j on. Once NaN it stays NaN. -/
def passExact (af bf : BitVec 5) (a b sa sb : Nat) : Nat → Nat → Exact → Exact
  | 0, _, x => x
  | n + 1, j, x =>
    let ea := bitsOf sa (8 * j) 8
    let eb := bitsOf sb (8 * j) 8
    if ea = 255 || eb = 255 then passExact af bf a b sa sb n (j + 1) (.nan false)
    else
      let s := blockSum af bf a b 24 (24 * j)
      let e : Int := (ea : Int) - 127 + ((eb : Int) - 127) - (passFrac af (passW af) + passFrac bf (passW bf))
      passExact af bf a b sa sb n (j + 1) (exactAdd 0 x (.fin (s < 0) s.natAbs e false)).1

/-- FP32Add with its flags (R89, R239). -/
def fp32AddR (c t : Nat) : Rounded :=
  let z := exactAdd 0 (fp32.value c) (fp32.value t)
  let r := roundFp z.1 fp32 0 false false 0
  ⟨r.code, r.flags ||| flagIf z.2 fNV⟩

/-- Column n of a bank: the bit image of words first to first + count - 1 (R233). -/
def colImage (data : Memory) (n first : Nat) : Nat → Nat
  | 0 => 0
  | k + 1 => Memory.rdN data (768 * first + 4 * n) 4 + 2 ^ 32 * colImage data n (first + 1) k

/-- MatrixPass of one element, or its first rounding alone (R89, R236). -/
def passElem (md : Mode) (bank : Bank) (a sa : Nat) (n : Nat) (old : Nat) (first : Bool) : Rounded :=
  let b := colImage bank.data n 0 md.kw
  let sb := colImage bank.data n md.kw ((md.nb + 3) / 4)
  let t := roundFp (passExact bank.af bank.bf a b sa sb md.nb 0 (.fin false 0 0 false)) fp32 0 false false 0
  if first then t
  else
    let z := fp32AddR old t.code
    ⟨z.code, t.flags ||| z.flags⟩

/-- Write the elements of a row, with the flags of all of them: columns below n. -/
def rowWrite (m : Mtx) (tile row : Nat) (f : Nat → Rounded) : Nat → Mtx × BitVec 5
  | 0 => (m, 0)
  | n + 1 =>
    let r := rowWrite m tile row f n
    (r.1.setAcc tile row n (BitVec.ofNat 32 (f n).code), r.2 ||| (f n).flags)

/-- The row operation writes row `row` of a tile from its old elements; the flags go to MSTAT of the call's context. -/
def State.doRow (s : State) (c : Nat) (x : CtxNo) (tile row : Nat) (f : Nat → Rounded) : State :=
  let r := rowWrite (s.mtx c) tile row f 192
  (s.setMtx c r.1).mFlags x r.2

/-- What a scratchpad range read by the engine gives: its bytes, a fill to wait for, or a fault code. -/
inductive ERead where
  | ok (v : Nat)
  | wait (s : State)
  | fault (code : Nat)

/-- The read finds the errors of the n bytes (R408). -/
def State.engineFind (s : State) (c : Nat) (r : MRun) (o n : Nat) : State :=
  match s.runTeam r with
  | some t => s.findStore c false (t.spadBase + o) n
  | none => s

/-- Read n bytes at own-window offset o for the running command. A fill of an MMOV source that fails for good is XLATE, where R239 names A
and bias words only (DESIGN CHOICE, log 117) (R105, R236, R238, R239). -/
def State.engineRead (s : State) (c : Nat) (r : MRun) (o n : Nat) : ERead :=
  match s.runTeam r with
  | none => .fault 1
  | some t =>
    if t.spadSize < o + n then .fault 1
    else
      let base := t.spadBase + o
      let ws := (List.range (base % 4 + n + 3)).filterMap (fun k => if k % 4 = 0 then some (base / 4 + k / 4) else none)
      let ws := ws.filter (fun w => 4 * w < base + n)
      match ws.find? (fun w => !s.usable c false w) with
      | some w =>
        match r.bad with
        | some b => .fault (if b = 4 then 5 else 6)
        | none =>
          let f := s.engFill c ⟨c, false, 4 * w⟩ 4
          .wait (f.2.modRun c (fun r => { r with fill := f.1 }))
      | none =>
        if ws.any (fun w => s.poisoned ⟨c, false, 4 * w⟩) then .fault 6
        else .ok (Memory.rdN (s.core c).spad base n)

/-- Key of a tile row among landing times. -/
def landKey (tile row : Nat) : Nat := tile % 8 * 32 + row % 32

/-- Engine cycle from which a row holds its last write. -/
def MRun.landsAt (r : MRun) (tile row : Nat) : Nat := SMap.get 0 r.land (landKey tile row)

/-- Row i of a pass has entered the array: it is in its tile 8 cycles later; after the last row the word is done (R238). -/
def MRun.passEntered (r : MRun) (cyc tile row0 nrm1 : Nat) : MRun :=
  let q := { r with land := SMap.set 0 r.land (landKey tile (row0 + r.row)) (cyc + 8), last := max r.last (cyc + 8)
                    row := r.row + 1, begun := true, fill := none }
  if nrm1 ≤ r.row then q.nextWord else q

/-- The running word waits: it has issued, and has not completed. -/
def State.hold (s : State) (c : Nat) : State := s.modRun c (fun r => { r with begun := true })

/-- One row of a pass on a LOADED bank: it waits for the row's earlier write and for the fills of what it reads, then enters
the array (R236, R238). -/
def State.passRow (s : State) (c : Nat) (r : MRun) (md : Mode) (bank : Bank) (d tile row0 nrm1 : Nat) (first : Bool) : State :=
  let i := r.row
  let ea := bitsOf d 0 20 + i * bitsOf d 40 12
  let sa := bitsOf d 20 20 + i * bitsOf d 52 12
  let size := match s.runTeam r with
    | some t => t.spadSize
    | none => 0
  if ea % 4 ≠ 0 || bitsOf d 40 12 % 4 ≠ 0 then s.mFault c 2 r.w i
  else if size < ea + md.abytes || size < sa + md.nb then s.mFault c 1 r.w i
  else if (s.mtx c).cyc < r.landsAt tile (row0 + i) || !s.mayAccess r then s.hold c
  else
    let s := (s.engineFind c r ea md.abytes).engineFind c r sa md.nb
    match s.engineRead c r ea md.abytes with
    | .fault f => s.mFault c f r.w i
    | .wait s => s.hold c
    | .ok a =>
      match s.engineRead c r sa md.nb with
      | .fault f => s.mFault c f r.w i
      | .wait s => s.hold c
      | .ok sc =>
        let m := s.mtx c
        (s.doRow c r.cmd.x tile (row0 + i) (fun n =>
          passElem md bank a sc n (m.accAt tile (row0 + i) n).toNat first)).modRun c
            (fun r => r.passEntered m.cyc tile row0 nrm1)

/-- PASS and PASSW, one row in a cycle (R236, R238, R239). -/
def doPass (t : BitVec 3) (row0 nrm1 : BitVec 5) (bank : BitVec 1) (ma : BitVec 3) (first : Bool) (s : State) : State :=
  onCall s (fun c r =>
    let b := (s.mtx c).bank bank.toNat
    match b.st with
    | .empty => s.mFault c 4 r.w r.row
    | .loading .. => s.hold c
    | .loaded =>
      match modeOf b.af b.bf with
      | none => s.mFault c 4 r.w r.row
      | some md =>
        s.passRow c r md b (r.m[ma.toNat]'ma.isLt).toNat (r.tile t.toNat) row0.toNat nrm1.toNat first)

/-- PASS adds the pass to each element (R236). -/
def execPass (t : BitVec 3) (row0 nrm1 : BitVec 5) (bank : BitVec 1) (ma : BitVec 3) (s : State) : Out :=
  .next (doPass t row0 nrm1 bank ma false s)

/-- PASSW replaces each element by the first rounding (R236). -/
def execPassw (t : BitVec 3) (row0 nrm1 : BitVec 5) (bank : BitVec 1) (ma : BitVec 3) (s : State) : Out :=
  .next (doPass t row0 nrm1 bank ma true s)

/-- Element-wise rows: rows i below k, each element from a function of row and column. -/
def State.mapRows (s : State) (c : Nat) (x : CtxNo) (tile row0 : Nat) (f : Nat → Nat → Rounded) : Nat → State
  | 0 => s
  | k + 1 => (s.mapRows c x tile row0 f k).doRow c x tile (row0 + k) (f k)

/-- Rows of a tile are written one a cycle, each once its earlier write has landed, and each is in the tile 4 cycles later: k
rows from row `row` on, the first not before cycle c. Gives the landing times and the cycle after the last row (R238). -/
def rowTimes (tile row c : Nat) (land : SMap Nat) : Nat → SMap Nat × Nat
  | 0 => (land, c)
  | k + 1 =>
    let at_ := max c (SMap.get 0 land (landKey tile row))
    rowTimes tile (row + 1) (at_ + 1) (SMap.set 0 land (landKey tile row) (at_ + 4)) k

/-- The latest landing time of k rows. -/
def landsBy (r : MRun) (tile row : Nat) : Nat → Nat
  | 0 => 0
  | k + 1 => max (r.landsAt tile row) (landsBy r tile (row + 1) k)

/-- The word took its rows, the first not before cycle c: the next word issues in the cycle after the last row (R238). -/
def MRun.rowsDone (r : MRun) (cyc tile row0 n c : Nat) : MRun :=
  let p := rowTimes tile row0 c r.land n
  { r.nextWord with land := p.1, last := max r.last (p.2 + 3), wait := p.2 - (cyc + 1) }

/-- A word that maps the rows of a tile. Its rows take their values together, and no one reads them before they have landed; the
first is written not before `from_` (R238, log 51). -/
def rowWord (t : BitVec 3) (row0 nrm1 : BitVec 5) (s : State) (from_ : MRun → Nat) (f : Mtx → MRun → Nat → Nat → Rounded) :
    State :=
  onCall s (fun c r =>
    (s.mapRows c r.cmd.x (r.tile t.toNat) row0.toNat (f (s.mtx c) r) (nrm1.toNat + 1)).modRun c
      (fun r => r.rowsDone (s.mtx c).cyc (r.tile t.toNat) row0.toNat (nrm1.toNat + 1) (max (s.mtx c).cyc (from_ r))))

/-- ZERO (R235). -/
def execZero (t : BitVec 3) (row0 nrm1 : BitVec 5) (s : State) : Out :=
  .next (rowWord t row0 nrm1 s (fun _ => 0) (fun _ _ _ _ => ⟨0, 0⟩))

/-- BIAS: the 768 bytes of b are read once, in 2 cycles, then each element takes FP32Add(element, b[n]) (R235, R238). -/
def execBias (t : BitVec 3) (row0 nrm1 : BitVec 5) (ma : BitVec 3) (s : State) : Out :=
  .next (onCall s (fun c r =>
    let o := bitsOf (r.m[ma.toNat]'ma.isLt).toNat 0 20
    if o % 4 ≠ 0 then s.mFault c 2 r.w 0
    else if !s.mayAccess r then s.hold c
    else
      let s := s.engineFind c r o 768
      match s.engineRead c r o 768 with
      | .fault f => s.mFault c f r.w 0
      | .wait s => s.hold c
      | .ok b => rowWord t row0 nrm1 s (fun _ => (s.mtx c).cyc + 2) (fun m r i n =>
          fp32AddR (m.accAt (r.tile t.toNat) (row0.toNat + i) n).toNat (bitsOf b (32 * n) 32))))

/-- A value times a power of two, exactly. -/
def Exact.scaleBy (x : Exact) (k : Int) : Exact :=
  match x with
  | .fin n m e st => .fin n m (e + k) st
  | .nan _ => .nan false
  | .inf n => .inf n

/-- SCALE by 2^SExt(E, 9) (R235). -/
def execScale (t : BitVec 3) (row0 nrm1 : BitVec 5) (e : BitVec 9) (s : State) : Out :=
  .next (rowWord t row0 nrm1 s (fun _ => 0) (fun m r i n =>
    roundFp ((fp32.value (m.accAt (r.tile t.toNat) (row0.toNat + i) n).toNat).scaleBy e.toInt) fp32 0 false false 0))

/-- COPY: the source rows are read before any row is written (R235). -/
def execRoutineCopy (t : BitVec 3) (row0 nrm1 : BitVec 5) (src : BitVec 3) (srow0 : BitVec 5) (s : State) : Out :=
  .next (rowWord t row0 nrm1 s (fun r => landsBy r (r.tile src.toNat) srow0.toNat (nrm1.toNat + 1))
    (fun m r i n => ⟨(m.accAt (r.tile src.toNat) (srow0.toNat + i) n).toNat, 0⟩))

/-- ADDT (R235). -/
def execAddt (t : BitVec 3) (row0 nrm1 : BitVec 5) (src : BitVec 3) (srow0 : BitVec 5) (s : State) : Out :=
  .next (rowWord t row0 nrm1 s (fun r => landsBy r (r.tile src.toNat) srow0.toNat (nrm1.toNat + 1)) (fun m r i n =>
    fp32AddR (m.accAt (r.tile t.toNat) (row0.toNat + i) n).toNat (m.accAt (r.tile src.toNat) (srow0.toNat + i) n).toNat))

/-- An element above 0, +0, or the canonical NaN (R235). -/
def maxzCode (c : Nat) : Nat :=
  match fp32.value c with
  | .nan _ => 0x7FC00000
  | x => if exactLt (.fin false 0 0 false) x then c else 0

/-- MAXZ (R235). -/
def execMaxz (t : BitVec 3) (row0 nrm1 : BitVec 5) (s : State) : Out :=
  .next (rowWord t row0 nrm1 s (fun _ => 0) (fun m r i n => ⟨maxzCode (m.accAt (r.tile t.toNat) (row0.toNat + i) n).toNat, 0⟩))

/-! ## Commands that are not calls, and the end of a command -/

/-- The running command has ended: it leaves the engine (R229). -/
def State.endRun (s : State) (c : Nat) : State := s.modMtx c (fun m => { m with run := none })

/-- A command that takes n cycles has its effect in the first, and leaves the engine n cycles later (R238). -/
def MRun.takes (r : MRun) (cyc n : Nat) : MRun := { r with ended := true, last := max r.last (cyc + n) }

/-- MFT takes effect when it runs, 1 cycle (R238, R240, R242). -/
def State.mftRun (s : State) (c : Nat) : State :=
  match s.runOf c with
  | some r => match r.cmd.kind with
    | .mft ft af bf =>
      (s.modMtx c (fun m => { m with ft := SMap.set 0 m.ft ft.toNat (BitVec.ofNat 10 (af.toNat + 32 * bf.toNat)) })).modRun c
        (fun r => r.takes (s.mtx c).cyc 1)
    | _ => s
  | none => s

/-- Accumulator elements outside the tiles of a mask. -/
def zeroTiles (acc : SMap (BitVec 32)) (mask : BitVec 8) : SMap (BitVec 32) :=
  acc.filter (fun e => !bitOf mask.toNat (e.1 / 6144))

/-- MZERO makes every element of its tiles +0, 4 cycles (R238, R240). -/
def State.mzeroRun (s : State) (c : Nat) : State :=
  match s.runOf c with
  | some r => match r.cmd.kind with
    | .mzero mask => (s.modMtx c (fun m => { m with acc := zeroTiles m.acc mask })).modRun c (fun r => r.takes (s.mtx c).cyc 4)
    | _ => s
  | none => s

/-- Bytes of one row of a tile move (R244). -/
def mmovBytes (fmt : BitVec 5) : Nat := 24 * (cvtFmt fmt.toNat).width

/-- The image of a row and the flags of its elements: columns below n. -/
def mmovRow (k : NumFmt) (f : Nat → Rounded) : Nat → Nat × BitVec 5
  | 0 => (0, 0)
  | n + 1 =>
    let r := mmovRow k f n
    (r.1 + (f n).code % 2 ^ k.width * 2 ^ (k.width * n), r.2 ||| (f n).flags)

/-- Store a row of bytes at a scratchpad offset of a core, word by word (R244). -/
def State.mmovStore (s : State) (c off v : Nat) : Nat → State
  | 0 => s
  | k + 1 => (s.mmovStore c off v k).wrLoc ⟨c, false, off + 4 * k⟩ 4 (bitsOf v (32 * k) 32)

/-- A fault of a tile move ends it in the cycle in which its row is reached, and takes no further cycle (R239). -/
def State.moveFault (s : State) (c : Nat) (code row : Nat) : State :=
  (s.mFault c code 0 row).modRun c (fun r => { r with last := (s.mtx c).cyc + 1 })

/-- Rows of a tile move, k more (R244). -/
def State.mmovRows (s : State) (c : Nat) (ld sat : Bool) (acc : BitVec 3) (fmt : BitVec 5) (desc mode nrm1 : Nat) :
    Nat → State
  | 0 => s.modRun c (fun r => r.finish (s.mtx c).cyc)
  | k + 1 =>
    let i := nrm1 - k
    match s.runOf c with
    | none => s
    | some r =>
      let kf := cvtFmt fmt.toNat
      let row := bitsOf desc 20 5 + i
      let o := bitsOf desc 0 20 + i * bitsOf desc 32 14
      let size := match s.runTeam r with
        | some t => t.spadSize
        | none => 0
      let base := match s.runTeam r with
        | some t => t.spadBase
        | none => 0
      if size < o + mmovBytes fmt then s.moveFault c 1 i
      else if ld then
        let s := s.engineFind c r o (mmovBytes fmt)
        match s.engineRead c r o (mmovBytes fmt) with
        | .fault f => s.moveFault c f i
        | .wait s => s.modRun c (fun r => { r with row := i })
        | .ok v =>
          (s.doRow c r.cmd.x acc.toNat row (fun n =>
            roundFp (kf.value (bitsOf v (kf.width * n) kf.width)) fp32 mode false false 0)).mmovRows
              c ld sat acc fmt desc mode nrm1 k
      else if (List.range (mmovBytes fmt / 4)).any (fun w => s.readOnly ⟨c, false, base + o + 4 * w⟩ 4) then
        State.moveFault { s with freeCtr := s.freeCtr + 1 } c (1 + Config.choice s.freeCtr % 8) i
      else
        let m := s.mtx c
        let img := mmovRow kf (fun n => roundTo (fp32.value (m.accAt acc.toNat row n).toNat) kf mode sat false 0) 192
        ((s.mmovStore c (base + o) img.1 (mmovBytes fmt / 4)).mFlags r.cmd.x img.2).mmovRows
          c ld sat acc fmt desc mode nrm1 k

/-- A tile move of n rows takes 4 + 2 n cycles from the first in which it acts (R238). -/
def MRun.moveBegun (r : MRun) (cyc n : Nat) : MRun :=
  if r.begun then r else { r with begun := true, last := max r.last (cyc + 4 + 2 * n) }

/-- MMOV runs once it may make its first access: its descriptor is tested, then its rows move (R230, R239, R244). -/
def State.mmovRun (s : State) (c : Nat) : State :=
  match s.runOf c with
  | some r => match r.cmd.kind with
    | .mmov ld sat acc fmt desc mode =>
      let d := desc.toNat
      if bitsOf d 30 2 ≠ 0 || bitsOf d 46 18 ≠ 0 || 31 < bitsOf d 20 5 + bitsOf d 25 5 then s.moveFault c 7 0
      else if bitsOf d 0 20 % 4 ≠ 0 || bitsOf d 32 14 % 4 ≠ 0 then s.moveFault c 2 0
      else if !s.mayAccess r then s
      else
        (s.modRun c (fun r => r.moveBegun (s.mtx c).cyc (bitsOf d 25 5 + 1))).mmovRows c ld sat acc fmt d mode (bitsOf d 25 5)
          (bitsOf d 25 5 + 1 - r.row)
    | _ => s
  | none => s

/-- A command that has issued its last cycle or faulted ends once its rows have landed and no bank loads; the completed-call
count rises by 1 for a call (R238, R241). -/
def State.callEnd (s : State) (c : Nat) : State :=
  match s.runOf c with
  | some r =>
    if r.ended && decide (r.last ≤ (s.mtx c).cyc) && !(s.mtx c).loading then
      match r.cmd.kind with
      | .call .. => (s.modCtx r.cmd.x (fun k => { k with ccount := k.ccount + 1 })).endRun c
      | _ => s.endRun c
    else s
  | none => s

/-- The step budget of a call is spent: the next word faults with STEPS (R237). -/
def State.stepsSpent (s : State) (c : Nat) : Option State :=
  match s.runOf c with
  | some r => if 1048576 ≤ r.steps && !r.ended && !r.begun then some (s.mFault c 8 r.w 0) else none
  | none => none

/-- A command starts (R229). -/
def execMatrixCommandStart (c : CoreNo) (s : State) : Out := .next (s.mtxStart c.val)

/-- A format-table change takes effect (R242). -/
def execMftExecute (c : CoreNo) (s : State) : Out := .next (s.mftRun c.val)

/-- Tiles are zeroed (R240). -/
def execMzeroExecute (c : CoreNo) (s : State) : Out := .next (s.mzeroRun c.val)

/-- A tile move runs (R244). -/
def execMmovExecute (c : CoreNo) (s : State) : Out := .next (s.mmovRun c.val)

/-- The background load of a bank completes (R236): its remaining rows move, and it is LOADED. -/
def State.loadAll (s : State) (c b : Nat) : Nat → State
  | 0 => s.modMtx c (fun m => m.setBank b (m.bank b).settle)
  | n + 1 =>
    match s.runOf c with
    | some r => if ((s.mtx c).loadAt b).any (fun p => decide (p.moved < p.rows)) then (s.loadRow c b r).loadAll c b n else s.loadAll c b n
    | none => s.loadAll c b n

/-- LDB_LOAD_COMPLETE (R236, R239). -/
def execLdbLoadComplete (c : CoreNo) (bank : Fin 2) (s : State) : Out := .next (s.loadAll c.val bank.val 52)

/-- CALL_END (R238, R241). -/
def execCallEnd (c : CoreNo) (s : State) : Out := .next (s.callEnd c.val)

end Sys2Proof.Machine
end

