-- ==== Sys2Proof/Machine/Coherence.lean ====
section
/-! DEFINITION. Reads and writes at the home slices: invalidations, timestamps, ownership, poison, write-backs, recalls, and
the Wonus log (R105 to R122, R133, R140, R141, R277, R347, R408, R413, R423). -/

namespace Sys2Proof.Machine

/-! ## Physical bytes -/

/-- A fenced module's window (R413). -/
def State.fenced (s : State) (pa : Nat) : Bool := paHawser pa && s.mgmt.fmask.getLsbD (paTarget pa - 1)

/-- n bytes at a device physical address (R351). -/
def State.physRd (s : State) (pa n : Nat) : Nat :=
  if paTarget pa = 0 then Memory.rdN s.dram pa n
  else if paTarget pa = 8 then Memory.rdN s.hostMem (paOff pa) n
  else peerBytes pa s.freeCtr n

/-- Bytes of the ASID table (R354). -/
def asidTableSize : Nat := 1048576

/-- Write n bytes of DRAM: a byte of the ASID table, which only the monitor writes, keeps its value (R391). -/
def State.dramWr (s : State) (pa n v : Nat) : Memory :=
  match s.mon.table with
  | none => Memory.wrN s.dram pa v n
  | some t =>
    if pa + n ≤ t || t + asidTableSize ≤ pa then Memory.wrN s.dram pa v n
    else (List.range n).foldl (fun m k =>
      if pa + k < t || t + asidTableSize ≤ pa + k then Memory.wr m (pa + k) (BitVec.ofNat 8 (v / 256 ^ k)) else m) s.dram

/-- Write n bytes at a device physical address; through a hawser window the write leaves for the peer (R125, R351). -/
def State.physWr (s : State) (pa n v : Nat) : State :=
  if paTarget pa = 0 then { s with dram := s.dramWr pa n v }
  else if paTarget pa = 8 then { s with hostMem := Memory.wrN s.hostMem (paOff pa) v n }
  else s.send (.peerWrite (paTarget pa - 1) (paOff pa) (natBytes v n))

/-- 8-byte granules that n bytes touch. -/
def granules (pa n : Nat) : List Nat := (List.range ((pa % 8 + n + 7) / 8)).map (fun k => pa / 8 + k)

/-- A read there reports poison: an uncorrectable granule, or a fenced module's window (R408, R413). -/
def State.physBad (s : State) (pa n : Nat) : Bool :=
  s.fenced pa || (paTarget pa = 0 && (granules pa n).any (fun g => s.poison.contains g))

/-- A written range: address, bytes, value. -/
structure Span where
  pa : Nat
  n : Nat
  v : Nat
  deriving DecidableEq, Repr

/-- A span holds a byte. -/
def Span.has (p : Span) (a : Nat) : Bool := decide (p.pa ≤ a) && decide (a < p.pa + p.n)

/-- A span shares a byte with the word at an address. -/
def Span.hitsWord (p : Span) (a : Nat) : Bool := decide (p.pa < a + 4) && decide (a < p.pa + p.n)

/-- A whole granule is covered by the spans, so that the write clears its poison (R408). -/
def coversGranule (l : List Span) (g : Nat) : Bool := (List.range 8).all (fun k => l.any (fun p => p.has (8 * g + k)))

/-- Address of a rope's descriptor (R13, R348). -/
def State.ropeAddr (s : State) (r : Nat) : Nat := s.host.rtbase.toNat * 16384 + 64 * r

/-- A write of HEAD while its rope is OFF discards the addresses that the engine keeps (R427), and those of records before HEAD
whose launches may still fail (log 93). -/
def State.headWritten (s : State) (l : List Span) : State :=
  let hit (r : Nat) : Bool := l.any (fun p => decide (p.pa < s.ropeAddr r + 32) && decide (s.ropeAddr r + 24 < p.pa + p.n))
  (s.ropes.filter (fun e => !e.2.en && !(e.2.kept.isEmpty && e.2.fetched.isEmpty) && hit e.1)).foldl
    (fun t e => t.modRope e.1 (fun k => { k with kept := [], fetched := [] })) s

/-- Write the data of spans and clear the poison of whole granules. -/
def State.writeData (s : State) (l : List Span) : State :=
  let s := (l.foldl (fun s p => s.physWr p.pa p.n p.v) s).headWritten l
  { s with poison := s.poison.filter (fun g => !coversGranule l g) }

/-! ## Requests at slices (R156) -/

/-- The slice of this module that an access goes to, once it translates (R112). -/
def State.sliceOf (s : State) (core : Nat) (asid : BitVec 16) (va : Nat) : Option Nat :=
  match s.look core asid va false with
  | .ok pa a => if paHawser pa then none else some (homeSlice a pa)
  | _ => none

/-- A slice whose island's HOLD is 0 or less serves one request every two hub cycles: it served one in this cycle or the one before
(R156). -/
def State.sliceBusy (s : State) (slice : Nat) : Bool :=
  let t := SMap.get 0 s.served slice
  decide ((s.island (128 + slice)).hold ≤ 0) && decide (0 < t) && decide (s.now ≤ t)

/-- A slice serves a request now (R156). -/
def State.serve (s : State) (slice : Nat) : State := { s with served := SMap.set 0 s.served slice (s.now + 1) }

/-! ## Copies in bights -/

/-- A bight entry of a core's team. -/
structure EntId where
  core : Nat
  task : Nat
  n : Nat
  deriving DecidableEq, Repr

/-- The entry that a mapped word of a core belongs to. -/
def MapInfo.ent (m : MapInfo) (core : Nat) : EntId := ⟨core, m.task, m.n⟩

/-- Clear VALID on clean words of a store; DIRTY words are never invalidated (R109). -/
def Core.clearClean (c : Core) (vault : Bool) (p : Nat → Bool) : Core :=
  ((c.sides vault).filter (fun e => e.2.valid && !e.2.dirty && p e.1)).foldl
    (fun c e => c.setSide vault e.1 { e.2 with valid := false }) c

/-- A mapped word's entry, physical address and attributes satisfy a test; false where it does not translate. -/
def State.at (s : State) (k : Nat) (p : MapInfo → Nat → Attr → Bool) (m : MapInfo) : Bool :=
  match s.mapXlate k m false with
  | .ok pa a => p m pa a
  | _ => false

/-- A word of a core's store is mapped and satisfies a test. -/
def Core.mapTest (c : Core) (p : MapInfo → Bool) (v : Bool) (w : Nat) : Bool :=
  match c.mapOf v w with
  | .some m => p m
  | .none => false

/-- The mapped word of an entry at place k of a line, for a fill that is in flight. -/
def State.fillPlace (s : State) (o : GOp) (n k : Nat) : Option MapInfo :=
  match (s.core o.core).team? o.task with
  | none => none
  | some t =>
    let b := SMap.get Bight.none t.bights n
    if b.v then (b.wordAt (o.va + 4 * k)).map (fun i => ⟨o.task, n, b, i⟩) else none

/-- A fill in flight on a core takes note of the words that an invalidation or an expiry meets: they stay not VALID when its data
lands (R109). -/
def State.markFill (s : State) (k : Nat) (p : MapInfo → Bool) (o : GOp) : GOp :=
  match o.kind with
  | .fill n =>
    if o.core = k then
      { o with drop := o.drop ++ (List.range 16).filter (fun j => ((s.fillPlace o n j).map p).getD false && !o.drop.contains j) }
    else o
  | _ => o

/-- Clear VALID on every clean bight word of a core that satisfies a test. -/
def Core.clearTest (c : Core) (p : MapInfo → Bool) : Core :=
  (c.clearClean false (c.mapTest p false)).clearClean true (c.mapTest p true)

/-- Clear VALID on every clean bight word of a core that satisfies a test, and mark the fills in flight there (R109). -/
def State.clearCopiesOf (s : State) (k : Nat) (p : MapInfo → Bool) : State :=
  State.modCore { s with ops := s.ops.map (s.markFill k p) } k (fun c => c.clearTest p)

/-- The same in every core. -/
def State.clearCopies (s : State) (p : Nat → MapInfo → Bool) : State :=
  s.cores.foldl (fun t c => t.clearCopiesOf c.1 (p c.1)) s

/-- The bight is registered at a slice (R113). -/
def State.registered (s : State) (slice : Nat) (e : EntId) (gen : Nat) : Bool :=
  s.dir.any (fun d => d.slice = slice && d.core = e.core && d.task = e.task && d.n = e.n && d.gen = gen)

/-- DIR page with DEV bias (R111). -/
def Attr.dir (a : Attr) : Bool := a.coh = 1 && !a.host

/-- Invalidations that a write causes: on a DIR line exactly the words written in the registered bights (R114); on a
HOST-bias line every clean word of the line but those the write carries (R122). -/
def State.invalidateFor (s : State) (own : Option EntId) (a : Attr) (pa : Nat) (l : List Span) : State :=
  if a.host then
    s.clearCopies (fun k => s.at k (fun m q b => b.host && q / 64 = pa / 64 &&
      !(own = some (m.ent k) && l.any (fun p => p.hitsWord q))))
  else if a.coh = 1 then
    s.clearCopies (fun k => s.at k (fun m q b => b.dir && own ≠ some (m.ent k) && l.any (fun p => p.hitsWord q) &&
      s.registered (homeSlice b q) (m.ent k) m.b.gen))
  else s

/-! ## Timestamps (R117 to R120, R133) -/

/-- The clock that a write carries: its core's pts, or for the host and another module the last broadcast DLT (R119). For a write of
the rope engine, which R119 does not name, the model takes DLT too (DESIGN CHOICE, log 89). -/
def State.clockOf (s : State) (core : Option Nat) : BitVec 32 :=
  match core with
  | some c => (s.core c).pts
  | none => s.dlt

/-- Timestamps of a LEASE line; a line that enters the system cache takes EVT (R117). -/
def State.lineTs (s : State) (slice line : Nat) : LineTs :=
  let evt := SMap.get 0 s.evt slice
  match s.lines.find? (fun t => t.line = line) with
  | some t => if t.out then { t with wts := evt, rts := evt, slice := slice, out := false } else t
  | none => { line := line, wts := evt, rts := evt, slice := slice, out := false }

/-- Set the timestamps of a line. -/
def State.setLineTs (s : State) (t : LineTs) : State :=
  { s with lines := s.lines.filter (fun u => u.line ≠ t.line) ++ [t] }

/-- Set a core's clock to the serially later of its own and another. -/
def State.raisePts (s : State) (core : Nat) (p : BitVec 32) : State :=
  s.modCore core (fun c => { c with pts := serialMax c.pts p })

/-- Raise SWC of a slice (R133). -/
def State.raiseSwc (s : State) (slice : Nat) (p : BitVec 32) : State :=
  { s with swc := SMap.set 0 s.swc slice (serialMax (SMap.get 0 s.swc slice) p) }

/-- A read of a LEASE line by a core for lt ticks: the new rts, and the raised clocks (R118). -/
def State.leaseRead (s : State) (core slice line : Nat) (lt : BitVec 32) : BitVec 32 × State :=
  let t := s.lineTs slice line
  let p := serialMax (s.core core).pts t.wts
  let rts := serialMax t.rts (p + lt)
  (rts, (s.setLineTs { t with rts := rts }).raisePts core t.wts)

/-- A write counts at its slice: LEASE timestamps (R119), SWC (R133) and the place in the modification order (R277). -/
def State.stampWrite (s : State) (core : Option Nat) (a : Attr) (pa : Nat) : State :=
  let slice := homeSlice a pa
  let p := s.clockOf core
  let s := (s.raiseSwc slice p)
  let s := { s with modSeq := SMap.set 0 s.modSeq slice (SMap.get 0 s.modSeq slice + 1) }
  if a.lease then
    let t := s.lineTs slice (pa / 64)
    let w := serialMax p (t.rts + 1)
    let s := (s.setLineTs { t with wts := w, rts := w }).raiseSwc slice w
    match core with
    | some c => s.modCore c (fun k => { k with pts := w })
    | none => s
  else s

/-- The line is pinned (R123). -/
def State.pinned (s : State) (line : Nat) : Bool := s.pins.any (fun p => p.line = line)

/-- A LEASE line leaves the system cache: EVT := SerialMax(EVT, its rts) (R117). -/
def State.evictLine (s : State) (t : LineTs) : State :=
  { s with
    lines := s.lines.map (fun u => if u.line = t.line then { u with out := true } else u)
    evt := SMap.set 0 s.evt t.slice (serialMax (SMap.get 0 s.evt t.slice) t.rts) }

/-- The lines with timestamps that a slice may evict: no pinned one, and those of STREAM pages before any other (R111, R123). -/
def State.evictable (s : State) (slice : Nat) : List LineTs :=
  let l := s.lines.filter (fun t => t.slice = slice && !t.out && !s.pinned t.line)
  if l.any (·.stream) then l.filter (·.stream) else l

/-- A line enters a slice and may drive another out: which one of the evictable, and whether that one was dirty, is free
(R117, R123, log 23). A dirty one moves to DRAM, which its slice's island pays (R155). -/
def State.evictFor (s : State) (slice : Nat) : State :=
  let l := s.evictable slice
  let r := Config.evict s.freeCtr
  let t := { s with freeCtr := s.freeCtr + 1 }
  let t := match l[r.1 % (l.length + 1)]? with
    | some v => t.evictLine v
    | none => t
  if r.2 then t.memDebit (128 + slice) none else t

/-- A line with timestamps takes the retention priority of the page through which it is accessed (R111). -/
def State.markStream (s : State) (a : Attr) (line : Nat) : State :=
  if s.lines.any (fun t => t.line = line && t.stream ≠ (a.scp = 1)) then
    { s with lines := s.lines.map (fun (t : LineTs) => if t.line = line then { t with stream := a.scp = 1 } else t) }
  else s

/-- An access to a line at its home slice moves the line between DRAM and the package, and its island pays, when the line is not
in the system cache: a pinned line is, a line of a BYPASS page never, any other as a free value says (R111, R123, R155,
log 23). -/
def State.dramAccess (s : State) (a : Attr) (pa i : Nat) (task : Option Nat) : State :=
  if paTarget pa ≠ 0 || s.pinned (pa / 64) then s
  else if a.scp = 2 then s.memDebit i task
  else
    let t := State.markStream { s with freeCtr := s.freeCtr + 1 } a (pa / 64)
    if Config.cacheMiss s.freeCtr then (t.memDebit i task).evictFor (homeSlice a pa) else t

/-- The lease-table entry with the serially lowest rts; of several that share it, the model drops the one that stands first in the table:
R118 names none (DESIGN CHOICE, log 108). -/
def lowestLease : List Lease → Option Lease
  | [] => none
  | e :: r =>
    match lowestLease r with
    | some f => if serialLT f.rts e.rts then some f else some e
    | none => some e

/-- Clean words of a line become not VALID in every bight of a core (R118, R120). -/
def State.dropLine (s : State) (core line : Nat) : State :=
  s.clearCopiesOf core (s.at core (fun _ pa a => a.lease && pa / 64 = line))

/-- Record a line with its rts in a core's lease table of 256 entries (R118). -/
def State.leaseRecord (s : State) (core line : Nat) (rts : BitVec 32) : State :=
  let l := (s.core core).lease
  if l.any (fun e => e.line = line) then
    s.modCore core (fun c => { c with lease := c.lease.map (fun e => if e.line = line then ⟨line, rts⟩ else e) })
  else if l.length < 256 then s.modCore core (fun c => { c with lease := c.lease ++ [⟨line, rts⟩] })
  else
    match lowestLease l with
    | some e =>
      (s.dropLine core e.line).modCore core (fun c =>
        { c with lease := c.lease.filter (fun f => f.line ≠ e.line) ++ [⟨line, rts⟩] })
    | none => s

/-- The attributes that the home of a line goes by for an access without a translation: a cached translation of its page
if there is one, else the hashed home; a line with timestamps is a LEASE line (R112, R117, R119). -/
def State.hostAttr (s : State) (pa : Nat) : Attr :=
  let a := match s.tcache.find? (fun t => decide (entryPage t.entry.toNat ≤ pa) &&
      decide (pa < entryPage t.entry.toNat + 2 ^ t.bits)) with
    | some t => attrOf (bitsOf t.entry.toNat 64 24)
    | none => attrOf 1
  if s.lines.any (fun t => t.line = pa / 64) then { a with coh := 2, host := false } else a

/-! ## Writes at the home -/

/-- Who accesses a home: its core if any, the island that pays for DRAM transfers, and the task charged (R119, R155). -/
structure Who where
  core : Option Nat
  island : Nat
  task : Option Nat
  /-- the access begins a line: it counts as a write of its own and may pay for a transfer -/
  first : Bool
  /-- the host itself: no snoop tells it of its own write (R347) -/
  host : Bool := false
  deriving DecidableEq, Repr

/-- A core's access for a task. -/
def whoCore (core task : Nat) : Who := { core := some core, island := core, task := some task, first := true }
/-- A hawser peer, or the hub for the host: the port island pays (R155). -/
def whoPort : Who := { core := none, island := 194, task := none, first := true }
/-- The host. -/
def whoHost : Who := { whoPort with host := true }
/-- The rope engine and dispatcher: the dispatch island pays (R155). -/
def whoRope : Who := { core := none, island := 192, task := none, first := true }
/-- An engine of a core for a task. -/
def whoEng (core task : Nat) (first : Bool) : Who := { whoCore core task with first := first }

/-- A line of device memory that the host caches is back-invalidated before a device write to it performs: the snoop leaves, and the
host's answer, that the copy is gone, comes before anything else happens (R347, log 104). -/
def State.backInvalidate (s : State) (pa : Nat) : State :=
  if paTarget pa = 0 && s.hostCached.contains (pa / 64) then
    State.send { s with hostCached := s.hostCached.filter (fun l => l ≠ pa / 64) } (.backInvalidate (pa / 64))
  else s

/-- A write performs at the home of one line, ownership settled already: invalidations, timestamps, then the data under its
byte enables (R114, R119, R122, R125). Through a hawser window it performs at the peer's slice, with the peer's protocol. -/
def State.writeOwned (s : State) (w : Who) (own : Option EntId) (a : Attr) (pa : Nat) (l : List Span) : State :=
  if paHawser pa then s.writeData l
  else
    let s := s.invalidateFor own a pa l
    let s := if w.first then (s.stampWrite w.core a pa).dramAccess a pa w.island w.task else s
    (if w.host then s else s.backInvalidate pa).writeData l

/-- A captured word leaves the oldest write-back that carries it: a recall has written it (R108, R141). -/
def dropWbWord (core task va : Nat) : List GOp → List GOp
  | [] => []
  | o :: r =>
    match o.kind with
    | .wb n f ws g =>
      if o.core = core && o.task = task && ws.any (fun w => w.1 = va) then { o with kind := .wb n f (ws.filter (fun w => w.1 ≠ va)) g } :: r
      else o :: dropWbWord core task va r
    | _ => o :: dropWbWord core task va r

/-- The bight word of an owner is uncorrectable (R408). -/
def State.ownerPoison (s : State) (o : Owner) : Bool := o.cap.isNone && s.poisoned ⟨o.core, o.vault, 4 * o.w⟩

/-- The word's granule in DRAM is poisoned: what a recall brought back was uncorrectable (R408, log 109). -/
def State.poisonWord (s : State) (word : Nat) : State :=
  if s.poison.contains (word / 2) then s else { s with poison := s.poison ++ [word / 2] }

/-- A recall of ownership: the owner writes the word back, and the word stays VALID and clean; a captured word is written from its
capture (R141). The word of a poisoned granule makes its home's granule poisoned (log 109). -/
def State.recallOwner (s : State) (a : Attr) (o : Owner) : State :=
  let s1 := { s with owners := s.owners.filter (fun p => p ≠ o) }
  let s2 := match o.cap with
    | some v => { s1 with ops := dropWbWord o.core o.task v.1 s1.ops }
    | none => s1.modCore o.core (fun c => c.setSide o.vault o.w (.clean none))
  let t := s2.writeOwned (whoCore o.core o.task) (some ⟨o.core, o.task, o.n⟩) a (4 * o.word) [⟨4 * o.word, 4, o.bytes s⟩]
  if s.ownerPoison o then t.poisonWord o.word else t

/-- Recall the ownership of every word of n bytes whose owner satisfies a test, and of every captured one (R141). -/
def State.recallThose (s : State) (p : Owner → Bool) (a : Attr) (pa n : Nat) : State :=
  (s.owners.filter (fun o => decide (4 * o.word < pa + n) && decide (pa < 4 * o.word + 4) && (o.cap.isSome || p o))).foldl
    (fun s o => s.recallOwner a o) s

/-- The same for a read, which finds the errors of the n bytes (R408). -/
def State.recallIf (s : State) (p : Owner → Bool) (a : Attr) (pa n : Nat) : State := (s.recallThose p a pa n).findMem pa n

/-- Recall the ownership of every word of n bytes, but of one entry (R141). -/
def State.recallOwners (s : State) (keep : Option EntId) (a : Attr) (pa n : Nat) : State :=
  s.recallIf (fun o => keep ≠ some ⟨o.core, o.task, o.n⟩) a pa n

/-- Recall the ownership of every word of n bytes by another team: its own does not count as another agent (R141, R142). -/
def State.recallOthers (s : State) (core task : Nat) (a : Attr) (pa n : Nat) : State :=
  s.recallIf (fun o => !(o.core = core && o.task = task)) a pa n

/-- A span that does not belong to granules written whole reads the rest of its granule, and finds its errors (R408). -/
def State.findSpan (s : State) (l : List Span) (p : Span) : State := if coversGranule l (p.pa / 8) then s else s.findMem p.pa p.n

/-- A write at the home of one line (R114): ownership ends first. -/
def State.writeHome (s : State) (w : Who) (own : Option EntId) (a : Attr) (pa : Nat) (l : List Span) : State :=
  (l.foldl (fun s p => (s.recallThose (fun _ => true) a p.pa p.n).findSpan l p) s).writeOwned w own a pa l

/-- The home value of n bytes of one line for a reader without a copy: owned words are recalled (R114, R141). -/
def State.readHome (s : State) (w : Who) (a : Attr) (pa n : Nat) : Nat × State :=
  let s := s.recallOwners none a pa n
  (s.physRd pa n, if w.first then s.dramAccess a pa w.island w.task else s)

/-- The words of the tables that a walk reads are recalled from the bights that own them (R141, R355). -/
def State.recallTables (s : State) (asid : BitVec 16) (va : Nat) : State :=
  if (s.owners.isEmpty && s.errs.isEmpty) || !(s.asid asid).v || decide (2 ^ 48 ≤ va) then s
  else (walkPath s.tableMem va 3 ((s.asid asid).root.toNat * 8192)).foldl (fun s a => s.recallOwners none (s.hostAttr a) a 16) s

/-- A walk for an access that found its translation, unless a cache had it (R355). -/
def State.walked (s : State) (core : Nat) (asid : BitVec 16) (va : Nat) : State :=
  if (s.cached core asid va).isSome then s.cacheIn core asid va else (s.cacheIn core asid va).recallTables asid va

/-- A walk that found no translation has read its tables too, unless a cache had the entry (R141, R355). -/
def State.walkReads (s : State) (core : Nat) (asid : BitVec 16) (va : Nat) : State :=
  if (s.cached core asid va).isSome then s else s.recallTables asid va

/-- Write an ASID's entry. It stands in DRAM too, at the address that the monitor reports: a device write, of which a host that caches
the line is told (R347, R354, R390). -/
def State.setAsid (s : State) (a : BitVec 16) (e : AsidEnt) : State :=
  let s := { s with asids := SMap.set AsidEnt.none s.asids a.toNat e }
  match s.mon.table with
  | some t =>
    let addr := t + 16 * a.toNat
    let s := s.backInvalidate addr
    { s with dram := Memory.wrN s.dram addr e.word 16, poison := s.poison.filter (fun g => !coversGranule [⟨addr, 16, 0⟩] g) }
  | none => s

/-! ## Write-backs (R108) -/

/-- A dirty word of a bight: its store, its word, its entry, its value. -/
structure DirtyWord where
  vault : Bool
  w : Nat
  m : MapInfo
  v : BitVec 32
  deriving DecidableEq, Repr

/-- Dirty bight words of a core that satisfy a test. -/
def State.dirtyWords (s : State) (core : Nat) (p : MapInfo → Bool) : List DirtyWord :=
  let c := s.core core
  let of (v : Bool) : List DirtyWord :=
    (c.sides v).filterMap (fun e =>
      if e.2.dirty then
        match c.mapOf v e.1 with
        | some m => if p m then some ⟨v, e.1, m, BitVec.ofNat 32 (Memory.rdN (c.store v) (4 * e.1) 4)⟩ else none
        | none => none
      else none)
  of false ++ of true

/-- Group dirty words by entry and global line, one write for each (R108). -/
def groupWords : Nat → List DirtyWord → List (List DirtyWord)
  | 0, _ => []
  | _, [] => []
  | k + 1, d :: r =>
    let same (e : DirtyWord) : Bool := e.m.n = d.m.n && e.m.task = d.m.task && e.m.va / 64 = d.m.va / 64
    (d :: r.filter same) :: groupWords k (r.filter (fun e => !same e))

/-- Write back one group at once under a translation of its line; a group that does not translate, or whose module is fenced,
stays DIRTY (R413, log 22). -/
def State.writeGroup (s : State) (core : Nat) (x : MapInfo → Xlate) (g : List DirtyWord) : State :=
  match g with
  | [] => s
  | d :: _ =>
    match x d.m with
    | .ok pa a =>
      if s.fenced pa then s
      else
        let spans := g.map (fun e => Span.mk (pa / 64 * 64 + e.m.va % 64) 4 e.v.toNat)
        let s := { s with owners := s.owners.filter (fun o =>
          !(o.core = core && o.cap.isNone && g.any (fun e => o.vault = e.vault && o.w = e.w))) }
        let s := g.foldl (fun s e => s.modCore core (fun c => c.setSide e.vault e.w (.clean none))) s
        s.writeHome (whoCore core d.m.task) (some (d.m.ent core)) a pa spans
    | _ => s

/-- Write back at once every dirty word of a core that satisfies a test, under a translation, then make the words that satisfy
it not VALID; the words that could not be written back stay DIRTY (R108). -/
def State.recallUnder (s : State) (core : Nat) (x : State → MapInfo → Xlate) (p : MapInfo → Bool) : State :=
  let ds := s.dirtyWords core p
  ((groupWords ds.length ds).foldl (fun s g => s.writeGroup core (x s) g) s).clearCopiesOf core p

/-- The same under the translation of the moment (R115, R122). -/
def State.recallWords (s : State) (core : Nat) (p : MapInfo → Bool) : State :=
  s.recallUnder core (fun s m => s.mapXlate core m true) p

/-- The same in every core. -/
def State.recallAll (s : State) (p : Nat → MapInfo → Bool) : State :=
  s.cores.foldl (fun t c => t.recallWords c.1 (p c.1)) s

/-! ## The directory (R113, R115) -/

/-- Recall the entry of a slice that was registered least recently (R115). -/
def State.dirRecall (s : State) (slice : Nat) : State :=
  match s.dir.find? (fun d => d.slice = slice) with
  | none => s
  | some d =>
    let s1 := s.recallWords d.core (s.at d.core (fun m pa a =>
      a.dir && m.task = d.task && m.n = d.n && m.b.gen = d.gen && homeSlice a pa = slice))
    { s1 with dir := s1.dir.filter (fun e => e ≠ d) }

/-- Register a bight at a slice; with 2,048 entries in use the oldest is recalled first (R113, R115). -/
def State.register (s : State) (slice : Nat) (e : EntId) (gen : Nat) : State :=
  if s.registered slice e gen then s
  else
    let s := if 2048 ≤ (s.dir.filter (fun d => d.slice = slice)).length then s.dirRecall slice else s
    { s with dir := s.dir ++ [⟨slice, e.core, e.task, e.n, gen⟩] }

/-- DIR_RECALL (R115). -/
def execDirRecall (slice : Fin 64) (s : State) : Out := .next (s.dirRecall slice.val)

/-! ## The Wonus log (R277, R423) -/

/-- Records that the ring holds. -/
def Mgmt.ringUsed (m : Mgmt) : Nat := (m.wtail - m.whead).toNat

/-- The ring is full (R423). -/
def Mgmt.ringFull (m : Mgmt) : Bool := decide (2 ^ m.wlog.toNat ≤ m.ringUsed)

/-- The 16 bytes of a record (R423). -/
def WonusRec.word (r : WonusRec) : Nat :=
  r.typ.toNat + r.src.toNat * 2 ^ 4 + r.task.toNat * 2 ^ 12 + r.seq.toNat * 2 ^ 32 + r.data.toNat * 2 ^ 64

/-- Write the oldest waiting record when the ring has space: a write at its home, which the port island pays, and then WTAIL counts it
(R423, log 111). -/
def State.wonusWrite (s : State) : State :=
  match s.wonus with
  | [] => s
  | r :: rest =>
    if s.mgmt.ringFull then s
    else
      let pa := s.mgmt.wbase.toNat * 64 + 16 * (s.mgmt.wtail.toNat % 2 ^ s.mgmt.wlog.toNat)
      let t := s.writeHome whoPort none (s.hostAttr pa) pa [⟨pa, 16, r.word⟩]
      { t with wonus := rest, mgmt := { t.mgmt with wtail := t.mgmt.wtail + 1 } }

/-- Write waiting records while there is space. -/
def State.wonusDrain (s : State) : Nat → State
  | 0 => s
  | n + 1 => State.wonusDrain s.wonusWrite n

/-- WONUS_RECORD_WRITE (R423). -/
def execWonusRecordWrite (s : State) : Out := .next s.wonusWrite

/-- SRC of a record of a context: partition and slot (R423). -/
def ctxSrc (x : CtxNo) : Nat := 4 * ctxPart x + ctxSlot x

/-- The task's rope is recorded (R423). -/
def State.recorded (s : State) (task : Nat) : Bool :=
  match s.task? task with
  | some t => s.mgmt.wrec.getLsbD t.rope.val
  | none => false

/-- The resident task slot of a task (R383, R423). -/
def State.slotOf (s : State) (task : Nat) : Nat := ((s.task? task).map (·.slot)).getD 0

/-- Log a record of a task, when it is recorded. -/
def State.wonusLog (s : State) (task : Nat) (typ src : Nat) (seq : Nat) (data : Word) : State :=
  if s.recorded task then
    let t := { s with wonus := s.wonus ++
      [(⟨BitVec.ofNat 4 typ, BitVec.ofNat 8 src, BitVec.ofNat 20 (s.slotOf task), BitVec.ofNat 32 seq, data⟩ : WonusRec)] }
    State.wonusDrain t t.wonus.length
  else s

/-- Log an operation's place in its slice's modification order (R277). -/
def State.logHome (s : State) (task slice : Nat) (data : Word) : State :=
  s.wonusLog task 1 slice (SMap.get 0 s.modSeq slice) data

/-- Log the value of n bytes that a recorded task reads from the host's memory, word by word (R423). -/
def State.logHostRead (s : State) (task : Nat) (a : Attr) (pa n v : Nat) : State :=
  if a.host && !paHawser pa then
    let slice := homeSlice a pa
    (List.range ((n + 7) / 8)).foldl (fun t k =>
      t.wonusLog task 2 slice (SMap.get 0 t.modSeq slice) (BitVec.ofNat 64 (bitsOf v (64 * k) 64))) s
  else s

/-- A recorded operation must wait at its home: the ring is full (R423). -/
def State.wonusWaits (s : State) (task : Nat) : Bool := s.recorded task && (s.mgmt.ringFull || !s.wonus.isEmpty)

/-! ## The host and the timestamps of the hub -/

/-- A snoop that invalidates a HOST-bias line writes back its dirty words and clears VALID on it in every bight (R122). -/
def State.snoopLine (s : State) (pa : Nat) : State :=
  s.recallAll (fun k => s.at k (fun _ q a => a.host && q / 64 = pa / 64))


/-- Spans of a list of bytes, one for each byte. -/
def byteSpans (pa : Nat) : List Byte → List Span
  | [] => []
  | b :: r => ⟨pa, 1, b.toNat⟩ :: byteSpans (pa + 1) r

/-- The slices of this module that k lines from one on go to, for an access without a translation (R112, R156). -/
def State.lineSlices (s : State) (line : Nat) : Nat → List Nat
  | 0 => []
  | k + 1 => homeSlice (s.hostAttr (64 * line)) (64 * line) :: s.lineSlices (line + 1) k

/-- An access of the host or of a peer to n bytes: while a slice that it asks has to wait, or earlier ones wait, it comes again in the
next hub cycle (R156). -/
def State.atSlices (s : State) (pa n : Nat) (i : HostAcc) (f : State → State) : State :=
  let l := s.lineSlices (pa / 64) ((pa % 64 + n + 63) / 64)
  if !s.waits.isEmpty || l.any s.sliceBusy then { s with waits := s.waits ++ [i] } else f (l.foldl State.serve s)

/-- HOST_SNOOP: the line is written back and dropped, and then the host write that caused the snoop performs, in host memory or
in device memory, where it counts at its slice; its bytes stay within the line (R122, R133). -/
def execHostSnoop (pa : Nat) (data : List Byte) (s : State) : Out :=
  let l := byteSpans pa (data.take (64 - pa % 64))
  .next (if paTarget pa = 0 then
      s.atSlices (64 * (pa / 64)) 64 (.snoop pa data) (fun s =>
        let s := s.snoopLine pa
        (((s.stampWrite none (s.hostAttr pa) pa)).dramAccess (s.hostAttr pa) pa 194 none).writeData l)
    else if paTarget pa = 8 then (s.snoopLine pa).writeData l
    else s.snoopLine pa)

/-- Snoop every line of a range of HOST-bias device memory that the host writes (R122). -/
def State.snoopRange (s : State) (line : Nat) : Nat → State
  | 0 => s
  | k + 1 => (s.snoopLine (64 * line)).snoopRange (line + 1) k

/-- Write spans line by line. -/
def State.writeLines (s : State) (w : Who) (a : Attr) : Nat → List Span → State
  | 0, _ => s
  | _, [] => s
  | k + 1, p :: r =>
    let same (q : Span) : Bool := q.pa / 64 = p.pa / 64
    State.writeLines (State.writeHome s w none a p.pa (p :: r.filter same)) w a k (r.filter (fun q => !same q))

/-- The range lies in the host-managed device memory (R347). -/
def hdmOk (pa n : Nat) : Bool := decide (pa + n ≤ dramSize)

/-- HOST_MEM_WRITE: a host write through CXL.mem performs at the home slice; the host is outside the bights, so every
registered copy of the words written is invalidated; on HOST-bias lines the dirty words of the bights go first (R114, R122,
R144, R347). -/
def execHostMemWrite (pa : Nat) (data : List Byte) (s : State) : Out :=
  if hdmOk pa data.length then
    .next (s.atSlices pa data.length (.write pa data) (fun s =>
      let s := if (s.hostAttr pa).host then s.snoopRange (pa / 64) ((pa % 64 + data.length + 63) / 64) else s
      s.writeLines whoHost (s.hostAttr pa) data.length (byteSpans pa data)))
  else .fault .noSuchAddress

/-- The lines of a host read, each debited and then tracked as cached by the host: k lines from one on (R155, R347). -/
def State.trackLines (s : State) (line : Nat) : Nat → State
  | 0 => s
  | k + 1 =>
    let t := s.dramAccess (s.hostAttr (64 * line)) (64 * line) 194 none
    State.trackLines { t with hostCached := if t.hostCached.contains line then t.hostCached else t.hostCached ++ [line] } (line + 1) k

/-- A host read's data leaves, and the device tracks its lines (R347). -/
def State.readLines (s : State) (pa n : Nat) : State :=
  (s.send (.hostRead pa (natBytes (s.physRd pa n) n))).trackLines (pa / 64) ((pa % 64 + n + 63) / 64)

/-- HOST_MEM_READ: the home value goes to the host, which may then cache the line (R141, R347). -/
def execHostMemRead (pa n : Nat) (s : State) : Out :=
  if hdmOk pa n then
    .next (s.atSlices pa n (.read pa n) (fun s => (s.recallOwners none (s.hostAttr pa) pa n).readLines pa n))
  else .fault .noSuchAddress

/-- The largest of the 128 cores' clocks in the serial order. -/
def State.maxPts (s : State) : BitVec 32 := (List.range 128).foldl (fun p k => serialMax p (s.core k).pts) (s.core 0).pts

/-- LEASE_TICK: pts := SerialMax(pts + 1, DLT - 2^20) in every core, DLT being the largest pts of the previous tick (R116). -/
def execLeaseTick (s : State) : Out :=
  let dlt := s.maxPts
  .next ((List.range 128).foldl (fun s c =>
    s.modCore c (fun k => { k with pts := serialMax (k.pts + 1) (dlt - 0x100000) })) { s with dlt := dlt })

/-- Rebase one core's lease table (R120). -/
def State.rebaseCore (s : State) (core : Nat) (lo : BitVec 32) : State :=
  let old := (s.core core).lease.filter (fun e => serialLT e.rts lo)
  (old.foldl (fun s e => s.dropLine core e.line) s).modCore core (fun c =>
    { c with lease := c.lease.filter (fun e => !serialLT e.rts lo) })

/-- REBASE_SWEEP raises old timestamps, EVT and SWC, and drops old lease entries (R120, R133). -/
def execRebaseSweep (s : State) : Out :=
  let lo := s.dlt - 0x40000000
  let raise (m : SMap (BitVec 32)) : SMap (BitVec 32) :=
    (List.range 64).foldl (fun m k => if serialLT (SMap.get 0 m k) lo then SMap.set 0 m k lo else m) m
  let s := { s with
    lines := s.lines.map (fun (t : LineTs) => if serialLT t.rts lo then { t with rts := lo, wts := lo } else t)
    evt := raise s.evt, swc := raise s.swc }
  .next (s.cores.foldl (fun s c => s.rebaseCore c.1 lo) s)

/-- OWNERSHIP_RECALL: another agent's access to an owned word (R141). -/
def execOwnershipRecall (pa : Nat) (s : State) : Out := .next (s.recallOwners none (s.hostAttr pa) pa 4)

end Sys2Proof.Machine
end

