-- ==== Sys2Proof/Machine/Splice.lean ====
section
/-! DEFINITION. Splice routines: their validation, installation and run at a line's home (R287 to R291). -/

namespace Sys2Proof.Machine

/-- Word i of a 64-byte value (R288). -/
def word16 (v : BitVec 512) (i : Nat) : Lane32 := v.extractLsb' (32 * (i % 16)) 32

/-- The image of words 0 to n - 1. -/
def words16Nat (f : Nat → Lane32) : Nat → Nat
  | 0 => 0
  | n + 1 => words16Nat f n + (f n).toNat * 2 ^ (32 * n)

/-- The value whose word i is f i. -/
def words16 (f : Nat → Lane32) : BitVec 512 := BitVec.ofNat 512 (words16Nat f 16)

/-- The values of a routine: L, O, T0 to T3, W by code, and the flags NV OF UF NX V C (R288). -/
structure SplState where
  r : Vector (BitVec 512) 7
  flags : BitVec 6
  deriving DecidableEq, Repr

/-- Fields of an op word (R288). -/
structure SplOp where
  sop : Nat
  d : Nat
  a : Nat
  b : Nat
  c : Nat
  imm : BitVec 15
  deriving DecidableEq, Repr

/-- The fields of a word. -/
def splOp (w : Lane32) : SplOp :=
  let v := w.toNat
  ⟨bitsOf v 27 5, bitsOf v 24 3, bitsOf v 21 3, bitsOf v 18 3, bitsOf v 15 3, BitVec.ofNat 15 v⟩

/-- Word i of a source; code 7 is the broadcast immediate (R288). -/
def SplState.src (t : SplState) (o : SplOp) (code i : Nat) : Lane32 :=
  if h : code < 7 then word16 t.r[code] i else o.imm.signExtend 32

/-- A word with the flags it sets. -/
structure SplWord where
  v : Lane32
  f : BitVec 6
  deriving DecidableEq, Repr

/-- A word without flags. -/
def plainWord (v : Lane32) : SplWord := ⟨v, 0⟩

/-- All ones or zero (R288). -/
def maskWord (b : Bool) : SplWord := ⟨if b then 0xFFFFFFFF else 0, 0⟩

/-- V and C of a sum or difference (R288). -/
def vcFlags (v c : Bool) : BitVec 6 := BitVec.ofNat 6 (b2n v * 2 ^ 4 + b2n c * 2 ^ 5)

/-- A signed 32-bit integer is out of range. -/
def ovf32 (i : Int) : Bool := decide (i < -2147483648) || decide (2147483647 < i)

/-- Word i of the destination (R288). -/
def SplState.word (t : SplState) (o : SplOp) (i : Nat) : SplWord :=
  let a := t.src o o.a i
  let b := t.src o o.b i
  let c := t.src o o.c i
  match o.sop with
  | 0x01 => ⟨a + b, vcFlags (ovf32 (a.toInt + b.toInt)) (decide (2 ^ 32 ≤ a.toNat + b.toNat))⟩
  | 0x02 => ⟨a - b, vcFlags (ovf32 (a.toInt - b.toInt)) (decide (a.toNat < b.toNat))⟩
  | 0x03 => plainWord (if b.slt a then b else a)
  | 0x04 => plainWord (if a.slt b then b else a)
  | 0x05 => plainWord (if b.ult a then b else a)
  | 0x06 => plainWord (if a.ult b then b else a)
  | 0x07 => plainWord (a &&& b)
  | 0x08 => plainWord (a ||| b)
  | 0x09 => plainWord (a ^^^ b)
  | 0x0A => plainWord (a &&& ~~~b)
  | 0x0B => plainWord (laneSll a b.toNat)
  | 0x0C => plainWord (laneSrl a b.toNat)
  | 0x0D => plainWord (laneSra a b.toNat)
  | 0x0E => maskWord (a = b)
  | 0x0F => maskWord (a.slt b)
  | 0x10 => maskWord (a.ult b)
  | 0x11 => plainWord ((a &&& c) ||| (b &&& ~~~c))
  | 0x12 =>
    let z := fp32AddR a.toNat b.toNat
    ⟨BitVec.ofNat 32 z.code, (z.flags &&& 0xF).setWidth 6⟩
  | 0x13 => plainWord (fselCode false false a b)
  | 0x14 => plainWord (fselCode false true a b)
  | 0x15 => plainWord (t.src o o.a ((i + 16 - o.imm.toNat % 16) % 16))
  | 0x16 => plainWord (t.src o o.a (b.toNat % 16))
  | 0x17 => plainWord (t.src o o.a (o.imm.toNat % 16))
  | _ => plainWord 0

/-- The flags of words 0 to n - 1. -/
def SplState.opFlags (t : SplState) (o : SplOp) : Nat → BitVec 6
  | 0 => 0
  | n + 1 => t.opFlags o n ||| (t.word o n).f

/-- One op: every word from the values before it (R288). -/
def SplState.run1 (t : SplState) (o : SplOp) : SplState :=
  ⟨if h : o.d < 7 then t.r.set o.d (words16 (fun i => (t.word o i).v)) else t.r, t.flags ||| t.opFlags o 16⟩

/-- The ops of a body from word i on, up to the first end (R289). -/
def SplState.run (t : SplState) (body : BitVec 512) : Nat → Nat → SplState
  | 0, _ => t
  | k + 1, i =>
    let o := splOp (word16 body i)
    if o.sop = 0 then t else (t.run1 o).run body k (i + 1)

/-- A routine on a line and an operand: the new L, W and the flags (R289). -/
def runRoutine (body x o : BitVec 512) : SplState :=
  SplState.run ⟨#v[x, o, 0, 0, 0, 0, x], 0⟩ body 16 0

/-! ## Installation (R289, R291) -/

/-- Sources that an op uses: A, B, C. -/
def sopUses (sop : Nat) : Bool × Bool × Bool :=
  if sop = 0 then (false, false, false)
  else if sop = 0x11 then (true, true, true)
  else if sop = 0x15 || sop = 0x17 then (true, false, false)
  else (true, true, false)

/-- An op word breaks R289. -/
def splOpBad (o : SplOp) : Bool :=
  let u := sopUses o.sop
  let rot := o.sop = 0x15 || o.sop = 0x17
  decide (0x17 < o.sop) || o.d = 7 || (!u.1 && o.a ≠ 0) || (!u.2.1 && o.b ≠ 0) || (!u.2.2 && o.c ≠ 0) ||
    (o.imm ≠ 0 && !((u.1 && o.a = 7) || (u.2.1 && o.b = 7) || (u.2.2 && o.c = 7) || rot)) ||
    (rot && o.imm.toNat / 16 ≠ 0)

/-- The words of a body from word i on break R289; `ended` says that an end came before. -/
def splBad (body : BitVec 512) : Nat → Nat → Bool → Bool
  | 0, _, _ => false
  | k + 1, i, ended =>
    let w := word16 body i
    if ended then w ≠ 0 || splBad body k (i + 1) true
    else splOpBad (splOp w) || splBad body k (i + 1) ((splOp w).sop = 0)

/-- The index that a number maps to in an ASID (R287). -/
def State.rmapOf (s : State) (asid : BitVec 16) (n : Nat) : Option Nat :=
  (s.rmap.find? (fun e => e.1 = asid.toNat * 256 + n)).map (·.2)

/-- The lowest index that no number maps to, from k on. -/
def State.freeIndex (s : State) : Nat → Nat → Option Nat
  | 0, _ => none
  | f + 1, k => if s.rmap.any (fun e => e.2 = k) then s.freeIndex f (k + 1) else some k

/-- Extend a measurement register (R387). -/
def State.extend (s : State) (n : Fin 8) (d : BitVec 256) : State :=
  { s with mon := { s.mon with
      pmr := s.mon.pmr.set n.val (Config.sm3 (natBytes s.mon.pmr[n.val].toNat 32 ++ natBytes d.toNat 32)) } }

/-- An installation in an ASID: its status, and the state after it (R287, R291, R387). -/
def State.install (s : State) (asid : BitVec 16) (n : Nat) (body : BitVec 512) : Nat × State :=
  if !(s.asid asid).splok then (4, s)
  else if splBad body 16 0 false then (1, s)
  else if (s.rmapOf asid n).isSome then (3, s)
  else
    match s.freeIndex 64 0 with
    | none => (2, s)
    | some k =>
      (0, State.extend { s with
        rmap := s.rmap ++ [(asid.toNat * 256 + n, k)], routines := SMap.set 0 s.routines k body }
        5 (Config.sm3 (natBytes body.toNat 64)))

/-- A removal: its status, and the state after it (R291). -/
def State.unmapRoutine (s : State) (asid : BitVec 16) (n : Nat) : Nat × State :=
  if (s.rmapOf asid n).isSome then
    (0, { s with rmap := s.rmap.filter (fun e => e.1 ≠ asid.toNat * 256 + n) })
  else (5, s)

/-- The response word of spl.call (R290). -/
def splResponse (status : Nat) (f : BitVec 6) : Word := BitVec.ofNat 64 (status + f.toNat * 2 ^ 8)

/-- The spans of the words of a line that a routine changed (R289). -/
def changedWords (pa : Nat) (old new : BitVec 512) : List Span :=
  (List.range 16).filterMap (fun i =>
    if word16 old i = word16 new i then none else some ⟨pa + 4 * i, 4, (word16 new i).toNat⟩)

end Sys2Proof.Machine
end

