-- ==== Sys2Proof/Machine/HomeOps.lean ====
section
/-! DEFINITION. Global operations perform: fills, write-backs, atomics, SC operations, knots, splices, pins and variant
registrations, with their results and deferred faults (R106 to R110, R123, R125, R135 to R142, R163, R274 to R295). -/

namespace Sys2Proof.Machine

/-! ## Results and deferred faults -/

/-- The value of an operation reaches its result (R274). -/
def Flight.give (f : Flight) (id : Nat) (v : Word) (fl : BitVec 5) : Flight :=
  if f.src = .hub id then { f with value := some (ofWord v), flags := fl } else f

/-- Keep some pending results of a context. -/
def Ctx.keepFlights (c : Ctx) (p : Flight → Bool) : Ctx :=
  { c with flight := c.flight.filter p, held := c.held.filter p, heldU := c.heldU.filter p }

/-- The value of operation id reaches context x. -/
def State.deliver (s : State) (x : CtxNo) (id : Nat) (v : Word) (fl : BitVec 5) : State :=
  s.modCtx x (fun c => c.mapFlights (fun f => f.give id v fl))

/-- W of a splice reaches the landing buffer, or is dropped (R290). -/
def State.deliverW (s : State) (x : CtxNo) (id : Nat) (w : Option (BitVec 512)) : State :=
  let mine (f : Flight) : Bool := match f.src with
    | .wout k _ => k = id
    | _ => false
  match w with
  | some v => s.modCtx x (fun c => c.mapFlights (fun f => if mine f then { f with value := some (v.setWidth 1024) } else f))
  | none => s.modCtx x (fun c => c.keepFlights (fun f => !mine f))

/-- A deferred fault is reported to a context (R275). -/
def State.report (s : State) (x : CtxNo) (cls cause : BitVec 8) (a : Nat) (orig : Word) : State :=
  s.modCtx x (fun c => { c with deferred := c.deferred ++ [⟨cls, cause, BitVec.ofNat 64 a, orig⟩] })

/-- The operation has performed or ended. -/
def State.doneOp (s : State) (id : Nat) : State := { s with ops := s.ops.filter (fun o => o.id ≠ id) }

/-- An operation with a number. -/
def State.op? (s : State) (id : Nat) : Option GOp := s.ops.find? (fun o => o.id = id)

/-- Replace one operation. -/
def State.modOp (s : State) (id : Nat) (f : GOp → GOp) : State :=
  { s with ops := s.ops.map (fun o => if o.id = id then f o else o) }

/-- An operation ends with a deferred fault and no effect: its destination lands as 0 (R275). -/
def State.failOp (s : State) (o : GOp) (cause : BitVec 8) : State :=
  ((((s.doneOp o.id).deliver o.x o.id 0 0).deliverW o.x o.id none)).report o.x tMEM cause o.va o.orig

/-! ## Translation of an operation -/

/-- What the translation of an operation gives. -/
inductive OpX where
  | ok (pa : Nat) (a : Attr) (s : State)
  | wait (s : State)
  | bad (s : State)

/-- A request is for this page and permission. -/
def AtsReq.is (q : AtsReq) (asid : BitVec 16) (page : Nat) (w : Bool) : Bool := q.asid = asid && q.page = page && q.w = w

/-- The host has been asked for a page, or its answer became a fault that is outstanding (R359, R360). -/
def State.atsOut (s : State) (asid : BitVec 16) (va : Nat) (w : Bool) : Bool :=
  s.ats.any (fun q => q.is asid (va / 4096) w) || s.prgs.any (fun p => p.2.is asid (va / 4096) w) || (s.fidOn asid va w).isSome

/-- The host untranslated address of the 4 KiB page of an address under an ATS leaf (R352, R359). -/
def State.atsAddr (s : State) (asid : BitVec 16) (va : Nat) : Nat :=
  match s.walk asid va with
  | .ats e l => entryPage e % 2 ^ 52 + va % pageSize l / 4096 * 4096
  | _ => va / 4096 * 4096

/-- Ask the host for a translation, once for each page and permission (R359). -/
def State.askAts (s : State) (asid : BitVec 16) (va : Nat) (w : Bool) (claim : BitVec 8) (core : Nat) : State :=
  if s.atsOut asid va w then s
  else State.send { s with ats := s.ats ++ [⟨asid, va / 4096, w, claim, core⟩] }
    (.atsRequest (s.asid asid).pasid (s.atsAddr asid va) w)

/-- Translate for an operation: it waits on its fault identifier, on the host or on maintenance, or has its permanent outcome (R275,
R357, R359, R363, R366). -/
def State.opXlate (s : State) (o : GOp) (w : Bool) (src : BitVec 3) : OpX :=
  if o.perm then .bad s
  else if o.fid.isSome then .wait s
  else
    match s.xlate o.core o.asid o.va w with
    | .ok pa a => .ok pa a (s.walked o.core o.asid o.va)
    | .hold => .wait s
    | .ats =>
      let s := s.walkReads o.core o.asid o.va
      match s.fidOn o.asid o.va w with
      | some f => .wait (s.modOp o.id (fun p => { p with fid := some f.fid }))
      | none => .wait (s.askAts o.asid o.va w (s.claimOf o.task) o.core)
    | .fault k =>
      match (s.walkReads o.core o.asid o.va).faultAt k o.asid o.va w (s.claimOf o.task) src o.core with
      | (.wait f, t) => .wait (t.modOp o.id (fun p => { p with fid := some f }))
      | (.full, t) => .wait t
      | (.perm, t) => .bad t

/-- A fill waits on a translation fault: on its identifier, or for a free one (R262, R357). -/
def State.fillFaulted (s : State) (o : GOp) : Bool :=
  o.fid.isSome || (decide (4096 ≤ s.fids.length) && match s.xlate o.core o.asid o.va false with
    | .fault k => !kindFinal k && s.routeOf (s.claimOf o.task) ≠ 0
    | _ => false)

/-! ## Accesses of the hub and the supervisors (R357, R359) -/

/-- What the translation of such an access gives. -/
inductive HubX where
  | ok (pa : Nat) (a : Attr) (s : State)
  | wait (s : State)
  | bad (s : State)

/-- The access is this one. -/
def HubWait.is (h : HubWait) (who : HubWho) (asid : BitVec 16) (va : Nat) (w : Bool) : Bool :=
  h.who = who && h.asid = asid && h.va = va && h.w = w

/-- The access waits on its fault, or on what the host was asked. -/
def State.hubWaiting (s : State) (h : HubWait) : Bool :=
  match h.fid with
  | some n => s.fids.any (fun f => f.fid = n)
  | none => s.atsOut h.asid h.va h.w

/-- A slice whose island's HOLD is 0 or less served a request in the hub cycle before: the reads that one step of the hub's units makes in
one cycle count as one request (R156, log 112). -/
def State.sliceJustServed (s : State) (slice : Nat) : Bool :=
  decide ((s.island (128 + slice)).hold ≤ 0) && decide (0 < s.now) && decide (SMap.get 0 s.served slice = s.now)

/-- An access of the hub's units reaches its home slice, if the address has one here (R112, R156). -/
def State.atHomeSlice (s : State) (pa : Nat) (a : Attr) : Bool × State :=
  if paHawser pa then (true, s)
  else if s.sliceJustServed (homeSlice a pa) then (false, s)
  else (true, s.serve (homeSlice a pa))

/-- Translate for an access of the rope engine, the dispatcher or a supervisor: one that waits goes on only when its fault is answered,
and ends when the answer was PERMANENT; a slow slice makes it try again (R16, R156, R357, R359). -/
def State.hubAccess (s : State) (who : HubWho) (core : Nat) (asid : BitVec 16) (va : Nat) (w : Bool) (claim : BitVec 8) (src : BitVec 3)
    (fcore : Nat) : HubX :=
  let old := s.hubWaits.find? (fun h => h.is who asid va w)
  let s := { s with hubWaits := s.hubWaits.filter (fun h => !(h.is who asid va w)) }
  let wait (t : State) (fid : Option Nat) : HubX := .wait { t with hubWaits := t.hubWaits ++ [⟨who, asid, va, w, fid, false⟩] }
  if old.any (·.perm) then .bad s
  else if old.any s.hubWaiting then wait s (old.bind (·.fid))
  else
    match s.xlate core asid va w with
    | .ok pa a =>
      match s.atHomeSlice pa a with
      | (true, s) => .ok pa a (s.walked core asid va)
      | (false, s) => .wait s
    | .hold => .wait s
    | .ats => wait ((s.walkReads core asid va).askAts asid va w claim fcore) none
    | .fault k =>
      match (s.walkReads core asid va).faultAt k asid va w claim src fcore with
      | (.wait n, t) => wait t (some n)
      | (.full, t) => .wait t
      | (.perm, t) => .bad t

/-- Accesses of a task that is no more wait for nothing. -/
def State.forgetTask (s : State) (task : Nat) : State := { s with hubWaits := s.hubWaits.filter (fun h => h.who ≠ .task task) }

/-- Accesses for the records of a rope that is OFF wait for nothing. -/
def State.forgetRope (s : State) (r : Nat) : State :=
  { s with hubWaits := s.hubWaits.filter (fun h => match h.who with
    | .rope q _ => q ≠ r
    | .task _ => true
    | .monitor => true) }

/-- Nothing that the operation must follow is outstanding (R128, R130, R132). -/
def State.opFree (s : State) (o : GOp) : Bool := s.clearOf o.x o.after

/-! ## Fills (R106, R109, R110) -/

/-- The entry of an operation's team. -/
def State.entryOf (s : State) (core task n : Nat) : Option (Team × Bight) :=
  match (s.core core).team? task with
  | none => none
  | some t =>
    let b := SMap.get Bight.none t.bights n
    if b.v then some (t, b) else none

/-- Words of an entry whose global address lies in a line. -/
def Bight.lineWords (b : Bight) (line : Nat) : List Nat :=
  (List.range 16).filterMap (fun k => b.wordAt (line + 4 * k))

/-- Give every word of the entry in the line that is not VALID its value (R106). -/
def State.fillWord (s : State) (core : Nat) (t : Team) (b : Bight) (lease : Option Nat) (line v k : Nat) : State :=
  match b.wordAt (line + 4 * k) with
  | none => s
  | some i =>
    let w := t.bightBase b + i
    let e := (s.core core).side b.space w
    if e.valid || e.dirty then s
    else s.modCore core (fun c =>
      (c.setStore b.space (Memory.wrN (c.store b.space) (4 * w) (bitsOf v (32 * k) 32) 4)).setSide b.space w
        (.clean lease))

/-- Every context with a pending access visits its memory port. -/
def State.pollAll (s : State) : State := s.ctxs.foldl (fun s c => s.pollCtx (ctxOf c.1)) s

/-- A pending access waits on the fill of a line for an entry. -/
def State.waitsOnLine (s : State) (core task n line : Nat) (l : Loc × Nat) : Bool :=
  l.1.core = core && (wordsOf l.1.off l.2).any (fun w =>
    !s.usable core l.1.vault w &&
      match (s.core core).mapOf l.1.vault w with
      | some m => m.task = task && m.n = n && m.va / 64 * 64 = line
      | none => false)

/-- The global address of the first word that such an access waits for. -/
def State.waitVa (s : State) (line : Nat) (ls : List (Loc × Nat)) : Nat :=
  (ls.findSome? (fun l => (wordsOf l.1.off l.2).findSome? (fun w =>
    match (s.core l.1.core).mapOf l.1.vault w with
    | some m => if m.va / 64 * 64 = line then some m.va else none
    | none => none))).getD line

/-- A load or merge store that waits on a failed fill lands as 0 and reports (R110); one that a frozen save records to be issued
again walks again then (R374). -/
def State.failFlights (s : State) (x : CtxNo) (core task n line : Nat) (cause : BitVec 8) : State :=
  let c := s.ctx x
  let kept := match s.teamOf x with
    | some t => t.saving && ((s.part (ctxPartNo x)).frozen || c.st = .trapped)
    | none => false
  let hit (f : Flight) : Bool := f.pending && !kept && s.clearOf x (match f.src with
      | .mem _ _ _ _ a => a
      | .merge _ _ _ a => a
      | _ => []) && f.locs.any (s.waitsOnLine core task n line)
  let bad := c.allFlights.filter hit
  let badSt := c.stq.filter (fun p => !kept && s.clearOf x p.after && decide (p.n < 4) && p.locs.any (s.waitsOnLine core task n line))
  let s1 := s.modCtx x (fun c =>
    { c.mapFlights (fun f => if hit f then { f with value := some 0 } else f) with
      stq := c.stq.filter (fun p => !badSt.contains p) })
  let s2 := bad.foldl (fun t f => t.report x tMEM cause (s.waitVa line f.locs) f.orig) s1
  badSt.foldl (fun t p => t.report x tMEM cause (s.waitVa line p.locs) p.orig) s2

/-- Engines of a core that wait on fill id: nothing on success, else the failure code 4 XLATE or 5 POISON (R110). -/
def Core.tellEngines (id : Nat) (bad : Option Nat) (c : Core) : Core :=
  let cmd (k : CopyCmd) : CopyCmd := if k.fill = some id then { k with fill := .none, bad := bad } else k
  { c with
    mtx := { c.mtx with run := c.mtx.run.map (fun r =>
      if r.fill = some id then { r with fill := .none, bad := bad }
      else if r.lfill = some id then { r with lfill := .none, lbad := bad } else r) }
    eng0 := c.eng0.map cmd, eng1 := c.eng1.map cmd
    hal := if c.hal.fill = some id then { c.hal with fill := .none, failed := bad.isSome } else c.hal }

/-- The engines of every core that wait on fill id: a command may wait on a word of another core (R110, R263). -/
def State.tellEngines (s : State) (id : Nat) (bad : Option Nat) : State :=
  s.cores.foldl (fun t e => t.modCore e.1 (Core.tellEngines id bad)) s

/-- A fill ends permanently: its words stay not VALID, and its readers are told (R110). -/
def State.failFill (s : State) (o : GOp) (n : Nat) (cause : BitVec 8) : State :=
  let s1 := s.ctxs.foldl (fun t c => t.failFlights (ctxOf c.1) o.core o.task n o.va cause) s
  (s1.doneOp o.id).tellEngines o.id (some (if cause = mPOISON then 5 else 4))

/-- Lease length of a fill: LT of the bight, or the page's LTICKS (R118). -/
def leaseLen (b : Bight) (a : Attr) : BitVec 32 := BitVec.ofNat 32 (if b.lt = 0 then a.lticks else b.lt.toNat)

/-- Copies of a line that have expired count as not VALID, so the renewed entry of the line must not revive them: they go
before it is recorded (R106, R118, R120, log 79). -/
def State.dropExpired (s : State) (core line : Nat) : State :=
  if (s.core core).leaseCurrent line then s
  else s.modCore core (fun c => c.clearTest (s.at core (fun _ pa a => a.lease && pa / 64 = line)))

/-- What a fill does at its home before its data returns: registration (R113) or lease (R118); a recorded task logs the host
values and the timestamps that it read (R423). -/
def State.fillHome (s : State) (o : GOp) (n : Nat) (b : Bight) (pa : Nat) (a : Attr) (v : Nat) : State :=
  let slice := homeSlice a pa
  if paHawser pa then s
  else if a.host then s.logHostRead o.task a pa 64 v
  else if a.dir then s.register slice ⟨o.core, o.task, n⟩ b.gen
  else if a.lease then
    let r := s.leaseRead o.core slice (pa / 64) (leaseLen b a)
    (State.leaseRecord (r.2.dropExpired o.core (pa / 64)) o.core (pa / 64) r.1).wonusLog o.task 3 slice (SMap.get 0 r.2.modSeq slice) (r.1.setWidth 64)
  else s

/-- A fill of a LEASE line through a hawser window: the peer's slice grants the lease, and its timestamps come back with the data
(R118, R125, log 19). -/
def State.peerLease (s : State) (o : GOp) (a : Attr) (pa : Nat) : State :=
  if paHawser pa && a.lease then
    let s := { s with freeCtr := s.freeCtr + 2 }
    let s := s.raisePts o.core (Config.peerClock (s.freeCtr - 2))
    (s.dropExpired o.core (pa / 64)).leaseRecord o.core (pa / 64) (Config.peerClock (s.freeCtr - 1))
  else s

/-- The words of a filled line that an invalidation or an expiry met while the fill was in flight stay not VALID: its data served
the accesses that waited, and no other (R109). -/
def State.dropWords (s : State) (core : Nat) (t : Team) (b : Bight) (line : Nat) (drop : List Nat) : State :=
  let ws := drop.filterMap (fun k => (b.wordAt (line + 4 * k)).map (fun i => t.bightBase b + i))
  s.modCore core (fun c => c.clearClean b.space (fun w => ws.contains w))

/-- A fill whose address has translated reads the line at its home under the page's protocol, and its data lands (R106, R109, R114,
R125). The model fails the fill of the whole line when any granule of it is poisoned: R110 does not say whether the words of the other
granules are filled (DESIGN CHOICE, log 86). -/
def State.fillAt (s : State) (o : GOp) (n : Nat) (t : Team) (b : Bight) (pa : Nat) (a : Attr) : State :=
  let s := s.recallOwners (some ⟨o.core, o.task, n⟩) a pa 64
  if s.physBad pa 64 then (s.dramAccess a pa o.core (some o.task)).failFill o n mPOISON
  else
    let v := s.physRd pa 64
    let s := ((s.fillHome o n b pa a v).peerLease o a pa).dramAccess a pa o.core (some o.task)
    let lease := if a.lease then some (pa / 64) else none
    let s := (List.range 16).foldl (fun s k => s.fillWord o.core t b lease o.va v k) s
    (((s.doneOp o.id).tellEngines o.id none).pollAll).dropWords o.core t b o.va o.drop

/-- A fill performs once nothing that it follows is outstanding and its address translates (R106, R110, R357). -/
def State.performFill (s : State) (o : GOp) (n : Nat) : State :=
  match s.entryOf o.core o.task n with
  | none => s.doneOp o.id
  | some (t, b) =>
    if !s.opFree o || s.wonusWaits o.task then s
    else
      match s.opXlate o false srcFill with
      | .wait s => s
      | .bad s => s.failFill o n mXLATE
      | .ok pa a s => s.fillAt o n t b pa a

/-! ## Write-backs (R108, R254, R413) -/

/-- Words of a write-back that did not perform are DIRTY again while the entry still maps them and its team is not being saved
(R413, log 22). -/
def State.redirty (s : State) (o : GOp) (n gen : Nat) (ws : List (Nat × BitVec 32)) : State :=
  match s.entryOf o.core o.task n with
  | none => s
  | some (t, b) =>
    if b.gen ≠ gen || t.leaving then s
    else
      ws.foldl (fun s w =>
        match b.wordAt w.1 with
        | some i => s.modCore o.core (fun c =>
            c.setSide b.space (t.bightBase b + i) { c.side b.space (t.bightBase b + i) with dirty := true, valid := true })
        | none => s) s

/-- The range entries of an unmapped bight go once its last write-back has performed (R113, R254). -/
def State.dropDir (s : State) (core task n gen : Nat) : State :=
  let mapped := match s.entryOf core task n with
    | some (_, b) => b.gen = gen
    | none => false
  let left := s.ops.any (fun o => match o.kind with
    | .wb _ _ _ g => g = gen
    | _ => false)
  if mapped || left then s
  else { s with dir := s.dir.filter (fun d => !(d.core = core && d.task = task && d.n = n && d.gen = gen)) }

/-- Words that a flush leaves VALID and clean are copies of their line from its write-back on: a DIR bight that still maps them is
registered at the slice, so that a later write invalidates them, and words of a LEASE line go by its lease (R114, R120, R134,
log 88). -/
def State.keepCopies (s : State) (o : GOp) (n gen : Nat) (a : Attr) (pa : Nat) (ws : List (Nat × BitVec 32)) : State :=
  match s.entryOf o.core o.task n with
  | none => s
  | some (t, b) =>
    if b.gen ≠ gen || paHawser pa then s
    else if a.dir then s.register (homeSlice a pa) ⟨o.core, o.task, n⟩ gen
    else if a.lease then
      (ws.filterMap (fun w => b.wordAt w.1)).foldl (fun s i => s.modCore o.core (fun c =>
        let e := c.side b.space (t.bightBase b + i)
        if e.valid && !e.dirty then c.setSide b.space (t.bightBase b + i) { e with lease := some (pa / 64) } else c)) s
    else s

/-- The write-back of captured words ends their ownership (R141). -/
def State.endCaptured (s : State) (o : GOp) (words : List Nat) : State :=
  { s with owners := s.owners.filter (fun p => !(p.core = o.core && p.task = o.task && p.cap.isSome && words.contains p.word)) }

/-- A write-back performs (R108, R125). -/
def State.performWb (s : State) (o : GOp) (n : Nat) (ws : List (Nat × BitVec 32)) (gen : Nat) : State :=
  if !s.opFree o then s
  else
    match s.opXlate o true srcFill with
    | .wait s => s
    | .bad s => ((s.doneOp o.id).redirty o n gen ws).dropDir o.core o.task n gen
    | .ok pa a s =>
      if s.fenced pa then ((s.doneOp o.id).redirty o n gen ws).dropDir o.core o.task n gen
      else
        let spans := ws.map (fun w => Span.mk (pa / 64 * 64 + w.1 % 64) 4 w.2.toNat)
        let s := s.endCaptured o (spans.map (fun p => p.pa / 4))
        let s := s.writeHome (whoCore o.core o.task) (some ⟨o.core, o.task, n⟩) a pa spans
        (((s.keepCopies o n gen a pa ws).doneOp o.id)).dropDir o.core o.task n gen

/-! ## Atomics (R140, R141, R278 to R280) -/

/-- A number of n bytes as a signed integer. -/
def signedN (n x : Nat) : Int := if bitOf x (8 * n - 1) then (x : Int) - 2 ^ (8 * n) else x

/-- The new value of an atomic, none when a compare fails, with the flags of fadd (R278, R279, R285). -/
def amoNew (fn : AmoFn) (n x y z : Nat) : Option Nat × BitVec 5 :=
  match fn with
  | .add => (some ((x + y) % 2 ^ (8 * n)), 0)
  | .and => (some (x &&& y), 0)
  | .or => (some (x ||| y), 0)
  | .xor => (some (x ^^^ y), 0)
  | .min => (some (if signedN n y < signedN n x then y else x), 0)
  | .max => (some (if signedN n x < signedN n y then y else x), 0)
  | .minu => (some (if y < x then y else x), 0)
  | .maxu => (some (if x < y then y else x), 0)
  | .swap => (some y, 0)
  | .cas => (if x = z then some y else none, 0)
  | .fadd => let r := fp32AddR x y; (some r.code, r.flags)
  | .ld => (none, 0)

/-- An acquire at DEVICE or SYSTEM scope takes the slice's write clock (R133). -/
def State.acquireAt (s : State) (o : GOp) (slice : Nat) : State :=
  if o.acq && decide (2 ≤ o.scope.toNat) then s.raisePts o.core (SMap.get 0 s.swc slice) else s

/-- The entry of the issuing team that may own the n bytes at an address: valid, read-write, and holding every word (R141). -/
def State.ownerEntry (s : State) (o : GOp) (n : Nat) : Option (Nat × Team × Bight) :=
  match (s.core o.core).team? o.task with
  | none => none
  | some t =>
    match t.bights.find? (fun e => e.2.v && e.2.wr && (List.range (n / 4)).all (fun k => (e.2.wordAt (o.va + 4 * k)).isSome)) with
    | some e => some (e.1, t, e.2)
    | none => none

/-- Words of the owner's store that hold the n bytes. -/
def ownerWords (t : Team) (b : Bight) (va n : Nat) : List Nat :=
  (List.range (n / 4)).filterMap (fun k => (b.wordAt (va + 4 * k)).map (fun i => t.bightBase b + i))

/-- The value of some words of a store, first word lowest. -/
def Core.wordsValue (c : Core) (vault : Bool) : List Nat → Nat
  | [] => 0
  | w :: r => Memory.rdN (c.store vault) (4 * w) 4 + 2 ^ 32 * c.wordsValue vault r

/-- Write some words of a store, VALID and DIRTY. -/
def Core.writeWords (c : Core) (vault : Bool) (v : Nat) : List Nat → Core
  | [] => c
  | w :: r =>
    Core.writeWords ((c.setStore vault (Memory.wrN (c.store vault) (4 * w) v 4)).setSide vault w .stored)
      vault (v / 2 ^ 32) r

/-- A write of both words of a granule clears its poison (R408). -/
def Core.clearPairs (c : Core) (vault : Bool) (ws : List Nat) : Core :=
  ws.foldl (fun c w => if w % 2 = 0 && ws.contains (w + 1) then c.clearPoison vault (4 * w) 8 else c) c

/-- A word of a bight lies in an uncorrectable granule (R275, R408). -/
def State.wordsBad (s : State) (core : Nat) (vault : Bool) (ws : List Nat) : Bool := ws.any (fun w => s.poisoned ⟨core, vault, 4 * w⟩)

/-- A value-returning atomic that ends: its operation is done, its value delivered, its place logged. -/
def State.finishAmo (s : State) (o : GOp) (slice : Nat) (x : Nat) (fl : BitVec 5) : State :=
  (((s.logHome o.task slice (BitVec.ofNat 64 x)).acquireAt o slice).doneOp o.id).deliver o.x o.id (BitVec.ofNat 64 x) fl

/-- An atomic executes in the bight that owns its words (R141). -/
def State.amoInBight (s : State) (o : GOp) (fn : AmoFn) (n : Nat) (y z : Nat) (b : Bight) (ws : List Nat) : State × Nat × BitVec 5 :=
  let x := (s.core o.core).wordsValue b.space ws
  let r := amoNew fn n x y z
  (match r.1 with
    | some v => s.modCore o.core (fun c => (c.writeWords b.space v ws).clearPairs b.space ws)
    | none => s, x, r.2)

/-- Every word is owned by the entry. -/
def State.ownsAll (s : State) (e : EntId) (b : Bight) (ws : List Nat) : Bool :=
  ws.all (fun w => s.owners.any (fun p => p.core = e.core && p.task = e.task && p.n = e.n && p.vault = b.space && p.w = w && p.cap.isNone))

/-- The home makes an entry the owner of its words: other copies go, and the words take the home value, which a word that the entry
owns already holds (R141). -/
def State.takeOwnership (s : State) (o : GOp) (a : Attr) (pa n : Nat) (e : EntId) (b : Bight) (ws : List Nat) : State :=
  let s := (s.recallOwners (some e) a pa n).backInvalidate pa
  let s := s.invalidateFor (some e) a pa [⟨pa, n, 0⟩]
  let s := s.register (homeSlice a pa) e b.gen
  let new := ws.filter (fun w => !s.ownsAll e b [w])
  let s := (ws.zip (List.range ws.length)).foldl (fun s p => if s.ownsAll e b [p.1] then s
    else s.modCore o.core (fun c => c.writeWords b.space (s.physRd (pa + 4 * p.2) 4) [p.1])) s
  let s := s.modCore o.core (fun c => c.clearPairs b.space new)
  { s with owners := s.owners.filter (fun p => !(ws.contains p.w && p.core = e.core && p.vault = b.space && p.cap.isNone)) ++
      (ws.zip (List.range ws.length)).map (fun p =>
        { word := pa / 4 + p.2, core := e.core, task := e.task, n := e.n, vault := b.space, w := p.1 }) }

/-- A LEASE line read by a value-returning atomic: R118's timestamps at the home (R140). -/
def State.amoLease (s : State) (o : GOp) (a : Attr) (pa : Nat) (ret : Bool) : State :=
  if ret && a.lease then (s.leaseRead o.core (homeSlice a pa) (pa / 64) (BitVec.ofNat 32 a.lticks)).2 else s

/-- The ownership that an atomic ends before it executes at the home slice: any, but for a non-returning reduction, which leaves
the words that its own team owns as it leaves its DIRTY words (R141, R142). -/
def State.amoRecall (s : State) (o : GOp) (a : Attr) (pa n : Nat) (ret : Bool) : State :=
  if ret then s.recallOwners none a pa n else s.recallOthers o.core o.task a pa n

/-- An atomic executes at its home slice, whose words' ownership is settled: one indivisible read and write (R127, R140). A compare
that fails writes nothing and still counts as a write for R119 and R133 (R279). -/
def State.amoAtHome (s : State) (o : GOp) (fn : AmoFn) (n : Nat) (y z : Nat) (a : Attr) (pa : Nat) : State × Nat × BitVec 5 :=
  let x := s.physRd pa n
  let r := amoNew fn n x y z
  (match r.1, fn with
    | some v, _ => s.writeOwned (whoCore o.core o.task) none a pa [⟨pa, n, v⟩]
    | none, .ld => s.dramAccess a pa o.core (some o.task)
    | none, _ => (s.stampWrite (some o.core) a pa).dramAccess a pa o.core (some o.task), x, r.2)

/-- The home slice of words that a bight owns, by their physical address (R112, R277). -/
def State.ownedHome (s : State) (o : GOp) (e : EntId) (w : Nat) : Nat :=
  let pa := match s.owners.find? (fun p => p.core = e.core && p.task = e.task && p.n = e.n && p.w = w) with
    | some p => 4 * p.word
    | none => 0
  match s.look o.core o.asid o.va true with
  | .ok q a => if q / 64 = pa / 64 then homeSlice a pa else homeSlice (s.hostAttr pa) pa
  | _ => homeSlice (s.hostAttr pa) pa

/-- A write takes its place in the modification order of a slice (R277). -/
def State.bumpSeq (s : State) (slice : Nat) : State :=
  { s with modSeq := SMap.set 0 s.modSeq slice (SMap.get 0 s.modSeq slice + 1) }

/-- An atomic on words that its own team's bight owns: it executes there with no home traffic, so it meets no slice's clock; its
place in the words' modification order is logged (R133, R141, R277). The owned words are the home's: an uncorrectable one is POISON
(R275). -/
def State.amoOwned (s : State) (o : GOp) (fn : AmoFn) (n : Nat) (y z : Nat) (e : EntId) (b : Bight) (ws : List Nat) : State :=
  if s.wordsBad o.core b.space ws then s.failOp o mPOISON else
  let r := s.amoInBight o fn n y z b ws
  let slice := s.ownedHome o e (ws.headD 0)
  ((((r.1.bumpSeq slice).logHome o.task slice (BitVec.ofNat 64 r.2.1)).doneOp o.id).deliver o.x o.id (BitVec.ofNat 64 r.2.1)) r.2.2

/-- An atomic or reduction through a hawser window executes at the peer's home slice under the peer's protocol: the request leaves,
and the old value, a timestamp for the core's clock and the place in the slice's order come back (R118, R125, R133, R275, log 19). -/
def State.amoAtPeer (s : State) (o : GOp) (fn : AmoFn) (n : Nat) (y z : Word) (ret : Bool) (a : Attr) (pa : Nat) : State :=
  let x := s.physRd pa n
  let r := amoNew fn n x y.toNat z.toNat
  let c := s.freeCtr
  let s := State.send { s with freeCtr := c + 2 } (.peerAtomic (paTarget pa - 1) (paOff pa) fn n y z)
  let s := if ret then s.raisePts o.core (Config.peerClock c) else s
  let s := s.wonusLog o.task 1 (homeSlice a pa) (Config.peerClock (c + 1)).toNat (BitVec.ofNat 64 x)
  (s.doneOp o.id).deliver o.x o.id (BitVec.ofNat 64 x) r.2

/-- An atomic or reduction whose address has translated performs: at the peer, in the bight that takes ownership, or at the home
slice (R140, R141, R275). -/
def State.amoPlace (s : State) (o : GOp) (fn : AmoFn) (n : Nat) (y z : Word) (ret : Bool) (own : Option (EntId × Bight × List Nat))
    (pa : Nat) (a : Attr) : State :=
  if paHawser pa then if s.physBad pa n then s.failOp o mPOISON else s.amoAtPeer o fn n y z ret a pa
  else
    match own.filter (fun _ => a.dir && paTarget pa = 0) with
    | some (e, b, ws) =>
      let s := s.recallOwners (some e) a pa n
      if s.physBad pa n then s.failOp o mPOISON
      else
        let s := (s.takeOwnership o a pa n e b ws).dramAccess a pa o.core (some o.task)
        if s.wordsBad o.core b.space ws then s.failOp o mPOISON
        else
          let r := s.amoInBight o fn n y.toNat z.toNat b ws
          (r.1.bumpSeq (homeSlice a pa)).finishAmo o (homeSlice a pa) r.2.1 r.2.2
    | none =>
      let s := s.amoRecall o a pa n ret
      if s.physBad pa n then s.failOp o mPOISON
      else
        let r := (s.amoLease o a pa ret).amoAtHome o fn n y.toNat z.toNat a pa
        r.1.finishAmo o (homeSlice a pa) r.2.1 r.2.2

/-- An atomic or reduction performs (R140 to R142, R275, R278 to R280). -/
def State.performAmo (s : State) (o : GOp) (fn : AmoFn) (n : Nat) (y z : Word) (ret : Bool) : State :=
  if !s.opFree o || s.wonusWaits o.task then s
  else
    let own := if ret then (s.ownerEntry o n).map (fun e => ((⟨o.core, o.task, e.1⟩ : EntId), e.2.2, ownerWords e.2.1 e.2.2 o.va n)) else none
    let far : State :=
      match s.opXlate o true srcAtomic with
      | .wait s => s
      | .bad s => s.failOp o mXLATE
      | .ok pa a s => s.amoPlace o fn n y z ret own pa a
    match own with
    | some (e, b, ws) => if s.ownsAll e b ws then s.amoOwned o fn n y.toNat z.toNat e b ws else far
    | none => far

/-- MEM causes of far operations (R275, R285). -/
def mKNOT : BitVec 8 := 0x0B
def mREMOTE : BitVec 8 := 0x0C

/-- A knot operation performs at the knot's home (R285). -/
def State.performKnot (s : State) (o : GOp) (fn : AmoFn) (y : Word) : State :=
  if !s.opFree o || s.wonusWaits o.task then s
  else
    match s.opXlate o (fn ≠ .ld) srcAtomic with
    | .wait s => s
    | .bad s => s.failOp o mXLATE
    | .ok pa a s =>
      if a.lease || paHawser pa then s.failOp o mKNOT
      else
        let s := s.recallOwners none a pa 8
        if s.physBad pa 8 then s.failOp o mPOISON
        else
        let r := s.amoAtHome o fn 8 y.toNat 0 a pa
        r.1.finishAmo o (homeSlice a pa) r.2.1 0

/-! ## SC operations (R135 to R137) -/

/-- The wheel stands at the position of the operation's context, and no SC operation has taken this order point. -/
def State.atPosition (s : State) (o : GOp) : Bool := s.wpos = o.x.val && !s.scTaken

/-- No earlier SC operation of the context is pending (R135). -/
def State.firstSc (s : State) (o : GOp) : Bool :=
  !s.ops.any (fun p => p.x = o.x && decide (p.id < o.id) && p.kind.isSc)

/-- An SC operation takes its order point and performs at its home slice (R135, R136, R281). One whose address turns out only after
issue to lie in a hawser window takes no order point and raises WHEEL then, deferred (R137, R275, log 87). While its slice has to wait,
it takes its order point in a later revolution (R156, log 112). -/
def State.performSc (s : State) (o : GOp) (fn : AmoFn) (n : Nat) (y z : Word) : State :=
  if !s.opFree o || s.wonusWaits o.task || !s.firstSc o then s
  else
    match s.opXlate o (fn ≠ .ld) srcAtomic with
    | .wait s => s
    | .bad s => s.failOp o mXLATE
    | .ok pa a s =>
      if paHawser pa then s.failOp o mWHEEL
      else if !s.atPosition o || s.sliceBusy (homeSlice a pa) then s
      else
        let s := (s.serve (homeSlice a pa)).recallOwners none a pa n
        if s.physBad pa n then s.failOp o mPOISON
        else
        let s := { s with scTaken := true }
        let s := s.wonusLog o.task 7 (homeSlice a pa) (SMap.get 0 s.modSeq (homeSlice a pa)) (BitVec.ofNat 64 (s.rev % 2 ^ 48 * 2 ^ 11 + s.wpos))
        let r := s.amoAtHome o fn n y.toNat z.toNat a pa
        r.1.finishAmo o (homeSlice a pa) r.2.1 0

/-- SC_ORDER_POINT (R135). -/
def execScOrderPoint (id : Nat) (s : State) : Out :=
  .next (match s.op? id with
    | some o => match o.kind with
      | .sc fn n y z _ => s.performSc o fn n y z
      | _ => s
    | none => s)

/-- HOME_ATOMIC_EXECUTE: an atomic, reduction or knot operation (R140, R285). -/
def execHomeAtomicExecute (id : Nat) (s : State) : Out :=
  .next (match s.op? id with
    | some o => match o.kind with
      | .amo fn n y z ret => s.performAmo o fn n y z ret
      | .knot fn y _ => s.performKnot o fn y
      | _ => s
    | none => s)

/-! ## Splices (R289 to R291) -/

/-- A splice ends with a status and, on success, W. -/
def State.finishSplice (s : State) (o : GOp) (wbuf : Option Nat) (status : Nat) (r : Option SplState) : State :=
  let f := (r.map (·.flags)).getD 0
  let s := s.doneOp o.id
  match wbuf with
  | some _ => (s.deliver o.x o.id (splResponse status f) 0).deliverW o.x o.id (r.map (fun r => r.r[6]))
  | none => if status = 0 then s else s.report o.x tSPL (BitVec.ofNat 8 status) o.va o.orig

/-- A splice reaches the home slice of its line (R289). -/
def State.performSplice (s : State) (o : GOp) (num : Nat) (opd : BitVec 512) (wbuf : Option Nat) : State :=
  if !s.opFree o || s.wonusWaits o.task then s
  else
    match s.opXlate o true srcAtomic with
    | .wait s => s
    | .bad s => s.failOp o mXLATE
    | .ok pa a s =>
      if paHawser pa then s.failOp o mREMOTE
      else
        match s.rmapOf o.asid num with
        | none => s.finishSplice o wbuf 1 none
        | some k =>
          let s := s.recallOthers o.core o.task a pa 64
          if s.physBad pa 64 then s.finishSplice o wbuf 2 none
          else
            let x := BitVec.ofNat 512 (s.physRd pa 64)
            let r := runRoutine (SMap.get 0 s.routines k) x opd
            let s := s.writeOwned (whoCore o.core o.task) none a pa (changedWords pa x r.r[0])
            let s := (s.logHome o.task (homeSlice a pa) (BitVec.ofNat 64 x.toNat)).acquireAt o (homeSlice a pa)
            s.finishSplice o wbuf 0 (some r)

/-- SPLICE_EXECUTE (R289). -/
def execSpliceExecute (id : Nat) (s : State) : Out :=
  .next (match s.op? id with
    | some o => match o.kind with
      | .splice num opd wbuf => s.performSplice o num opd wbuf
      | _ => s
    | none => s)

/-! ## Pins, registrations, installations -/

/-- pin and unpin at the line's slice (R123, R295). -/
def State.performPin (s : State) (o : GOp) (un : Bool) : State :=
  if !s.opFree o then s
  else
    match s.opXlate o false srcAtomic with
    | .wait s => s
    | .bad s => s.failOp o mXLATE
    | .ok pa a s =>
      let line := pa / 64
      let finish (s : State) (v : Word) : State := (s.doneOp o.id).deliver o.x o.id v 0
      if paHawser pa then s.failOp o mREMOTE
      else if s.physBad pa 64 then s.failOp o mPOISON
      else if un then
        if s.pins.any (fun p => p.line = line && p.asid = o.asid) then
          finish { s with pins := s.pins.filter (fun p => p.line ≠ line) } 0
        else finish s 1
      else if s.pinned line then finish s 1
      else if 32768 ≤ (s.pins.filter (fun p => p.slice = homeSlice a pa)).length then finish s 2
      else
        let s := s.dramAccess a pa o.core (some o.task)
        finish { s with pins := s.pins ++ [⟨line, o.va, homeSlice a pa, o.asid⟩] } 0

/-- A registration writes its 16 bytes at once (R163). -/
def State.performVreg (s : State) (o : GOp) (d : BitVec 128) : State :=
  if !s.opFree o then s
  else
    match s.opXlate o true srcAtomic with
    | .wait s => s
    | .bad s => s.failOp o mXLATE
    | .ok pa a s =>
      if s.physBad pa 16 then s.failOp o mPOISON
      else (s.writeHome (whoCore o.core o.task) none a pa [⟨pa, 16, d.toNat⟩]).doneOp o.id

/-! ## The monitor's queue (R388, R389) -/

/-- The supervisors are held in reset: the boot has not come to its last step, or a firmware image failed its check (R386). -/
def Monitor.supsHeld (m : Monitor) : Bool := m.boot ≠ .up

/-- A shootdown that a monitor request waits for is in the queue. -/
def State.reqBusy (s : State) : Bool :=
  s.mq.any (fun m => match m.orig with
    | .monitor _ _ => true
    | _ => false)

/-- A new request must wait for those that came before it. -/
def State.monBusy (s : State) : Bool := s.reqBusy || !s.mon.queue.isEmpty

/-- The oldest waiting request leaves the queue. -/
def State.monTake (s : State) : State := { s with mon := { s.mon with queue := s.mon.queue.drop 1, poll := false } }

/-- A request enters the queue. -/
def State.monPut (s : State) (q : MonReq) : State := { s with mon := { s.mon with queue := s.mon.queue ++ [q] } }

/-- A request reaches the monitor, or is the oldest waiting one and is taken up: requests of all channels are carried out one at a
time in arrival order (R388, R389). -/
def State.serveMon (s : State) (q : MonReq) (f : State → State) : State :=
  if s.mon.poll then f s.monTake else if s.monBusy then s.monPut q else f s

/-- An installation or a removal reaches the monitor once, and waits there in its order (R291, R389, R394). -/
def State.serveInst (s : State) (id : Nat) (f : State → State) : State :=
  if !s.mon.poll && s.mon.queue.contains (.inst id) then s else s.serveMon (.inst id) f

/-- GLOBAL_WRITE_PERFORM: a write-back, a registration, a pin or an installation performs (R125). -/
def execGlobalWritePerform (id : Nat) (s : State) : Out :=
  .next (match s.op? id with
    | some o => match o.kind with
      | .wb n _ ws gen => s.performWb o n ws gen
      | .vreg d => s.performVreg o d
      | .pin => s.performPin o false
      | .unpin => s.performPin o true
      | .inst num body => s.serveInst o.id (fun s =>
        let r := s.install o.asid num body
        (r.2.doneOp o.id).deliver o.x o.id (BitVec.ofNat 64 r.1) 0)
      | .rm num => s.serveInst o.id (fun s =>
        let r := s.unmapRoutine o.asid num
        (r.2.doneOp o.id).deliver o.x o.id (BitVec.ofNat 64 r.1) 0)
      | _ => s
    | none => { s with mon := { s.mon with queue := s.mon.queue.filter (fun q => q ≠ .inst id) } })

/-- FILL_COMPLETE (R106). -/
def execFillComplete (id : Nat) (s : State) : Out :=
  .next (match s.op? id with
    | some o => match o.kind with
      | .fill n => s.performFill o n
      | _ => s
    | none => s)

/-- LOAD_DATA_ARRIVAL: the data of a load reaches the landing buffer once its words are usable (R61, R125). -/
def execLoadDataArrival (x : CtxNo) (id : Nat) (s : State) : Out :=
  let one (l : List Flight) (s : State) : List Flight × State :=
    l.foldl (fun r f => if f.id = id then let a := r.2.pollFlight x f; (r.1 ++ [a.1], a.2) else (r.1 ++ [f], r.2)) ([], s)
  let a := one (s.ctx x).flight s
  let s := a.2.modCtx x (fun c => { c with flight := a.1 })
  let b := one (s.ctx x).held s
  let s := b.2.modCtx x (fun c => { c with held := b.1 })
  let d := one (s.ctx x).heldU s
  .next (d.2.modCtx x (fun c => { c with heldU := d.1 }))

/-- VACC_TILE_READ: an accumulator read that is not pending at its arrival any more takes the tile's value, once the tile is
not busy (R222). -/
def State.vaccRead (s : State) (x : CtxNo) (f : Flight) : Flight :=
  match f.src with
  | .vacc tile row cb _ =>
    if f.value.isNone && !(s.mtx (ctxCore x)).busy tile then { f with value := some ((s.mtx (ctxCore x)).vaccValue tile row cb) }
    else f
  | _ => f

/-- The accumulator reads of a list that have arrived at partition cycle t, also those that a trap or a handler holds, take their values
(R222, R368, R372). -/
def State.vaccArrive (s : State) (x : CtxNo) (t : Nat) (f : Flight) : Flight :=
  match f.src with
  | .vacc _ _ _ a => if a ≤ t then s.vaccRead x f else f
  | _ => f

/-- VACC_TILE_READ (R222). -/
def execVaccTileRead (x : CtxNo) (id : Nat) (s : State) : Out :=
  .next (s.modCtx x (fun c => c.mapFlights (fun f => if f.id = id then s.vaccArrive x (s.part (ctxPartNo x)).pcyc f else f)))

end Sys2Proof.Machine
end

