-- ==== Sys2Proof/Machine/LoadStore.lean ====
section
/-! DEFINITION. Loads and stores (R97, R98, R107, R248 to R251, R329). -/

namespace Sys2Proof.Machine

/-- A MEM trap of the X slot. -/
def memTrap (cause : BitVec 8) (a : Nat) : Pre := .trap ⟨tMEM, cause, 4, BitVec.ofNat 64 a⟩

/-- The task of the issuing context. -/
def State.myTask (s : State) : Nat := s.me.task

/-- Resolve an address of the issuing context (R98). -/
def State.myResolve (s : State) (vault : Bool) (a n : Nat) : Except (BitVec 8) Loc :=
  s.resolve (ctxCore s.issue.x) s.myTask vault a n

/-- The first address of a list that does not resolve, with its cause. -/
def State.firstBad (s : State) (vault : Bool) (n : Nat) : List Nat → Option (BitVec 8 × Nat)
  | [] => none
  | a :: r =>
    match s.myResolve vault a n with
    | .error c => some (c, a)
    | .ok _ => s.firstBad vault n r

/-- The locations of addresses that resolve. -/
def State.locsOf (s : State) (vault : Bool) (n : Nat) (l : List Nat) : List Loc :=
  l.filterMap (fun a => match s.myResolve vault a n with
    | .ok p => some p
    | .error _ => none)

/-- The team has LLD = 1 and the load's address is in the braid windows (R249). -/
def State.lldBad (s : State) (vault : Bool) (a : Nat) : Bool :=
  !vault && decide (0x400000 ≤ a) && match s.teamOf s.issue.x with
    | some t => t.lld
    | none => false

/-- The tests of a load of n-byte elements at some addresses, `a` its base: the buffer, then LLD, then each element
(R60, R97, R249, R369). A load whose guard enables no lane comes here with no test; one whose enabled lanes read nothing has
an empty list and is tested all the same. -/
def loadPre (s : State) (vault : Bool) (n a : Nat) (l : List Nat) : Pre :=
  match bufPre s with
  | .stall => .stall
  | _ =>
    if s.lldBad vault a then memTrap mRANGE a
    else
      match s.firstBad vault n l with
      | some (c, b) => memTrap c b
      | none => .go

/-- Profile latency of a load by its address at issue (R249, R311, R317): own position and windows, and P4 rows. -/
def State.loadLat (s : State) (vault : Bool) (a : Nat) : Nat :=
  if vault then
    match s.teamOf s.issue.x with
    | some t => if bitsOf a 24 7 = t.pos then 10 else 48
    | none => 48
  else if a < 0x400000 then if s.me.compat then 4 else 6
  else if s.me.compat then 12 else 14

/-- Core cycles after its issue at which the data of a load from a location is back at the core, without contention (R57, R102):
the own scratchpad, a braid window, the own vault, a vault of the same die, or one of the other die through the hub. -/
def State.returnTime (s : State) (vault : Bool) (a : Nat) (l : Loc) : Nat :=
  let c := ctxCore s.issue.x
  if !vault then if a < 0x400000 then 6 else 14
  else if l.core = c then 10
  else if l.core / 64 = c / 64 then 24 + Config.lateral c l.core % 25
  else 160 + Config.bridge s.nextOp % 161

/-- An access and a later one of another context of its partition share a word: the port, which both use, performs the earlier one first
(R99, R312). -/
def portShares (ls : List (Loc × Nat)) (l : List (Loc × Nat)) : Bool := l.any (fun a => ls.any (shareWord a))

/-- What the partition's other contexts have in the queues of the banks at these locations performs before an access that issues now: their
stores, and before a store also their loads (R99, R312). -/
def State.portFirst (s : State) (ls : List (Loc × Nat)) (store : Bool) : State :=
  let x := s.issue.x
  ((List.range 4).map (fun k => ctxOf (4 * ctxPartNo x + k))).foldl (fun s y =>
    let c := s.ctx y
    let st (p : PendStore) : Bool := decide (0 < p.hold) && portShares ls p.locs
    let ld (f : Flight) : Bool := store && decide (0 < f.hold) && f.pending && portShares ls f.locs
    if y = x || !(c.stq.any st || c.allFlights.any ld) then s
    else
      let s := s.modCtx y (fun c => { c.mapFlights (fun f => if ld f then { f with hold := 0 } else f) with
        stq := c.stq.map (fun p => if st p then { p with hold := 0 } else p) })
      s.pollCtx y) s

/-- Post a load: it takes a landing-buffer entry, and its elements are read once the queue of their bank has them and nothing else holds
them; their data is back when the last of them is (R60, R99, R100, R102, R125, R249). -/
def State.postLoad (s : State) (vault : Bool) (n a k : Nat) (sext bcast : Bool) (dst : Dest) (lanes : BitVec 32)
    (es : List (Nat × Loc)) : State :=
  let x := s.issue.x
  let u := s.portFirst (es.map (fun e => (e.2, n))) false
  let f : Flight :=
    { id := u.nextOp, due := s.issue.cycle + s.loadLat vault a + k, dst := dst, lanes := lanes, value := none, flags := 0
      buf := true
      src := .mem n sext bcast (es.map (fun e => ⟨e.1, e.2.core, e.2.vault, e.2.off, none, [], !vault && decide (0x400000 ≤ a)⟩))
        (u.waitsFor x (es.map (fun e => (e.2, n))))
      lock := s.me.compat && !vault, orig := s.me.pc
      back := (es.map (fun e => s.returnTime vault a e.2)).foldl Nat.max 0
      hold := if es.isEmpty then 0 else Config.loadHold u.nextOp % 4 }
  let r := State.pollFlight { u with nextOp := u.nextOp + 1 } x f
  r.2.modCtx x (fun c => { c with flight := c.flight ++ [r.1] })

/-- A scalar load (R250). -/
def loadOp (s : State) (g : BitVec 4) (vault : Bool) (n : Nat) (sext : Bool) (d a k : BitVec 6) : State :=
  let ad := (s.me.rs a).toNat
  s.gated g (loadPre s vault n ad [ad])
    (s.postLoad vault n ad k.toNat sext false (dstS d) allLanes ((s.locsOf vault n [ad]).map (fun l => (0, l))))

/-- Enabled lanes among the first m. -/
def lanesBelow (lanes : BitVec 32) (m : Nat) : List Nat := (List.range m).filter (fun i => lanes.getLsbD i)

/-- A vector op under its tests, lane guards applied already. -/
def State.vgated (s : State) (p : Pre) (eff : State) : State :=
  match p with
  | .go => eff
  | .stall => s.stallCtx s.issue.x
  | .trap i => s.takeTrap s.issue.x i none

/-- The addresses of a vector access: one per enabled lane of the first m, or the base alone (R251). -/
def vecAddrs (lanes : BitVec 32) (m a : Nat) (bcast : Bool) : List Nat :=
  if bcast then if lanes = 0 then [] else [a] else (lanesBelow lanes m).map (fun i => a + 4 * i)

/-- A vector load of the first m lanes (R251). Lanes from m on land as 0 with no read. -/
def vloadOp (s : State) (g : BitVec 4) (vault : Bool) (m : Nat) (bcast : Bool) (d a k : BitVec 6) : State :=
  let ad := (s.me.rs a).toNat
  let lanes := s.me.guard g
  let addrs := vecAddrs lanes m ad bcast
  if lanes = 0 then s
  else
    s.vgated (loadPre s vault 4 ad addrs)
      (s.postLoad vault 4 ad k.toNat false bcast (s.me.dstV d) lanes
        ((if bcast then [0] else lanesBelow lanes m).zip (s.locsOf vault 4 addrs)))

/-- A cause that precedes the spill check: RANGE or ALIGN (R329). -/
def earlyCause (c : BitVec 8) : Bool := c = mRANGE || c = mALIGN

/-- The first RANGE or ALIGN among addresses. -/
def State.firstEarly (s : State) (vault : Bool) (n : Nat) : List Nat → Option (BitVec 8 × Nat)
  | [] => none
  | a :: r =>
    match s.myResolve vault a n with
    | .error c => if earlyCause c then some (c, a) else s.firstEarly vault n r
    | .ok _ => s.firstEarly vault n r

/-- A queued store of the issuing context makes mapped word w of a store whole before any later access to it, unless the word was mapped
after it issued (R100, R107, R253). -/
def State.storedWord (s : State) (core : Nat) (vault : Bool) (w : Nat) : Bool :=
  s.me.stq.any (fun p => decide (4 ≤ p.n) && !p.raw.contains (vault, w) && p.elems.any (fun e =>
    e.1 = core && e.2.1 = vault && (wordsOf e.2.2.1 p.n).contains w))

/-- A merge store: 1 or 2 bytes into a mapped word that is not usable (R107). -/
def State.isMerge (s : State) (l : Loc) (n : Nat) : Bool :=
  decide (n < 4) && (wordsOf l.off n).any (fun w => !s.usable l.core l.vault w && !s.storedWord l.core l.vault w)

/-- The tests of a store of n-byte elements: a buffer entry for a merge store; ALIGN and RANGE; the spill limit when the
base is s4; then PLACE; then BRO (R97, R107, R329). -/
def storePre (s : State) (vault : Bool) (n : Nat) (a : BitVec 6) (l : List Nat) : Pre :=
  let spill := !vault && a = 4 && l.any (fun b => decide (b < s.me.splim.toNat))
  let locs := s.locsOf vault n l
  if locs.any (fun p => s.isMerge p n) && bufPre s = .stall then .stall
  else
    match if !vault && a = 4 then s.firstEarly vault n l else none with
    | some (c, b) => memTrap c b
    | none =>
      if spill then .trap ⟨tSPILL, 0x02, 4, BitVec.ofNat 64 (l.headD 0)⟩
      else
        match s.firstBad vault n l with
        | some (c, b) => memTrap c b
        | none =>
          match l.find? (fun b => (s.locsOf vault n [b]).any (fun p => s.readOnly p n)) with
          | some b => memTrap mBRO b
          | none => .go

/-- Perform or queue the elements of a store (R98, R100, R107, R130, R131). A store waits for the accesses that it follows, and
in the queue of its bank as long as a free value says (R99, R128): the context's own later accesses to its words follow it. -/
def State.storeElems (s : State) (n : Nat) (es : List (Loc × Word)) : State :=
  let x := s.issue.x
  let u := s.portFirst (es.map (fun e => (e.1, n))) true
  let after := u.waitsFor x (es.map (fun e => (e.1, n)))
  let hold := Config.storeHold u.nextOp % 4
  let mergeOne (v : State) (e : Loc × Word) : State :=
    let f : Flight :=
      { id := v.nextOp, due := s.issue.cycle + 1, dst := .none, lanes := 0, value := none, flags := 0, buf := true
        src := .merge n ⟨0, e.1.core, e.1.vault, e.1.off, none, [], false⟩ e.2 after, lock := false, orig := s.me.pc }
    let r := State.pollFlight { v with nextOp := v.nextOp + 1 } x f
    r.2.modCtx x (fun c => { c with flight := c.flight ++ [r.1] })
  if es.any (fun e => u.isMerge e.1 n) then es.foldl mergeOne u
  else
    let now := after.isEmpty && decide (hold = 0)
    State.modCtx { u with
      nextOp := u.nextOp + 1
      cores := if now then (es.foldl (fun u e => u.wrLoc e.1 n e.2.toNat) u).cores else u.cores } x (fun c =>
      { c with stq := if now then c.stq else c.stq ++ [newStore u.nextOp n es after hold s.me.pc] })

/-- Address of a store: s[A] + SExt(K, 6) x unit, modulo 2^64 (R250, R251). -/
def storeAddr (s : State) (a k : BitVec 6) (unit : Nat) : Nat :=
  (s.me.rs a + k.signExtend 64 * BitVec.ofNat 64 unit).toNat

/-- A scalar store (R250). -/
def storeOp (s : State) (g : BitVec 4) (vault : Bool) (n : Nat) (d a k : BitVec 6) : State :=
  let ad := storeAddr s a k n
  s.gated g (storePre s vault n a [ad])
    (s.storeElems n ((s.locsOf vault n [ad]).map (fun l => (l, BitVec.ofNat 64 ((s.me.rs d).toNat % 2 ^ (8 * n))))))

/-- A vector store of the first m lanes (R251). -/
def vstoreOp (s : State) (g : BitVec 4) (vault : Bool) (m : Nat) (d a k : BitVec 6) : State :=
  let ad := storeAddr s a k (4 * m)
  let lanes := s.me.guard g
  let addrs := vecAddrs lanes m ad false
  if addrs.isEmpty then s
  else
    s.vgated (storePre s vault 4 a addrs)
      (s.storeElems 4 ((s.locsOf vault 4 addrs).zip ((lanesBelow lanes m).map (fun i => (laneOf (s.v d) i).setWidth 64))))

/-- ld.b: 1 bytes of LOCAL space, zero-extended (R250). -/
def execLdB (g : BitVec 4) (d a k : BitVec 6) (s : State) : Out := .next (loadOp s g false 1 false d a k)

/-- ld.h: 2 bytes of LOCAL space, zero-extended (R250). -/
def execLdH (g : BitVec 4) (d a k : BitVec 6) (s : State) : Out := .next (loadOp s g false 2 false d a k)

/-- ld.w: 4 bytes of LOCAL space, zero-extended (R250). -/
def execLdW (g : BitVec 4) (d a k : BitVec 6) (s : State) : Out := .next (loadOp s g false 4 false d a k)

/-- ld.d: 8 bytes of LOCAL space, zero-extended (R250). -/
def execLdD (g : BitVec 4) (d a k : BitVec 6) (s : State) : Out := .next (loadOp s g false 8 false d a k)

/-- ld.bs: 1 bytes of LOCAL space, sign-extended (R250). -/
def execLdBs (g : BitVec 4) (d a k : BitVec 6) (s : State) : Out := .next (loadOp s g false 1 true d a k)

/-- ld.hs: 2 bytes of LOCAL space, sign-extended (R250). -/
def execLdHs (g : BitVec 4) (d a k : BitVec 6) (s : State) : Out := .next (loadOp s g false 2 true d a k)

/-- ld.ws: 4 bytes of LOCAL space, sign-extended (R250). -/
def execLdWs (g : BitVec 4) (d a k : BitVec 6) (s : State) : Out := .next (loadOp s g false 4 true d a k)

/-- ldv.b: 1 bytes of VAULT space, zero-extended (R250). -/
def execLdvB (g : BitVec 4) (d a k : BitVec 6) (s : State) : Out := .next (loadOp s g true 1 false d a k)

/-- ldv.h: 2 bytes of VAULT space, zero-extended (R250). -/
def execLdvH (g : BitVec 4) (d a k : BitVec 6) (s : State) : Out := .next (loadOp s g true 2 false d a k)

/-- ldv.w: 4 bytes of VAULT space, zero-extended (R250). -/
def execLdvW (g : BitVec 4) (d a k : BitVec 6) (s : State) : Out := .next (loadOp s g true 4 false d a k)

/-- ldv.d: 8 bytes of VAULT space, zero-extended (R250). -/
def execLdvD (g : BitVec 4) (d a k : BitVec 6) (s : State) : Out := .next (loadOp s g true 8 false d a k)

/-- ldv.bs: 1 bytes of VAULT space, sign-extended (R250). -/
def execLdvBs (g : BitVec 4) (d a k : BitVec 6) (s : State) : Out := .next (loadOp s g true 1 true d a k)

/-- ldv.hs: 2 bytes of VAULT space, sign-extended (R250). -/
def execLdvHs (g : BitVec 4) (d a k : BitVec 6) (s : State) : Out := .next (loadOp s g true 2 true d a k)

/-- ldv.ws: 4 bytes of VAULT space, sign-extended (R250). -/
def execLdvWs (g : BitVec 4) (d a k : BitVec 6) (s : State) : Out := .next (loadOp s g true 4 true d a k)

/-- st.b: 1 bytes into LOCAL space (R250). -/
def execStB (g : BitVec 4) (d a k : BitVec 6) (s : State) : Out := .next (storeOp s g false 1 d a k)

/-- st.h: 2 bytes into LOCAL space (R250). -/
def execStH (g : BitVec 4) (d a k : BitVec 6) (s : State) : Out := .next (storeOp s g false 2 d a k)

/-- st.w: 4 bytes into LOCAL space (R250). -/
def execStW (g : BitVec 4) (d a k : BitVec 6) (s : State) : Out := .next (storeOp s g false 4 d a k)

/-- st.d: 8 bytes into LOCAL space (R250). -/
def execStD (g : BitVec 4) (d a k : BitVec 6) (s : State) : Out := .next (storeOp s g false 8 d a k)

/-- stv.b: 1 bytes into VAULT space (R250). -/
def execStvB (g : BitVec 4) (d a k : BitVec 6) (s : State) : Out := .next (storeOp s g true 1 d a k)

/-- stv.h: 2 bytes into VAULT space (R250). -/
def execStvH (g : BitVec 4) (d a k : BitVec 6) (s : State) : Out := .next (storeOp s g true 2 d a k)

/-- stv.w: 4 bytes into VAULT space (R250). -/
def execStvW (g : BitVec 4) (d a k : BitVec 6) (s : State) : Out := .next (storeOp s g true 4 d a k)

/-- stv.d: 8 bytes into VAULT space (R250). -/
def execStvD (g : BitVec 4) (d a k : BitVec 6) (s : State) : Out := .next (storeOp s g true 8 d a k)

/-- vld.v (R251). -/
def execVldV (g : BitVec 4) (d a k : BitVec 6) (s : State) : Out := .next (vloadOp s g false 32 false d a k)

/-- vld.bc (R251). -/
def execVldBc (g : BitVec 4) (d a k : BitVec 6) (s : State) : Out := .next (vloadOp s g false 32 true d a k)

/-- vld.h (R251). -/
def execVldH (g : BitVec 4) (d a k : BitVec 6) (s : State) : Out := .next (vloadOp s g false 16 false d a k)

/-- vldv.v (R251). -/
def execVldvV (g : BitVec 4) (d a k : BitVec 6) (s : State) : Out := .next (vloadOp s g true 32 false d a k)

/-- vldv.bc (R251). -/
def execVldvBc (g : BitVec 4) (d a k : BitVec 6) (s : State) : Out := .next (vloadOp s g true 32 true d a k)

/-- vldv.h (R251). -/
def execVldvH (g : BitVec 4) (d a k : BitVec 6) (s : State) : Out := .next (vloadOp s g true 16 false d a k)

/-- vst.v (R251). -/
def execVstV (g : BitVec 4) (d a k : BitVec 6) (s : State) : Out := .next (vstoreOp s g false 32 d a k)

/-- vst.h (R251). -/
def execVstH (g : BitVec 4) (d a k : BitVec 6) (s : State) : Out := .next (vstoreOp s g false 16 d a k)

/-- vstv.v (R251). -/
def execVstvV (g : BitVec 4) (d a k : BitVec 6) (s : State) : Out := .next (vstoreOp s g true 32 d a k)

/-- vstv.h (R251). -/
def execVstvH (g : BitVec 4) (d a k : BitVec 6) (s : State) : Out := .next (vstoreOp s g true 16 d a k)

end Sys2Proof.Machine
end

