-- ==== Sys2Proof/Machine/Bight.lean ====
section
/-! DEFINITION. The bight operations (R103 to R108, R252 to R256). -/

namespace Sys2Proof.Machine

/-- A MEM trap of the X slot that no address raises: FADDR is a free value (log 24). -/
def noAddrTrap (s : State) (cause : BitVec 8) : Pre := .trap ⟨tMEM, cause, 4, Config.freeFaddr s.freeCtr⟩

/-- The team of the issuing context, a team without resources when there is none. -/
def State.myTeam (s : State) : Team :=
  (s.teamOf s.issue.x).getD ⟨0, 0, 0, [], 0, [], 0, [], 0, 0, 0, 0, 0, [], false, false, false, false, false, false⟩

/-- Core of the issuing context. -/
def State.myCore (s : State) : Nat := ctxCore s.issue.x

/-- Entry n of the issuing team. -/
def State.myEntry (s : State) (n : BitVec 6) : Bight := SMap.get Bight.none s.myTeam.bights n.toNat

/-- A bight number outside the team's allocation (R103, R252). -/
def bgtBad (s : State) (n : BitVec 6) : Bool := decide (s.myTeam.nbgt ≤ n.toNat)

/-- Replace entry n of a team. -/
def State.setEntry (s : State) (core task n : Nat) (b : Bight) : State :=
  s.modCore core (fun c => c.modTeam task (fun t => { t with bights := SMap.set Bight.none t.bights n b }))

/-! ## Map (R103, R104, R253) -/

/-- A descriptor of 32 bytes (R103). -/
def bightOf (d gen : Nat) : Bight :=
  { vbase := BitVec.ofNat 64 d, stride := BitVec.ofNat 32 (bitsOf d 64 32), count := BitVec.ofNat 24 (bitsOf d 96 24)
    elem := BitVec.ofNat 10 (bitsOf d 120 10), loff := BitVec.ofNat 24 (bitsOf d 136 24), space := bitOf d 160
    wr := bitOf d 161, pf := bitOf d 162, v := bitOf d 163, lt := BitVec.ofNat 8 (bitsOf d 164 8), gen := gen }

/-- Reserved bits of a descriptor. -/
def bightRsvd (d : Nat) : Bool := bitsOf d 130 6 ≠ 0 || bitsOf d 172 84 ≠ 0

/-- The local ranges of two entries overlap. -/
def Bight.overlaps (a b : Bight) : Bool :=
  a.space = b.space && decide (a.loff.toNat < b.loff.toNat + b.words) && decide (b.loff.toNat < a.loff.toNat + a.words)

/-- A descriptor breaks R104 for entry n of a team. -/
def Team.mapBad (t : Team) (n d : Nat) : Bool :=
  let b := bightOf d 0
  bightRsvd d || bitsOf d 0 2 ≠ 0 || b.count = 0 || b.stride.toNat % 4 ≠ 0 ||
    (decide (1 < b.count.toNat) && decide (b.stride.toNat < 4 * b.w4)) ||
    decide (t.winSize b.space < 4 * (b.loff.toNat + b.words)) ||
    t.bights.any (fun e => e.1 ≠ n && e.2.v && e.2.overlaps b)

/-- The descriptor at own-window offset o, as the context sees it. -/
def State.descAt (s : State) (o : Nat) : Nat := s.seen s.issue.x s.myCore false (s.myTeam.spadBase + o) 32

/-- A word of n bytes at an own-window offset is mapped and not usable for the issuing context, whose queued stores make the words they
cover whole (R100, R107). -/
def State.blockUnusable (s : State) (o n : Nat) : Bool :=
  (List.range (n / 4)).any (fun k =>
    !s.usable s.myCore false ((s.myTeam.spadBase + o) / 4 + k) && !s.storedWord s.myCore false ((s.myTeam.spadBase + o) / 4 + k))

/-- The tests of bgt.map in their order (R252, R253). -/
def mapPre (s : State) (n a : BitVec 6) : Pre :=
  let o := (s.me.rs a).toNat
  if bgtBad s n then noAddrTrap s mBIGHT
  else if o % 32 ≠ 0 then memTrap mALIGN o
  else if s.myTeam.spadSize < o + 32 then memTrap mRANGE o
  else if s.blockUnusable o 32 then memTrap mBIGHT o
  else if (s.myEntry n).v || !bitOf (s.descAt o) 163 || s.myTeam.mapBad n.toNat (s.descAt o) then memTrap mBIGHT o
  else .go

/-- Words of a range lose their side bits. -/
def Core.clearRange (c : Core) (vault : Bool) (lo n : Nat) : Core :=
  let keep (m : SMap Side) : SMap Side := m.filter (fun e => decide (e.1 < lo) || decide (lo + n ≤ e.1))
  if vault then { c with vaultSide := keep c.vaultSide } else { c with spadSide := keep c.spadSide }

/-- Lines that element e of a range touches, ascending. -/
def Bight.elemLines (b : Bight) (e : Nat) : List Nat :=
  let v := (b.vbase.toNat + e * b.stride.toNat) % 2 ^ 64
  (List.range ((v % 64 + 4 * b.w4 + 63) / 64)).map (fun k => (v / 64 * 64 + 64 * k) % 2 ^ 64)

/-- Start the fill of a line of entry n, unless it is in flight or all its words are usable (R106, R253, R255). It is an access
of the context: it follows the open drains, acquires and SC operations, and the accesses that were issued before the words were
mapped (R130, R132, R136, R253). -/
def State.startLine (s : State) (x : CtxNo) (core : Nat) (t : Team) (n : Nat) (b : Bight) (line : Nat) (orig : Word) : State :=
  if (s.fillOf core t.task n line).isSome || (b.lineWords line).all (fun i => s.usable core b.space (t.bightBase b + i)) then s
  else (s.addOp x core t.task (.fill n) line (s.openFences x ++ s.sameBytes x s.nextOp line 64 ++ (s.ctx x).rawIds s.nextOp) false 0
    orig).2

/-- Start the fills of elements e to e + k - 1 in ascending order (R253, R255). -/
def State.startElems (s : State) (x : CtxNo) (core : Nat) (t : Team) (n : Nat) (b : Bight) (orig : Word) (e : Nat) : Nat → State
  | 0 => s
  | k + 1 => State.startElems ((b.elemLines e).foldl (fun s l => s.startLine x core t n b l orig) s) x core t n b orig (e + 1) k

/-- Enter an entry: side bits clear, accesses issued before act on unmapped words, then background fills (R105, R253). -/
def State.enterBight (s : State) (x : CtxNo) (core task n : Nat) (b : Bight) (orig : Word) : State :=
  match (s.core core).team? task with
  | none => s
  | some t =>
    let s := s.setEntry core task n b
    let s := s.modCore core (fun c => c.clearRange b.space (t.bightBase b) b.words)
    let s := s.modCtx x (fun c => c.markRaw core b.space (t.bightBase b) b.words)
    if b.pf then s.startElems x core t n b orig 0 b.count.toNat else s

/-- Enter a map from its descriptor, with an identity of its own. -/
def State.enterMap (s : State) (x : CtxNo) (core task n d : Nat) (orig : Word) : State :=
  State.enterBight { s with nextOp := s.nextOp + 1 } x core task n (bightOf d s.nextOp) orig

/-- bgt.map (R253). -/
def execBgtMap (g : BitVec 4) (n a : BitVec 6) (s : State) : Out :=
  .next (s.gated g (mapPre s n a) (s.enterMap s.issue.x s.myCore s.myTask n.toNat (s.descAt (s.me.rs a).toNat) s.me.pc))

/-! ## Capture and write-back (R108, R254) -/

/-- Words of a range that are DIRTY, or that a queued store of the context will make DIRTY: one that was issued before the map does not
(R253). -/
def State.dirtyIn (s : State) (x : CtxNo) (core : Nat) (vault : Bool) (lo n : Nat) : List Nat :=
  let inR (w : Nat) : Bool := decide (lo ≤ w) && decide (w < lo + n)
  let side := (((s.core core).sides vault).filter (fun e => e.2.dirty && inR e.1)).map (·.1)
  let queued := (s.ctx x).stq.flatMap (fun p => p.elems.flatMap (fun e =>
    if e.1 = core && e.2.1 = vault then
      (wordsOf e.2.2.1 p.n).filter (fun w => inR w && !p.flushed.contains (vault, w) && !p.raw.contains (vault, w) &&
        (decide (4 ≤ p.n) || s.usable core vault w))
    else []))
  (side ++ queued).eraseDups

/-- The captured words (global address, value) of an entry. -/
def State.captured (s : State) (x : CtxNo) (core : Nat) (t : Team) (b : Bight) : List (Nat × BitVec 32) :=
  let lo := t.bightBase b
  (s.dirtyIn x core b.space lo b.words).map (fun w =>
    (b.va (w - lo), BitVec.ofNat 32 (s.seen x core b.space (4 * w) 4)))

/-- Start one write-back for each line of some captured words (R108); they follow the context's fences, its accesses to the
same bytes, and the queued stores whose data they carry. -/
def State.startWbs (s : State) (x : CtxNo) (core task n : Nat) (flush : Bool) (gen : Nat) (orig : Word) :
    Nat → List (Nat × BitVec 32) → State
  | 0, _ => s
  | _, [] => s
  | k + 1, w :: r =>
    let line := w.1 / 64
    let here := w :: r.filter (fun v => v.1 / 64 = line)
    let after := s.openFences x ++ s.sameBytes x s.nextOp (line * 64) 64 ++ (s.ctx x).stq.map (·.id)
    let s := (s.addOp x core task (.wb n flush here gen) (line * 64) after false 0 orig).2
    State.startWbs s x core task n flush gen orig k (r.filter (fun v => v.1 / 64 ≠ line))

/-- Words that an entry owns are captured with its dirty words: each stays owned, with the captured value as the home's, until the
write-back performs; atomics of the team execute there no more (R108, R141). -/
def State.endOwnership (s : State) (x : CtxNo) (core task n lo : Nat) (b : Bight) : State :=
  { s with owners := s.owners.map (fun o =>
      if o.core = core && o.task = task && o.n = n && o.cap.isNone then
        { o with cap := some (b.va (o.w - lo), BitVec.ofNat 32 (s.seen x core b.space (4 * o.w) 4)) }
      else o) }

/-- Queued stores of the context to a range leave DIRTY alone from now on: their data is captured (R128). -/
def State.markFlushed (s : State) (x : CtxNo) (core : Nat) (vault : Bool) (lo n : Nat) : State :=
  let inR (w : Nat) : Bool := decide (lo ≤ w) && decide (w < lo + n)
  s.modCtx x (fun c => { c with stq := c.stq.map (fun p => { p with
    flushed := p.flushed ++ (p.elems.flatMap (fun e =>
      if e.1 = core && e.2.1 = vault then ((wordsOf e.2.2.1 p.n).filter inR).map (fun w => (vault, w)) else [])) }) })

/-- Flush of an entry: capture, DIRTY := 0, and the write-backs started (R108, R254). -/
def State.flushEntry (s : State) (x : CtxNo) (core task n : Nat) (flush : Bool) (orig : Word) : State :=
  match s.entryOf core task n with
  | none => s
  | some (t, b) =>
    let ws := s.captured x core t b
    let lo := t.bightBase b
    let s := s.endOwnership x core task n lo b
    let s1 := (s.markFlushed x core b.space lo b.words).startWbs x core task n flush b.gen orig ws.length ws
    (s.dirtyIn x core b.space lo b.words).foldl (fun u w => u.modCore core (fun c =>
      let e := c.side b.space w
      if e.dirty then c.setSide b.space w { e with dirty := false } else c)) s1

/-- bgt.flush (R254). -/
def execBgtFlush (g : BitVec 4) (n : BitVec 6) (s : State) : Out :=
  .next (s.gated g (if bgtBad s n then noAddrTrap s mBIGHT else .go)
    (s.flushEntry s.issue.x s.myCore s.myTask n.toNat true s.me.pc))

/-- A fill of an entry is in flight. -/
def State.filling (s : State) (core task n : Nat) : Bool :=
  s.ops.any (fun o => o.core = core && o.task = task && o.kind = .fill n)

/-- Words that were never filled nor stored hold a free value once they are unmapped (R105, log 13): k words from w on. -/
def State.freeWords (s : State) (core : Nat) (vault : Bool) (w : Nat) : Nat → State
  | 0 => s
  | k + 1 =>
    let s := if ((s.core core).side vault w).defined then s
      else State.modCore { s with freeCtr := s.freeCtr + 1 } core (fun c =>
        c.setStore vault (Memory.wrN (c.store vault) (4 * w) (Config.freeWord s.freeCtr).toNat 4))
    State.freeWords s core vault (w + 1) k

/-- Unmap of an entry: capture and write-back as a flush, then its words are unmapped and the entry is free (R105, R254). -/
def State.unmapEntry (s : State) (x : CtxNo) (core task n : Nat) (orig : Word) : State :=
  match s.entryOf core task n with
  | none => s
  | some (t, b) =>
    let s := s.flushEntry x core task n false orig
    let s := s.freeWords core b.space (t.bightBase b) b.words
    let s := s.modCore core (fun c => c.clearRange b.space (t.bightBase b) b.words)
    (s.setEntry core task n Bight.none).dropDir core task n b.gen

/-- bgt.unmap stalls while a fill of the entry is in flight (R252, R254). -/
def unmapPre (s : State) (n : BitVec 6) : Pre :=
  if bgtBad s n then noAddrTrap s mBIGHT
  else if (s.myEntry n).v && s.filling s.myCore s.myTask n.toNat then .stall
  else .go

/-- bgt.unmap (R254). -/
def execBgtUnmap (g : BitVec 4) (n : BitVec 6) (s : State) : Out :=
  .next (s.gated g (unmapPre s n) (s.unmapEntry s.issue.x s.myCore s.myTask n.toNat s.me.pc))

/-- Touch: elements e0 to e0 + k - 1 below COUNT (R255). -/
def State.touch (s : State) (n : BitVec 6) (e0 k : Nat) : State :=
  let b := s.myEntry n
  if b.v then s.startElems s.issue.x s.myCore s.myTeam n.toNat b s.me.pc e0 (min k (b.count.toNat - e0)) else s

/-- bgt.touch (R255). -/
def execBgtTouch (g : BitVec 4) (n a b : BitVec 6) (s : State) : Out :=
  .next (s.gated g (if bgtBad s n then noAddrTrap s mBIGHT else .go) (s.touch n (s.me.rs a).toNat (s.me.rs b).toNat))

/-- The state word of an entry (R256). -/
def State.bgtState (s : State) (n : BitVec 6) : Word :=
  let b := s.myEntry n
  let t := s.myTeam
  let dirty := b.v && !(s.dirtyIn s.issue.x s.myCore b.space (t.bightBase b) b.words).isEmpty
  let wbk := s.ops.any (fun o => o.core = s.myCore && o.task = s.myTask && match o.kind with
    | .wb m f _ _ => f && m = n.toNat
    | _ => false)
  BitVec.ofNat 64 (b2n b.v + b2n b.wr * 2 + b2n b.space * 2 ^ 2 + b2n b.pf * 2 ^ 3 +
    b2n (b.v && s.filling s.myCore s.myTask n.toNat) * 2 ^ 4 + b2n dirty * 2 ^ 5 + b2n wbk * 2 ^ 6 + b.count.toNat * 2 ^ 32)

/-- bgt.query (R256). -/
def execBgtQuery (g : BitVec 4) (n a : BitVec 6) (s : State) : Out :=
  .next (s.gated g (if bgtBad s n then noAddrTrap s mBIGHT else .go) (s.landS a (s.bgtState n) 1))

end Sys2Proof.Machine
end

