-- ==== Sys2Proof/Machine/Copy.lean ====
section
/-! DEFINITION. Copy engines: commands, their units, completions, parking and holding (R124, R156, R257 to R265). -/

namespace Sys2Proof.Machine

/-! ## Queues (R257) -/

/-- The commands of an engine, oldest first. -/
def Core.eng (c : Core) (e : Nat) : List CopyCmd := if e = 0 then c.eng0 else c.eng1

/-- Replace the commands of an engine. -/
def Core.setEng (c : Core) (e : Nat) (l : List CopyCmd) : Core := if e = 0 then { c with eng0 := l } else { c with eng1 := l }

/-- The commands of an engine of a core. -/
def State.eng (s : State) (c e : Nat) : List CopyCmd := (s.core c).eng e

/-- Replace one command. -/
def State.setCmd (s : State) (c e i : Nat) (k : CopyCmd) : State :=
  s.modCore c (fun u => u.setEng e ((u.eng e).set i k))

/-- Commands that hold an entry: all but the ended ones. -/
def live (l : List CopyCmd) : List CopyCmd := l.filter (fun k => k.st ≠ .ended)

/-- Outstanding commands of a context on an engine: pushed and not popped. -/
def State.outCmds (s : State) (x : CtxNo) (e : Nat) : List CopyCmd := (s.eng (ctxCore x) e).filter (fun k => k.x = some x)

/-- A push by a context must wait (R257). -/
def State.copyFull (s : State) (x : CtxNo) (e : Nat) : Bool :=
  decide (8 ≤ (s.outCmds x e).length) || decide (32 ≤ (live (s.eng (ctxCore x) e)).length)

/-! ## Blocks (R259, R260) -/

/-- Fields of a command block. -/
structure Block where
  saddr : Nat
  daddr : Nat
  len : Nat
  nrow : Nat
  spitch : Nat
  dpitch : Nat
  ssp : Nat
  dsp : Nat
  esz : Nat
  aux : Nat
  deriving DecidableEq, Repr

/-- The fields of R259. -/
def blockOf (b : BitVec 512) : Block :=
  let v := b.toNat
  ⟨bitsOf v 0 64, bitsOf v 64 64, bitsOf v 128 24, bitsOf v 152 16, bitsOf v 168 32, bitsOf v 200 32, bitsOf v 232 2,
    bitsOf v 234 2, bitsOf v 236 2, bitsOf v 256 64⟩

/-- Spaces that a kind accepts: source, destination (R260). -/
def kindSpaces (k ssp dsp : Nat) : Bool :=
  let l := fun sp => decide (sp < 2)
  let ok := fun sp => decide (sp < 3)
  match k with
  | 0 => ssp = 2 && l dsp
  | 1 => l ssp && dsp = 2
  | 2 => l ssp && l dsp
  | 3 => ssp = 2 && dsp = 2
  | 4 => ok ssp && l dsp
  | 5 => l ssp && ok dsp
  | 6 => ok ssp && l dsp
  | 7 => ok ssp && ok dsp
  | _ => false

/-- A block breaks R259, R260 or R264 for its kind, bits [383:0]. -/
def blockBad (k : Nat) (b : BitVec 512) : Bool :=
  let f := blockOf b
  let v := b.toNat
  !kindSpaces k f.ssp f.dsp || bitsOf v 238 18 ≠ 0 || bitsOf v 320 64 ≠ 0 ||
  (if k = 7 then bitsOf v 144 8 ≠ 0 else f.len = 0) ||
  (decide (4 ≤ k) && f.nrow ≠ 0) ||
  (if k = 4 || k = 5 then f.aux % 4 ≠ 0
   else if k = 6 then bitsOf f.aux 0 32 = 0 || bitsOf f.aux 34 30 ≠ 0 || (f.dsp = 1 && 2 ^ 24 ≤ f.daddr)
   else f.aux ≠ 0) ||
  (if k = 4 || k = 5 then false else if k = 7 then decide (1 < f.esz) else f.esz ≠ 0)

/-- Elements of a transposed tile. -/
def Block.rows (f : Block) : Nat := bitsOf f.len 8 8 + 1
def Block.cols (f : Block) : Nat := bitsOf f.len 0 8 + 1

/-- Units of a command (R261). -/
def Block.units (f : Block) (k : Nat) : Nat :=
  if k ≤ 3 then (f.nrow + 1) * f.len else if k = 7 then f.rows * f.cols else f.len

/-- Bytes of one unit (R261). -/
def Block.unitSize (f : Block) (k : Nat) : Nat := if k = 4 || k = 5 || k = 7 then 2 ^ f.esz else 1

/-! ## cpy and cq (R258, R265) -/

/-- The engine that a field names; fields 2 and 3 are no encoding (R272). -/
def engOf (e : BitVec 2) : Nat := e.toNat % 2

/-- The 64-byte block at an own-window offset, as the context sees it. -/
def State.blockAt (s : State) (o : Nat) : BitVec 512 :=
  BitVec.ofNat 512 (s.seen s.issue.x s.myCore false (s.myTeam.spadBase + o) 64)

/-- The tests of cpy: the queue, then those of R258 in order. -/
def cpyPre (s : State) (k : Nat) (a : BitVec 6) (e : BitVec 2) : Pre :=
  let o := (s.me.rs a).toNat
  if s.copyFull s.issue.x (engOf e) then .stall
  else if o % 64 ≠ 0 then memTrap mALIGN o
  else if s.myTeam.spadSize < o + 64 then memTrap mRANGE o
  else if s.blockUnusable o 64 then memTrap mBIGHT o
  else if blockBad k (s.blockAt o) || bitsOf (s.blockAt o).toNat 384 128 ≠ 0 then memTrap mCMD o
  else .go

/-- A new command. -/
def newCmd (x : Option CtxNo) (task k : Nat) (tag : BitVec 16) (b : BitVec 512) (hid : Nat) (after : List (CtxNo × Nat)) : CopyCmd :=
  { tag := tag, x := x, task := task, kind := BitVec.ofNat 4 k, blk := b, prog := 0, st := .queued, fmask := 0, excl := 0
    fid := none, room := false, fill := none, bad := none, paused := false, hid := hid, after := after }

/-- The tag counter of an engine. -/
def Ctx.tagOf (c : Ctx) (e : Nat) : BitVec 16 := if e = 0 then c.tag[0] else c.tag[1]

/-- The tag counter advances modulo 2^16. -/
def Ctx.bumpTag (c : Ctx) (e : Nat) : Ctx :=
  { c with tag := if e = 0 then c.tag.set 0 (c.tag[0] + 1) else c.tag.set 1 (c.tag[1] + 1) }

/-- Push of a command, a release to the engine (R138, R258). -/
def State.pushCopy (s : State) (k : Nat) (d a : BitVec 6) (e : Nat) : State :=
  let x := s.issue.x
  let cmd := newCmd (some x) s.myTask k (s.me.tagOf e) (s.blockAt (s.me.rs a).toNat) 0
    ((s.allOutstanding x).map (fun id => (x, id)))
  let s1 := s.modCore s.myCore (fun c => c.setEng e (c.eng e ++ [cmd]))
  (s1.landS d ((s.me.tagOf e).setWidth 64) 1).modCtx x (fun c => c.bumpTag e)

/-- cpy of one kind (R258, R260). -/
def State.cpy (s : State) (g : BitVec 4) (k : Nat) (d a : BitVec 6) (e : BitVec 2) : State :=
  s.gated g (cpyPre s k a e) (s.pushCopy k d a (engOf e))

/-- cpy.g2s (R260). -/
def execCpyG2s (g : BitVec 4) (d a : BitVec 6) (e : BitVec 2) (s : State) : Out := .next (s.cpy g 0 d a e)

/-- cpy.s2g (R260). -/
def execCpyS2g (g : BitVec 4) (d a : BitVec 6) (e : BitVec 2) (s : State) : Out := .next (s.cpy g 1 d a e)

/-- cpy.s2s (R260). -/
def execCpyS2s (g : BitVec 4) (d a : BitVec 6) (e : BitVec 2) (s : State) : Out := .next (s.cpy g 2 d a e)

/-- cpy.g2g (R260). -/
def execCpyG2g (g : BitVec 4) (d a : BitVec 6) (e : BitVec 2) (s : State) : Out := .next (s.cpy g 3 d a e)

/-- cpy.gath (R260). -/
def execCpyGath (g : BitVec 4) (d a : BitVec 6) (e : BitVec 2) (s : State) : Out := .next (s.cpy g 4 d a e)

/-- cpy.scat (R260). -/
def execCpyScat (g : BitVec 4) (d a : BitVec 6) (e : BitVec 2) (s : State) : Out := .next (s.cpy g 5 d a e)

/-- cpy.mcast (R260, R264). -/
def execCpyMcast (g : BitVec 4) (d a : BitVec 6) (e : BitVec 2) (s : State) : Out := .next (s.cpy g 6 d a e)

/-- cpy.tr (R124, R260). -/
def execCpyTr (g : BitVec 4) (d a : BitVec 6) (e : BitVec 2) (s : State) : Out := .next (s.cpy g 7 d a e)

/-- The completion queue of an engine. -/
def Ctx.cqOf (c : Ctx) (e : Nat) : List Word := if e = 0 then c.cq[0] else c.cq[1]

/-- Replace the completion queue of an engine. -/
def Ctx.setCq (c : Ctx) (e : Nat) (l : List Word) : Ctx :=
  { c with cq := if e = 0 then c.cq.set 0 l else c.cq.set 1 l }

/-- cq.pop stalls while the queue is empty (R265). -/
def cqPopPre (s : State) (e : BitVec 2) : Pre := if (s.me.cqOf (engOf e)).isEmpty then .stall else .go

/-- Remove the ended command of a context with a tag. -/
def dropEnded (x : CtxNo) (tag : BitVec 16) (l : List CopyCmd) : List CopyCmd :=
  l.filter (fun k => !(k.x = some x && k.tag = tag && k.st = .ended))

/-- cq.pop takes the oldest completion word; the command is outstanding no longer (R257, R265). -/
def execCqPop (g : BitVec 4) (d : BitVec 6) (e : BitVec 2) (s : State) : Out :=
  .next (s.gated g (cqPopPre s e)
    (match s.me.cqOf (engOf e) with
     | [] => s
     | w :: r =>
       ((s.landS d w 1).modCtx s.issue.x (fun c => c.setCq (engOf e) r)).modCore s.myCore (fun c =>
         c.setEng (engOf e) (dropEnded s.issue.x (w.setWidth 16) (c.eng (engOf e))))))

/-- STATE of cq.prog (R265). -/
def CopySt.code : CopySt → Nat
  | .queued => 1
  | .running => 2
  | .parked => 3
  | .held => 4
  | .ended => 5

/-- The value of cq.prog (R265). -/
def State.cqProg (s : State) (e : Nat) (tag : BitVec 16) : Word :=
  match (s.outCmds s.issue.x e).find? (fun k => k.tag = tag) with
  | some k => BitVec.ofNat 64 (k.prog % 2 ^ 40 + k.st.code * 2 ^ 40)
  | none => 0

/-- cq.prog (R265). -/
def execCqProg (g : BitVec 4) (d a : BitVec 6) (e : BitVec 2) (s : State) : Out :=
  .next (s.opS g d (s.cqProg (engOf e) ((s.me.rs a).setWidth 16)) 1)

/-- cq.cnt (R265). -/
def execCqCnt (g : BitVec 4) (d : BitVec 6) (e : BitVec 2) (s : State) : Out :=
  .next (s.opS g d (BitVec.ofNat 64 ((s.outCmds s.issue.x (engOf e)).length + (s.me.cqOf (engOf e)).length * 2 ^ 8)) 1)

/-! ## Units (R261 to R264) -/

/-- What an access of an engine gives. -/
inductive URes where
  | ok (v : Nat) (s : State)
  /-- it waits on a fill, or on the host's translation -/
  | wait (fill : Option Nat) (s : State)
  /-- a translation fault that the claimant resolves, with its identifier once it has one -/
  | park (fid : Option Nat) (s : State)
  | fail (status : Nat) (s : State)

/-- Translate for an engine: inside a page that a shootdown or flip reaches it goes on under the old translation (R363). -/
def State.engXlate (s : State) (core : Nat) (asid : BitVec 16) (a : Nat) (w : Bool) : Xlate :=
  if s.barred core asid a then s.lookOld core asid a w else s.look core asid a w

/-- An engine's accesses to GLOBAL: translate in the task's ASID, then act at the home (R98, R114, R263). A fault parks the command,
also while it waits for a free identifier, and so does the fault that the host's answer became; waiting for that answer does not
(R262, R357, R360, log 105). -/
def State.engGlobal (s : State) (core task : Nat) (src : BitVec 3) (a : Nat) (w : Bool) (f : Nat → Attr → State → URes) : URes :=
  let asid := s.taskAsid task
  match s.engXlate core asid a w with
  | .ok pa at_ => f pa at_ (if s.barred core asid a then s else s.walked core asid a)
  | .hold => .wait none s
  | .ats =>
    let s := s.walkReads core asid a
    match s.fidOn asid a w with
    | some q => .park (some q.fid) s
    | none => .wait none (s.askAts asid a w (s.claimOf task) core)
  | .fault k =>
    match (s.walkReads core asid a).faultAt k asid a w (s.claimOf task) src core with
    | (.wait fid, t) => .park (some fid) t
    | (.full, t) => .park none t
    | (.perm, t) => .fail 4 t

/-- MemRead of an engine: space 0 LOCAL, 1 VAULT, 2 GLOBAL (R98, R105, R263). -/
def State.engRead (s : State) (core task : Nat) (src : BitVec 3) (sp a n : Nat) (first : Bool) : URes :=
  if sp = 2 then
    if a % n ≠ 0 then .fail 3 s
    else s.engGlobal core task src a false (fun pa at_ s =>
      if s.physBad pa n then .fail 5 s
      else if at_.host && s.wonusWaits task then .wait none s
      else
        let r := s.readHome (whoEng core task first) at_ pa n
        .ok r.1 (r.2.logHostRead task at_ pa n r.1))
  else
    match s.resolve core task (sp = 1) a n with
    | .error c => .fail c.toNat s
    | .ok l =>
      let s := s.findStore l.core l.vault l.off n
      if !s.allUsable l n then
        let f := s.engFill core l n
        .wait f.1 f.2
      else if s.poisoned l then .fail 5 s
      else .ok (s.rdLoc l n) s

/-- The granule that a byte ends is clean in DRAM: a command has written all its eight bytes in a row (R408). -/
def State.cleanGranule (s : State) (pa : Nat) (whole : Bool) : State :=
  if whole && paTarget pa = 0 then { s with poison := s.poison.filter (fun g => g ≠ pa / 8) } else s

/-- The same in a store of a core. -/
def State.cleanLoc (s : State) (l : Loc) (whole : Bool) : State :=
  if whole then s.modCore l.core (fun c => c.clearPoison l.vault (l.off / 8 * 8) 8) else s

/-- MemWrite of an engine; `whole` says that it ends a granule all of whose bytes the command has written in a row
(R98, R107, R263, R408, R413). -/
def State.engWrite (s : State) (core task : Nat) (src : BitVec 3) (sp a n v : Nat) (first whole : Bool) : URes :=
  if sp = 2 then
    if a % n ≠ 0 then .fail 3 s
    else s.engGlobal core task src a true (fun pa at_ s =>
      if s.fenced pa then .fail 5 s
      else .ok 0 ((s.writeHome (whoEng core task first) none at_ pa [⟨pa, n, v⟩]).cleanGranule pa whole))
  else
    match s.resolve core task (sp = 1) a n with
    | .error c => .fail c.toNat s
    | .ok l =>
      if s.readOnly l n then .fail 7 s
      else if s.isMerge l n then
        let f := s.engFill core l n
        .wait f.1 f.2
      else .ok 0 ((s.wrLoc l n v).cleanLoc l whole)

/-- Continue after an access. -/
def URes.bind (r : URes) (f : Nat → State → URes) : URes :=
  match r with
  | .ok v s => f v s
  | .wait i s => .wait i s
  | .park i s => .park i s
  | .fail c s => .fail c s

/-- Receivers of an mcast: positions 32 RBASE + j (R264). -/
def Block.receivers (f : Block) : List (Nat × Nat) :=
  (List.range 32).filterMap (fun j => if bitOf f.aux j then some (j, 32 * bitsOf f.aux 32 2 + j) else none)

/-- Why a receiver is excluded, 0 for not at all (R264). -/
def State.exclusion (s : State) (task : Nat) (f : Block) (p : Nat) : Nat :=
  match s.coreAt task p with
  | none => 2
  | some c =>
    match s.inWindow c task (f.dsp = 1) f.daddr f.len with
    | .error _ => 1
    | .ok l =>
      if (List.range ((l.off % 4 + f.len + 3) / 4)).any (fun k => s.isMapped c l.vault (l.off / 4 + k)) then 6 else 0

/-- The exclusions of an mcast, before its first write: FMASK, and the cause of the lowest (R264). -/
def State.exclusions (s : State) (task : Nat) (f : Block) : BitVec 32 × Nat :=
  let l := f.receivers.map (fun r => (r.1, s.exclusion task f r.2))
  (BitVec.ofNat 32 (l.foldl (fun m r => if r.2 = 0 then m else m + 2 ^ r.1) 0),
    ((l.find? (fun r => r.2 ≠ 0)).map (·.2)).getD 0)

/-- Where byte b of an mcast goes: its place at every receiver that is not excluded (R264). -/
def State.mcastLocs (s : State) (task : Nat) (f : Block) (fmask : BitVec 32) (b : Nat) : List Loc :=
  f.receivers.filterMap (fun r =>
    if fmask.getLsbD r.1 then none
    else
      match s.coreAt task r.2 with
      | none => none
      | some c =>
        match s.inWindow c task (f.dsp = 1) (f.daddr + b) 1 with
        | .error _ => none
        | .ok l => some l)

/-- Write one byte to those places, each as R98 has it: a word that was mapped after the exclusion test is merged or read only
(R98, R261, R264). -/
def State.mcastByte (s : State) (v : Nat) (ls : List Loc) (whole : Bool) : URes :=
  if ls.any (fun l => s.readOnly l 1) then .fail 7 s
  else
    match ls.find? (fun l => s.isMerge l 1) with
    | some l => let f := s.engFill l.core l 1
      .wait f.1 f.2
    | none => .ok 0 (ls.foldl (fun s l => (s.wrLoc l 1 v).cleanLoc l whole) s)

/-- Source and destination addresses of unit `u`, for the kinds without an index (R124, R261). -/
def Block.addrs (f : Block) (k u : Nat) : Nat × Nat :=
  if k ≤ 3 then
    let r := u / f.len
    let b := u % f.len
    ((f.saddr + r * f.spitch + b) % 2 ^ 64, (f.daddr + r * f.dpitch + b) % 2 ^ 64)
  else if k = 7 then
    let i := u / f.cols
    let j := u % f.cols
    ((f.saddr + i * f.spitch + j * 2 ^ f.esz) % 2 ^ 64, (f.daddr + j * f.dpitch + i * 2 ^ f.esz) % 2 ^ 64)
  else ((f.saddr + u) % 2 ^ 64, (f.daddr + u) % 2 ^ 64)

/-- A unit begins a line of its address. -/
def beginsLine (f : Block) (k u a : Nat) : Bool :=
  a % 64 = 0 || u = 0 || (decide (k ≤ 3) && u % f.len = 0) || decide (k = 4) || decide (k = 5) || k = 7

/-- The unit of a row copy or an mcast ends an 8-byte granule of its destination, all of which its row has written (R408). -/
def Block.endsGranule (f : Block) (k u a : Nat) : Bool :=
  a % 8 = 7 && (if k ≤ 3 then decide (7 ≤ u % f.len) else k = 6 && decide (7 ≤ u))

/-- SRC of a translation fault of a command: 2 for one that a halyard pushed, else 1 (R267, R358). -/
def CopyCmd.faultSrc (c : CopyCmd) : BitVec 3 := if c.x.isNone then srcHalyard else srcCopy

/-- One unit of a command (R261). `fresh` says that it goes on after other agents may have acted: it is then an access of its own to
its lines, like one that begins a line (R119, R125, R133). -/
def State.copyUnit (s : State) (core : Nat) (c : CopyCmd) (fresh : Bool) : URes :=
  let src := c.faultSrc
  let f := blockOf c.blk
  let k := c.kind.toNat
  let u := c.prog
  let n := f.unitSize k
  if k = 4 then
    (s.engRead core c.task src 0 ((f.aux + 4 * u) % 2 ^ 64) 4 true).bind (fun i s =>
      (s.engRead core c.task src f.ssp ((f.saddr + i * f.spitch) % 2 ^ 64) n true).bind (fun v s =>
        s.engWrite core c.task src f.dsp ((f.daddr + u * n) % 2 ^ 64) n v true false))
  else if k = 5 then
    (s.engRead core c.task src 0 ((f.aux + 4 * u) % 2 ^ 64) 4 true).bind (fun i s =>
      (s.engRead core c.task src f.ssp ((f.saddr + u * n) % 2 ^ 64) n true).bind (fun v s =>
        s.engWrite core c.task src f.dsp ((f.daddr + i * f.dpitch) % 2 ^ 64) n v true false))
  else
    let a := f.addrs k u
    (s.engRead core c.task src f.ssp a.1 n (fresh || beginsLine f k u a.1)).bind (fun v s =>
      if k = 6 then s.mcastByte v (s.mcastLocs c.task f c.fmask u) (f.endsGranule k u a.2)
      else s.engWrite core c.task src f.dsp a.2 n v (fresh || beginsLine f k u a.2)
        (f.endsGranule k u a.2))

/-! ## Holding and pausing (R156, R262, R363) -/

/-- The command reads or writes global memory. -/
def CopyCmd.global (c : CopyCmd) : Bool :=
  let f := blockOf c.blk
  f.ssp = 2 || f.dsp = 2

/-- The task's memory debits have reached its class's RATE (R156). -/
def State.rateHeld (s : State) (task : Nat) : Bool :=
  match s.task? task with
  | some t =>
    let r := bitsOf (SMap.get 0 s.ecls t.eclass.toNat).toNat 24 24
    r ≠ 0 && decide (r ≤ t.debits)
  | none => false

/-- R156 holds the command at a line boundary. -/
def State.mustHold (s : State) (core : Nat) (c : CopyCmd) : Bool :=
  c.global && (decide ((s.island core).hold ≤ 0) || s.rateHeld c.task)

/-- Global addresses of the command's next unit, for the kinds without an index. -/
def CopyCmd.globals (c : CopyCmd) : List Nat :=
  let f := blockOf c.blk
  let k := c.kind.toNat
  let a := f.addrs k c.prog
  if k = 4 then if f.ssp = 2 then [f.saddr] else []
  else if k = 5 then if f.dsp = 2 then [f.daddr] else []
  else (if f.ssp = 2 then [a.1] else []) ++ (if f.dsp = 2 then [a.2] else [])

/-- The index of a unit of a gather or scatter, where it can be read (R261). -/
def State.cmdIndex (s : State) (core : Nat) (c : CopyCmd) : Option Nat :=
  match s.resolve core c.task false (((blockOf c.blk).aux + 4 * c.prog) % 2 ^ 64) 4 with
  | .ok l => if s.allUsable l 4 then some (s.rdLoc l 4) else none
  | .error _ => none

/-- Global addresses of the unit at PROG: of the source, then of the destination, where each is global (R261). -/
def State.unitEnds (s : State) (core : Nat) (c : CopyCmd) : Option Nat × Option Nat :=
  let f := blockOf c.blk
  let k := c.kind.toNat
  let a : Option Nat × Option Nat :=
    if k = 4 then ((s.cmdIndex core c).map (fun i => (f.saddr + i * f.spitch) % 2 ^ 64), none)
    else if k = 5 then (none, (s.cmdIndex core c).map (fun i => (f.daddr + i * f.dpitch) % 2 ^ 64))
    else let a := f.addrs k c.prog; (some a.1, some a.2)
  (if f.ssp = 2 then a.1 else none, if f.dsp = 2 then a.2 else none)

/-- Global addresses of the command's next unit (R261). -/
def State.unitGlobals (s : State) (core : Nat) (c : CopyCmd) : List Nat :=
  let e := s.unitEnds core c
  e.1.toList ++ e.2.toList

/-- The slices that the command's next unit asks (R112, R156). -/
def State.unitSlices (s : State) (core : Nat) (c : CopyCmd) (fresh : Bool) : List Nat :=
  ((s.unitGlobals core c).filter (fun a => fresh || beginsLine (blockOf c.blk) c.kind.toNat c.prog a)).filterMap
    (s.sliceOf core (s.taskAsid c.task))

/-- The next unit begins a 64-byte line of some global range. -/
def CopyCmd.atLine (c : CopyCmd) : Bool :=
  let f := blockOf c.blk
  let k := c.kind.toNat
  c.globals.any (fun a => beginsLine f k c.prog a)

/-- An address of the next unit lies in another leaf page than that of the unit before, if there was one (R363). -/
def State.entersPage (s : State) (core : Nat) (asid : BitVec 16) (a : Nat) (before : Option Nat) : Bool :=
  match before with
  | some b => !s.samePage core asid a b
  | none => true

/-- The next unit of a command lies in what a descriptor covers; `edge` asks that it enters a leaf page there: inside the page that the
command has reached it goes on to the page's end (R363, R365). -/
def State.cmdCovered (s : State) (core : Nat) (d : BitVec 256) (c : CopyCmd) (edge : Bool) : Bool :=
  let asid := s.taskAsid c.task
  let now := s.unitEnds core c
  let past := if c.prog = 0 then (none, none) else s.unitEnds core { c with prog := c.prog - 1 }
  let one (a before : Option Nat) : Bool := a.any (fun a => s.covers core d asid a && (!edge || s.entersPage core asid a before))
  one now.1 past.1 || one now.2 past.2

/-- The maintenance under way covers the next unit, which enters a page there: the command pauses (R262, R363, R365). -/
def State.mustPause (s : State) (core : Nat) (c : CopyCmd) : Bool := s.underway.any (fun d => s.cmdCovered core d c true)

/-! ## Completion (R262) -/

/-- The completion word of a command that ends with a status. -/
def CopyCmd.word (c : CopyCmd) (status : Nat) : Word :=
  let info := if c.kind = 6 then c.fmask.toNat else if status ≠ 0 then c.prog % 2 ^ 32 else 0
  BitVec.ofNat 64 (c.tag.toNat + status * 2 ^ 16 + info * 2 ^ 32)

/-- A command ends: its completion word is posted, or the halyard learns its status (R262, R267). -/
def State.endCmd (s : State) (core e i : Nat) (c : CopyCmd) (status : Nat) : State :=
  match c.x with
  | some x =>
    (s.setCmd core e i { c with st := .ended }).modCtx x (fun k => k.setCq e (k.cqOf e ++ [c.word status]))
  | none =>
    s.modCore core (fun u => { u.setEng e ((u.eng e).eraseIdx i) with
      hal := { u.hal with sent := u.hal.sent.map (fun h =>
        if h.hid = c.hid then { h with status := some (BitVec.ofNat 8 status) } else h) } })

/-- Index of the first command of an engine in a state. -/
def State.cmdIdx (s : State) (core e : Nat) (p : CopyCmd → Bool) : Option Nat := (s.eng core e).findIdx? p

/-- COPY_COMMAND_END: the running command has no unit left, or its next unit fails for good (R262, R263). -/
def State.copyEnd (s : State) (core e : Nat) : State :=
  match s.cmdIdx core e (fun c => c.st = .running) with
  | none => s
  | some i =>
    match (s.eng core e)[i]? with
    | none => s
    | some c =>
      match c.bad with
      | some b => s.endCmd core e i c b
      | none => if (blockOf c.blk).units c.kind.toNat ≤ c.prog then s.endCmd core e i c c.excl else s

/-- COPY_COMMAND_END (R262). -/
def execCopyCommandEnd (c : CoreNo) (e : Fin 2) (s : State) : Out := .next (s.copyEnd c.val e.val)

/-- The engine works on a command: running or held, it keeps its place (R262). -/
def State.engineBusy (s : State) (core e : Nat) : Bool := (s.eng core e).any (fun c => c.st = .running || c.st = .held)

/-- The task is being loaded: none of its agents acts before every team is armed (R33, R380). -/
def State.loading (s : State) (task : Nat) : Bool :=
  match s.task? task with
  | some t => t.st = .loading
  | none => false

/-- The fill that a command waits for waits on a translation fault (R105, R262). -/
def State.fillParked (s : State) (c : CopyCmd) : Bool := s.ops.any (fun o => some o.id = c.fill && s.fillFaulted o)

/-- A parked command that may run again. -/
def State.mayResume (s : State) (c : CopyCmd) : Bool :=
  c.st = .parked && c.fid.isNone && !c.paused && !s.loading c.task && !(c.room && decide (4096 ≤ s.fids.length)) && !s.fillParked c

/-- COPY_COMMAND_RESUME: the oldest parked command whose fault is resolved runs again from its PROG, before any command that
has not started (R262). -/
def State.copyResume (s : State) (core e : Nat) : State :=
  if s.engineBusy core e then s
  else
    match s.cmdIdx core e s.mayResume with
    | none => s
    | some i =>
      match (s.eng core e)[i]? with
      | some c => s.setCmd core e i { c with st := .running, room := false }
      | none => s

/-- COPY_COMMAND_RESUME (R262). -/
def execCopyCommandResume (c : CoreNo) (e : Fin 2) (s : State) : Out := .next (s.copyResume c.val e.val)

/-- COPY_COMMAND_START: the next command of the queue, once the accesses that its push released have performed (R138, R262);
an mcast excludes receivers before its first write (R264). -/
def State.copyStart (s : State) (core e : Nat) : State :=
  if s.engineBusy core e || (s.eng core e).any s.mayResume then s
  else
    match s.cmdIdx core e (fun c => c.st = .queued && !s.loading c.task) with
    | none => s
    | some i =>
      match (s.eng core e)[i]? with
      | none => s
      | some c =>
        if c.after.all (fun p => !s.outstanding p.1 p.2) then
          let x := if c.kind = 6 then s.exclusions c.task (blockOf c.blk) else (0, 0)
          s.setCmd core e i { c with st := .running, fmask := x.1, excl := x.2 }
        else s

/-- COPY_COMMAND_START (R262). -/
def execCopyCommandStart (c : CoreNo) (e : Fin 2) (s : State) : Out := .next (s.copyStart c.val e.val)

/-- One unit of the running command, or what stops it: a hold or a slow slice (R156), a pause (R363), a fill, a parked fault, a
failure. -/
def State.copyOne (s : State) (core e : Nat) (fresh : Bool) : State :=
  match s.cmdIdx core e (fun c => c.st = .running) with
  | none => s
  | some i =>
    match (s.eng core e)[i]? with
    | none => s
    | some c =>
      if c.bad.isSome || (blockOf c.blk).units c.kind.toNat ≤ c.prog then s.copyEnd core e
      else if s.fillParked c then s.setCmd core e i { c with st := .parked }
      else if c.fill.isSome && s.ops.any (fun o => some o.id = c.fill) then s
      else if s.mustPause core c then s.setCmd core e i { c with st := .parked, paused := true }
      else if s.mustHold core c && c.atLine then s.setCmd core e i { c with st := .held }
      else if (s.unitSlices core c fresh).any s.sliceBusy then s
      else
        let s := (s.unitSlices core c fresh).foldl State.serve s
        match s.copyUnit core c fresh with
        | .ok _ s => s.setCmd core e i { c with prog := c.prog + 1, fill := none }
        | .wait f s => s.setCmd core e i { c with fill := f }
        | .park f s => s.setCmd core e i { c with st := .parked, fid := f, room := f.isNone, fill := none }
        | .fail b s => s.endCmd core e i c b

/-- COPY_COMMAND_PARK: the running command's next unit takes a translation fault, and the command is set aside (R262). -/
def State.copyPark (s : State) (core e : Nat) : State :=
  match s.cmdIdx core e (fun c => c.st = .running) with
  | none => s
  | some i =>
    match (s.eng core e)[i]? with
    | none => s
    | some c =>
      if s.fillParked c then s.setCmd core e i { c with st := .parked }
      else
        match s.copyUnit core c true with
        | .park f s => s.setCmd core e i { c with st := .parked, fid := f, room := f.isNone, fill := none }
        | _ => s

/-- COPY_COMMAND_PARK (R262). -/
def execCopyCommandPark (c : CoreNo) (e : Fin 2) (s : State) : Out := .next (s.copyPark c.val e.val)

/-- PROG of the running command of an engine. -/
def State.runProg (s : State) (core e : Nat) : Option Nat := ((s.eng core e).find? (fun c => c.st = .running)).map (·.prog)

/-- k units; the access to a line that a slow slice turned away is still to begin (R119, R156). -/
def State.copyUnits (s : State) (core e : Nat) (fresh : Bool) : Nat → State
  | 0 => s
  | k + 1 =>
    let t := s.copyOne core e fresh
    State.copyUnits t core e (fresh && t.runProg core e = s.runProg core e) k

/-- COPY_HOLD: the running commands of a core that R156 holds stop at a line boundary. -/
def State.copyHold (s : State) (core : Nat) : State :=
  let f (c : CopyCmd) : CopyCmd := if c.st = .running && s.mustHold core c && c.atLine then { c with st := .held } else c
  s.modCore core (fun u => { u with eng0 := u.eng0.map f, eng1 := u.eng1.map f, held := true })

/-- COPY_HOLD (R156). -/
def execCopyHold (c : CoreNo) (s : State) : Out :=
  .next (if decide ((s.island c.val).hold ≤ 0) || (s.core c.val).teams.any (fun t => s.rateHeld t.task) then s.copyHold c.val else s)

/-- COPY_HOLD_RELEASE: held commands whose island and task may spend again resume (R156). -/
def State.copyRelease (s : State) (core : Nat) : State :=
  let f (c : CopyCmd) : CopyCmd := if c.st = .held && !s.mustHold core c then { c with st := .running } else c
  s.modCore core (fun u => { u with
    eng0 := u.eng0.map f, eng1 := u.eng1.map f
    held := (u.eng0.map f).any (fun c => c.st = .held) || (u.eng1.map f).any (fun c => c.st = .held) })

/-- COPY_HOLD_RELEASE (R156). -/
def execCopyHoldRelease (c : CoreNo) (s : State) : Out := .next (s.copyRelease c.val)

/-- One activation of an engine: held commands may resume, a parked or queued one may start, and the running one moves up to
64 units. -/
def State.copyStep (s : State) (core e : Nat) : State :=
  let s := s.copyRelease core
  ((s.copyResume core e).copyStart core e).copyUnits core e true 64

end Sys2Proof.Machine
end

