-- ==== Sys2Proof/Machine/Halyard.lean ====
section
/-! DEFINITION. The halyard sequencer and its operations (R266 to R269). -/

namespace Sys2Proof.Machine

/-- The halyard of a core. -/
def State.hal (s : State) (c : Nat) : Halyard := (s.core c).hal

/-- Update the halyard of a core. -/
def State.modHal (s : State) (c : Nat) (f : Halyard → Halyard) : State := s.modCore c (fun k => { k with hal := f k.hal })

/-- The halyard of the issuing core. -/
def State.myHal (s : State) : Halyard := s.hal s.myCore

/-- The accesses that hy.start and hy.cred release: the context's earlier ones (R268). -/
def State.released (s : State) : List (CtxNo × Nat) :=
  (s.myHal.rel.filter (fun p => s.outstanding p.1 p.2)) ++ (s.allOutstanding s.issue.x).map (fun id => (s.issue.x, id))

/-- The tests of hy.start (R258, R268). -/
def hyStartPre (s : State) (a : BitVec 6) : Pre :=
  let o := bitsOf (s.me.rs a).toNat 0 20
  if s.myHal.st ≠ .idle then noAddrTrap s mCMD
  else if o % 64 ≠ 0 then memTrap mALIGN o
  else if s.myTeam.spadSize < o + 64 then memTrap mRANGE o
  else if s.blockUnusable o 64 then memTrap mBIGHT o
  else .go

/-- hy.start (R268). -/
def execHyStart (g : BitVec 4) (a : BitVec 6) (s : State) : Out :=
  .next (s.gated g (hyStartPre s a) (s.modHal s.myCore (fun h =>
    { h with st := .run, blk := (s.me.rs a).setWidth 20, ridx := 0, fst := 0, cur := none, taken := false, rel := s.released })))

/-- hy.stop requests a stop; no effect when IDLE or FAULT (R268). -/
def execHyStop (g : BitVec 4) (s : State) : Out :=
  .next (s.gated g .go (s.modHal s.myCore (fun h =>
    if h.st = .run || h.st = .wait then { h with st := .stopping } else h)))

/-- hy.cred adds credits, saturating (R268). -/
def execHyCred (g : BitVec 4) (a : BitVec 6) (s : State) : Out :=
  .next (s.gated g .go (s.modHal s.myCore (fun h =>
    { h with cr := BitVec.ofNat 32 (min (h.cr.toNat + (s.me.rs a).toNat % 2 ^ 32) (2 ^ 32 - 1)), rel := s.released })))

/-- hy.base (R268). -/
def execHyBase (g : BitVec 4) (a : BitVec 6) (s : State) : Out :=
  .next (s.gated g .go (s.modHal s.myCore (fun h => { h with hbase := s.me.rs a })))

/-- hy.clr: FAULT becomes IDLE (R268). -/
def execHyClr (g : BitVec 4) (s : State) : Out :=
  .next (s.gated g .go (s.modHal s.myCore (fun h => if h.st = .fault then { h with st := .idle } else h)))

/-- hy.pop stalls while the queue is empty (R268). -/
def hyPopPre (s : State) : Pre := if s.myHal.cq.isEmpty then .stall else .go

/-- hy.pop (R268). -/
def execHyPop (g : BitVec 4) (a : BitVec 6) (s : State) : Out :=
  .next (s.gated g (hyPopPre s)
    (match s.myHal.cq with
     | [] => s
     | w :: r => (s.landS a w 1).modHal s.myCore (fun h => { h with cq := r })))

/-- Halyard commands of a core that have not ended (R269). -/
def State.halOut (s : State) (c e : Nat) : Nat := ((s.eng c e).filter (fun k => k.x.isNone)).length

/-- STATE of HSTAT (R269). -/
def HalSt.code : HalSt → Nat
  | .idle => 0
  | .run => 1
  | .wait => 2
  | .stopping => 3
  | .fault => 4

/-- HSTAT (R269). -/
def State.hstat (s : State) : Word :=
  let h := s.myHal
  BitVec.ofNat 64 (h.st.code + (s.halOut s.myCore 0 + s.halOut s.myCore 1) * 2 ^ 4 + h.cq.length * 2 ^ 8 +
    h.fst.toNat * 2 ^ 12)

/-- hy.stat (R269). -/
def execHyStat (g : BitVec 4) (a : BitVec 6) (s : State) : Out := .next (s.opS g a s.hstat 1)

/-- hy.prog (R268). -/
def execHyProg (g : BitVec 4) (a : BitVec 6) (s : State) : Out :=
  .next (s.opS g a (BitVec.ofNat 64 (s.myHal.ridx.toNat % 2 ^ 24 + s.myHal.blk.toNat * 2 ^ 24)) 1)

/-- hy.rdc (R268). -/
def execHyRdc (g : BitVec 4) (a : BitVec 6) (s : State) : Out := .next (s.opS g a (s.myHal.cr.setWidth 64) 1)

/-- hy.drop (R268). -/
def execHyDrop (g : BitVec 4) (s : State) : Out :=
  .next (s.gated g .go (s.modHal s.myCore (fun h => { h with cq := [] })))

/-! ## The sequencer (R267) -/

/-- Fields of a halyard block (R266). -/
structure HBlock where
  kind : Nat
  eng : Nat
  post : Nat
  cons : Bool
  rep : Nat
  sinc : Int
  dinc : Int
  dwrap : Nat
  next : Nat
  last : Bool
  deriving DecidableEq, Repr

/-- The fields of R266. -/
def hblockOf (b : BitVec 512) : HBlock :=
  let v := b.toNat
  ⟨bitsOf v 384 4, bitsOf v 388 1, bitsOf v 389 2, bitOf v 391, bitsOf v 392 24, (BitVec.ofNat 32 (bitsOf v 416 32)).toInt,
    (BitVec.ofNat 32 (bitsOf v 448 32)).toInt, bitsOf v 480 4, bitsOf v 484 20, bitOf v 504⟩

/-- A block breaks R259, R260 or R266. -/
def hblockBad (b : BitVec 512) : Bool :=
  let h := hblockOf b
  decide (8 ≤ h.kind) || h.post = 3 || h.next % 64 ≠ 0 || bitsOf b.toNat 505 7 ≠ 0 || blockBad h.kind b

/-- A completion word of the halyard (R267). -/
def halWord (blk rep : Nat) (status : BitVec 8) : Word :=
  BitVec.ofNat 64 (blk + rep % 2 ^ 24 * 2 ^ 20 + status.toNat * 2 ^ 44)

/-- The team that owns a core's halyard. -/
def Core.halTeam (c : Core) : Option Team := c.teams.find? (fun t => t.hal)

/-- The sequencer works on its blocks. -/
def HalSt.active (h : HalSt) : Bool := h = .run || h = .wait

/-- The halyard stops on a block: FAULT, and its word (R267). -/
def Halyard.blockFault (h : Halyard) (status : BitVec 8) : Halyard :=
  let w := halWord h.blk.toNat h.ridx.toNat status
  if h.cq.length < 8 then { h with st := .fault, fst := status, cq := h.cq ++ [w], fill := .none, failed := false }
  else { h with st := .fault, fst := status, bad := .some w, fill := .none, failed := false }

/-- HALYARD_BLOCK_BEGIN: the halyard reads the block at BLK once and checks it (R105, R267). -/
def State.halBegin (s : State) (c : Nat) : State :=
  let h := s.hal c
  match (s.core c).halTeam with
  | none => s
  | some t =>
    if !h.st.active || h.cur.isSome || h.rel.any (fun p => s.outstanding p.1 p.2) then s
    else if t.spadSize < h.blk.toNat + 64 || h.blk.toNat % 64 ≠ 0 then s.modHal c (fun h => h.blockFault 0x09)
    else
      let base := t.spadBase + h.blk.toNat
      let s := s.findStore c false base 64
      let ws := (List.range 16).map (fun k => base + 4 * k)
      if h.failed || ws.any (fun a => s.poisoned ⟨c, false, a⟩) then
        State.modHal { s with freeCtr := s.freeCtr + 1 } c (fun h => h.blockFault (Config.freeStatus s.freeCtr))
      else
        match ws.find? (fun a => !s.allUsable ⟨c, false, a⟩ 4) with
        | some a =>
          let f := s.engFill c ⟨c, false, a⟩ 4
          f.2.modHal c (fun h => { h with fill := f.1 })
        | none =>
          let b := BitVec.ofNat 512 (Memory.rdN (s.core c).spad base 64)
          if hblockBad b then s.modHal c (fun h => h.blockFault 0x09)
          else s.modHal c (fun h => { h with cur := some b, fill := none })

/-- HALYARD_BLOCK_BEGIN (R267). -/
def execHalyardBlockBegin (c : CoreNo) (s : State) : Out := .next (s.halBegin c.val)

/-- The command of repetition r of a block (R267). -/
def halCommand (b : BitVec 512) (hbase : Word) (r : Nat) : BitVec 512 :=
  let h := hblockOf b
  let f := blockOf b
  let k : Int := if h.dwrap = 0 then r else (r % (h.dwrap + 1) : Nat)
  let src := BitVec.ofInt 64 ((f.saddr : Int) + (r : Int) * h.sinc) + (if f.ssp = 2 then hbase else 0)
  let dst := BitVec.ofInt 64 ((f.daddr : Int) + k * h.dinc) + (if f.dsp = 2 then hbase else 0)
  BitVec.ofNat 512 (b.toNat % 2 ^ 384 / 2 ^ 128 * 2 ^ 128 + dst.toNat * 2 ^ 64 + src.toNat)

/-- The engine has room for a command of the halyard, and the completion queue is not full (R257, R267). -/
def State.halRoom (s : State) (c e : Nat) : Bool :=
  decide (s.halOut c e < 4) && decide ((live (s.eng c e)).length < 32) && decide ((s.hal c).cq.length < 8)

/-- The block is done: the chain ends, or the next block begins (R267). -/
def Halyard.nextBlock (h : Halyard) (b : HBlock) : Halyard :=
  if b.last then if h.sent.isEmpty then { h with st := .idle, cur := .none } else h
  else { h with blk := BitVec.ofNat 20 b.next, ridx := 0, cur := .none }

/-- HALYARD_PUSH: the credit, the room, then the command of repetition RIDX (R267). A repetition whose credit is taken is
pushed although a stop was requested since. -/
def State.halPush (s : State) (c : Nat) : State :=
  let h := s.hal c
  match h.cur, (s.core c).halTeam with
  | some blk, some t =>
    let b := hblockOf blk
    if !h.st.active && !(h.st = .stopping && h.taken) then s
    else if b.rep < h.ridx.toNat then s.modHal c (fun h => h.nextBlock b)
    else if b.cons && !h.taken && h.cr = 0 then s.modHal c (fun h => { h with st := .wait })
    else
      let s := if b.cons && !h.taken then
          s.modHal c (fun h => { h with cr := h.cr - 1, taken := true, st := .run })
        else s
      if !s.halRoom c b.eng then s
      else
        let cmd := newCmd none t.task b.kind 0 (halCommand blk h.hbase h.ridx.toNat) s.nextOp h.rel
        let post := b.post = 2 || (b.post = 1 && h.ridx.toNat = b.rep)
        let s := State.modCore { s with nextOp := s.nextOp + 1 } c (fun k => k.setEng b.eng (k.eng b.eng ++ [cmd]))
        s.modHal c (fun k => { k with
          ridx := k.ridx + 1, taken := false
          sent := k.sent ++ [⟨cmd.hid, k.blk.toNat, h.ridx.toNat, post, none⟩] })
  | _, _ => s

/-- HALYARD_PUSH (R267). -/
def execHalyardPush (c : CoreNo) (s : State) : Out := .next (s.halPush c.val)

/-- HALYARD_FAULT: a command ended with a STATUS that is not 0; FST takes it with the word (R267). -/
def State.halFault (s : State) (c : Nat) : State :=
  let h := s.hal c
  let bad (k : HSent) : Bool := match k.status with
    | some v => v ≠ 0
    | none => false
  match h.sent.find? bad with
  | none => s
  | some k =>
    s.modHal c (fun h => { h with
      sent := h.sent.filter (fun j => !bad j)
      st := .fault
      bad := if h.bad.isSome || h.st = .fault then h.bad else some (halWord k.blk k.rep (k.status.getD 0)) })

/-- HALYARD_FAULT (R267). -/
def execHalyardFault (c : CoreNo) (s : State) : Out := .next (s.halFault c.val)

/-- HALYARD_COMPLETION: the oldest commands that have ended are settled, each with its word when it posts one and the queue
has room; the faulting command's word comes once the others have ended (R267). -/
def Halyard.settle (h : Halyard) : Nat → Halyard
  | 0 => h
  | n + 1 =>
    match h.sent with
    | [] =>
      match h.bad with
      | .some w =>
        if h.cq.length < 8 then { h with cq := h.cq ++ [w], bad := .none, fst := BitVec.ofNat 8 (bitsOf w.toNat 44 8) } else h
      | .none => h
    | k :: r =>
      if k.status = .some 0 then
        if k.post then
          if h.cq.length < 8 then Halyard.settle { h with sent := r, cq := h.cq ++ [halWord k.blk k.rep 0] } n else h
        else Halyard.settle { h with sent := r } n
      else h

/-- HALYARD_COMPLETION (R267). -/
def execHalyardCompletion (c : CoreNo) (s : State) : Out :=
  .next (s.modHal c.val (fun h => h.settle (h.sent.length + 1)))

/-- HALYARD_STOP_COMPLETE: a STOPPING halyard is IDLE once its commands have ended (R268). -/
def State.halStopped (s : State) (c : Nat) : State :=
  let h := s.hal c
  if h.st = .stopping && !h.taken && s.halOut c 0 + s.halOut c 1 = 0 then
    s.modHal c (fun h => { h with st := .idle, cur := none })
  else s

/-- HALYARD_STOP_COMPLETE (R268). -/
def execHalyardStopComplete (c : CoreNo) (s : State) : Out := .next (s.halStopped c.val)

/-- One activation of a halyard. -/
def State.halStep (s : State) (c : Nat) : State :=
  if (s.core c).halTeam.any (fun t => s.loading t.task) then s
  else
    let s := s.halFault c
    let s := s.modHal c (fun h => h.settle (h.sent.length + 1))
    ((s.halStopped c).halBegin c).halPush c

end Sys2Proof.Machine
end

