-- ==== Sys2Proof/Machine/Link.lean ====
section
/-! DEFINITION. Hawser links: send, receive, flits, credits and markers (R43 to R45, R138, R270, R413, R420). -/

namespace Sys2Proof.Machine

/-- MEM cause LINK (R270). -/
def mLINK : BitVec 8 := 0x0A

/-- Number of a (link, vc) pair. -/
def pairNo (link vc : Nat) : Nat := 4 * link + vc

/-- The module at the far end of a link is fenced (R270, R413). -/
def State.linkFenced (s : State) (link : Nat) : Bool := s.mgmt.fmask ≠ 0 && bitOf s.mgmt.fmask.toNat (Config.linkPeer link % 4)

/-- The issuing task owns a pair (R44). -/
def State.ownsPair (s : State) (p : Nat) : Bool := (s.link p).owner = some s.myTask

/-- Words of the 128-byte buffer that are bight-mapped (R270). -/
def State.bufMapped (s : State) (o n : Nat) : Bool :=
  (List.range (n / 4)).any (fun k => s.isMapped s.myCore false ((s.myTeam.spadBase + o) / 4 + k))

/-- The precise tests of a link operation (R270). -/
def linkChecks (s : State) (p o : Nat) : Pre :=
  if o % 8 ≠ 0 then memTrap mALIGN o
  else if s.myTeam.spadSize < o + 128 then memTrap mRANGE o
  else if s.bufMapped o 128 then memTrap mBIGHT o
  else if !s.ownsPair p then noAddrTrap s mLINK
  else .go

/-- The tests of lsend: a credit, then R270's in order; a fenced link is a LINK trap. -/
def lsendPre (s : State) (l : BitVec 3) (v : BitVec 2) (a : BitVec 6) : Pre :=
  let p := pairNo l.toNat v.toNat
  if s.linkFenced l.toNat then
    match linkChecks s p (s.me.rs a).toNat with
    | .go => noAddrTrap s mLINK
    | r => r
  else if (s.link p).credits = 0 then .stall
  else linkChecks s p (s.me.rs a).toNat

/-- Flits of a receive queue, markers apart. -/
def LinkQ.flits (q : LinkQ) : List VReg := q.rx.filterMap id

/-- The tests of lrecv: a flit, then R270's in order; an empty queue of a fenced link is a LINK trap. -/
def lrecvPre (s : State) (l : BitVec 3) (v : BitVec 2) (a : BitVec 6) : Pre :=
  let p := pairNo l.toNat v.toNat
  if (s.link p).flits.isEmpty then
    if s.linkFenced l.toNat then
      match linkChecks s p (s.me.rs a).toNat with
      | .go => noAddrTrap s mLINK
      | r => r
    else .stall
  else linkChecks s p (s.me.rs a).toNat

/-- lsend takes a credit and sends the 128 bytes read at issue, a release at SYSTEM scope (R138, R270). -/
def execLsend (g : BitVec 4) (l : BitVec 3) (v : BitVec 2) (a : BitVec 6) (s : State) : Out :=
  let p := pairNo l.toNat v.toNat
  let x := s.issue.x
  let q := s.link p
  let data := BitVec.ofNat 1024 (s.seen x s.myCore false (s.myTeam.spadBase + (s.me.rs a).toNat) 128)
  .next (s.gated g (lsendPre s l v a)
    ((s.setLink p { q with credits := q.credits - 1, tx := q.tx ++ [(x, s.allOutstanding x, some data)] }).drain x 3))

/-- Drop the oldest flit, with the markers ahead of it (R420). -/
def dropFlit : List (Option VReg) → List (Option VReg)
  | [] => []
  | none :: r => dropFlit r
  | some _ :: r => r

/-- The 16 words of a flit at an own-window offset. -/
def State.flitStores (s : State) (o : Nat) (f : VReg) : List (Loc × Word) :=
  (List.range 16).map (fun k => (⟨s.myCore, false, s.myTeam.spadBase + o + 8 * k⟩, BitVec.ofNat 64 (bitsOf f.toNat (64 * k) 64)))

/-- lrecv writes the oldest flit to the buffer and returns a credit (R270). Its acquire performs at no slice and takes no write clock
into pts: the spec names none (DESIGN CHOICE, log 96). -/
def execLrecv (g : BitVec 4) (l : BitVec 3) (v : BitVec 2) (a : BitVec 6) (s : State) : Out :=
  let p := pairNo l.toNat v.toNat
  let q := s.link p
  .next (s.gated g (lrecvPre s l v a)
    (match q.flits with
     | [] => s
     | f :: _ =>
       ((s.storeElems 8 (s.flitStores (s.me.rs a).toNat f)).setLink p { q with rx := dropFlit q.rx }).send
         (.credit l.toNat v.toNat)))

/-- Flits whose earlier accesses have performed go on the wire in order (R43, R138). -/
def State.linkSend (s : State) (p : Nat) : Nat → State
  | 0 => s
  | n + 1 =>
    match (s.link p).tx with
    | [] => s
    | (x, after, f) :: r =>
      if s.clearOf x after then
        State.linkSend ((s.setLink p { s.link p with tx := r }).send (match f with
          | some d => .flit (p / 4) (p % 4) d
          | none => .marker (p / 4) (p % 4))) p n
      else s

/-- Every pair sends what it can. -/
def State.linksSend (s : State) : State := s.links.foldl (fun s q => s.linkSend q.1 (q.2.tx.length)) s

/-- FLIT_ARRIVAL: a flit enters its receive queue of 64 (R44). -/
def execFlitArrival (link : Fin 8) (vc : Fin 4) (flit : VReg) (s : State) : Out :=
  let p := pairNo link.val vc.val
  let q := s.link p
  .next (if q.flits.length < 64 then s.setLink p { q with rx := q.rx ++ [some flit] } else s)

/-- CREDIT_RETURN (R44). -/
def execCreditReturn (link : Fin 8) (vc : Fin 4) (s : State) : Out :=
  let p := pairNo link.val vc.val
  let q := s.link p
  .next (s.setLink p { q with credits := min 64 (q.credits + 1) })

/-- CHECKPOINT_MARKER: a marker enters the receive queue in its place among the flits (R420). -/
def execCheckpointMarker (link : Fin 8) (vc : Fin 4) (s : State) : Out :=
  let p := pairNo link.val vc.val
  let q := s.link p
  .next (s.setLink p { q with rx := q.rx ++ [none] })

end Sys2Proof.Machine
end

