-- ==== Sys2Proof/Machine/Atomic.lean ====
section
/-! DEFINITION. Atomics, reductions, SC operations, splices, knots, pins, drains and the system operations of the X slot
(R273 to R296). -/

namespace Sys2Proof.Machine

/-! ## Issue of a global operation (R132, R274, R275) -/

/-- The bundle's modifier releases, acquires (R166). -/
def State.rel (s : State) : Bool := s.issue.xord.getLsbD 1
def State.acq (s : State) : Bool := s.issue.xord.getLsbD 0

/-- Accesses that the operation follows: for a release Drain of its scope, and the open fences always (R128, R130, R132). -/
def State.opAfter (s : State) (va n : Nat) (rel : Bool) (scope : BitVec 2) : List Nat :=
  let x := s.issue.x
  s.openFences x ++ s.sameBytes x s.nextOp va n ++ (if rel then s.drainSet x scope else [])

/-- A value-returning operation's result: variable latency with a landing-buffer entry (R60, R274). -/
def State.hubFlight (s : State) (dst : Dest) (lat : Nat) (buf : Bool) (src : Source) : State :=
  s.modCtx s.issue.x (fun c => { c with flight := c.flight ++
    [{ id := 0, due := s.issue.cycle + lat, dst := dst, lanes := allLanes, value := none, flags := 0, buf := buf, src := src
       lock := false, orig := c.pc }] })

/-- Issue an operation: Drain for a release; a value-returning one takes its result; an acquire holds later accesses until it
has performed (R132, R136). -/
def State.issueOp (s : State) (kind : GKind) (va n : Nat) (rel acq : Bool) (scope : BitVec 2) (dst : Option (Dest × Nat)) : State :=
  let x := s.issue.x
  let after := s.opAfter va n rel scope
  let s1 := if rel then s.drain x scope else s
  let r := s1.addOp x (ctxCore x) s.myTask kind va after acq scope s.me.pc
  let s2 := match dst with
    | some (d, lat) => r.2.hubFlight d lat true (.hub r.1)
    | none => r.2
  if kind.isSc then s2.modCtx x (fun c => { c with scFence := c.scFence.filter (s.outstanding x) ++ [r.1] })
  else if acq then s2.modCtx x (fun c => { c with fence := c.fence ++ [r.1] }) else s2

/-- The tests of a global operation: a landing-buffer entry when it returns a value, then its alignment (R60, R275). -/
def globalPre (s : State) (a : BitVec 6) (n : Nat) (ret : Bool) : Pre :=
  let ad := (s.me.rs a).toNat
  match (if ret then bufPre s else .go) with
  | .go => if ad % n ≠ 0 then memTrap mALIGN ad else .go
  | p => p

/-- The low 8n bits of a register. -/
def lowBytes (n : Nat) (w : Word) : Word := BitVec.ofNat 64 (w.toNat % 2 ^ (8 * n))

/-- A value-returning atomic (R278, R279). -/
def State.amoOp (s : State) (g : BitVec 4) (fn : AmoFn) (n : Nat) (d a b : BitVec 6) : State :=
  s.gated g (globalPre s a n true)
    (s.issueOp (.amo fn n (lowBytes n (s.me.rs b)) (lowBytes n (s.me.rs d)) true) (s.me.rs a).toNat n s.rel s.acq s.issue.xscope
      (some (dstS d, 64)))

/-- A reduction returns nothing (R280). -/
def State.redOp (s : State) (g : BitVec 4) (fn : AmoFn) (n : Nat) (a b : BitVec 6) : State :=
  s.gated g (globalPre s a n false)
    (s.issueOp (.amo fn n (lowBytes n (s.me.rs b)) 0 false) (s.me.rs a).toNat n s.rel false s.issue.xscope none)

/-- amo.add.w (R278). -/
def execAmoAddW (g : BitVec 4) (d a b : BitVec 6) (s : State) : Out := .next (s.amoOp g .add 4 d a b)
/-- amo.and.w (R278). -/
def execAmoAndW (g : BitVec 4) (d a b : BitVec 6) (s : State) : Out := .next (s.amoOp g .and 4 d a b)
/-- amo.or.w (R278). -/
def execAmoOrW (g : BitVec 4) (d a b : BitVec 6) (s : State) : Out := .next (s.amoOp g .or 4 d a b)
/-- amo.xor.w (R278). -/
def execAmoXorW (g : BitVec 4) (d a b : BitVec 6) (s : State) : Out := .next (s.amoOp g .xor 4 d a b)
/-- amo.min.w (R278). -/
def execAmoMinW (g : BitVec 4) (d a b : BitVec 6) (s : State) : Out := .next (s.amoOp g .min 4 d a b)
/-- amo.max.w (R278). -/
def execAmoMaxW (g : BitVec 4) (d a b : BitVec 6) (s : State) : Out := .next (s.amoOp g .max 4 d a b)
/-- amo.minu.w (R278). -/
def execAmoMinuW (g : BitVec 4) (d a b : BitVec 6) (s : State) : Out := .next (s.amoOp g .minu 4 d a b)
/-- amo.maxu.w (R278). -/
def execAmoMaxuW (g : BitVec 4) (d a b : BitVec 6) (s : State) : Out := .next (s.amoOp g .maxu 4 d a b)
/-- amo.add.d (R278). -/
def execAmoAddD (g : BitVec 4) (d a b : BitVec 6) (s : State) : Out := .next (s.amoOp g .add 8 d a b)
/-- amo.and.d (R278). -/
def execAmoAndD (g : BitVec 4) (d a b : BitVec 6) (s : State) : Out := .next (s.amoOp g .and 8 d a b)
/-- amo.or.d (R278). -/
def execAmoOrD (g : BitVec 4) (d a b : BitVec 6) (s : State) : Out := .next (s.amoOp g .or 8 d a b)
/-- amo.xor.d (R278). -/
def execAmoXorD (g : BitVec 4) (d a b : BitVec 6) (s : State) : Out := .next (s.amoOp g .xor 8 d a b)
/-- amo.min.d (R278). -/
def execAmoMinD (g : BitVec 4) (d a b : BitVec 6) (s : State) : Out := .next (s.amoOp g .min 8 d a b)
/-- amo.max.d (R278). -/
def execAmoMaxD (g : BitVec 4) (d a b : BitVec 6) (s : State) : Out := .next (s.amoOp g .max 8 d a b)
/-- amo.minu.d (R278). -/
def execAmoMinuD (g : BitVec 4) (d a b : BitVec 6) (s : State) : Out := .next (s.amoOp g .minu 8 d a b)
/-- amo.maxu.d (R278). -/
def execAmoMaxuD (g : BitVec 4) (d a b : BitVec 6) (s : State) : Out := .next (s.amoOp g .maxu 8 d a b)
/-- amox.swap.w (R279). -/
def execAmoxSwapW (g : BitVec 4) (d a b : BitVec 6) (s : State) : Out := .next (s.amoOp g .swap 4 d a b)
/-- amox.swap.d (R279). -/
def execAmoxSwapD (g : BitVec 4) (d a b : BitVec 6) (s : State) : Out := .next (s.amoOp g .swap 8 d a b)
/-- amox.cas.w (R279). -/
def execAmoxCasW (g : BitVec 4) (d a b : BitVec 6) (s : State) : Out := .next (s.amoOp g .cas 4 d a b)
/-- amox.cas.d (R279). -/
def execAmoxCasD (g : BitVec 4) (d a b : BitVec 6) (s : State) : Out := .next (s.amoOp g .cas 8 d a b)
/-- amox.fadd.f32 (R279). -/
def execAmoxFaddF32 (g : BitVec 4) (d a b : BitVec 6) (s : State) : Out := .next (s.amoOp g .fadd 4 d a b)
/-- red.add.w (R280). -/
def execRedAddW (g : BitVec 4) (a b : BitVec 6) (s : State) : Out := .next (s.redOp g .add 4 a b)
/-- red.add.d (R280). -/
def execRedAddD (g : BitVec 4) (a b : BitVec 6) (s : State) : Out := .next (s.redOp g .add 8 a b)
/-- red.min.w (R280). -/
def execRedMinW (g : BitVec 4) (a b : BitVec 6) (s : State) : Out := .next (s.redOp g .min 4 a b)
/-- red.max.w (R280). -/
def execRedMaxW (g : BitVec 4) (a b : BitVec 6) (s : State) : Out := .next (s.redOp g .max 4 a b)
/-- red.minu.w (R280). -/
def execRedMinuW (g : BitVec 4) (a b : BitVec 6) (s : State) : Out := .next (s.redOp g .minu 4 a b)
/-- red.maxu.w (R280). -/
def execRedMaxuW (g : BitVec 4) (a b : BitVec 6) (s : State) : Out := .next (s.redOp g .maxu 4 a b)
/-- red.fadd.f32 (R280). -/
def execRedFaddF32 (g : BitVec 4) (a b : BitVec 6) (s : State) : Out := .next (s.redOp g .fadd 4 a b)
/-- red.or.d (R280). -/
def execRedOrD (g : BitVec 4) (a b : BitVec 6) (s : State) : Out := .next (s.redOp g .or 8 a b)

/-! ## Variant requests (R164) -/

/-- The read of a variant entry at its home, for a context (R141, R155). -/
def State.vtabRead (s : State) (x : CtxNo) (vtab j : Nat) : State :=
  let task := (s.ctx x).task
  match s.look (ctxCore x) (s.taskAsid task) (vtab + 16 * j) false with
  | .ok pa a => ((s.walked (ctxCore x) (s.taskAsid task) (vtab + 16 * j)).readHome (whoCore (ctxCore x) task) a pa 16).2
  | _ => s

/-- nrg.vsw reads the entry and records the request; a later one replaces it (R164). -/
def execNrgVsw (g : BitVec 4) (a : BitVec 6) (s : State) : Out :=
  .next (s.gated g (vswPre s a)
    ((s.vtabRead s.issue.x s.myVtab (s.me.rs a).toNat).modTask s.me.task (fun t => { t with sw := some (s.me.rs a).toNat })))

/-! ## SC operations (R281) -/

/-- The tests of an SC operation: an address in a hawser window is MEM WHEEL, precisely (R137, R275). -/
def scPre (s : State) (a : BitVec 6) (n : Nat) (ret w : Bool) : Pre :=
  match globalPre s a n ret with
  | .go =>
    match s.xlate (ctxCore s.issue.x) (s.taskAsid s.myTask) (s.me.rs a).toNat w with
    | .ok pa _ => if paHawser pa then memTrap mWHEEL (s.me.rs a).toNat else .go
    | _ => .go
  | p => p

/-- An SC operation releases and acquires at DEVICE scope (R136). -/
def State.scOp (s : State) (g : BitVec 4) (fn : AmoFn) (n : Nat) (d a b : BitVec 6) (ret : Bool) : State :=
  s.gated g (scPre s a n ret (fn ≠ .ld))
    (s.issueOp (.sc fn n (lowBytes n (s.me.rs b)) (lowBytes n (s.me.rs d)) ret) (s.me.rs a).toNat n true true 2
      (if ret then some (dstS d, 64) else none))

/-- sc.ld.w (R281). -/
def execScLdW (g : BitVec 4) (d a : BitVec 6) (s : State) : Out := .next (s.scOp g .ld 4 d a 0 true)
/-- sc.ld.d (R281). -/
def execScLdD (g : BitVec 4) (d a : BitVec 6) (s : State) : Out := .next (s.scOp g .ld 8 d a 0 true)
/-- sc.st.w (R281). -/
def execScStW (g : BitVec 4) (a b : BitVec 6) (s : State) : Out := .next (s.scOp g .swap 4 0 a b false)
/-- sc.st.d (R281). -/
def execScStD (g : BitVec 4) (a b : BitVec 6) (s : State) : Out := .next (s.scOp g .swap 8 0 a b false)
/-- sc.swap.w (R281). -/
def execScSwapW (g : BitVec 4) (d a b : BitVec 6) (s : State) : Out := .next (s.scOp g .swap 4 d a b true)
/-- sc.swap.d (R281). -/
def execScSwapD (g : BitVec 4) (d a b : BitVec 6) (s : State) : Out := .next (s.scOp g .swap 8 d a b true)
/-- sc.add.d (R281). -/
def execScAddD (g : BitVec 4) (d a b : BitVec 6) (s : State) : Out := .next (s.scOp g .add 8 d a b true)
/-- sc.cas.d (R281). -/
def execScCasD (g : BitVec 4) (d a b : BitVec 6) (s : State) : Out := .next (s.scOp g .cas 8 d a b true)

/-! ## Drains (R282) -/

/-- A drain does not stall issue (R130, R131). -/
def State.drainOp (s : State) (g : BitVec 4) (scope : BitVec 2) : State := s.gated g .go (s.drain s.issue.x scope)

/-- drain.braid (R282). -/
def execDrainBraid (g : BitVec 4) (s : State) : Out := .next (s.drainOp g 0)
/-- drain.die (R282). -/
def execDrainDie (g : BitVec 4) (s : State) : Out := .next (s.drainOp g 1)
/-- drain.dev (R282). -/
def execDrainDev (g : BitVec 4) (s : State) : Out := .next (s.drainOp g 2)
/-- drain.sys (R282). -/
def execDrainSys (g : BitVec 4) (s : State) : Out := .next (s.drainOp g 3)

/-! ## Splices (R290, R291) -/

/-- The tests of a splice buffer of n bytes at own-window offset o (R290). -/
def bufferPre (s : State) (o n : Nat) : Pre :=
  if o % 64 ≠ 0 then memTrap mALIGN o
  else if s.myTeam.spadSize < o + n then memTrap mRANGE o
  else if s.bufMapped o n then memTrap mBIGHT o
  else .go

/-- The tests of spl.call and spl.calln: the landing buffer, the line's alignment, the buffer (R275, R290). -/
def splPre (s : State) (a b : BitVec 6) (n : Nat) (ret : Bool) : Pre :=
  match globalPre s a 64 ret with
  | .go => bufferPre s (s.me.rs b).toNat n
  | p => p

/-- spl.call: s[D] := the response, W to the buffer's bytes 64 to 127, both 96 cycles after issue (R274, R290). -/
def execSplCall (g : BitVec 4) (d a b : BitVec 6) (s : State) : Out :=
  let o := (s.me.rs b).toNat
  .next (s.gated g (splPre s a b 128 true)
    ((s.issueOp (.splice ((s.me.rs d).toNat % 256) (s.blockAt o) (some (o + 64))) (s.me.rs a).toNat 64 s.rel s.acq s.issue.xscope
      (some (dstS d, 96))).hubFlight .none 96 false (.wout s.nextOp (s.myTeam.spadBase + o + 64))))

/-- spl.calln returns nothing (R290). -/
def execSplCalln (g : BitVec 4) (d a b : BitVec 6) (s : State) : Out :=
  .next (s.gated g (splPre s a b 64 false)
    (s.issueOp (.splice ((s.me.rs d).toNat % 256) (s.blockAt (s.me.rs b).toNat) none) (s.me.rs a).toNat 64 s.rel false
      s.issue.xscope none))

/-- The tests of spl.inst (R290). -/
def splInstPre (s : State) (a : BitVec 6) : Pre :=
  match bufPre s with
  | .go => bufferPre s (s.me.rs a).toNat 64
  | p => p

/-- spl.inst sends the body to the monitor (R290, R291). -/
def execSplInst (g : BitVec 4) (d a : BitVec 6) (s : State) : Out :=
  .next (s.gated g (splInstPre s a)
    (s.issueOp (.inst ((s.me.rs d).toNat % 256) (s.blockAt (s.me.rs a).toNat)) 0 0 false false 0 (some (dstS d, 64))))

/-- spl.rm (R290, R291). -/
def execSplRm (g : BitVec 4) (d : BitVec 6) (s : State) : Out :=
  .next (s.gated g (bufPre s) (s.issueOp (.rm ((s.me.rs d).toNat % 256)) 0 0 false false 0 (some (dstS d, 64))))

/-! ## Knots (R285) -/

/-- The address of a knot of the issuing task's rope (R19, R285). -/
def State.knotVa (s : State) (i : Nat) : Nat :=
  match s.task? s.myTask with
  | some t => ((s.ropeOf t.rope.val).knots.toNat + 8 * i) % 2 ^ 64
  | none => 8 * i

/-- The tests of a knot operation: the buffer, then the index (R285). -/
def knotPre (s : State) (a : BitVec 6) (ret : Bool) : Pre :=
  match (if ret then bufPre s else .go) with
  | .go => if 2 ^ 16 ≤ (s.me.rs a).toNat then memTrap mRANGE (s.me.rs a).toNat else .go
  | p => p

/-- A knot operation (R285). -/
def State.knotOp (s : State) (g : BitVec 4) (fn : AmoFn) (a b : BitVec 6) (dst : Option (Dest × Nat)) : State :=
  s.gated g (knotPre s a dst.isSome)
    (s.issueOp (.knot fn (s.me.rs b) dst.isSome) (s.knotVa (s.me.rs a).toNat) 8 s.rel (s.acq && dst.isSome) s.issue.xscope dst)

/-- knot.add (R285). -/
def execKnotAdd (g : BitVec 4) (a b : BitVec 6) (s : State) : Out := .next (s.knotOp g .add a b none)
/-- knot.rd (R285). -/
def execKnotRd (g : BitVec 4) (d a : BitVec 6) (s : State) : Out := .next (s.knotOp g .ld a 0 (some (dstS d, 64)))
/-- knot.max (R285). -/
def execKnotMax (g : BitVec 4) (d a b : BitVec 6) (s : State) : Out := .next (s.knotOp g .maxu a b (some (dstS d, 64)))
/-- knot.swap (R285). -/
def execKnotSwap (g : BitVec 4) (d a b : BitVec 6) (s : State) : Out := .next (s.knotOp g .swap a b (some (dstS d, 64)))

/-! ## Variant registration (R163) -/

/-- nrg.vreg writes entry j of the rope's variant table as one indivisible write with release at SYSTEM scope (R163). -/
def execNrgVreg (g : BitVec 4) (a b : BitVec 6) (s : State) : Out :=
  let w := (s.me.rs b).toNat
  .next (s.gated g (vregPre s a b)
    (s.issueOp (.vreg (variantEntry (s.me.rs a).toNat (bitsOf w 8 4) (bitsOf w 12 4))) (s.myVtab + 16 * bitsOf w 0 5) 16
      true false 3 none))

/-! ## Pins (R295) -/

/-- pin and unpin (R123, R295). -/
def State.pinOp (s : State) (g : BitVec 4) (k : GKind) (d a : BitVec 6) : State :=
  s.gated g (globalPre s a 64 true) (s.issueOp k (s.me.rs a).toNat 0 false false 0 (some (dstS d, 64)))

/-- pin (R295). -/
def execPin (g : BitVec 4) (d a : BitVec 6) (s : State) : Out := .next (s.pinOp g .pin d a)
/-- unpin (R295). -/
def execUnpin (g : BitVec 4) (d a : BitVec 6) (s : State) : Out := .next (s.pinOp g .unpin d a)

/-! ## Context end, traps, debug (R284, R292 to R294) -/

/-- cend: the context issues no further bundle (R284). -/
def execCend (g : BitVec 4) (s : State) : Out :=
  .next (s.gated g .go ({ (s.modCtx s.issue.x (fun c => { c with ending := true })) with issue := { s.issue with jumped := true } }))

/-- trap: the trap SWT is taken in the next partition cycle, after the bundle has advanced (R292). -/
def execTrap (g : BitVec 4) (c : BitVec 12) (s : State) : Out :=
  .next (s.gated g .go (s.modCtx s.issue.x (fun k => { k with swt := some c })))

/-- rtu with INH = 0 raises ILLEGAL INH (R293). -/
def rtuPre (s : State) : Pre := if s.me.inh then .go else .trap ⟨tILLEGAL, 0x0C, 4, 0⟩

/-- rtu returns from the user trap handler (R293, R372). -/
def execRtu (g : BitVec 4) (s : State) : Out :=
  .next (s.gated g (rtuPre s) ({ (s.modCtx s.issue.x Ctx.userReturn) with issue := { s.issue with jumped := true } }))

/-- bkpt (R294). -/
def execBkpt (g : BitVec 4) (s : State) : Out := .next (s.gated g (.trap ⟨tDEBUG, 0x01, 4, 0⟩) s)

/-- dbg.brk traps only while CSTAT.DBG = 1 (R294). -/
def brkPre (s : State) : Pre := if s.me.dbg then .trap ⟨tDEBUG, 0x02, 4, 0⟩ else .go

/-- dbg.brk (R294). -/
def execDbgBrk (g : BitVec 4) (s : State) : Out := .next (s.gated g (brkPre s) s)

/-- dbg.mark logs PCYC and s[A] when the task is recorded (R294, R423). -/
def execDbgMark (g : BitVec 4) (a : BitVec 6) (s : State) : Out :=
  .next (s.gated g .go (s.wonusLog s.myTask 8 (ctxSrc s.issue.x) s.issue.cycle (s.me.rs a)))

/-! ## Braid barriers (R283) -/

/-- Teams of the issuing braid that a mask names, by core. -/
def maskCores (braid : Nat) (m : BitVec 4) : List Nat :=
  (List.range 4).filterMap (fun q => if m.getLsbD q then some (4 * braid + q) else none)

/-- The mask of a bar: bits [3:0] (R283). -/
def barMask (s : State) (a : BitVec 6) : BitVec 4 := (s.me.rs a).setWidth 4

/-- The pending generation of a task in a braid: the mask of a bar that has issued and waits, also in a team that is saved already. -/
def State.pendingMask (s : State) (task braid : Nat) : Option (BitVec 4) :=
  match s.ctxs.findSome? (fun c =>
    if c.2.task = task && c.1 / 64 = braid && c.2.st ≠ .empty then c.2.bar.map (·.1) else none) with
  | some m => some m
  | none => s.saves.findSome? (fun v =>
    if v.task = task && v.core / 4 = braid then v.ctxs.findSome? (fun c => c.2.bar.map (·.1)) else none)

/-- The tests of bar: MASK, then MISMATCH with a pending generation that includes the context, then held behind a pending
generation that does not (R283). The held case is a stall. -/
def barPre (s : State) (a : BitVec 6) : Pre :=
  let m := barMask s a
  let core := ctxCore s.issue.x
  let bad := !m.getLsbD (core % 4) || (maskCores (core / 4) m).any (fun c => !s.placed s.myTask c)
  let sync (cause : BitVec 8) : Pre := .trap ⟨tSYNC, cause, 4, m.setWidth 64⟩
  if bad then sync 0x01
  else
    match s.pendingMask s.myTask (core / 4) with
    | none => .go
    | some p => if p = m then .go else if p.getLsbD (core % 4) then sync 0x02 else .stall

/-- bar.braid: the context waits; its arrival counts once its braid accesses have performed, and its later accesses follow
them (R130, R283). -/
def execBarBraid (g : BitVec 4) (a : BitVec 6) (s : State) : Out :=
  .next (s.gated g (barPre s a)
    (s.modCtx s.issue.x (fun c => { c with bar := some (barMask s a, false, s.drainSet s.issue.x 0) })))

/-- The participants of a mask: every context of every named team of the task (R283). -/
def State.participants (s : State) (task braid : Nat) (m : BitVec 4) : List CtxNo :=
  (s.ctxs.filter (fun c => c.2.task = task && c.2.st ≠ .empty && (maskCores braid m).contains (c.1 / 16))).map
    (fun c => ctxOf c.1)

/-- The participant has arrived with the mask, or has ended. -/
def State.arrivedOrEnded (s : State) (m : BitVec 4) (x : CtxNo) : Bool :=
  (match (s.ctx x).bar with
   | some (k, counted, _) => k = m && counted
   | none => false) || (s.ctx x).st = .ended

/-- A stop or a switch is asked of the context's task (R40, R164, R373). -/
def State.stopAsked (s : State) (x : CtxNo) : Bool :=
  match s.task? (s.ctx x).task with
  | some t => t.st = .stopping || t.st = .saving || t.sw.isSome
  | none => false

/-- A waiting participant goes on: it becomes READY, or stops where its bar is the drain bundle that a pending stop waits for (R37, R40,
R283). -/
def State.barGoes (s : State) (x : CtxNo) : State :=
  s.modCtx x (fun c => { c with
    bar := none, st := if c.st = .stalled then if c.barDrain && s.stopAsked x then .stopped else .ready else c.st })

/-- The generation of a braid completes when every participant has arrived or ended: all waiting ones go on together. Once
the save of a named team has begun, the generation belongs to the save (R283). -/
def State.barComplete (s : State) (task braid : Nat) (m : BitVec 4) : State :=
  let ps := s.participants task braid m
  let here := (maskCores braid m).all (fun c => match (s.core c).team? task with
    | some t => !t.saving
    | none => false)
  if here && ps.all (s.arrivedOrEnded m) then
    ps.foldl State.barGoes s
  else s

/-- BARRIER_ARRIVAL: a bar's arrival counts once the accesses of Drain(BRAID) have performed (R283). -/
def State.barArrive (s : State) (x : CtxNo) : State :=
  match (s.ctx x).bar with
  | none => s
  | some (m, counted, e) =>
    let s := if counted || !s.clearOf x e then s
      else s.modCtx x (fun c => { c with bar := some (m, true, []) })
    s.barComplete (s.ctx x).task (ctxCore x / 4) m

/-- BARRIER_ARRIVAL (R283). -/
def execBarrierArrival (x : CtxNo) (s : State) : Out := .next (s.barArrive x)

end Sys2Proof.Machine
end

