-- ==== Sys2Proof/Machine/Scalar.lean ====
section
/-! DEFINITION. Scalar and predicate operations of the S slot (R175 to R186). -/

namespace Sys2Proof.Machine

/-- Signed and unsigned choices (R178). -/
def minS (a b : Word) : Word := if a.slt b then a else b
def maxS (a b : Word) : Word := if b.slt a then a else b
def minU (a b : Word) : Word := if a.ult b then a else b
def maxU (a b : Word) : Word := if b.ult a then a else b

/-- The high halves of the exact products (R178). -/
def mulHi (a b : Word) : Word := BitVec.ofInt 64 ((a.toInt * b.toInt) / 2 ^ 64)
def mulHiU (a b : Word) : Word := BitVec.ofNat 64 (a.toNat * b.toNat / 2 ^ 64)

/-- The shift amount of a register, bits [5:0] (R178). -/
def shAmt (b : Word) : Nat := b.toNat % 64

/-- Divisions (R180). -/
def divS (a b : Word) : Word :=
  if b = 0 then BitVec.allOnes 64
  else if a = 0x8000000000000000 ∧ b = BitVec.allOnes 64 then a
  else BitVec.ofInt 64 (a.toInt.tdiv b.toInt)
def divU (a b : Word) : Word := if b = 0 then BitVec.allOnes 64 else BitVec.ofNat 64 (a.toNat / b.toNat)
def remS (a b : Word) : Word :=
  if b = 0 then a
  else if a = 0x8000000000000000 ∧ b = BitVec.allOnes 64 then 0
  else BitVec.ofInt 64 (a.toInt - b.toInt * a.toInt.tdiv b.toInt)
def remU (a b : Word) : Word := if b = 0 then a else BitVec.ofNat 64 (a.toNat % b.toNat)

/-- Bits set among places 0 to n - 1. -/
def onesBelow (v : Nat) : Nat → Nat
  | 0 => 0
  | n + 1 => onesBelow v n + b2n (bitOf v n)

/-- The lowest set place from place i on, among k places; the end when there is none. -/
def lowestFrom (v i : Nat) : Nat → Nat
  | 0 => i
  | k + 1 => if bitOf v i then i else lowestFrom v (i + 1) k

/-- Leading zeros: places above the highest set bit of 64 (R181). -/
def leadZeros (a : Word) : Nat := 64 - bitLen a.toNat

/-- The eight bytes in reverse order (R181). -/
def revBytes (a : Word) : Word := BitVec.ofNat 64 (bytesNat (natBytes a.toNat 8).reverse)

/-- The low n bits, sign-extended or zero-extended (R181). -/
def sextOf (n : Nat) (a : Word) : Word := (a.setWidth n).signExtend 64
def zextOf (n : Nat) (a : Word) : Word := (a.setWidth n).setWidth 64

/-- nop has no effect (R167). -/
def execNop (s : State) : Out := .next s

/-- s[D] := a + b (R178). -/
def execAdd (g : BitVec 4) (d a b : BitVec 6) (s : State) : Out :=
  .next (s.opS g d (s.me.rs a + s.me.rs b) 1)

/-- s[D] := a - b (R178). -/
def execSub (g : BitVec 4) (d a b : BitVec 6) (s : State) : Out :=
  .next (s.opS g d (s.me.rs a - s.me.rs b) 1)

/-- s[D] := a and b (R178). -/
def execAnd (g : BitVec 4) (d a b : BitVec 6) (s : State) : Out :=
  .next (s.opS g d (s.me.rs a &&& s.me.rs b) 1)

/-- s[D] := a or b (R178). -/
def execOr (g : BitVec 4) (d a b : BitVec 6) (s : State) : Out :=
  .next (s.opS g d (s.me.rs a ||| s.me.rs b) 1)

/-- s[D] := a xor b (R178). -/
def execXor (g : BitVec 4) (d a b : BitVec 6) (s : State) : Out :=
  .next (s.opS g d (s.me.rs a ^^^ s.me.rs b) 1)

/-- s[D] := a and not b (R178). -/
def execAndn (g : BitVec 4) (d a b : BitVec 6) (s : State) : Out :=
  .next (s.opS g d (s.me.rs a &&& ~~~(s.me.rs b)) 1)

/-- The lower as signed numbers (R178). -/
def execMin (g : BitVec 4) (d a b : BitVec 6) (s : State) : Out :=
  .next (s.opS g d (minS (s.me.rs a) (s.me.rs b)) 1)

/-- The higher as signed numbers (R178). -/
def execMax (g : BitVec 4) (d a b : BitVec 6) (s : State) : Out :=
  .next (s.opS g d (maxS (s.me.rs a) (s.me.rs b)) 1)

/-- The lower as unsigned numbers (R178). -/
def execMinu (g : BitVec 4) (d a b : BitVec 6) (s : State) : Out :=
  .next (s.opS g d (minU (s.me.rs a) (s.me.rs b)) 1)

/-- The higher as unsigned numbers (R178). -/
def execMaxu (g : BitVec 4) (d a b : BitVec 6) (s : State) : Out :=
  .next (s.opS g d (maxU (s.me.rs a) (s.me.rs b)) 1)

/-- The low half of the product (R178). -/
def execMul (g : BitVec 4) (d a b : BitVec 6) (s : State) : Out :=
  .next (s.opS g d (s.me.rs a * s.me.rs b) 3)

/-- The high half of the signed product (R178). -/
def execMulh (g : BitVec 4) (d a b : BitVec 6) (s : State) : Out :=
  .next (s.opS g d (mulHi (s.me.rs a) (s.me.rs b)) 3)

/-- The high half of the unsigned product (R178). -/
def execMulhu (g : BitVec 4) (d a b : BitVec 6) (s : State) : Out :=
  .next (s.opS g d (mulHiU (s.me.rs a) (s.me.rs b)) 3)

/-- a shifted left by b[5:0] (R178). -/
def execSll (g : BitVec 4) (d a b : BitVec 6) (s : State) : Out :=
  .next (s.opS g d (s.me.rs a <<< shAmt (s.me.rs b)) 1)

/-- a shifted right by b[5:0] (R178). -/
def execSrl (g : BitVec 4) (d a b : BitVec 6) (s : State) : Out :=
  .next (s.opS g d (s.me.rs a >>> shAmt (s.me.rs b)) 1)

/-- a shifted right by b[5:0] with its sign (R178). -/
def execSra (g : BitVec 4) (d a b : BitVec 6) (s : State) : Out :=
  .next (s.opS g d ((s.me.rs a).sshiftRight (shAmt (s.me.rs b))) 1)

/-- s[D] := a + i (R179). -/
def execAddi (g : BitVec 4) (d a : BitVec 6) (i : BitVec 9) (s : State) : Out :=
  .next (s.opS g d (s.me.rs a + s.imm i) 1)

/-- s[D] := a and i (R179). -/
def execAndi (g : BitVec 4) (d a : BitVec 6) (i : BitVec 9) (s : State) : Out :=
  .next (s.opS g d (s.me.rs a &&& s.imm i) 1)

/-- s[D] := a or i (R179). -/
def execOri (g : BitVec 4) (d a : BitVec 6) (i : BitVec 9) (s : State) : Out :=
  .next (s.opS g d (s.me.rs a ||| s.imm i) 1)

/-- s[D] := a xor i (R179). -/
def execXori (g : BitVec 4) (d a : BitVec 6) (i : BitVec 9) (s : State) : Out :=
  .next (s.opS g d (s.me.rs a ^^^ s.imm i) 1)

/-- Shift left by an immediate amount (R179). -/
def execSlli (g : BitVec 4) (d a n : BitVec 6) (s : State) : Out :=
  .next (s.opS g d (s.me.rs a <<< n.toNat) 1)

/-- Shift right by an immediate amount (R179). -/
def execSrli (g : BitVec 4) (d a n : BitVec 6) (s : State) : Out :=
  .next (s.opS g d (s.me.rs a >>> n.toNat) 1)

/-- Shift right with the sign by an immediate amount (R179). -/
def execSrai (g : BitVec 4) (d a n : BitVec 6) (s : State) : Out :=
  .next (s.opS g d ((s.me.rs a).sshiftRight n.toNat) 1)

/-- s[D] := a x i (R179). -/
def execMuli (g : BitVec 4) (d a : BitVec 6) (i : BitVec 9) (s : State) : Out :=
  .next (s.opS g d (s.me.rs a * s.imm i) 3)

/-- a when bit 0 of the short predicate is 1, else b (R183). -/
def execSel (g : BitVec 4) (d a b : BitVec 6) (p : BitVec 3) (s : State) : Out :=
  .next (s.opS g d (if (s.me.rp (p.setWidth 7)).getLsbD 0 then s.me.rs a else s.me.rs b) 1)

/-- s[D] := a + (b << k) (R178). -/
def execAdds (g : BitVec 4) (d a b : BitVec 6) (k : BitVec 3) (s : State) : Out :=
  .next (s.opS g d (s.me.rs a + (s.me.rs b) <<< k.toNat) 1)

/-- Leading zero bits (R181). -/
def execClz (g : BitVec 4) (d a : BitVec 6) (s : State) : Out :=
  .next (s.opS g d (BitVec.ofNat 64 (leadZeros (s.me.rs a))) 1)

/-- Trailing zero bits (R181). -/
def execCtz (g : BitVec 4) (d a : BitVec 6) (s : State) : Out :=
  .next (s.opS g d (BitVec.ofNat 64 (lowestFrom (s.me.rs a).toNat 0 64)) 1)

/-- Bits set (R181). -/
def execPopc (g : BitVec 4) (d a : BitVec 6) (s : State) : Out :=
  .next (s.opS g d (BitVec.ofNat 64 (onesBelow (s.me.rs a).toNat 64)) 1)

/-- Bytes in reverse order (R181). -/
def execRev8 (g : BitVec 4) (d a : BitVec 6) (s : State) : Out :=
  .next (s.opS g d (revBytes (s.me.rs a)) 1)

/-- The low 8 bits, sign-extended (R181). -/
def execSextB (g : BitVec 4) (d a : BitVec 6) (s : State) : Out :=
  .next (s.opS g d (sextOf 8 (s.me.rs a)) 1)

/-- The low 16 bits, sign-extended (R181). -/
def execSextH (g : BitVec 4) (d a : BitVec 6) (s : State) : Out :=
  .next (s.opS g d (sextOf 16 (s.me.rs a)) 1)

/-- The low 32 bits, sign-extended (R181). -/
def execSextW (g : BitVec 4) (d a : BitVec 6) (s : State) : Out :=
  .next (s.opS g d (sextOf 32 (s.me.rs a)) 1)

/-- The low 8 bits, zero-extended (R181). -/
def execZextB (g : BitVec 4) (d a : BitVec 6) (s : State) : Out :=
  .next (s.opS g d (zextOf 8 (s.me.rs a)) 1)

/-- The low 16 bits, zero-extended (R181). -/
def execZextH (g : BitVec 4) (d a : BitVec 6) (s : State) : Out :=
  .next (s.opS g d (zextOf 16 (s.me.rs a)) 1)

/-- The low 32 bits, zero-extended (R181). -/
def execZextW (g : BitVec 4) (d a : BitVec 6) (s : State) : Out :=
  .next (s.opS g d (zextOf 32 (s.me.rs a)) 1)

/-- A constant (R182). -/
def execMovi (g : BitVec 4) (d : BitVec 6) (i : BitVec 15) (s : State) : Out :=
  .next (s.opS g d (s.imm i) 1)

/-- Signed quotient towards zero (R180). -/
def execDiv (g : BitVec 4) (d a b : BitVec 6) (s : State) : Out :=
  .next (s.opS g d (divS (s.me.rs a) (s.me.rs b)) 24)

/-- Unsigned quotient (R180). -/
def execDivu (g : BitVec 4) (d a b : BitVec 6) (s : State) : Out :=
  .next (s.opS g d (divU (s.me.rs a) (s.me.rs b)) 24)

/-- Signed remainder with the sign of the dividend (R180). -/
def execRem (g : BitVec 4) (d a b : BitVec 6) (s : State) : Out :=
  .next (s.opS g d (remS (s.me.rs a) (s.me.rs b)) 24)

/-- Unsigned remainder (R180). -/
def execRemu (g : BitVec 4) (d a b : BitVec 6) (s : State) : Out :=
  .next (s.opS g d (remU (s.me.rs a) (s.me.rs b)) 24)

/-- Whole predicate from a = b (R184). -/
def execCmpEq (g : BitVec 4) (p : BitVec 7) (a b : BitVec 6) (s : State) : Out :=
  .next (s.opP g p (predOf (decide (s.me.rs a = s.me.rs b))))

/-- Whole predicate from a and b differ (R184). -/
def execCmpNe (g : BitVec 4) (p : BitVec 7) (a b : BitVec 6) (s : State) : Out :=
  .next (s.opP g p (predOf (decide (s.me.rs a ≠ s.me.rs b))))

/-- Whole predicate from a < b, signed (R184). -/
def execCmpLt (g : BitVec 4) (p : BitVec 7) (a b : BitVec 6) (s : State) : Out :=
  .next (s.opP g p (predOf ((s.me.rs a).slt (s.me.rs b))))

/-- Whole predicate from a is at most b, signed (R184). -/
def execCmpLe (g : BitVec 4) (p : BitVec 7) (a b : BitVec 6) (s : State) : Out :=
  .next (s.opP g p (predOf ((s.me.rs a).sle (s.me.rs b))))

/-- Whole predicate from a < b, unsigned (R184). -/
def execCmpLtu (g : BitVec 4) (p : BitVec 7) (a b : BitVec 6) (s : State) : Out :=
  .next (s.opP g p (predOf ((s.me.rs a).ult (s.me.rs b))))

/-- Whole predicate from a at most b, unsigned (R184). -/
def execCmpLeu (g : BitVec 4) (p : BitVec 7) (a b : BitVec 6) (s : State) : Out :=
  .next (s.opP g p (predOf ((s.me.rs a).ule (s.me.rs b))))

/-- Whole predicate from (a and b) being non-zero (R184). -/
def execCmpTst (g : BitVec 4) (p : BitVec 7) (a b : BitVec 6) (s : State) : Out :=
  .next (s.opP g p (predOf (decide ((s.me.rs a &&& s.me.rs b) ≠ 0))))

/-- Whole predicate from (a and b) = 0 (R184). -/
def execCmpNtst (g : BitVec 4) (p : BitVec 7) (a b : BitVec 6) (s : State) : Out :=
  .next (s.opP g p (predOf (decide ((s.me.rs a &&& s.me.rs b) = 0))))

/-- Whole predicate from a = b, with b the immediate (R177, R184). -/
def execCmpiEq (g : BitVec 4) (p : BitVec 7) (a i : BitVec 6) (s : State) : Out :=
  .next (s.opP g p (predOf (decide (s.me.rs a = s.imm i))))

/-- Whole predicate from a and b differ, with b the immediate (R177, R184). -/
def execCmpiNe (g : BitVec 4) (p : BitVec 7) (a i : BitVec 6) (s : State) : Out :=
  .next (s.opP g p (predOf (decide (s.me.rs a ≠ s.imm i))))

/-- Whole predicate from a < b, signed, with b the immediate (R177, R184). -/
def execCmpiLt (g : BitVec 4) (p : BitVec 7) (a i : BitVec 6) (s : State) : Out :=
  .next (s.opP g p (predOf ((s.me.rs a).slt (s.imm i))))

/-- Whole predicate from a is at most b, signed, with b the immediate (R177, R184). -/
def execCmpiLe (g : BitVec 4) (p : BitVec 7) (a i : BitVec 6) (s : State) : Out :=
  .next (s.opP g p (predOf ((s.me.rs a).sle (s.imm i))))

/-- P(PD) := P(PA) and P(PB) (R185). -/
def execPand (g : BitVec 4) (p a b : BitVec 7) (s : State) : Out :=
  .next (s.opP g p (s.me.rp a &&& s.me.rp b))

/-- P(PD) := P(PA) or P(PB) (R185). -/
def execPor (g : BitVec 4) (p a b : BitVec 7) (s : State) : Out :=
  .next (s.opP g p (s.me.rp a ||| s.me.rp b))

/-- P(PD) := P(PA) xor P(PB) (R185). -/
def execPxor (g : BitVec 4) (p a b : BitVec 7) (s : State) : Out :=
  .next (s.opP g p (s.me.rp a ^^^ s.me.rp b))

/-- P(PD) := P(PA) and not P(PB) (R185). -/
def execPandn (g : BitVec 4) (p a b : BitVec 7) (s : State) : Out :=
  .next (s.opP g p (s.me.rp a &&& ~~~(s.me.rp b)))

/-- P(PD) := s[A][31:0] (R186). -/
def execPset (g : BitVec 4) (p : BitVec 7) (a : BitVec 6) (s : State) : Out :=
  .next (s.opP g p ((s.me.rs a).setWidth 32))

/-- s[A] := P(PD), zero-extended (R186). -/
def execPget (g : BitVec 4) (p : BitVec 7) (a : BitVec 6) (s : State) : Out :=
  .next (s.opS g a ((s.me.rp p).setWidth 64) 1)

/-- s[A] := the number of bits set in P(PD) (R186). -/
def execPcnt (g : BitVec 4) (p : BitVec 7) (a : BitVec 6) (s : State) : Out :=
  .next (s.opS g a (BitVec.ofNat 64 (onesBelow (s.me.rp p).toNat 32)) 1)

/-- s[A] := the lowest set bit of P(PD), 32 when it is 0 (R186). -/
def execPfirst (g : BitVec 4) (p : BitVec 7) (a : BitVec 6) (s : State) : Out :=
  .next (s.opS g a (BitVec.ofNat 64 (lowestFrom (s.me.rp p).toNat 0 32)) 1)

end Sys2Proof.Machine
end

