-- ==== Sys2Proof/Machine/Control.lean ====
section
/-! DEFINITION. Branch targets, calls and returns, hardware loops, rotation and special-register moves (R187 to R198). -/

namespace Sys2Proof.Machine

/-- setb writes a bundle index (R187). -/
def execSetb (g : BitVec 4) (b : BitVec 3) (t : BitVec 13) (s : State) : Out :=
  .next (s.opD g (dstB b) (t.setWidth 64))

/-- setb from bits [12:0] of a scalar register (R187). -/
def execSetbReg (g : BitVec 4) (b : BitVec 3) (a : BitVec 6) (s : State) : Out :=
  .next (s.opD g (dstB b) (((s.me.rs a).setWidth 13).setWidth 64))

/-- The target that a b register names. -/
def State.target (s : State) (b : BitVec 3) : Word := (s.me.rb b).setWidth 64

/-- s4 less the frame, exact (R189). -/
def frameBelow (c : Ctx) (f : BitVec 7) : Int := (c.rs 4).toNat - 16 * (f.toNat : Int)

/-- call's test against the spill limit (R189, R191). -/
def callPre (s : State) (f : BitVec 7) : Pre :=
  let new := frameBelow s.me f
  if f ≠ 0 ∧ (new < s.me.splim.toNat ∨ new < 0) then .trap ⟨tSPILL, 0x01, 0, BitVec.ofInt 64 new⟩ else .go

/-- call: the frame, the link and the taken leaf (R189). -/
def execCall (g : BitVec 4) (b : BitVec 3) (f : BitVec 7) (l : BitVec 6) (s : State) : Out :=
  .next (s.gated g (callPre s f)
    (((s.landS 4 (BitVec.ofInt 64 (frameBelow s.me f)) 1).landS l (s.me.npc + 1) 1).setLeaf (s.target b)))

/-- ret: the frame and the taken leaf (R190); L may name s4 (DESIGN CHOICE, log 123). -/
def execRet (g : BitVec 4) (f : BitVec 7) (l : BitVec 6) (s : State) : Out :=
  .next (s.gated g .go
    ((s.landS 4 (s.me.rs 4 + BitVec.ofNat 64 (16 * f.toNat)) 1).setLeaf (((s.me.rs l).setWidth 13).setWidth 64)))

/-- A counted loop closes: the counter and the leaf (R193). -/
def State.closeLoop (s : State) (d : Dest) (lc : BitVec 32) (b : BitVec 3) : State :=
  if 1 < lc.toNat then (s.land d allLanes (ofWord ((lc - 1).setWidth 64)) 0 1).setLeaf (s.target b)
  else s.land d allLanes 0 0 1

/-- lp0 (R193). -/
def execLp0 (g : BitVec 4) (b : BitVec 3) (s : State) : Out := .next (s.gated g .go (s.closeLoop .lc0 s.me.lc0 b))

/-- lp1 (R193). -/
def execLp1 (g : BitVec 4) (b : BitVec 3) (s : State) : Out := .next (s.gated g .go (s.closeLoop .lc1 s.me.lc1 b))

/-- Both rotation bases step down by one (R194, R195). -/
def State.rotate (s : State) : State :=
  (s.land .vrb allLanes (ofWord ((s.me.vrb - 1).setWidth 64)) 0 1).land .prb allLanes
    (ofWord ((s.me.prb - 1).setWidth 64)) 0 1

/-- The rotation of lpe with its stage predicate, written to physical p[64 + np] (R194). -/
def State.stage (s : State) (w : BitVec 32) : State :=
  (s.rotate).land (.p ⟨64 + (s.me.prb - 1).toNat, by have := (s.me.prb - 1).isLt; omega⟩) allLanes (w.setWidth 1024) 0 1

/-- lpe counts with lc0 and ec, rotates and writes the stage predicate (R194). -/
def State.closePipe (s : State) (b : BitVec 3) : State :=
  let c := s.me
  let put (s : State) (d : Dest) (w : Word) : State := s.land d allLanes (ofWord w) 0 1
  if 1 < c.lc0.toNat then ((put s .lc0 ((c.lc0 - 1).setWidth 64)).stage allLanes).setLeaf (s.target b)
  else if 1 < c.ec.toNat then ((put (put s .lc0 0) .ec ((c.ec - 1).setWidth 64)).stage 0).setLeaf (s.target b)
  else if c.ec = 1 then (put (put s .lc0 0) .ec 0).stage 0
  else put s .lc0 0

/-- lpe (R194). -/
def execLpe (g : BitVec 4) (b : BitVec 3) (s : State) : Out := .next (s.gated g .go (s.closePipe b))

/-- The counter that LC selects (R192). -/
def counterOf (c : BitVec 2) : Dest := if c = 0 then .lc0 else if c = 1 then .lc1 else .ec

/-- lset from the unsigned field (R192). -/
def execLset (g : BitVec 4) (c : BitVec 2) (i : BitVec 18) (s : State) : Out :=
  .next (s.opD g (counterOf c) (i.setWidth 64))

/-- lset from a scalar register, narrowed to the counter (R192). -/
def execLsetReg (g : BitVec 4) (c : BitVec 2) (a : BitVec 6) (s : State) : Out :=
  .next (s.opD g (counterOf c) (s.me.rs a))

/-- rot.step (R195). -/
def execRotStep (g : BitVec 4) (s : State) : Out := .next (s.gated g .go s.rotate)

/-- rot.setv from I (R195). -/
def execRotSetv (g : BitVec 4) (i : BitVec 18) (s : State) : Out := .next (s.opD g .vrb (i.setWidth 64))

/-- rot.setv from a scalar register, bits [4:0] (R195). -/
def execRotSetvReg (g : BitVec 4) (a : BitVec 6) (s : State) : Out := .next (s.opD g .vrb (s.me.rs a))

/-- rot.setp from I (R195). -/
def execRotSetp (g : BitVec 4) (i : BitVec 18) (s : State) : Out := .next (s.opD g .prb (i.setWidth 64))

/-- rot.setp from a scalar register, bits [5:0] (R195). -/
def execRotSetpReg (g : BitVec 4) (a : BitVec 6) (s : State) : Out := .next (s.opD g .prb (s.me.rs a))

/-- CSTAT (R53). -/
def cstatOf (x : CtxNo) (c : Ctx) : Word :=
  BitVec.ofNat 64 (cstatLow x c.tctx + b2n c.bp * 2 ^ 16 + b2n c.dbg * 2 ^ 17 + b2n c.compat * 2 ^ 18 +
    b2n c.inh * 2 ^ 19)

/-- A special register by its number (R51, R196). PC and NPC read whole: an index of 8,192, which fits no [12:0] and whose reading the
spec does not state, shows bit 13 (DESIGN CHOICE, log 95). -/
def sregOf (x : CtxNo) (c : Ctx) (pcyc : Nat) (r : BitVec 8) : Word :=
  match r.toNat with
  | 0 => c.astat.setWidth 64
  | 1 => cstatOf x c
  | 2 => c.pc
  | 3 => c.npc
  | 4 => c.vrb.setWidth 64
  | 5 => c.prb.setWidth 64
  | 6 => c.lc0.setWidth 64
  | 7 => c.lc1.setWidth 64
  | 8 => c.ec.setWidth 64
  | 9 => c.utv.setWidth 64
  | 10 => c.splim
  | 11 => c.limit.setWidth 64
  | 12 => c.dcount.setWidth 64
  | 13 => BitVec.ofNat 64 pcyc
  | _ => 0

/-- mfs reads a special register at issue (R196). In a drain bundle it reads the DCOUNT that the bundle found, before its execution sets
it to 0: R38 and R196 do not say which comes first (DESIGN CHOICE, log 120). -/
def execMfs (g : BitVec 4) (d : BitVec 6) (r : BitVec 8) (s : State) : Out :=
  .next (s.opS g d (sregOf s.issue.x s.me s.issue.cycle r) 1)

/-- The destination of mts; the registers that programs only read discard the write (R197). -/
def sregDst (r : BitVec 8) : Dest :=
  match r.toNat with
  | 0 => .astat
  | 4 => .vrb
  | 5 => .prb
  | 6 => .lc0
  | 7 => .lc1
  | 8 => .ec
  | 9 => .utv
  | _ => .none

/-- mts writes a special register from s[D] (R197). -/
def execMts (g : BitVec 4) (d : BitVec 6) (r : BitVec 8) (s : State) : Out := .next (s.opD g (sregDst r) (s.me.rs d))

end Sys2Proof.Machine
end

