-- ==== Sys2Proof/Machine/Regs.lean ====
section
/-! DEFINITION. What a slot operation reads and writes by register (R50, R57, R59, R310), and its test for a stall (R48). -/

namespace Sys2Proof.Machine

/-- Registers that an operation names as destinations, mapped with the bases in force (R50, R55). A destination that is
discarded is none. -/
def Ctx.dests (c : Ctx) : Instr → List Dest
  | .add _ d _ _ | .sub _ d _ _ | .and _ d _ _ | .or _ d _ _ | .xor _ d _ _ | .andn _ d _ _ | .min _ d _ _
  | .max _ d _ _ | .minu _ d _ _ | .maxu _ d _ _ | .mul _ d _ _ | .mulh _ d _ _ | .mulhu _ d _ _ | .sll _ d _ _
  | .srl _ d _ _ | .sra _ d _ _ | .addi _ d _ _ | .andi _ d _ _ | .ori _ d _ _ | .xori _ d _ _ | .slli _ d _ _
  | .srli _ d _ _ | .srai _ d _ _ | .muli _ d _ _ | .sel _ d _ _ _ | .mfs _ d _ | .adds _ d _ _ _ | .clz _ d _
  | .ctz _ d _ | .popc _ d _ | .rev8 _ d _ | .sextB _ d _ | .sextH _ d _ | .sextW _ d _ | .zextB _ d _
  | .zextH _ d _ | .zextW _ d _ | .movi _ d _ | .div _ d _ _ | .divu _ d _ _ | .rem _ d _ _ | .remu _ d _ _
  | .vget _ d _ _ | .mwait _ d | .mstat _ d | .mstatCnt _ d | .ldB _ d _ _ | .ldH _ d _ _ | .ldW _ d _ _
  | .ldD _ d _ _ | .ldBs _ d _ _ | .ldHs _ d _ _ | .ldWs _ d _ _ | .ldvB _ d _ _ | .ldvH _ d _ _ | .ldvW _ d _ _
  | .ldvD _ d _ _ | .ldvBs _ d _ _ | .ldvHs _ d _ _ | .ldvWs _ d _ _ | .cpyG2s _ d _ _ | .cpyS2g _ d _ _
  | .cpyS2s _ d _ _ | .cpyG2g _ d _ _ | .cpyGath _ d _ _ | .cpyScat _ d _ _ | .cpyMcast _ d _ _ | .cpyTr _ d _ _
  | .cqPop _ d _ | .cqProg _ d _ _ | .cqCnt _ d _ | .amoAddW _ d _ _ | .amoAndW _ d _ _ | .amoOrW _ d _ _
  | .amoXorW _ d _ _ | .amoMinW _ d _ _ | .amoMaxW _ d _ _ | .amoMinuW _ d _ _ | .amoMaxuW _ d _ _
  | .amoAddD _ d _ _ | .amoAndD _ d _ _ | .amoOrD _ d _ _ | .amoXorD _ d _ _ | .amoMinD _ d _ _ | .amoMaxD _ d _ _
  | .amoMinuD _ d _ _ | .amoMaxuD _ d _ _ | .amoxSwapW _ d _ _ | .amoxSwapD _ d _ _ | .amoxCasW _ d _ _
  | .amoxCasD _ d _ _ | .amoxFaddF32 _ d _ _ | .scLdW _ d _ | .scLdD _ d _ | .scSwapW _ d _ _ | .scSwapD _ d _ _
  | .scAddD _ d _ _ | .scCasD _ d _ _ | .splCall _ d _ _ | .splInst _ d _ | .splRm _ d | .knotRd _ d _
  | .knotMax _ d _ _ | .knotSwap _ d _ _ | .nrgQ _ d _ | .pin _ d _ | .unpin _ d _ => [dstS d]
  | .cmpEq _ p _ _ | .cmpNe _ p _ _ | .cmpLt _ p _ _ | .cmpLe _ p _ _ | .cmpLtu _ p _ _ | .cmpLeu _ p _ _
  | .cmpTst _ p _ _ | .cmpNtst _ p _ _ | .cmpiEq _ p _ _ | .cmpiNe _ p _ _ | .cmpiLt _ p _ _ | .cmpiLe _ p _ _
  | .pset _ p _ | .vcmpEq _ p _ _ | .vcmpNe _ p _ _ | .vcmpLt _ p _ _ | .vcmpLe _ p _ _ | .vcmpuLtu _ p _ _
  | .vcmpuLeu _ p _ _ | .vcmpuTst _ p _ _ | .vcmpuNtst _ p _ _ | .vfcmpEq _ p _ _ | .vfcmpNe _ p _ _
  | .vfcmpLt _ p _ _ | .vfcmpLe _ p _ _ => [c.dstP p]
  | .pand _ d _ _ | .por _ d _ _ | .pxor _ d _ _ | .pandn _ d _ _ => [c.dstP d]
  | .pget _ _ a | .pcnt _ _ a | .pfirst _ _ a | .bgtQuery _ _ a | .hyPop _ a | .hyStat _ a | .hyProg _ a
  | .hyRdc _ a => [dstS a]
  | .setb _ b _ | .setbReg _ b _ => [dstB b]
  | .call _ _ _ l => [dstS 4, dstS l]
  | .ret _ _ _ => [dstS 4]
  | .lp0 _ _ => [.lc0]
  | .lp1 _ _ => [.lc1]
  | .lpe _ _ => [.lc0, .ec, .vrb, .prb, c.dstP 64]
  | .lset _ c0 _ | .lsetReg _ c0 _ => [counterOf c0]
  | .rotStep _ => [.vrb, .prb]
  | .rotSetv _ _ | .rotSetvReg _ _ => [.vrb]
  | .rotSetp _ _ | .rotSetpReg _ _ => [.prb]
  | .mts _ _ r => [sregDst r]
  | .vadd _ d _ _ _ | .vsub _ d _ _ _ | .vmul _ d _ _ _ | .vadds _ d _ _ _ | .vsubs _ d _ _ _ | .vmin _ d _ _ _
  | .vmax _ d _ _ _ | .vand _ d _ _ | .vor _ d _ _ | .vxor _ d _ _ | .vandn _ d _ _ | .vnot _ d _ | .vsll _ d _ _
  | .vsrl _ d _ _ | .vsra _ d _ _ | .vslls _ d _ _ | .vsrls _ d _ _ | .vsras _ d _ _ | .vfadd _ d _ _ _
  | .vfsub _ d _ _ _ | .vfmul _ d _ _ _ | .vfmin _ d _ _ _ | .vfma _ d _ _ _ | .vfms _ d _ _ _ | .vfmax _ d _ _ _
  | .vcvtV0V31 _ d _ _ _ | .vcvtV32V63 _ d _ _ _ | .vcvtSatV0V31 _ d _ _ _ | .vcvtSatV32V63 _ d _ _ _
  | .vsel _ d _ _ _ | .vperm _ d _ _ | .vrotl _ d _ _ | .vbcl _ d _ _ | .vzipl _ d _ _ | .vziph _ d _ _
  | .vuzpl _ d _ _ | .vuzph _ d _ _ | .vredFsum _ d _ | .vredIsum _ d _ | .vredFmax _ d _ | .vredFmin _ d _
  | .vredImax _ d _ | .vredImin _ d _ | .vredAmax _ d _ | .vtrLog2 _ d _ _ | .vtrExp2 _ d _ _ | .vtrRcp _ d _ _
  | .vtrRsqrt _ d _ _ | .vtrSig _ d _ _ | .vtrTanh _ d _ _ | .vhash _ d _ _ | .vacc _ d _ _ _ | .vaccLc _ d _ _ _
  | .vbc _ d _ | .vput _ d _ _ | .viota _ d _ | .vldV _ d _ _ | .vldBc _ d _ _ | .vldH _ d _ _ | .vldvV _ d _ _
  | .vldvBc _ d _ _ | .vldvH _ d _ _ => [c.dstV d]
  | .mpar _ m _ | .mpari _ m _ => [.m ⟨m.toNat, m.isLt⟩]
  | _ => []

/-- Registers that an operation reads, guard and tree apart (R57). -/
def Ctx.sources (c : Ctx) : Instr → List Dest
  | .add _ _ a b | .sub _ _ a b | .and _ _ a b | .or _ _ a b | .xor _ _ a b | .andn _ _ a b | .min _ _ a b
  | .max _ _ a b | .minu _ _ a b | .maxu _ _ a b | .mul _ _ a b | .mulh _ _ a b | .mulhu _ _ a b | .sll _ _ a b
  | .srl _ _ a b | .sra _ _ a b | .cmpEq _ _ a b | .cmpNe _ _ a b | .cmpLt _ _ a b | .cmpLe _ _ a b
  | .cmpLtu _ _ a b | .cmpLeu _ _ a b | .cmpTst _ _ a b | .cmpNtst _ _ a b | .adds _ _ a b _ | .div _ _ a b
  | .divu _ _ a b | .rem _ _ a b | .remu _ _ a b | .vhash _ _ a b | .vput _ _ a b | .bgtTouch _ _ a b
  | .amoAddW _ _ a b | .amoAndW _ _ a b | .amoOrW _ _ a b | .amoXorW _ _ a b | .amoMinW _ _ a b | .amoMaxW _ _ a b
  | .amoMinuW _ _ a b | .amoMaxuW _ _ a b | .amoAddD _ _ a b | .amoAndD _ _ a b | .amoOrD _ _ a b | .amoXorD _ _ a b
  | .amoMinD _ _ a b | .amoMaxD _ _ a b | .amoMinuD _ _ a b | .amoMaxuD _ _ a b | .amoxSwapW _ _ a b
  | .amoxSwapD _ _ a b | .amoxFaddF32 _ _ a b | .redAddW _ a b | .redAddD _ a b | .redMinW _ a b | .redMaxW _ a b
  | .redMinuW _ a b | .redMaxuW _ a b | .redFaddF32 _ a b | .redOrD _ a b | .scStW _ a b | .scStD _ a b
  | .scSwapW _ _ a b | .scSwapD _ _ a b | .scAddD _ _ a b | .knotAdd _ a b | .knotMax _ _ a b | .knotSwap _ _ a b
  | .nrgVreg _ a b => [dstS a, dstS b]
  | .addi _ _ a _ | .andi _ _ a _ | .ori _ _ a _ | .xori _ _ a _ | .slli _ _ a _ | .srli _ _ a _ | .srai _ _ a _
  | .muli _ _ a _ | .cmpiEq _ _ a _ | .cmpiNe _ _ a _ | .cmpiLt _ _ a _ | .cmpiLe _ _ a _ | .pset _ _ a | .clz _ _ a
  | .ctz _ _ a | .popc _ _ a | .rev8 _ _ a | .sextB _ _ a | .sextH _ _ a | .sextW _ _ a | .zextB _ _ a
  | .zextH _ _ a | .zextW _ _ a | .vbc _ _ a | .viota _ _ a | .mpar _ _ a | .mmovSt _ _ a _ | .mmovStSat _ _ a _
  | .mmovLd _ _ a _ | .mrsw _ _ a | .ldB _ _ a _ | .ldH _ _ a _ | .ldW _ _ a _ | .ldD _ _ a _ | .ldBs _ _ a _
  | .ldHs _ _ a _ | .ldWs _ _ a _ | .ldvB _ _ a _ | .ldvH _ _ a _ | .ldvW _ _ a _ | .ldvD _ _ a _ | .ldvBs _ _ a _
  | .ldvHs _ _ a _ | .ldvWs _ _ a _ | .vldV _ _ a _ | .vldBc _ _ a _ | .vldH _ _ a _ | .vldvV _ _ a _
  | .vldvBc _ _ a _ | .vldvH _ _ a _ | .bgtMap _ _ a | .cpyG2s _ _ a _ | .cpyS2g _ _ a _ | .cpyS2s _ _ a _
  | .cpyG2g _ _ a _ | .cpyGath _ _ a _ | .cpyScat _ _ a _ | .cpyMcast _ _ a _ | .cpyTr _ _ a _ | .cqProg _ _ a _
  | .hyStart _ a | .hyCred _ a | .hyBase _ a | .lsend _ _ _ a | .lrecv _ _ _ a | .scLdW _ _ a | .scLdD _ _ a
  | .knotRd _ _ a | .nrgVsw _ a | .pin _ _ a | .unpin _ _ a | .dbgMark _ a | .barBraid _ a => [dstS a]
  | .sel _ _ a b p => [dstS a, dstS b, c.dstP (p.setWidth 7)]
  | .pand _ _ a b | .por _ _ a b | .pxor _ _ a b | .pandn _ _ a b => [c.dstP a, c.dstP b]
  | .pget _ p _ | .pcnt _ p _ | .pfirst _ p _ => [c.dstP p]
  | .setbReg _ _ s | .lsetReg _ _ s | .rotSetvReg _ s | .rotSetpReg _ s => [dstS s]
  | .call _ b _ _ => [dstS 4, dstB b]
  | .ret _ _ l => [dstS 4, dstS l]
  | .lp0 _ b => [.lc0, dstB b]
  | .lp1 _ b => [.lc1, dstB b]
  | .lpe _ b => [.lc0, .ec, .vrb, .prb, dstB b]
  | .rotStep _ => [.vrb, .prb]
  | .mfs _ _ r => [sregDst r]
  | .mts _ d _ | .splRm _ d => [dstS d]
  | .vadd _ _ a b _ | .vsub _ _ a b _ | .vmul _ _ a b _ | .vadds _ _ a b _ | .vsubs _ _ a b _ | .vmin _ _ a b _
  | .vmax _ _ a b _ | .vand _ _ a b | .vor _ _ a b | .vxor _ _ a b | .vandn _ _ a b | .vsll _ _ a b | .vsrl _ _ a b
  | .vsra _ _ a b | .vfadd _ _ a b _ | .vfsub _ _ a b _ | .vfmul _ _ a b _ | .vfmin _ _ a b _ | .vfmax _ _ a b _
  | .vcmpEq _ _ a b | .vcmpNe _ _ a b | .vcmpLt _ _ a b | .vcmpLe _ _ a b | .vcmpuLtu _ _ a b | .vcmpuLeu _ _ a b
  | .vcmpuTst _ _ a b | .vcmpuNtst _ _ a b | .vfcmpEq _ _ a b | .vfcmpNe _ _ a b | .vfcmpLt _ _ a b
  | .vfcmpLe _ _ a b | .vperm _ _ a b | .vzipl _ _ a b | .vziph _ _ a b | .vuzpl _ _ a b | .vuzph _ _ a b
    => [c.dstV a, c.dstV b]
  | .vnot _ _ a | .vredFsum _ _ a | .vredIsum _ _ a | .vredFmax _ _ a | .vredFmin _ _ a | .vredImax _ _ a
  | .vredImin _ _ a | .vredAmax _ _ a | .vtrLog2 _ _ a _ | .vtrExp2 _ _ a _ | .vtrRcp _ _ a _ | .vtrRsqrt _ _ a _
  | .vtrSig _ _ a _ | .vtrTanh _ _ a _ => [c.dstV a]
  | .vslls _ _ a s | .vsrls _ _ a s | .vsras _ _ a s | .vrotl _ _ a s | .vbcl _ _ a s => [c.dstV a, dstS s]
  | .vfma _ d a b _ | .vfms _ d a b _ => [c.dstV a, c.dstV b, c.dstV d]
  | .vcvtV0V31 _ _ a _ _ | .vcvtSatV0V31 _ _ a _ _ => [c.dstV (a.setWidth 6)]
  | .vcvtV32V63 _ _ a _ _ | .vcvtSatV32V63 _ _ a _ _ => [c.dstV (a.setWidth 6 + 32)]
  | .vsel _ _ a b p => [c.dstV a, c.dstV b, c.dstP (p.setWidth 7)]
  | .vaccLc _ _ _ _ _ => [.lc0]
  | .vget _ _ a b => [c.dstV a, dstS b]
  | .mcall _ _ _ => [.m 0, .m 1, .m 2, .m 3, .m 4, .m 5, .m 6, .m 7, .lc1]
  | .stB _ d a _ | .stH _ d a _ | .stW _ d a _ | .stD _ d a _ | .stvB _ d a _ | .stvH _ d a _ | .stvW _ d a _
  | .stvD _ d a _ | .splInst _ d a => [dstS a, dstS d]
  | .vstV _ d a _ | .vstH _ d a _ | .vstvV _ d a _ | .vstvH _ d a _ => [dstS a, c.dstV d]
  | .amoxCasW _ d a b | .amoxCasD _ d a b | .scCasD _ d a b | .splCall _ d a b | .splCalln _ d a b
    => [dstS a, dstS b, dstS d]
  | _ => []

/-- The guard of a slot operation (R56). -/
def guardOf : Instr → BitVec 4
  | .add g _ _ _ | .sub g _ _ _ | .and g _ _ _ | .or g _ _ _ | .xor g _ _ _ | .andn g _ _ _ | .min g _ _ _
  | .max g _ _ _ | .minu g _ _ _ | .maxu g _ _ _ | .mul g _ _ _ | .mulh g _ _ _ | .mulhu g _ _ _ | .sll g _ _ _
  | .srl g _ _ _ | .sra g _ _ _ | .addi g _ _ _ | .andi g _ _ _ | .ori g _ _ _ | .xori g _ _ _ | .slli g _ _ _
  | .srli g _ _ _ | .srai g _ _ _ | .muli g _ _ _ | .sel g _ _ _ _ | .cmpEq g _ _ _ | .cmpNe g _ _ _
  | .cmpLt g _ _ _ | .cmpLe g _ _ _ | .cmpLtu g _ _ _ | .cmpLeu g _ _ _ | .cmpTst g _ _ _ | .cmpNtst g _ _ _
  | .cmpiEq g _ _ _ | .cmpiNe g _ _ _ | .cmpiLt g _ _ _ | .cmpiLe g _ _ _ | .pand g _ _ _ | .por g _ _ _
  | .pxor g _ _ _ | .pandn g _ _ _ | .pset g _ _ | .pget g _ _ | .pcnt g _ _ | .pfirst g _ _ | .setb g _ _
  | .setbReg g _ _ | .call g _ _ _ | .ret g _ _ | .lp0 g _ | .lp1 g _ | .lpe g _ | .lset g _ _ | .lsetReg g _ _
  | .rotStep g | .rotSetv g _ | .rotSetvReg g _ | .rotSetp g _ | .rotSetpReg g _ | .mfs g _ _ | .mts g _ _
  | .adds g _ _ _ _ | .clz g _ _ | .ctz g _ _ | .popc g _ _ | .rev8 g _ _ | .sextB g _ _ | .sextH g _ _
  | .sextW g _ _ | .zextB g _ _ | .zextH g _ _ | .zextW g _ _ | .movi g _ _ | .div g _ _ _ | .divu g _ _ _
  | .rem g _ _ _ | .remu g _ _ _ | .vadd g _ _ _ _ | .vsub g _ _ _ _ | .vmul g _ _ _ _ | .vadds g _ _ _ _
  | .vsubs g _ _ _ _ | .vmin g _ _ _ _ | .vmax g _ _ _ _ | .vand g _ _ _ | .vor g _ _ _ | .vxor g _ _ _
  | .vandn g _ _ _ | .vnot g _ _ | .vsll g _ _ _ | .vsrl g _ _ _ | .vsra g _ _ _ | .vslls g _ _ _ | .vsrls g _ _ _
  | .vsras g _ _ _ | .vfadd g _ _ _ _ | .vfsub g _ _ _ _ | .vfmul g _ _ _ _ | .vfmin g _ _ _ _ | .vfma g _ _ _ _
  | .vfms g _ _ _ _ | .vfmax g _ _ _ _ | .vcvtV0V31 g _ _ _ _ | .vcvtV32V63 g _ _ _ _ | .vcvtSatV0V31 g _ _ _ _
  | .vcvtSatV32V63 g _ _ _ _ | .vcmpEq g _ _ _ | .vcmpNe g _ _ _ | .vcmpLt g _ _ _ | .vcmpLe g _ _ _
  | .vcmpuLtu g _ _ _ | .vcmpuLeu g _ _ _ | .vcmpuTst g _ _ _ | .vcmpuNtst g _ _ _ | .vfcmpEq g _ _ _
  | .vfcmpNe g _ _ _ | .vfcmpLt g _ _ _ | .vfcmpLe g _ _ _ | .vsel g _ _ _ _ | .vperm g _ _ _ | .vrotl g _ _ _
  | .vbcl g _ _ _ | .vzipl g _ _ _ | .vziph g _ _ _ | .vuzpl g _ _ _ | .vuzph g _ _ _ | .vredFsum g _ _
  | .vredIsum g _ _ | .vredFmax g _ _ | .vredFmin g _ _ | .vredImax g _ _ | .vredImin g _ _ | .vredAmax g _ _
  | .vtrLog2 g _ _ _ | .vtrExp2 g _ _ _ | .vtrRcp g _ _ _ | .vtrRsqrt g _ _ _ | .vtrSig g _ _ _ | .vtrTanh g _ _ _
  | .vhash g _ _ _ | .vacc g _ _ _ _ | .vaccLc g _ _ _ _ | .vbc g _ _ | .vget g _ _ _ | .vput g _ _ _
  | .viota g _ _ | .mcall g _ _ | .mwait g _ | .mpar g _ _ | .mpari g _ _ | .mft g _ _ _ | .mzero g _
  | .mmovSt g _ _ _ | .mmovStSat g _ _ _ | .mmovLd g _ _ _ | .mrsw g _ _ | .mrse g _ _ | .mstat g _ | .mstatCnt g _
  | .ldB g _ _ _ | .ldH g _ _ _ | .ldW g _ _ _ | .ldD g _ _ _ | .ldBs g _ _ _ | .ldHs g _ _ _ | .ldWs g _ _ _
  | .ldvB g _ _ _ | .ldvH g _ _ _ | .ldvW g _ _ _ | .ldvD g _ _ _ | .ldvBs g _ _ _ | .ldvHs g _ _ _
  | .ldvWs g _ _ _ | .stB g _ _ _ | .stH g _ _ _ | .stW g _ _ _ | .stD g _ _ _ | .stvB g _ _ _ | .stvH g _ _ _
  | .stvW g _ _ _ | .stvD g _ _ _ | .vldV g _ _ _ | .vldBc g _ _ _ | .vldH g _ _ _ | .vldvV g _ _ _
  | .vldvBc g _ _ _ | .vldvH g _ _ _ | .vstV g _ _ _ | .vstH g _ _ _ | .vstvV g _ _ _ | .vstvH g _ _ _
  | .bgtMap g _ _ | .bgtUnmap g _ | .bgtFlush g _ | .bgtTouch g _ _ _ | .bgtQuery g _ _ | .cpyG2s g _ _ _
  | .cpyS2g g _ _ _ | .cpyS2s g _ _ _ | .cpyG2g g _ _ _ | .cpyGath g _ _ _ | .cpyScat g _ _ _ | .cpyMcast g _ _ _
  | .cpyTr g _ _ _ | .cqPop g _ _ | .cqProg g _ _ _ | .cqCnt g _ _ | .hyStart g _ | .hyStop g | .hyCred g _
  | .hyBase g _ | .hyClr g | .hyPop g _ | .hyStat g _ | .hyProg g _ | .hyRdc g _ | .hyDrop g | .lsend g _ _ _
  | .lrecv g _ _ _ | .amoAddW g _ _ _ | .amoAndW g _ _ _ | .amoOrW g _ _ _ | .amoXorW g _ _ _ | .amoMinW g _ _ _
  | .amoMaxW g _ _ _ | .amoMinuW g _ _ _ | .amoMaxuW g _ _ _ | .amoAddD g _ _ _ | .amoAndD g _ _ _
  | .amoOrD g _ _ _ | .amoXorD g _ _ _ | .amoMinD g _ _ _ | .amoMaxD g _ _ _ | .amoMinuD g _ _ _
  | .amoMaxuD g _ _ _ | .amoxSwapW g _ _ _ | .amoxSwapD g _ _ _ | .amoxCasW g _ _ _ | .amoxCasD g _ _ _
  | .amoxFaddF32 g _ _ _ | .redAddW g _ _ | .redAddD g _ _ | .redMinW g _ _ | .redMaxW g _ _ | .redMinuW g _ _
  | .redMaxuW g _ _ | .redFaddF32 g _ _ | .redOrD g _ _ | .scLdW g _ _ | .scLdD g _ _ | .scStW g _ _ | .scStD g _ _
  | .scSwapW g _ _ _ | .scSwapD g _ _ _ | .scAddD g _ _ _ | .scCasD g _ _ _ | .drainBraid g | .drainDie g
  | .drainDev g | .drainSys g | .splCall g _ _ _ | .splCalln g _ _ _ | .splInst g _ _ | .splRm g _ | .knotAdd g _ _
  | .knotRd g _ _ | .knotMax g _ _ _ | .knotSwap g _ _ _ | .nrgQ g _ _ | .nrgVreg g _ _ | .nrgVsw g _ | .cend g
  | .trap g _ | .rtu g | .bkpt g | .pin g _ _ | .unpin g _ _ | .dbgMark g _ | .dbgBrk g | .barBraid g _ => g
  | _ => 0

/-- Lanes that share a 64-bit element with one of some lanes. -/
def pairLanes (l : BitVec 32) : BitVec 32 := maskOf (fun i => l.getLsbD (i / 2 * 2) || l.getLsbD (i / 2 * 2 + 1))

/-- Lanes of the source that hold the elements which a conversion writes into some lanes (R202, R213). -/
def cvtLanes (l : BitVec 32) (df sf : BitVec 5) : BitVec 32 :=
  let wd := (cvtFmt df.toNat).width
  let ws := (cvtFmt sf.toNat).width
  let size (w : Nat) : Nat := if w = 6 then 8 else w
  let n := 1024 / Nat.max (size ws) (size wd)
  maskOf (fun i => (List.range n).any (fun e =>
    (l.getLsbD (wd * e / 32) || l.getLsbD ((wd * e + wd - 1) / 32)) && decide (ws * e / 32 ≤ i) && decide (i ≤ (ws * e + ws - 1) / 32)))

/-- Lanes that the op reads of its k-th source where that is a v register (R59): those its written lanes come from, DEDUCED
log 84. -/
def Ctx.lanesRead (c : Ctx) (i : Instr) (k : Nat) : BitVec 32 :=
  let on (g : BitVec 4) (j : Nat) : Bool := (c.guard g).getLsbD j
  match i with
  | .vadd g _ _ _ t | .vsub g _ _ _ t | .vmul g _ _ _ t | .vadds g _ _ _ t | .vsubs g _ _ _ t | .vmin g _ _ _ t
  | .vmax g _ _ _ t => if t.toNat % 4 = 3 then pairLanes (c.guard g) else c.guard g
  | .vcvtV0V31 g _ _ df sf | .vcvtSatV0V31 g _ _ df sf | .vcvtV32V63 g _ _ df sf | .vcvtSatV32V63 g _ _ df sf =>
    cvtLanes (c.guard g) df sf
  | .vperm g _ _ b =>
    if k = 0 then maskOf (fun j => (List.range 32).any (fun l => on g l && decide ((laneOf (c.rv b) l).toNat % 32 = j)))
    else c.guard g
  | .vrotl g _ _ r => maskOf (fun j => on g ((j + (c.rs r).toNat) % 32))
  | .vbcl _ _ _ r => maskOf (fun j => decide ((c.rs r).toNat % 32 = j))
  | .vget _ _ _ r => maskOf (fun j => decide ((c.rs r).toNat % 32 = j))
  | .vzipl g _ _ _ => maskOf (fun j => decide (j < 16) && on g (2 * j + k))
  | .vziph g _ _ _ => maskOf (fun j => decide (16 ≤ j) && on g (2 * (j - 16) + k))
  | .vuzpl g _ _ _ => maskOf (fun j => decide (j % 2 = 0) && on g (j / 2 + 16 * k))
  | .vuzph g _ _ _ => maskOf (fun j => decide (j % 2 = 1) && on g (j / 2 + 16 * k))
  | .vstH g _ _ _ | .vstvH g _ _ _ => c.guard g &&& 0xFFFF
  | i => c.guard (guardOf i)

/-- The operation reads RMODE, CMODE or FTZ of ASTAT at its issue (R197). -/
def readsModes : Instr → Bool
  | .vfadd .. | .vfsub .. | .vfmul .. | .vfmin .. | .vfmax .. | .vfma .. | .vfms .. | .vfcmpEq .. | .vfcmpNe .. | .vfcmpLt .. | .vfcmpLe ..
  | .vcvtV0V31 .. | .vcvtSatV0V31 .. | .vcvtV32V63 .. | .vcvtSatV32V63 .. | .vredFsum .. | .vredFmax .. | .vredFmin .. | .vredAmax ..
  | .vtrLog2 .. | .vtrExp2 .. | .vtrRcp .. | .vtrRsqrt .. | .vtrSig .. | .vtrTanh .. | .mmovSt .. | .mmovStSat .. | .mmovLd .. => true
  | _ => false

/-- The operation acts lane by lane, each lane under its guard (R56, R202, R251). -/
def laneWise : Instr → Bool
  | .vadd _ _ _ _ _ | .vsub _ _ _ _ _ | .vmul _ _ _ _ _ | .vadds _ _ _ _ _ | .vsubs _ _ _ _ _ | .vmin _ _ _ _ _
  | .vmax _ _ _ _ _ | .vand _ _ _ _ | .vor _ _ _ _ | .vxor _ _ _ _ | .vandn _ _ _ _ | .vnot _ _ _ | .vsll _ _ _ _
  | .vsrl _ _ _ _ | .vsra _ _ _ _ | .vslls _ _ _ _ | .vsrls _ _ _ _ | .vsras _ _ _ _ | .vfadd _ _ _ _ _
  | .vfsub _ _ _ _ _ | .vfmul _ _ _ _ _ | .vfmin _ _ _ _ _ | .vfma _ _ _ _ _ | .vfms _ _ _ _ _ | .vfmax _ _ _ _ _
  | .vcvtV0V31 _ _ _ _ _ | .vcvtV32V63 _ _ _ _ _ | .vcvtSatV0V31 _ _ _ _ _ | .vcvtSatV32V63 _ _ _ _ _
  | .vcmpEq _ _ _ _ | .vcmpNe _ _ _ _ | .vcmpLt _ _ _ _ | .vcmpLe _ _ _ _ | .vcmpuLtu _ _ _ _ | .vcmpuLeu _ _ _ _
  | .vcmpuTst _ _ _ _ | .vcmpuNtst _ _ _ _ | .vfcmpEq _ _ _ _ | .vfcmpNe _ _ _ _ | .vfcmpLt _ _ _ _
  | .vfcmpLe _ _ _ _ | .vsel _ _ _ _ _ | .vperm _ _ _ _ | .vrotl _ _ _ _ | .vbcl _ _ _ _ | .vzipl _ _ _ _
  | .vziph _ _ _ _ | .vuzpl _ _ _ _ | .vuzph _ _ _ _ | .vredFsum _ _ _ | .vredIsum _ _ _ | .vredFmax _ _ _
  | .vredFmin _ _ _ | .vredImax _ _ _ | .vredImin _ _ _ | .vredAmax _ _ _ | .vtrLog2 _ _ _ _ | .vtrExp2 _ _ _ _
  | .vtrRcp _ _ _ _ | .vtrRsqrt _ _ _ _ | .vtrSig _ _ _ _ | .vtrTanh _ _ _ _ | .vhash _ _ _ _ | .vacc _ _ _ _ _
  | .vaccLc _ _ _ _ _ | .vbc _ _ _ | .vput _ _ _ _ | .viota _ _ _ | .vldV _ _ _ _ | .vldBc _ _ _ _ | .vldH _ _ _ _
  | .vldvV _ _ _ _ | .vldvBc _ _ _ _ | .vldvH _ _ _ _ | .vstV _ _ _ _ | .vstH _ _ _ _ | .vstvV _ _ _ _
  | .vstvH _ _ _ _ => true
  | _ => false

/-- An operation whose meaning can stall, run on a state; the others are answered by the state as it is. -/
def stallRun (i : Instr) (st : State) : Out :=
  match i with
  | .vacc g d c r k => Sys2Proof.Machine.execVacc g d c r k st
  | .vaccLc g d c r k => Sys2Proof.Machine.execVaccLc g d c r k st
  | .mcall g e c => Sys2Proof.Machine.execMcall g e c st
  | .mwait g d => Sys2Proof.Machine.execMwait g d st
  | .mpar g m a => Sys2Proof.Machine.execMpar g m a st
  | .mpari g m i => Sys2Proof.Machine.execMpari g m i st
  | .mft g f a b => Sys2Proof.Machine.execMft g f a b st
  | .mzero g k => Sys2Proof.Machine.execMzero g k st
  | .mmovSt g c a o => Sys2Proof.Machine.execMmovSt g c a o st
  | .mmovStSat g c a o => Sys2Proof.Machine.execMmovStSat g c a o st
  | .mmovLd g c a o => Sys2Proof.Machine.execMmovLd g c a o st
  | .mrsw g i a => Sys2Proof.Machine.execMrsw g i a st
  | .mrse g e i => Sys2Proof.Machine.execMrse g e i st
  | .mstat g d => Sys2Proof.Machine.execMstat g d st
  | .mstatCnt g d => Sys2Proof.Machine.execMstatCnt g d st
  | .ldB g d a k => Sys2Proof.Machine.execLdB g d a k st
  | .ldH g d a k => Sys2Proof.Machine.execLdH g d a k st
  | .ldW g d a k => Sys2Proof.Machine.execLdW g d a k st
  | .ldD g d a k => Sys2Proof.Machine.execLdD g d a k st
  | .ldBs g d a k => Sys2Proof.Machine.execLdBs g d a k st
  | .ldHs g d a k => Sys2Proof.Machine.execLdHs g d a k st
  | .ldWs g d a k => Sys2Proof.Machine.execLdWs g d a k st
  | .ldvB g d a k => Sys2Proof.Machine.execLdvB g d a k st
  | .ldvH g d a k => Sys2Proof.Machine.execLdvH g d a k st
  | .ldvW g d a k => Sys2Proof.Machine.execLdvW g d a k st
  | .ldvD g d a k => Sys2Proof.Machine.execLdvD g d a k st
  | .ldvBs g d a k => Sys2Proof.Machine.execLdvBs g d a k st
  | .ldvHs g d a k => Sys2Proof.Machine.execLdvHs g d a k st
  | .ldvWs g d a k => Sys2Proof.Machine.execLdvWs g d a k st
  | .stB g d a k => Sys2Proof.Machine.execStB g d a k st
  | .stH g d a k => Sys2Proof.Machine.execStH g d a k st
  | .stW g d a k => Sys2Proof.Machine.execStW g d a k st
  | .stD g d a k => Sys2Proof.Machine.execStD g d a k st
  | .stvB g d a k => Sys2Proof.Machine.execStvB g d a k st
  | .stvH g d a k => Sys2Proof.Machine.execStvH g d a k st
  | .stvW g d a k => Sys2Proof.Machine.execStvW g d a k st
  | .stvD g d a k => Sys2Proof.Machine.execStvD g d a k st
  | .vldV g d a k => Sys2Proof.Machine.execVldV g d a k st
  | .vldBc g d a k => Sys2Proof.Machine.execVldBc g d a k st
  | .vldH g d a k => Sys2Proof.Machine.execVldH g d a k st
  | .vldvV g d a k => Sys2Proof.Machine.execVldvV g d a k st
  | .vldvBc g d a k => Sys2Proof.Machine.execVldvBc g d a k st
  | .vldvH g d a k => Sys2Proof.Machine.execVldvH g d a k st
  | .vstV g d a k => Sys2Proof.Machine.execVstV g d a k st
  | .vstH g d a k => Sys2Proof.Machine.execVstH g d a k st
  | .vstvV g d a k => Sys2Proof.Machine.execVstvV g d a k st
  | .vstvH g d a k => Sys2Proof.Machine.execVstvH g d a k st
  | .bgtMap g n a => Sys2Proof.Machine.execBgtMap g n a st
  | .bgtUnmap g n => Sys2Proof.Machine.execBgtUnmap g n st
  | .bgtFlush g n => Sys2Proof.Machine.execBgtFlush g n st
  | .bgtTouch g n a b => Sys2Proof.Machine.execBgtTouch g n a b st
  | .bgtQuery g n a => Sys2Proof.Machine.execBgtQuery g n a st
  | .cpyG2s g d a e => Sys2Proof.Machine.execCpyG2s g d a e st
  | .cpyS2g g d a e => Sys2Proof.Machine.execCpyS2g g d a e st
  | .cpyS2s g d a e => Sys2Proof.Machine.execCpyS2s g d a e st
  | .cpyG2g g d a e => Sys2Proof.Machine.execCpyG2g g d a e st
  | .cpyGath g d a e => Sys2Proof.Machine.execCpyGath g d a e st
  | .cpyScat g d a e => Sys2Proof.Machine.execCpyScat g d a e st
  | .cpyMcast g d a e => Sys2Proof.Machine.execCpyMcast g d a e st
  | .cpyTr g d a e => Sys2Proof.Machine.execCpyTr g d a e st
  | .cqPop g d e => Sys2Proof.Machine.execCqPop g d e st
  | .cqProg g d a e => Sys2Proof.Machine.execCqProg g d a e st
  | .cqCnt g d e => Sys2Proof.Machine.execCqCnt g d e st
  | .hyStart g a => Sys2Proof.Machine.execHyStart g a st
  | .hyStop g => Sys2Proof.Machine.execHyStop g st
  | .hyCred g a => Sys2Proof.Machine.execHyCred g a st
  | .hyBase g a => Sys2Proof.Machine.execHyBase g a st
  | .hyClr g => Sys2Proof.Machine.execHyClr g st
  | .hyPop g a => Sys2Proof.Machine.execHyPop g a st
  | .hyStat g a => Sys2Proof.Machine.execHyStat g a st
  | .hyProg g a => Sys2Proof.Machine.execHyProg g a st
  | .hyRdc g a => Sys2Proof.Machine.execHyRdc g a st
  | .hyDrop g => Sys2Proof.Machine.execHyDrop g st
  | .lsend g l v a => Sys2Proof.Machine.execLsend g l v a st
  | .lrecv g l v a => Sys2Proof.Machine.execLrecv g l v a st
  | .amoAddW g d a b => Sys2Proof.Machine.execAmoAddW g d a b st
  | .amoAndW g d a b => Sys2Proof.Machine.execAmoAndW g d a b st
  | .amoOrW g d a b => Sys2Proof.Machine.execAmoOrW g d a b st
  | .amoXorW g d a b => Sys2Proof.Machine.execAmoXorW g d a b st
  | .amoMinW g d a b => Sys2Proof.Machine.execAmoMinW g d a b st
  | .amoMaxW g d a b => Sys2Proof.Machine.execAmoMaxW g d a b st
  | .amoMinuW g d a b => Sys2Proof.Machine.execAmoMinuW g d a b st
  | .amoMaxuW g d a b => Sys2Proof.Machine.execAmoMaxuW g d a b st
  | .amoAddD g d a b => Sys2Proof.Machine.execAmoAddD g d a b st
  | .amoAndD g d a b => Sys2Proof.Machine.execAmoAndD g d a b st
  | .amoOrD g d a b => Sys2Proof.Machine.execAmoOrD g d a b st
  | .amoXorD g d a b => Sys2Proof.Machine.execAmoXorD g d a b st
  | .amoMinD g d a b => Sys2Proof.Machine.execAmoMinD g d a b st
  | .amoMaxD g d a b => Sys2Proof.Machine.execAmoMaxD g d a b st
  | .amoMinuD g d a b => Sys2Proof.Machine.execAmoMinuD g d a b st
  | .amoMaxuD g d a b => Sys2Proof.Machine.execAmoMaxuD g d a b st
  | .amoxSwapW g d a b => Sys2Proof.Machine.execAmoxSwapW g d a b st
  | .amoxSwapD g d a b => Sys2Proof.Machine.execAmoxSwapD g d a b st
  | .amoxCasW g d a b => Sys2Proof.Machine.execAmoxCasW g d a b st
  | .amoxCasD g d a b => Sys2Proof.Machine.execAmoxCasD g d a b st
  | .amoxFaddF32 g d a b => Sys2Proof.Machine.execAmoxFaddF32 g d a b st
  | .redAddW g a b => Sys2Proof.Machine.execRedAddW g a b st
  | .redAddD g a b => Sys2Proof.Machine.execRedAddD g a b st
  | .redMinW g a b => Sys2Proof.Machine.execRedMinW g a b st
  | .redMaxW g a b => Sys2Proof.Machine.execRedMaxW g a b st
  | .redMinuW g a b => Sys2Proof.Machine.execRedMinuW g a b st
  | .redMaxuW g a b => Sys2Proof.Machine.execRedMaxuW g a b st
  | .redFaddF32 g a b => Sys2Proof.Machine.execRedFaddF32 g a b st
  | .redOrD g a b => Sys2Proof.Machine.execRedOrD g a b st
  | .scLdW g d a => Sys2Proof.Machine.execScLdW g d a st
  | .scLdD g d a => Sys2Proof.Machine.execScLdD g d a st
  | .scStW g a b => Sys2Proof.Machine.execScStW g a b st
  | .scStD g a b => Sys2Proof.Machine.execScStD g a b st
  | .scSwapW g d a b => Sys2Proof.Machine.execScSwapW g d a b st
  | .scSwapD g d a b => Sys2Proof.Machine.execScSwapD g d a b st
  | .scAddD g d a b => Sys2Proof.Machine.execScAddD g d a b st
  | .scCasD g d a b => Sys2Proof.Machine.execScCasD g d a b st
  | .drainBraid g => Sys2Proof.Machine.execDrainBraid g st
  | .drainDie g => Sys2Proof.Machine.execDrainDie g st
  | .drainDev g => Sys2Proof.Machine.execDrainDev g st
  | .drainSys g => Sys2Proof.Machine.execDrainSys g st
  | .splCall g d a b => Sys2Proof.Machine.execSplCall g d a b st
  | .splCalln g d a b => Sys2Proof.Machine.execSplCalln g d a b st
  | .splInst g d a => Sys2Proof.Machine.execSplInst g d a st
  | .splRm g d => Sys2Proof.Machine.execSplRm g d st
  | .knotAdd g a b => Sys2Proof.Machine.execKnotAdd g a b st
  | .knotRd g d a => Sys2Proof.Machine.execKnotRd g d a st
  | .knotMax g d a b => Sys2Proof.Machine.execKnotMax g d a b st
  | .knotSwap g d a b => Sys2Proof.Machine.execKnotSwap g d a b st
  | .nrgQ g d s => Sys2Proof.Machine.execNrgQ g d s st
  | .nrgVreg g a b => Sys2Proof.Machine.execNrgVreg g a b st
  | .nrgVsw g a => Sys2Proof.Machine.execNrgVsw g a st
  | .cend g => Sys2Proof.Machine.execCend g st
  | .trap g c => Sys2Proof.Machine.execTrap g c st
  | .rtu g => Sys2Proof.Machine.execRtu g st
  | .bkpt g => Sys2Proof.Machine.execBkpt g st
  | .pin g d a => Sys2Proof.Machine.execPin g d a st
  | .unpin g d a => Sys2Proof.Machine.execUnpin g d a st
  | .dbgMark g a => Sys2Proof.Machine.execDbgMark g a st
  | .dbgBrk g => Sys2Proof.Machine.execDbgBrk g st
  | .barBraid g a => Sys2Proof.Machine.execBarBraid g a st
  | _ => .next st

/-- The operation would stall the bundle of the issuing context (R48). -/
def wouldStall (i : Instr) (s : State) : Bool :=
  match stallRun i s with
  | .next t => decide ((t.ctx s.issue.x).st = .stalled)
  | _ => false

end Sys2Proof.Machine
end

