-- ==== Sys2Proof/Machine/Dests.lean ====
section
/-! DEFINITION. Destinations of a slot word read from its bits, for the verifier's test of DEST (R50, R336). -/

namespace Sys2Proof.Machine

/-- The bits of a mask have these values. -/
def hasBits (w : BitVec 32) (mask val : Nat) : Bool := w.toNat % 2 ^ 25 &&& mask = val

/-- Parameter register m. -/
def mDest (m : BitVec 3) : Dest := .m ⟨m.toNat, m.isLt⟩

/-- Destinations that a legal slot word names, by logical number; none for one that is discarded (R50). -/
def wordDests (w : BitVec 32) : List Dest :=
  match (fld w 25 7).toNat with
  | 0x1 | 0x2 | 0x3 | 0x4 | 0x5 | 0x6 | 0x7 | 0x8 | 0x9 | 0x16 | 0x18 | 0x19 | 0x1a | 0x1b | 0x1c | 0x41 | 0x49 |
    0x50 | 0x51 | 0x59 | 0x5a | 0x5e | 0x5f | 0x60 | 0x68 => [dstS (fld w 15 6)]
  | 0xa | 0xb | 0xc | 0xd | 0xe | 0xf | 0x10 | 0x34 | 0x35 | 0x36 => [Ctx.none.dstP (fld w 14 7)]
  | 0x12 => [dstB (fld w 18 3)]
  | 0x14 => [counterOf (fld w 19 2)]
  | 0x17 => [sregDst (fld w 7 8)]
  | 0x20 | 0x21 | 0x22 | 0x23 | 0x24 | 0x25 | 0x26 | 0x27 | 0x28 | 0x29 | 0x2a | 0x2b | 0x2c | 0x2d | 0x2e | 0x2f |
    0x30 | 0x31 | 0x32 | 0x33 | 0x37 | 0x38 | 0x39 | 0x3a | 0x3b | 0x3c | 0x54 | 0x55 => [Ctx.none.dstV (fld w 15
    6)]
  | 0x42 | 0x43 => [mDest (fld w 18 3)]
  | 0x11 =>
      if hasBits w 0xff 0x0 then [Ctx.none.dstP (fld w 14 7)] else [dstS (fld w 8 6)]
  | 0x13 =>
      if hasBits w 0x3e000 0x0 then [dstS 4, dstS (fld w 0 6)] else if hasBits w 0x1fe000 0x2000 then [dstS 4]
      else if hasBits w 0x3ffff 0x4000 then [.lc0] else if hasBits w 0x3ffff 0x6000 then [.lc1] else [.lc0, .ec,
      .vrb, .prb, Ctx.none.dstP 64]
  | 0x15 =>
      if hasBits w 0x1fffff 0x0 then [.vrb, .prb] else if hasBits w 0x1c0000 0x80000 || hasBits w 0x1fffc0 0xc0000
      then [.vrb] else [.prb]
  | 0x3d =>
      if hasBits w 0x7 0x1 then [dstS (fld w 15 6)] else [Ctx.none.dstV (fld w 15 6)]
  | 0x58 =>
      if hasBits w 0x1ff 0x4 then [dstS (fld w 9 6)] else []
  | 0x5b =>
      if hasBits w 0x1f81ff 0xa0000 || hasBits w 0x1f81ff 0xc0000 || hasBits w 0x1f81ff 0xe0000 || hasBits w
      0x1f81ff 0x100000 then [dstS (fld w 9 6)] else []
  | 0x62 =>
      if hasBits w 0x1ff 0x0 || hasBits w 0x1ff 0x1 || hasBits w 0x7 0x4 || hasBits w 0x7 0x5 || hasBits w 0x7 0x6
      || hasBits w 0x7 0x7 then [dstS (fld w 15 6)] else []
  | 0x64 =>
      if hasBits w 0x7 0x0 || hasBits w 0x1ff 0x2 || hasBits w 0x7fff 0x3 then [dstS (fld w 15 6)] else []
  | 0x65 =>
      if hasBits w 0x1ff 0x1 || hasBits w 0x7 0x2 || hasBits w 0x7 0x3 then [dstS (fld w 15 6)] else []
  | 0x66 =>
      if hasBits w 0x7f 0x0 then [dstS (fld w 15 6)] else []
  | _ => []

end Sys2Proof.Machine
end

