-- ==== Sys2Proof/Machine/Pipeline.lean ====
section
/-! DEFINITION. The partition's cycle but for the issue of a bundle: landing and the freeze (R57 to R62, R317), the context
states and the selector (R47), the tests that come before a bundle (R369), and the events of a context. -/

namespace Sys2Proof.Machine

/-! ## Partitions -/

/-- The four contexts of a partition. -/
def partCtxs (q : Nat) : List CtxNo := (List.range 4).map (fun k => ctxOf (4 * q + k))

/-- Partition cycle of a context. -/
def State.cycleOf (s : State) (x : CtxNo) : Nat := (s.part (ctxPartNo x)).pcyc

/-- Update a partition. -/
def State.modPart (s : State) (q : Nat) (f : Part → Part) : State := s.setPart q (f (s.part q))

/-! ## Landing (R57, R58, R61) -/

/-- W of a splice lands in the own window as a store of 64 bytes: it performs now, or behind the context's queued stores to
those bytes (R290). -/
def State.storeW (s : State) (x : CtxNo) (off : Nat) (v : Option VReg) (orig : Word) : State :=
  match v with
  | none => s
  | some w =>
    let es : List (Loc × Word) :=
      (List.range 8).map (fun i => (⟨ctxCore x, false, off + 8 * i⟩, BitVec.ofNat 64 (bitsOf w.toNat (64 * i) 64)))
    let after := ((s.ctx x).stq.filter (fun p => p.locs.any (fun a => es.any (fun e => shareWord a (e.1, 8))))).map (·.id)
    if after.isEmpty then es.foldl (fun s e => s.wrLoc e.1 8 e.2.toNat) s else s.queueStore x 8 es after 0 orig

/-- The stores of splices whose W lands at cycle t. -/
def State.landOuts (s : State) (x : CtxNo) (t : Nat) : State :=
  ((s.ctx x).flight.filter (fun f => f.lands t)).foldl (fun s f =>
    match f.src with
    | .wout _ off => s.storeW x off f.value f.orig
    | _ => s) s

/-- The results of a context that are due land (R57). -/
def State.landCtx (s : State) (x : CtxNo) (t : Nat) : State := (s.landOuts x t).modCtx x (fun c => c.landDue t)

/-- A core cycle passes for data on its way back and for stores in the queues of their banks (R100, R102). -/
def Ctx.coreCycle (c : Ctx) : Ctx :=
  { c.mapFlights Flight.nearer with stq := c.stq.map (fun p => { p with hold := p.hold - 1 }) }

/-- Data arrives: memory accesses perform, accumulators are read at or after their arrival cycle (R222), and arrivals at
barriers count (R283). -/
def State.arrive (s : State) (q : Nat) : State :=
  (partCtxs q).foldl (fun s x =>
    let s := (s.modCtx x Ctx.coreCycle).pollCtx x
    let t := s.cycleOf x
    let s := s.modCtx x (fun c => c.mapFlights (s.vaccArrive x t))
    if (s.ctx x).bar.isSome then s.barArrive x else s) s

/-- Some result of the partition is due and its data absent: the partition is frozen (R61). -/
def State.frozenAt (s : State) (q : Nat) : Bool :=
  (partCtxs q).any (fun x => (s.ctx x).flight.any (fun f => f.late (s.part q).pcyc))

/-- Every result of a partition that is due lands, but those of a context left out. -/
def State.landAll (s : State) (q : Nat) (skip : Option CtxNo) : State :=
  (partCtxs q).foldl (fun s x => if some x = skip then s else s.landCtx x (s.part q).pcyc) s

/-- RESULT_LANDING (R57, R61): nothing lands while the partition must freeze. -/
def execResultLanding (q : PartNo) (s : State) : Out := .next (if s.frozenAt q.val then s else s.landAll q.val none)

/-! ## The bundle at PC (R63 to R66, R174) -/

/-- A trap tied to the whole bundle. -/
def bundleTrap (cls cause : BitVec 8) : TrapInfo := ⟨cls, cause, 7, 0⟩

/-- The trap that the index at PC, its instruction-store word or its encoding raises (R66, R174, R367). -/
def State.fetchCause (s : State) (x : CtxNo) : Option TrapInfo :=
  match s.teamOf x with
  | none => some (bundleTrap tILLEGAL Cause.pc.code)
  | some t =>
    let pc := (s.ctx x).pc.toNat
    if t.nbun ≤ pc then some (bundleTrap tILLEGAL Cause.pc.code)
    else if t.ipar.contains pc then some (bundleTrap tMACHINE 0x01)
    else (bundleCause t.mtx t.hal (SMap.get 0 t.bundles pc)).map (fun c => ⟨tILLEGAL, c.1.code, c.2, 0⟩)

/-- What the operation of a slot finds in State.issue. -/
def issueOf (x : CtxNo) (t slot : Nat) (b : Bundle) (leaf : Option Word) : Issue :=
  { x := x, cycle := t, slotno := slot, limm := b.limm, xord := b.xord, xscope := b.xscope, tree := b.t, leaf := leaf
    jumped := false, trap := none }

/-- A test of the tree (R64). -/
def testHolds (c : Ctx) (t : TreeTest) : Bool :=
  match t.mode with
  | .l0 => (c.rp t.p).getLsbD 0
  | .any => c.rp t.p ≠ 0
  | .all => c.rp t.p = allLanes
  | .none => c.rp t.p = 0

/-- The leaf selected in a tree whose tests, in pre-order, have these results: a true test goes left (R64). -/
def treePick : Tree → List Bool → Nat
  | .leaf, _ => 0
  | .node l r, ts =>
    if ts.headD false then treePick l (ts.drop 1) else l.leaves + treePick r (ts.drop (1 + l.tests))

/-- The target that a control operation gives its bundle's leaf (R188 to R194). -/
def State.ctlLeaf (s : State) (i : Instr) : Option Word :=
  let leaf (o : Out) : Option Word := match o with
    | .next t => t.issue.leaf
    | _ => none
  match i with
  | .call g b _ _ => if s.me.guard0 g then some (s.target b) else none
  | .ret g f l => leaf (execRet g f l s)
  | .lp0 g b => leaf (execLp0 g b s)
  | .lp1 g b => leaf (execLp1 g b s)
  | .lpe g b => leaf (execLpe g b s)
  | _ => none

/-- The selected leaf: its number and, when it is taken, its target (R64, R188). -/
def State.leafOf (s : State) (x : CtxNo) (b : Bundle) : Nat × Option Word :=
  let c := s.ctx x
  if b.t then
    let k := treePick b.tree (b.tests.map (testHolds c))
    (k, (b.leaves.getD k none).map (fun r => (c.rb r).setWidth 64))
  else (0, State.ctlLeaf { s with issue := issueOf x (s.cycleOf x) 0 b none } b.opS)

/-- An op with this path tag executes (R65). -/
def tagRuns (tag : BitVec 3) (leaf : Nat) (taken : Bool) : Bool :=
  if tag = 0 then true else if tag = 6 then taken else if tag = 7 then !taken else tag.toNat = leaf + 1

/-- The ops of a bundle that execute, with their slot numbers, nops left out (R65). -/
def bundleRuns (b : Bundle) (leaf : Nat) (taken : Bool) : List (Nat × Instr) :=
  ([(0, b.tagS, b.opS), (1, b.tagV0, b.opV0), (2, b.tagV1, b.opV1), (3, b.tagM, b.opM), (4, b.tagX, b.opX)].filter
    (fun p => tagRuns p.2.1 leaf taken && p.2.2 ≠ .nop)).map (fun p => (p.1, p.2.2))

/-! ## Registers of a bundle: DEST, EARLY, the interlock, parity (R50, R59, R317, R367) -/

/-- Two ops name one destination (R50). -/
def destClash (c : Ctx) : List (Nat × Instr) → Bool
  | [] => false
  | (_, i) :: r =>
    (c.dests i).any (fun d => d ≠ .none && r.any (fun k => (c.dests k.2).contains d)) || destClash c r

/-- The predicate of a guard as a register that is read. -/
def Ctx.guardDest (c : Ctx) (i : Instr) : List Dest := if guardOf i = 0 then [] else [c.dstP (guardReg (guardOf i))]

/-- The op acts at all under its guard (R56). -/
def Ctx.active (c : Ctx) (i : Instr) : Bool := if laneWise i then c.guard (guardOf i) ≠ 0 else c.guard0 (guardOf i)

/-- A register that a bundle reads: the part that reads it, and the lanes of a v register. -/
structure RegRead where
  part : Nat
  reg : Dest
  lanes : BitVec 32
  deriving DecidableEq, Repr

/-- What a bundle reads; an op that its guard turns off reads its guard alone (R56, R59). -/
def Ctx.reads (c : Ctx) (b : Bundle) (ops : List (Nat × Instr)) : List RegRead :=
  let tree : List RegRead := b.tests.map (fun (t : TreeTest) => ⟨6, c.dstP t.p, allLanes⟩) ++
    b.leaves.filterMap (fun (l : Option (BitVec 3)) => l.map (fun r => ⟨6, dstB r, allLanes⟩))
  let own (k : Nat × Instr) : List RegRead :=
    (c.guardDest k.2).map (fun d => ⟨k.1, d, allLanes⟩) ++
      (if c.active k.2 then (c.sources k.2).zipIdx.map (fun d => ⟨k.1, d.1, c.lanesRead k.2 d.2⟩) ++
        (if readsModes k.2 then [⟨k.1, .astat, allLanes⟩] else []) else [])
  (ops.flatMap own ++ tree).filter (fun p => p.reg ≠ .none)

/-- Register code (R379). -/
def Dest.code : Dest → Nat
  | .none => 0
  | .s n => n.val
  | .v n => 2 ^ 8 + n.val
  | .p n => 2 * 2 ^ 8 + n.val
  | .b n => 3 * 2 ^ 8 + n.val
  | .astat => 4 * 2 ^ 8
  | .vrb => 4 * 2 ^ 8 + 4
  | .prb => 4 * 2 ^ 8 + 5
  | .lc0 => 4 * 2 ^ 8 + 6
  | .lc1 => 4 * 2 ^ 8 + 7
  | .ec => 4 * 2 ^ 8 + 8
  | .utv => 4 * 2 ^ 8 + 9
  | .m n => 5 * 2 ^ 8 + n.val

/-- The destination is a v register, whose lanes have pending bits of their own (R59). -/
def Dest.isV : Dest → Bool
  | .v _ => true
  | _ => false

/-- A pending bit of what is read is set at cycle t (R59): a result for it, in a v register for one of the lanes that are read,
has issued and not landed. -/
def Ctx.pendingAt (c : Ctx) (t : Nat) (r : RegRead) : Bool :=
  (c.flight.filter (fun f => decide (t < f.due)) ++ c.heldU).any (fun f =>
    f.dst = r.reg && (if r.reg.isV then f.lanes &&& r.lanes else f.lanes) ≠ 0)

/-- A load of an interlocked image that is due and absent has, or had, this destination (R317). -/
def Ctx.interlocked (c : Ctx) (t : Nat) (d : Dest) : Bool :=
  c.flight.any (fun f => f.lock && decide (f.due ≤ t) && !f.here && (f.dst = d || f.was = d))

/-! ## The stall tests (R47, R48, R60) -/

/-- Landing-buffer entries that an op takes. -/
def State.bufNeed (s : State) (x : CtxNo) (i : Instr) : Nat :=
  match stallRun i s with
  | .next t => t.bufUsed x - s.bufUsed x
  | _ => 0

/-- The bundle cannot issue: a barrier, a full or empty queue, missing credit, or too few landing-buffer entries. -/
def State.bundleStalls (s : State) (x : CtxNo) (b : Bundle) (ops : List (Nat × Instr)) : Bool :=
  let at_ (k : Nat) : State := { s with issue := issueOf x (s.cycleOf x) k b none }
  (s.ctx x).bar.isSome || ops.any (fun k => wouldStall k.2 (at_ k.1)) ||
    decide (64 < ops.foldl (fun n k => n + (at_ k.1).bufNeed x k.2) (s.bufUsed x))

/-- The context as its next bundle would find it at this cycle: results due have landed, and results held since a trap land
as if the bundle issued now (R372, R373). -/
def State.tentative (s : State) (x : CtxNo) : State :=
  let t := s.cycleOf x
  (s.modCtx x (fun c => if c.release then
      { c with
        st := .running, held := [], release := false
        flight := releaseAt t c.held ++ c.flight }
    else { c with st := .running })).landCtx x t

/-- The bundle that stalled a context would still stall; nothing lands while its partition is frozen (R61, R62). -/
def State.blocked (s : State) (x : CtxNo) : Bool :=
  match (s.ctx x).waiting with
  | none => (s.ctx x).bar.isSome
  | some b =>
    let s := if (s.part (ctxPartNo x)).frozen then s.modCtx x (fun c => { c with st := .running }) else s.tentative x
    let l := s.leafOf x b
    s.bundleStalls x b (bundleRuns b l.1 l.2.isSome)

/-- DCOUNT has reached LIMIT (R38). -/
def Ctx.atLimit (c : Ctx) : Bool := c.limit ≠ 0 && c.dcount = c.limit

/-- STALL_CLEAR (R38, R47): a STALLED context whose condition has cleared, or whose DCOUNT reached LIMIT, is READY. -/
def State.stallClear (s : State) (x : CtxNo) : State :=
  let c := s.ctx x
  if c.st = .stalled && !c.ending && (c.atLimit || !s.blocked x) then s.modCtx x (fun c => { c with st := .ready }) else s

/-- STALL_CLEAR (R47). -/
def execStallClear (x : CtxNo) (s : State) : Out := .next (s.stallClear x)

/-! ## The selector (R47) -/

/-- The first READY context in ascending slot order after slot k of a partition. -/
def State.nextReady (s : State) (q k : Nat) : Option CtxNo :=
  ((List.range 4).map (fun i => ctxOf (4 * q + (k + 1 + i) % 4))).find? (fun x => (s.ctx x).st = .ready)

/-- When no context runs, the first READY one does. -/
def State.select (s : State) (q : Nat) : State :=
  if (partCtxs q).any (fun x => (s.ctx x).st = .running) then s
  else
    match s.nextReady q (s.part q).last.toNat with
    | some x => s.modCtx x (fun c => { c with st := .running })
    | none => s

/-- The running context has left its state: the next one in slot order runs; with none READY, the lowest slot among the first
to become READY will. -/
def State.leave (s : State) (x : CtxNo) : State :=
  let q := ctxPartNo x
  let s := s.modPart q (fun p => { p with last := BitVec.ofNat 2 (ctxSlot x), ran := BitVec.ofNat 2 (ctxSlot x) })
  match s.nextReady q (ctxSlot x) with
  | some y => s.modCtx y (fun c => { c with st := .running })
  | none => s.modPart q (fun p => { p with last := 3 })

/-- A context that ran and runs no more has left the issue slot. -/
def State.leaveIf (s : State) (was : CtxState) (x : CtxNo) : State := if was = .running then s.leave x else s

/-! ## Traps before a bundle (R292, R369, R372) -/

/-- A context takes a trap; a recorded task logs its trap point (R368, R423). -/
def State.trapped (s : State) (x : CtxNo) (i : TrapInfo) (orig : Option Word) : State :=
  (s.takeTrap x i orig).wonusLog (s.ctx x).task 5 (ctxSrc x) (s.part (ctxPartNo x)).pcyc
    (BitVec.ofNat 64 (i.cls.toNat + i.cause.toNat * 2 ^ 8))

/-- A recorded task logs its throttle point; DATA has no stated contents (R423, log 30). -/
def State.throttlePoint (s : State) (x : CtxNo) : State :=
  State.wonusLog { s with freeCtr := s.freeCtr + 1 } (s.ctx x).task 6 (ctxSrc x) (s.part (ctxPartNo x)).pcyc
    (Config.stateWord 6 s.freeCtr)

/-- DEFERRED_TRAP (R275, R369): the oldest report is taken, naming the faulting bundle. -/
def State.deferredTrap (s : State) (x : CtxNo) : State :=
  match (s.ctx x).deferred with
  | [] => s
  | d :: r => State.trapped (s.modCtx x (fun c => { c with deferred := r })) x ⟨d.cls, d.cause, 4, d.faddr⟩ (some d.orig)

/-- A context takes a trap only before a bundle that it would issue. -/
def Ctx.canTrap (c : Ctx) : Bool := c.st = .running || c.st = .ready

/-- DEFERRED_TRAP (R275). -/
def execDeferredTrap (x : CtxNo) (s : State) : Out :=
  .next (if (s.ctx x).canTrap && !(s.ctx x).deferred.isEmpty then (s.deferredTrap x).leaveIf (s.ctx x).st x else s)

/-- BOUND LIMIT (R38). -/
def boundTrap : TrapInfo := bundleTrap tBOUND 0x01

/-- BOUND (R38). -/
def execBound (x : CtxNo) (s : State) : Out :=
  .next (if (s.ctx x).canTrap && (s.ctx x).atLimit then (s.trapped x boundTrap none).leaveIf (s.ctx x).st x else s)

/-- A change of VRB or PRB by the last bundle takes effect for the handler's first one, the next that the context issues: it is no result
that the entry holds (R55, R176, R372). -/
def Ctx.landBases (c : Ctx) : Ctx :=
  let base (f : Flight) : Bool := f.dst = .vrb || f.dst = .prb
  let rest (l : List Flight) : List Flight := l.filter (fun f => !base f)
  (byDue (c.flight.filter base) ++ c.held.filter base).foldl Ctx.landOne { c with flight := rest c.flight, held := rest c.held }

/-- Entry into the user trap handler; with UTV[13] = 0 the raise is discarded, and with INH = 1 it waits (R160, R372). -/
def Ctx.throttleEntry (c : Ctx) (t : Nat) : Ctx :=
  if !c.throttle || c.inh then c
  else if c.utv.getLsbD 13 then c.landBases.userTrap t
  else { c with throttle := false }

/-- The context would enter its handler (R160). -/
def Ctx.entersUser (c : Ctx) : Bool := c.throttle && !c.inh && c.utv.getLsbD 13

/-- USER_TRAP_ENTRY (R160, R372). -/
def execUserTrapEntry (x : CtxNo) (s : State) : Out :=
  .next (if (s.ctx x).canTrap then
      let t := s.modCtx x (fun c => c.throttleEntry (s.cycleOf x))
      if (s.ctx x).entersUser then t.throttlePoint x else t
    else s)

/-- ILLEGAL_ENCODING (R173, R174): a bundle whose encoding is illegal traps at issue. -/
def execIllegalEncoding (x : CtxNo) (s : State) : Out :=
  .next (match s.fetchCause x with
    | some i => if (s.ctx x).canTrap then (s.trapped x i none).leaveIf (s.ctx x).st x else s
    | none => s)

/-! ## Context end (R284) -/

/-- A kind of operation that a context's end waits for (R284). -/
def GKind.endWaits : GKind → Bool
  | .fill _ => false
  | .wb .. => false
  | .vreg _ => false
  | _ => true

/-- Every result of an ending context has landed and its operations have performed or reported. -/
def State.endable (s : State) (x : CtxNo) : Bool :=
  let c := s.ctx x
  c.flight.isEmpty && c.held.isEmpty && c.heldU.all Flight.here && c.stq.isEmpty && !s.ops.any (fun o => o.x = x && !o.eng && o.kind.endWaits)

/-- CONTEXT_ENDED (R284): a deferred fault reported meanwhile is taken; else the context is ENDED once nothing is left. -/
def State.endCtx (s : State) (x : CtxNo) : State :=
  let c := s.ctx x
  if !(c.ending && c.st = .stalled) then s
  else if !c.deferred.isEmpty then s.deferredTrap x
  else if s.endable x then s.modCtx x (fun c => { c with st := .ended })
  else s

/-- CONTEXT_ENDED (R284). -/
def execContextEnded (x : CtxNo) (s : State) : Out := .next (s.endCtx x)

/-- In a freeze: a STALLED context whose condition has cleared is READY, and the first to become so will run (R47, R62). -/
def State.clearStalls (s : State) (q : Nat) : State := ((partCtxs q).foldl State.stallClear s).select q

/-- Before the selector acts in a cycle that runs: landing, ends, cleared stalls, then the choice. -/
def State.prepare (s : State) (q : Nat) (skip : Option CtxNo) : State :=
  ((partCtxs q).foldl (fun s x => (s.endCtx x).stallClear x)
    ((s.modPart q (fun p => { p with frozen := false })).landAll q skip)).select q

/-! ## The end of a cycle -/

/-- DCOUNT counts the cycle of a RUNNING, READY or STALLED context (R38). -/
def Ctx.countCycle (c : Ctx) : Ctx :=
  if (c.st = .running || c.st = .ready || c.st = .stalled) && !c.ending then
    if c.limit = 0 then { c with dcount := c.dcount + 1 }
    else if c.dcount.toNat < c.limit.toNat then { c with dcount := c.dcount + 1 } else c
  else c

/-- Partition cycle t has run. -/
def State.endCycle (s : State) (q : Nat) : State :=
  ((partCtxs q).foldl (fun s x => s.modCtx x Ctx.countCycle) s).modPart q
    (fun p => { p with pcyc := p.pcyc + 1, frozen := false })

/-- The partition is frozen in this core cycle (R61, R62). -/
def State.freeze (s : State) (q : Nat) : State :=
  (s.modPart q (fun p => if p.frozen then p else { p with frozen := true, since := s.now })).clearStalls q

end Sys2Proof.Machine
end

