-- ==== Sys2Proof/Machine/Rope.lean ====
section
/-! DEFINITION. The rope engine: descriptors, records, knots, the state table and rope faults (R13 to R25, R32, R350, R427,
R428). -/

namespace Sys2Proof.Machine

/-! ## Descriptors (R13) -/

/-- The descriptor of a rope as memory holds it. -/
def State.ropeDesc (s : State) (r : Nat) : Nat := Memory.rdN s.dram (s.ropeAddr r) 64

/-- The rope engine has read a descriptor: the dispatch island pays (R21, R155). -/
def State.descRead (s : State) (r : Nat) : State := (s.readHome whoRope (s.hostAttr (s.ropeAddr r)) (s.ropeAddr r) 64).2

/-- Fields of a descriptor. -/
def descEn (d : Nat) : Bool := bitOf d 0
def descPre (d : Nat) : Bool := bitOf d 1
def descPrio (d : Nat) : Nat := bitsOf d 2 6
def descAsid (d : Nat) : BitVec 16 := BitVec.ofNat 16 (bitsOf d 8 16)
def descOwner (d : Nat) : BitVec 8 := BitVec.ofNat 8 (bitsOf d 24 8)
def descMask (d : Nat) : BitVec 128 := BitVec.ofNat 128 (bitsOf d 64 128)
def descHead (d : Nat) : Word := BitVec.ofNat 64 (bitsOf d 192 64)
def descKnots (d : Nat) : Word := BitVec.ofNat 64 (bitsOf d 256 64)
def descVtab (d : Nat) : Word := BitVec.ofNat 64 (bitsOf d 320 64)

/-- A descriptor that faults with CONFIG at the engine's first look (R13, R32). -/
def descBad (d : Nat) : Bool :=
  decide (47 < descPrio d) || bitsOf d 32 32 ≠ 0 || bitsOf d 387 5 ≠ 0 || bitsOf d 403 13 ≠ 0 || bitsOf d 448 64 ≠ 0 ||
    bitsOf d 192 6 ≠ 0 || bitsOf d 256 3 ≠ 0

/-- STATE's code. -/
def RopeSt.code : RopeSt → Nat
  | .off => 0
  | .link => 1
  | .head => 2
  | .fault => 3

/-- STATE, FCODE, INFLIGHT and RETIRED as the descriptor's word at byte 48. -/
def Rope.status (k : Rope) : Nat :=
  k.st.code + k.fcode.toNat * 2 ^ 8 + k.inflight.toNat * 2 ^ 16 + k.retired.toNat * 2 ^ 32

/-- A word of a descriptor is written. -/
def State.writeDescWord (s : State) (w : Who) (r o v : Nat) : State :=
  let pa := s.ropeAddr r + o
  s.writeHome w none (s.hostAttr pa) pa [⟨pa, 8, v % 2 ^ 64⟩]

/-- The rope engine's copy changes; RW fields that changed are written to the descriptor (R13). -/
def State.putRope (s : State) (r : Nat) (k : Rope) : State :=
  let old := s.ropeOf r
  let s := if k.head ≠ old.head then s.writeDescWord whoRope r 24 k.head.toNat else s
  let s := if k.status ≠ old.status then s.writeDescWord whoRope r 48 k.status else s
  s.setRope r k

/-- The rope engine runs: the table is enabled, and QUIESCE is not set (R348, R384). -/
def State.ropesRun (s : State) : Bool := s.host.rten && !s.mgmt.quiesce

/-! ## Rope faults (R23, R32) -/

def fRECORD : BitVec 8 := 0x01
def fIMAGE : BitVec 8 := 0x02
def fBUDGET : BitVec 8 := 0x03
def fPLACE : BitVec 8 := 0x04
def fCONFIG : BitVec 8 := 0x05

/-- The lowest core of a mask, where a rope's faults are routed (R357). -/
def lowCore (m : BitVec 128) : Nat := ((List.range 128).find? (fun c => m.getLsbD c)).getD 0

/-- The rope's fault goes to its OWNER; the record's KIND is a free value (R23, log 27). -/
def State.ropeFaultRecord (s : State) (r : Nat) : State :=
  let k := s.ropeOf r
  State.routeFault { s with freeCtr := s.freeCtr + 1 }
    { fid := 0, kind := Config.ropeFaultKind s.freeCtr, wr := false, fwd := false, final := true, asid := k.asid
      claim := k.owner, src := srcRope, va := k.head.toNat, core := lowCore k.mask }

/-- The rope enters FAULT with a code; HEAD names what it names (R23). -/
def State.ropeFault (s : State) (r : Nat) (code : BitVec 8) : State :=
  if (s.ropeOf r).st = .fault then s
  else (s.putRope r { s.ropeOf r with st := .fault, fcode := code }).ropeFaultRecord r

/-! ## STATE and HEAD (R13, R23) -/

/-- Records fetched and not dispatched. -/
def Rope.live (k : Rope) : List Fetched := k.fetched.filter (fun f => !f.gone)

/-- The launch of a record may still fail. -/
def State.launching (s : State) (r : Nat) (addr : Word) : Bool :=
  s.tasks.any (fun t => t.rope.val = r && t.recAddr = addr && t.st = .loading)

/-- STATE and HEAD as the fetched records give them: HEAD names the oldest undispatched record, or the record to be read next, or in LINK the
last fetched; the oldest undispatched record faults the rope when it breaks R16 or its launch failed, and with none left the dispatched
record whose NEXT word broke R16 does (R13, R23). -/
def Rope.settled (k : Rope) (launching : Word → Bool) : Rope :=
  let k := { k with fetched := k.fetched.dropWhile (fun f => f.gone && !launching f.addr) }
  if k.st = .off || k.st = .fault then k
  else
    match k.live with
    | f :: _ =>
      match f.bad with
      | some c => { k with st := .fault, fcode := c, head := f.addr }
      | .none => { k with st := .head, head := f.addr }
    | [] =>
      if k.toFetch ≠ 0 then { k with st := .head, head := k.toFetch }
      else
        match k.badNext with
        | some a => { k with st := .fault, fcode := fRECORD, head := a }
        | .none => if k.waitNext then { k with st := .link, head := k.last.getD k.head } else k

/-- Settle a rope and send the fault that this raises. -/
def State.settleRope (s : State) (r : Nat) : State :=
  let k := s.ropeOf r
  let n := k.settled (s.launching r)
  let t := s.putRope r n
  if n.st = .fault && k.st ≠ .fault then t.ropeFaultRecord r else t

/-- Change the engine's copy and settle it in one; RW fields that this changes are written to the descriptor. -/
def State.updRope (s : State) (r : Nat) (f : Rope → Rope) : State :=
  let k := s.ropeOf r
  let n := (f k).settled (s.launching r)
  let t := s.putRope r n
  if n.st = .fault && k.st ≠ .fault then t.ropeFaultRecord r else t

/-- Hold a fault code against a fetched record (R23). -/
def State.holdRecord (s : State) (r : Nat) (addr : Word) (code : BitVec 8) : State :=
  s.updRope r (fun k => { k with fetched := k.fetched.map (fun f => if f.addr = addr && !f.gone then { f with bad := some code } else f) })

/-! ## Reads for a rope (R14, R16, R428) -/

/-- What a read for a rope gives: the value, the page's attributes and the home slice. -/
inductive RopeRd where
  | ok (v : Nat) (a : Attr) (home : Nat) (s : State)
  | wait (s : State)
  | bad (s : State)

/-- ASID, KNOTS and VTAB for one read: where an enabled descriptor was written since, either value, field by field
(R428, log 15). -/
def State.ropeView (s : State) (r : Nat) : (BitVec 16 × Nat × Nat) × State :=
  let k := s.ropeOf r
  let d := s.ropeDesc r
  if descAsid d = k.asid && descKnots d = k.knots && descVtab d = k.vtab then ((k.asid, k.knots.toNat, k.vtab.toNat), s)
  else
    let new (i : Nat) : Bool := Config.useNewField (s.freeCtr + i)
    let t := { s with freeCtr := s.freeCtr + 3 }
    ((if new 0 then descAsid d else k.asid, if new 1 then (descKnots d).toNat else k.knots.toNat,
      if new 2 then (descVtab d).toNat else k.vtab.toNat), if new 0 || new 1 || new 2 then t.descRead r else t)

/-- Read n bytes of one line for a rope in an ASID; a fault waits on its claimant, OWNER (R16, R357). -/
def State.ropeRead (s : State) (who : HubWho) (r : Nat) (asid : BitVec 16) (va n : Nat) : RopeRd :=
  let k := s.ropeOf r
  match s.hubAccess who 128 asid (va % 2 ^ 64) false k.owner srcRope (lowCore k.mask) with
  | .ok pa a s =>
    let v := s.readHome whoRope a pa n
    if v.2.physBad pa n then .bad v.2 else .ok v.1 a (homeSlice a pa) v.2
  | .wait s => .wait s
  | .bad s => .bad s

/-! ## Records (R15, R16, R20) -/

def recNext (n : Nat) : Nat := bitsOf n 0 64
def recImage (n : Nat) : Nat := bitsOf n 64 64
def recArgs (n : Nat) : Nat := bitsOf n 128 64
def recShape (n : Nat) : Nat := bitsOf n 192 3
def recEclass (n : Nat) : Nat := bitsOf n 196 4
def recTcon (n : Nat) : Nat := bitsOf n 200 4
def recMaypass (n : Nat) : Bool := bitOf n 204
def recNovar (n : Nat) : Bool := bitOf n 205
def recNwait (n : Nat) : Nat := bitsOf n 206 3
def recNsig (n : Nat) : Nat := bitsOf n 209 2
def recVidx (n : Nat) : Nat := bitsOf n 211 5
def recDbg (n : Nat) : Bool := bitOf n 216
def recSig (n k : Nat) : Nat := bitsOf n (224 + 16 * k) 16
/-- Index and threshold of wait-knot k. -/
def recWait (n k : Nat) : Nat × Nat := (bitsOf n (256 + 64 * k) 16, bitsOf n (272 + 64 * k) 48)

/-- A record breaks R16, reads apart. -/
def recBad (n vtab : Nat) : Bool :=
  recNext n % 64 ≠ 0 || recImage n % 64 ≠ 0 || vtab % 64 ≠ 0 || decide (4 < recNwait n) || recNsig n = 3 ||
    (recVidx n ≠ 0 && vtab = 0) || bitOf n 195 || bitsOf n 217 7 ≠ 0 ||
    (List.range 2).any (fun k => decide (recNsig n ≤ k) && recSig n k ≠ 0) ||
    (List.range 4).any (fun k => decide (recNwait n ≤ k) && recWait n k ≠ (0, 0))

/-- Every wait that a record uses is latched (R20). -/
def Fetched.ready (f : Fetched) : Bool := (List.range (recNwait f.recd.toNat)).all (fun k => f.latched.getLsbD k)

/-- Latch wait k of a fetched record when its knot satisfies it, and keep the home slice that the read found (R139); a knot on a LEASE page, or one that cannot be read, breaks
R16 (R16, R19, R20). -/
def State.latchWait (s : State) (r : Nat) (addr : Word) (k : Nat) : State :=
  match (s.ropeOf r).live.find? (fun f => f.addr = addr) with
  | none => s
  | some f =>
    let w := recWait f.recd.toNat k
    let set (homes : List Nat) (s : State) : State := s.modRope r (fun p => { p with fetched := p.fetched.map (fun g =>
      if g.addr = addr && !g.gone then
        { g with latched := g.latched ||| BitVec.ofNat 4 (2 ^ k), homes := (g.homes ++ homes).eraseDups } else g) })
    if f.bad.isSome || decide (recNwait f.recd.toNat ≤ k) || f.latched.getLsbD k then s
    else if w.2 = 0 then set [] s
    else
      let v := s.ropeView r
      match v.2.ropeRead (.rope r addr) r v.1.1 (v.1.2.1 + 8 * w.1) 8 with
      | .wait s => s
      | .bad s => s.holdRecord r addr fRECORD
      | .ok x a h s => if a.lease then s.holdRecord r addr fRECORD else if w.2 ≤ x then set [h] s else s

/-- Latch what is satisfied of every fetched record (R20). -/
def State.latchAll (s : State) (r : Nat) : State :=
  (s.ropeOf r).live.foldl (fun s f => (List.range 4).foldl (fun s k => s.latchWait r f.addr k) s) s

/-! ## The engine's events -/

/-- The engine takes up an enabled descriptor: CONFIG when it is invalid, else LINK or HEAD (R13, R23, R427). -/
def State.ropeStart (s : State) (r : Nat) : State :=
  let s := s.descRead r
  let d := s.ropeDesc r
  let k := s.ropeOf r
  let k := { k with
    en := true, pre := descPre d, prio := BitVec.ofNat 6 (descPrio d), asid := descAsid d, owner := descOwner d
    mask := descMask d, knots := descKnots d, vtab := descVtab d
    retired := BitVec.ofNat 32 (bitsOf d 416 32), fetched := if k.head = descHead d then k.fetched else [], last := none, waitNext := false, badNext := none
    kept := if k.head = descHead d then k.kept else [], failed := [] }
  let s := s.setRope r { k with head := descHead d }
  if descBad d then s.ropeFault r fCONFIG
  else s.putRope r { s.ropeOf r with toFetch := descHead d, st := if descHead d = 0 then .link else .head }

/-- ROPE_ENABLE: software sets EN of a rope that is OFF (R23). -/
def execRopeEnable (r : RopeNo) (s : State) : Out :=
  let d := s.ropeDesc r.val
  let s := if descEn d then s else s.writeDescWord whoPort r.val 0 (bitsOf d 0 64 + 1)
  .next (if s.ropesRun && !(s.ropeOf r.val).en then s.ropeStart r.val else s)

/-- Stopped contexts of a task go on at the bundle after their drain bundle (R41). -/
def State.resumeStopped (s : State) (task : Nat) : State :=
  s.ctxs.foldl (fun s e => if e.2.task = task && e.2.st = .stopped then
    s.modCtx (ctxOf e.1) (fun c => { c with st := .ready }) else s) s

/-- A pending stop of a task ends; a switch request of its own stays (R41, R164). -/
def State.unstop (s : State) (task : Nat) : State :=
  match s.task? task with
  | some t =>
    if t.st = .stopping then
      let s := s.modTask task (fun t => { t with st := .running, supStop := false })
      if t.sw.isSome then s else s.resumeStopped task
    else s
  | none => s

/-- A pending pre-emption request is withdrawn: its victims go on, but for those that another request or a supervisor stops, and
those whose saves have begun (R41). -/
def State.withdraw (s : State) (p : Preempt) : State :=
  let s := { s with preempt := s.preempt.filter (fun q => q ≠ p) }
  p.victims.foldl (fun s t =>
    if s.preempt.any (fun q => q.victims.contains t) then s
    else match s.task? t with
      | some k => if k.supStop then s else s.unstop t
      | none => s) s

/-- The requests that satisfy a test are withdrawn. -/
def State.withdrawIf (s : State) (c : Preempt → Bool) : State := (s.preempt.filter c).foldl State.withdraw s

/-- ROPE_DISABLE: software clears EN. Fetched records and latched waits go; the addresses of dispatched records at or after
HEAD are kept (R23, R41, R427), and those before HEAD while a launch among them may still fail (R35). -/
def execRopeDisable (r : RopeNo) (s : State) : Out :=
  let d := s.ropeDesc r.val
  let s := if descEn d then s.writeDescWord whoPort r.val 0 (bitsOf d 0 64 - 1) else s
  let k := s.ropeOf r.val
  if s.ropesRun && k.en then
    let live := k.fetched.dropWhile (fun f => f.gone && !s.launching r.val f.addr)
    let named := if k.st = .link && k.last.isSome || k.st = .fault && k.badNext.isSome then [k.head] else []
    let s := s.putRope r.val { k with
      en := false, st := .off, fetched := live.takeWhile (·.gone), last := none, waitNext := false, toFetch := 0, badNext := none, failed := []
      kept := (k.kept ++ ((live.dropWhile (·.gone)).filter (·.gone)).map (·.addr) ++ named).eraseDups }
    .next ((s.withdrawIf (fun p => p.rope = r)).forgetRope r.val)
  else .next s

/-- HEAD_WRITE: software writes HEAD of a rope that waits in LINK with HEAD = 0; bits [5:0] set fault it with CONFIG
(R13, R23). -/
def execHeadWrite (r : RopeNo) (head : Word) (s : State) : Out :=
  let k := s.ropeOf r.val
  if s.ropesRun && k.st = .link && k.last.isNone && k.toFetch = 0 && head ≠ 0 then
    let s := s.descRead r.val
    let s := if descHead (s.ropeDesc r.val) = head then s else s.writeDescWord whoPort r.val 24 head.toNat
    if head.toNat % 64 ≠ 0 then .next ((s.setRope r.val { k with head := head }).ropeFault r.val fCONFIG)
    else .next (s.putRope r.val { k with head := head, toFetch := head, st := .head })
  else .next s

/-- DESCRIPTOR_WRITE_OBSERVED: PRIO, PRE, MASK and OWNER of an enabled descriptor take their new values; PRIO above 47 faults
the rope; a look that finds nothing new reads nothing (R21, R428). -/
def execDescriptorWriteObserved (r : RopeNo) (s : State) : Out :=
  let d := s.ropeDesc r.val
  let k := s.ropeOf r.val
  if s.ropesRun && k.en && !(k.pre = descPre d && k.prio.toNat = descPrio d && k.owner = descOwner d && k.mask = descMask d) then
    let s := (s.descRead r.val).modRope r.val (fun k => { k with
      pre := descPre d, prio := BitVec.ofNat 6 (descPrio d), owner := descOwner d, mask := descMask d })
    .next (if 47 < descPrio d then s.ropeFault r.val fCONFIG else s)
  else .next s

/-- A first non-zero NEXT word of the record at an address is followed; one that breaks R16 is held against the record, or,
when the record is dispatched, faults the rope once nothing fetched is left (R23, R24). -/
def State.followNext (s : State) (r : Nat) (addr : Word) (next : Nat) : State :=
  if next % 64 ≠ 0 then
    s.updRope r (fun k =>
      if k.live.any (fun f => f.addr = addr) then
        { k with waitNext := false, fetched := k.fetched.map (fun f => if f.addr = addr && !f.gone then { f with bad := some fRECORD } else f) }
      else { k with waitNext := false, badNext := some addr })
  else s.updRope r (fun k => { k with waitNext := false, toFetch := BitVec.ofNat 64 next })

/-- NEXT_WORD_OBSERVED (R23, R24). -/
def execNextWordObserved (r : RopeNo) (s : State) : Out :=
  let k := s.ropeOf r.val
  if s.ropesRun && (k.st = .link || k.st = .head) && k.waitNext then
    match k.last with
    | none => .next s
    | some a =>
      let v := s.ropeView r.val
      match v.2.ropeRead (.rope r.val a) r.val v.1.1 a.toNat 8 with
      | .wait s => .next s
      | .bad s => .next (s.followNext r.val a 1)
      | .ok x _ _ s => .next (if x = 0 then s else s.followNext r.val a x)
  else .next s

/-- What the engine does with the bytes of a record that it fetched; one whose launch has failed is held with IMAGE (R16, R24, R35). -/
def State.takeRecord (s : State) (r : Nat) (addr : Word) (n vtab : Nat) : State :=
  let next := recNext n
  let s := s.modRope r (fun k => { k with
    fetched := k.fetched ++ [⟨addr, BitVec.ofNat 512 n, 0,
      if recBad n vtab then some fRECORD else if k.failed.contains addr then some fIMAGE else none, false, []⟩]
    failed := k.failed.filter (fun b => b ≠ addr)
    last := some addr, waitNext := decide (next = 0), toFetch := if next % 64 = 0 then BitVec.ofNat 64 next else 0 })
  (s.settleRope r).latchAll r

/-- A record that cannot be read breaks R16 (R16, R427). -/
def State.fetchBad (s : State) (r : Nat) (a : Word) : State :=
  if (s.ropeOf r).kept.contains a then
    (s.modRope r (fun k => { k with toFetch := 0, last := some a, kept := k.kept.filter (fun b => b ≠ a) })).followNext r a 1
  else s.updRope r (fun k => { k with
    toFetch := 0, last := some a, waitNext := false, fetched := k.fetched ++ [⟨a, 0, 0, some fRECORD, false, []⟩] })

/-- RECORD_FETCH: the engine fetches a record ahead of dispatch, up to four undispatched; a record that it dispatched before
EN was cleared gives only its NEXT word (R16, R24, R427). -/
def execRecordFetch (r : RopeNo) (s : State) : Out :=
  let k := s.ropeOf r.val
  if s.ropesRun && k.st = .head && k.toFetch ≠ 0 && decide (k.live.length < 4) then
    let a := k.toFetch
    let old := k.kept.contains a
    let v := s.ropeView r.val
    match v.2.ropeRead (.rope r.val a) r.val v.1.1 a.toNat (if old then 8 else 64) with
    | .wait s => .next s
    | .bad s => .next (s.fetchBad r.val a)
    | .ok n _ _ s =>
      if old then
        let s := s.modRope r.val (fun k => { k with
          toFetch := 0, last := some a, waitNext := true, kept := k.kept.filter (fun b => b ≠ a)
          fetched := k.fetched ++ [⟨a, BitVec.ofNat 512 n, 0, none, true, []⟩] })
        .next (if recNext n = 0 then s.settleRope r.val else s.followNext r.val a (recNext n))
      else .next (s.takeRecord r.val a n v.1.2.2)
  else .next s

/-- KNOT_WRITE_OBSERVED: satisfied waits are latched (R20, R21). -/
def execKnotWriteObserved (r : RopeNo) (s : State) : Out :=
  .next (if s.ropesRun && (s.ropeOf r.val).st = .head then s.latchAll r.val else s)

end Sys2Proof.Machine
end

