-- ==== Sys2Proof/Machine/Image.lean ====
section
/-! DEFINITION. The loaded image: header, team table, tables, the verifier and the load-time rewrite of P4 images (R316, R318,
R328, R333 to R336). -/

namespace Sys2Proof.Machine

/-! ## Reading the image -/

/-- What a read by a supervisor gives. -/
inductive SupRd where
  | ok (v : Nat) (s : State)
  | wait (s : State)
  | bad (s : State)

/-- Read n bytes at a virtual address for a task on a core, line by line; the core's island pays, the task being charged,
or for the dispatcher the dispatch island (R155), and a fault waits on the ASID's CLAIM (R357). -/
def State.supRead (s : State) (who : HubWho) (pays : Bool) (core : Nat) (asid : BitVec 16) (task : Option Nat) (va n : Nat) :
    Nat → SupRd
  | 0 => .ok 0 s
  | fuel + 1 =>
    if n = 0 then .ok 0 s
    else
      let va := va % 2 ^ 64
      let k := min n (64 - va % 64)
      match s.hubAccess who core asid va false (s.asid asid).claim srcSup core with
      | .wait s => .wait s
      | .bad s => .bad s
      | .ok pa a s =>
        let v := s.readHome (if pays then { whoRope with island := core, task := task } else whoRope) a pa k
        if v.2.physBad pa k then .bad v.2
        else
          match State.supRead v.2 who pays core asid task (va + k) (n - k) fuel with
          | .ok w t => .ok (v.1 + 2 ^ (8 * k) * w) t
          | r => r

/-- Go on with a read that succeeded. -/
def SupRd.bind (r : SupRd) (f : Nat → State → SupRd) : SupRd :=
  match r with
  | .ok v s => f v s
  | r => r

/-! ## Header and team table (R333, R334) -/

/-- Cores of a shape (R17). -/
def shapeCores (shape : Nat) : Nat := 2 ^ shape

def hdrProf (h : Nat) : Nat := bitsOf h 40 8
def hdrShape (h : Nat) : Nat := bitsOf h 48 3
def hdrDrain (h : Nat) : Nat := bitsOf h 64 24
def hdrLen (h : Nat) : Nat := bitsOf h 96 32
def hdrTeamoff (h : Nat) : Nat := bitsOf h 128 32
def hdrFmtoff (h : Nat) : Nat := bitsOf h 160 32
def hdrSploff (h : Nat) : Nat := bitsOf h 192 32
def hdrNspl (h : Nat) : Nat := bitsOf h 224 8
def hdrNvar (h : Nat) : Nat := bitsOf h 232 8
def hdrVaroff (h : Nat) : Nat := bitsOf h 256 32
def hdrLinks (h : Nat) : BitVec 32 := BitVec.ofNat 32 (bitsOf h 288 32)

/-- Header and Shape of R336: the header breaks R333, its tables leave the image, or its shape is another. -/
def hdrBad (h shape : Nat) : Bool :=
  bitsOf h 0 32 ≠ 0x46414852 || bitsOf h 32 8 ≠ 1 || !(hdrProf h = 4 || hdrProf h = 6) || bitOf h 51 || bitsOf h 60 4 ≠ 0 ||
    bitsOf h 88 8 ≠ 0 || bitsOf h 240 16 ≠ 0 || bitsOf h 320 704 ≠ 0 || hdrShape h ≠ shape ||
    decide (hdrLen h < hdrTeamoff h + 64 * shapeCores shape) ||
    (hdrFmtoff h ≠ 0 && decide (hdrLen h < hdrFmtoff h + 32)) ||
    (hdrSploff h ≠ 0 && decide (hdrLen h < hdrSploff h + 80 * hdrNspl h)) ||
    (hdrVaroff h ≠ 0 && decide (hdrLen h < hdrVaroff h + 32 * hdrNvar h))

def teNctx (t : Nat) : Nat := bitsOf t 0 5
def teMtx (t : Nat) : Bool := bitOf t 5
def teHal (t : Nat) : Bool := bitOf t 6
def teLld (t : Nat) : Bool := bitOf t 7
def teNbgt (t : Nat) : Nat := bitsOf t 8 7
def teNbun (t : Nat) : Nat := bitsOf t 16 14
def teTextoff (t : Nat) : Nat := bitsOf t 32 32
def teSpadsz (t : Nat) : Nat := bitsOf t 64 32
def teVaultsz (t : Nat) : Nat := bitsOf t 96 32
def teSpill (t : Nat) : Nat := bitsOf t 128 32
def teNdata (t : Nat) : Nat := bitsOf t 160 16
def teDataoff (t : Nat) : Nat := bitsOf t 192 32
def teBgtoff (t : Nat) : Nat := bitsOf t 224 32
def teEntry (t j : Nat) : Nat := bitsOf t (256 + 16 * j) 13

/-- Round up to a multiple. -/
def roundUp (n g : Nat) : Nat := (n + g - 1) / g * g

/-- SPLIM: the first multiple of 16 at or above SPADSZ (R328). -/
def teSplim (t : Nat) : Nat := roundUp (teSpadsz t) 16
/-- WinSize of the scratchpad window (R328, R334). -/
def teSpadWin (t : Nat) : Nat := roundUp (teSplim t + teSpill t) 65536
/-- The vault window (R95). -/
def teVaultWin (t : Nat) : Nat := roundUp (teVaultsz t) 49152

/-- Partitions that a team occupies (R18). -/
def teParts (t : Nat) : Nat := (teNctx t + 3) / 4

/-- Header, Teams and Windows of R336 as far as the team's entry decides them. -/
def teBad (h t : Nat) : Bool :=
  bitOf t 15 || bitsOf t 30 2 ≠ 0 || bitsOf t 176 16 ≠ 0 ||
    (List.range 16).any (fun j => bitsOf t (269 + 16 * j) 3 ≠ 0 || (decide (teNctx t ≤ j) && teEntry t j ≠ 0)) ||
    teNctx t = 0 || decide (16 < teNctx t) || teNbun t = 0 || decide (8192 < teNbun t) ||
    (List.range (teNctx t)).any (fun j => decide (teNbun t ≤ teEntry t j)) ||
    decide (64 < teNbgt t) || decide (0x100000 < teSplim t + teSpill t) || decide (0xC00000 < teVaultsz t) ||
    decide (hdrLen h < teTextoff t + 32 * teNbun t) || decide (hdrLen h < teDataoff t + 16 * teNdata t) ||
    decide (hdrLen h < teBgtoff t + 32 * teNbgt t)

/-- Piece i of a table whose pieces have n bytes. -/
def piece (v n i : Nat) : Nat := bitsOf v (8 * n * i) (8 * n)

/-! ## Windows, bights, formats, splices, variants (R336) -/

/-- A chunk: vault or scratchpad, window offset, length, image offset (R334). -/
structure Chunk where
  vault : Bool
  off : Nat
  len : Nat
  src : Nat
  deriving DecidableEq, Repr

def chunkOf (c : Nat) : Chunk := ⟨bitOf c 0, bitsOf c 32 32, bitsOf c 64 32, bitsOf c 96 32⟩

/-- Chunks of a team from its chunk table. -/
def teChunks (t data : Nat) : List Chunk := (List.range (teNdata t)).map (fun i => chunkOf (piece data 16 i))

/-- A chunk has a reserved bit set, leaves its window, or overlaps another. -/
def chunksBad (t data : Nat) : Bool :=
  let l := (List.range (teNdata t)).map (fun i => (i, chunkOf (piece data 16 i)))
  l.any (fun p =>
    bitsOf (piece data 16 p.1) 1 31 ≠ 0 || decide ((if p.2.vault then teVaultWin t else teSpadWin t) < p.2.off + p.2.len) ||
      l.any (fun q => p.1 ≠ q.1 && p.2.vault = q.2.vault && decide (p.2.off < q.2.off + q.2.len) &&
        decide (q.2.off < p.2.off + p.2.len)))

/-- The valid bight entries that an image declares for a team (R103). -/
def teBights (t bgt : Nat) : List (Nat × Nat) :=
  ((List.range (teNbgt t)).map (fun i => (i, piece bgt 32 i))).filter (fun p => bitOf p.2 163)

/-- A team with the windows of its entry and no valid bight. -/
def teTeam (t : Nat) : Team :=
  { task := 0, pos := 0, core := 0, parts := [], nctx := teNctx t, bundles := [], nbun := teNbun t, ipar := [], spadBase := 0
    spadSize := teSpadWin t, vaultBase := 0, vaultSize := teVaultWin t, nbgt := teNbgt t, bights := []
    mtx := teMtx t, hal := teHal t, lld := teLld t, armed := false, leaving := false }

/-- A declared entry breaks R104, or its local range reaches SPLIM (R328). -/
def bightsBad (t bgt : Nat) : Bool :=
  (teBights t bgt).foldl (fun (r : Bool × Team) p =>
    let b := bightOf p.2 0
    let bad := r.2.mapBad p.1 p.2 || (!b.space && decide (teSplim t < 4 * (b.loff.toNat + b.words)))
    (r.1 || bad, { r.2 with bights := SMap.set Bight.none r.2.bights p.1 b })) (false, teTeam t) |>.1

/-- A declared format is not accepted, or a reserved bit is set (R232, R335). -/
def formatsBad (f : Nat) : Bool :=
  (List.range 16).any (fun i =>
    let e := piece f 2 i
    bitsOf e 10 5 ≠ 0 || (bitOf e 15 && !pairOk (BitVec.ofNat 5 e) (BitVec.ofNat 5 (bitsOf e 5 5))))

/-- The declared formats of a format block (R226, R335). -/
def formatTable (f : Nat) : SMap (BitVec 10) :=
  (List.range 16).foldl (fun m i => if bitOf (piece f 2 i) 15 then SMap.set 0 m i (BitVec.ofNat 10 (piece f 2 i)) else m) []

/-- A splice body breaks R289, a number is named twice, or a reserved byte is set (R335). -/
def splicesBad (n v : Nat) : Bool :=
  (List.range n).any (fun i =>
    let e := piece v 80 i
    bitsOf e 8 120 ≠ 0 || splBad (BitVec.ofNat 512 (bitsOf e 128 512)) 16 0 false ||
      (List.range n).any (fun k => k ≠ i && piece v 80 k % 256 = e % 256))

/-- A variant's VIMAGE has bits [5:0] set, its index is 0 or repeated, or a reserved bit is set (R335). -/
def variantsBad (n v : Nat) : Bool :=
  (List.range n).any (fun i =>
    let e := piece v 32 i
    let j := bitsOf e 128 5
    bitsOf e 0 6 ≠ 0 || bitsOf e 72 56 ≠ 0 || bitsOf e 133 123 ≠ 0 || j = 0 ||
      (List.range n).any (fun k => k ≠ i && bitsOf (piece v 32 k) 128 5 = j))

/-! ## Encodings (R336) -/

/-- Some destination is named twice. -/
def wordClash : List (BitVec 32) → Bool
  | [] => false
  | w :: r => (wordDests w).any (fun d => d ≠ .none && r.any (fun v => (wordDests v).contains d)) || wordClash r

/-- DEST for every leaf of a bundle (R50). -/
def destBad (b : BitVec 256) : Bool :=
  let h := bundlePart b 0
  let t := fld h 1 1 = 1
  let tr := (treeOfShape (fld h 2 5).toNat).getD .leaf
  let leaves : List (Nat × Bool) :=
    if t then (List.range tr.leaves).map (fun j => (j, (treeLeaf (bundleLast b) j).isSome))
    else if isCtl (bundlePart b 1) then [(0, false), (0, true)] else [(0, false)]
  leaves.any (fun l => wordClash (((List.range 5).filter (fun i => tagRuns (fld h (7 + 3 * i) 3) l.1 l.2)).map
    (fun i => bundlePart b (i + 1))))

/-- A bundle of a team is refused: an illegal encoding, an op of a unit it does not own, DEST, or a bgt number at or above
NBGT (R225, R266, R336). -/
def bundleBad (t : Nat) (b : BitVec 256) : Bool :=
  let x := bundlePart b 5
  (bundleCause (teMtx t) (teHal t) b).isSome || destBad b ||
    ((fld x 25 7).toNat = 0x58 && decide (teNbgt t ≤ (fld x 15 6).toNat))

/-- The bundles of a team from its text. -/
def teBundles (n text : Nat) : List (BitVec 256) := (List.range n).map (fun i => BitVec.ofNat 256 (piece text 32 i))

/-! ## The rewrite of P4 images (R318) -/

/-- Opcode of a slot word. -/
def opOf (w : BitVec 32) : Nat := (fld w 25 7).toNat

/-- ld or vld: a load whose latency differs between P4 and P6 (R311). -/
def isP4Load (w : BitVec 32) : Bool := opOf w = 0x50 || opOf w = 0x54

/-- Landing offset of a load word (R168). -/
def landOff (w : BitVec 32) : Nat := (fld w 3 6).toNat

/-- Latency of the result of a slot word under P4, a load's offset included; 1 for the rest (R310, R311, R318). -/
def wordLat (lld : Bool) (w : BitVec 32) : Nat :=
  match opOf w with
  | 0x02 => if hasBits w 7 2 || hasBits w 7 3 || hasBits w 7 4 then 3 else 1
  | 0x08 => 3
  | 0x1c => 24
  | 0x20 | 0x21 | 0x23 | 0x24 | 0x25 | 0x26 | 0x27 | 0x28 | 0x2c | 0x2f | 0x34 | 0x35 | 0x36 | 0x37 | 0x38 | 0x3d => 2
  | 0x22 | 0x29 | 0x2a | 0x2b | 0x2d | 0x2e | 0x30 | 0x31 | 0x32 | 0x33 | 0x3b => 4
  | 0x39 => if hasBits w 0x1ff 0 then 10 else 6
  | 0x3a => 8
  | 0x3c => 6
  | 0x50 | 0x54 => (if lld then 4 else 12) + landOff w
  | 0x51 | 0x55 => 48 + landOff w
  | 0x5e | 0x5f | 0x60 | 0x68 => 64
  | 0x62 => if hasBits w 0x1f8007 2 || hasBits w 0x1f8007 3 then 1 else 64
  | 0x64 => if hasBits w 7 0 then 96 else if hasBits w 7 1 then 1 else 64
  | 0x65 => if hasBits w 7 0 then 1 else 64
  | _ => 1

/-- The bundle holds a tree or a control operation. -/
def branches (b : BitVec 256) : Bool := fld (bundlePart b 0) 1 1 = 1 || isCtl (bundlePart b 1)

/-- setb with an absolute index. -/
def isSetb (w : BitVec 32) : Bool := opOf w = 0x12 && hasBits w 0x3e000 0
/-- setb from a register. -/
def isSetbReg (w : BitVec 32) : Bool := opOf w = 0x12 && !hasBits w 0x3e000 0
/-- call. -/
def isCall (w : BitVec 32) : Bool := isCtl w && hasBits w 0x3e000 0
/-- ret, the control operation that names no b register. -/
def isRet (w : BitVec 32) : Bool := isCtl w && hasBits w 0x1fe000 0x2000

/-! ### Paths (R66, R187 to R193, R284, R293, R318, log 107) -/

/-- cend. -/
def isCend (w : BitVec 32) : Bool := opOf w = 0x67 && fld w 0 3 = 0

/-- mts to UTV. -/
def setsUtv (w : BitVec 32) : Bool := opOf w = 0x17 && (fld w 7 8).toNat = 0x09

/-- The op of a slot executes on every path through its bundle: its guard is p0, and its tag leaves no choice (R65). -/
def surely (b : BitVec 256) (i : Nat) : Bool :=
  let h := bundlePart b 0
  let tag := fld h (7 + 3 * i) 3
  fld (bundlePart b (i + 1)) 21 4 = 0 && (tag = 0 || (tag = 7 && fld h 1 1 = 0 && !isCtl (bundlePart b 1)))

/-- Where a path stands: PC, NPC, the b registers, which only setb with F = 0 writes, and the s registers that an op has written: 1 for
an unknown value, and 2 more than the link that a call has left there. -/
structure PathSt where
  pc : Nat
  npc : Nat
  b : List Nat
  s : SMap Nat
  deriving DecidableEq, Repr

/-- Targets of a ret through s[l]: the link that a call has left there, the value at gang start, which is 0 but for the arguments, or any
bundle when it is not known. -/
def retTargets (bs : List (BitVec 256)) (p : PathSt) (l : Nat) : List Nat :=
  match SMap.get 0 p.s l with
  | 0 => if l = 0 || 5 ≤ l then [0] else List.range bs.length
  | 1 => List.range bs.length
  | n + 2 => [n % 8192]

/-- Targets of the bundle at a path's PC (R66, R188 to R193). -/
def pathTargets (bs : List (BitVec 256)) (p : PathSt) (w : BitVec 256) : List Nat :=
  let h := bundlePart w 0
  let c := bundlePart w 1
  if fld h 1 1 = 1 then
    (List.range ((treeOfShape (fld h 2 5).toNat).getD .leaf).leaves).map (fun j =>
      match treeLeaf (bundleLast w) j with
      | some r => p.b.getD r.toNat 0
      | none => p.npc + 1)
  else if isCtl c then
    (if (isCall c || isRet c) && surely w 0 then [] else [p.npc + 1]) ++
      (if isRet c then retTargets bs p (fld c 0 6).toNat else [p.b.getD (fld c 18 3).toNat 0])
  else [p.npc + 1]

/-- The s registers that the op of a slot may write, s0 apart. -/
def slotWrites (w : BitVec 256) (i : Nat) : List Nat :=
  (wordDests (bundlePart w (i + 1))).filterMap (fun d => match d with
    | .s n => if n.val = 0 then none else some n.val
    | _ => none)

/-- What the bundle at a path's PC may leave in the b registers and the s registers: setb and a call, taken and not taken; any other
writer leaves an unknown value. -/
def pathAfter (p : PathSt) (w : BitVec 256) : List (List Nat × SMap Nat) :=
  let c := bundlePart w 1
  let s := ((List.range 5).flatMap (slotWrites w)).foldl (fun m n => SMap.set 0 m n 1) p.s
  let l := (fld c 0 6).toNat
  let both := surely w 0
  if isSetb c then (if both then [] else [(p.b, s)]) ++ [(p.b.set (fld c 18 3).toNat (fld c 0 13).toNat, s)]
  else if isCall c && l ≠ 0 && l ≠ 4 then
    (if both then [] else [(p.b, SMap.set 0 s l (SMap.get 0 p.s l))]) ++ [(p.b, SMap.set 0 s l (p.npc + 1 + 2))]
  else [(p.b, s)]

/-- Where a path can go on inside a program or a handler: nowhere after cend and rtu. -/
def pathNext (bs : List (BitVec 256)) (p : PathSt) : List PathSt :=
  match bs[p.pc]? with
  | none => []
  | some w =>
    let x := bundlePart w 5
    if (isCend x || isRtu x) && surely w 4 then []
    else (pathTargets bs p w).flatMap (fun t => (pathAfter p w).map (fun r => ⟨p.npc, t, r.1, r.2⟩))

/-- Everything that paths reach from some places, with a bound on the work that no text of 8,192 bundles reaches. -/
def explore (bs : List (BitVec 256)) : Nat → List PathSt → List PathSt → List PathSt
  | 0, _, seen => seen
  | _, [], seen => seen
  | n + 1, p :: r, seen => if seen.contains p then explore bs n r seen else explore bs n (pathNext bs p ++ r) (p :: seen)

/-- Where a handler may be entered and where its rtu may go on, in a text that sets UTV: the entry is any bundle, with the registers of the
program there, and the program goes on where it stood, with those of the handler (R293, R372). -/
def trapSteps (bs : List (BitVec 256)) (e : List PathSt) : List PathSt :=
  e.flatMap (fun p => (List.range bs.length).map (fun u => ⟨u, u + 1, p.b, p.s⟩)) ++
    e.flatMap (fun r => match bs[r.pc]? with
      | some w => if isRtu (bundlePart w 5) then (pathAfter r w).flatMap (fun a => e.map (fun p => ⟨p.pc, p.npc, a.1, a.2⟩)) else []
      | none => [])

/-- All paths: exploring again until handlers and their returns lead nowhere new. -/
def paths (bs : List (BitVec 256)) (utv : Bool) : Nat → List PathSt → List PathSt
  | 0, starts => explore bs (2 ^ 160) starts []
  | n + 1, starts =>
    let e := explore bs (2 ^ 160) starts []
    let new := if utv then ((trapSteps bs e).filter (fun p => !e.contains p)).eraseDups else []
    if new.isEmpty then e else paths bs utv n (starts ++ new)

/-- A text with the entries of its contexts and its LLD bit. -/
structure TeamText where
  lld : Bool
  entries : List Nat
  text : List (BitVec 256)
  deriving DecidableEq, Repr

/-- Where control begins: the entries of the contexts. -/
def TeamText.starts (t : TeamText) : List PathSt := t.entries.map (fun e => ⟨e, e + 1, List.replicate 8 0, []⟩)

/-- For each bundle those from which control comes to it: by the paths, and to any from a handler's rtu. -/
def TeamText.preds (t : TeamText) : List (List Nat) :=
  let e := paths t.text (t.text.any (fun b => setsUtv (bundlePart b 1))) (2 ^ 32) t.starts
  let rtus := (e.filter (fun p => (t.text[p.pc]?).any (fun w => isRtu (bundlePart w 5)))).map (·.pc)
  (List.range t.text.length).map (fun i => ((e.filter (fun p => p.npc = i)).map (·.pc) ++ rtus).eraseDups)

/-- The latest landing of an op issued in a bundle. -/
def bundleLat (lld : Bool) (b : BitVec 256) : Nat :=
  (List.range 5).foldl (fun m i => max m (wordLat lld (bundlePart b (i + 1)))) 0

/-- One round of the flow of outstanding latencies: cycles after its issue until everything issued before has landed. -/
def flowRound (bs : List (BitVec 256)) (preds : List (List Nat)) (lld : Bool) (inn : List Nat) : List Nat :=
  preds.map (fun ps => ps.foldl (fun m p => max m (max (inn.getD p 0) (bundleLat lld (bs.getD p 0)) - 1)) 0)

/-- The flow after n rounds; latencies are below 256, so 256 rounds reach its end. -/
def flow (bs : List (BitVec 256)) (preds : List (List Nat)) (lld : Bool) : Nat → List Nat → List Nat
  | 0, inn => inn
  | n + 1, inn => flow bs preds lld n (flowRound bs preds lld inn)

/-- Nop bundles that step 2 inserts after a bundle. -/
def inserts (b : BitVec 256) : Nat :=
  let x := bundlePart b 5
  if isP4Load x && decide (landOff x < 2) then 2 - landOff x else 0

/-- The new index of bundle i (R318). -/
def newIndex (bs : List (BitVec 256)) (i : Nat) : Nat := i + ((bs.take i).map inserts).foldl (· + ·) 0

/-- The rewrite refuses the text; also one with a setb whose target, past the text, has no new index of 13 bits (R318, log 107). -/
def rewriteRefused (t : TeamText) : Bool :=
  let bs := t.text
  let preds := t.preds
  let inn := flow bs preds t.lld 256 (bs.map (fun _ => 0))
  bs.any (fun b => isSetbReg (bundlePart b 1) ||
      (isSetb (bundlePart b 1) && decide (8192 ≤ newIndex bs (fld (bundlePart b 1) 0 13).toNat))) || decide (8192 < bs.length + (bs.map inserts).foldl (· + ·) 0) ||
    (List.range bs.length).any (fun i =>
      let b := bs.getD i 0
      inserts b ≠ 0 && (branches b || isRtu (bundlePart b 5) || (decide (0 < i) && branches (bs.getD (i - 1) 0)) ||
        (preds.getD i []).any (fun p => branches (bs.getD p 0)) || decide (1 < inn.getD i 0) ||
        (List.range 4).any (fun k => decide (1 < wordLat t.lld (bundlePart b (k + 1))))))

/-- A 32-bit part of a bundle replaced. -/
def setPart32 (b : BitVec 256) (i : Nat) (w : BitVec 32) : BitVec 256 :=
  BitVec.ofNat 256 (b.toNat - (bundlePart b i).toNat * 2 ^ (32 * i) + w.toNat * 2 ^ (32 * i))

/-- A bundle with its load's offset lowered and its setb relocated (R318). -/
def rewriteBundle (bs : List (BitVec 256)) (b : BitVec 256) : BitVec 256 :=
  let ws := bundlePart b 1
  let wx := bundlePart b 5
  let b := if isSetb ws then
      setPart32 b 1 (BitVec.ofNat 32 (ws.toNat / 2 ^ 13 * 2 ^ 13 + newIndex bs (fld ws 0 13).toNat % 2 ^ 13)) else b
  if isP4Load wx then setPart32 b 5 (BitVec.ofNat 32 (wx.toNat - landOff wx * 8 + (landOff wx - 2) * 8)) else b

/-- The rewritten text (R318). -/
def rewriteText (bs : List (BitVec 256)) : List (BitVec 256) :=
  bs.flatMap (fun b => rewriteBundle bs b :: List.replicate (inserts b) 0)

/-- What becomes of an image's profile: refused, native or rewritten, or interlocked (R309, R316, R336). -/
inductive Profile where
  | refused
  | native
  | rewritten
  | interlocked
  deriving DecidableEq, Repr

/-- The profile rule for the texts of all teams; the rewrite changes an image, so it must succeed for every team (R316, R318). -/
def profileOf (policy : BitVec 2) (prof : Nat) (teams : List TeamText) : Profile :=
  if prof = 6 then .native
  else if policy.getLsbD 0 && teams.all (fun t => !rewriteRefused t) then .rewritten
  else if policy.getLsbD 1 then .interlocked
  else .refused

end Sys2Proof.Machine
end

