-- ==== Sys2Proof/Machine/Launch.lean ====
section
/-! DEFINITION. Places for teams, the placement of a task, loading its teams at gang start, failed launches, and freeing what a
task holds (R17, R18, R27, R28, R33 to R35, R39, R44, R53, R54, R95, R153, R160, R225, R226, R266, R287, R316). -/

namespace Sys2Proof.Machine

/-! ## Resources of a core (R18, R27, R95, R103, R225, R266) -/

/-- What a team would get on a core. -/
structure Room where
  parts : List Nat
  spadBase : Nat
  vaultBase : Nat
  deriving DecidableEq, Repr

/-- The lowest base of a window among the multiples of its granule that no other window meets. -/
def freeBase (used : List (Nat × Nat)) (granule total need : Nat) : Option Nat :=
  ((List.range (total / granule)).map (· * granule)).find? (fun b =>
    decide (b + need ≤ total) && used.all (fun u => decide (b + need ≤ u.1) || decide (u.1 + u.2 ≤ b)))

/-- Room for a team on a core, the teams of some tasks taken as gone: the lowest-numbered free partitions, windows, bight
entries, the matrix engine and the halyard (R18, R27), and places in the core's instruction store of 8,192 bundles (R1). R27 does
not list the store: that a team which finds too few bundles free has no room is the model's choice (DESIGN CHOICE, log 90). -/
def Core.room (c : Core) (skip : List Nat) (te : Nat) : Option Room :=
  let l := c.teams.filter (fun t => !skip.contains t.task)
  let free := (List.range 4).filter (fun p => !l.any (fun t => t.parts.contains p))
  if free.length < teParts te || 64 < (l.map (·.nbgt)).foldl (· + ·) 0 + teNbgt te || (teMtx te && l.any (·.mtx)) ||
      (teHal te && l.any (·.hal)) || 8192 < (l.map (·.nbun)).foldl (· + ·) 0 + teNbun te then .none
  else
    match freeBase (l.map (fun t => (t.spadBase, t.spadSize))) 65536 0x100000 (teSpadWin te),
        freeBase (l.map (fun t => (t.vaultBase, t.vaultSize))) 49152 0xC00000 (teVaultWin te) with
    | some a, some b => some ⟨free.take (teParts te), a, b⟩
    | _, _ => .none

/-- Every core of a placement has room and is not fenced; the rooms in position order. -/
def State.roomsAt (s : State) (base : Nat) (skip : List Nat) (tes : List Nat) : Option (List Room) :=
  let l := (tes.zip (List.range tes.length)).map (fun p =>
    if s.coreFenced (base + p.2) then none else (s.core (base + p.2)).room skip p.1)
  if l.all Option.isSome then some (l.filterMap id) else none

/-- The link pairs of an image are free, or owned by the task itself (R44, R377). -/
def State.linksFree (s : State) (links : BitVec 32) (task : Nat) : Bool :=
  (List.range 32).all (fun p => !links.getLsbD p || (s.link p).owner = none || (s.link p).owner = some task)

/-- Launch reservation of a class (R151). -/
def State.resv (s : State) (eclass : Nat) : Nat := bitsOf (SMap.get 0 s.ecls eclass).toNat 0 24

/-- OPMIN of a contract (R151). -/
def State.opmin (s : State) (tcon : Nat) : Nat := bitsOf (SMap.get 0 s.tct tcon).toNat 24 3

/-- Every core island of a placement holds the reservation (R27). -/
def State.canPay (s : State) (base n eclass : Nat) : Bool :=
  (List.range n).all (fun p => decide ((s.resv eclass : Int) ≤ (s.island (base + p)).hold))

/-! ## Placement (R28, R153) -/

/-- The team of a position as it is placed, not yet loaded. -/
def teamAt (task base : Nat) (p : Nat × Nat × Room) : Team :=
  { teTeam p.1 with task := task, pos := p.2.1, core := base + p.2.1, parts := p.2.2.parts, spadBase := p.2.2.spadBase
                    vaultBase := p.2.2.vaultBase }

/-- Place a task: the teams take their rooms, the reservation is debited from every core island, and the links are owned. -/
def State.place (s : State) (t : Task) (tes : List Nat) (rooms : List Room) : State :=
  let l := tes.zip ((List.range tes.length).zip rooms)
  let s := l.foldl (fun s p => s.modCore (t.base + p.2.1) (fun c => { c with teams := c.teams ++ [teamAt t.id t.base p] })) s
  let r := s.resv t.eclass.toNat
  let s := (List.range t.ncores).foldl (fun s p => s.debit (t.base + p) r) s
  let s := (List.range 32).foldl (fun s p =>
    if t.links.getLsbD p then s.setLink p { s.link p with owner := some t.id } else s) s
  { s with tasks := (s.tasks.filter (fun u => u.id ≠ t.id)) ++
      [{ t with st := .loading, credit := (List.range t.ncores).map (fun p => (t.base + p, r)) }] }

/-! ## Freeing (R153) -/

/-- The task's remaining credit goes back to its islands (R153). -/
def State.returnCredit (s : State) (task : Nat) : State :=
  match s.task? task with
  | none => s
  | some t => (t.credit.foldl (fun s p => s.credit p.1 p.2) s).modTask task (fun t => { t with credit := [] })

/-- A task that has stopped as a victim begins to be saved: its credit goes back at once (R40, R153). -/
def State.beginSave (s : State) (task : Nat) : State :=
  (s.returnCredit task).modTask task (fun t => { t with st := .saving })

/-- Contexts of a team. -/
def Team.ctxNos (t : Team) : List CtxNo :=
  (List.range t.nctx).map (fun j => ctxOf (16 * t.core + 4 * (t.parts.getD (j / 4) 0) + j % 4))

/-- Free what a team holds on its core: its contexts, partitions, windows, engines and entries. -/
def State.freeTeam (s : State) (core task : Nat) : State :=
  match (s.core core).team? task with
  | none => s
  | some t =>
    let s := t.ctxNos.foldl (fun s x => s.setCtx x Ctx.none) s
    let s := t.parts.foldl (fun s p => s.setPart (4 * core + p) Part.none) s
    let s := { s with
      dir := s.dir.filter (fun d => !(d.core = core && d.task = task))
      owners := s.owners.filter (fun o => !(o.core = core && o.task = task)) }
    s.modCore core (fun c =>
      let c := (c.clearRange false (t.spadBase / 4) (t.spadSize / 4)).clearRange true (t.vaultBase / 4) (t.vaultSize / 4)
      let keep (l : List CopyCmd) : List CopyCmd := l.filter (fun k => k.task ≠ task)
      { c with
        teams := c.teams.filter (fun u => u.task ≠ task), eng0 := keep c.eng0, eng1 := keep c.eng1
        mtx := if t.mtx then Mtx.none else c.mtx, hal := if t.hal then Halyard.none else c.hal })

/-- Cores of a task's placement. -/
def Task.cores (t : Task) : List Nat := (List.range t.ncores).map (t.base + ·)

/-- Free every team of a task. -/
def State.freeTeams (s : State) (t : Task) : State := t.cores.foldl (fun s c => s.freeTeam c t.id) s

/-- The link pairs of a task have no owner any more. -/
def State.freeLinks (s : State) (task : Nat) : State :=
  (List.range 32).foldl (fun s p => if (s.link p).owner = some task then s.setLink p { s.link p with owner := none } else s) s

/-! ## Failed launches (R35) -/

/-- A fetched record, dispatched, whose launch has failed: it is undispatched again and held with IMAGE (R23, R35). -/
def Fetched.backAt (a : Word) (f : Fetched) : Fetched := if f.addr = a && f.gone then { f with gone := false, bad := some fIMAGE } else f

/-- The record of a failed launch in its enabled rope: held where it was fetched, or once the engine has read it again. A rope that is in
FAULT for a younger record faults again for this one when it is the oldest now (R23, R35, R427). -/
def Rope.back (k : Rope) (a : Word) : Rope :=
  let l := k.fetched.map (Fetched.backAt a)
  let k := if k.kept.contains a then { k with kept := k.kept.filter (fun b => b ≠ a), failed := k.failed ++ [a] } else k
  let k := { k with fetched := l, inflight := k.inflight - 1 }
  if k.st = .fault && (k.live.head?.any (fun f => f.addr = a && f.bad = some fIMAGE)) then { k with st := .head } else k

/-- A record returns to its rope undispatched with IMAGE held against it (R23, R35). While the rope is OFF, HEAD names it if it
stood before the record that HEAD names, and the dispatched records after it are kept as R427 keeps them; one that was dispatched
past HEAD is kept no longer; after a write of HEAD by software nothing changes. What HEAD becomes then the spec does not say
(DESIGN CHOICE, log 93). -/
def State.recordBack (s : State) (t : Task) : State :=
  let r := t.rope.val
  let k := s.ropeOf r
  if k.en then
    let b := k.back t.recAddr
    let n := b.settled (s.launching r)
    let u := s.putRope r n
    if n.st = .fault && b.st ≠ .fault then u.ropeFaultRecord r else u
  else
    let k := { k with inflight := k.inflight - 1 }
    if k.fetched.any (fun f => f.addr = t.recAddr) then
      let after := ((k.fetched.dropWhile (fun f => f.addr ≠ t.recAddr)).drop 1).map (·.addr)
      s.putRope r { k with
        head := t.recAddr, kept := (after ++ k.kept).eraseDups, fetched := k.fetched.takeWhile (fun f => f.addr ≠ t.recAddr) }
    else s.putRope r { k with kept := k.kept.filter (fun a => a ≠ t.recAddr) }

/-- LAUNCH_FAILURE: no team starts, the resources and the reservation come back, and the record or the task returns to its
rope, which faults with IMAGE (R35). -/
def State.launchFail (s : State) (t : Task) : State :=
  let s := (s.returnCredit t.id).freeTeams t
  if t.was = .loading then
    State.recordBack { s.freeLinks t.id with tasks := s.tasks.filter (fun u => u.id ≠ t.id) } t
  else
    let s := if t.was = .switched then s.freeLinks t.id else s
    (s.modTask t.id (fun u => { u with st := t.was })).ropeFault t.rope.val fIMAGE

/-! ## Gang start (R33) -/

/-- How a step of loading ends. -/
inductive Load where
  | done (s : State)
  | wait (s : State)
  | bad (s : State)

/-- Go on with the value of a read. -/
def SupRd.load (r : SupRd) (k : Nat → State → Load) : Load :=
  match r with
  | .ok v s => k v s
  | .wait s => .wait s
  | .bad s => .bad s

/-- Read n bytes at an offset of a task's image. -/
def State.imageRead (s : State) (t : Task) (core off n : Nat) : SupRd :=
  s.supRead (.task t.id) true core t.asid (some t.id) (t.image.toNat + off) n (n / 64 + 2)

/-- The texts of all teams. -/
def State.readTexts (s : State) (t : Task) (core : Nat) :
    List Nat → (List TeamText → State → Load) → Load
  | [], k => k [] s
  | te :: r, k =>
    (s.imageRead t core (teTextoff te) (32 * teNbun te)).load (fun v s =>
      State.readTexts s t core r (fun l s => k (⟨teLld te, (List.range (teNctx te)).map (teEntry te), teBundles (teNbun te) v⟩ :: l) s))

/-- Clear a range of a memory. -/
def Memory.clearRange (m : Memory) (lo n : Nat) : Memory := m.filter (fun e => decide (e.1 < lo) || decide (lo + n ≤ e.1))

/-- The windows of a team are all zero, with no poison and no side bits (R33). -/
def Core.zeroWindows (c : Core) (t : Team) : Core :=
  let c := (c.clearRange false (t.spadBase / 4) (t.spadSize / 4)).clearRange true (t.vaultBase / 4) (t.vaultSize / 4)
  let out (lo n g : Nat) : Bool := decide (g < lo / 8) || decide ((lo + n) / 8 ≤ g)
  { c with
    spad := c.spad.clearRange t.spadBase t.spadSize, vault := c.vault.clearRange t.vaultBase t.vaultSize
    spadPoison := c.spadPoison.filter (out t.spadBase t.spadSize)
    vaultPoison := c.vaultPoison.filter (out t.vaultBase t.vaultSize) }

/-- Copy the data chunks of an image into the windows of a team. -/
def State.loadChunks (s : State) (t : Task) (team : Team) : List Chunk → (State → Load) → Load
  | [], k => k s
  | c :: r, k =>
    (s.imageRead t team.core c.src c.len).load (fun v s =>
      State.loadChunks (s.modCore team.core (fun u =>
        u.setStore c.vault (Memory.wrN (u.store c.vault) (team.winBase c.vault + c.off) v c.len))) t team r k)

/-- LIMIT from the declared drain bound and the hub drain cap (R39). -/
def limitOf (cap : Nat) (pre : Bool) (drain : Nat) : BitVec 24 :=
  BitVec.ofNat 24 (if pre && (drain = 0 || decide (cap < drain)) then cap else drain)

/-- THROTTLE is raised for a task placed on an island, one of its placement's, with a pending announcement below its OPMIN (R160). -/
def State.placedThrottle (s : State) (t : Task) : Bool :=
  (List.range t.ncores).any (fun p =>
    let k := s.island (t.base + p)
    k.apend && decide (k.aop.toNat < s.opmin t.tcon.toNat))

/-- A context at gang start (R39, R53, R54). -/
def startCtx (cap : Nat) (t : Task) (te pos j entry drain : Nat) (pre compat throttle : Bool) : Ctx :=
  { Ctx.none with
    st := .ready, task := t.id, tctx := BitVec.ofNat 4 j
    s := ((((Vector.replicate 64 0).set 1 (BitVec.ofNat 64 (recArgs t.recd.toNat))).set 2 (BitVec.ofNat 64 j)).set 3
      (BitVec.ofNat 64 pos)).set 4 (BitVec.ofNat 64 (teSpadWin te))
    pc := BitVec.ofNat 64 entry, npc := BitVec.ofNat 64 (entry + 1), dbg := recDbg t.recd.toNat, compat := compat
    splim := BitVec.ofNat 64 (teSplim te), limit := limitOf cap pre drain, throttle := throttle }

/-- Every table of an image that a team's load reads. -/
structure ImgTabs where
  hdr : Nat
  te : Nat
  tes : List Nat
  /-- the text as it runs, and as the image holds it -/
  text : List (BitVec 256)
  orig : List (BitVec 256)
  chunks : Nat
  bgt : Nat
  fmt : Nat
  spl : Nat
  profile : Profile
  deriving DecidableEq, Repr

/-- Read and verify the image for the team at a position (R336). A rewritten text that finds too few bundles free beside the other teams
of its core waits for them (R1, DESIGN CHOICE, log 90). -/
def State.withImage (s : State) (t : Task) (core pos : Nat) (k : ImgTabs → State → Load) : Load :=
  (s.imageRead t core 0 128).load fun h s =>
  if hdrBad h (recShape t.recd.toNat) then .bad s
  else
    (s.imageRead t core (hdrTeamoff h) (64 * t.ncores)).load fun tt s =>
    let tes := (List.range t.ncores).map (piece tt 64)
    let te := tes.getD pos 0
    if tes.any (teBad h) then .bad s
    else
      (s.imageRead t core (teTextoff te) (32 * teNbun te)).load fun tx s =>
      (s.imageRead t core (teDataoff te) (16 * teNdata te)).load fun ch s =>
      (s.imageRead t core (teBgtoff te) (32 * teNbgt te)).load fun bg s =>
      (s.imageRead t core (hdrFmtoff h) (if hdrFmtoff h = 0 then 0 else 32)).load fun fm s =>
      (s.imageRead t core (hdrSploff h) (if hdrSploff h = 0 then 0 else 80 * hdrNspl h)).load fun sp s =>
      (s.imageRead t core (hdrVaroff h) (if hdrVaroff h = 0 then 0 else 32 * hdrNvar h)).load fun va s =>
      let text := teBundles (teNbun te) tx
      if chunksBad te ch || text.any (bundleBad te) || bightsBad te bg || formatsBad fm ||
          splicesBad (if hdrSploff h = 0 then 0 else hdrNspl h) sp || variantsBad (if hdrVaroff h = 0 then 0 else hdrNvar h) va then
        .bad s
      else
        s.readTexts t core (if hdrProf h = 4 then tes else []) fun l s =>
        let p := profileOf s.mgmt.p4Policy (hdrProf h) l
        let grown := if p = .rewritten then rewriteText text else text
        if p = .refused then .bad s
        else if 8192 < (((s.core core).teams.filter (fun u => u.task ≠ t.id)).map (·.nbun)).foldl (· + ·) 0 + grown.length then .wait s
        else k ⟨h, te, tes, grown, text, ch, bg, fm, sp, p⟩ s

/-- The bundles of a team in its instruction store. -/
def bundleMap (l : List (BitVec 256)) : SMap (BitVec 256) :=
  (l.zip (List.range l.length)).foldl (fun m p => SMap.set 0 m p.2 p.1) []

/-- The loaded team's text. -/
def Team.withText (t : Team) (text : List (BitVec 256)) : Team :=
  { t with bundles := bundleMap text, nbun := text.length, ipar := [], armed := true }

/-- Reset the engines that a team owns (R226, R266). -/
def Core.startEngines (c : Core) (te fmt : Nat) : Core :=
  { c with
    mtx := if teMtx te then { Mtx.none with ft := formatTable fmt } else c.mtx
    hal := if teHal te then Halyard.none else c.hal }

/-- Load a team at gang start: windows, chunks, bights, engines and contexts (R33, R54). -/
def State.armFresh (s : State) (t : Task) (team : Team) : Load :=
  s.withImage t team.core team.pos fun i s =>
  let s := s.modCore team.core (fun c => (c.zeroWindows team).startEngines i.te i.fmt)
  s.loadChunks t team (teChunks i.te i.chunks) fun s =>
  let entry (j : Nat) : Nat :=
    if i.profile = .rewritten then newIndex i.orig (teEntry i.te j) else teEntry i.te j
  let x0 := team.ctxNos.headD 0
  let s := (teBights i.te i.bgt).foldl (fun s p => s.enterMap x0 team.core t.id p.1 p.2 0) s
  let s := team.parts.foldl (fun s p => s.setPart (4 * team.core + p) Part.none) s
  let s := (team.ctxNos.zip (List.range team.nctx)).foldl (fun s p =>
    s.setCtx p.1 (startCtx s.mgmt.drainCap t i.te team.pos p.2 (entry p.2) (hdrDrain i.hdr) (s.ropeOf t.rope.val).pre
      (decide (i.profile = .interlocked)) (s.placedThrottle t))) s
  .done (s.modCore team.core (fun c => c.modTeam t.id (fun u => u.withText i.text)))

/-- Install the splices of an image; a number that maps to an identical body counts as installed (R287). -/
def State.installSplices (s : State) (asid : BitVec 16) (v : Nat) : Nat → Bool × State
  | 0 => (true, s)
  | n + 1 =>
    let r := State.installSplices s asid v n
    if !r.1 then r
    else
      let e := piece v 80 n
      let body := BitVec.ofNat 512 (bitsOf e 128 512)
      match r.2.rmapOf asid (e % 256) with
      | some k => if SMap.get 0 r.2.routines k = body then r else (false, r.2)
      | none =>
        let q := r.2.install asid (e % 256) body
        (q.1 = 0, q.2)

/-- Every team of a task is armed. -/
def State.allArmed (s : State) (t : Task) : Bool :=
  t.cores.all (fun c => match (s.core c).team? t.id with
    | some u => u.armed
    | none => false)

/-- The placement's cores take the write clocks of home slices of wait-knots (R139). -/
def State.acquireWaits (s : State) (t : Task) (slices : List Nat) : State :=
  slices.foldl (fun s k => (List.range t.ncores).foldl (fun s p => s.raisePts (t.base + p) (SMap.get 0 s.swc k)) s) s

/-- The acquires at the wait-knots i to 0 that no read has found, those with threshold 0 (R20, R139). A knot whose translation fails for
good has no home slice: nothing is acquired (DESIGN CHOICE, log 119). -/
def State.acquireOpen (t : Task) : Nat → State → Load
  | 0, s => .done s
  | i + 1, s =>
    let w := recWait t.recd.toNat i
    if w.2 ≠ 0 then State.acquireOpen t i s
    else
      let v := s.ropeView t.rope.val
      let k := v.2.ropeOf t.rope.val
      match v.2.hubAccess (.task t.id) 128 v.1.1 ((v.1.2.1 + 8 * w.1) % 2 ^ 64) false k.owner srcRope (lowCore k.mask) with
      | .ok pa a s => State.acquireOpen t i (s.acquireWaits t [homeSlice a pa])
      | .wait s => .wait s
      | .bad s => State.acquireOpen t i s

/-- Go on with a load that is done. -/
def Load.bind (r : Load) (f : State → Load) : Load :=
  match r with
  | .done s => f s
  | r => r

/-- A task whose teams are armed runs, or stops at once when a request asked for it while it was loading (R40, R373). -/
def State.begun (s : State) (t : Task) : State :=
  s.modTask t.id (fun u => { u with
    st := if u.supStop || s.preempt.any (fun p => p.victims.contains t.id) then .stopping else .running })

/-- When every team is armed, a first or variant start installs the image's splices, in its turn at
the monitor, and the contexts begin (R33, R287, R389). -/
def State.beginTask (s : State) (t : Task) : Load :=
  if !s.allArmed t then .done s
  else if t.was = .saved then
    .done { s.begun t with saves := s.saves.filter (fun v => v.task ≠ t.id) }
  else
    (s.acquireOpen t (recNwait t.recd.toNat)).bind fun s =>
    (s.imageRead t t.base 0 128).load fun h s =>
    (s.imageRead t t.base (hdrSploff h) (if hdrSploff h = 0 then 0 else 80 * hdrNspl h)).load fun v s =>
    let n := if hdrSploff h = 0 then 0 else hdrNspl h
    let mine := s.mon.queue.head? = some (.launch t.id)
    if n ≠ 0 && (s.reqBusy || (!s.mon.queue.isEmpty && !mine)) then
      .wait (if s.mon.queue.contains (.launch t.id) then s else s.monPut (.launch t.id))
    else
    let r := (if mine then s.monTake else s).installSplices t.asid v n
    if r.1 then .done (r.2.begun t) else .bad r.2

/-- LAUNCH_FAILURE: a team that cannot be loaded ends the launch (R35). -/
def execLaunchFailure (task pos : Nat) (s : State) : Out :=
  .next (match s.task? task with
    | some t => if t.st = .loading && decide (pos < t.ncores) then s.launchFail t else s
    | none => s)

end Sys2Proof.Machine
end

