-- ==== Sys2Proof/Machine/Retire.lean ====
section
/-! DEFINITION. The end of a task: retirement with its signals and log, termination, and the variant switch (R22, R40, R41, R45,
R153, R157, R164, R375, R376). -/

namespace Sys2Proof.Machine

/-! ## What a team still has to do -/

/-- The context counts as stopped (R40, R283). -/
def Ctx.atStop (c : Ctx) : Bool := c.st = .stopped || c.st = .ended || (c.st = .stalled && c.bar.isSome && c.barDrain)

/-- Contexts of a task on some cores. -/
def State.ctxsOn (s : State) (task : Nat) (cores : List Nat) : List CtxNo :=
  cores.flatMap (fun c => match (s.core c).team? task with
    | some t => t.ctxNos
    | none => [])

/-- Every context of a task on some cores satisfies a test. -/
def State.allCtxs (s : State) (task : Nat) (cores : List Nat) (p : Ctx → Bool) : Bool :=
  (s.ctxsOn task cores).all (fun x => p (s.ctx x))

/-- A halyard that waits for a credit or for room in its queue has nothing left to complete (log 29). -/
def Halyard.busy (h : Halyard) : Bool := h.st = .stopping || (h.st = .run && decide (h.cq.length < 8)) || !h.sent.isEmpty

/-- The copy, halyard, matrix and link commands of a task on a core have completed, and its queued stores have performed
(R22). -/
def State.commandsDone (s : State) (task core : Nat) : Bool :=
  match (s.core core).team? task with
  | none => true
  | some t =>
    let c := s.core core
    (c.eng0 ++ c.eng1).all (fun k => k.task ≠ task || k.st = .ended) && (!t.hal || !c.hal.busy) &&
      (!t.mtx || c.mtx.cmds.isEmpty) && t.ctxNos.all (fun x => (s.ctx x).stq.isEmpty) &&
      s.links.all (fun q => q.2.tx.all (fun f => !t.ctxNos.contains f.1))

/-- A global operation of a task on a core has not performed. -/
def State.opsLeft (s : State) (task core : Nat) : Bool := s.ops.any (fun o => o.task = task && o.core = core)

/-- Unmap the entries of a team that have no fill in flight (R22, R164). -/
def State.unmapTeam (s : State) (core task : Nat) : State :=
  match (s.core core).team? task with
  | none => s
  | some t => t.bights.foldl (fun s e =>
      if e.2.v && !s.filling core task e.1 then s.unmapEntry (t.ctxNos.headD 0) core task e.1 0 else s) s

/-- Some entry of a team is mapped. -/
def State.mapped (s : State) (core task : Nat) : Bool :=
  match (s.core core).team? task with
  | some t => t.bights.any (fun e => e.2.v)
  | none => false

/-- One step of unmapping a task on its cores: the state, and whether everything has performed at SYSTEM scope. -/
def State.windDown (s : State) (t : Task) : Bool × State :=
  let s := t.cores.foldl (fun s c => s.unmapTeam c t.id) s
  (t.cores.all (fun c => !s.mapped c t.id && !s.opsLeft t.id c), s)

/-! ## Retirement (R22, R45, R376) -/

/-- A pair's unread flits are discarded; their credits go back to the peer (R44, R45). -/
def State.discardFlits (s : State) (p : Nat) : State :=
  let q := s.link p
  let s := s.setLink p { q with rx := q.rx.filter Option.isNone }
  q.flits.foldl (fun s _ => s.send (.credit (p / 4) (p % 4))) s

/-- Discard the unread flits of a task's pairs: their number, and the state. -/
def State.discardAll (s : State) (task : Nat) : Nat × State :=
  (List.range 32).foldl (fun (r : Nat × State) p =>
    if (r.2.link p).owner = some task then (r.1 + (r.2.link p).flits.length, r.2.discardFlits p) else r) (0, s)

/-- Append to the retirement log of a rope, which keeps the last 16 entries (R376). -/
def State.logRetired (s : State) (r : Nat) (e : RetEnt) : State :=
  let l := SMap.get [] s.retlog r ++ [e]
  { s with retlog := SMap.set [] s.retlog r (l.drop (l.length - 16)) }

/-- A task leaves: its rope's counts, its log entry, its links; `sigs` are still to be signalled (R22, R45, R376). The model writes
INFLIGHT and RETIRED also when the rope is OFF; R13 says only that they are written while the rope is enabled (DESIGN CHOICE,
log 94). -/
def State.leaveTask (s : State) (t : Task) (status tclass : BitVec 8) (sigs : List Nat) : State :=
  let d := s.discardAll t.id
  let r := t.rope.val
  let k := d.2.ropeOf r
  let s := d.2.putRope r { k with inflight := k.inflight - 1, retired := k.retired + 1 }
  let s := s.logRetired r
    { recAddr := t.recAddr, joule := t.joule, status := status, tclass := tclass
      dflits := BitVec.ofNat 16 (min (t.dflits + d.1) 65535), rseq := k.retired + 1 }
  let s := (s.freeLinks t.id).forgetTask t.id
  let s := s.withdrawIf (fun p => p.victims.contains t.id)
  let s := s.settleRope r
  s.modTask t.id (fun t => { t with st := .retired, sigs := sigs })

/-- Signal one knot for a retired task: a non-returning atomic add of 1 at its home (R22). A knot on a LEASE page or in a hawser window,
and poison, fault the rope with RECORD (R16, R19); a permanent translation fault drops the signal (log 28). -/
def State.signal (s : State) (t : Task) (i : Nat) : Bool × State :=
  let r := t.rope.val
  let v := s.ropeView r
  let k := v.2.ropeOf r
  match v.2.hubAccess (.task t.id) 128 v.1.1 ((v.1.2.1 + 8 * i) % 2 ^ 64) true k.owner srcRope (lowCore k.mask) with
  | .wait s => (false, s)
  | .bad s => (true, s)
  | .ok pa a s =>
    let w := s.readHome { whoRope with first := false } a pa 8
    if a.lease || paHawser pa || w.2.physBad pa 8 then (true, w.2.ropeFault r fRECORD)
    else (true, w.2.writeHome whoRope none a pa [⟨pa, 8, (w.1 + 1) % 2 ^ 64⟩])

/-- Send the signals of a retired task in their order, then forget the task. -/
def State.signalTask (s : State) (t : Task) : State :=
  match t.sigs with
  | [] => { s with tasks := s.tasks.filter (fun u => u.id ≠ t.id) }
  | i :: rest =>
    let a := s.signal t i
    if !a.1 then a.2
    else
      match rest with
      | [] => { a.2 with tasks := a.2.tasks.filter (fun u => u.id ≠ t.id) }
      | j :: _ =>
        let b := a.2.signal t j
        if b.1 then { b.2 with tasks := b.2.tasks.filter (fun u => u.id ≠ t.id) }
        else b.2.modTask t.id (fun u => { u with sigs := rest })

/-- The knots that a record signals (R22). -/
def recSigs (n : Nat) : List Nat := (List.range (min (recNsig n) 2)).map (recSig n)

/-- One step of a task's retirement: every context ended, every command completed, bights flushed and unmapped and stores
performed; then it leaves (R22). -/
def State.retireStep (s : State) (t : Task) : State :=
  if t.st = .retired then s.signalTask t
  else if (t.st = .running || t.st = .stopping) && s.allCtxs t.id t.cores (fun c => c.st = .ended) &&
      t.cores.all (s.commandsDone t.id) then
    let w := s.windDown t
    if w.1 then
      let s := ((w.2.returnCredit t.id).freeTeams t).leaveTask t 0 0 (recSigs t.recd.toNat)
      match s.task? t.id with
      | some u => s.signalTask u
      | none => s
    else w.2
  else s

/-- TASK_RETIRE (R22). -/
def execTaskRetire (task : Nat) (s : State) : Out :=
  .next (match s.task? task with
    | some t => s.retireStep t
    | none => s)

/-! ## Termination (R375) -/

/-- Drop everything of a task on a core without draining it; a send that has taken its credit goes on (R270, R375). -/
def State.dropTeam (s : State) (core task : Nat) : State :=
  State.freeTeam { s with ops := s.ops.filter (fun o => !(o.task = task && o.core = core)) } core task

/-- Terminate a task on some of its cores; once no core is left its credit is back and it leaves (R373, R375, R376). -/
def State.terminate (s : State) (t : Task) (cores : List Nat) (tclass : BitVec 8) : State :=
  let s := cores.foldl (fun s c => s.dropTeam c t.id) s
  let s := s.modTask t.id (fun u => { u with doneParts := (u.doneParts ++ (cores.filter (t.cores.contains ·))).eraseDups })
  match s.task? t.id with
  | none => s
  | some u =>
    if u.cores.all (fun c => u.doneParts.contains c) then
      let s := (s.returnCredit t.id).leaveTask u 1 tclass []
      { s with tasks := s.tasks.filter (fun v => v.id ≠ t.id), saves := s.saves.filter (fun v => v.task ≠ t.id) }
    else s

/-! ## The variant switch (R164) -/

/-- The entry that a switch request names, as the task then runs: an empty or unreadable entry gives the record's own image,
class and contract. -/
def switchTo (t : Task) (j e : Nat) : Task :=
  if bitsOf e 0 64 = 0 then
    { t with st := .switching, image := BitVec.ofNat 64 (recImage t.recd.toNat), eclass := BitVec.ofNat 4 (recEclass t.recd.toNat)
             tcon := BitVec.ofNat 4 (recTcon t.recd.toNat), variant := 0 }
  else
    { t with st := .switching, image := BitVec.ofNat 64 (bitsOf e 0 64), eclass := BitVec.ofNat 4 (bitsOf e 64 4)
             tcon := BitVec.ofNat 4 (bitsOf e 68 4), variant := j }

/-- Stop a team's halyard as hy.stop does (R269). -/
def State.stopHal (s : State) (core : Nat) : State :=
  s.modHal core (fun h => if h.st.active then { h with st := .stopping, saved := some h.st } else h)

/-- One step of a switch: when every context has stopped the entry is read; then stores, write-backs and commands complete,
the credit returns, the resources are freed and the variant waits on its rope (R153, R164). -/
def State.switchStep (s : State) (t : Task) : State :=
  match t.sw with
  | none => s
  | some j =>
    if t.st = .running || t.st = .stopping then
      if s.allCtxs t.id t.cores Ctx.atStop && !s.allCtxs t.id t.cores (fun c => c.st = .ended) then
        let v := s.ropeView t.rope.val
        match v.2.ropeRead (.task t.id) t.rope.val v.1.1 (v.1.2.2 + 16 * j) 16 with
        | .wait s => s
        | .bad s => s.modTask t.id (fun t => switchTo t j 0)
        | .ok e _ _ s => s.modTask t.id (fun t => switchTo t j e)
      else s
    else if t.st = .switching then
      let s := t.cores.foldl (fun s c => match (s.core c).team? t.id with
        | some u => if u.hal then s.stopHal c else s
        | none => s) s
      if t.cores.all (s.commandsDone t.id) then
        let w := s.windDown t
        if w.1 then
          let s := ((w.2.returnCredit t.id).freeTeams t).freeLinks t.id
          s.modTask t.id (fun t => { t with st := .switched, sw := none, supStop := false })
        else w.2
      else s
    else s

/-- VARIANT_SWITCH (R164). -/
def execVariantSwitch (task : Nat) (s : State) : Out :=
  .next (match s.task? task with
    | some t => s.switchStep t
    | none => s)

end Sys2Proof.Machine
end

