-- ==== Sys2Proof/Machine/SaveArea.lean ====
section
/-! DEFINITION. The bytes of a save area: context blocks, pipeline and landing entries, and the team block (R377 to R379). -/

namespace Sys2Proof.Machine

/-! ## Words whose place the spec states, and others (R379, R383) -/

/-- A word of a state space: stated, or one of the words in which contents stand whose arrangement the spec does not state (log 30). -/
inductive RdWord where
  | is (v : Word)
  | laid (l : List Nat)
  deriving DecidableEq, Repr

/-- Word w of a structure of n words. -/
def RdWord.of (v n w : Nat) : RdWord := if w < n then .is (BitVec.ofNat 64 (bitsOf v (64 * w) 64)) else .is 0

/-- Word w of contents in an open arrangement, which have as many words as values (DESIGN CHOICE, log 30). -/
def RdWord.list (l : List Nat) (w : Nat) : RdWord := if w < l.length then .laid l else .is 0

/-- The stated words of a structure, then contents in an open arrangement. -/
def RdWord.then_ (v n : Nat) (l : List Nat) (w : Nat) : RdWord := if w < n then .of v n w else .list l (w - n)

/-- The 64-bit words of a number. -/
def numWords (v n : Nat) : List Nat := (List.range n).map (fun i => bitsOf v (64 * i) 64)

/-! ## Contexts (R379) -/

/-- KIND of an image entry. No kind stands for an operation that has not performed and is issued again as not issued (R276): it is
written as kind 2, the access to issue again (DESIGN CHOICE, log 99). -/
def Flight.entryKind (f : Flight) (user : Bool) : Nat :=
  match f.src with
  | .none => if user then 6 else if f.buf then 3 else 1
  | .mem .. => if user then 7 else 2
  | .merge .. => 4
  | .vacc .. => 5
  | .hub _ => if f.value.isSome then 3 else 2
  | .wout _ _ => if f.value.isSome then 3 else 2

/-- The slot word that issued an access or a VACC, from the team's text. -/
def State.slotWord (s : State) (x : CtxNo) (f : Flight) : BitVec 32 :=
  match s.teamOf x with
  | none => 0
  | some t =>
    let b := SMap.get 0 t.bundles f.orig.toNat
    match f.src with
    | .vacc .. => ((List.range 6).map (bundlePart b)).find? (fun w => fld w 25 7 = 0x3C) |>.getD 0
    | .none => 0
    | _ => bundlePart b 5

/-- ADDR and AUX of an entry: own-window addresses as the program gave them, braid-window and vault addresses by R96. -/
def State.entryAddr (s : State) (x : CtxNo) (f : Flight) : Nat × Nat :=
  match f.src with
  | .mem _ _ _ es _ => match es with
    | e :: _ => (s.progAddr x e, 0)
    | [] => (0, 0)
  | .merge _ e d _ => (s.progAddr x e, d.toNat)
  | .vacc _ row _ _ => (0, row)
  | .hub op => (((s.op? op).map (·.va)).getD 0, 0)
  | .wout op _ => (((s.op? op).map (·.va)).getD 0, 0)
  | .none => (0, 0)

/-- The 160 bytes of an image entry. -/
def State.entryWord (s : State) (x : CtxNo) (e : Flight × Nat × Bool) : Nat :=
  let f := e.1
  let k := f.entryKind e.2.2
  let a := s.entryAddr x f
  k + f.dst.code * 2 ^ 8 + f.lanes.toNat * 2 ^ 32 + e.2.1 % 2 ^ 16 * 2 ^ 64 + f.flags.toNat * 2 ^ 80 +
    (if k = 2 || k = 4 || k = 5 || k = 7 then (s.slotWord x f).toNat else 0) * 2 ^ 96 + a.1 % 2 ^ 64 * 2 ^ 128 +
    a.2 % 2 ^ 64 * 2 ^ 192 + (if k = 1 || k = 3 || k = 6 then (f.value.getD 0).toNat else 0) * 2 ^ 256

/-- A queued sub-word store that waits on a fill, as the merge store that is issued again (R107, R378). -/
def PendStore.merges (p : PendStore) : List Flight :=
  p.elems.map (fun e =>
    { id := p.id, due := 0, dst := .none, lanes := 0, value := none, flags := 0, buf := true
      src := .merge p.n ⟨0, e.1, e.2.1, e.2.2.1, none, [], false⟩ e.2.2.2 p.after, lock := false, orig := p.orig })

/-- Pipeline entries, then landing entries, each with REM and whether it is held at user-trap entry. -/
def State.entries (s : State) (x : CtxNo) : List (Flight × Nat × Bool) :=
  let c := s.ctx x
  let t := (s.part (ctxPartNo x)).pcyc
  let l := c.flight.map (fun f => (f, f.due - t, false)) ++ c.held.map (fun f => (f, f.due, false)) ++
    c.heldU.map (fun f => (f, f.due, true)) ++
    ((c.stq.filter (fun p => p.elems.any (s.storeFill p))).flatMap PendStore.merges).map (fun f => (f, 0, false))
  l.filter (fun e => !e.1.buf) ++ l.filter (fun e => e.1.buf)

/-- The barrier arrival and generation: bit 0 waiting, bit 1 arrival counted, [7:4] the generation's mask. The fields' places in the
word are the model's (DESIGN CHOICE, log 99). -/
def Ctx.barWord (c : Ctx) : Word :=
  match c.bar with
  | some (m, counted, _) => BitVec.ofNat 64 (1 + b2n counted * 2 + m.toNat * 2 ^ 4)
  | .none => 0

/-- The partition's RUNNING slot: the slot of its running context. Where no context runs, as in a drain save, the spec does not say which
slot is meant: the model takes the one that last held the issue slot (DESIGN CHOICE, log 118). -/
def State.runningSlot (s : State) (q : Nat) : Nat :=
  match (List.range 4).find? (fun k => (s.ctx (ctxOf (4 * q + k))).st = .running) with
  | some k => k
  | none => (s.part q).ran.toNat

/-- NPIPE and NLAND at 0x2628, the partition's RUNNING slot at 0x262C (R379). The two counts share 4 bytes: 16 bits each (DESIGN
CHOICE, log 99). -/
def State.countsWord (s : State) (x : CtxNo) : Word :=
  let l := s.entries x
  BitVec.ofNat 64 ((l.filter (fun e => !e.1.buf)).length + (l.filter (fun e => e.1.buf)).length * 2 ^ 16 +
    s.runningSlot (ctxPartNo x) * 2 ^ 32)

/-- Word of a list, 0 beyond it. -/
def listWord (l : List Word) (i : Nat) : RdWord := .is (l.getD i 0)

/-- Word w of a context block (R379). -/
def State.ctxWord (s : State) (x : CtxNo) (w : Nat) : RdWord :=
  let c := s.ctx x
  if w < 0x40 then .is (c.rs (BitVec.ofNat 6 w))
  else if w < 0x440 then .of (c.v.getD ((w - 0x40) / 16) 0).toNat 16 ((w - 0x40) % 16)
  else if w < 0x480 then
    let i := 2 * (w - 0x440)
    .is (BitVec.ofNat 64 ((c.rpPhys (Fin.ofNat 128 i)).toNat + (c.rpPhys (Fin.ofNat 128 (i + 1))).toNat * 2 ^ 32))
  else if w < 0x488 then .is ((c.b.getD (w - 0x480) 0).setWidth 64)
  else if w < 0x496 then .is (sregOf x c (s.part (ctxPartNo x)).pcyc (BitVec.ofNat 8 (w - 0x488)))
  else if w = 0x496 then .is c.upc
  else if w = 0x497 then .is c.unpc
  else if w = 0x498 then .is (BitVec.ofNat 64 (b2n c.ubp))
  else if w < 0x4A1 then .is (c.m.getD (w - 0x499) 0)
  else if w = 0x4A1 then .is (s.mstatAt x)
  else if w = 0x4A2 then .is c.ccount
  else if w = 0x4A3 then .is (BitVec.ofNat 64 (c.tag[0].toNat + c.tag[1].toNat * 2 ^ 16))
  else if w < 0x4AC then listWord c.cq[0] (w - 0x4A4)
  else if w < 0x4B4 then listWord c.cq[1] (w - 0x4AC)
  else if w = 0x4B4 then .is c.barWord
  else if w < 0x4C5 then
    match c.deferred[(w - 0x4B5) / 4]? with
    | some d => .of (s.trapRec x ⟨d.cls, d.cause, 4, d.faddr⟩ (some d.orig)).word 4 ((w - 0x4B5) % 4)
    | .none => .is 0
  else if w = 0x4C5 then .is (s.countsWord x)
  else if w < 0x500 then .is 0
  else if w < 0x500 + 20 * 128 then
    match (s.entries x)[(w - 0x500) / 20]? with
    | some e => .of (s.entryWord x e) 20 ((w - 0x500) % 20)
    | .none => .is 0
  else .is 0

/-! ## Blocks of words in memory -/

/-- The listed bytes of the low n bytes of a number at address a: those that are not 0. -/
def numCells (a v : Nat) : Nat → Memory
  | 0 => []
  | n + 1 => (if v % 256 = 0 then [] else [(a, BitVec.ofNat 8 v)]) ++ numCells (a + 1) (v / 256) n

/-- The listed bytes of 64-bit words from address a on. -/
def wordCells (a : Nat) : List Word → Memory
  | [] => []
  | w :: r => numCells a w.toNat 8 ++ wordCells (a + 8) r

/-- Write a list of 64-bit words from address a on, little-endian (R5). -/
def Memory.putWords (m : Memory) (a : Nat) (l : List Word) : Memory :=
  m.filter (fun e => decide (e.1 < a)) ++ wordCells a l ++ m.filter (fun e => decide (a + 8 * l.length ≤ e.1))

/-- The window [lo, lo + n) of a memory, from 0 on. -/
def Memory.window (m : Memory) (lo n : Nat) : Memory :=
  (m.filter (fun e => decide (lo ≤ e.1) && decide (e.1 < lo + n))).map (fun e => (e.1 - lo, e.2))

/-- Write a window back at a base. -/
def Memory.putWindow (m : Memory) (lo : Nat) (w : Memory) : Memory := w.foldl (fun m e => Memory.wr m (lo + e.1) e.2) m

/-! ## The team block (R377) -/

/-- Bytes of a team block. -/
def saveBytes (u : Team) (cmds : Nat) : Nat := 0xC6000 + u.spadSize + u.vaultSize + 80 * cmds

/-- A bight entry in the layout of R103. -/
def Bight.entryWord (b : Bight) : Nat :=
  b.vbase.toNat + b.stride.toNat * 2 ^ 64 + b.count.toNat * 2 ^ 96 + b.elem.toNat * 2 ^ 120 + b.loff.toNat * 2 ^ 136 +
    b2n b.space * 2 ^ 160 + b2n b.wr * 2 ^ 161 + b2n b.pf * 2 ^ 162 + b2n b.v * 2 ^ 163 + b.lt.toNat * 2 ^ 164

/-- An entry-table entry in the layout of R228. -/
def MEnt.entryWord (e : MEnt) : Nat := b2n e.v + e.idx.toNat * 2 + e.endx.toNat * 2 ^ 10 + e.wset.toNat * 2 ^ 19

/-- The header's words: the magic; FROZEN, at bit 8 of the second half since the magic fills the first; then NCTX, position, source
core, MTX and HAL, a byte each; then the core's pts. R377 names the fields and not these places (DESIGN CHOICE, log 99). -/
def headFields (u : Team) (frozen : Bool) (pts : BitVec 32) : List Nat :=
  [0x56454153 + b2n frozen * 2 ^ 40,
    u.nctx + u.pos * 2 ^ 8 + u.core * 2 ^ 16 + b2n u.mtx * 2 ^ 24 + b2n u.hal * 2 ^ 32, pts.toNat]

/-- The halyard's words in the order of R377, one each, then the completion words (DESIGN CHOICE, log 99). -/
def Halyard.fields (h : Halyard) : List Nat :=
  [h.unstopped.code, h.cr.toNat, h.hbase.toNat, h.blk.toNat, h.ridx.toNat, h.fst.toNat] ++ (h.cq.map (·.toNat)).take 8

/-- Word w of the first 4 KiB of a block (R377). -/
def headWord (u : Team) (frozen : Bool) (c : Core) (neng w : Nat) : Word :=
  if w < 0x8 then BitVec.ofNat 64 ((headFields u frozen c.pts).getD w 0)
  else if w < 0x108 then
    BitVec.ofNat 64 (bitsOf (SMap.get Bight.none u.bights ((w - 0x8) / 4)).entryWord (64 * ((w - 0x8) % 4)) 64)
  else if w < 0x118 then BitVec.ofNat 64 (if u.hal then c.hal.fields.getD (w - 0x108) 0 else 0)
  else if w = 0x118 then BitVec.ofNat 64 neng
  else 0

/-- Four halves or two words of a map as one 64-bit word. -/
def mapWord (f : Nat → Nat) (i n width : Nat) : Word :=
  BitVec.ofNat 64 ((List.range n).foldl (fun a k => a + f (n * i + k) * 2 ^ (width * k)) 0)

/-- State and format pair of a bank: the state in [1:0], the formats in [12:8] and [20:16] (DESIGN CHOICE, log 99). -/
def Bank.word (b : Bank) : Word :=
  let st := match b.st with
    | .empty => 0
    | .loading .. => 1
    | .loaded => 2
  BitVec.ofNat 64 (st + b.af.toNat * 2 ^ 8 + b.bf.toNat * 2 ^ 16)

/-- Word w of the matrix parts, from the tiles on (R377). A bank that is EMPTY has no data: its bytes are free. -/
def Mtx.blockWord (m : Mtx) (w : Nat) (free : Nat → Word) : Word :=
  let bank (b : Bank) (i : Nat) : Word := if b.st = .empty then free w else BitVec.ofNat 64 (Memory.rdN b.data (8 * i) 8)
  if w < 0x6000 then mapWord (fun k => (SMap.get (0 : BitVec 32) m.acc k).toNat) w 2 32
  else if w < 0x6004 then mapWord (fun k => (SMap.get (0 : BitVec 10) m.ft k).toNat) (w - 0x6000) 4 16
  else if w < 0x6024 then mapWord (fun k => (SMap.get MEnt.none m.ent k).entryWord) (w - 0x6004) 2 32
  else if w < 0x6040 then 0
  else if w < 0x6240 then SMap.get 0 m.rs (w - 0x6040)
  else if w < 0x75C0 then bank m.bank0 (w - 0x6240)
  else if w < 0x8940 then bank m.bank1 (w - 0x75C0)
  else if w = 0x8940 then m.bank0.word
  else m.bank1.word

/-- Word w of a context's block; an open word is free. -/
def State.blockWord (s : State) (x : CtxNo) (free : Nat → Word) (w : Nat) : Word :=
  match s.ctxWord x w with
  | .is v => v
  | .laid _ => free w

/-- The 80 bytes of an engine-image record: the command's block; tag, engine, STATE and place in the queue; PROG. The places of the
fields after the block are the model's (DESIGN CHOICE, log 99). -/
def recordWords (e i : Nat) (k : CopyCmd) : List Word :=
  (List.range 8).map (fun w => BitVec.ofNat 64 (bitsOf k.blk.toNat (64 * w) 64)) ++
    [BitVec.ofNat 64 (k.tag.toNat + e * 2 ^ 16 + k.st.code * 2 ^ 24 + i * 2 ^ 32), BitVec.ofNat 64 k.prog]

/-- The records of the engine image, one after another. -/
def imageWords (l : List (Nat × CopyCmd)) : List Word := l.zipIdx.flatMap (fun p => recordWords p.1.1 p.2 p.1.2)

/-- A context's block: its registers, then its pipeline and landing entries (R379). -/
def State.putContext (s : State) (m : Memory) (a : Nat) (x : CtxNo) (free : Nat → Word) : Memory :=
  let m := m.putWords a ((List.range 0x4C6).map (s.blockWord x free))
  m.putWords (a + 0x2800) ((List.range (20 * (s.entries x).length)).map (fun w => s.blockWord x free (0x500 + w)))

/-- The contexts' blocks, in TCTX order. -/
def State.putContexts (s : State) (m : Memory) (a : Nat) (free : Nat → Word) : List CtxNo → Memory
  | [] => m
  | x :: r => State.putContexts s (s.putContext m a x (fun w => free (a + 8 * w))) (a + 0x8000) free r

/-- The bytes of a team's block at an address (R377). Parts that a save does not write keep their bytes. -/
def State.putBlock (s : State) (m : Memory) (a : Nat) (u : Team) (frozen : Bool) (cmds : List (Nat × CopyCmd)) : Memory :=
  let free (p : Nat) : Word := Config.saveWord p s.freeCtr
  let c := s.core u.core
  let m := m.putWords a ((List.range 0x200).map (headWord u frozen c cmds.length))
  let m := if u.mtx then
      m.putWords (a + 0x1000) ((List.range 0x8942).map (fun w => c.mtx.blockWord w (fun w => free (a + 0x1000 + 8 * w))))
    else m
  let m := s.putContexts m (a + 0x46000) free u.ctxNos
  let spad := a + 0xC6000
  let vault := spad + u.spadSize
  let m := (m.clearRange spad (u.spadSize + u.vaultSize)).putWindow spad (c.spad.window u.spadBase u.spadSize)
  let m := m.putWindow vault (c.vault.window u.vaultBase u.vaultSize)
  m.putWords (vault + u.vaultSize) (imageWords cmds)

/-- The page of an area: the one a command named, or one that firmware picks for a save of its own (R382, log 44). -/
def areaPage (page : Nat) : Nat :=
  if page < 2 ^ 32 then page else Config.saveArea page % (dramSize / 4096 - 8192)

/-- Debit the lines of a range that a supervisor moves for a task (R155). -/
def State.debitLines (s : State) (pa core task : Nat) : Nat → State
  | 0 => s
  | n + 1 => State.debitLines (s.dramAccess (s.hostAttr pa) pa core (some task)) (pa + 64) core task n

/-- A memory in which the ASID table keeps the bytes that it has in DRAM: only the monitor writes them (R391). -/
def State.keepTable (s : State) (m : Memory) : Memory :=
  match s.mon.table with
  | none => m
  | some t => (m.clearRange t asidTableSize).putWindow t (s.dram.window t asidTableSize)

/-- Write a team's block to its area, whose pages the monitor keeps from then on (R377, R391). -/
def State.writeBlock (s : State) (task : Nat) (u : Team) (page : Nat) (frozen : Bool) (cmds : List (Nat × CopyCmd)) : State :=
  let bytes := saveBytes u cmds.length
  let a := 4096 * areaPage page
  let ps := (List.range ((bytes + 4095) / 4096)).map (areaPage page + ·)
  State.debitLines { s with
    dram := s.keepTable (s.putBlock s.dram a u frozen cmds), freeCtr := s.freeCtr + 1
    poison := s.poison.filter (fun g => decide (8 * g < a) || decide (a + bytes ≤ 8 * g))
    mon := { s.mon with saveAreas := s.mon.saveAreas.filter (fun p => !ps.contains p) ++ ps } } a u.core task ((bytes + 63) / 64)

end Sys2Proof.Machine
end

