-- ==== Sys2Proof/Machine/Save.lean ====
section
/-! DEFINITION. Saves and restores of teams: drain saves, frozen saves, the pre-emption stop, RESTORE, and the arming of a team
(R33, R40 to R42, R145, R247, R276, R374, R377 to R382). -/

namespace Sys2Proof.Machine

/-! ## Places that do not depend on the placement (R379) -/

/-- Base of a window of the task's team at a position, resident or saved. -/
def State.baseAt (s : State) (t : Task) (pos : Nat) (vault : Bool) : Nat :=
  match (s.core (t.base + pos)).team? t.id with
  | some u => u.winBase vault
  | none =>
    match s.saves.find? (fun v => v.task = t.id && v.pos = pos) with
    | some v => v.team.winBase vault
    | none => 0

/-- A byte of a store as (position, window offset). -/
def State.relLoc (s : State) (t : Task) (core : Nat) (vault : Bool) (off : Nat) : Nat × Nat :=
  (core - t.base, off - s.baseAt t (core - t.base) vault)

/-- A (position, window offset) as a byte of a store. -/
def State.absLoc (s : State) (t : Task) (pos : Nat) (vault : Bool) (off : Nat) : Nat × Nat :=
  (t.base + pos, off + s.baseAt t pos vault)

/-- Move the places that a result names; `here` is the place of its own core. -/
def Flight.move (f : Nat → Bool → Nat → Nat × Nat) (here : Nat) (r : Flight) : Flight :=
  let el (e : Elem) : Elem :=
    { e with core := (f e.core e.vault e.off).1, off := (f e.core e.vault e.off).2
             raw := e.raw.map (fun w => (f e.core e.vault (4 * w)).2 / 4) }
  match r.src with
  | .mem n x b es a => { r with src := .mem n x b (es.map el) a }
  | .merge n e d a => { r with src := .merge n (el e) d a }
  | .wout op off => { r with src := .wout op (f here false off).2 }
  | _ => r

/-- Move the places that a queued store names. -/
def PendStore.move (f : Nat → Bool → Nat → Nat × Nat) (here : Nat) (p : PendStore) : PendStore :=
  { p with
    elems := p.elems.map (fun e => ((f e.1 e.2.1 e.2.2.1).1, e.2.1, (f e.1 e.2.1 e.2.2.1).2, e.2.2.2))
    flushed := p.flushed.map (fun w => (w.1, (f here w.1 (4 * w.2)).2 / 4))
    raw := p.raw.map (fun w => (w.1, (f here w.1 (4 * w.2)).2 / 4)) }

/-- Move every place that a context names. -/
def Ctx.move (f : Nat → Bool → Nat → Nat × Nat) (here : Nat) (c : Ctx) : Ctx :=
  { c.mapFlights (Flight.move f here) with stq := c.stq.map (PendStore.move f here) }

/-- A result as the landing image holds it: a load or an accumulator read that has not landed is issued again, unless a fault
has ended it. An accumulator read arrives REM cycles after `t`, the cycle that its REM counts from (R222, R378, R380, R381). -/
def Flight.again (t : Nat) (f : Flight) : Flight :=
  match f.src with
  | .mem n x b es a =>
    if f.value.isSome && es.any (fun e => e.val.isNone) then f
    else { f with value := none, src := .mem n x b (es.map (fun e => { e with val := none })) a }
  | .vacc tile row cb _ => { f with value := none, src := .vacc tile row cb (t + f.due) }
  | _ => f

/-- The results of a context saved at partition cycle t, to be issued again from there (R378, R380). -/
def Ctx.again (c : Ctx) (t : Nat) : Ctx :=
  { c with flight := c.flight.map (Flight.again 0), held := c.held.map (Flight.again t), heldU := c.heldU.map (Flight.again t) }

/-! ## When a team can be saved -/

/-- The partition of a context is frozen (R61). -/
def State.frozenCtx (s : State) (x : CtxNo) : Bool := (s.part (ctxPartNo x)).frozen

/-- A context that a frozen save may take: stopped, TRAPPED, or in a frozen partition (R378). -/
def State.heldStill (s : State) (x : CtxNo) : Bool := (s.ctx x).atStop || (s.ctx x).st = .trapped || s.frozenCtx x

/-- Commands of a task in the copy engines of a core that have not ended. -/
def State.liveCmds (s : State) (core task : Nat) : List CopyCmd :=
  ((s.core core).eng0 ++ (s.core core).eng1).filter (fun k => k.task = task && k.st ≠ .ended)

/-- Every context of the team has stopped, no partition is frozen, its halyard is stopped, and no command is left (R377). -/
def State.drained (s : State) (u : Team) : Bool :=
  let c := s.core u.core
  u.ctxNos.all (fun x => (s.ctx x).atStop && !s.frozenCtx x) && (s.liveCmds u.core u.task).isEmpty &&
    (!u.hal || (!c.hal.st.active && c.hal.st ≠ .stopping)) && (!u.mtx || c.mtx.cmds.isEmpty)

/-- Every context may be taken, and no copy or matrix command of the team runs (R378). -/
def State.frozenReady (s : State) (u : Team) : Bool :=
  u.ctxNos.all s.heldStill && (s.liveCmds u.core u.task).all (fun k => k.st ≠ .running) &&
    (!u.mtx || (s.core u.core).mtx.cmds.isEmpty)

/-- An operation that waits on its claimant or the host, or behind one that does: it is saved as not issued (R276). -/
def State.stuck (s : State) (o : GOp) : Bool :=
  (match o.kind with
    | .wb .. => false
    | _ => true) &&
  (o.fid.isSome || s.atsOut o.asid o.va true || s.atsOut o.asid o.va false || !s.opFree o)

/-- A merge store whose fill has not landed: it is recorded to be issued again; a save waits for every other store to perform
(R145, R378). -/
def State.storeWaits (s : State) (x : CtxNo) (p : PendStore) : Bool :=
  s.clearOf x p.after && decide (p.hold = 0) && p.elems.any (s.storeFill p)

/-- Operations of a team other than fills, which a load issued again repeats. -/
def State.teamOps (s : State) (u : Team) : List GOp :=
  s.ops.filter (fun o => o.task = u.task && o.core = u.core && match o.kind with
    | .fill _ => false
    | _ => true)

/-- Stores and operations have performed as far as the save asks (R145, R276, R377, R378). -/
def State.settledTeam (s : State) (u : Team) (frozen : Bool) : Bool :=
  if frozen then (s.teamOps u).all s.stuck && u.ctxNos.all (fun x => (s.ctx x).stq.all (s.storeWaits x))
  else (s.teamOps u).isEmpty && u.ctxNos.all (fun x => (s.ctx x).stq.isEmpty && (s.ctx x).allFlights.isEmpty)

/-- A word of the team's bights is DIRTY. -/
def State.dirtyTeam (s : State) (u : Team) : Bool :=
  u.bights.any (fun e => e.2.v && !(s.dirtyIn (u.ctxNos.headD 0) u.core e.2.space (u.bightBase e.2) e.2.words).isEmpty) ||
    s.owners.any (fun o => o.core = u.core && o.task = u.task)

/-- Flush every entry of a team for a save (R108, R141). -/
def State.flushTeam (s : State) (u : Team) : State :=
  let s := s.modCore u.core (fun c => c.modTeam u.task (fun t => { t with leaving := true }))
  u.bights.foldl (fun s e => s.flushEntry (u.ctxNos.headD 0) u.core u.task e.1 false 0) s

/-! ## The save area (R377, R391) -/

/-- A command of the team as the engine image holds it (R377, R378). -/
def savedCmd (u : Team) (k : CopyCmd) : CopyCmd :=
  { k with
    x := k.x.map (fun x => ctxOf (u.ctxNos.idxOf x)), after := k.after.map (fun p => (ctxOf (u.ctxNos.idxOf p.1), p.2))
    fid := none, fill := none, paused := false }

/-- Commands of a team by engine, in queue order. -/
def State.teamCmds (s : State) (u : Team) (p : CopyCmd → Bool) : List (Nat × CopyCmd) :=
  let of (e : Nat) : List (Nat × CopyCmd) := ((s.eng u.core e).filter (fun k => k.task = u.task && p k)).map (fun k => (e, savedCmd u k))
  of 0 ++ of 1

/-- The engine image: the commands of a team that are in a queue (R257, R377, R378). -/
def State.engineImage (s : State) (u : Team) : List (Nat × CopyCmd) := s.teamCmds u (fun k => k.st ≠ .ended)

/-- The commands that have ended and wait for their pop: they hold no entry, and what cq.prog and cq.cnt say of them stays (R257, R265). -/
def State.endedCmds (s : State) (u : Team) : List (Nat × CopyCmd) := s.teamCmds u (fun k => k.st = .ended && k.x.isSome)

/-- Records of the engine image of a saved team (R377). -/
def SavedTeam.neng (v : SavedTeam) : Nat := (v.cmds.filter (fun p => p.2.st ≠ .ended)).length

/-- A team's block (R377 to R379). -/
def State.teamBlock (s : State) (t : Task) (u : Team) (page : Nat) (frozen : Bool) : SavedTeam :=
  let c := s.core u.core
  let num (x : CtxNo) : CtxNo := ctxOf (u.ctxNos.idxOf x)
  let poison (l : List Nat) (lo n : Nat) : List Nat := (l.filter (fun g => decide (lo / 8 ≤ g) && decide (g < (lo + n) / 8))).map (· - lo / 8)
  { page := page, frozen := frozen, task := t.id, pos := u.pos, core := u.core, pts := c.pts, team := u
    ctxs := u.ctxNos.map (fun x => (u.ctxNos.idxOf x, ((s.ctx x).again (s.cycleOf x)).move (s.relLoc t) u.core))
    pcycs := u.parts.map (fun p => (s.part (4 * u.core + p)).pcyc), runs := u.parts.map (fun p => s.runningSlot (4 * u.core + p))
    spad := Memory.window c.spad u.spadBase u.spadSize, vault := Memory.window c.vault u.vaultBase u.vaultSize
    spadPoison := poison c.spadPoison u.spadBase u.spadSize, vaultPoison := poison c.vaultPoison u.vaultBase u.vaultSize
    mtx := if u.mtx then some c.mtx else none
    hal := if u.hal then some { c.hal with
        st := c.hal.unstopped, saved := none, fill := none, rel := c.hal.rel.map (fun p => (num p.1, p.2)) } else none
    cmds := (if frozen then s.engineImage u else []) ++ s.endedCmds u
    ops := (s.teamOps u).map (fun o => (u.ctxNos.idxOf o.x, { o with fid := none, perm := false })) }

/-- Write a team's block and free the team; when every core of the task is done the task is saved (R40, R373). -/
def State.saveTeam (s : State) (t : Task) (u : Team) (page : Nat) (frozen : Bool) : State :=
  let b := s.teamBlock t u page frozen
  let s := s.writeBlock t.id u page frozen (if frozen then s.engineImage u else [])
  let s := State.freeTeam { s with
    saves := s.saves.filter (fun v => v.page ≠ page) ++ [b]
    ops := s.ops.filter (fun o => !(o.task = t.id && o.core = u.core)) } u.core t.id
  let s := s.modTask t.id (fun k => { k with doneParts := (k.doneParts ++ [u.core]).eraseDups })
  match s.task? t.id with
  | none => s
  | some k =>
    if k.cores.all (fun c => k.doneParts.contains c) then
      s.modTask k.id (fun k => { k with st := .saved, doneParts := [], supStop := false })
    else s

/-- One step of the save of a team, frozen or drained: its frozen partitions stay at their cycle from now on; stop the halyard,
flush, wait for stores and operations, then write the block (R377, R378). -/
def State.saveStep (s : State) (t : Task) (core page : Nat) (frozen : Bool) : State :=
  match (s.core core).team? t.id with
  | none => s
  | some u =>
    let s := s.modCore core (fun c => c.modTeam t.id (fun u => { u with saving := true }))
    let s := if u.hal && u.ctxNos.all s.heldStill then s.stopHal core else s
    if !(if frozen then s.frozenReady u else s.drained u) then s
    else if s.dirtyTeam u then s.flushTeam u
    else if s.settledTeam u frozen then s.saveTeam t u page frozen
    else s

/-! ## The pre-emption stop (R40, R382) -/

/-- A victim has stopped: every context has, or a partition has been frozen for longer than the freeze limit and every other
context has (R382). -/
def State.victimStopped (s : State) (t : Task) : Bool :=
  t.cores.all (fun c => match (s.core c).team? t.id with
    | some u => u.ctxNos.all (fun x => (s.ctx x).atStop ||
        ((s.ctx x).st ≠ .trapped && s.frozenCtx x && decide (s.mgmt.freezeLimit < s.now - (s.part (ctxPartNo x)).since)))
    | none => true)

/-- Every context of a task that a supervisor serves has stopped, and none is frozen: it takes the drain form (R382). -/
def State.groupStopped (s : State) (t : Task) (k : Nat) : Bool :=
  (s.ctxsOn t.id (t.cores.filter (fun c => c / 8 = k))).all (fun x => (s.ctx x).atStop && !s.frozenCtx x)

/-- Save every team of a task by itself: its supervisors pick areas of their own, numbered above any page that a command can
name (areaPage). -/
def State.autoSave (s : State) (t : Task) : State :=
  t.cores.foldl (fun s c => match s.task? t.id with
    | some k => s.saveStep k c (2 ^ 32 + 128 * t.id + c) (!s.groupStopped k (c / 8))
    | none => s) s

/-- The saves that firmware takes by itself go on, whoever asked for the stop and whether or not the request stands (R40, R41,
R382, R411). -/
def State.savesStep (s : State) : State :=
  s.tasks.foldl (fun s t => match s.task? t.id with
    | some k => if k.st = .saving && !k.supStop then s.autoSave k else s
    | none => s) s

/-- A victim needs no further stop: with a switch request of its own every context must have stopped, and no save is taken (R164,
R382); else as victimStopped says. -/
def State.victimDone (s : State) (t : Task) : Bool :=
  if t.sw.isSome then s.allCtxs t.id t.cores Ctx.atStop else s.victimStopped t

/-- One step of a pending pre-emption: the saves begin once every victim has stopped, and the request ends when every victim is
saved, switched or gone (R40, R41, R164). -/
def State.preemptOne (s : State) (p : Preempt) : State :=
  let vs := p.victims.filterMap s.task?
  let busy := vs.filter (fun t => t.st = .loading || t.st = .stopping || t.st = .saving || t.st = .switching)
  let q := { p with victims := busy.map (·.id) }
  let s := { s with preempt := if q.victims.isEmpty then s.preempt.filter (fun r => r ≠ p) else s.preempt.map (fun r => if r = p then q else r) }
  if busy.all (fun t => t.st ≠ .loading && (t.st ≠ .stopping || s.victimDone t)) then
    busy.foldl (fun s t => if t.st = .stopping && t.sw.isNone then s.beginSave t.id else s) s
  else s

/-- The pending pre-emptions, and the saves under way; while a checkpoint is being taken no save begins (R40, R417). -/
def State.preemptStep (s : State) : State :=
  (if s.ckRun.isSome then s else s.preempt.foldl State.preemptOne s).savesStep

/-! ## RESTORE (R42, R380, R381) -/

/-- A context as it starts again: on another place, issued again where it must, re-tested for THROTTLE (R380, R381). -/
def State.restoredCtx (s : State) (t : Task) (v : SavedTeam) (u : Team) (c : Ctx) : Ctx :=
  { c.move (s.absLoc t) u.pos with
    st := if c.st = .stopped then .ready else c.st
    dcount := if v.frozen then c.dcount else 0
    throttle := s.placedThrottle t }

/-- A saved command in the queue of its engine again; parked and held ones go on from PROG (R380). -/
def State.requeue (s : State) (u : Team) (p : Nat × CopyCmd) : State :=
  let x (j : CtxNo) : CtxNo := u.ctxNos.getD j.val 0
  let k := { p.2 with
    st := if p.2.st = .held then .parked else p.2.st, x := p.2.x.map x, after := p.2.after.map (fun q => (x q.1, q.2)) }
  s.modCore u.core (fun c => c.setEng p.1 (c.eng p.1 ++ [k]))

/-- A partition as it is restored: at the saved cycle, where the saved RUNNING slot runs first (R380). When that context is not READY the
selector's order goes on from its slot (DESIGN CHOICE, log 118). -/
def restoredPart (pcyc run : Nat) : Part :=
  { Part.none with pcyc := pcyc, last := BitVec.ofNat 2 (run + 3), ran := BitVec.ofNat 2 run }

/-- The save area of a team cannot be read: a granule of it is poisoned (R371, R373, R408). -/
def State.areaBad (s : State) (v : SavedTeam) : Bool :=
  let a := 4096 * areaPage v.page
  s.poison.any (fun g => granuleIn g a (saveBytes v.team v.neng))

/-- Write a saved team back onto its placement and arm it; an area that cannot be read leaves the task as it is (R373, R380). -/
def State.restoreTeam (s : State) (t : Task) (u : Team) : Load :=
  match s.saves.find? (fun v => v.task = t.id && v.pos = u.pos) with
  | none => .bad s
  | some v =>
    let s := s.findMem (4096 * areaPage v.page) (saveBytes v.team v.neng)
    if s.areaBad v then .wait s else
    s.withImage t u.core u.pos fun i s =>
    let s := s.debitLines (4096 * areaPage v.page) u.core t.id ((saveBytes v.team v.neng + 63) / 64)
    let x (j : Nat) : CtxNo := u.ctxNos.getD j 0
    let s := s.modCore u.core (fun c =>
      let c := c.zeroWindows u
      { c with
        spad := Memory.putWindow c.spad u.spadBase v.spad, vault := Memory.putWindow c.vault u.vaultBase v.vault
        spadPoison := c.spadPoison ++ v.spadPoison.map (· + u.spadBase / 8)
        vaultPoison := c.vaultPoison ++ v.vaultPoison.map (· + u.vaultBase / 8)
        pts := serialMax c.pts v.pts
        mtx := v.mtx.getD c.mtx
        hal := match v.hal with
          | some h => { h with rel := h.rel.map (fun p => (x p.1.val, p.2)) }
          | none => c.hal })
    let s := v.team.bights.foldl (fun s e =>
      if e.2.v then State.enterBight { s with nextOp := s.nextOp + 1 } (x 0) u.core t.id e.1 { e.2 with gen := s.nextOp } 0 else s) s
    let s := v.cmds.foldl (fun s p => s.requeue u p) s
    let s := { s with ops := s.ops ++ v.ops.map (fun (p : Nat × GOp) => { p.2 with x := x p.1, core := u.core }) }
    let s := (u.parts.zip (v.pcycs.zip v.runs)).foldl (fun s p => s.setPart (4 * u.core + p.1) (restoredPart p.2.1 p.2.2)) s
    let s := v.ctxs.foldl (fun s p => s.setCtx (x p.1) (s.restoredCtx t v u p.2)) s
    .done (s.modCore u.core (fun c => c.modTeam t.id (fun k => k.withText i.text)))

/-- Load one team of a LOADING task, then begin the task when every team is armed (R33, R35). -/
def State.armTeam (s : State) (t : Task) (pos : Nat) : State :=
  if t.st ≠ .loading || decide (t.ncores ≤ pos) || s.mon.supsHeld then s
  else
    match (s.core (t.base + pos)).team? t.id with
    | none => s
    | some u =>
      let r := if u.armed then Load.done s else if t.was = .saved then s.restoreTeam t u else s.armFresh t u
      match r with
      | .wait s => s
      | .bad s => s.launchFail t
      | .done s =>
        match s.beginTask t with
        | .done s => s
        | .wait s => s
        | .bad s => s.launchFail t

/-- TEAM_ARMED: a team of a placed task is loaded or restored; when all are armed every context begins (R33, R380). -/
def execTeamArmed (task pos : Nat) (s : State) : Out :=
  .next (match s.task? task with
    | some t => s.armTeam t pos
    | none => s)

end Sys2Proof.Machine
end

