-- ==== Sys2Proof/Machine/Dispatcher.lean ====
section
/-! DEFINITION. The dispatcher's choice: eligible, startable and never affordable records, variants, restarts, placements and
victims (R26 to R31, R36, R40 to R42, R139, R164). -/

namespace Sys2Proof.Machine

/-! ## Placements (R17) -/

/-- Bases of the placements of n cores within a mask. -/
def basesIn (mask : BitVec 128) (n : Nat) : List Nat :=
  ((List.range (128 / n)).map (· * n)).filter (fun b => (List.range n).all (fun p => mask.getLsbD (b + p)))

/-- Every placement uses a core island whose MAX is below the reservation of a class (R30). -/
def State.neverAffordable (s : State) (bases : List Nat) (n eclass : Nat) : Bool :=
  bases.all (fun b => (List.range n).any (fun p => decide ((s.island (b + p)).max < s.resv eclass)))

/-- Whose access a dispatcher's read is (R357). -/
def Task.who (t : Task) : HubWho := if t.was = .loading then .rope t.rope.val t.recAddr else .task t.id

/-- Header and team table of a task's image, read before a placement; the dispatch island pays (R27, R155). -/
def State.teamsRead (s : State) (core : Nat) (t : Task) : SupRd :=
  (s.supRead t.who false core t.asid none t.image.toNat 128 4).bind fun h s =>
    if hdrBad h (recShape t.recd.toNat) then .bad s
    else
      (s.supRead t.who false core t.asid none (t.image.toNat + hdrTeamoff h) (64 * t.ncores) (t.ncores + 2)).bind fun tt s =>
        if (List.range t.ncores).any (fun p => teBad h (piece tt 64 p)) then .bad s else .ok (h + 2 ^ 1024 * tt) s

/-! ## One candidate (R26, R27, R30) -/

/-- What the dispatcher finds of an eligible record. -/
inductive Verdict where
  | no
  /-- startable at the task's base -/
  | start (t : Task) (tes : List Nat) (rooms : List Room)
  /-- it meets every condition of R27 but the second -/
  | crowded (t : Task) (tes : List Nat)

/-- The record's image is no image for its shape: it is held, or the restarted task faults its rope (R23, R35). -/
def State.badImage (s : State) (t : Task) : State :=
  if t.was = .loading then s.holdRecord t.rope.val t.recAddr fIMAGE else s.ropeFault t.rope.val fIMAGE

/-- Conditions 2 and 4 of R27 for an affordable record, at the lowest base core that satisfies them (R28). -/
def State.fit (s : State) (t : Task) (bases : List Nat) : Verdict × State :=
  match s.teamsRead (lowCore (s.ropeOf t.rope.val).mask) t with
  | .wait s => (.no, s)
  | .bad s => (.no, s.badImage t)
  | .ok v s =>
    let tes := (List.range t.ncores).map (piece (v / 2 ^ 1024) 64)
    let t := { t with links := hdrLinks v }
    let pays (b : Nat) : Bool := s.canPay b t.ncores t.eclass.toNat
    if !s.linksFree t.links t.id then (.no, s)
    else
      match bases.find? (fun b => pays b && (s.roomsAt b [] tes).isSome) with
      | some b => (.start { t with base := b } tes ((s.roomsAt b [] tes).getD []), s)
      | none =>
        if bases.any (fun b => (s.roomsAt b [] tes).isSome) || !bases.any pays then (.no, s) else (.crowded t tes, s)

/-- The variant that replaces a never affordable record, or the rope's fault (R16, R30, R31). A pre-empted task or a variant whose
class has become never affordable is not replaced: R30 speaks of records, and the model faults its rope with BUDGET (DESIGN CHOICE,
log 92). -/
def State.substitute (s : State) (t : Task) (bases : List Nat) (ready : Bool) : Verdict × State :=
  let n := t.recd.toNat
  let r := t.rope.val
  if t.was ≠ .loading || recNovar n || recVidx n = 0 then (.no, s.ropeFault r fBUDGET)
  else
    let v := s.ropeView r
    match v.2.ropeRead t.who r v.1.1 (v.1.2.2 + 16 * recVidx n) 16 with
    | .wait s => (.no, s)
    | .bad s => (.no, s.holdRecord r t.recAddr fRECORD)
    | .ok e _ _ s =>
      if bitsOf e 0 64 = 0 || s.neverAffordable bases t.ncores (bitsOf e 64 4) then (.no, s.ropeFault r fBUDGET)
      else if ready then
        s.fit { t with image := BitVec.ofNat 64 (bitsOf e 0 64), eclass := BitVec.ofNat 4 (bitsOf e 64 4)
                       tcon := BitVec.ofNat 4 (bitsOf e 68 4), variant := recVidx n } bases
      else (.no, s)

/-- Judge an eligible record or a task to restart: PLACE, then BUDGET or a variant, then R27. -/
def State.judge (s : State) (t : Task) (ready : Bool) : Verdict × State :=
  let bases := basesIn (s.ropeOf t.rope.val).mask t.ncores
  if bases.isEmpty then (.no, s.ropeFault t.rope.val fPLACE)
  else if s.neverAffordable bases t.ncores t.eclass.toNat then s.substitute t bases ready
  else if ready then s.fit t bases
  else (.no, s)

/-! ## The candidates of a rope (R26, R29, R42) -/

/-- A fetched record as the task it would become. Its ASID is the one that the engine took when EN was set, also after a write of the
enabled descriptor's ASID, of which R428 says only what rope reads and dispatched tasks use (DESIGN CHOICE, log 91). -/
def newTask (r : Nat) (k : Rope) (f : Fetched) (id : Nat) : Task :=
  let n := f.recd.toNat
  { id := id, rope := Fin.ofNat 256 r, recd := f.recd, recAddr := f.addr, asid := k.asid, image := BitVec.ofNat 64 (recImage n)
    eclass := BitVec.ofNat 4 (recEclass n), tcon := BitVec.ofNat 4 (recTcon n), base := 0, ncores := shapeCores (recShape n)
    st := .loading, credit := [], joule := 0, debits := 0, sw := none, first := id, seq := id, supStop := false, links := 0
    dflits := 0, doneParts := [], sigs := [], was := .loading, variant := 0, homes := f.homes, slot := 0 }

/-- Insert a task by its order of first dispatch. -/
def insFirst (t : Task) : List Task → List Task
  | [] => [t]
  | u :: r => if t.first < u.first then t :: u :: r else u :: insFirst t r

/-- Tasks of a rope that wait to be placed again, the one first dispatched first (R42, R164). -/
def State.restarts (s : State) (r : Nat) : List Task :=
  (s.tasks.filter (fun t => t.rope.val = r && (t.st = .saved || t.st = .switched))).foldl (fun l t => insFirst t l) []

/-- Candidates of a rope with whether each is ready: the oldest, and the MAYPASS records behind it (R26, R27, R29). -/
def State.candidates (s : State) (r : Nat) : List (Task × Bool) :=
  let k := s.ropeOf r
  let old := (s.restarts r).map (fun t => ({ t with was := t.st, seq := s.nextTask }, true))
  let live := k.live.map (fun f => (f, newTask r k f s.nextTask, f.ready && decide (k.inflight.toNat < 4)))
  let pass := live.filter (fun p => recMaypass p.1.recd.toNat && p.1.bad.isNone)
  match old, live with
  | t :: _, _ => t :: pass.map (·.2)
  | [], p :: _ => (if p.1.bad.isNone then [p.2] else []) ++ (pass.filter (fun q => q.1.addr ≠ p.1.addr)).map (·.2)
  | [], [] => []

/-- The oldest startable candidate, or else those that lack only room. -/
def State.scan (s : State) (r : Nat) : List (Task × Bool) → List (Task × List Nat) → Verdict × List (Task × List Nat) × State
  | [], l => (.no, l, s)
  | c :: rest, l =>
    if (s.ropeOf r).st = .fault then (.no, l, s)
    else
      match s.judge c.1 c.2 with
      | (.start t tes rooms, s) => (.start t tes rooms, l, s)
      | (.crowded t tes, s) => State.scan s r rest (l ++ [(t, tes)])
      | (.no, s) => State.scan s r rest l

/-! ## The choice (R28) -/

/-- Distance of a rope from the one last started at its priority, in rope order. -/
def State.turnOf (s : State) (r : Nat) : Nat :=
  (r + 512 - SMap.get 255 s.lastRope (s.ropeOf r).prio.toNat - 1) % 256

/-- A rope comes before another: higher priority, then rope order after the last started (R28). -/
def State.comesFirst (s : State) (a b : Nat) : Bool :=
  let p (r : Nat) : Nat := (s.ropeOf r).prio.toNat
  decide (p b < p a) || (p a = p b && decide (s.turnOf a < s.turnOf b))

/-- What a look over every rope gives: the best startable record, and the records that lack only room. -/
structure Look where
  best : Option (Task × List Nat × List Room)
  crowded : List (Task × List Nat)

/-- Look over some ropes. -/
def State.lookOver (s : State) : List Nat → Look → Look × State
  | [], l => (l, s)
  | r :: rest, l =>
    let k := s.ropeOf r
    if !k.en || k.st = .off || k.st = .fault || (s.ckRun.isSome && s.mgmt.ckropes.getLsbD r) then State.lookOver s rest l
    else
      match s.scan r (s.candidates r) [] with
      | (.start t tes rooms, c, s) =>
        let take := match l.best with
          | some b => s.comesFirst r b.1.rope.val
          | none => true
        State.lookOver s rest { best := if take then some (t, tes, rooms) else l.best, crowded := l.crowded ++ c }
      | (_, c, s) => State.lookOver s rest { l with crowded := l.crowded ++ c }

/-- The lowest resident task slot that no task has (log 110). -/
def State.freeSlot (s : State) : Nat := ((List.range 1024).find? (fun k => s.tasks.all (fun t => t.slot ≠ k))).getD 0

/-- Start a record or restart a task: placement, the acquires at the slices where its waits were read, the rope's counts, and the
pre-emption that it no longer needs (R28, R41, R42, R139, R164). -/
def State.startTask (s : State) (t : Task) (tes : List Nat) (rooms : List Room) : State :=
  let r := t.rope.val
  let t := if t.was = .loading then { t with slot := s.freeSlot } else t
  let s := { s with nextTask := s.nextTask + 1 }
  let s := (s.place t tes rooms).acquireWaits t t.homes
  let s := if t.variant ≠ 0 && t.was ≠ .saved then
      State.wonusLog { s with freeCtr := s.freeCtr + 1 } t.id 4 (Config.stateWord 4 s.freeCtr).toNat
        (Config.stateWord 5 s.freeCtr).toNat (BitVec.ofNat 64 t.variant)
    else s
  let s := { s with lastRope := SMap.set 255 s.lastRope (s.ropeOf r).prio.toNat r }
  let s := if t.was = .loading then
      s.updRope r (fun k => { k with
        inflight := k.inflight + 1
        fetched := k.fetched.map (fun f => if f.addr = t.recAddr && !f.gone then { f with gone := true } else f) })
    else s
  s.withdrawIf (fun p => p.rope = t.rope && p.recAddr = t.recAddr)

/-! ## Victims (R40) -/

/-- Insert a task in victim order: ascending priority, then the most recently dispatched. -/
def State.insVictim (s : State) (t : Task) : List Task → List Task
  | [] => [t]
  | u :: r =>
    let p (t : Task) : Nat := (s.ropeOf t.rope.val).prio.toNat
    if p t < p u || (p t = p u && decide (u.seq < t.seq)) then t :: u :: r else u :: State.insVictim s t r

/-- Tasks that may be victims of a record, in the order in which they are taken: those that hold resources, also one that is being loaded,
which stops once it runs, and one that is being saved or switched already. -/
def State.victimPool (s : State) (t : Task) (bases : List Nat) : List Task :=
  (s.tasks.filter (fun u =>
    (u.st = .running || u.st = .stopping || u.st = .loading || u.st = .saving || u.st = .switching) && (s.ropeOf u.rope.val).pre &&
      decide ((s.ropeOf u.rope.val).prio.toNat < (s.ropeOf t.rope.val).prio.toNat) &&
      u.cores.any (fun c => bases.any (fun b => decide (b ≤ c) && decide (c < b + t.ncores))))).foldl
    (fun l u => s.insVictim u l) []

/-- The fewest victims, in that order, whose resources give some placement room; none when no number does (R40). -/
def State.victimsFor (s : State) (t : Task) (tes bases : List Nat) : List Task → List Task → Option (List Task)
  | [], _ => none
  | u :: rest, taken =>
    let l := taken ++ [u]
    if bases.any (fun b => (s.roomsAt b (l.map (·.id)) tes).isSome) then some l
    else State.victimsFor s t tes bases rest l

/-- Ask victims to stop for a record. -/
def State.preemptFor (s : State) (c : Task × List Nat) : State :=
  let bases := basesIn (s.ropeOf c.1.rope.val).mask c.1.ncores
  match s.victimsFor c.1 c.2 bases (s.victimPool c.1 bases) [] with
  | none => s
  | some l =>
    l.foldl (fun s u => s.modTask u.id (fun k => if k.st = .running then { k with st := .stopping } else k))
      { s with preempt := s.preempt ++ [⟨c.1.rope, c.1.recAddr, l.map (·.id)⟩] }

/-- The crowded record that comes first. -/
def State.firstCrowded (s : State) : List (Task × List Nat) → Option (Task × List Nat) → Option (Task × List Nat)
  | [], b => b
  | c :: r, none => State.firstCrowded s r (some c)
  | c :: r, some b => State.firstCrowded s r (some (if s.comesFirst c.1.rope.val b.1.rope.val then c else b))

/-- Try the crowded records in order until one finds victims. -/
def State.tryPreempt (s : State) : Nat → List (Task × List Nat) → State
  | 0, _ => s
  | n + 1, l =>
    match s.firstCrowded l none with
    | none => s
    | some c =>
      let t := s.preemptFor c
      if s.preempt.length < t.preempt.length then t else State.tryPreempt s n (l.filter (fun d => d ≠ c))

/-- A pre-emption for this record is pending. -/
def State.asked (s : State) (t : Task) : Bool := s.preempt.any (fun p => p.rope = t.rope && p.recAddr = t.recAddr)

/-- DISPATCH_CHOICE: start the startable record of highest priority, and pre-empt for a record that lacks only room and has no
request pending (R28, R40). -/
def execDispatchChoice (s : State) : Out :=
  if !s.ropesRun then .next s
  else
    let l := s.lookOver (s.ropes.map (·.1)) ⟨none, []⟩
    let s := match l.1.best with
      | some b => l.2.startTask b.1 b.2.1 b.2.2
      | none => l.2
    let c := l.1.crowded.filter (fun c => !s.asked c.1)
    .next (s.tryPreempt c.length c)

end Sys2Proof.Machine
end

