-- ==== Sys2Proof/Machine/Governor.lean ====
section
/-! DEFINITION. The governor's boundary, throttle announcements, clocks and rails, feeds, the cap registers and the chassis
arbitration (R147 to R162, R392, R395 to R406). -/

namespace Sys2Proof.Machine

/-- The sum of a list. -/
def total (l : List Nat) : Nat := l.foldl (· + ·) 0

/-! ## Measured energy (R150, R153, R154, R157) -/

/-- A task to which measured energy is attributed: one that has not stopped for good on its islands (R153). -/
def Task.measured (t : Task) : Bool := t.st = .loading || t.st = .running || t.st = .stopping

/-- What the tasks with a team on an island used of its energy: each the sum of its partitions' shares. The loading of an
instruction store is attributed to no task, nor is anything of a task that has left or stopped as a victim (R153, R154). -/
def State.taskShares (s : State) (m : Measured) : List (Nat × Nat) :=
  if m.island < 128 then
    (s.core m.island).teams.filterMap (fun u =>
      match s.task? u.task with
      | some t => if u.armed && t.measured then some (t.id, total (u.parts.map m.share)) else none
      | none => none)
  else []

/-- A task's joule counter and its credit on an island at a boundary (R153, R157). -/
def Task.charge (t : Task) (i e : Nat) : Task :=
  { t with
    joule := t.joule + BitVec.ofNat 64 e
    credit := t.credit.map (fun p => if p.1 = i then (p.1, p.2 - min p.2 e) else p) }

/-- The energy measured for an island: a task's is taken first from its credit, all other from HOLD (R150, R153). -/
def State.debitMeasured (s : State) (m : Measured) : State :=
  let l := s.taskShares m
  let paid := total (l.map (fun p => min (((s.task? p.1).map (·.creditOn m.island)).getD 0) p.2))
  let s := s.modIsland m.island (fun k =>
    { k with hold := satHold (k.hold - (m.au - paid : Nat)), joule := k.joule + BitVec.ofNat 64 m.au })
  l.foldl (fun s p => s.modTask p.1 (fun t => t.charge m.island p.2)) s

/-! ## Grants (R403) -/

/-- The module allowance of one interval: EFFCAP for 10 us in AU (R403). -/
def allowance (effcap : Nat) : Nat := effcap * 2 ^ 30 / 100000

/-- What the policy asks for an island, never below its floor; a fixed island takes its fixed grant, a fenced
core's island only its floor (R392, R403, R411). -/
def State.askedFor (s : State) (asked : List (Nat × Nat)) (i : Nat) : Nat :=
  let f := (s.island i).gfloor
  if 192 ≤ i || (decide (i < 128) && s.coreFenced i) then f
  else max f (((asked.find? (fun p => p.1 = i)).map (·.2)).getD f)

/-- The grants of an interval: what is asked, scaled above the floors when it sums above the allowance (R403). -/
def State.grants (s : State) (asked : List (Nat × Nat)) : List (Nat × Nat) :=
  let a := allowance s.mgmt.effcap.toNat
  let want := (List.range 196).map (fun i => (i, s.askedFor asked i))
  let floors := total ((List.range 196).map (fun i => (s.island i).gfloor))
  let above := total (want.map (·.2)) - floors
  if total (want.map (·.2)) ≤ a then want
  else want.map (fun p => let f := (s.island p.1).gfloor; (p.1, f + (p.2 - f) * (a - floors) / above))

/-- HOLD := min(HOLD + GRANT, MAX) (R150). -/
def State.grant (s : State) (p : Nat × Nat) : State :=
  s.modIsland p.1 (fun k => { k with grant := p.2, hold := satHold (min (k.hold + p.2) k.max) })

/-! ## Operating points and announcements (R152, R159 to R162, R396) -/

/-- The largest of some numbers, 0 for none. -/
def largest (l : List Nat) : Nat := l.foldl max 0

/-- POP of a class (R151). -/
def State.pop (s : State) (eclass : Nat) : Nat := bitsOf (SMap.get 0 s.ecls eclass).toNat 48 3

/-- Group of 16 core islands of a rail (R396). -/
def railOf (c : Nat) : Nat := c / 16

/-- Raise THROTTLE in every context, on all its cores, of each resident of a core whose contract has OPMIN above an operating point
(R160). -/
def State.raiseThrottle (s : State) (c aop : Nat) : State :=
  ((s.residents c).filter (fun t => decide (aop < s.opmin t.tcon.toNat))).foldl (fun s t =>
    t.cores.foldl (fun s d =>
      match (s.core d).team? t.id with
      | some u => u.ctxNos.foldl (fun s x => s.modCtx x (fun k => if k.st = .empty then k else { k with throttle := true })) s
      | none => s) s) s

/-- An operating point that a list gives for an island, OP7 where it gives none. -/
def ceilIn (l : List (Nat × Nat)) (c : Nat) : Nat := min 7 (((l.find? (fun p => p.1 = c)).map (·.2)).getD 7)

/-- The ceiling from firmware's table: OP7 at PEAKCAP (R403). -/
def State.capCeil (s : State) (c : Nat) : Nat :=
  if s.mgmt.effcap = s.mgmt.peakcap then 7 else (Config.ceilTable s.mgmt.effcap.toNat c).toNat

/-- The share of the chassis budget, not the node manager's cap, sets EFFCAP (R162, R402, R404). -/
def Mgmt.byShare (m : Mgmt) : Bool := m.chen && decide (m.chshare.toNat < m.modcap.toNat)

/-- PMAX of a contract (R151). -/
def State.pmax (s : State) (tcon : Nat) : Nat := bitsOf (SMap.get 0 s.tct tcon).toNat 0 24

/-- The island's energy in the last interval exceeded the PMAX of a resident task (R151, R162). -/
def State.breached (s : State) (c au : Nat) : Bool :=
  (s.residents c).any (fun t => s.pmax t.tcon.toNat ≠ 0 && decide (s.pmax t.tcon.toNat < au))

/-- The lower of two ceilings with their causes, the first when they are equal. -/
def lowerCeil (a b : Nat × Nat) : Nat × Nat := if b.1 < a.1 then b else a

/-- CEIL of a core island and its cause (R162, R396, R403): a faulted rail holds OP0; else the lowest of the table's for EFFCAP, the
temperature limits' and that of a breach; of equal ones the first is the cause (DESIGN CHOICE, log 103). A breach lowers it at the
boundary of the interval that breached only: R162 does not say for how long (DESIGN CHOICE, log 121). -/
def State.ceilOf (s : State) (gi : GovInput) (c : Nat) : Nat × Nat :=
  if s.mgmt.railflt.getLsbD (railOf c) then (0, 5)
  else
    lowerCeil (lowerCeil (s.capCeil c, if s.mgmt.byShare then 2 else 1) (ceilIn gi.temp c, 3))
      (if s.breached c (gi.energy c).au then ceilIn gi.breach c else 7, 4)

/-- The announcement fields of an island at boundary n, and whether THROTTLE is raised (R159, R161, R162, R396). -/
def Island.announce (k : Island) (n kann : Nat) (floor ceil cause : Nat) : Island × Bool :=
  if floor ≤ ceil && cause ≠ 5 then ({ k with apend := false }, false)
  else if cause = 5 && (!k.apend || k.acause ≠ 5) then
    ({ k with apend := true, aop := 0, acause := 5, aint := BitVec.ofNat 64 n }, true)
  else if k.apend then
    if k.aop.toNat = ceil && k.acause.toNat = cause then (k, false)
    else ({ k with aop := BitVec.ofNat 3 ceil, acause := BitVec.ofNat 4 cause }, true)
  else
    ({ k with apend := true, aop := BitVec.ofNat 3 ceil, acause := BitVec.ofNat 4 cause, aint := BitVec.ofNat 64 (n + kann) }, true)

/-- A rail that left tolerance since the last boundary is announced anew, also when it had left it before and also when firmware has
already cleared the fault; in that case CEIL has returned, and APEND clears at once where R161 has it clear (R396, log 100). -/
def Island.announceRail (k : Island) (n floor ceil cause : Nat) : Island × Bool :=
  let low := decide (ceil < floor)
  let p := if cause ≠ 5 && low then (ceil, cause) else (0, 5)
  ({ k with apend := cause = 5 || low, aop := BitVec.ofNat 3 p.1, acause := BitVec.ofNat 4 p.2, aint := BitVec.ofNat 64 n }, true)

/-- OP at boundary n (R152). -/
def Island.opAt (k : Island) (n target floor ceil : Nat) : Nat :=
  let eceil := if decide (floor ≤ ceil) || (k.apend && decide (k.aint.toNat ≤ n)) then ceil else floor
  min (largest [target, floor]) eceil

/-- Frequency of an operating point in units of 50 MHz: fortieths of the hub clock (R152, R398). -/
def opFreq (op : BitVec 3) : Nat := [9, 13, 17, 21, 25, 29, 33].getD op.toNat 36

/-- The clock follows a new operating point: a raise waits for its hop, a lowering hops at once and gates the clock for at
most 80 hub cycles (R399). -/
def Clock.follow (k : Clock) (op : BitVec 3) (gate : Nat) : Clock :=
  if k.hop.isSome then k
  else if k.op.toNat < op.toNat then { k with hop := some op }
  else if op.toNat < k.op.toNat then { k with op := op, gate := gate }
  else k

/-- One core island at boundary n (R152, R159 to R161, R396). -/
def State.boundaryCore (s : State) (gi : GovInput) (n c : Nat) : State :=
  let r := s.residents c
  let floor := largest (r.map (fun t => s.opmin t.tcon.toNat))
  let target := largest (r.map (fun t => s.pop t.eclass.toNat))
  let cl := s.ceilOf gi c
  let a := if s.mgmt.railNew.getLsbD (railOf c) then (s.island c).announceRail n floor cl.1 cl.2
    else (s.island c).announce n s.mgmt.kann.toNat floor cl.1 cl.2
  let op := BitVec.ofNat 3 (a.1.opAt n target floor cl.1)
  let s1 := s.setIsland c { a.1 with op := op, ceil := BitVec.ofNat 3 cl.1, floor := BitVec.ofNat 3 floor }
  let s2 := State.modCore { s1 with freeCtr := s1.freeCtr + 1 } c (fun k =>
    { k with clk := k.clk.follow op (Config.choice s1.freeCtr % 81) })
  if a.2 then s2.raiseThrottle c (if s.mgmt.railNew.getLsbD (railOf c) then 0 else a.1.aop.toNat) else s2

/-! ## The boundary (R150, R404) -/

/-- EFFCAP: MODCAP, with CHSHARE when arbitration is on, clamped (R392, R402). -/
def Mgmt.capNow (m : Mgmt) : BitVec 16 :=
  let v := if m.chen then min m.modcap.toNat m.chshare.toNat else m.modcap.toNat
  BitVec.ofNat 16 (max m.mincap.toNat (min v m.peakcap.toNat))

/-- Writes of the class and contract tables apply from a boundary on (R151). -/
def State.applyTabs (s : State) : State :=
  let t := s.newTabs.foldl (fun (s : State) (w : Bool × Nat × Word) =>
    if w.1 then { s with tct := SMap.set 0 s.tct w.2.1 w.2.2 } else { s with ecls := SMap.set 0 s.ecls w.2.1 w.2.2 }) s
  { t with newTabs := [] }

/-- A lowering of the cap is announced and not yet enforced at boundary n (R404). -/
def State.lowering (s : State) (n : Nat) : Bool :=
  (List.range 128).any (fun c => let k := s.island c
    k.apend && (k.acause = 1 || k.acause = 2) && decide (n < k.aint.toNat))

/-- The caps in force at some time of the 1 ms before boundary n; none while they are not all known. -/
def capsIn (n : Nat) : List (Nat × Nat) → Option (List (Nat × Nat))
  | [] => none
  | p :: r => if p.1 + 100 ≤ n then some [p] else (capsIn n r).map (p :: ·)

/-- The cap enforced from boundary n on: EFFCAP, or the one before it while a lowering is only announced (R404). -/
def State.enforced (s : State) (n : Nat) : Nat :=
  let e := s.mgmt.effcap.toNat
  if s.lowering n then max e ((s.mgmt.capHist.head?.map (·.2)).getD e) else e

/-- PWR1MS at boundary n: what the shunts show, which is within the caps enforced in the last 1 ms, so that from 1 ms after the boundary
that enforces a cap it does not exceed EFFCAP (R397, R404). -/
def State.power (s : State) (n : Nat) : State :=
  let m := s.mgmt
  let l := if m.capHist.head?.map (·.2) = some (s.enforced n) then m.capHist else (n, s.enforced n) :: m.capHist
  let w := capsIn n l
  let p := (Config.pwr1ms n).toNat
  { s with mgmt := { m with
      capHist := w.getD l, pwr1ms := BitVec.ofNat 16 ((w.map (fun l => min p (largest (l.map (·.2))))).getD p) } }

/-- GOVERNOR_BOUNDARY: debits, grants, operating points and announcements, in this order (R150). -/
def execGovernorBoundary (gi : GovInput) (s : State) : Out :=
  let n := s.gint + 1
  let s := { s.applyTabs with gint := n, mgmt := { s.mgmt with effcap := s.mgmt.capNow } }
  let s := (List.range 196).foldl (fun s i => s.debitMeasured (gi.energy i)) s
  let s := (s.grants gi.asked).foldl State.grant s
  let s := (List.range 128).foldl (fun s c => s.boundaryCore gi n.toNat c) s
  let s := s.power n.toNat
  .next { s with
    mgmt := { s.mgmt with railNew := 0 }
    tasks := s.tasks.map (fun t => { t with debits := 0 }) }

/-! ## Voltages (R396, R398, R400, R402) -/

/-- Default voltage of an operating point in mV (R398). -/
def opVolt (op : Nat) : Nat := [550, 590, 630, 670, 710, 750, 800].getD op 850

/-- Voltage of an operating point in mV: trimmed by at most 30 mV, in the rail's steps of 5 mV, never above 0.85 V (R396, R398). -/
def voltOf (op : Nat) : Nat := min 850 (opVolt op + min 30 (Config.trim op) / 5 * 5)

/-- Voltage of an AVSBus group: that of the highest operating point among its 16 islands (R398). -/
def State.groupVolt (s : State) (g : Nat) : Nat :=
  voltOf (largest ((List.range 16).map (fun i => (s.island (16 * g + i)).op.toNat)))

/-- VTRIP of a core island in mV: the voltage of the operating point in force less DRPMV (R400). -/
def State.vtrip (s : State) (c : Nat) : Nat := voltOf (s.core c).clk.op.toNat - s.mgmt.drpmv.toNat

/-! ## Hops, droops and rails (R396, R399 to R401) -/

/-- OP_HOP_COMPLETE: the island clock hops to the raised frequency; a change that arrived before is applied now (R399). -/
def execOpHopComplete (c : CoreNo) (s : State) : Out :=
  match (s.core c.val).clk.hop with
  | none => .next s
  | some op =>
    let g := Config.choice s.freeCtr % 81
    .next (State.modCore { s with freeCtr := s.freeCtr + 1 } c.val (fun k =>
      { k with clk := Clock.follow { k.clk with op := op, hop := none, gate := g } (s.island c.val).op g }))

/-- RAIL_FAULT: RAILFLT is set, and every island of the group drops to OP0 at once, by the immediate hop of a lowering, with CEIL held
there (R396, R399). -/
def execRailFault (grp : Fin 8) (s : State) : Out :=
  let b := BitVec.ofNat 8 (2 ^ grp.val)
  let g := Config.choice s.freeCtr % 81
  let s := { s with
    mgmt := { s.mgmt with railflt := s.mgmt.railflt ||| b, railNew := s.mgmt.railNew ||| b }, freeCtr := s.freeCtr + 1 }
  .next ((List.range 16).foldl (fun s i =>
    let c := 16 * grp.val + i
    let s := s.modIsland c (fun k => { k with op := 0, ceil := 0 })
    s.modCore c (fun k => { k with clk := Clock.follow { k.clk with hop := none } 0 g })) s)

/-- DROOP_TRIP: an episode begins and is counted. The period doubles from the second edge after the trip, or from the first edge after
the hop when the trip comes while a hop gates the clock (R400, R401). -/
def execDroopTrip (c : CoreNo) (s : State) : Out :=
  .next (s.modCore c.val (fun k =>
    if k.clk.stretch then k
    else { k with clk := { k.clk with
      drpcnt := k.clk.drpcnt + 1, stretch := true, lead := if k.clk.gate = 0 then 2 else 1 } }))

/-- STRETCH_END: a period that has lasted longer than an unstretched one ends with the next hub cycle, as one edge (R400). -/
def execStretchEnd (c : CoreNo) (s : State) : Out :=
  .next (s.modCore c.val (fun k => { k with clk := { k.clk with stretch := false, lead := 0, phase := min k.clk.phase 39 } }))

/-! ## Feeds (R395) -/

/-- Codes of the reports on the management bus: a feed, an environment limit. -/
def repFeed : Nat := 1
def repEnv : Nat := 2

/-- The module without power: volatile state is lost; the fused counters, the key hash, the flash slots with what the monitor keeps
of them, and what lies outside the module stay (R386, R394, R395). Time goes on, and with it the multiples of 20,000 hub cycles at which
the intervals begin: R147 does not say at which phase of them a cold reset comes (DESIGN CHOICE, log 115). -/
def State.powerOff (s : State) : State :=
  { State.reset with
    mon := { Monitor.none with keyHash := s.mon.keyHash, counters := s.mon.counters, flash := s.mon.flash, booted := s.mon.booted }
    feeds := { s.feeds with down := true }, hostMem := s.hostMem, inputs := s.inputs, freeCtr := s.freeCtr, now := s.now
    outbox := s.outbox }

/-- A feed carries power: it is in range with its switch closed; a single-feed build has no FEED B. -/
def Feeds.carries (f : Feeds) (b : Bool) : Bool := if b then f.okB && f.swB && !Config.singleFeed else f.okA && f.swA

/-- Replace a feed's presence. -/
def Feeds.setOk (f : Feeds) (i : Fin 2) (v : Bool) : Feeds := if i = 0 then { f with okA := v } else { f with okB := v }

/-- Replace a feed's switch. -/
def Feeds.setSw (f : Feeds) (i : Fin 2) (v : Bool) : Feeds := if i = 0 then { f with swA := v } else { f with swB := v }

/-- The event concerns a feed that a single-feed build does not have. -/
def absentFeed (f : Fin 2) : Bool := Config.singleFeed && f = 1

/-- Some feed carries power. -/
def Feeds.powered (f : Feeds) : Bool := f.carries false || f.carries true

/-- FEED_OUT_OF_RANGE: FEEDFLT, a report, and the other feed carries the module; on a single-feed build it is loss of power
(R395). -/
def execFeedOutOfRange (f : Fin 2) (s : State) : Out :=
  if absentFeed f then .next s
  else if s.feeds.down then .next { s with feeds := s.feeds.setOk f false }
  else
    let t := State.send { s with
      feeds := s.feeds.setOk f false
      mgmt := { s.mgmt with feedflt := s.mgmt.feedflt ||| BitVec.ofNat 2 (2 ^ f.val) } } (.report repFeed)
    .next (if Config.singleFeed then t.powerOff else t)

/-- FEED_LOSS: both feeds are out of range, and all regulators shut down (R395). -/
def execFeedLoss (s : State) : Out :=
  let t := { s with feeds := { s.feeds with okA := false, okB := false } }
  .next (if s.feeds.down then t else t.powerOff)

/-- FEED_OVERVOLTAGE: the feed's input switch opens; the module continues on the other feed if that one carries it (R395). -/
def execFeedOvervoltage (f : Fin 2) (s : State) : Out :=
  if absentFeed f then .next s
  else
    let t := { s with feeds := (s.feeds.setOk f false).setSw f false }
    .next (if s.feeds.down || t.feeds.swA || (t.feeds.swB && !Config.singleFeed) then t else t.powerOff)

/-- FEED_SWITCH_CLOSE: a feed that has stayed in range for 100 ms (R395). -/
def execFeedSwitchClose (f : Fin 2) (s : State) : Out :=
  .next (if absentFeed f then s
    else if (if f = 0 then s.feeds.okA else s.feeds.okB) then { s with feeds := s.feeds.setSw f true } else s)

/-- FEED_RETURN (R395). -/
def execFeedReturn (f : Fin 2) (s : State) : Out := .next (if absentFeed f then s else { s with feeds := s.feeds.setOk f true })

/-! ## Cap registers (R396, R402, R404) -/

/-- MODCAP_WRITE: bits [15:0]; it takes effect at the next boundary (R404). -/
def execModcapWrite (v : Word) (s : State) : Out := .next { s with mgmt := { s.mgmt with modcap := v.setWidth 16 } }

/-- RAILFLT_CLEAR: a write of 0x18 clears the FEEDFLT and RAILFLT bits written 1 (R396, R402). -/
def execRailfltClear (v : Word) (s : State) : Out :=
  .next { s with mgmt := { s.mgmt with
    railflt := s.mgmt.railflt &&& ~~~(v.extractLsb' 2 8), feedflt := s.mgmt.feedflt &&& ~~~(v.setWidth 2) } }

/-- DRPCNT_READ: the count is returned and cleared (R402). -/
def execDrpcntRead (c : CoreNo) (s : State) : Out :=
  let k := (s.core c.val).clk
  .next ((s.modCore c.val (fun u => { u with clk := { u.clk with drpcnt := 0 } })).send (.regRead (k.drpcnt.setWidth 64)))

/-! ## Chassis arbitration (R405, R406) -/

/-- The message that this module sends for a round. -/
def State.ownMsg (s : State) (round : Nat) : ArbMsg :=
  let m := s.mgmt
  { round := round, modnum := Config.modnum.toNat, chbud := m.chbud.toNat, mincap := m.mincap.toNat, peakcap := m.peakcap.toNat
    demand := Config.demand round, fallback := m.fallback.toNat }

/-- Members other than this module. -/
def Mgmt.peers (m : Mgmt) : List Nat := (List.range 4).filter (fun k => k ≠ Config.modnum.toNat && m.chmemb.getLsbD k)

/-- Round a comes after round b, in numbers of 32 bits that wrap. -/
def laterRound (a b : Nat) : Bool := (a + 2 ^ 32 - b) % 2 ^ 32 ≠ 0 && decide ((a + 2 ^ 32 - b) % 2 ^ 32 < 2 ^ 31)

/-- A message counts in the round whose number it carries: one of the round being collected now, one of a later round when that
round begins, one of an earlier round only as the last one heard (R405, R406). -/
def Peer.hear (p : Peer) (now : Nat) (m : ArbMsg) : Peer :=
  if m.round = now then { p with last := some m, fresh := true }
  else if laterRound m.round now then { p with ahead := some m }
  else if p.last.any (fun l => !laterRound m.round l.round) then p
  else { p with last := some m }

/-- A peer at the end of a round: rounds missed in a row. -/
def Peer.endRound (p : Peer) : Peer := { p with missing := if p.fresh then 0 else p.missing + 1, fresh := false }

/-- A round begins: a message that came early for it counts. -/
def Peer.beginRound (p : Peer) (now : Nat) : Peer :=
  match p.ahead with
  | some m => Peer.hear { p with ahead := .none } now m
  | .none => p

/-- What a member asks for above its floor (R405). -/
def arbExcess (m : ArbMsg) : Nat := min (m.demand - m.mincap) (m.peakcap - m.mincap)

/-- Shares of the members M, in ascending MODNUM (R405). -/
def arbShares (budget : Nat) (fb : List Nat) (ms : List ArbMsg) : List (Nat × Nat) :=
  let e := total (ms.map arbExcess)
  let base := total fb + total (ms.map (·.mincap))
  if budget < base then ms.map (fun m => (m.modnum, m.mincap))
  else if e ≤ budget - base then ms.map (fun m => (m.modnum, m.mincap + arbExcess m))
  else
    let r := budget - base
    let floors := ms.map (fun m => (m.modnum, m.mincap + r * arbExcess m / e))
    let left := r - total (ms.map (fun m => r * arbExcess m / e))
    (floors.zip (List.range ms.length)).map (fun p => (p.1.1, p.1.2 + if p.2 < left then 1 else 0))

/-- CHSHARE of a completed round from this module's message and what it heard (R405, R406). -/
def State.share (s : State) (own : ArbMsg) : Nat :=
  let m := s.mgmt
  let heard (k : Nat) : Bool := decide ((s.peer k).missing < 4) && !(s.peer k).out
  let inM := (List.range 4).filterMap (fun k =>
    if k = own.modnum then some own else if m.peers.contains k && heard k then (s.peer k).last else none)
  let inF := m.peers.filterMap (fun k => if heard k then none else (s.peer k).last)
  let now := m.peers.filterMap (fun k => if (s.peer k).missing = 0 then (s.peer k).last else none)
  if 4 ≤ (s.peer own.modnum).missing then own.fallback
  else
    let b := now.foldl (fun b p => min b p.chbud) own.chbud
    (((arbShares b (inF.map (·.fallback)) inM).find? (fun p => p.1 = own.modnum)).map (·.2)).getD 0

/-- The number of the round being collected, in the count that the modules aligned at fabric training: one round every 100 us
(R405). -/
def State.roundNo (s : State) : Nat := (Config.roundBase + s.now / 200000) % 2 ^ 32

/-- Members that are fenced when a round ends are in F from the next one on (R406). -/
def State.fencedOut (s : State) : State :=
  (List.range 4).foldl (fun s k => if s.mgmt.fmask.getLsbD k then s.setPeer k { s.peer k with out := true } else s) s

/-- The message that this module sent for a round. -/
def State.sentMsg (s : State) (round : Nat) : ArbMsg :=
  match (s.peer Config.modnum.toNat).last with
  | some m => if m.round = round then m else s.ownMsg round
  | .none => s.ownMsg round

/-- ARBITRATION_ROUND: the round before the one that begins now ends, its share is in force from the next boundary, and the next message
is sent and kept for the end of its round. The entry of the module itself counts the rounds in which no peer was heard (R405, R406). -/
def execArbitrationRound (s : State) : Out :=
  if !s.mgmt.chen then .next s
  else
    let next := s.roundNo
    let n := (next + 2 ^ 32 - 1) % 2 ^ 32
    let any := s.mgmt.peers.any (fun k => (s.peer k).fresh)
    let s := s.setPeer Config.modnum.toNat { s.peer Config.modnum.toNat with fresh := any }
    let s := (List.range 4).foldl (fun s k => s.setPeer k (s.peer k).endRound) s
    let share := s.share (s.sentMsg n)
    let s := (List.range 4).foldl (fun s k => s.setPeer k ((s.peer k).beginRound next)) s.fencedOut
    let own := s.ownMsg next
    let s := s.setPeer Config.modnum.toNat { s.peer Config.modnum.toNat with last := some own }
    .next (State.send { s with mgmt := { s.mgmt with chround := BitVec.ofNat 32 n, chshare := BitVec.ofNat 16 share } } (.arb own))

/-- ARBITRATION_MESSAGE: a peer's message counts in its round (R405). -/
def execArbitrationMessage (m : ArbMsg) (s : State) : Out :=
  .next (if s.mgmt.chen && s.mgmt.peers.contains m.modnum then
    s.setPeer m.modnum ((s.peer m.modnum).hear s.roundNo m) else s)

end Sys2Proof.Machine
end

