-- ==== Sys2Proof/Machine/Answers.lean ====
section
/-! DEFINITION. Answers to translation faults and what they do to every waiter: RETRY, PERMANENT, and the host's answers over ATS
and PRI (R16, R110, R262, R275, R356 to R360, R373). -/

namespace Sys2Proof.Machine

/-! ## Who waits (R357) -/

/-- What a fault is about: an ASID, a 4 KiB page and W. -/
structure FKey where
  asid : BitVec 16
  page : Nat
  w : Bool
  deriving DecidableEq, Repr

/-- An operation translates for a write. -/
def GOp.writes (o : GOp) : Bool :=
  match o.kind with
  | .fill _ => false
  | .pin => false
  | .unpin => false
  | .knot fn _ _ => fn ≠ .ld
  | .sc fn _ _ _ _ => fn ≠ .ld
  | _ => true

/-- The operation waits on this fault, or on the host for this key (R275, R359). -/
def State.opWaits (s : State) (k : FKey) (fid : Option Nat) (o : GOp) : Bool :=
  (o.fid.isSome && o.fid = fid) ||
    (o.fid.isNone && !o.perm && o.asid = k.asid && o.va / 4096 = k.page && o.writes = k.w && s.opFree o &&
      s.look o.core o.asid o.va o.writes = .ats)

/-- The host has been asked about a key, or a fault on it is outstanding. -/
def State.keyOut (s : State) (k : FKey) : Bool :=
  s.fids.any (fun f => f.asid = k.asid && f.va / 4096 = k.page && f.wr = k.w) || s.ats.any (fun q => q.is k.asid k.page k.w)

/-- A copy command is parked on this fault, or waits on the host for this key (R262, R359). -/
def State.cmdWaits (s : State) (k : FKey) (fid : Option Nat) (core : Nat) (c : CopyCmd) : Bool :=
  (c.fid.isSome && c.fid = fid) ||
    (c.st = .running && c.bad.isNone && decide (c.prog < (blockOf c.blk).units c.kind.toNat) && !s.keyOut k &&
      match s.copyUnit core c true with
      | .wait none t => t.keyOut k
      | _ => false)

/-- An access of the hub or a supervisor waits on this fault, or on the host for this key (R16, R359). -/
def HubWait.on (h : HubWait) (k : FKey) (fid : Option Nat) : Bool :=
  (h.fid.isSome && h.fid = fid) || (h.fid.isNone && h.asid = k.asid && h.va / 4096 = k.page && h.w = k.w)

/-! ## The permanent outcome of every waiter (R16, R110, R262, R275, R357) -/

/-- Operations: they end with their deferred fault. -/
def State.endOps (s : State) (k : FKey) (fid : Option Nat) : State :=
  { s with ops := s.ops.map (fun o => if s.opWaits k fid o then { o with fid := none, perm := true } else o) }

/-- Copy commands: they end with STATUS XLATE. -/
def State.endCmds (s : State) (k : FKey) (fid : Option Nat) : State :=
  let f (core : Nat) (c : CopyCmd) : CopyCmd := if s.cmdWaits k fid core c then { c with fid := none, bad := some 4 } else c
  s.cores.foldl (fun t e => t.modCore e.1 (fun u => { u with eng0 := u.eng0.map (f e.1), eng1 := u.eng1.map (f e.1) })) s

/-- Reads of records, knots, variants and images, and signals: each has failed for good when it is next tried. -/
def State.endHub (s : State) (k : FKey) (fid : Option Nat) : State :=
  { s with hubWaits := s.hubWaits.map (fun h => if h.on k fid then { h with perm := true } else h) }

/-- Every waiter on a key has its permanent outcome. -/
def State.endWaiters (s : State) (k : FKey) (fid : Option Nat) : State := ((s.endOps k fid).endCmds k fid).endHub k fid

/-! ## Answers (R357) -/

/-- Every waiter on a fault walks again. -/
def State.retryWaiters (s : State) (fid : Nat) : State :=
  let f (c : CopyCmd) : CopyCmd := if c.fid = some fid then { c with fid := none } else c
  let s : State := { s with
    ops := s.ops.map (fun o => if o.fid = some fid then { o with fid := none } else o)
    hubWaits := s.hubWaits.filter (fun h => h.fid ≠ some fid) }
  s.cores.foldl (fun t e => t.modCore e.1 (fun u => { u with eng0 := u.eng0.map f, eng1 := u.eng1.map f })) s

/-- What a fault is about. -/
def FaultRec.key (f : FaultRec) : FKey := ⟨f.asid, f.va / 4096, f.wr⟩

/-- An answer frees the FID: RETRY, or PERMANENT (R357). -/
def State.answer (s : State) (f : FaultRec) (perm : Bool) : State :=
  let s := { s with fids := s.fids.filter (fun g => g.fid ≠ f.fid) }
  if perm then s.endWaiters f.key (some f.fid) else s.retryWaiters f.fid

/-- The fault with an identifier. -/
def State.faultOf (s : State) (fid : Nat) : Option FaultRec := s.fids.find? (fun f => f.fid = fid)

/-- The route lets the host answer: it claims, and a supervisor that claims too has forwarded the fault (R357). -/
def State.hostMay (s : State) (f : FaultRec) : Bool :=
  let r := s.routeOf f.claim
  r.getLsbD 0 && (!r.getLsbD 1 || f.fwd)

/-- The route lets a supervisor answer (R357). -/
def State.supMay (s : State) (k : Nat) (f : FaultRec) : Bool := (s.routeOf f.claim).getLsbD 1 && !f.fwd && f.core / 8 = k

/-- FAULT_ANSWER: RES 0 RETRY, 1 PERMANENT; any other answer, and one that the route does not permit, is discarded
(R348, R357). -/
def execFaultAnswer (fid : BitVec 16) (res : BitVec 2) (s : State) : Out :=
  let s := { s with host := { s.host with rfid := fid, rres := res } }
  match s.faultOf fid.toNat with
  | none => .next s
  | some f => .next (if s.hostMay f && decide (res.toNat ≤ 1) then s.answer f (res = 1) else s)

/-! ## ATS and PRI (R359, R360) -/

/-- SRC of the walk of an ATS leaf (R358). -/
def srcAts : BitVec 3 := 6

/-- What the host was asked about. -/
def AtsReq.key (q : AtsReq) : FKey := ⟨q.asid, q.page, q.w⟩

/-- The fault that a request ends in; when it is permanent its waiters end (R356, R360). -/
def State.atsFault (s : State) (q : AtsReq) (kind : Nat) : State :=
  match s.faultAt kind q.asid (q.page * 4096) q.w q.claim srcAts q.core with
  | (.perm, t) => t.endWaiters q.key none
  | (_, t) => t

/-- A page is not present at the host, or permits too little: a page request for its host untranslated address, or a fault of kind
NOTPRES (R354, R359, R360). -/
def State.atsMissing (s : State) (q : AtsReq) : State :=
  let e := s.asid q.asid
  if e.prien && !s.host.priOff && decide (s.prgs.length < 256) then
    State.send { s with prgs := s.prgs ++ [(s.nextPrg, q)], nextPrg := s.nextPrg + 1 }
      (.pageRequest s.nextPrg e.pasid (s.atsAddr q.asid (q.page * 4096)))
  else s.atsFault q kNOTPRES

/-- The hub caches the host's translation under its ATS leaf, for the leaf's page size or the smaller one that the host returns; the
entry keeps the leaf's W in bit 3 and the host's in bit 4 (R352, R355, R359). -/
def State.cacheAts (s : State) (q : AtsReq) (pa bits : Nat) (w : Bool) : State :=
  let va := q.page * 4096
  match s.walk q.asid va with
  | .ats e l =>
    let r := max 12 (min bits 48)
    let bits := min (12 + 9 * l) r
    let page := (pa % 2 ^ 48 / 2 ^ r * 2 ^ r + s.atsAddr q.asid va % 2 ^ r) / 2 ^ bits * 2 ^ bits
    let new := 1 + 2 * 2 + b2n (bitOf e 3) * 8 + b2n w * 16 + page + 8 * 2 ^ 48 + bitsOf e 64 24 * 2 ^ 64
    let old := s.tcache.filter (fun t => !(t.covers 32 q.asid va))
    { s with tcache := keepAt 32 32768 (⟨32, q.asid, va / 2 ^ bits, BitVec.ofNat 128 new, bits⟩ :: old) }
  | _ => s

/-- ATS_COMPLETION: the oldest request for the page is answered with a page, its size and the host's write permission; with none; or
with a refusal, a fault of kind ATS (R356, R359, R360). -/
def execAtsCompletion (asid : BitVec 16) (va : Nat) (a : AtsAnswer) (w : Bool) (s : State) : Out :=
  match s.ats.find? (fun q => q.asid = asid && q.page = va / 4096) with
  | none => .next s
  | some q =>
    let s := { s with ats := s.ats.erase q }
    .next (match a with
      | .page p bits => if q.w && !w then s.atsMissing q else s.cacheAts q p bits w
      | .absent => s.atsMissing q
      | .refused => s.atsFault q kATS)

/-- PAGE_REQUEST_RESPONSE: 0 Success, 1 Invalid Request, 2 Response Failure (R360). -/
def execPageRequestResponse (prg : Nat) (code : Fin 3) (s : State) : Out :=
  match s.prgs.find? (fun p => p.1 = prg) with
  | none => .next s
  | some p =>
    let s := { s with prgs := s.prgs.filter (fun q => q.1 ≠ prg) }
    .next (if code = 0 then s
      else State.atsFault { s with host := { s.host with priOff := s.host.priOff || code = 2 } } p.2 kATS)

end Sys2Proof.Machine
end

