-- ==== Sys2Proof/Machine/HostPort.lean ====
section
/-! DEFINITION. Fault and trap records written to their queues, the queue and control registers of the host and the supervisors,
and entries of the maintenance queue (R348, R349, R358, R361, R362, R371, R384). -/

namespace Sys2Proof.Machine

/-! ## Records (R349, R371) -/

/-- Records that the host fault queue holds at most. -/
def HostRegs.fqSize (h : HostRegs) : Nat := 2 ^ (h.fqlog.toNat + 8)

/-- Address in ASID 0 of the host's next fault record. -/
def HostRegs.fqAddr (h : HostRegs) : Nat := h.fqbase.toNat * 4096 + 16 * (h.fqtail.toNat % h.fqSize)

/-- The hub's own accesses translate in the hub, where no braid has a cache: agent number 128 stands for it. -/
def hubAgent : Nat := 128

/-- What the hub does with a translation in ASID 0: where the host must be asked, it is. -/
def State.hubTake (s : State) (x : Xlate) (va : Nat) (w : Bool) : Option (Nat × Attr) × State :=
  match x with
  | .ok pa a => (some (pa, a), s.walked hubAgent 0 va)
  | .ats => (none, s.askAts 0 va w (s.asid 0).claim 0)
  | _ => (none, s)

/-- Translate for the hub in ASID 0. -/
def State.hubXlate (s : State) (va : Nat) (w : Bool) : Option (Nat × Attr) × State := s.hubTake (s.xlate hubAgent 0 va w) va w

/-- Translate for the write of STATUS, with which the maintenance that it reports is over (R362, R363). -/
def State.statusXlate (s : State) (va : Nat) : Option (Nat × Attr) × State := s.hubTake (s.look hubAgent 0 va true) va true

/-- FAULT_RECORD_WRITE: the oldest waiting record goes to the queue while it is enabled and has room; until its address
translates it waits (R348, R349). -/
def execFaultRecordWrite (s : State) : Out :=
  match s.fqwait with
  | [] => .next s
  | f :: rest =>
    let h := s.host
    if !h.fqen || (h.fqtail - h.fqhead).toNat = h.fqSize then .next s
    else
      match s.hubXlate h.fqAddr true with
      | (none, t) => .next t
      | (some (pa, a), t) =>
        .next { t.writeHome whoPort none a pa [⟨pa, 16, f.word⟩] with fqwait := rest, host := { h with fqtail := h.fqtail + 1 } }

/-- The oldest waiting fault record goes to the supervisor's queue of 256 records when it has room (R371). -/
def Sup.addFault (u : Sup) : Sup :=
  match u.fwait with
  | [] => u
  | f :: rest =>
    if (u.sftail - u.sfhead).toNat = 256 then u
    else { u with
      sram := Memory.wrN u.sram (u.sfqbase.toNat + 16 * (u.sftail.toNat % 256)) f.word 16
      sftail := u.sftail + 1, fwait := rest }

/-- SUPERVISOR_FAULT_RECORD_WRITE (R371). -/
def execSupervisorFaultRecordWrite (k : SupNo) (s : State) : Out := .next (s.modSup k.val Sup.addFault)

/-- TRAP_RECORD_WRITE (R371). -/
def execTrapRecordWrite (k : SupNo) (s : State) : Out := .next (s.modSup k.val (fun u => u.drainTraps 1))

/-- FQ_HEAD_WRITE (R348). -/
def execFqHeadWrite (v : Word) (s : State) : Out := .next { s with host := { s.host with fqhead := v.setWidth 32 } }

/-- TQ_HEAD_WRITE (R371). -/
def execTqHeadWrite (k : SupNo) (v : Word) (s : State) : Out := .next (s.modSup k.val (fun u => { u with tqhead := v.setWidth 32 }))

/-- SF_HEAD_WRITE (R371). -/
def execSfHeadWrite (k : SupNo) (v : Word) (s : State) : Out := .next (s.modSup k.val (fun u => { u with sfhead := v.setWidth 32 }))

/-! ## Reading BAR0 (R348) -/

/-- The word that a read of the block returns at an offset; an offset that names nothing reads 0 (R7, R348). -/
def State.barWord (s : State) (off : Nat) : Word :=
  let h := s.host
  BitVec.ofNat 64 (match off with
    | 0x000 => 0x0740 + Config.revision.toNat * 2 ^ 16
    | 0x008 => 16 + 4096 * 2 ^ 8
    | 0x010 => h.rtbase.toNat * 2 ^ 14
    | 0x018 => b2n h.rten + b2n h.rterr * 2
    | 0x020 => h.mqpush.toNat * 2 ^ 5
    | 0x028 => (16 - (s.mq.filter (fun m => m.orig.pushed)).length) + b2n h.mqovf * 2 ^ 8
    | 0x030 => h.fqbase.toNat * 2 ^ 12
    | 0x038 => h.fqlog.toNat + b2n h.fqen * 2 ^ 31
    | 0x040 => h.fqtail.toNat
    | 0x048 => h.fqhead.toNat
    | 0x050 => h.rfid.toNat + h.rres.toNat * 2 ^ 16
    | o => if 0x400 ≤ o && o < 0xC00 && o % 8 = 0 then (SMap.get 0 h.route ((o - 0x400) / 8)).toNat else 0)

/-! ## RTEN and QUIESCE (R348, R384) -/

/-- The rope table of 16 KiB lies wholly in DRAM. -/
def HostRegs.tableOk (h : HostRegs) : Bool := decide (h.rtbase.toNat * 16384 + 16384 ≤ dramSize)

/-- RT_ENABLE: RTEN in bit 0, and RTERR, cleared by a 1, in bit 1; setting RTEN over an invalid RTBASE leaves it 0 and sets
RTERR (R348). -/
def execRtEnable (v : Word) (s : State) : Out :=
  let h := s.host
  let bad := v.getLsbD 0 && !h.rten && !h.tableOk
  .next { s with host := { h with rten := v.getLsbD 0 && !bad, rterr := bad || (h.rterr && !v.getLsbD 1) } }

/-- QUIESCE: 1 stops the rope engine and the dispatcher, 0 restarts them (R384). -/
def execQuiesce (v : Word) (s : State) : Out := .next { s with mgmt := { s.mgmt with quiesce := v.getLsbD 0 } }

/-! ## The maintenance queue (R348, R361, R362, R371) -/

/-- Entries in use of the 16. -/
def State.mqUsed (s : State) : Nat := (s.mq.filter (fun m => m.orig.pushed)).length

/-- MQFREE. -/
def State.mqFree (s : State) : Nat := 16 - s.mqUsed

/-- The 32 bytes of a descriptor at an address in ASID 0, once it translates. -/
def State.readDesc (s : State) (va : Nat) : Option (BitVec 256) × State :=
  match s.hubXlate va false with
  | (none, t) => (none, t)
  | (some (pa, a), t) =>
    let r := t.readHome whoPort a pa 32
    (some (BitVec.ofNat 256 r.1), r.2)

/-- MQ_PUSH: the descriptor at MQPUSH x 32 is read and entered, or the push is discarded with MQOVF (R348, R362). -/
def execMqPush (v : Word) (s : State) : Out :=
  let p := v.extractLsb' 5 43
  let s := { s with host := { s.host with mqpush := p } }
  if s.mqFree = 0 then .next { s with host := { s.host with mqovf := true } }
  else
    let r := s.readDesc (p.toNat * 32)
    .next { r.2 with mq := r.2.mq ++ [⟨r.1, .host (p.toNat * 32)⟩] }

/-- SMQ_PUSH: the descriptor at SRAM offset SMQPUSH x 32 is read and entered, or the push is discarded with SMQOVF (R371). -/
def execSmqPush (k : SupNo) (v : Word) (s : State) : Out :=
  let p := v.extractLsb' 5 27
  let s := s.modSup k.val (fun u => { u with smqpush := p })
  if s.mqFree = 0 then .next (s.modSup k.val (fun u => { u with smqovf := true }))
  else
    let d := BitVec.ofNat 256 (Memory.rdN (s.sup k.val).sram (p.toNat * 32) 32)
    .next { s with mq := s.mq ++ [⟨some d, .sup k.val (p.toNat * 32)⟩] }

/-- The SHOOT descriptor of a range of pages. -/
def shootDesc (asid va npg : Nat) : BitVec 256 :=
  BitVec.ofNat 256 (1 + asid % 2 ^ 16 * 2 ^ 32 + va / 4096 * 4096 % 2 ^ 64 * 2 ^ 64 + npg % 2 ^ 37 * 2 ^ 128)

/-- The shootdowns of an ATS invalidation; the last one's acknowledgement completes it. -/
def atsShoots (pasid : BitVec 20) (va npg : Nat) : List Nat → List MDesc
  | [] => []
  | a :: r => ⟨some (shootDesc a va npg), .ats pasid r.isEmpty⟩ :: atsShoots pasid va npg r

/-- ATS_INVALIDATION: a shootdown of the range in every bound ASID whose PASID matches, then the completion (R361). -/
def execAtsInvalidation (pasid : BitVec 20) (va npg : Nat) (s : State) : Out :=
  let l := (s.asids.filter (fun e => e.2.v && e.2.pasid = pasid)).map (·.1)
  let n := min npg (2 ^ 36)
  .next (if l.isEmpty || n = 0 then s.send (.atsInvalidated pasid) else { s with mq := s.mq ++ atsShoots pasid va n l })

end Sys2Proof.Machine
end

