-- ==== Sys2Proof/Machine/Maintenance.lean ====
section
/-! DEFINITION. The maintenance queue at work: shootdowns, bias flips, invalid descriptors, and what their completion tells
(R105, R108, R123, R291, R361 to R366, R390). -/

namespace Sys2Proof.Machine

/-! ## Descriptors (R362) -/

def stDONE : Nat := 1
def stDENIED : Nat := 2
def stINVALID : Nat := 3

/-- The oldest entry with its descriptor, read now if it could not be read before. -/
def State.mqHead (s : State) : Option (MDesc × BitVec 256) × State :=
  match s.mq with
  | [] => (none, s)
  | m :: rest =>
    match m.desc, m.orig with
    | some d, _ => (some (m, d), s)
    | none, .host va =>
      match s.readDesc va with
      | (some d, t) => (some ({ m with desc := some d }, d), { t with mq := { m with desc := some d } :: rest })
      | (none, t) => (none, t)
    | none, _ => (none, s)

/-- Copy commands that the descriptor paused go on (R363). -/
def State.unpause (s : State) : State :=
  let f (c : CopyCmd) : CopyCmd := { c with paused := false }
  s.cores.foldl (fun t e => t.modCore e.1 (fun u => { u with eng0 := u.eng0.map f, eng1 := u.eng1.map f })) s

/-- Pins of an ASID are released (R123, R390). -/
def State.dropPins (s : State) (p : Pin → Bool) : State := { s with pins := s.pins.filter (fun q => !p q) }

/-- Every routine number of an ASID is unmapped (R291). -/
def State.unmapAll (s : State) (asid : BitVec 16) : State :=
  (List.range 256).foldl (fun s n => (s.unmapRoutine asid n).2) s

/-- The monitor's response: to the host, or in a supervisor's mailbox, whose doorbell word then reads 0 (R389). -/
def State.respond (s : State) (ch : Option SupNo) (status : Nat) (rval : Word) : State :=
  match ch with
  | none => s.send (.monitor status rval)
  | some k => s.modSup k.val (fun u => { u with mbell := false, mresp := BitVec.ofNat 128 (status + rval.toNat * 2 ^ 64) })

/-- What the completion of an entry tells whoever made it: STATUS in DRAM or SRAM, an ATS completion, or the end of a monitor
request; false while STATUS has no translation (R361, R362, R371, R390). -/
def State.tellDone (s : State) (m : MDesc) (d : BitVec 256) (status : Nat) : Bool × State :=
  match m.orig with
  | .host va =>
    match s.statusXlate (va + 24) with
    | (none, t) => (false, t)
    | (some (pa, a), t) => (true, t.writeHome whoPort none a pa [⟨pa, 1, status⟩])
  | .sup k addr => (true, s.modSup k (fun u => { u with sram := Memory.wrN u.sram (addr + 24) status 1 }))
  | .ats pasid last => (true, if last then s.send (.atsInvalidated pasid) else s)
  | .monitor ch unbind =>
    let s := if unbind then
        let a := mdAsid d
        let s := (s.dropPins (fun p => p.asid = a)).unmapAll a
        s.setAsid a { s.asid a with v := false }
      else s
    (true, s.respond ch 0 0)

/-- The oldest entry completes with a status and leaves the queue. -/
def State.mqFinish (s : State) (m : MDesc) (d : BitVec 256) (status : Nat) : State :=
  let r := s.tellDone m d status
  if r.1 then State.unpause { r.2 with mq := r.2.mq.drop 1 } else r.2

/-! ## The steps (R363, R365) -/

/-- No copy command stands inside a covered page: what is covered has paused, waits parked, or is at a page boundary. -/
def State.atBoundaries (s : State) (d : BitVec 256) : Bool :=
  s.cores.all (fun e => (e.2.eng0 ++ e.2.eng1).all (fun c =>
    !(c.st = .running || c.st = .held) || !s.cmdCovered e.1 d c false || s.cmdCovered e.1 d c true))

/-- A fill that was in flight when the change began lands for its waiting loads under the old translation, and leaves its words not
VALID; one whose walk was in flight walks again afterwards. Which of the two a fill is, is free (R109, R363, log 14). -/
def State.landFill (s : State) (id : Nat) (p : State → GOp → Bool) : State :=
  match s.op? id with
  | none => s
  | some o =>
    match o.kind with
    | .fill n =>
      if o.fid.isSome || o.perm || !s.opFree o || s.wonusWaits o.task || !p s o || !Config.useCached s.freeCtr then s
      else
        match s.entryOf o.core o.task n, s.lookOld o.core o.asid o.va false with
        | some (t, b), .ok pa a => State.fillAt { s with freeCtr := s.freeCtr + 1 } { o with drop := List.range 16 } n t b pa a
        | _, _ => s
    | _ => s

/-- Fills in flight that satisfy a test land; then dirty words that satisfy a test are written back under the old translation, and all
become not VALID (R363). -/
def State.evict (s : State) (f : State → GOp → Bool) (p : Nat → MapInfo → Bool) : State :=
  let s := (s.ops.map (·.id)).foldl (fun s id => s.landFill id f) s
  s.cores.foldl (fun t c => t.recallUnder c.1 (fun u m => u.lookOld c.1 (u.taskAsid m.task) m.va true) (p c.1)) s

/-- The pages of an entry of a translation cache meet a range of 4 KiB pages. -/
def TEnt.meets (t : TEnt) (page n : Nat) : Bool :=
  let k := 2 ^ t.bits / 4096
  decide (t.page * k < page + n) && decide (page < (t.page + 1) * k)

/-- A SHOOT: words written back and not VALID, pins released, cached entries gone (R363). -/
def State.shootRange (s : State) (asid : BitVec 16) (page n : Nat) : State :=
  let inR (va : Nat) : Bool := decide (page ≤ va / 4096) && decide (va / 4096 < page + n)
  let s := s.evict (fun _ o => o.asid = asid && inR o.va) (fun _ m => s.taskAsid m.task = asid && inR m.va)
  let s := s.dropPins (fun p => p.asid = asid && inR p.va)
  { s with tcache := s.tcache.filter (fun t => !(t.asid = asid && t.meets page n)) }

/-- The host gives up the lines of a page: a snoop leaves for each, and a line that it had changed comes back first (R365). What the host
had written into its copy is free (log 104). -/
def State.hostBack (s : State) (p : Nat × Nat × Nat × Nat) : State :=
  (s.hostCached.filter (fun l => inPage p (64 * l))).foldl (fun s l =>
    let t := State.backInvalidate { s with freeCtr := s.freeCtr + 1 } (64 * l)
    match Config.hostDirty s.freeCtr with
    | some v => t.writeHome whoPort none (t.hostAttr (64 * l)) (64 * l) [⟨64 * l, 64, v.toNat⟩]
    | none => t) s

/-- A flip of a leaf page to a bias: words written back and not VALID, pins released, the host's copies gone on the way to DEV,
BIAS written into the leaf, cached entries gone (R365, R366). -/
def State.flip (s : State) (p : Nat × Nat × Nat × Nat) (host : Bool) : State :=
  let old (s : State) (core : Nat) (asid : BitVec 16) (va : Nat) : Bool := match s.lookOld core asid va false with
    | .ok pa _ => inPage p pa
    | _ => false
  let s := if host then s else s.hostBack p
  let s := s.evict (fun s o => old s o.core o.asid o.va) (fun k m => old s k (s.taskAsid m.task) m.va)
  let s := s.dropPins (fun q => inPage p (64 * q.line))
  let e := if host then p.2.2.2 + 2 ^ 66 else p.2.2.2 - 2 ^ 66
  let s := s.writeHome whoPort none (s.hostAttr p.2.2.1) p.2.2.1 [⟨p.2.2.1, 16, e⟩]
  { s with tcache := s.tcache.filter (fun t => !(decide (entryPage t.entry.toNat < p.1 + p.2.1) &&
      decide (p.1 < entryPage t.entry.toNat + 2 ^ t.bits))) }

/-- The oldest entry is well formed with an OP: what a step of it needs. -/
def State.mqOp (s : State) (op : Nat) (f : MDesc → BitVec 256 → State → State) : State :=
  match s.mqHead with
  | (some (m, d), t) =>
    if (m.orig.pushed && mdBad d) || mdOp d ≠ op then t
    else if t.mqDenied m d then t.mqFinish m d stDENIED
    else f m d t
  | (none, t) => t

/-- SHOOT (R363). -/
def execShoot (s : State) : Out :=
  .next (s.mqOp 1 (fun m d s =>
    if s.atBoundaries d then (s.shootRange (mdAsid d) (mdVa d / 4096) (mdNpg d)).mqFinish m d stDONE else s))

/-- FLIPH: DEV to HOST (R365). -/
def execFliph (s : State) : Out :=
  .next (s.mqOp 2 (fun m d s =>
    match s.flipPage d with
    | none => s.mqFinish m d stINVALID
    | some p =>
      if leafHost p.2.2.2 then s.mqFinish m d stDONE
      else if s.atBoundaries d then (s.flip p true).mqFinish m d stDONE
      else s))

/-- FLIPD: HOST to DEV (R365). -/
def execFlipd (s : State) : Out :=
  .next (s.mqOp 3 (fun m d s =>
    match s.flipPage d with
    | none => s.mqFinish m d stINVALID
    | some p =>
      if !leafHost p.2.2.2 then s.mqFinish m d stDONE
      else if s.atBoundaries d then (s.flip p false).mqFinish m d stDONE
      else s))

/-- MAINTENANCE_DESCRIPTOR_INVALID (R362). -/
def execMaintenanceDescriptorInvalid (s : State) : Out :=
  .next (match s.mqHead with
    | (some (m, d), t) => if m.orig.pushed && mdBad d then t.mqFinish m d stINVALID else t
    | (none, t) => t)

end Sys2Proof.Machine
end

