-- ==== Sys2Proof/Machine/Supervisor.lean ====
section
/-! DEFINITION. Supervisor commands (R40, R41, R357, R373 to R375, R377 to R382, R391). -/

namespace Sys2Proof.Machine

/-! ## SCMD (R373) -/

def scCode (w : Word) : Nat := bitsOf w.toNat 0 4
def scCore (w : Word) : Nat := bitsOf w.toNat 4 7
def scCtx (w : Word) : CtxNo := ctxOf (16 * scCore w + bitsOf w.toNat 11 4)
def scArg16 (w : Word) : Nat := bitsOf w.toNat 16 16
def scArg32 (w : Word) : Nat := bitsOf w.toNat 32 32

/-- SSTAT. -/
def ssDONE : Nat := 0
def ssSTATE : Nat := 1
def ssARG : Nat := 2
def ssMEM : Nat := 3

/-- How a step of a command ends: with SSTAT, with an SSTAT that the spec does not state, or not yet. -/
inductive CmdRes where
  | done (sstat : Nat) (s : State)
  | odd (s : State)
  | busy (s : State)

/-- The task that the command's CTX belongs to. -/
def State.scTask (s : State) (w : Word) : Option Nat :=
  if (s.ctx (scCtx w)).st = .empty then none else some (s.ctx (scCtx w)).task

/-- The result of a step in SBUSY and SSTAT (R371). -/
def CmdRes.close (r : CmdRes) (k : Nat) : State :=
  match r with
  | .done st s => s.modSup k (fun u => { u with sbusy := false, sstat := BitVec.ofNat 7 st, stask := none })
  | .odd s => State.modSup { s with freeCtr := s.freeCtr + 1 } k (fun u =>
      { u with sbusy := false, sstat := (Config.freeStatus s.freeCtr).setWidth 7, stask := none })
  | .busy s => s.modSup k (fun u => { u with sbusy := true })

/-- The bits of SCMD that a write sets: [15] is reserved (R7, R373). -/
def scMask (w : Word) : Word := w &&& 0xFFFFFFFFFFFF7FFF

/-- A command begins: it leaves the queue, and one for a core of another supervisor ends with STATE. `own` says whether CORE names
the command's core. -/
def State.cmdBegin (s : State) (k : Nat) (w : Word) (t : Option Nat) (own : Bool) (f : Bool → Option Task → State → CmdRes) : State :=
  let s := s.modSup k (fun u => { u with scur := w, stask := t })
  if own && scCore w / 8 ≠ k then (CmdRes.done ssSTATE s).close k else (f true (t.bind s.task?) s).close k

/-- A row of SCMD: a write, which issues a command or queues it behind the one in progress; or, when the supervisor goes on by
itself, one more step of the command in progress or the beginning of the oldest queued one. Commands run one at a time. `f` takes
whether the command begins and the task of its CTX (R371, R373). -/
def State.command (s : State) (k : Nat) (w : Word) (code : Nat) (own : Bool) (f : Bool → Option Task → State → CmdRes) : State :=
  let u := s.sup k
  let w := scMask w
  if scCode w ≠ code then s
  else if u.spoll then
    let s := s.modSup k (fun u => { u with spoll := false })
    if u.sbusy then (f false (u.stask.bind s.task?) s).close k
    else
      match u.scq with
      | q :: r => (s.modSup k (fun u => { u with scq := r })).cmdBegin k q.1 q.2 own f
      | [] => s
  else
    let s := s.modSup k (fun u => { u with scmd := w })
    if u.sbusy || !u.scq.isEmpty then s.modSup k (fun u => { u with scq := u.scq ++ [(w, s.scTask w)] })
    else s.cmdBegin k w (s.scTask w) own f

/-! ## RESUME and WREG -/

/-- A resumed context: READY, or waiting for its end when it traps after cend (R284, R368, R373). -/
def Ctx.resumed (c : Ctx) (t : Nat) : Ctx :=
  if c.ending then
    { c with st := .stalled, dcount := 0, flight := c.flight ++ releaseAt t c.held, held := [], release := false }
  else { c with st := .ready, dcount := 0, release := true }

/-- RESUME (R373). -/
def execResume (k : SupNo) (w : Word) (s : State) : Out :=
  .next (s.command k.val w 1 true (fun _ _ s =>
    let x := scCtx w
    if (s.ctx x).st = .trapped then .done ssDONE (s.modCtx x (fun c => c.resumed (s.part (ctxPartNo x)).pcyc))
    else .done ssSTATE s))

/-- A register by its code, written by a supervisor; none for a code that WREG does not write (R51, R53, R373, R379). -/
def Ctx.wreg (c : Ctx) (code : Nat) (v : Word) : Option Ctx :=
  let n := code % 256
  let put (d : Dest) : Option Ctx := some { c.write d allLanes (ofWord v) with rpar := c.rpar.filter (fun e => e ≠ d) }
  match code / 256 with
  | 0 => if n < 64 then put (dstS (BitVec.ofNat 6 n)) else .none
  | 3 => if n < 8 then put (dstB (BitVec.ofNat 3 n)) else .none
  | 4 =>
    match n with
    | 0x00 => put .astat
    | 0x01 => some { c with dbg := v.getLsbD 17 }
    | 0x02 => some { c with pc := v &&& 0x1FFF }
    | 0x03 => some { c with npc := v &&& 0x1FFF }
    | 0x04 => put .vrb
    | 0x05 => put .prb
    | 0x06 => put .lc0
    | 0x07 => put .lc1
    | 0x08 => put .ec
    | 0x09 => put .utv
    | 0x0A => some { c with splim := v }
    | 0x0B => some { c with limit := v.setWidth 24 }
    | 0x0C => some { c with dcount := v.setWidth 24 }
    | _ => .none
  | _ => .none

/-- WREG: one s, b, counter or special register of a TRAPPED context takes SMBOX; PCYC and any other code end with ARG
(R373). -/
def execWreg (k : SupNo) (w : Word) (s : State) : Out :=
  .next (s.command k.val w 2 true (fun _ _ s =>
    let x := scCtx w
    if (s.ctx x).st ≠ .trapped then .done ssSTATE s
    else
      match (s.ctx x).wreg (scArg16 w) (s.sup k.val).smbox with
      | some c => .done ssDONE (s.setCtx x c)
      | none => .done ssARG s))

/-! ## STOP and WITHDRAW (R40, R41) -/

/-- STOP: a pre-emption request for the task of CTX; a task that is being loaded stops once it runs, and one that is being saved or
switched has stopped already (R40, R373). -/
def execStop (k : SupNo) (w : Word) (s : State) : Out :=
  .next (s.command k.val w 3 true (fun _ t s =>
    match t with
    | some t =>
      if t.st = .running || t.st = .stopping then
        .done ssDONE (s.modTask t.id (fun u => { u with st := .stopping, supStop := true }))
      else if t.st = .loading then .done ssDONE (s.modTask t.id (fun u => { u with supStop := true }))
      else if t.st = .saving || t.st = .switching then .done ssDONE s
      else .done ssSTATE s
    | none => .done ssSTATE s))

/-- A pending stop is withdrawn, with the pre-emption request that asked for it (R41). -/
def State.withdrawStop (s : State) (t : Task) : State :=
  (s.withdrawIf (fun p => p.victims.contains t.id)).unstop t.id

/-- WITHDRAW of a pending stop, also of one that waits for a task's load (R41, R373). -/
def execWithdraw (k : SupNo) (w : Word) (s : State) : Out :=
  .next (s.command k.val w 4 true (fun _ t s =>
    match t with
    | some t =>
      if t.st = .stopping then .done ssDONE (s.withdrawStop t)
      else if t.st = .loading && (t.supStop || s.preempt.any (fun p => p.victims.contains t.id)) then
        .done ssDONE ((s.withdrawIf (fun p => p.victims.contains t.id)).modTask t.id (fun u => { u with supStop := false }))
      else .done ssSTATE s
    | none => .done ssSTATE s))

/-! ## Saves and RESTORE (R377 to R380, R391) -/

/-- Cores of a task that a supervisor serves. -/
def Task.coresOf (t : Task) (k : Nat) : List Nat := t.cores.filter (fun c => c / 8 = k)

/-- The area at a page lies in DRAM. -/
def areaOk (page bytes : Nat) : Bool := decide (page * 4096 + bytes ≤ dramSize)

/-- One step of a save command: its team is saved once its block is written. -/
def State.savePoll (s : State) (t : Option Task) (core page : Nat) (frz : Bool) : CmdRes :=
  match t with
  | none => .done ssDONE s
  | some t =>
    let s := s.saveStep t core page frz
    if ((s.core core).team? t.id).isNone then .done ssDONE s else .busy s

/-- A save command begins: its pages are named to the monitor, and the task is being saved by command. -/
def State.saveBegin (s : State) (t : Task) (core page : Nat) (frz : Bool) : CmdRes :=
  match (s.core core).team? t.id with
  | none => .done ssSTATE s
  | some u =>
    let bytes := saveBytes u ((s.engineImage u).length)
    if !areaOk page bytes then .done ssMEM s
    else
      let ps := (List.range ((bytes + 4095) / 4096)).map (page + ·)
      let s := { s with mon := { s.mon with saveAreas := s.mon.saveAreas.filter (fun p => !ps.contains p) ++ ps } }
      let s := (s.beginSave t.id).modTask t.id (fun k => { k with supStop := true })
      s.savePoll (s.task? t.id) core page frz

/-- DSAVE of the team on CORE, once every context of the task on this supervisor's cores has stopped (R373, R377). -/
def execDsave (k : SupNo) (w : Word) (s : State) : Out :=
  .next (s.command k.val w 5 true (fun first t s =>
    if !first then s.savePoll t (scCore w) (scArg32 w) false
    else
      match t with
      | some t =>
        if (t.st = .stopping || t.st = .saving) && t.sw.isNone && s.allCtxs t.id (t.coresOf k.val) Ctx.atStop then
          s.saveBegin t (scCore w) (scArg32 w) false
        else .done ssSTATE s
      | none => .done ssSTATE s))

/-- FSAVE of the team on CORE, when a partition of the task is frozen or a context TRAPPED (R373, R378). -/
def execFsave (k : SupNo) (w : Word) (s : State) : Out :=
  .next (s.command k.val w 6 true (fun first t s =>
    if !first then s.savePoll t (scCore w) (scArg32 w) true
    else
      match t with
      | some t =>
        if (t.st = .running || t.st = .stopping || t.st = .saving) && t.sw.isNone &&
            (s.ctxsOn t.id t.cores).any (fun x => s.frozenCtx x || (s.ctx x).st = .trapped) then
          s.saveBegin t (scCore w) (scArg32 w) true
        else .done ssSTATE s
      | none => .done ssSTATE s))

/-- The task whose saved team has been granted a core. -/
def State.granted (s : State) (core : Nat) : Option (Task × Team) :=
  (s.core core).teams.findSome? (fun u =>
    match s.task? u.task with
    | some t => if t.st = .loading && t.was = .saved then some (t, u) else none
    | none => none)

/-- RESTORE of the team that CORE was granted, from an area that a supervisor named; one that cannot be read ends it with MEM
(R371, R373, R380, R391). -/
def execRestore (k : SupNo) (w : Word) (s : State) : Out :=
  .next (s.command k.val w 7 true (fun _ _ s =>
    match s.granted (scCore w) with
    | none => .done ssSTATE s
    | some (t, u) =>
      if !s.mon.saveAreas.contains (scArg32 w) ||
          !s.saves.any (fun v => v.page = scArg32 w && v.task = t.id && v.pos = u.pos) then .done ssMEM s
      else if s.saves.any (fun v => v.page = scArg32 w && v.task = t.id && (s.findMem (4096 * areaPage v.page)
          (saveBytes v.team v.neng)).areaBad v) then .done ssMEM s
      else
        let s := s.armTeam t u.pos
        match (s.core (scCore w)).team? t.id with
        | none => .odd s
        | some v => if v.armed then .done ssDONE s else .busy s))

/-! ## TERM and FANS (R357, R374, R375) -/

/-- TERM: ends the task on this supervisor's cores; a save that firmware takes by itself completes first, and the save is lost
(R373 to R375). -/
def execTerm (k : SupNo) (w : Word) (s : State) : Out :=
  .next (s.command k.val w 8 true (fun _ t s =>
    match t with
    | some t =>
      if t.st = .saving && !t.supStop then .busy s
      else if t.st = .running || t.st = .stopping || t.st = .saving || t.st = .switching || t.st = .saved || t.st = .loading then
        .done ssDONE (s.terminate t (t.coresOf k.val) (BitVec.ofNat 8 (scArg16 w)))
      else .done ssSTATE s
    | none => .done ssSTATE s))

/-- The supervisor forwards a fault to the host (R357). -/
def State.forward (s : State) (f : FaultRec) : State :=
  { s with
    fids := s.fids.map (fun g => if g.fid = f.fid then { g with fwd := true } else g)
    fqwait := s.fqwait ++ [{ f with fwd := true }] }

/-- FANS: 0 RETRY, 1 PERMANENT, 2 FORWARD (R357, R373). -/
def execFans (k : SupNo) (w : Word) (s : State) : Out :=
  .next (s.command k.val w 9 false (fun _ _ s =>
    match s.faultOf (scArg16 w) with
    | none => .done ssSTATE s
    | some f =>
      if !s.supMay k.val f then .done ssSTATE s
      else
        match scArg32 w % 4 with
        | 0 => .done ssDONE (s.answer f false)
        | 1 => .done ssDONE (s.answer f true)
        | 2 => if (s.routeOf f.claim).getLsbD 0 then .done ssDONE (s.forward f) else .odd s
        | _ => .done ssARG s))

end Sys2Proof.Machine
end

