-- ==== Sys2Proof/Machine/Readback.lean ====
section
/-! DEFINITION. Reading state back (R376, R383, R384, R391). -/

namespace Sys2Proof.Machine

/-! ## The other spaces (R383) -/

/-- A rope descriptor as the engine holds it (R13). -/
def Rope.descWord (k : Rope) : Nat :=
  b2n k.en + b2n k.pre * 2 + k.prio.toNat * 2 ^ 2 + k.asid.toNat * 2 ^ 8 + k.owner.toNat * 2 ^ 24 + k.mask.toNat * 2 ^ 64 +
    k.head.toNat * 2 ^ 192 + k.knots.toNat * 2 ^ 256 + k.vtab.toNat * 2 ^ 320 + k.status * 2 ^ 384

/-- An island record (R149). -/
def Island.word (k : Island) (core : Bool) : Nat :=
  let op (n : Nat) : Nat := if core then n else 0
  (BitVec.ofInt 32 k.hold).toNat + k.max % 2 ^ 31 * 2 ^ 32 + k.grant % 2 ^ 32 * 2 ^ 64 + op k.op.toNat * 2 ^ 96 +
    op k.ceil.toNat * 2 ^ 99 + op k.floor.toNat * 2 ^ 102 + op k.aop.toNat * 2 ^ 105 + op k.acause.toNat * 2 ^ 108 +
    op (b2n k.apend) * 2 ^ 112 + k.joule.toNat * 2 ^ 128 + op k.aint.toNat * 2 ^ 192

/-- A retirement-log entry (R376). -/
def RetEnt.word (e : RetEnt) : Nat :=
  e.recAddr.toNat + e.joule.toNat * 2 ^ 64 + e.status.toNat * 2 ^ 128 + e.tclass.toNat * 2 ^ 136 + e.dflits.toNat * 2 ^ 144 +
    e.rseq.toNat * 2 ^ 160

/-- Records of a supervisor's trap queue, those in the hub last. -/
def Sup.trapWord (u : Sup) (i w : Nat) : RdWord :=
  let n := (u.tqtail - u.tqhead).toNat
  if i < n then .of (Memory.rdN u.sram (u.tqbase.toNat + 32 * ((u.tqhead.toNat + i) % 256)) 32) 4 w
  else
    match u.twait[i - n]? with
    | some r => .of r.word 4 w
    | .none => .is 0

/-- An ASID that a core's tasks run in is hidden (R391). -/
def State.coreHidden (s : State) (c : Nat) : Bool :=
  (s.core c).teams.any (fun t => match s.task? t.task with
    | some k => (s.asid k.asid).hide
    | none => false)

/-- A routine entry serves a number of a hidden ASID (R384, R391). -/
def State.routineHidden (s : State) (k : Nat) : Bool :=
  s.asids.any (fun e => e.2.hide && (List.range 256).any (fun n => s.rmapOf (BitVec.ofNat 16 e.1) n = some k))

/-- What the engine holds for a rope: its fetched records with their latched waits. -/
def Rope.heldWords (k : Rope) : List Nat := k.fetched.flatMap (fun f => f.addr.toNat :: numWords f.recd.toNat 8 ++ [f.latched.toNat])

/-- A rope's part of the dispatcher: its candidates, whether each is eligible and startable, and the rope last started at its priority. -/
def State.dispWords (s : State) (r : Nat) : List Nat :=
  (s.candidates r).flatMap (fun c =>
    let starts := match (s.judge c.1 c.2).1 with
      | .start .. => true
      | _ => false
    [c.1.recAddr.toNat, b2n c.2, b2n starts]) ++ [SMap.get 255 s.lastRope (s.ropeOf r).prio.toNat]

/-- State of a task by number. -/
def TaskSt.code : TaskSt → Nat
  | .loading => 0
  | .running => 1
  | .stopping => 2
  | .saving => 3
  | .switching => 4
  | .saved => 5
  | .switched => 6
  | .retired => 7

/-- A resident task: rope, record, placement, state and credit per island. -/
def Task.words (t : Task) : List Nat :=
  t.rope.val :: t.recAddr.toNat :: numWords t.recd.toNat 8 ++ [t.base, t.ncores, t.st.code] ++ t.credit.flatMap (fun p => [p.1, p.2])

/-- The task in a resident slot. -/
def State.taskIn (s : State) (i : Nat) : List Nat :=
  ((s.tasks.find? (fun t => t.slot = i && t.st ≠ .retired && t.st ≠ .saved && t.st ≠ .switched)).map Task.words).getD []

/-- A command of the matrix queue. -/
def MCmd.words (k : MCmd) : List Nat :=
  k.x.val :: (match k.kind with
    | .call e a f m _ => [0, e, a, f] ++ m.toList.map (·.toNat)
    | .mft t a b => [1, t.toNat, a.toNat, b.toNat]
    | .mzero m => [2, m.toNat]
    | .mmov ld sat a f d m => [3, b2n ld, b2n sat, a.toNat, f.toNat, d.toNat, m])

/-- The queues of a core: matrix, copy, completion, halyard and landing buffers. -/
def State.queueWords (s : State) (c : Nat) : List Nat :=
  let k := s.core c
  let xs := k.teams.flatMap (·.ctxNos)
  (k.mtx.run.map (·.cmd)).toList.flatMap MCmd.words ++ k.mtx.queue.flatMap MCmd.words ++
    (imageWords (k.eng0.map (fun m => (0, m)) ++ k.eng1.map (fun m => (1, m)))).map (·.toNat) ++
    xs.flatMap (fun x => ((s.ctx x).cq.toList.flatten).map (·.toNat)) ++ k.hal.fields ++
    xs.flatMap (fun x => ((s.entries x).filter (·.1.buf)).flatMap (fun e => numWords (s.entryWord x e) 20))

/-- ECLS, TCT, DCOST and GINT. -/
def State.tableWords (s : State) : List Nat :=
  (List.range 16).map (fun i => (SMap.get 0 s.ecls i).toNat) ++ (List.range 16).map (fun i => (SMap.get 0 s.tct i).toNat) ++
    (List.range 8).map (fun i => (SMap.get 0 s.dcost i).toNat) ++ [s.gint.toNat]

/-- pts and the lease table of a core; DLT, SWC, EVT and the lines of a slice. -/
def State.leaseWords (s : State) (i : Nat) : List Nat :=
  if i < 128 then (s.core i).pts.toNat :: (s.core i).lease.flatMap (fun e => [e.line, e.rts.toNat])
  else
    [s.dlt.toNat, (SMap.get 0 s.swc (i - 128)).toNat, (SMap.get 0 s.evt (i - 128)).toNat] ++
      (s.lines.filter (fun l => l.slice = i - 128 && !l.out)).flatMap (fun l => [l.line, l.wts.toNat, l.rts.toNat])

/-- A DIR range entry. -/
def DirEnt.words (d : DirEnt) : List Nat := [d.core, d.task, d.n, d.gen]

/-- The map of an ASID: for each number 0, or the entry's index and 1. -/
def State.mapWords (s : State) (a : BitVec 16) : List Nat :=
  (List.range 256).map (fun n => ((s.rmapOf a n).map (· + 1)).getD 0)

/-- Who waits on a fault: the contexts of operations, the commands of the copy engines by core and tag, and accesses of the hub. -/
def State.waiterWords (s : State) (fid : Nat) : List Nat :=
  (s.ops.filter (fun o => o.fid = some fid)).map (fun o => o.x.val) ++
    s.cores.flatMap (fun e => ((e.2.eng0 ++ e.2.eng1).filter (fun k => k.fid = some fid)).map (fun k => e.1 * 65536 + k.tag.toNat)) ++
    (s.hubWaits.filter (fun h => h.fid = some fid)).map (·.va)

/-- A link queue: flits, owner task and credits. -/
def LinkQ.words (q : LinkQ) : List Nat :=
  (q.rx.filterMap id).flatMap (fun f => numWords f.toNat 16) ++ [(q.owner.map (· + 1)).getD 0, q.credits]

/-- Splice routine entries, the same in each slice, and from 256 on the maps of the ASIDs (R287, R383, R391). R383 gives indices 256 on to
both: the model reads the maps there (DESIGN CHOICE, log 106). -/
def State.spliceWord (s : State) (i w : Nat) : RdWord :=
  if i < 256 then
    if s.routineHidden (i % 64) then .is 0 else .of (SMap.get 0 s.routines (i % 64)).toNat 8 w
  else
    let a := BitVec.ofNat 16 (i - 256)
    if i < 256 + 65536 && !(s.asid a).hide then .list (s.mapWords a) w else .is 0

/-- The word at an address of a state space. The matrix entry table of a core stands first in its queues, two entries of R228 to a word
(DESIGN CHOICE, log 30). -/
def State.stateWord (s : State) (sp i w : Nat) : RdWord :=
  match sp with
  | 0x01 => if i < 256 then .then_ (s.ropeOf i).descWord 8 (s.ropeOf i).heldWords w else .is 0
  | 0x02 => if i < 256 then .list (s.dispWords i) w else .is 0
  | 0x03 => .list (s.taskIn i) w
  | 0x04 => if i < 2048 then s.ctxWord (ctxOf i) w else .is 0
  | 0x05 =>
    if 128 ≤ i then .is 0
    else if w < 32 then .is (mapWord (fun k => ((s.mtx i).entry k).entryWord) w 2 32)
    else .list (s.queueWords i) (w - 32)
  | 0x06 => if i < 196 then .then_ ((s.island i).word (decide (i < 128))) 4 s.tableWords w else .is 0
  | 0x07 => .list (if i < 64 * 2048 then (((s.dir.filter (fun d => d.slice = i / 2048))[i % 2048]?).map DirEnt.words).getD [] else []) w
  | 0x08 =>
    if i < 192 && !(if i < 128 then s.coreHidden i else (List.range 128).any s.coreHidden) then .list (s.leaseWords i) w else .is 0
  | 0x09 => s.spliceWord i w
  | 0x0A => match s.faultOf i with
    | some f => .then_ f.word 2 (s.waiterWords i) w
    | .none => .is 0
  | 0x0B => match (s.mq[i]?).bind (·.desc) with
    | some d => .of d.toNat 4 w
    | .none => .is 0
  | 0x0C => if i < 16 then (s.sup i).trapWord (w / 4) (w % 4) else .is 0
  | 0x0D => match (SMap.get [] s.retlog (i / 16))[i % 16]? with
    | some e => .of e.word 4 w
    | .none => .is 0
  | 0x0E => .list ((s.pins.filter (fun p => p.slice = i)).flatMap (fun p => [p.line, p.asid.toNat])) w
  | 0x0F => if i < 32 then .list (s.link i).words w else .is 0
  | _ => .is 0

/-- STATE_READBACK: SPACE in [47:40], INDEX in [39:16], WORD in [15:3] (R383, R384). -/
def execStateReadback (addr : BitVec 48) (s : State) : Out :=
  let a := addr.toNat
  match s.stateWord (bitsOf a 40 8) (bitsOf a 16 24) (bitsOf a 3 13) with
  | .is v => .next (s.send (.readback v))
  | .laid l => .next (s.send (.readback (Config.stateLayout a l)))

end Sys2Proof.Machine
end

