-- ==== Sys2Proof/Machine/Monitor.lean ====
section
/-! DEFINITION. The trusted monitor: boot and measurement, SPDM, monitor requests and firmware updates (R386 to R394). -/

namespace Sys2Proof.Machine

/-! ## Measurement (R387) -/

/-- The bytes of a digest. -/
def digestBytes (d : BitVec 256) : List Byte := natBytes d.toNat 32

/-- PMRn := SM3(PMRn || d). -/
def Monitor.extend (m : Monitor) (n : Fin 8) (d : BitVec 256) : Monitor :=
  { m with pmr := m.pmr.set n (Config.sm3 (digestBytes m.pmr[n] ++ digestBytes d)) }

/-! ## Boot (R386, R392, R394) -/

/-- The fused rollback counter of a target. -/
def Monitor.counter (m : Monitor) (t : Nat) : Nat := largest [m.counters.getD t 0, Config.fusedCounter t]

/-- An image passes the signature and rollback checks of its target. -/
def Monitor.accepts (m : Monitor) (t : Nat) (i : FwImage) : Bool := Config.sm2Valid m.keyHash i && decide (m.counter t ≤ i.version)

/-- The image that a slot holds, where the boot flash held `i` from manufacture. -/
def Flash.image (f : Flash) (b : Bool) (i : FwImage) : FwImage := (if b then f.slot1 else f.slot0).getD i

/-- The image of a target that boots, with its slots: the one marked as next, which is tried once, or the one that booted last. -/
def Monitor.pick (m : Monitor) (t : Fin 3) (i : FwImage) : Option (FwImage × Flash) :=
  let f := m.flash[t]
  if f.next && m.accepts t.val (f.image (!f.active) i) then some (f.image (!f.active) i, { f with active := !f.active, next := false })
  else if m.accepts t.val (f.image f.active i) then some (f.image f.active i, { f with next := false })
  else .none

/-- Boot one target: it is measured, and a staged image that booted may be committed. -/
def Monitor.bootOne (m : Monitor) (t : Fin 3) (i : FwImage) : Option Monitor :=
  match m.pick t i with
  | .none => .none
  | some p =>
    let n := m.extend ⟨t.val, by omega⟩ (Config.sm3 p.1.bytes)
    some { n with
      flash := m.flash.set t p.2
      booted := if p.2.active ≠ m.flash[t].active then m.booted.filter (fun b => b.1 ≠ t.val) ++ [(t.val, p.1.version)] else m.booted }

/-- Bytes of the fuse configuration: key hash, rollback counters and debug lock state (R387). -/
def Monitor.fuseBytes (m : Monitor) : List Byte :=
  digestBytes m.keyHash ++ (List.range 3).flatMap (fun t => natBytes (m.counter t) 8) ++ [Config.debugLock]

/-- A value that firmware loads (R6, log 2). -/
def fw (n w : Nat) : BitVec w := BitVec.ofNat w (Config.fwValue n)

/-- ASID 0 bound to the driver (R348, R386); its fields are firmware's (log 2). -/
def asid0 : AsidEnt :=
  { v := true, hmgd := (fw 1 1).getLsbD 0, prien := (fw 2 1).getLsbD 0, splok := (fw 3 1).getLsbD 0, hide := (fw 4 1).getLsbD 0
    root := fw 5 39, pasid := fw 6 20, claim := fw 7 8 }

/-- A fixed grant that firmware declares is set unless the sum of all floors would exceed MINCAP's allowance (R392). -/
def State.declare (s : State) (i : Nat) : State :=
  let v := Config.fwValue (600 + i)
  if total ((List.range 196).map (fun j => (s.island j).gfloor)) + v ≤ allowance s.mgmt.mincap.toNat then
    s.modIsland i (fun k => { k with gfloor := v })
  else s

/-- What firmware loads before the first task: caps, tables and queue bases (Reset FW; R149, R151, R155, R348, R371, R392,
R402). -/
def State.loadFirmware (s : State) : State :=
  let peak : Nat := if Config.singleFeed then 450 else 800
  let low := min (Config.fwValue 10) peak
  let m := { s.mgmt with
    modcap := fw 11 16, peakcap := BitVec.ofNat 16 peak, mincap := BitVec.ofNat 16 low, fallback := fw 12 16
    drainCap := Config.fwValue 13, freezeLimit := Config.fwValue 14, p4Policy := fw 15 2
    cethr := Config.fwValue 16 }
  let s := { s with
    mgmt := { m with effcap := m.capNow }
    ecls := (List.range 16).foldl (fun t i => SMap.set 0 t i ((fw (20 + i) 51).setWidth 64)) []
    tct := (List.range 16).foldl (fun t i => SMap.set 0 t i ((fw (40 + i) 27).setWidth 64)) []
    dcost := (List.range 8).foldl (fun t i => SMap.set 0 t i (fw (60 + i) 16)) [] }
  let s := s.setAsid 0 asid0
  let s := (List.range 196).foldl (fun s i => s.modIsland i (fun k =>
    { k with max := (fw (100 + i) 31).toNat, ceil := if i < 128 then fw (300 + i) 3 else 0 })) s
  let s := (List.range 16).foldl (fun s i => s.modSup i (fun u =>
    { u with tqbase := (fw (500 + i) 32).setWidth 64 * 0x2000, sfqbase := (fw (520 + i) 32).setWidth 64 * 0x1000 })) s
  [192, 193, 194, 195].foldl State.declare s

/-- COLD_RESET: where a feed carries power, boot from the boot flash's images with the key hash in the fuses; each step needs the one
before (R386, R395). -/
def execColdReset (monitor sup mgmt : FwImage) (fuses : BitVec 256) (s : State) : Out :=
  if !s.feeds.powered then .next s.powerOff
  else
  let z := { s.powerOff with feeds := { s.feeds with down := false } }
  let m := { z.mon with keyHash := fuses }
  match m.bootOne 0 monitor with
  | none => .next { z with mon := { m with boot := .halted } }
  | some m =>
    let m := m.extend 3 (Config.sm3 m.fuseBytes)
    match m.bootOne 1 sup with
    | none => .next { z with mon := { m with boot := .spdmOnly 1 } }
    | some m =>
      match m.bootOne 2 mgmt with
      | none => .next { z with mon := { m with boot := .spdmOnly 2 } }
      | some m => .next (State.loadFirmware { z with mon := { m with boot := .up, table := some Config.asidTable.toNat } })

/-! ## SPDM (R388) -/

/-- The RSC answers SPDM. -/
def Monitor.talks (m : Monitor) : Bool :=
  match m.boot with
  | .spdmOnly _ => true
  | .up => true
  | _ => false

/-- Response codes of SPDM 1.2 and 1.3 (log 31). -/
def rspDIGESTS : Nat := 0x01
def rspCERTIFICATE : Nat := 0x02
def rspCHALLENGE : Nat := 0x03
def rspVERSION : Nat := 0x04
def rspMEASUREMENTS : Nat := 0x60
def rspCAPABILITIES : Nat := 0x61
def rspALGORITHMS : Nat := 0x63
def rspERROR : Nat := 0x7F

/-- Identifiers of TPM_ALG_SM2 and TPM_ALG_SM3_256, and the error UnsupportedRequest (log 31). -/
def algSM2 : Byte := 0x1B
def algSM3 : Byte := 0x12
def errUNSUPPORTED : Byte := 0x07

/-- An SPDM request, while the RSC answers: in its turn it gets its response (R388). -/
def State.spdm (s : State) (k : SpdmKind) (param : SpdmParam) (code : Nat) (data : List Byte) : State :=
  if s.mon.talks then s.serveMon (.spdm k param) (fun s => s.send (.spdm param.bus code data)) else s

/-- GET_VERSION: 1.2 and 1.3 (R388). -/
def execGetVersion (param : SpdmParam) (s : State) : Out := .next (s.spdm .version param rspVERSION [0x12, 0x13])

/-- GET_CAPABILITIES: the requests of R388, no sessions (R388). -/
def execGetCapabilities (param : SpdmParam) (s : State) : Out := .next (s.spdm .capabilities param rspCAPABILITIES [])

/-- NEGOTIATE_ALGORITHMS: SM2 as the base asymmetric algorithm and SM3 as the base hash; a request that names another one in its first
or second place is refused (R388, log 31). -/
def execNegotiateAlgorithms (param : SpdmParam) (s : State) : Out :=
  .next (if (param.bytes.zip [algSM2, algSM3]).all (fun p => p.1 = p.2) && decide (param.bytes.length ≤ 2) then
      s.spdm .algorithms param rspALGORITHMS [algSM2, algSM3]
    else s.spdm .algorithms param rspERROR [errUNSUPPORTED])

/-- GET_DIGESTS: the digest of slot 0's certificate (R388). -/
def execGetDigests (param : SpdmParam) (s : State) : Out :=
  .next (s.spdm .digests param rspDIGESTS (digestBytes (Config.sm3 Config.certificate)))

/-- GET_CERTIFICATE of a slot; slot 0 is the only one (R388). -/
def execGetCertificate (param : SpdmParam) (s : State) : Out :=
  .next (if param.bytes.headD 0 = 0 then s.spdm .certificate param rspCERTIFICATE Config.certificate
    else s.spdm .certificate param rspERROR [errUNSUPPORTED])

/-- CHALLENGE of slot 0: the identity key signs (R388). -/
def execChallenge (param : SpdmParam) (s : State) : Out :=
  .next (if param.bytes.headD 0 = 0 then s.spdm .challenge param rspCHALLENGE (Config.sm2Sign param.bytes)
    else s.spdm .challenge param rspERROR [errUNSUPPORTED])

/-- GET_MEASUREMENTS: block 1 to 8 carries PMR0 to PMR7; 0xFF asks for all (R386, R388). -/
def execGetMeasurements (param : SpdmParam) (s : State) : Out :=
  let i := (param.bytes.headD 0xFF).toNat
  let pmr (n : Nat) : List Byte := digestBytes (s.mon.pmr.getD n 0)
  .next (if i = 0xFF then s.spdm .measurements param rspMEASUREMENTS ((List.range 8).flatMap pmr)
    else if 1 ≤ i && i ≤ 8 then s.spdm .measurements param rspMEASUREMENTS (pmr (i - 1))
    else s.spdm .measurements param rspERROR [errUNSUPPORTED])

/-- UNSUPPORTED_REQUEST, also a vendor-defined request whose standard or vendor ID is not the device's (R388, R389). -/
def execUnsupportedRequest (param : SpdmParam) (s : State) : Out :=
  .next (s.spdm .unsupported param rspERROR [errUNSUPPORTED])

/-! ## Monitor requests (R389, R390) -/

def rqOp (b : BitVec 512) : Nat := bitsOf b.toNat 0 8
def rqAsid (b : BitVec 512) : BitVec 16 := BitVec.ofNat 16 (bitsOf b.toNat 16 16)
def rqArg0 (b : BitVec 512) : Nat := bitsOf b.toNat 64 64
def rqArg1 (b : BitVec 512) : Nat := bitsOf b.toNat 128 64
def rqArg2 (b : BitVec 512) : Nat := bitsOf b.toNat 192 64

/-- A reserved bit of the block is set. -/
def rqRsvd (b : BitVec 512) : Bool := bitsOf b.toNat 8 8 ≠ 0 || bitsOf b.toNat 32 32 ≠ 0 || bitsOf b.toNat 256 256 ≠ 0

def rqBUSY : Nat := 1
def rqARG : Nat := 2
def rqDENIED : Nat := 3
def rqSIG : Nat := 4
def rqROLLBACK : Nat := 5

/-- What a request does: it answers with STATUS and RVAL, its answer waits for a shootdown, or it cannot go on yet. -/
inductive ReqRes where
  | done (status : Nat) (rval : Word) (s : State)
  | shoot (unbind : Bool) (s : State)
  | wait (s : State)

/-- A supervisor's block reaches its mailbox, and the doorbell word is 1 (R389). -/
def State.postBlock (s : State) (ch : Option SupNo) (b : BitVec 512) : State :=
  match ch with
  | none => s
  | some k => s.modSup k.val (fun u => { u with mblock := b, mbell := true })

/-- A monitor request of the host (none) or of a supervisor: it is carried out in its turn (R389). -/
def State.request (s : State) (ch : Option SupNo) (b : BitVec 512) (f : State → ReqRes) : State :=
  if s.mon.boot ≠ .up then s
  else (s.postBlock ch b).serveMon (.req ch b) (fun s =>
    match f s with
    | .done st v s => s.respond ch st v
    | .shoot u s => { s with mq := s.mq ++ [⟨some (shootDesc (rqAsid b).toNat 0 (2 ^ 36)), .monitor ch u⟩] }
    | .wait s => { s with mon := { s.mon with queue := .req ch b :: s.mon.queue } })

/-- A request marked "host": DENIED on the supervisor channel, ARG with a reserved bit set (R389, R390). -/
def hostOnly (ch : Option SupNo) (b : BitVec 512) (f : State → ReqRes) (s : State) : ReqRes :=
  if ch.isSome then .done rqDENIED 0 s else if rqRsvd b then .done rqARG 0 s else f s

/-- A level-3 table address: aligned to 8 KiB, in DRAM. -/
def rootOk (a : Nat) : Bool := a % 8192 = 0 && decide (a + 8192 ≤ dramSize)

/-- The policy word of BIND and ROUTE in an entry. -/
def AsidEnt.policy (e : AsidEnt) (w : Nat) : AsidEnt :=
  { e with
    pasid := BitVec.ofNat 20 w, claim := BitVec.ofNat 8 (bitsOf w 20 8), hmgd := bitOf w 28, prien := bitOf w 29
    splok := bitOf w 30, hide := bitOf w 31 }

/-- Write an ASID entry and extend PMR4 with the policy word (R387, R390). -/
def State.bindAs (s : State) (a : BitVec 16) (e : AsidEnt) (w : Nat) : State :=
  State.setAsid { s with mon := s.mon.extend 4 (Config.sm3 (natBytes w 8)) } a (e.policy w)

/-- BIND (R390). -/
def execBind (ch : Option SupNo) (b : BitVec 512) (s : State) : Out :=
  .next (s.request ch b (hostOnly ch b (fun s =>
    if !rootOk (rqArg0 b) || 2 ^ 32 ≤ rqArg1 b then .done rqARG 0 s
    else if (s.asid (rqAsid b)).v then .done rqBUSY 0 s
    else .done 0 0 (s.bindAs (rqAsid b) { AsidEnt.none with v := true, root := BitVec.ofNat 39 (rqArg0 b / 8192) } (rqArg1 b)))))

/-- An enabled rope, or a resident or saved task, uses the ASID. -/
def State.asidUsed (s : State) (a : BitVec 16) : Bool :=
  s.ropes.any (fun e => e.2.en && (e.2.asid = a || descAsid (s.ropeDesc e.1) = a)) || s.tasks.any (fun t => t.asid = a && t.st ≠ .retired)

/-- UNBIND: a whole-range SHOOT, after which pins, routines and the binding go (R390). -/
def execUnbind (ch : Option SupNo) (b : BitVec 512) (s : State) : Out :=
  .next (s.request ch b (hostOnly ch b (fun s =>
    if s.asidUsed (rqAsid b) then .done rqBUSY 0 s else .shoot true s)))

/-- ROOT (R390). -/
def execRoot (ch : Option SupNo) (b : BitVec 512) (s : State) : Out :=
  .next (s.request ch b (hostOnly ch b (fun s =>
    let a := rqAsid b
    if !rootOk (rqArg0 b) then .done rqARG 0 s
    else if !(s.asid a).v then .done rqBUSY 0 s
    else .shoot false (s.setAsid a { s.asid a with root := BitVec.ofNat 39 (rqArg0 b / 8192) }))))

/-- ROUTE (R390). -/
def execRoute (ch : Option SupNo) (b : BitVec 512) (s : State) : Out :=
  .next (s.request ch b (hostOnly ch b (fun s =>
    if 2 ^ 32 ≤ rqArg1 b then .done rqARG 0 s
    else if !(s.asid (rqAsid b)).v then .done rqBUSY 0 s
    else .done 0 0 (s.bindAs (rqAsid b) (s.asid (rqAsid b)) (rqArg1 b)))))

/-- FLOOR: a core island's GFLOOR or a fixed island's grant, within MINCAP's allowance (R390, R392). -/
def execFloor (ch : Option SupNo) (b : BitVec 512) (s : State) : Out :=
  .next (s.request ch b (hostOnly ch b (fun s =>
    let i := rqArg0 b
    let others := total ((List.range 196).map (fun j => if j = i then 0 else (s.island j).gfloor))
    if !(decide (i < 128) || (decide (192 ≤ i) && decide (i ≤ 195))) || allowance s.mgmt.mincap.toNat < others + rqArg1 b then
      .done rqARG 0 s
    else .done 0 0 (s.modIsland i (fun k => { k with gfloor := rqArg1 b })))))

/-- A read of an image: its bytes, not in DRAM of ASID 0, or not yet there. -/
inductive ImgRd where
  | ok (l : List Byte) (s : State)
  | bad (s : State)
  | wait (s : State)

/-- n bytes at a virtual address in ASID 0, line by line, in DRAM; a hold or a fault is waited for, as for any access of the hub (R357,
R394). SRC and the core of such a fault are a supervisor's of core 0 (DESIGN CHOICE, log 67). -/
def State.readAsid0 (s : State) (va n : Nat) : Nat → ImgRd
  | 0 => .ok [] s
  | fuel + 1 =>
    if n = 0 then .ok [] s
    else
      let k := min n (64 - va % 64)
      match s.hubAccess .monitor hubAgent 0 (va % 2 ^ 64) false (s.asid 0).claim srcSup 0 with
      | .wait t => .wait t
      | .bad t => .bad t
      | .ok pa a t =>
        if dramSize < pa + k then .bad t
        else
          let r := t.readHome whoPort a pa k
          match State.readAsid0 r.2 (va + k) (n - k) fuel with
          | .ok l u => .ok (natBytes r.1 k ++ l) u
          | r => r

/-- A fused counter rises to the version of the staged image that booted (R394). -/
def Monitor.commit (m : Monitor) (t : Nat) : Monitor :=
  match m.booted.find? (fun p => p.1 = t) with
  | some p => { m with counters := m.counters.set t (largest [m.counters.getD t 0, p.2]) }
  | .none => m

/-- An image goes into the slot of a target that did not boot last, which is marked as next (R394). -/
def Flash.stage (f : Flash) (i : FwImage) : Flash :=
  if f.active then { f with slot0 := some i, next := true } else { f with slot1 := some i, next := true }

/-- Stage an image in the target's inactive slot (R394). -/
def State.stageImage (s : State) (t : Fin 3) (l : List Byte) : ReqRes :=
  let i : FwImage := ⟨l, [], Config.fwVersion l⟩
  if !Config.sm2Valid s.mon.keyHash i then .done rqSIG 0 s
  else if i.version < s.mon.counter t.val then .done rqROLLBACK 0 s
  else .done 0 0 { s with mon := { s.mon with
    flash := s.mon.flash.set t (s.mon.flash[t].stage i), booted := s.mon.booted.filter (fun p => p.1 ≠ t.val) } }

/-- UPDATE: stages an image, or with length 0 commits the one that booted (R390, R394). -/
def execUpdate (ch : Option SupNo) (b : BitVec 512) (s : State) : Out :=
  .next (s.request ch b (hostOnly ch b (fun s =>
    let t := rqArg2 b
    if 3 ≤ t then .done rqARG 0 s
    else if rqArg1 b = 0 then
      if s.mon.booted.any (fun p => p.1 = t) then .done 0 0 { s with mon := s.mon.commit t } else .done rqBUSY 0 s
    else
      match s.readAsid0 (rqArg0 b) (rqArg1 b) (rqArg1 b / 64 + 2) with
      | .ok l u => u.stageImage (Fin.ofNat 3 t) l
      | .bad u => .done rqARG 0 u
      | .wait u => .wait u)))

/-- QUERY: the address of the ASID table (R390). -/
def execQuery (ch : Option SupNo) (b : BitVec 512) (s : State) : Out :=
  .next (s.request ch b (fun s => if rqRsvd b then .done rqARG 0 s else .done 0 Config.asidTable s))

/-- MONITOR_REQUEST_OTHER_OP (R390). -/
def execMonitorRequestOtherOp (ch : Option SupNo) (b : BitVec 512) (s : State) : Out :=
  .next (s.request ch b (fun s => .done rqARG 0 s))

end Sys2Proof.Machine
end

