-- ==== Sys2Proof/Machine/Checkpoint.lean ====
section
/-! DEFINITION. Chassis checkpoints: taking one, its messages, and restoring after a fence (R416 to R422). -/

namespace Sys2Proof.Machine

/-! ## Members (R412, R416, R419) -/

/-- This module's number. -/
def self : Nat := Config.modnum.toNat

/-- Members other than this one, while it takes part in the chassis. -/
def State.others (s : State) : List Nat := if s.mgmt.chen then s.mgmt.peers else []

/-- Module k is fenced. -/
def State.isFenced (s : State) (k : Nat) : Bool := bitOf s.mgmt.fmask.toNat k

/-- Members that are not fenced, this one among them, by rising number. -/
def State.survivors (s : State) : List Nat := (List.range 4).filter (fun k => k = self || (s.others.contains k && !s.isFenced k))

/-- The coordinator. -/
def State.coordinator (s : State) : Nat := s.survivors.headD self

/-- The buddy that keeps this module's mirror. -/
def State.buddy (s : State) : Option Nat :=
  let l := s.survivors.filter (fun k => k ≠ self)
  if l.contains (self ^^^ 1) then some (self ^^^ 1) else l.head?

/-! ## What a checkpoint covers (R417, R418) -/

/-- The rope is checkpointed. -/
def State.ckRope (s : State) (r : Nat) : Bool := s.mgmt.ckropes.getLsbD r

/-- Tasks of checkpointed ropes. -/
def State.ckTasks (s : State) : List Task := s.tasks.filter (fun t => s.ckRope t.rope.val)

/-- Pairs that tasks of checkpointed ropes own. -/
def State.ckPairs (s : State) : List Nat :=
  (List.range 32).filter (fun p => match (s.link p).owner with
    | some t => s.ckTasks.any (fun k => k.id = t)
    | none => false)

/-- The checkpoint region table: regions (base, bytes), and whether an entry breaks R418. -/
def State.ckTable (s : State) : List (Nat × Nat) × Bool :=
  let l := (List.range s.mgmt.cknreg.toNat).map (fun i => Memory.rdN s.dram (s.mgmt.ckrt.toNat * 64 + 16 * i) 16)
  let base (e : Nat) : Nat := bitsOf e 0 48
  let n (e : Nat) : Nat := bitsOf e 64 36 * 4096
  (l.map (fun e => (base e, n e)),
    l.any (fun e => bitsOf e 48 16 ≠ 0 || bitsOf e 100 28 ≠ 0 || n e = 0 || base e % 4096 ≠ 0 || dramSize < base e + n e))

/-! ## Taking a checkpoint (R417) -/

/-- BEGIN: dispatch on checkpointed ropes stops, the table is read, and the buddy is the one of this moment (R417 to R419). -/
def State.ckStart (s : State) (n : BitVec 32) : State :=
  let t := s.ckTable
  { s with
    mgmt := { s.mgmt with cknum := n }, ckGone := false
    ckRun := some { n := n, regions := t.1, bad := t.2, stopped := [], marked := false, buddy := s.buddy, written := false } }

/-- Every running task of a checkpointed rope is asked to stop. -/
def State.ckStop (s : State) (r : CkRun) : State :=
  let l := (s.ckTasks.filter (fun t => t.st = .running)).map (·.id)
  l.foldl (fun s t => s.modTask t (fun k => { k with st := .stopping }))
    { s with ckRun := some { r with stopped := r.stopped ++ l } }

/-- A marker follows the last flit sent on every owned pair (R420). -/
def State.ckMark (s : State) (r : CkRun) : State :=
  s.ckPairs.foldl (fun s p => s.setLink p { s.link p with tx := (s.link p).tx ++ [(0, [], none)] })
    { s with ckRun := some { r with marked := true } }

/-- The flits ahead of a pair's marker. -/
def aheadOfMarker : List (Option VReg) → List (Option VReg)
  | [] => []
  | none :: _ => []
  | some f :: r => some f :: aheadOfMarker r

/-- A pair without its first marker. -/
def dropMarker : List (Option VReg) → List (Option VReg)
  | [] => []
  | none :: r => r
  | some f :: r => some f :: dropMarker r

/-- The peer's marker has arrived on a pair, or no live peer will send one. -/
def State.markerIn (s : State) (p : Nat) : Bool :=
  (s.link p).rx.contains none || !s.survivors.contains (Config.linkPeer (p / 4) % 4) || Config.linkPeer (p / 4) % 4 = self

/-- Teams of the tasks on their cores. -/
def State.ckTeams (s : State) (l : List Task) : List (Task × Team) :=
  l.flatMap (fun t => t.cores.filterMap (fun c => ((s.core c).team? t.id).map (fun u => (t, u))))

/-- Where the knot arrays of checkpointed ropes stand in DRAM, page by page (R20: 65,536 knots of 8 bytes). -/
def State.ckKnots (s : State) : List (Nat × Nat) :=
  (s.ropes.filter (fun e => s.ckRope e.1 && e.2.en)).flatMap (fun e =>
    let k := e.2.knots.toNat
    (List.range 129).filterMap (fun i =>
      let lo := max k (k / 4096 * 4096 + 4096 * i)
      let hi := min (k + 524288) (k / 4096 * 4096 + 4096 * i + 4096)
      match s.look hubAgent e.2.asid lo false with
      | .ok pa _ => if paTarget pa = 0 && decide (lo < hi) then some (pa, hi - lo) else none
      | _ => none))

/-- Ranges of DRAM that a checkpoint copies: rope descriptors, knot arrays, regions. -/
def State.ckRanges (s : State) (r : CkRun) : List (Nat × Nat) :=
  ((List.range 256).filter s.ckRope).map (fun i => (s.ropeAddr i, 64)) ++ s.ckKnots ++ r.regions

/-- The checkpoint of the moment. -/
def State.ckTake (s : State) (r : CkRun) : Ckpt :=
  { n := r.n, tasks := s.ckTasks
    saves := (s.ckTeams s.ckTasks).map (fun p => s.teamBlock p.1 p.2 (2 ^ 33 + 128 * p.1.id + p.2.core) false) ++
      s.saves.filter (fun v => s.ckTasks.any (fun t => t.id = v.task))
    ropes := s.ropes.filter (fun e => s.ckRope e.1)
    mem := (s.ckRanges r).map (fun p => (p.1, p.2, Memory.window s.dram p.1 p.2))
    flits := s.ckPairs.map (fun p => (p, aheadOfMarker (s.link p).rx))
    credits := s.ckPairs.map (fun p => (p, (s.link p).credits)) }

/-- Bytes of a checkpoint's parts. -/
def Ckpt.bytes (k : Ckpt) : Nat :=
  total (k.saves.map (fun v => saveBytes v.team v.cmds.length)) + total (k.mem.map (fun m => m.2.1)) +
    total (k.flits.map (fun f => 128 * f.2.length))

/-- The tasks that the checkpoint stopped go on, and their halyards with them. -/
def State.ckResume (s : State) (l : List Nat) : State :=
  let s := (s.ckTeams (s.tasks.filter (fun t => l.contains t.id))).foldl (fun s p =>
    s.modCore p.2.core (fun c =>
      { c.modTeam p.1.id (fun u => { u with leaving := false }) with
        hal := if p.2.hal then { c.hal with st := c.hal.unstopped, saved := none } else c.hal })) s
  l.foldl (fun s t => match s.task? t with
    | some k => if k.supStop then s else s.unstop t
    | none => s) s

/-- CKCOMMIT and NOMIR of a committed checkpoint. -/
def State.ckCommit (s : State) (n : BitVec 32) (nomir : BitVec 4) : State :=
  { s with mgmt := { s.mgmt with ckcommit := n, nomir := nomir } }

/-- The members that reported DONE n with the NOMIR flag (R419). -/
def State.noMirror (s : State) (n : BitVec 32) : BitVec 4 :=
  BitVec.ofNat 4 (maskNat (fun k => (s.peer k).done = some (n, true)) 4)

/-- With DONE n from every member that is not fenced, the coordinator sends COMMIT n and commits. -/
def State.ckMaybeCommit (s : State) : State :=
  let n := s.mgmt.cknum
  let all := s.survivors.all (fun k => match (s.peer k).done with
    | some d => d.1 = n
    | none => false)
  let w := s.noMirror n
  if s.coordinator = self && !s.ckGone && s.mgmt.ckcommit ≠ n && all then (s.ckCommit n w).send (.ckCommit n w) else s

/-- DONE n, or FAIL n, is sent; the coordinator hears itself (R417, R418). -/
def State.ckReport (s : State) (n : BitVec 32) (ok nomir : Bool) : State :=
  let s := if ok then s.setPeer self { s.peer self with done := some (n, nomir) } else { s with ckGone := s.ckGone || s.coordinator = self }
  s.send (if ok then .ckDone n nomir else .ckFail n)

/-- A checkpoint's bytes in its slot: the spec names their contents and not their layout, so each is free (R417, R418, log 68). -/
def State.ckWrite (s : State) (slot bytes : Nat) : State :=
  let a := s.mgmt.ckbase.toNat * 65536 + slot * (s.mgmt.ckslot.toNat * 65536)
  let n := (bytes + 7) / 8
  if a + 8 * n ≤ dramSize then
    { s with
      dram := s.dram.putWords a ((List.range n).map (fun w => Config.saveWord (a + 8 * w) s.freeCtr)), freeCtr := s.freeCtr + 1
      poison := s.poison.filter (fun g => decide (8 * g < a) || decide (a + 8 * n ≤ 8 * g)) }
  else s

/-- A checkpoint's own slot. -/
def ckSlot (n : BitVec 32) : Nat := n.toNat % 2

/-- The bytes of checkpoint n go through the buddy's window into slot `slot` there; its area is taken to lie as this module's does (R417,
R418, log 68). -/
def State.mirrorBytes (s : State) (b slot : Nat) (n : BitVec 32) : State :=
  let size := s.mgmt.ckslot.toNat * 65536
  let base := s.mgmt.ckbase.toNat * 65536
  match s.ckpts.find? (fun k => k.n = n) with
  | some k => (List.range ((k.bytes + 63) / 64)).foldl (fun (t : State) i =>
      t.send (.peerWrite b (base + slot * size + 64 * i) (natBytes (Memory.rdN s.dram (base + ckSlot n * size + 64 * i) 64) 64))) s
  | none => s

/-- The mirror goes to a buddy, if there is one (R418, R419). -/
def State.ckMirror (s : State) (b : Option Nat) (n : BitVec 32) : State :=
  match b with
  | some b => (s.mirrorBytes b (2 + 2 * self + ckSlot n) n).send (.mirror b (2 + 2 * self + ckSlot n) n)
  | none => s

/-- The last step: the tasks go on, and the report is sent (R417). -/
def State.ckEnd (s : State) (r : CkRun) (ok : Bool) : State :=
  State.ckMaybeCommit (State.ckReport (State.ckResume { s with ckRun := none } r.stopped) r.n ok r.buddy.isNone)

/-- The slot is written and its mirror begins; a checkpoint that breaks R418 ends here. -/
def State.ckFinish (s : State) (r : CkRun) : State :=
  let k := s.ckTake r
  let s := s.ckPairs.foldl (fun s p => s.setLink p { s.link p with rx := dropMarker (s.link p).rx }) s
  if !r.bad && decide (k.bytes ≤ s.mgmt.ckslot.toNat * 65536) then
    let s : State := { s with ckpts := s.ckpts.filter (fun c => ckSlot c.n ≠ ckSlot r.n) ++ [k] }
    State.ckMirror { s.ckWrite (ckSlot r.n) k.bytes with ckRun := some { r with written := true } } r.buddy r.n
  else s.ckEnd r false

/-- While the mirror is under way: a buddy that has been fenced is replaced and the mirror written again; else the mirror is complete
(R419). -/
def State.ckMirrored (s : State) (r : CkRun) : State :=
  match r.buddy with
  | none => s.ckEnd r true
  | some b =>
    if s.isFenced b then State.ckMirror { s with ckRun := some { r with buddy := s.buddy } } s.buddy r.n
    else s.ckEnd r true

/-- One step of the checkpoint being taken. -/
def State.ckStep (s : State) (r : CkRun) : State :=
  if r.written then s.ckMirrored r
  else if s.ckTasks.any (fun t => t.st = .running) then s.ckStop r
  else
    let l := s.ckTasks.filter (fun t => t.st = .stopping)
    let s := (s.ckTeams l).foldl (fun s p => if p.2.hal && p.2.ctxNos.all (fun x => (s.ctx x).atStop) then s.stopHal p.2.core else s) s
    let moving := s.ckTasks.any (fun t => t.st = .loading || t.st = .saving || t.st = .switching || (t.st = .stopping && t.sw.isSome) ||
      (t.st = .stopping && s.allCtxs t.id t.cores (fun c => c.st = .ended)))
    if moving || !(s.ckTeams l).all (fun p => s.drained p.2) then s
    else if !r.marked then s.ckMark r
    else
      let dirty := (s.ckTeams l).filter (fun p => s.dirtyTeam p.2)
      if !dirty.isEmpty then dirty.foldl (fun s p => s.flushTeam p.2) s
      else if !(s.ckTeams l).all (fun p => s.settledTeam p.2 false) || !s.ckPairs.all s.markerIn then s
      else s.ckFinish r

/-- The markers of an abandoned checkpoint that have arrived count for no other one (R420, log 68). -/
def State.dropMarkers (s : State) : State :=
  s.links.foldl (fun t e => t.setLink e.1 { e.2 with rx := e.2.rx.filter Option.isSome }) s

/-- Checkpoint n begins; one that is still being taken is abandoned, and its tasks go on (R417, R421). -/
def State.ckBegin (s : State) (n : BitVec 32) : State :=
  match s.ckRun with
  | some r => ((if r.written then s else s.dropMarkers).ckResume r.stopped).ckStart n
  | none => s.ckStart n

/-- BEGIN: a member starts checkpoint n, or takes one more step of it (R417). -/
def execBegin (n : BitVec 32) (s : State) : Out :=
  .next (match s.ckRun with
    | some r => if r.n = n then s.ckStep r else s.ckBegin n
    | none => s.ckBegin n)

/-- CHECKPOINT_PERIOD: the coordinator sends BEGIN n with n = CKNUM + 1 and begins itself (R416, R417). -/
def execCheckpointPeriod (s : State) : Out :=
  if s.mgmt.ckper = 0 || s.coordinator ≠ self then .next s
  else
    let n := s.mgmt.cknum + 1
    .next ((s.ckBegin n).send (.ckBegin n))

/-! ## The coordinator (R418, R419, R421) -/

/-- DONE n of a member (R421). -/
def execDone (k : Fin 4) (n : BitVec 32) (nomir : Bool) (s : State) : Out :=
  .next (State.ckMaybeCommit (s.setPeer k.val { s.peer k.val with done := some (n, nomir) }))

/-- FAIL n: the coordinator abandons n (R418, R421). -/
def execFail (_k : Fin 4) (n : BitVec 32) (s : State) : Out :=
  .next (if s.coordinator = self && n = s.mgmt.cknum then { s with ckGone := true } else s)

/-- COMMIT n, with the members whose part has no mirror (R419, R421). -/
def execCommit (n : CkCommit) (s : State) : Out := .next (s.ckCommit n.n n.nomir)

/-! ## Restore (R422) -/

/-- A range of DRAM takes its saved contents; no copy of the old contents stays behind. -/
def State.putRange (s : State) (m : Nat × Nat × Memory) : State :=
  let inR (pa : Nat) : Bool := decide (m.1 ≤ pa) && decide (pa < m.1 + m.2.1)
  let s := { s with owners := s.owners.filter (fun o => !inR (4 * o.word)) }
  let s := s.clearCopies (fun k => s.at k (fun _ pa _ => inR pa))
  { s with
    dram := Memory.putWindow (s.dram.clearRange m.1 m.2.1) m.1 m.2.2
    poison := s.poison.filter (fun g => !inR (8 * g)), hostCached := s.hostCached.filter (fun l => !inR (64 * l)) }

/-- A checkpointed task waits to be restarted, or keeps the state in which it was not resident. -/
def Task.restored (t : Task) : Task :=
  { t with st := if t.st = .stopping || t.st = .running then .saved else t.st, credit := [], doneParts := [], supStop := false }

/-- The checkpoint comes back: ranges, ropes, tasks with their blocks, and queued flits. -/
def State.ckRestore (s : State) (k : Ckpt) : State :=
  let s := k.mem.foldl State.putRange s
  let s := k.ropes.foldl (fun s e => s.setRope e.1 e.2) s
  let s := { s with tasks := s.tasks ++ k.tasks.map Task.restored, saves := s.saves ++ k.saves }
  k.flits.foldl (fun s f => s.setLink f.1 { s.link f.1 with
    rx := f.2, credits := ((k.credits.find? (fun c => c.1 = f.1)).map (·.2)).getD 64
    owner := (k.tasks.find? (fun t => t.links.getLsbD f.1)).map (·.id) }) s

/-- The pairs that a checkpoint brings back: what they hold now is undone on both sides, so no credit goes back for it (R44, R422). -/
def State.emptyPairs (s : State) (k : Ckpt) : State :=
  k.flits.foldl (fun s f => s.setLink f.1 { s.link f.1 with rx := [], tx := [] }) s

/-- What remains at a fence of a checkpoint being taken: one whose slot is written still gets its mirror and its report (R419). -/
def CkRun.atFence (r : CkRun) : Option CkRun := if r.written then some { r with stopped := [] } else none

/-- After a fence: every task of a checkpointed rope is terminated, and CKCOMMIT is restored; a checkpoint that was being taken is
abandoned (R422). -/
def State.rollBack (s : State) : State :=
  let k := s.ckpts.find? (fun k => k.n = s.mgmt.ckcommit)
  let c := State.dropMarkers { s with ckRun := s.ckRun.bind CkRun.atFence }
  let c := (k.map c.emptyPairs).getD c
  let c := c.ckTasks.foldl (fun (u : State) t =>
    let v := u.terminate t t.cores 0
    { v with tasks := v.tasks.filter (fun w => w.id ≠ t.id) }) c
  match k with
  | some k => c.ckRestore k
  | none => c

end Sys2Proof.Machine
end

