-- ==== Sys2Proof/Machine/Chassis.lean ====
section
/-! DEFINITION. Heartbeats, module fences, isolation, fabric requests; core fences, errors and the environment (R405 to R415,
R423, R425). -/

namespace Sys2Proof.Machine

/-! ## Fencing a module (R412, R413, R415, R422) -/

/-- Hub cycles in 5 ms. -/
def silenceLimit : Nat := 10000000

/-- Bit k of a 4-bit mask. -/
def bit4 (k : Nat) : BitVec 4 := BitVec.ofNat 4 (2 ^ k)

/-- Module m is fenced: FMASK, the takeover module, the notices, what it means for a checkpoint in progress, and the roll-back
(R412 to R414, R421, R422). -/
def State.fenceModule (s : State) (m : Nat) : State :=
  if m = self || s.isFenced m || !s.others.contains m then s
  else
    let was := s.coordinator
    let g := { s.mgmt with
      fmask := s.mgmt.fmask ||| bit4 m, unfence := s.mgmt.unfence &&& ~~~bit4 m, retrain := s.mgmt.retrain &&& ~~~bit4 m }
    let t := { s with mgmt := g }
    let best := largest (t.survivors.map (fun k => if k = self then g.ckcommit.toNat else (t.peer k).ck.toNat))
    let commit : BitVec 32 := if was = m && t.coordinator = self then BitVec.ofNat 32 best else g.ckcommit
    let gone := t.ckGone || !((t.peer m).done.any (fun d => d.1 = g.cknum))
    let t := { t with mgmt := { g with tkovr := BitVec.ofNat 2 (t.survivors.headD self), ckcommit := commit }, ckGone := gone }
    (t.send (.fenceNotice m)).rollBack

/-- HEARTBEAT_SEND: MODNUM and CKCOMMIT to every other member (R412). -/
def execHeartbeatSend (s : State) : Out := .next (if s.mgmt.chen && !s.fatal then s.send (.heartbeat self s.mgmt.ckcommit) else s)

/-- HEARTBEAT_RECEIVE: the silence restarts; a fenced module's heartbeat is ignored, unless its re-admission was asked for and its
links have retrained since (R412, R414, R415). -/
def execHeartbeatReceive (k : Fin 4) (ck : BitVec 32) (s : State) : Out :=
  let asked := bitOf s.mgmt.unfence.toNat k.val && !bitOf s.mgmt.retrain.toNat k.val
  if !s.others.contains k.val || (s.isFenced k.val && !asked) then .next s
  else
    let g := s.mgmt
    let g := { g with fmask := g.fmask &&& ~~~bit4 k.val, unfence := g.unfence &&& ~~~bit4 k.val, isol := false }
    let t := State.setPeer { s with mgmt := g } k.val { s.peer k.val with silent := 0, ck := ck }
    .next { t with mgmt := { g with tkovr := BitVec.ofNat 2 (t.survivors.headD self) } }

/-- 5 ms have passed without a heartbeat from a member. -/
def State.silentLong (s : State) (k : Nat) : Bool := decide (silenceLimit ≤ (s.peer k).silent)

/-- HEARTBEAT_TIMEOUT (R412). -/
def execHeartbeatTimeout (k : Fin 4) (s : State) : Out := .next (if s.silentLong k.val then s.fenceModule k.val else s)

/-- FENCE_NOTICE (R412). -/
def execFenceNotice (k : Fin 4) (s : State) : Out := .next (s.fenceModule k.val)

/-- ISOLATION: with no peer heard for 5 ms, ISOL is set and every member is fenced (R415). -/
def execIsolation (s : State) : Out :=
  .next (if !s.others.isEmpty && s.others.all s.silentLong then
    s.others.foldl (fun s k => s.fenceModule k) { s with mgmt := { s.mgmt with isol := true } } else s)

/-- UNFENCE: a write of HBSTAT; re-admission of the fenced modules whose bits in [7:4] are 1, whose links retrain (R415). -/
def execUnfence (v : Word) (s : State) : Out :=
  let k := v.extractLsb' 4 4 &&& s.mgmt.fmask
  .next { s with mgmt := { s.mgmt with unfence := s.mgmt.unfence ||| k, retrain := s.mgmt.retrain ||| k } }

/-- The links to modules that are to be re-admitted have retrained at a free moment (R415, log 68). -/
def State.retrainStep (s : State) : State :=
  if s.mgmt.retrain = 0 then s
  else { s with
    mgmt := { s.mgmt with retrain := s.mgmt.retrain &&& BitVec.ofNat 4 (Config.choice s.freeCtr) }, freeCtr := s.freeCtr + 1 }

/-- Silence of every member grows by one hub cycle. -/
def State.countSilence (s : State) : State :=
  s.others.foldl (fun s k => s.setPeer k { s.peer k with silent := (s.peer k).silent + 1 }) s

/-! ## Fabric requests (R414) -/

/-- Functions of an atomic of the fabric (R278, R279, R414). -/
def amoOfF : Nat → AmoFn
  | 0 => .add
  | 1 => .and
  | 2 => .or
  | 3 => .xor
  | 4 => .min
  | 5 => .max
  | 6 => .minu
  | 7 => .maxu
  | 8 => .swap
  | 9 => .cas
  | _ => .fadd

/-- A request for this module's memory performs at its home slice; a compare that fails counts as a write there (R119, R133, R279). -/
def State.fabricHere (s : State) (q : FabricReq) : State :=
  let a := s.hostAttr q.off
  if q.kind = 1 then (s.writeHome whoPort none a q.off [⟨q.off, q.n, q.data.toNat⟩]).send (.fabric [] false)
  else
    let r := s.readHome whoPort a q.off q.n
    if r.2.physBad q.off q.n then r.2.send (.fabric [] true)
    else if q.kind = 0 then r.2.send (.fabric (natBytes r.1 q.n) false)
    else
      let s := match (amoNew (amoOfF q.func) q.n r.1 (q.data.toNat % 2 ^ (8 * q.n)) (q.exp.toNat % 2 ^ (8 * q.n))).1 with
        | some v => r.2.writeHome { whoPort with first := false } none a q.off [⟨q.off, q.n, v⟩] |>.stampWrite none a q.off
        | none => r.2.stampWrite none a q.off
      s.send (.fabric (natBytes r.1 q.n) false)

/-- FABRIC_REQUEST: this module's addresses perform at home; a fenced module's get the poisoned answer from the takeover module;
offsets beyond DRAM are invalid and get it too (R413, R414). -/
def execFabricRequest (q : FabricReq) (s : State) : Out :=
  .next (if q.target = self then if q.off + q.n ≤ dramSize then s.atSlices q.off q.n (.fabric q) (·.fabricHere q) else s.send (.fabric [] true)
    else if s.isFenced q.target && s.survivors.headD self = self then s.send (.fabric [] true)
    else s)

/-! ## Core fences (R411) -/

/-- CFENCE_WRITE: bit c fences core c; the tasks on newly fenced cores are saved and restarted elsewhere (R411). -/
def execCfenceWrite (v : BitVec 128) (s : State) : Out :=
  let new := (List.range 128).filter (fun c => v.getLsbD c && !s.mgmt.cfence.getLsbD c)
  .next (new.foldl (fun s c => s.evacuate c) { s with mgmt := { s.mgmt with cfence := v } })

/-- One step of the saves that core fences asked for (R40, R411). -/
def State.evacStep (s : State) : State :=
  s.evac.foldl (fun s i =>
    match s.task? i with
    | none => { s with evac := s.evac.filter (· ≠ i) }
    | some t =>
      match t.st with
      | .running => s.modTask i (fun k => { k with st := .stopping })
      | .stopping => if s.victimStopped t then s.beginSave i else s
      | .saving => s
      | .loading => s
      | _ => { s with evac := s.evac.filter (· ≠ i) }) s

/-- TCLASS of a task that an error ends (R410, R411). -/
def tcFENCE : BitVec 8 := 0xFE

/-- Store of a latch in ERRLOG (R409). -/
def lsLATCH : BitVec 4 := 6

/-- SHARED_PARITY_ERROR: the core is fenced and its resident tasks are terminated (R410, R411). -/
def execSharedParityError (c : CoreNo) (s : State) : Out :=
  let s := { s with mgmt := { s.mgmt with
    cfence := s.mgmt.cfence ||| BitVec.ofNat 128 (2 ^ c.val), lstore := lsLATCH, lcore := BitVec.ofNat 7 c.val } }
  .next ((s.residents c.val).foldl (fun s t => s.terminate t t.cores tcFENCE) s)

/-- HUB_FATAL_ERROR: the rope engine, every core and every link stop, and no heartbeat is sent (R410). -/
def execHubFatalError (s : State) : Out := .next { s with fatal := true, mgmt := { s.mgmt with lstore := lsLATCH } }

/-! ## Errors of the stores (R407 to R411) -/

/-! ## ERRLOG, scrubbing, the environment, WHEAD (R407, R409, R423, R425) -/

/-- ERRLOG_READ: the word at 0x500; CECNT and UECNT clear (R409). -/
def execErrlogRead (s : State) : Out :=
  let m := s.mgmt
  let v := m.cecnt.toNat + m.uecnt.toNat * 2 ^ 16 + m.lstore.toNat * 2 ^ 32 + m.lcore.toNat * 2 ^ 36
  .next (State.send { s with mgmt := { m with cecnt := 0, uecnt := 0 } } (.regRead (BitVec.ofNat 64 v)))

/-- Hub cycles of the scrub periods: 10 minutes, an hour, 24 hours (R407). -/
def scrubCore : Nat := 1200000000000
def scrubSlice : Nat := 7200000000000
def scrubDram : Nat := 172800000000000

/-- A pass at this time reads the store: those of the cores every 10 minutes, the slices' every hour, DRAM every 24 hours; registers,
buffers and latches are never scrubbed (R407). -/
def State.scrubs (s : State) (e : ErrAt) : Bool :=
  match e with
  | .spad .. => true
  | .vault .. => true
  | .istore .. => true
  | .cache _ => s.now % scrubSlice = 0
  | .table => s.now % scrubSlice = 0
  | .dram _ => s.now % scrubDram = 0
  | .reg .. => false

/-- SCRUB_PASS: every granule of the stores whose period has passed is read; an error of one bit is corrected, one of two bits poisons
its granule, and each is counted; no value changes (R407 to R411, log 71). -/
def execScrubPass (s : State) : Out := .next (s.findErrs s.scrubs)

/-- ENV_LIMIT_EXCEEDED: the sensors read; above a limit, ENVW is set and reported (R425). -/
def execEnvLimitExceeded (rh corr : BitVec 8) (s : State) : Out :=
  let m := { s.mgmt with rh := rh, corr := corr }
  .next (if m.rhlim.toNat < rh.toNat || m.corlim.toNat < corr.toNat then
    State.send { s with mgmt := { m with envw := true } } (.report repEnv) else { s with mgmt := m })

/-- WHEAD_WRITE: discarded when it would make WTAIL - WHEAD exceed the ring (R423). -/
def execWheadWrite (v : Word) (s : State) : Out :=
  let m := s.mgmt
  .next (if 2 ^ m.wlog.toNat < (m.wtail - v.setWidth 32).toNat then s else { s with mgmt := { m with whead := v.setWidth 32 } })

end Sys2Proof.Machine
end

