-- ==== Sys2Proof/Machine/Registers.lean ====
section
/-! DEFINITION. Writes of the register blocks under their field types (R6, R7, R149, R151, R155, R348, R360, R371, R402, R411,
R415, R416, R418, R423, R425). -/

namespace Sys2Proof.Machine

/-! ## The host's block (R348) -/

/-- A write at an offset of BAR0; read-only fields and offsets that name nothing discard it. -/
def State.writeBar (s : State) (off : Nat) (v : Word) : Out :=
  let h := s.host
  match off with
  | 0x010 => .next (if h.rten then s else { s with host := { h with rtbase := v.extractLsb' 14 34 } })
  | 0x018 => execRtEnable v s
  | 0x020 => execMqPush v s
  | 0x028 => .next { s with host := { h with mqovf := h.mqovf && !v.getLsbD 8 } }
  | 0x030 => .next { s with host := { h with fqbase := v.extractLsb' 12 36 } }
  | 0x038 => .next { s with host := { h with fqlog := v.setWidth 3, fqen := v.getLsbD 31 } }
  | 0x048 => execFqHeadWrite v s
  | 0x050 => execFaultAnswer (v.setWidth 16) (v.extractLsb' 16 2) s
  | o => .next (if 0x400 ≤ o && o < 0xC00 && o % 8 = 0 then
      { s with host := { h with route := SMap.set 0 h.route ((o - 0x400) / 8) (v.setWidth 2) } } else s)

/-! ## The management block (R402, R411, R415, R416, R418, R423, R425) -/

/-- One 64-bit word of a wide register replaced. -/
def setWord {w : Nat} (r : BitVec w) (i : Nat) (v : Word) : BitVec w :=
  BitVec.ofNat w (r.toNat - bitsOf r.toNat (64 * i) 64 * 2 ^ (64 * i) + v.toNat * 2 ^ (64 * i))

/-- KANN and DRPMV: a value outside its range is discarded (R402). -/
def Mgmt.leads (m : Mgmt) (v : Word) : Mgmt :=
  let k := v.extractLsb' 16 4
  let d := v.extractLsb' 20 8
  { m with
    kann := if 2 ≤ k.toNat then k else m.kann, drpmv := if 20 ≤ d.toNat && d.toNat ≤ 80 then d else m.drpmv }

/-- CHEN, CHMEMB and CHBUD; a module whose CHMEMB bit is cleared is no longer out for its fence; silence counts from the moment that
CHEN is set (R402, R406, R412). -/
def State.writeChassis (s : State) (v : Word) : State :=
  let t := { s with mgmt := { s.mgmt with
    chen := v.getLsbD 0, chmemb := v.extractLsb' 3 4, chbud := v.extractLsb' 16 16 } }
  let t := (List.range 4).foldl (fun t k =>
    if t.mgmt.chmemb.getLsbD k then t else t.setPeer k { t.peer k with out := false }) t
  if v.getLsbD 0 && !s.mgmt.chen then
    (List.range 4).foldl (fun t k => t.setPeer k { t.peer k with silent := 0 }) t
  else t

/-- WBASE and WLOG; discarded while any bit of WREC is set (R423). -/
def Mgmt.ring (m : Mgmt) (v : Word) : Mgmt :=
  if m.wrec = 0 then { m with wbase := v.extractLsb' 6 46, wlog := v.extractLsb' 56 5 } else m

/-- Fields of the management block that take the value written. -/
def Mgmt.write (m : Mgmt) (off : Nat) (v : Word) : Mgmt :=
  match off with
  | 0x10 => m.leads v
  | 0x28 => { m with fallback := v.setWidth 16 }
  | 0x530 => { m with ckper := v.setWidth 16, ckbase := v.extractLsb' 16 48 }
  | 0x538 => { m with ckropes := setWord m.ckropes 0 v }
  | 0x540 => { m with ckropes := setWord m.ckropes 1 v }
  | 0x548 => { m with ckropes := setWord m.ckropes 2 v }
  | 0x550 => { m with ckropes := setWord m.ckropes 3 v }
  | 0x558 => { m with wrec := setWord m.wrec 0 v }
  | 0x560 => { m with wrec := setWord m.wrec 1 v }
  | 0x568 => { m with wrec := setWord m.wrec 2 v }
  | 0x570 => { m with wrec := setWord m.wrec 3 v }
  | 0x578 => m.ring v
  | 0x580 => { m with rhlim := v.extractLsb' 16 8, corlim := v.extractLsb' 24 8, envw := m.envw && !v.getLsbD 32 }
  | 0x5A0 => { m with ckrt := v.extractLsb' 6 46, cknreg := v.extractLsb' 56 8 }
  | 0x5A8 => { m with ckslot := v.setWidth 32 }
  | _ => m

/-- A write at an offset of the management block. -/
def State.writeMgmt (s : State) (off : Nat) (v : Word) : Out :=
  match off with
  | 0x00 => execModcapWrite v s
  | 0x18 => execRailfltClear v s
  | 0x20 => .next (s.writeChassis v)
  | 0x510 => execCfenceWrite (setWord s.mgmt.cfence 0 v) s
  | 0x518 => execCfenceWrite (setWord s.mgmt.cfence 1 v) s
  | 0x520 => execUnfence v s
  | 0x588 => execQuiesce v s
  | 0x598 => execWheadWrite v s
  | o => .next { s with mgmt := s.mgmt.write o v }

/-! ## A supervisor's block (R371, R373) -/

/-- A write of SCMD, by its CODE; the SSTAT of an unassigned code on a core of this supervisor is not stated. -/
def State.writeScmd (s : State) (k : SupNo) (v : Word) : Out :=
  match scCode v with
  | 1 => execResume k v s
  | 2 => execWreg k v s
  | 3 => execStop k v s
  | 4 => execWithdraw k v s
  | 5 => execDsave k v s
  | 6 => execFsave k v s
  | 7 => execRestore k v s
  | 8 => execTerm k v s
  | 9 => execFans k v s
  | c => .next (s.command k.val v c true (fun _ _ s => .odd s))

/-- A write at an offset of a supervisor's block. -/
def State.writeSup (s : State) (k : SupNo) (off : Nat) (v : Word) : Out :=
  match off with
  | 0x08 => execTqHeadWrite k v s
  | 0x10 => s.writeScmd k v
  | 0x20 => .next (s.modSup k.val (fun u => { u with tqbase := v }))
  | 0x28 => .next (s.modSup k.val (fun u => { u with smbox := v }))
  | 0x38 => execSfHeadWrite k v s
  | 0x40 => .next (s.modSup k.val (fun u => { u with sfqbase := v }))
  | 0x48 => execSmqPush k v s
  | 0x50 => .next (s.modSup k.val (fun u => { u with smqovf := u.smqovf && !v.getLsbD 0 }))
  | _ => .next s

/-! ## All spaces (log 32) -/

/-- REGISTER_WRITE: space 0 is BAR0, 1 the management block, 2 to 17 the supervisors; 18 ECLS, 19 TCT and 20 DCOST by index, 21
MAX of an island; 22 is the PRI enable in configuration space (R6, R149, R151, R155, R360, log 32). -/
def execRegisterWrite (space : Nat) (off : Nat) (v : Word) (s : State) : Out :=
  if space = 0 then s.writeBar off v
  else if space = 1 then s.writeMgmt off v
  else if space ≤ 17 then s.writeSup (Fin.ofNat 16 (space - 2)) off v
  else if space = 18 then .next (if off < 16 then { s with newTabs := s.newTabs ++ [(false, off, v &&& 0x7FFFFFFFFFFFF)] } else s)
  else if space = 19 then .next (if off < 16 then { s with newTabs := s.newTabs ++ [(true, off, v &&& 0x7FFFFFF)] } else s)
  else if space = 20 then .next (if off < 8 then { s with dcost := SMap.set 0 s.dcost off (v.setWidth 16) } else s)
  else if space = 21 then .next (if off < 196 then s.modIsland off (fun k => { k with max := v.toNat % 2 ^ 31 }) else s)
  else if space = 22 then .next (if v.getLsbD 0 then { s with host := { s.host with priOff := false } } else s)
  else .next s

end Sys2Proof.Machine
end

