-- ==== Sys2Proof/Machine/Dispatch.lean ====
section
/-! DEFINITION. The dispatch: one arm per constructor, each one call of that instruction's meaning. -/

namespace Sys2Proof.Machine

/-- The meaning of every instruction and event. -/
def exec (i : Instr) (s : State) : Host.Outcome State Fault Refusal :=
  match i with
  | .nop => Sys2Proof.Machine.execNop s
  | .add g d a b => Sys2Proof.Machine.execAdd g d a b s
  | .sub g d a b => Sys2Proof.Machine.execSub g d a b s
  | .and g d a b => Sys2Proof.Machine.execAnd g d a b s
  | .or g d a b => Sys2Proof.Machine.execOr g d a b s
  | .xor g d a b => Sys2Proof.Machine.execXor g d a b s
  | .andn g d a b => Sys2Proof.Machine.execAndn g d a b s
  | .min g d a b => Sys2Proof.Machine.execMin g d a b s
  | .max g d a b => Sys2Proof.Machine.execMax g d a b s
  | .minu g d a b => Sys2Proof.Machine.execMinu g d a b s
  | .maxu g d a b => Sys2Proof.Machine.execMaxu g d a b s
  | .mul g d a b => Sys2Proof.Machine.execMul g d a b s
  | .mulh g d a b => Sys2Proof.Machine.execMulh g d a b s
  | .mulhu g d a b => Sys2Proof.Machine.execMulhu g d a b s
  | .sll g d a b => Sys2Proof.Machine.execSll g d a b s
  | .srl g d a b => Sys2Proof.Machine.execSrl g d a b s
  | .sra g d a b => Sys2Proof.Machine.execSra g d a b s
  | .addi g d a i0 => Sys2Proof.Machine.execAddi g d a i0 s
  | .andi g d a i0 => Sys2Proof.Machine.execAndi g d a i0 s
  | .ori g d a i0 => Sys2Proof.Machine.execOri g d a i0 s
  | .xori g d a i0 => Sys2Proof.Machine.execXori g d a i0 s
  | .slli g d a n => Sys2Proof.Machine.execSlli g d a n s
  | .srli g d a n => Sys2Proof.Machine.execSrli g d a n s
  | .srai g d a n => Sys2Proof.Machine.execSrai g d a n s
  | .muli g d a i0 => Sys2Proof.Machine.execMuli g d a i0 s
  | .sel g d a b p => Sys2Proof.Machine.execSel g d a b p s
  | .cmpEq g p a b => Sys2Proof.Machine.execCmpEq g p a b s
  | .cmpNe g p a b => Sys2Proof.Machine.execCmpNe g p a b s
  | .cmpLt g p a b => Sys2Proof.Machine.execCmpLt g p a b s
  | .cmpLe g p a b => Sys2Proof.Machine.execCmpLe g p a b s
  | .cmpLtu g p a b => Sys2Proof.Machine.execCmpLtu g p a b s
  | .cmpLeu g p a b => Sys2Proof.Machine.execCmpLeu g p a b s
  | .cmpTst g p a b => Sys2Proof.Machine.execCmpTst g p a b s
  | .cmpNtst g p a b => Sys2Proof.Machine.execCmpNtst g p a b s
  | .cmpiEq g p a i0 => Sys2Proof.Machine.execCmpiEq g p a i0 s
  | .cmpiNe g p a i0 => Sys2Proof.Machine.execCmpiNe g p a i0 s
  | .cmpiLt g p a i0 => Sys2Proof.Machine.execCmpiLt g p a i0 s
  | .cmpiLe g p a i0 => Sys2Proof.Machine.execCmpiLe g p a i0 s
  | .pand g d a b => Sys2Proof.Machine.execPand g d a b s
  | .por g d a b => Sys2Proof.Machine.execPor g d a b s
  | .pxor g d a b => Sys2Proof.Machine.execPxor g d a b s
  | .pandn g d a b => Sys2Proof.Machine.execPandn g d a b s
  | .pset g p a => Sys2Proof.Machine.execPset g p a s
  | .pget g p a => Sys2Proof.Machine.execPget g p a s
  | .pcnt g p a => Sys2Proof.Machine.execPcnt g p a s
  | .pfirst g p a => Sys2Proof.Machine.execPfirst g p a s
  | .setb g b t => Sys2Proof.Machine.execSetb g b t s
  | .setbReg g b s0 => Sys2Proof.Machine.execSetbReg g b s0 s
  | .call g b f l => Sys2Proof.Machine.execCall g b f l s
  | .ret g f l => Sys2Proof.Machine.execRet g f l s
  | .lp0 g b => Sys2Proof.Machine.execLp0 g b s
  | .lp1 g b => Sys2Proof.Machine.execLp1 g b s
  | .lpe g b => Sys2Proof.Machine.execLpe g b s
  | .lset g c i0 => Sys2Proof.Machine.execLset g c i0 s
  | .lsetReg g c s0 => Sys2Proof.Machine.execLsetReg g c s0 s
  | .rotStep g => Sys2Proof.Machine.execRotStep g s
  | .rotSetv g i0 => Sys2Proof.Machine.execRotSetv g i0 s
  | .rotSetvReg g s0 => Sys2Proof.Machine.execRotSetvReg g s0 s
  | .rotSetp g i0 => Sys2Proof.Machine.execRotSetp g i0 s
  | .rotSetpReg g s0 => Sys2Proof.Machine.execRotSetpReg g s0 s
  | .mfs g d r => Sys2Proof.Machine.execMfs g d r s
  | .mts g d r => Sys2Proof.Machine.execMts g d r s
  | .adds g d a b k => Sys2Proof.Machine.execAdds g d a b k s
  | .clz g d a => Sys2Proof.Machine.execClz g d a s
  | .ctz g d a => Sys2Proof.Machine.execCtz g d a s
  | .popc g d a => Sys2Proof.Machine.execPopc g d a s
  | .rev8 g d a => Sys2Proof.Machine.execRev8 g d a s
  | .sextB g d a => Sys2Proof.Machine.execSextB g d a s
  | .sextH g d a => Sys2Proof.Machine.execSextH g d a s
  | .sextW g d a => Sys2Proof.Machine.execSextW g d a s
  | .zextB g d a => Sys2Proof.Machine.execZextB g d a s
  | .zextH g d a => Sys2Proof.Machine.execZextH g d a s
  | .zextW g d a => Sys2Proof.Machine.execZextW g d a s
  | .movi g d i0 => Sys2Proof.Machine.execMovi g d i0 s
  | .div g d a b => Sys2Proof.Machine.execDiv g d a b s
  | .divu g d a b => Sys2Proof.Machine.execDivu g d a b s
  | .rem g d a b => Sys2Proof.Machine.execRem g d a b s
  | .remu g d a b => Sys2Proof.Machine.execRemu g d a b s
  | .vadd g d a b t => Sys2Proof.Machine.execVadd g d a b t s
  | .vsub g d a b t => Sys2Proof.Machine.execVsub g d a b t s
  | .vmul g d a b t => Sys2Proof.Machine.execVmul g d a b t s
  | .vadds g d a b t => Sys2Proof.Machine.execVadds g d a b t s
  | .vsubs g d a b t => Sys2Proof.Machine.execVsubs g d a b t s
  | .vmin g d a b t => Sys2Proof.Machine.execVmin g d a b t s
  | .vmax g d a b t => Sys2Proof.Machine.execVmax g d a b t s
  | .vand g d a b => Sys2Proof.Machine.execVand g d a b s
  | .vor g d a b => Sys2Proof.Machine.execVor g d a b s
  | .vxor g d a b => Sys2Proof.Machine.execVxor g d a b s
  | .vandn g d a b => Sys2Proof.Machine.execVandn g d a b s
  | .vnot g d a => Sys2Proof.Machine.execVnot g d a s
  | .vsll g d a b => Sys2Proof.Machine.execVsll g d a b s
  | .vsrl g d a b => Sys2Proof.Machine.execVsrl g d a b s
  | .vsra g d a b => Sys2Proof.Machine.execVsra g d a b s
  | .vslls g d a s0 => Sys2Proof.Machine.execVslls g d a s0 s
  | .vsrls g d a s0 => Sys2Proof.Machine.execVsrls g d a s0 s
  | .vsras g d a s0 => Sys2Proof.Machine.execVsras g d a s0 s
  | .vfadd g d a b t => Sys2Proof.Machine.execVfadd g d a b t s
  | .vfsub g d a b t => Sys2Proof.Machine.execVfsub g d a b t s
  | .vfmul g d a b t => Sys2Proof.Machine.execVfmul g d a b t s
  | .vfmin g d a b t => Sys2Proof.Machine.execVfmin g d a b t s
  | .vfma g d a b t => Sys2Proof.Machine.execVfma g d a b t s
  | .vfms g d a b t => Sys2Proof.Machine.execVfms g d a b t s
  | .vfmax g d a b t => Sys2Proof.Machine.execVfmax g d a b t s
  | .vcvtV0V31 g d a f s0 => Sys2Proof.Machine.execVcvtV0V31 g d a f s0 s
  | .vcvtV32V63 g d a f s0 => Sys2Proof.Machine.execVcvtV32V63 g d a f s0 s
  | .vcvtSatV0V31 g d a f s0 => Sys2Proof.Machine.execVcvtSatV0V31 g d a f s0 s
  | .vcvtSatV32V63 g d a f s0 => Sys2Proof.Machine.execVcvtSatV32V63 g d a f s0 s
  | .vcmpEq g p a b => Sys2Proof.Machine.execVcmpEq g p a b s
  | .vcmpNe g p a b => Sys2Proof.Machine.execVcmpNe g p a b s
  | .vcmpLt g p a b => Sys2Proof.Machine.execVcmpLt g p a b s
  | .vcmpLe g p a b => Sys2Proof.Machine.execVcmpLe g p a b s
  | .vcmpuLtu g p a b => Sys2Proof.Machine.execVcmpuLtu g p a b s
  | .vcmpuLeu g p a b => Sys2Proof.Machine.execVcmpuLeu g p a b s
  | .vcmpuTst g p a b => Sys2Proof.Machine.execVcmpuTst g p a b s
  | .vcmpuNtst g p a b => Sys2Proof.Machine.execVcmpuNtst g p a b s
  | .vfcmpEq g p a b => Sys2Proof.Machine.execVfcmpEq g p a b s
  | .vfcmpNe g p a b => Sys2Proof.Machine.execVfcmpNe g p a b s
  | .vfcmpLt g p a b => Sys2Proof.Machine.execVfcmpLt g p a b s
  | .vfcmpLe g p a b => Sys2Proof.Machine.execVfcmpLe g p a b s
  | .vsel g d a b p => Sys2Proof.Machine.execVsel g d a b p s
  | .vperm g d a b => Sys2Proof.Machine.execVperm g d a b s
  | .vrotl g d a s0 => Sys2Proof.Machine.execVrotl g d a s0 s
  | .vbcl g d a s0 => Sys2Proof.Machine.execVbcl g d a s0 s
  | .vzipl g d a b => Sys2Proof.Machine.execVzipl g d a b s
  | .vziph g d a b => Sys2Proof.Machine.execVziph g d a b s
  | .vuzpl g d a b => Sys2Proof.Machine.execVuzpl g d a b s
  | .vuzph g d a b => Sys2Proof.Machine.execVuzph g d a b s
  | .vredFsum g d a => Sys2Proof.Machine.execVredFsum g d a s
  | .vredIsum g d a => Sys2Proof.Machine.execVredIsum g d a s
  | .vredFmax g d a => Sys2Proof.Machine.execVredFmax g d a s
  | .vredFmin g d a => Sys2Proof.Machine.execVredFmin g d a s
  | .vredImax g d a => Sys2Proof.Machine.execVredImax g d a s
  | .vredImin g d a => Sys2Proof.Machine.execVredImin g d a s
  | .vredAmax g d a => Sys2Proof.Machine.execVredAmax g d a s
  | .vtrLog2 g d a m => Sys2Proof.Machine.execVtrLog2 g d a m s
  | .vtrExp2 g d a m => Sys2Proof.Machine.execVtrExp2 g d a m s
  | .vtrRcp g d a m => Sys2Proof.Machine.execVtrRcp g d a m s
  | .vtrRsqrt g d a m => Sys2Proof.Machine.execVtrRsqrt g d a m s
  | .vtrSig g d a m => Sys2Proof.Machine.execVtrSig g d a m s
  | .vtrTanh g d a m => Sys2Proof.Machine.execVtrTanh g d a m s
  | .vhash g d a b => Sys2Proof.Machine.execVhash g d a b s
  | .vacc g d c r k => Sys2Proof.Machine.execVacc g d c r k s
  | .vaccLc g d c r k => Sys2Proof.Machine.execVaccLc g d c r k s
  | .vbc g d a => Sys2Proof.Machine.execVbc g d a s
  | .vget g d a b => Sys2Proof.Machine.execVget g d a b s
  | .vput g d a b => Sys2Proof.Machine.execVput g d a b s
  | .viota g d a => Sys2Proof.Machine.execViota g d a s
  | .mcall g e c => Sys2Proof.Machine.execMcall g e c s
  | .mwait g d => Sys2Proof.Machine.execMwait g d s
  | .mpar g m a => Sys2Proof.Machine.execMpar g m a s
  | .mpari g m i0 => Sys2Proof.Machine.execMpari g m i0 s
  | .mft g f a b => Sys2Proof.Machine.execMft g f a b s
  | .mzero g k => Sys2Proof.Machine.execMzero g k s
  | .mmovSt g c a o => Sys2Proof.Machine.execMmovSt g c a o s
  | .mmovStSat g c a o => Sys2Proof.Machine.execMmovStSat g c a o s
  | .mmovLd g c a o => Sys2Proof.Machine.execMmovLd g c a o s
  | .mrsw g i0 a => Sys2Proof.Machine.execMrsw g i0 a s
  | .mrse g e i0 => Sys2Proof.Machine.execMrse g e i0 s
  | .mstat g d => Sys2Proof.Machine.execMstat g d s
  | .mstatCnt g d => Sys2Proof.Machine.execMstatCnt g d s
  | .ldB g d a k => Sys2Proof.Machine.execLdB g d a k s
  | .ldH g d a k => Sys2Proof.Machine.execLdH g d a k s
  | .ldW g d a k => Sys2Proof.Machine.execLdW g d a k s
  | .ldD g d a k => Sys2Proof.Machine.execLdD g d a k s
  | .ldBs g d a k => Sys2Proof.Machine.execLdBs g d a k s
  | .ldHs g d a k => Sys2Proof.Machine.execLdHs g d a k s
  | .ldWs g d a k => Sys2Proof.Machine.execLdWs g d a k s
  | .ldvB g d a k => Sys2Proof.Machine.execLdvB g d a k s
  | .ldvH g d a k => Sys2Proof.Machine.execLdvH g d a k s
  | .ldvW g d a k => Sys2Proof.Machine.execLdvW g d a k s
  | .ldvD g d a k => Sys2Proof.Machine.execLdvD g d a k s
  | .ldvBs g d a k => Sys2Proof.Machine.execLdvBs g d a k s
  | .ldvHs g d a k => Sys2Proof.Machine.execLdvHs g d a k s
  | .ldvWs g d a k => Sys2Proof.Machine.execLdvWs g d a k s
  | .stB g d a k => Sys2Proof.Machine.execStB g d a k s
  | .stH g d a k => Sys2Proof.Machine.execStH g d a k s
  | .stW g d a k => Sys2Proof.Machine.execStW g d a k s
  | .stD g d a k => Sys2Proof.Machine.execStD g d a k s
  | .stvB g d a k => Sys2Proof.Machine.execStvB g d a k s
  | .stvH g d a k => Sys2Proof.Machine.execStvH g d a k s
  | .stvW g d a k => Sys2Proof.Machine.execStvW g d a k s
  | .stvD g d a k => Sys2Proof.Machine.execStvD g d a k s
  | .vldV g d a k => Sys2Proof.Machine.execVldV g d a k s
  | .vldBc g d a k => Sys2Proof.Machine.execVldBc g d a k s
  | .vldH g d a k => Sys2Proof.Machine.execVldH g d a k s
  | .vldvV g d a k => Sys2Proof.Machine.execVldvV g d a k s
  | .vldvBc g d a k => Sys2Proof.Machine.execVldvBc g d a k s
  | .vldvH g d a k => Sys2Proof.Machine.execVldvH g d a k s
  | .vstV g d a k => Sys2Proof.Machine.execVstV g d a k s
  | .vstH g d a k => Sys2Proof.Machine.execVstH g d a k s
  | .vstvV g d a k => Sys2Proof.Machine.execVstvV g d a k s
  | .vstvH g d a k => Sys2Proof.Machine.execVstvH g d a k s
  | .bgtMap g n a => Sys2Proof.Machine.execBgtMap g n a s
  | .bgtUnmap g n => Sys2Proof.Machine.execBgtUnmap g n s
  | .bgtFlush g n => Sys2Proof.Machine.execBgtFlush g n s
  | .bgtTouch g n a b => Sys2Proof.Machine.execBgtTouch g n a b s
  | .bgtQuery g n a => Sys2Proof.Machine.execBgtQuery g n a s
  | .cpyG2s g d a e => Sys2Proof.Machine.execCpyG2s g d a e s
  | .cpyS2g g d a e => Sys2Proof.Machine.execCpyS2g g d a e s
  | .cpyS2s g d a e => Sys2Proof.Machine.execCpyS2s g d a e s
  | .cpyG2g g d a e => Sys2Proof.Machine.execCpyG2g g d a e s
  | .cpyGath g d a e => Sys2Proof.Machine.execCpyGath g d a e s
  | .cpyScat g d a e => Sys2Proof.Machine.execCpyScat g d a e s
  | .cpyMcast g d a e => Sys2Proof.Machine.execCpyMcast g d a e s
  | .cpyTr g d a e => Sys2Proof.Machine.execCpyTr g d a e s
  | .cqPop g d e => Sys2Proof.Machine.execCqPop g d e s
  | .cqProg g d a e => Sys2Proof.Machine.execCqProg g d a e s
  | .cqCnt g d e => Sys2Proof.Machine.execCqCnt g d e s
  | .hyStart g a => Sys2Proof.Machine.execHyStart g a s
  | .hyStop g => Sys2Proof.Machine.execHyStop g s
  | .hyCred g a => Sys2Proof.Machine.execHyCred g a s
  | .hyBase g a => Sys2Proof.Machine.execHyBase g a s
  | .hyClr g => Sys2Proof.Machine.execHyClr g s
  | .hyPop g a => Sys2Proof.Machine.execHyPop g a s
  | .hyStat g a => Sys2Proof.Machine.execHyStat g a s
  | .hyProg g a => Sys2Proof.Machine.execHyProg g a s
  | .hyRdc g a => Sys2Proof.Machine.execHyRdc g a s
  | .hyDrop g => Sys2Proof.Machine.execHyDrop g s
  | .lsend g l v a => Sys2Proof.Machine.execLsend g l v a s
  | .lrecv g l v a => Sys2Proof.Machine.execLrecv g l v a s
  | .amoAddW g d a b => Sys2Proof.Machine.execAmoAddW g d a b s
  | .amoAndW g d a b => Sys2Proof.Machine.execAmoAndW g d a b s
  | .amoOrW g d a b => Sys2Proof.Machine.execAmoOrW g d a b s
  | .amoXorW g d a b => Sys2Proof.Machine.execAmoXorW g d a b s
  | .amoMinW g d a b => Sys2Proof.Machine.execAmoMinW g d a b s
  | .amoMaxW g d a b => Sys2Proof.Machine.execAmoMaxW g d a b s
  | .amoMinuW g d a b => Sys2Proof.Machine.execAmoMinuW g d a b s
  | .amoMaxuW g d a b => Sys2Proof.Machine.execAmoMaxuW g d a b s
  | .amoAddD g d a b => Sys2Proof.Machine.execAmoAddD g d a b s
  | .amoAndD g d a b => Sys2Proof.Machine.execAmoAndD g d a b s
  | .amoOrD g d a b => Sys2Proof.Machine.execAmoOrD g d a b s
  | .amoXorD g d a b => Sys2Proof.Machine.execAmoXorD g d a b s
  | .amoMinD g d a b => Sys2Proof.Machine.execAmoMinD g d a b s
  | .amoMaxD g d a b => Sys2Proof.Machine.execAmoMaxD g d a b s
  | .amoMinuD g d a b => Sys2Proof.Machine.execAmoMinuD g d a b s
  | .amoMaxuD g d a b => Sys2Proof.Machine.execAmoMaxuD g d a b s
  | .amoxSwapW g d a b => Sys2Proof.Machine.execAmoxSwapW g d a b s
  | .amoxSwapD g d a b => Sys2Proof.Machine.execAmoxSwapD g d a b s
  | .amoxCasW g d a b => Sys2Proof.Machine.execAmoxCasW g d a b s
  | .amoxCasD g d a b => Sys2Proof.Machine.execAmoxCasD g d a b s
  | .amoxFaddF32 g d a b => Sys2Proof.Machine.execAmoxFaddF32 g d a b s
  | .redAddW g a b => Sys2Proof.Machine.execRedAddW g a b s
  | .redAddD g a b => Sys2Proof.Machine.execRedAddD g a b s
  | .redMinW g a b => Sys2Proof.Machine.execRedMinW g a b s
  | .redMaxW g a b => Sys2Proof.Machine.execRedMaxW g a b s
  | .redMinuW g a b => Sys2Proof.Machine.execRedMinuW g a b s
  | .redMaxuW g a b => Sys2Proof.Machine.execRedMaxuW g a b s
  | .redFaddF32 g a b => Sys2Proof.Machine.execRedFaddF32 g a b s
  | .redOrD g a b => Sys2Proof.Machine.execRedOrD g a b s
  | .scLdW g d a => Sys2Proof.Machine.execScLdW g d a s
  | .scLdD g d a => Sys2Proof.Machine.execScLdD g d a s
  | .scStW g a b => Sys2Proof.Machine.execScStW g a b s
  | .scStD g a b => Sys2Proof.Machine.execScStD g a b s
  | .scSwapW g d a b => Sys2Proof.Machine.execScSwapW g d a b s
  | .scSwapD g d a b => Sys2Proof.Machine.execScSwapD g d a b s
  | .scAddD g d a b => Sys2Proof.Machine.execScAddD g d a b s
  | .scCasD g d a b => Sys2Proof.Machine.execScCasD g d a b s
  | .drainBraid g => Sys2Proof.Machine.execDrainBraid g s
  | .drainDie g => Sys2Proof.Machine.execDrainDie g s
  | .drainDev g => Sys2Proof.Machine.execDrainDev g s
  | .drainSys g => Sys2Proof.Machine.execDrainSys g s
  | .splCall g d a b => Sys2Proof.Machine.execSplCall g d a b s
  | .splCalln g d a b => Sys2Proof.Machine.execSplCalln g d a b s
  | .splInst g d a => Sys2Proof.Machine.execSplInst g d a s
  | .splRm g d => Sys2Proof.Machine.execSplRm g d s
  | .knotAdd g a b => Sys2Proof.Machine.execKnotAdd g a b s
  | .knotRd g d a => Sys2Proof.Machine.execKnotRd g d a s
  | .knotMax g d a b => Sys2Proof.Machine.execKnotMax g d a b s
  | .knotSwap g d a b => Sys2Proof.Machine.execKnotSwap g d a b s
  | .nrgQ g d s0 => Sys2Proof.Machine.execNrgQ g d s0 s
  | .nrgVreg g a b => Sys2Proof.Machine.execNrgVreg g a b s
  | .nrgVsw g a => Sys2Proof.Machine.execNrgVsw g a s
  | .cend g => Sys2Proof.Machine.execCend g s
  | .trap g c => Sys2Proof.Machine.execTrap g c s
  | .rtu g => Sys2Proof.Machine.execRtu g s
  | .bkpt g => Sys2Proof.Machine.execBkpt g s
  | .pin g d a => Sys2Proof.Machine.execPin g d a s
  | .unpin g d a => Sys2Proof.Machine.execUnpin g d a s
  | .dbgMark g a => Sys2Proof.Machine.execDbgMark g a s
  | .dbgBrk g => Sys2Proof.Machine.execDbgBrk g s
  | .barBraid g a => Sys2Proof.Machine.execBarBraid g a s
  | .routineEnd => Sys2Proof.Machine.execRoutineEnd s
  | .routineNop => Sys2Proof.Machine.execRoutineNop s
  | .ldb bank fsel mb => Sys2Proof.Machine.execLdb bank fsel mb s
  | .pass t row0 nrm1 bank ma => Sys2Proof.Machine.execPass t row0 nrm1 bank ma s
  | .passw t row0 nrm1 bank ma => Sys2Proof.Machine.execPassw t row0 nrm1 bank ma s
  | .setp md imm => Sys2Proof.Machine.execSetp md imm s
  | .addp md imm => Sys2Proof.Machine.execAddp md imm s
  | .setc c n => Sys2Proof.Machine.execSetc c n s
  | .loop c back => Sys2Proof.Machine.execLoop c back s
  | .skipz mr fwd => Sys2Proof.Machine.execSkipz mr fwd s
  | .zero t row0 nrm1 => Sys2Proof.Machine.execZero t row0 nrm1 s
  | .bias t row0 nrm1 ma => Sys2Proof.Machine.execBias t row0 nrm1 ma s
  | .scale t row0 nrm1 e => Sys2Proof.Machine.execScale t row0 nrm1 e s
  | .routineCopy t row0 nrm1 src srow0 => Sys2Proof.Machine.execRoutineCopy t row0 nrm1 src srow0 s
  | .addt t row0 nrm1 src srow0 => Sys2Proof.Machine.execAddt t row0 nrm1 src srow0 s
  | .maxz t row0 nrm1 => Sys2Proof.Machine.execMaxz t row0 nrm1 s
  | .resultLanding q => Sys2Proof.Machine.execResultLanding q s
  | .loadDataArrival x id => Sys2Proof.Machine.execLoadDataArrival x id s
  | .stallClear x => Sys2Proof.Machine.execStallClear x s
  | .bound x => Sys2Proof.Machine.execBound x s
  | .deferredTrap x => Sys2Proof.Machine.execDeferredTrap x s
  | .userTrapEntry x => Sys2Proof.Machine.execUserTrapEntry x s
  | .contextEnded x => Sys2Proof.Machine.execContextEnded x s
  | .barrierArrival x => Sys2Proof.Machine.execBarrierArrival x s
  | .scOrderPoint id => Sys2Proof.Machine.execScOrderPoint id s
  | .homeAtomicExecute id => Sys2Proof.Machine.execHomeAtomicExecute id s
  | .spliceExecute id => Sys2Proof.Machine.execSpliceExecute id s
  | .globalWritePerform id => Sys2Proof.Machine.execGlobalWritePerform id s
  | .fillComplete id => Sys2Proof.Machine.execFillComplete id s
  | .dirRecall slice => Sys2Proof.Machine.execDirRecall slice s
  | .ownershipRecall pa => Sys2Proof.Machine.execOwnershipRecall pa s
  | .hostSnoop pa data => Sys2Proof.Machine.execHostSnoop pa data s
  | .hostMemWrite pa data => Sys2Proof.Machine.execHostMemWrite pa data s
  | .hostMemRead pa n => Sys2Proof.Machine.execHostMemRead pa n s
  | .leaseTick => Sys2Proof.Machine.execLeaseTick s
  | .rebaseSweep => Sys2Proof.Machine.execRebaseSweep s
  | .ropeEnable r => Sys2Proof.Machine.execRopeEnable r s
  | .ropeDisable r => Sys2Proof.Machine.execRopeDisable r s
  | .headWrite r head => Sys2Proof.Machine.execHeadWrite r head s
  | .descriptorWriteObserved r => Sys2Proof.Machine.execDescriptorWriteObserved r s
  | .nextWordObserved r => Sys2Proof.Machine.execNextWordObserved r s
  | .recordFetch r => Sys2Proof.Machine.execRecordFetch r s
  | .knotWriteObserved r => Sys2Proof.Machine.execKnotWriteObserved r s
  | .dispatchChoice => Sys2Proof.Machine.execDispatchChoice s
  | .teamArmed task pos => Sys2Proof.Machine.execTeamArmed task pos s
  | .launchFailure task pos => Sys2Proof.Machine.execLaunchFailure task pos s
  | .taskRetire task => Sys2Proof.Machine.execTaskRetire task s
  | .variantSwitch task => Sys2Proof.Machine.execVariantSwitch task s
  | .matrixCommandStart c => Sys2Proof.Machine.execMatrixCommandStart c s
  | .mftExecute c => Sys2Proof.Machine.execMftExecute c s
  | .mzeroExecute c => Sys2Proof.Machine.execMzeroExecute c s
  | .mmovExecute c => Sys2Proof.Machine.execMmovExecute c s
  | .ldbLoadComplete c bank => Sys2Proof.Machine.execLdbLoadComplete c bank s
  | .callEnd c => Sys2Proof.Machine.execCallEnd c s
  | .vaccTileRead x id => Sys2Proof.Machine.execVaccTileRead x id s
  | .copyCommandStart c e => Sys2Proof.Machine.execCopyCommandStart c e s
  | .copyCommandEnd c e => Sys2Proof.Machine.execCopyCommandEnd c e s
  | .copyCommandPark c e => Sys2Proof.Machine.execCopyCommandPark c e s
  | .copyCommandResume c e => Sys2Proof.Machine.execCopyCommandResume c e s
  | .copyHold c => Sys2Proof.Machine.execCopyHold c s
  | .copyHoldRelease c => Sys2Proof.Machine.execCopyHoldRelease c s
  | .memoryDebit i0 task => Sys2Proof.Machine.execMemoryDebit i0 task s
  | .halyardBlockBegin c => Sys2Proof.Machine.execHalyardBlockBegin c s
  | .halyardPush c => Sys2Proof.Machine.execHalyardPush c s
  | .halyardCompletion c => Sys2Proof.Machine.execHalyardCompletion c s
  | .halyardFault c => Sys2Proof.Machine.execHalyardFault c s
  | .halyardStopComplete c => Sys2Proof.Machine.execHalyardStopComplete c s
  | .flitArrival link vc flit => Sys2Proof.Machine.execFlitArrival link vc flit s
  | .creditReturn link vc => Sys2Proof.Machine.execCreditReturn link vc s
  | .governorBoundary gi => Sys2Proof.Machine.execGovernorBoundary gi s
  | .opHopComplete c => Sys2Proof.Machine.execOpHopComplete c s
  | .railFault grp => Sys2Proof.Machine.execRailFault grp s
  | .droopTrip c => Sys2Proof.Machine.execDroopTrip c s
  | .stretchEnd c => Sys2Proof.Machine.execStretchEnd c s
  | .feedOutOfRange f => Sys2Proof.Machine.execFeedOutOfRange f s
  | .feedLoss => Sys2Proof.Machine.execFeedLoss s
  | .feedOvervoltage f => Sys2Proof.Machine.execFeedOvervoltage f s
  | .feedSwitchClose f => Sys2Proof.Machine.execFeedSwitchClose f s
  | .faultRecordWrite => Sys2Proof.Machine.execFaultRecordWrite s
  | .supervisorFaultRecordWrite k => Sys2Proof.Machine.execSupervisorFaultRecordWrite k s
  | .trapRecordWrite k => Sys2Proof.Machine.execTrapRecordWrite k s
  | .faultAnswer fid res => Sys2Proof.Machine.execFaultAnswer fid res s
  | .atsCompletion asid va a w => Sys2Proof.Machine.execAtsCompletion asid va a w s
  | .pageRequestResponse prg code => Sys2Proof.Machine.execPageRequestResponse prg code s
  | .atsInvalidation pasid va npg => Sys2Proof.Machine.execAtsInvalidation pasid va npg s
  | .rtEnable v => Sys2Proof.Machine.execRtEnable v s
  | .mqPush v => Sys2Proof.Machine.execMqPush v s
  | .fqHeadWrite v => Sys2Proof.Machine.execFqHeadWrite v s
  | .smqPush k v => Sys2Proof.Machine.execSmqPush k v s
  | .tqHeadWrite k v => Sys2Proof.Machine.execTqHeadWrite k v s
  | .sfHeadWrite k v => Sys2Proof.Machine.execSfHeadWrite k v s
  | .shoot => Sys2Proof.Machine.execShoot s
  | .fliph => Sys2Proof.Machine.execFliph s
  | .flipd => Sys2Proof.Machine.execFlipd s
  | .resume k w => Sys2Proof.Machine.execResume k w s
  | .wreg k w => Sys2Proof.Machine.execWreg k w s
  | .stop k w => Sys2Proof.Machine.execStop k w s
  | .withdraw k w => Sys2Proof.Machine.execWithdraw k w s
  | .dsave k w => Sys2Proof.Machine.execDsave k w s
  | .fsave k w => Sys2Proof.Machine.execFsave k w s
  | .restore k w => Sys2Proof.Machine.execRestore k w s
  | .term k w => Sys2Proof.Machine.execTerm k w s
  | .fans k w => Sys2Proof.Machine.execFans k w s
  | .stateReadback addr => Sys2Proof.Machine.execStateReadback addr s
  | .quiesce v => Sys2Proof.Machine.execQuiesce v s
  | .bind ch blk => Sys2Proof.Machine.execBind ch blk s
  | .unbind ch blk => Sys2Proof.Machine.execUnbind ch blk s
  | .root ch blk => Sys2Proof.Machine.execRoot ch blk s
  | .route ch blk => Sys2Proof.Machine.execRoute ch blk s
  | .floor ch blk => Sys2Proof.Machine.execFloor ch blk s
  | .update ch blk => Sys2Proof.Machine.execUpdate ch blk s
  | .query ch blk => Sys2Proof.Machine.execQuery ch blk s
  | .getVersion param => Sys2Proof.Machine.execGetVersion param s
  | .getCapabilities param => Sys2Proof.Machine.execGetCapabilities param s
  | .negotiateAlgorithms param => Sys2Proof.Machine.execNegotiateAlgorithms param s
  | .getDigests param => Sys2Proof.Machine.execGetDigests param s
  | .getCertificate param => Sys2Proof.Machine.execGetCertificate param s
  | .challenge param => Sys2Proof.Machine.execChallenge param s
  | .getMeasurements param => Sys2Proof.Machine.execGetMeasurements param s
  | .unsupportedRequest param => Sys2Proof.Machine.execUnsupportedRequest param s
  | .coldReset monitor sup mgmt fuses => Sys2Proof.Machine.execColdReset monitor sup mgmt fuses s
  | .modcapWrite v => Sys2Proof.Machine.execModcapWrite v s
  | .railfltClear v => Sys2Proof.Machine.execRailfltClear v s
  | .drpcntRead c => Sys2Proof.Machine.execDrpcntRead c s
  | .errlogRead => Sys2Proof.Machine.execErrlogRead s
  | .cfenceWrite v => Sys2Proof.Machine.execCfenceWrite v s
  | .unfence v => Sys2Proof.Machine.execUnfence v s
  | .wheadWrite v => Sys2Proof.Machine.execWheadWrite v s
  | .registerWrite space off v => Sys2Proof.Machine.execRegisterWrite space off v s
  | .arbitrationRound => Sys2Proof.Machine.execArbitrationRound s
  | .arbitrationMessage m => Sys2Proof.Machine.execArbitrationMessage m s
  | .heartbeatSend => Sys2Proof.Machine.execHeartbeatSend s
  | .heartbeatReceive k ck => Sys2Proof.Machine.execHeartbeatReceive k ck s
  | .heartbeatTimeout k => Sys2Proof.Machine.execHeartbeatTimeout k s
  | .fenceNotice k => Sys2Proof.Machine.execFenceNotice k s
  | .isolation => Sys2Proof.Machine.execIsolation s
  | .checkpointPeriod => Sys2Proof.Machine.execCheckpointPeriod s
  | .begin n => Sys2Proof.Machine.execBegin n s
  | .done k n nomir => Sys2Proof.Machine.execDone k n nomir s
  | .fail k n => Sys2Proof.Machine.execFail k n s
  | .commit n => Sys2Proof.Machine.execCommit n s
  | .checkpointMarker link vc => Sys2Proof.Machine.execCheckpointMarker link vc s
  | .wonusRecordWrite => Sys2Proof.Machine.execWonusRecordWrite s
  | .scrubPass => Sys2Proof.Machine.execScrubPass s
  | .sharedParityError c => Sys2Proof.Machine.execSharedParityError c s
  | .hubFatalError => Sys2Proof.Machine.execHubFatalError s
  | .envLimitExceeded rh corr => Sys2Proof.Machine.execEnvLimitExceeded rh corr s
  | .fabricRequest q => Sys2Proof.Machine.execFabricRequest q s
  | .illegalEncoding x => Sys2Proof.Machine.execIllegalEncoding x s
  | .monitorRequestOtherOp ch blk => Sys2Proof.Machine.execMonitorRequestOtherOp ch blk s
  | .maintenanceDescriptorInvalid => Sys2Proof.Machine.execMaintenanceDescriptorInvalid s
  | .feedReturn f => Sys2Proof.Machine.execFeedReturn f s

end Sys2Proof.Machine
end

