-- ==== Sys2Proof/Machine/Issue.lean ====
section
/-! DEFINITION. The issue of a bundle (R48, R66, R369) and the partition's cycle (R47, R61). The code generator cannot build a
constructor of so large a type, so what decodes is noncomputable; Lean's kernel evaluates it. -/

namespace Sys2Proof.Machine

/-- The decoded bundle at PC, or the trap that fetching it raises (R174). -/
noncomputable def State.fetchBundle (s : State) (x : CtxNo) : Except TrapInfo Bundle :=
  match s.fetchCause x with
  | some i => .error i
  | none =>
    match s.teamOf x with
    | none => .error (bundleTrap tILLEGAL Cause.pc.code)
    | some t =>
      match decodeBundle t.mtx t.hal (SMap.get 0 t.bundles (s.ctx x).pc.toNat) with
      | .error (c, p) => .error ⟨tILLEGAL, c.code, p, 0⟩
      | .ok b => .ok b

/-- Run the ops of a bundle in slot order; each sees its own slot number and the leaf supplied so far. -/
def State.runOps (x : CtxNo) (t : Nat) (b : Bundle) : List (Nat × Instr) → State → Out
  | [], s => .next s
  | (k, i) :: r, s =>
    match exec i { s with issue := { issueOf x t k b s.issue.leaf with jumped := s.issue.jumped } } with
    | .next s' => State.runOps x t b r s'
    | o => o

/-- The first precise fault of a bundle in slot order (R369): no op before it has taken effect. -/
def State.firstTrap (s : State) (x : CtxNo) (t : Nat) (b : Bundle) : List (Nat × Instr) → Option TrapInfo
  | [] => none
  | (k, i) :: r =>
    match exec i { s with issue := issueOf x t k b none } with
    | .next s' => if (s'.ctx x).st = .trapped then s'.issue.trap else s.firstTrap x t b r
    | _ => s.firstTrap x t b r

/-- An rtu outside a handler (R293). -/
def inhBad (c : Ctx) (ops : List (Nat × Instr)) : Bool :=
  ops.any (fun k => match k.2 with
    | .rtu g => c.guard0 g && !c.inh
    | _ => false)

/-- A drain bundle, as it issues (R37). -/
def State.isDrain (s : State) (x : CtxNo) (b : Bundle) : Bool :=
  let c := s.ctx x
  b.drain && !c.bp && c.flight.isEmpty && c.held.isEmpty && c.heldU.isEmpty && (s.outCmds x 0).isEmpty &&
    (s.outCmds x 1).isEmpty && decide ((s.core (ctxCore x)).mtx.qcnt x = 0)

/-- The end of a bundle that issued: PC, NPC and BP advance (R66), DCOUNT restarts at a drain bundle (R38) after its operations have
read it (DESIGN CHOICE, log 120), and the context leaves the issue slot when it ends, waits at a barrier or stops (R40, R47, R283, R284). -/
def State.afterBundle (s : State) (x : CtxNo) (b : Bundle) (leaf : Option Word) (drain stop : Bool) : State :=
  let s := if s.issue.jumped then s
    else s.modCtx x (fun c => c.advance (if b.t then leaf else s.issue.leaf))
  let s := if drain then s.modCtx x (fun c => { c with dcount := 0 }) else s
  let c := s.ctx x
  if c.ending || c.bar.isSome then
    (s.modCtx x (fun c => { c with st := .stalled, barDrain := drain && c.bar.isSome })).leave x
  else if drain && stop && c.swt.isNone then (s.modCtx x (fun c => { c with st := .stopped })).leave x
  else s

/-- What becomes of the bundle at PC. -/
inductive Attempt where
  | trap (i : TrapInfo)
  | stall (b : Bundle)
  | freeze
  | done (o : Out)

/-- The tests of a bundle in the order of R369 and its issue, on a state in which what is due has landed. -/
noncomputable def State.attempt (u : State) (x : CtxNo) : Attempt :=
  let t := u.cycleOf x
  match u.fetchBundle x with
  | .error i => .trap i
  | .ok b =>
    let l := u.leafOf x b
    let ops := bundleRuns b l.1 l.2.isSome
    let c := u.ctx x
    let rd := c.reads b ops
    if destClash c ops then .trap (bundleTrap tILLEGAL Cause.dest.code)
    else if inhBad c ops then .trap ⟨tILLEGAL, Cause.inh.code, 4, 0⟩
    else
      match (if c.dbg then rd.find? (c.pendingAt t) else none) with
      | some p => .trap ⟨tEARLY, 0x01, BitVec.ofNat 3 p.part, BitVec.ofNat 64 p.reg.code⟩
      | none =>
        if u.bundleStalls x b ops then .stall b
        else if rd.any (fun p => c.interlocked t p.reg) || c.flight.any (fun f => f.late t) then .freeze
        else if rd.any (fun p => c.rpar.contains p.reg) then .trap (bundleTrap tMACHINE 0x02)
        else
          match u.firstTrap x t b ops with
          | some i => .trap i
          | none =>
            let drain := u.isDrain x b
            let stop := u.stopAsked x
            match State.runOps x t b ops (State.modCtx { u with issue := issueOf x t 0 b none } x
                (fun c => { c with waiting := none })) with
            | .next s => .done (.next (s.afterBundle x b l.2 drain stop))
            | o => .done o

/-- The tests that precede the bundle, and the bundle (R292, R369). `pre` is the state in which nothing of the context has
landed in this cycle, which its traps start from; in `post` it has. Results that the bundle releases land with those due in this cycle, in
the one order of R198. `froz` is the partition's state when it freezes. -/
noncomputable def State.tryIssue (pre post froz : State) (x : CtxNo) : Out :=
  let q := ctxPartNo x
  let t := post.cycleOf x
  let c := post.ctx x
  let ended (s : State) : Out := .next ((s.leave x).endCycle q)
  match c.swt with
  | some code =>
    ended ((pre.modCtx x (fun c => { c with swt := none })).trapped x
      ⟨tSWT, code.setWidth 8, 7, code.setWidth 64⟩ none)
  | none =>
    if !c.deferred.isEmpty then ended (pre.deferredTrap x)
    else if c.atLimit then ended (pre.trapped x boundTrap none)
    else
      let enters := c.entersUser
      let off := c.throttle && !c.inh
      let pre := pre.modCtx x (fun k =>
        if enters then Ctx.userTrap (Ctx.landBases { k with utv := c.utv }) t else if off then { k with throttle := false } else k)
      let pre := if enters then pre.throttlePoint x else pre
      let post := if enters then pre else post.modCtx x (fun k => if off then { k with throttle := false } else k)
      match State.attempt ((if c.release then pre else post).tentative x) x with
      | .trap i => ended (pre.trapped x i none)
      | .stall b => ended (post.modCtx x (fun c => { c with st := .stalled, waiting := some b }))
      | .freeze => .next (froz.freeze q)
      | .done (.next s) => .next (s.endCycle q)
      | .done o => o

/-- The partition's team waits for the other teams of its task: no cycle of it runs yet (R33, R380). -/
def State.asleep (s : State) (q : Nat) : Bool :=
  (s.core (q / 4)).teams.any (fun t => t.parts.contains (q % 4) && s.loading t.task)

/-- A save of the partition's team has begun while the partition is frozen: it stays frozen at its cycle (R378). -/
def State.keptFrozen (s : State) (q : Nat) : Bool :=
  (s.part q).frozen && (s.core (q / 4)).teams.any (fun t => t.parts.contains (q % 4) && t.saving)

/-- A core cycle of a partition that is being saved: only its queued stores go on to perform (R145, R378). -/
def State.drainPorts (s : State) (q : Nat) : State :=
  (partCtxs q).foldl (fun s x =>
    let s := s.modCtx x Ctx.coreCycle
    (s.pollStores x (s.ctx x).stq).2) s

/-- One core cycle of a partition (R47, R61, R62). -/
noncomputable def State.partCycle (s : State) (q : Nat) : Out :=
  if s.asleep q then .next s
  else
    if s.keptFrozen q then .next (s.drainPorts q)
    else
    let s := s.arrive q
    if s.frozenAt q then .next (s.freeze q)
    else
      let post := s.prepare q none
      match (partCtxs q).find? (fun x => (post.ctx x).st = .running) with
      | none => .next (post.endCycle q)
      | some x =>
        let s := s.findBundle x
        State.tryIssue (s.prepare q (some x)) (s.prepare q none) s x

/-- One core cycle of a matrix engine: the background load, then the running command or the start of the next (R229, R236,
R238). A call's word is fetched from the routine store, decoded and executed. -/
noncomputable def State.mtxCycle (s : State) (c : Nat) : Out :=
  let s := s.loads c
  match s.runOf c with
  | none => .next (s.mtxStart c)
  | some r =>
    if r.ended then .next (s.callEnd c)
    else if 0 < r.wait then .next (s.modRun c (fun r => { r with wait := r.wait - 1 }))
    else
      match r.cmd.kind with
      | .mft .. => .next (s.mftRun c)
      | .mzero .. => .next (s.mzeroRun c)
      | .mmov .. => .next (s.mmovRun c)
      | .call .. =>
        match s.stepsSpent c with
        | some t => .next t
        | none =>
          match decodeRoutine (SMap.get 0 (s.mtx c).rs r.w) with
          | some i => exec i { s with issue := { s.issue with x := r.cmd.x } }
          | none => .next s

end Sys2Proof.Machine
end

