-- ==== Sys2Proof/Machine/Poll.lean ====
section
/-! DEFINITION. What the hub's units look at, and how often: ropes, tasks, queues of records and commands, timers. How soon an
engine sees what it waits for is a free value with a bound (log 11). -/

namespace Sys2Proof.Machine

/-! ## Timers (R28, R116, R120, R150, R405, R412, R416) -/

/-- Every n hub cycles. -/
def State.every (s : State) (n : Nat) (l : List Agent) : State := if s.now % n = 0 then s.after l else s

/-- Hub cycles in 1 ms. -/
def hubMs : Nat := 2000000

/-- Events at fixed times. R120 asks for a rebase sweep at least once every 2^28 ticks: the model runs one every 2^26 ticks, over all slices
and cores in one step (DESIGN CHOICE, log 114). The intervals of the governor begin at the multiples of 20,000 hub cycles, whenever a cold
reset came (R147; DESIGN CHOICE, log 115). -/
noncomputable def State.timers (s : State) : State :=
  let s := s.every 64 [.ev .leaseTick]
  let s := s.every (64 * 2 ^ 26) [.ev .rebaseSweep]
  let s := s.every 16 [.ev .dispatchChoice]
  let s := s.every 1200000000000 [.ev .scrubPass]
  let s := s.every 20000 [.ev (.governorBoundary (Config.govInput (s.gint.toNat + 1)))]
  let s := if s.mgmt.chen then (s.every 200000 [.ev .arbitrationRound]).every hubMs [.ev .heartbeatSend] else s
  if s.mgmt.ckper = 0 then s else s.every (hubMs * s.mgmt.ckper.toNat) [.ev .checkpointPeriod]

/-- Members whose silence has reached its limit (R412, R415). -/
noncomputable def State.timeouts (s : State) : List Agent :=
  let l := s.others.filter (fun k => s.silentLong k && !s.isFenced k)
  if !s.others.isEmpty && s.others.all s.silentLong && (!s.mgmt.isol || !l.isEmpty) then [.ev .isolation]
  else l.map (fun k => .ev (.heartbeatTimeout (Fin.ofNat 4 k)))

/-! ## Ropes (R13, R23, R24, R428) -/

/-- The rope engine looks at rope r: at a free moment, at the latest every 4,000 hub cycles. -/
def State.looksAt (s : State) (m r : Nat) : Bool := s.now % 4000 = 0 || bitOf m r

/-- What a look at a rope can show. -/
noncomputable def State.ropePolls (s : State) (r : Nat) : List Agent :=
  let k := s.ropeOf r
  let d := s.ropeDesc r
  let n : RopeNo := Fin.ofNat 256 r
  if descEn d && !k.en then [.ev (.ropeEnable n)]
  else if !descEn d && k.en then [.ev (.ropeDisable n)]
  else if !k.en then []
  else
    (if k.st = .link && k.last.isNone && descHead d ≠ 0 then [.ev (.headWrite n (descHead d))] else []) ++
      [.ev (.descriptorWriteObserved n), .ev (.nextWordObserved n), .ev (.recordFetch n), .ev (.knotWriteObserved n)]

/-- Every rope that the engine looks at now. -/
noncomputable def State.pollRopes (s : State) : State :=
  if s.host.rten then
    let m := Config.choice s.freeCtr
    State.after { s with freeCtr := s.freeCtr + 1 } (((List.range 256).filter (s.looksAt m)).flatMap s.ropePolls)
  else s

/-! ## Tasks (R22, R33, R164) -/

/-- What a dispatched task waits for. -/
noncomputable def taskPolls (t : Task) : List Agent :=
  match t.st with
  | .loading => (List.range t.ncores).map (fun p => .ev (.teamArmed t.id p))
  | .retired => [.ev (.taskRetire t.id)]
  | .saved | .switched => []
  | _ => [.ev (.variantSwitch t.id), .ev (.taskRetire t.id)]

/-! ## Queues of the hub (R357, R361, R370, R373, R389, R423) -/

/-- The row that carries out an SCMD word; a word without an assigned code stays a register write. -/
noncomputable def scmdRow (k : SupNo) (w : Word) : Instr :=
  match scCode w with
  | 1 => .resume k w
  | 2 => .wreg k w
  | 3 => .stop k w
  | 4 => .withdraw k w
  | 5 => .dsave k w
  | 6 => .fsave k w
  | 7 => .restore k w
  | 8 => .term k w
  | 9 => .fans k w
  | _ => .registerWrite (k.val + 2) 0x10 w

/-- What waits at a supervisor: a command in progress or queued, and records. -/
noncomputable def supPolls (k : SupNo) (u : Sup) : List Agent :=
  (if u.sbusy || !u.scq.isEmpty then [.sup k] else []) ++
    (if u.twait.isEmpty then [] else [.ev (.trapRecordWrite k)]) ++
    (if u.fwait.isEmpty then [] else [.ev (.supervisorFaultRecordWrite k)])

/-- A supervisor goes on by itself: with the command in progress, or the oldest queued one (R373). -/
noncomputable def State.supTurn (s : State) (k : SupNo) : Out :=
  let u := s.sup k.val
  let go (w : Word) : Out := exec (scmdRow k w) (s.modSup k.val (fun u => { u with spoll := true }))
  if u.sbusy then go u.scur
  else match u.scq with
    | q :: _ => go q.1
    | [] => .next s

/-- The row that carries out a monitor request (R390). -/
noncomputable def monitorRow (ch : Option SupNo) (b : BitVec 512) : Instr :=
  match rqOp b with
  | 1 => .bind ch b
  | 2 => .unbind ch b
  | 3 => .root ch b
  | 4 => .route ch b
  | 5 => .floor ch b
  | 6 => .update ch b
  | 7 => .query ch b
  | _ => .monitorRequestOtherOp ch b

/-- The row that carries out what waits at the monitor (R388, R389). -/
noncomputable def MonReq.row (q : MonReq) : Instr :=
  match q with
  | .req ch b => monitorRow ch b
  | .inst id => .globalWritePerform id
  | .launch t => .teamArmed t 0
  | .spdm k p =>
    match k with
    | .version => .getVersion p
    | .capabilities => .getCapabilities p
    | .algorithms => .negotiateAlgorithms p
    | .digests => .getDigests p
    | .certificate => .getCertificate p
    | .challenge => .challenge p
    | .measurements => .getMeasurements p
    | .unsupported => .unsupportedRequest p

/-- The row that carries out the oldest entry of the maintenance queue. -/
noncomputable def State.mqPolls (s : State) : List Agent :=
  match s.mq with
  | [] => []
  | m :: _ =>
    match m.desc with
    | none => [.ev .shoot]
    | some d =>
      if m.orig.pushed && mdBad d then [.ev .maintenanceDescriptorInvalid]
      else if mdOp d = 1 then [.ev .shoot]
      else if mdOp d = 2 then [.ev .fliph]
      else [.ev .flipd]

/-- The hub's queues. -/
noncomputable def State.queuePolls (s : State) : List Agent :=
  s.mqPolls ++ (if s.fqwait.isEmpty then [] else [.ev .faultRecordWrite]) ++
    (if s.wonus.isEmpty then [] else [.ev .wonusRecordWrite]) ++
    s.sups.flatMap (fun e => supPolls (Fin.ofNat 16 e.1) e.2) ++
    (if s.mon.queue.isEmpty || s.reqBusy then [] else [.mon]) ++
    (match s.ckRun with
      | some r => [.ev (.begin r.n)]
      | none => [])

/-! ## Hops (R399) -/

/-- Raises that complete now: at a free moment, at the latest 16,000 hub cycles after the boundary. -/
noncomputable def State.pollHops (s : State) : State :=
  let l := s.cores.filter (fun e => e.2.clk.hop.isSome)
  if l.isEmpty then s
  else
    let m := Config.choice s.freeCtr
    State.after { s with freeCtr := s.freeCtr + 1 }
      ((l.filter (fun e => s.now % 20000 = 16000 || bitOf m e.1)).map (fun e => .ev (.opHopComplete (Fin.ofNat 128 e.1))))

/-- Everything that the hub's units look at in a cycle. -/
noncomputable def State.polls (s : State) : State :=
  let s := s.pollRopes.pollHops
  (s.after (s.tasks.flatMap taskPolls)).after s.queuePolls

end Sys2Proof.Machine
end

