-- ==== Sys2Proof/Machine/Hub.lean ====
section
/-! DEFINITION. Who acts and when: the island clocks, the hub cycle, and the agents' turns. -/

namespace Sys2Proof.Machine

/-! ## Clocks (R152, R399, R400) -/

/-- One hub cycle of an island clock: no edge while a hop gates it; else the phase grows, and an edge comes when it passes a
period. An episode doubles the period once the edges before it have come (R399 to R401, log 5). -/
def Clock.hubCycle (k : Clock) : Clock × Bool :=
  if 0 < k.gate then ({ k with gate := k.gate - 1 }, false)
  else
    let period := if k.stretch && k.lead = 0 then 80 else 40
    let p := k.phase + opFreq k.op
    if period ≤ p then ({ k with phase := p - period, lead := k.lead - 1 }, true) else ({ k with phase := p }, false)

/-- The agents of a core: its matrix engine, its partitions, its copy engines and its halyard. -/
def coreAgents (c : CoreNo) : List Agent :=
  .mtx c :: (List.range 4).map (fun p => Agent.part (Fin.ofNat 512 (4 * c.val + p))) ++ [.copy c 0, .copy c 1, .hal c]

/-- One hub cycle of a core's clock; its agents act at an edge. A core without a team has no agent, and its clock's phase is open
while no hop or droop acts on it (log 5). -/
def State.coreTick (s : State) (c : Nat) : State :=
  let k := s.core c
  if k.teams.isEmpty && k.clk.gate = 0 && k.clk.lead = 0 then s
  else
    let r := k.clk.hubCycle
    let s := s.setCore c { k with clk := r.1 }
    if r.2 && !k.teams.isEmpty then s.after (coreAgents (Fin.ofNat 128 c)) else s

/-! ## The hub cycle (R116, R135) -/

/-- The order wheel advances one position; the revolution counts at 0 (R135). -/
def State.wheelTick (s : State) : State :=
  { s with wpos := (s.wpos + 1) % 2048, scTaken := false
           rev := if s.wpos + 1 = 2048 then (s.rev + 1) % 2 ^ 48 else s.rev }

/-- The SC operation whose turn it is: the wheel has arrived at its context's position (R135, R137). -/
noncomputable def State.scTurn (s : State) : List Agent :=
  ((s.ops.filter (fun o => o.x.val = s.wpos && o.kind.isSc && s.firstSc o)).map (fun o => .ev (.scOrderPoint o.id)))

/-- The row that carries out an access that waited for its slice (R156). -/
noncomputable def HostAcc.row (a : HostAcc) : Instr :=
  match a with
  | .snoop pa d => .hostSnoop pa d
  | .write pa d => .hostMemWrite pa d
  | .read pa n => .hostMemRead pa n
  | .fabric q => .fabricRequest q

/-- A hub cycle: time and the wheel advance, links send, the steps of pending pre-emptions and core fences go on, and those
whose turn it is are lined up. A module without power, or whose RSC halted, or stopped by a hub latch error, only lets time pass (R386, R395, R410). -/
noncomputable def State.hubTick (s : State) : State :=
  if s.feeds.down || s.fatal || s.mon.boot = .halted then { s with now := s.now + 1 }
  else
    let s := State.wheelTick { s with now := s.now + 1 }
    let s := { s with inputs := s.waits.map HostAcc.row ++ s.inputs, waits := [] }
    let s := s.linksSend.preemptStep.evacStep
    let s := s.after (s.scTurn ++ s.timeouts)
    let s := (if s.mgmt.chen then s.countSilence else s).retrainStep.timers
    let s := s.cores.foldl (fun s c => s.coreTick c.1) s
    s.polls.after [.home]

/-! ## Outside events -/

/-- Events of the power feeds, and the cold reset. -/
def isPower (i : Instr) : Bool :=
  match i with
  | .coldReset .. => true
  | .feedOutOfRange _ => true
  | .feedLoss => true
  | .feedOvervoltage _ => true
  | .feedSwitchClose _ => true
  | .feedReturn _ => true
  | _ => false

/-- Acts of a supervisor: its commands, its registers, firmware's tables, a team's load. -/
def bySup (i : Instr) : Bool :=
  match i with
  | .resume .. => true
  | .wreg .. => true
  | .stop .. => true
  | .withdraw .. => true
  | .dsave .. => true
  | .fsave .. => true
  | .restore .. => true
  | .term .. => true
  | .fans .. => true
  | .smqPush .. => true
  | .tqHeadWrite .. => true
  | .sfHeadWrite .. => true
  | .teamArmed .. => true
  | .launchFailure .. => true
  | .registerWrite sp _ _ => decide (2 ≤ sp) && decide (sp ≤ 21)
  | _ => false

/-- What arrives over a hawser link. -/
def overLink (i : Instr) : Bool :=
  match i with
  | .flitArrival .. => true
  | .creditReturn .. => true
  | .checkpointMarker .. => true
  | .arbitrationMessage _ => true
  | .heartbeatReceive .. => true
  | .fenceNotice _ => true
  | .begin _ => true
  | .done .. => true
  | .fail .. => true
  | .commit .. => true
  | .fabricRequest _ => true
  | _ => false

/-- The module takes an outside event: without power, before it boots, or with its RSC halted, it does not enumerate and takes only those
of the feeds and the reset; until the monitor releases the supervisors they are held in reset; after a fatal error the links have
stopped (R386, R395, R410). -/
def State.hears (s : State) (i : Instr) : Bool :=
  isPower i || (!s.feeds.down && s.mon.boot ≠ .off && s.mon.boot ≠ .halted && !(s.mon.supsHeld && bySup i) &&
    !(s.fatal && overLink i))

/-! ## Turns -/

/-- Operations at home slices perform while the free choice names one; how many do in a hub cycle is free too (R125, log 11). -/
noncomputable def State.homeTurn (s : State) : Out :=
  let r := s.choose (s.ops.length + 1)
  match s.ops[r.1]? with
  | none => .next r.2
  | some o =>
    let s := { r.2 with todo := .home :: r.2.todo }
    let k := s.sliceOf o.core o.asid o.va
    if (k.map s.sliceBusy).getD false then .next s
    else
    let s := match k with
      | some k => if s.opFree o && !o.kind.isSc then s.serve k else s
      | none => s
    match o.kind with
    | .fill _ => exec (.fillComplete o.id) s
    | .sc .. => exec (.scOrderPoint o.id) s
    | .splice .. => exec (.spliceExecute o.id) s
    | .amo .. => exec (.homeAtomicExecute o.id) s
    | .knot .. => exec (.homeAtomicExecute o.id) s
    | _ => exec (.globalWritePerform o.id) s

/-- The monitor takes up its oldest waiting request; that of a launch is its task's to go on with, and is dropped when the task no longer
loads (R287, R388, R389). -/
noncomputable def State.monTurn (s : State) : Out :=
  match s.mon.queue with
  | [] => .next s
  | q :: _ =>
    if s.reqBusy then .next s
    else match q with
      | .launch t => .next (if (s.task? t).any (fun k => k.st = .loading) then s else s.monTake)
      | q =>
        match exec q.row { s with mon := { s.mon with poll := true } } with
        | .next t => .next { t with mon := { t.mon with poll := false } }
        | r => r

/-- An agent's turn. -/
noncomputable def State.turn (s : State) (a : Agent) : Out :=
  match a with
  | .part q => s.partCycle q.val
  | .mtx c => s.mtxCycle c.val
  | .copy c e => .next (s.copyStep c.val e.val)
  | .hal c => .next (s.halStep c.val)
  | .sup k => s.supTurn k
  | .mon => s.monTurn
  | .home => s.homeTurn
  | .ev i => exec i s

/-! ## Placing an instruction (log 26) -/

/-- A one-context team of task 0 on core 0 that owns the matrix engine and the halyard, with one loaded bundle. -/
def probeTeam (b : BitVec 256) : Team :=
  { task := 0, pos := 0, core := 0, parts := [0], nctx := 1, bundles := SMap.set 0 [] 0 b, nbun := 1, ipar := []
    spadBase := 0, spadSize := 1048576, vaultBase := 0, vaultSize := 12582912, nbgt := 64, bights := [], mtx := true
    hal := true, lld := false, armed := true, leaving := false }

/-- The task of the probe team, on rope 0 with ASID 0. -/
def probeTask : Task :=
  { id := 0, rope := 0, recd := 0, recAddr := 0, asid := 0, image := 0, eclass := 0, tcon := 0, base := 0, ncores := 1
    st := .running, credit := [], joule := 0, debits := 0, sw := none, first := 0, seq := 0, supStop := false, links := 0
    dflits := 0, doneParts := [], sigs := [], was := .loading
    variant := 0, homes := [], slot := 0 }

/-- The module with the probe task resident at gang start (R33, R54) and nothing else lined up. -/
def State.probe (s : State) (b : BitVec 256) : State :=
  let s := { s with tasks := [probeTask], inputs := [], todo := [.part 0] }
  let s := s.setCore 0 { s.core 0 with teams := [probeTeam b] }
  let s := s.setPart 0 Part.none
  s.setCtx 0 { Ctx.none with st := .running, npc := 1 }

/-- The instruction of w placed where the next step runs it: a slot word in a bundle of its own, a routine word as word 0 of
the running call of the matrix engine. -/
def State.placeWord (s : State) (nbits w : Nat) : State :=
  if nbits = 64 then
    let s := s.probe 0
    let m := s.mtx 0
    { s.setMtx 0 { m with
        rs := SMap.set 0 m.rs 0 (BitVec.ofNat 64 w)
        run := some { cmd := ⟨0, .call 0 0 0 (Vector.replicate 8 0) 0, []⟩, w := 0, rc0 := 0, rc1 := 0
                      m := Vector.replicate 8 0, steps := 0, wait := 0, row := 0, ended := false, fill := none
                      bad := none, begun := false, stop := false, land := [], last := 0, lfill := none, lbad := none } } with todo := [.mtx 0] }
  else s.probe (bundleOf (BitVec.ofNat 32 w))

end Sys2Proof.Machine
end

