-- ==== Sys2Proof/Machine/Step.lean ====
section
/-! DEFINITION. One step of the module, and the placing of an instruction where the next step runs it. -/

namespace Sys2Proof.Machine

/-- One step: an outside event that waits happens, where the module takes it; else the agent whose turn it is acts; else a hub cycle begins. -/
noncomputable def step (s : State) : Host.Outcome State Fault Refusal :=
  match s.inputs, s.todo with
  | i :: r, _ => if s.hears i then exec i { s with inputs := r } else .next { s with inputs := r }
  | [], a :: r => State.turn { s with todo := r } a
  | [], [] => .next s.hubTick

/-- s with the instruction of w where the next step runs it: a slot word in a bundle of a resident task, a routine word in a
running call (R33, R229). -/
def State.withFetchWord (s : State) (nbits w : Nat) : State := s.placeWord nbits w

end Sys2Proof.Machine
end

