-- ==== Sys2Proof/Safety.lean ====
section
/-! DEFINITION. What counts as a safe run, and the terms in which statements say what an instruction does. -/

namespace Sys2Proof

/-- A step that goes on. -/
def Machine.State.goesOn (s : Machine.State) : Prop := ∃ t, Machine.step s = .next t

/-- Every step of a run of k steps goes on. -/
def Machine.State.safeFor : Nat → Machine.State → Prop
  | 0, _ => True
  | k + 1, s => ∃ t, Machine.step s = .next t ∧ Machine.State.safeFor k t

end Sys2Proof

namespace Sys2Proof.Claims

open Sys2Proof.Machine

/-- s with one more result in flight in the issuing context: it lands `lat` partition cycles after issue (R57). Every other
part of the state is that of s. -/
def posted (s : State) (dst : Dest) (lanes : BitVec 32) (v : VReg) (flags : BitVec 5) (lat : Nat) : State :=
  s.setCtx s.issue.x
    { s.me with flight := s.me.flight ++ [flightOf (s.issue.cycle + lat) dst lanes v flags s.me.pc] }

/-- The outcome is a next state: s with that one result in flight, and nothing else changed. -/
def Posts (s : State) (o : Out) (dst : Dest) (lanes : BitVec 32) (v : VReg) (flags : BitVec 5) (lat : Nat) : Prop :=
  o = .next (posted s dst lanes v flags lat)

/-- The one result is the scalar w for s[d]; for d = 0 it has no destination (R50). -/
def PostsS (s : State) (o : Out) (d : BitVec 6) (w : Word) (lat : Nat) : Prop :=
  Posts s o (if d = 0 then .none else .s ⟨d.toNat, d.isLt⟩) allLanes (w.setWidth 1024) 0 lat

/-- The one result is w for logical p[d] over some lanes; for d = 0 it has no destination (R50). -/
def PostsP (s : State) (o : Out) (d : BitVec 7) (lanes w : BitVec 32) (lat : Nat) : Prop :=
  Posts s o (if d = 0 then .none else .p (s.me.physP d)) lanes (w.setWidth 1024) 0 lat

/-- The one result is the image v for logical v[d] over some lanes. -/
def PostsV (s : State) (o : Out) (d : BitVec 6) (lanes : BitVec 32) (v : VReg) (flags : BitVec 5) (lat : Nat) : Prop :=
  Posts s o (.v (s.me.physV d)) lanes v flags lat

/-- The one result is w for a branch-target register, a counter, a base or a special register, one cycle after issue. -/
def PostsD (s : State) (o : Out) (dst : Dest) (w : Word) : Prop :=
  Posts s o dst allLanes (w.setWidth 1024) 0 1

/-- s with one more result for a destination of that kind. -/
def withD (s : State) (dst : Dest) (w : Word) : State := posted s dst allLanes (w.setWidth 1024) 0 1

/-- The leaf of the bundle is taken, with this target (R188). -/
def taken (s : State) (target : Word) : State := { s with issue := { s.issue with leaf := some target } }

/-- The outcome is the entry of a trap that is precise at the issuing bundle (R368). -/
def Traps (s : State) (o : Out) (cls cause : BitVec 8) (part : BitVec 3) (faddr : Word) : Prop :=
  o = .next (s.takeTrap s.issue.x ⟨cls, cause, part, faddr⟩ none)

/-- The outcome is a stall of the issuing context: nothing but its state changes (R48). -/
def Stalls (s : State) (o : Out) : Prop := o = .next (s.setCtx s.issue.x { s.me with st := .stalled })

/-- No byte near pa, from 64 below it to 128 above it, is the ASID table's, which only the monitor writes (R391). -/
def ApartFromTable (s : State) (pa : Nat) : Prop := ∀ b, s.mon.table = some b → pa + 128 ≤ b ∨ b + asidTableSize + 64 ≤ pa

/-- Operation o may perform now in this module's own DRAM, on a page that no protocol keeps copies of: nothing that it follows
is outstanding, its task is not recorded, and its address translates to n bytes at pa, whose reads find no error and which stand
apart from the ASID table (R111, R125, R355, R391, R408). -/
def Reaches (s : State) (o : GOp) (pa : Nat) (a : Attr) (n : Nat) (w : Bool) : Prop :=
  s.op? o.id = some o ∧ s.clearOf o.x o.after = true ∧ s.recorded o.task = false ∧ o.perm = false ∧ o.fid = none ∧
    s.xlate o.core o.asid o.va w = .ok pa a ∧ pa + n ≤ 0x9000000000 ∧ a.host = false ∧ a.coh = 0 ∧ s.owners = [] ∧
    s.errs = [] ∧ ApartFromTable s pa

/-- Operation o may perform now, as `Reaches` says, and its bytes hold no poison (R408). -/
def AtHome (s : State) (o : GOp) (pa : Nat) (a : Attr) (n : Nat) (w : Bool) : Prop :=
  Reaches s o pa a n w ∧ s.physBad pa n = false

/-- t is s after operation o ended with value v for its result: the operation is gone, its result has its value and flags, and
no other context, nor the host's memory, nor any core's scratchpad or vault changes (R274). -/
def EndsWith (s t : State) (o : GOp) (v : Word) (fl : BitVec 5) : Prop :=
  let give (f : Flight) : Flight := if f.src = .hub o.id then { f with value := some (v.setWidth 1024), flags := fl } else f
  t.ops = s.ops.filter (fun p => p.id ≠ o.id) ∧
    (let c := s.ctx o.x
     t.ctx o.x = { c with flight := c.flight.map give, held := c.held.map give, heldU := c.heldU.map give }) ∧
    (∀ y, y ≠ o.x → t.ctx y = s.ctx y) ∧ t.hostMem = s.hostMem ∧
    ∀ k, (t.core k).spad = (s.core k).spad ∧ (t.core k).vault = (s.core k).vault

/-- The outcome is u with record r in the Wonus log, nothing else waiting for it: the record waits while the ring is full, and else it
stands at the ring's tail, which counts it, a write at its home that finds no owned word and no error (R423). -/
def Logs (u : State) (o : Out) (r : WonusRec) : Prop :=
  let m := u.mgmt
  let pa := m.wbase.toNat * 64 + 16 * (m.wtail.toNat % 2 ^ m.wlog.toNat)
  (2 ^ m.wlog.toNat ≤ (m.wtail - m.whead).toNat → o = .next { u with wonus := [r] }) ∧
  ((m.wtail - m.whead).toNat < 2 ^ m.wlog.toNat → pa + 16 ≤ 0x9000000000 → u.owners = [] → u.errs = [] →
    ApartFromTable u pa → ∃ t, o = .next t ∧ t.wonus = [] ∧ t.mgmt = { m with wtail := m.wtail + 1 } ∧ t.dram = Memory.wrN u.dram pa r.word 16 ∧
      t.hostMem = u.hostMem ∧ t.ctxs = u.ctxs ∧ t.ops.map (·.id) = u.ops.map (·.id) ∧ t.tasks = u.tasks)

/-- The memories and the maps of the module are in canonical form: addresses and keys strictly rising, and no entry equal to what an
unlisted one reads as. -/
structure Canonical (s : State) : Prop where
  dram : Memory.wf s.dram = true
  hostMem : Memory.wf s.hostMem = true
  spad : ∀ c, Memory.wf (s.core c).spad = true
  vault : ∀ c, Memory.wf (s.core c).vault = true
  sram : ∀ k, Memory.wf (s.sup k).sram = true
  ctxs : SMap.wf Ctx.none s.ctxs = true
  parts : SMap.wf Machine.Part.none s.parts = true
  cores : SMap.wf Core.none s.cores = true
  sups : SMap.wf Sup.none s.sups = true
  ropes : SMap.wf Rope.none s.ropes = true
  islands : SMap.wf Island.none s.islands = true
  links : SMap.wf LinkQ.none s.links = true
  peers : SMap.wf Peer.none s.peers = true
  asids : SMap.wf AsidEnt.none s.asids = true
  routines : SMap.wf 0 s.routines = true
  evt : SMap.wf 0 s.evt = true
  swc : SMap.wf 0 s.swc = true
  lastRope : SMap.wf 255 s.lastRope = true
  retlog : SMap.wf [] s.retlog = true
  ecls : SMap.wf 0 s.ecls = true
  tct : SMap.wf 0 s.tct = true
  dcost : SMap.wf 0 s.dcost = true
  modSeq : SMap.wf 0 s.modSeq = true
  served : SMap.wf 0 s.served = true
  ceTimes : SMap.wf [] s.ceTimes = true

end Sys2Proof.Claims
end

