-- ==== Sys2Proof/Certificates/Slice0/Obligations.lean ====
section
/-! DEFINITION. The statements about the machine, each from the numbered rules of the spec that it cites. -/

section Statements

open Sys2Proof Sys2Proof.Machine Sys2Proof.Claims

/-! ## Scalar operations -/

/-- R178: each register-register operation, guarded on, posts its result for s[D] at the latency of R176 and changes nothing
else; with D = 0 the result has no destination. R177, R179, R182, R183: the immediate forms, movi and sel. The immediate is
the extended field, or LIMM when the field holds its escape value; the shift forms have no escape. -/
def Obligations.ScalarArithmeticResults : Prop :=
  (∀ (s : State) (g : BitVec 4) (d ra rb : BitVec 6) (k : BitVec 3), s.me.guard0 g = true →
     let a := s.me.rs ra
     let b := s.me.rs rb
     PostsS s (exec (.add g d ra rb) s) d (a + b) 1 ∧
     PostsS s (exec (.sub g d ra rb) s) d (a - b) 1 ∧
     PostsS s (exec (.and g d ra rb) s) d (a &&& b) 1 ∧
     PostsS s (exec (.or g d ra rb) s) d (a ||| b) 1 ∧
     PostsS s (exec (.xor g d ra rb) s) d (a ^^^ b) 1 ∧
     PostsS s (exec (.andn g d ra rb) s) d (a &&& ~~~b) 1 ∧
     PostsS s (exec (.min g d ra rb) s) d (if a.toInt < b.toInt then a else b) 1 ∧
     PostsS s (exec (.max g d ra rb) s) d (if b.toInt < a.toInt then a else b) 1 ∧
     PostsS s (exec (.minu g d ra rb) s) d (if a.toNat < b.toNat then a else b) 1 ∧
     PostsS s (exec (.maxu g d ra rb) s) d (if b.toNat < a.toNat then a else b) 1 ∧
     PostsS s (exec (.mul g d ra rb) s) d (BitVec.ofNat 64 (a.toNat * b.toNat)) 3 ∧
     PostsS s (exec (.mulh g d ra rb) s) d (BitVec.ofInt 64 (a.toInt * b.toInt / 2 ^ 64)) 3 ∧
     PostsS s (exec (.mulhu g d ra rb) s) d (BitVec.ofNat 64 (a.toNat * b.toNat / 2 ^ 64)) 3 ∧
     PostsS s (exec (.sll g d ra rb) s) d (BitVec.ofNat 64 (a.toNat * 2 ^ (b.toNat % 64))) 1 ∧
     PostsS s (exec (.srl g d ra rb) s) d (BitVec.ofNat 64 (a.toNat / 2 ^ (b.toNat % 64))) 1 ∧
     PostsS s (exec (.sra g d ra rb) s) d (BitVec.ofInt 64 (a.toInt / (2 ^ (b.toNat % 64) : Nat))) 1 ∧
     PostsS s (exec (.adds g d ra rb k) s) d (BitVec.ofNat 64 (a.toNat + b.toNat * 2 ^ k.toNat)) 1) ∧
  (∀ (s : State) (g : BitVec 4) (d ra rb n : BitVec 6) (i : BitVec 9) (j : BitVec 15) (p : BitVec 3),
     s.me.guard0 g = true →
     let a := s.me.rs ra
     let imm : Word := if i = 0x100 then s.issue.limm else i.signExtend 64
     PostsS s (exec (.addi g d ra i) s) d (a + imm) 1 ∧
     PostsS s (exec (.andi g d ra i) s) d (a &&& imm) 1 ∧
     PostsS s (exec (.ori g d ra i) s) d (a ||| imm) 1 ∧
     PostsS s (exec (.xori g d ra i) s) d (a ^^^ imm) 1 ∧
     PostsS s (exec (.muli g d ra i) s) d (a * imm) 3 ∧
     PostsS s (exec (.slli g d ra n) s) d (a <<< n.toNat) 1 ∧
     PostsS s (exec (.srli g d ra n) s) d (a >>> n.toNat) 1 ∧
     PostsS s (exec (.srai g d ra n) s) d (a.sshiftRight n.toNat) 1 ∧
     PostsS s (exec (.movi g d j) s) d (if j = 0x4000 then s.issue.limm else j.signExtend 64) 1 ∧
     PostsS s (exec (.sel g d ra rb p) s) d (if (s.me.rp (p.setWidth 7)).getLsbD 0 then a else s.me.rs rb) 1)

/-- R180: the divisions, with the results that the rule gives for a zero divisor and for the signed overflow, 24 cycles after
issue. R181: clz, ctz, popc and rev8 by the bits of a, and the extensions, one cycle after issue. -/
def Obligations.DivisionAndBitResults : Prop :=
  (∀ (s : State) (g : BitVec 4) (d ra rb : BitVec 6), s.me.guard0 g = true →
     let a := s.me.rs ra
     let b := s.me.rs rb
     let x := a.toInt
     let y := b.toInt
     PostsS s (exec (.div g d ra rb) s) d (BitVec.ofInt 64 (if y = 0 then -1 else x.tdiv y)) 24 ∧
     PostsS s (exec (.divu g d ra rb) s) d (BitVec.ofNat 64 (if b.toNat = 0 then 2 ^ 64 - 1 else a.toNat / b.toNat)) 24 ∧
     PostsS s (exec (.rem g d ra rb) s) d (BitVec.ofInt 64 (if y = 0 then x else x - y * x.tdiv y)) 24 ∧
     PostsS s (exec (.remu g d ra rb) s) d (BitVec.ofNat 64 (if b.toNat = 0 then a.toNat else a.toNat % b.toNat)) 24) ∧
  (∀ (s : State) (g : BitVec 4) (d ra : BitVec 6), s.me.guard0 g = true →
     let a := s.me.rs ra
     (∃ n ≤ 64, PostsS s (exec (.clz g d ra) s) d (BitVec.ofNat 64 n) 1 ∧
       (∀ i, 64 - n ≤ i → a.getLsbD i = false) ∧ (n < 64 → a.getLsbD (63 - n) = true)) ∧
     (∃ n ≤ 64, PostsS s (exec (.ctz g d ra) s) d (BitVec.ofNat 64 n) 1 ∧
       (∀ i < n, a.getLsbD i = false) ∧ (n < 64 → a.getLsbD n = true)) ∧
     PostsS s (exec (.popc g d ra) s) d (BitVec.ofNat 64 ((List.range 64).countP (fun i => a.getLsbD i))) 1 ∧
     (∃ w : Word, PostsS s (exec (.rev8 g d ra) s) d w 1 ∧
       ∀ k < 8, w.extractLsb' (8 * k) 8 = a.extractLsb' (8 * (7 - k)) 8) ∧
     PostsS s (exec (.sextB g d ra) s) d ((a.setWidth 8).signExtend 64) 1 ∧
     PostsS s (exec (.sextH g d ra) s) d ((a.setWidth 16).signExtend 64) 1 ∧
     PostsS s (exec (.sextW g d ra) s) d ((a.setWidth 32).signExtend 64) 1 ∧
     PostsS s (exec (.zextB g d ra) s) d (BitVec.ofNat 64 (a.toNat % 2 ^ 8)) 1 ∧
     PostsS s (exec (.zextH g d ra) s) d (BitVec.ofNat 64 (a.toNat % 2 ^ 16)) 1 ∧
     PostsS s (exec (.zextW g d ra) s) d (BitVec.ofNat 64 (a.toNat % 2 ^ 32)) 1)

/-- R184: a compare writes its whole predicate destination, all ones when the condition holds and 0 when it does not. R185,
R186: predicate logic on all 32 bits, and the moves between predicate and scalar registers. -/
def Obligations.CompareAndPredicateResults : Prop :=
  (∀ (s : State) (g : BitVec 4) (p : BitVec 7) (ra rb i : BitVec 6), s.me.guard0 g = true →
     let a := s.me.rs ra
     let b := s.me.rs rb
     let imm : Word := if i = 0x20 then s.issue.limm else i.signExtend 64
     let whole (c : Prop) [Decidable c] : BitVec 32 := if c then 0xFFFFFFFF else 0
     PostsP s (exec (.cmpEq g p ra rb) s) p allLanes (whole (a = b)) 1 ∧
     PostsP s (exec (.cmpNe g p ra rb) s) p allLanes (whole (a ≠ b)) 1 ∧
     PostsP s (exec (.cmpLt g p ra rb) s) p allLanes (whole (a.toInt < b.toInt)) 1 ∧
     PostsP s (exec (.cmpLe g p ra rb) s) p allLanes (whole (a.toInt ≤ b.toInt)) 1 ∧
     PostsP s (exec (.cmpLtu g p ra rb) s) p allLanes (whole (a.toNat < b.toNat)) 1 ∧
     PostsP s (exec (.cmpLeu g p ra rb) s) p allLanes (whole (a.toNat ≤ b.toNat)) 1 ∧
     PostsP s (exec (.cmpTst g p ra rb) s) p allLanes (whole (a &&& b ≠ 0)) 1 ∧
     PostsP s (exec (.cmpNtst g p ra rb) s) p allLanes (whole (a &&& b = 0)) 1 ∧
     PostsP s (exec (.cmpiEq g p ra i) s) p allLanes (whole (a = imm)) 1 ∧
     PostsP s (exec (.cmpiNe g p ra i) s) p allLanes (whole (a ≠ imm)) 1 ∧
     PostsP s (exec (.cmpiLt g p ra i) s) p allLanes (whole (a.toInt < imm.toInt)) 1 ∧
     PostsP s (exec (.cmpiLe g p ra i) s) p allLanes (whole (a.toInt ≤ imm.toInt)) 1) ∧
  (∀ (s : State) (g : BitVec 4) (pd pa pb : BitVec 7) (ra : BitVec 6), s.me.guard0 g = true →
     let x := s.me.rp pa
     let y := s.me.rp pb
     let z := s.me.rp pd
     PostsP s (exec (.pand g pd pa pb) s) pd allLanes (x &&& y) 1 ∧
     PostsP s (exec (.por g pd pa pb) s) pd allLanes (x ||| y) 1 ∧
     PostsP s (exec (.pxor g pd pa pb) s) pd allLanes (x ^^^ y) 1 ∧
     PostsP s (exec (.pandn g pd pa pb) s) pd allLanes (x &&& ~~~y) 1 ∧
     PostsP s (exec (.pset g pd ra) s) pd allLanes ((s.me.rs ra).setWidth 32) 1 ∧
     PostsS s (exec (.pget g pd ra) s) ra (z.setWidth 64) 1 ∧
     PostsS s (exec (.pcnt g pd ra) s) ra (BitVec.ofNat 64 ((List.range 32).countP (fun i => z.getLsbD i))) 1 ∧
     (∃ n ≤ 32, PostsS s (exec (.pfirst g pd ra) s) ra (BitVec.ofNat 64 n) 1 ∧
       (∀ i < n, z.getLsbD i = false) ∧ (n < 32 → z.getLsbD n = true)))

/-! ## Branch targets, calls, loops, rotation and special registers -/

/-- R187, R192, R195: setb, lset and the rotation bases. A source register is narrowed when the result lands. R193: lp0 and
lp1 count down and take the leaf while the counter exceeds 1; else the counter lands 0 and the leaf stays fall-through. R194:
lpe counts with lc0 and ec, rotates both bases, writes the stage predicate to physical p[64 + np], and takes the leaf in the
first two cases; with lc0 at most 1 and ec = 0 it only clears lc0. R51, R53, R196: mfs reads each special register as the
issuing bundle sees it. R197: mts writes ASTAT, the bases, the counters and UTV from s[D]; the registers that programs only
read discard it. The model's choices: NPC reads whole, 8192 too (log 95), and a change of VRB or PRB lands one cycle after issue as
every other of these results (log 76). -/
def Obligations.TargetLoopAndSpecialRegisters : Prop :=
  (∀ (s : State) (g : BitVec 4) (bd : BitVec 3) (t : BitVec 13) (lc : BitVec 2) (i : BitVec 18) (ra : BitVec 6),
     s.me.guard0 g = true →
     let a := s.me.rs ra
     let counter : Dest := if lc = 0 then .lc0 else if lc = 1 then .lc1 else .ec
     PostsD s (exec (.setb g bd t) s) (.b ⟨bd.toNat, bd.isLt⟩) (t.setWidth 64) ∧
     PostsD s (exec (.setbReg g bd ra) s) (.b ⟨bd.toNat, bd.isLt⟩) ((a.setWidth 13).setWidth 64) ∧
     PostsD s (exec (.lset g lc i) s) counter (i.setWidth 64) ∧
     PostsD s (exec (.lsetReg g lc ra) s) counter a ∧
     PostsD s (exec (.rotSetv g i) s) .vrb (i.setWidth 64) ∧
     PostsD s (exec (.rotSetvReg g ra) s) .vrb a ∧
     PostsD s (exec (.rotSetp g i) s) .prb (i.setWidth 64) ∧
     PostsD s (exec (.rotSetpReg g ra) s) .prb a ∧
     exec (.rotStep g) s =
       .next (withD (withD s .vrb ((s.me.vrb - 1).setWidth 64)) .prb ((s.me.prb - 1).setWidth 64))) ∧
  ((∀ (s : State) (g : BitVec 4) (bd : BitVec 3), s.me.guard0 g = true →
      let target : Word := (s.me.rb bd).setWidth 64
      exec (.lp0 g bd) s = .next (if 1 < s.me.lc0.toNat then taken (withD s .lc0 ((s.me.lc0 - 1).setWidth 64)) target
        else withD s .lc0 0) ∧
      exec (.lp1 g bd) s = .next (if 1 < s.me.lc1.toNat then taken (withD s .lc1 ((s.me.lc1 - 1).setWidth 64)) target
        else withD s .lc1 0)) ∧
   (∀ (s : State) (g : BitVec 4) (bd : BitVec 3), s.me.guard0 g = true →
      let target : Word := (s.me.rb bd).setWidth 64
      let np := (s.me.prb.toNat + 63) % 64
      let rotated (u : State) (stage : Word) : State :=
        withD (withD (withD u .vrb (BitVec.ofNat 64 ((s.me.vrb.toNat + 31) % 32))) .prb (BitVec.ofNat 64 np))
          (.p (Fin.ofNat 128 (64 + np))) stage
      exec (.lpe g bd) s = .next (
        if 1 < s.me.lc0.toNat then taken (rotated (withD s .lc0 ((s.me.lc0 - 1).setWidth 64)) 0xFFFFFFFF) target
        else if 1 < s.me.ec.toNat then
          taken (rotated (withD (withD s .lc0 0) .ec ((s.me.ec - 1).setWidth 64)) 0) target
        else if s.me.ec.toNat = 1 then rotated (withD (withD s .lc0 0) .ec 0) 0
        else withD s .lc0 0))) ∧
  ((∀ (s : State) (g : BitVec 4) (d : BitVec 6), s.me.guard0 g = true →
      let c := s.me
      let x := s.issue.x.val
      let bit (b : Bool) : Nat := if b then 1 else 0
      PostsS s (exec (.mfs g d 0) s) d (c.astat.setWidth 64) 1 ∧
      PostsS s (exec (.mfs g d 1) s) d (BitVec.ofNat 64 (x % 4 + 4 * (x / 4 % 4) + 16 * c.tctx.toNat + 256 * (x / 16) +
        2 ^ 16 * bit c.bp + 2 ^ 17 * bit c.dbg + 2 ^ 18 * bit c.compat + 2 ^ 19 * bit c.inh)) 1 ∧
      PostsS s (exec (.mfs g d 2) s) d c.pc 1 ∧
      PostsS s (exec (.mfs g d 3) s) d c.npc 1 ∧
      PostsS s (exec (.mfs g d 4) s) d (c.vrb.setWidth 64) 1 ∧
      PostsS s (exec (.mfs g d 5) s) d (c.prb.setWidth 64) 1 ∧
      PostsS s (exec (.mfs g d 6) s) d (c.lc0.setWidth 64) 1 ∧
      PostsS s (exec (.mfs g d 7) s) d (c.lc1.setWidth 64) 1 ∧
      PostsS s (exec (.mfs g d 8) s) d (c.ec.setWidth 64) 1 ∧
      PostsS s (exec (.mfs g d 9) s) d (c.utv.setWidth 64) 1 ∧
      PostsS s (exec (.mfs g d 10) s) d c.splim 1 ∧
      PostsS s (exec (.mfs g d 11) s) d (c.limit.setWidth 64) 1 ∧
      PostsS s (exec (.mfs g d 12) s) d (c.dcount.setWidth 64) 1 ∧
      PostsS s (exec (.mfs g d 13) s) d (BitVec.ofNat 64 s.issue.cycle) 1) ∧
   (∀ (s : State) (g : BitVec 4) (d : BitVec 6) (r : BitVec 8), s.me.guard0 g = true →
      PostsD s (exec (.mts g d r) s)
        (if r = 0 then .astat else if r = 4 then .vrb else if r = 5 then .prb else if r = 6 then .lc0
          else if r = 7 then .lc1 else if r = 8 then .ec else if r = 9 then .utv else .none)
        (s.me.rs d)))

/-- R189: for every state and operands a call within the spill limit completes: it posts s4 less its frame and the link, and takes the
leaf to b[BD]. R189, R191: a call whose frame crosses the spill limit takes SPILL cause CALL of slot S at the refused address instead,
precise at its bundle. R190: for every state and operands ret completes: it posts s4 plus its frame and takes the leaf to bits [12:0]
of the link register. That L may name s4 in ret is log 123. -/
def Obligations.CallsAndReturns : Prop :=
  (∀ (s : State) (g : BitVec 4) (bd : BitVec 3) (f : BitVec 7) (l : BitVec 6), s.me.guard0 g = true →
     let new : Int := ((s.me.rs 4).toNat : Int) - 16 * (f.toNat : Int)
     (f = 0 ∨ ((s.me.splim.toNat : Int) ≤ new ∧ 0 ≤ new)) →
     ∃ u, PostsS s (.next u) 4 (BitVec.ofInt 64 new) 1 ∧
       ∃ v, PostsS u (.next v) l (s.me.npc + 1) 1 ∧
         exec (.call g bd f l) s = .next (taken v ((s.me.rb bd).setWidth 64))) ∧
  (∀ (s : State) (g : BitVec 4) (bd : BitVec 3) (f : BitVec 7) (l : BitVec 6), s.me.guard0 g = true →
     let new : Int := ((s.me.rs 4).toNat : Int) - 16 * (f.toNat : Int)
     f ≠ 0 → (new < (s.me.splim.toNat : Int) ∨ new < 0) →
     Traps s (exec (.call g bd f l) s) 0x03 0x01 0 (BitVec.ofInt 64 new)) ∧
  (∀ (s : State) (g : BitVec 4) (f : BitVec 7) (l : BitVec 6), s.me.guard0 g = true →
     ∃ u, PostsS s (.next u) 4 (s.me.rs 4 + BitVec.ofNat 64 (16 * f.toNat)) 1 ∧
       exec (.ret g f l) s = .next (taken u (BitVec.ofNat 64 ((s.me.rs l).toNat % 2 ^ 13))))

/-! ## Vector operations -/

/-- R202, R206: integer operations on elements of type T, written in the lanes that the guard enables; only the saturating
ones can set a flag, SAT, and only for elements in written lanes. R207, R208: bitwise logic, and lane shifts by bits [4:0] of
a lane or of a scalar register. -/
def Obligations.VectorIntegerAndLogicResults : Prop :=
  (∀ (s : State) (g : BitVec 4) (d ra rb : BitVec 6) (t : BitVec 3),
     let w := 8 * 2 ^ (t.toNat % 4)
     let n := 1024 / w
     let lanes := s.me.guard g
     let int (c : Nat) : Int := if t.toNat < 4 ∧ 2 ^ (w - 1) ≤ c then (c : Int) - 2 ^ w else c
     let x (e : Nat) : Int := int (elemOf (s.me.rv ra) w e)
     let y (e : Nat) : Int := int (elemOf (s.me.rv rb) w e)
     let lowest : Int := if t.toNat < 4 then -(2 ^ (w - 1)) else 0
     let highest : Int := if t.toNat < 4 then 2 ^ (w - 1) - 1 else 2 ^ w - 1
     let code (i : Int) : Nat := (i % (2 ^ w : Nat)).toNat
     let clamp (i : Int) : Int := if highest < i then highest else if i < lowest then lowest else i
     let sat (f : Nat → Int) : BitVec 5 :=
       if (List.range n).any (fun e => elemOn lanes w e && decide (clamp (f e) ≠ f e)) then 0x10 else 0
     PostsV s (exec (.vadd g d ra rb t) s) d lanes (vregElems w n (fun e => code (x e + y e))) 0 2 ∧
     PostsV s (exec (.vsub g d ra rb t) s) d lanes (vregElems w n (fun e => code (x e - y e))) 0 2 ∧
     PostsV s (exec (.vmul g d ra rb t) s) d lanes (vregElems w n (fun e => code (x e * y e))) 0 4 ∧
     PostsV s (exec (.vadds g d ra rb t) s) d lanes (vregElems w n (fun e => code (clamp (x e + y e))))
       (sat (fun e => x e + y e)) 2 ∧
     PostsV s (exec (.vsubs g d ra rb t) s) d lanes (vregElems w n (fun e => code (clamp (x e - y e))))
       (sat (fun e => x e - y e)) 2 ∧
     PostsV s (exec (.vmin g d ra rb t) s) d lanes (vregElems w n (fun e => code (if x e ≤ y e then x e else y e))) 0 2 ∧
     PostsV s (exec (.vmax g d ra rb t) s) d lanes (vregElems w n (fun e => code (if y e ≤ x e then x e else y e))) 0 2) ∧
  (∀ (s : State) (g : BitVec 4) (d ra rb : BitVec 6),
     let lanes := s.me.guard g
     let a := s.me.rv ra
     let b := s.me.rv rb
     let n (i : Nat) : Nat := (laneOf b i).toNat % 32
     let k : Nat := (s.me.rs rb).toNat % 32
     PostsV s (exec (.vand g d ra rb) s) d lanes (a &&& b) 0 2 ∧
     PostsV s (exec (.vor g d ra rb) s) d lanes (a ||| b) 0 2 ∧
     PostsV s (exec (.vxor g d ra rb) s) d lanes (a ^^^ b) 0 2 ∧
     PostsV s (exec (.vandn g d ra rb) s) d lanes (a &&& ~~~b) 0 2 ∧
     PostsV s (exec (.vnot g d ra) s) d lanes (~~~a) 0 2 ∧
     PostsV s (exec (.vsll g d ra rb) s) d lanes (vregOf (fun i => laneOf a i <<< n i)) 0 2 ∧
     PostsV s (exec (.vsrl g d ra rb) s) d lanes (vregOf (fun i => laneOf a i >>> n i)) 0 2 ∧
     PostsV s (exec (.vsra g d ra rb) s) d lanes (vregOf (fun i => (laneOf a i).sshiftRight (n i))) 0 2 ∧
     PostsV s (exec (.vslls g d ra rb) s) d lanes (vregOf (fun i => laneOf a i <<< k)) 0 2 ∧
     PostsV s (exec (.vsrls g d ra rb) s) d lanes (vregOf (fun i => laneOf a i >>> k)) 0 2 ∧
     PostsV s (exec (.vsras g d ra rb) s) d lanes (vregOf (fun i => (laneOf a i).sshiftRight k)) 0 2)

/-- R203, R209 to R211: floating arithmetic element by element. Sources are flushed under FTZ; sums, differences, products and
fused products are rounded once by RMODE, and their flags are those of the written elements; vfmin and vfmax set no flag.
R212, R213: the four forms of vcvt differ only in the source register's upper bit and in SAT; n elements as the wider of the
two formats allows, a width of 6 counting as 8, each narrowed by CMODE. -/
def Obligations.VectorFloatAndConversionResults : Prop :=
  (∀ (s : State) (g : BitVec 4) (d ra rb : BitVec 6) (t : BitVec 3),
     let k : FpFmt := if t = 0 then fp32 else if t = 1 then fp16 else bf16
     let w := k.width
     let n := 1024 / w
     let lanes := s.me.guard g
     let src (r : BitVec 6) (e : Nat) : Exact := k.flushIn s.me.ftz (k.value (elemOf (s.me.rv r) w e))
     let round (z : Exact × Bool) (e : Nat) : Rounded :=
       let r := roundFp z.1 k s.me.rmode false s.me.ftz (s.elemBits w e)
       ⟨r.code, if z.2 then r.flags ||| 1 else r.flags⟩
     let out (o : Out) (r : Nat → Exact × Bool) : Prop :=
       PostsV s o d lanes (vregElems w n (fun e => (round (r e) e).code)) (flagsOf lanes w (fun e => (round (r e) e).flags) n) 4
     let fma (x y z : Exact) : Exact × Bool :=
       let p := exactMul x y
       if p.2 then p else exactAdd s.me.rmode p.1 z
     let below (x y : Exact) : Bool := (x.isNan && !y.isNan) || exactLt x y
     out (exec (.vfadd g d ra rb t) s) (fun e => exactAdd s.me.rmode (src ra e) (src rb e)) ∧
     out (exec (.vfsub g d ra rb t) s) (fun e => exactAdd s.me.rmode (src ra e) (src rb e).negate) ∧
     out (exec (.vfmul g d ra rb t) s) (fun e => exactMul (src ra e) (src rb e)) ∧
     out (exec (.vfma g d ra rb t) s) (fun e => fma (src ra e) (src rb e) (src d e)) ∧
     out (exec (.vfms g d ra rb t) s) (fun e => fma (src ra e) (src rb e) (src d e).negate) ∧
     PostsV s (exec (.vfmin g d ra rb t) s) d lanes
       (vregElems w n (fun e => k.codeOf (if below (src rb e) (src ra e) then src rb e else src ra e))) 0 2 ∧
     PostsV s (exec (.vfmax g d ra rb t) s) d lanes
       (vregElems w n (fun e => k.codeOf (if below (src ra e) (src rb e) then src rb e else src ra e))) 0 2) ∧
  (∀ (s : State) (g : BitVec 4) (d : BitVec 6) (a df sf : BitVec 5),
     let lanes := s.me.guard g
     let kd := cvtFmt df.toNat
     let ks := cvtFmt sf.toNat
     let size (w : Nat) : Nat := if w = 6 then 8 else w
     let n := 1024 / Nat.max (size ks.width) (size kd.width)
     let out (o : Out) (r : BitVec 6) (sat : Bool) : Prop :=
       let f (e : Nat) : Rounded :=
         roundTo (ks.flushIn s.me.ftz (ks.value (elemOf (s.me.rv r) ks.width e))) kd s.me.cmode sat s.me.ftz
           (s.elemBits kd.width e)
       PostsV s o d lanes (vregElems kd.width n (fun e => (f e).code)) (flagsOf lanes kd.width (fun e => (f e).flags) n) 4
     out (exec (.vcvtV0V31 g d a df sf) s) (BitVec.ofNat 6 a.toNat) false ∧
     out (exec (.vcvtV32V63 g d a df sf) s) (BitVec.ofNat 6 (32 + a.toNat)) false ∧
     out (exec (.vcvtSatV0V31 g d a df sf) s) (BitVec.ofNat 6 a.toNat) true ∧
     out (exec (.vcvtSatV32V63 g d a df sf) s) (BitVec.ofNat 6 (32 + a.toNat)) true)

/-- R214: lane predicates of the integer and floating compares, in the lanes that the guard enables; a NaN makes every
floating condition false but `different`, and no flag is set. R215 to R217, R220: selection, permutations, moves between lanes
and scalars, and the lane hash. vget is guarded in lane 0 and vput in the lane it writes. -/
def Obligations.VectorCompareAndMoveResults : Prop :=
  (∀ (s : State) (g : BitVec 4) (p : BitVec 7) (ra rb : BitVec 6),
     let lanes := s.me.guard g
     let a (i : Nat) : Lane32 := laneOf (s.me.rv ra) i
     let b (i : Nat) : Lane32 := laneOf (s.me.rv rb) i
     let x (i : Nat) : Exact := fp32.flushIn s.me.ftz (fp32.value (elemOf (s.me.rv ra) 32 i))
     let y (i : Nat) : Exact := fp32.flushIn s.me.ftz (fp32.value (elemOf (s.me.rv rb) 32 i))
     let same (i : Nat) : Bool := !(x i).isNan && !(y i).isNan && !exactLt (x i) (y i) && !exactLt (y i) (x i)
     PostsP s (exec (.vcmpEq g p ra rb) s) p lanes (maskOf (fun i => decide (a i = b i))) 2 ∧
     PostsP s (exec (.vcmpNe g p ra rb) s) p lanes (maskOf (fun i => decide (a i ≠ b i))) 2 ∧
     PostsP s (exec (.vcmpLt g p ra rb) s) p lanes (maskOf (fun i => decide ((a i).toInt < (b i).toInt))) 2 ∧
     PostsP s (exec (.vcmpLe g p ra rb) s) p lanes (maskOf (fun i => decide ((a i).toInt ≤ (b i).toInt))) 2 ∧
     PostsP s (exec (.vcmpuLtu g p ra rb) s) p lanes (maskOf (fun i => decide ((a i).toNat < (b i).toNat))) 2 ∧
     PostsP s (exec (.vcmpuLeu g p ra rb) s) p lanes (maskOf (fun i => decide ((a i).toNat ≤ (b i).toNat))) 2 ∧
     PostsP s (exec (.vcmpuTst g p ra rb) s) p lanes (maskOf (fun i => decide (a i &&& b i ≠ 0))) 2 ∧
     PostsP s (exec (.vcmpuNtst g p ra rb) s) p lanes (maskOf (fun i => decide (a i &&& b i = 0))) 2 ∧
     PostsP s (exec (.vfcmpEq g p ra rb) s) p lanes (maskOf same) 2 ∧
     PostsP s (exec (.vfcmpNe g p ra rb) s) p lanes (maskOf (fun i => !same i)) 2 ∧
     PostsP s (exec (.vfcmpLt g p ra rb) s) p lanes (maskOf (fun i => exactLt (x i) (y i))) 2 ∧
     PostsP s (exec (.vfcmpLe g p ra rb) s) p lanes (maskOf (fun i => exactLt (x i) (y i) || same i)) 2) ∧
  (∀ (s : State) (g : BitVec 4) (d ra rb : BitVec 6) (p : BitVec 3),
     let lanes := s.me.guard g
     let a (i : Nat) : Lane32 := laneOf (s.me.rv ra) i
     let b (i : Nat) : Lane32 := laneOf (s.me.rv rb) i
     let k : Nat := (s.me.rs rb).toNat % 32
     let x : Lane32 := (s.me.rs ra).setWidth 32
     let y : Lane32 := (s.me.rs rb).setWidth 32
     PostsV s (exec (.vsel g d ra rb p) s) d lanes
       (vregOf (fun i => if (s.me.rp (p.setWidth 7)).getLsbD i then a i else b i)) 0 2 ∧
     PostsV s (exec (.vperm g d ra rb) s) d lanes (vregOf (fun i => a ((b i).toNat % 32))) 0 2 ∧
     PostsV s (exec (.vrotl g d ra rb) s) d lanes (vregOf (fun i => a ((i + 32 - k) % 32))) 0 2 ∧
     PostsV s (exec (.vbcl g d ra rb) s) d lanes (vregOf (fun _ => a k)) 0 2 ∧
     PostsV s (exec (.vzipl g d ra rb) s) d lanes (vregOf (fun i => if i % 2 = 0 then a (i / 2) else b (i / 2))) 0 2 ∧
     PostsV s (exec (.vziph g d ra rb) s) d lanes
       (vregOf (fun i => if i % 2 = 0 then a (16 + i / 2) else b (16 + i / 2))) 0 2 ∧
     PostsV s (exec (.vuzpl g d ra rb) s) d lanes (vregOf (fun i => if i < 16 then a (2 * i) else b (2 * (i - 16)))) 0 2 ∧
     PostsV s (exec (.vuzph g d ra rb) s) d lanes
       (vregOf (fun i => if i < 16 then a (2 * i + 1) else b (2 * (i - 16) + 1))) 0 2 ∧
     PostsV s (exec (.vbc g d ra) s) d lanes (vregOf (fun _ => x)) 0 2 ∧
     PostsV s (exec (.viota g d ra) s) d lanes (vregOf (fun i => x + BitVec.ofNat 32 i)) 0 2 ∧
     PostsV s (exec (.vhash g d ra rb) s) d lanes (vregOf (fun i => vhash x y (BitVec.ofNat 32 i))) 0 4 ∧
     PostsV s (exec (.vput g d ra rb) s) d (lanes &&& maskOf (fun i => decide (i = k))) (vregOf (fun _ => x)) 0 2 ∧
     (s.me.guard0 g = true → PostsS s (exec (.vget g d ra rb) s) d ((a k).setWidth 64) 2))

/-- R90, R91, R218: a reduction writes lane 0 of its destination whatever its guard holds there (amax lanes 0 and 1); excluded
lanes enter the sums as -0.0 and 0 and never win a maximum or minimum, and with every lane excluded those give the values
that the rule states. -/
def Obligations.VectorReductionResults : Prop :=
  ∀ (s : State) (g : BitVec 4) (d ra : BitVec 6),
    let on (i : Nat) : Bool := (s.me.guard g).getLsbD i
    let a (i : Nat) : Lane32 := laneOf (s.me.rv ra) i
    let one (w : Lane32) : VReg := vregOf (fun _ => w)
    let lane (i : Nat) : Option Lane32 := if on i then some (a i) else none
    let canon (c : Lane32) : Lane32 := BitVec.ofNat 32 (fp32.codeOf (fp32.flushIn s.me.ftz (fp32.value c.toNat)))
    let flane (i : Nat) : Option Lane32 := (lane i).map canon
    let fsum := reduce32 (fsumStep s.me.rmode s.me.ftz) ⟨0x80000000, 0⟩
      (fun i => ⟨(if on i then a i else 0x80000000).toNat, 0⟩)
    let amax := (reduce32 (optStep amaxStep) none (fun i => (flane i).map (fun x => (x, i)))).getD (0x7FC00000, 32)
    PostsV s (exec (.vredFsum g d ra) s) d 1 (one (BitVec.ofNat 32 fsum.code)) fsum.flags 10 ∧
    PostsV s (exec (.vredIsum g d ra) s) d 1
      (one (((List.range 32).filter on).map a).sum) 0 6 ∧
    PostsV s (exec (.vredFmax g d ra) s) d 1
      (one ((reduce32 (optStep (fselCode s.me.ftz true)) none flane).getD 0x7FC00000)) 0 6 ∧
    PostsV s (exec (.vredFmin g d ra) s) d 1
      (one ((reduce32 (optStep (fselCode s.me.ftz false)) none flane).getD 0x7FC00000)) 0 6 ∧
    (∃ w, PostsV s (exec (.vredImax g d ra) s) d 1 (one w) 0 6 ∧
      (∀ i < 32, on i = true → (a i).toInt ≤ w.toInt) ∧
      ((∃ i < 32, on i = true ∧ w = a i) ∨ ((∀ i < 32, on i = false) ∧ w = 0x80000000))) ∧
    (∃ w, PostsV s (exec (.vredImin g d ra) s) d 1 (one w) 0 6 ∧
      (∀ i < 32, on i = true → w.toInt ≤ (a i).toInt) ∧
      ((∃ i < 32, on i = true ∧ w = a i) ∨ ((∀ i < 32, on i = false) ∧ w = 0x7FFFFFFF))) ∧
    PostsV s (exec (.vredAmax g d ra) s) d 3
      (vregOf (fun i => if i = 0 then amax.1 else BitVec.ofNat 32 amax.2)) 0 6

/-- R92, R219: each transcendental of every element, rounded in RNE whatever RMODE holds, 8 cycles after issue. Where the two
bounds that enclose the exact value round to one code, that code is the result; otherwise a free value of the model picks
between them (log 16). For every state and operands each completes: it answers a next state with one more result in
flight for v[D], 8 cycles after issue, whose elements hold the special cases of R92's table (NaN, the infinities, the zeros,
negative operands and +1.0, a subnormal operand under FTZ being the zero of its sign); and when every written element is such a
case its flags are NV where the table names it, and no other. -/
def Obligations.TranscendentalResults : Prop :=
  (∀ (s : State) (g : BitVec 4) (d ra : BitVec 6) (m : BitVec 5),
      let k : FpFmt := if m.toNat - 8 = 0 then fp32 else if m.toNat - 8 = 1 then fp16 else bf16
      let w := k.width
      let n := 1024 / w
      let lanes := s.me.guard g
      let src (e : Nat) : Exact := k.flushIn s.me.ftz (k.value (elemOf (s.me.rv ra) w e))
      let out (o : Out) (f : Exact → Enclosed) : Prop :=
        PostsV s o d lanes (vregElems w n (fun e => ((f (src e)).round k s.me.ftz).code))
          (flagsOf lanes w (fun e => ((f (src e)).round k s.me.ftz).flags) n) 8
      out (exec (.vtrLog2 g d ra m) s) transLog2 ∧
      out (exec (.vtrExp2 g d ra m) s) transExp2 ∧
      out (exec (.vtrRcp g d ra m) s) transRcp ∧
      out (exec (.vtrRsqrt g d ra m) s) transRsqrt ∧
      out (exec (.vtrSig g d ra m) s) transSig ∧
      out (exec (.vtrTanh g d ra m) s) transTanh) ∧
  (∀ (s : State) (g : BitVec 4) (d ra : BitVec 6) (m : BitVec 5), m = 8 ∨ m = 9 ∨ m = 10 →
      let k : FpFmt := if m = 8 then fp32 else if m = 9 then fp16 else bf16
      let w := k.width
      let n := 1024 / w
      let lanes := s.me.guard g
      let nan := k.nanCode false
      let inf := k.infCode
      let sign := 2 ^ (w - 1)
      let one := k.bias * 2 ^ k.mb
      let half := (k.bias - 1) * 2 ^ k.mb
      let two := (k.bias + 1) * 2 ^ k.mb
      let row (pinf ninf pzero nzero : Nat × Bool) (neg unit : Option (Nat × Bool)) (e : Nat) : Option (Nat × Bool) :=
        match k.flushIn s.me.ftz (k.value (elemOf (s.me.rv ra) w e)) with
        | .nan _ => some (nan, false)
        | .inf false => some pinf
        | .inf true => some ninf
        | .fin sg 0 _ _ => some (if sg then nzero else pzero)
        | .fin true _ _ _ => neg
        | .fin false _ _ _ => if elemOf (s.me.rv ra) w e = one then unit else none
      let completes (i : Instr) (r : Nat → Option (Nat × Bool)) : Prop :=
        ∃ v fl, exec i s = .next (posted s (.v (s.me.physV d)) lanes v fl 8) ∧
          (∀ e < n, ∀ c, r e = some c → elemOf v w e = c.1) ∧
          ((∀ e < n, elemOn lanes w e = true → (r e).isSome = true) →
            fl = if (List.range n).any (fun e => elemOn lanes w e && (r e).any (·.2)) then 1 else 0)
      completes (.vtrLog2 g d ra m) (row (inf, false) (nan, true) (sign + inf, false) (sign + inf, false) (some (nan, true))
        (some (0, false))) ∧
      completes (.vtrExp2 g d ra m) (row (inf, false) (0, false) (one, false) (one, false) none (some (two, false))) ∧
      completes (.vtrRcp g d ra m) (row (0, false) (sign, false) (inf, false) (sign + inf, false) none (some (one, false))) ∧
      completes (.vtrRsqrt g d ra m) (row (0, false) (nan, true) (inf, false) (sign + inf, false) (some (nan, true))
        (some (one, false))) ∧
      completes (.vtrSig g d ra m) (row (one, false) (0, false) (half, false) (half, false) none none) ∧
      completes (.vtrTanh g d ra m) (row (one, false) (sign + one, false) (0, false) (sign, false) none none))

/-! ## What every step keeps -/

/-- Every step from a state whose memories and maps are in canonical form answers a state in which they are: the addresses of memory
and the keys of each map strictly rise, and no entry equals what an unlisted one reads as, so that equal memories are equal data. The
form is the model's own; R5 and R351 give the bytes and the address spaces that the memories hold. -/
def Obligations.StepKeepsCanonicalForm : Prop :=
  ∀ (s t : State), Canonical s → step s = .next t → Canonical t

/-! ## Loads and stores -/

/-- R60, R97, R98, R249, R250: a scalar load whose address resolves takes a landing-buffer entry: its result in flight lands at the
latency of its address, K cycles later, extended as the form says. R57, R102: its data is back at the core after 6 cycles from the own
scratchpad, 14 from a braid window, 10 from the own vault, 24 to 48 from another vault of the die and 160 to 320 from one of the other
die (which of them: a free value, log 82). R99, R312: u is the state in which the queued stores of the partition's other contexts to
those words have performed, s itself where there are none (log 50). Once it leaves its bank's queue at once (a free value, log 83) and
follows nothing, it reads the bytes of words that hold their data, and nothing else changes; otherwise it waits with what it
follows. -/
def Obligations.ScalarLoadResults : Prop :=
  (∀ (s : State) (g : BitVec 4) (d ra k : BitVec 6) (t : Team) (l : Loc), s.me.guard0 g = true →
    s.teamOf s.issue.x = some t → s.bufUsed s.issue.x < 64 →
    let x := s.issue.x
    let a := (s.me.rs ra).toNat
    let local_ : Nat := if a < 0x400000 then (if s.me.compat then 4 else 6) else if s.me.compat then 12 else 14
    let vault_ : Nat := if a / 2 ^ 24 % 2 ^ 7 = t.pos then 10 else 48
    let out (o : Out) (vault : Bool) (n : Nat) (sext : Bool) : Prop :=
      (vault = false → 0x400000 ≤ a → t.lld = false) →
      s.resolve (ctxCore x) s.me.task vault a n = .ok l →
      let u := s.portFirst [(l, n)] false
      let hold := Config.loadHold u.nextOp % 4
      let wait := u.waitsFor x [(l, n)]
      let v := Memory.rdN ((u.core l.core).store l.vault) l.off n
      let w : Word := if sext = true ∧ 2 ^ (8 * n - 1) ≤ v then BitVec.ofInt 64 ((v : Int) - 2 ^ (8 * n)) else BitVec.ofNat 64 v
      ∃ (f : Flight) (u' : State), o = .next (u'.setCtx x { u'.ctx x with flight := (u'.ctx x).flight ++ [f] }) ∧
        f.dst = (if d = 0 then .none else .s ⟨d.toNat, d.isLt⟩) ∧ f.lanes = allLanes ∧ f.flags = 0 ∧ f.buf = true ∧
        f.due = s.issue.cycle + (if vault then vault_ else local_) + k.toNat ∧ f.hold = hold ∧ f.orig = s.me.pc ∧
        (vault = false → f.back = if a < 0x400000 then 6 else 14) ∧
        (vault = true → l.core = ctxCore x → f.back = 10) ∧
        (vault = true → l.core ≠ ctxCore x → l.core / 64 = ctxCore x / 64 → 24 ≤ f.back ∧ f.back ≤ 48) ∧
        (vault = true → l.core / 64 ≠ ctxCore x / 64 → 160 ≤ f.back ∧ f.back ≤ 320) ∧
        (hold = 0 → wait = [] → u.allUsable l n = true → u.poisoned l = false → u.errs = [] →
          u' = { u with nextOp := u.nextOp + 1 } ∧ f.value = some (w.setWidth 1024)) ∧
        (0 < hold ∨ wait ≠ [] → u' = { u with nextOp := u.nextOp + 1 } ∧ f.value = none ∧
          f.src = .mem n sext false [⟨0, l.core, l.vault, l.off, none, [], !vault && decide (0x400000 ≤ a)⟩] wait)
    out (exec (.ldB g d ra k) s) false 1 false ∧ out (exec (.ldH g d ra k) s) false 2 false ∧
    out (exec (.ldW g d ra k) s) false 4 false ∧ out (exec (.ldD g d ra k) s) false 8 false ∧
    out (exec (.ldBs g d ra k) s) false 1 true ∧ out (exec (.ldHs g d ra k) s) false 2 true ∧
    out (exec (.ldWs g d ra k) s) false 4 true ∧
    out (exec (.ldvB g d ra k) s) true 1 false ∧ out (exec (.ldvH g d ra k) s) true 2 false ∧
    out (exec (.ldvW g d ra k) s) true 4 false ∧ out (exec (.ldvD g d ra k) s) true 8 false ∧
    out (exec (.ldvBs g d ra k) s) true 1 true ∧ out (exec (.ldvHs g d ra k) s) true 2 true ∧
    out (exec (.ldvWs g d ra k) s) true 4 true) ∧
  (∀ (s : State) (ls : List (Loc × Nat)) (store : Bool),
    (∀ y, y ≠ s.issue.x → y.val / 4 = s.issue.x.val / 4 →
      (∀ p ∈ (s.ctx y).stq, 0 < p.hold → ∀ b ∈ p.locs, ∀ l ∈ ls, shareWord b l = false) ∧
      (store = true → ∀ f ∈ (s.ctx y).allFlights, 0 < f.hold → f.pending = true → ∀ b ∈ f.locs, ∀ l ∈ ls, shareWord b l = false)) →
    s.portFirst ls store = s)

/-- R251: a vector load reads one word per enabled lane (the broadcast form one word for all); the half forms serve lanes 0 to 15 and
the other lanes land as 0. Its result, written in the lanes of the guard, is in flight with a landing-buffer entry: it lands at the
latency of its base address, K cycles later (R249, R311), and its data is back at the core when the last of its words is (R57, R102):
after 6 cycles from the own scratchpad, 14 from the braid windows, 10 from the own vault, at most 320 from any. R99, R312: u, the
bank's queue and what it follows are as for a scalar load (logs 50, 83). With no lane on, nothing happens. -/
def Obligations.VectorLoadResults : Prop :=
  ∀ (s : State) (g : BitVec 4) (d ra k : BitVec 6) (t : Team) (at_ : Nat → Loc),
    s.teamOf s.issue.x = some t → s.bufUsed s.issue.x < 64 →
    let x := s.issue.x
    let a := (s.me.rs ra).toNat
    let lanes := s.me.guard g
    let local_ : Nat := if a < 0x400000 then (if s.me.compat then 4 else 6) else if s.me.compat then 12 else 14
    let vault_ : Nat := if a / 2 ^ 24 % 2 ^ 7 = t.pos then 10 else 48
    let out (o : Out) (vault bc : Bool) (ls : List Nat) : Prop :=
      (vault = false → 0x400000 ≤ a → t.lld = false) →
      (∀ i ∈ ls, s.resolve (ctxCore x) s.me.task vault (a + 4 * i) 4 = .ok (at_ i)) →
      let u := s.portFirst (ls.map (fun i => (at_ i, 4))) false
      let hold := if ls = [] then 0 else Config.loadHold u.nextOp % 4
      let wait := u.waitsFor x (ls.map (fun i => (at_ i, 4)))
      let word (i : Nat) : Lane32 := BitVec.ofNat 32 (Memory.rdN ((u.core (at_ i).core).store (at_ i).vault) (at_ i).off 4)
      ∃ (f : Flight) (u' : State), o = .next (u'.setCtx x { u'.ctx x with flight := (u'.ctx x).flight ++ [f] }) ∧
        f.dst = .v (s.me.physV d) ∧ f.lanes = lanes ∧ f.flags = 0 ∧ f.buf = true ∧
        f.due = s.issue.cycle + (if vault then vault_ else local_) + k.toNat ∧ f.hold = hold ∧ f.orig = s.me.pc ∧
        (vault = false → ls ≠ [] → f.back = if a < 0x400000 then 6 else 14) ∧
        (vault = true → ls ≠ [] → (∀ i ∈ ls, (at_ i).core = ctxCore x) → f.back = 10) ∧ f.back ≤ 320 ∧
        (hold = 0 → wait = [] → (∀ i ∈ ls, u.allUsable (at_ i) 4 = true ∧ u.poisoned (at_ i) = false) → u.errs = [] →
          u' = { u with nextOp := u.nextOp + 1 } ∧
          f.value = some (vregOf (fun i => if bc = true then word 0 else if i ∈ ls then word i else 0))) ∧
        (0 < hold ∨ wait ≠ [] → u' = { u with nextOp := u.nextOp + 1 } ∧ f.value = none ∧
          f.src = .mem 4 false bc (ls.map (fun i => ⟨i, (at_ i).core, (at_ i).vault, (at_ i).off, none, [],
            !vault && decide (0x400000 ≤ a)⟩)) wait)
    let on (m : Nat) : List Nat := (List.range m).filter (fun i => lanes.getLsbD i)
    (lanes ≠ 0 →
      out (exec (.vldV g d ra k) s) false false (on 32) ∧ out (exec (.vldH g d ra k) s) false false (on 16) ∧
      out (exec (.vldBc g d ra k) s) false true [0] ∧ out (exec (.vldvV g d ra k) s) true false (on 32) ∧
      out (exec (.vldvH g d ra k) s) true false (on 16) ∧ out (exec (.vldvBc g d ra k) s) true true [0]) ∧
    (lanes = 0 →
      exec (.vldV g d ra k) s = .next s ∧ exec (.vldH g d ra k) s = .next s ∧ exec (.vldBc g d ra k) s = .next s ∧
      exec (.vldvV g d ra k) s = .next s ∧ exec (.vldvH g d ra k) s = .next s ∧ exec (.vldvBc g d ra k) s = .next s)

/-- R60, R97, R249, R369: a load stalls without a free landing-buffer entry. With one, a base in the braid windows of a team with LLD
= 1 takes MEM RANGE, and otherwise the first address that does not resolve takes MEM with its cause (ALIGN, RANGE or PLACE) at that
address; a vector load's addresses are those of its enabled lanes in order, or its base. R97, R107, R329: a store that its tests stop
writes nothing. Based on s4 in LOCAL space it takes RANGE or ALIGN first, then SPILL cause STORE at its lowest address when some
address lies below the limit; then every store takes MEM for its first address that does not resolve, and MEM BRO for its first in
a read-only bight. A merge store without a free landing-buffer entry stalls. Which of several lanes is reported is log 52. -/
def Obligations.LoadAndStoreFaults : Prop :=
  (∀ (s : State) (g : BitVec 4) (d ra k : BitVec 6) (t : Team), s.teamOf s.issue.x = some t →
     let x := s.issue.x
     let a := (s.me.rs ra).toNat
     let lanes := s.me.guard g
     let out (o : Out) (vault : Bool) (n : Nat) (l : List Nat) : Prop :=
       let bad (b : Nat) (c : BitVec 8) : Prop := s.resolve (ctxCore x) s.me.task vault b n = .error c
       let closed : Prop := vault = false ∧ 0x400000 ≤ a ∧ t.lld = true
       (64 ≤ s.bufUsed x → Stalls s o) ∧
       (s.bufUsed x < 64 → closed → Traps s o 0x02 0x01 4 (BitVec.ofNat 64 a)) ∧
       (s.bufUsed x < 64 → ¬ closed → ∀ p b q c, l = p ++ b :: q → (∀ e ∈ p, ∀ c, ¬ bad e c) → bad b c →
         Traps s o 0x02 c 4 (BitVec.ofNat 64 b)) ∧
       (∀ b ∈ l, b % n ≠ 0 → bad b 0x03)
     let on (m : Nat) : List Nat := ((List.range m).filter (fun i => lanes.getLsbD i)).map (fun i => a + 4 * i)
     (s.me.guard0 g = true →
       out (exec (.ldB g d ra k) s) false 1 [a] ∧ out (exec (.ldH g d ra k) s) false 2 [a] ∧
       out (exec (.ldW g d ra k) s) false 4 [a] ∧ out (exec (.ldD g d ra k) s) false 8 [a] ∧
       out (exec (.ldBs g d ra k) s) false 1 [a] ∧ out (exec (.ldHs g d ra k) s) false 2 [a] ∧
       out (exec (.ldWs g d ra k) s) false 4 [a] ∧ out (exec (.ldvB g d ra k) s) true 1 [a] ∧
       out (exec (.ldvH g d ra k) s) true 2 [a] ∧ out (exec (.ldvW g d ra k) s) true 4 [a] ∧
       out (exec (.ldvD g d ra k) s) true 8 [a] ∧ out (exec (.ldvBs g d ra k) s) true 1 [a] ∧
       out (exec (.ldvHs g d ra k) s) true 2 [a] ∧ out (exec (.ldvWs g d ra k) s) true 4 [a]) ∧
     (lanes ≠ 0 →
       out (exec (.vldV g d ra k) s) false 4 (on 32) ∧ out (exec (.vldH g d ra k) s) false 4 (on 16) ∧
       out (exec (.vldBc g d ra k) s) false 4 [a] ∧ out (exec (.vldvV g d ra k) s) true 4 (on 32) ∧
       out (exec (.vldvH g d ra k) s) true 4 (on 16) ∧ out (exec (.vldvBc g d ra k) s) true 4 [a])) ∧
  (∀ (s : State) (g : BitVec 4) (d ra k : BitVec 6),
     let x := s.issue.x
     let lanes := s.me.guard g
     let base (unit : Nat) : Nat := (s.me.rs ra + k.signExtend 64 * BitVec.ofNat 64 unit).toNat
     let out (o : Out) (vault : Bool) (n : Nat) (l : List Nat) : Prop :=
       let bad (b : Nat) (c : BitVec 8) : Prop := s.resolve (ctxCore x) s.me.task vault b n = .error c
       let early (b : Nat) : Prop := bad b 0x01 ∨ bad b 0x03
       let based : Prop := vault = false ∧ ra = 4
       let spill : Prop := based ∧ ∃ b ∈ l, b < s.me.splim.toNat
       let first (q : Nat → Prop) (b : Nat) : Prop := ∃ p r, l = p ++ b :: r ∧ q b ∧ ∀ e ∈ p, ¬ q e
       (∀ b ∈ l, ∀ c, s.resolve (ctxCore x) s.me.task vault b n = .ok c → s.isMerge c n = true → 64 ≤ s.bufUsed x → Stalls s o) ∧
       ((∀ b ∈ l, ∀ c, s.resolve (ctxCore x) s.me.task vault b n = .ok c → n < 4 → s.allUsable c n = true ∨ s.bufUsed x < 64) →
         (based → ∀ b c, first early b → bad b c → Traps s o 0x02 c 4 (BitVec.ofNat 64 b)) ∧
         (spill → (∀ b ∈ l, ¬ early b) → Traps s o 0x03 0x02 4 (BitVec.ofNat 64 (l.headD 0))) ∧
         (¬ spill → (based → ∀ b ∈ l, ¬ early b) → ∀ b c, first (fun b => ∃ c, bad b c) b → bad b c →
           Traps s o 0x02 c 4 (BitVec.ofNat 64 b)) ∧
         (¬ spill → (∀ b ∈ l, ∀ c, ¬ bad b c) →
           ∀ b, first (fun b => ∃ c, s.resolve (ctxCore x) s.me.task vault b n = .ok c ∧ s.readOnly c n = true) b →
           Traps s o 0x02 0x07 4 (BitVec.ofNat 64 b)))
     let on (m : Nat) : List Nat := ((List.range m).filter (fun i => lanes.getLsbD i)).map (fun i => base (4 * m) + 4 * i)
     (s.me.guard0 g = true →
       out (exec (.stB g d ra k) s) false 1 [base 1] ∧ out (exec (.stH g d ra k) s) false 2 [base 2] ∧
       out (exec (.stW g d ra k) s) false 4 [base 4] ∧ out (exec (.stD g d ra k) s) false 8 [base 8] ∧
       out (exec (.stvB g d ra k) s) true 1 [base 1] ∧ out (exec (.stvH g d ra k) s) true 2 [base 2] ∧
       out (exec (.stvW g d ra k) s) true 4 [base 4] ∧ out (exec (.stvD g d ra k) s) true 8 [base 8]) ∧
     out (exec (.vstV g d ra k) s) false 4 (on 32) ∧ out (exec (.vstH g d ra k) s) false 4 (on 16) ∧
     out (exec (.vstvV g d ra k) s) true 4 (on 32) ∧ out (exec (.vstvH g d ra k) s) true 4 (on 16))

/-- R98, R107, R250, R329: a scalar store to s[A] + SExt(K, 6) x n, whose address resolves outside a read-only bight and above
the spill limit where it is based on s4, writes the low n bytes of s[D] there and nothing else: every other byte of every core's
stores, every byte of DRAM and of host memory, and every context stay. R99, R128, R131: or it waits in the queue of its bank as long as
a free value says (log 83) and for what it follows, no byte changes, and it writes the same bytes, and no other, when it performs. R312:
u is s once the earlier accesses of the partition's other contexts to those bytes have performed (log 50). -/
def Obligations.ScalarStoreEffects : Prop :=
  (∀ (s : State) (g : BitVec 4) (d ra k : BitVec 6) (l : Loc), s.me.guard0 g = true →
    let x := s.issue.x
    let out (o : Out) (vault : Bool) (n : Nat) : Prop :=
      let a := (s.me.rs ra + k.signExtend 64 * BitVec.ofNat 64 n).toNat
      let v := (s.me.rs d).toNat % 2 ^ (8 * n)
      let u := s.portFirst [(l, n)] true
      let hold := Config.storeHold u.nextOp % 4
      let wait := u.waitsFor x [(l, n)]
      s.resolve (ctxCore x) s.me.task vault a n = .ok l →
      (vault = false → ra = 4 → s.me.splim.toNat ≤ a) → s.readOnly l n = false →
      (n < 4 → s.allUsable l n = true ∧ u.allUsable l n = true) →
      (hold = 0 → wait = [] → ∃ t, o = .next t ∧
        Memory.rdN ((t.core l.core).store l.vault) l.off n = v ∧
        (∀ c u' i, (c ≠ l.core ∨ u' ≠ l.vault ∨ i < l.off ∨ l.off + n ≤ i) →
          Memory.rd ((t.core c).store u') i = Memory.rd ((u.core c).store u') i) ∧
        (∀ y, t.ctx y = u.ctx y) ∧ t.dram = u.dram ∧ t.hostMem = u.hostMem ∧ t.issue = u.issue) ∧
      (0 < hold ∨ wait ≠ [] → o = .next (State.setCtx { u with nextOp := u.nextOp + 1 } x { u.ctx x with
        stq := (u.ctx x).stq ++ [newStore u.nextOp n [(l, BitVec.ofNat 64 v)] wait hold s.me.pc] }))
    out (exec (.stB g d ra k) s) false 1 ∧ out (exec (.stH g d ra k) s) false 2 ∧ out (exec (.stW g d ra k) s) false 4 ∧
    out (exec (.stD g d ra k) s) false 8 ∧ out (exec (.stvB g d ra k) s) true 1 ∧ out (exec (.stvH g d ra k) s) true 2 ∧
    out (exec (.stvW g d ra k) s) true 4 ∧ out (exec (.stvD g d ra k) s) true 8) ∧
  (∀ (s : State) (x : CtxNo) (p : PendStore) (l : Loc) (v : Word), p.elems = [(l.core, l.vault, l.off, v)] →
    p.hold = 0 → s.clearOf x p.after = true → (p.n < 4 → s.allUsable l p.n = true) → p.flushed = [] → p.raw = [] →
    let t := (s.pollStores x [p]).2
    (s.pollStores x [p]).1 = [] ∧ (t.ctx x).stq = (s.ctx x).stq.filter (fun q => q.id ≠ p.id) ∧
    Memory.rdN ((t.core l.core).store l.vault) l.off p.n = v.toNat % 256 ^ p.n ∧
    (∀ c u i, (c ≠ l.core ∨ u ≠ l.vault ∨ i < l.off ∨ l.off + p.n ≤ i) →
      Memory.rd ((t.core c).store u) i = Memory.rd ((s.core c).store u) i) ∧
    (∀ y, y ≠ x → t.ctx y = s.ctx y) ∧ t.dram = s.dram ∧ t.hostMem = s.hostMem)

/-- R251: a vector store writes the words of its enabled lanes, lanes 0 to 15 in the half forms, each at s[A] + SExt(K, 6) x
the size of the form plus 4 times the lane; every byte outside those words stays. R99, R128, R131: or all its words wait in the queue of
their bank as long as a free value says (log 83) and for what they follow. R312: u is s once the earlier accesses of the partition's
other contexts to those words have performed (log 50). With no lane on it does nothing. R98, R105: a store of n bytes at a location
leaves those bytes reading as the number stored, makes every mapped word that it touches VALID, DIRTY and defined, and leaves the side
bits of every other word as they were. -/
def Obligations.VectorStoresAndMappedWords : Prop :=
  (∀ (s : State) (g : BitVec 4) (d ra k : BitVec 6) (at_ : Nat → Loc),
     let x := s.issue.x
     let lanes := s.me.guard g
     let out (o : Out) (vault : Bool) (m : Nat) : Prop :=
       let a := (s.me.rs ra + k.signExtend 64 * BitVec.ofNat 64 (4 * m)).toNat
       let ls := (List.range m).filter (fun i => lanes.getLsbD i)
       let u := s.portFirst (ls.map (fun i => (at_ i, 4))) true
       let hold := Config.storeHold u.nextOp % 4
       let wait := u.waitsFor x (ls.map (fun i => (at_ i, 4)))
       (ls = [] → o = .next s) ∧
       (ls ≠ [] →
         (∀ i ∈ ls, s.resolve (ctxCore x) s.me.task vault (a + 4 * i) 4 = .ok (at_ i) ∧ s.readOnly (at_ i) 4 = false ∧
           (vault = false → ra = 4 → s.me.splim.toNat ≤ a + 4 * i)) →
         (hold = 0 → wait = [] → ∃ t, o = .next t ∧
           t.cores = (ls.foldl (fun u i => u.wrLoc (at_ i) 4 (laneOf (s.me.rv d) i).toNat) u).cores ∧
           (∀ c v j, (∀ i ∈ ls, c ≠ (at_ i).core ∨ v ≠ (at_ i).vault ∨ j < (at_ i).off ∨ (at_ i).off + 4 ≤ j) →
             Memory.rd ((t.core c).store v) j = Memory.rd ((u.core c).store v) j) ∧
           (∀ y, t.ctx y = u.ctx y) ∧ t.dram = u.dram ∧ t.hostMem = u.hostMem) ∧
         (0 < hold ∨ wait ≠ [] → o = .next (State.setCtx { u with nextOp := u.nextOp + 1 } x { u.ctx x with
           stq := (u.ctx x).stq ++
             [newStore u.nextOp 4 (ls.map (fun i => (at_ i, (laneOf (s.me.rv d) i).setWidth 64))) wait hold s.me.pc] })))
     out (exec (.vstV g d ra k) s) false 32 ∧ out (exec (.vstH g d ra k) s) false 16 ∧
     out (exec (.vstvV g d ra k) s) true 32 ∧ out (exec (.vstvH g d ra k) s) true 16) ∧
  (∀ (s : State) (l : Loc) (n v : Nat),
     let t := s.wrLoc l n v
     Memory.rdN ((t.core l.core).store l.vault) l.off n = v % 256 ^ n ∧
     (∀ w ∈ wordsOf l.off n, ((s.core l.core).mapOf l.vault w).isSome = true →
       (t.core l.core).side l.vault w = .stored) ∧
     (∀ c u w, (c ≠ l.core ∨ u ≠ l.vault ∨ w ∉ wordsOf l.off n ∨ ((s.core c).mapOf u w).isSome = false) →
       (t.core c).side u w = (s.core c).side u w))

/-! ## Matrix commands, accumulator reads, the routine store -/

/-- R229, R230, R240, R242, R244: an engine command that finds room, fewer than 16 commands in the engine and fewer than 8 of
the context (running ones count: log 21), is queued behind the others with the accesses it follows; without room the bundle stalls. mcall copies m0 to m7
and lc1 mod 16, and a call of an entry that is not installed takes MTX cause ENTRY. R240, R245: mstat and mstat.cnt read MSTAT
with its live queue count and the count of completed calls; mpar and mpari write m registers; mwait, when the context has no command left,
returns MSTAT and clears it, and stalls before that. R60, R221, R222: an accumulator read posts a variable-latency result of
arrival c + 6 with a landing-buffer entry, whose data comes from the tile later; vacc.lc moves the row with lc0. With no lane
enabled it does nothing (log 116); without a free entry the bundle stalls. -/
def Obligations.MatrixOperations : Prop :=
  (∀ (s : State) (g : BitVec 4) (e ra : BitVec 6) (acc : BitVec 3) (ft : BitVec 4) (af bf fmt : BitVec 5) (mask : BitVec 8),
     s.me.guard0 g = true →
     let x := s.issue.x
     let k := s.core (x.val / 16)
     let m := k.mtx
     let room : Prop := m.cmds.length < 16 ∧ m.qcnt x < 8
     let pushed (o : Out) (c : MKind) : Prop :=
       o = .next (s.setCore (x.val / 16) { k with mtx := { m with queue := m.queue ++ [⟨x, c, s.allOutstanding x⟩] } })
     let mode := if s.me.cmode = 4 then 0 else s.me.cmode
     let entry := SMap.get MEnt.none m.ent e.toNat
     (room →
       (entry.v = true → pushed (exec (.mcall g e acc) s)
         (.call e.toNat acc.toNat (s.me.lc1.toNat % 16) s.me.m entry.wset)) ∧
       (entry.v = false → Traps s (exec (.mcall g e acc) s) 0x08 0x01 3 (e.setWidth 64)) ∧
       pushed (exec (.mft g ft af bf) s) (.mft ft af bf) ∧
       pushed (exec (.mzero g mask) s) (.mzero mask) ∧
       pushed (exec (.mmovSt g acc ra fmt) s) (.mmov false false acc fmt (s.me.rs ra) mode) ∧
       pushed (exec (.mmovStSat g acc ra fmt) s) (.mmov false true acc fmt (s.me.rs ra) mode) ∧
       pushed (exec (.mmovLd g acc ra fmt) s) (.mmov true false acc fmt (s.me.rs ra) mode)) ∧
     (¬ room →
       Stalls s (exec (.mcall g e acc) s) ∧ Stalls s (exec (.mft g ft af bf) s) ∧ Stalls s (exec (.mzero g mask) s) ∧
       Stalls s (exec (.mmovSt g acc ra fmt) s) ∧ Stalls s (exec (.mmovStSat g acc ra fmt) s) ∧
       Stalls s (exec (.mmovLd g acc ra fmt) s))) ∧
  ((∀ (s : State) (g : BitVec 4) (d ra : BitVec 6) (n : BitVec 3) (i : BitVec 18), s.me.guard0 g = true →
      let x := s.issue.x
      let q := (s.core (x.val / 16)).mtx.qcnt x
      let w : Word := BitVec.ofNat 64 (s.me.mstat.toNat % 2 ^ 33 + q * 2 ^ 33)
      PostsS s (exec (.mstat g d) s) d w 1 ∧
      PostsS s (exec (.mstatCnt g d) s) d s.me.ccount 1 ∧
      PostsD s (exec (.mpar g n ra) s) (.m ⟨n.toNat, n.isLt⟩) (s.me.rs ra) ∧
      PostsD s (exec (.mpari g n i) s) (.m ⟨n.toNat, n.isLt⟩) (if i = 0x20000 then s.issue.limm else i.signExtend 64) ∧
      (q = 0 → ∃ u, PostsS s (.next u) d w 1 ∧ exec (.mwait g d) s = .next (u.setCtx x { u.me with mstat := 0 })) ∧
      (0 < q → Stalls s (exec (.mwait g d) s))) ∧
   (∀ (s : State) (g : BitVec 4) (d : BitVec 6) (acc : BitVec 3) (row : BitVec 5) (cb : BitVec 3),
      let lanes := s.me.guard g
      let out (o : Out) (r : Nat) : Prop :=
        (lanes = 0 → o = .next s) ∧
        (lanes ≠ 0 → 64 ≤ s.bufUsed s.issue.x → Stalls s o) ∧
        (lanes ≠ 0 → s.bufUsed s.issue.x < 64 →
          o = .next (State.setCtx { s with nextOp := s.nextOp + 1 } s.issue.x { s.me with flight := s.me.flight ++
            [{ id := s.nextOp, due := s.issue.cycle + 6, dst := .v (s.me.physV d), lanes := lanes, value := none, flags := 0
               buf := true, src := .vacc acc.toNat r cb.toNat (s.issue.cycle + 6), lock := false, orig := s.me.pc }] }))
      out (exec (.vacc g d acc row cb) s) row.toNat ∧
      out (exec (.vaccLc g d acc row cb) s) ((row.toNat + s.me.lc0.toNat) % 32)))

/-- R228, R243: mrsw, while no queued or running call names an entry that spans the word, writes the word of the routine store
and uninstalls every entry whose span holds it, and changes nothing else; while one does, the bundle stalls. R237, R243: mrse
installs a valid span as entry E and changes no other entry; an invalid span takes MTX cause 2; while a call names the entry,
the bundle stalls. R235, R237: a span is valid, from its index to the first END from there, exactly when each of its words keeps the
conditions of R237, a bit being reserved when R235 names no field for it, and WSET is then the set of the tiles that its PASS, PASSW,
ZERO, BIAS, SCALE, COPY, ADDT and MAXZ words name. -/
def Obligations.RoutineStoreAndEntries : Prop :=
  (∀ (s : State) (g : BitVec 4) (i : BitVec 9) (ra : BitVec 6), s.me.guard0 g = true →
     let c := s.issue.x.val / 16
     let k := s.core c
     let m := k.mtx
     let entry (m : Mtx) (e : Nat) : MEnt := SMap.get MEnt.none m.ent e
     let spans (e : Nat) : Prop := (entry m e).v = true ∧ (entry m e).idx.toNat ≤ i.toNat ∧ i.toNat ≤ (entry m e).endx.toNat
     let named : Prop := ∃ q ∈ m.cmds, ∃ e acc fe p ws, q.kind = .call e acc fe p ws ∧ spans e
     (named → Stalls s (exec (.mrsw g i ra) s)) ∧
     (¬ named → ∃ m', exec (.mrsw g i ra) s = .next (s.setCore c { k with mtx := m' }) ∧
       SMap.get 0 m'.rs i.toNat = s.me.rs ra ∧ (∀ j, j ≠ i.toNat → SMap.get 0 m'.rs j = SMap.get 0 m.rs j) ∧
       (∀ e < 64, spans e → entry m' e = { entry m e with v := false }) ∧ (∀ e < 64, ¬ spans e → entry m' e = entry m e) ∧
       { m' with rs := m.rs, ent := m.ent } = m)) ∧
  (∀ (s : State) (g : BitVec 4) (e : BitVec 6) (i : BitVec 9), s.me.guard0 g = true →
     let c := s.issue.x.val / 16
     let k := s.core c
     let m := k.mtx
     let f (j hi lo : Nat) : Nat := (SMap.get (0 : Word) m.rs j).toNat / 2 ^ lo % 2 ^ (hi + 1 - lo)
     let opc (j : Nat) : Nat := f j 63 60
     let writes (j : Nat) : Prop := opc j = 3 ∨ opc j = 4 ∨ 10 ≤ opc j
     let copies (j : Nat) : Prop := opc j = 13 ∨ opc j = 14
     let reserved (j : Nat) : Prop :=
       (opc j ≤ 1 ∧ f j 59 0 ≠ 0) ∨ (opc j = 2 ∧ f j 50 0 ≠ 0) ∨ ((opc j = 3 ∨ opc j = 4) ∧ f j 42 0 ≠ 0) ∨
       (opc j = 7 ∧ f j 58 13 ≠ 0) ∨ (opc j = 8 ∧ f j 58 9 ≠ 0) ∨ (opc j = 9 ∧ f j 56 9 ≠ 0) ∨
       ((opc j = 10 ∨ opc j = 15) ∧ f j 46 0 ≠ 0) ∨ (opc j = 11 ∧ (f j 46 46 ≠ 0 ∨ f j 42 0 ≠ 0)) ∨
       (opc j = 12 ∧ (f j 46 46 ≠ 0 ∨ f j 36 0 ≠ 0)) ∨ (copies j ∧ f j 38 0 ≠ 0)
     let broken (j endx : Nat) : Prop :=
       reserved j ∨ (opc j = 2 ∧ 17 ≤ f j 58 54) ∨ (writes j ∧ 31 < f j 56 52 + f j 51 47) ∨
       (copies j ∧ 31 < f j 43 39 + f j 51 47) ∨ (opc j = 7 ∧ (f j 12 0 = 0 ∨ 4096 < f j 12 0)) ∨
       (opc j = 8 ∧ (f j 8 0 = 0 ∨ j < i.toNat + f j 8 0)) ∨ (opc j = 9 ∧ endx < j + 1 + f j 8 0)
     let named : Prop := ∃ q ∈ m.cmds, ∃ acc fe p ws, q.kind = .call e.toNat acc fe p ws
     (named → Stalls s (exec (.mrse g e i) s)) ∧
     (¬ named → m.validate i.toNat = none → Traps s (exec (.mrse g e i) s) 0x08 0x02 3 (e.setWidth 64)) ∧
     (¬ named → ∀ n, m.validate i.toNat = some n → exec (.mrse g e i) s =
       .next (s.setCore c { k with mtx := { m with ent := SMap.set MEnt.none m.ent e.toNat n } })) ∧
     (∀ n : MEnt, m.validate i.toNat = some n ↔
       n.v = true ∧ n.idx = i ∧ i.toNat ≤ n.endx.toNat ∧ opc n.endx.toNat = 0 ∧
       (∀ j, i.toNat ≤ j → j < n.endx.toNat → opc j ≠ 0) ∧
       (∀ j, i.toNat ≤ j → j ≤ n.endx.toNat → ¬ broken j n.endx.toNat) ∧
       ∀ k < 8, (n.wset.getLsbD k = true ↔ ∃ j, i.toNat ≤ j ∧ j ≤ n.endx.toNat ∧ writes j ∧ f j 59 57 = k)))

/-! ## Bights -/

/-- R103 to R105, R253: a map that passes its tests (a number the team has, a descriptor of own-window words that hold their
data, V set, an entry that is free, and a range that R104 allows) enters the descriptor's fields under the number, clears the
side bits of its words, and changes no byte of any store, no other entry and no other context; of its own, only the accesses that
have issued and not performed: those to the words act on them as unmapped words. Without PF it starts no fill. R103, R104,
R252, R253: a map is refused by the first of its tests that fails, in this order, and then enters nothing: BIGHT for a number
outside the allocation (its FADDR is a free value, log 24), ALIGN, RANGE, BIGHT for a descriptor word that does not hold its data, and
BIGHT for an entry in use, a descriptor with V = 0 or one that breaks R104. -/
def Obligations.BightMaps : Prop :=
  ∀ (s : State) (g : BitVec 4) (n ra : BitVec 6) (t : Team), s.me.guard0 g = true → s.teamOf s.issue.x = some t →
    let x := s.issue.x
    let c := x.val / 16
    let o := (s.me.rs ra).toNat
    let d := s.descAt o
    let b := bightOf d s.nextOp
    let f (hi lo : Nat) : Nat := d / 2 ^ lo % 2 ^ (hi + 1 - lo)
    let words := f 119 96 * (f 129 120 + 1)
    let inUse : Prop := (SMap.get Bight.none t.bights n.toNat).v = true
    let unusable : Prop := ∃ k < 8,
      s.usable c false ((t.spadBase + o) / 4 + k) = false ∧ s.storedWord c false ((t.spadBase + o) / 4 + k) = false
    let breaks : Prop :=
      f 135 130 ≠ 0 ∨ f 255 172 ≠ 0 ∨ f 1 0 ≠ 0 ∨ f 119 96 = 0 ∨ f 95 64 % 4 ≠ 0 ∨
      (1 < f 119 96 ∧ f 95 64 < 4 * (f 129 120 + 1)) ∨ t.winSize b.space < 4 * (f 159 136 + words) ∨
      ∃ e ∈ t.bights, e.1 ≠ n.toNat ∧ e.2.v = true ∧ e.2.space = b.space ∧ e.2.loff.toNat < f 159 136 + words ∧
        f 159 136 < e.2.loff.toNat + e.2.count.toNat * (e.2.elem.toNat + 1)
    (n.toNat < t.nbgt → o % 32 = 0 → o + 32 ≤ t.spadSize → ¬ unusable → ¬ inUse → f 163 163 = 1 → ¬ breaks →
      ∃ u, exec (.bgtMap g n ra) s = .next u ∧
        (∃ t', u.teamOf x = some t' ∧ SMap.get Bight.none t'.bights n.toNat = b ∧
          ∀ k, k ≠ n.toNat → SMap.get Bight.none t'.bights k = SMap.get Bight.none t.bights k) ∧
        (b.vbase.toNat = f 63 0 ∧ b.stride.toNat = f 95 64 ∧ b.count.toNat = f 119 96 ∧ b.elem.toNat = f 129 120 ∧
          b.loff.toNat = f 159 136 ∧ b.space = decide (f 160 160 = 1) ∧ b.wr = decide (f 161 161 = 1) ∧
          b.pf = decide (f 162 162 = 1) ∧ b.v = true ∧ b.lt.toNat = f 171 164) ∧
        (∀ w, t.bightBase b ≤ w → w < t.bightBase b + b.words → (u.core c).side b.space w = Side.none) ∧
        (∀ k v, (u.core k).store v = (s.core k).store v) ∧ u.dram = s.dram ∧
        u.ctx x = s.me.markRaw c b.space (t.bightBase b) b.words ∧ (∀ y, y ≠ x → u.ctx y = s.ctx y) ∧
        (b.pf = false → u.ops = s.ops)) ∧
    (t.nbgt ≤ n.toNat → ∃ v, Traps s (exec (.bgtMap g n ra) s) 0x02 0x06 4 v) ∧
    (n.toNat < t.nbgt →
      (o % 32 ≠ 0 → Traps s (exec (.bgtMap g n ra) s) 0x02 0x03 4 (s.me.rs ra)) ∧
      (o % 32 = 0 → t.spadSize < o + 32 → Traps s (exec (.bgtMap g n ra) s) 0x02 0x01 4 (s.me.rs ra)) ∧
      (o % 32 = 0 → o + 32 ≤ t.spadSize → unusable ∨ inUse ∨ f 163 163 = 0 ∨ breaks →
        Traps s (exec (.bgtMap g n ra) s) 0x02 0x06 4 (s.me.rs ra)))

/-- R103, R252: a number outside the team's allocation takes MEM BIGHT in every form (its FADDR is a free value, log 24). R105, R108,
R254: for every state a flush of a valid entry completes: it captures the words that are DIRTY, or that a queued store of the context
will make so, with the values that the context sees there, starts one write-back for each of their lines with exactly those words and
values, and clears DIRTY; VALID, every byte, every other word and context stay. An unmap with no fill of the entry in flight completes
likewise, and frees the entry; its words are unmapped with their last values, a free value where they never had one (log 13); with a
fill in flight it stalls. On an entry that is not valid both change nothing. R255: a touch completes: afterwards every line that holds
a byte of the elements e0 to e0 + s[B] - 1 below COUNT is being filled or had all its words usable; it starts no other fill, and changes
nothing else. R256: a query posts the entry's state word one cycle after issue and changes nothing else. -/
def Obligations.BightOperations : Prop :=
  (∀ (s : State) (g : BitVec 4) (n : BitVec 6) (t : Team), s.me.guard0 g = true →
     let x := s.issue.x
     let c := x.val / 16
     let b := SMap.get Bight.none t.bights n.toNat
     let lo := t.bightBase b
     let inRange (k : Nat) (v : Bool) (w : Nat) : Prop := k = c ∧ v = b.space ∧ lo ≤ w ∧ w < lo + b.words
     let dirty := s.dirtyIn x c b.space lo b.words
     let started (u : State) (new : List GOp) (flush : Bool) : Prop :=
       u.ops = s.ops ++ new ∧ (new.map (·.va)).Nodup ∧
       (∀ o ∈ new, o.x = x ∧ o.core = c ∧ o.task = s.me.task ∧ o.va % 64 = 0 ∧
         ∃ ws, o.kind = .wb n.toNat flush ws b.gen ∧ ∀ w ∈ ws, w.1 / 64 * 64 = o.va) ∧
       (∀ a v, (∃ o ∈ new, ∃ ws, o.kind = .wb n.toNat flush ws b.gen ∧ (a, v) ∈ ws) ↔
         ∃ w ∈ dirty, a = b.va (w - lo) ∧ v = BitVec.ofNat 32 (s.seen x c b.space (4 * w) 4))
     s.teamOf x = some t → n.toNat < t.nbgt →
     (s.me.stq = [] → SMap.wf Side.none ((s.core c).sides b.space) = true → ∀ w, w ∈ dirty ↔ lo ≤ w ∧ w < lo + b.words ∧ ((s.core c).side b.space w).dirty = true) ∧
     (b.v = false → exec (.bgtFlush g n) s = .next s ∧ exec (.bgtUnmap g n) s = .next s) ∧
     (b.v = true → ∃ u new, exec (.bgtFlush g n) s = .next u ∧ started u new true ∧
       (∀ k v w, inRange k v w → (u.core k).side v w = { (s.core k).side v w with dirty := false }) ∧
       (∀ k v w, ¬ inRange k v w → (u.core k).side v w = (s.core k).side v w) ∧
       (∀ k, (u.core k).store false = (s.core k).store false ∧ (u.core k).store true = (s.core k).store true ∧
         (u.core k).teams = (s.core k).teams) ∧
       (∀ y, y ≠ x → u.ctx y = s.ctx y) ∧ u.me = { s.me with stq := u.me.stq } ∧
       u.me.stq.map (fun p => { p with flushed := [] }) = s.me.stq.map (fun p => { p with flushed := [] }) ∧
       u = { s with cores := u.cores, ops := u.ops, nextOp := u.nextOp, owners := u.owners, ctxs := u.ctxs }) ∧
     (b.v = true → s.filling c s.me.task n.toNat = true → Stalls s (exec (.bgtUnmap g n) s)) ∧
     (b.v = true → s.filling c s.me.task n.toNat = false → ∃ u new, exec (.bgtUnmap g n) s = .next u ∧ started u new false ∧
       (∃ t', u.teamOf x = some t' ∧ SMap.get Bight.none t'.bights n.toNat = Bight.none ∧
         ∀ k, k ≠ n.toNat → SMap.get Bight.none t'.bights k = SMap.get Bight.none t.bights k) ∧
       (∀ k v w, inRange k v w → (u.core k).side v w = Side.none) ∧
       (∀ k v w, ¬ inRange k v w → (u.core k).side v w = (s.core k).side v w) ∧
       (∀ k v a, (inRange k v (a / 4) → ((s.core k).side v (a / 4)).defined = true) →
         Memory.rd ((u.core k).store v) a = Memory.rd ((s.core k).store v) a) ∧
       (∀ y, y ≠ x → u.ctx y = s.ctx y) ∧ u.me = { s.me with stq := u.me.stq } ∧ u.dram = s.dram ∧ u.hostMem = s.hostMem)) ∧
  (∀ (s : State) (g : BitVec 4) (n ra rb : BitVec 6) (t : Team), s.me.guard0 g = true →
     let x := s.issue.x
     let c := x.val / 16
     let b := SMap.get Bight.none t.bights n.toNat
     let lo := t.bightBase b
     let e0 := (s.me.rs ra).toNat
     let line (e j : Nat) : Nat := (b.vbase.toNat + e * b.stride.toNat + j) % 2 ^ 64 / 64 * 64
     let asked (e j : Nat) : Prop := e0 ≤ e ∧ e < e0 + (s.me.rs rb).toNat ∧ e < b.count.toNat ∧ j < 4 * (b.elem.toNat + 1)
     s.teamOf x = some t →
     (t.nbgt ≤ n.toNat → ∃ v w y z, Traps s (exec (.bgtUnmap g n) s) 0x02 0x06 4 v ∧ Traps s (exec (.bgtFlush g n) s) 0x02 0x06 4 w ∧
       Traps s (exec (.bgtTouch g n ra rb) s) 0x02 0x06 4 y ∧ Traps s (exec (.bgtQuery g n ra) s) 0x02 0x06 4 z) ∧
     (n.toNat < t.nbgt →
       (b.v = false → exec (.bgtTouch g n ra rb) s = .next s) ∧
       (b.v = true → ∃ u new, exec (.bgtTouch g n ra rb) s = .next u ∧ u.ops = s.ops ++ new ∧
         (∀ e j, asked e j → (∃ o ∈ u.ops, o.kind = .fill n.toNat ∧ o.core = c ∧ o.task = t.task ∧ o.va = line e j) ∨
           ∀ i ∈ b.lineWords (line e j), s.usable c b.space (lo + i) = true) ∧
         (∀ o ∈ new, o.kind = .fill n.toNat ∧ o.x = x ∧ o.core = c ∧ o.task = t.task ∧ (∃ e j, asked e j ∧ o.va = line e j) ∧
           ∃ i ∈ b.lineWords o.va, s.usable c b.space (lo + i) = false) ∧
         u = { s with ops := u.ops, nextOp := u.nextOp }) ∧
       (∃ w : Word, PostsS s (exec (.bgtQuery g n ra) s) ra w 1 ∧
         w.getLsbD 0 = b.v ∧ w.getLsbD 1 = b.wr ∧ w.getLsbD 2 = b.space ∧ w.getLsbD 3 = b.pf ∧
         w.getLsbD 4 = (b.v && s.filling c s.me.task n.toNat) ∧
         w.getLsbD 5 = (b.v && !(s.dirtyIn x c b.space lo b.words).isEmpty) ∧
         (w.getLsbD 6 = true ↔ ∃ o ∈ s.ops, o.core = c ∧ o.task = s.me.task ∧ ∃ ws k, o.kind = .wb n.toNat true ws k) ∧
         w.toNat / 2 ^ 7 % 2 ^ 25 = 0 ∧ w.toNat / 2 ^ 32 = b.count.toNat)))

/-! ## Copy engines and the halyard -/

/-- R138, R257, R258, R260: a copy push with room on its engine, and a valid 64-byte block of own-window words that hold their
data, queues the command behind the others with the context's tag and the accesses it follows, posts the tag for s[D], and
advances the tag counter; nothing else changes. R257, R258: a push without room stalls; with room it is refused by the first
failing test, in the order ALIGN, RANGE, BIGHT and CMD, all at the block's offset, and then queues nothing. R257, R265: cq.pop
takes the oldest completion word of the engine's queue and stalls while it is empty; cq.prog reads the progress and state of
the outstanding command with a tag, 0 when there is none; cq.cnt counts outstanding commands and completion words. -/
def Obligations.CopyPushesAndCompletionQueues : Prop :=
  ((∀ (s : State) (g : BitVec 4) (d ra : BitVec 6) (e : BitVec 2) (t : Team), s.me.guard0 g = true →
      let x := s.issue.x
      let c := x.val / 16
      let k := s.core c
      let o := (s.me.rs ra).toNat
      let blk := s.blockAt o
      let tag := s.me.tagOf e.toNat
      s.teamOf x = some t → e.toNat ≤ 1 →
      (s.outCmds x e.toNat).length < 8 → (live (k.eng e.toNat)).length < 32 →
      o % 64 = 0 → o + 64 ≤ t.spadSize → s.blockUnusable o 64 = false →
      let pushed (out : Out) (kind : Nat) : Prop :=
        blockBad kind blk = false → blk.toNat / 2 ^ 384 = 0 →
        ∃ cmd : CopyCmd, cmd.tag = tag ∧ cmd.x = some x ∧ cmd.task = s.me.task ∧ cmd.kind.toNat = kind ∧ cmd.blk = blk ∧
          cmd.prog = 0 ∧ cmd.st = .queued ∧ cmd.after = (s.allOutstanding x).map (fun id => (x, id)) ∧
          ∃ v, PostsS (s.setCore c (k.setEng e.toNat (k.eng e.toNat ++ [cmd]))) (.next v) d (tag.setWidth 64) 1 ∧
            out = .next (v.setCtx x (v.me.bumpTag e.toNat))
      pushed (exec (.cpyG2s g d ra e) s) 0 ∧ pushed (exec (.cpyS2g g d ra e) s) 1 ∧ pushed (exec (.cpyS2s g d ra e) s) 2 ∧
      pushed (exec (.cpyG2g g d ra e) s) 3 ∧ pushed (exec (.cpyGath g d ra e) s) 4 ∧ pushed (exec (.cpyScat g d ra e) s) 5 ∧
      pushed (exec (.cpyMcast g d ra e) s) 6 ∧ pushed (exec (.cpyTr g d ra e) s) 7) ∧
   (∀ (s : State) (g : BitVec 4) (d ra : BitVec 6) (e : BitVec 2) (t : Team), s.me.guard0 g = true →
      let x := s.issue.x
      let o := (s.me.rs ra).toNat
      let room : Prop := (s.outCmds x e.toNat).length < 8 ∧ (live ((s.core (x.val / 16)).eng e.toNat)).length < 32
      s.teamOf x = some t → e.toNat ≤ 1 →
      let out (r : Out) (kind : Nat) : Prop :=
        (¬ room → Stalls s r) ∧
        (room → o % 64 ≠ 0 → Traps s r 0x02 0x03 4 (s.me.rs ra)) ∧
        (room → o % 64 = 0 → t.spadSize < o + 64 → Traps s r 0x02 0x01 4 (s.me.rs ra)) ∧
        (room → o % 64 = 0 → o + 64 ≤ t.spadSize → s.blockUnusable o 64 = true → Traps s r 0x02 0x06 4 (s.me.rs ra)) ∧
        (room → o % 64 = 0 → o + 64 ≤ t.spadSize → s.blockUnusable o 64 = false → blockBad kind (s.blockAt o) = true →
          Traps s r 0x02 0x09 4 (s.me.rs ra))
      out (exec (.cpyG2s g d ra e) s) 0 ∧ out (exec (.cpyS2g g d ra e) s) 1 ∧ out (exec (.cpyS2s g d ra e) s) 2 ∧
      out (exec (.cpyG2g g d ra e) s) 3 ∧ out (exec (.cpyGath g d ra e) s) 4 ∧ out (exec (.cpyScat g d ra e) s) 5 ∧
      out (exec (.cpyMcast g d ra e) s) 6 ∧ out (exec (.cpyTr g d ra e) s) 7)) ∧
  (∀ (s : State) (g : BitVec 4) (d ra : BitVec 6) (e : BitVec 2), s.me.guard0 g = true → e.toNat ≤ 1 →
     let x := s.issue.x
     let c := x.val / 16
     let q := s.me.cqOf e.toNat
     let mine := s.outCmds x e.toNat
     let found := mine.find? (fun k => k.tag = (s.me.rs ra).setWidth 16)
     let code (st : CopySt) : Nat := match st with
       | .queued => 1
       | .running => 2
       | .parked => 3
       | .held => 4
       | .ended => 5
     (q = [] → Stalls s (exec (.cqPop g d e) s)) ∧
     (∀ w r, q = w :: r → ∃ u v, PostsS s (.next u) d w 1 ∧ v = u.setCtx x (u.me.setCq e.toNat r) ∧
       exec (.cqPop g d e) s = .next (v.setCore c ((v.core c).setEng e.toNat
         (((v.core c).eng e.toNat).filter (fun k => !(k.x = some x && k.tag = w.setWidth 16 && k.st = .ended)))))) ∧
     PostsS s (exec (.cqProg g d ra e) s) d
       (match found with
        | some k => BitVec.ofNat 64 (k.prog % 2 ^ 40 + code k.st * 2 ^ 40)
        | none => 0) 1 ∧
     PostsS s (exec (.cqCnt g d e) s) d (BitVec.ofNat 64 (mine.length + q.length * 2 ^ 8)) 1)

/-- R266 to R269: the halyard operations: start in IDLE with a block of own-window words that hold their data, stop, credits that
saturate, base, clear, drop, pop, and the three reads. Each changes only the halyard. A start in another state takes MEM CMD (its FADDR
is a free value, log 24), and one in IDLE whose block offset fails a test of R258 takes ALIGN, RANGE or BIGHT, in this order. -/
def Obligations.HalyardOps : Prop :=
  ∀ (s : State) (g : BitVec 4) (ra : BitVec 6) (t : Team), s.me.guard0 g = true →
    let x := s.issue.x
    let c := x.val / 16
    let k := s.core c
    let h := k.hal
    let a := s.me.rs ra
    let o := a.toNat % 2 ^ 20
    let becomes (out : Out) (h' : Halyard) : Prop := out = .next (s.setCore c { k with hal := h' })
    let live (n : Nat) : Nat := ((k.eng n).filter (fun k => k.x.isNone)).length
    let stCode : Nat := match h.st with
      | .idle => 0
      | .run => 1
      | .wait => 2
      | .stopping => 3
      | .fault => 4
    s.teamOf x = some t →
    (h.st = .idle → o % 64 = 0 → o + 64 ≤ t.spadSize → s.blockUnusable o 64 = false →
      becomes (exec (.hyStart g ra) s)
        { h with st := .run, blk := BitVec.ofNat 20 o, ridx := 0, fst := 0, cur := none, taken := false, rel := s.released }) ∧
    (h.st ≠ .idle → ∃ v, Traps s (exec (.hyStart g ra) s) 0x02 0x09 4 v) ∧
    (h.st = .idle →
      (o % 64 ≠ 0 → Traps s (exec (.hyStart g ra) s) 0x02 0x03 4 (BitVec.ofNat 64 o)) ∧
      (o % 64 = 0 → t.spadSize < o + 64 → Traps s (exec (.hyStart g ra) s) 0x02 0x01 4 (BitVec.ofNat 64 o)) ∧
      (o % 64 = 0 → o + 64 ≤ t.spadSize → s.blockUnusable o 64 = true →
        Traps s (exec (.hyStart g ra) s) 0x02 0x06 4 (BitVec.ofNat 64 o))) ∧
    becomes (exec (.hyStop g) s) (if h.st = .run ∨ h.st = .wait then { h with st := .stopping } else h) ∧
    becomes (exec (.hyCred g ra) s)
      { h with cr := BitVec.ofNat 32 (min (h.cr.toNat + a.toNat % 2 ^ 32) (2 ^ 32 - 1)), rel := s.released } ∧
    becomes (exec (.hyBase g ra) s) { h with hbase := a } ∧
    becomes (exec (.hyClr g) s) (if h.st = .fault then { h with st := .idle } else h) ∧
    becomes (exec (.hyDrop g) s) { h with cq := [] } ∧
    (h.cq = [] → Stalls s (exec (.hyPop g ra) s)) ∧
    (∀ w r, h.cq = w :: r → ∃ u, PostsS s (.next u) ra w 1 ∧
      exec (.hyPop g ra) s = .next (u.setCore c { u.core c with hal := { (u.core c).hal with cq := r } })) ∧
    PostsS s (exec (.hyStat g ra) s) ra
      (BitVec.ofNat 64 (stCode + (live 0 + live 1) * 2 ^ 4 + h.cq.length * 2 ^ 8 + h.fst.toNat * 2 ^ 12)) 1 ∧
    PostsS s (exec (.hyProg g ra) s) ra (BitVec.ofNat 64 (h.ridx.toNat % 2 ^ 24 + h.blk.toNat * 2 ^ 24)) 1 ∧
    PostsS s (exec (.hyRdc g ra) s) ra (h.cr.setWidth 64) 1

/-! ## Hawser links -/

/-- R43, R44, R138, R270: lsend on an owned pair with a credit takes the credit, sends the buffer's 128 bytes behind what waits,
and drains at SYSTEM scope; lrecv with a flit writes the oldest one into the buffer, or queues its 128 bytes as a store (log 83),
and returns a credit, u being s once what others of the partition had queued there has performed (log 50); without credit, or without
flit, a pair of a module that is not fenced stalls. Otherwise the first condition of R270 that holds raises its trap: ALIGN, RANGE,
BIGHT, and LINK for a pair that the task does not own, for lsend to a fenced module and for lrecv on its empty queue (the FADDR of LINK is
a free value, log 24). -/
def Obligations.LinkTransfers : Prop :=
  ∀ (s : State) (g : BitVec 4) (l : BitVec 3) (v : BitVec 2) (ra : BitVec 6) (t : Team), s.me.guard0 g = true →
    let x := s.issue.x
    let c := x.val / 16
    let p := 4 * l.toNat + v.toNat
    let q := s.link p
    let o := (s.me.rs ra).toNat
    let data := BitVec.ofNat 1024 (s.seen x c false (t.spadBase + o) 128)
    let fenced := s.linkFenced l.toNat
    let inside : Prop := o % 8 = 0 ∧ o + 128 ≤ t.spadSize ∧ s.bufMapped o 128 = false
    let owned : Prop := q.owner = some s.me.task
    let refuses (o' : Out) : Prop :=
      (o % 8 ≠ 0 → Traps s o' 0x02 0x03 4 (s.me.rs ra)) ∧
      (o % 8 = 0 → t.spadSize < o + 128 → Traps s o' 0x02 0x01 4 (s.me.rs ra)) ∧
      (o % 8 = 0 → o + 128 ≤ t.spadSize → s.bufMapped o 128 = true → Traps s o' 0x02 0x06 4 (s.me.rs ra)) ∧
      (inside → ¬ owned → ∃ w, Traps s o' 0x02 0x0A 4 w)
    s.teamOf x = some t →
    (fenced = false → q.credits = 0 → Stalls s (exec (.lsend g l v ra) s)) ∧
    (fenced = false → q.flits = [] → Stalls s (exec (.lrecv g l v ra) s)) ∧
    (fenced = true ∨ 0 < q.credits → refuses (exec (.lsend g l v ra) s)) ∧
    (fenced = true ∨ q.flits ≠ [] → refuses (exec (.lrecv g l v ra) s)) ∧
    (fenced = true → inside → owned → (∃ w, Traps s (exec (.lsend g l v ra) s) 0x02 0x0A 4 w) ∧
      (q.flits = [] → ∃ w, Traps s (exec (.lrecv g l v ra) s) 0x02 0x0A 4 w)) ∧
    (inside → owned →
      (fenced = false → 0 < q.credits →
        ∃ u, u = s.setLink p { q with credits := q.credits - 1, tx := q.tx ++ [(x, s.allOutstanding x, some data)] } ∧
        exec (.lsend g l v ra) s = .next (u.setCtx x
          { s.me with fence := s.me.fence.filter (s.outstanding x) ++ s.drainSet x 3 })) ∧
      (∀ f r, q.flits = f :: r →
        let es := s.flitStores o f
        let u := s.portFirst (es.map (fun e => (e.1, 8))) true
        let hold := Config.storeHold u.nextOp % 4
        let wait := u.waitsFor x (es.map (fun e => (e.1, 8)))
        ∃ w, exec (.lrecv g l v ra) s = .next w ∧ w.outbox = u.outbox ++ [.credit l.toNat v.toNat] ∧
          (∃ rx, w.link p = { q with rx := rx }) ∧ (w.link p).flits = r ∧
          (∀ i, i < t.spadBase + o ∨ t.spadBase + o + 128 ≤ i → Memory.rd (w.core c).spad i = Memory.rd (u.core c).spad i) ∧
          (hold = 0 → wait = [] → w.ctx x = u.ctx x ∧
            ∀ i < 128, Memory.rd (w.core c).spad (t.spadBase + o + i) = BitVec.ofNat 8 (f.toNat / 2 ^ (8 * i) % 256)) ∧
          (0 < hold ∨ wait ≠ [] → w.cores = u.cores ∧
            w.ctx x = { u.ctx x with stq := (u.ctx x).stq ++ [newStore u.nextOp 8 es wait hold s.me.pc] })))

/-! ## Global operations -/

/-- R60, R132, R275, R278 to R280, R285, R295: each atomic, reduction, knot operation and pin, on an aligned address (a knot index
below 2^16) issues the operation that its row names, with the bundle's release and acquire where its form has them, and with
64 cycles to the result of a form that returns one. Without the landing-buffer entry that such a form takes the bundle stalls;
with it, a misaligned address takes MEM ALIGN, and a knot index of 2^16 or more MEM RANGE. -/
def Obligations.GlobalOperationsIssue : Prop :=
  ∀ (s : State) (g : BitVec 4) (d ra rb : BitVec 6), s.me.guard0 g = true →
    let va := (s.me.rs ra).toNat
    let room : Prop := s.bufUsed s.issue.x < 64
    let rel := s.issue.xord.getLsbD 1
    let acq := s.issue.xord.getLsbD 0
    let scope := s.issue.xscope
    let low (n : Nat) (r : BitVec 6) : Word := BitVec.ofNat 64 ((s.me.rs r).toNat % 2 ^ (8 * n))
    let dst : Dest := if d = 0 then .none else .s ⟨d.toNat, d.isLt⟩
    let far (o : Out) (n : Nat) (u : State) : Prop :=
      (¬ room → Stalls s o) ∧ (room → va % n ≠ 0 → Traps s o 0x02 0x03 4 (s.me.rs ra)) ∧ (room → va % n = 0 → o = .next u)
    let amo (o : Out) (fn : AmoFn) (n : Nat) : Prop :=
      far o n (s.issueOp (.amo fn n (low n rb) (low n d) true) va n rel acq scope (some (dst, 64)))
    let red (o : Out) (fn : AmoFn) (n : Nat) : Prop :=
      (va % n ≠ 0 → Traps s o 0x02 0x03 4 (s.me.rs ra)) ∧
      (va % n = 0 → o = .next (s.issueOp (.amo fn n (low n rb) 0 false) va n rel false scope none))
    let knot (o : Out) (fn : AmoFn) (w : Word) (r : Option (Dest × Nat)) : Prop :=
      (r.isSome = true → ¬ room → Stalls s o) ∧
      ((r.isSome = true → room) → 2 ^ 16 ≤ va → Traps s o 0x02 0x01 4 (s.me.rs ra)) ∧
      ((r.isSome = true → room) → va < 2 ^ 16 →
        o = .next (s.issueOp (.knot fn w r.isSome) (s.knotVa va) 8 rel (acq && r.isSome) scope r))
    amo (exec (.amoAddW g d ra rb) s) .add 4 ∧ amo (exec (.amoAndW g d ra rb) s) .and 4 ∧
    amo (exec (.amoOrW g d ra rb) s) .or 4 ∧ amo (exec (.amoXorW g d ra rb) s) .xor 4 ∧
    amo (exec (.amoMinW g d ra rb) s) .min 4 ∧ amo (exec (.amoMaxW g d ra rb) s) .max 4 ∧
    amo (exec (.amoMinuW g d ra rb) s) .minu 4 ∧ amo (exec (.amoMaxuW g d ra rb) s) .maxu 4 ∧
    amo (exec (.amoAddD g d ra rb) s) .add 8 ∧ amo (exec (.amoAndD g d ra rb) s) .and 8 ∧
    amo (exec (.amoOrD g d ra rb) s) .or 8 ∧ amo (exec (.amoXorD g d ra rb) s) .xor 8 ∧
    amo (exec (.amoMinD g d ra rb) s) .min 8 ∧ amo (exec (.amoMaxD g d ra rb) s) .max 8 ∧
    amo (exec (.amoMinuD g d ra rb) s) .minu 8 ∧ amo (exec (.amoMaxuD g d ra rb) s) .maxu 8 ∧
    amo (exec (.amoxSwapW g d ra rb) s) .swap 4 ∧ amo (exec (.amoxSwapD g d ra rb) s) .swap 8 ∧
    amo (exec (.amoxCasW g d ra rb) s) .cas 4 ∧ amo (exec (.amoxCasD g d ra rb) s) .cas 8 ∧
    amo (exec (.amoxFaddF32 g d ra rb) s) .fadd 4 ∧
    red (exec (.redAddW g ra rb) s) .add 4 ∧ red (exec (.redAddD g ra rb) s) .add 8 ∧
    red (exec (.redMinW g ra rb) s) .min 4 ∧ red (exec (.redMaxW g ra rb) s) .max 4 ∧
    red (exec (.redMinuW g ra rb) s) .minu 4 ∧ red (exec (.redMaxuW g ra rb) s) .maxu 4 ∧
    red (exec (.redFaddF32 g ra rb) s) .fadd 4 ∧ red (exec (.redOrD g ra rb) s) .or 8 ∧
    knot (exec (.knotAdd g ra rb) s) .add (s.me.rs rb) none ∧
    knot (exec (.knotRd g d ra) s) .ld 0 (some (dst, 64)) ∧
    knot (exec (.knotMax g d ra rb) s) .maxu (s.me.rs rb) (some (dst, 64)) ∧
    knot (exec (.knotSwap g d ra rb) s) .swap (s.me.rs rb) (some (dst, 64)) ∧
    far (exec (.pin g d ra) s) 64 (s.issueOp .pin va 0 false false 0 (some (dst, 64))) ∧
    far (exec (.unpin g d ra) s) 64 (s.issueOp .unpin va 0 false false 0 (some (dst, 64)))

/-- R136, R137, R275, R281: an SC operation on an aligned address outside the hawser windows issues with release and acquire
at DEVICE scope, whatever the bundle's modifiers; inside a hawser window it takes MEM WHEEL, on a misaligned address MEM ALIGN, and one
that returns a value stalls without a landing-buffer entry (R60). R163, R275, R290: spl.call, spl.calln, spl.inst, spl.rm and nrg.vreg
issue with their operand bytes, on a line and a buffer of unmapped own-window bytes. Those that return a value stall without an entry;
then a line that is not a multiple of 64 takes MEM ALIGN, and a buffer ALIGN, RANGE or BIGHT. nrg.vreg takes NRG INDEX, VTAB or ENTRY;
which comes first where several hold is log 113. -/
def Obligations.ScAndSpliceIssue : Prop :=
  (∀ (s : State) (g : BitVec 4) (d ra rb : BitVec 6), s.me.guard0 g = true →
     let va := (s.me.rs ra).toNat
     let low (n : Nat) (r : BitVec 6) : Word := BitVec.ofNat 64 ((s.me.rs r).toNat % 2 ^ (8 * n))
     let dst : Dest := if d = 0 then .none else .s ⟨d.toNat, d.isLt⟩
     let tr (w : Bool) := s.xlate (s.issue.x.val / 16) (s.taskAsid s.me.task) va w
     let hawser (w : Bool) : Prop := ∃ pa a, tr w = .ok pa a ∧ paHawser pa = true
     let room : Prop := s.bufUsed s.issue.x < 64
     let sc (o : Out) (fn : AmoFn) (n : Nat) (b c : Word) (ret : Bool) : Prop :=
       (ret = true → ¬ room → Stalls s o) ∧
       ((ret = true → room) →
         (va % n ≠ 0 → Traps s o 0x02 0x03 4 (s.me.rs ra)) ∧
         (va % n = 0 → hawser (fn ≠ .ld) → Traps s o 0x02 0x08 4 (s.me.rs ra)) ∧
         (va % n = 0 → ¬ hawser (fn ≠ .ld) →
           o = .next (s.issueOp (.sc fn n b c ret) va n true true 2 (if ret then some (dst, 64) else none))))
     sc (exec (.scLdW g d ra) s) .ld 4 0 (low 4 d) true ∧ sc (exec (.scLdD g d ra) s) .ld 8 0 (low 8 d) true ∧
     sc (exec (.scStW g ra rb) s) .swap 4 (low 4 rb) 0 false ∧ sc (exec (.scStD g ra rb) s) .swap 8 (low 8 rb) 0 false ∧
     sc (exec (.scSwapW g d ra rb) s) .swap 4 (low 4 rb) (low 4 d) true ∧
     sc (exec (.scSwapD g d ra rb) s) .swap 8 (low 8 rb) (low 8 d) true ∧
     sc (exec (.scAddD g d ra rb) s) .add 8 (low 8 rb) (low 8 d) true ∧
     sc (exec (.scCasD g d ra rb) s) .cas 8 (low 8 rb) (low 8 d) true) ∧
  (∀ (s : State) (g : BitVec 4) (d ra rb : BitVec 6) (t : Team), s.me.guard0 g = true →
     s.teamOf s.issue.x = some t →
     let va := (s.me.rs ra).toNat
     let b := (s.me.rs rb).toNat
     let rel := s.issue.xord.getLsbD 1
     let acq := s.issue.xord.getLsbD 0
     let dst : Dest := if d = 0 then .none else .s ⟨d.toNat, d.isLt⟩
     let num := (s.me.rs d).toNat % 256
     let room : Prop := s.bufUsed s.issue.x < 64
     let buffer (o n : Nat) : Prop := o % 64 = 0 ∧ o + n ≤ t.spadSize ∧ s.bufMapped o n = false
     let badBuffer (out : Out) (r : BitVec 6) (n : Nat) (ok : Prop) : Prop :=
       let o := (s.me.rs r).toNat
       (ok → o % 64 ≠ 0 → Traps s out 0x02 0x03 4 (s.me.rs r)) ∧
       (ok → o % 64 = 0 → t.spadSize < o + n → Traps s out 0x02 0x01 4 (s.me.rs r)) ∧
       (ok → o % 64 = 0 → o + n ≤ t.spadSize → s.bufMapped o n = true → Traps s out 0x02 0x06 4 (s.me.rs r))
     let j : Word := BitVec.ofNat 64 (b % 32)
     let goodIndex : Prop := b % 32 ≠ 0 ∧ b / 32 % 8 = 0 ∧ b / 2 ^ 16 = 0
     (room → va % 64 = 0 → buffer b 128 → exec (.splCall g d ra rb) s = .next (State.hubFlight
       (s.issueOp (.splice num (s.blockAt b) (some (b + 64))) va 64 rel acq s.issue.xscope (some (dst, 96)))
       .none 96 false (.wout s.nextOp (t.spadBase + b + 64)))) ∧
     (va % 64 = 0 → buffer b 64 → exec (.splCalln g d ra rb) s =
       .next (s.issueOp (.splice num (s.blockAt b) none) va 64 rel false s.issue.xscope none)) ∧
     (¬ room → Stalls s (exec (.splCall g d ra rb) s) ∧ Stalls s (exec (.splRm g d) s) ∧ Stalls s (exec (.splInst g d ra) s)) ∧
     (room → va % 64 ≠ 0 → Traps s (exec (.splCall g d ra rb) s) 0x02 0x03 4 (s.me.rs ra)) ∧
     (va % 64 ≠ 0 → Traps s (exec (.splCalln g d ra rb) s) 0x02 0x03 4 (s.me.rs ra)) ∧
     badBuffer (exec (.splCall g d ra rb) s) rb 128 (room ∧ va % 64 = 0) ∧
     badBuffer (exec (.splCalln g d ra rb) s) rb 64 (va % 64 = 0) ∧ badBuffer (exec (.splInst g d ra) s) ra 64 room ∧
     (room → exec (.splRm g d) s = .next (s.issueOp (.rm num) 0 0 false false 0 (some (dst, 64)))) ∧
     (room → buffer va 64 → exec (.splInst g d ra) s =
       .next (s.issueOp (.inst num (s.blockAt va)) 0 0 false false 0 (some (dst, 64)))) ∧
     (¬ goodIndex → Traps s (exec (.nrgVreg g ra rb) s) 0x07 0x04 4 j) ∧
     (goodIndex → s.myVtab = 0 → Traps s (exec (.nrgVreg g ra rb) s) 0x07 0x01 4 j) ∧
     (goodIndex → s.myVtab ≠ 0 → va % 64 ≠ 0 → Traps s (exec (.nrgVreg g ra rb) s) 0x07 0x02 4 j) ∧
     (goodIndex → s.myVtab ≠ 0 → va % 64 = 0 → exec (.nrgVreg g ra rb) s =
       .next (s.issueOp (.vreg (BitVec.ofNat 128 (va + (b / 2 ^ 8 % 16) * 2 ^ 64 + (b / 2 ^ 12 % 16) * 2 ^ 68)))
         (s.myVtab + 16 * (b % 32)) 16 true false 3 none)))

/-- R60, R128, R130, R132, R136, R274: what issuing a global operation does: it joins the operations that wait to perform
under the next number, after the accesses that the context's fences, its own accesses to the same bytes and its release name;
a value-returning one takes a result and a landing-buffer entry; an acquire joins the fences, and an SC operation those that hold
every later access. Registers, memory and every other context stay. R158, R274, R286: nrg.q reads the value its selector names,
as of the issue cycle, into a landing-buffer entry, and stalls without one. R164, R286: nrg.vsw with a valid index
and an entry that is not empty completes: it reads the entry at its home, which the task's energy accounts pay (R155), and records the
request on the task; with an index out of range it takes NRG INDEX, and on an empty entry, or with no table (log 98), NRG EMPTY. -/
def Obligations.GlobalIssueAndEnergyQueries : Prop :=
  (∀ (s : State) (kind : GKind) (va n : Nat) (rel acq : Bool) (scope : BitVec 2) (dst : Option (Dest × Nat)),
     let x := s.issue.x
     let t := s.issueOp kind va n rel acq scope dst
     (∃ op : GOp, t.ops = s.ops ++ [op] ∧ op.id = s.nextOp ∧ op.x = x ∧ op.core = x.val / 16 ∧ op.task = s.me.task ∧
       op.kind = kind ∧ op.va = va ∧ op.acq = acq ∧ op.scope = scope ∧ op.orig = s.me.pc ∧
       (∀ id ∈ s.me.fence ++ s.me.scFence, s.outstanding x id = true → id ∈ op.after) ∧ (∀ id ∈ s.sameBytes x s.nextOp va n, id ∈ op.after) ∧
       (rel = true → ∀ id ∈ s.drainSet x scope, id ∈ op.after)) ∧
     t.nextOp = s.nextOp + 1 ∧ t.cores = s.cores ∧ t.dram = s.dram ∧ t.hostMem = s.hostMem ∧
     (∀ y, y ≠ x → t.ctx y = s.ctx y) ∧
     t.me = { s.me with flight := t.me.flight, fence := t.me.fence, scFence := t.me.scFence } ∧
     (dst = none → t.me.flight = s.me.flight) ∧
     (∀ d lat, dst = some (d, lat) → ∃ f, t.me.flight = s.me.flight ++ [f] ∧ f.dst = d ∧ f.due = s.issue.cycle + lat ∧
       f.value = none ∧ f.buf = true ∧ f.src = .hub s.nextOp) ∧
     (kind.isSc = false → t.me.scFence = s.me.scFence ∧ (acq = true → s.nextOp ∈ t.me.fence)) ∧
     (kind.isSc = true → s.nextOp ∈ t.me.scFence)) ∧
  (∀ (s : State) (g : BitVec 4) (d ra : BitVec 6), s.me.guard0 g = true →
     let x := s.issue.x
     let k := s.island (x.val / 16)
     let j := (s.me.rs ra).toNat
     let reads (o : Out) (w : Word) : Prop :=
       (64 ≤ s.bufUsed x → Stalls s o) ∧
       (s.bufUsed x < 64 → o = .next (s.setCtx x { s.me with flight := s.me.flight ++
         [{ flightOf (s.issue.cycle + 1) (if d = 0 then .none else .s ⟨d.toNat, d.isLt⟩) allLanes (w.setWidth 1024) 0 s.me.pc with
            buf := true }] }))
     reads (exec (.nrgQ g d 0) s) (BitVec.ofInt 64 k.hold) ∧
     reads (exec (.nrgQ g d 1) s) (BitVec.ofNat 64 k.max) ∧
     reads (exec (.nrgQ g d 2) s) (BitVec.ofNat 64 k.grant) ∧
     reads (exec (.nrgQ g d 4) s) k.joule ∧
     reads (exec (.nrgQ g d 5) s) s.gint ∧
     reads (exec (.nrgQ g d 6) s) (BitVec.ofNat 64 (k.op.toNat + k.ceil.toNat * 8 + k.floor.toNat * 64)) ∧
     reads (exec (.nrgQ g d 7) s) (BitVec.ofNat 64 ((if k.apend then 1 else 0) + k.aop.toNat * 2 + k.acause.toNat * 16 +
       k.aint.toNat % 2 ^ 56 * 2 ^ 8)) ∧
     (∀ t, s.task? s.me.task = some t → reads (exec (.nrgQ g d 3) s) t.joule ∧
       (∀ au, t.credit.find? (fun p => p.1 = x.val / 16) = some (x.val / 16, au) →
         reads (exec (.nrgQ g d 8) s) (BitVec.ofNat 64 au)) ∧
       reads (exec (.nrgQ g d 11) s) (BitVec.ofNat 64 t.debits) ∧
       reads (exec (.nrgQ g d 9) s) (SMap.get 0 s.ecls t.eclass.toNat) ∧
       reads (exec (.nrgQ g d 10) s) (SMap.get 0 s.tct t.tcon.toNat)) ∧
     let empty : Prop := s.myVtab = 0 ∨ (s.vtabEntry (x.val / 16) (s.taskAsid s.me.task) s.myVtab j).1 = 0
     (1 ≤ j → j ≤ 31 → ¬ empty → ∃ u, exec (.nrgVsw g ra) s = .next u ∧
       (s.owners = [] → s.errs = [] → u.ctxs = s.ctxs ∧ u.cores = s.cores ∧ u.dram = s.dram ∧ u.hostMem = s.hostMem ∧
         u.ops = s.ops ∧ (∀ i, i ≠ s.me.task → u.task? i = s.task? i) ∧
         ∀ t, s.task? s.me.task = some t → ∃ n m, u.task? s.me.task = some { t with sw := some j, joule := n, debits := m })) ∧
     (1 ≤ j → j ≤ 31 → empty → Traps s (exec (.nrgVsw g ra) s) 0x07 0x03 4 (s.me.rs ra)) ∧
     (j = 0 ∨ 31 < j → Traps s (exec (.nrgVsw g ra) s) 0x07 0x04 4 (s.me.rs ra)))

/-! ## Ordering, end of a context, traps and debug -/

/-- R130, R282: a drain adds to the context's fences the accesses of its scope that have not performed, and drops those that
have; it stalls nothing and changes nothing else. R283: bar.braid with a mask that holds its own team, names only teams of the
task, and agrees with the pending generation, makes the context wait for the braid accesses it has outstanding; a mask that
breaks this takes SYNC cause 1, one that differs from the pending mask SYNC cause 2; one that passes both tests is held,
its bundle stalled, while the pending generation does not include the context. R283: the arrival of a bar counts
once the accesses of its drain have performed, and the context's later accesses follow them no longer. When every participant that the
mask names has arrived with it or ended, and no named team is being saved, all that wait are READY together, but those that a stop asked of their task keeps STOPPED at their drain bundle (R37, R40); else nothing more changes. -/
def Obligations.DrainsAndBarriers : Prop :=
  ((∀ (s : State) (g : BitVec 4), s.me.guard0 g = true →
      let x := s.issue.x
      let drained (o : Out) (scope : BitVec 2) : Prop :=
        o = .next (s.setCtx x { s.me with fence := s.me.fence.filter (s.outstanding x) ++ s.drainSet x scope })
      drained (exec (.drainBraid g) s) 0 ∧ drained (exec (.drainDie g) s) 1 ∧ drained (exec (.drainDev g) s) 2 ∧
      drained (exec (.drainSys g) s) 3) ∧
   (∀ (s : State) (g : BitVec 4) (ra : BitVec 6), s.me.guard0 g = true →
      let x := s.issue.x
      let c := x.val / 16
      let m : BitVec 4 := (s.me.rs ra).setWidth 4
      let ok : Prop := m.getLsbD (c % 4) = true ∧ ∀ q < 4, m.getLsbD q = true → s.placed s.me.task (4 * (c / 4) + q) = true
      let pending := s.pendingMask s.me.task (c / 4)
      (ok → (pending = none ∨ pending = some m) →
        exec (.barBraid g ra) s = .next (s.setCtx x { s.me with bar := some (m, false, s.drainSet x 0) })) ∧
      (¬ ok → Traps s (exec (.barBraid g ra) s) 0x09 0x01 4 (m.setWidth 64)) ∧
      (ok → ∀ p, pending = some p → p ≠ m → p.getLsbD (c % 4) = true →
        Traps s (exec (.barBraid g ra) s) 0x09 0x02 4 (m.setWidth 64)) ∧
      (ok → ∀ p, pending = some p → p ≠ m → p.getLsbD (c % 4) = false → Stalls s (exec (.barBraid g ra) s)))) ∧
  (∀ (s : State) (x : CtxNo) (m : BitVec 4) (e : List Nat),
     let c := s.ctx x
     let s1 := s.setCtx x { c with bar := some (m, true, []) }
     let ps := s1.participants c.task (x.val / 64) m
     let here : Prop := ∀ k ∈ maskCores (x.val / 64) m, ∃ t, (s.core k).team? c.task = some t ∧ t.saving = false
     c.bar = some (m, false, e) → s.clearOf x e = true →
     ((¬ here ∨ ∃ y ∈ ps, (s1.ctx y).st ≠ .ended ∧ ∀ l, (s1.ctx y).bar ≠ some (m, true, l)) →
       exec (.barrierArrival x) s = .next s1) ∧
     (here → (∀ y ∈ ps, (s1.ctx y).st = .ended ∨ ∃ l, (s1.ctx y).bar = some (m, true, l)) →
       ∃ u, exec (.barrierArrival x) s = .next u ∧ { u with ctxs := s.ctxs } = s ∧
         ∀ y, u.ctx y = if y ∈ ps then
             { s1.ctx y with
               bar := none
               st := if (s1.ctx y).st ≠ .stalled then (s1.ctx y).st
                 else if (s1.ctx y).barDrain && s1.stopAsked y then .stopped else .ready }
           else s1.ctx y))

/-- R167, R284, R292 to R294, R372: nop does nothing; cend marks the context as ending; trap leaves its code for the trap that is
taken in the next cycle; rtu in a handler restores PC, NPC and BP, clears INH and releases the held results; dbg.brk without DBG
does nothing; dbg.mark of a task that is not recorded does nothing, and of a recorded one logs a record of type 8, which waits
while the ring is full (that a record is a home write that the port island pays: log 111). -/
def Obligations.SystemOperations : Prop :=
  ∀ (s : State) (g : BitVec 4) (code : BitVec 12) (ra : BitVec 6), s.me.guard0 g = true →
    let x := s.issue.x
    let c := s.me
    exec .nop s = .next s ∧
    (∃ t, exec (.cend g) s = .next t ∧ t.me = { c with ending := true } ∧ t.issue.jumped = true) ∧
    exec (.trap g code) s = .next (s.setCtx x { c with swt := some code }) ∧
    (c.inh = true → ∃ t, exec (.rtu g) s = .next t ∧ t.issue.jumped = true ∧ t.me.pc = c.upc ∧ t.me.npc = c.unpc ∧
      t.me.bp = c.ubp ∧ t.me.inh = false ∧ t.me.held = c.held ++ c.heldU ∧ t.me.heldU = [] ∧ t.me.release = true ∧
      t.me.s = c.s ∧ t.me.v = c.v ∧ t.me.p = c.p ∧ t.me.b = c.b) ∧
    (c.inh = false → Traps s (exec (.rtu g) s) 0x01 0x0C 4 0) ∧
    Traps s (exec (.bkpt g) s) 0x0C 0x01 4 0 ∧
    (c.dbg = true → Traps s (exec (.dbgBrk g) s) 0x0C 0x02 4 0) ∧
    (c.dbg = false → exec (.dbgBrk g) s = .next s) ∧
    (s.recorded c.task = false → exec (.dbgMark g ra) s = .next s) ∧
    (s.recorded c.task = true → s.wonus = [] →
      Logs s (exec (.dbgMark g ra) s)
        ⟨8, BitVec.ofNat 8 (x.val % 16), BitVec.ofNat 20 (s.slotOf c.task), BitVec.ofNat 32 s.issue.cycle, s.me.rs ra⟩)

/-! ## Routine words -/

/-- R235, R238: END, NOP, SETP, ADDP, SETC, LOOP and SKIPZ of a running call: the call's parameter copy, its counters, the
next word, one more executed word, and nothing else; END ends the call in the next cycle or later. R235, R237: ZERO, SCALE, COPY,
ADDT, MAXZ and BIAS act on rows ROW0 to ROW0 + NRM1 of tile (ACC + T) mod 8, element by element, with the sources as they were
before the word; every other element of the accumulators, every other core and all of DRAM stay, and of the contexts only MSTAT
may change. R238: with every row they name landed, they take a cycle a row, BIAS 2 more for b, and a row lands 4 cycles after its
own. -/
def Obligations.RoutineControlAndTileWords : Prop :=
  (∀ (s : State) (r : MRun) (md : BitVec 3) (imm : BitVec 57) (k : BitVec 1) (n : BitVec 13) (j : BitVec 9) (e a f : Nat)
     (p : Vector Word 8) (ws : BitVec 8),
     let c := s.issue.x.val / 16
     let m := (s.core c).mtx
     m.run = some r → r.cmd.kind = .call e a f p ws → r.ended = false →
     let runs (i : Instr) (r' : MRun) : Prop :=
       exec i s = .next (s.setCore c { s.core c with mtx := { m with run := some r' } })
     let at_ (w : Nat) : MRun := { r with w := w, steps := r.steps + 1, row := 0, begun := false, ended := r.stop }
     let next : MRun := at_ (r.w + 1)
     let count (q : MRun) (v : Nat) : MRun := if k = 0 then { q with rc0 := v } else { q with rc1 := v }
     let rc : Nat := if k = 0 then r.rc0 else r.rc1
     runs .routineEnd { next with ended := true, last := max r.last (m.cyc + 1) } ∧
     runs .routineNop next ∧
     runs (.setp md imm) { next with m := r.m.set md.toNat (imm.signExtend 64) md.isLt } ∧
     runs (.addp md imm) { next with m := r.m.set md.toNat (r.m[md.toNat]'md.isLt + imm.signExtend 64) md.isLt } ∧
     runs (.setc k n) (count next n.toNat) ∧
     runs (.loop k j) (if 1 < rc then count (at_ (r.w - j.toNat)) (rc - 1) else count next 0) ∧
     runs (.skipz md j) (if r.m[md.toNat]'md.isLt = 0 then at_ (r.w + 1 + j.toNat) else next)) ∧
  (∀ (s : State) (r : MRun) (t src ma : BitVec 3) (row0 nrm1 srow0 : BitVec 5) (ex : BitVec 9) (e a f : Nat)
     (p : Vector Word 8) (ws : BitVec 8) (team : Team),
     let c := s.issue.x.val / 16
     let m := (s.core c).mtx
     m.run = some r → r.cmd.kind = .call e a f p ws → r.ended = false → s.teamOf r.cmd.x = some team →
     r.cmd.x.val / 16 = c → row0.toNat + nrm1.toNat < 32 → srow0.toNat + nrm1.toNat < 32 →
     let old (tile row col : Nat) : Nat := (SMap.get (0 : BitVec 32) m.acc (tile * 6144 + row * 192 + col)).toNat
     let tile := (a + t.toNat) % 8
     let from_ := (a + src.toNat) % 8
     let landed (b row0 : Nat) : Prop := ∀ i ≤ nrm1.toNat, SMap.get 0 r.land (b * 32 + row0 + i) ≤ m.cyc
     let maps (i : Instr) (b : Nat) (ready : Prop) (new : Nat → Nat → Nat) : Prop :=
       ∃ u q, exec i s = .next u ∧ (u.core c).mtx.run = some q ∧
         { q with wait := r.wait, land := r.land, last := r.last } =
           { r with w := r.w + 1, steps := r.steps + 1, row := 0, begun := false, ended := r.stop } ∧
         (ready → landed tile row0.toNat → q.wait = b + nrm1.toNat ∧ q.last = max r.last (m.cyc + b + nrm1.toNat + 4) ∧
           ∀ i ≤ nrm1.toNat, SMap.get 0 q.land (tile * 32 + row0.toNat + i) = m.cyc + b + i + 4) ∧
         (∀ b row col, b < 8 → row < 32 → col < 192 →
           (SMap.get (0 : BitVec 32) (u.core c).mtx.acc (b * 6144 + row * 192 + col)).toNat =
             if b = tile ∧ row0.toNat ≤ row ∧ row ≤ row0.toNat + nrm1.toNat then new (row - row0.toNat) col % 2 ^ 32
             else old b row col) ∧
         { (u.core c).mtx with acc := m.acc, run := m.run } = m ∧ { u.core c with mtx := m } = s.core c ∧
         (∀ k, k ≠ c → u.core k = s.core k) ∧ (∀ x, { u.ctx x with mstat := 0 } = { s.ctx x with mstat := 0 }) ∧
         u.dram = s.dram
     let o := (r.m[ma.toNat]'ma.isLt).toNat % 2 ^ 20
     let b0 := team.spadBase + o
     maps (.zero t row0 nrm1) 0 True (fun _ _ => 0) ∧
     maps (.routineCopy t row0 nrm1 src srow0) 0 (landed from_ srow0.toNat) (fun i n => old from_ (srow0.toNat + i) n) ∧
     maps (.addt t row0 nrm1 src srow0) 0 (landed from_ srow0.toNat)
       (fun i n => (fp32AddR (old tile (row0.toNat + i) n) (old from_ (srow0.toNat + i) n)).code) ∧
     maps (.maxz t row0 nrm1) 0 True (fun i n =>
       let v := fp32.value (old tile (row0.toNat + i) n)
       if v.isNan then 0x7FC00000 else if exactLt (.fin false 0 0 false) v then old tile (row0.toNat + i) n else 0) ∧
     maps (.scale t row0 nrm1 ex) 0 True (fun i n => (roundFp (match fp32.value (old tile (row0.toNat + i) n) with
       | .fin g q k st => .fin g q (k + ex.toInt) st
       | .nan _ => .nan false
       | .inf g => .inf g) fp32 0 false false 0).code) ∧
     (o % 4 = 0 → o + 768 ≤ team.spadSize → s.clearOf r.cmd.x r.cmd.after = true → s.errs = [] →
       (∀ w, b0 / 4 ≤ w → 4 * w < b0 + 768 → s.usable c false w = true ∧ s.poisoned ⟨c, false, 4 * w⟩ = false) →
       maps (.bias t row0 nrm1 ma) 2 True (fun i n =>
         (fp32AddR (old tile (row0.toNat + i) n) (Memory.rdN (s.core c).spad (b0 + 4 * n) 4)).code)))

/-- R232, R236, R238, R239: LDB leaves its bank LOADING from the vault offset with the pair's rows, the first not before the next
cycle, or ends the call with FMT, RANGE or ALIGN and the bank EMPTY; a load of the bank that has rows to move goes on without it.
PASS and PASSW wait for a bank that is LOADING, end the call with BANK on an EMPTY one, and on a LOADED one end it at a row with ALIGN
when its elements or their pitch are not multiples of 4 and with RANGE when its bytes or scales leave the window; else they enter one row
a cycle once the row's earlier write has landed and the accesses that the push follows have performed (R138, R230): each element takes
the pass, added or alone, and the row lands 8 cycles later. BIAS ends the call with ALIGN or RANGE, and waits in the same way. R105, R239: a
word of what a row or BIAS reads that is not usable is waited for, its fill started or joined; a fill that failed ends the call with
XLATE or POISON, and poison in those bytes with POISON. A fault names the entry, the word and the row (R245); MSTAT keeps the first. -/
def Obligations.RoutineLoadsAndPasses : Prop :=
  ∀ (s : State) (r : MRun) (t ma : BitVec 3) (row0 nrm1 fsel : BitVec 5) (b : BitVec 1) (e a f : Nat)
    (p : Vector Word 8) (ws : BitVec 8) (team : Team),
    let c := s.issue.x.val / 16
    let m := (s.core c).mtx
    m.run = some r → r.cmd.kind = .call e a f p ws → r.ended = false → s.teamOf r.cmd.x = some team →
    r.cmd.x.val / 16 = c →
    let bank := if b = 0 then m.bank0 else m.bank1
    let put (q : Mtx) (k : Bank) : Mtx := if b = 0 then { q with bank0 := k } else { q with bank1 := k }
    let d := (r.m[ma.toNat]'ma.isLt).toNat
    let stopped : MRun := { r with
      ended := true, row := 0, fill := none, bad := none, begun := false, last := max r.last (m.cyc + 1) }
    let next : MRun := { r with w := r.w + 1, steps := r.steps + 1, row := 0, begun := false, ended := r.stop }
    let waits (i : Instr) : Prop :=
      exec i s = .next (s.setCore c { s.core c with mtx := { m with run := some { r with begun := true } } })
    let ready : Prop := s.clearOf r.cmd.x r.cmd.after = true
    let fails (i : Instr) (q : Mtx) (code frow : Nat) : Prop :=
      ∃ u, exec i s = .next u ∧
        (u.core c).mtx = { q with run := some stopped } ∧
        ((s.ctx r.cmd.x).mstat.toNat / 2 ^ 8 % 16 = 0 → (u.ctx r.cmd.x).mstat.toNat / 2 ^ 8 % 16 = code ∧
          (u.ctx r.cmd.x).mstat.toNat / 2 ^ 13 % 64 = e % 64 ∧ (u.ctx r.cmd.x).mstat.toNat / 2 ^ 19 % 512 = r.w % 512 ∧
          (u.ctx r.cmd.x).mstat.toNat / 2 ^ 28 % 32 = frow % 32) ∧
        ((s.ctx r.cmd.x).mstat.toNat / 2 ^ 8 % 16 ≠ 0 → u.ctx r.cmd.x = s.ctx r.cmd.x)
    let covers (lo n w : Nat) : Prop := lo / 4 ≤ w ∧ 4 * w < lo + n
    let whole (lo n : Nat) : Prop := ∀ w, covers lo n w → s.usable c false w = true
    let sound (lo n : Nat) : Prop := ∀ w, covers lo n w → s.poisoned ⟨c, false, 4 * w⟩ = false
    let fills (i : Instr) (lo n : Nat) : Prop :=
      ∃ u w k id, exec i s = .next u ∧ covers lo n w ∧ (s.core c).mapOf false w = some k ∧
        (u.core c).mtx = { m with run := some { r with begun := true, fill := some id } } ∧
        (∃ o ∈ u.ops, o.id = id ∧ o.core = c ∧ o.task = k.task ∧ o.kind = .fill k.n ∧ o.va = k.va / 64 * 64) ∧
        u = { s with cores := u.cores, ops := u.ops, nextOp := u.nextOp }
    let reads (i : Instr) (lo n frow : Nat) : Prop :=
      (¬ whole lo n → r.bad = none → fills i lo n) ∧
      (∀ k, ¬ whole lo n → r.bad = some k → fails i m (if k = 4 then 5 else 6) frow) ∧
      (whole lo n → ¬ sound lo n → fails i m 6 frow)
    let emptied : Mtx := { put m { bank with st := .empty } with
      past := m.past ++ (match bank.st with
        | .loading o x y w z => [⟨o, x, y, w, z⟩]
        | _ => []) }
    let pair := SMap.get (0 : BitVec 10) m.ft (if fsel.toNat < 16 then fsel.toNat else f % 16)
    let af := pair.setWidth 5
    let bf := (pair >>> 5).setWidth 5
    let ldb := exec (.ldb b fsel ma) s
    let old (tile row col : Nat) : Nat := (SMap.get (0 : BitVec 32) m.acc (tile * 6144 + row * 192 + col)).toNat
    let tile := (a + t.toNat) % 8
    (modeOf af bf = none → fails (.ldb b fsel ma) emptied 3 0) ∧
    (∀ md, modeOf af bf = some md →
      (2 ^ 24 ≤ d ∨ team.vaultSize < d + 768 * md.rb → fails (.ldb b fsel ma) emptied 1 0) ∧
      (d < 2 ^ 24 → d + 768 * md.rb ≤ team.vaultSize → d % 768 ≠ 0 → fails (.ldb b fsel ma) emptied 2 0) ∧
      (d < 2 ^ 24 → d + 768 * md.rb ≤ team.vaultSize → d % 768 = 0 →
        ldb = .next (s.setCore c { s.core c with mtx :=
          { put emptied ⟨.loading d 0 md.rb r.w (m.cyc + 1), af, bf, []⟩ with run := some next } }))) ∧
    (bank.st = .empty → fails (.pass t row0 nrm1 b ma) m 4 r.row ∧ fails (.passw t row0 nrm1 b ma) m 4 r.row) ∧
    (let o := d % 2 ^ 20
     (o % 4 ≠ 0 → fails (.bias t row0 nrm1 ma) m 2 0) ∧ (o % 4 = 0 → ¬ ready → waits (.bias t row0 nrm1 ma)) ∧
     (o % 4 = 0 → ready → s.errs = [] →
       (team.spadSize < o + 768 → fails (.bias t row0 nrm1 ma) m 1 0) ∧
       (o + 768 ≤ team.spadSize → reads (.bias t row0 nrm1 ma) (team.spadBase + o) 768 0))) ∧
    (∀ o x y w z, bank.st = .loading o x y w z → waits (.pass t row0 nrm1 b ma) ∧ waits (.passw t row0 nrm1 b ma)) ∧
    (∀ md (av sv : Nat), bank.st = .loaded → modeOf bank.af bank.bf = some md → row0.toNat + nrm1.toNat < 32 →
      r.row ≤ nrm1.toNat →
      let both (k : Instr → Prop) : Prop := k (.pass t row0 nrm1 b ma) ∧ k (.passw t row0 nrm1 b ma)
      let ea := d % 2 ^ 20 + r.row * (d / 2 ^ 40 % 2 ^ 12)
      let row := row0.toNat + r.row
      let sa := d / 2 ^ 20 % 2 ^ 20 + r.row * (d / 2 ^ 52 % 2 ^ 12)
      let key := tile * 32 + row
      let lo := team.spadBase + ea
      let ls := team.spadBase + sa
      (ea % 4 ≠ 0 ∨ d / 2 ^ 40 % 2 ^ 12 % 4 ≠ 0 → both (fun i => fails i m 2 r.row)) ∧
      (ea % 4 = 0 → d / 2 ^ 40 % 2 ^ 12 % 4 = 0 →
      (team.spadSize < ea + md.abytes ∨ team.spadSize < sa + md.nb → both (fun i => fails i m 1 r.row)) ∧
      (ea + md.abytes ≤ team.spadSize → sa + md.nb ≤ team.spadSize →
       (m.cyc < SMap.get 0 r.land key ∨ ¬ ready → both waits) ∧
       (SMap.get 0 r.land key ≤ m.cyc → ready → s.errs = [] →
        both (fun i => reads i lo md.abytes r.row) ∧
        (whole lo md.abytes → sound lo md.abytes → both (fun i => reads i ls md.nb r.row)) ∧
        (whole lo md.abytes → sound lo md.abytes → whole ls md.nb → sound ls md.nb →
        av = Memory.rdN (s.core c).spad lo md.abytes → sv = Memory.rdN (s.core c).spad ls md.nb →
        let enters (i : Instr) (first : Bool) : Prop :=
          ∃ u q, exec i s = .next u ∧ (u.core c).mtx.run = some q ∧ SMap.get 0 q.land key = m.cyc + 8 ∧
            q.last = max r.last (m.cyc + 8) ∧
            { q with land := r.land, last := r.last } = (if r.row = nrm1.toNat then { next with fill := none }
              else { r with row := r.row + 1, begun := true, fill := none }) ∧
            (∀ p l col, p < 8 → l < 32 → col < 192 →
              (SMap.get (0 : BitVec 32) (u.core c).mtx.acc (p * 6144 + l * 192 + col)).toNat =
                if p = tile ∧ l = row then (passElem md bank av sv col (old p l col) first).code % 2 ^ 32
                else old p l col) ∧
            u.dram = s.dram ∧ (u.core c).spad = (s.core c).spad ∧ (u.core c).vault = (s.core c).vault
        enters (.pass t row0 nrm1 b ma) false ∧ enters (.passw t row0 nrm1 b ma) true)))))

/-! ## Events of contexts and partitions -/

/-- R38, R47, R173, R275, R284, R368, R369, R372, R423: the events of one context. A STALLED context whose condition has cleared or
whose DCOUNT reached LIMIT is READY. BOUND, a deferred fault, a PC past the image and an illegal encoding take their traps.
THROTTLE enters the user trap handler, whose first bundle uses the bases that the last bundle set (R55, R176). A recorded task logs its
trap points, of type 5 with class and cause, and its throttle points, of type 6. A context after cend is ENDED once nothing of it is
left. PART 4 of a deferred trap, part 7 of BOUND, PC and IPAR, and IPAR right after PC are log 74; an ended context held STALLED
with a flag is log 75; a record as a home write is log 111. -/
def Obligations.ContextEvents : Prop :=
  ∀ (s : State) (x : CtxNo),
    let c := s.ctx x
    let t := (s.part (x.val / 4)).pcyc
    (c.st = .stalled → c.ending = false → ((c.limit ≠ 0 ∧ c.dcount = c.limit) ∨ s.blocked x = false) →
      exec (.stallClear x) s = .next (s.setCtx x { c with st := .ready })) ∧
    (c.st = .ready → c.limit ≠ 0 → c.dcount = c.limit → s.recorded c.task = false →
      exec (.bound x) s = .next (s.takeTrap x ⟨0x04, 0x01, 7, 0⟩ none)) ∧
    (∀ d r, c.st = .ready → c.deferred = d :: r → s.recorded c.task = false →
      exec (.deferredTrap x) s =
        .next ((s.setCtx x { c with deferred := r }).takeTrap x ⟨d.cls, d.cause, 4, d.faddr⟩ (some d.orig))) ∧
    (∀ team : Team, c.st = .ready → s.recorded c.task = false → s.teamOf x = some team →
      (team.nbun ≤ c.pc.toNat →
        exec (.illegalEncoding x) s = .next (s.takeTrap x ⟨0x01, 0x09, 7, 0⟩ none)) ∧
      (c.pc.toNat < team.nbun → c.pc.toNat ∈ team.ipar →
        exec (.illegalEncoding x) s = .next (s.takeTrap x ⟨0x0D, 0x01, 7, 0⟩ none)) ∧
      (∀ cause part, c.pc.toNat < team.nbun → c.pc.toNat ∉ team.ipar →
        bundleCause team.mtx team.hal (SMap.get 0 team.bundles c.pc.toNat) = some (cause, part) →
        exec (.illegalEncoding x) s = .next (s.takeTrap x ⟨0x01, cause.code, part, 0⟩ none))) ∧
    (c.st = .ready → c.throttle = true → c.inh = false → s.recorded c.task = false →
      (c.utv.getLsbD 13 = true → let k := c.landBases
        exec (.userTrapEntry x) s = .next { (s.setCtx x { k with
          upc := c.pc, unpc := c.npc, ubp := c.bp, pc := (c.utv.setWidth 13).setWidth 64
          npc := (c.utv.setWidth 13).setWidth 64 + 1, bp := false, inh := true, throttle := false, release := false
          flight := [], held := []
          heldU := c.heldU ++ k.held ++ k.flight.map (fun f => { f with due := f.due - t }) }) with
        freeCtr := s.freeCtr + 1 }) ∧
      (c.utv.getLsbD 13 = false → exec (.userTrapEntry x) s = .next (s.setCtx x { c with throttle := false }))) ∧
    ((∀ f ∈ c.flight ++ c.held, f.dst ≠ .vrb ∧ f.dst ≠ .prb) → c.landBases = c) ∧
    (∀ a b f v, c.flight = a ++ f :: b → c.held = [] → f.value = some v → (f.dst = .vrb ∨ f.dst = .prb) → f.flags = 0 → c.rpar = [] →
      (∀ h ∈ a ++ b, h.dst ≠ .vrb ∧ h.dst ≠ .prb) →
      c.landBases = { c with
        flight := a ++ b, vrb := if f.dst = .vrb then v.setWidth 5 else c.vrb, prb := if f.dst = .prb then v.setWidth 6 else c.prb }) ∧
    (let rec_ (typ : BitVec 4) (data : Word) : WonusRec :=
       ⟨typ, BitVec.ofNat 8 (x.val % 16), BitVec.ofNat 20 (s.slotOf c.task), BitVec.ofNat 32 t, data⟩
     c.st = .ready → s.recorded c.task = true → s.wonus = [] →
      (c.limit ≠ 0 → c.dcount = c.limit → Logs (s.takeTrap x ⟨0x04, 0x01, 7, 0⟩ none) (exec (.bound x) s) (rec_ 5 0x104)) ∧
      (∀ d r, c.deferred = d :: r → Logs ((s.setCtx x { c with deferred := r }).takeTrap x ⟨d.cls, d.cause, 4, d.faddr⟩ (some d.orig))
        (exec (.deferredTrap x) s) (rec_ 5 (BitVec.ofNat 64 (d.cls.toNat + d.cause.toNat * 2 ^ 8)))) ∧
      (∀ team : Team, s.teamOf x = some team → team.nbun ≤ c.pc.toNat →
        Logs (s.takeTrap x ⟨0x01, 0x09, 7, 0⟩ none) (exec (.illegalEncoding x) s) (rec_ 5 0x901)) ∧
      (c.throttle = true → c.inh = false → c.utv.getLsbD 13 = true → ∃ w u, Logs u (exec (.userTrapEntry x) s) (rec_ 6 w) ∧
        (u.ctx x).inh = true ∧ (u.ctx x).pc = (c.utv.setWidth 13).setWidth 64 ∧ (∀ y, y ≠ x → u.ctx y = s.ctx y) ∧
        u.dram = s.dram)) ∧
    (c.ending = true → c.st = .stalled → c.deferred = [] → c.flight = [] → c.held = [] → c.heldU = [] → c.stq = [] →
      (∀ o ∈ s.ops, o.x = x → o.eng = true ∨ o.kind.endWaits = false) →
      exec (.contextEnded x) s = .next (s.setCtx x { c with st := .ended }))

/-- R57, R61, R222, R250: while a result of the partition is due and its data is not at the core nothing lands; else what is due lands in
every context of the partition. The data of a load whose words are usable arrives: the extended bytes of a scalar one, and in each
lane of a vector one the bytes of its element, or of its only one for a broadcast; one that waits in the queue of its bank stays
(R99, log 83). An accumulator read takes row and columns of its tile at or after its arrival, once the tile is not busy; before that it
stays. -/
def Obligations.ResultArrival : Prop :=
  (∀ (s : State) (q : PartNo), let t := (s.part q.val).pcyc
    ((∃ y : CtxNo, y.val / 4 = q.val ∧ ∃ f ∈ (s.ctx y).flight,
        f.due ≤ t ∧ (f.value = none ∨ f.back ≠ 0) ∧ f.lock = false) →
      exec (.resultLanding q) s = .next s) ∧
    ((∀ y : CtxNo, y.val / 4 = q.val → ∀ f ∈ (s.ctx y).flight,
        ¬(f.due ≤ t ∧ (f.value = none ∨ f.back ≠ 0) ∧ f.lock = false) ∧ ∀ op off, f.src ≠ .wout op off) →
      ∃ u, exec (.resultLanding q) s = .next u ∧ { u with ctxs := s.ctxs } = s ∧
        ∀ y, u.ctx y = if y.val / 4 = q.val then (s.ctx y).landDue t else s.ctx y)) ∧
  (∀ (s : State) (x : CtxNo) (f : Flight) (n : Nat) (sext bcast : Bool) (e : Elem) (d : Fin 64), let c := s.ctx x
    c.flight = [f] → c.held = [] → c.heldU = [] → f.value = none → f.src = .mem n sext bcast [e] [] → f.dst = .s d → s.errs = [] →
    (0 < f.hold → exec (.loadDataArrival x f.id) s = .next (s.setCtx x c)) ∧
    (f.hold = 0 → e.val = none → (n = 1 ∨ n = 2 ∨ n = 4 ∨ n = 8) → s.allUsable ⟨e.core, e.vault, e.off⟩ n = true →
    s.poisoned ⟨e.core, e.vault, e.off⟩ = false →
    let v := Memory.rdN (if e.vault then (s.core e.core).vault else (s.core e.core).spad) e.off n
    let w : Word := if sext then (BitVec.ofNat (8 * n) v).signExtend 64 else BitVec.ofNat 64 v
    ∃ u, exec (.loadDataArrival x f.id) s = .next u ∧ { u with ctxs := s.ctxs } = s ∧
      u.ctx x = { c with flight := [{ f with
        value := some (w.setWidth 1024), src := .mem n sext bcast [{ e with val := some (BitVec.ofNat 64 v) }] [] }] } ∧
      ∀ y, y ≠ x → u.ctx y = s.ctx y)) ∧
  (∀ (s : State) (x : CtxNo) (f : Flight) (n : Nat) (bcast : Bool) (es : List Elem) (d : Fin 64), let c := s.ctx x
    c.flight = [f] → c.held = [] → c.heldU = [] → f.value = none → f.src = .mem n false bcast es [] → f.dst = .v d → n ≤ 4 →
    f.hold = 0 → s.errs = [] →
    (∀ e ∈ es, e.val = none ∧ s.allUsable ⟨e.core, e.vault, e.off⟩ n = true ∧ s.poisoned ⟨e.core, e.vault, e.off⟩ = false) →
    ∃ u g v, exec (.loadDataArrival x f.id) s = .next u ∧ { u with ctxs := s.ctxs } = s ∧
      u.ctx x = { c with flight := [g] } ∧ { g with value := f.value, src := f.src } = f ∧ g.value = some v ∧
      (∀ y, y ≠ x → u.ctx y = s.ctx y) ∧
      ∀ i < 32, ∀ e, es.find? (fun e => bcast || e.lane = i) = some e → v.extractLsb' (32 * i) 32 =
        BitVec.ofNat 32 (Memory.rdN (if e.vault then (s.core e.core).vault else (s.core e.core).spad) e.off n)) ∧
  (∀ (s : State) (x : CtxNo) (f : Flight) (tile row cb a : Nat), let c := s.ctx x
    let m := (s.core (x.val / 16)).mtx
    c.flight = [f] → c.held = [] → c.heldU = [] → f.value = none → f.src = .vacc tile row cb a → tile < 8 → row < 32 →
    (m.busy tile = true ∨ (s.part (x.val / 4)).pcyc < a → exec (.vaccTileRead x f.id) s = .next (s.setCtx x c)) ∧
    (m.busy tile = false → a ≤ (s.part (x.val / 4)).pcyc → ∃ v : VReg,
      exec (.vaccTileRead x f.id) s = .next (s.setCtx x { c with flight := [{ f with value := some v }] }) ∧
      ∀ i < 32, v.extractLsb' (32 * i) 32 = SMap.get (0 : BitVec 32) m.acc (tile * 6144 + row * 192 + (32 * cb + i))))

/-! ## Operations at their homes -/

/-- R125, R127, R140, R278 to R280, R285: an atomic, a reduction and a knot operation execute indivisibly at the home: the bytes
take the function of the old value, the operand and the expected value, an unsuccessful compare and a load write nothing, and
a returning one returns the old value. -/
def Obligations.HomeAtomicExecutes : Prop :=
  ∀ (s : State) (o : GOp) (pa : Nat) (a : Attr) (fn : AmoFn) (n : Nat) (y z : Word) (ret : Bool),
    (n = 4 ∨ n = 8) → y.toNat < 2 ^ (8 * n) → z.toNat < 2 ^ (8 * n) →
    let x := Memory.rdN s.dram pa n
    let sg (k : Nat) : Int := (BitVec.ofNat (8 * n) k).toInt
    let sum := fp32AddR x y.toNat
    let new : Option Nat := match fn with
      | .add => some ((x + y.toNat) % 2 ^ (8 * n))
      | .and => some (x &&& y.toNat)
      | .or => some (x ||| y.toNat)
      | .xor => some (x ^^^ y.toNat)
      | .min => some (if sg y.toNat < sg x then y.toNat else x)
      | .max => some (if sg x < sg y.toNat then y.toNat else x)
      | .minu => some (if y.toNat < x then y.toNat else x)
      | .maxu => some (if x < y.toNat then y.toNat else x)
      | .swap => some y.toNat
      | .cas => if x = z.toNat then some y.toNat else none
      | .fadd => some sum.code
      | .ld => none
    let flags : BitVec 5 := if fn = .fadd then sum.flags else 0
    let bytes (m : Memory) : Memory := match new with
      | some v => Memory.wrN m pa v n
      | none => m
    (o.kind = .amo fn n y z ret → AtHome s o pa a n true →
      ∃ t, exec (.homeAtomicExecute o.id) s = .next t ∧ t.dram = bytes s.dram ∧ EndsWith s t o (BitVec.ofNat 64 x) flags) ∧
    (o.kind = .knot fn y ret → n = 8 → fn ≠ .cas → fn ≠ .fadd → AtHome s o pa a 8 (fn ≠ .ld) →
      ∃ t, exec (.homeAtomicExecute o.id) s = .next t ∧ t.dram = bytes s.dram ∧ EndsWith s t o (BitVec.ofNat 64 x) 0) ∧
    (o.kind = .sc fn n y z ret → fn ≠ .fadd → AtHome s o pa a n (fn ≠ .ld) → s.wpos = o.x.val → s.scTaken = false →
      s.sliceBusy (homeSlice a pa) = false →
      (∀ p ∈ s.ops, p.x = o.x → p.id < o.id → ∀ f k u v r, p.kind ≠ .sc f k u v r) →
      ∃ t, exec (.scOrderPoint o.id) s = .next t ∧ t.dram = bytes s.dram ∧ t.scTaken = true ∧
        EndsWith s t o (BitVec.ofNat 64 x) 0)

/-- R289, R290: a splice at its home, with a buffer for W (spl.call) or without one (spl.calln). A number that the ASID does not map
gives status 1 and a poisoned line status 2, and they change nothing; a mapped routine runs on the line and the operand: the line
takes L, the result takes the flags, and W goes to its buffer. Without a buffer, status 1 or 2 is reported as a deferred fault of
class SPL. -/
def Obligations.SpliceExecutes : Prop :=
  ∀ (s : State) (o : GOp) (pa : Nat) (a : Attr) (num : Nat) (opd : BitVec 512) (buf : Option Nat),
    o.kind = .splice num opd buf → Reaches s o pa a 64 true →
    let line := BitVec.ofNat 512 (Memory.rdN s.dram pa 64)
    let ends (t : State) (st fl : Nat) (w : Option (BitVec 512)) : Prop :=
      t.ops = s.ops.filter (fun p => p.id ≠ o.id) ∧ (∀ y, y ≠ o.x → t.ctx y = s.ctx y) ∧
        (∀ off, buf = some off → let v : Word := BitVec.ofNat 64 (st + fl * 256)
          (∀ f : Flight, f.src = .hub o.id → f ∈ (s.ctx o.x).flight →
            { f with value := some (v.setWidth 1024), flags := 0 } ∈ (t.ctx o.x).flight) ∧
          (∀ (f : Flight) k, f.src = .wout o.id k → f ∈ (s.ctx o.x).flight →
            match w with
            | some u => { f with value := some (u.setWidth 1024) } ∈ (t.ctx o.x).flight
            | none => ∀ g ∈ (t.ctx o.x).flight, g.src ≠ f.src)) ∧
        (buf = none → let c := s.ctx o.x
          t.ctx o.x = { c with deferred := c.deferred ++
            if st = 0 then [] else [⟨0x0A, BitVec.ofNat 8 st, BitVec.ofNat 64 o.va, o.orig⟩] })
    let known := s.rmap.find? (fun e => e.1 = o.asid.toNat * 256 + num)
    (known = none → ∃ t, exec (.spliceExecute o.id) s = .next t ∧ t.dram = s.dram ∧ ends t 1 0 none) ∧
    (∀ e, known = some e → s.physBad pa 64 = true →
      ∃ t, exec (.spliceExecute o.id) s = .next t ∧ t.dram = s.dram ∧ ends t 2 0 none) ∧
    (∀ e, known = some e → s.physBad pa 64 = false →
      let r := runRoutine (SMap.get (0 : BitVec 512) s.routines e.2) line opd
      ∃ t, exec (.spliceExecute o.id) s = .next t ∧
        (∀ k, Memory.rd t.dram k = if pa ≤ k ∧ k < pa + 64 then (r.r[0]).extractLsb' (8 * (k - pa)) 8 else Memory.rd s.dram k) ∧
        ends t 0 r.flags.toNat (some r.r[6]))

/-- R108, R123, R125, R163, R291, R295, R389: a write-back writes its words, a variant registration its 16 bytes at once; pin and unpin
answer 0 when they acted, 1 when the line was or was not pinned, 2 when the slice has no room; installation and removal of a
routine answer their statuses and change the routine table; while an earlier request is under way they enter the monitor's queue
once, and they wait there for their turn. -/
def Obligations.GlobalWritePerforms : Prop :=
  (∀ (s : State) (o : GOp) (pa : Nat) (a : Attr) (n gen : Nat) (fl : Bool) (ws : List (Nat × BitVec 32)),
    o.kind = .wb n fl ws gen → AtHome s o pa a 64 true →
    ∃ t, exec (.globalWritePerform o.id) s = .next t ∧
      t.dram = ws.foldl (fun m w => Memory.wrN m (pa / 64 * 64 + w.1 % 64) w.2.toNat 4) s.dram ∧
      t.ops = s.ops.filter (fun p => p.id ≠ o.id) ∧ t.ctxs = s.ctxs ∧ t.hostMem = s.hostMem) ∧
  (∀ (s : State) (o : GOp) (pa : Nat) (a : Attr) (d : BitVec 128), o.kind = .vreg d → AtHome s o pa a 16 true →
    ∃ t, exec (.globalWritePerform o.id) s = .next t ∧ t.dram = Memory.wrN s.dram pa d.toNat 16 ∧
      t.ops = s.ops.filter (fun p => p.id ≠ o.id) ∧ t.ctxs = s.ctxs ∧ t.hostMem = s.hostMem) ∧
  (∀ (s : State) (o : GOp) (pa : Nat) (a : Attr), (o.kind = .pin ∨ o.kind = .unpin) → AtHome s o pa a 64 false →
    let slice := homeSlice a pa
    let held : Bool := s.pins.any (fun p => p.line = pa / 64)
    let mine : Bool := s.pins.any (fun p => p.line = pa / 64 && p.asid = o.asid)
    let room : Prop := (s.pins.filter (fun p => p.slice = slice)).length < 32768
    ∃ t, exec (.globalWritePerform o.id) s = .next t ∧ t.dram = s.dram ∧
      (o.kind = .pin → held = true → t.pins = s.pins ∧ EndsWith s t o 1 0) ∧
      (o.kind = .pin → held = false → room → t.pins = s.pins ++ [⟨pa / 64, o.va, slice, o.asid⟩] ∧ EndsWith s t o 0 0) ∧
      (o.kind = .pin → held = false → ¬room → t.pins = s.pins ∧ EndsWith s t o 2 0) ∧
      (o.kind = .unpin → mine = true → t.pins = s.pins.filter (fun p => p.line ≠ pa / 64) ∧ EndsWith s t o 0 0) ∧
      (o.kind = .unpin → mine = false → t.pins = s.pins ∧ EndsWith s t o 1 0)) ∧
  (∀ (s : State) (o : GOp) (num : Nat) (body : BitVec 512), (o.kind = .inst num body ∨ o.kind = .rm num) →
    s.op? o.id = some o → s.mon.poll = false →
    (.inst o.id ∈ s.mon.queue → exec (.globalWritePerform o.id) s = .next s) ∧
    (.inst o.id ∉ s.mon.queue → s.monBusy = true →
      exec (.globalWritePerform o.id) s = .next { s with mon := { s.mon with queue := s.mon.queue ++ [.inst o.id] } })) ∧
  (∀ (s : State) (o : GOp) (num : Nat) (body : BitVec 512), o.kind = .inst num body → s.op? o.id = some o →
    (s.mon.poll = true ∨ s.monBusy = false) →
    let key := o.asid.toNat * 256 + num
    let known : Bool := s.rmap.any (fun e => e.1 = key)
    let used (k : Nat) : Prop := ∃ e ∈ s.rmap, e.2 = k
    ∃ t st, exec (.globalWritePerform o.id) s = .next t ∧ EndsWith s t o (BitVec.ofNat 64 st) 0 ∧ t.dram = s.dram ∧
      ((s.asid o.asid).splok = false → st = 4) ∧
      ((s.asid o.asid).splok = true → splBad body 16 0 false = true → st = 1) ∧
      ((s.asid o.asid).splok = true → splBad body 16 0 false = false → known = true → st = 3) ∧
      ((s.asid o.asid).splok = true → splBad body 16 0 false = false → known = false → (∀ k < 64, used k) → st = 2) ∧
      (st ≠ 0 → t.rmap = s.rmap ∧ t.routines = s.routines) ∧
      (∀ k < 64, (s.asid o.asid).splok = true → splBad body 16 0 false = false → known = false → ¬used k → (∀ j < k, used j) →
        st = 0 ∧ t.rmap = s.rmap ++ [(key, k)] ∧ SMap.get 0 t.routines k = body)) ∧
  (∀ (s : State) (o : GOp) (num : Nat), o.kind = .rm num → s.op? o.id = some o → (s.mon.poll = true ∨ s.monBusy = false) →
    let key := o.asid.toNat * 256 + num
    ∃ t, exec (.globalWritePerform o.id) s = .next t ∧ t.dram = s.dram ∧
      ((∃ e ∈ s.rmap, e.1 = key) → t.rmap = s.rmap.filter (fun e => e.1 ≠ key) ∧ EndsWith s t o 0 0) ∧
      ((∀ e ∈ s.rmap, e.1 ≠ key) → t.rmap = s.rmap ∧ EndsWith s t o 5 0))

/-- R105, R106: a fill of a page that no protocol keeps copies of gives each word of its line that the entry maps and that is
neither VALID nor DIRTY its value and makes it VALID; every other word of the core's stores stays. R109: a word that an
invalidation met while the fill was in flight has its value and is not VALID. That the fill reads its words at the home and lands in one
moment is the model's choice (log 53). -/
def Obligations.FillCompletes : Prop :=
  ∀ (s : State) (o : GOp) (pa : Nat) (a : Attr) (n : Nat) (t : Team) (b : Bight),
    o.kind = .fill n → AtHome s o pa a 64 false → (s.core o.core).team? o.task = some t →
    SMap.get Bight.none t.bights n = b → b.v = true →
    (∀ x, (s.ctx x).stq = [] ∧ ∀ f ∈ (s.ctx x).flight ++ (s.ctx x).held ++ (s.ctx x).heldU, f.pending = false) →
    let side (u : State) (w : Nat) : Side := SMap.get Side.none (if b.space then (u.core o.core).vaultSide else (u.core o.core).spadSide) w
    let word (u : State) (w : Nat) : Nat := Memory.rdN (if b.space then (u.core o.core).vault else (u.core o.core).spad) (4 * w) 4
    let fresh (w : Nat) : Prop := (side s w).valid = false ∧ (side s w).dirty = false
    ∃ u, exec (.fillComplete o.id) s = .next u ∧ u.ops = s.ops.filter (fun p => p.id ≠ o.id) ∧ u.dram = s.dram ∧
      u.ctxs = s.ctxs ∧
      (∀ k ∈ o.drop, ∀ i, b.wordAt (o.va + 4 * k) = some i → (side u (t.bightBase b + i)).dirty = false →
        (side u (t.bightBase b + i)).valid = false) ∧
      (o.drop = [] → ∀ k < 16, ∀ i, b.wordAt (o.va + 4 * k) = some i → fresh (t.bightBase b + i) →
        side u (t.bightBase b + i) = .clean none ∧
          word u (t.bightBase b + i) = Memory.rdN s.dram (pa + 4 * k) 4) ∧
      (o.drop = [] → ∀ w, (¬fresh w ∨ ∀ k < 16, ∀ i, b.wordAt (o.va + 4 * k) = some i → w ≠ t.bightBase b + i) →
        side u w = side s w ∧ word u w = word s w)

/-! ## Coherence -/

/-- R108, R115, R122, R141: a directory recall drops the range entry registered first at its slice, and a host snoop its line:
the clean words that it names are not VALID any more, a dirty one is first written back to its home, and no other word
changes. The snoop carries the bytes of the host's write that caused it, in host memory or in device memory, and they are written after
that (the model's choice, log 77); one of device memory whose slice has to wait is tried again in the next hub cycle (R156). A recall of
an owned word writes it back and leaves it clean; of a captured word it writes the captured value. -/
def Obligations.RecallsWriteBack : Prop :=
  ∀ (s : State), s.owners = [] → s.errs = [] → (∀ k v, SMap.wf Side.none ((s.core k).sides v) = true) →
    let side (u : State) (k : Nat) (v : Bool) (w : Nat) : Side := SMap.get Side.none ((u.core k).sides v) w
    let hits (k : Nat) (p : MapInfo → Nat → Attr → Prop) (v : Bool) (w : Nat) : Prop :=
      ∃ m pa a, (s.core k).mapOf v w = some m ∧ s.mapXlate k m false = .ok pa a ∧ p m pa a
    let inv (u : State) (k : Nat) (v : Bool) (w : Nat) : Prop := side u k v w = { side s k v w with valid := false }
    let clean : Prop := ∀ k v w, (side s k v w).dirty = false
    let onlyDirty (k : Nat) (v : Bool) (w : Nat) : Prop :=
      ∀ k' v' w', (side s k' v' w').dirty = true → k' = k ∧ v' = v ∧ w' = w
    let writtenBack (u : State) (k : Nat) (v : Bool) (w : Nat) (m : MapInfo) (pa : Nat) : Prop :=
      u.dram = Memory.wrN s.dram (pa / 64 * 64 + m.va % 64) (Memory.rdN ((s.core k).store v) (4 * w) 4) 4 ∧
        (side u k v w).valid = false ∧ (side u k v w).dirty = false
    (∀ (sl : Fin 64) (d : DirEnt), s.dir.find? (fun e => e.slice = sl.val) = some d →
      let named (m : MapInfo) (pa : Nat) (a : Attr) : Prop :=
        a.coh = 1 ∧ a.host = false ∧ m.task = d.task ∧ m.n = d.n ∧ m.b.gen = d.gen ∧ homeSlice a pa = sl.val
      ∃ u, exec (.dirRecall sl) s = .next u ∧ u.dir = s.dir.filter (fun e => e ≠ d) ∧
        (clean → u.dram = s.dram ∧ ∀ k v w,
          (k = d.core → hits k named v w → inv u k v w) ∧ (¬(k = d.core ∧ hits k named v w) → side u k v w = side s k v w)) ∧
        (∀ v w m pa a, (side s d.core v w).dirty = true → onlyDirty d.core v w → (s.core d.core).mapOf v w = some m →
          s.mapXlate d.core m false = .ok pa a → s.mapXlate d.core m true = .ok pa a → pa + 64 ≤ 0x9000000000 →
          ApartFromTable s pa → named m pa a →
          writtenBack u d.core v w m pa)) ∧
    (∀ (sl : Fin 64), (∀ e ∈ s.dir, e.slice ≠ sl.val) → exec (.dirRecall sl) s = .next s) ∧
    (∀ (line : Nat),
      let named (_ : MapInfo) (pa : Nat) (a : Attr) : Prop := a.host = true ∧ pa / 64 = line / 64
      (∀ data : List Byte, clean → line / 2 ^ 48 % 16 = 8 → line % 64 + data.length ≤ 64 →
        ∃ u, exec (.hostSnoop line data) s = .next u ∧ u.dram = s.dram ∧
          ∀ k, Memory.rd u.hostMem k = if line % 2 ^ 48 ≤ k ∧ k < line % 2 ^ 48 + data.length
            then data.getD (k - line % 2 ^ 48) 0 else Memory.rd s.hostMem k) ∧
      let slice := homeSlice (s.hostAttr (64 * (line / 64))) (64 * (line / 64))
      (∀ data : List Byte, line < 2 ^ 48 → s.waits ≠ [] ∨ s.sliceBusy slice = true →
        exec (.hostSnoop line data) s = .next { s with waits := s.waits ++ [.snoop line data] }) ∧
      (∀ data : List Byte, clean → s.waits = [] → s.sliceBusy slice = false → line + 64 ≤ 0x9000000000 → ApartFromTable s line →
        line % 64 + data.length ≤ 64 →
        ∃ u, exec (.hostSnoop line data) s = .next u ∧ u.hostMem = s.hostMem ∧
          ∀ k, Memory.rd u.dram k = if line ≤ k ∧ k < line + data.length then data.getD (k - line) 0 else Memory.rd s.dram k) ∧
      ((line / 2 ^ 48 % 16 = 0 → s.waits = [] ∧ s.sliceBusy slice = false) →
      ∃ u, exec (.hostSnoop line []) s = .next u ∧
        (clean → u.dram = s.dram ∧ ∀ k v w,
          (hits k named v w → inv u k v w) ∧ (¬hits k named v w → side u k v w = side s k v w)) ∧
        (∀ k v w m pa a, (side s k v w).dirty = true → onlyDirty k v w → (s.core k).mapOf v w = some m →
          s.mapXlate k m false = .ok pa a → s.mapXlate k m true = .ok pa a → pa + 64 ≤ 0x9000000000 →
          ApartFromTable s pa → named m pa a → writtenBack u k v w m pa))) ∧
    (∀ (o : Owner) (pa : Nat), let s1 := { s with owners := [o] }
      4 * o.word + 4 ≤ 0x9000000000 → ApartFromTable s (4 * o.word) →
      (4 * o.word < pa + 4 → pa < 4 * o.word + 4 → ∃ u, exec (.ownershipRecall pa) s1 = .next u ∧ u.owners = [] ∧
        (o.cap = none →
          u.dram = Memory.wrN s.dram (4 * o.word) (Memory.rdN ((s.core o.core).store o.vault) (4 * o.w) 4) 4 ∧
          (side u o.core o.vault o.w).dirty = false) ∧
        (∀ va v, o.cap = some (va, v) → u.dram = Memory.wrN s.dram (4 * o.word) v.toNat 4)) ∧
      ((pa + 4 ≤ 4 * o.word ∨ 4 * o.word + 4 ≤ pa) → exec (.ownershipRecall pa) s1 = .next s1))

/-- R116, R120, R133, R156, R347, R407, R423: host accesses through CXL.mem perform on device DRAM within the HDM range and stop beyond
it, and every line that the host read is tracked; one whose slice has to wait is tried again in the next hub cycle; a device write to such
a line sends a back-invalidate snoop first; every tick each core's clock steps, no further than 2^20 behind the largest; the sweep raises
old timestamps and drops old leases; a scrub pass finds the errors of the stores whose period has passed, at multiples of 10 minutes, an
hour and 24 hours (log 71), and changes no value; the oldest waiting Wonus record goes to the ring while it has space. -/
def Obligations.HomeAgents : Prop :=
  ∀ (s : State),
    let before (p q : BitVec 32) : Prop := 1 ≤ (q - p).toNat ∧ (q - p).toNat ≤ 2 ^ 31 - 1
    let waits (pa n : Nat) : Prop := s.waits ≠ [] ∨ ∃ k < (pa % 64 + n + 63) / 64, let line := pa / 64 + k
      s.sliceBusy (homeSlice (s.hostAttr (64 * line)) (64 * line)) = true
    (∀ (pa : Nat) (data : List Byte),
      (0x9000000000 < pa + data.length → exec (.hostMemWrite pa data) s = .fault .noSuchAddress) ∧
      (pa + data.length ≤ 0x9000000000 → waits pa data.length →
        exec (.hostMemWrite pa data) s = .next { s with waits := s.waits ++ [.write pa data] }) ∧
      (pa + data.length ≤ 0x9000000000 → ¬waits pa data.length → s.owners = [] → s.errs = [] →
        (∀ b, s.mon.table = some b → pa + data.length ≤ b ∨ b + 1048576 ≤ pa) →
        ∃ u, exec (.hostMemWrite pa data) s = .next u ∧
        (∀ k, pa ≤ k → k < pa + data.length → Memory.rd u.dram k = data.getD (k - pa) 0) ∧
        ((s.hostAttr pa).host = false → ∀ k, k < pa ∨ pa + data.length ≤ k → Memory.rd u.dram k = Memory.rd s.dram k))) ∧
    (∀ (pa n : Nat),
      (0x9000000000 < pa + n → exec (.hostMemRead pa n) s = .fault .noSuchAddress) ∧
      (pa + n ≤ 0x9000000000 → waits pa n →
        exec (.hostMemRead pa n) s = .next { s with waits := s.waits ++ [.read pa n] }) ∧
      (pa + n ≤ 0x9000000000 → ¬waits pa n → 0 < n → s.owners = [] → s.errs = [] → ∃ u, exec (.hostMemRead pa n) s = .next u ∧ u.dram = s.dram ∧
        u.outbox = s.outbox ++ [.hostRead pa (Memory.bytes s.dram pa n)] ∧
        ∀ l, pa / 64 ≤ l → l ≤ (pa + n - 1) / 64 → l ∈ u.hostCached)) ∧
    (∀ pa, pa < 2 ^ 48 → (pa / 64 ∉ s.hostCached → s.backInvalidate pa = s) ∧
      (pa / 64 ∈ s.hostCached → s.backInvalidate pa = { s with
        hostCached := s.hostCached.filter (fun l => l ≠ pa / 64), outbox := s.outbox ++ [.backInvalidate (pa / 64)] })) ∧
    (∃ u, exec .leaseTick s = .next u ∧ (∃ k < 128, u.dlt = (s.core k).pts) ∧
      (∀ base : BitVec 32, (∀ k < 128, ((s.core k).pts - base).toNat < 2 ^ 31) →
        ∀ k < 128, ((s.core k).pts - base).toNat ≤ (u.dlt - base).toNat) ∧
      ∀ k < 128, let p := (s.core k).pts + 1
        let q := u.dlt - 0x100000
        (before p q → (u.core k).pts = q) ∧ (¬before p q → (u.core k).pts = p) ∧
          { u.core k with pts := (s.core k).pts } = s.core k) ∧
    (∃ u, exec .rebaseSweep s = .next u ∧ u.dram = s.dram ∧
      let lo := s.dlt - 0x40000000
      (∀ t ∈ s.lines, (before t.rts lo → { t with wts := lo, rts := lo } ∈ u.lines) ∧ (¬before t.rts lo → t ∈ u.lines)) ∧
      u.lines.length = s.lines.length ∧
      (∀ k < 64, (before (SMap.get 0 s.evt k) lo → SMap.get 0 u.evt k = lo) ∧
        (¬before (SMap.get 0 s.evt k) lo → SMap.get 0 u.evt k = SMap.get 0 s.evt k) ∧
        (before (SMap.get 0 s.swc k) lo → SMap.get 0 u.swc k = lo) ∧
        (¬before (SMap.get 0 s.swc k) lo → SMap.get 0 u.swc k = SMap.get 0 s.swc k)) ∧
      ∀ k l, l ∈ (u.core k).lease ↔ l ∈ (s.core k).lease ∧ ¬before l.rts lo) ∧
    (let met (e : MemErr) : Prop := match e.at_ with
       | .spad _ _ | .vault _ _ | .istore _ _ => True
       | .cache _ | .table => s.now % 7200000000000 = 0
       | .dram _ => s.now % 172800000000000 = 0
       | .reg _ _ => False
     ∃ u, exec .scrubPass s = .next u ∧ u.dram = s.dram ∧ u.hostMem = s.hostMem ∧ (∀ e, e ∈ u.errs ↔ e ∈ s.errs ∧ ¬met e) ∧
       (∀ k, (u.core k).spad = (s.core k).spad ∧ (u.core k).vault = (s.core k).vault) ∧ ((∀ e ∈ s.errs, ¬met e) → u = s)) ∧
    (∀ r rest, s.wonus = r :: rest → let m := s.mgmt
      let size := 2 ^ m.wlog.toNat
      let pa := m.wbase.toNat * 64 + 16 * (m.wtail.toNat % size)
      (size ≤ (m.wtail - m.whead).toNat → exec .wonusRecordWrite s = .next s) ∧
      ((m.wtail - m.whead).toNat < size → pa + 16 ≤ 0x9000000000 → s.owners = [] → s.errs = [] → ApartFromTable s pa →
        ∃ u, exec .wonusRecordWrite s = .next u ∧ u.wonus = rest ∧ u.mgmt = { m with wtail := m.wtail + 1 } ∧
          u.dram = Memory.wrN s.dram pa (r.typ.toNat + r.src.toNat * 2 ^ 4 + r.task.toNat * 2 ^ 12 + r.seq.toNat * 2 ^ 32 +
            r.data.toNat * 2 ^ 64) 16))

/-! ## Ropes -/

/-- R13, R20, R23, R24, R35, R427, R428: the rope engine takes up an enabled descriptor, drops it when EN is cleared, keeping the
addresses of the records dispatched at or after HEAD, follows a HEAD written in LINK, takes new PRIO, PRE, MASK and OWNER, follows the
NEXT word of the last record, which HEAD then names, fetches and checks a record, of which a kept one gives only its NEXT word and one
whose launch failed (logs 93) is held with IMAGE, and latches a satisfied wait with the knot's home slice, a threshold of 0 without a
read (R19). A field that breaks R13 faults the rope with CONFIG, a record that breaks R16 with RECORD. -/
def Obligations.RopeEvents : Prop :=
  ∀ (s : State) (r : RopeNo),
    let k := s.ropeOf r.val
    let addr := s.host.rtbase.toNat * 16384 + 64 * r.val
    let d := Memory.rdN s.dram addr 64
    s.host.rten = true → s.mgmt.quiesce = false → s.owners = [] → s.errs = [] → s.hubWaits = [] → addr + 64 ≤ 0x9000000000 →
    let gives (i : Instr) (k' : Rope) : Prop := ∃ t, exec i s = .next t ∧ t.ropeOf r.val = k'
    let same : Prop := descAsid d = k.asid ∧ descKnots d = k.knots ∧ descVtab d = k.vtab
    let reads (va n x h : Nat) : Prop := ∃ pa a, s.xlate 128 k.asid (va % 2 ^ 64) false = .ok pa a ∧ a.lease = false ∧
      pa + n ≤ 0x9000000000 ∧ s.physBad pa n = false ∧ x = Memory.rdN s.dram pa n ∧ h = homeSlice a pa ∧ s.sliceJustServed h = false
    -- EN set
    (let head : Word := BitVec.ofNat 64 (d / 2 ^ 192)
     let taken : Rope := { k with
       en := true, pre := d.testBit 1, prio := BitVec.ofNat 6 (d / 2 ^ 2), asid := BitVec.ofNat 16 (d / 2 ^ 8)
       owner := BitVec.ofNat 8 (d / 2 ^ 24), mask := BitVec.ofNat 128 (d / 2 ^ 64), head := head
       knots := BitVec.ofNat 64 (d / 2 ^ 256), vtab := BitVec.ofNat 64 (d / 2 ^ 320), retired := BitVec.ofNat 32 (d / 2 ^ 416)
       fetched := if k.head = head then k.fetched else [], last := none, waitNext := false, badNext := none
       kept := if k.head = head then k.kept else [], failed := [] }
     k.en = false → k.st = .off → d.testBit 0 = true →
     (descBad d = false → gives (.ropeEnable r) { taken with toFetch := head, st := if head = 0 then .link else .head }) ∧
     (descBad d = true → gives (.ropeEnable r) { taken with st := .fault, fcode := 0x05 })) ∧
    -- EN cleared
    (k.en = true → s.preempt = [] → ∃ t, exec (.ropeDisable r) s = .next t ∧
      (∀ a, a ∈ (t.ropeOf r.val).kept ↔ a ∈ k.kept ∨
        (∃ f ∈ (k.fetched.dropWhile (fun f => f.gone && !s.launching r.val f.addr)).dropWhile (fun f => f.gone), f.gone = true ∧ f.addr = a) ∨
        (a = k.head ∧ ((k.st = .link ∧ k.last ≠ none) ∨ (k.st = .fault ∧ k.badNext ≠ none)))) ∧
      { t.ropeOf r.val with kept := [] } = { k with
        en := false, st := .off, last := none, waitNext := false, toFetch := 0, badNext := none, failed := [], kept := []
        fetched := (k.fetched.dropWhile (fun f => f.gone && !s.launching r.val f.addr)).takeWhile (fun f => f.gone) }) ∧
    -- HEAD written in LINK
    (∀ head : Word, k.st = .link → k.last = none → k.toFetch = 0 → head ≠ 0 →
      (head.toNat % 64 = 0 → gives (.headWrite r head) { k with head := head, toFetch := head, st := .head }) ∧
      (head.toNat % 64 ≠ 0 → gives (.headWrite r head) { k with head := head, st := .fault, fcode := 0x05 })) ∧
    -- RO fields written while enabled
    (let seen : Rope := { k with
       pre := d.testBit 1, prio := BitVec.ofNat 6 (d / 2 ^ 2), owner := BitVec.ofNat 8 (d / 2 ^ 24), mask := BitVec.ofNat 128 (d / 2 ^ 64) }
     k.en = true → k.st ≠ .fault →
     (d / 2 ^ 2 % 2 ^ 6 ≤ 47 → gives (.descriptorWriteObserved r) seen) ∧
     (47 < d / 2 ^ 2 % 2 ^ 6 → k.prio.toNat ≤ 47 → gives (.descriptorWriteObserved r) { seen with st := .fault, fcode := 0x05 })) ∧
    -- the NEXT word of the last record
    (∀ (a : Word) (x h : Nat), same → (k.st = .link ∨ k.st = .head) → k.waitNext = true → k.last = some a → k.fetched = [] →
      k.toFetch = 0 → reads a.toNat 8 x h →
      (x = 0 → gives (.nextWordObserved r) k) ∧
      (x ≠ 0 → x % 64 = 0 → gives (.nextWordObserved r) { k with
        waitNext := false, toFetch := BitVec.ofNat 64 x, st := .head, head := BitVec.ofNat 64 x }) ∧
      (x % 64 ≠ 0 → k.badNext = none → gives (.nextWordObserved r) { k with
        waitNext := false, badNext := some a, st := .fault, fcode := 0x01, head := a })) ∧
    -- a record
    (∀ n h : Nat, same → k.st = .head → k.toFetch ≠ 0 → k.fetched = [] → k.kept = [] → reads k.toFetch.toNat 64 n h →
      let next := n % 2 ^ 64
      let got (bad : Option (BitVec 8)) : Rope := { k with
        fetched := [⟨k.toFetch, BitVec.ofNat 512 n, 0, bad, false, []⟩], last := some k.toFetch, waitNext := decide (next = 0)
        toFetch := if next % 64 = 0 then BitVec.ofNat 64 next else 0, head := k.toFetch
        failed := k.failed.filter (fun b => b ≠ k.toFetch) }
      (recBad n k.vtab.toNat = false → n / 2 ^ 206 % 2 ^ 3 = 0 → k.toFetch ∉ k.failed →
        gives (.recordFetch r) { got none with st := .head }) ∧
      (recBad n k.vtab.toNat = false → k.toFetch ∈ k.failed →
        gives (.recordFetch r) { got (some 0x02) with st := .fault, fcode := 0x02 }) ∧
      (recBad n k.vtab.toNat = true → gives (.recordFetch r) { got (some 0x01) with st := .fault, fcode := 0x01 })) ∧
    -- a kept record
    (∀ n h : Nat, same → k.st = .head → k.toFetch ≠ 0 → k.fetched = [] → k.toFetch ∈ k.kept → reads k.toFetch.toNat 8 n h →
      n ≠ 0 → n % 64 = 0 → s.launching r.val k.toFetch = false →
      gives (.recordFetch r) { k with
        toFetch := BitVec.ofNat 64 n, head := BitVec.ofNat 64 n, last := some k.toFetch, waitNext := false
        kept := k.kept.filter (fun b => b ≠ k.toFetch) }) ∧
    -- a knot
    (∀ (f : Fetched), same → k.st = .head → k.fetched = [f] → f.gone = false → f.bad = none →
      f.recd.toNat / 2 ^ 206 % 2 ^ 3 = 1 → f.latched = 0 →
      let index := f.recd.toNat / 2 ^ 256 % 2 ^ 16
      let threshold := f.recd.toNat / 2 ^ 272 % 2 ^ 48
      (threshold = 0 → gives (.knotWriteObserved r) { k with fetched := [{ f with latched := 1, homes := f.homes.eraseDups }] }) ∧
      (∀ x h, threshold ≠ 0 → reads (k.knots.toNat + 8 * index) 8 x h →
        (threshold ≤ x →
          gives (.knotWriteObserved r) { k with fetched := [{ f with latched := 1, homes := (f.homes ++ [h]).eraseDups }] }) ∧
        (x < threshold → gives (.knotWriteObserved r) k)))

/-! ## Tasks -/

/-- R26 to R28, R33, R35, R36, R54, R139: of two ropes with startable records the dispatcher starts that of higher priority, and at one
priority that of the rope which follows, with wrap, the one last started there. A record starts at the lowest base core that satisfies
R27, the reservation is debited, its cores take the write clock of its wait-knot's home slice, and it runs in the ASID that the engine
took when EN was set (log 91) in the lowest resident slot that is free (log 110). A team is loaded with its windows zero and its contexts
as R54 says; a restored task whose teams are all armed runs; a failed launch frees everything, returns the reservation, where a HOLD above
MAX keeps its value (log 97), and gives the record back. -/
def Obligations.LaunchEvents : Prop :=
  (∀ (s s1 : State) (r : RopeNo) (f : Fetched) (v b : Nat) (tes : List Nat) (rooms : List Room),
    let k := s.ropeOf r.val
    let t := newTask r.val k f s.nextTask
    let bases := basesIn k.mask t.ncores
    let fits (c : Nat) : Prop := s1.canPay c t.ncores t.eclass.toNat = true ∧ (s1.roomsAt c [] tes).isSome = true
    s.host.rten = true → s.mgmt.quiesce = false → s.ropes = [(r.val, k)] → s.tasks = [] → s.ckRun = none →
    k.en = true → k.st = .head → k.fetched = [f] → f.gone = false → f.bad = none → k.inflight.toNat < 4 →
    f.recd.toNat / 2 ^ 206 % 2 ^ 3 = 0 → bases ≠ [] → s.neverAffordable bases t.ncores t.eclass.toNat = false →
    s.teamsRead (lowCore k.mask) t = .ok v s1 → tes = (List.range t.ncores).map (piece (v / 2 ^ 1024) 64) →
    s1.ropeOf r.val = k → s1.nextTask = s.nextTask → s1.tasks = [] → s1.preempt = [] → s1.owners = [] → s1.errs = [] →
    s1.linksFree (hdrLinks v) t.id = true → b ∈ bases → fits b → (∀ c ∈ bases, fits c → b ≤ c) →
    s1.roomsAt b [] tes = some rooms →
    ∃ u, exec .dispatchChoice s = .next u ∧ (u.ropeOf r.val).inflight = k.inflight + 1 ∧ u.nextTask = s.nextTask + 1 ∧
      (∃ w, u.task? s.nextTask = some w ∧ w.st = .loading ∧ w.base = b ∧ w.ncores = t.ncores ∧ w.recAddr = f.addr ∧
        w.image = BitVec.ofNat 64 (f.recd.toNat / 2 ^ 64) ∧ w.rope = r ∧ w.asid = k.asid ∧
        w.homes = f.homes ∧ w.slot = 0 ∧ w.credit = (List.range t.ncores).map (fun p => (b + p, s1.resv t.eclass.toNat))) ∧
      ∀ p < t.ncores, (u.island (b + p)).hold =
          max (-2147483648) (min ((s1.island (b + p)).hold - s1.resv t.eclass.toNat) 2147483647) ∧
        ((u.core (b + p)).team? s.nextTask).isSome = true ∧
        ∀ h, f.homes = [h] → (u.core (b + p)).pts = serialMax (s1.core (b + p)).pts (SMap.get 0 s1.swc h)) ∧
  (∀ (s s1 s2 : State) (a b : RopeNo) (ta tb : Task) (ea eb : List Nat) (ma mb : List Room),
    let ka := s.ropeOf a.val
    let kb := s.ropeOf b.val
    let last (k : Rope) : Nat := SMap.get 255 s.lastRope k.prio.toNat
    let after (r k : RopeNo × Rope) : Prop := (r.1.val + 511 - last r.2) % 256 < (k.1.val + 511 - last k.2) % 256
    let first : Prop := kb.prio.toNat < ka.prio.toNat ∨ (ka.prio = kb.prio ∧ after (a, ka) (b, kb))
    let starts (u : State) (r : RopeNo) (t : Task) (k : Rope) : Prop := SMap.get 255 u.lastRope k.prio.toNat = r.val ∧
      ∃ x, u.task? t.id = some x ∧ x.rope = r ∧ x.recAddr = t.recAddr ∧ x.st = .loading
    a ≠ b → s.host.rten = true → s.mgmt.quiesce = false → s.ckRun = none → s.ropes = [(a.val, ka), (b.val, kb)] →
    (ka.en = true ∧ kb.en = true ∧ ka.st = .head ∧ kb.st = .head) → last ka ≤ 255 → last kb ≤ 255 →
    s.scan a.val (s.candidates a.val) [] = (.start ta ea ma, [], s1) → s1.ropeOf b.val = kb → s1.ckRun = none →
    s1.scan b.val (s1.candidates b.val) [] = (.start tb eb mb, [], s2) → s2.ropeOf a.val = ka → s2.ropeOf b.val = kb →
    s2.lastRope = s.lastRope → s2.preempt = [] → ta.rope = a → tb.rope = b →
    ∃ u, exec .dispatchChoice s = .next u ∧ (first → starts u a ta ka) ∧ (¬first → starts u b tb kb)) ∧
  (∀ (s s0 : State) (t : Task) (pos : Nat) (team : Team) (i : ImgTabs),
    let c := t.base + pos
    s.mon.supsHeld = false → s.task? t.id = some t → t.st = .loading → t.was = .loading → pos < t.ncores → (s.core c).team? t.id = some team →
    team.armed = false → team.core = c → team.pos = pos → c < 128 → team.parts.Nodup → (∀ p ∈ team.parts, p < 4) →
    team.nctx ≤ 4 * team.parts.length → (∀ k, s.withImage t c pos k = k i s0) → i.profile = .native →
    teChunks i.te i.chunks = [] → teBights i.te i.bgt = [] →
    (∃ p < t.ncores, p ≠ pos ∧ ∀ w, (s0.core (t.base + p)).team? t.id = some w → w.armed = false) →
    ∃ u, exec (.teamArmed t.id pos) s = .next u ∧
      (∀ a, team.spadBase ≤ a → a < team.spadBase + team.spadSize → Memory.rd (u.core c).spad a = 0) ∧
      (∀ a, team.vaultBase ≤ a → a < team.vaultBase + team.vaultSize → Memory.rd (u.core c).vault a = 0) ∧
      ∀ j < team.nctx, ∀ x : CtxNo, x.val = 16 * c + 4 * (team.parts.getD (j / 4) 0) + j % 4 →
        let k := u.ctx x
        k = { Ctx.none with
          st := .ready, task := t.id, tctx := BitVec.ofNat 4 j, s := k.s, splim := BitVec.ofNat 64 (teSplim i.te)
          pc := BitVec.ofNat 64 (teEntry i.te j), npc := BitVec.ofNat 64 (teEntry i.te j + 1)
          dbg := recDbg t.recd.toNat, limit := limitOf s0.mgmt.drainCap (s0.ropeOf t.rope.val).pre (hdrDrain i.hdr)
          throttle := (List.range t.ncores).any (fun p => let o := s0.island (t.base + p)
            o.apend && decide (o.aop.toNat < s0.opmin t.tcon.toNat)) } ∧
        ∀ n : BitVec 6, k.rs n = if n = 1 then BitVec.ofNat 64 (t.recd.toNat / 2 ^ 128) else if n = 2 then BitVec.ofNat 64 j
          else if n = 3 then BitVec.ofNat 64 pos else if n = 4 then BitVec.ofNat 64 (teSpadWin i.te) else 0) ∧
  (∀ (s : State) (t : Task) (pos : Nat) (team : Team),
    s.mon.supsHeld = false → s.task? t.id = some t → t.st = .loading → t.was = .saved → pos < t.ncores →
    (s.core (t.base + pos)).team? t.id = some team → team.armed = true →
    (∀ p < t.ncores, ∃ w, (s.core (t.base + p)).team? t.id = some w ∧ w.armed = true) →
    exec (.teamArmed t.id pos) s = .next { s with
      tasks := s.tasks.map (fun w => if w.id = t.id then { w with
        st := if w.supStop || s.preempt.any (fun p => p.victims.contains t.id) then .stopping else .running } else w)
      saves := s.saves.filter (fun v => v.task ≠ t.id) }) ∧
  (∀ (s : State) (t : Task) (pos i au : Nat),
    s.task? t.id = some t → t.st = .loading → t.was = .loading → pos < t.ncores → t.credit = [(i, au)] → i < 128 →
    s.owners = [] → s.errs = [] → let k := s.ropeOf t.rope.val
    let h := (s.island i).hold
    let m : Int := (s.island i).max
    ∃ u, exec (.launchFailure t.id pos) s = .next u ∧ u.task? t.id = none ∧ (u.ropeOf t.rope.val).inflight = k.inflight - 1 ∧
      (u.island i).hold = (if m < h + au then max h m else max (-2147483648) (min (h + au) 2147483647)) ∧
      ∀ p < t.ncores, (u.core (t.base + p)).team? t.id = none)

/-- R22, R45, R153, R164, R376: a task with every context ended, every command completed, nothing mapped and nothing outstanding
retires: its credit and resources return, its rope counts it and logs it. A returned credit leaves a HOLD above MAX as it is (log 97),
and a halyard that waits for a credit or for room in its queue has nothing left to complete (log 29). Its signals then add 1 to their
knots. A task that was asked to switch takes up the named variant once every context has stopped, and is freed to wait on its rope. -/
def Obligations.RetirementEvents : Prop :=
  ∀ (s : State) (t : Task),
    let r := t.rope.val
    let k := s.ropeOf r
    let d := Memory.rdN s.dram (s.host.rtbase.toNat * 16384 + 64 * r) 64
    let same : Prop := descAsid d = k.asid ∧ descKnots d = k.knots ∧ descVtab d = k.vtab
    let idle : Prop := s.links = [] ∧ s.preempt = [] ∧ ∀ c ∈ (List.range t.ncores).map (t.base + ·),
      s.commandsDone t.id c = true ∧ (∀ o ∈ s.ops, o.task = t.id → o.core ≠ c) ∧
        ∀ w, (s.core c).team? t.id = some w → ∀ e ∈ w.bights, e.2.v = false
    let every (p : Ctx → Prop) : Prop := ∀ c ∈ (List.range t.ncores).map (t.base + ·), ∀ w, (s.core c).team? t.id = some w →
      ∀ x ∈ w.ctxNos, p (s.ctx x)
    let freed (u : State) : Prop := (∀ c ∈ (List.range t.ncores).map (t.base + ·), (u.core c).team? t.id = none) ∧
      ∀ i au, t.credit = [(i, au)] → i < 128 → let h := (s.island i).hold
        let m : Int := (s.island i).max
        (u.island i).hold = if m < h + au then max h m else max (-2147483648) (min (h + au) 2147483647)
    s.task? t.id = some t → s.owners = [] → s.errs = [] →
    (t.st = .retired → t.sigs = [] →
      exec (.taskRetire t.id) s = .next { s with tasks := s.tasks.filter (fun w => w.id ≠ t.id) }) ∧
    (∀ i pa a, t.st = .retired → t.sigs = [i] → same → s.hubWaits = [] →
      s.xlate 128 k.asid ((k.knots.toNat + 8 * i) % 2 ^ 64) true = .ok pa a → a.lease = false → pa + 8 ≤ 0x9000000000 →
      s.physBad pa 8 = false → s.sliceJustServed (homeSlice a pa) = false → ApartFromTable s pa →
      ∃ u, exec (.taskRetire t.id) s = .next u ∧ u.task? t.id = none ∧
        u.dram = Memory.wrN s.dram pa ((Memory.rdN s.dram pa 8 + 1) % 2 ^ 64) 8) ∧
    (t.st = .running → idle → every (fun c => c.st = .ended) → t.recd.toNat / 2 ^ 209 % 4 = 0 →
      ∃ u, exec (.taskRetire t.id) s = .next u ∧ u.task? t.id = none ∧ freed u ∧
        (u.ropeOf r).inflight = k.inflight - 1 ∧ (u.ropeOf r).retired = k.retired + 1 ∧
        ∃ e, (SMap.get [] u.retlog r).getLast? = some e ∧ e.recAddr = t.recAddr ∧ e.joule = t.joule ∧ e.status = 0 ∧
          e.tclass = 0 ∧ e.rseq = k.retired + 1) ∧
    (∀ j pa a, t.st = .running → t.sw = some j → same → s.hubWaits = [] →
      every (fun c => c.st = .stopped) → ¬every (fun c => c.st = .ended) →
      s.xlate 128 k.asid ((k.vtab.toNat + 16 * j) % 2 ^ 64) false = .ok pa a → pa + 16 ≤ 0x9000000000 → s.physBad pa 16 = false →
      s.sliceJustServed (homeSlice a pa) = false →
      let e := Memory.rdN s.dram pa 16
      ∃ u, exec (.variantSwitch t.id) s = .next u ∧ u.task? t.id = some (
        if e % 2 ^ 64 = 0 then { t with
          st := .switching, image := BitVec.ofNat 64 (t.recd.toNat / 2 ^ 64), eclass := BitVec.ofNat 4 (t.recd.toNat / 2 ^ 196)
          tcon := BitVec.ofNat 4 (t.recd.toNat / 2 ^ 200), variant := 0 }
        else { t with
          st := .switching, image := BitVec.ofNat 64 e, eclass := BitVec.ofNat 4 (e / 2 ^ 64)
          tcon := BitVec.ofNat 4 (e / 2 ^ 68), variant := j })) ∧
    (∀ j, t.st = .switching → t.sw = some j → idle →
      (∀ c ∈ (List.range t.ncores).map (t.base + ·), ∀ w, (s.core c).team? t.id = some w → w.hal = false) →
      ∃ u, exec (.variantSwitch t.id) s = .next u ∧ freed u ∧
        u.task? t.id = some { t with st := .switched, sw := none, supStop := false, credit := [] })

/-! ## The matrix engine's commands -/

/-- R229, R230, R236 to R242, R244, R245: the engine starts the oldest command; MFT sets its entry and takes 1 cycle; MZERO zeroes its
tiles and takes 4; MMOV waits until the accesses that its push released have performed, then moves its rows in its format and takes
4 + 2 (NRM1 + 1) cycles, or faults with DESC or ALIGN, which ends it in the cycle at hand; a bank's load, which waits for those accesses
too, completes with the bytes of the vault; an ended command leaves the engine at its time, and a call counts. That MMOV moves all its
rows in its first cycle, and that the bytes of a load are those of the cycle in which it becomes LOADED here, are the model's choices
(log 51). -/
def Obligations.MatrixEngineEvents : Prop :=
  ∀ (s : State) (c : CoreNo),
    let m := (s.core c.val).mtx
    let only (u : State) (m' : Mtx) : Prop := { u with cores := s.cores } = s ∧
      u.core c.val = { s.core c.val with mtx := m' } ∧ ∀ k, k ≠ c.val → u.core k = s.core k
    let at_ (a : SMap (BitVec 32)) (b row col : Nat) : BitVec 32 := SMap.get 0 a (b * 6144 + row * 192 + col)
    (∀ (k : MCmd) (rest : List MCmd), m.run = none → m.queue = k :: rest →
      let begins (w : Nat) (p : Vector Word 8) : Prop :=
        exec (.matrixCommandStart c) s = .next (s.setCore c.val { s.core c.val with mtx := { m with
          queue := rest
          run := some ⟨k, w, 0, 0, p, 0, 0, 0, false, none, none, false, false, [], 0, none, none⟩ } })
      (∀ e a f p ws, k.kind = .call e a f p ws → begins ((SMap.get MEnt.none m.ent e).idx.toNat) p) ∧
      ((∀ e a f p ws, k.kind ≠ .call e a f p ws) → begins 0 (Vector.replicate 8 0))) ∧
    (∀ r : MRun, m.run = some r →
      (∀ ft af bf, r.cmd.kind = .mft ft af bf → ∃ u, exec (.mftExecute c) s = .next u ∧
        only u { m with
          ft := SMap.set 0 m.ft ft.toNat (BitVec.ofNat 10 (af.toNat + 32 * bf.toNat))
          run := some { r with ended := true, last := max r.last (m.cyc + 1) } }) ∧
      (∀ mask, r.cmd.kind = .mzero mask → ∃ u acc, exec (.mzeroExecute c) s = .next u ∧
        only u { m with acc := acc, run := some { r with ended := true, last := max r.last (m.cyc + 4) } } ∧ ∀ b row col, b < 8 → row < 32 → col < 192 →
          at_ acc b row col = if mask.getLsbD b then 0 else at_ m.acc b row col) ∧
      (r.ended = true → r.last ≤ m.cyc → m.past = [] → (∀ o x y w z, m.bank0.st ≠ .loading o x y w z ∧ m.bank1.st ≠ .loading o x y w z) →
        ∃ u, exec (.callEnd c) s = .next u ∧ (u.core c.val).mtx = { m with run := none } ∧
          ((∃ e a f p ws, r.cmd.kind = .call e a f p ws) → (u.ctx r.cmd.x).ccount = (s.ctx r.cmd.x).ccount + 1) ∧
          ((∀ e a f p ws, r.cmd.kind ≠ .call e a f p ws) → only u { m with run := none })) ∧
      (∀ (b : Fin 2) (t : Team) (o rows word start : Nat), let bank := if b = 0 then m.bank0 else m.bank1
        bank.st = .loading o 0 rows word start → 0 < rows → rows ≤ 52 → s.teamOf r.cmd.x = some t →
        s.errs = [] → s.clearOf r.cmd.x r.cmd.after = true →
        (∀ k < 192 * rows, s.allUsable ⟨c.val, true, t.vaultBase + o + 4 * k⟩ 4 = true ∧
          s.poisoned ⟨c.val, true, t.vaultBase + o + 4 * k⟩ = false) →
        ∃ u d, exec (.ldbLoadComplete c b) s = .next u ∧
          only u (if b = 0 then { m with bank0 := { bank with st := .loaded, data := d } }
            else { m with bank1 := { bank with st := .loaded, data := d } }) ∧
          ∀ k < 768 * rows, Memory.rd d k = Memory.rd (s.core c.val).vault (t.vaultBase + o + k)) ∧
      (∀ (ld sat : Bool) (acc : BitVec 3) (fmt : BitVec 5) (desc : Word) (mode : Nat) (t : Team),
        let d := desc.toNat
        let row0 := d / 2 ^ 20 % 2 ^ 5
        let nrm1 := d / 2 ^ 25 % 2 ^ 5
        let o (i : Nat) : Nat := d % 2 ^ 20 + i * (d / 2 ^ 32 % 2 ^ 14)
        let kf := cvtFmt fmt.toNat
        let n := 24 * kf.width
        let done : MRun := { r with
          ended := true, row := 0, fill := none, bad := none
          begun := false
          last := max r.last (if r.begun then m.cyc + 1 else m.cyc + 4 + 2 * (nrm1 + 1)) }
        let descBad : Prop := d / 2 ^ 30 % 4 ≠ 0 ∨ d / 2 ^ 46 ≠ 0 ∨ 31 < row0 + nrm1
        let alignBad : Prop := d % 4 ≠ 0 ∨ d / 2 ^ 32 % 4 ≠ 0
        let fails (code : Nat) : Prop := ∃ u, exec (.mmovExecute c) s = .next u ∧
          (u.core c.val).mtx = { m with run := some { done with last := m.cyc + 1 } } ∧ (u.core c.val).spad = (s.core c.val).spad ∧
          (u.ctx r.cmd.x).mstat.toNat / 2 ^ 8 % 16 = code ∧ (u.ctx r.cmd.x).mstat.getLsbD 12 = true
        r.cmd.kind = .mmov ld sat acc fmt desc mode → r.row = 0 → s.teamOf r.cmd.x = some t → r.cmd.x.val / 16 = c.val →
        ((s.ctx r.cmd.x).mstat.toNat / 2 ^ 8 % 16 = 0 → (descBad → fails 7) ∧ (¬descBad → alignBad → fails 2)) ∧
        (¬descBad → ¬alignBad → s.clearOf r.cmd.x r.cmd.after = false → exec (.mmovExecute c) s = .next s) ∧
        (¬descBad → ¬alignBad → s.clearOf r.cmd.x r.cmd.after = true → s.errs = [] →
          (∀ i ≤ nrm1, o i + n ≤ t.spadSize) →
          (ld = true → ∀ v : Nat → Nat, (∀ i ≤ nrm1, s.engineRead c.val r (o i) n = .ok (v i)) →
            ∃ u a, exec (.mmovExecute c) s = .next u ∧ (u.core c.val).mtx = { m with acc := a, run := some done } ∧
              (u.core c.val).spad = (s.core c.val).spad ∧
              ∀ b row col, b < 8 → row < 32 → col < 192 → (at_ a b row col).toNat =
                if b = acc.toNat ∧ row0 ≤ row ∧ row ≤ row0 + nrm1 then
                  (roundFp (kf.value (v (row - row0) / 2 ^ (kf.width * col) % 2 ^ kf.width)) fp32 mode false false 0).code % 2 ^ 32
                else (at_ m.acc b row col).toNat) ∧
          (ld = false → (nrm1 = 0 ∨ n ≤ d / 2 ^ 32 % 2 ^ 14) → (∀ w, (s.core c.val).mapOf false w = none) →
            ∃ u, exec (.mmovExecute c) s = .next u ∧ (u.core c.val).mtx = { m with run := some done } ∧
              (∀ i ≤ nrm1, ∀ col < 192,
                Memory.rdN (u.core c.val).spad (t.spadBase + o i) n / 2 ^ (kf.width * col) % 2 ^ kf.width =
                  (roundTo (fp32.value (at_ m.acc acc.toNat (row0 + i) col).toNat) kf mode sat false 0).code % 2 ^ kf.width) ∧
              ∀ a, (∀ i ≤ nrm1, a < t.spadBase + o i ∨ t.spadBase + o i + n ≤ a) →
                Memory.rd (u.core c.val).spad a = Memory.rd (s.core c.val).spad a))))

/-! ## Copy engines and the halyard -/

/-- R138, R156, R262 to R265: a queued command starts once the accesses that its push released have performed, a multicast with
its excluded receivers in FMASK; a command with no unit left ends and its word is posted; a command whose next read faults, or whose
fill waits on a fault, is parked and, once that is resolved, runs again from its PROG; while HOLD is not positive a command on global memory
is held at a line boundary, and goes on when its island may spend again. -/
def Obligations.CopyEngineEvents : Prop :=
  ∀ (s : State) (c : CoreNo) (e : Fin 2) (k : CopyCmd),
    let u := s.core c.val
    let f := blockOf k.blk
    (if e = 0 then u.eng0 else u.eng1) = [k] → (∀ t, s.task? k.task = some t → t.st ≠ .loading) →
    let put (s : State) (l : List CopyCmd) : State :=
      s.setCore c.val (if e = 0 then { s.core c.val with eng0 := l } else { s.core c.val with eng1 := l })
    (k.st = .queued → (∀ p ∈ k.after, s.outstanding p.1 p.2 = false) →
      (k.kind ≠ 6 → exec (.copyCommandStart c e) s = .next (put s [{ k with st := .running, fmask := 0, excl := 0 }])) ∧
      (k.kind = 6 → ∃ m x, exec (.copyCommandStart c e) s = .next (put s [{ k with st := .running, fmask := m, excl := x }]) ∧
        ∀ j < 32, m.getLsbD j = (f.aux.testBit j && decide (s.exclusion k.task f (32 * (f.aux / 2 ^ 32 % 4) + j) ≠ 0)))) ∧
    (k.st = .running → k.bad = none → f.units k.kind.toNat ≤ k.prog →
      let word : Word := BitVec.ofNat 64 (k.tag.toNat + k.excl * 2 ^ 16 +
        (if k.kind = 6 then k.fmask.toNat else if k.excl ≠ 0 then k.prog % 2 ^ 32 else 0) * 2 ^ 32)
      (∀ x, k.x = some x → ∃ t, exec (.copyCommandEnd c e) s = .next t ∧ t.core c.val = (put s [{ k with st := .ended }]).core c.val ∧
        (t.ctx x).cq[e.val] = (s.ctx x).cq[e.val] ++ [word] ∧ { t.ctx x with cq := (s.ctx x).cq } = s.ctx x ∧
        ∀ y, y ≠ x → t.ctx y = s.ctx y) ∧
      (k.x = none → ∃ t, exec (.copyCommandEnd c e) s = .next t ∧
        (if e = 0 then (t.core c.val).eng0 else (t.core c.val).eng1) = [] ∧
        (t.core c.val).hal.sent = u.hal.sent.map (fun h => if h.hid = k.hid then { h with status := some (BitVec.ofNat 8 k.excl) } else h))) ∧
    (∀ fault fid s1, s.owners = [] → s.errs = [] → k.st = .running → k.fill = none → (k.kind = 0 ∨ k.kind = 3) → f.ssp = 2 →
      let a := (f.saddr + k.prog / f.len * f.spitch + k.prog % f.len) % 2 ^ 64
      s.xlate c.val (s.taskAsid k.task) a false = .fault fault →
      s.faultAt fault (s.taskAsid k.task) a false (s.claimOf k.task) (if k.x = none then 2 else 1) c.val = (.wait fid, s1) →
      exec (.copyCommandPark c e) s = .next (put s1 [{ k with st := .parked, fid := some fid, room := false, fill := none }])) ∧
    (∀ o ∈ s.ops, k.st = .running → k.fill = some o.id → o.fid.isSome →
      exec (.copyCommandPark c e) s = .next (put s [{ k with st := .parked }])) ∧
    (k.st = .parked → k.fid = none → k.paused = false → (k.room = true → s.fids.length < 4096) →
      (∀ o ∈ s.ops, k.fill = some o.id → s.fillFaulted o = false) →
      exec (.copyCommandResume c e) s = .next (put s [{ k with st := .running, room := false }])) ∧
    ((if e = 0 then u.eng1 else u.eng0) = [] → (f.ssp = 2 ∨ f.dsp = 2) →
      (k.st = .running → (s.island c.val).hold ≤ 0 → k.atLine = true →
        exec (.copyHold c) s = .next (s.setCore c.val { (put s [{ k with st := .held }]).core c.val with held := true })) ∧
      (k.st = .held → 0 < (s.island c.val).hold → s.rateHeld k.task = false →
        exec (.copyHoldRelease c) s = .next (s.setCore c.val { (put s [{ k with st := .running }]).core c.val with held := false })) ∧
      (k.st = .held → (s.island c.val).hold ≤ 0 → ∃ t, exec (.copyHoldRelease c) s = .next t ∧
        (if e = 0 then (t.core c.val).eng0 else (t.core c.val).eng1) = [k] ∧ (t.core c.val).held = true))

/-- R266 to R269: the halyard reads and checks its block, or faults on it; it waits for a credit, or takes it and pushes the
command of one repetition, or goes to the next block, or ends the chain; the words of ended commands are posted in order; a
command's STATUS that is not 0 faults it, and FST takes that STATUS with its word, once the other commands have ended; a stopped halyard
is IDLE once its commands have ended. That the word of a block's fault is posted at once where the queue has room, and waits for room
otherwise, is the model's choice (log 59). -/
def Obligations.HalyardEvents : Prop :=
  ∀ (s : State) (c : CoreNo) (t : Team),
    let u := s.core c.val
    let h := u.hal
    let put (h' : Halyard) : State := s.setCore c.val { u with hal := h' }
    let word (blk rep status : Nat) : Word := BitVec.ofNat 64 (blk + rep % 2 ^ 24 * 2 ^ 20 + status * 2 ^ 44)
    u.teams.find? (fun t => t.hal) = some t →
    ((h.st = .run ∨ h.st = .wait) → h.cur = none → h.failed = false → (∀ p ∈ h.rel, s.outstanding p.1 p.2 = false) →
      let faults : Halyard := if h.cq.length < 8 then
          { h with st := .fault, fst := 0x09, cq := h.cq ++ [word h.blk.toNat h.ridx.toNat 9], fill := none, failed := false }
        else { h with st := .fault, fst := 0x09, bad := some (word h.blk.toNat h.ridx.toNat 9), fill := none, failed := false }
      let b := BitVec.ofNat 512 (Memory.rdN u.spad (t.spadBase + h.blk.toNat) 64)
      ((t.spadSize < h.blk.toNat + 64 ∨ h.blk.toNat % 64 ≠ 0) → exec (.halyardBlockBegin c) s = .next (put faults)) ∧
      (h.blk.toNat + 64 ≤ t.spadSize → h.blk.toNat % 64 = 0 → s.errs = [] →
        (∀ k < 16, s.allUsable ⟨c.val, false, t.spadBase + h.blk.toNat + 4 * k⟩ 4 = true ∧
          s.poisoned ⟨c.val, false, t.spadBase + h.blk.toNat + 4 * k⟩ = false) →
        (hblockBad b = true → exec (.halyardBlockBegin c) s = .next (put faults)) ∧
        (hblockBad b = false → exec (.halyardBlockBegin c) s = .next (put { h with cur := some b, fill := none })))) ∧
    (∀ blk, h.cur = some blk → (h.st = .run ∨ h.st = .wait) →
      let b := hblockOf blk
      let f := blockOf blk
      let r := h.ridx.toNat
      let eng := if b.eng = 0 then u.eng0 else u.eng1
      (r ≤ b.rep → b.cons = true → h.taken = false → h.cr = 0 →
        exec (.halyardPush c) s = .next (put { h with st := .wait })) ∧
      (b.rep < r → b.last = true → h.sent = [] → exec (.halyardPush c) s = .next (put { h with st := .idle, cur := none })) ∧
      (b.rep < r → b.last = false →
        exec (.halyardPush c) s = .next (put { h with blk := BitVec.ofNat 20 b.next, ridx := 0, cur := none })) ∧
      (r ≤ b.rep → (b.cons = true → h.cr ≠ 0) → h.taken = false → (eng.filter (fun k => k.x.isNone)).length < 4 →
        (eng.filter (fun k => k.st ≠ .ended)).length < 32 → h.cq.length < 8 →
        ∃ s' cmd, exec (.halyardPush c) s = .next s' ∧
          (if b.eng = 0 then (s'.core c.val).eng0 else (s'.core c.val).eng1) = eng ++ [cmd] ∧
          cmd.x = none ∧ cmd.task = t.task ∧ cmd.kind = BitVec.ofNat 4 b.kind ∧ cmd.st = .queued ∧ cmd.prog = 0 ∧ cmd.after = h.rel ∧
          cmd.hid = s.nextOp ∧
          cmd.blk.toNat / 2 ^ 128 = blk.toNat / 2 ^ 128 % 2 ^ 256 ∧
          cmd.blk.setWidth 64 = BitVec.ofInt 64 ((f.saddr : Int) + r * b.sinc) + (if f.ssp = 2 then h.hbase else 0) ∧
          cmd.blk.extractLsb' 64 64 = BitVec.ofInt 64 ((f.daddr : Int) +
            ((if b.dwrap = 0 then r else r % (b.dwrap + 1) : Nat) : Int) * b.dinc) + (if f.dsp = 2 then h.hbase else 0) ∧
          (s'.core c.val).hal = { h with
            ridx := h.ridx + 1, taken := false, cr := if b.cons then h.cr - 1 else h.cr, st := if b.cons then .run else h.st
            sent := h.sent ++ [⟨s.nextOp, h.blk.toNat, r, decide (b.post = 2 ∨ b.post = 1 ∧ r = b.rep), none⟩] })) ∧
    (∀ k, h.sent = [k] → h.bad = none →
      (k.status = some 0 → k.post = true → h.cq.length < 8 →
        exec (.halyardCompletion c) s = .next (put { h with sent := [], cq := h.cq ++ [word k.blk k.rep 0] })) ∧
      (∀ v, k.status = some v → v ≠ 0 → h.st ≠ .fault →
        exec (.halyardFault c) s = .next (put { h with
          sent := [], st := .fault, bad := some (word k.blk k.rep v.toNat) }))) ∧
    (∀ w, h.sent = [] → h.bad = some w → h.cq.length < 8 →
      exec (.halyardCompletion c) s = .next (put { h with cq := h.cq ++ [w], bad := none, fst := w.extractLsb' 44 8 })) ∧
    (h.st = .stopping → h.taken = false → (∀ k ∈ u.eng0 ++ u.eng1, k.x ≠ none) →
      exec (.halyardStopComplete c) s = .next (put { h with st := .idle, cur := none }))

/-! ## Energy, power and clocks -/

/-- R150 to R152, R155, R157, R159, R160, R403: a DRAM transfer debits its island and charges its task; at a boundary each island
gets its grant, limited by MAX, each core island runs at the largest operating point that its residents ask for, and a limit
below what they need (the table's for EFFCAP, a temperature's, a breach's, a faulted rail's) is announced, with THROTTLE raised in every
context of each resident task that it binds. HOLD and the tasks are stated for an interval in which no energy was measured. Which of CAP
and CHASSIS is the cause, and the table that gives each island's ceiling for a cap (Config.ceilTable), are the model's choices (log 46),
and so is the exact grant of an island with a fixed share (log 47). -/
def Obligations.GovernorEvents : Prop :=
  ∀ (s : State),
    let sat (h : Int) : Int := max (-2147483648) (min h 2147483647)
    (∀ (i : IslandNo), let k := s.island i.val
      let au := (SMap.get (0 : BitVec 16) s.dcost (if i.val < 128 then k.op.toNat else 0)).toNat + k.rem
      let paid := s.setIsland i.val { k with
        hold := sat (k.hold - (au / 256 : Nat)), joule := k.joule + BitVec.ofNat 64 (au / 256), rem := au % 256 }
      exec (.memoryDebit i none) s = .next paid ∧
      ∀ t, exec (.memoryDebit i (some t)) s = .next { paid with
        tasks := s.tasks.map (fun k => if k.id = t then
          { k with joule := k.joule + BitVec.ofNat 64 (au / 256), debits := k.debits + au / 256 } else k) }) ∧
    (∀ (gi : GovInput), s.newTabs = [] →
      let want (i : Nat) : Nat := let f := (s.island i).gfloor
        if 192 ≤ i ∨ (i < 128 ∧ s.mgmt.cfence.getLsbD i = true) then f
        else max f (((gi.asked.find? (fun p => p.1 = i)).map (·.2)).getD f)
      let cap := max s.mgmt.mincap.toNat (min (if s.mgmt.chen then min s.mgmt.modcap.toNat s.mgmt.chshare.toNat
        else s.mgmt.modcap.toNat) s.mgmt.peakcap.toNat)
      let on (c : Nat) : List Task := (s.core c).teams.filterMap (fun u => s.task? u.task)
      let most (l : List Nat) : Nat := l.foldl max 0
      let floor (c : Nat) : Nat := most ((on c).map (fun t => (SMap.get (0 : Word) s.tct t.tcon.toNat).toNat / 2 ^ 24 % 2 ^ 3))
      let target (c : Nat) : Nat := most ((on c).map (fun t => (SMap.get (0 : Word) s.ecls t.eclass.toNat).toNat / 2 ^ 48 % 2 ^ 3))
      let calm (c : Nat) : Prop := ∀ w ∈ on c, let p := (SMap.get (0 : Word) s.tct w.tcon.toNat).toNat % 2 ^ 24
        p = 0 ∨ (gi.energy c).au ≤ p
      let full : Prop := BitVec.ofNat 16 cap = s.mgmt.peakcap
      ((List.range 196).map want).foldl (· + ·) 0 ≤ cap % 2 ^ 16 * 2 ^ 30 / 100000 →
      ∃ t, exec (.governorBoundary gi) s = .next t ∧ t.gint = s.gint + 1 ∧ t.mgmt.effcap = BitVec.ofNat 16 cap ∧
        (∀ i < 196, (t.island i).grant = want i) ∧
        (gi.measured = [] → t.tasks = s.tasks.map (fun k => { k with debits := 0 }) ∧
          ∀ i < 196, (t.island i).hold = sat (min (sat (s.island i).hold + want i) (s.island i).max)) ∧
        let warned (c k : Nat) : Prop := ∀ u ∈ (s.core c).teams, ∀ w, s.task? u.task = some w →
          k < (SMap.get (0 : Word) s.tct w.tcon.toNat).toNat / 2 ^ 24 % 2 ^ 3 →
          ∀ p < w.ncores, ∀ v, (s.core (w.base + p)).team? w.id = some v →
            ∀ x ∈ v.ctxNos, (s.ctx x).st ≠ .empty → (t.ctx x).throttle = true
        (∀ c < 128, s.mgmt.railflt.getLsbD (c / 16) = true → s.mgmt.railNew.getLsbD (c / 16) = true →
          (t.island c).apend = true ∧ (t.island c).aop = 0 ∧ (t.island c).acause = 5 ∧ (t.island c).aint = s.gint + 1 ∧ warned c 0) ∧
        (s.mgmt.railflt = 0 → s.mgmt.railNew = 0 →
          (gi.temp = [] → full → ∀ c < 128, calm c →
            (t.island c).op = BitVec.ofNat 3 (max (target c) (floor c)) ∧ (t.island c).apend = false) ∧
          (∀ c k cause, c < 128 → k < floor c →
            (gi.temp = [] ∧ calm c ∧ ¬full ∧ k = (Config.ceilTable (cap % 2 ^ 16) c).toNat ∧
                cause = (if s.mgmt.chen = true ∧ s.mgmt.chshare.toNat < s.mgmt.modcap.toNat then 2 else 1) ∨
              gi.temp = [(c, k)] ∧ calm c ∧ full ∧ cause = 3 ∨
              gi.temp = [] ∧ gi.breach = [(c, k)] ∧ ¬calm c ∧ full ∧ cause = 4) →
            (s.island c).apend = false → s.mgmt.kann ≠ 0 → (s.gint + 1).toNat + s.mgmt.kann.toNat < 2 ^ 64 →
            (t.island c).apend = true ∧ (t.island c).aop = BitVec.ofNat 3 k ∧ (t.island c).acause = BitVec.ofNat 4 cause ∧
              (t.island c).aint = s.gint + 1 + s.mgmt.kann.setWidth 64 ∧ (t.island c).op = BitVec.ofNat 3 (floor c) ∧ warned c k)))

/-- The events of clocks, rails and feeds. R399: a raise completes by a hop of at most 80 hub cycles. R400, R401: a droop is counted
and begins an episode; at its end a stretched period that has outlasted an unstretched one ends. R402: DRPCNT clears when it is read.
R396: a rail fault sets RAILFLT and drops its 16 islands to OP0. R395: the module goes on with one feed, loses its volatile state with both,
opens the switch of a feed that is too high, and closes it again. R402, R404: MODCAP, RAILFLT and FEEDFLT. The model's choices: loss of
power leaves what reset leaves (log 34); the clock's gate in a hop, and the edges before a stretch, 2 or, in a hop, 1 (log 49);
railNew, which says that a fault is not yet announced (log 100). -/
def Obligations.PowerEvents : Prop :=
  ∀ (s : State),
    (∀ (c : CoreNo), let u := s.core c.val
      (∀ op, u.clk.hop = some op → (s.island c.val).op = op → ∃ g ≤ 80, exec (.opHopComplete c) s = .next
        (State.setCore { s with freeCtr := s.freeCtr + 1 } c.val { u with clk := { u.clk with op := op, hop := none, gate := g } })) ∧
      (u.clk.stretch = false → exec (.droopTrip c) s = .next (s.setCore c.val { u with clk := { u.clk with
        drpcnt := u.clk.drpcnt + 1, stretch := true, lead := if u.clk.gate = 0 then 2 else 1 } })) ∧
      exec (.stretchEnd c) s = .next (s.setCore c.val { u with clk := { u.clk with
        stretch := false, lead := 0, phase := min u.clk.phase 39 } }) ∧
      exec (.drpcntRead c) s = .next { (s.setCore c.val { u with clk := { u.clk with drpcnt := 0 } }) with
        outbox := s.outbox ++ [.regRead (u.clk.drpcnt.setWidth 64)] }) ∧
    (∀ (g : Fin 8), let bit := BitVec.ofNat 8 (2 ^ g.val)
      ∃ t, ∃ w ≤ 80, exec (.railFault g) s = .next t ∧
      t.mgmt = { s.mgmt with railflt := s.mgmt.railflt ||| bit, railNew := s.mgmt.railNew ||| bit } ∧
      ∀ c, (c / 16 = g.val → t.island c = { s.island c with op := 0, ceil := 0 } ∧ let k := (s.core c).clk
          t.core c = { s.core c with clk := { k with op := 0, hop := none, gate := if k.op = 0 then k.gate else w } }) ∧
        (c / 16 ≠ g.val → t.island c = s.island c ∧ t.core c = s.core c)) ∧
    (let off (t : State) : Prop := t.feeds.down = true ∧ t.ctxs = [] ∧ t.cores = [] ∧ t.dram = [] ∧ t.tasks = [] ∧ t.hostMem = s.hostMem
     let one := Config.singleFeed
     let ok (f : Fin 2) (v : Bool) : Feeds := if f = 0 then { s.feeds with okA := v } else { s.feeds with okB := v }
     let sw (k : Feeds) (f : Fin 2) (v : Bool) : Feeds := if f = 0 then { k with swA := v } else { k with swB := v }
     (s.feeds.down = false → ∃ t, exec .feedLoss s = .next t ∧ off t) ∧
     (∀ f : Fin 2, s.feeds.down = false → ∃ t, exec (.feedOutOfRange f) s = .next t ∧
       (one = false → t = { s with
         feeds := ok f false, mgmt := { s.mgmt with feedflt := s.mgmt.feedflt ||| BitVec.ofNat 2 (2 ^ f.val) }
         outbox := s.outbox ++ [.report 1] }) ∧
       (one = true → f = 0 → off t) ∧ (one = true → f = 1 → t = s)) ∧
     (∀ f : Fin 2, s.feeds.down = false → ∃ t, exec (.feedOvervoltage f) s = .next t ∧
       ((if f = 0 then s.feeds.swB else s.feeds.swA) = true → one = false →
         t = { s with feeds := sw (ok f false) f false }) ∧
       ((if f = 0 then s.feeds.swB else s.feeds.swA) = false → one = false → off t)) ∧
     (∀ f : Fin 2, (if f = 0 then s.feeds.okA else s.feeds.okB) = true → ∃ t, exec (.feedSwitchClose f) s = .next t ∧
       (one = false ∨ f = 0 → t = { s with feeds := sw s.feeds f true }) ∧ (one = true → f = 1 → t = s)) ∧
     (∀ f : Fin 2, ∃ t, exec (.feedReturn f) s = .next t ∧
       (one = false ∨ f = 0 → t = { s with feeds := ok f true }) ∧ (one = true → f = 1 → t = s))) ∧
    (∀ v : Word,
      exec (.modcapWrite v) s = .next { s with mgmt := { s.mgmt with modcap := v.setWidth 16 } } ∧
      exec (.railfltClear v) s = .next { s with mgmt := { s.mgmt with
        railflt := s.mgmt.railflt &&& ~~~(v.extractLsb' 2 8), feedflt := s.mgmt.feedflt &&& ~~~(v.setWidth 2) } })

/-! ## Links, the chassis, fences, checkpoints -/

/-- R6, R44, R156, R405, R406, R408 to R411, R414, R420, R423, R425: flits, credits and markers; a round of arbitration with no
peer heard, from the message that the module sent for it, and messages in rounds whose numbers wrap (the message's lateness is log 48's,
the count's origin log 102's choice); the fabric's reads, writes and atomics at their home, once its slice serves them, and the poisoned
answer beyond DRAM (log 69's choice); core fences; errors of one and of two bits, logged (what has no core or address keeps the last
one's, and a pass finds them, log 71), the granule poisoned or the value kept, and the fence of a core with more than CETHR corrected ones
in 24 h; limits and writes of registers under their field types (the numbers of the register spaces are log 32's choice). -/
def Obligations.LinkAndModuleEvents : Prop :=
  ∀ (s : State), let m := s.mgmt
    (∀ (l : Fin 8) (vc : Fin 4) (f : VReg), let p := 4 * l.val + vc.val
      let q := s.link p
      ((q.rx.filterMap id).length < 64 → exec (.flitArrival l vc f) s = .next (s.setLink p { q with rx := q.rx ++ [some f] })) ∧
      (64 ≤ (q.rx.filterMap id).length → exec (.flitArrival l vc f) s = .next s) ∧
      exec (.creditReturn l vc) s = .next (s.setLink p { q with credits := min 64 (q.credits + 1) }) ∧
      exec (.checkpointMarker l vc) s = .next (s.setLink p { q with rx := q.rx ++ [none] })) ∧
    (m.chen = true → m.chmemb = 0 →
      let next := (Config.roundBase + s.now / 200000) % 2 ^ 32
      let n := (next + 2 ^ 32 - 1) % 2 ^ 32
      let regs (k : Nat) : ArbMsg := ⟨k, Config.modnum.toNat, m.chbud.toNat, m.mincap.toNat, m.peakcap.toNat, Config.demand k, m.fallback.toNat⟩
      let mine : ArbMsg := match (s.peer Config.modnum.toNat).last with
        | some a => if a.round = n then a else regs n
        | none => regs n
      let share := if (s.peer Config.modnum.toNat).missing + 1 < 4 then
          (if mine.chbud < mine.mincap then mine.mincap else mine.mincap +
            min (min (mine.demand - mine.mincap) (mine.peakcap - mine.mincap)) (mine.chbud - mine.mincap))
        else mine.fallback
      mine.modnum = Config.modnum.toNat → ∃ t, exec .arbitrationRound s = .next t ∧
        t.mgmt = { m with chround := BitVec.ofNat 32 n, chshare := BitVec.ofNat 16 share } ∧
        t.outbox = s.outbox ++ [.arb (regs next)] ∧ (t.peer Config.modnum.toNat).last = some (regs next)) ∧
    (∀ a : ArbMsg, m.chen = true → a.modnum < 4 → m.chmemb.getLsbD a.modnum = true → ∃ t, exec (.arbitrationMessage a) s = .next t ∧
      (a.modnum ≠ Config.modnum.toNat → let now := (Config.roundBase + s.now / 200000) % 2 ^ 32
        let p := s.peer a.modnum
        let later (x y : Nat) : Bool := (x + 2 ^ 32 - y) % 2 ^ 32 ≠ 0 && decide ((x + 2 ^ 32 - y) % 2 ^ 32 < 2 ^ 31)
        t = s.setPeer a.modnum (if a.round = now then { p with last := some a, fresh := true }
          else if later a.round now then { p with ahead := some a }
          else if p.last.any (fun l => !later a.round l.round) then p else { p with last := some a })) ∧
      (a.modnum = Config.modnum.toNat → t = s)) ∧
    (∀ q : FabricReq, q.target = Config.modnum.toNat → q.off + q.n ≤ 0x9000000000 →
      (s.waits ≠ [] ∨ ∃ k < (q.off % 64 + q.n + 63) / 64, let line := q.off / 64 + k
        s.sliceBusy (homeSlice (s.hostAttr (64 * line)) (64 * line)) = true) →
      exec (.fabricRequest q) s = .next { s with waits := s.waits ++ [.fabric q] }) ∧
    (∀ q : FabricReq, s.owners = [] → s.errs = [] → (q.n = 4 ∨ q.n = 8) → s.waits = [] →
      (∀ k < (q.off % 64 + q.n + 63) / 64, let line := q.off / 64 + k
        s.sliceBusy (homeSlice (s.hostAttr (64 * line)) (64 * line)) = false) →
      (∀ b, s.mon.table = some b → q.off + q.n ≤ b ∨ b + 1048576 ≤ q.off) → ∃ t, exec (.fabricRequest q) s = .next t ∧
      (q.target = Config.modnum.toNat → 0x9000000000 < q.off + q.n → t = { s with outbox := s.outbox ++ [.fabric [] true] }) ∧
      (q.target = Config.modnum.toNat → q.off + q.n ≤ 0x9000000000 →
        let x := Memory.rdN s.dram q.off q.n
        let y := q.data.toNat % 2 ^ (8 * q.n)
        let sg (k : Nat) : Int := (BitVec.ofNat (8 * q.n) k).toInt
        let new : Nat := match q.func with
          | 0 => (x + y) % 2 ^ (8 * q.n)
          | 1 => x &&& y
          | 2 => x ||| y
          | 3 => x ^^^ y
          | 4 => if sg y < sg x then y else x
          | 5 => if sg x < sg y then y else x
          | 6 => min x y
          | 7 => max x y
          | 8 => y
          | 9 => if x = q.exp.toNat % 2 ^ (8 * q.n) then y else x
          | _ => (fp32AddR x y).code
        let line := q.off / 64
        let snooped := s.outbox ++ if s.hostCached.contains line then [Msg.backInvalidate line] else []
        (q.kind = 1 → t.dram = Memory.wrN s.dram q.off q.data.toNat q.n ∧ t.outbox = snooped ++ [.fabric [] false]) ∧
        (q.kind ≠ 1 → s.physBad q.off q.n = true → t.dram = s.dram ∧ t.outbox = s.outbox ++ [.fabric [] true]) ∧
        (q.kind ≠ 1 → s.physBad q.off q.n = false →
          t.outbox = (if q.kind = 0 ∨ (q.func = 9 ∧ x ≠ q.exp.toNat % 2 ^ (8 * q.n)) then s.outbox else snooped) ++ [.fabric (Memory.bytes s.dram q.off q.n) false] ∧
          (q.kind = 0 → t.dram = s.dram) ∧
          (q.kind ≠ 0 → ∀ k, Memory.rd t.dram k = Memory.rd (Memory.wrN s.dram q.off new q.n) k)))) ∧
    (∀ v : BitVec 128, ∃ t, exec (.cfenceWrite v) s = .next t ∧ t.mgmt = { m with cfence := v } ∧
      ∀ c < 128, v.getLsbD c = true → m.cfence.getLsbD c = false → ∀ u ∈ (s.core c).teams, ∀ w, s.task? u.task = some w →
        w.id ∈ t.evac ∧ (w.st = .running → ∃ w', t.task? w.id = some w' ∧ w'.st = .stopping)) ∧
    (∀ c : CoreNo, ∃ t, exec (.sharedParityError c) s = .next t ∧ t.mgmt.cfence.getLsbD c.val = true ∧
      ∀ u ∈ (s.core c.val).teams, ∀ w, s.task? u.task = some w → t.task? w.id = none) ∧
    (let logged (d : Bool) (store : BitVec 4) : Mgmt := { m with
       cecnt := if d then m.cecnt else if m.cecnt.toNat < 65535 then m.cecnt + 1 else m.cecnt
       uecnt := if d then (if m.uecnt.toNat < 65535 then m.uecnt + 1 else m.uecnt) else m.uecnt, lstore := store }
     (∀ (c : CoreNo) (g : Nat), 8 * g + 8 ≤ 1048576 →
       (∃ t, exec .scrubPass { s with errs := [⟨.spad c g, true⟩] } = .next t ∧
         t.mgmt = { logged true 1 with lcore := BitVec.ofNat 7 c.val } ∧ g ∈ (t.core c.val).spadPoison ∧
         { t.core c.val with spadPoison := (s.core c.val).spadPoison } = s.core c.val) ∧
       (∃ t, exec .scrubPass { s with errs := [⟨.spad c g, false⟩] } = .next t ∧ t.core c.val = s.core c.val ∧
         (m.cfence = 0 → let l := SMap.get [] s.ceTimes c.val
           (l.length < m.cethr → t.mgmt = { logged false 1 with lcore := BitVec.ofNat 7 c.val }) ∧
           (m.cethr ≤ l.length → (∀ k ∈ l, s.now < k + 172800000000000) → t.mgmt = { logged false 1 with
             lcore := BitVec.ofNat 7 c.val, cfence := BitVec.ofNat 128 (2 ^ c.val) })))) ∧
     (∀ g : Nat, 8 * g + 8 ≤ 0x9000000000 → s.now % 172800000000000 = 0 →
       (∃ t, exec .scrubPass { s with errs := [⟨.dram g, true⟩] } = .next t ∧ t.mgmt = { logged true 5 with laddr := BitVec.ofNat 52 (8 * g) } ∧
         t.physBad (8 * g) 8 = true ∧ t.dram = s.dram) ∧
       exec .scrubPass { s with errs := [⟨.dram g, false⟩] } = .next { s with
         errs := [], mgmt := { logged false 5 with laddr := BitVec.ofNat 52 (8 * g) } })) ∧
    exec .hubFatalError s = .next { s with fatal := true, mgmt := { m with lstore := 6 } } ∧
    exec .errlogRead s = .next { s with
      mgmt := { m with cecnt := 0, uecnt := 0 }
      outbox := s.outbox ++ [.regRead (BitVec.ofNat 64 (m.cecnt.toNat + m.uecnt.toNat * 2 ^ 16 + m.lstore.toNat * 2 ^ 32 +
        m.lcore.toNat * 2 ^ 36))] } ∧
    (∀ rh corr : BitVec 8,
      ((m.rhlim.toNat < rh.toNat ∨ m.corlim.toNat < corr.toNat) → exec (.envLimitExceeded rh corr) s = .next { s with
        mgmt := { m with rh := rh, corr := corr, envw := true }, outbox := s.outbox ++ [.report 2] }) ∧
      (rh.toNat ≤ m.rhlim.toNat → corr.toNat ≤ m.corlim.toNat → exec (.envLimitExceeded rh corr) s = .next { s with
        mgmt := { m with rh := rh, corr := corr } })) ∧
    (∀ v : Word,
      (2 ^ m.wlog.toNat < (m.wtail - v.setWidth 32).toNat → exec (.wheadWrite v) s = .next s) ∧
      ((m.wtail - v.setWidth 32).toNat ≤ 2 ^ m.wlog.toNat →
        exec (.wheadWrite v) s = .next { s with mgmt := { m with whead := v.setWidth 32 } }) ∧
      (let asked := v.extractLsb' 4 4 &&& m.fmask
       exec (.unfence v) s = .next { s with mgmt := { m with unfence := m.unfence ||| asked, retrain := m.retrain ||| asked } }) ∧
      (s.host.rten = false → exec (.registerWrite 0 0x10 v) s = .next { s with host := { s.host with rtbase := v.extractLsb' 14 34 } }) ∧
      (s.host.rten = true → exec (.registerWrite 0 0x10 v) s = .next s) ∧
      (m.wrec = 0 → exec (.registerWrite 1 0x578 v) s = .next { s with mgmt := { m with
        wbase := v.extractLsb' 6 46, wlog := v.extractLsb' 56 5 } }) ∧
      (∀ k : SupNo, exec (.registerWrite (2 + k.val) 0x28 v) s = .next (s.setSup k.val { s.sup k.val with smbox := v })) ∧
      (∀ i < 196, exec (.registerWrite 21 i v) s = .next (s.setIsland i { s.island i with max := v.toNat % 2 ^ 31 })))

/-- R412 to R417, R419, R421, R422: heartbeats, silence, fences and their roll-back, to the checkpoint's tasks and links; a
checkpoint begins, also while an earlier one is being taken, which it abandons, is mirrored to the next buddy when its buddy is fenced, is
reported and committed, or abandoned. A re-admitted module is heard once its links have retrained. The module's own number is a strap
(log 18): what depends on it stands as an implication. That a module fenced by a notice sends notices too, and that a re-admitted peer's
heartbeat clears ISOL, is log 69's; that COMMIT carries NOMIR, and that links retrain at a free moment, log 68's choice. -/
def Obligations.ChassisEvents : Prop :=
  ∀ (s : State), let m := s.mgmt
    let other (k : Nat) : Prop := k ≠ Config.modnum.toNat
    (m.chen = true → s.fatal = false → exec .heartbeatSend s =
      .next { s with outbox := s.outbox ++ [.heartbeat Config.modnum.toNat m.ckcommit] }) ∧
    (∀ (k : Fin 4) (ck : BitVec 32), m.chen = true → m.chmemb.getLsbD k.val = true → ∃ t, exec (.heartbeatReceive k ck) s = .next t ∧
      ((m.fmask.getLsbD k.val = false ∨ (m.unfence.getLsbD k.val = true ∧ m.retrain.getLsbD k.val = false)) → other k.val →
        t.peer k.val = { s.peer k.val with silent := 0, ck := ck } ∧ t.mgmt.fmask.getLsbD k.val = false ∧
        t.mgmt.unfence.getLsbD k.val = false ∧ t.mgmt.isol = false ∧ ∀ j, j ≠ k.val → t.peer j = s.peer j) ∧
      (m.fmask.getLsbD k.val = true → (m.unfence.getLsbD k.val = false ∨ m.retrain.getLsbD k.val = true) → t = s)) ∧
    (∀ (k : Fin 4), m.chen = true → m.chmemb.getLsbD k.val = true → m.fmask.getLsbD k.val = false → s.tasks = [] →
      let fenced (i : Instr) : Prop := ∃ t, exec i s = .next t ∧ (other k.val →
        t.mgmt.fmask = (m.fmask ||| BitVec.ofNat 4 (2 ^ k.val)) ∧ t.outbox = s.outbox ++ [.fenceNotice k.val] ∧
        ((∀ r, s.ckRun = some r → r.written = false) → t.ckRun = none) ∧
        (s.ckpts = [] → t.dram = s.dram ∧ t.tasks = []) ∧
        ∀ c, s.ckpts = [c] → t.mgmt.ckcommit = c.n → t.saves = s.saves ++ c.saves ∧
          t.tasks = c.tasks.map (fun w => { w with
            st := if w.st = .stopping ∨ w.st = .running then .saved else w.st, credit := [], doneParts := [], supStop := false }) ∧
          ∀ p fl n, c.flits = [(p, fl)] → c.credits = [(p, n)] → (t.link p).rx = fl ∧ (t.link p).tx = [] ∧ (t.link p).credits = n)
      fenced (.fenceNotice k) ∧
      (10000000 ≤ (s.peer k.val).silent → fenced (.heartbeatTimeout k)) ∧
      ((s.peer k.val).silent < 10000000 → exec (.heartbeatTimeout k) s = .next s)) ∧
    (m.chen = true → s.tasks = [] → s.ckpts = [] → (∀ k < 4, 10000000 ≤ (s.peer k).silent) → ∃ t, exec .isolation s = .next t ∧
      ((∃ k < 4, m.chmemb.getLsbD k = true ∧ other k) → t.mgmt.isol = true ∧
        ∀ k < 4, m.chmemb.getLsbD k = true → other k → t.mgmt.fmask.getLsbD k = true)) ∧
    (let run (n : BitVec 32) : CkRun := ⟨n, s.ckTable.1, s.ckTable.2, [], false, s.buddy, false⟩
     (m.chen = false → m.ckper ≠ 0 → s.ckRun = none → exec .checkpointPeriod s = .next { s with
       mgmt := { m with cknum := m.cknum + 1 }, ckGone := false, ckRun := some (run (m.cknum + 1))
       outbox := s.outbox ++ [.ckBegin (m.cknum + 1)] }) ∧
     (∀ r, m.chen = false → m.ckper ≠ 0 → s.ckRun = some r → ∃ t r', exec .checkpointPeriod s = .next t ∧ t.ckRun = some r' ∧
       r'.n = m.cknum + 1 ∧ r'.stopped = [] ∧ r'.written = false ∧ t.mgmt.cknum = m.cknum + 1 ∧
       t.outbox = s.outbox ++ [.ckBegin (m.cknum + 1)]) ∧
     (∀ n, s.ckRun = none → exec (.begin n) s = .next { s with
       mgmt := { m with cknum := n }, ckGone := false, ckRun := some (run n) })) ∧
    (∀ n r, s.ckRun = some r → r.n = n → r.written = false → (∃ w ∈ s.tasks, m.ckropes.getLsbD w.rope.val = true ∧ w.st = .running) →
      ∃ t, exec (.begin n) s = .next t ∧
        ∀ w ∈ s.tasks, m.ckropes.getLsbD w.rope.val = true → w.st = .running →
          { w with st := .stopping } ∈ t.tasks ∧ ∃ r', t.ckRun = some r' ∧ w.id ∈ r'.stopped) ∧
    (∀ (k : Fin 4) (n : BitVec 32) (nomir : Bool), ∃ t, exec (.done k n nomir) s = .next t ∧
      t.peer k.val = { s.peer k.val with done := some (n, nomir) } ∧
      (m.chen = false → k.val = Config.modnum.toNat → n = m.cknum → s.ckGone = false → m.ckcommit ≠ n →
        t.mgmt.ckcommit = n ∧ ∃ w : BitVec 4, (∀ j < 4, (w.getLsbD j = true ↔ (t.peer j).done = some (n, true))) ∧
          t.mgmt.nomir = w ∧ t.outbox = s.outbox ++ [.ckCommit n w])) ∧
    (∀ (k : Fin 4) (n : BitVec 32), m.chen = false →
      (n = m.cknum → exec (.fail k n) s = .next { s with ckGone := true }) ∧
      (n ≠ m.cknum → exec (.fail k n) s = .next s)) ∧
    (∀ (n : BitVec 32) (w : BitVec 4), exec (.commit ⟨n, w⟩) s = .next { s with mgmt := { m with ckcommit := n, nomir := w } }) ∧
    (∀ n r b, s.ckRun = some r → r.n = n → r.written = true → r.buddy = some b → m.chen = true → m.fmask.getLsbD b = true →
      s.buddy = none → exec (.begin n) s = .next { s with ckRun := some { r with buddy := none } }) ∧
    (∀ n r b, s.ckRun = some r → r.n = n → r.written = true → r.buddy = some b → m.fmask.getLsbD b = false → r.stopped = [] →
      m.chen = true → s.coordinator ≠ Config.modnum.toNat → exec (.begin n) s = .next (State.send
        (State.setPeer { s with ckRun := none } Config.modnum.toNat
          { s.peer Config.modnum.toNat with done := some (n, false) }) (.ckDone n false)))

/-! ## Records, answers and queues at the host and the supervisors -/

/-- R348, R349, R357 to R361, R371, R384: fault and trap records go to their queues, in order, while there is room; the queue
registers take what is written; a push reads its descriptor or overflows; an ATS invalidation becomes shootdowns; an answer that
the route permits frees its FID, and the waiters walk again or have their permanent outcome; ATS completions and page-request
responses. That a cached entry covers at least 4 KiB and takes the answer's W is the model's choice (log 65), and so is that waiters
without an identifier of their own are told by the address and walk again (log 66). -/
def Obligations.HostQueueEvents : Prop :=
  ∀ (s : State), s.owners = [] → s.errs = [] →
    let h := s.host
    let word (f : FaultRec) : Nat := f.fid % 2 ^ 16 + f.kind.toNat * 2 ^ 16 + (if f.wr then 2 ^ 20 else 0) +
      (if f.fwd then 2 ^ 21 else 0) + (if f.final then 2 ^ 22 else 0) + f.asid.toNat * 2 ^ 32 + f.claim.toNat * 2 ^ 48 +
      f.src.toNat * 2 ^ 56 + f.va % 2 ^ 48 * 2 ^ 64 + (if f.src = 4 ∨ f.src = 5 then 0 else f.core % 128) * 2 ^ 112
    (∀ f rest pa a, s.fqwait = f :: rest → h.fqen = true → s.xlate 128 0
        (h.fqbase.toNat * 4096 + 16 * (h.fqtail.toNat % 2 ^ (h.fqlog.toNat + 8))) true = .ok pa a → pa + 16 ≤ 0x9000000000 →
      ApartFromTable s pa →
      ((h.fqtail - h.fqhead).toNat = 2 ^ (h.fqlog.toNat + 8) → exec .faultRecordWrite s = .next s) ∧
      ((h.fqtail - h.fqhead).toNat ≠ 2 ^ (h.fqlog.toNat + 8) → ∃ t, exec .faultRecordWrite s = .next t ∧ t.fqwait = rest ∧
        t.host = { h with fqtail := h.fqtail + 1 } ∧ t.dram = Memory.wrN s.dram pa (word f) 16)) ∧
    (∀ (k : SupNo), let u := s.sup k.val
      (∀ f rest, u.fwait = f :: rest →
        ((u.sftail - u.sfhead).toNat = 256 → exec (.supervisorFaultRecordWrite k) s = .next (s.setSup k.val u)) ∧
        ((u.sftail - u.sfhead).toNat ≠ 256 → exec (.supervisorFaultRecordWrite k) s = .next (s.setSup k.val { u with
          sram := Memory.wrN u.sram (u.sfqbase.toNat + 16 * (u.sftail.toNat % 256)) (word f) 16
          sftail := u.sftail + 1, fwait := rest }))) ∧
      (∀ r rest, u.twait = r :: rest →
        (256 ≤ (u.tqtail - u.tqhead).toNat → exec (.trapRecordWrite k) s = .next (s.setSup k.val u)) ∧
        ((u.tqtail - u.tqhead).toNat < 256 → exec (.trapRecordWrite k) s = .next (s.setSup k.val { u with
          sram := Memory.wrN u.sram (u.tqbase.toNat + 32 * (u.tqtail.toNat % 256))
            (r.cls.toNat + r.cause.toNat * 2 ^ 8 + r.partid.toNat * 2 ^ 16 + (if r.bp then 2 ^ 19 else 0) +
              (if r.inh then 2 ^ 20 else 0) + (if r.deferred then 2 ^ 21 else 0) + r.rope.toNat * 2 ^ 24 +
              r.pc.toNat * 2 ^ 32 + r.npc.toNat * 2 ^ 48 + r.faddr.toNat * 2 ^ 64 + r.core.toNat * 2 ^ 128 +
              r.part.toNat * 2 ^ 135 + r.slot.toNat * 2 ^ 137 + r.tctx.toNat * 2 ^ 139 + r.asid.toNat * 2 ^ 144 +
              r.orig.toNat * 2 ^ 160 + r.pcyc.toNat * 2 ^ 192) 32
          tqtail := u.tqtail + 1, twait := rest }))) ∧
      (∀ v : Word, exec (.tqHeadWrite k v) s = .next (s.setSup k.val { u with tqhead := v.setWidth 32 }) ∧
        exec (.sfHeadWrite k v) s = .next (s.setSup k.val { u with sfhead := v.setWidth 32 }))) ∧
    (∀ v : Word, exec (.fqHeadWrite v) s = .next { s with host := { h with fqhead := v.setWidth 32 } } ∧
      exec (.quiesce v) s = .next { s with mgmt := { s.mgmt with quiesce := v.getLsbD 0 } } ∧
      (let bad : Bool := v.getLsbD 0 && !h.rten && decide (0x9000000000 < h.rtbase.toNat * 16384 + 16384)
       exec (.rtEnable v) s = .next { s with host := { h with
         rten := v.getLsbD 0 && !bad, rterr := bad || (h.rterr && !v.getLsbD 1) } })) ∧
    (∀ v : Word, let used := (s.mq.filter (fun m => m.orig.pushed)).length
      let p := v.extractLsb' 5 43
      (16 ≤ used → exec (.mqPush v) s = .next { s with host := { h with mqpush := p, mqovf := true } }) ∧
      (∀ pa a, used < 16 → s.xlate 128 0 (p.toNat * 32) false = .ok pa a → pa + 32 ≤ 0x9000000000 →
        ∃ t, exec (.mqPush v) s = .next t ∧ t.host = { h with mqpush := p } ∧ t.dram = s.dram ∧
          t.mq = s.mq ++ [⟨some (BitVec.ofNat 256 (Memory.rdN s.dram pa 32)), .host (p.toNat * 32)⟩]) ∧
      ∀ (k : SupNo), let u := s.sup k.val
        let q := v.extractLsb' 5 27
        (16 ≤ used → ∃ t, exec (.smqPush k v) s = .next t ∧ t.sup k.val = { u with smqpush := q, smqovf := true } ∧
          { t with sups := s.sups } = s) ∧
        (used < 16 → exec (.smqPush k v) s = .next { (s.setSup k.val { u with smqpush := q }) with
          mq := s.mq ++ [⟨some (BitVec.ofNat 256 (Memory.rdN u.sram (q.toNat * 32) 32)), .sup k.val (q.toNat * 32)⟩] })) ∧
    (∀ (pasid : BitVec 20) (va npg : Nat),
      ((npg = 0 ∨ ∀ e ∈ s.asids, e.2.v = true → e.2.pasid ≠ pasid) →
        exec (.atsInvalidation pasid va npg) s = .next { s with outbox := s.outbox ++ [.atsInvalidated pasid] }) ∧
      (∀ k e, s.asids.filter (fun e => e.2.v && decide (e.2.pasid = pasid)) = [(k, e)] → k < 2 ^ 16 → va < 2 ^ 64 →
        0 < npg → npg ≤ 2 ^ 36 → exec (.atsInvalidation pasid va npg) s = .next { s with mq := s.mq ++
          [⟨some (BitVec.ofNat 256 (1 + k * 2 ^ 32 + va / 4096 * 4096 * 2 ^ 64 + npg * 2 ^ 128)), .ats pasid true⟩] })) ∧
    (∀ (fid : BitVec 16) (res : BitVec 2),
      let h' : HostRegs := { h with rfid := fid, rres := res }
      let mine (f : FaultRec) : Prop := let r := SMap.get (0 : BitVec 2) h.route f.claim.toNat
        r.getLsbD 0 = true ∧ (r.getLsbD 1 = true → f.fwd = true)
      (s.fids.find? (fun g => g.fid = fid.toNat) = none → exec (.faultAnswer fid res) s = .next { s with host := h' }) ∧
      ∀ f, s.fids.find? (fun g => g.fid = fid.toNat) = some f →
        ((¬mine f ∨ 2 ≤ res.toNat) → exec (.faultAnswer fid res) s = .next { s with host := h' }) ∧
        (mine f → res = 0 → ∃ t, exec (.faultAnswer fid res) s = .next t ∧ t.host = h' ∧
          t.fids = s.fids.filter (fun g => g.fid ≠ f.fid) ∧
          t.ops = s.ops.map (fun o => if o.fid = some f.fid then { o with fid := none } else o) ∧
          t.hubWaits = s.hubWaits.filter (fun w => w.fid ≠ some f.fid) ∧
          ∀ c, let again (l : List CopyCmd) := l.map (fun k => if k.fid = some f.fid then { k with fid := none } else k)
            (t.core c).eng0 = again (s.core c).eng0 ∧ (t.core c).eng1 = again (s.core c).eng1) ∧
        (mine f → res = 1 → ∃ t, exec (.faultAnswer fid res) s = .next t ∧ t.host = h' ∧
          t.fids = s.fids.filter (fun g => g.fid ≠ f.fid) ∧
          (∀ o ∈ s.ops, (o.fid = some f.fid → { o with fid := none, perm := true } ∈ t.ops) ∧
            (o.fid ≠ some f.fid → o.fid ≠ none → o ∈ t.ops)) ∧
          (∀ w ∈ s.hubWaits, w.fid = some f.fid → { w with perm := true } ∈ t.hubWaits) ∧
          ∀ c, ∀ k ∈ (s.core c).eng0, k.fid = some f.fid → { k with fid := none, bad := some 4 } ∈ (t.core c).eng0)) ∧
    (∀ (asid : BitVec 16) (va : Nat) (q : AtsReq) (leaf l : Nat),
      s.ats.find? (fun q => q.asid = asid && q.page = va / 4096) = some q → s.walk q.asid (q.page * 4096) = .ats leaf l →
      let s' : State := { s with ats := s.ats.erase q }
      let e := s.asid q.asid
      let addr := leaf / 2 ^ 12 % 2 ^ 40 * 2 ^ 12 + q.page * 4096 % 2 ^ (12 + 9 * l)
      (∀ p bits w, (q.w = true → w = true) →
        let r := max 12 (min bits 48)
        let b := min (12 + 9 * l) r
        ∃ t, exec (.atsCompletion asid va (.page p bits) w) s = .next t ∧ t.ats = s.ats.erase q ∧
          t.tcache.head? = some ⟨32, q.asid, q.page * 4096 / 2 ^ b, BitVec.ofNat 128 (5 + (if leaf.testBit 3 then 8 else 0) +
            (if w then 16 else 0) + (p % 2 ^ 48 / 2 ^ r * 2 ^ r + addr % 2 ^ r) / 2 ^ b * 2 ^ b + 2 ^ 51 + leaf / 2 ^ 64 % 2 ^ 24 * 2 ^ 64), b⟩) ∧
      (∀ ans w, (ans = .absent ∨ (∃ p bits, ans = .page p bits) ∧ w = false ∧ q.w = true) →
        (e.prien = true → h.priOff = false → s.prgs.length < 256 → exec (.atsCompletion asid va ans w) s = .next { s' with
          prgs := s.prgs ++ [(s.nextPrg, q)], nextPrg := s.nextPrg + 1
          outbox := s.outbox ++ [.pageRequest s.nextPrg e.pasid addr] }) ∧
        ((e.prien = false ∨ h.priOff = true ∨ 256 ≤ s.prgs.length) → ∀ n t,
          s'.faultAt 1 q.asid (q.page * 4096) q.w q.claim 6 q.core = (.wait n, t) →
          exec (.atsCompletion asid va ans w) s = .next t)) ∧
      (∀ w, SMap.get (0 : BitVec 2) h.route q.claim.toNat = 1 → ∃ t, exec (.atsCompletion asid va .refused w) s = .next t ∧
        t.ats = s.ats.erase q ∧ t.fqwait = s.fqwait ++ [⟨0, 3, q.w, false, true, q.asid, q.claim, 6, q.page * 4096, q.core⟩] ∧
        ∀ o ∈ s.ops, s.opWaits ⟨q.asid, q.page, q.w⟩ none o = true → { o with fid := none, perm := true } ∈ t.ops)) ∧
    (∀ (n : Nat) (code : Fin 3) (q : AtsReq), s.prgs.find? (fun p => p.1 = n) = some (n, q) →
      let left := s.prgs.filter (fun p => p.1 ≠ n)
      (code = 0 → exec (.pageRequestResponse n code) s = .next { s with prgs := left }) ∧
      (code ≠ 0 → SMap.get (0 : BitVec 2) h.route q.claim.toNat = 1 →
        ∃ t, exec (.pageRequestResponse n code) s = .next t ∧ t.prgs = left ∧
          t.host = { h with priOff := h.priOff || decide (code = 2) } ∧
          t.fqwait = s.fqwait ++ [⟨0, 3, q.w, false, true, q.asid, q.claim, 6, q.page * 4096, q.core⟩] ∧
          ∀ o ∈ s.ops, s.opWaits ⟨q.asid, q.page, q.w⟩ none o = true → { o with fid := none, perm := true } ∈ t.ops))

/-- R362, R363, R365, R371: a descriptor entered by a supervisor or by the host with an invalid field is INVALID, also where the host may
not manage its ASID: R362 gives no order, and INVALID before DENIED is the model's choice (log 62); a valid one of the host for an ASID that
it may not manage is DENIED; a SHOOT drops the pins, the copies and the cached translations of its range; a FLIP writes BIAS into
its leaf, drops the copies and the translations of its page, and, on the way to DEV, the host's copies. These clauses take bights
without DIRTY words, no fill in flight and no copy command; after a FLIPD of a page of which the host has cached a line, that line's
contents are the host's, and the clause on DRAM and the bights leaves it out. -/
def Obligations.MaintenanceEvents : Prop :=
  ∀ (s : State) (d : BitVec 256),
    let op := d.toNat % 16
    let asid : BitVec 16 := d.extractLsb' 32 16
    let va := d.toNat / 2 ^ 64 % 2 ^ 64
    let npg := d.toNat / 2 ^ 128 % 2 ^ 36
    let bad : Prop := op = 0 ∨ 3 < op ∨ d.extractLsb' 4 28 ≠ 0 ∨ d.extractLsb' 48 16 ≠ 0 ∨ d.extractLsb' 164 28 ≠ 0 ∨
      d.extractLsb' 200 56 ≠ 0 ∨ npg = 0
    let row (op : Nat) : Instr := if op = 1 then .shoot else if op = 2 then .fliph else .flipd
    s.owners = [] → s.errs = [] → (∀ k v, ∀ e ∈ (s.core k).sides v, e.2.dirty = false) → (∀ o ∈ s.ops, ∀ n, o.kind ≠ .fill n) →
    (∀ (k : SupNo) (addr : Nat), s.mq = [⟨some d, .sup k.val addr⟩] →
      let told (t : State) (st : Nat) : Prop := t.mq = [] ∧
        t.sup k.val = { s.sup k.val with sram := Memory.wrN (s.sup k.val).sram (addr + 24) st 1 }
      (bad → ∃ t, exec .maintenanceDescriptorInvalid s = .next t ∧ told t 3 ∧ t.dram = s.dram ∧ t.pins = s.pins ∧
        t.tcache = s.tcache) ∧
      (¬bad → (∀ e ∈ s.cores, e.2.eng0 = [] ∧ e.2.eng1 = []) →
        (op = 1 → ∃ t, exec .shoot s = .next t ∧ told t 1 ∧ t.dram = s.dram ∧
          (let hit (a : Nat) : Prop := va / 4096 ≤ a / 4096 ∧ a / 4096 < va / 4096 + npg
           (∀ p, p ∈ t.pins ↔ p ∈ s.pins ∧ ¬(p.asid = asid ∧ hit p.va)) ∧
           (∀ e, e ∈ t.tcache ↔ e ∈ s.tcache ∧
             ¬(e.asid = asid ∧ e.page * (2 ^ e.bits / 4096) < va / 4096 + npg ∧ va / 4096 < (e.page + 1) * (2 ^ e.bits / 4096))) ∧
           ∀ c v w m, (s.core c).mapOf v w = some m → s.taskAsid m.task = asid → hit m.va →
             (SMap.get Side.none ((t.core c).sides v) w).valid = false)) ∧
        ((op = 2 ∨ op = 3) → s.flipPage d = none → ∃ t, exec (row op) s = .next t ∧ told t 3 ∧ t.dram = s.dram) ∧
        (∀ base size at_ leaf, (op = 2 ∨ op = 3) → s.flipPage d = some (base, size, at_, leaf) → at_ + 16 ≤ 0x9000000000 →
          ApartFromTable s at_ →
          (leaf.testBit 66 = decide (op = 2) → ∃ t, exec (row op) s = .next t ∧ told t 1 ∧ t.dram = s.dram) ∧
          (leaf.testBit 66 = decide (op = 3) → ∃ t, exec (row op) s = .next t ∧ told t 1 ∧
            (∀ p ∈ t.pins, ¬(base ≤ 64 * p.line ∧ 64 * p.line < base + size)) ∧
            (op = 3 → ∀ l ∈ t.hostCached, ¬(base ≤ 64 * l ∧ 64 * l < base + size)) ∧
            (∀ e ∈ t.tcache, ¬(entryPage e.entry.toNat < base + size ∧
              base < entryPage e.entry.toNat + 2 ^ e.bits)) ∧
            ((op = 2 ∨ ∀ l ∈ s.hostCached, ¬(base ≤ 64 * l ∧ 64 * l < base + size)) →
              t.dram = Memory.wrN s.dram at_ (if op = 2 then leaf + 2 ^ 66 else leaf - 2 ^ 66) 16 ∧
              ∀ c v w m pa a, (s.core c).mapOf v w = some m → s.lookOld c (s.taskAsid m.task) m.va false = .ok pa a →
                base ≤ pa → pa < base + size → (SMap.get Side.none ((t.core c).sides v) w).valid = false))))) ∧
    (∀ v pa a, s.mq = [⟨some d, .host v⟩] → s.look 128 0 (v + 24) true = .ok pa a → pa < 0x9000000000 →
      ApartFromTable s pa →
      (bad → ∃ t, exec .maintenanceDescriptorInvalid s = .next t ∧ t.mq = [] ∧ t.dram = Memory.wrN s.dram pa 3 1) ∧
      (¬bad → (s.asid asid).hmgd = false → ∃ t, exec (row op) s = .next t ∧ t.mq = [] ∧
        t.dram = Memory.wrN s.dram pa 2 1 ∧ t.pins = s.pins))

/-! ## Supervisor commands -/

/-- R357, R373, R375, R377, R378, R380, R391: what each supervisor command does when no other is in progress, and that one for a
core of another supervisor, or in a state that the table does not name, ends with STATE and changes nothing; a word of a space is
read back. The saves are those of a task of one team without pending work. WITHDRAW also ends a stop that waits for a task's load; a
RESTORE whose area holds a poisoned granule ends with MEM. The model's choices: FANS ignores CORE, and a STOP during a load is kept
in supStop (log 63); TERM drops write-backs that have not begun (log 43); a word that no structure holds reads 0, and the matrix
entry table stands first in a core's queues, two entries to a word (log 30). -/
def Obligations.SupervisorCommands : Prop :=
  ∀ (s : State) (k : SupNo) (w : Word), let u := s.sup k.val
    let core := w.toNat / 2 ^ 4 % 2 ^ 7
    let x : CtxNo := ctxOf (16 * core + w.toNat / 2 ^ 11 % 2 ^ 4)
    let arg := w.toNat / 2 ^ 16 % 2 ^ 16
    let page := w.toNat / 2 ^ 32
    let c := s.ctx x
    let kept := w &&& 0xFFFFFFFFFFFF7FFF
    let ends (t : State) (st : BitVec 7) : Prop :=
      t.sup k.val = { u with scmd := kept, scur := kept, sbusy := false, sstat := st, stask := none } ∧ ∀ j, j ≠ k.val → t.sup j = s.sup j
    let refuses (i : Instr) (st : BitVec 7) : Prop := ∃ t, exec i s = .next t ∧ ends t st ∧ { t with sups := s.sups } = s
    let code (n : Nat) : Prop := w.toNat % 2 ^ 4 = n
    u.spoll = false → u.sbusy = false → u.scq = [] →
    (core / 8 ≠ k.val →
      (code 1 → refuses (.resume k w) 1) ∧ (code 2 → refuses (.wreg k w) 1) ∧ (code 3 → refuses (.stop k w) 1) ∧
      (code 4 → refuses (.withdraw k w) 1) ∧ (code 5 → refuses (.dsave k w) 1) ∧ (code 6 → refuses (.fsave k w) 1) ∧
      (code 7 → refuses (.restore k w) 1) ∧ (code 8 → refuses (.term k w) 1)) ∧
    (core / 8 = k.val →
      (code 1 → (c.st ≠ .trapped → refuses (.resume k w) 1) ∧
        (c.st = .trapped → c.ending = false → ∃ t, exec (.resume k w) s = .next t ∧ ends t 0 ∧
          t.ctx x = { c with st := .ready, dcount := 0, release := true } ∧ ∀ y, y ≠ x → t.ctx y = s.ctx y)) ∧
      (code 2 → (c.st ≠ .trapped → refuses (.wreg k w) 1) ∧
        (c.st = .trapped → let one : Prop := arg < 0x40 ∨ 0x300 ≤ arg ∧ arg < 0x308 ∨ 0x400 ≤ arg ∧ arg < 0x40D
          (¬one → refuses (.wreg k w) 2) ∧
          (one →
            ∃ t, exec (.wreg k w) s = .next t ∧ ends t 0 ∧ (∀ y, y ≠ x → t.ctx y = s.ctx y) ∧ t.parts = s.parts ∧
              let c' := t.ctx x
              (∀ n : BitVec 6, c'.rs n = if arg = n.toNat ∧ n ≠ 0 then u.smbox else c.rs n) ∧
              (∀ n : BitVec 3, c'.rb n = if arg = 0x300 + n.toNat then u.smbox.setWidth 13 else c.rb n) ∧
              (arg = 0x401 → c' = { c with dbg := u.smbox.getLsbD 17 }) ∧
              (arg = 0x402 → c' = { c with pc := u.smbox &&& 0x1FFF }) ∧
              (arg = 0x403 → c' = { c with npc := u.smbox &&& 0x1FFF }) ∧
              { c' with s := c.s, b := c.b, astat := c.astat, dbg := c.dbg, pc := c.pc, npc := c.npc, vrb := c.vrb, prb := c.prb
                        lc0 := c.lc0, lc1 := c.lc1, ec := c.ec, utv := c.utv, splim := c.splim, limit := c.limit
                        dcount := c.dcount, rpar := c.rpar } = c ∧
              (arg < 0x400 → { c' with s := c.s, b := c.b, rpar := c.rpar } = c) ∧
              (arg = 0x400 → c'.astat.setWidth 5 = u.smbox.setWidth 5 ∧ { c' with astat := c.astat, rpar := c.rpar } = c) ∧
              (arg = 0x404 → { c' with rpar := c.rpar } = { c with vrb := u.smbox.setWidth 5 }) ∧
              (arg = 0x405 → { c' with rpar := c.rpar } = { c with prb := u.smbox.setWidth 6 }) ∧
              (arg = 0x406 → { c' with rpar := c.rpar } = { c with lc0 := u.smbox.setWidth 32 }) ∧
              (arg = 0x407 → { c' with rpar := c.rpar } = { c with lc1 := u.smbox.setWidth 32 }) ∧
              (arg = 0x408 → { c' with rpar := c.rpar } = { c with ec := u.smbox.setWidth 16 }) ∧
              (arg = 0x409 → { c' with rpar := c.rpar } = { c with utv := u.smbox.setWidth 14 }) ∧
              (arg = 0x40A → c' = { c with splim := u.smbox }) ∧
              (arg = 0x40B → c' = { c with limit := u.smbox.setWidth 24 }) ∧
              (arg = 0x40C → c' = { c with dcount := u.smbox.setWidth 24 })))) ∧
      (∀ t0, c.st ≠ .empty → s.task? c.task = some t0 →
        (code 3 → ((t0.st ≠ .running ∧ t0.st ≠ .stopping ∧ t0.st ≠ .loading ∧ t0.st ≠ .saving ∧ t0.st ≠ .switching) →
            refuses (.stop k w) 1) ∧
          (t0.st = .loading → ∃ t, exec (.stop k w) s = .next t ∧ ends t 0 ∧
            t.tasks = s.tasks.map (fun v => if v.id = t0.id then { v with supStop := true } else v)) ∧
          ((t0.st = .saving ∨ t0.st = .switching) → refuses (.stop k w) 0) ∧
          ((t0.st = .running ∨ t0.st = .stopping) → ∃ t, exec (.stop k w) s = .next t ∧ ends t 0 ∧
            t.tasks = s.tasks.map (fun v => if v.id = t0.id then { v with st := .stopping, supStop := true } else v))) ∧
        (code 4 → (t0.st ≠ .stopping → (t0.st ≠ .loading ∨ t0.supStop = false ∧ ∀ p ∈ s.preempt, t0.id ∉ p.victims) →
            refuses (.withdraw k w) 1) ∧
          (t0.st = .loading → t0.supStop = true → s.preempt = [] → ∃ t, exec (.withdraw k w) s = .next t ∧ ends t 0 ∧
            t.tasks = s.tasks.map (fun v => if v.id = t0.id then { v with supStop := false } else v)) ∧
          (t0.st = .stopping → t0.sw = none → s.preempt = [] → SMap.wf Ctx.none s.ctxs = true → (∀ e ∈ s.ctxs, e.1 < 2048) →
            ∃ t, exec (.withdraw k w) s = .next t ∧ ends t 0 ∧ t.saves = s.saves ∧
              t.tasks = s.tasks.map (fun v => if v.id = t0.id then { v with st := .running, supStop := false } else v) ∧
              ∀ y, t.ctx y = if (s.ctx y).task = t0.id ∧ (s.ctx y).st = .stopped then { s.ctx y with st := .ready } else s.ctx y)) ∧
        (∀ team, t0.base = core → t0.ncores = 1 → t0.sw = none → t0.credit = [] → t0.doneParts = [] →
          (s.core core).team? t0.id = some team → team.core = core → team.hal = false → team.mtx = false → team.bights = [] →
          s.owners = [] → s.errs = [] → s.ops = [] → s.liveCmds core t0.id = [] → team.ctxNos.Nodup →
          (∀ y ∈ team.ctxNos, (s.ctx y).flight = [] ∧ (s.ctx y).held = [] ∧ (s.ctx y).heldU = [] ∧ (s.ctx y).stq = []) →
          let size := 0xC6000 + team.spadSize + team.vaultSize + 80 * (s.engineImage team).length
          let saved (i : Instr) (frozen : Bool) : Prop := ∃ t b, exec i s = .next t ∧ ends t 0 ∧ b ∈ t.saves ∧ b.page = page ∧
            b.task = t0.id ∧ b.frozen = frozen ∧ b.pos = team.pos ∧ b.team = team ∧
            b.ctxs = team.ctxNos.map (fun y => (team.ctxNos.idxOf y, s.ctx y)) ∧
            b.pcycs = team.parts.map (fun p => (s.part (4 * core + p)).pcyc) ∧
            b.runs = team.parts.map (fun p => s.runningSlot (4 * core + p)) ∧
            b.spad = Memory.window (s.core core).spad team.spadBase team.spadSize ∧
            (t.core core).team? t0.id = none ∧ (∀ y ∈ team.ctxNos, t.ctx y = Ctx.none) ∧
            (∃ v, t.task? t0.id = some v ∧ v.st = .saved) ∧ page ∈ t.mon.saveAreas
          let stopped : Prop := ∀ y ∈ team.ctxNos, (s.ctx y).atStop = true ∧ (s.part (ctxPartNo y)).frozen = false
          (code 5 → ((t0.st ≠ .stopping ∧ t0.st ≠ .saving) → refuses (.dsave k w) 1) ∧
            (t0.st = .stopping → stopped → page * 4096 + size ≤ 0x9000000000 → saved (.dsave k w) false) ∧
            (t0.st = .stopping → stopped → 0x9000000000 < page * 4096 + size → refuses (.dsave k w) 3)) ∧
          (code 6 → (t0.st = .running ∨ t0.st = .stopping) →
            ((∀ y ∈ team.ctxNos, (s.part (ctxPartNo y)).frozen = false ∧ (s.ctx y).st ≠ .trapped) → refuses (.fsave k w) 1) ∧
            ((∃ y ∈ team.ctxNos, (s.ctx y).st = .trapped) → (∀ y ∈ team.ctxNos, (s.ctx y).atStop = true ∨ (s.ctx y).st = .trapped) →
              page * 4096 + size ≤ 0x9000000000 → saved (.fsave k w) true))) ∧
        (code 8 → t0.ncores = 1 → t0.base = core → t0.credit = [] → (t0.st = .running ∨ t0.st = .stopping) → s.preempt = [] →
          let r := t0.rope.val
          s.owners = [] → s.errs = [] → (s.ropeOf r).badNext = none → (∀ f ∈ (s.ropeOf r).fetched, f.bad = none) →
          ∃ t, exec (.term k w) s = .next t ∧ ends t 0 ∧ t.task? t0.id = none ∧ (t.core core).team? t0.id = none ∧
            (∀ a, (a < s.host.rtbase.toNat * 16384 + 64 * r ∨ s.host.rtbase.toNat * 16384 + 64 * r + 64 ≤ a) →
              Memory.rd t.dram a = Memory.rd s.dram a) ∧ t.pins = s.pins ∧ (∀ o ∈ t.ops, ¬(o.task = t0.id ∧ o.core = core)) ∧
            (∀ team, (s.core core).team? t0.id = some team → team.core = core → ∀ y ∈ team.ctxNos, t.ctx y = Ctx.none) ∧
            ∃ e, (SMap.get [] t.retlog r).getLast? = some e ∧ e.recAddr = t0.recAddr ∧ e.joule = t0.joule ∧ e.status = 1 ∧
              e.tclass = BitVec.ofNat 8 arg)) ∧
      (code 7 → (s.granted core = none → refuses (.restore k w) 1) ∧
        ∀ t0 team, s.granted core = some (t0, team) →
          (page ∉ s.mon.saveAreas → refuses (.restore k w) 3) ∧
          (∀ v g, v ∈ s.saves → v.page = page → v.task = t0.id → s.errs = [] → g ∈ s.poison → 4096 * page < 8 * g + 8 →
            8 * g < 4096 * page + (0xC6000 + v.team.spadSize + v.team.vaultSize +
              80 * (v.cmds.filter (fun p => p.2.st ≠ .ended)).length) → refuses (.restore k w) 3) ∧
          (∀ v, v ∈ s.saves → v.page = page → v.task = t0.id → v.pos = team.pos → page ∈ s.mon.saveAreas →
            s.errs = [] → s.poison = [] → s.mon.supsHeld = false → s.task? t0.id = some t0 → team.pos < t0.ncores → t0.base + team.pos = core →
            (s.core core).team? t0.id = some team → team.armed = true →
            (∀ p < t0.ncores, ∃ w, (s.core (t0.base + p)).team? t0.id = some w ∧ w.armed = true) →
            ∃ t, exec (.restore k w) s = .next t ∧ ends t 0 ∧ t.saves = s.saves.filter (fun v => v.task ≠ t0.id) ∧
              t.tasks = s.tasks.map (fun v => if v.id = t0.id then { v with
                st := if v.supStop || s.preempt.any (fun p => p.victims.contains t0.id) then .stopping else .running } else v)))) ∧
    (code 9 →
      let mine (f : FaultRec) : Prop := (SMap.get (0 : BitVec 2) s.host.route f.claim.toNat).getLsbD 1 = true ∧ f.fwd = false ∧
        f.core / 8 = k.val
      (s.fids.find? (fun g => g.fid = arg) = none → refuses (.fans k w) 1) ∧
      ∀ f, s.fids.find? (fun g => g.fid = arg) = some f →
        (¬mine f → refuses (.fans k w) 1) ∧
        (mine f → page % 4 = 0 → ∃ t, exec (.fans k w) s = .next t ∧ ends t 0 ∧ t.fids = s.fids.filter (fun g => g.fid ≠ f.fid) ∧
          t.ops = s.ops.map (fun o => if o.fid = some f.fid then { o with fid := none } else o)) ∧
        (mine f → page % 4 = 1 → ∃ t, exec (.fans k w) s = .next t ∧ ends t 0 ∧
          t.fids = s.fids.filter (fun g => g.fid ≠ f.fid) ∧
          ∀ o ∈ s.ops, o.fid = some f.fid → { o with fid := none, perm := true } ∈ t.ops) ∧
        (mine f → page % 4 = 2 → (SMap.get (0 : BitVec 2) s.host.route f.claim.toNat).getLsbD 0 = true →
          ∃ t, exec (.fans k w) s = .next t ∧ ends t 0 ∧ t.fqwait = s.fqwait ++ [{ f with fwd := true }] ∧
            t.fids = s.fids.map (fun g => if g.fid = f.fid then { g with fwd := true } else g)) ∧
        (mine f → page % 4 = 3 → refuses (.fans k w) 2)) ∧
    (∀ (addr : BitVec 48), let sp := addr.toNat / 2 ^ 40
      let i := addr.toNat / 2 ^ 16 % 2 ^ 24
      let n := addr.toNat / 2 ^ 3 % 2 ^ 13
      ∃ v, exec (.stateReadback addr) s = .next { s with outbox := s.outbox ++ [.readback v] } ∧
        (sp = 5 → i < 128 → n < 32 → let half (k : Nat) : Nat := let e := (s.mtx i).entry k
            (if e.v then 1 else 0) + e.idx.toNat * 2 ^ 1 + e.endx.toNat * 2 ^ 10 + e.wset.toNat * 2 ^ 19
          v = BitVec.ofNat 64 (half (2 * n) + half (2 * n + 1) * 2 ^ 32)) ∧
        (sp = 4 → i < 2048 → let c := s.ctx (ctxOf i)
          (∀ r : BitVec 6, n = r.toNat → v = c.rs r) ∧ (n = 0x488 + 2 → v = c.pc) ∧ (n = 0x496 → v = c.upc)) ∧
        (sp = 6 → i < 196 → n = 0 → v.toNat = (BitVec.ofInt 32 (s.island i).hold).toNat + (s.island i).max % 2 ^ 31 * 2 ^ 32) ∧
        (sp = 0x0B → i < s.mq.length → ∀ d o, s.mq[i]? = some ⟨some d, o⟩ → n < 4 →
          v = BitVec.ofNat 64 (d.toNat / 2 ^ (64 * n))) ∧
        ((sp = 0 ∨ 0x0F < sp ∨ (sp = 1 ∨ sp = 2) ∧ 256 ≤ i ∨ sp = 4 ∧ 2048 ≤ i ∨ sp = 5 ∧ 128 ≤ i ∨ sp = 8 ∧ 192 ≤ i) → v = 0))

/-- R377, R379: the block that DSAVE writes for a stopped team without engines, bights or pending work: the magic, an empty
engine image and the reserved bytes, the registers of each context in TCTX order, and both windows. No byte outside the area
changes. The magic in the first 4 bytes and the places of the fields that R377 only names are the model's choices (logs 44, 99). The
area lies apart from the ASID table, whose bytes a save does not write (R391). -/
def Obligations.SaveAreaBytes : Prop :=
  ∀ (s : State) (k : SupNo) (w : Word) (t0 : Task) (team : Team), let u := s.sup k.val
    let core := w.toNat / 2 ^ 4 % 2 ^ 7
    let a := 4096 * (w.toNat / 2 ^ 32)
    let c := s.ctx (ctxOf (16 * core + w.toNat / 2 ^ 11 % 2 ^ 4))
    let size := 0xC6000 + team.spadSize + team.vaultSize
    u.spoll = false → u.sbusy = false → u.scq = [] → core / 8 = k.val → w.toNat % 2 ^ 4 = 5 → c.st ≠ .empty → s.task? c.task = some t0 →
    t0.st = .stopping → t0.base = core → t0.ncores = 1 → t0.sw = none → t0.credit = [] → t0.doneParts = [] →
    (s.core core).team? t0.id = some team → team.core = core → team.hal = false → team.mtx = false → team.bights = [] →
    s.owners = [] → s.errs = [] → (∀ b, s.mon.table = some b → a + size ≤ b ∨ b + 0x100000 ≤ a) →
    s.ops = [] → s.liveCmds core t0.id = [] → s.engineImage team = [] → team.ctxNos.Nodup →
    team.ctxNos.length ≤ 16 →
    (∀ y ∈ team.ctxNos, (s.ctx y).flight = [] ∧ (s.ctx y).held = [] ∧ (s.ctx y).heldU = [] ∧ (s.ctx y).stq = [] ∧
      (s.ctx y).atStop = true ∧ (s.part (ctxPartNo y)).frozen = false) →
    Memory.wf (s.core core).spad = true → Memory.wf (s.core core).vault = true → a + size ≤ 0x9000000000 →
    ∃ t, exec (.dsave k w) s = .next t ∧
      (∀ p, (p < a ∨ a + size ≤ p) → Memory.rd t.dram p = Memory.rd s.dram p) ∧
      Memory.rdN t.dram a 4 = 0x56454153 ∧ Memory.rdN t.dram (a + 0x8C0) 8 = 0 ∧
      (∀ n, 0x8C8 ≤ n → n < 0x1000 → Memory.rd t.dram (a + n) = 0) ∧
      (∀ j (y : CtxNo), team.ctxNos[j]? = some y → let z := s.ctx y
        let at_ (o n : Nat) : Nat := Memory.rdN t.dram (a + 0x46000 + 0x8000 * j + o) n
        (∀ n : BitVec 6, at_ (8 * n.toNat) 8 = (z.rs n).toNat) ∧
        (∀ n : Fin 64, at_ (0x200 + 128 * n.val) 128 = z.v[n].toNat) ∧
        (∀ n : Fin 128, at_ (0x2200 + 4 * n.val) 4 = (z.rpPhys n).toNat) ∧
        (∀ n : Fin 8, at_ (0x2400 + 8 * n.val) 8 = z.b[n].toNat ∧ at_ (0x24C8 + 8 * n.val) 8 = z.m[n].toNat) ∧
        at_ 0x2440 8 = z.astat.toNat ∧ at_ 0x2450 8 = z.pc.toNat ∧ at_ 0x2458 8 = z.npc.toNat ∧ at_ 0x2460 8 = z.vrb.toNat ∧
        at_ 0x2468 8 = z.prb.toNat ∧ at_ 0x2470 8 = z.lc0.toNat ∧ at_ 0x2478 8 = z.lc1.toNat ∧ at_ 0x2480 8 = z.ec.toNat ∧
        at_ 0x2488 8 = z.utv.toNat ∧ at_ 0x2490 8 = z.splim.toNat ∧ at_ 0x2498 8 = z.limit.toNat ∧ at_ 0x24A0 8 = z.dcount.toNat ∧
        at_ 0x24A8 8 = (s.part (ctxPartNo y)).pcyc % 2 ^ 64 ∧ at_ 0x24B0 8 = z.upc.toNat ∧ at_ 0x24B8 8 = z.unpc.toNat ∧
        at_ 0x24C0 8 = (if z.ubp then 1 else 0) ∧ at_ 0x2508 8 = (z.mstat.toNat % 2 ^ 33 + (s.mtx (ctxCore y)).qcnt y * 2 ^ 33) % 2 ^ 64 ∧ at_ 0x2510 8 = z.ccount.toNat) ∧
      (∀ n < team.spadSize, Memory.rd t.dram (a + 0xC6000 + n) = Memory.rd (s.core core).spad (team.spadBase + n)) ∧
      ∀ n < team.vaultSize, Memory.rd t.dram (a + 0xC6000 + team.spadSize + n) =
        Memory.rd (s.core core).vault (team.vaultBase + n)

/-! ## The trusted monitor -/

/-- R386 to R390, R392, R394, R395: boot needs power and stops at the first image that fails its checks, and measures the others; SPDM
requests are answered as R388 says; a monitor request of the wrong channel, with a reserved bit or with a bad argument is refused, and
otherwise has the effect that R390 gives it; one that comes while another is carried out waits in its order, and so does an update whose
image has no translation yet. The cryptography is a free value (log 17): what depends on it stands as an implication. The response codes
are those of SPDM (log 31). The model's choices: DENIED before ARG, the reserved bits of ARG1, what PMR4 digests, BUSY for a change of
an ASID that is not bound, and the flash slots (log 67); where the ASID table's bytes stand, of which a host that caches the line is
told (log 18). -/
def Obligations.MonitorEvents : Prop :=
  ∀ (s : State), let m := s.mon
    let busy : Prop := ∃ e ∈ s.mq, match e.orig with | .monitor _ _ => True | _ => False
    (∀ (a b c : FwImage) (fuses : BitVec 256), s.feeds.powered = false → ∃ t, exec (.coldReset a b c fuses) s = .next t ∧
      t.mon.boot = .off ∧ t.feeds = { s.feeds with down := true } ∧ t.ctxs = [] ∧ t.tasks = [] ∧ t.cores = [] ∧ t.dram = []) ∧
    (∀ (a b c : FwImage) (fuses : BitVec 256), s.feeds.powered = true → (∀ k : Fin 3, m.flash[k] = Flash.none) →
      let low (i : Nat) : Nat := max (m.counters.getD i 0) (Config.fusedCounter i)
      let ok (i : Nat) (f : FwImage) : Prop := Config.sm2Valid fuses f = true ∧ low i ≤ f.version
      let pmr (f : FwImage) : BitVec 256 := Config.sm3 (natBytes 0 32 ++ natBytes (Config.sm3 f.bytes).toNat 32)
      ∃ t, exec (.coldReset a b c fuses) s = .next t ∧ t.ctxs = [] ∧ t.tasks = [] ∧ t.cores = [] ∧
        (∀ p, (p < Config.asidTable.toNat ∨ Config.asidTable.toNat + 16 ≤ p) → Memory.rd t.dram p = 0) ∧
        t.feeds.down = false ∧ t.mon.keyHash = fuses ∧ (t.mon.pmr)[6] = 0 ∧ (t.mon.pmr)[7] = 0 ∧
        (¬ok 0 a → t.mon.boot = .halted ∧ (t.mon.pmr)[0] = 0) ∧
        (ok 0 a → (t.mon.pmr)[0] = pmr a ∧
          (¬ok 1 b → t.mon.boot = .spdmOnly 1 ∧ (t.mon.pmr)[1] = 0 ∧ t.asids = []) ∧
          (ok 1 b → (t.mon.pmr)[1] = pmr b ∧
            (¬ok 2 c → t.mon.boot = .spdmOnly 2 ∧ (t.mon.pmr)[2] = 0 ∧ t.asids = []) ∧
            (ok 2 c → t.mon.boot = .up ∧ (t.mon.pmr)[2] = pmr c ∧ (t.asid 0).v = true)))) ∧
    (∀ (bus : Bool) (p : List Byte), m.boot = .up → m.queue = [] → m.poll = false → ¬busy →
      let ans (code : Nat) (l : List Byte) : Out := .next { s with outbox := s.outbox ++ [.spdm bus code l] }
      let pmr (n : Fin 8) : List Byte := natBytes (m.pmr[n]).toNat 32
      exec (.getVersion ⟨bus, p⟩) s = ans 4 [0x12, 0x13] ∧ exec (.getCapabilities ⟨bus, p⟩) s = ans 0x61 [] ∧
      (p ∈ [[], [0x1B], [0x1B, 0x12]] → exec (.negotiateAlgorithms ⟨bus, p⟩) s = ans 0x63 [0x1B, 0x12]) ∧
      (p ∉ [[], [0x1B], [0x1B, 0x12]] → exec (.negotiateAlgorithms ⟨bus, p⟩) s = ans 0x7F [7]) ∧
      exec (.getDigests ⟨bus, p⟩) s = ans 1 (natBytes (Config.sm3 Config.certificate).toNat 32) ∧
      exec (.getCertificate ⟨bus, p⟩) s = (if p.headD 0 = 0 then ans 2 Config.certificate else ans 0x7F [7]) ∧
      exec (.challenge ⟨bus, p⟩) s = (if p.headD 0 = 0 then ans 3 (Config.sm2Sign p) else ans 0x7F [7]) ∧
      (∀ n : Fin 8, p.head? = some (BitVec.ofNat 8 (n.val + 1)) → exec (.getMeasurements ⟨bus, p⟩) s = ans 0x60 (pmr n)) ∧
      (p.head? = some 0xFF → exec (.getMeasurements ⟨bus, p⟩) s = ans 0x60 ((List.finRange 8).flatMap pmr)) ∧
      ((p.head? = some 0 ∨ ∃ b, p.head? = some b ∧ 8 < b.toNat ∧ b ≠ 0xFF) → exec (.getMeasurements ⟨bus, p⟩) s = ans 0x7F [7]) ∧
      exec (.unsupportedRequest ⟨bus, p⟩) s = ans 0x7F [7]) ∧
    (∀ (bus : Bool) (p : List Byte), ((m.boot = .off ∨ m.boot = .halted) → exec (.getVersion ⟨bus, p⟩) s = .next s) ∧
      (m.boot = .up → m.poll = false → (busy ∨ m.queue ≠ []) →
        exec (.getVersion ⟨bus, p⟩) s = .next { s with mon := { m with queue := m.queue ++ [.spdm .version ⟨bus, p⟩] } })) ∧
    (∀ (b : BitVec 512), m.boot = .up → m.poll = false → (busy ∨ m.queue ≠ []) → ∀ i ∈ [Instr.bind none b, .unbind none b,
      .root none b, .route none b, .floor none b, .update none b, .query none b, .monitorRequestOtherOp none b],
      exec i s = .next { s with mon := { m with queue := m.queue ++ [.req none b] } }) ∧
    (∀ (b : BitVec 512), m.boot = .up → m.queue = [] → m.poll = false → ¬busy →
      let ans (t : State) (st : Nat) (v : Word) : Out := .next { t with outbox := t.outbox ++ [.monitor st v] }
      let mailed (k : SupNo) (o : Out) (st : Nat) (v : Word) : Prop := ∃ t, o = .next t ∧ { t with sups := s.sups } = s ∧
        t.sup k.val = { s.sup k.val with mblock := b, mbell := false, mresp := BitVec.ofNat 128 (st + v.toNat * 2 ^ 64) } ∧
        ∀ j, j ≠ k.val → t.sup j = s.sup j
      let asid : BitVec 16 := b.extractLsb' 16 16
      let e := s.asid asid
      let x := b.toNat / 2 ^ 64 % 2 ^ 64
      let y := b.toNat / 2 ^ 128 % 2 ^ 64
      let z := b.toNat / 2 ^ 192 % 2 ^ 64
      let rsvd : Prop := b.extractLsb' 8 8 ≠ 0 ∨ b.extractLsb' 32 32 ≠ 0 ∨ b.extractLsb' 256 256 ≠ 0
      let table : Prop := x % 8192 = 0 ∧ x + 8192 ≤ 0x9000000000
      let pol (e : AsidEnt) : AsidEnt := { e with
        pasid := BitVec.ofNat 20 y, claim := BitVec.ofNat 8 (y / 2 ^ 20), hmgd := y.testBit 28, prien := y.testBit 29
        splok := y.testBit 30, hide := y.testBit 31 }
      let word (e : AsidEnt) : Nat := e.v.toNat + e.hmgd.toNat * 2 + e.prien.toNat * 4 + e.splok.toNat * 8 + e.hide.toNat * 16 +
        e.root.toNat * 2 ^ 13 + e.pasid.toNat * 2 ^ 64 + e.claim.toNat * 2 ^ 84
      let entry (tb : Nat) (e : AsidEnt) : State :=
        let here := tb + 16 * asid.toNat
        let line := here / 64
        let s' : State := if here / 2 ^ 48 % 16 = 0 ∧ line ∈ s.hostCached then { s with
          hostCached := s.hostCached.filter (fun l => l ≠ line), outbox := s.outbox ++ [.backInvalidate line] } else s
        { s' with
          asids := SMap.set AsidEnt.none s.asids asid.toNat e, dram := Memory.wrN s.dram here (word e) 16
          poison := s.poison.filter (fun g => !(decide (here ≤ 8 * g) && decide (8 * g + 8 ≤ here + 16))) }
      let put (tb : Nat) (e : AsidEnt) : State := { entry tb e with
        mon := { m with pmr := m.pmr.set 4 (Config.sm3 (natBytes (m.pmr)[4].toNat 32 ++
          natBytes (Config.sm3 (natBytes y 8)).toNat 32)) } }
      let shoots (t : State) (un : Bool) : Out := .next { t with mq := t.mq ++
        [⟨some (BitVec.ofNat 256 (1 + asid.toNat * 2 ^ 32 + 2 ^ 36 * 2 ^ 128)), .monitor none un⟩] }
      (∀ i ∈ [Instr.bind, .unbind, .root, .route, .floor, .update],
        (∀ k, mailed k (exec (i (some k) b) s) 3 0) ∧ (rsvd → exec (i none b) s = ans s 2 0)) ∧
      (rsvd → exec (.query none b) s = ans s 2 0 ∧ ∀ k, mailed k (exec (.query (some k) b) s) 2 0) ∧
      (¬rsvd → exec (.query none b) s = ans s 0 Config.asidTable ∧
        ∀ k, mailed k (exec (.query (some k) b) s) 0 Config.asidTable) ∧
      exec (.monitorRequestOtherOp none b) s = ans s 2 0 ∧
      (∀ k, mailed k (exec (.monitorRequestOtherOp (some k) b) s) 2 0) ∧
      (¬rsvd →
        ((¬table ∨ 2 ^ 32 ≤ y) → exec (.bind none b) s = ans s 2 0) ∧
        (table → y < 2 ^ 32 → e.v = true → exec (.bind none b) s = ans s 1 0) ∧
        (∀ tb, m.table = some tb →
          (table → y < 2 ^ 32 → e.v = false → exec (.bind none b) s =
            ans (put tb (pol { AsidEnt.none with v := true, root := BitVec.ofNat 39 (x / 8192) })) 0 0) ∧
          (y < 2 ^ 32 → e.v = true → exec (.route none b) s = ans (put tb (pol e)) 0 0) ∧
          (table → e.v = true → exec (.root none b) s = shoots (entry tb { e with root := BitVec.ofNat 39 (x / 8192) }) false)) ∧
        (y < 2 ^ 32 → e.v = false → exec (.route none b) s = ans s 1 0) ∧
        (table → e.v = false → exec (.root none b) s = ans s 1 0) ∧
        ((∀ k ∈ s.ropes, k.2.en = false) → (∀ t ∈ s.tasks, t.asid ≠ asid) → exec (.unbind none b) s = shoots s true) ∧
        ((∃ t ∈ s.tasks, t.asid = asid ∧ t.st ≠ .retired) → exec (.unbind none b) s = ans s 1 0) ∧
        (let sum := ((List.range 196).map (fun i => if i = x then y else (s.island i).gfloor)).foldl (· + ·) 0
         let most := s.mgmt.mincap.toNat * 2 ^ 30 / 100000
         ((x < 128 ∨ (192 ≤ x ∧ x < 196)) → sum ≤ most →
           exec (.floor none b) s = ans (s.setIsland x { s.island x with gfloor := y }) 0 0) ∧
         ((x < 128 ∨ (192 ≤ x ∧ x < 196)) → most < sum → exec (.floor none b) s = ans s 2 0) ∧
         (((128 ≤ x ∧ x < 192) ∨ 196 ≤ x) → exec (.floor none b) s = ans s 2 0)) ∧
        (3 ≤ z → exec (.update none b) s = ans s 2 0) ∧
        (∀ p, z < 3 → y = 0 → m.booted.find? (fun p => p.1 = z) = some p → exec (.update none b) s =
          ans { s with mon := { m with counters := m.counters.set z (max (m.counters.getD z 0) p.2) } } 0 0) ∧
        (z < 3 → 0 < y → s.hubWaits = [] → s.xlate 128 0 x false = .hold → ∃ t, exec (.update none b) s = .next t ∧
          t.mon = { m with queue := [.req none b] } ∧ t.outbox = s.outbox ∧ t.dram = s.dram) ∧
        (∀ pa a, z < 3 → 0 < y → x % 64 + y ≤ 64 → s.hubWaits = [] → s.xlate 128 0 x false = .ok pa a →
          s.sliceJustServed (homeSlice a pa) = false → 0x9000000000 < pa + y → s.owners = [] → s.errs = [] →
          ∃ t, exec (.update none b) s = .next t ∧ t.outbox = s.outbox ++ [.monitor 2 0] ∧ t.mon = m) ∧
        (∀ pa a, z < 3 → 0 < y → x % 64 + y ≤ 64 → s.hubWaits = [] → s.xlate 128 0 x false = .ok pa a →
          s.sliceJustServed (homeSlice a pa) = false → pa + y ≤ 0x9000000000 → s.owners = [] → s.errs = [] →
          let l := Memory.bytes s.dram pa y
          let f : FwImage := ⟨l, [], Config.fwVersion l⟩
          let low := max (m.counters.getD z 0) (Config.fusedCounter z)
          ∃ t st, exec (.update none b) s = .next t ∧ t.outbox = s.outbox ++ [.monitor st 0] ∧ t.dram = s.dram ∧
            (Config.sm2Valid m.keyHash f = false → st = 4 ∧ t.mon = m) ∧
            (Config.sm2Valid m.keyHash f = true → Config.fwVersion l < low → st = 5 ∧ t.mon = m) ∧
            (Config.sm2Valid m.keyHash f = true → low ≤ Config.fwVersion l → st = 0 ∧
              ∀ k : Fin 3, t.mon.flash[k] = if k.val ≠ z then m.flash[k]
                else if m.flash[k].active then { m.flash[k] with slot0 := some f, next := true }
                else { m.flash[k] with slot1 := some f, next := true }))))

/-! ## Guards, landing, traps, the step -/

/-- R56: a scalar operation, a scalar memory operation, or a matrix or engine call whose guard is off has no effect at all. -/
def Obligations.GuardedOffDoesNothing : Prop :=
  ∀ (s : State) (i : Instr), guardOf i ≠ 0 → laneWise i = false → s.me.guard0 (guardOf i) = false → exec i s = .next s

/-- R57, R58, R61, R198: a result that is not due, or whose data is still on its way, stays in flight; of two results for one register that land in one cycle or in
different cycles, the register keeps the later landing, and of one cycle the later bundle's, lane by lane for a vector register;
the flags of both accrue. -/
def Obligations.LaterLandingRemains : Prop :=
  ∀ (c : Ctx) (f g : Flight) (v w : VReg) (t : Nat),
    c.flight = [f, g] → f.value = some v → g.value = some w → f.lock = false → g.lock = false → f.dst = g.dst →
    ((t < f.due ∨ f.back ≠ 0) → (t < g.due ∨ g.back ≠ 0) → c.landDue t = c) ∧
    (f.due ≤ t → f.back = 0 → t < g.due → (c.landDue t).flight = [g] ∧
      (∀ n, f.dst = .s n → n ≠ 0 → (c.landDue t).s[n] = v.setWidth 64) ∧
      ∀ n, f.dst = .v n → ∀ i < 32, ((c.landDue t).v[n]).extractLsb' (32 * i) 32 =
        if f.lanes.getLsbD i then v.extractLsb' (32 * i) 32 else (c.v[n]).extractLsb' (32 * i) 32) ∧
    (f.due ≤ t → g.due ≤ t → f.back = 0 → g.back = 0 →
      let first := if f.due ≤ g.due then (f, v) else (g, w)
      let last := if f.due ≤ g.due then (g, w) else (f, v)
      (c.landDue t).flight = [] ∧
      (∀ n, f.dst = .s n → n ≠ 0 → (c.landDue t).s[n] = last.2.setWidth 64 ∧
        ∀ m, m ≠ n → (c.landDue t).s[m] = c.s[m]) ∧
      (∀ n, f.dst = .v n → (∀ i < 32, ((c.landDue t).v[n]).extractLsb' (32 * i) 32 =
          if last.1.lanes.getLsbD i then last.2.extractLsb' (32 * i) 32
          else if first.1.lanes.getLsbD i then first.2.extractLsb' (32 * i) 32 else (c.v[n]).extractLsb' (32 * i) 32) ∧
        ∀ m, m ≠ n → (c.landDue t).v[m] = c.v[m]) ∧
      (f.dst ≠ .astat → (c.landDue t).astat = c.astat ||| f.flags.setWidth 32 ||| g.flags.setWidth 32))

/-- R368, R370, R371: taking a supervisor trap: the context is TRAPPED with its results held by what remains of their latency, its
registers, PC, NPC and BP stay, the record goes to the trap queue of the supervisor of its group, or waits while the queue is
full, and no other context, nor memory, nor any other supervisor changes. -/
def Obligations.TrapEntry : Prop :=
  ∀ (s : State) (x : CtxNo) (i : TrapInfo) (orig : Option Word),
    let c := s.ctx x
    let t := (s.part (x.val / 4)).pcyc
    let k := x.val / 16 / 8
    let u := s.sup k
    let task := s.task? c.task
    let r : TrapRec :=
      { cls := i.cls, cause := i.cause, partid := i.part, bp := c.bp, inh := c.inh, deferred := orig.isSome
        rope := BitVec.ofNat 8 (match task with | some w => w.rope.val | none => 0), pc := c.pc.setWidth 13
        npc := c.npc.setWidth 13, faddr := i.faddr, core := BitVec.ofNat 7 (x.val / 16), part := BitVec.ofNat 2 (x.val / 4)
        slot := BitVec.ofNat 2 x.val, tctx := c.tctx, asid := match task with | some w => w.asid | none => 0
        orig := (match orig with | some a => a | none => c.pc).setWidth 13, pcyc := BitVec.ofNat 64 t }
    let s' := s.takeTrap x i orig
    s'.ctx x = { c with
      st := .trapped, flight := [], held := c.held ++ c.flight.map (fun f => { f with due := f.due - t }), release := false } ∧
    (∀ y, y ≠ x → s'.ctx y = s.ctx y) ∧ (∀ j, j ≠ k → s'.sup j = s.sup j) ∧ s'.dram = s.dram ∧ s'.cores = s.cores ∧
    s'.parts = s.parts ∧ s'.tasks = s.tasks ∧ s'.ops = s.ops ∧
    (u.twait = [] → (u.tqtail - u.tqhead).toNat < 256 → s'.sup k = { u with
      sram := Memory.wrN u.sram (u.tqbase.toNat + 32 * (u.tqtail.toNat % 256)) r.word 32, tqtail := u.tqtail + 1 }) ∧
    (256 ≤ (u.tqtail - u.tqhead).toNat → s'.sup k = { u with twait := u.twait ++ [r] })

/-- A step runs what waits. An outside event, unless the module without power or held in reset does not take it (R386, R395), comes before
the agents (log 77); then the event of the one agent whose turn it is (log 78); the decoded word of a running routine; or, for a partition
that is awake and not frozen, the bundle of its running context: what fetching it raises traps (R174, R367); two operations of one
destination trap with DEST (R50, R173); a register with a pending result traps with EARLY in debug mode (R59); a bundle that cannot issue
stalls its context (R47, R48); a late load of an interlocked image freezes the partition (R61, R317); a parity error traps (R367); the
first operation that faults traps, none having had its effect (R369); else each operation runs in slot order and PC, NPC and BP advance.
R47: when a context leaves the issue slot, the next READY one in ascending slot order runs; when none runs, the first READY one after the
place kept. Results of a context that goes on land with those due (log 76). -/
def Obligations.StepRunsDecodedInstruction : Prop :=
  ∀ (s : State),
    (∀ i r, s.inputs = i :: r → (s.hears i = true → step s = exec i { s with inputs := r }) ∧
      (s.hears i = false → step s = .next { s with inputs := r })) ∧
    (s.inputs = [] → s.todo = [] → step s = .next s.hubTick) ∧
    (∀ i r, s.inputs = [] → s.todo = .ev i :: r → step s = exec i { s with todo := r }) ∧
    (∀ c r run a b d e f i, s.inputs = [] → s.todo = .mtx c :: r →
      let s1 := State.loads { s with todo := r } c.val
      s1.runOf c.val = some run → run.wait = 0 → run.ended = false → run.cmd.kind = .call a b d e f →
      s1.stepsSpent c.val = none → decodeRoutine (SMap.get 0 (s1.mtx c.val).rs run.w) = some i →
      step s = exec i { s1 with issue := { s1.issue with x := run.cmd.x } }) ∧
    (∀ (q : PartNo), let y (k : Nat) : CtxNo := Fin.ofNat 2048 (4 * q.val + k % 4)
      let runs (z : State) (k : Nat) : State := z.setCtx (y k) { z.ctx (y k) with st := .running }
      let first (z : State) (k j : Nat) : Prop := j < 4 ∧ (z.ctx (y (k + j))).st = .ready ∧ ∀ i < j, (z.ctx (y (k + i))).st ≠ .ready
      ((∃ k < 4, (s.ctx (y k)).st = .running) → s.select q.val = s) ∧
      ((∀ k < 4, (s.ctx (y k)).st ≠ .running) → let k := (s.part q.val).last.toNat + 1
        (∀ j, first s k j → s.select q.val = runs s (k + j)) ∧
        ((∀ j < 4, (s.ctx (y j)).st ≠ .ready) → s.select q.val = s)) ∧
      ∀ k : Fin 4, let p := s.part q.val
        let s' := s.setPart q.val { p with last := BitVec.ofNat 2 k.val, ran := BitVec.ofNat 2 k.val }
        (∀ j, first s (k.val + 1) j → s.leave (y k.val) = runs s' (k.val + 1 + j)) ∧
        ((∀ j < 4, (s.ctx (y j)).st ≠ .ready) → s.leave (y k.val) = s'.setPart q.val { p with last := 3, ran := BitVec.ofNat 2 k.val })) ∧
    (∀ q r x, s.inputs = [] → s.todo = .part q :: r →
      let s0 : State := { s with todo := r }
      let s1 := s0.arrive q.val
      let post := s1.prepare q.val none
      let pre := s1.prepare q.val (some x)
      let c0 := post.ctx x
      s0.asleep q.val = false → s0.keptFrozen q.val = false → s1.frozenAt q.val = false → s1.errs = [] →
      (partCtxs q.val).find? (fun y => (post.ctx y).st = .running) = some x →
      c0.swt = none → c0.deferred = [] → c0.atLimit = false → c0.throttle = false →
      let same (z : State) : State := z.modCtx x (fun c => c)
      let u := (same (if c0.release then pre else post)).tentative x
      let c := u.ctx x
      let t := u.cycleOf x
      let ended (z : State) : State := (z.leave x).endCycle (x.val / 4)
      let traps (i : TrapInfo) : Prop := step s = .next (ended ((same pre).trapped x i none))
      (∀ i, u.fetchBundle x = .error i → traps i) ∧
      ∀ b, u.fetchBundle x = .ok b →
        let l := u.leafOf x b
        let ops := bundleRuns b l.1 l.2.isSome
        let reads := c.reads b ops
        let clash : Prop := ¬ops.Pairwise (fun j k => ∀ d ∈ c.dests j.2, d ≠ .none → d ∉ c.dests k.2)
        let noHandler : Prop := ∃ k ∈ ops, ∃ g, k.2 = .rtu g ∧ c.guard0 g = true ∧ c.inh = false
        let hits (p : RegRead) (f : Flight) : Prop := f.dst = p.reg ∧ f.lanes ≠ 0 ∧ ∀ n, p.reg = .v n → f.lanes &&& p.lanes ≠ 0
        let pending (p : RegRead) : Prop := (∃ f ∈ c.flight, t < f.due ∧ hits p f) ∨ ∃ f ∈ c.heldU, hits p f
        let trial (k : Nat × Instr) (z : State) : Prop := exec k.2 { u with issue := issueOf x t k.1 b none } = .next z
        (clash → traps ⟨0x01, 0x06, 7, 0⟩) ∧
        (¬clash → noHandler → traps ⟨0x01, 0x0C, 4, 0⟩) ∧
        (¬clash → ¬noHandler →
          (∀ l₁ p l₂, c.dbg = true → reads = l₁ ++ p :: l₂ → (∀ w ∈ l₁, ¬pending w) → pending p →
            traps ⟨0x05, 0x01, BitVec.ofNat 3 p.part, BitVec.ofNat 64 p.reg.code⟩) ∧
          ((c.dbg = false ∨ ∀ p ∈ reads, ¬pending p) →
            (u.bundleStalls x b ops = true → step s = .next (ended ((same post).modCtx x (fun k =>
              { k with st := .stalled, waiting := some b })))) ∧
            (u.bundleStalls x b ops = false →
              (((∃ p ∈ reads, c.interlocked t p.reg = true) ∨ ∃ f ∈ c.flight, f.late t = true) → step s = .next (s1.freeze q.val)) ∧
              ((∀ p ∈ reads, c.interlocked t p.reg = false) → (∀ f ∈ c.flight, f.late t = false) →
                ((∃ p ∈ reads, p.reg ∈ c.rpar) → traps ⟨0x0D, 0x02, 7, 0⟩) ∧
                ((∀ p ∈ reads, p.reg ∉ c.rpar) →
                  (∀ l₁ k l₂ z i, ops = l₁ ++ k :: l₂ → (∀ m ∈ l₁, ∃ w, trial m w ∧ (w.ctx x).st ≠ .trapped) → trial k z →
                    (z.ctx x).st = .trapped → z.issue.trap = some i → traps i) ∧
                  (∀ vs : List State, (∀ k ∈ ops, ∃ z, trial k z ∧ (z.ctx x).st ≠ .trapped) → vs.length = ops.length + 1 →
                    vs.head? = some { u.setCtx x { c with waiting := none } with issue := issueOf x t 0 b none } →
                    (∀ j k v w, ops[j]? = some k → vs[j]? = some v → vs[j + 1]? = some w →
                      exec k.2 { v with issue := { issueOf x t k.1 b v.issue.leaf with jumped := v.issue.jumped } } = .next w) →
                    ∀ v, vs.getLast? = some v →
                      step s = .next ((v.afterBundle x b l.2 (u.isDrain x b) (u.stopAsked x)).endCycle (x.val / 4)))))))))

/-- R165 to R172, R174, R235: words written out from the encodings of the spec decode to the instructions that they stand for, one
of each format, and the bundle of the example after R174 to its parts. -/
def Obligations.DecodesWrittenWords : Prop :=
  decodeWord 0x02628C38 = some (.add 3 5 6 7) ∧ decodeWord 0x060084FF = some (.addi 0 1 2 0x0FF) ∧
  decodeWord 0x36048005 = some (.movi 0 9 5) ∧ decodeWord 0x1401461E = some (.cmpLt 0 5 6 7) ∧
  decodeWord 0x1A11A3C8 = some (.pand 0 70 71 72) ∧ decodeWord 0x24040015 = some (.setb 0 1 21) ∧
  decodeWord 0x5A040210 = some (.vfma 0 8 1 2 0) ∧ decodeWord 0x62008500 = some (.vcvtV32V63 0 1 1 8 0) ∧
  decodeWord 0x7800A1C0 = some (.vacc 0 1 2 3 4) ∧ decodeWord 0x88052900 = some (.mft 0 2 0x12 0x12) ∧
  decodeWord 0xA0008432 = some (.ldW 0 1 2 6) ∧ decodeWord 0xB81F2400 = some (.lsend 0 7 3 9) ∧
  decodeWord 0xBE008418 = some (.amoAddD 0 1 2 3) ∧ decodeWord 0xCE0055E1 = some (.trap 0 0xABC) ∧
  decodeRoutine 0x3221E00000000000 = some (.pass 1 2 3 1 4) ∧ decodeRoutine 0x2C28000000000000 = some (.ldb 1 16 5) ∧
  ∃ b, decodeBundle true true 0x000000900000008300000000000000005A4486205A040210000000000000E003 = .ok b ∧ b.drain = true ∧
    b.t = true ∧ b.tagV1 = 7 ∧ b.tests = [⟨.any, 3⟩] ∧ b.leaves = [some 1, none] ∧ b.opS = .nop ∧
    b.opV0 = .vfma 0 8 1 2 0 ∧ b.opV1 = .vfma 2 9 3 4 0

/-- R348, R371, R379, R387, R411: the registers with a reset value in the spec at reset, no task, no command, no record and
no fault waiting, and memory in canonical form. -/
def Obligations.ResetState : Prop :=
  let s := State.reset
  s.host = ⟨0, false, false, 0, false, 0, 0, false, 0, 0, 0, 0, [], false⟩ ∧
  (∀ k, s.sup k = Sup.none) ∧ (∀ x, (s.ctx x).st = .empty) ∧ (∀ n : Fin 8, s.mon.pmr[n] = 0) ∧ s.mgmt.cfence = 0 ∧
  s.tasks = [] ∧ s.ropes = [] ∧ s.fids = [] ∧ s.mq = [] ∧ s.gint = 0 ∧
  Memory.wf s.dram = true ∧ Memory.wf s.hostMem = true ∧ ∃ t, step s = .next t

/-- R168, R235: every well-formed instruction is read back from its own word, with every operand: a slot operation from its slot
word, a routine operation from its routine word. Every slot operation, those before END in Instr, has a slot word, every routine
operation, from END on, a routine word, and an event, from RESULT_LANDING on, has none. -/
def Obligations.EncodeDecodeRoundTrip : Prop :=
  ∀ (i : Instr), i.wf = true →
    (i.ctorIdx < Instr.routineEnd.ctorIdx → ∃ w, encode i = some (.slot w)) ∧
    (Instr.routineEnd.ctorIdx ≤ i.ctorIdx → i.ctorIdx < (Instr.resultLanding 0).ctorIdx → ∃ w, encode i = some (.routine w)) ∧
    ((Instr.resultLanding 0).ctorIdx ≤ i.ctorIdx → encode i = none) ∧
    (∀ w, encode i = some (.slot w) → decodeWord w = some i) ∧ (∀ w, encode i = some (.routine w) → decodeRoutine w = some i)

end Statements
end

