-- ==== Sys2Proof/Laws/Maps.lean ====
section
/-! SUPPORT. Laws of sparse maps and memories: read after write, and the canonical form. -/

namespace Sys2Proof.Machine

/-! ## Read after write -/

theorem SMap.get_put_same {α : Type} (d : α) (m : SMap α) (n : Nat) (v : α) : SMap.get d (SMap.put m n v) n = v := by
  induction m with
  | nil => simp [SMap.put, SMap.get]
  | cons e r ih =>
    simp only [SMap.put]
    split
    · simp [SMap.get]
    · split
      · simp [SMap.get]
      · simp_all [SMap.get]

theorem SMap.get_put_ne {α : Type} (d : α) (m : SMap α) {n k : Nat} (v : α) (h : k ≠ n) :
    SMap.get d (SMap.put m n v) k = SMap.get d m k := by
  induction m with
  | nil => simp [SMap.put, SMap.get, h]
  | cons e r ih =>
    simp only [SMap.put]
    split
    · simp [SMap.get, h]
    · split
      · simp_all [SMap.get]
      · simp [SMap.get, ih]

theorem SMap.get_del_same {α : Type} (d : α) (m : SMap α) (n : Nat) : SMap.get d (SMap.del m n) n = d := by
  induction m with
  | nil => rfl
  | cons e r ih =>
    simp only [SMap.del]
    split
    · exact ih
    · simp_all [SMap.get]

theorem SMap.get_del_ne {α : Type} (d : α) (m : SMap α) {n k : Nat} (h : k ≠ n) :
    SMap.get d (SMap.del m n) k = SMap.get d m k := by
  induction m with
  | nil => rfl
  | cons e r ih =>
    simp only [SMap.del]
    split
    · simp_all [SMap.get]
    · simp [SMap.get, ih]

/-- Reading the key that was written gives the value written. -/
@[simp] theorem SMap.get_set_same {α : Type} [DecidableEq α] (d : α) (m : SMap α) (n : Nat) (v : α) :
    SMap.get d (SMap.set d m n v) n = v := by
  unfold SMap.set
  split
  · next h => rw [SMap.get_del_same, h]
  · exact SMap.get_put_same d m n v

/-- Every other key reads as before. -/
theorem SMap.get_set_ne {α : Type} [DecidableEq α] (d : α) (m : SMap α) {n k : Nat} (v : α) (h : k ≠ n) :
    SMap.get d (SMap.set d m n v) k = SMap.get d m k := by
  unfold SMap.set
  split
  · exact SMap.get_del_ne d m h
  · exact SMap.get_put_ne d m v h

/-! ## The canonical form -/

theorem SMap.rising_mono {α : Type} (m : SMap α) {lo lo' : Nat} (h : lo' ≤ lo) (hm : SMap.rising lo m = true) :
    SMap.rising lo' m = true := by
  cases m with
  | nil => rfl
  | cons e r => simp_all [SMap.rising]; omega

theorem SMap.rising_put {α : Type} (m : SMap α) (lo n : Nat) (v : α) (hn : lo ≤ n) (hm : SMap.rising lo m = true) :
    SMap.rising lo (SMap.put m n v) = true := by
  induction m generalizing lo with
  | nil => simp [SMap.put, SMap.rising, hn]
  | cons e r ih =>
    simp only [SMap.rising, Bool.and_eq_true, decide_eq_true_eq] at hm
    simp only [SMap.put]
    split
    · simp only [SMap.rising, Bool.and_eq_true, decide_eq_true_eq]
      exact ⟨hn, by omega, hm.2⟩
    · split
      · next h => subst h; simp [SMap.rising, hm]
      · simp only [SMap.rising, Bool.and_eq_true, decide_eq_true_eq]
        exact ⟨hm.1, ih (e.1 + 1) (by omega) hm.2⟩

theorem SMap.rising_del {α : Type} (m : SMap α) (lo n : Nat) (hm : SMap.rising lo m = true) :
    SMap.rising lo (SMap.del m n) = true := by
  induction m generalizing lo with
  | nil => rfl
  | cons e r ih =>
    simp only [SMap.rising, Bool.and_eq_true, decide_eq_true_eq] at hm
    simp only [SMap.del]
    split
    · exact SMap.rising_mono _ (by omega) (ih (e.1 + 1) hm.2)
    · simp only [SMap.rising, Bool.and_eq_true, decide_eq_true_eq]
      exact ⟨hm.1, ih _ hm.2⟩

theorem SMap.mem_put {α : Type} (m : SMap α) (n : Nat) (v : α) (e : Nat × α) (h : e ∈ SMap.put m n v) :
    e = (n, v) ∨ e ∈ m := by
  induction m with
  | nil => simpa [SMap.put] using h
  | cons x r ih =>
    simp only [SMap.put] at h
    split at h
    · simpa using h
    · split at h
      · simp at h; simp; tauto
      · simp at h
        rcases h with h | h
        · simp [h]
        · rcases ih h with h | h <;> simp [h]

theorem SMap.mem_del {α : Type} (m : SMap α) (n : Nat) (e : Nat × α) (h : e ∈ SMap.del m n) : e ∈ m := by
  induction m with
  | nil => exact h
  | cons x r ih =>
    simp only [SMap.del] at h
    split at h
    · simp [ih h]
    · simp at h
      rcases h with h | h
      · simp [h]
      · simp [ih h]

/-- A write keeps the canonical form. -/
theorem SMap.wf_set {α : Type} [DecidableEq α] (d : α) (m : SMap α) (n : Nat) (v : α) (hm : SMap.wf d m = true) :
    SMap.wf d (SMap.set d m n v) = true := by
  simp only [SMap.wf, Bool.and_eq_true, List.all_eq_true, decide_eq_true_eq] at hm ⊢
  unfold SMap.set
  split
  · exact ⟨SMap.rising_del m 0 n hm.1, fun e he => hm.2 e (SMap.mem_del m n e he)⟩
  · next hv =>
    refine ⟨SMap.rising_put m 0 n v (by omega) hm.1, fun e he => ?_⟩
    rcases SMap.mem_put m n v e he with h | h
    · rw [h]; exact hv
    · exact hm.2 e h

/-! ## Memory -/

@[simp] theorem Memory.rd_wr_same (m : Memory) (a : Nat) (b : Byte) : Memory.rd (Memory.wr m a b) a = b :=
  SMap.get_set_same 0 m a b

theorem Memory.rd_wr_ne (m : Memory) {a k : Nat} (b : Byte) (h : k ≠ a) :
    Memory.rd (Memory.wr m a b) k = Memory.rd m k :=
  SMap.get_set_ne 0 m b h

theorem Memory.wf_wr (m : Memory) (a : Nat) (b : Byte) (h : Memory.wf m = true) : Memory.wf (Memory.wr m a b) = true :=
  SMap.wf_set 0 m a b h

theorem Memory.wf_wrN (m : Memory) (a v n : Nat) (h : Memory.wf m = true) : Memory.wf (Memory.wrN m a v n) = true := by
  induction n generalizing m a v with
  | zero => exact h
  | succ n ih => exact ih _ _ _ (Memory.wf_wr m a _ h)

theorem Memory.wf_wrBytes (m : Memory) (a : Nat) (l : List Byte) (h : Memory.wf m = true) :
    Memory.wf (Memory.wrBytes m a l) = true := by
  induction l generalizing m a with
  | nil => exact h
  | cons b r ih => exact ih _ _ (Memory.wf_wr m a b h)

/-- A write of n bytes leaves every address outside them. -/
theorem Memory.rd_wrN_out (m : Memory) (a v n k : Nat) (h : k < a ∨ a + n ≤ k) :
    Memory.rd (Memory.wrN m a v n) k = Memory.rd m k := by
  induction n generalizing m a v with
  | zero => rfl
  | succ n ih =>
    simp only [Memory.wrN]
    rw [ih _ _ _ (by omega), Memory.rd_wr_ne _ _ (by omega)]

/-- A write of a list of bytes leaves every address outside them. -/
theorem Memory.rd_wrBytes_out (m : Memory) (a : Nat) (l : List Byte) (k : Nat) (h : k < a ∨ a + l.length ≤ k) :
    Memory.rd (Memory.wrBytes m a l) k = Memory.rd m k := by
  induction l generalizing m a with
  | nil => rfl
  | cons b r ih =>
    simp only [Memory.wrBytes, List.length_cons] at *
    rw [ih _ _ (by omega), Memory.rd_wr_ne _ _ (by omega)]

/-- Reading n bytes after writing them gives the low n bytes of the number written. -/
theorem Memory.rdN_wrN (m : Memory) (a v n : Nat) : Memory.rdN (Memory.wrN m a v n) a n = v % 256 ^ n := by
  induction n generalizing m a v with
  | zero => simp [Memory.rdN, Nat.mod_one]
  | succ n ih =>
    simp only [Memory.rdN, Memory.wrN]
    rw [ih, Memory.rd_wrN_out _ _ _ _ _ (Or.inl (by omega)), Memory.rd_wr_same, Nat.pow_succ, Nat.mul_comm (256 ^ n) 256,
      Nat.mod_mul]
    simp

end Sys2Proof.Machine
end

