-- ==== Sys2Proof/Laws/Blocks.lean ====
section
/-! SUPPORT. Laws of ranges of memory: cleared ranges, windows, and blocks of words (R377). -/

namespace Sys2Proof.Machine

/-! ## Lists of entries -/

/-- Entries kept by their key read as before, the others as the default. -/
theorem SMap.get_filter {α : Type} (d : α) (p : Nat → Bool) (m : SMap α) (k : Nat) :
    SMap.get d (m.filter (fun e => p e.1)) k = if p k then SMap.get d m k else d := by
  induction m with
  | nil => simp [SMap.get]
  | cons e r ih =>
    by_cases hk : k = e.1
    · subst hk
      by_cases hp : p e.1 <;> simp [SMap.get, hp, ih]
    · by_cases hp : p e.1 <;> simp [SMap.get, hp, ih, hk]

/-- A key that the first map does not list reads from the second. -/
theorem SMap.get_append_right {α : Type} (d : α) (l m : SMap α) (k : Nat) (h : ∀ e ∈ l, e.1 ≠ k) :
    SMap.get d (l ++ m) k = SMap.get d m k := by
  induction l with
  | nil => rfl
  | cons e r ih =>
    have := h e (by simp)
    simp [SMap.get, Ne.symm this, ih (fun x hx => h x (by simp [hx]))]

/-- A key that the second map does not list reads from the first. -/
theorem SMap.get_append_left {α : Type} (d : α) (l m : SMap α) (k : Nat) (h : ∀ e ∈ m, e.1 ≠ k) :
    SMap.get d (l ++ m) k = SMap.get d l k := by
  induction l with
  | nil =>
    induction m with
    | nil => rfl
    | cons e r ih =>
      have := h e (by simp)
      simpa [SMap.get, Ne.symm this] using ih (fun x hx => h x (by simp [hx]))
  | cons e r ih => simp [SMap.get, ih]

/-- A key that is not listed reads as the default. -/
theorem SMap.get_notin {α : Type} (d : α) (m : SMap α) (k : Nat) (h : ∀ e ∈ m, e.1 ≠ k) : SMap.get d m k = d := by
  simpa [SMap.get] using SMap.get_append_right d m [] k h

theorem SMap.rising_of_mem {α : Type} (m : SMap α) (lo : Nat) (hm : SMap.rising lo m = true) : ∀ e ∈ m, lo ≤ e.1 := by
  induction m generalizing lo with
  | nil => simp
  | cons x r ih =>
    simp only [SMap.rising, Bool.and_eq_true, decide_eq_true_eq] at hm
    intro e he
    rcases List.mem_cons.1 he with rfl | he
    · exact hm.1
    · have := ih _ hm.2 e he; omega

theorem SMap.rising_append {α : Type} (l m : SMap α) (lo hi : Nat) (hl : SMap.rising lo l = true) (hlt : ∀ e ∈ l, e.1 < hi)
    (hm : SMap.rising hi m = true) (h : lo ≤ hi) : SMap.rising lo (l ++ m) = true := by
  induction l generalizing lo with
  | nil => exact SMap.rising_mono m h hm
  | cons e r ih =>
    simp only [SMap.rising, List.cons_append, Bool.and_eq_true, decide_eq_true_eq] at hl ⊢
    have he := hlt e (by simp)
    exact ⟨hl.1, ih _ hl.2 (fun x hx => hlt x (by simp [hx])) (by omega)⟩

theorem SMap.rising_filter {α : Type} (p : Nat × α → Bool) (m : SMap α) (lo : Nat) (hm : SMap.rising lo m = true) :
    SMap.rising lo (m.filter p) = true := by
  induction m generalizing lo with
  | nil => rfl
  | cons e r ih =>
    simp only [SMap.rising, Bool.and_eq_true, decide_eq_true_eq] at hm
    by_cases hp : p e
    · simp [hp, SMap.rising, hm.1, ih _ hm.2]
    · simp only [List.filter_cons, hp]
      exact SMap.rising_mono _ (by omega) (ih _ hm.2)

theorem SMap.rising_raise {α : Type} (m : SMap α) (lo hi : Nat) (hm : SMap.rising lo m = true) (h : ∀ e ∈ m, hi ≤ e.1) :
    SMap.rising hi m = true := by
  cases m with
  | nil => rfl
  | cons e r =>
    simp only [SMap.rising, Bool.and_eq_true, decide_eq_true_eq] at hm ⊢
    exact ⟨h e (by simp), hm.2⟩

/-- Dropping entries keeps the canonical form. -/
theorem SMap.wf_filter {α : Type} [DecidableEq α] (d : α) (p : Nat × α → Bool) (m : SMap α) (hm : SMap.wf d m = true) :
    SMap.wf d (m.filter p) = true := by
  simp only [SMap.wf, Bool.and_eq_true, List.all_eq_true, decide_eq_true_eq] at hm ⊢
  exact ⟨SMap.rising_filter p m 0 hm.1, fun e he => hm.2 e (List.mem_filter.1 he).1⟩

/-- Clearing a range keeps the canonical form. -/
theorem Memory.wf_clearRange (m : Memory) (lo n : Nat) (h : Memory.wf m = true) : Memory.wf (m.clearRange lo n) = true :=
  SMap.wf_filter _ _ m h

/-- A cleared range reads as 0, and the rest as before. -/
theorem Memory.rd_clearRange (m : Memory) (lo n k : Nat) :
    Memory.rd (m.clearRange lo n) k = if lo ≤ k ∧ k < lo + n then 0 else Memory.rd m k := by
  unfold Memory.rd Memory.clearRange
  rw [SMap.get_filter (0 : Byte) (fun a => decide (a < lo) || decide (lo + n ≤ a))]
  by_cases h : lo ≤ k ∧ k < lo + n
  · have h1 : ¬k < lo := by omega
    have h2 : ¬lo + n ≤ k := by omega
    simp [h1, h2, h]
  · rw [if_neg h, if_pos]
    simp only [Bool.or_eq_true, decide_eq_true_eq]; omega

theorem SMap.rising_map_sub {α : Type} (m : SMap α) (lo c : Nat) (hm : SMap.rising lo m = true) (h : c ≤ lo) :
    SMap.rising (lo - c) (m.map (fun e => (e.1 - c, e.2))) = true := by
  induction m generalizing lo with
  | nil => rfl
  | cons e r ih =>
    simp only [SMap.rising, List.map_cons, Bool.and_eq_true, decide_eq_true_eq] at hm ⊢
    refine ⟨by omega, ?_⟩
    have := ih (e.1 + 1) hm.2 (by omega)
    rwa [show e.1 + 1 - c = e.1 - c + 1 by omega] at this

/-- A window of a memory has the canonical form. -/
theorem Memory.wf_window (m : Memory) (lo n : Nat) (h : Memory.wf m = true) : Memory.wf (m.window lo n) = true := by
  have hf := SMap.wf_filter (0 : Byte) (fun e => decide (lo ≤ e.1) && decide (e.1 < lo + n)) m h
  simp only [Memory.wf, SMap.wf, Memory.window, Bool.and_eq_true, List.all_eq_true, decide_eq_true_eq] at hf ⊢
  refine ⟨?_, ?_⟩
  · have hr := SMap.rising_raise _ 0 lo hf.1 (fun e he => by
      have := (List.mem_filter.1 he).2
      simp only [Bool.and_eq_true, decide_eq_true_eq] at this
      exact this.1)
    simpa using SMap.rising_map_sub _ lo lo hr (Nat.le_refl _)
  · intro e he
    obtain ⟨x, hx, rfl⟩ := List.mem_map.1 he
    exact hf.2 x hx

/-- Writing a window back keeps the canonical form. -/
theorem Memory.wf_putWindow (m : Memory) (lo : Nat) (w : Memory) (h : Memory.wf m = true) :
    Memory.wf (m.putWindow lo w) = true := by
  unfold Memory.putWindow
  induction w generalizing m with
  | nil => exact h
  | cons e r ih => exact ih _ (Memory.wf_wr m _ _ h)

theorem numCells_mem (a v n : Nat) : ∀ e ∈ numCells a v n, a ≤ e.1 ∧ e.1 < a + n ∧ e.2 ≠ 0 := by
  induction n generalizing a v with
  | zero => simp [numCells]
  | succ n ih =>
    intro e he
    simp only [numCells, List.mem_append] at he
    rcases he with he | he
    · split at he
      · simp at he
      · next hv =>
        simp only [List.mem_singleton] at he
        subst he
        refine ⟨Nat.le_refl _, by omega, fun h => hv ?_⟩
        have := congrArg BitVec.toNat h
        simpa using this
    · have := ih (a + 1) (v / 256) e he
      exact ⟨by omega, by omega, this.2.2⟩

theorem numCells_rising (a v n : Nat) : SMap.rising a (numCells a v n) = true := by
  induction n generalizing a v with
  | zero => rfl
  | succ n ih =>
    simp only [numCells]
    split
    · exact SMap.rising_mono _ (by omega) (ih (a + 1) (v / 256))
    · simp [SMap.rising, ih]

theorem rd_numCells (a v n k : Nat) (h : k < n) :
    Memory.rd (numCells a v n) (a + k) = BitVec.ofNat 8 (v / 256 ^ k) := by
  induction n generalizing a v k with
  | zero => omega
  | succ n ih =>
    simp only [numCells, Memory.rd]
    cases k with
    | zero =>
      by_cases hv : v % 256 = 0
      · simp only [hv, if_true, List.nil_append]
        rw [SMap.get_notin]
        · apply BitVec.eq_of_toNat_eq; simp [hv]
        · intro e he; have := numCells_mem (a + 1) (v / 256) n e he; omega
      · simp [hv, SMap.get]
    | succ k =>
      rw [SMap.get_append_right]
      · have := ih (a + 1) (v / 256) k (by omega)
        rw [Memory.rd, show a + 1 + k = a + (k + 1) by omega, Nat.div_div_eq_div_mul] at this
        rw [this, Nat.pow_succ, Nat.mul_comm]
      · intro e he
        split at he
        · simp at he
        · simp only [List.mem_singleton] at he; subst he; simp

theorem wordCells_mem (a : Nat) (l : List Word) : ∀ e ∈ wordCells a l, a ≤ e.1 ∧ e.1 < a + 8 * l.length ∧ e.2 ≠ 0 := by
  induction l generalizing a with
  | nil => simp [wordCells]
  | cons w r ih =>
    intro e he
    simp only [wordCells, List.mem_append] at he
    rcases he with he | he
    · have := numCells_mem a w.toNat 8 e he
      exact ⟨this.1, by simp; omega, this.2.2⟩
    · have := ih (a + 8) e he
      exact ⟨by omega, by simp; omega, this.2.2⟩

theorem wordCells_rising (a : Nat) (l : List Word) : SMap.rising a (wordCells a l) = true := by
  induction l generalizing a with
  | nil => rfl
  | cons w r ih =>
    exact SMap.rising_append _ _ a (a + 8) (numCells_rising a _ 8) (fun e he => (numCells_mem a _ 8 e he).2.1) (ih (a + 8)) (by omega)

/-- Word i of a block reads back. -/
theorem rd_wordCells (a : Nat) (l : List Word) (i k : Nat) (hi : i < l.length) (hk : k < 8) :
    Memory.rd (wordCells a l) (a + 8 * i + k) = BitVec.ofNat 8 (l[i].toNat / 256 ^ k) := by
  induction l generalizing a i with
  | nil => simp at hi
  | cons w r ih =>
    simp only [wordCells, Memory.rd]
    cases i with
    | zero =>
      rw [SMap.get_append_left]
      · simpa [Memory.rd] using rd_numCells a w.toNat 8 k hk
      · intro e he; have := wordCells_mem (a + 8) r e he; omega
    | succ i =>
      rw [SMap.get_append_right]
      · have := ih (a + 8) i (by simpa using hi)
        rw [Memory.rd, show a + 8 + 8 * i + k = a + 8 * (i + 1) + k by omega] at this
        simpa using this
      · intro e he; have := numCells_mem a w.toNat 8 e he; omega

/-- Writing words keeps the canonical form. -/
theorem Memory.wf_putWords (m : Memory) (a : Nat) (l : List Word) (h : Memory.wf m = true) : Memory.wf (m.putWords a l) = true := by
  have h1 := SMap.wf_filter (0 : Byte) (fun e => decide (e.1 < a)) m h
  have h2 := SMap.wf_filter (0 : Byte) (fun e => decide (a + 8 * l.length ≤ e.1)) m h
  simp only [Memory.wf, SMap.wf, Memory.putWords, Bool.and_eq_true, List.all_eq_true, decide_eq_true_eq, List.append_assoc] at h1 h2 ⊢
  refine ⟨SMap.rising_append _ _ 0 a h1.1 ?_ (SMap.rising_append _ _ a (a + 8 * l.length) (wordCells_rising a l)
    (fun e he => (wordCells_mem a l e he).2.1) (SMap.rising_raise _ 0 _ h2.1 ?_) (by omega)) (by omega), ?_⟩
  · intro e he; simpa using (List.mem_filter.1 he).2
  · intro e he; simpa using (List.mem_filter.1 he).2
  · intro e he
    rcases List.mem_append.1 he with he | he
    · exact h1.2 e he
    · rcases List.mem_append.1 he with he | he
      · exact (wordCells_mem a l e he).2.2
      · exact h2.2 e he

/-- Outside the words written, memory reads as before. -/
theorem Memory.rd_putWords_out (m : Memory) (a : Nat) (l : List Word) (k : Nat) (h : k < a ∨ a + 8 * l.length ≤ k) :
    Memory.rd (m.putWords a l) k = Memory.rd m k := by
  have hw : ∀ e ∈ wordCells a l, e.1 ≠ k := fun e he => by have := wordCells_mem a l e he; omega
  have fl := SMap.get_filter (0 : Byte) (fun x => decide (x < a)) m k
  have fr := SMap.get_filter (0 : Byte) (fun x => decide (a + 8 * l.length ≤ x)) m k
  unfold Memory.rd Memory.putWords
  rw [List.append_assoc]
  rcases h with h | h
  · rw [SMap.get_append_left, fl, if_pos (by simpa using h)]
    intro e he
    rcases List.mem_append.1 he with he | he
    · exact hw e he
    · have := (List.mem_filter.1 he).2; simp only [decide_eq_true_eq] at this; omega
  · rw [SMap.get_append_right, SMap.get_append_right _ _ _ _ hw, fr, if_pos (by simpa using h)]
    intro e he
    have := (List.mem_filter.1 he).2; simp only [decide_eq_true_eq] at this; omega

/-- The words written read back. -/
theorem Memory.rd_putWords (m : Memory) (a : Nat) (l : List Word) (i k : Nat) (hi : i < l.length) (hk : k < 8) :
    Memory.rd (m.putWords a l) (a + 8 * i + k) = BitVec.ofNat 8 (l[i].toNat / 256 ^ k) := by
  unfold Memory.rd Memory.putWords
  rw [List.append_assoc, SMap.get_append_right, SMap.get_append_left]
  · exact rd_wordCells a l i k hi hk
  · intro e he
    have := (List.mem_filter.1 he).2; simp only [decide_eq_true_eq] at this; omega
  · intro e he
    have := (List.mem_filter.1 he).2; simp only [decide_eq_true_eq] at this; omega

/-- A word written reads back as one number. -/
theorem Memory.rdN_putWords (m : Memory) (a : Nat) (l : List Word) (i : Nat) (hi : i < l.length) :
    Memory.rdN (m.putWords a l) (a + 8 * i) 8 = l[i].toNat := by
  have h (k : Nat) (hk : k < 8) := Memory.rd_putWords m a l i k hi hk
  have h0 := h 0 (by omega)
  have hw := l[i].isLt
  simp only [Memory.rdN]
  simp only [Nat.add_zero] at h0
  rw [h0, h 1 (by omega)]
  rw [show a + 8 * i + 1 + 1 = a + 8 * i + 2 by omega, h 2 (by omega), show a + 8 * i + 2 + 1 = a + 8 * i + 3 by omega, h 3 (by omega),
    show a + 8 * i + 3 + 1 = a + 8 * i + 4 by omega, h 4 (by omega), show a + 8 * i + 4 + 1 = a + 8 * i + 5 by omega, h 5 (by omega),
    show a + 8 * i + 5 + 1 = a + 8 * i + 6 by omega, h 6 (by omega), show a + 8 * i + 6 + 1 = a + 8 * i + 7 by omega, h 7 (by omega)]
  simp only [BitVec.toNat_ofNat]
  omega

end Sys2Proof.Machine
end

