-- ==== Sys2Proof/Laws/Canonical.lean ====
section
/-! SUPPORT. Canonical form: the reset state has it, and the setters of State keep it. -/

namespace Sys2Proof.Claims

open Sys2Proof.Machine

theorem canonical_reset : Canonical State.reset := by
  constructor <;> first | rfl | (intro; rfl)

theorem Canonical.setCtx {s : State} (h : Canonical s) (x : CtxNo) (c : Ctx) : Canonical (s.setCtx x c) :=
  { h with ctxs := SMap.wf_set _ _ _ _ h.ctxs }

theorem Canonical.setPart {s : State} (h : Canonical s) (q : Nat) (p : Machine.Part) : Canonical (s.setPart q p) :=
  { h with parts := SMap.wf_set _ _ _ _ h.parts }

theorem Canonical.setRope {s : State} (h : Canonical s) (r : Nat) (k : Rope) : Canonical (s.setRope r k) :=
  { h with ropes := SMap.wf_set _ _ _ _ h.ropes }

theorem Canonical.setIsland {s : State} (h : Canonical s) (i : Nat) (k : Island) : Canonical (s.setIsland i k) :=
  { h with islands := SMap.wf_set _ _ _ _ h.islands }

theorem Canonical.setLink {s : State} (h : Canonical s) (i : Nat) (k : LinkQ) : Canonical (s.setLink i k) :=
  { h with links := SMap.wf_set _ _ _ _ h.links }

theorem Canonical.setPeer {s : State} (h : Canonical s) (i : Nat) (k : Peer) : Canonical (s.setPeer i k) :=
  { h with peers := SMap.wf_set _ _ _ _ h.peers }

/-- A core takes a new value: canonical where that value's stores are. -/
theorem Canonical.setCore {s : State} (h : Canonical s) (c : Nat) (k : Core) (hs : Memory.wf k.spad = true)
    (hv : Memory.wf k.vault = true) : Canonical (s.setCore c k) :=
  { h with
    cores := SMap.wf_set _ _ _ _ h.cores
    spad := fun j => by
      by_cases e : j = c
      · subst e; simpa [State.core, State.setCore] using hs
      · simpa [State.core, State.setCore, SMap.get_set_ne _ _ _ e] using h.spad j
    vault := fun j => by
      by_cases e : j = c
      · subst e; simpa [State.core, State.setCore] using hv
      · simpa [State.core, State.setCore, SMap.get_set_ne _ _ _ e] using h.vault j }

/-- A change of a core keeps the form where it keeps that of the core's two stores. -/
theorem Canonical.modCore {s : State} (h : Canonical s) (c : Nat) (f : Core → Core)
    (hs : ∀ k : Core, Memory.wf k.spad = true → Memory.wf (f k).spad = true)
    (hv : ∀ k : Core, Memory.wf k.vault = true → Memory.wf (f k).vault = true) : Canonical (s.modCore c f) :=
  h.setCore c _ (hs _ (h.spad c)) (hv _ (h.vault c))

/-- A supervisor takes a new value: canonical where its SRAM is. -/
theorem Canonical.setSup {s : State} (h : Canonical s) (k : Nat) (u : Sup) (hu : Memory.wf u.sram = true) :
    Canonical (s.setSup k u) :=
  { h with
    sups := SMap.wf_set _ _ _ _ h.sups
    sram := fun j => by
      by_cases e : j = k
      · subst e; simpa [State.sup, State.setSup] using hu
      · simpa [State.sup, State.setSup, SMap.get_set_ne _ _ _ e] using h.sram j }

/-- The memory of the module after a write of DRAM at a physical address is in canonical form (R351, R391). -/
theorem Canonical.dramWr {s : State} (h : Canonical s) (pa n v : Nat) : Memory.wf (s.dramWr pa n v) = true := by
  unfold State.dramWr
  split
  · exact Memory.wf_wrN _ _ _ _ h.dram
  · split
    · exact Memory.wf_wrN _ _ _ _ h.dram
    · have go : ∀ (l : List Nat) (m : Memory) (t : Nat), Memory.wf m = true →
          Memory.wf (l.foldl (fun m k => if pa + k < t || t + asidTableSize ≤ pa + k then
            Memory.wr m (pa + k) (BitVec.ofNat 8 (v / 256 ^ k)) else m) m) = true := by
        intro l
        induction l with
        | nil => intro m t hm; exact hm
        | cons a r ih =>
          intro m t hm
          refine ih _ _ ?_
          dsimp only
          split
          · exact Memory.wf_wr _ _ _ hm
          · exact hm
      exact go _ _ _ h.dram

/-- A write at a device physical address keeps the form, wherever it goes (R125, R351). -/
theorem Canonical.physWr {s : State} (h : Canonical s) (pa n v : Nat) : Canonical (s.physWr pa n v) := by
  unfold State.physWr
  split
  · exact { h with dram := h.dramWr pa n v }
  · split
    · exact { h with hostMem := Memory.wf_wrN _ _ _ _ h.hostMem }
    · exact { h with }

end Sys2Proof.Claims
end

