-- ==== Sys2Proof/Laws/Encode.lean ====
section
/-! SUPPORT. Encoding: the fields of a packed word, and what each opcode decodes to. -/

namespace Sys2Proof

set_option Elab.async false

@[simp] theorem pack7_25_at25 (x0 : BitVec 7) (x1 : BitVec 25) :
    fld (pack7_25 x0 x1) 25 7 = x0 := by
  apply BitVec.eq_of_toNat_eq
  simp only [fld, pack7_25, BitVec.toNat_ofNat]
  have := x0.isLt; have := x1.isLt; omega

@[simp] theorem pack7_25_at0 (x0 : BitVec 7) (x1 : BitVec 25) :
    fld (pack7_25 x0 x1) 0 25 = x1 := by
  apply BitVec.eq_of_toNat_eq
  simp only [fld, pack7_25, BitVec.toNat_ofNat]
  have := x0.isLt; have := x1.isLt; omega

@[simp] theorem pack7_4_6_6_6_3_at25 (x0 : BitVec 7) (x1 : BitVec 4) (x2 : BitVec 6) (x3 : BitVec 6) (x4 : BitVec 6) (x5 : BitVec 3) :
    fld (pack7_4_6_6_6_3 x0 x1 x2 x3 x4 x5) 25 7 = x0 := by
  apply BitVec.eq_of_toNat_eq
  simp only [fld, pack7_4_6_6_6_3, BitVec.toNat_ofNat]
  have := x0.isLt; have := x1.isLt; have := x2.isLt; have := x3.isLt; have := x4.isLt; have := x5.isLt; omega

@[simp] theorem pack7_4_6_6_6_3_at21 (x0 : BitVec 7) (x1 : BitVec 4) (x2 : BitVec 6) (x3 : BitVec 6) (x4 : BitVec 6) (x5 : BitVec 3) :
    fld (pack7_4_6_6_6_3 x0 x1 x2 x3 x4 x5) 21 4 = x1 := by
  apply BitVec.eq_of_toNat_eq
  simp only [fld, pack7_4_6_6_6_3, BitVec.toNat_ofNat]
  have := x0.isLt; have := x1.isLt; have := x2.isLt; have := x3.isLt; have := x4.isLt; have := x5.isLt; omega

@[simp] theorem pack7_4_6_6_6_3_at15 (x0 : BitVec 7) (x1 : BitVec 4) (x2 : BitVec 6) (x3 : BitVec 6) (x4 : BitVec 6) (x5 : BitVec 3) :
    fld (pack7_4_6_6_6_3 x0 x1 x2 x3 x4 x5) 15 6 = x2 := by
  apply BitVec.eq_of_toNat_eq
  simp only [fld, pack7_4_6_6_6_3, BitVec.toNat_ofNat]
  have := x0.isLt; have := x1.isLt; have := x2.isLt; have := x3.isLt; have := x4.isLt; have := x5.isLt; omega

@[simp] theorem pack7_4_6_6_6_3_at9 (x0 : BitVec 7) (x1 : BitVec 4) (x2 : BitVec 6) (x3 : BitVec 6) (x4 : BitVec 6) (x5 : BitVec 3) :
    fld (pack7_4_6_6_6_3 x0 x1 x2 x3 x4 x5) 9 6 = x3 := by
  apply BitVec.eq_of_toNat_eq
  simp only [fld, pack7_4_6_6_6_3, BitVec.toNat_ofNat]
  have := x0.isLt; have := x1.isLt; have := x2.isLt; have := x3.isLt; have := x4.isLt; have := x5.isLt; omega

@[simp] theorem pack7_4_6_6_6_3_at3 (x0 : BitVec 7) (x1 : BitVec 4) (x2 : BitVec 6) (x3 : BitVec 6) (x4 : BitVec 6) (x5 : BitVec 3) :
    fld (pack7_4_6_6_6_3 x0 x1 x2 x3 x4 x5) 3 6 = x4 := by
  apply BitVec.eq_of_toNat_eq
  simp only [fld, pack7_4_6_6_6_3, BitVec.toNat_ofNat]
  have := x0.isLt; have := x1.isLt; have := x2.isLt; have := x3.isLt; have := x4.isLt; have := x5.isLt; omega

@[simp] theorem pack7_4_6_6_6_3_at0 (x0 : BitVec 7) (x1 : BitVec 4) (x2 : BitVec 6) (x3 : BitVec 6) (x4 : BitVec 6) (x5 : BitVec 3) :
    fld (pack7_4_6_6_6_3 x0 x1 x2 x3 x4 x5) 0 3 = x5 := by
  apply BitVec.eq_of_toNat_eq
  simp only [fld, pack7_4_6_6_6_3, BitVec.toNat_ofNat]
  have := x0.isLt; have := x1.isLt; have := x2.isLt; have := x3.isLt; have := x4.isLt; have := x5.isLt; omega

@[simp] theorem pack7_4_6_6_9_at25 (x0 : BitVec 7) (x1 : BitVec 4) (x2 : BitVec 6) (x3 : BitVec 6) (x4 : BitVec 9) :
    fld (pack7_4_6_6_9 x0 x1 x2 x3 x4) 25 7 = x0 := by
  apply BitVec.eq_of_toNat_eq
  simp only [fld, pack7_4_6_6_9, BitVec.toNat_ofNat]
  have := x0.isLt; have := x1.isLt; have := x2.isLt; have := x3.isLt; have := x4.isLt; omega

@[simp] theorem pack7_4_6_6_9_at21 (x0 : BitVec 7) (x1 : BitVec 4) (x2 : BitVec 6) (x3 : BitVec 6) (x4 : BitVec 9) :
    fld (pack7_4_6_6_9 x0 x1 x2 x3 x4) 21 4 = x1 := by
  apply BitVec.eq_of_toNat_eq
  simp only [fld, pack7_4_6_6_9, BitVec.toNat_ofNat]
  have := x0.isLt; have := x1.isLt; have := x2.isLt; have := x3.isLt; have := x4.isLt; omega

@[simp] theorem pack7_4_6_6_9_at15 (x0 : BitVec 7) (x1 : BitVec 4) (x2 : BitVec 6) (x3 : BitVec 6) (x4 : BitVec 9) :
    fld (pack7_4_6_6_9 x0 x1 x2 x3 x4) 15 6 = x2 := by
  apply BitVec.eq_of_toNat_eq
  simp only [fld, pack7_4_6_6_9, BitVec.toNat_ofNat]
  have := x0.isLt; have := x1.isLt; have := x2.isLt; have := x3.isLt; have := x4.isLt; omega

@[simp] theorem pack7_4_6_6_9_at9 (x0 : BitVec 7) (x1 : BitVec 4) (x2 : BitVec 6) (x3 : BitVec 6) (x4 : BitVec 9) :
    fld (pack7_4_6_6_9 x0 x1 x2 x3 x4) 9 6 = x3 := by
  apply BitVec.eq_of_toNat_eq
  simp only [fld, pack7_4_6_6_9, BitVec.toNat_ofNat]
  have := x0.isLt; have := x1.isLt; have := x2.isLt; have := x3.isLt; have := x4.isLt; omega

@[simp] theorem pack7_4_6_6_9_at0 (x0 : BitVec 7) (x1 : BitVec 4) (x2 : BitVec 6) (x3 : BitVec 6) (x4 : BitVec 9) :
    fld (pack7_4_6_6_9 x0 x1 x2 x3 x4) 0 9 = x4 := by
  apply BitVec.eq_of_toNat_eq
  simp only [fld, pack7_4_6_6_9, BitVec.toNat_ofNat]
  have := x0.isLt; have := x1.isLt; have := x2.isLt; have := x3.isLt; have := x4.isLt; omega

@[simp] theorem pack7_4_6_6_3_6_at25 (x0 : BitVec 7) (x1 : BitVec 4) (x2 : BitVec 6) (x3 : BitVec 6) (x4 : BitVec 3) (x5 : BitVec 6) :
    fld (pack7_4_6_6_3_6 x0 x1 x2 x3 x4 x5) 25 7 = x0 := by
  apply BitVec.eq_of_toNat_eq
  simp only [fld, pack7_4_6_6_3_6, BitVec.toNat_ofNat]
  have := x0.isLt; have := x1.isLt; have := x2.isLt; have := x3.isLt; have := x4.isLt; have := x5.isLt; omega

@[simp] theorem pack7_4_6_6_3_6_at21 (x0 : BitVec 7) (x1 : BitVec 4) (x2 : BitVec 6) (x3 : BitVec 6) (x4 : BitVec 3) (x5 : BitVec 6) :
    fld (pack7_4_6_6_3_6 x0 x1 x2 x3 x4 x5) 21 4 = x1 := by
  apply BitVec.eq_of_toNat_eq
  simp only [fld, pack7_4_6_6_3_6, BitVec.toNat_ofNat]
  have := x0.isLt; have := x1.isLt; have := x2.isLt; have := x3.isLt; have := x4.isLt; have := x5.isLt; omega

@[simp] theorem pack7_4_6_6_3_6_at15 (x0 : BitVec 7) (x1 : BitVec 4) (x2 : BitVec 6) (x3 : BitVec 6) (x4 : BitVec 3) (x5 : BitVec 6) :
    fld (pack7_4_6_6_3_6 x0 x1 x2 x3 x4 x5) 15 6 = x2 := by
  apply BitVec.eq_of_toNat_eq
  simp only [fld, pack7_4_6_6_3_6, BitVec.toNat_ofNat]
  have := x0.isLt; have := x1.isLt; have := x2.isLt; have := x3.isLt; have := x4.isLt; have := x5.isLt; omega

@[simp] theorem pack7_4_6_6_3_6_at9 (x0 : BitVec 7) (x1 : BitVec 4) (x2 : BitVec 6) (x3 : BitVec 6) (x4 : BitVec 3) (x5 : BitVec 6) :
    fld (pack7_4_6_6_3_6 x0 x1 x2 x3 x4 x5) 9 6 = x3 := by
  apply BitVec.eq_of_toNat_eq
  simp only [fld, pack7_4_6_6_3_6, BitVec.toNat_ofNat]
  have := x0.isLt; have := x1.isLt; have := x2.isLt; have := x3.isLt; have := x4.isLt; have := x5.isLt; omega

@[simp] theorem pack7_4_6_6_3_6_at6 (x0 : BitVec 7) (x1 : BitVec 4) (x2 : BitVec 6) (x3 : BitVec 6) (x4 : BitVec 3) (x5 : BitVec 6) :
    fld (pack7_4_6_6_3_6 x0 x1 x2 x3 x4 x5) 6 3 = x4 := by
  apply BitVec.eq_of_toNat_eq
  simp only [fld, pack7_4_6_6_3_6, BitVec.toNat_ofNat]
  have := x0.isLt; have := x1.isLt; have := x2.isLt; have := x3.isLt; have := x4.isLt; have := x5.isLt; omega

@[simp] theorem pack7_4_6_6_3_6_at0 (x0 : BitVec 7) (x1 : BitVec 4) (x2 : BitVec 6) (x3 : BitVec 6) (x4 : BitVec 3) (x5 : BitVec 6) :
    fld (pack7_4_6_6_3_6 x0 x1 x2 x3 x4 x5) 0 6 = x5 := by
  apply BitVec.eq_of_toNat_eq
  simp only [fld, pack7_4_6_6_3_6, BitVec.toNat_ofNat]
  have := x0.isLt; have := x1.isLt; have := x2.isLt; have := x3.isLt; have := x4.isLt; have := x5.isLt; omega

@[simp] theorem pack7_4_7_6_6_2_at25 (x0 : BitVec 7) (x1 : BitVec 4) (x2 : BitVec 7) (x3 : BitVec 6) (x4 : BitVec 6) (x5 : BitVec 2) :
    fld (pack7_4_7_6_6_2 x0 x1 x2 x3 x4 x5) 25 7 = x0 := by
  apply BitVec.eq_of_toNat_eq
  simp only [fld, pack7_4_7_6_6_2, BitVec.toNat_ofNat]
  have := x0.isLt; have := x1.isLt; have := x2.isLt; have := x3.isLt; have := x4.isLt; have := x5.isLt; omega

@[simp] theorem pack7_4_7_6_6_2_at21 (x0 : BitVec 7) (x1 : BitVec 4) (x2 : BitVec 7) (x3 : BitVec 6) (x4 : BitVec 6) (x5 : BitVec 2) :
    fld (pack7_4_7_6_6_2 x0 x1 x2 x3 x4 x5) 21 4 = x1 := by
  apply BitVec.eq_of_toNat_eq
  simp only [fld, pack7_4_7_6_6_2, BitVec.toNat_ofNat]
  have := x0.isLt; have := x1.isLt; have := x2.isLt; have := x3.isLt; have := x4.isLt; have := x5.isLt; omega

@[simp] theorem pack7_4_7_6_6_2_at14 (x0 : BitVec 7) (x1 : BitVec 4) (x2 : BitVec 7) (x3 : BitVec 6) (x4 : BitVec 6) (x5 : BitVec 2) :
    fld (pack7_4_7_6_6_2 x0 x1 x2 x3 x4 x5) 14 7 = x2 := by
  apply BitVec.eq_of_toNat_eq
  simp only [fld, pack7_4_7_6_6_2, BitVec.toNat_ofNat]
  have := x0.isLt; have := x1.isLt; have := x2.isLt; have := x3.isLt; have := x4.isLt; have := x5.isLt; omega

@[simp] theorem pack7_4_7_6_6_2_at8 (x0 : BitVec 7) (x1 : BitVec 4) (x2 : BitVec 7) (x3 : BitVec 6) (x4 : BitVec 6) (x5 : BitVec 2) :
    fld (pack7_4_7_6_6_2 x0 x1 x2 x3 x4 x5) 8 6 = x3 := by
  apply BitVec.eq_of_toNat_eq
  simp only [fld, pack7_4_7_6_6_2, BitVec.toNat_ofNat]
  have := x0.isLt; have := x1.isLt; have := x2.isLt; have := x3.isLt; have := x4.isLt; have := x5.isLt; omega

@[simp] theorem pack7_4_7_6_6_2_at2 (x0 : BitVec 7) (x1 : BitVec 4) (x2 : BitVec 7) (x3 : BitVec 6) (x4 : BitVec 6) (x5 : BitVec 2) :
    fld (pack7_4_7_6_6_2 x0 x1 x2 x3 x4 x5) 2 6 = x4 := by
  apply BitVec.eq_of_toNat_eq
  simp only [fld, pack7_4_7_6_6_2, BitVec.toNat_ofNat]
  have := x0.isLt; have := x1.isLt; have := x2.isLt; have := x3.isLt; have := x4.isLt; have := x5.isLt; omega

@[simp] theorem pack7_4_7_6_6_2_at0 (x0 : BitVec 7) (x1 : BitVec 4) (x2 : BitVec 7) (x3 : BitVec 6) (x4 : BitVec 6) (x5 : BitVec 2) :
    fld (pack7_4_7_6_6_2 x0 x1 x2 x3 x4 x5) 0 2 = x5 := by
  apply BitVec.eq_of_toNat_eq
  simp only [fld, pack7_4_7_6_6_2, BitVec.toNat_ofNat]
  have := x0.isLt; have := x1.isLt; have := x2.isLt; have := x3.isLt; have := x4.isLt; have := x5.isLt; omega

@[simp] theorem pack7_4_7_7_7_at25 (x0 : BitVec 7) (x1 : BitVec 4) (x2 : BitVec 7) (x3 : BitVec 7) (x4 : BitVec 7) :
    fld (pack7_4_7_7_7 x0 x1 x2 x3 x4) 25 7 = x0 := by
  apply BitVec.eq_of_toNat_eq
  simp only [fld, pack7_4_7_7_7, BitVec.toNat_ofNat]
  have := x0.isLt; have := x1.isLt; have := x2.isLt; have := x3.isLt; have := x4.isLt; omega

@[simp] theorem pack7_4_7_7_7_at21 (x0 : BitVec 7) (x1 : BitVec 4) (x2 : BitVec 7) (x3 : BitVec 7) (x4 : BitVec 7) :
    fld (pack7_4_7_7_7 x0 x1 x2 x3 x4) 21 4 = x1 := by
  apply BitVec.eq_of_toNat_eq
  simp only [fld, pack7_4_7_7_7, BitVec.toNat_ofNat]
  have := x0.isLt; have := x1.isLt; have := x2.isLt; have := x3.isLt; have := x4.isLt; omega

@[simp] theorem pack7_4_7_7_7_at14 (x0 : BitVec 7) (x1 : BitVec 4) (x2 : BitVec 7) (x3 : BitVec 7) (x4 : BitVec 7) :
    fld (pack7_4_7_7_7 x0 x1 x2 x3 x4) 14 7 = x2 := by
  apply BitVec.eq_of_toNat_eq
  simp only [fld, pack7_4_7_7_7, BitVec.toNat_ofNat]
  have := x0.isLt; have := x1.isLt; have := x2.isLt; have := x3.isLt; have := x4.isLt; omega

@[simp] theorem pack7_4_7_7_7_at7 (x0 : BitVec 7) (x1 : BitVec 4) (x2 : BitVec 7) (x3 : BitVec 7) (x4 : BitVec 7) :
    fld (pack7_4_7_7_7 x0 x1 x2 x3 x4) 7 7 = x3 := by
  apply BitVec.eq_of_toNat_eq
  simp only [fld, pack7_4_7_7_7, BitVec.toNat_ofNat]
  have := x0.isLt; have := x1.isLt; have := x2.isLt; have := x3.isLt; have := x4.isLt; omega

@[simp] theorem pack7_4_7_7_7_at0 (x0 : BitVec 7) (x1 : BitVec 4) (x2 : BitVec 7) (x3 : BitVec 7) (x4 : BitVec 7) :
    fld (pack7_4_7_7_7 x0 x1 x2 x3 x4) 0 7 = x4 := by
  apply BitVec.eq_of_toNat_eq
  simp only [fld, pack7_4_7_7_7, BitVec.toNat_ofNat]
  have := x0.isLt; have := x1.isLt; have := x2.isLt; have := x3.isLt; have := x4.isLt; omega

@[simp] theorem pack7_4_7_6_8_at25 (x0 : BitVec 7) (x1 : BitVec 4) (x2 : BitVec 7) (x3 : BitVec 6) (x4 : BitVec 8) :
    fld (pack7_4_7_6_8 x0 x1 x2 x3 x4) 25 7 = x0 := by
  apply BitVec.eq_of_toNat_eq
  simp only [fld, pack7_4_7_6_8, BitVec.toNat_ofNat]
  have := x0.isLt; have := x1.isLt; have := x2.isLt; have := x3.isLt; have := x4.isLt; omega

@[simp] theorem pack7_4_7_6_8_at21 (x0 : BitVec 7) (x1 : BitVec 4) (x2 : BitVec 7) (x3 : BitVec 6) (x4 : BitVec 8) :
    fld (pack7_4_7_6_8 x0 x1 x2 x3 x4) 21 4 = x1 := by
  apply BitVec.eq_of_toNat_eq
  simp only [fld, pack7_4_7_6_8, BitVec.toNat_ofNat]
  have := x0.isLt; have := x1.isLt; have := x2.isLt; have := x3.isLt; have := x4.isLt; omega

@[simp] theorem pack7_4_7_6_8_at14 (x0 : BitVec 7) (x1 : BitVec 4) (x2 : BitVec 7) (x3 : BitVec 6) (x4 : BitVec 8) :
    fld (pack7_4_7_6_8 x0 x1 x2 x3 x4) 14 7 = x2 := by
  apply BitVec.eq_of_toNat_eq
  simp only [fld, pack7_4_7_6_8, BitVec.toNat_ofNat]
  have := x0.isLt; have := x1.isLt; have := x2.isLt; have := x3.isLt; have := x4.isLt; omega

@[simp] theorem pack7_4_7_6_8_at8 (x0 : BitVec 7) (x1 : BitVec 4) (x2 : BitVec 7) (x3 : BitVec 6) (x4 : BitVec 8) :
    fld (pack7_4_7_6_8 x0 x1 x2 x3 x4) 8 6 = x3 := by
  apply BitVec.eq_of_toNat_eq
  simp only [fld, pack7_4_7_6_8, BitVec.toNat_ofNat]
  have := x0.isLt; have := x1.isLt; have := x2.isLt; have := x3.isLt; have := x4.isLt; omega

@[simp] theorem pack7_4_7_6_8_at0 (x0 : BitVec 7) (x1 : BitVec 4) (x2 : BitVec 7) (x3 : BitVec 6) (x4 : BitVec 8) :
    fld (pack7_4_7_6_8 x0 x1 x2 x3 x4) 0 8 = x4 := by
  apply BitVec.eq_of_toNat_eq
  simp only [fld, pack7_4_7_6_8, BitVec.toNat_ofNat]
  have := x0.isLt; have := x1.isLt; have := x2.isLt; have := x3.isLt; have := x4.isLt; omega

@[simp] theorem pack7_4_3_5_13_at25 (x0 : BitVec 7) (x1 : BitVec 4) (x2 : BitVec 3) (x3 : BitVec 5) (x4 : BitVec 13) :
    fld (pack7_4_3_5_13 x0 x1 x2 x3 x4) 25 7 = x0 := by
  apply BitVec.eq_of_toNat_eq
  simp only [fld, pack7_4_3_5_13, BitVec.toNat_ofNat]
  have := x0.isLt; have := x1.isLt; have := x2.isLt; have := x3.isLt; have := x4.isLt; omega

@[simp] theorem pack7_4_3_5_13_at21 (x0 : BitVec 7) (x1 : BitVec 4) (x2 : BitVec 3) (x3 : BitVec 5) (x4 : BitVec 13) :
    fld (pack7_4_3_5_13 x0 x1 x2 x3 x4) 21 4 = x1 := by
  apply BitVec.eq_of_toNat_eq
  simp only [fld, pack7_4_3_5_13, BitVec.toNat_ofNat]
  have := x0.isLt; have := x1.isLt; have := x2.isLt; have := x3.isLt; have := x4.isLt; omega

@[simp] theorem pack7_4_3_5_13_at18 (x0 : BitVec 7) (x1 : BitVec 4) (x2 : BitVec 3) (x3 : BitVec 5) (x4 : BitVec 13) :
    fld (pack7_4_3_5_13 x0 x1 x2 x3 x4) 18 3 = x2 := by
  apply BitVec.eq_of_toNat_eq
  simp only [fld, pack7_4_3_5_13, BitVec.toNat_ofNat]
  have := x0.isLt; have := x1.isLt; have := x2.isLt; have := x3.isLt; have := x4.isLt; omega

@[simp] theorem pack7_4_3_5_13_at13 (x0 : BitVec 7) (x1 : BitVec 4) (x2 : BitVec 3) (x3 : BitVec 5) (x4 : BitVec 13) :
    fld (pack7_4_3_5_13 x0 x1 x2 x3 x4) 13 5 = x3 := by
  apply BitVec.eq_of_toNat_eq
  simp only [fld, pack7_4_3_5_13, BitVec.toNat_ofNat]
  have := x0.isLt; have := x1.isLt; have := x2.isLt; have := x3.isLt; have := x4.isLt; omega

@[simp] theorem pack7_4_3_5_13_at0 (x0 : BitVec 7) (x1 : BitVec 4) (x2 : BitVec 3) (x3 : BitVec 5) (x4 : BitVec 13) :
    fld (pack7_4_3_5_13 x0 x1 x2 x3 x4) 0 13 = x4 := by
  apply BitVec.eq_of_toNat_eq
  simp only [fld, pack7_4_3_5_13, BitVec.toNat_ofNat]
  have := x0.isLt; have := x1.isLt; have := x2.isLt; have := x3.isLt; have := x4.isLt; omega

@[simp] theorem pack7_4_3_12_6_at25 (x0 : BitVec 7) (x1 : BitVec 4) (x2 : BitVec 3) (x3 : BitVec 12) (x4 : BitVec 6) :
    fld (pack7_4_3_12_6 x0 x1 x2 x3 x4) 25 7 = x0 := by
  apply BitVec.eq_of_toNat_eq
  simp only [fld, pack7_4_3_12_6, BitVec.toNat_ofNat]
  have := x0.isLt; have := x1.isLt; have := x2.isLt; have := x3.isLt; have := x4.isLt; omega

@[simp] theorem pack7_4_3_12_6_at21 (x0 : BitVec 7) (x1 : BitVec 4) (x2 : BitVec 3) (x3 : BitVec 12) (x4 : BitVec 6) :
    fld (pack7_4_3_12_6 x0 x1 x2 x3 x4) 21 4 = x1 := by
  apply BitVec.eq_of_toNat_eq
  simp only [fld, pack7_4_3_12_6, BitVec.toNat_ofNat]
  have := x0.isLt; have := x1.isLt; have := x2.isLt; have := x3.isLt; have := x4.isLt; omega

@[simp] theorem pack7_4_3_12_6_at18 (x0 : BitVec 7) (x1 : BitVec 4) (x2 : BitVec 3) (x3 : BitVec 12) (x4 : BitVec 6) :
    fld (pack7_4_3_12_6 x0 x1 x2 x3 x4) 18 3 = x2 := by
  apply BitVec.eq_of_toNat_eq
  simp only [fld, pack7_4_3_12_6, BitVec.toNat_ofNat]
  have := x0.isLt; have := x1.isLt; have := x2.isLt; have := x3.isLt; have := x4.isLt; omega

@[simp] theorem pack7_4_3_12_6_at6 (x0 : BitVec 7) (x1 : BitVec 4) (x2 : BitVec 3) (x3 : BitVec 12) (x4 : BitVec 6) :
    fld (pack7_4_3_12_6 x0 x1 x2 x3 x4) 6 12 = x3 := by
  apply BitVec.eq_of_toNat_eq
  simp only [fld, pack7_4_3_12_6, BitVec.toNat_ofNat]
  have := x0.isLt; have := x1.isLt; have := x2.isLt; have := x3.isLt; have := x4.isLt; omega

@[simp] theorem pack7_4_3_12_6_at0 (x0 : BitVec 7) (x1 : BitVec 4) (x2 : BitVec 3) (x3 : BitVec 12) (x4 : BitVec 6) :
    fld (pack7_4_3_12_6 x0 x1 x2 x3 x4) 0 6 = x4 := by
  apply BitVec.eq_of_toNat_eq
  simp only [fld, pack7_4_3_12_6, BitVec.toNat_ofNat]
  have := x0.isLt; have := x1.isLt; have := x2.isLt; have := x3.isLt; have := x4.isLt; omega

@[simp] theorem pack7_4_3_5_7_6_at25 (x0 : BitVec 7) (x1 : BitVec 4) (x2 : BitVec 3) (x3 : BitVec 5) (x4 : BitVec 7) (x5 : BitVec 6) :
    fld (pack7_4_3_5_7_6 x0 x1 x2 x3 x4 x5) 25 7 = x0 := by
  apply BitVec.eq_of_toNat_eq
  simp only [fld, pack7_4_3_5_7_6, BitVec.toNat_ofNat]
  have := x0.isLt; have := x1.isLt; have := x2.isLt; have := x3.isLt; have := x4.isLt; have := x5.isLt; omega

@[simp] theorem pack7_4_3_5_7_6_at21 (x0 : BitVec 7) (x1 : BitVec 4) (x2 : BitVec 3) (x3 : BitVec 5) (x4 : BitVec 7) (x5 : BitVec 6) :
    fld (pack7_4_3_5_7_6 x0 x1 x2 x3 x4 x5) 21 4 = x1 := by
  apply BitVec.eq_of_toNat_eq
  simp only [fld, pack7_4_3_5_7_6, BitVec.toNat_ofNat]
  have := x0.isLt; have := x1.isLt; have := x2.isLt; have := x3.isLt; have := x4.isLt; have := x5.isLt; omega

@[simp] theorem pack7_4_3_5_7_6_at18 (x0 : BitVec 7) (x1 : BitVec 4) (x2 : BitVec 3) (x3 : BitVec 5) (x4 : BitVec 7) (x5 : BitVec 6) :
    fld (pack7_4_3_5_7_6 x0 x1 x2 x3 x4 x5) 18 3 = x2 := by
  apply BitVec.eq_of_toNat_eq
  simp only [fld, pack7_4_3_5_7_6, BitVec.toNat_ofNat]
  have := x0.isLt; have := x1.isLt; have := x2.isLt; have := x3.isLt; have := x4.isLt; have := x5.isLt; omega

@[simp] theorem pack7_4_3_5_7_6_at13 (x0 : BitVec 7) (x1 : BitVec 4) (x2 : BitVec 3) (x3 : BitVec 5) (x4 : BitVec 7) (x5 : BitVec 6) :
    fld (pack7_4_3_5_7_6 x0 x1 x2 x3 x4 x5) 13 5 = x3 := by
  apply BitVec.eq_of_toNat_eq
  simp only [fld, pack7_4_3_5_7_6, BitVec.toNat_ofNat]
  have := x0.isLt; have := x1.isLt; have := x2.isLt; have := x3.isLt; have := x4.isLt; have := x5.isLt; omega

@[simp] theorem pack7_4_3_5_7_6_at6 (x0 : BitVec 7) (x1 : BitVec 4) (x2 : BitVec 3) (x3 : BitVec 5) (x4 : BitVec 7) (x5 : BitVec 6) :
    fld (pack7_4_3_5_7_6 x0 x1 x2 x3 x4 x5) 6 7 = x4 := by
  apply BitVec.eq_of_toNat_eq
  simp only [fld, pack7_4_3_5_7_6, BitVec.toNat_ofNat]
  have := x0.isLt; have := x1.isLt; have := x2.isLt; have := x3.isLt; have := x4.isLt; have := x5.isLt; omega

@[simp] theorem pack7_4_3_5_7_6_at0 (x0 : BitVec 7) (x1 : BitVec 4) (x2 : BitVec 3) (x3 : BitVec 5) (x4 : BitVec 7) (x5 : BitVec 6) :
    fld (pack7_4_3_5_7_6 x0 x1 x2 x3 x4 x5) 0 6 = x5 := by
  apply BitVec.eq_of_toNat_eq
  simp only [fld, pack7_4_3_5_7_6, BitVec.toNat_ofNat]
  have := x0.isLt; have := x1.isLt; have := x2.isLt; have := x3.isLt; have := x4.isLt; have := x5.isLt; omega

@[simp] theorem pack7_4_8_7_6_at25 (x0 : BitVec 7) (x1 : BitVec 4) (x2 : BitVec 8) (x3 : BitVec 7) (x4 : BitVec 6) :
    fld (pack7_4_8_7_6 x0 x1 x2 x3 x4) 25 7 = x0 := by
  apply BitVec.eq_of_toNat_eq
  simp only [fld, pack7_4_8_7_6, BitVec.toNat_ofNat]
  have := x0.isLt; have := x1.isLt; have := x2.isLt; have := x3.isLt; have := x4.isLt; omega

@[simp] theorem pack7_4_8_7_6_at21 (x0 : BitVec 7) (x1 : BitVec 4) (x2 : BitVec 8) (x3 : BitVec 7) (x4 : BitVec 6) :
    fld (pack7_4_8_7_6 x0 x1 x2 x3 x4) 21 4 = x1 := by
  apply BitVec.eq_of_toNat_eq
  simp only [fld, pack7_4_8_7_6, BitVec.toNat_ofNat]
  have := x0.isLt; have := x1.isLt; have := x2.isLt; have := x3.isLt; have := x4.isLt; omega

@[simp] theorem pack7_4_8_7_6_at13 (x0 : BitVec 7) (x1 : BitVec 4) (x2 : BitVec 8) (x3 : BitVec 7) (x4 : BitVec 6) :
    fld (pack7_4_8_7_6 x0 x1 x2 x3 x4) 13 8 = x2 := by
  apply BitVec.eq_of_toNat_eq
  simp only [fld, pack7_4_8_7_6, BitVec.toNat_ofNat]
  have := x0.isLt; have := x1.isLt; have := x2.isLt; have := x3.isLt; have := x4.isLt; omega

@[simp] theorem pack7_4_8_7_6_at6 (x0 : BitVec 7) (x1 : BitVec 4) (x2 : BitVec 8) (x3 : BitVec 7) (x4 : BitVec 6) :
    fld (pack7_4_8_7_6 x0 x1 x2 x3 x4) 6 7 = x3 := by
  apply BitVec.eq_of_toNat_eq
  simp only [fld, pack7_4_8_7_6, BitVec.toNat_ofNat]
  have := x0.isLt; have := x1.isLt; have := x2.isLt; have := x3.isLt; have := x4.isLt; omega

@[simp] theorem pack7_4_8_7_6_at0 (x0 : BitVec 7) (x1 : BitVec 4) (x2 : BitVec 8) (x3 : BitVec 7) (x4 : BitVec 6) :
    fld (pack7_4_8_7_6 x0 x1 x2 x3 x4) 0 6 = x4 := by
  apply BitVec.eq_of_toNat_eq
  simp only [fld, pack7_4_8_7_6, BitVec.toNat_ofNat]
  have := x0.isLt; have := x1.isLt; have := x2.isLt; have := x3.isLt; have := x4.isLt; omega

@[simp] theorem pack7_4_3_18_at25 (x0 : BitVec 7) (x1 : BitVec 4) (x2 : BitVec 3) (x3 : BitVec 18) :
    fld (pack7_4_3_18 x0 x1 x2 x3) 25 7 = x0 := by
  apply BitVec.eq_of_toNat_eq
  simp only [fld, pack7_4_3_18, BitVec.toNat_ofNat]
  have := x0.isLt; have := x1.isLt; have := x2.isLt; have := x3.isLt; omega

@[simp] theorem pack7_4_3_18_at21 (x0 : BitVec 7) (x1 : BitVec 4) (x2 : BitVec 3) (x3 : BitVec 18) :
    fld (pack7_4_3_18 x0 x1 x2 x3) 21 4 = x1 := by
  apply BitVec.eq_of_toNat_eq
  simp only [fld, pack7_4_3_18, BitVec.toNat_ofNat]
  have := x0.isLt; have := x1.isLt; have := x2.isLt; have := x3.isLt; omega

@[simp] theorem pack7_4_3_18_at18 (x0 : BitVec 7) (x1 : BitVec 4) (x2 : BitVec 3) (x3 : BitVec 18) :
    fld (pack7_4_3_18 x0 x1 x2 x3) 18 3 = x2 := by
  apply BitVec.eq_of_toNat_eq
  simp only [fld, pack7_4_3_18, BitVec.toNat_ofNat]
  have := x0.isLt; have := x1.isLt; have := x2.isLt; have := x3.isLt; omega

@[simp] theorem pack7_4_3_18_at0 (x0 : BitVec 7) (x1 : BitVec 4) (x2 : BitVec 3) (x3 : BitVec 18) :
    fld (pack7_4_3_18 x0 x1 x2 x3) 0 18 = x3 := by
  apply BitVec.eq_of_toNat_eq
  simp only [fld, pack7_4_3_18, BitVec.toNat_ofNat]
  have := x0.isLt; have := x1.isLt; have := x2.isLt; have := x3.isLt; omega

@[simp] theorem pack7_4_2_1_18_at25 (x0 : BitVec 7) (x1 : BitVec 4) (x2 : BitVec 2) (x3 : BitVec 1) (x4 : BitVec 18) :
    fld (pack7_4_2_1_18 x0 x1 x2 x3 x4) 25 7 = x0 := by
  apply BitVec.eq_of_toNat_eq
  simp only [fld, pack7_4_2_1_18, BitVec.toNat_ofNat]
  have := x0.isLt; have := x1.isLt; have := x2.isLt; have := x3.isLt; have := x4.isLt; omega

@[simp] theorem pack7_4_2_1_18_at21 (x0 : BitVec 7) (x1 : BitVec 4) (x2 : BitVec 2) (x3 : BitVec 1) (x4 : BitVec 18) :
    fld (pack7_4_2_1_18 x0 x1 x2 x3 x4) 21 4 = x1 := by
  apply BitVec.eq_of_toNat_eq
  simp only [fld, pack7_4_2_1_18, BitVec.toNat_ofNat]
  have := x0.isLt; have := x1.isLt; have := x2.isLt; have := x3.isLt; have := x4.isLt; omega

@[simp] theorem pack7_4_2_1_18_at19 (x0 : BitVec 7) (x1 : BitVec 4) (x2 : BitVec 2) (x3 : BitVec 1) (x4 : BitVec 18) :
    fld (pack7_4_2_1_18 x0 x1 x2 x3 x4) 19 2 = x2 := by
  apply BitVec.eq_of_toNat_eq
  simp only [fld, pack7_4_2_1_18, BitVec.toNat_ofNat]
  have := x0.isLt; have := x1.isLt; have := x2.isLt; have := x3.isLt; have := x4.isLt; omega

@[simp] theorem pack7_4_2_1_18_at18 (x0 : BitVec 7) (x1 : BitVec 4) (x2 : BitVec 2) (x3 : BitVec 1) (x4 : BitVec 18) :
    fld (pack7_4_2_1_18 x0 x1 x2 x3 x4) 18 1 = x3 := by
  apply BitVec.eq_of_toNat_eq
  simp only [fld, pack7_4_2_1_18, BitVec.toNat_ofNat]
  have := x0.isLt; have := x1.isLt; have := x2.isLt; have := x3.isLt; have := x4.isLt; omega

@[simp] theorem pack7_4_2_1_18_at0 (x0 : BitVec 7) (x1 : BitVec 4) (x2 : BitVec 2) (x3 : BitVec 1) (x4 : BitVec 18) :
    fld (pack7_4_2_1_18 x0 x1 x2 x3 x4) 0 18 = x4 := by
  apply BitVec.eq_of_toNat_eq
  simp only [fld, pack7_4_2_1_18, BitVec.toNat_ofNat]
  have := x0.isLt; have := x1.isLt; have := x2.isLt; have := x3.isLt; have := x4.isLt; omega

@[simp] theorem pack7_4_2_13_6_at25 (x0 : BitVec 7) (x1 : BitVec 4) (x2 : BitVec 2) (x3 : BitVec 13) (x4 : BitVec 6) :
    fld (pack7_4_2_13_6 x0 x1 x2 x3 x4) 25 7 = x0 := by
  apply BitVec.eq_of_toNat_eq
  simp only [fld, pack7_4_2_13_6, BitVec.toNat_ofNat]
  have := x0.isLt; have := x1.isLt; have := x2.isLt; have := x3.isLt; have := x4.isLt; omega

@[simp] theorem pack7_4_2_13_6_at21 (x0 : BitVec 7) (x1 : BitVec 4) (x2 : BitVec 2) (x3 : BitVec 13) (x4 : BitVec 6) :
    fld (pack7_4_2_13_6 x0 x1 x2 x3 x4) 21 4 = x1 := by
  apply BitVec.eq_of_toNat_eq
  simp only [fld, pack7_4_2_13_6, BitVec.toNat_ofNat]
  have := x0.isLt; have := x1.isLt; have := x2.isLt; have := x3.isLt; have := x4.isLt; omega

@[simp] theorem pack7_4_2_13_6_at19 (x0 : BitVec 7) (x1 : BitVec 4) (x2 : BitVec 2) (x3 : BitVec 13) (x4 : BitVec 6) :
    fld (pack7_4_2_13_6 x0 x1 x2 x3 x4) 19 2 = x2 := by
  apply BitVec.eq_of_toNat_eq
  simp only [fld, pack7_4_2_13_6, BitVec.toNat_ofNat]
  have := x0.isLt; have := x1.isLt; have := x2.isLt; have := x3.isLt; have := x4.isLt; omega

@[simp] theorem pack7_4_2_13_6_at6 (x0 : BitVec 7) (x1 : BitVec 4) (x2 : BitVec 2) (x3 : BitVec 13) (x4 : BitVec 6) :
    fld (pack7_4_2_13_6 x0 x1 x2 x3 x4) 6 13 = x3 := by
  apply BitVec.eq_of_toNat_eq
  simp only [fld, pack7_4_2_13_6, BitVec.toNat_ofNat]
  have := x0.isLt; have := x1.isLt; have := x2.isLt; have := x3.isLt; have := x4.isLt; omega

@[simp] theorem pack7_4_2_13_6_at0 (x0 : BitVec 7) (x1 : BitVec 4) (x2 : BitVec 2) (x3 : BitVec 13) (x4 : BitVec 6) :
    fld (pack7_4_2_13_6 x0 x1 x2 x3 x4) 0 6 = x4 := by
  apply BitVec.eq_of_toNat_eq
  simp only [fld, pack7_4_2_13_6, BitVec.toNat_ofNat]
  have := x0.isLt; have := x1.isLt; have := x2.isLt; have := x3.isLt; have := x4.isLt; omega

@[simp] theorem pack7_4_21_at25 (x0 : BitVec 7) (x1 : BitVec 4) (x2 : BitVec 21) :
    fld (pack7_4_21 x0 x1 x2) 25 7 = x0 := by
  apply BitVec.eq_of_toNat_eq
  simp only [fld, pack7_4_21, BitVec.toNat_ofNat]
  have := x0.isLt; have := x1.isLt; have := x2.isLt; omega

@[simp] theorem pack7_4_21_at21 (x0 : BitVec 7) (x1 : BitVec 4) (x2 : BitVec 21) :
    fld (pack7_4_21 x0 x1 x2) 21 4 = x1 := by
  apply BitVec.eq_of_toNat_eq
  simp only [fld, pack7_4_21, BitVec.toNat_ofNat]
  have := x0.isLt; have := x1.isLt; have := x2.isLt; omega

@[simp] theorem pack7_4_21_at0 (x0 : BitVec 7) (x1 : BitVec 4) (x2 : BitVec 21) :
    fld (pack7_4_21 x0 x1 x2) 0 21 = x2 := by
  apply BitVec.eq_of_toNat_eq
  simp only [fld, pack7_4_21, BitVec.toNat_ofNat]
  have := x0.isLt; have := x1.isLt; have := x2.isLt; omega

@[simp] theorem pack7_4_15_6_at25 (x0 : BitVec 7) (x1 : BitVec 4) (x2 : BitVec 15) (x3 : BitVec 6) :
    fld (pack7_4_15_6 x0 x1 x2 x3) 25 7 = x0 := by
  apply BitVec.eq_of_toNat_eq
  simp only [fld, pack7_4_15_6, BitVec.toNat_ofNat]
  have := x0.isLt; have := x1.isLt; have := x2.isLt; have := x3.isLt; omega

@[simp] theorem pack7_4_15_6_at21 (x0 : BitVec 7) (x1 : BitVec 4) (x2 : BitVec 15) (x3 : BitVec 6) :
    fld (pack7_4_15_6 x0 x1 x2 x3) 21 4 = x1 := by
  apply BitVec.eq_of_toNat_eq
  simp only [fld, pack7_4_15_6, BitVec.toNat_ofNat]
  have := x0.isLt; have := x1.isLt; have := x2.isLt; have := x3.isLt; omega

@[simp] theorem pack7_4_15_6_at6 (x0 : BitVec 7) (x1 : BitVec 4) (x2 : BitVec 15) (x3 : BitVec 6) :
    fld (pack7_4_15_6 x0 x1 x2 x3) 6 15 = x2 := by
  apply BitVec.eq_of_toNat_eq
  simp only [fld, pack7_4_15_6, BitVec.toNat_ofNat]
  have := x0.isLt; have := x1.isLt; have := x2.isLt; have := x3.isLt; omega

@[simp] theorem pack7_4_15_6_at0 (x0 : BitVec 7) (x1 : BitVec 4) (x2 : BitVec 15) (x3 : BitVec 6) :
    fld (pack7_4_15_6 x0 x1 x2 x3) 0 6 = x3 := by
  apply BitVec.eq_of_toNat_eq
  simp only [fld, pack7_4_15_6, BitVec.toNat_ofNat]
  have := x0.isLt; have := x1.isLt; have := x2.isLt; have := x3.isLt; omega

@[simp] theorem pack7_4_6_8_7_at25 (x0 : BitVec 7) (x1 : BitVec 4) (x2 : BitVec 6) (x3 : BitVec 8) (x4 : BitVec 7) :
    fld (pack7_4_6_8_7 x0 x1 x2 x3 x4) 25 7 = x0 := by
  apply BitVec.eq_of_toNat_eq
  simp only [fld, pack7_4_6_8_7, BitVec.toNat_ofNat]
  have := x0.isLt; have := x1.isLt; have := x2.isLt; have := x3.isLt; have := x4.isLt; omega

@[simp] theorem pack7_4_6_8_7_at21 (x0 : BitVec 7) (x1 : BitVec 4) (x2 : BitVec 6) (x3 : BitVec 8) (x4 : BitVec 7) :
    fld (pack7_4_6_8_7 x0 x1 x2 x3 x4) 21 4 = x1 := by
  apply BitVec.eq_of_toNat_eq
  simp only [fld, pack7_4_6_8_7, BitVec.toNat_ofNat]
  have := x0.isLt; have := x1.isLt; have := x2.isLt; have := x3.isLt; have := x4.isLt; omega

@[simp] theorem pack7_4_6_8_7_at15 (x0 : BitVec 7) (x1 : BitVec 4) (x2 : BitVec 6) (x3 : BitVec 8) (x4 : BitVec 7) :
    fld (pack7_4_6_8_7 x0 x1 x2 x3 x4) 15 6 = x2 := by
  apply BitVec.eq_of_toNat_eq
  simp only [fld, pack7_4_6_8_7, BitVec.toNat_ofNat]
  have := x0.isLt; have := x1.isLt; have := x2.isLt; have := x3.isLt; have := x4.isLt; omega

@[simp] theorem pack7_4_6_8_7_at7 (x0 : BitVec 7) (x1 : BitVec 4) (x2 : BitVec 6) (x3 : BitVec 8) (x4 : BitVec 7) :
    fld (pack7_4_6_8_7 x0 x1 x2 x3 x4) 7 8 = x3 := by
  apply BitVec.eq_of_toNat_eq
  simp only [fld, pack7_4_6_8_7, BitVec.toNat_ofNat]
  have := x0.isLt; have := x1.isLt; have := x2.isLt; have := x3.isLt; have := x4.isLt; omega

@[simp] theorem pack7_4_6_8_7_at0 (x0 : BitVec 7) (x1 : BitVec 4) (x2 : BitVec 6) (x3 : BitVec 8) (x4 : BitVec 7) :
    fld (pack7_4_6_8_7 x0 x1 x2 x3 x4) 0 7 = x4 := by
  apply BitVec.eq_of_toNat_eq
  simp only [fld, pack7_4_6_8_7, BitVec.toNat_ofNat]
  have := x0.isLt; have := x1.isLt; have := x2.isLt; have := x3.isLt; have := x4.isLt; omega

@[simp] theorem pack7_4_6_15_at25 (x0 : BitVec 7) (x1 : BitVec 4) (x2 : BitVec 6) (x3 : BitVec 15) :
    fld (pack7_4_6_15 x0 x1 x2 x3) 25 7 = x0 := by
  apply BitVec.eq_of_toNat_eq
  simp only [fld, pack7_4_6_15, BitVec.toNat_ofNat]
  have := x0.isLt; have := x1.isLt; have := x2.isLt; have := x3.isLt; omega

@[simp] theorem pack7_4_6_15_at21 (x0 : BitVec 7) (x1 : BitVec 4) (x2 : BitVec 6) (x3 : BitVec 15) :
    fld (pack7_4_6_15 x0 x1 x2 x3) 21 4 = x1 := by
  apply BitVec.eq_of_toNat_eq
  simp only [fld, pack7_4_6_15, BitVec.toNat_ofNat]
  have := x0.isLt; have := x1.isLt; have := x2.isLt; have := x3.isLt; omega

@[simp] theorem pack7_4_6_15_at15 (x0 : BitVec 7) (x1 : BitVec 4) (x2 : BitVec 6) (x3 : BitVec 15) :
    fld (pack7_4_6_15 x0 x1 x2 x3) 15 6 = x2 := by
  apply BitVec.eq_of_toNat_eq
  simp only [fld, pack7_4_6_15, BitVec.toNat_ofNat]
  have := x0.isLt; have := x1.isLt; have := x2.isLt; have := x3.isLt; omega

@[simp] theorem pack7_4_6_15_at0 (x0 : BitVec 7) (x1 : BitVec 4) (x2 : BitVec 6) (x3 : BitVec 15) :
    fld (pack7_4_6_15 x0 x1 x2 x3) 0 15 = x3 := by
  apply BitVec.eq_of_toNat_eq
  simp only [fld, pack7_4_6_15, BitVec.toNat_ofNat]
  have := x0.isLt; have := x1.isLt; have := x2.isLt; have := x3.isLt; omega

@[simp] theorem pack7_4_6_5_5_5_at25 (x0 : BitVec 7) (x1 : BitVec 4) (x2 : BitVec 6) (x3 : BitVec 5) (x4 : BitVec 5) (x5 : BitVec 5) :
    fld (pack7_4_6_5_5_5 x0 x1 x2 x3 x4 x5) 25 7 = x0 := by
  apply BitVec.eq_of_toNat_eq
  simp only [fld, pack7_4_6_5_5_5, BitVec.toNat_ofNat]
  have := x0.isLt; have := x1.isLt; have := x2.isLt; have := x3.isLt; have := x4.isLt; have := x5.isLt; omega

@[simp] theorem pack7_4_6_5_5_5_at21 (x0 : BitVec 7) (x1 : BitVec 4) (x2 : BitVec 6) (x3 : BitVec 5) (x4 : BitVec 5) (x5 : BitVec 5) :
    fld (pack7_4_6_5_5_5 x0 x1 x2 x3 x4 x5) 21 4 = x1 := by
  apply BitVec.eq_of_toNat_eq
  simp only [fld, pack7_4_6_5_5_5, BitVec.toNat_ofNat]
  have := x0.isLt; have := x1.isLt; have := x2.isLt; have := x3.isLt; have := x4.isLt; have := x5.isLt; omega

@[simp] theorem pack7_4_6_5_5_5_at15 (x0 : BitVec 7) (x1 : BitVec 4) (x2 : BitVec 6) (x3 : BitVec 5) (x4 : BitVec 5) (x5 : BitVec 5) :
    fld (pack7_4_6_5_5_5 x0 x1 x2 x3 x4 x5) 15 6 = x2 := by
  apply BitVec.eq_of_toNat_eq
  simp only [fld, pack7_4_6_5_5_5, BitVec.toNat_ofNat]
  have := x0.isLt; have := x1.isLt; have := x2.isLt; have := x3.isLt; have := x4.isLt; have := x5.isLt; omega

@[simp] theorem pack7_4_6_5_5_5_at10 (x0 : BitVec 7) (x1 : BitVec 4) (x2 : BitVec 6) (x3 : BitVec 5) (x4 : BitVec 5) (x5 : BitVec 5) :
    fld (pack7_4_6_5_5_5 x0 x1 x2 x3 x4 x5) 10 5 = x3 := by
  apply BitVec.eq_of_toNat_eq
  simp only [fld, pack7_4_6_5_5_5, BitVec.toNat_ofNat]
  have := x0.isLt; have := x1.isLt; have := x2.isLt; have := x3.isLt; have := x4.isLt; have := x5.isLt; omega

@[simp] theorem pack7_4_6_5_5_5_at5 (x0 : BitVec 7) (x1 : BitVec 4) (x2 : BitVec 6) (x3 : BitVec 5) (x4 : BitVec 5) (x5 : BitVec 5) :
    fld (pack7_4_6_5_5_5 x0 x1 x2 x3 x4 x5) 5 5 = x4 := by
  apply BitVec.eq_of_toNat_eq
  simp only [fld, pack7_4_6_5_5_5, BitVec.toNat_ofNat]
  have := x0.isLt; have := x1.isLt; have := x2.isLt; have := x3.isLt; have := x4.isLt; have := x5.isLt; omega

@[simp] theorem pack7_4_6_5_5_5_at0 (x0 : BitVec 7) (x1 : BitVec 4) (x2 : BitVec 6) (x3 : BitVec 5) (x4 : BitVec 5) (x5 : BitVec 5) :
    fld (pack7_4_6_5_5_5 x0 x1 x2 x3 x4 x5) 0 5 = x5 := by
  apply BitVec.eq_of_toNat_eq
  simp only [fld, pack7_4_6_5_5_5, BitVec.toNat_ofNat]
  have := x0.isLt; have := x1.isLt; have := x2.isLt; have := x3.isLt; have := x4.isLt; have := x5.isLt; omega

@[simp] theorem pack7_4_6_6_1_5_3_at25 (x0 : BitVec 7) (x1 : BitVec 4) (x2 : BitVec 6) (x3 : BitVec 6) (x4 : BitVec 1) (x5 : BitVec 5) (x6 : BitVec 3) :
    fld (pack7_4_6_6_1_5_3 x0 x1 x2 x3 x4 x5 x6) 25 7 = x0 := by
  apply BitVec.eq_of_toNat_eq
  simp only [fld, pack7_4_6_6_1_5_3, BitVec.toNat_ofNat]
  have := x0.isLt; have := x1.isLt; have := x2.isLt; have := x3.isLt; have := x4.isLt; have := x5.isLt; have := x6.isLt; omega

@[simp] theorem pack7_4_6_6_1_5_3_at21 (x0 : BitVec 7) (x1 : BitVec 4) (x2 : BitVec 6) (x3 : BitVec 6) (x4 : BitVec 1) (x5 : BitVec 5) (x6 : BitVec 3) :
    fld (pack7_4_6_6_1_5_3 x0 x1 x2 x3 x4 x5 x6) 21 4 = x1 := by
  apply BitVec.eq_of_toNat_eq
  simp only [fld, pack7_4_6_6_1_5_3, BitVec.toNat_ofNat]
  have := x0.isLt; have := x1.isLt; have := x2.isLt; have := x3.isLt; have := x4.isLt; have := x5.isLt; have := x6.isLt; omega

@[simp] theorem pack7_4_6_6_1_5_3_at15 (x0 : BitVec 7) (x1 : BitVec 4) (x2 : BitVec 6) (x3 : BitVec 6) (x4 : BitVec 1) (x5 : BitVec 5) (x6 : BitVec 3) :
    fld (pack7_4_6_6_1_5_3 x0 x1 x2 x3 x4 x5 x6) 15 6 = x2 := by
  apply BitVec.eq_of_toNat_eq
  simp only [fld, pack7_4_6_6_1_5_3, BitVec.toNat_ofNat]
  have := x0.isLt; have := x1.isLt; have := x2.isLt; have := x3.isLt; have := x4.isLt; have := x5.isLt; have := x6.isLt; omega

@[simp] theorem pack7_4_6_6_1_5_3_at9 (x0 : BitVec 7) (x1 : BitVec 4) (x2 : BitVec 6) (x3 : BitVec 6) (x4 : BitVec 1) (x5 : BitVec 5) (x6 : BitVec 3) :
    fld (pack7_4_6_6_1_5_3 x0 x1 x2 x3 x4 x5 x6) 9 6 = x3 := by
  apply BitVec.eq_of_toNat_eq
  simp only [fld, pack7_4_6_6_1_5_3, BitVec.toNat_ofNat]
  have := x0.isLt; have := x1.isLt; have := x2.isLt; have := x3.isLt; have := x4.isLt; have := x5.isLt; have := x6.isLt; omega

@[simp] theorem pack7_4_6_6_1_5_3_at8 (x0 : BitVec 7) (x1 : BitVec 4) (x2 : BitVec 6) (x3 : BitVec 6) (x4 : BitVec 1) (x5 : BitVec 5) (x6 : BitVec 3) :
    fld (pack7_4_6_6_1_5_3 x0 x1 x2 x3 x4 x5 x6) 8 1 = x4 := by
  apply BitVec.eq_of_toNat_eq
  simp only [fld, pack7_4_6_6_1_5_3, BitVec.toNat_ofNat]
  have := x0.isLt; have := x1.isLt; have := x2.isLt; have := x3.isLt; have := x4.isLt; have := x5.isLt; have := x6.isLt; omega

@[simp] theorem pack7_4_6_6_1_5_3_at3 (x0 : BitVec 7) (x1 : BitVec 4) (x2 : BitVec 6) (x3 : BitVec 6) (x4 : BitVec 1) (x5 : BitVec 5) (x6 : BitVec 3) :
    fld (pack7_4_6_6_1_5_3 x0 x1 x2 x3 x4 x5 x6) 3 5 = x5 := by
  apply BitVec.eq_of_toNat_eq
  simp only [fld, pack7_4_6_6_1_5_3, BitVec.toNat_ofNat]
  have := x0.isLt; have := x1.isLt; have := x2.isLt; have := x3.isLt; have := x4.isLt; have := x5.isLt; have := x6.isLt; omega

@[simp] theorem pack7_4_6_6_1_5_3_at0 (x0 : BitVec 7) (x1 : BitVec 4) (x2 : BitVec 6) (x3 : BitVec 6) (x4 : BitVec 1) (x5 : BitVec 5) (x6 : BitVec 3) :
    fld (pack7_4_6_6_1_5_3 x0 x1 x2 x3 x4 x5 x6) 0 3 = x6 := by
  apply BitVec.eq_of_toNat_eq
  simp only [fld, pack7_4_6_6_1_5_3, BitVec.toNat_ofNat]
  have := x0.isLt; have := x1.isLt; have := x2.isLt; have := x3.isLt; have := x4.isLt; have := x5.isLt; have := x6.isLt; omega

@[simp] theorem pack7_4_6_3_5_3_4_at25 (x0 : BitVec 7) (x1 : BitVec 4) (x2 : BitVec 6) (x3 : BitVec 3) (x4 : BitVec 5) (x5 : BitVec 3) (x6 : BitVec 4) :
    fld (pack7_4_6_3_5_3_4 x0 x1 x2 x3 x4 x5 x6) 25 7 = x0 := by
  apply BitVec.eq_of_toNat_eq
  simp only [fld, pack7_4_6_3_5_3_4, BitVec.toNat_ofNat]
  have := x0.isLt; have := x1.isLt; have := x2.isLt; have := x3.isLt; have := x4.isLt; have := x5.isLt; have := x6.isLt; omega

@[simp] theorem pack7_4_6_3_5_3_4_at21 (x0 : BitVec 7) (x1 : BitVec 4) (x2 : BitVec 6) (x3 : BitVec 3) (x4 : BitVec 5) (x5 : BitVec 3) (x6 : BitVec 4) :
    fld (pack7_4_6_3_5_3_4 x0 x1 x2 x3 x4 x5 x6) 21 4 = x1 := by
  apply BitVec.eq_of_toNat_eq
  simp only [fld, pack7_4_6_3_5_3_4, BitVec.toNat_ofNat]
  have := x0.isLt; have := x1.isLt; have := x2.isLt; have := x3.isLt; have := x4.isLt; have := x5.isLt; have := x6.isLt; omega

@[simp] theorem pack7_4_6_3_5_3_4_at15 (x0 : BitVec 7) (x1 : BitVec 4) (x2 : BitVec 6) (x3 : BitVec 3) (x4 : BitVec 5) (x5 : BitVec 3) (x6 : BitVec 4) :
    fld (pack7_4_6_3_5_3_4 x0 x1 x2 x3 x4 x5 x6) 15 6 = x2 := by
  apply BitVec.eq_of_toNat_eq
  simp only [fld, pack7_4_6_3_5_3_4, BitVec.toNat_ofNat]
  have := x0.isLt; have := x1.isLt; have := x2.isLt; have := x3.isLt; have := x4.isLt; have := x5.isLt; have := x6.isLt; omega

@[simp] theorem pack7_4_6_3_5_3_4_at12 (x0 : BitVec 7) (x1 : BitVec 4) (x2 : BitVec 6) (x3 : BitVec 3) (x4 : BitVec 5) (x5 : BitVec 3) (x6 : BitVec 4) :
    fld (pack7_4_6_3_5_3_4 x0 x1 x2 x3 x4 x5 x6) 12 3 = x3 := by
  apply BitVec.eq_of_toNat_eq
  simp only [fld, pack7_4_6_3_5_3_4, BitVec.toNat_ofNat]
  have := x0.isLt; have := x1.isLt; have := x2.isLt; have := x3.isLt; have := x4.isLt; have := x5.isLt; have := x6.isLt; omega

@[simp] theorem pack7_4_6_3_5_3_4_at7 (x0 : BitVec 7) (x1 : BitVec 4) (x2 : BitVec 6) (x3 : BitVec 3) (x4 : BitVec 5) (x5 : BitVec 3) (x6 : BitVec 4) :
    fld (pack7_4_6_3_5_3_4 x0 x1 x2 x3 x4 x5 x6) 7 5 = x4 := by
  apply BitVec.eq_of_toNat_eq
  simp only [fld, pack7_4_6_3_5_3_4, BitVec.toNat_ofNat]
  have := x0.isLt; have := x1.isLt; have := x2.isLt; have := x3.isLt; have := x4.isLt; have := x5.isLt; have := x6.isLt; omega

@[simp] theorem pack7_4_6_3_5_3_4_at4 (x0 : BitVec 7) (x1 : BitVec 4) (x2 : BitVec 6) (x3 : BitVec 3) (x4 : BitVec 5) (x5 : BitVec 3) (x6 : BitVec 4) :
    fld (pack7_4_6_3_5_3_4 x0 x1 x2 x3 x4 x5 x6) 4 3 = x5 := by
  apply BitVec.eq_of_toNat_eq
  simp only [fld, pack7_4_6_3_5_3_4, BitVec.toNat_ofNat]
  have := x0.isLt; have := x1.isLt; have := x2.isLt; have := x3.isLt; have := x4.isLt; have := x5.isLt; have := x6.isLt; omega

@[simp] theorem pack7_4_6_3_5_3_4_at0 (x0 : BitVec 7) (x1 : BitVec 4) (x2 : BitVec 6) (x3 : BitVec 3) (x4 : BitVec 5) (x5 : BitVec 3) (x6 : BitVec 4) :
    fld (pack7_4_6_3_5_3_4 x0 x1 x2 x3 x4 x5 x6) 0 4 = x6 := by
  apply BitVec.eq_of_toNat_eq
  simp only [fld, pack7_4_6_3_5_3_4, BitVec.toNat_ofNat]
  have := x0.isLt; have := x1.isLt; have := x2.isLt; have := x3.isLt; have := x4.isLt; have := x5.isLt; have := x6.isLt; omega

@[simp] theorem pack7_4_6_3_12_at25 (x0 : BitVec 7) (x1 : BitVec 4) (x2 : BitVec 6) (x3 : BitVec 3) (x4 : BitVec 12) :
    fld (pack7_4_6_3_12 x0 x1 x2 x3 x4) 25 7 = x0 := by
  apply BitVec.eq_of_toNat_eq
  simp only [fld, pack7_4_6_3_12, BitVec.toNat_ofNat]
  have := x0.isLt; have := x1.isLt; have := x2.isLt; have := x3.isLt; have := x4.isLt; omega

@[simp] theorem pack7_4_6_3_12_at21 (x0 : BitVec 7) (x1 : BitVec 4) (x2 : BitVec 6) (x3 : BitVec 3) (x4 : BitVec 12) :
    fld (pack7_4_6_3_12 x0 x1 x2 x3 x4) 21 4 = x1 := by
  apply BitVec.eq_of_toNat_eq
  simp only [fld, pack7_4_6_3_12, BitVec.toNat_ofNat]
  have := x0.isLt; have := x1.isLt; have := x2.isLt; have := x3.isLt; have := x4.isLt; omega

@[simp] theorem pack7_4_6_3_12_at15 (x0 : BitVec 7) (x1 : BitVec 4) (x2 : BitVec 6) (x3 : BitVec 3) (x4 : BitVec 12) :
    fld (pack7_4_6_3_12 x0 x1 x2 x3 x4) 15 6 = x2 := by
  apply BitVec.eq_of_toNat_eq
  simp only [fld, pack7_4_6_3_12, BitVec.toNat_ofNat]
  have := x0.isLt; have := x1.isLt; have := x2.isLt; have := x3.isLt; have := x4.isLt; omega

@[simp] theorem pack7_4_6_3_12_at12 (x0 : BitVec 7) (x1 : BitVec 4) (x2 : BitVec 6) (x3 : BitVec 3) (x4 : BitVec 12) :
    fld (pack7_4_6_3_12 x0 x1 x2 x3 x4) 12 3 = x3 := by
  apply BitVec.eq_of_toNat_eq
  simp only [fld, pack7_4_6_3_12, BitVec.toNat_ofNat]
  have := x0.isLt; have := x1.isLt; have := x2.isLt; have := x3.isLt; have := x4.isLt; omega

@[simp] theorem pack7_4_6_3_12_at0 (x0 : BitVec 7) (x1 : BitVec 4) (x2 : BitVec 6) (x3 : BitVec 3) (x4 : BitVec 12) :
    fld (pack7_4_6_3_12 x0 x1 x2 x3 x4) 0 12 = x4 := by
  apply BitVec.eq_of_toNat_eq
  simp only [fld, pack7_4_6_3_12, BitVec.toNat_ofNat]
  have := x0.isLt; have := x1.isLt; have := x2.isLt; have := x3.isLt; have := x4.isLt; omega

@[simp] theorem pack7_4_3_6_12_at25 (x0 : BitVec 7) (x1 : BitVec 4) (x2 : BitVec 3) (x3 : BitVec 6) (x4 : BitVec 12) :
    fld (pack7_4_3_6_12 x0 x1 x2 x3 x4) 25 7 = x0 := by
  apply BitVec.eq_of_toNat_eq
  simp only [fld, pack7_4_3_6_12, BitVec.toNat_ofNat]
  have := x0.isLt; have := x1.isLt; have := x2.isLt; have := x3.isLt; have := x4.isLt; omega

@[simp] theorem pack7_4_3_6_12_at21 (x0 : BitVec 7) (x1 : BitVec 4) (x2 : BitVec 3) (x3 : BitVec 6) (x4 : BitVec 12) :
    fld (pack7_4_3_6_12 x0 x1 x2 x3 x4) 21 4 = x1 := by
  apply BitVec.eq_of_toNat_eq
  simp only [fld, pack7_4_3_6_12, BitVec.toNat_ofNat]
  have := x0.isLt; have := x1.isLt; have := x2.isLt; have := x3.isLt; have := x4.isLt; omega

@[simp] theorem pack7_4_3_6_12_at18 (x0 : BitVec 7) (x1 : BitVec 4) (x2 : BitVec 3) (x3 : BitVec 6) (x4 : BitVec 12) :
    fld (pack7_4_3_6_12 x0 x1 x2 x3 x4) 18 3 = x2 := by
  apply BitVec.eq_of_toNat_eq
  simp only [fld, pack7_4_3_6_12, BitVec.toNat_ofNat]
  have := x0.isLt; have := x1.isLt; have := x2.isLt; have := x3.isLt; have := x4.isLt; omega

@[simp] theorem pack7_4_3_6_12_at12 (x0 : BitVec 7) (x1 : BitVec 4) (x2 : BitVec 3) (x3 : BitVec 6) (x4 : BitVec 12) :
    fld (pack7_4_3_6_12 x0 x1 x2 x3 x4) 12 6 = x3 := by
  apply BitVec.eq_of_toNat_eq
  simp only [fld, pack7_4_3_6_12, BitVec.toNat_ofNat]
  have := x0.isLt; have := x1.isLt; have := x2.isLt; have := x3.isLt; have := x4.isLt; omega

@[simp] theorem pack7_4_3_6_12_at0 (x0 : BitVec 7) (x1 : BitVec 4) (x2 : BitVec 3) (x3 : BitVec 6) (x4 : BitVec 12) :
    fld (pack7_4_3_6_12 x0 x1 x2 x3 x4) 0 12 = x4 := by
  apply BitVec.eq_of_toNat_eq
  simp only [fld, pack7_4_3_6_12, BitVec.toNat_ofNat]
  have := x0.isLt; have := x1.isLt; have := x2.isLt; have := x3.isLt; have := x4.isLt; omega

@[simp] theorem pack7_4_4_5_5_7_at25 (x0 : BitVec 7) (x1 : BitVec 4) (x2 : BitVec 4) (x3 : BitVec 5) (x4 : BitVec 5) (x5 : BitVec 7) :
    fld (pack7_4_4_5_5_7 x0 x1 x2 x3 x4 x5) 25 7 = x0 := by
  apply BitVec.eq_of_toNat_eq
  simp only [fld, pack7_4_4_5_5_7, BitVec.toNat_ofNat]
  have := x0.isLt; have := x1.isLt; have := x2.isLt; have := x3.isLt; have := x4.isLt; have := x5.isLt; omega

@[simp] theorem pack7_4_4_5_5_7_at21 (x0 : BitVec 7) (x1 : BitVec 4) (x2 : BitVec 4) (x3 : BitVec 5) (x4 : BitVec 5) (x5 : BitVec 7) :
    fld (pack7_4_4_5_5_7 x0 x1 x2 x3 x4 x5) 21 4 = x1 := by
  apply BitVec.eq_of_toNat_eq
  simp only [fld, pack7_4_4_5_5_7, BitVec.toNat_ofNat]
  have := x0.isLt; have := x1.isLt; have := x2.isLt; have := x3.isLt; have := x4.isLt; have := x5.isLt; omega

@[simp] theorem pack7_4_4_5_5_7_at17 (x0 : BitVec 7) (x1 : BitVec 4) (x2 : BitVec 4) (x3 : BitVec 5) (x4 : BitVec 5) (x5 : BitVec 7) :
    fld (pack7_4_4_5_5_7 x0 x1 x2 x3 x4 x5) 17 4 = x2 := by
  apply BitVec.eq_of_toNat_eq
  simp only [fld, pack7_4_4_5_5_7, BitVec.toNat_ofNat]
  have := x0.isLt; have := x1.isLt; have := x2.isLt; have := x3.isLt; have := x4.isLt; have := x5.isLt; omega

@[simp] theorem pack7_4_4_5_5_7_at12 (x0 : BitVec 7) (x1 : BitVec 4) (x2 : BitVec 4) (x3 : BitVec 5) (x4 : BitVec 5) (x5 : BitVec 7) :
    fld (pack7_4_4_5_5_7 x0 x1 x2 x3 x4 x5) 12 5 = x3 := by
  apply BitVec.eq_of_toNat_eq
  simp only [fld, pack7_4_4_5_5_7, BitVec.toNat_ofNat]
  have := x0.isLt; have := x1.isLt; have := x2.isLt; have := x3.isLt; have := x4.isLt; have := x5.isLt; omega

@[simp] theorem pack7_4_4_5_5_7_at7 (x0 : BitVec 7) (x1 : BitVec 4) (x2 : BitVec 4) (x3 : BitVec 5) (x4 : BitVec 5) (x5 : BitVec 7) :
    fld (pack7_4_4_5_5_7 x0 x1 x2 x3 x4 x5) 7 5 = x4 := by
  apply BitVec.eq_of_toNat_eq
  simp only [fld, pack7_4_4_5_5_7, BitVec.toNat_ofNat]
  have := x0.isLt; have := x1.isLt; have := x2.isLt; have := x3.isLt; have := x4.isLt; have := x5.isLt; omega

@[simp] theorem pack7_4_4_5_5_7_at0 (x0 : BitVec 7) (x1 : BitVec 4) (x2 : BitVec 4) (x3 : BitVec 5) (x4 : BitVec 5) (x5 : BitVec 7) :
    fld (pack7_4_4_5_5_7 x0 x1 x2 x3 x4 x5) 0 7 = x5 := by
  apply BitVec.eq_of_toNat_eq
  simp only [fld, pack7_4_4_5_5_7, BitVec.toNat_ofNat]
  have := x0.isLt; have := x1.isLt; have := x2.isLt; have := x3.isLt; have := x4.isLt; have := x5.isLt; omega

@[simp] theorem pack7_4_8_13_at25 (x0 : BitVec 7) (x1 : BitVec 4) (x2 : BitVec 8) (x3 : BitVec 13) :
    fld (pack7_4_8_13 x0 x1 x2 x3) 25 7 = x0 := by
  apply BitVec.eq_of_toNat_eq
  simp only [fld, pack7_4_8_13, BitVec.toNat_ofNat]
  have := x0.isLt; have := x1.isLt; have := x2.isLt; have := x3.isLt; omega

@[simp] theorem pack7_4_8_13_at21 (x0 : BitVec 7) (x1 : BitVec 4) (x2 : BitVec 8) (x3 : BitVec 13) :
    fld (pack7_4_8_13 x0 x1 x2 x3) 21 4 = x1 := by
  apply BitVec.eq_of_toNat_eq
  simp only [fld, pack7_4_8_13, BitVec.toNat_ofNat]
  have := x0.isLt; have := x1.isLt; have := x2.isLt; have := x3.isLt; omega

@[simp] theorem pack7_4_8_13_at13 (x0 : BitVec 7) (x1 : BitVec 4) (x2 : BitVec 8) (x3 : BitVec 13) :
    fld (pack7_4_8_13 x0 x1 x2 x3) 13 8 = x2 := by
  apply BitVec.eq_of_toNat_eq
  simp only [fld, pack7_4_8_13, BitVec.toNat_ofNat]
  have := x0.isLt; have := x1.isLt; have := x2.isLt; have := x3.isLt; omega

@[simp] theorem pack7_4_8_13_at0 (x0 : BitVec 7) (x1 : BitVec 4) (x2 : BitVec 8) (x3 : BitVec 13) :
    fld (pack7_4_8_13 x0 x1 x2 x3) 0 13 = x3 := by
  apply BitVec.eq_of_toNat_eq
  simp only [fld, pack7_4_8_13, BitVec.toNat_ofNat]
  have := x0.isLt; have := x1.isLt; have := x2.isLt; have := x3.isLt; omega

@[simp] theorem pack7_4_3_6_5_7_at25 (x0 : BitVec 7) (x1 : BitVec 4) (x2 : BitVec 3) (x3 : BitVec 6) (x4 : BitVec 5) (x5 : BitVec 7) :
    fld (pack7_4_3_6_5_7 x0 x1 x2 x3 x4 x5) 25 7 = x0 := by
  apply BitVec.eq_of_toNat_eq
  simp only [fld, pack7_4_3_6_5_7, BitVec.toNat_ofNat]
  have := x0.isLt; have := x1.isLt; have := x2.isLt; have := x3.isLt; have := x4.isLt; have := x5.isLt; omega

@[simp] theorem pack7_4_3_6_5_7_at21 (x0 : BitVec 7) (x1 : BitVec 4) (x2 : BitVec 3) (x3 : BitVec 6) (x4 : BitVec 5) (x5 : BitVec 7) :
    fld (pack7_4_3_6_5_7 x0 x1 x2 x3 x4 x5) 21 4 = x1 := by
  apply BitVec.eq_of_toNat_eq
  simp only [fld, pack7_4_3_6_5_7, BitVec.toNat_ofNat]
  have := x0.isLt; have := x1.isLt; have := x2.isLt; have := x3.isLt; have := x4.isLt; have := x5.isLt; omega

@[simp] theorem pack7_4_3_6_5_7_at18 (x0 : BitVec 7) (x1 : BitVec 4) (x2 : BitVec 3) (x3 : BitVec 6) (x4 : BitVec 5) (x5 : BitVec 7) :
    fld (pack7_4_3_6_5_7 x0 x1 x2 x3 x4 x5) 18 3 = x2 := by
  apply BitVec.eq_of_toNat_eq
  simp only [fld, pack7_4_3_6_5_7, BitVec.toNat_ofNat]
  have := x0.isLt; have := x1.isLt; have := x2.isLt; have := x3.isLt; have := x4.isLt; have := x5.isLt; omega

@[simp] theorem pack7_4_3_6_5_7_at12 (x0 : BitVec 7) (x1 : BitVec 4) (x2 : BitVec 3) (x3 : BitVec 6) (x4 : BitVec 5) (x5 : BitVec 7) :
    fld (pack7_4_3_6_5_7 x0 x1 x2 x3 x4 x5) 12 6 = x3 := by
  apply BitVec.eq_of_toNat_eq
  simp only [fld, pack7_4_3_6_5_7, BitVec.toNat_ofNat]
  have := x0.isLt; have := x1.isLt; have := x2.isLt; have := x3.isLt; have := x4.isLt; have := x5.isLt; omega

@[simp] theorem pack7_4_3_6_5_7_at7 (x0 : BitVec 7) (x1 : BitVec 4) (x2 : BitVec 3) (x3 : BitVec 6) (x4 : BitVec 5) (x5 : BitVec 7) :
    fld (pack7_4_3_6_5_7 x0 x1 x2 x3 x4 x5) 7 5 = x4 := by
  apply BitVec.eq_of_toNat_eq
  simp only [fld, pack7_4_3_6_5_7, BitVec.toNat_ofNat]
  have := x0.isLt; have := x1.isLt; have := x2.isLt; have := x3.isLt; have := x4.isLt; have := x5.isLt; omega

@[simp] theorem pack7_4_3_6_5_7_at0 (x0 : BitVec 7) (x1 : BitVec 4) (x2 : BitVec 3) (x3 : BitVec 6) (x4 : BitVec 5) (x5 : BitVec 7) :
    fld (pack7_4_3_6_5_7 x0 x1 x2 x3 x4 x5) 0 7 = x5 := by
  apply BitVec.eq_of_toNat_eq
  simp only [fld, pack7_4_3_6_5_7, BitVec.toNat_ofNat]
  have := x0.isLt; have := x1.isLt; have := x2.isLt; have := x3.isLt; have := x4.isLt; have := x5.isLt; omega

@[simp] theorem pack7_4_9_6_6_at25 (x0 : BitVec 7) (x1 : BitVec 4) (x2 : BitVec 9) (x3 : BitVec 6) (x4 : BitVec 6) :
    fld (pack7_4_9_6_6 x0 x1 x2 x3 x4) 25 7 = x0 := by
  apply BitVec.eq_of_toNat_eq
  simp only [fld, pack7_4_9_6_6, BitVec.toNat_ofNat]
  have := x0.isLt; have := x1.isLt; have := x2.isLt; have := x3.isLt; have := x4.isLt; omega

@[simp] theorem pack7_4_9_6_6_at21 (x0 : BitVec 7) (x1 : BitVec 4) (x2 : BitVec 9) (x3 : BitVec 6) (x4 : BitVec 6) :
    fld (pack7_4_9_6_6 x0 x1 x2 x3 x4) 21 4 = x1 := by
  apply BitVec.eq_of_toNat_eq
  simp only [fld, pack7_4_9_6_6, BitVec.toNat_ofNat]
  have := x0.isLt; have := x1.isLt; have := x2.isLt; have := x3.isLt; have := x4.isLt; omega

@[simp] theorem pack7_4_9_6_6_at12 (x0 : BitVec 7) (x1 : BitVec 4) (x2 : BitVec 9) (x3 : BitVec 6) (x4 : BitVec 6) :
    fld (pack7_4_9_6_6 x0 x1 x2 x3 x4) 12 9 = x2 := by
  apply BitVec.eq_of_toNat_eq
  simp only [fld, pack7_4_9_6_6, BitVec.toNat_ofNat]
  have := x0.isLt; have := x1.isLt; have := x2.isLt; have := x3.isLt; have := x4.isLt; omega

@[simp] theorem pack7_4_9_6_6_at6 (x0 : BitVec 7) (x1 : BitVec 4) (x2 : BitVec 9) (x3 : BitVec 6) (x4 : BitVec 6) :
    fld (pack7_4_9_6_6 x0 x1 x2 x3 x4) 6 6 = x3 := by
  apply BitVec.eq_of_toNat_eq
  simp only [fld, pack7_4_9_6_6, BitVec.toNat_ofNat]
  have := x0.isLt; have := x1.isLt; have := x2.isLt; have := x3.isLt; have := x4.isLt; omega

@[simp] theorem pack7_4_9_6_6_at0 (x0 : BitVec 7) (x1 : BitVec 4) (x2 : BitVec 9) (x3 : BitVec 6) (x4 : BitVec 6) :
    fld (pack7_4_9_6_6 x0 x1 x2 x3 x4) 0 6 = x4 := by
  apply BitVec.eq_of_toNat_eq
  simp only [fld, pack7_4_9_6_6, BitVec.toNat_ofNat]
  have := x0.isLt; have := x1.isLt; have := x2.isLt; have := x3.isLt; have := x4.isLt; omega

@[simp] theorem pack7_4_6_9_6_at25 (x0 : BitVec 7) (x1 : BitVec 4) (x2 : BitVec 6) (x3 : BitVec 9) (x4 : BitVec 6) :
    fld (pack7_4_6_9_6 x0 x1 x2 x3 x4) 25 7 = x0 := by
  apply BitVec.eq_of_toNat_eq
  simp only [fld, pack7_4_6_9_6, BitVec.toNat_ofNat]
  have := x0.isLt; have := x1.isLt; have := x2.isLt; have := x3.isLt; have := x4.isLt; omega

@[simp] theorem pack7_4_6_9_6_at21 (x0 : BitVec 7) (x1 : BitVec 4) (x2 : BitVec 6) (x3 : BitVec 9) (x4 : BitVec 6) :
    fld (pack7_4_6_9_6 x0 x1 x2 x3 x4) 21 4 = x1 := by
  apply BitVec.eq_of_toNat_eq
  simp only [fld, pack7_4_6_9_6, BitVec.toNat_ofNat]
  have := x0.isLt; have := x1.isLt; have := x2.isLt; have := x3.isLt; have := x4.isLt; omega

@[simp] theorem pack7_4_6_9_6_at15 (x0 : BitVec 7) (x1 : BitVec 4) (x2 : BitVec 6) (x3 : BitVec 9) (x4 : BitVec 6) :
    fld (pack7_4_6_9_6 x0 x1 x2 x3 x4) 15 6 = x2 := by
  apply BitVec.eq_of_toNat_eq
  simp only [fld, pack7_4_6_9_6, BitVec.toNat_ofNat]
  have := x0.isLt; have := x1.isLt; have := x2.isLt; have := x3.isLt; have := x4.isLt; omega

@[simp] theorem pack7_4_6_9_6_at6 (x0 : BitVec 7) (x1 : BitVec 4) (x2 : BitVec 6) (x3 : BitVec 9) (x4 : BitVec 6) :
    fld (pack7_4_6_9_6 x0 x1 x2 x3 x4) 6 9 = x3 := by
  apply BitVec.eq_of_toNat_eq
  simp only [fld, pack7_4_6_9_6, BitVec.toNat_ofNat]
  have := x0.isLt; have := x1.isLt; have := x2.isLt; have := x3.isLt; have := x4.isLt; omega

@[simp] theorem pack7_4_6_9_6_at0 (x0 : BitVec 7) (x1 : BitVec 4) (x2 : BitVec 6) (x3 : BitVec 9) (x4 : BitVec 6) :
    fld (pack7_4_6_9_6 x0 x1 x2 x3 x4) 0 6 = x4 := by
  apply BitVec.eq_of_toNat_eq
  simp only [fld, pack7_4_6_9_6, BitVec.toNat_ofNat]
  have := x0.isLt; have := x1.isLt; have := x2.isLt; have := x3.isLt; have := x4.isLt; omega

@[simp] theorem pack7_4_6_6_2_7_at25 (x0 : BitVec 7) (x1 : BitVec 4) (x2 : BitVec 6) (x3 : BitVec 6) (x4 : BitVec 2) (x5 : BitVec 7) :
    fld (pack7_4_6_6_2_7 x0 x1 x2 x3 x4 x5) 25 7 = x0 := by
  apply BitVec.eq_of_toNat_eq
  simp only [fld, pack7_4_6_6_2_7, BitVec.toNat_ofNat]
  have := x0.isLt; have := x1.isLt; have := x2.isLt; have := x3.isLt; have := x4.isLt; have := x5.isLt; omega

@[simp] theorem pack7_4_6_6_2_7_at21 (x0 : BitVec 7) (x1 : BitVec 4) (x2 : BitVec 6) (x3 : BitVec 6) (x4 : BitVec 2) (x5 : BitVec 7) :
    fld (pack7_4_6_6_2_7 x0 x1 x2 x3 x4 x5) 21 4 = x1 := by
  apply BitVec.eq_of_toNat_eq
  simp only [fld, pack7_4_6_6_2_7, BitVec.toNat_ofNat]
  have := x0.isLt; have := x1.isLt; have := x2.isLt; have := x3.isLt; have := x4.isLt; have := x5.isLt; omega

@[simp] theorem pack7_4_6_6_2_7_at15 (x0 : BitVec 7) (x1 : BitVec 4) (x2 : BitVec 6) (x3 : BitVec 6) (x4 : BitVec 2) (x5 : BitVec 7) :
    fld (pack7_4_6_6_2_7 x0 x1 x2 x3 x4 x5) 15 6 = x2 := by
  apply BitVec.eq_of_toNat_eq
  simp only [fld, pack7_4_6_6_2_7, BitVec.toNat_ofNat]
  have := x0.isLt; have := x1.isLt; have := x2.isLt; have := x3.isLt; have := x4.isLt; have := x5.isLt; omega

@[simp] theorem pack7_4_6_6_2_7_at9 (x0 : BitVec 7) (x1 : BitVec 4) (x2 : BitVec 6) (x3 : BitVec 6) (x4 : BitVec 2) (x5 : BitVec 7) :
    fld (pack7_4_6_6_2_7 x0 x1 x2 x3 x4 x5) 9 6 = x3 := by
  apply BitVec.eq_of_toNat_eq
  simp only [fld, pack7_4_6_6_2_7, BitVec.toNat_ofNat]
  have := x0.isLt; have := x1.isLt; have := x2.isLt; have := x3.isLt; have := x4.isLt; have := x5.isLt; omega

@[simp] theorem pack7_4_6_6_2_7_at7 (x0 : BitVec 7) (x1 : BitVec 4) (x2 : BitVec 6) (x3 : BitVec 6) (x4 : BitVec 2) (x5 : BitVec 7) :
    fld (pack7_4_6_6_2_7 x0 x1 x2 x3 x4 x5) 7 2 = x4 := by
  apply BitVec.eq_of_toNat_eq
  simp only [fld, pack7_4_6_6_2_7, BitVec.toNat_ofNat]
  have := x0.isLt; have := x1.isLt; have := x2.isLt; have := x3.isLt; have := x4.isLt; have := x5.isLt; omega

@[simp] theorem pack7_4_6_6_2_7_at0 (x0 : BitVec 7) (x1 : BitVec 4) (x2 : BitVec 6) (x3 : BitVec 6) (x4 : BitVec 2) (x5 : BitVec 7) :
    fld (pack7_4_6_6_2_7 x0 x1 x2 x3 x4 x5) 0 7 = x5 := by
  apply BitVec.eq_of_toNat_eq
  simp only [fld, pack7_4_6_6_2_7, BitVec.toNat_ofNat]
  have := x0.isLt; have := x1.isLt; have := x2.isLt; have := x3.isLt; have := x4.isLt; have := x5.isLt; omega

@[simp] theorem pack7_4_3_2_6_10_at25 (x0 : BitVec 7) (x1 : BitVec 4) (x2 : BitVec 3) (x3 : BitVec 2) (x4 : BitVec 6) (x5 : BitVec 10) :
    fld (pack7_4_3_2_6_10 x0 x1 x2 x3 x4 x5) 25 7 = x0 := by
  apply BitVec.eq_of_toNat_eq
  simp only [fld, pack7_4_3_2_6_10, BitVec.toNat_ofNat]
  have := x0.isLt; have := x1.isLt; have := x2.isLt; have := x3.isLt; have := x4.isLt; have := x5.isLt; omega

@[simp] theorem pack7_4_3_2_6_10_at21 (x0 : BitVec 7) (x1 : BitVec 4) (x2 : BitVec 3) (x3 : BitVec 2) (x4 : BitVec 6) (x5 : BitVec 10) :
    fld (pack7_4_3_2_6_10 x0 x1 x2 x3 x4 x5) 21 4 = x1 := by
  apply BitVec.eq_of_toNat_eq
  simp only [fld, pack7_4_3_2_6_10, BitVec.toNat_ofNat]
  have := x0.isLt; have := x1.isLt; have := x2.isLt; have := x3.isLt; have := x4.isLt; have := x5.isLt; omega

@[simp] theorem pack7_4_3_2_6_10_at18 (x0 : BitVec 7) (x1 : BitVec 4) (x2 : BitVec 3) (x3 : BitVec 2) (x4 : BitVec 6) (x5 : BitVec 10) :
    fld (pack7_4_3_2_6_10 x0 x1 x2 x3 x4 x5) 18 3 = x2 := by
  apply BitVec.eq_of_toNat_eq
  simp only [fld, pack7_4_3_2_6_10, BitVec.toNat_ofNat]
  have := x0.isLt; have := x1.isLt; have := x2.isLt; have := x3.isLt; have := x4.isLt; have := x5.isLt; omega

@[simp] theorem pack7_4_3_2_6_10_at16 (x0 : BitVec 7) (x1 : BitVec 4) (x2 : BitVec 3) (x3 : BitVec 2) (x4 : BitVec 6) (x5 : BitVec 10) :
    fld (pack7_4_3_2_6_10 x0 x1 x2 x3 x4 x5) 16 2 = x3 := by
  apply BitVec.eq_of_toNat_eq
  simp only [fld, pack7_4_3_2_6_10, BitVec.toNat_ofNat]
  have := x0.isLt; have := x1.isLt; have := x2.isLt; have := x3.isLt; have := x4.isLt; have := x5.isLt; omega

@[simp] theorem pack7_4_3_2_6_10_at10 (x0 : BitVec 7) (x1 : BitVec 4) (x2 : BitVec 3) (x3 : BitVec 2) (x4 : BitVec 6) (x5 : BitVec 10) :
    fld (pack7_4_3_2_6_10 x0 x1 x2 x3 x4 x5) 10 6 = x4 := by
  apply BitVec.eq_of_toNat_eq
  simp only [fld, pack7_4_3_2_6_10, BitVec.toNat_ofNat]
  have := x0.isLt; have := x1.isLt; have := x2.isLt; have := x3.isLt; have := x4.isLt; have := x5.isLt; omega

@[simp] theorem pack7_4_3_2_6_10_at0 (x0 : BitVec 7) (x1 : BitVec 4) (x2 : BitVec 3) (x3 : BitVec 2) (x4 : BitVec 6) (x5 : BitVec 10) :
    fld (pack7_4_3_2_6_10 x0 x1 x2 x3 x4 x5) 0 10 = x5 := by
  apply BitVec.eq_of_toNat_eq
  simp only [fld, pack7_4_3_2_6_10, BitVec.toNat_ofNat]
  have := x0.isLt; have := x1.isLt; have := x2.isLt; have := x3.isLt; have := x4.isLt; have := x5.isLt; omega

@[simp] theorem pack7_4_6_12_3_at25 (x0 : BitVec 7) (x1 : BitVec 4) (x2 : BitVec 6) (x3 : BitVec 12) (x4 : BitVec 3) :
    fld (pack7_4_6_12_3 x0 x1 x2 x3 x4) 25 7 = x0 := by
  apply BitVec.eq_of_toNat_eq
  simp only [fld, pack7_4_6_12_3, BitVec.toNat_ofNat]
  have := x0.isLt; have := x1.isLt; have := x2.isLt; have := x3.isLt; have := x4.isLt; omega

@[simp] theorem pack7_4_6_12_3_at21 (x0 : BitVec 7) (x1 : BitVec 4) (x2 : BitVec 6) (x3 : BitVec 12) (x4 : BitVec 3) :
    fld (pack7_4_6_12_3 x0 x1 x2 x3 x4) 21 4 = x1 := by
  apply BitVec.eq_of_toNat_eq
  simp only [fld, pack7_4_6_12_3, BitVec.toNat_ofNat]
  have := x0.isLt; have := x1.isLt; have := x2.isLt; have := x3.isLt; have := x4.isLt; omega

@[simp] theorem pack7_4_6_12_3_at15 (x0 : BitVec 7) (x1 : BitVec 4) (x2 : BitVec 6) (x3 : BitVec 12) (x4 : BitVec 3) :
    fld (pack7_4_6_12_3 x0 x1 x2 x3 x4) 15 6 = x2 := by
  apply BitVec.eq_of_toNat_eq
  simp only [fld, pack7_4_6_12_3, BitVec.toNat_ofNat]
  have := x0.isLt; have := x1.isLt; have := x2.isLt; have := x3.isLt; have := x4.isLt; omega

@[simp] theorem pack7_4_6_12_3_at3 (x0 : BitVec 7) (x1 : BitVec 4) (x2 : BitVec 6) (x3 : BitVec 12) (x4 : BitVec 3) :
    fld (pack7_4_6_12_3 x0 x1 x2 x3 x4) 3 12 = x3 := by
  apply BitVec.eq_of_toNat_eq
  simp only [fld, pack7_4_6_12_3, BitVec.toNat_ofNat]
  have := x0.isLt; have := x1.isLt; have := x2.isLt; have := x3.isLt; have := x4.isLt; omega

@[simp] theorem pack7_4_6_12_3_at0 (x0 : BitVec 7) (x1 : BitVec 4) (x2 : BitVec 6) (x3 : BitVec 12) (x4 : BitVec 3) :
    fld (pack7_4_6_12_3 x0 x1 x2 x3 x4) 0 3 = x4 := by
  apply BitVec.eq_of_toNat_eq
  simp only [fld, pack7_4_6_12_3, BitVec.toNat_ofNat]
  have := x0.isLt; have := x1.isLt; have := x2.isLt; have := x3.isLt; have := x4.isLt; omega

@[simp] theorem packR4_60_at60 (x0 : BitVec 4) (x1 : BitVec 60) :
    fldR (packR4_60 x0 x1) 60 4 = x0 := by
  apply BitVec.eq_of_toNat_eq
  simp only [fldR, packR4_60, BitVec.toNat_ofNat]
  have := x0.isLt; have := x1.isLt; omega

@[simp] theorem packR4_60_at0 (x0 : BitVec 4) (x1 : BitVec 60) :
    fldR (packR4_60 x0 x1) 0 60 = x1 := by
  apply BitVec.eq_of_toNat_eq
  simp only [fldR, packR4_60, BitVec.toNat_ofNat]
  have := x0.isLt; have := x1.isLt; omega

@[simp] theorem packR4_1_5_3_51_at60 (x0 : BitVec 4) (x1 : BitVec 1) (x2 : BitVec 5) (x3 : BitVec 3) (x4 : BitVec 51) :
    fldR (packR4_1_5_3_51 x0 x1 x2 x3 x4) 60 4 = x0 := by
  apply BitVec.eq_of_toNat_eq
  simp only [fldR, packR4_1_5_3_51, BitVec.toNat_ofNat]
  have := x0.isLt; have := x1.isLt; have := x2.isLt; have := x3.isLt; have := x4.isLt; omega

@[simp] theorem packR4_1_5_3_51_at59 (x0 : BitVec 4) (x1 : BitVec 1) (x2 : BitVec 5) (x3 : BitVec 3) (x4 : BitVec 51) :
    fldR (packR4_1_5_3_51 x0 x1 x2 x3 x4) 59 1 = x1 := by
  apply BitVec.eq_of_toNat_eq
  simp only [fldR, packR4_1_5_3_51, BitVec.toNat_ofNat]
  have := x0.isLt; have := x1.isLt; have := x2.isLt; have := x3.isLt; have := x4.isLt; omega

@[simp] theorem packR4_1_5_3_51_at54 (x0 : BitVec 4) (x1 : BitVec 1) (x2 : BitVec 5) (x3 : BitVec 3) (x4 : BitVec 51) :
    fldR (packR4_1_5_3_51 x0 x1 x2 x3 x4) 54 5 = x2 := by
  apply BitVec.eq_of_toNat_eq
  simp only [fldR, packR4_1_5_3_51, BitVec.toNat_ofNat]
  have := x0.isLt; have := x1.isLt; have := x2.isLt; have := x3.isLt; have := x4.isLt; omega

@[simp] theorem packR4_1_5_3_51_at51 (x0 : BitVec 4) (x1 : BitVec 1) (x2 : BitVec 5) (x3 : BitVec 3) (x4 : BitVec 51) :
    fldR (packR4_1_5_3_51 x0 x1 x2 x3 x4) 51 3 = x3 := by
  apply BitVec.eq_of_toNat_eq
  simp only [fldR, packR4_1_5_3_51, BitVec.toNat_ofNat]
  have := x0.isLt; have := x1.isLt; have := x2.isLt; have := x3.isLt; have := x4.isLt; omega

@[simp] theorem packR4_1_5_3_51_at0 (x0 : BitVec 4) (x1 : BitVec 1) (x2 : BitVec 5) (x3 : BitVec 3) (x4 : BitVec 51) :
    fldR (packR4_1_5_3_51 x0 x1 x2 x3 x4) 0 51 = x4 := by
  apply BitVec.eq_of_toNat_eq
  simp only [fldR, packR4_1_5_3_51, BitVec.toNat_ofNat]
  have := x0.isLt; have := x1.isLt; have := x2.isLt; have := x3.isLt; have := x4.isLt; omega

@[simp] theorem packR4_3_5_5_1_3_43_at60 (x0 : BitVec 4) (x1 : BitVec 3) (x2 : BitVec 5) (x3 : BitVec 5) (x4 : BitVec 1) (x5 : BitVec 3) (x6 : BitVec 43) :
    fldR (packR4_3_5_5_1_3_43 x0 x1 x2 x3 x4 x5 x6) 60 4 = x0 := by
  apply BitVec.eq_of_toNat_eq
  simp only [fldR, packR4_3_5_5_1_3_43, BitVec.toNat_ofNat]
  have := x0.isLt; have := x1.isLt; have := x2.isLt; have := x3.isLt; have := x4.isLt; have := x5.isLt; have := x6.isLt; omega

@[simp] theorem packR4_3_5_5_1_3_43_at57 (x0 : BitVec 4) (x1 : BitVec 3) (x2 : BitVec 5) (x3 : BitVec 5) (x4 : BitVec 1) (x5 : BitVec 3) (x6 : BitVec 43) :
    fldR (packR4_3_5_5_1_3_43 x0 x1 x2 x3 x4 x5 x6) 57 3 = x1 := by
  apply BitVec.eq_of_toNat_eq
  simp only [fldR, packR4_3_5_5_1_3_43, BitVec.toNat_ofNat]
  have := x0.isLt; have := x1.isLt; have := x2.isLt; have := x3.isLt; have := x4.isLt; have := x5.isLt; have := x6.isLt; omega

@[simp] theorem packR4_3_5_5_1_3_43_at52 (x0 : BitVec 4) (x1 : BitVec 3) (x2 : BitVec 5) (x3 : BitVec 5) (x4 : BitVec 1) (x5 : BitVec 3) (x6 : BitVec 43) :
    fldR (packR4_3_5_5_1_3_43 x0 x1 x2 x3 x4 x5 x6) 52 5 = x2 := by
  apply BitVec.eq_of_toNat_eq
  simp only [fldR, packR4_3_5_5_1_3_43, BitVec.toNat_ofNat]
  have := x0.isLt; have := x1.isLt; have := x2.isLt; have := x3.isLt; have := x4.isLt; have := x5.isLt; have := x6.isLt; omega

@[simp] theorem packR4_3_5_5_1_3_43_at47 (x0 : BitVec 4) (x1 : BitVec 3) (x2 : BitVec 5) (x3 : BitVec 5) (x4 : BitVec 1) (x5 : BitVec 3) (x6 : BitVec 43) :
    fldR (packR4_3_5_5_1_3_43 x0 x1 x2 x3 x4 x5 x6) 47 5 = x3 := by
  apply BitVec.eq_of_toNat_eq
  simp only [fldR, packR4_3_5_5_1_3_43, BitVec.toNat_ofNat]
  have := x0.isLt; have := x1.isLt; have := x2.isLt; have := x3.isLt; have := x4.isLt; have := x5.isLt; have := x6.isLt; omega

@[simp] theorem packR4_3_5_5_1_3_43_at46 (x0 : BitVec 4) (x1 : BitVec 3) (x2 : BitVec 5) (x3 : BitVec 5) (x4 : BitVec 1) (x5 : BitVec 3) (x6 : BitVec 43) :
    fldR (packR4_3_5_5_1_3_43 x0 x1 x2 x3 x4 x5 x6) 46 1 = x4 := by
  apply BitVec.eq_of_toNat_eq
  simp only [fldR, packR4_3_5_5_1_3_43, BitVec.toNat_ofNat]
  have := x0.isLt; have := x1.isLt; have := x2.isLt; have := x3.isLt; have := x4.isLt; have := x5.isLt; have := x6.isLt; omega

@[simp] theorem packR4_3_5_5_1_3_43_at43 (x0 : BitVec 4) (x1 : BitVec 3) (x2 : BitVec 5) (x3 : BitVec 5) (x4 : BitVec 1) (x5 : BitVec 3) (x6 : BitVec 43) :
    fldR (packR4_3_5_5_1_3_43 x0 x1 x2 x3 x4 x5 x6) 43 3 = x5 := by
  apply BitVec.eq_of_toNat_eq
  simp only [fldR, packR4_3_5_5_1_3_43, BitVec.toNat_ofNat]
  have := x0.isLt; have := x1.isLt; have := x2.isLt; have := x3.isLt; have := x4.isLt; have := x5.isLt; have := x6.isLt; omega

@[simp] theorem packR4_3_5_5_1_3_43_at0 (x0 : BitVec 4) (x1 : BitVec 3) (x2 : BitVec 5) (x3 : BitVec 5) (x4 : BitVec 1) (x5 : BitVec 3) (x6 : BitVec 43) :
    fldR (packR4_3_5_5_1_3_43 x0 x1 x2 x3 x4 x5 x6) 0 43 = x6 := by
  apply BitVec.eq_of_toNat_eq
  simp only [fldR, packR4_3_5_5_1_3_43, BitVec.toNat_ofNat]
  have := x0.isLt; have := x1.isLt; have := x2.isLt; have := x3.isLt; have := x4.isLt; have := x5.isLt; have := x6.isLt; omega

@[simp] theorem packR4_3_57_at60 (x0 : BitVec 4) (x1 : BitVec 3) (x2 : BitVec 57) :
    fldR (packR4_3_57 x0 x1 x2) 60 4 = x0 := by
  apply BitVec.eq_of_toNat_eq
  simp only [fldR, packR4_3_57, BitVec.toNat_ofNat]
  have := x0.isLt; have := x1.isLt; have := x2.isLt; omega

@[simp] theorem packR4_3_57_at57 (x0 : BitVec 4) (x1 : BitVec 3) (x2 : BitVec 57) :
    fldR (packR4_3_57 x0 x1 x2) 57 3 = x1 := by
  apply BitVec.eq_of_toNat_eq
  simp only [fldR, packR4_3_57, BitVec.toNat_ofNat]
  have := x0.isLt; have := x1.isLt; have := x2.isLt; omega

@[simp] theorem packR4_3_57_at0 (x0 : BitVec 4) (x1 : BitVec 3) (x2 : BitVec 57) :
    fldR (packR4_3_57 x0 x1 x2) 0 57 = x2 := by
  apply BitVec.eq_of_toNat_eq
  simp only [fldR, packR4_3_57, BitVec.toNat_ofNat]
  have := x0.isLt; have := x1.isLt; have := x2.isLt; omega

@[simp] theorem packR4_1_46_13_at60 (x0 : BitVec 4) (x1 : BitVec 1) (x2 : BitVec 46) (x3 : BitVec 13) :
    fldR (packR4_1_46_13 x0 x1 x2 x3) 60 4 = x0 := by
  apply BitVec.eq_of_toNat_eq
  simp only [fldR, packR4_1_46_13, BitVec.toNat_ofNat]
  have := x0.isLt; have := x1.isLt; have := x2.isLt; have := x3.isLt; omega

@[simp] theorem packR4_1_46_13_at59 (x0 : BitVec 4) (x1 : BitVec 1) (x2 : BitVec 46) (x3 : BitVec 13) :
    fldR (packR4_1_46_13 x0 x1 x2 x3) 59 1 = x1 := by
  apply BitVec.eq_of_toNat_eq
  simp only [fldR, packR4_1_46_13, BitVec.toNat_ofNat]
  have := x0.isLt; have := x1.isLt; have := x2.isLt; have := x3.isLt; omega

@[simp] theorem packR4_1_46_13_at13 (x0 : BitVec 4) (x1 : BitVec 1) (x2 : BitVec 46) (x3 : BitVec 13) :
    fldR (packR4_1_46_13 x0 x1 x2 x3) 13 46 = x2 := by
  apply BitVec.eq_of_toNat_eq
  simp only [fldR, packR4_1_46_13, BitVec.toNat_ofNat]
  have := x0.isLt; have := x1.isLt; have := x2.isLt; have := x3.isLt; omega

@[simp] theorem packR4_1_46_13_at0 (x0 : BitVec 4) (x1 : BitVec 1) (x2 : BitVec 46) (x3 : BitVec 13) :
    fldR (packR4_1_46_13 x0 x1 x2 x3) 0 13 = x3 := by
  apply BitVec.eq_of_toNat_eq
  simp only [fldR, packR4_1_46_13, BitVec.toNat_ofNat]
  have := x0.isLt; have := x1.isLt; have := x2.isLt; have := x3.isLt; omega

@[simp] theorem packR4_1_50_9_at60 (x0 : BitVec 4) (x1 : BitVec 1) (x2 : BitVec 50) (x3 : BitVec 9) :
    fldR (packR4_1_50_9 x0 x1 x2 x3) 60 4 = x0 := by
  apply BitVec.eq_of_toNat_eq
  simp only [fldR, packR4_1_50_9, BitVec.toNat_ofNat]
  have := x0.isLt; have := x1.isLt; have := x2.isLt; have := x3.isLt; omega

@[simp] theorem packR4_1_50_9_at59 (x0 : BitVec 4) (x1 : BitVec 1) (x2 : BitVec 50) (x3 : BitVec 9) :
    fldR (packR4_1_50_9 x0 x1 x2 x3) 59 1 = x1 := by
  apply BitVec.eq_of_toNat_eq
  simp only [fldR, packR4_1_50_9, BitVec.toNat_ofNat]
  have := x0.isLt; have := x1.isLt; have := x2.isLt; have := x3.isLt; omega

@[simp] theorem packR4_1_50_9_at9 (x0 : BitVec 4) (x1 : BitVec 1) (x2 : BitVec 50) (x3 : BitVec 9) :
    fldR (packR4_1_50_9 x0 x1 x2 x3) 9 50 = x2 := by
  apply BitVec.eq_of_toNat_eq
  simp only [fldR, packR4_1_50_9, BitVec.toNat_ofNat]
  have := x0.isLt; have := x1.isLt; have := x2.isLt; have := x3.isLt; omega

@[simp] theorem packR4_1_50_9_at0 (x0 : BitVec 4) (x1 : BitVec 1) (x2 : BitVec 50) (x3 : BitVec 9) :
    fldR (packR4_1_50_9 x0 x1 x2 x3) 0 9 = x3 := by
  apply BitVec.eq_of_toNat_eq
  simp only [fldR, packR4_1_50_9, BitVec.toNat_ofNat]
  have := x0.isLt; have := x1.isLt; have := x2.isLt; have := x3.isLt; omega

@[simp] theorem packR4_3_48_9_at60 (x0 : BitVec 4) (x1 : BitVec 3) (x2 : BitVec 48) (x3 : BitVec 9) :
    fldR (packR4_3_48_9 x0 x1 x2 x3) 60 4 = x0 := by
  apply BitVec.eq_of_toNat_eq
  simp only [fldR, packR4_3_48_9, BitVec.toNat_ofNat]
  have := x0.isLt; have := x1.isLt; have := x2.isLt; have := x3.isLt; omega

@[simp] theorem packR4_3_48_9_at57 (x0 : BitVec 4) (x1 : BitVec 3) (x2 : BitVec 48) (x3 : BitVec 9) :
    fldR (packR4_3_48_9 x0 x1 x2 x3) 57 3 = x1 := by
  apply BitVec.eq_of_toNat_eq
  simp only [fldR, packR4_3_48_9, BitVec.toNat_ofNat]
  have := x0.isLt; have := x1.isLt; have := x2.isLt; have := x3.isLt; omega

@[simp] theorem packR4_3_48_9_at9 (x0 : BitVec 4) (x1 : BitVec 3) (x2 : BitVec 48) (x3 : BitVec 9) :
    fldR (packR4_3_48_9 x0 x1 x2 x3) 9 48 = x2 := by
  apply BitVec.eq_of_toNat_eq
  simp only [fldR, packR4_3_48_9, BitVec.toNat_ofNat]
  have := x0.isLt; have := x1.isLt; have := x2.isLt; have := x3.isLt; omega

@[simp] theorem packR4_3_48_9_at0 (x0 : BitVec 4) (x1 : BitVec 3) (x2 : BitVec 48) (x3 : BitVec 9) :
    fldR (packR4_3_48_9 x0 x1 x2 x3) 0 9 = x3 := by
  apply BitVec.eq_of_toNat_eq
  simp only [fldR, packR4_3_48_9, BitVec.toNat_ofNat]
  have := x0.isLt; have := x1.isLt; have := x2.isLt; have := x3.isLt; omega

@[simp] theorem packR4_3_5_5_47_at60 (x0 : BitVec 4) (x1 : BitVec 3) (x2 : BitVec 5) (x3 : BitVec 5) (x4 : BitVec 47) :
    fldR (packR4_3_5_5_47 x0 x1 x2 x3 x4) 60 4 = x0 := by
  apply BitVec.eq_of_toNat_eq
  simp only [fldR, packR4_3_5_5_47, BitVec.toNat_ofNat]
  have := x0.isLt; have := x1.isLt; have := x2.isLt; have := x3.isLt; have := x4.isLt; omega

@[simp] theorem packR4_3_5_5_47_at57 (x0 : BitVec 4) (x1 : BitVec 3) (x2 : BitVec 5) (x3 : BitVec 5) (x4 : BitVec 47) :
    fldR (packR4_3_5_5_47 x0 x1 x2 x3 x4) 57 3 = x1 := by
  apply BitVec.eq_of_toNat_eq
  simp only [fldR, packR4_3_5_5_47, BitVec.toNat_ofNat]
  have := x0.isLt; have := x1.isLt; have := x2.isLt; have := x3.isLt; have := x4.isLt; omega

@[simp] theorem packR4_3_5_5_47_at52 (x0 : BitVec 4) (x1 : BitVec 3) (x2 : BitVec 5) (x3 : BitVec 5) (x4 : BitVec 47) :
    fldR (packR4_3_5_5_47 x0 x1 x2 x3 x4) 52 5 = x2 := by
  apply BitVec.eq_of_toNat_eq
  simp only [fldR, packR4_3_5_5_47, BitVec.toNat_ofNat]
  have := x0.isLt; have := x1.isLt; have := x2.isLt; have := x3.isLt; have := x4.isLt; omega

@[simp] theorem packR4_3_5_5_47_at47 (x0 : BitVec 4) (x1 : BitVec 3) (x2 : BitVec 5) (x3 : BitVec 5) (x4 : BitVec 47) :
    fldR (packR4_3_5_5_47 x0 x1 x2 x3 x4) 47 5 = x3 := by
  apply BitVec.eq_of_toNat_eq
  simp only [fldR, packR4_3_5_5_47, BitVec.toNat_ofNat]
  have := x0.isLt; have := x1.isLt; have := x2.isLt; have := x3.isLt; have := x4.isLt; omega

@[simp] theorem packR4_3_5_5_47_at0 (x0 : BitVec 4) (x1 : BitVec 3) (x2 : BitVec 5) (x3 : BitVec 5) (x4 : BitVec 47) :
    fldR (packR4_3_5_5_47 x0 x1 x2 x3 x4) 0 47 = x4 := by
  apply BitVec.eq_of_toNat_eq
  simp only [fldR, packR4_3_5_5_47, BitVec.toNat_ofNat]
  have := x0.isLt; have := x1.isLt; have := x2.isLt; have := x3.isLt; have := x4.isLt; omega

@[simp] theorem packR4_3_5_5_1_9_37_at60 (x0 : BitVec 4) (x1 : BitVec 3) (x2 : BitVec 5) (x3 : BitVec 5) (x4 : BitVec 1) (x5 : BitVec 9) (x6 : BitVec 37) :
    fldR (packR4_3_5_5_1_9_37 x0 x1 x2 x3 x4 x5 x6) 60 4 = x0 := by
  apply BitVec.eq_of_toNat_eq
  simp only [fldR, packR4_3_5_5_1_9_37, BitVec.toNat_ofNat]
  have := x0.isLt; have := x1.isLt; have := x2.isLt; have := x3.isLt; have := x4.isLt; have := x5.isLt; have := x6.isLt; omega

@[simp] theorem packR4_3_5_5_1_9_37_at57 (x0 : BitVec 4) (x1 : BitVec 3) (x2 : BitVec 5) (x3 : BitVec 5) (x4 : BitVec 1) (x5 : BitVec 9) (x6 : BitVec 37) :
    fldR (packR4_3_5_5_1_9_37 x0 x1 x2 x3 x4 x5 x6) 57 3 = x1 := by
  apply BitVec.eq_of_toNat_eq
  simp only [fldR, packR4_3_5_5_1_9_37, BitVec.toNat_ofNat]
  have := x0.isLt; have := x1.isLt; have := x2.isLt; have := x3.isLt; have := x4.isLt; have := x5.isLt; have := x6.isLt; omega

@[simp] theorem packR4_3_5_5_1_9_37_at52 (x0 : BitVec 4) (x1 : BitVec 3) (x2 : BitVec 5) (x3 : BitVec 5) (x4 : BitVec 1) (x5 : BitVec 9) (x6 : BitVec 37) :
    fldR (packR4_3_5_5_1_9_37 x0 x1 x2 x3 x4 x5 x6) 52 5 = x2 := by
  apply BitVec.eq_of_toNat_eq
  simp only [fldR, packR4_3_5_5_1_9_37, BitVec.toNat_ofNat]
  have := x0.isLt; have := x1.isLt; have := x2.isLt; have := x3.isLt; have := x4.isLt; have := x5.isLt; have := x6.isLt; omega

@[simp] theorem packR4_3_5_5_1_9_37_at47 (x0 : BitVec 4) (x1 : BitVec 3) (x2 : BitVec 5) (x3 : BitVec 5) (x4 : BitVec 1) (x5 : BitVec 9) (x6 : BitVec 37) :
    fldR (packR4_3_5_5_1_9_37 x0 x1 x2 x3 x4 x5 x6) 47 5 = x3 := by
  apply BitVec.eq_of_toNat_eq
  simp only [fldR, packR4_3_5_5_1_9_37, BitVec.toNat_ofNat]
  have := x0.isLt; have := x1.isLt; have := x2.isLt; have := x3.isLt; have := x4.isLt; have := x5.isLt; have := x6.isLt; omega

@[simp] theorem packR4_3_5_5_1_9_37_at46 (x0 : BitVec 4) (x1 : BitVec 3) (x2 : BitVec 5) (x3 : BitVec 5) (x4 : BitVec 1) (x5 : BitVec 9) (x6 : BitVec 37) :
    fldR (packR4_3_5_5_1_9_37 x0 x1 x2 x3 x4 x5 x6) 46 1 = x4 := by
  apply BitVec.eq_of_toNat_eq
  simp only [fldR, packR4_3_5_5_1_9_37, BitVec.toNat_ofNat]
  have := x0.isLt; have := x1.isLt; have := x2.isLt; have := x3.isLt; have := x4.isLt; have := x5.isLt; have := x6.isLt; omega

@[simp] theorem packR4_3_5_5_1_9_37_at37 (x0 : BitVec 4) (x1 : BitVec 3) (x2 : BitVec 5) (x3 : BitVec 5) (x4 : BitVec 1) (x5 : BitVec 9) (x6 : BitVec 37) :
    fldR (packR4_3_5_5_1_9_37 x0 x1 x2 x3 x4 x5 x6) 37 9 = x5 := by
  apply BitVec.eq_of_toNat_eq
  simp only [fldR, packR4_3_5_5_1_9_37, BitVec.toNat_ofNat]
  have := x0.isLt; have := x1.isLt; have := x2.isLt; have := x3.isLt; have := x4.isLt; have := x5.isLt; have := x6.isLt; omega

@[simp] theorem packR4_3_5_5_1_9_37_at0 (x0 : BitVec 4) (x1 : BitVec 3) (x2 : BitVec 5) (x3 : BitVec 5) (x4 : BitVec 1) (x5 : BitVec 9) (x6 : BitVec 37) :
    fldR (packR4_3_5_5_1_9_37 x0 x1 x2 x3 x4 x5 x6) 0 37 = x6 := by
  apply BitVec.eq_of_toNat_eq
  simp only [fldR, packR4_3_5_5_1_9_37, BitVec.toNat_ofNat]
  have := x0.isLt; have := x1.isLt; have := x2.isLt; have := x3.isLt; have := x4.isLt; have := x5.isLt; have := x6.isLt; omega

@[simp] theorem packR4_3_5_5_3_5_39_at60 (x0 : BitVec 4) (x1 : BitVec 3) (x2 : BitVec 5) (x3 : BitVec 5) (x4 : BitVec 3) (x5 : BitVec 5) (x6 : BitVec 39) :
    fldR (packR4_3_5_5_3_5_39 x0 x1 x2 x3 x4 x5 x6) 60 4 = x0 := by
  apply BitVec.eq_of_toNat_eq
  simp only [fldR, packR4_3_5_5_3_5_39, BitVec.toNat_ofNat]
  have := x0.isLt; have := x1.isLt; have := x2.isLt; have := x3.isLt; have := x4.isLt; have := x5.isLt; have := x6.isLt; omega

@[simp] theorem packR4_3_5_5_3_5_39_at57 (x0 : BitVec 4) (x1 : BitVec 3) (x2 : BitVec 5) (x3 : BitVec 5) (x4 : BitVec 3) (x5 : BitVec 5) (x6 : BitVec 39) :
    fldR (packR4_3_5_5_3_5_39 x0 x1 x2 x3 x4 x5 x6) 57 3 = x1 := by
  apply BitVec.eq_of_toNat_eq
  simp only [fldR, packR4_3_5_5_3_5_39, BitVec.toNat_ofNat]
  have := x0.isLt; have := x1.isLt; have := x2.isLt; have := x3.isLt; have := x4.isLt; have := x5.isLt; have := x6.isLt; omega

@[simp] theorem packR4_3_5_5_3_5_39_at52 (x0 : BitVec 4) (x1 : BitVec 3) (x2 : BitVec 5) (x3 : BitVec 5) (x4 : BitVec 3) (x5 : BitVec 5) (x6 : BitVec 39) :
    fldR (packR4_3_5_5_3_5_39 x0 x1 x2 x3 x4 x5 x6) 52 5 = x2 := by
  apply BitVec.eq_of_toNat_eq
  simp only [fldR, packR4_3_5_5_3_5_39, BitVec.toNat_ofNat]
  have := x0.isLt; have := x1.isLt; have := x2.isLt; have := x3.isLt; have := x4.isLt; have := x5.isLt; have := x6.isLt; omega

@[simp] theorem packR4_3_5_5_3_5_39_at47 (x0 : BitVec 4) (x1 : BitVec 3) (x2 : BitVec 5) (x3 : BitVec 5) (x4 : BitVec 3) (x5 : BitVec 5) (x6 : BitVec 39) :
    fldR (packR4_3_5_5_3_5_39 x0 x1 x2 x3 x4 x5 x6) 47 5 = x3 := by
  apply BitVec.eq_of_toNat_eq
  simp only [fldR, packR4_3_5_5_3_5_39, BitVec.toNat_ofNat]
  have := x0.isLt; have := x1.isLt; have := x2.isLt; have := x3.isLt; have := x4.isLt; have := x5.isLt; have := x6.isLt; omega

@[simp] theorem packR4_3_5_5_3_5_39_at44 (x0 : BitVec 4) (x1 : BitVec 3) (x2 : BitVec 5) (x3 : BitVec 5) (x4 : BitVec 3) (x5 : BitVec 5) (x6 : BitVec 39) :
    fldR (packR4_3_5_5_3_5_39 x0 x1 x2 x3 x4 x5 x6) 44 3 = x4 := by
  apply BitVec.eq_of_toNat_eq
  simp only [fldR, packR4_3_5_5_3_5_39, BitVec.toNat_ofNat]
  have := x0.isLt; have := x1.isLt; have := x2.isLt; have := x3.isLt; have := x4.isLt; have := x5.isLt; have := x6.isLt; omega

@[simp] theorem packR4_3_5_5_3_5_39_at39 (x0 : BitVec 4) (x1 : BitVec 3) (x2 : BitVec 5) (x3 : BitVec 5) (x4 : BitVec 3) (x5 : BitVec 5) (x6 : BitVec 39) :
    fldR (packR4_3_5_5_3_5_39 x0 x1 x2 x3 x4 x5 x6) 39 5 = x5 := by
  apply BitVec.eq_of_toNat_eq
  simp only [fldR, packR4_3_5_5_3_5_39, BitVec.toNat_ofNat]
  have := x0.isLt; have := x1.isLt; have := x2.isLt; have := x3.isLt; have := x4.isLt; have := x5.isLt; have := x6.isLt; omega

@[simp] theorem packR4_3_5_5_3_5_39_at0 (x0 : BitVec 4) (x1 : BitVec 3) (x2 : BitVec 5) (x3 : BitVec 5) (x4 : BitVec 3) (x5 : BitVec 5) (x6 : BitVec 39) :
    fldR (packR4_3_5_5_3_5_39 x0 x1 x2 x3 x4 x5 x6) 0 39 = x6 := by
  apply BitVec.eq_of_toNat_eq
  simp only [fldR, packR4_3_5_5_3_5_39, BitVec.toNat_ofNat]
  have := x0.isLt; have := x1.isLt; have := x2.isLt; have := x3.isLt; have := x4.isLt; have := x5.isLt; have := x6.isLt; omega

theorem decodeBits_op00 (w : BitVec 32) (h : (fld w 25 7).toNat = 0x00) : decodeBits w =
      (if fld w 0 25 = 0#25 then some (.nop)
      else none) := by
  unfold decodeBits; rw [h]; rfl

theorem decodeBits_op01 (w : BitVec 32) (h : (fld w 25 7).toNat = 0x01) : decodeBits w =
      (if fld w 0 3 = 0#3 then some (.add (fld w 21 4) (fld w 15 6) (fld w 9 6) (fld w 3 6))
      else if fld w 0 3 = 1#3 then some (.sub (fld w 21 4) (fld w 15 6) (fld w 9 6) (fld w 3 6))
      else if fld w 0 3 = 2#3 then some (.and (fld w 21 4) (fld w 15 6) (fld w 9 6) (fld w 3 6))
      else if fld w 0 3 = 3#3 then some (.or (fld w 21 4) (fld w 15 6) (fld w 9 6) (fld w 3 6))
      else if fld w 0 3 = 4#3 then some (.xor (fld w 21 4) (fld w 15 6) (fld w 9 6) (fld w 3 6))
      else if fld w 0 3 = 5#3 then some (.andn (fld w 21 4) (fld w 15 6) (fld w 9 6) (fld w 3 6))
      else if fld w 0 3 = 6#3 then some (.min (fld w 21 4) (fld w 15 6) (fld w 9 6) (fld w 3 6))
      else if fld w 0 3 = 7#3 then some (.max (fld w 21 4) (fld w 15 6) (fld w 9 6) (fld w 3 6))
      else none) := by
  unfold decodeBits; rw [h]; rfl

theorem decodeBits_op02 (w : BitVec 32) (h : (fld w 25 7).toNat = 0x02) : decodeBits w =
      (if fld w 0 3 = 0#3 then some (.minu (fld w 21 4) (fld w 15 6) (fld w 9 6) (fld w 3 6))
      else if fld w 0 3 = 1#3 then some (.maxu (fld w 21 4) (fld w 15 6) (fld w 9 6) (fld w 3 6))
      else if fld w 0 3 = 2#3 then some (.mul (fld w 21 4) (fld w 15 6) (fld w 9 6) (fld w 3 6))
      else if fld w 0 3 = 3#3 then some (.mulh (fld w 21 4) (fld w 15 6) (fld w 9 6) (fld w 3 6))
      else if fld w 0 3 = 4#3 then some (.mulhu (fld w 21 4) (fld w 15 6) (fld w 9 6) (fld w 3 6))
      else if fld w 0 3 = 5#3 then some (.sll (fld w 21 4) (fld w 15 6) (fld w 9 6) (fld w 3 6))
      else if fld w 0 3 = 6#3 then some (.srl (fld w 21 4) (fld w 15 6) (fld w 9 6) (fld w 3 6))
      else if fld w 0 3 = 7#3 then some (.sra (fld w 21 4) (fld w 15 6) (fld w 9 6) (fld w 3 6))
      else none) := by
  unfold decodeBits; rw [h]; rfl

theorem decodeBits_op03 (w : BitVec 32) (h : (fld w 25 7).toNat = 0x03) : decodeBits w =
      (some (.addi (fld w 21 4) (fld w 15 6) (fld w 9 6) (fld w 0 9))) := by
  unfold decodeBits; rw [h]; rfl

theorem decodeBits_op04 (w : BitVec 32) (h : (fld w 25 7).toNat = 0x04) : decodeBits w =
      (some (.andi (fld w 21 4) (fld w 15 6) (fld w 9 6) (fld w 0 9))) := by
  unfold decodeBits; rw [h]; rfl

theorem decodeBits_op05 (w : BitVec 32) (h : (fld w 25 7).toNat = 0x05) : decodeBits w =
      (some (.ori (fld w 21 4) (fld w 15 6) (fld w 9 6) (fld w 0 9))) := by
  unfold decodeBits; rw [h]; rfl

theorem decodeBits_op06 (w : BitVec 32) (h : (fld w 25 7).toNat = 0x06) : decodeBits w =
      (some (.xori (fld w 21 4) (fld w 15 6) (fld w 9 6) (fld w 0 9))) := by
  unfold decodeBits; rw [h]; rfl

theorem decodeBits_op07 (w : BitVec 32) (h : (fld w 25 7).toNat = 0x07) : decodeBits w =
      (if fld w 6 3 = 0#3 then some (.slli (fld w 21 4) (fld w 15 6) (fld w 9 6) (fld w 0 6))
      else if fld w 6 3 = 2#3 then some (.srli (fld w 21 4) (fld w 15 6) (fld w 9 6) (fld w 0 6))
      else if fld w 6 3 = 4#3 then some (.srai (fld w 21 4) (fld w 15 6) (fld w 9 6) (fld w 0 6))
      else none) := by
  unfold decodeBits; rw [h]; rfl

theorem decodeBits_op08 (w : BitVec 32) (h : (fld w 25 7).toNat = 0x08) : decodeBits w =
      (some (.muli (fld w 21 4) (fld w 15 6) (fld w 9 6) (fld w 0 9))) := by
  unfold decodeBits; rw [h]; rfl

theorem decodeBits_op09 (w : BitVec 32) (h : (fld w 25 7).toNat = 0x09) : decodeBits w =
      (some (.sel (fld w 21 4) (fld w 15 6) (fld w 9 6) (fld w 3 6) (fld w 0 3))) := by
  unfold decodeBits; rw [h]; rfl

theorem decodeBits_op0A (w : BitVec 32) (h : (fld w 25 7).toNat = 0x0A) : decodeBits w =
      (if fld w 0 2 = 0#2 then some (.cmpEq (fld w 21 4) (fld w 14 7) (fld w 8 6) (fld w 2 6))
      else if fld w 0 2 = 1#2 then some (.cmpNe (fld w 21 4) (fld w 14 7) (fld w 8 6) (fld w 2 6))
      else if fld w 0 2 = 2#2 then some (.cmpLt (fld w 21 4) (fld w 14 7) (fld w 8 6) (fld w 2 6))
      else if fld w 0 2 = 3#2 then some (.cmpLe (fld w 21 4) (fld w 14 7) (fld w 8 6) (fld w 2 6))
      else none) := by
  unfold decodeBits; rw [h]; rfl

theorem decodeBits_op0B (w : BitVec 32) (h : (fld w 25 7).toNat = 0x0B) : decodeBits w =
      (if fld w 0 2 = 0#2 then some (.cmpLtu (fld w 21 4) (fld w 14 7) (fld w 8 6) (fld w 2 6))
      else if fld w 0 2 = 1#2 then some (.cmpLeu (fld w 21 4) (fld w 14 7) (fld w 8 6) (fld w 2 6))
      else if fld w 0 2 = 2#2 then some (.cmpTst (fld w 21 4) (fld w 14 7) (fld w 8 6) (fld w 2 6))
      else if fld w 0 2 = 3#2 then some (.cmpNtst (fld w 21 4) (fld w 14 7) (fld w 8 6) (fld w 2 6))
      else none) := by
  unfold decodeBits; rw [h]; rfl

theorem decodeBits_op0C (w : BitVec 32) (h : (fld w 25 7).toNat = 0x0C) : decodeBits w =
      (if fld w 0 2 = 0#2 then some (.cmpiEq (fld w 21 4) (fld w 14 7) (fld w 8 6) (fld w 2 6))
      else if fld w 0 2 = 1#2 then some (.cmpiNe (fld w 21 4) (fld w 14 7) (fld w 8 6) (fld w 2 6))
      else if fld w 0 2 = 2#2 then some (.cmpiLt (fld w 21 4) (fld w 14 7) (fld w 8 6) (fld w 2 6))
      else if fld w 0 2 = 3#2 then some (.cmpiLe (fld w 21 4) (fld w 14 7) (fld w 8 6) (fld w 2 6))
      else none) := by
  unfold decodeBits; rw [h]; rfl

theorem decodeBits_op0D (w : BitVec 32) (h : (fld w 25 7).toNat = 0x0D) : decodeBits w =
      (some (.pand (fld w 21 4) (fld w 14 7) (fld w 7 7) (fld w 0 7))) := by
  unfold decodeBits; rw [h]; rfl

theorem decodeBits_op0E (w : BitVec 32) (h : (fld w 25 7).toNat = 0x0E) : decodeBits w =
      (some (.por (fld w 21 4) (fld w 14 7) (fld w 7 7) (fld w 0 7))) := by
  unfold decodeBits; rw [h]; rfl

theorem decodeBits_op0F (w : BitVec 32) (h : (fld w 25 7).toNat = 0x0F) : decodeBits w =
      (some (.pxor (fld w 21 4) (fld w 14 7) (fld w 7 7) (fld w 0 7))) := by
  unfold decodeBits; rw [h]; rfl

theorem decodeBits_op10 (w : BitVec 32) (h : (fld w 25 7).toNat = 0x10) : decodeBits w =
      (some (.pandn (fld w 21 4) (fld w 14 7) (fld w 7 7) (fld w 0 7))) := by
  unfold decodeBits; rw [h]; rfl

theorem decodeBits_op11 (w : BitVec 32) (h : (fld w 25 7).toNat = 0x11) : decodeBits w =
      (if fld w 0 8 = 0#8 then some (.pset (fld w 21 4) (fld w 14 7) (fld w 8 6))
      else if fld w 0 8 = 1#8 then some (.pget (fld w 21 4) (fld w 14 7) (fld w 8 6))
      else if fld w 0 8 = 2#8 then some (.pcnt (fld w 21 4) (fld w 14 7) (fld w 8 6))
      else if fld w 0 8 = 3#8 then some (.pfirst (fld w 21 4) (fld w 14 7) (fld w 8 6))
      else none) := by
  unfold decodeBits; rw [h]; rfl

theorem decodeBits_op12 (w : BitVec 32) (h : (fld w 25 7).toNat = 0x12) : decodeBits w =
      (if fld w 13 5 = 0#5 then some (.setb (fld w 21 4) (fld w 18 3) (fld w 0 13))
      else if fld w 6 12 = 128#12 then some (.setbReg (fld w 21 4) (fld w 18 3) (fld w 0 6))
      else none) := by
  unfold decodeBits; rw [h]; rfl

theorem decodeBits_op13 (w : BitVec 32) (h : (fld w 25 7).toNat = 0x13) : decodeBits w =
      (if fld w 13 5 = 0#5 then some (.call (fld w 21 4) (fld w 18 3) (fld w 6 7) (fld w 0 6))
      else if fld w 13 8 = 1#8 then some (.ret (fld w 21 4) (fld w 6 7) (fld w 0 6))
      else if fld w 0 18 = 16384#18 then some (.lp0 (fld w 21 4) (fld w 18 3))
      else if fld w 0 18 = 24576#18 then some (.lp1 (fld w 21 4) (fld w 18 3))
      else if fld w 0 18 = 32768#18 then some (.lpe (fld w 21 4) (fld w 18 3))
      else none) := by
  unfold decodeBits; rw [h]; rfl

theorem decodeBits_op14 (w : BitVec 32) (h : (fld w 25 7).toNat = 0x14) : decodeBits w =
      (if fld w 18 1 = 0#1 then some (.lset (fld w 21 4) (fld w 19 2) (fld w 0 18))
      else if fld w 6 13 = 4096#13 then some (.lsetReg (fld w 21 4) (fld w 19 2) (fld w 0 6))
      else none) := by
  unfold decodeBits; rw [h]; rfl

theorem decodeBits_op15 (w : BitVec 32) (h : (fld w 25 7).toNat = 0x15) : decodeBits w =
      (if fld w 0 21 = 0#21 then some (.rotStep (fld w 21 4))
      else if fld w 18 3 = 2#3 then some (.rotSetv (fld w 21 4) (fld w 0 18))
      else if fld w 6 15 = 12288#15 then some (.rotSetvReg (fld w 21 4) (fld w 0 6))
      else if fld w 18 3 = 4#3 then some (.rotSetp (fld w 21 4) (fld w 0 18))
      else if fld w 6 15 = 20480#15 then some (.rotSetpReg (fld w 21 4) (fld w 0 6))
      else none) := by
  unfold decodeBits; rw [h]; rfl

theorem decodeBits_op16 (w : BitVec 32) (h : (fld w 25 7).toNat = 0x16) : decodeBits w =
      (if fld w 0 7 = 0#7 then some (.mfs (fld w 21 4) (fld w 15 6) (fld w 7 8))
      else none) := by
  unfold decodeBits; rw [h]; rfl

theorem decodeBits_op17 (w : BitVec 32) (h : (fld w 25 7).toNat = 0x17) : decodeBits w =
      (if fld w 0 7 = 0#7 then some (.mts (fld w 21 4) (fld w 15 6) (fld w 7 8))
      else none) := by
  unfold decodeBits; rw [h]; rfl

theorem decodeBits_op18 (w : BitVec 32) (h : (fld w 25 7).toNat = 0x18) : decodeBits w =
      (some (.adds (fld w 21 4) (fld w 15 6) (fld w 9 6) (fld w 3 6) (fld w 0 3))) := by
  unfold decodeBits; rw [h]; rfl

theorem decodeBits_op19 (w : BitVec 32) (h : (fld w 25 7).toNat = 0x19) : decodeBits w =
      (if fld w 0 9 = 0#9 then some (.clz (fld w 21 4) (fld w 15 6) (fld w 9 6))
      else if fld w 0 9 = 1#9 then some (.ctz (fld w 21 4) (fld w 15 6) (fld w 9 6))
      else if fld w 0 9 = 2#9 then some (.popc (fld w 21 4) (fld w 15 6) (fld w 9 6))
      else if fld w 0 9 = 3#9 then some (.rev8 (fld w 21 4) (fld w 15 6) (fld w 9 6))
      else none) := by
  unfold decodeBits; rw [h]; rfl

theorem decodeBits_op1A (w : BitVec 32) (h : (fld w 25 7).toNat = 0x1A) : decodeBits w =
      (if fld w 0 9 = 0#9 then some (.sextB (fld w 21 4) (fld w 15 6) (fld w 9 6))
      else if fld w 0 9 = 1#9 then some (.sextH (fld w 21 4) (fld w 15 6) (fld w 9 6))
      else if fld w 0 9 = 2#9 then some (.sextW (fld w 21 4) (fld w 15 6) (fld w 9 6))
      else if fld w 0 9 = 3#9 then some (.zextB (fld w 21 4) (fld w 15 6) (fld w 9 6))
      else if fld w 0 9 = 4#9 then some (.zextH (fld w 21 4) (fld w 15 6) (fld w 9 6))
      else if fld w 0 9 = 5#9 then some (.zextW (fld w 21 4) (fld w 15 6) (fld w 9 6))
      else none) := by
  unfold decodeBits; rw [h]; rfl

theorem decodeBits_op1B (w : BitVec 32) (h : (fld w 25 7).toNat = 0x1B) : decodeBits w =
      (some (.movi (fld w 21 4) (fld w 15 6) (fld w 0 15))) := by
  unfold decodeBits; rw [h]; rfl

theorem decodeBits_op1C (w : BitVec 32) (h : (fld w 25 7).toNat = 0x1C) : decodeBits w =
      (if fld w 0 3 = 0#3 then some (.div (fld w 21 4) (fld w 15 6) (fld w 9 6) (fld w 3 6))
      else if fld w 0 3 = 1#3 then some (.divu (fld w 21 4) (fld w 15 6) (fld w 9 6) (fld w 3 6))
      else if fld w 0 3 = 2#3 then some (.rem (fld w 21 4) (fld w 15 6) (fld w 9 6) (fld w 3 6))
      else if fld w 0 3 = 3#3 then some (.remu (fld w 21 4) (fld w 15 6) (fld w 9 6) (fld w 3 6))
      else none) := by
  unfold decodeBits; rw [h]; rfl

theorem decodeBits_op20 (w : BitVec 32) (h : (fld w 25 7).toNat = 0x20) : decodeBits w =
      (some (.vadd (fld w 21 4) (fld w 15 6) (fld w 9 6) (fld w 3 6) (fld w 0 3))) := by
  unfold decodeBits; rw [h]; rfl

theorem decodeBits_op21 (w : BitVec 32) (h : (fld w 25 7).toNat = 0x21) : decodeBits w =
      (some (.vsub (fld w 21 4) (fld w 15 6) (fld w 9 6) (fld w 3 6) (fld w 0 3))) := by
  unfold decodeBits; rw [h]; rfl

theorem decodeBits_op22 (w : BitVec 32) (h : (fld w 25 7).toNat = 0x22) : decodeBits w =
      (some (.vmul (fld w 21 4) (fld w 15 6) (fld w 9 6) (fld w 3 6) (fld w 0 3))) := by
  unfold decodeBits; rw [h]; rfl

theorem decodeBits_op23 (w : BitVec 32) (h : (fld w 25 7).toNat = 0x23) : decodeBits w =
      (some (.vadds (fld w 21 4) (fld w 15 6) (fld w 9 6) (fld w 3 6) (fld w 0 3))) := by
  unfold decodeBits; rw [h]; rfl

theorem decodeBits_op24 (w : BitVec 32) (h : (fld w 25 7).toNat = 0x24) : decodeBits w =
      (some (.vsubs (fld w 21 4) (fld w 15 6) (fld w 9 6) (fld w 3 6) (fld w 0 3))) := by
  unfold decodeBits; rw [h]; rfl

theorem decodeBits_op25 (w : BitVec 32) (h : (fld w 25 7).toNat = 0x25) : decodeBits w =
      (some (.vmin (fld w 21 4) (fld w 15 6) (fld w 9 6) (fld w 3 6) (fld w 0 3))) := by
  unfold decodeBits; rw [h]; rfl

theorem decodeBits_op26 (w : BitVec 32) (h : (fld w 25 7).toNat = 0x26) : decodeBits w =
      (some (.vmax (fld w 21 4) (fld w 15 6) (fld w 9 6) (fld w 3 6) (fld w 0 3))) := by
  unfold decodeBits; rw [h]; rfl

theorem decodeBits_op27 (w : BitVec 32) (h : (fld w 25 7).toNat = 0x27) : decodeBits w =
      (if fld w 0 3 = 0#3 then some (.vand (fld w 21 4) (fld w 15 6) (fld w 9 6) (fld w 3 6))
      else if fld w 0 3 = 1#3 then some (.vor (fld w 21 4) (fld w 15 6) (fld w 9 6) (fld w 3 6))
      else if fld w 0 3 = 2#3 then some (.vxor (fld w 21 4) (fld w 15 6) (fld w 9 6) (fld w 3 6))
      else if fld w 0 3 = 3#3 then some (.vandn (fld w 21 4) (fld w 15 6) (fld w 9 6) (fld w 3 6))
      else if fld w 0 9 = 4#9 then some (.vnot (fld w 21 4) (fld w 15 6) (fld w 9 6))
      else none) := by
  unfold decodeBits; rw [h]; rfl

theorem decodeBits_op28 (w : BitVec 32) (h : (fld w 25 7).toNat = 0x28) : decodeBits w =
      (if fld w 0 3 = 0#3 then some (.vsll (fld w 21 4) (fld w 15 6) (fld w 9 6) (fld w 3 6))
      else if fld w 0 3 = 1#3 then some (.vsrl (fld w 21 4) (fld w 15 6) (fld w 9 6) (fld w 3 6))
      else if fld w 0 3 = 2#3 then some (.vsra (fld w 21 4) (fld w 15 6) (fld w 9 6) (fld w 3 6))
      else if fld w 0 3 = 3#3 then some (.vslls (fld w 21 4) (fld w 15 6) (fld w 9 6) (fld w 3 6))
      else if fld w 0 3 = 4#3 then some (.vsrls (fld w 21 4) (fld w 15 6) (fld w 9 6) (fld w 3 6))
      else if fld w 0 3 = 5#3 then some (.vsras (fld w 21 4) (fld w 15 6) (fld w 9 6) (fld w 3 6))
      else none) := by
  unfold decodeBits; rw [h]; rfl

theorem decodeBits_op29 (w : BitVec 32) (h : (fld w 25 7).toNat = 0x29) : decodeBits w =
      (some (.vfadd (fld w 21 4) (fld w 15 6) (fld w 9 6) (fld w 3 6) (fld w 0 3))) := by
  unfold decodeBits; rw [h]; rfl

theorem decodeBits_op2A (w : BitVec 32) (h : (fld w 25 7).toNat = 0x2A) : decodeBits w =
      (some (.vfsub (fld w 21 4) (fld w 15 6) (fld w 9 6) (fld w 3 6) (fld w 0 3))) := by
  unfold decodeBits; rw [h]; rfl

theorem decodeBits_op2B (w : BitVec 32) (h : (fld w 25 7).toNat = 0x2B) : decodeBits w =
      (some (.vfmul (fld w 21 4) (fld w 15 6) (fld w 9 6) (fld w 3 6) (fld w 0 3))) := by
  unfold decodeBits; rw [h]; rfl

theorem decodeBits_op2C (w : BitVec 32) (h : (fld w 25 7).toNat = 0x2C) : decodeBits w =
      (some (.vfmin (fld w 21 4) (fld w 15 6) (fld w 9 6) (fld w 3 6) (fld w 0 3))) := by
  unfold decodeBits; rw [h]; rfl

theorem decodeBits_op2D (w : BitVec 32) (h : (fld w 25 7).toNat = 0x2D) : decodeBits w =
      (some (.vfma (fld w 21 4) (fld w 15 6) (fld w 9 6) (fld w 3 6) (fld w 0 3))) := by
  unfold decodeBits; rw [h]; rfl

theorem decodeBits_op2E (w : BitVec 32) (h : (fld w 25 7).toNat = 0x2E) : decodeBits w =
      (some (.vfms (fld w 21 4) (fld w 15 6) (fld w 9 6) (fld w 3 6) (fld w 0 3))) := by
  unfold decodeBits; rw [h]; rfl

theorem decodeBits_op2F (w : BitVec 32) (h : (fld w 25 7).toNat = 0x2F) : decodeBits w =
      (some (.vfmax (fld w 21 4) (fld w 15 6) (fld w 9 6) (fld w 3 6) (fld w 0 3))) := by
  unfold decodeBits; rw [h]; rfl

theorem decodeBits_op30 (w : BitVec 32) (h : (fld w 25 7).toNat = 0x30) : decodeBits w =
      (some (.vcvtV0V31 (fld w 21 4) (fld w 15 6) (fld w 10 5) (fld w 5 5) (fld w 0 5))) := by
  unfold decodeBits; rw [h]; rfl

theorem decodeBits_op31 (w : BitVec 32) (h : (fld w 25 7).toNat = 0x31) : decodeBits w =
      (some (.vcvtV32V63 (fld w 21 4) (fld w 15 6) (fld w 10 5) (fld w 5 5) (fld w 0 5))) := by
  unfold decodeBits; rw [h]; rfl

theorem decodeBits_op32 (w : BitVec 32) (h : (fld w 25 7).toNat = 0x32) : decodeBits w =
      (some (.vcvtSatV0V31 (fld w 21 4) (fld w 15 6) (fld w 10 5) (fld w 5 5) (fld w 0 5))) := by
  unfold decodeBits; rw [h]; rfl

theorem decodeBits_op33 (w : BitVec 32) (h : (fld w 25 7).toNat = 0x33) : decodeBits w =
      (some (.vcvtSatV32V63 (fld w 21 4) (fld w 15 6) (fld w 10 5) (fld w 5 5) (fld w 0 5))) := by
  unfold decodeBits; rw [h]; rfl

theorem decodeBits_op34 (w : BitVec 32) (h : (fld w 25 7).toNat = 0x34) : decodeBits w =
      (if fld w 0 2 = 0#2 then some (.vcmpEq (fld w 21 4) (fld w 14 7) (fld w 8 6) (fld w 2 6))
      else if fld w 0 2 = 1#2 then some (.vcmpNe (fld w 21 4) (fld w 14 7) (fld w 8 6) (fld w 2 6))
      else if fld w 0 2 = 2#2 then some (.vcmpLt (fld w 21 4) (fld w 14 7) (fld w 8 6) (fld w 2 6))
      else if fld w 0 2 = 3#2 then some (.vcmpLe (fld w 21 4) (fld w 14 7) (fld w 8 6) (fld w 2 6))
      else none) := by
  unfold decodeBits; rw [h]; rfl

theorem decodeBits_op35 (w : BitVec 32) (h : (fld w 25 7).toNat = 0x35) : decodeBits w =
      (if fld w 0 2 = 0#2 then some (.vcmpuLtu (fld w 21 4) (fld w 14 7) (fld w 8 6) (fld w 2 6))
      else if fld w 0 2 = 1#2 then some (.vcmpuLeu (fld w 21 4) (fld w 14 7) (fld w 8 6) (fld w 2 6))
      else if fld w 0 2 = 2#2 then some (.vcmpuTst (fld w 21 4) (fld w 14 7) (fld w 8 6) (fld w 2 6))
      else if fld w 0 2 = 3#2 then some (.vcmpuNtst (fld w 21 4) (fld w 14 7) (fld w 8 6) (fld w 2 6))
      else none) := by
  unfold decodeBits; rw [h]; rfl

theorem decodeBits_op36 (w : BitVec 32) (h : (fld w 25 7).toNat = 0x36) : decodeBits w =
      (if fld w 0 2 = 0#2 then some (.vfcmpEq (fld w 21 4) (fld w 14 7) (fld w 8 6) (fld w 2 6))
      else if fld w 0 2 = 1#2 then some (.vfcmpNe (fld w 21 4) (fld w 14 7) (fld w 8 6) (fld w 2 6))
      else if fld w 0 2 = 2#2 then some (.vfcmpLt (fld w 21 4) (fld w 14 7) (fld w 8 6) (fld w 2 6))
      else if fld w 0 2 = 3#2 then some (.vfcmpLe (fld w 21 4) (fld w 14 7) (fld w 8 6) (fld w 2 6))
      else none) := by
  unfold decodeBits; rw [h]; rfl

theorem decodeBits_op37 (w : BitVec 32) (h : (fld w 25 7).toNat = 0x37) : decodeBits w =
      (some (.vsel (fld w 21 4) (fld w 15 6) (fld w 9 6) (fld w 3 6) (fld w 0 3))) := by
  unfold decodeBits; rw [h]; rfl

theorem decodeBits_op38 (w : BitVec 32) (h : (fld w 25 7).toNat = 0x38) : decodeBits w =
      (if fld w 0 3 = 0#3 then some (.vperm (fld w 21 4) (fld w 15 6) (fld w 9 6) (fld w 3 6))
      else if fld w 0 3 = 1#3 then some (.vrotl (fld w 21 4) (fld w 15 6) (fld w 9 6) (fld w 3 6))
      else if fld w 0 3 = 2#3 then some (.vbcl (fld w 21 4) (fld w 15 6) (fld w 9 6) (fld w 3 6))
      else if fld w 0 3 = 3#3 then some (.vzipl (fld w 21 4) (fld w 15 6) (fld w 9 6) (fld w 3 6))
      else if fld w 0 3 = 4#3 then some (.vziph (fld w 21 4) (fld w 15 6) (fld w 9 6) (fld w 3 6))
      else if fld w 0 3 = 5#3 then some (.vuzpl (fld w 21 4) (fld w 15 6) (fld w 9 6) (fld w 3 6))
      else if fld w 0 3 = 6#3 then some (.vuzph (fld w 21 4) (fld w 15 6) (fld w 9 6) (fld w 3 6))
      else none) := by
  unfold decodeBits; rw [h]; rfl

theorem decodeBits_op39 (w : BitVec 32) (h : (fld w 25 7).toNat = 0x39) : decodeBits w =
      (if fld w 0 9 = 0#9 then some (.vredFsum (fld w 21 4) (fld w 15 6) (fld w 9 6))
      else if fld w 0 9 = 1#9 then some (.vredIsum (fld w 21 4) (fld w 15 6) (fld w 9 6))
      else if fld w 0 9 = 2#9 then some (.vredFmax (fld w 21 4) (fld w 15 6) (fld w 9 6))
      else if fld w 0 9 = 3#9 then some (.vredFmin (fld w 21 4) (fld w 15 6) (fld w 9 6))
      else if fld w 0 9 = 4#9 then some (.vredImax (fld w 21 4) (fld w 15 6) (fld w 9 6))
      else if fld w 0 9 = 5#9 then some (.vredImin (fld w 21 4) (fld w 15 6) (fld w 9 6))
      else if fld w 0 9 = 6#9 then some (.vredAmax (fld w 21 4) (fld w 15 6) (fld w 9 6))
      else none) := by
  unfold decodeBits; rw [h]; rfl

theorem decodeBits_op3A (w : BitVec 32) (h : (fld w 25 7).toNat = 0x3A) : decodeBits w =
      (if fld w 8 1 = 0#1 ∧ fld w 0 3 = 0#3 then some (.vtrLog2 (fld w 21 4) (fld w 15 6) (fld w 9 6) (fld w 3 5))
      else if fld w 8 1 = 0#1 ∧ fld w 0 3 = 1#3 then some (.vtrExp2 (fld w 21 4) (fld w 15 6) (fld w 9 6) (fld w 3 5))
      else if fld w 8 1 = 0#1 ∧ fld w 0 3 = 2#3 then some (.vtrRcp (fld w 21 4) (fld w 15 6) (fld w 9 6) (fld w 3 5))
      else if fld w 8 1 = 0#1 ∧ fld w 0 3 = 3#3 then some (.vtrRsqrt (fld w 21 4) (fld w 15 6) (fld w 9 6) (fld w 3 5))
      else if fld w 8 1 = 0#1 ∧ fld w 0 3 = 4#3 then some (.vtrSig (fld w 21 4) (fld w 15 6) (fld w 9 6) (fld w 3 5))
      else if fld w 8 1 = 0#1 ∧ fld w 0 3 = 5#3 then some (.vtrTanh (fld w 21 4) (fld w 15 6) (fld w 9 6) (fld w 3 5))
      else none) := by
  unfold decodeBits; rw [h]; rfl

theorem decodeBits_op3B (w : BitVec 32) (h : (fld w 25 7).toNat = 0x3B) : decodeBits w =
      (if fld w 0 3 = 0#3 then some (.vhash (fld w 21 4) (fld w 15 6) (fld w 9 6) (fld w 3 6))
      else none) := by
  unfold decodeBits; rw [h]; rfl

theorem decodeBits_op3C (w : BitVec 32) (h : (fld w 25 7).toNat = 0x3C) : decodeBits w =
      (if fld w 0 4 = 0#4 then some (.vacc (fld w 21 4) (fld w 15 6) (fld w 12 3) (fld w 7 5) (fld w 4 3))
      else if fld w 0 4 = 1#4 then some (.vaccLc (fld w 21 4) (fld w 15 6) (fld w 12 3) (fld w 7 5) (fld w 4 3))
      else none) := by
  unfold decodeBits; rw [h]; rfl

theorem decodeBits_op3D (w : BitVec 32) (h : (fld w 25 7).toNat = 0x3D) : decodeBits w =
      (if fld w 0 9 = 0#9 then some (.vbc (fld w 21 4) (fld w 15 6) (fld w 9 6))
      else if fld w 0 3 = 1#3 then some (.vget (fld w 21 4) (fld w 15 6) (fld w 9 6) (fld w 3 6))
      else if fld w 0 3 = 2#3 then some (.vput (fld w 21 4) (fld w 15 6) (fld w 9 6) (fld w 3 6))
      else if fld w 0 9 = 3#9 then some (.viota (fld w 21 4) (fld w 15 6) (fld w 9 6))
      else none) := by
  unfold decodeBits; rw [h]; rfl

theorem decodeBits_op40 (w : BitVec 32) (h : (fld w 25 7).toNat = 0x40) : decodeBits w =
      (if fld w 0 12 = 0#12 then some (.mcall (fld w 21 4) (fld w 15 6) (fld w 12 3))
      else none) := by
  unfold decodeBits; rw [h]; rfl

theorem decodeBits_op41 (w : BitVec 32) (h : (fld w 25 7).toNat = 0x41) : decodeBits w =
      (if fld w 0 15 = 0#15 then some (.mwait (fld w 21 4) (fld w 15 6))
      else none) := by
  unfold decodeBits; rw [h]; rfl

theorem decodeBits_op42 (w : BitVec 32) (h : (fld w 25 7).toNat = 0x42) : decodeBits w =
      (if fld w 0 12 = 0#12 then some (.mpar (fld w 21 4) (fld w 18 3) (fld w 12 6))
      else none) := by
  unfold decodeBits; rw [h]; rfl

theorem decodeBits_op43 (w : BitVec 32) (h : (fld w 25 7).toNat = 0x43) : decodeBits w =
      (some (.mpari (fld w 21 4) (fld w 18 3) (fld w 0 18))) := by
  unfold decodeBits; rw [h]; rfl

theorem decodeBits_op44 (w : BitVec 32) (h : (fld w 25 7).toNat = 0x44) : decodeBits w =
      (if fld w 0 7 = 0#7 then some (.mft (fld w 21 4) (fld w 17 4) (fld w 12 5) (fld w 7 5))
      else none) := by
  unfold decodeBits; rw [h]; rfl

theorem decodeBits_op45 (w : BitVec 32) (h : (fld w 25 7).toNat = 0x45) : decodeBits w =
      (if fld w 0 13 = 0#13 then some (.mzero (fld w 21 4) (fld w 13 8))
      else none) := by
  unfold decodeBits; rw [h]; rfl

theorem decodeBits_op46 (w : BitVec 32) (h : (fld w 25 7).toNat = 0x46) : decodeBits w =
      (if fld w 0 7 = 0#7 then some (.mmovSt (fld w 21 4) (fld w 18 3) (fld w 12 6) (fld w 7 5))
      else if fld w 0 7 = 64#7 then some (.mmovStSat (fld w 21 4) (fld w 18 3) (fld w 12 6) (fld w 7 5))
      else if fld w 0 7 = 1#7 then some (.mmovLd (fld w 21 4) (fld w 18 3) (fld w 12 6) (fld w 7 5))
      else none) := by
  unfold decodeBits; rw [h]; rfl

theorem decodeBits_op47 (w : BitVec 32) (h : (fld w 25 7).toNat = 0x47) : decodeBits w =
      (if fld w 0 6 = 0#6 then some (.mrsw (fld w 21 4) (fld w 12 9) (fld w 6 6))
      else none) := by
  unfold decodeBits; rw [h]; rfl

theorem decodeBits_op48 (w : BitVec 32) (h : (fld w 25 7).toNat = 0x48) : decodeBits w =
      (if fld w 0 6 = 0#6 then some (.mrse (fld w 21 4) (fld w 15 6) (fld w 6 9))
      else none) := by
  unfold decodeBits; rw [h]; rfl

theorem decodeBits_op49 (w : BitVec 32) (h : (fld w 25 7).toNat = 0x49) : decodeBits w =
      (if fld w 0 15 = 0#15 then some (.mstat (fld w 21 4) (fld w 15 6))
      else if fld w 0 15 = 1#15 then some (.mstatCnt (fld w 21 4) (fld w 15 6))
      else none) := by
  unfold decodeBits; rw [h]; rfl

theorem decodeBits_op50 (w : BitVec 32) (h : (fld w 25 7).toNat = 0x50) : decodeBits w =
      (if fld w 0 3 = 0#3 then some (.ldB (fld w 21 4) (fld w 15 6) (fld w 9 6) (fld w 3 6))
      else if fld w 0 3 = 1#3 then some (.ldH (fld w 21 4) (fld w 15 6) (fld w 9 6) (fld w 3 6))
      else if fld w 0 3 = 2#3 then some (.ldW (fld w 21 4) (fld w 15 6) (fld w 9 6) (fld w 3 6))
      else if fld w 0 3 = 3#3 then some (.ldD (fld w 21 4) (fld w 15 6) (fld w 9 6) (fld w 3 6))
      else if fld w 0 3 = 4#3 then some (.ldBs (fld w 21 4) (fld w 15 6) (fld w 9 6) (fld w 3 6))
      else if fld w 0 3 = 5#3 then some (.ldHs (fld w 21 4) (fld w 15 6) (fld w 9 6) (fld w 3 6))
      else if fld w 0 3 = 6#3 then some (.ldWs (fld w 21 4) (fld w 15 6) (fld w 9 6) (fld w 3 6))
      else none) := by
  unfold decodeBits; rw [h]; rfl

theorem decodeBits_op51 (w : BitVec 32) (h : (fld w 25 7).toNat = 0x51) : decodeBits w =
      (if fld w 0 3 = 0#3 then some (.ldvB (fld w 21 4) (fld w 15 6) (fld w 9 6) (fld w 3 6))
      else if fld w 0 3 = 1#3 then some (.ldvH (fld w 21 4) (fld w 15 6) (fld w 9 6) (fld w 3 6))
      else if fld w 0 3 = 2#3 then some (.ldvW (fld w 21 4) (fld w 15 6) (fld w 9 6) (fld w 3 6))
      else if fld w 0 3 = 3#3 then some (.ldvD (fld w 21 4) (fld w 15 6) (fld w 9 6) (fld w 3 6))
      else if fld w 0 3 = 4#3 then some (.ldvBs (fld w 21 4) (fld w 15 6) (fld w 9 6) (fld w 3 6))
      else if fld w 0 3 = 5#3 then some (.ldvHs (fld w 21 4) (fld w 15 6) (fld w 9 6) (fld w 3 6))
      else if fld w 0 3 = 6#3 then some (.ldvWs (fld w 21 4) (fld w 15 6) (fld w 9 6) (fld w 3 6))
      else none) := by
  unfold decodeBits; rw [h]; rfl

theorem decodeBits_op52 (w : BitVec 32) (h : (fld w 25 7).toNat = 0x52) : decodeBits w =
      (if fld w 0 3 = 0#3 then some (.stB (fld w 21 4) (fld w 15 6) (fld w 9 6) (fld w 3 6))
      else if fld w 0 3 = 1#3 then some (.stH (fld w 21 4) (fld w 15 6) (fld w 9 6) (fld w 3 6))
      else if fld w 0 3 = 2#3 then some (.stW (fld w 21 4) (fld w 15 6) (fld w 9 6) (fld w 3 6))
      else if fld w 0 3 = 3#3 then some (.stD (fld w 21 4) (fld w 15 6) (fld w 9 6) (fld w 3 6))
      else none) := by
  unfold decodeBits; rw [h]; rfl

theorem decodeBits_op53 (w : BitVec 32) (h : (fld w 25 7).toNat = 0x53) : decodeBits w =
      (if fld w 0 3 = 0#3 then some (.stvB (fld w 21 4) (fld w 15 6) (fld w 9 6) (fld w 3 6))
      else if fld w 0 3 = 1#3 then some (.stvH (fld w 21 4) (fld w 15 6) (fld w 9 6) (fld w 3 6))
      else if fld w 0 3 = 2#3 then some (.stvW (fld w 21 4) (fld w 15 6) (fld w 9 6) (fld w 3 6))
      else if fld w 0 3 = 3#3 then some (.stvD (fld w 21 4) (fld w 15 6) (fld w 9 6) (fld w 3 6))
      else none) := by
  unfold decodeBits; rw [h]; rfl

theorem decodeBits_op54 (w : BitVec 32) (h : (fld w 25 7).toNat = 0x54) : decodeBits w =
      (if fld w 0 3 = 0#3 then some (.vldV (fld w 21 4) (fld w 15 6) (fld w 9 6) (fld w 3 6))
      else if fld w 0 3 = 1#3 then some (.vldBc (fld w 21 4) (fld w 15 6) (fld w 9 6) (fld w 3 6))
      else if fld w 0 3 = 2#3 then some (.vldH (fld w 21 4) (fld w 15 6) (fld w 9 6) (fld w 3 6))
      else none) := by
  unfold decodeBits; rw [h]; rfl

theorem decodeBits_op55 (w : BitVec 32) (h : (fld w 25 7).toNat = 0x55) : decodeBits w =
      (if fld w 0 3 = 0#3 then some (.vldvV (fld w 21 4) (fld w 15 6) (fld w 9 6) (fld w 3 6))
      else if fld w 0 3 = 1#3 then some (.vldvBc (fld w 21 4) (fld w 15 6) (fld w 9 6) (fld w 3 6))
      else if fld w 0 3 = 2#3 then some (.vldvH (fld w 21 4) (fld w 15 6) (fld w 9 6) (fld w 3 6))
      else none) := by
  unfold decodeBits; rw [h]; rfl

theorem decodeBits_op56 (w : BitVec 32) (h : (fld w 25 7).toNat = 0x56) : decodeBits w =
      (if fld w 0 3 = 0#3 then some (.vstV (fld w 21 4) (fld w 15 6) (fld w 9 6) (fld w 3 6))
      else if fld w 0 3 = 1#3 then some (.vstH (fld w 21 4) (fld w 15 6) (fld w 9 6) (fld w 3 6))
      else none) := by
  unfold decodeBits; rw [h]; rfl

theorem decodeBits_op57 (w : BitVec 32) (h : (fld w 25 7).toNat = 0x57) : decodeBits w =
      (if fld w 0 3 = 0#3 then some (.vstvV (fld w 21 4) (fld w 15 6) (fld w 9 6) (fld w 3 6))
      else if fld w 0 3 = 1#3 then some (.vstvH (fld w 21 4) (fld w 15 6) (fld w 9 6) (fld w 3 6))
      else none) := by
  unfold decodeBits; rw [h]; rfl

theorem decodeBits_op58 (w : BitVec 32) (h : (fld w 25 7).toNat = 0x58) : decodeBits w =
      (if fld w 0 9 = 0#9 then some (.bgtMap (fld w 21 4) (fld w 15 6) (fld w 9 6))
      else if fld w 0 15 = 1#15 then some (.bgtUnmap (fld w 21 4) (fld w 15 6))
      else if fld w 0 15 = 2#15 then some (.bgtFlush (fld w 21 4) (fld w 15 6))
      else if fld w 0 3 = 3#3 then some (.bgtTouch (fld w 21 4) (fld w 15 6) (fld w 9 6) (fld w 3 6))
      else if fld w 0 9 = 4#9 then some (.bgtQuery (fld w 21 4) (fld w 15 6) (fld w 9 6))
      else none) := by
  unfold decodeBits; rw [h]; rfl

theorem decodeBits_op59 (w : BitVec 32) (h : (fld w 25 7).toNat = 0x59) : decodeBits w =
      (if fld w 0 7 = 0#7 then some (.cpyG2s (fld w 21 4) (fld w 15 6) (fld w 9 6) (fld w 7 2))
      else if fld w 0 7 = 8#7 then some (.cpyS2g (fld w 21 4) (fld w 15 6) (fld w 9 6) (fld w 7 2))
      else if fld w 0 7 = 16#7 then some (.cpyS2s (fld w 21 4) (fld w 15 6) (fld w 9 6) (fld w 7 2))
      else if fld w 0 7 = 24#7 then some (.cpyG2g (fld w 21 4) (fld w 15 6) (fld w 9 6) (fld w 7 2))
      else if fld w 0 7 = 32#7 then some (.cpyGath (fld w 21 4) (fld w 15 6) (fld w 9 6) (fld w 7 2))
      else if fld w 0 7 = 40#7 then some (.cpyScat (fld w 21 4) (fld w 15 6) (fld w 9 6) (fld w 7 2))
      else if fld w 0 7 = 48#7 then some (.cpyMcast (fld w 21 4) (fld w 15 6) (fld w 9 6) (fld w 7 2))
      else if fld w 0 7 = 56#7 then some (.cpyTr (fld w 21 4) (fld w 15 6) (fld w 9 6) (fld w 7 2))
      else none) := by
  unfold decodeBits; rw [h]; rfl

theorem decodeBits_op5A (w : BitVec 32) (h : (fld w 25 7).toNat = 0x5A) : decodeBits w =
      (if fld w 9 6 = 0#6 ∧ fld w 0 7 = 0#7 then some (.cqPop (fld w 21 4) (fld w 15 6) (fld w 7 2))
      else if fld w 0 7 = 1#7 then some (.cqProg (fld w 21 4) (fld w 15 6) (fld w 9 6) (fld w 7 2))
      else if fld w 9 6 = 0#6 ∧ fld w 0 7 = 2#7 then some (.cqCnt (fld w 21 4) (fld w 15 6) (fld w 7 2))
      else none) := by
  unfold decodeBits; rw [h]; rfl

theorem decodeBits_op5B (w : BitVec 32) (h : (fld w 25 7).toNat = 0x5B) : decodeBits w =
      (if fld w 15 6 = 0#6 ∧ fld w 0 9 = 0#9 then some (.hyStart (fld w 21 4) (fld w 9 6))
      else if fld w 0 21 = 131072#21 then some (.hyStop (fld w 21 4))
      else if fld w 15 6 = 8#6 ∧ fld w 0 9 = 0#9 then some (.hyCred (fld w 21 4) (fld w 9 6))
      else if fld w 15 6 = 12#6 ∧ fld w 0 9 = 0#9 then some (.hyBase (fld w 21 4) (fld w 9 6))
      else if fld w 0 21 = 524288#21 then some (.hyClr (fld w 21 4))
      else if fld w 15 6 = 20#6 ∧ fld w 0 9 = 0#9 then some (.hyPop (fld w 21 4) (fld w 9 6))
      else if fld w 15 6 = 24#6 ∧ fld w 0 9 = 0#9 then some (.hyStat (fld w 21 4) (fld w 9 6))
      else if fld w 15 6 = 28#6 ∧ fld w 0 9 = 0#9 then some (.hyProg (fld w 21 4) (fld w 9 6))
      else if fld w 15 6 = 32#6 ∧ fld w 0 9 = 0#9 then some (.hyRdc (fld w 21 4) (fld w 9 6))
      else if fld w 0 21 = 1179648#21 then some (.hyDrop (fld w 21 4))
      else none) := by
  unfold decodeBits; rw [h]; rfl

theorem decodeBits_op5C (w : BitVec 32) (h : (fld w 25 7).toNat = 0x5C) : decodeBits w =
      (if fld w 0 10 = 0#10 then some (.lsend (fld w 21 4) (fld w 18 3) (fld w 16 2) (fld w 10 6))
      else none) := by
  unfold decodeBits; rw [h]; rfl

theorem decodeBits_op5D (w : BitVec 32) (h : (fld w 25 7).toNat = 0x5D) : decodeBits w =
      (if fld w 0 10 = 0#10 then some (.lrecv (fld w 21 4) (fld w 18 3) (fld w 16 2) (fld w 10 6))
      else none) := by
  unfold decodeBits; rw [h]; rfl

theorem decodeBits_op5E (w : BitVec 32) (h : (fld w 25 7).toNat = 0x5E) : decodeBits w =
      (if fld w 0 3 = 0#3 then some (.amoAddW (fld w 21 4) (fld w 15 6) (fld w 9 6) (fld w 3 6))
      else if fld w 0 3 = 1#3 then some (.amoAndW (fld w 21 4) (fld w 15 6) (fld w 9 6) (fld w 3 6))
      else if fld w 0 3 = 2#3 then some (.amoOrW (fld w 21 4) (fld w 15 6) (fld w 9 6) (fld w 3 6))
      else if fld w 0 3 = 3#3 then some (.amoXorW (fld w 21 4) (fld w 15 6) (fld w 9 6) (fld w 3 6))
      else if fld w 0 3 = 4#3 then some (.amoMinW (fld w 21 4) (fld w 15 6) (fld w 9 6) (fld w 3 6))
      else if fld w 0 3 = 5#3 then some (.amoMaxW (fld w 21 4) (fld w 15 6) (fld w 9 6) (fld w 3 6))
      else if fld w 0 3 = 6#3 then some (.amoMinuW (fld w 21 4) (fld w 15 6) (fld w 9 6) (fld w 3 6))
      else if fld w 0 3 = 7#3 then some (.amoMaxuW (fld w 21 4) (fld w 15 6) (fld w 9 6) (fld w 3 6))
      else none) := by
  unfold decodeBits; rw [h]; rfl

theorem decodeBits_op5F (w : BitVec 32) (h : (fld w 25 7).toNat = 0x5F) : decodeBits w =
      (if fld w 0 3 = 0#3 then some (.amoAddD (fld w 21 4) (fld w 15 6) (fld w 9 6) (fld w 3 6))
      else if fld w 0 3 = 1#3 then some (.amoAndD (fld w 21 4) (fld w 15 6) (fld w 9 6) (fld w 3 6))
      else if fld w 0 3 = 2#3 then some (.amoOrD (fld w 21 4) (fld w 15 6) (fld w 9 6) (fld w 3 6))
      else if fld w 0 3 = 3#3 then some (.amoXorD (fld w 21 4) (fld w 15 6) (fld w 9 6) (fld w 3 6))
      else if fld w 0 3 = 4#3 then some (.amoMinD (fld w 21 4) (fld w 15 6) (fld w 9 6) (fld w 3 6))
      else if fld w 0 3 = 5#3 then some (.amoMaxD (fld w 21 4) (fld w 15 6) (fld w 9 6) (fld w 3 6))
      else if fld w 0 3 = 6#3 then some (.amoMinuD (fld w 21 4) (fld w 15 6) (fld w 9 6) (fld w 3 6))
      else if fld w 0 3 = 7#3 then some (.amoMaxuD (fld w 21 4) (fld w 15 6) (fld w 9 6) (fld w 3 6))
      else none) := by
  unfold decodeBits; rw [h]; rfl

theorem decodeBits_op60 (w : BitVec 32) (h : (fld w 25 7).toNat = 0x60) : decodeBits w =
      (if fld w 0 3 = 0#3 then some (.amoxSwapW (fld w 21 4) (fld w 15 6) (fld w 9 6) (fld w 3 6))
      else if fld w 0 3 = 1#3 then some (.amoxSwapD (fld w 21 4) (fld w 15 6) (fld w 9 6) (fld w 3 6))
      else if fld w 0 3 = 2#3 then some (.amoxCasW (fld w 21 4) (fld w 15 6) (fld w 9 6) (fld w 3 6))
      else if fld w 0 3 = 3#3 then some (.amoxCasD (fld w 21 4) (fld w 15 6) (fld w 9 6) (fld w 3 6))
      else if fld w 0 3 = 4#3 then some (.amoxFaddF32 (fld w 21 4) (fld w 15 6) (fld w 9 6) (fld w 3 6))
      else none) := by
  unfold decodeBits; rw [h]; rfl

theorem decodeBits_op61 (w : BitVec 32) (h : (fld w 25 7).toNat = 0x61) : decodeBits w =
      (if fld w 15 6 = 0#6 ∧ fld w 0 3 = 0#3 then some (.redAddW (fld w 21 4) (fld w 9 6) (fld w 3 6))
      else if fld w 15 6 = 0#6 ∧ fld w 0 3 = 1#3 then some (.redAddD (fld w 21 4) (fld w 9 6) (fld w 3 6))
      else if fld w 15 6 = 0#6 ∧ fld w 0 3 = 2#3 then some (.redMinW (fld w 21 4) (fld w 9 6) (fld w 3 6))
      else if fld w 15 6 = 0#6 ∧ fld w 0 3 = 3#3 then some (.redMaxW (fld w 21 4) (fld w 9 6) (fld w 3 6))
      else if fld w 15 6 = 0#6 ∧ fld w 0 3 = 4#3 then some (.redMinuW (fld w 21 4) (fld w 9 6) (fld w 3 6))
      else if fld w 15 6 = 0#6 ∧ fld w 0 3 = 5#3 then some (.redMaxuW (fld w 21 4) (fld w 9 6) (fld w 3 6))
      else if fld w 15 6 = 0#6 ∧ fld w 0 3 = 6#3 then some (.redFaddF32 (fld w 21 4) (fld w 9 6) (fld w 3 6))
      else if fld w 15 6 = 0#6 ∧ fld w 0 3 = 7#3 then some (.redOrD (fld w 21 4) (fld w 9 6) (fld w 3 6))
      else none) := by
  unfold decodeBits; rw [h]; rfl

theorem decodeBits_op62 (w : BitVec 32) (h : (fld w 25 7).toNat = 0x62) : decodeBits w =
      (if fld w 0 9 = 0#9 then some (.scLdW (fld w 21 4) (fld w 15 6) (fld w 9 6))
      else if fld w 0 9 = 1#9 then some (.scLdD (fld w 21 4) (fld w 15 6) (fld w 9 6))
      else if fld w 15 6 = 0#6 ∧ fld w 0 3 = 2#3 then some (.scStW (fld w 21 4) (fld w 9 6) (fld w 3 6))
      else if fld w 15 6 = 0#6 ∧ fld w 0 3 = 3#3 then some (.scStD (fld w 21 4) (fld w 9 6) (fld w 3 6))
      else if fld w 0 3 = 4#3 then some (.scSwapW (fld w 21 4) (fld w 15 6) (fld w 9 6) (fld w 3 6))
      else if fld w 0 3 = 5#3 then some (.scSwapD (fld w 21 4) (fld w 15 6) (fld w 9 6) (fld w 3 6))
      else if fld w 0 3 = 6#3 then some (.scAddD (fld w 21 4) (fld w 15 6) (fld w 9 6) (fld w 3 6))
      else if fld w 0 3 = 7#3 then some (.scCasD (fld w 21 4) (fld w 15 6) (fld w 9 6) (fld w 3 6))
      else none) := by
  unfold decodeBits; rw [h]; rfl

theorem decodeBits_op63 (w : BitVec 32) (h : (fld w 25 7).toNat = 0x63) : decodeBits w =
      (if fld w 0 21 = 0#21 then some (.drainBraid (fld w 21 4))
      else if fld w 0 21 = 1#21 then some (.drainDie (fld w 21 4))
      else if fld w 0 21 = 2#21 then some (.drainDev (fld w 21 4))
      else if fld w 0 21 = 3#21 then some (.drainSys (fld w 21 4))
      else none) := by
  unfold decodeBits; rw [h]; rfl

theorem decodeBits_op64 (w : BitVec 32) (h : (fld w 25 7).toNat = 0x64) : decodeBits w =
      (if fld w 0 3 = 0#3 then some (.splCall (fld w 21 4) (fld w 15 6) (fld w 9 6) (fld w 3 6))
      else if fld w 0 3 = 1#3 then some (.splCalln (fld w 21 4) (fld w 15 6) (fld w 9 6) (fld w 3 6))
      else if fld w 0 9 = 2#9 then some (.splInst (fld w 21 4) (fld w 15 6) (fld w 9 6))
      else if fld w 0 15 = 3#15 then some (.splRm (fld w 21 4) (fld w 15 6))
      else none) := by
  unfold decodeBits; rw [h]; rfl

theorem decodeBits_op65 (w : BitVec 32) (h : (fld w 25 7).toNat = 0x65) : decodeBits w =
      (if fld w 15 6 = 0#6 ∧ fld w 0 3 = 0#3 then some (.knotAdd (fld w 21 4) (fld w 9 6) (fld w 3 6))
      else if fld w 0 9 = 1#9 then some (.knotRd (fld w 21 4) (fld w 15 6) (fld w 9 6))
      else if fld w 0 3 = 2#3 then some (.knotMax (fld w 21 4) (fld w 15 6) (fld w 9 6) (fld w 3 6))
      else if fld w 0 3 = 3#3 then some (.knotSwap (fld w 21 4) (fld w 15 6) (fld w 9 6) (fld w 3 6))
      else none) := by
  unfold decodeBits; rw [h]; rfl

theorem decodeBits_op66 (w : BitVec 32) (h : (fld w 25 7).toNat = 0x66) : decodeBits w =
      (if fld w 0 7 = 0#7 then some (.nrgQ (fld w 21 4) (fld w 15 6) (fld w 7 8))
      else if fld w 15 6 = 0#6 ∧ fld w 0 3 = 1#3 then some (.nrgVreg (fld w 21 4) (fld w 9 6) (fld w 3 6))
      else if fld w 15 6 = 0#6 ∧ fld w 0 9 = 2#9 then some (.nrgVsw (fld w 21 4) (fld w 9 6))
      else none) := by
  unfold decodeBits; rw [h]; rfl

theorem decodeBits_op67 (w : BitVec 32) (h : (fld w 25 7).toNat = 0x67) : decodeBits w =
      (if fld w 0 21 = 0#21 then some (.cend (fld w 21 4))
      else if fld w 15 6 = 0#6 ∧ fld w 0 3 = 1#3 then some (.trap (fld w 21 4) (fld w 3 12))
      else if fld w 0 21 = 2#21 then some (.rtu (fld w 21 4))
      else if fld w 0 21 = 3#21 then some (.bkpt (fld w 21 4))
      else none) := by
  unfold decodeBits; rw [h]; rfl

theorem decodeBits_op68 (w : BitVec 32) (h : (fld w 25 7).toNat = 0x68) : decodeBits w =
      (if fld w 0 9 = 0#9 then some (.pin (fld w 21 4) (fld w 15 6) (fld w 9 6))
      else if fld w 0 9 = 1#9 then some (.unpin (fld w 21 4) (fld w 15 6) (fld w 9 6))
      else none) := by
  unfold decodeBits; rw [h]; rfl

theorem decodeBits_op69 (w : BitVec 32) (h : (fld w 25 7).toNat = 0x69) : decodeBits w =
      (if fld w 15 6 = 0#6 ∧ fld w 0 9 = 0#9 then some (.dbgMark (fld w 21 4) (fld w 9 6))
      else if fld w 0 21 = 1#21 then some (.dbgBrk (fld w 21 4))
      else none) := by
  unfold decodeBits; rw [h]; rfl

theorem decodeBits_op6A (w : BitVec 32) (h : (fld w 25 7).toNat = 0x6A) : decodeBits w =
      (if fld w 15 6 = 0#6 ∧ fld w 0 9 = 0#9 then some (.barBraid (fld w 21 4) (fld w 9 6))
      else none) := by
  unfold decodeBits; rw [h]; rfl

theorem decodeWord_of {w : BitVec 32} {i : Instr} (h : decodeBits w = some i) (hw : i.wf = true) :
    decodeWord w = some i := by
  unfold decodeWord; rw [h]; exact if_pos hw

end Sys2Proof
end

