-- ==== Sys2Proof/Laws/PerInstr.lean ====
section
/-! SUPPORT. Statements about every instruction, one lemma per constructor: the round trip through the encoder. -/

namespace Sys2Proof

set_option Elab.async false

namespace Laws.RoundTrip

/-- A well-formed instruction decodes from its own words (R168, R235). -/
def Statement (i : Instr) : Prop := i.wf = true → ∀ e, encode i = some e → decodeEncoding e = some i

theorem nop : Statement (.nop) := by
  intro hw en hh
  obtain rfl : Encoding.slot (pack7_25 0#7 0#25) = en := Option.some.inj hh
  have h25 : (fld (pack7_25 0#7 0#25) 25 7).toNat = 0x00 := by simp
  show decodeWord (pack7_25 0#7 0#25) = _
  refine decodeWord_of ?_ hw
  rw [decodeBits_op00 _ h25]
  simp
theorem add : ∀ g d a b, Statement (.add g d a b) := by
  intro g d a b hw en hh
  obtain rfl : Encoding.slot (pack7_4_6_6_6_3 1#7 g d a b 0#3) = en := Option.some.inj hh
  have h25 : (fld (pack7_4_6_6_6_3 1#7 g d a b 0#3) 25 7).toNat = 0x01 := by simp
  show decodeWord (pack7_4_6_6_6_3 1#7 g d a b 0#3) = _
  refine decodeWord_of ?_ hw
  rw [decodeBits_op01 _ h25]
  simp
theorem sub : ∀ g d a b, Statement (.sub g d a b) := by
  intro g d a b hw en hh
  obtain rfl : Encoding.slot (pack7_4_6_6_6_3 1#7 g d a b 1#3) = en := Option.some.inj hh
  have h25 : (fld (pack7_4_6_6_6_3 1#7 g d a b 1#3) 25 7).toNat = 0x01 := by simp
  show decodeWord (pack7_4_6_6_6_3 1#7 g d a b 1#3) = _
  refine decodeWord_of ?_ hw
  rw [decodeBits_op01 _ h25]
  simp
theorem and : ∀ g d a b, Statement (.and g d a b) := by
  intro g d a b hw en hh
  obtain rfl : Encoding.slot (pack7_4_6_6_6_3 1#7 g d a b 2#3) = en := Option.some.inj hh
  have h25 : (fld (pack7_4_6_6_6_3 1#7 g d a b 2#3) 25 7).toNat = 0x01 := by simp
  show decodeWord (pack7_4_6_6_6_3 1#7 g d a b 2#3) = _
  refine decodeWord_of ?_ hw
  rw [decodeBits_op01 _ h25]
  simp
theorem or : ∀ g d a b, Statement (.or g d a b) := by
  intro g d a b hw en hh
  obtain rfl : Encoding.slot (pack7_4_6_6_6_3 1#7 g d a b 3#3) = en := Option.some.inj hh
  have h25 : (fld (pack7_4_6_6_6_3 1#7 g d a b 3#3) 25 7).toNat = 0x01 := by simp
  show decodeWord (pack7_4_6_6_6_3 1#7 g d a b 3#3) = _
  refine decodeWord_of ?_ hw
  rw [decodeBits_op01 _ h25]
  simp
theorem xor : ∀ g d a b, Statement (.xor g d a b) := by
  intro g d a b hw en hh
  obtain rfl : Encoding.slot (pack7_4_6_6_6_3 1#7 g d a b 4#3) = en := Option.some.inj hh
  have h25 : (fld (pack7_4_6_6_6_3 1#7 g d a b 4#3) 25 7).toNat = 0x01 := by simp
  show decodeWord (pack7_4_6_6_6_3 1#7 g d a b 4#3) = _
  refine decodeWord_of ?_ hw
  rw [decodeBits_op01 _ h25]
  simp
theorem andn : ∀ g d a b, Statement (.andn g d a b) := by
  intro g d a b hw en hh
  obtain rfl : Encoding.slot (pack7_4_6_6_6_3 1#7 g d a b 5#3) = en := Option.some.inj hh
  have h25 : (fld (pack7_4_6_6_6_3 1#7 g d a b 5#3) 25 7).toNat = 0x01 := by simp
  show decodeWord (pack7_4_6_6_6_3 1#7 g d a b 5#3) = _
  refine decodeWord_of ?_ hw
  rw [decodeBits_op01 _ h25]
  simp
theorem min : ∀ g d a b, Statement (.min g d a b) := by
  intro g d a b hw en hh
  obtain rfl : Encoding.slot (pack7_4_6_6_6_3 1#7 g d a b 6#3) = en := Option.some.inj hh
  have h25 : (fld (pack7_4_6_6_6_3 1#7 g d a b 6#3) 25 7).toNat = 0x01 := by simp
  show decodeWord (pack7_4_6_6_6_3 1#7 g d a b 6#3) = _
  refine decodeWord_of ?_ hw
  rw [decodeBits_op01 _ h25]
  simp
theorem max : ∀ g d a b, Statement (.max g d a b) := by
  intro g d a b hw en hh
  obtain rfl : Encoding.slot (pack7_4_6_6_6_3 1#7 g d a b 7#3) = en := Option.some.inj hh
  have h25 : (fld (pack7_4_6_6_6_3 1#7 g d a b 7#3) 25 7).toNat = 0x01 := by simp
  show decodeWord (pack7_4_6_6_6_3 1#7 g d a b 7#3) = _
  refine decodeWord_of ?_ hw
  rw [decodeBits_op01 _ h25]
  simp
theorem minu : ∀ g d a b, Statement (.minu g d a b) := by
  intro g d a b hw en hh
  obtain rfl : Encoding.slot (pack7_4_6_6_6_3 2#7 g d a b 0#3) = en := Option.some.inj hh
  have h25 : (fld (pack7_4_6_6_6_3 2#7 g d a b 0#3) 25 7).toNat = 0x02 := by simp
  show decodeWord (pack7_4_6_6_6_3 2#7 g d a b 0#3) = _
  refine decodeWord_of ?_ hw
  rw [decodeBits_op02 _ h25]
  simp
theorem maxu : ∀ g d a b, Statement (.maxu g d a b) := by
  intro g d a b hw en hh
  obtain rfl : Encoding.slot (pack7_4_6_6_6_3 2#7 g d a b 1#3) = en := Option.some.inj hh
  have h25 : (fld (pack7_4_6_6_6_3 2#7 g d a b 1#3) 25 7).toNat = 0x02 := by simp
  show decodeWord (pack7_4_6_6_6_3 2#7 g d a b 1#3) = _
  refine decodeWord_of ?_ hw
  rw [decodeBits_op02 _ h25]
  simp
theorem mul : ∀ g d a b, Statement (.mul g d a b) := by
  intro g d a b hw en hh
  obtain rfl : Encoding.slot (pack7_4_6_6_6_3 2#7 g d a b 2#3) = en := Option.some.inj hh
  have h25 : (fld (pack7_4_6_6_6_3 2#7 g d a b 2#3) 25 7).toNat = 0x02 := by simp
  show decodeWord (pack7_4_6_6_6_3 2#7 g d a b 2#3) = _
  refine decodeWord_of ?_ hw
  rw [decodeBits_op02 _ h25]
  simp
theorem mulh : ∀ g d a b, Statement (.mulh g d a b) := by
  intro g d a b hw en hh
  obtain rfl : Encoding.slot (pack7_4_6_6_6_3 2#7 g d a b 3#3) = en := Option.some.inj hh
  have h25 : (fld (pack7_4_6_6_6_3 2#7 g d a b 3#3) 25 7).toNat = 0x02 := by simp
  show decodeWord (pack7_4_6_6_6_3 2#7 g d a b 3#3) = _
  refine decodeWord_of ?_ hw
  rw [decodeBits_op02 _ h25]
  simp
theorem mulhu : ∀ g d a b, Statement (.mulhu g d a b) := by
  intro g d a b hw en hh
  obtain rfl : Encoding.slot (pack7_4_6_6_6_3 2#7 g d a b 4#3) = en := Option.some.inj hh
  have h25 : (fld (pack7_4_6_6_6_3 2#7 g d a b 4#3) 25 7).toNat = 0x02 := by simp
  show decodeWord (pack7_4_6_6_6_3 2#7 g d a b 4#3) = _
  refine decodeWord_of ?_ hw
  rw [decodeBits_op02 _ h25]
  simp
theorem sll : ∀ g d a b, Statement (.sll g d a b) := by
  intro g d a b hw en hh
  obtain rfl : Encoding.slot (pack7_4_6_6_6_3 2#7 g d a b 5#3) = en := Option.some.inj hh
  have h25 : (fld (pack7_4_6_6_6_3 2#7 g d a b 5#3) 25 7).toNat = 0x02 := by simp
  show decodeWord (pack7_4_6_6_6_3 2#7 g d a b 5#3) = _
  refine decodeWord_of ?_ hw
  rw [decodeBits_op02 _ h25]
  simp
theorem srl : ∀ g d a b, Statement (.srl g d a b) := by
  intro g d a b hw en hh
  obtain rfl : Encoding.slot (pack7_4_6_6_6_3 2#7 g d a b 6#3) = en := Option.some.inj hh
  have h25 : (fld (pack7_4_6_6_6_3 2#7 g d a b 6#3) 25 7).toNat = 0x02 := by simp
  show decodeWord (pack7_4_6_6_6_3 2#7 g d a b 6#3) = _
  refine decodeWord_of ?_ hw
  rw [decodeBits_op02 _ h25]
  simp
theorem sra : ∀ g d a b, Statement (.sra g d a b) := by
  intro g d a b hw en hh
  obtain rfl : Encoding.slot (pack7_4_6_6_6_3 2#7 g d a b 7#3) = en := Option.some.inj hh
  have h25 : (fld (pack7_4_6_6_6_3 2#7 g d a b 7#3) 25 7).toNat = 0x02 := by simp
  show decodeWord (pack7_4_6_6_6_3 2#7 g d a b 7#3) = _
  refine decodeWord_of ?_ hw
  rw [decodeBits_op02 _ h25]
  simp
theorem addi : ∀ g d a i, Statement (.addi g d a i) := by
  intro g d a i hw en hh
  obtain rfl : Encoding.slot (pack7_4_6_6_9 3#7 g d a i) = en := Option.some.inj hh
  have h25 : (fld (pack7_4_6_6_9 3#7 g d a i) 25 7).toNat = 0x03 := by simp
  show decodeWord (pack7_4_6_6_9 3#7 g d a i) = _
  refine decodeWord_of ?_ hw
  rw [decodeBits_op03 _ h25]
  simp
theorem andi : ∀ g d a i, Statement (.andi g d a i) := by
  intro g d a i hw en hh
  obtain rfl : Encoding.slot (pack7_4_6_6_9 4#7 g d a i) = en := Option.some.inj hh
  have h25 : (fld (pack7_4_6_6_9 4#7 g d a i) 25 7).toNat = 0x04 := by simp
  show decodeWord (pack7_4_6_6_9 4#7 g d a i) = _
  refine decodeWord_of ?_ hw
  rw [decodeBits_op04 _ h25]
  simp
theorem ori : ∀ g d a i, Statement (.ori g d a i) := by
  intro g d a i hw en hh
  obtain rfl : Encoding.slot (pack7_4_6_6_9 5#7 g d a i) = en := Option.some.inj hh
  have h25 : (fld (pack7_4_6_6_9 5#7 g d a i) 25 7).toNat = 0x05 := by simp
  show decodeWord (pack7_4_6_6_9 5#7 g d a i) = _
  refine decodeWord_of ?_ hw
  rw [decodeBits_op05 _ h25]
  simp
theorem xori : ∀ g d a i, Statement (.xori g d a i) := by
  intro g d a i hw en hh
  obtain rfl : Encoding.slot (pack7_4_6_6_9 6#7 g d a i) = en := Option.some.inj hh
  have h25 : (fld (pack7_4_6_6_9 6#7 g d a i) 25 7).toNat = 0x06 := by simp
  show decodeWord (pack7_4_6_6_9 6#7 g d a i) = _
  refine decodeWord_of ?_ hw
  rw [decodeBits_op06 _ h25]
  simp
theorem slli : ∀ g d a n, Statement (.slli g d a n) := by
  intro g d a n hw en hh
  obtain rfl : Encoding.slot (pack7_4_6_6_3_6 7#7 g d a 0#3 n) = en := Option.some.inj hh
  have h25 : (fld (pack7_4_6_6_3_6 7#7 g d a 0#3 n) 25 7).toNat = 0x07 := by simp
  show decodeWord (pack7_4_6_6_3_6 7#7 g d a 0#3 n) = _
  refine decodeWord_of ?_ hw
  rw [decodeBits_op07 _ h25]
  simp
theorem srli : ∀ g d a n, Statement (.srli g d a n) := by
  intro g d a n hw en hh
  obtain rfl : Encoding.slot (pack7_4_6_6_3_6 7#7 g d a 2#3 n) = en := Option.some.inj hh
  have h25 : (fld (pack7_4_6_6_3_6 7#7 g d a 2#3 n) 25 7).toNat = 0x07 := by simp
  show decodeWord (pack7_4_6_6_3_6 7#7 g d a 2#3 n) = _
  refine decodeWord_of ?_ hw
  rw [decodeBits_op07 _ h25]
  simp
theorem srai : ∀ g d a n, Statement (.srai g d a n) := by
  intro g d a n hw en hh
  obtain rfl : Encoding.slot (pack7_4_6_6_3_6 7#7 g d a 4#3 n) = en := Option.some.inj hh
  have h25 : (fld (pack7_4_6_6_3_6 7#7 g d a 4#3 n) 25 7).toNat = 0x07 := by simp
  show decodeWord (pack7_4_6_6_3_6 7#7 g d a 4#3 n) = _
  refine decodeWord_of ?_ hw
  rw [decodeBits_op07 _ h25]
  simp
theorem muli : ∀ g d a i, Statement (.muli g d a i) := by
  intro g d a i hw en hh
  obtain rfl : Encoding.slot (pack7_4_6_6_9 8#7 g d a i) = en := Option.some.inj hh
  have h25 : (fld (pack7_4_6_6_9 8#7 g d a i) 25 7).toNat = 0x08 := by simp
  show decodeWord (pack7_4_6_6_9 8#7 g d a i) = _
  refine decodeWord_of ?_ hw
  rw [decodeBits_op08 _ h25]
  simp
theorem sel : ∀ g d a b p, Statement (.sel g d a b p) := by
  intro g d a b p hw en hh
  obtain rfl : Encoding.slot (pack7_4_6_6_6_3 9#7 g d a b p) = en := Option.some.inj hh
  have h25 : (fld (pack7_4_6_6_6_3 9#7 g d a b p) 25 7).toNat = 0x09 := by simp
  show decodeWord (pack7_4_6_6_6_3 9#7 g d a b p) = _
  refine decodeWord_of ?_ hw
  rw [decodeBits_op09 _ h25]
  simp
theorem cmpEq : ∀ g p a b, Statement (.cmpEq g p a b) := by
  intro g p a b hw en hh
  obtain rfl : Encoding.slot (pack7_4_7_6_6_2 10#7 g p a b 0#2) = en := Option.some.inj hh
  have h25 : (fld (pack7_4_7_6_6_2 10#7 g p a b 0#2) 25 7).toNat = 0x0A := by simp
  show decodeWord (pack7_4_7_6_6_2 10#7 g p a b 0#2) = _
  refine decodeWord_of ?_ hw
  rw [decodeBits_op0A _ h25]
  simp
theorem cmpNe : ∀ g p a b, Statement (.cmpNe g p a b) := by
  intro g p a b hw en hh
  obtain rfl : Encoding.slot (pack7_4_7_6_6_2 10#7 g p a b 1#2) = en := Option.some.inj hh
  have h25 : (fld (pack7_4_7_6_6_2 10#7 g p a b 1#2) 25 7).toNat = 0x0A := by simp
  show decodeWord (pack7_4_7_6_6_2 10#7 g p a b 1#2) = _
  refine decodeWord_of ?_ hw
  rw [decodeBits_op0A _ h25]
  simp
theorem cmpLt : ∀ g p a b, Statement (.cmpLt g p a b) := by
  intro g p a b hw en hh
  obtain rfl : Encoding.slot (pack7_4_7_6_6_2 10#7 g p a b 2#2) = en := Option.some.inj hh
  have h25 : (fld (pack7_4_7_6_6_2 10#7 g p a b 2#2) 25 7).toNat = 0x0A := by simp
  show decodeWord (pack7_4_7_6_6_2 10#7 g p a b 2#2) = _
  refine decodeWord_of ?_ hw
  rw [decodeBits_op0A _ h25]
  simp
theorem cmpLe : ∀ g p a b, Statement (.cmpLe g p a b) := by
  intro g p a b hw en hh
  obtain rfl : Encoding.slot (pack7_4_7_6_6_2 10#7 g p a b 3#2) = en := Option.some.inj hh
  have h25 : (fld (pack7_4_7_6_6_2 10#7 g p a b 3#2) 25 7).toNat = 0x0A := by simp
  show decodeWord (pack7_4_7_6_6_2 10#7 g p a b 3#2) = _
  refine decodeWord_of ?_ hw
  rw [decodeBits_op0A _ h25]
  simp
theorem cmpLtu : ∀ g p a b, Statement (.cmpLtu g p a b) := by
  intro g p a b hw en hh
  obtain rfl : Encoding.slot (pack7_4_7_6_6_2 11#7 g p a b 0#2) = en := Option.some.inj hh
  have h25 : (fld (pack7_4_7_6_6_2 11#7 g p a b 0#2) 25 7).toNat = 0x0B := by simp
  show decodeWord (pack7_4_7_6_6_2 11#7 g p a b 0#2) = _
  refine decodeWord_of ?_ hw
  rw [decodeBits_op0B _ h25]
  simp
theorem cmpLeu : ∀ g p a b, Statement (.cmpLeu g p a b) := by
  intro g p a b hw en hh
  obtain rfl : Encoding.slot (pack7_4_7_6_6_2 11#7 g p a b 1#2) = en := Option.some.inj hh
  have h25 : (fld (pack7_4_7_6_6_2 11#7 g p a b 1#2) 25 7).toNat = 0x0B := by simp
  show decodeWord (pack7_4_7_6_6_2 11#7 g p a b 1#2) = _
  refine decodeWord_of ?_ hw
  rw [decodeBits_op0B _ h25]
  simp
theorem cmpTst : ∀ g p a b, Statement (.cmpTst g p a b) := by
  intro g p a b hw en hh
  obtain rfl : Encoding.slot (pack7_4_7_6_6_2 11#7 g p a b 2#2) = en := Option.some.inj hh
  have h25 : (fld (pack7_4_7_6_6_2 11#7 g p a b 2#2) 25 7).toNat = 0x0B := by simp
  show decodeWord (pack7_4_7_6_6_2 11#7 g p a b 2#2) = _
  refine decodeWord_of ?_ hw
  rw [decodeBits_op0B _ h25]
  simp
theorem cmpNtst : ∀ g p a b, Statement (.cmpNtst g p a b) := by
  intro g p a b hw en hh
  obtain rfl : Encoding.slot (pack7_4_7_6_6_2 11#7 g p a b 3#2) = en := Option.some.inj hh
  have h25 : (fld (pack7_4_7_6_6_2 11#7 g p a b 3#2) 25 7).toNat = 0x0B := by simp
  show decodeWord (pack7_4_7_6_6_2 11#7 g p a b 3#2) = _
  refine decodeWord_of ?_ hw
  rw [decodeBits_op0B _ h25]
  simp
theorem cmpiEq : ∀ g p a i, Statement (.cmpiEq g p a i) := by
  intro g p a i hw en hh
  obtain rfl : Encoding.slot (pack7_4_7_6_6_2 12#7 g p a i 0#2) = en := Option.some.inj hh
  have h25 : (fld (pack7_4_7_6_6_2 12#7 g p a i 0#2) 25 7).toNat = 0x0C := by simp
  show decodeWord (pack7_4_7_6_6_2 12#7 g p a i 0#2) = _
  refine decodeWord_of ?_ hw
  rw [decodeBits_op0C _ h25]
  simp
theorem cmpiNe : ∀ g p a i, Statement (.cmpiNe g p a i) := by
  intro g p a i hw en hh
  obtain rfl : Encoding.slot (pack7_4_7_6_6_2 12#7 g p a i 1#2) = en := Option.some.inj hh
  have h25 : (fld (pack7_4_7_6_6_2 12#7 g p a i 1#2) 25 7).toNat = 0x0C := by simp
  show decodeWord (pack7_4_7_6_6_2 12#7 g p a i 1#2) = _
  refine decodeWord_of ?_ hw
  rw [decodeBits_op0C _ h25]
  simp
theorem cmpiLt : ∀ g p a i, Statement (.cmpiLt g p a i) := by
  intro g p a i hw en hh
  obtain rfl : Encoding.slot (pack7_4_7_6_6_2 12#7 g p a i 2#2) = en := Option.some.inj hh
  have h25 : (fld (pack7_4_7_6_6_2 12#7 g p a i 2#2) 25 7).toNat = 0x0C := by simp
  show decodeWord (pack7_4_7_6_6_2 12#7 g p a i 2#2) = _
  refine decodeWord_of ?_ hw
  rw [decodeBits_op0C _ h25]
  simp
theorem cmpiLe : ∀ g p a i, Statement (.cmpiLe g p a i) := by
  intro g p a i hw en hh
  obtain rfl : Encoding.slot (pack7_4_7_6_6_2 12#7 g p a i 3#2) = en := Option.some.inj hh
  have h25 : (fld (pack7_4_7_6_6_2 12#7 g p a i 3#2) 25 7).toNat = 0x0C := by simp
  show decodeWord (pack7_4_7_6_6_2 12#7 g p a i 3#2) = _
  refine decodeWord_of ?_ hw
  rw [decodeBits_op0C _ h25]
  simp
theorem pand : ∀ g d a b, Statement (.pand g d a b) := by
  intro g d a b hw en hh
  obtain rfl : Encoding.slot (pack7_4_7_7_7 13#7 g d a b) = en := Option.some.inj hh
  have h25 : (fld (pack7_4_7_7_7 13#7 g d a b) 25 7).toNat = 0x0D := by simp
  show decodeWord (pack7_4_7_7_7 13#7 g d a b) = _
  refine decodeWord_of ?_ hw
  rw [decodeBits_op0D _ h25]
  simp
theorem por : ∀ g d a b, Statement (.por g d a b) := by
  intro g d a b hw en hh
  obtain rfl : Encoding.slot (pack7_4_7_7_7 14#7 g d a b) = en := Option.some.inj hh
  have h25 : (fld (pack7_4_7_7_7 14#7 g d a b) 25 7).toNat = 0x0E := by simp
  show decodeWord (pack7_4_7_7_7 14#7 g d a b) = _
  refine decodeWord_of ?_ hw
  rw [decodeBits_op0E _ h25]
  simp
theorem pxor : ∀ g d a b, Statement (.pxor g d a b) := by
  intro g d a b hw en hh
  obtain rfl : Encoding.slot (pack7_4_7_7_7 15#7 g d a b) = en := Option.some.inj hh
  have h25 : (fld (pack7_4_7_7_7 15#7 g d a b) 25 7).toNat = 0x0F := by simp
  show decodeWord (pack7_4_7_7_7 15#7 g d a b) = _
  refine decodeWord_of ?_ hw
  rw [decodeBits_op0F _ h25]
  simp
theorem pandn : ∀ g d a b, Statement (.pandn g d a b) := by
  intro g d a b hw en hh
  obtain rfl : Encoding.slot (pack7_4_7_7_7 16#7 g d a b) = en := Option.some.inj hh
  have h25 : (fld (pack7_4_7_7_7 16#7 g d a b) 25 7).toNat = 0x10 := by simp
  show decodeWord (pack7_4_7_7_7 16#7 g d a b) = _
  refine decodeWord_of ?_ hw
  rw [decodeBits_op10 _ h25]
  simp
theorem pset : ∀ g p a, Statement (.pset g p a) := by
  intro g p a hw en hh
  obtain rfl : Encoding.slot (pack7_4_7_6_8 17#7 g p a 0#8) = en := Option.some.inj hh
  have h25 : (fld (pack7_4_7_6_8 17#7 g p a 0#8) 25 7).toNat = 0x11 := by simp
  show decodeWord (pack7_4_7_6_8 17#7 g p a 0#8) = _
  refine decodeWord_of ?_ hw
  rw [decodeBits_op11 _ h25]
  simp
theorem pget : ∀ g p a, Statement (.pget g p a) := by
  intro g p a hw en hh
  obtain rfl : Encoding.slot (pack7_4_7_6_8 17#7 g p a 1#8) = en := Option.some.inj hh
  have h25 : (fld (pack7_4_7_6_8 17#7 g p a 1#8) 25 7).toNat = 0x11 := by simp
  show decodeWord (pack7_4_7_6_8 17#7 g p a 1#8) = _
  refine decodeWord_of ?_ hw
  rw [decodeBits_op11 _ h25]
  simp
theorem pcnt : ∀ g p a, Statement (.pcnt g p a) := by
  intro g p a hw en hh
  obtain rfl : Encoding.slot (pack7_4_7_6_8 17#7 g p a 2#8) = en := Option.some.inj hh
  have h25 : (fld (pack7_4_7_6_8 17#7 g p a 2#8) 25 7).toNat = 0x11 := by simp
  show decodeWord (pack7_4_7_6_8 17#7 g p a 2#8) = _
  refine decodeWord_of ?_ hw
  rw [decodeBits_op11 _ h25]
  simp
theorem pfirst : ∀ g p a, Statement (.pfirst g p a) := by
  intro g p a hw en hh
  obtain rfl : Encoding.slot (pack7_4_7_6_8 17#7 g p a 3#8) = en := Option.some.inj hh
  have h25 : (fld (pack7_4_7_6_8 17#7 g p a 3#8) 25 7).toNat = 0x11 := by simp
  show decodeWord (pack7_4_7_6_8 17#7 g p a 3#8) = _
  refine decodeWord_of ?_ hw
  rw [decodeBits_op11 _ h25]
  simp
theorem setb : ∀ g b t, Statement (.setb g b t) := by
  intro g b t hw en hh
  obtain rfl : Encoding.slot (pack7_4_3_5_13 18#7 g b 0#5 t) = en := Option.some.inj hh
  have h25 : (fld (pack7_4_3_5_13 18#7 g b 0#5 t) 25 7).toNat = 0x12 := by simp
  show decodeWord (pack7_4_3_5_13 18#7 g b 0#5 t) = _
  refine decodeWord_of ?_ hw
  rw [decodeBits_op12 _ h25]
  simp
theorem setbReg : ∀ g b s, Statement (.setbReg g b s) := by
  intro g b s hw en hh
  obtain rfl : Encoding.slot (pack7_4_3_12_6 18#7 g b 128#12 s) = en := Option.some.inj hh
  have h25 : (fld (pack7_4_3_12_6 18#7 g b 128#12 s) 25 7).toNat = 0x12 := by simp
  have f0 : ¬ fld (pack7_4_3_12_6 18#7 g b 128#12 s) 13 5 = 0#5 := by
    intro h; have h := congrArg BitVec.toNat h; simp only [fld, pack7_4_3_12_6, BitVec.toNat_ofNat] at h; have := g.isLt; have := b.isLt; have := s.isLt; omega
  show decodeWord (pack7_4_3_12_6 18#7 g b 128#12 s) = _
  refine decodeWord_of ?_ hw
  rw [decodeBits_op12 _ h25]
  simp [f0]
theorem call : ∀ g b f l, Statement (.call g b f l) := by
  intro g b f l hw en hh
  obtain rfl : Encoding.slot (pack7_4_3_5_7_6 19#7 g b 0#5 f l) = en := Option.some.inj hh
  have h25 : (fld (pack7_4_3_5_7_6 19#7 g b 0#5 f l) 25 7).toNat = 0x13 := by simp
  show decodeWord (pack7_4_3_5_7_6 19#7 g b 0#5 f l) = _
  refine decodeWord_of ?_ hw
  rw [decodeBits_op13 _ h25]
  simp
theorem ret : ∀ g f l, Statement (.ret g f l) := by
  intro g f l hw en hh
  obtain rfl : Encoding.slot (pack7_4_8_7_6 19#7 g 1#8 f l) = en := Option.some.inj hh
  have h25 : (fld (pack7_4_8_7_6 19#7 g 1#8 f l) 25 7).toNat = 0x13 := by simp
  have f0 : ¬ fld (pack7_4_8_7_6 19#7 g 1#8 f l) 13 5 = 0#5 := by
    intro h; have h := congrArg BitVec.toNat h; simp only [fld, pack7_4_8_7_6, BitVec.toNat_ofNat] at h; have := g.isLt; have := f.isLt; have := l.isLt; omega
  show decodeWord (pack7_4_8_7_6 19#7 g 1#8 f l) = _
  refine decodeWord_of ?_ hw
  rw [decodeBits_op13 _ h25]
  simp [f0]
theorem lp0 : ∀ g b, Statement (.lp0 g b) := by
  intro g b hw en hh
  obtain rfl : Encoding.slot (pack7_4_3_18 19#7 g b 16384#18) = en := Option.some.inj hh
  have h25 : (fld (pack7_4_3_18 19#7 g b 16384#18) 25 7).toNat = 0x13 := by simp
  have f0 : ¬ fld (pack7_4_3_18 19#7 g b 16384#18) 13 5 = 0#5 := by
    intro h; have h := congrArg BitVec.toNat h; simp only [fld, pack7_4_3_18, BitVec.toNat_ofNat] at h; have := g.isLt; have := b.isLt; omega
  have f1 : ¬ fld (pack7_4_3_18 19#7 g b 16384#18) 13 8 = 1#8 := by
    intro h; have h := congrArg BitVec.toNat h; simp only [fld, pack7_4_3_18, BitVec.toNat_ofNat] at h; have := g.isLt; have := b.isLt; omega
  show decodeWord (pack7_4_3_18 19#7 g b 16384#18) = _
  refine decodeWord_of ?_ hw
  rw [decodeBits_op13 _ h25]
  simp [f0, f1]
theorem lp1 : ∀ g b, Statement (.lp1 g b) := by
  intro g b hw en hh
  obtain rfl : Encoding.slot (pack7_4_3_18 19#7 g b 24576#18) = en := Option.some.inj hh
  have h25 : (fld (pack7_4_3_18 19#7 g b 24576#18) 25 7).toNat = 0x13 := by simp
  have f0 : ¬ fld (pack7_4_3_18 19#7 g b 24576#18) 13 5 = 0#5 := by
    intro h; have h := congrArg BitVec.toNat h; simp only [fld, pack7_4_3_18, BitVec.toNat_ofNat] at h; have := g.isLt; have := b.isLt; omega
  have f1 : ¬ fld (pack7_4_3_18 19#7 g b 24576#18) 13 8 = 1#8 := by
    intro h; have h := congrArg BitVec.toNat h; simp only [fld, pack7_4_3_18, BitVec.toNat_ofNat] at h; have := g.isLt; have := b.isLt; omega
  show decodeWord (pack7_4_3_18 19#7 g b 24576#18) = _
  refine decodeWord_of ?_ hw
  rw [decodeBits_op13 _ h25]
  simp [f0, f1]
theorem lpe : ∀ g b, Statement (.lpe g b) := by
  intro g b hw en hh
  obtain rfl : Encoding.slot (pack7_4_3_18 19#7 g b 32768#18) = en := Option.some.inj hh
  have h25 : (fld (pack7_4_3_18 19#7 g b 32768#18) 25 7).toNat = 0x13 := by simp
  have f0 : ¬ fld (pack7_4_3_18 19#7 g b 32768#18) 13 5 = 0#5 := by
    intro h; have h := congrArg BitVec.toNat h; simp only [fld, pack7_4_3_18, BitVec.toNat_ofNat] at h; have := g.isLt; have := b.isLt; omega
  have f1 : ¬ fld (pack7_4_3_18 19#7 g b 32768#18) 13 8 = 1#8 := by
    intro h; have h := congrArg BitVec.toNat h; simp only [fld, pack7_4_3_18, BitVec.toNat_ofNat] at h; have := g.isLt; have := b.isLt; omega
  show decodeWord (pack7_4_3_18 19#7 g b 32768#18) = _
  refine decodeWord_of ?_ hw
  rw [decodeBits_op13 _ h25]
  simp [f0, f1]
theorem lset : ∀ g c i, Statement (.lset g c i) := by
  intro g c i hw en hh
  obtain rfl : Encoding.slot (pack7_4_2_1_18 20#7 g c 0#1 i) = en := Option.some.inj hh
  have h25 : (fld (pack7_4_2_1_18 20#7 g c 0#1 i) 25 7).toNat = 0x14 := by simp
  show decodeWord (pack7_4_2_1_18 20#7 g c 0#1 i) = _
  refine decodeWord_of ?_ hw
  rw [decodeBits_op14 _ h25]
  simp
theorem lsetReg : ∀ g c s, Statement (.lsetReg g c s) := by
  intro g c s hw en hh
  obtain rfl : Encoding.slot (pack7_4_2_13_6 20#7 g c 4096#13 s) = en := Option.some.inj hh
  have h25 : (fld (pack7_4_2_13_6 20#7 g c 4096#13 s) 25 7).toNat = 0x14 := by simp
  have f0 : ¬ fld (pack7_4_2_13_6 20#7 g c 4096#13 s) 18 1 = 0#1 := by
    intro h; have h := congrArg BitVec.toNat h; simp only [fld, pack7_4_2_13_6, BitVec.toNat_ofNat] at h; have := g.isLt; have := c.isLt; have := s.isLt; omega
  show decodeWord (pack7_4_2_13_6 20#7 g c 4096#13 s) = _
  refine decodeWord_of ?_ hw
  rw [decodeBits_op14 _ h25]
  simp [f0]
theorem rotStep : ∀ g, Statement (.rotStep g) := by
  intro g hw en hh
  obtain rfl : Encoding.slot (pack7_4_21 21#7 g 0#21) = en := Option.some.inj hh
  have h25 : (fld (pack7_4_21 21#7 g 0#21) 25 7).toNat = 0x15 := by simp
  show decodeWord (pack7_4_21 21#7 g 0#21) = _
  refine decodeWord_of ?_ hw
  rw [decodeBits_op15 _ h25]
  simp
theorem rotSetv : ∀ g i, Statement (.rotSetv g i) := by
  intro g i hw en hh
  obtain rfl : Encoding.slot (pack7_4_3_18 21#7 g 2#3 i) = en := Option.some.inj hh
  have h25 : (fld (pack7_4_3_18 21#7 g 2#3 i) 25 7).toNat = 0x15 := by simp
  have f0 : ¬ fld (pack7_4_3_18 21#7 g 2#3 i) 0 21 = 0#21 := by
    intro h; have h := congrArg BitVec.toNat h; simp only [fld, pack7_4_3_18, BitVec.toNat_ofNat] at h; have := g.isLt; have := i.isLt; omega
  show decodeWord (pack7_4_3_18 21#7 g 2#3 i) = _
  refine decodeWord_of ?_ hw
  rw [decodeBits_op15 _ h25]
  simp [f0]
theorem rotSetvReg : ∀ g s, Statement (.rotSetvReg g s) := by
  intro g s hw en hh
  obtain rfl : Encoding.slot (pack7_4_15_6 21#7 g 12288#15 s) = en := Option.some.inj hh
  have h25 : (fld (pack7_4_15_6 21#7 g 12288#15 s) 25 7).toNat = 0x15 := by simp
  have f0 : ¬ fld (pack7_4_15_6 21#7 g 12288#15 s) 0 21 = 0#21 := by
    intro h; have h := congrArg BitVec.toNat h; simp only [fld, pack7_4_15_6, BitVec.toNat_ofNat] at h; have := g.isLt; have := s.isLt; omega
  have f1 : ¬ fld (pack7_4_15_6 21#7 g 12288#15 s) 18 3 = 2#3 := by
    intro h; have h := congrArg BitVec.toNat h; simp only [fld, pack7_4_15_6, BitVec.toNat_ofNat] at h; have := g.isLt; have := s.isLt; omega
  show decodeWord (pack7_4_15_6 21#7 g 12288#15 s) = _
  refine decodeWord_of ?_ hw
  rw [decodeBits_op15 _ h25]
  simp [f0, f1]
theorem rotSetp : ∀ g i, Statement (.rotSetp g i) := by
  intro g i hw en hh
  obtain rfl : Encoding.slot (pack7_4_3_18 21#7 g 4#3 i) = en := Option.some.inj hh
  have h25 : (fld (pack7_4_3_18 21#7 g 4#3 i) 25 7).toNat = 0x15 := by simp
  have f0 : ¬ fld (pack7_4_3_18 21#7 g 4#3 i) 0 21 = 0#21 := by
    intro h; have h := congrArg BitVec.toNat h; simp only [fld, pack7_4_3_18, BitVec.toNat_ofNat] at h; have := g.isLt; have := i.isLt; omega
  have f1 : ¬ fld (pack7_4_3_18 21#7 g 4#3 i) 6 15 = 12288#15 := by
    intro h; have h := congrArg BitVec.toNat h; simp only [fld, pack7_4_3_18, BitVec.toNat_ofNat] at h; have := g.isLt; have := i.isLt; omega
  show decodeWord (pack7_4_3_18 21#7 g 4#3 i) = _
  refine decodeWord_of ?_ hw
  rw [decodeBits_op15 _ h25]
  simp [f0, f1]
theorem rotSetpReg : ∀ g s, Statement (.rotSetpReg g s) := by
  intro g s hw en hh
  obtain rfl : Encoding.slot (pack7_4_15_6 21#7 g 20480#15 s) = en := Option.some.inj hh
  have h25 : (fld (pack7_4_15_6 21#7 g 20480#15 s) 25 7).toNat = 0x15 := by simp
  have f0 : ¬ fld (pack7_4_15_6 21#7 g 20480#15 s) 0 21 = 0#21 := by
    intro h; have h := congrArg BitVec.toNat h; simp only [fld, pack7_4_15_6, BitVec.toNat_ofNat] at h; have := g.isLt; have := s.isLt; omega
  have f1 : ¬ fld (pack7_4_15_6 21#7 g 20480#15 s) 18 3 = 2#3 := by
    intro h; have h := congrArg BitVec.toNat h; simp only [fld, pack7_4_15_6, BitVec.toNat_ofNat] at h; have := g.isLt; have := s.isLt; omega
  have f2 : ¬ fld (pack7_4_15_6 21#7 g 20480#15 s) 18 3 = 4#3 := by
    intro h; have h := congrArg BitVec.toNat h; simp only [fld, pack7_4_15_6, BitVec.toNat_ofNat] at h; have := g.isLt; have := s.isLt; omega
  show decodeWord (pack7_4_15_6 21#7 g 20480#15 s) = _
  refine decodeWord_of ?_ hw
  rw [decodeBits_op15 _ h25]
  simp [f0, f1, f2]
theorem mfs : ∀ g d r, Statement (.mfs g d r) := by
  intro g d r hw en hh
  obtain rfl : Encoding.slot (pack7_4_6_8_7 22#7 g d r 0#7) = en := Option.some.inj hh
  have h25 : (fld (pack7_4_6_8_7 22#7 g d r 0#7) 25 7).toNat = 0x16 := by simp
  show decodeWord (pack7_4_6_8_7 22#7 g d r 0#7) = _
  refine decodeWord_of ?_ hw
  rw [decodeBits_op16 _ h25]
  simp
theorem mts : ∀ g d r, Statement (.mts g d r) := by
  intro g d r hw en hh
  obtain rfl : Encoding.slot (pack7_4_6_8_7 23#7 g d r 0#7) = en := Option.some.inj hh
  have h25 : (fld (pack7_4_6_8_7 23#7 g d r 0#7) 25 7).toNat = 0x17 := by simp
  show decodeWord (pack7_4_6_8_7 23#7 g d r 0#7) = _
  refine decodeWord_of ?_ hw
  rw [decodeBits_op17 _ h25]
  simp
theorem adds : ∀ g d a b k, Statement (.adds g d a b k) := by
  intro g d a b k hw en hh
  obtain rfl : Encoding.slot (pack7_4_6_6_6_3 24#7 g d a b k) = en := Option.some.inj hh
  have h25 : (fld (pack7_4_6_6_6_3 24#7 g d a b k) 25 7).toNat = 0x18 := by simp
  show decodeWord (pack7_4_6_6_6_3 24#7 g d a b k) = _
  refine decodeWord_of ?_ hw
  rw [decodeBits_op18 _ h25]
  simp
theorem clz : ∀ g d a, Statement (.clz g d a) := by
  intro g d a hw en hh
  obtain rfl : Encoding.slot (pack7_4_6_6_9 25#7 g d a 0#9) = en := Option.some.inj hh
  have h25 : (fld (pack7_4_6_6_9 25#7 g d a 0#9) 25 7).toNat = 0x19 := by simp
  show decodeWord (pack7_4_6_6_9 25#7 g d a 0#9) = _
  refine decodeWord_of ?_ hw
  rw [decodeBits_op19 _ h25]
  simp
theorem ctz : ∀ g d a, Statement (.ctz g d a) := by
  intro g d a hw en hh
  obtain rfl : Encoding.slot (pack7_4_6_6_9 25#7 g d a 1#9) = en := Option.some.inj hh
  have h25 : (fld (pack7_4_6_6_9 25#7 g d a 1#9) 25 7).toNat = 0x19 := by simp
  show decodeWord (pack7_4_6_6_9 25#7 g d a 1#9) = _
  refine decodeWord_of ?_ hw
  rw [decodeBits_op19 _ h25]
  simp
theorem popc : ∀ g d a, Statement (.popc g d a) := by
  intro g d a hw en hh
  obtain rfl : Encoding.slot (pack7_4_6_6_9 25#7 g d a 2#9) = en := Option.some.inj hh
  have h25 : (fld (pack7_4_6_6_9 25#7 g d a 2#9) 25 7).toNat = 0x19 := by simp
  show decodeWord (pack7_4_6_6_9 25#7 g d a 2#9) = _
  refine decodeWord_of ?_ hw
  rw [decodeBits_op19 _ h25]
  simp
theorem rev8 : ∀ g d a, Statement (.rev8 g d a) := by
  intro g d a hw en hh
  obtain rfl : Encoding.slot (pack7_4_6_6_9 25#7 g d a 3#9) = en := Option.some.inj hh
  have h25 : (fld (pack7_4_6_6_9 25#7 g d a 3#9) 25 7).toNat = 0x19 := by simp
  show decodeWord (pack7_4_6_6_9 25#7 g d a 3#9) = _
  refine decodeWord_of ?_ hw
  rw [decodeBits_op19 _ h25]
  simp
theorem sextB : ∀ g d a, Statement (.sextB g d a) := by
  intro g d a hw en hh
  obtain rfl : Encoding.slot (pack7_4_6_6_9 26#7 g d a 0#9) = en := Option.some.inj hh
  have h25 : (fld (pack7_4_6_6_9 26#7 g d a 0#9) 25 7).toNat = 0x1A := by simp
  show decodeWord (pack7_4_6_6_9 26#7 g d a 0#9) = _
  refine decodeWord_of ?_ hw
  rw [decodeBits_op1A _ h25]
  simp
theorem sextH : ∀ g d a, Statement (.sextH g d a) := by
  intro g d a hw en hh
  obtain rfl : Encoding.slot (pack7_4_6_6_9 26#7 g d a 1#9) = en := Option.some.inj hh
  have h25 : (fld (pack7_4_6_6_9 26#7 g d a 1#9) 25 7).toNat = 0x1A := by simp
  show decodeWord (pack7_4_6_6_9 26#7 g d a 1#9) = _
  refine decodeWord_of ?_ hw
  rw [decodeBits_op1A _ h25]
  simp
theorem sextW : ∀ g d a, Statement (.sextW g d a) := by
  intro g d a hw en hh
  obtain rfl : Encoding.slot (pack7_4_6_6_9 26#7 g d a 2#9) = en := Option.some.inj hh
  have h25 : (fld (pack7_4_6_6_9 26#7 g d a 2#9) 25 7).toNat = 0x1A := by simp
  show decodeWord (pack7_4_6_6_9 26#7 g d a 2#9) = _
  refine decodeWord_of ?_ hw
  rw [decodeBits_op1A _ h25]
  simp
theorem zextB : ∀ g d a, Statement (.zextB g d a) := by
  intro g d a hw en hh
  obtain rfl : Encoding.slot (pack7_4_6_6_9 26#7 g d a 3#9) = en := Option.some.inj hh
  have h25 : (fld (pack7_4_6_6_9 26#7 g d a 3#9) 25 7).toNat = 0x1A := by simp
  show decodeWord (pack7_4_6_6_9 26#7 g d a 3#9) = _
  refine decodeWord_of ?_ hw
  rw [decodeBits_op1A _ h25]
  simp
theorem zextH : ∀ g d a, Statement (.zextH g d a) := by
  intro g d a hw en hh
  obtain rfl : Encoding.slot (pack7_4_6_6_9 26#7 g d a 4#9) = en := Option.some.inj hh
  have h25 : (fld (pack7_4_6_6_9 26#7 g d a 4#9) 25 7).toNat = 0x1A := by simp
  show decodeWord (pack7_4_6_6_9 26#7 g d a 4#9) = _
  refine decodeWord_of ?_ hw
  rw [decodeBits_op1A _ h25]
  simp
theorem zextW : ∀ g d a, Statement (.zextW g d a) := by
  intro g d a hw en hh
  obtain rfl : Encoding.slot (pack7_4_6_6_9 26#7 g d a 5#9) = en := Option.some.inj hh
  have h25 : (fld (pack7_4_6_6_9 26#7 g d a 5#9) 25 7).toNat = 0x1A := by simp
  show decodeWord (pack7_4_6_6_9 26#7 g d a 5#9) = _
  refine decodeWord_of ?_ hw
  rw [decodeBits_op1A _ h25]
  simp
theorem movi : ∀ g d i, Statement (.movi g d i) := by
  intro g d i hw en hh
  obtain rfl : Encoding.slot (pack7_4_6_15 27#7 g d i) = en := Option.some.inj hh
  have h25 : (fld (pack7_4_6_15 27#7 g d i) 25 7).toNat = 0x1B := by simp
  show decodeWord (pack7_4_6_15 27#7 g d i) = _
  refine decodeWord_of ?_ hw
  rw [decodeBits_op1B _ h25]
  simp
theorem div : ∀ g d a b, Statement (.div g d a b) := by
  intro g d a b hw en hh
  obtain rfl : Encoding.slot (pack7_4_6_6_6_3 28#7 g d a b 0#3) = en := Option.some.inj hh
  have h25 : (fld (pack7_4_6_6_6_3 28#7 g d a b 0#3) 25 7).toNat = 0x1C := by simp
  show decodeWord (pack7_4_6_6_6_3 28#7 g d a b 0#3) = _
  refine decodeWord_of ?_ hw
  rw [decodeBits_op1C _ h25]
  simp
theorem divu : ∀ g d a b, Statement (.divu g d a b) := by
  intro g d a b hw en hh
  obtain rfl : Encoding.slot (pack7_4_6_6_6_3 28#7 g d a b 1#3) = en := Option.some.inj hh
  have h25 : (fld (pack7_4_6_6_6_3 28#7 g d a b 1#3) 25 7).toNat = 0x1C := by simp
  show decodeWord (pack7_4_6_6_6_3 28#7 g d a b 1#3) = _
  refine decodeWord_of ?_ hw
  rw [decodeBits_op1C _ h25]
  simp
theorem rem : ∀ g d a b, Statement (.rem g d a b) := by
  intro g d a b hw en hh
  obtain rfl : Encoding.slot (pack7_4_6_6_6_3 28#7 g d a b 2#3) = en := Option.some.inj hh
  have h25 : (fld (pack7_4_6_6_6_3 28#7 g d a b 2#3) 25 7).toNat = 0x1C := by simp
  show decodeWord (pack7_4_6_6_6_3 28#7 g d a b 2#3) = _
  refine decodeWord_of ?_ hw
  rw [decodeBits_op1C _ h25]
  simp
theorem remu : ∀ g d a b, Statement (.remu g d a b) := by
  intro g d a b hw en hh
  obtain rfl : Encoding.slot (pack7_4_6_6_6_3 28#7 g d a b 3#3) = en := Option.some.inj hh
  have h25 : (fld (pack7_4_6_6_6_3 28#7 g d a b 3#3) 25 7).toNat = 0x1C := by simp
  show decodeWord (pack7_4_6_6_6_3 28#7 g d a b 3#3) = _
  refine decodeWord_of ?_ hw
  rw [decodeBits_op1C _ h25]
  simp
theorem vadd : ∀ g d a b t, Statement (.vadd g d a b t) := by
  intro g d a b t hw en hh
  obtain rfl : Encoding.slot (pack7_4_6_6_6_3 32#7 g d a b t) = en := Option.some.inj hh
  have h25 : (fld (pack7_4_6_6_6_3 32#7 g d a b t) 25 7).toNat = 0x20 := by simp
  show decodeWord (pack7_4_6_6_6_3 32#7 g d a b t) = _
  refine decodeWord_of ?_ hw
  rw [decodeBits_op20 _ h25]
  simp
theorem vsub : ∀ g d a b t, Statement (.vsub g d a b t) := by
  intro g d a b t hw en hh
  obtain rfl : Encoding.slot (pack7_4_6_6_6_3 33#7 g d a b t) = en := Option.some.inj hh
  have h25 : (fld (pack7_4_6_6_6_3 33#7 g d a b t) 25 7).toNat = 0x21 := by simp
  show decodeWord (pack7_4_6_6_6_3 33#7 g d a b t) = _
  refine decodeWord_of ?_ hw
  rw [decodeBits_op21 _ h25]
  simp
theorem vmul : ∀ g d a b t, Statement (.vmul g d a b t) := by
  intro g d a b t hw en hh
  obtain rfl : Encoding.slot (pack7_4_6_6_6_3 34#7 g d a b t) = en := Option.some.inj hh
  have h25 : (fld (pack7_4_6_6_6_3 34#7 g d a b t) 25 7).toNat = 0x22 := by simp
  show decodeWord (pack7_4_6_6_6_3 34#7 g d a b t) = _
  refine decodeWord_of ?_ hw
  rw [decodeBits_op22 _ h25]
  simp
theorem vadds : ∀ g d a b t, Statement (.vadds g d a b t) := by
  intro g d a b t hw en hh
  obtain rfl : Encoding.slot (pack7_4_6_6_6_3 35#7 g d a b t) = en := Option.some.inj hh
  have h25 : (fld (pack7_4_6_6_6_3 35#7 g d a b t) 25 7).toNat = 0x23 := by simp
  show decodeWord (pack7_4_6_6_6_3 35#7 g d a b t) = _
  refine decodeWord_of ?_ hw
  rw [decodeBits_op23 _ h25]
  simp
theorem vsubs : ∀ g d a b t, Statement (.vsubs g d a b t) := by
  intro g d a b t hw en hh
  obtain rfl : Encoding.slot (pack7_4_6_6_6_3 36#7 g d a b t) = en := Option.some.inj hh
  have h25 : (fld (pack7_4_6_6_6_3 36#7 g d a b t) 25 7).toNat = 0x24 := by simp
  show decodeWord (pack7_4_6_6_6_3 36#7 g d a b t) = _
  refine decodeWord_of ?_ hw
  rw [decodeBits_op24 _ h25]
  simp
theorem vmin : ∀ g d a b t, Statement (.vmin g d a b t) := by
  intro g d a b t hw en hh
  obtain rfl : Encoding.slot (pack7_4_6_6_6_3 37#7 g d a b t) = en := Option.some.inj hh
  have h25 : (fld (pack7_4_6_6_6_3 37#7 g d a b t) 25 7).toNat = 0x25 := by simp
  show decodeWord (pack7_4_6_6_6_3 37#7 g d a b t) = _
  refine decodeWord_of ?_ hw
  rw [decodeBits_op25 _ h25]
  simp
theorem vmax : ∀ g d a b t, Statement (.vmax g d a b t) := by
  intro g d a b t hw en hh
  obtain rfl : Encoding.slot (pack7_4_6_6_6_3 38#7 g d a b t) = en := Option.some.inj hh
  have h25 : (fld (pack7_4_6_6_6_3 38#7 g d a b t) 25 7).toNat = 0x26 := by simp
  show decodeWord (pack7_4_6_6_6_3 38#7 g d a b t) = _
  refine decodeWord_of ?_ hw
  rw [decodeBits_op26 _ h25]
  simp
theorem vand : ∀ g d a b, Statement (.vand g d a b) := by
  intro g d a b hw en hh
  obtain rfl : Encoding.slot (pack7_4_6_6_6_3 39#7 g d a b 0#3) = en := Option.some.inj hh
  have h25 : (fld (pack7_4_6_6_6_3 39#7 g d a b 0#3) 25 7).toNat = 0x27 := by simp
  show decodeWord (pack7_4_6_6_6_3 39#7 g d a b 0#3) = _
  refine decodeWord_of ?_ hw
  rw [decodeBits_op27 _ h25]
  simp
theorem vor : ∀ g d a b, Statement (.vor g d a b) := by
  intro g d a b hw en hh
  obtain rfl : Encoding.slot (pack7_4_6_6_6_3 39#7 g d a b 1#3) = en := Option.some.inj hh
  have h25 : (fld (pack7_4_6_6_6_3 39#7 g d a b 1#3) 25 7).toNat = 0x27 := by simp
  show decodeWord (pack7_4_6_6_6_3 39#7 g d a b 1#3) = _
  refine decodeWord_of ?_ hw
  rw [decodeBits_op27 _ h25]
  simp
theorem vxor : ∀ g d a b, Statement (.vxor g d a b) := by
  intro g d a b hw en hh
  obtain rfl : Encoding.slot (pack7_4_6_6_6_3 39#7 g d a b 2#3) = en := Option.some.inj hh
  have h25 : (fld (pack7_4_6_6_6_3 39#7 g d a b 2#3) 25 7).toNat = 0x27 := by simp
  show decodeWord (pack7_4_6_6_6_3 39#7 g d a b 2#3) = _
  refine decodeWord_of ?_ hw
  rw [decodeBits_op27 _ h25]
  simp
theorem vandn : ∀ g d a b, Statement (.vandn g d a b) := by
  intro g d a b hw en hh
  obtain rfl : Encoding.slot (pack7_4_6_6_6_3 39#7 g d a b 3#3) = en := Option.some.inj hh
  have h25 : (fld (pack7_4_6_6_6_3 39#7 g d a b 3#3) 25 7).toNat = 0x27 := by simp
  show decodeWord (pack7_4_6_6_6_3 39#7 g d a b 3#3) = _
  refine decodeWord_of ?_ hw
  rw [decodeBits_op27 _ h25]
  simp
theorem vnot : ∀ g d a, Statement (.vnot g d a) := by
  intro g d a hw en hh
  obtain rfl : Encoding.slot (pack7_4_6_6_9 39#7 g d a 4#9) = en := Option.some.inj hh
  have h25 : (fld (pack7_4_6_6_9 39#7 g d a 4#9) 25 7).toNat = 0x27 := by simp
  have f0 : ¬ fld (pack7_4_6_6_9 39#7 g d a 4#9) 0 3 = 0#3 := by
    intro h; have h := congrArg BitVec.toNat h; simp only [fld, pack7_4_6_6_9, BitVec.toNat_ofNat] at h; have := g.isLt; have := d.isLt; have := a.isLt; omega
  have f1 : ¬ fld (pack7_4_6_6_9 39#7 g d a 4#9) 0 3 = 1#3 := by
    intro h; have h := congrArg BitVec.toNat h; simp only [fld, pack7_4_6_6_9, BitVec.toNat_ofNat] at h; have := g.isLt; have := d.isLt; have := a.isLt; omega
  have f2 : ¬ fld (pack7_4_6_6_9 39#7 g d a 4#9) 0 3 = 2#3 := by
    intro h; have h := congrArg BitVec.toNat h; simp only [fld, pack7_4_6_6_9, BitVec.toNat_ofNat] at h; have := g.isLt; have := d.isLt; have := a.isLt; omega
  have f3 : ¬ fld (pack7_4_6_6_9 39#7 g d a 4#9) 0 3 = 3#3 := by
    intro h; have h := congrArg BitVec.toNat h; simp only [fld, pack7_4_6_6_9, BitVec.toNat_ofNat] at h; have := g.isLt; have := d.isLt; have := a.isLt; omega
  show decodeWord (pack7_4_6_6_9 39#7 g d a 4#9) = _
  refine decodeWord_of ?_ hw
  rw [decodeBits_op27 _ h25]
  simp [f0, f1, f2, f3]
theorem vsll : ∀ g d a b, Statement (.vsll g d a b) := by
  intro g d a b hw en hh
  obtain rfl : Encoding.slot (pack7_4_6_6_6_3 40#7 g d a b 0#3) = en := Option.some.inj hh
  have h25 : (fld (pack7_4_6_6_6_3 40#7 g d a b 0#3) 25 7).toNat = 0x28 := by simp
  show decodeWord (pack7_4_6_6_6_3 40#7 g d a b 0#3) = _
  refine decodeWord_of ?_ hw
  rw [decodeBits_op28 _ h25]
  simp
theorem vsrl : ∀ g d a b, Statement (.vsrl g d a b) := by
  intro g d a b hw en hh
  obtain rfl : Encoding.slot (pack7_4_6_6_6_3 40#7 g d a b 1#3) = en := Option.some.inj hh
  have h25 : (fld (pack7_4_6_6_6_3 40#7 g d a b 1#3) 25 7).toNat = 0x28 := by simp
  show decodeWord (pack7_4_6_6_6_3 40#7 g d a b 1#3) = _
  refine decodeWord_of ?_ hw
  rw [decodeBits_op28 _ h25]
  simp
theorem vsra : ∀ g d a b, Statement (.vsra g d a b) := by
  intro g d a b hw en hh
  obtain rfl : Encoding.slot (pack7_4_6_6_6_3 40#7 g d a b 2#3) = en := Option.some.inj hh
  have h25 : (fld (pack7_4_6_6_6_3 40#7 g d a b 2#3) 25 7).toNat = 0x28 := by simp
  show decodeWord (pack7_4_6_6_6_3 40#7 g d a b 2#3) = _
  refine decodeWord_of ?_ hw
  rw [decodeBits_op28 _ h25]
  simp
theorem vslls : ∀ g d a s, Statement (.vslls g d a s) := by
  intro g d a s hw en hh
  obtain rfl : Encoding.slot (pack7_4_6_6_6_3 40#7 g d a s 3#3) = en := Option.some.inj hh
  have h25 : (fld (pack7_4_6_6_6_3 40#7 g d a s 3#3) 25 7).toNat = 0x28 := by simp
  show decodeWord (pack7_4_6_6_6_3 40#7 g d a s 3#3) = _
  refine decodeWord_of ?_ hw
  rw [decodeBits_op28 _ h25]
  simp
theorem vsrls : ∀ g d a s, Statement (.vsrls g d a s) := by
  intro g d a s hw en hh
  obtain rfl : Encoding.slot (pack7_4_6_6_6_3 40#7 g d a s 4#3) = en := Option.some.inj hh
  have h25 : (fld (pack7_4_6_6_6_3 40#7 g d a s 4#3) 25 7).toNat = 0x28 := by simp
  show decodeWord (pack7_4_6_6_6_3 40#7 g d a s 4#3) = _
  refine decodeWord_of ?_ hw
  rw [decodeBits_op28 _ h25]
  simp
theorem vsras : ∀ g d a s, Statement (.vsras g d a s) := by
  intro g d a s hw en hh
  obtain rfl : Encoding.slot (pack7_4_6_6_6_3 40#7 g d a s 5#3) = en := Option.some.inj hh
  have h25 : (fld (pack7_4_6_6_6_3 40#7 g d a s 5#3) 25 7).toNat = 0x28 := by simp
  show decodeWord (pack7_4_6_6_6_3 40#7 g d a s 5#3) = _
  refine decodeWord_of ?_ hw
  rw [decodeBits_op28 _ h25]
  simp
theorem vfadd : ∀ g d a b t, Statement (.vfadd g d a b t) := by
  intro g d a b t hw en hh
  obtain rfl : Encoding.slot (pack7_4_6_6_6_3 41#7 g d a b t) = en := Option.some.inj hh
  have h25 : (fld (pack7_4_6_6_6_3 41#7 g d a b t) 25 7).toNat = 0x29 := by simp
  show decodeWord (pack7_4_6_6_6_3 41#7 g d a b t) = _
  refine decodeWord_of ?_ hw
  rw [decodeBits_op29 _ h25]
  simp
theorem vfsub : ∀ g d a b t, Statement (.vfsub g d a b t) := by
  intro g d a b t hw en hh
  obtain rfl : Encoding.slot (pack7_4_6_6_6_3 42#7 g d a b t) = en := Option.some.inj hh
  have h25 : (fld (pack7_4_6_6_6_3 42#7 g d a b t) 25 7).toNat = 0x2A := by simp
  show decodeWord (pack7_4_6_6_6_3 42#7 g d a b t) = _
  refine decodeWord_of ?_ hw
  rw [decodeBits_op2A _ h25]
  simp
theorem vfmul : ∀ g d a b t, Statement (.vfmul g d a b t) := by
  intro g d a b t hw en hh
  obtain rfl : Encoding.slot (pack7_4_6_6_6_3 43#7 g d a b t) = en := Option.some.inj hh
  have h25 : (fld (pack7_4_6_6_6_3 43#7 g d a b t) 25 7).toNat = 0x2B := by simp
  show decodeWord (pack7_4_6_6_6_3 43#7 g d a b t) = _
  refine decodeWord_of ?_ hw
  rw [decodeBits_op2B _ h25]
  simp
theorem vfmin : ∀ g d a b t, Statement (.vfmin g d a b t) := by
  intro g d a b t hw en hh
  obtain rfl : Encoding.slot (pack7_4_6_6_6_3 44#7 g d a b t) = en := Option.some.inj hh
  have h25 : (fld (pack7_4_6_6_6_3 44#7 g d a b t) 25 7).toNat = 0x2C := by simp
  show decodeWord (pack7_4_6_6_6_3 44#7 g d a b t) = _
  refine decodeWord_of ?_ hw
  rw [decodeBits_op2C _ h25]
  simp
theorem vfma : ∀ g d a b t, Statement (.vfma g d a b t) := by
  intro g d a b t hw en hh
  obtain rfl : Encoding.slot (pack7_4_6_6_6_3 45#7 g d a b t) = en := Option.some.inj hh
  have h25 : (fld (pack7_4_6_6_6_3 45#7 g d a b t) 25 7).toNat = 0x2D := by simp
  show decodeWord (pack7_4_6_6_6_3 45#7 g d a b t) = _
  refine decodeWord_of ?_ hw
  rw [decodeBits_op2D _ h25]
  simp
theorem vfms : ∀ g d a b t, Statement (.vfms g d a b t) := by
  intro g d a b t hw en hh
  obtain rfl : Encoding.slot (pack7_4_6_6_6_3 46#7 g d a b t) = en := Option.some.inj hh
  have h25 : (fld (pack7_4_6_6_6_3 46#7 g d a b t) 25 7).toNat = 0x2E := by simp
  show decodeWord (pack7_4_6_6_6_3 46#7 g d a b t) = _
  refine decodeWord_of ?_ hw
  rw [decodeBits_op2E _ h25]
  simp
theorem vfmax : ∀ g d a b t, Statement (.vfmax g d a b t) := by
  intro g d a b t hw en hh
  obtain rfl : Encoding.slot (pack7_4_6_6_6_3 47#7 g d a b t) = en := Option.some.inj hh
  have h25 : (fld (pack7_4_6_6_6_3 47#7 g d a b t) 25 7).toNat = 0x2F := by simp
  show decodeWord (pack7_4_6_6_6_3 47#7 g d a b t) = _
  refine decodeWord_of ?_ hw
  rw [decodeBits_op2F _ h25]
  simp
theorem vcvtV0V31 : ∀ g d a f s, Statement (.vcvtV0V31 g d a f s) := by
  intro g d a f s hw en hh
  obtain rfl : Encoding.slot (pack7_4_6_5_5_5 48#7 g d a f s) = en := Option.some.inj hh
  have h25 : (fld (pack7_4_6_5_5_5 48#7 g d a f s) 25 7).toNat = 0x30 := by simp
  show decodeWord (pack7_4_6_5_5_5 48#7 g d a f s) = _
  refine decodeWord_of ?_ hw
  rw [decodeBits_op30 _ h25]
  simp
theorem vcvtV32V63 : ∀ g d a f s, Statement (.vcvtV32V63 g d a f s) := by
  intro g d a f s hw en hh
  obtain rfl : Encoding.slot (pack7_4_6_5_5_5 49#7 g d a f s) = en := Option.some.inj hh
  have h25 : (fld (pack7_4_6_5_5_5 49#7 g d a f s) 25 7).toNat = 0x31 := by simp
  show decodeWord (pack7_4_6_5_5_5 49#7 g d a f s) = _
  refine decodeWord_of ?_ hw
  rw [decodeBits_op31 _ h25]
  simp
theorem vcvtSatV0V31 : ∀ g d a f s, Statement (.vcvtSatV0V31 g d a f s) := by
  intro g d a f s hw en hh
  obtain rfl : Encoding.slot (pack7_4_6_5_5_5 50#7 g d a f s) = en := Option.some.inj hh
  have h25 : (fld (pack7_4_6_5_5_5 50#7 g d a f s) 25 7).toNat = 0x32 := by simp
  show decodeWord (pack7_4_6_5_5_5 50#7 g d a f s) = _
  refine decodeWord_of ?_ hw
  rw [decodeBits_op32 _ h25]
  simp
theorem vcvtSatV32V63 : ∀ g d a f s, Statement (.vcvtSatV32V63 g d a f s) := by
  intro g d a f s hw en hh
  obtain rfl : Encoding.slot (pack7_4_6_5_5_5 51#7 g d a f s) = en := Option.some.inj hh
  have h25 : (fld (pack7_4_6_5_5_5 51#7 g d a f s) 25 7).toNat = 0x33 := by simp
  show decodeWord (pack7_4_6_5_5_5 51#7 g d a f s) = _
  refine decodeWord_of ?_ hw
  rw [decodeBits_op33 _ h25]
  simp
theorem vcmpEq : ∀ g p a b, Statement (.vcmpEq g p a b) := by
  intro g p a b hw en hh
  obtain rfl : Encoding.slot (pack7_4_7_6_6_2 52#7 g p a b 0#2) = en := Option.some.inj hh
  have h25 : (fld (pack7_4_7_6_6_2 52#7 g p a b 0#2) 25 7).toNat = 0x34 := by simp
  show decodeWord (pack7_4_7_6_6_2 52#7 g p a b 0#2) = _
  refine decodeWord_of ?_ hw
  rw [decodeBits_op34 _ h25]
  simp
theorem vcmpNe : ∀ g p a b, Statement (.vcmpNe g p a b) := by
  intro g p a b hw en hh
  obtain rfl : Encoding.slot (pack7_4_7_6_6_2 52#7 g p a b 1#2) = en := Option.some.inj hh
  have h25 : (fld (pack7_4_7_6_6_2 52#7 g p a b 1#2) 25 7).toNat = 0x34 := by simp
  show decodeWord (pack7_4_7_6_6_2 52#7 g p a b 1#2) = _
  refine decodeWord_of ?_ hw
  rw [decodeBits_op34 _ h25]
  simp
theorem vcmpLt : ∀ g p a b, Statement (.vcmpLt g p a b) := by
  intro g p a b hw en hh
  obtain rfl : Encoding.slot (pack7_4_7_6_6_2 52#7 g p a b 2#2) = en := Option.some.inj hh
  have h25 : (fld (pack7_4_7_6_6_2 52#7 g p a b 2#2) 25 7).toNat = 0x34 := by simp
  show decodeWord (pack7_4_7_6_6_2 52#7 g p a b 2#2) = _
  refine decodeWord_of ?_ hw
  rw [decodeBits_op34 _ h25]
  simp
theorem vcmpLe : ∀ g p a b, Statement (.vcmpLe g p a b) := by
  intro g p a b hw en hh
  obtain rfl : Encoding.slot (pack7_4_7_6_6_2 52#7 g p a b 3#2) = en := Option.some.inj hh
  have h25 : (fld (pack7_4_7_6_6_2 52#7 g p a b 3#2) 25 7).toNat = 0x34 := by simp
  show decodeWord (pack7_4_7_6_6_2 52#7 g p a b 3#2) = _
  refine decodeWord_of ?_ hw
  rw [decodeBits_op34 _ h25]
  simp
theorem vcmpuLtu : ∀ g p a b, Statement (.vcmpuLtu g p a b) := by
  intro g p a b hw en hh
  obtain rfl : Encoding.slot (pack7_4_7_6_6_2 53#7 g p a b 0#2) = en := Option.some.inj hh
  have h25 : (fld (pack7_4_7_6_6_2 53#7 g p a b 0#2) 25 7).toNat = 0x35 := by simp
  show decodeWord (pack7_4_7_6_6_2 53#7 g p a b 0#2) = _
  refine decodeWord_of ?_ hw
  rw [decodeBits_op35 _ h25]
  simp
theorem vcmpuLeu : ∀ g p a b, Statement (.vcmpuLeu g p a b) := by
  intro g p a b hw en hh
  obtain rfl : Encoding.slot (pack7_4_7_6_6_2 53#7 g p a b 1#2) = en := Option.some.inj hh
  have h25 : (fld (pack7_4_7_6_6_2 53#7 g p a b 1#2) 25 7).toNat = 0x35 := by simp
  show decodeWord (pack7_4_7_6_6_2 53#7 g p a b 1#2) = _
  refine decodeWord_of ?_ hw
  rw [decodeBits_op35 _ h25]
  simp
theorem vcmpuTst : ∀ g p a b, Statement (.vcmpuTst g p a b) := by
  intro g p a b hw en hh
  obtain rfl : Encoding.slot (pack7_4_7_6_6_2 53#7 g p a b 2#2) = en := Option.some.inj hh
  have h25 : (fld (pack7_4_7_6_6_2 53#7 g p a b 2#2) 25 7).toNat = 0x35 := by simp
  show decodeWord (pack7_4_7_6_6_2 53#7 g p a b 2#2) = _
  refine decodeWord_of ?_ hw
  rw [decodeBits_op35 _ h25]
  simp
theorem vcmpuNtst : ∀ g p a b, Statement (.vcmpuNtst g p a b) := by
  intro g p a b hw en hh
  obtain rfl : Encoding.slot (pack7_4_7_6_6_2 53#7 g p a b 3#2) = en := Option.some.inj hh
  have h25 : (fld (pack7_4_7_6_6_2 53#7 g p a b 3#2) 25 7).toNat = 0x35 := by simp
  show decodeWord (pack7_4_7_6_6_2 53#7 g p a b 3#2) = _
  refine decodeWord_of ?_ hw
  rw [decodeBits_op35 _ h25]
  simp
theorem vfcmpEq : ∀ g p a b, Statement (.vfcmpEq g p a b) := by
  intro g p a b hw en hh
  obtain rfl : Encoding.slot (pack7_4_7_6_6_2 54#7 g p a b 0#2) = en := Option.some.inj hh
  have h25 : (fld (pack7_4_7_6_6_2 54#7 g p a b 0#2) 25 7).toNat = 0x36 := by simp
  show decodeWord (pack7_4_7_6_6_2 54#7 g p a b 0#2) = _
  refine decodeWord_of ?_ hw
  rw [decodeBits_op36 _ h25]
  simp
theorem vfcmpNe : ∀ g p a b, Statement (.vfcmpNe g p a b) := by
  intro g p a b hw en hh
  obtain rfl : Encoding.slot (pack7_4_7_6_6_2 54#7 g p a b 1#2) = en := Option.some.inj hh
  have h25 : (fld (pack7_4_7_6_6_2 54#7 g p a b 1#2) 25 7).toNat = 0x36 := by simp
  show decodeWord (pack7_4_7_6_6_2 54#7 g p a b 1#2) = _
  refine decodeWord_of ?_ hw
  rw [decodeBits_op36 _ h25]
  simp
theorem vfcmpLt : ∀ g p a b, Statement (.vfcmpLt g p a b) := by
  intro g p a b hw en hh
  obtain rfl : Encoding.slot (pack7_4_7_6_6_2 54#7 g p a b 2#2) = en := Option.some.inj hh
  have h25 : (fld (pack7_4_7_6_6_2 54#7 g p a b 2#2) 25 7).toNat = 0x36 := by simp
  show decodeWord (pack7_4_7_6_6_2 54#7 g p a b 2#2) = _
  refine decodeWord_of ?_ hw
  rw [decodeBits_op36 _ h25]
  simp
theorem vfcmpLe : ∀ g p a b, Statement (.vfcmpLe g p a b) := by
  intro g p a b hw en hh
  obtain rfl : Encoding.slot (pack7_4_7_6_6_2 54#7 g p a b 3#2) = en := Option.some.inj hh
  have h25 : (fld (pack7_4_7_6_6_2 54#7 g p a b 3#2) 25 7).toNat = 0x36 := by simp
  show decodeWord (pack7_4_7_6_6_2 54#7 g p a b 3#2) = _
  refine decodeWord_of ?_ hw
  rw [decodeBits_op36 _ h25]
  simp
theorem vsel : ∀ g d a b p, Statement (.vsel g d a b p) := by
  intro g d a b p hw en hh
  obtain rfl : Encoding.slot (pack7_4_6_6_6_3 55#7 g d a b p) = en := Option.some.inj hh
  have h25 : (fld (pack7_4_6_6_6_3 55#7 g d a b p) 25 7).toNat = 0x37 := by simp
  show decodeWord (pack7_4_6_6_6_3 55#7 g d a b p) = _
  refine decodeWord_of ?_ hw
  rw [decodeBits_op37 _ h25]
  simp
theorem vperm : ∀ g d a b, Statement (.vperm g d a b) := by
  intro g d a b hw en hh
  obtain rfl : Encoding.slot (pack7_4_6_6_6_3 56#7 g d a b 0#3) = en := Option.some.inj hh
  have h25 : (fld (pack7_4_6_6_6_3 56#7 g d a b 0#3) 25 7).toNat = 0x38 := by simp
  show decodeWord (pack7_4_6_6_6_3 56#7 g d a b 0#3) = _
  refine decodeWord_of ?_ hw
  rw [decodeBits_op38 _ h25]
  simp
theorem vrotl : ∀ g d a s, Statement (.vrotl g d a s) := by
  intro g d a s hw en hh
  obtain rfl : Encoding.slot (pack7_4_6_6_6_3 56#7 g d a s 1#3) = en := Option.some.inj hh
  have h25 : (fld (pack7_4_6_6_6_3 56#7 g d a s 1#3) 25 7).toNat = 0x38 := by simp
  show decodeWord (pack7_4_6_6_6_3 56#7 g d a s 1#3) = _
  refine decodeWord_of ?_ hw
  rw [decodeBits_op38 _ h25]
  simp
theorem vbcl : ∀ g d a s, Statement (.vbcl g d a s) := by
  intro g d a s hw en hh
  obtain rfl : Encoding.slot (pack7_4_6_6_6_3 56#7 g d a s 2#3) = en := Option.some.inj hh
  have h25 : (fld (pack7_4_6_6_6_3 56#7 g d a s 2#3) 25 7).toNat = 0x38 := by simp
  show decodeWord (pack7_4_6_6_6_3 56#7 g d a s 2#3) = _
  refine decodeWord_of ?_ hw
  rw [decodeBits_op38 _ h25]
  simp
theorem vzipl : ∀ g d a b, Statement (.vzipl g d a b) := by
  intro g d a b hw en hh
  obtain rfl : Encoding.slot (pack7_4_6_6_6_3 56#7 g d a b 3#3) = en := Option.some.inj hh
  have h25 : (fld (pack7_4_6_6_6_3 56#7 g d a b 3#3) 25 7).toNat = 0x38 := by simp
  show decodeWord (pack7_4_6_6_6_3 56#7 g d a b 3#3) = _
  refine decodeWord_of ?_ hw
  rw [decodeBits_op38 _ h25]
  simp
theorem vziph : ∀ g d a b, Statement (.vziph g d a b) := by
  intro g d a b hw en hh
  obtain rfl : Encoding.slot (pack7_4_6_6_6_3 56#7 g d a b 4#3) = en := Option.some.inj hh
  have h25 : (fld (pack7_4_6_6_6_3 56#7 g d a b 4#3) 25 7).toNat = 0x38 := by simp
  show decodeWord (pack7_4_6_6_6_3 56#7 g d a b 4#3) = _
  refine decodeWord_of ?_ hw
  rw [decodeBits_op38 _ h25]
  simp
theorem vuzpl : ∀ g d a b, Statement (.vuzpl g d a b) := by
  intro g d a b hw en hh
  obtain rfl : Encoding.slot (pack7_4_6_6_6_3 56#7 g d a b 5#3) = en := Option.some.inj hh
  have h25 : (fld (pack7_4_6_6_6_3 56#7 g d a b 5#3) 25 7).toNat = 0x38 := by simp
  show decodeWord (pack7_4_6_6_6_3 56#7 g d a b 5#3) = _
  refine decodeWord_of ?_ hw
  rw [decodeBits_op38 _ h25]
  simp
theorem vuzph : ∀ g d a b, Statement (.vuzph g d a b) := by
  intro g d a b hw en hh
  obtain rfl : Encoding.slot (pack7_4_6_6_6_3 56#7 g d a b 6#3) = en := Option.some.inj hh
  have h25 : (fld (pack7_4_6_6_6_3 56#7 g d a b 6#3) 25 7).toNat = 0x38 := by simp
  show decodeWord (pack7_4_6_6_6_3 56#7 g d a b 6#3) = _
  refine decodeWord_of ?_ hw
  rw [decodeBits_op38 _ h25]
  simp
theorem vredFsum : ∀ g d a, Statement (.vredFsum g d a) := by
  intro g d a hw en hh
  obtain rfl : Encoding.slot (pack7_4_6_6_9 57#7 g d a 0#9) = en := Option.some.inj hh
  have h25 : (fld (pack7_4_6_6_9 57#7 g d a 0#9) 25 7).toNat = 0x39 := by simp
  show decodeWord (pack7_4_6_6_9 57#7 g d a 0#9) = _
  refine decodeWord_of ?_ hw
  rw [decodeBits_op39 _ h25]
  simp
theorem vredIsum : ∀ g d a, Statement (.vredIsum g d a) := by
  intro g d a hw en hh
  obtain rfl : Encoding.slot (pack7_4_6_6_9 57#7 g d a 1#9) = en := Option.some.inj hh
  have h25 : (fld (pack7_4_6_6_9 57#7 g d a 1#9) 25 7).toNat = 0x39 := by simp
  show decodeWord (pack7_4_6_6_9 57#7 g d a 1#9) = _
  refine decodeWord_of ?_ hw
  rw [decodeBits_op39 _ h25]
  simp
theorem vredFmax : ∀ g d a, Statement (.vredFmax g d a) := by
  intro g d a hw en hh
  obtain rfl : Encoding.slot (pack7_4_6_6_9 57#7 g d a 2#9) = en := Option.some.inj hh
  have h25 : (fld (pack7_4_6_6_9 57#7 g d a 2#9) 25 7).toNat = 0x39 := by simp
  show decodeWord (pack7_4_6_6_9 57#7 g d a 2#9) = _
  refine decodeWord_of ?_ hw
  rw [decodeBits_op39 _ h25]
  simp
theorem vredFmin : ∀ g d a, Statement (.vredFmin g d a) := by
  intro g d a hw en hh
  obtain rfl : Encoding.slot (pack7_4_6_6_9 57#7 g d a 3#9) = en := Option.some.inj hh
  have h25 : (fld (pack7_4_6_6_9 57#7 g d a 3#9) 25 7).toNat = 0x39 := by simp
  show decodeWord (pack7_4_6_6_9 57#7 g d a 3#9) = _
  refine decodeWord_of ?_ hw
  rw [decodeBits_op39 _ h25]
  simp
theorem vredImax : ∀ g d a, Statement (.vredImax g d a) := by
  intro g d a hw en hh
  obtain rfl : Encoding.slot (pack7_4_6_6_9 57#7 g d a 4#9) = en := Option.some.inj hh
  have h25 : (fld (pack7_4_6_6_9 57#7 g d a 4#9) 25 7).toNat = 0x39 := by simp
  show decodeWord (pack7_4_6_6_9 57#7 g d a 4#9) = _
  refine decodeWord_of ?_ hw
  rw [decodeBits_op39 _ h25]
  simp
theorem vredImin : ∀ g d a, Statement (.vredImin g d a) := by
  intro g d a hw en hh
  obtain rfl : Encoding.slot (pack7_4_6_6_9 57#7 g d a 5#9) = en := Option.some.inj hh
  have h25 : (fld (pack7_4_6_6_9 57#7 g d a 5#9) 25 7).toNat = 0x39 := by simp
  show decodeWord (pack7_4_6_6_9 57#7 g d a 5#9) = _
  refine decodeWord_of ?_ hw
  rw [decodeBits_op39 _ h25]
  simp
theorem vredAmax : ∀ g d a, Statement (.vredAmax g d a) := by
  intro g d a hw en hh
  obtain rfl : Encoding.slot (pack7_4_6_6_9 57#7 g d a 6#9) = en := Option.some.inj hh
  have h25 : (fld (pack7_4_6_6_9 57#7 g d a 6#9) 25 7).toNat = 0x39 := by simp
  show decodeWord (pack7_4_6_6_9 57#7 g d a 6#9) = _
  refine decodeWord_of ?_ hw
  rw [decodeBits_op39 _ h25]
  simp
theorem vtrLog2 : ∀ g d a m, Statement (.vtrLog2 g d a m) := by
  intro g d a m hw en hh
  obtain rfl : Encoding.slot (pack7_4_6_6_1_5_3 58#7 g d a 0#1 m 0#3) = en := Option.some.inj hh
  have h25 : (fld (pack7_4_6_6_1_5_3 58#7 g d a 0#1 m 0#3) 25 7).toNat = 0x3A := by simp
  show decodeWord (pack7_4_6_6_1_5_3 58#7 g d a 0#1 m 0#3) = _
  refine decodeWord_of ?_ hw
  rw [decodeBits_op3A _ h25]
  simp
theorem vtrExp2 : ∀ g d a m, Statement (.vtrExp2 g d a m) := by
  intro g d a m hw en hh
  obtain rfl : Encoding.slot (pack7_4_6_6_1_5_3 58#7 g d a 0#1 m 1#3) = en := Option.some.inj hh
  have h25 : (fld (pack7_4_6_6_1_5_3 58#7 g d a 0#1 m 1#3) 25 7).toNat = 0x3A := by simp
  show decodeWord (pack7_4_6_6_1_5_3 58#7 g d a 0#1 m 1#3) = _
  refine decodeWord_of ?_ hw
  rw [decodeBits_op3A _ h25]
  simp
theorem vtrRcp : ∀ g d a m, Statement (.vtrRcp g d a m) := by
  intro g d a m hw en hh
  obtain rfl : Encoding.slot (pack7_4_6_6_1_5_3 58#7 g d a 0#1 m 2#3) = en := Option.some.inj hh
  have h25 : (fld (pack7_4_6_6_1_5_3 58#7 g d a 0#1 m 2#3) 25 7).toNat = 0x3A := by simp
  show decodeWord (pack7_4_6_6_1_5_3 58#7 g d a 0#1 m 2#3) = _
  refine decodeWord_of ?_ hw
  rw [decodeBits_op3A _ h25]
  simp
theorem vtrRsqrt : ∀ g d a m, Statement (.vtrRsqrt g d a m) := by
  intro g d a m hw en hh
  obtain rfl : Encoding.slot (pack7_4_6_6_1_5_3 58#7 g d a 0#1 m 3#3) = en := Option.some.inj hh
  have h25 : (fld (pack7_4_6_6_1_5_3 58#7 g d a 0#1 m 3#3) 25 7).toNat = 0x3A := by simp
  show decodeWord (pack7_4_6_6_1_5_3 58#7 g d a 0#1 m 3#3) = _
  refine decodeWord_of ?_ hw
  rw [decodeBits_op3A _ h25]
  simp
theorem vtrSig : ∀ g d a m, Statement (.vtrSig g d a m) := by
  intro g d a m hw en hh
  obtain rfl : Encoding.slot (pack7_4_6_6_1_5_3 58#7 g d a 0#1 m 4#3) = en := Option.some.inj hh
  have h25 : (fld (pack7_4_6_6_1_5_3 58#7 g d a 0#1 m 4#3) 25 7).toNat = 0x3A := by simp
  show decodeWord (pack7_4_6_6_1_5_3 58#7 g d a 0#1 m 4#3) = _
  refine decodeWord_of ?_ hw
  rw [decodeBits_op3A _ h25]
  simp
theorem vtrTanh : ∀ g d a m, Statement (.vtrTanh g d a m) := by
  intro g d a m hw en hh
  obtain rfl : Encoding.slot (pack7_4_6_6_1_5_3 58#7 g d a 0#1 m 5#3) = en := Option.some.inj hh
  have h25 : (fld (pack7_4_6_6_1_5_3 58#7 g d a 0#1 m 5#3) 25 7).toNat = 0x3A := by simp
  show decodeWord (pack7_4_6_6_1_5_3 58#7 g d a 0#1 m 5#3) = _
  refine decodeWord_of ?_ hw
  rw [decodeBits_op3A _ h25]
  simp
theorem vhash : ∀ g d a b, Statement (.vhash g d a b) := by
  intro g d a b hw en hh
  obtain rfl : Encoding.slot (pack7_4_6_6_6_3 59#7 g d a b 0#3) = en := Option.some.inj hh
  have h25 : (fld (pack7_4_6_6_6_3 59#7 g d a b 0#3) 25 7).toNat = 0x3B := by simp
  show decodeWord (pack7_4_6_6_6_3 59#7 g d a b 0#3) = _
  refine decodeWord_of ?_ hw
  rw [decodeBits_op3B _ h25]
  simp
theorem vacc : ∀ g d c r k, Statement (.vacc g d c r k) := by
  intro g d c r k hw en hh
  obtain rfl : Encoding.slot (pack7_4_6_3_5_3_4 60#7 g d c r k 0#4) = en := Option.some.inj hh
  have h25 : (fld (pack7_4_6_3_5_3_4 60#7 g d c r k 0#4) 25 7).toNat = 0x3C := by simp
  show decodeWord (pack7_4_6_3_5_3_4 60#7 g d c r k 0#4) = _
  refine decodeWord_of ?_ hw
  rw [decodeBits_op3C _ h25]
  simp
theorem vaccLc : ∀ g d c r k, Statement (.vaccLc g d c r k) := by
  intro g d c r k hw en hh
  obtain rfl : Encoding.slot (pack7_4_6_3_5_3_4 60#7 g d c r k 1#4) = en := Option.some.inj hh
  have h25 : (fld (pack7_4_6_3_5_3_4 60#7 g d c r k 1#4) 25 7).toNat = 0x3C := by simp
  show decodeWord (pack7_4_6_3_5_3_4 60#7 g d c r k 1#4) = _
  refine decodeWord_of ?_ hw
  rw [decodeBits_op3C _ h25]
  simp
theorem vbc : ∀ g d a, Statement (.vbc g d a) := by
  intro g d a hw en hh
  obtain rfl : Encoding.slot (pack7_4_6_6_9 61#7 g d a 0#9) = en := Option.some.inj hh
  have h25 : (fld (pack7_4_6_6_9 61#7 g d a 0#9) 25 7).toNat = 0x3D := by simp
  show decodeWord (pack7_4_6_6_9 61#7 g d a 0#9) = _
  refine decodeWord_of ?_ hw
  rw [decodeBits_op3D _ h25]
  simp
theorem vget : ∀ g d a b, Statement (.vget g d a b) := by
  intro g d a b hw en hh
  obtain rfl : Encoding.slot (pack7_4_6_6_6_3 61#7 g d a b 1#3) = en := Option.some.inj hh
  have h25 : (fld (pack7_4_6_6_6_3 61#7 g d a b 1#3) 25 7).toNat = 0x3D := by simp
  have f0 : ¬ fld (pack7_4_6_6_6_3 61#7 g d a b 1#3) 0 9 = 0#9 := by
    intro h; have h := congrArg BitVec.toNat h; simp only [fld, pack7_4_6_6_6_3, BitVec.toNat_ofNat] at h; have := g.isLt; have := d.isLt; have := a.isLt; have := b.isLt; omega
  show decodeWord (pack7_4_6_6_6_3 61#7 g d a b 1#3) = _
  refine decodeWord_of ?_ hw
  rw [decodeBits_op3D _ h25]
  simp [f0]
theorem vput : ∀ g d a b, Statement (.vput g d a b) := by
  intro g d a b hw en hh
  obtain rfl : Encoding.slot (pack7_4_6_6_6_3 61#7 g d a b 2#3) = en := Option.some.inj hh
  have h25 : (fld (pack7_4_6_6_6_3 61#7 g d a b 2#3) 25 7).toNat = 0x3D := by simp
  have f0 : ¬ fld (pack7_4_6_6_6_3 61#7 g d a b 2#3) 0 9 = 0#9 := by
    intro h; have h := congrArg BitVec.toNat h; simp only [fld, pack7_4_6_6_6_3, BitVec.toNat_ofNat] at h; have := g.isLt; have := d.isLt; have := a.isLt; have := b.isLt; omega
  show decodeWord (pack7_4_6_6_6_3 61#7 g d a b 2#3) = _
  refine decodeWord_of ?_ hw
  rw [decodeBits_op3D _ h25]
  simp [f0]
theorem viota : ∀ g d a, Statement (.viota g d a) := by
  intro g d a hw en hh
  obtain rfl : Encoding.slot (pack7_4_6_6_9 61#7 g d a 3#9) = en := Option.some.inj hh
  have h25 : (fld (pack7_4_6_6_9 61#7 g d a 3#9) 25 7).toNat = 0x3D := by simp
  have f0 : ¬ fld (pack7_4_6_6_9 61#7 g d a 3#9) 0 3 = 1#3 := by
    intro h; have h := congrArg BitVec.toNat h; simp only [fld, pack7_4_6_6_9, BitVec.toNat_ofNat] at h; have := g.isLt; have := d.isLt; have := a.isLt; omega
  have f1 : ¬ fld (pack7_4_6_6_9 61#7 g d a 3#9) 0 3 = 2#3 := by
    intro h; have h := congrArg BitVec.toNat h; simp only [fld, pack7_4_6_6_9, BitVec.toNat_ofNat] at h; have := g.isLt; have := d.isLt; have := a.isLt; omega
  show decodeWord (pack7_4_6_6_9 61#7 g d a 3#9) = _
  refine decodeWord_of ?_ hw
  rw [decodeBits_op3D _ h25]
  simp [f0, f1]
theorem mcall : ∀ g e c, Statement (.mcall g e c) := by
  intro g e c hw en hh
  obtain rfl : Encoding.slot (pack7_4_6_3_12 64#7 g e c 0#12) = en := Option.some.inj hh
  have h25 : (fld (pack7_4_6_3_12 64#7 g e c 0#12) 25 7).toNat = 0x40 := by simp
  show decodeWord (pack7_4_6_3_12 64#7 g e c 0#12) = _
  refine decodeWord_of ?_ hw
  rw [decodeBits_op40 _ h25]
  simp
theorem mwait : ∀ g d, Statement (.mwait g d) := by
  intro g d hw en hh
  obtain rfl : Encoding.slot (pack7_4_6_15 65#7 g d 0#15) = en := Option.some.inj hh
  have h25 : (fld (pack7_4_6_15 65#7 g d 0#15) 25 7).toNat = 0x41 := by simp
  show decodeWord (pack7_4_6_15 65#7 g d 0#15) = _
  refine decodeWord_of ?_ hw
  rw [decodeBits_op41 _ h25]
  simp
theorem mpar : ∀ g m a, Statement (.mpar g m a) := by
  intro g m a hw en hh
  obtain rfl : Encoding.slot (pack7_4_3_6_12 66#7 g m a 0#12) = en := Option.some.inj hh
  have h25 : (fld (pack7_4_3_6_12 66#7 g m a 0#12) 25 7).toNat = 0x42 := by simp
  show decodeWord (pack7_4_3_6_12 66#7 g m a 0#12) = _
  refine decodeWord_of ?_ hw
  rw [decodeBits_op42 _ h25]
  simp
theorem mpari : ∀ g m i, Statement (.mpari g m i) := by
  intro g m i hw en hh
  obtain rfl : Encoding.slot (pack7_4_3_18 67#7 g m i) = en := Option.some.inj hh
  have h25 : (fld (pack7_4_3_18 67#7 g m i) 25 7).toNat = 0x43 := by simp
  show decodeWord (pack7_4_3_18 67#7 g m i) = _
  refine decodeWord_of ?_ hw
  rw [decodeBits_op43 _ h25]
  simp
theorem mft : ∀ g f a b, Statement (.mft g f a b) := by
  intro g f a b hw en hh
  obtain rfl : Encoding.slot (pack7_4_4_5_5_7 68#7 g f a b 0#7) = en := Option.some.inj hh
  have h25 : (fld (pack7_4_4_5_5_7 68#7 g f a b 0#7) 25 7).toNat = 0x44 := by simp
  show decodeWord (pack7_4_4_5_5_7 68#7 g f a b 0#7) = _
  refine decodeWord_of ?_ hw
  rw [decodeBits_op44 _ h25]
  simp
theorem mzero : ∀ g k, Statement (.mzero g k) := by
  intro g k hw en hh
  obtain rfl : Encoding.slot (pack7_4_8_13 69#7 g k 0#13) = en := Option.some.inj hh
  have h25 : (fld (pack7_4_8_13 69#7 g k 0#13) 25 7).toNat = 0x45 := by simp
  show decodeWord (pack7_4_8_13 69#7 g k 0#13) = _
  refine decodeWord_of ?_ hw
  rw [decodeBits_op45 _ h25]
  simp
theorem mmovSt : ∀ g c a o, Statement (.mmovSt g c a o) := by
  intro g c a o hw en hh
  obtain rfl : Encoding.slot (pack7_4_3_6_5_7 70#7 g c a o 0#7) = en := Option.some.inj hh
  have h25 : (fld (pack7_4_3_6_5_7 70#7 g c a o 0#7) 25 7).toNat = 0x46 := by simp
  show decodeWord (pack7_4_3_6_5_7 70#7 g c a o 0#7) = _
  refine decodeWord_of ?_ hw
  rw [decodeBits_op46 _ h25]
  simp
theorem mmovStSat : ∀ g c a o, Statement (.mmovStSat g c a o) := by
  intro g c a o hw en hh
  obtain rfl : Encoding.slot (pack7_4_3_6_5_7 70#7 g c a o 64#7) = en := Option.some.inj hh
  have h25 : (fld (pack7_4_3_6_5_7 70#7 g c a o 64#7) 25 7).toNat = 0x46 := by simp
  show decodeWord (pack7_4_3_6_5_7 70#7 g c a o 64#7) = _
  refine decodeWord_of ?_ hw
  rw [decodeBits_op46 _ h25]
  simp
theorem mmovLd : ∀ g c a o, Statement (.mmovLd g c a o) := by
  intro g c a o hw en hh
  obtain rfl : Encoding.slot (pack7_4_3_6_5_7 70#7 g c a o 1#7) = en := Option.some.inj hh
  have h25 : (fld (pack7_4_3_6_5_7 70#7 g c a o 1#7) 25 7).toNat = 0x46 := by simp
  show decodeWord (pack7_4_3_6_5_7 70#7 g c a o 1#7) = _
  refine decodeWord_of ?_ hw
  rw [decodeBits_op46 _ h25]
  simp
theorem mrsw : ∀ g i a, Statement (.mrsw g i a) := by
  intro g i a hw en hh
  obtain rfl : Encoding.slot (pack7_4_9_6_6 71#7 g i a 0#6) = en := Option.some.inj hh
  have h25 : (fld (pack7_4_9_6_6 71#7 g i a 0#6) 25 7).toNat = 0x47 := by simp
  show decodeWord (pack7_4_9_6_6 71#7 g i a 0#6) = _
  refine decodeWord_of ?_ hw
  rw [decodeBits_op47 _ h25]
  simp
theorem mrse : ∀ g e i, Statement (.mrse g e i) := by
  intro g e i hw en hh
  obtain rfl : Encoding.slot (pack7_4_6_9_6 72#7 g e i 0#6) = en := Option.some.inj hh
  have h25 : (fld (pack7_4_6_9_6 72#7 g e i 0#6) 25 7).toNat = 0x48 := by simp
  show decodeWord (pack7_4_6_9_6 72#7 g e i 0#6) = _
  refine decodeWord_of ?_ hw
  rw [decodeBits_op48 _ h25]
  simp
theorem mstat : ∀ g d, Statement (.mstat g d) := by
  intro g d hw en hh
  obtain rfl : Encoding.slot (pack7_4_6_15 73#7 g d 0#15) = en := Option.some.inj hh
  have h25 : (fld (pack7_4_6_15 73#7 g d 0#15) 25 7).toNat = 0x49 := by simp
  show decodeWord (pack7_4_6_15 73#7 g d 0#15) = _
  refine decodeWord_of ?_ hw
  rw [decodeBits_op49 _ h25]
  simp
theorem mstatCnt : ∀ g d, Statement (.mstatCnt g d) := by
  intro g d hw en hh
  obtain rfl : Encoding.slot (pack7_4_6_15 73#7 g d 1#15) = en := Option.some.inj hh
  have h25 : (fld (pack7_4_6_15 73#7 g d 1#15) 25 7).toNat = 0x49 := by simp
  show decodeWord (pack7_4_6_15 73#7 g d 1#15) = _
  refine decodeWord_of ?_ hw
  rw [decodeBits_op49 _ h25]
  simp
theorem ldB : ∀ g d a k, Statement (.ldB g d a k) := by
  intro g d a k hw en hh
  obtain rfl : Encoding.slot (pack7_4_6_6_6_3 80#7 g d a k 0#3) = en := Option.some.inj hh
  have h25 : (fld (pack7_4_6_6_6_3 80#7 g d a k 0#3) 25 7).toNat = 0x50 := by simp
  show decodeWord (pack7_4_6_6_6_3 80#7 g d a k 0#3) = _
  refine decodeWord_of ?_ hw
  rw [decodeBits_op50 _ h25]
  simp
theorem ldH : ∀ g d a k, Statement (.ldH g d a k) := by
  intro g d a k hw en hh
  obtain rfl : Encoding.slot (pack7_4_6_6_6_3 80#7 g d a k 1#3) = en := Option.some.inj hh
  have h25 : (fld (pack7_4_6_6_6_3 80#7 g d a k 1#3) 25 7).toNat = 0x50 := by simp
  show decodeWord (pack7_4_6_6_6_3 80#7 g d a k 1#3) = _
  refine decodeWord_of ?_ hw
  rw [decodeBits_op50 _ h25]
  simp
theorem ldW : ∀ g d a k, Statement (.ldW g d a k) := by
  intro g d a k hw en hh
  obtain rfl : Encoding.slot (pack7_4_6_6_6_3 80#7 g d a k 2#3) = en := Option.some.inj hh
  have h25 : (fld (pack7_4_6_6_6_3 80#7 g d a k 2#3) 25 7).toNat = 0x50 := by simp
  show decodeWord (pack7_4_6_6_6_3 80#7 g d a k 2#3) = _
  refine decodeWord_of ?_ hw
  rw [decodeBits_op50 _ h25]
  simp
theorem ldD : ∀ g d a k, Statement (.ldD g d a k) := by
  intro g d a k hw en hh
  obtain rfl : Encoding.slot (pack7_4_6_6_6_3 80#7 g d a k 3#3) = en := Option.some.inj hh
  have h25 : (fld (pack7_4_6_6_6_3 80#7 g d a k 3#3) 25 7).toNat = 0x50 := by simp
  show decodeWord (pack7_4_6_6_6_3 80#7 g d a k 3#3) = _
  refine decodeWord_of ?_ hw
  rw [decodeBits_op50 _ h25]
  simp
theorem ldBs : ∀ g d a k, Statement (.ldBs g d a k) := by
  intro g d a k hw en hh
  obtain rfl : Encoding.slot (pack7_4_6_6_6_3 80#7 g d a k 4#3) = en := Option.some.inj hh
  have h25 : (fld (pack7_4_6_6_6_3 80#7 g d a k 4#3) 25 7).toNat = 0x50 := by simp
  show decodeWord (pack7_4_6_6_6_3 80#7 g d a k 4#3) = _
  refine decodeWord_of ?_ hw
  rw [decodeBits_op50 _ h25]
  simp
theorem ldHs : ∀ g d a k, Statement (.ldHs g d a k) := by
  intro g d a k hw en hh
  obtain rfl : Encoding.slot (pack7_4_6_6_6_3 80#7 g d a k 5#3) = en := Option.some.inj hh
  have h25 : (fld (pack7_4_6_6_6_3 80#7 g d a k 5#3) 25 7).toNat = 0x50 := by simp
  show decodeWord (pack7_4_6_6_6_3 80#7 g d a k 5#3) = _
  refine decodeWord_of ?_ hw
  rw [decodeBits_op50 _ h25]
  simp
theorem ldWs : ∀ g d a k, Statement (.ldWs g d a k) := by
  intro g d a k hw en hh
  obtain rfl : Encoding.slot (pack7_4_6_6_6_3 80#7 g d a k 6#3) = en := Option.some.inj hh
  have h25 : (fld (pack7_4_6_6_6_3 80#7 g d a k 6#3) 25 7).toNat = 0x50 := by simp
  show decodeWord (pack7_4_6_6_6_3 80#7 g d a k 6#3) = _
  refine decodeWord_of ?_ hw
  rw [decodeBits_op50 _ h25]
  simp
theorem ldvB : ∀ g d a k, Statement (.ldvB g d a k) := by
  intro g d a k hw en hh
  obtain rfl : Encoding.slot (pack7_4_6_6_6_3 81#7 g d a k 0#3) = en := Option.some.inj hh
  have h25 : (fld (pack7_4_6_6_6_3 81#7 g d a k 0#3) 25 7).toNat = 0x51 := by simp
  show decodeWord (pack7_4_6_6_6_3 81#7 g d a k 0#3) = _
  refine decodeWord_of ?_ hw
  rw [decodeBits_op51 _ h25]
  simp
theorem ldvH : ∀ g d a k, Statement (.ldvH g d a k) := by
  intro g d a k hw en hh
  obtain rfl : Encoding.slot (pack7_4_6_6_6_3 81#7 g d a k 1#3) = en := Option.some.inj hh
  have h25 : (fld (pack7_4_6_6_6_3 81#7 g d a k 1#3) 25 7).toNat = 0x51 := by simp
  show decodeWord (pack7_4_6_6_6_3 81#7 g d a k 1#3) = _
  refine decodeWord_of ?_ hw
  rw [decodeBits_op51 _ h25]
  simp
theorem ldvW : ∀ g d a k, Statement (.ldvW g d a k) := by
  intro g d a k hw en hh
  obtain rfl : Encoding.slot (pack7_4_6_6_6_3 81#7 g d a k 2#3) = en := Option.some.inj hh
  have h25 : (fld (pack7_4_6_6_6_3 81#7 g d a k 2#3) 25 7).toNat = 0x51 := by simp
  show decodeWord (pack7_4_6_6_6_3 81#7 g d a k 2#3) = _
  refine decodeWord_of ?_ hw
  rw [decodeBits_op51 _ h25]
  simp
theorem ldvD : ∀ g d a k, Statement (.ldvD g d a k) := by
  intro g d a k hw en hh
  obtain rfl : Encoding.slot (pack7_4_6_6_6_3 81#7 g d a k 3#3) = en := Option.some.inj hh
  have h25 : (fld (pack7_4_6_6_6_3 81#7 g d a k 3#3) 25 7).toNat = 0x51 := by simp
  show decodeWord (pack7_4_6_6_6_3 81#7 g d a k 3#3) = _
  refine decodeWord_of ?_ hw
  rw [decodeBits_op51 _ h25]
  simp
theorem ldvBs : ∀ g d a k, Statement (.ldvBs g d a k) := by
  intro g d a k hw en hh
  obtain rfl : Encoding.slot (pack7_4_6_6_6_3 81#7 g d a k 4#3) = en := Option.some.inj hh
  have h25 : (fld (pack7_4_6_6_6_3 81#7 g d a k 4#3) 25 7).toNat = 0x51 := by simp
  show decodeWord (pack7_4_6_6_6_3 81#7 g d a k 4#3) = _
  refine decodeWord_of ?_ hw
  rw [decodeBits_op51 _ h25]
  simp
theorem ldvHs : ∀ g d a k, Statement (.ldvHs g d a k) := by
  intro g d a k hw en hh
  obtain rfl : Encoding.slot (pack7_4_6_6_6_3 81#7 g d a k 5#3) = en := Option.some.inj hh
  have h25 : (fld (pack7_4_6_6_6_3 81#7 g d a k 5#3) 25 7).toNat = 0x51 := by simp
  show decodeWord (pack7_4_6_6_6_3 81#7 g d a k 5#3) = _
  refine decodeWord_of ?_ hw
  rw [decodeBits_op51 _ h25]
  simp
theorem ldvWs : ∀ g d a k, Statement (.ldvWs g d a k) := by
  intro g d a k hw en hh
  obtain rfl : Encoding.slot (pack7_4_6_6_6_3 81#7 g d a k 6#3) = en := Option.some.inj hh
  have h25 : (fld (pack7_4_6_6_6_3 81#7 g d a k 6#3) 25 7).toNat = 0x51 := by simp
  show decodeWord (pack7_4_6_6_6_3 81#7 g d a k 6#3) = _
  refine decodeWord_of ?_ hw
  rw [decodeBits_op51 _ h25]
  simp
theorem stB : ∀ g d a k, Statement (.stB g d a k) := by
  intro g d a k hw en hh
  obtain rfl : Encoding.slot (pack7_4_6_6_6_3 82#7 g d a k 0#3) = en := Option.some.inj hh
  have h25 : (fld (pack7_4_6_6_6_3 82#7 g d a k 0#3) 25 7).toNat = 0x52 := by simp
  show decodeWord (pack7_4_6_6_6_3 82#7 g d a k 0#3) = _
  refine decodeWord_of ?_ hw
  rw [decodeBits_op52 _ h25]
  simp
theorem stH : ∀ g d a k, Statement (.stH g d a k) := by
  intro g d a k hw en hh
  obtain rfl : Encoding.slot (pack7_4_6_6_6_3 82#7 g d a k 1#3) = en := Option.some.inj hh
  have h25 : (fld (pack7_4_6_6_6_3 82#7 g d a k 1#3) 25 7).toNat = 0x52 := by simp
  show decodeWord (pack7_4_6_6_6_3 82#7 g d a k 1#3) = _
  refine decodeWord_of ?_ hw
  rw [decodeBits_op52 _ h25]
  simp
theorem stW : ∀ g d a k, Statement (.stW g d a k) := by
  intro g d a k hw en hh
  obtain rfl : Encoding.slot (pack7_4_6_6_6_3 82#7 g d a k 2#3) = en := Option.some.inj hh
  have h25 : (fld (pack7_4_6_6_6_3 82#7 g d a k 2#3) 25 7).toNat = 0x52 := by simp
  show decodeWord (pack7_4_6_6_6_3 82#7 g d a k 2#3) = _
  refine decodeWord_of ?_ hw
  rw [decodeBits_op52 _ h25]
  simp
theorem stD : ∀ g d a k, Statement (.stD g d a k) := by
  intro g d a k hw en hh
  obtain rfl : Encoding.slot (pack7_4_6_6_6_3 82#7 g d a k 3#3) = en := Option.some.inj hh
  have h25 : (fld (pack7_4_6_6_6_3 82#7 g d a k 3#3) 25 7).toNat = 0x52 := by simp
  show decodeWord (pack7_4_6_6_6_3 82#7 g d a k 3#3) = _
  refine decodeWord_of ?_ hw
  rw [decodeBits_op52 _ h25]
  simp
theorem stvB : ∀ g d a k, Statement (.stvB g d a k) := by
  intro g d a k hw en hh
  obtain rfl : Encoding.slot (pack7_4_6_6_6_3 83#7 g d a k 0#3) = en := Option.some.inj hh
  have h25 : (fld (pack7_4_6_6_6_3 83#7 g d a k 0#3) 25 7).toNat = 0x53 := by simp
  show decodeWord (pack7_4_6_6_6_3 83#7 g d a k 0#3) = _
  refine decodeWord_of ?_ hw
  rw [decodeBits_op53 _ h25]
  simp
theorem stvH : ∀ g d a k, Statement (.stvH g d a k) := by
  intro g d a k hw en hh
  obtain rfl : Encoding.slot (pack7_4_6_6_6_3 83#7 g d a k 1#3) = en := Option.some.inj hh
  have h25 : (fld (pack7_4_6_6_6_3 83#7 g d a k 1#3) 25 7).toNat = 0x53 := by simp
  show decodeWord (pack7_4_6_6_6_3 83#7 g d a k 1#3) = _
  refine decodeWord_of ?_ hw
  rw [decodeBits_op53 _ h25]
  simp
theorem stvW : ∀ g d a k, Statement (.stvW g d a k) := by
  intro g d a k hw en hh
  obtain rfl : Encoding.slot (pack7_4_6_6_6_3 83#7 g d a k 2#3) = en := Option.some.inj hh
  have h25 : (fld (pack7_4_6_6_6_3 83#7 g d a k 2#3) 25 7).toNat = 0x53 := by simp
  show decodeWord (pack7_4_6_6_6_3 83#7 g d a k 2#3) = _
  refine decodeWord_of ?_ hw
  rw [decodeBits_op53 _ h25]
  simp
theorem stvD : ∀ g d a k, Statement (.stvD g d a k) := by
  intro g d a k hw en hh
  obtain rfl : Encoding.slot (pack7_4_6_6_6_3 83#7 g d a k 3#3) = en := Option.some.inj hh
  have h25 : (fld (pack7_4_6_6_6_3 83#7 g d a k 3#3) 25 7).toNat = 0x53 := by simp
  show decodeWord (pack7_4_6_6_6_3 83#7 g d a k 3#3) = _
  refine decodeWord_of ?_ hw
  rw [decodeBits_op53 _ h25]
  simp
theorem vldV : ∀ g d a k, Statement (.vldV g d a k) := by
  intro g d a k hw en hh
  obtain rfl : Encoding.slot (pack7_4_6_6_6_3 84#7 g d a k 0#3) = en := Option.some.inj hh
  have h25 : (fld (pack7_4_6_6_6_3 84#7 g d a k 0#3) 25 7).toNat = 0x54 := by simp
  show decodeWord (pack7_4_6_6_6_3 84#7 g d a k 0#3) = _
  refine decodeWord_of ?_ hw
  rw [decodeBits_op54 _ h25]
  simp
theorem vldBc : ∀ g d a k, Statement (.vldBc g d a k) := by
  intro g d a k hw en hh
  obtain rfl : Encoding.slot (pack7_4_6_6_6_3 84#7 g d a k 1#3) = en := Option.some.inj hh
  have h25 : (fld (pack7_4_6_6_6_3 84#7 g d a k 1#3) 25 7).toNat = 0x54 := by simp
  show decodeWord (pack7_4_6_6_6_3 84#7 g d a k 1#3) = _
  refine decodeWord_of ?_ hw
  rw [decodeBits_op54 _ h25]
  simp
theorem vldH : ∀ g d a k, Statement (.vldH g d a k) := by
  intro g d a k hw en hh
  obtain rfl : Encoding.slot (pack7_4_6_6_6_3 84#7 g d a k 2#3) = en := Option.some.inj hh
  have h25 : (fld (pack7_4_6_6_6_3 84#7 g d a k 2#3) 25 7).toNat = 0x54 := by simp
  show decodeWord (pack7_4_6_6_6_3 84#7 g d a k 2#3) = _
  refine decodeWord_of ?_ hw
  rw [decodeBits_op54 _ h25]
  simp
theorem vldvV : ∀ g d a k, Statement (.vldvV g d a k) := by
  intro g d a k hw en hh
  obtain rfl : Encoding.slot (pack7_4_6_6_6_3 85#7 g d a k 0#3) = en := Option.some.inj hh
  have h25 : (fld (pack7_4_6_6_6_3 85#7 g d a k 0#3) 25 7).toNat = 0x55 := by simp
  show decodeWord (pack7_4_6_6_6_3 85#7 g d a k 0#3) = _
  refine decodeWord_of ?_ hw
  rw [decodeBits_op55 _ h25]
  simp
theorem vldvBc : ∀ g d a k, Statement (.vldvBc g d a k) := by
  intro g d a k hw en hh
  obtain rfl : Encoding.slot (pack7_4_6_6_6_3 85#7 g d a k 1#3) = en := Option.some.inj hh
  have h25 : (fld (pack7_4_6_6_6_3 85#7 g d a k 1#3) 25 7).toNat = 0x55 := by simp
  show decodeWord (pack7_4_6_6_6_3 85#7 g d a k 1#3) = _
  refine decodeWord_of ?_ hw
  rw [decodeBits_op55 _ h25]
  simp
theorem vldvH : ∀ g d a k, Statement (.vldvH g d a k) := by
  intro g d a k hw en hh
  obtain rfl : Encoding.slot (pack7_4_6_6_6_3 85#7 g d a k 2#3) = en := Option.some.inj hh
  have h25 : (fld (pack7_4_6_6_6_3 85#7 g d a k 2#3) 25 7).toNat = 0x55 := by simp
  show decodeWord (pack7_4_6_6_6_3 85#7 g d a k 2#3) = _
  refine decodeWord_of ?_ hw
  rw [decodeBits_op55 _ h25]
  simp
theorem vstV : ∀ g d a k, Statement (.vstV g d a k) := by
  intro g d a k hw en hh
  obtain rfl : Encoding.slot (pack7_4_6_6_6_3 86#7 g d a k 0#3) = en := Option.some.inj hh
  have h25 : (fld (pack7_4_6_6_6_3 86#7 g d a k 0#3) 25 7).toNat = 0x56 := by simp
  show decodeWord (pack7_4_6_6_6_3 86#7 g d a k 0#3) = _
  refine decodeWord_of ?_ hw
  rw [decodeBits_op56 _ h25]
  simp
theorem vstH : ∀ g d a k, Statement (.vstH g d a k) := by
  intro g d a k hw en hh
  obtain rfl : Encoding.slot (pack7_4_6_6_6_3 86#7 g d a k 1#3) = en := Option.some.inj hh
  have h25 : (fld (pack7_4_6_6_6_3 86#7 g d a k 1#3) 25 7).toNat = 0x56 := by simp
  show decodeWord (pack7_4_6_6_6_3 86#7 g d a k 1#3) = _
  refine decodeWord_of ?_ hw
  rw [decodeBits_op56 _ h25]
  simp
theorem vstvV : ∀ g d a k, Statement (.vstvV g d a k) := by
  intro g d a k hw en hh
  obtain rfl : Encoding.slot (pack7_4_6_6_6_3 87#7 g d a k 0#3) = en := Option.some.inj hh
  have h25 : (fld (pack7_4_6_6_6_3 87#7 g d a k 0#3) 25 7).toNat = 0x57 := by simp
  show decodeWord (pack7_4_6_6_6_3 87#7 g d a k 0#3) = _
  refine decodeWord_of ?_ hw
  rw [decodeBits_op57 _ h25]
  simp
theorem vstvH : ∀ g d a k, Statement (.vstvH g d a k) := by
  intro g d a k hw en hh
  obtain rfl : Encoding.slot (pack7_4_6_6_6_3 87#7 g d a k 1#3) = en := Option.some.inj hh
  have h25 : (fld (pack7_4_6_6_6_3 87#7 g d a k 1#3) 25 7).toNat = 0x57 := by simp
  show decodeWord (pack7_4_6_6_6_3 87#7 g d a k 1#3) = _
  refine decodeWord_of ?_ hw
  rw [decodeBits_op57 _ h25]
  simp
theorem bgtMap : ∀ g n a, Statement (.bgtMap g n a) := by
  intro g n a hw en hh
  obtain rfl : Encoding.slot (pack7_4_6_6_9 88#7 g n a 0#9) = en := Option.some.inj hh
  have h25 : (fld (pack7_4_6_6_9 88#7 g n a 0#9) 25 7).toNat = 0x58 := by simp
  show decodeWord (pack7_4_6_6_9 88#7 g n a 0#9) = _
  refine decodeWord_of ?_ hw
  rw [decodeBits_op58 _ h25]
  simp
theorem bgtUnmap : ∀ g n, Statement (.bgtUnmap g n) := by
  intro g n hw en hh
  obtain rfl : Encoding.slot (pack7_4_6_15 88#7 g n 1#15) = en := Option.some.inj hh
  have h25 : (fld (pack7_4_6_15 88#7 g n 1#15) 25 7).toNat = 0x58 := by simp
  have f0 : ¬ fld (pack7_4_6_15 88#7 g n 1#15) 0 9 = 0#9 := by
    intro h; have h := congrArg BitVec.toNat h; simp only [fld, pack7_4_6_15, BitVec.toNat_ofNat] at h; have := g.isLt; have := n.isLt; omega
  show decodeWord (pack7_4_6_15 88#7 g n 1#15) = _
  refine decodeWord_of ?_ hw
  rw [decodeBits_op58 _ h25]
  simp [f0]
theorem bgtFlush : ∀ g n, Statement (.bgtFlush g n) := by
  intro g n hw en hh
  obtain rfl : Encoding.slot (pack7_4_6_15 88#7 g n 2#15) = en := Option.some.inj hh
  have h25 : (fld (pack7_4_6_15 88#7 g n 2#15) 25 7).toNat = 0x58 := by simp
  have f0 : ¬ fld (pack7_4_6_15 88#7 g n 2#15) 0 9 = 0#9 := by
    intro h; have h := congrArg BitVec.toNat h; simp only [fld, pack7_4_6_15, BitVec.toNat_ofNat] at h; have := g.isLt; have := n.isLt; omega
  show decodeWord (pack7_4_6_15 88#7 g n 2#15) = _
  refine decodeWord_of ?_ hw
  rw [decodeBits_op58 _ h25]
  simp [f0]
theorem bgtTouch : ∀ g n a b, Statement (.bgtTouch g n a b) := by
  intro g n a b hw en hh
  obtain rfl : Encoding.slot (pack7_4_6_6_6_3 88#7 g n a b 3#3) = en := Option.some.inj hh
  have h25 : (fld (pack7_4_6_6_6_3 88#7 g n a b 3#3) 25 7).toNat = 0x58 := by simp
  have f0 : ¬ fld (pack7_4_6_6_6_3 88#7 g n a b 3#3) 0 9 = 0#9 := by
    intro h; have h := congrArg BitVec.toNat h; simp only [fld, pack7_4_6_6_6_3, BitVec.toNat_ofNat] at h; have := g.isLt; have := n.isLt; have := a.isLt; have := b.isLt; omega
  have f1 : ¬ fld (pack7_4_6_6_6_3 88#7 g n a b 3#3) 0 15 = 1#15 := by
    intro h; have h := congrArg BitVec.toNat h; simp only [fld, pack7_4_6_6_6_3, BitVec.toNat_ofNat] at h; have := g.isLt; have := n.isLt; have := a.isLt; have := b.isLt; omega
  have f2 : ¬ fld (pack7_4_6_6_6_3 88#7 g n a b 3#3) 0 15 = 2#15 := by
    intro h; have h := congrArg BitVec.toNat h; simp only [fld, pack7_4_6_6_6_3, BitVec.toNat_ofNat] at h; have := g.isLt; have := n.isLt; have := a.isLt; have := b.isLt; omega
  show decodeWord (pack7_4_6_6_6_3 88#7 g n a b 3#3) = _
  refine decodeWord_of ?_ hw
  rw [decodeBits_op58 _ h25]
  simp [f0, f1, f2]
theorem bgtQuery : ∀ g n a, Statement (.bgtQuery g n a) := by
  intro g n a hw en hh
  obtain rfl : Encoding.slot (pack7_4_6_6_9 88#7 g n a 4#9) = en := Option.some.inj hh
  have h25 : (fld (pack7_4_6_6_9 88#7 g n a 4#9) 25 7).toNat = 0x58 := by simp
  have f0 : ¬ fld (pack7_4_6_6_9 88#7 g n a 4#9) 0 15 = 1#15 := by
    intro h; have h := congrArg BitVec.toNat h; simp only [fld, pack7_4_6_6_9, BitVec.toNat_ofNat] at h; have := g.isLt; have := n.isLt; have := a.isLt; omega
  have f1 : ¬ fld (pack7_4_6_6_9 88#7 g n a 4#9) 0 15 = 2#15 := by
    intro h; have h := congrArg BitVec.toNat h; simp only [fld, pack7_4_6_6_9, BitVec.toNat_ofNat] at h; have := g.isLt; have := n.isLt; have := a.isLt; omega
  have f2 : ¬ fld (pack7_4_6_6_9 88#7 g n a 4#9) 0 3 = 3#3 := by
    intro h; have h := congrArg BitVec.toNat h; simp only [fld, pack7_4_6_6_9, BitVec.toNat_ofNat] at h; have := g.isLt; have := n.isLt; have := a.isLt; omega
  show decodeWord (pack7_4_6_6_9 88#7 g n a 4#9) = _
  refine decodeWord_of ?_ hw
  rw [decodeBits_op58 _ h25]
  simp [f0, f1, f2]
theorem cpyG2s : ∀ g d a e, Statement (.cpyG2s g d a e) := by
  intro g d a e hw en hh
  obtain rfl : Encoding.slot (pack7_4_6_6_2_7 89#7 g d a e 0#7) = en := Option.some.inj hh
  have h25 : (fld (pack7_4_6_6_2_7 89#7 g d a e 0#7) 25 7).toNat = 0x59 := by simp
  show decodeWord (pack7_4_6_6_2_7 89#7 g d a e 0#7) = _
  refine decodeWord_of ?_ hw
  rw [decodeBits_op59 _ h25]
  simp
theorem cpyS2g : ∀ g d a e, Statement (.cpyS2g g d a e) := by
  intro g d a e hw en hh
  obtain rfl : Encoding.slot (pack7_4_6_6_2_7 89#7 g d a e 8#7) = en := Option.some.inj hh
  have h25 : (fld (pack7_4_6_6_2_7 89#7 g d a e 8#7) 25 7).toNat = 0x59 := by simp
  show decodeWord (pack7_4_6_6_2_7 89#7 g d a e 8#7) = _
  refine decodeWord_of ?_ hw
  rw [decodeBits_op59 _ h25]
  simp
theorem cpyS2s : ∀ g d a e, Statement (.cpyS2s g d a e) := by
  intro g d a e hw en hh
  obtain rfl : Encoding.slot (pack7_4_6_6_2_7 89#7 g d a e 16#7) = en := Option.some.inj hh
  have h25 : (fld (pack7_4_6_6_2_7 89#7 g d a e 16#7) 25 7).toNat = 0x59 := by simp
  show decodeWord (pack7_4_6_6_2_7 89#7 g d a e 16#7) = _
  refine decodeWord_of ?_ hw
  rw [decodeBits_op59 _ h25]
  simp
theorem cpyG2g : ∀ g d a e, Statement (.cpyG2g g d a e) := by
  intro g d a e hw en hh
  obtain rfl : Encoding.slot (pack7_4_6_6_2_7 89#7 g d a e 24#7) = en := Option.some.inj hh
  have h25 : (fld (pack7_4_6_6_2_7 89#7 g d a e 24#7) 25 7).toNat = 0x59 := by simp
  show decodeWord (pack7_4_6_6_2_7 89#7 g d a e 24#7) = _
  refine decodeWord_of ?_ hw
  rw [decodeBits_op59 _ h25]
  simp
theorem cpyGath : ∀ g d a e, Statement (.cpyGath g d a e) := by
  intro g d a e hw en hh
  obtain rfl : Encoding.slot (pack7_4_6_6_2_7 89#7 g d a e 32#7) = en := Option.some.inj hh
  have h25 : (fld (pack7_4_6_6_2_7 89#7 g d a e 32#7) 25 7).toNat = 0x59 := by simp
  show decodeWord (pack7_4_6_6_2_7 89#7 g d a e 32#7) = _
  refine decodeWord_of ?_ hw
  rw [decodeBits_op59 _ h25]
  simp
theorem cpyScat : ∀ g d a e, Statement (.cpyScat g d a e) := by
  intro g d a e hw en hh
  obtain rfl : Encoding.slot (pack7_4_6_6_2_7 89#7 g d a e 40#7) = en := Option.some.inj hh
  have h25 : (fld (pack7_4_6_6_2_7 89#7 g d a e 40#7) 25 7).toNat = 0x59 := by simp
  show decodeWord (pack7_4_6_6_2_7 89#7 g d a e 40#7) = _
  refine decodeWord_of ?_ hw
  rw [decodeBits_op59 _ h25]
  simp
theorem cpyMcast : ∀ g d a e, Statement (.cpyMcast g d a e) := by
  intro g d a e hw en hh
  obtain rfl : Encoding.slot (pack7_4_6_6_2_7 89#7 g d a e 48#7) = en := Option.some.inj hh
  have h25 : (fld (pack7_4_6_6_2_7 89#7 g d a e 48#7) 25 7).toNat = 0x59 := by simp
  show decodeWord (pack7_4_6_6_2_7 89#7 g d a e 48#7) = _
  refine decodeWord_of ?_ hw
  rw [decodeBits_op59 _ h25]
  simp
theorem cpyTr : ∀ g d a e, Statement (.cpyTr g d a e) := by
  intro g d a e hw en hh
  obtain rfl : Encoding.slot (pack7_4_6_6_2_7 89#7 g d a e 56#7) = en := Option.some.inj hh
  have h25 : (fld (pack7_4_6_6_2_7 89#7 g d a e 56#7) 25 7).toNat = 0x59 := by simp
  show decodeWord (pack7_4_6_6_2_7 89#7 g d a e 56#7) = _
  refine decodeWord_of ?_ hw
  rw [decodeBits_op59 _ h25]
  simp
theorem cqPop : ∀ g d e, Statement (.cqPop g d e) := by
  intro g d e hw en hh
  obtain rfl : Encoding.slot (pack7_4_6_6_2_7 90#7 g d 0#6 e 0#7) = en := Option.some.inj hh
  have h25 : (fld (pack7_4_6_6_2_7 90#7 g d 0#6 e 0#7) 25 7).toNat = 0x5A := by simp
  show decodeWord (pack7_4_6_6_2_7 90#7 g d 0#6 e 0#7) = _
  refine decodeWord_of ?_ hw
  rw [decodeBits_op5A _ h25]
  simp
theorem cqProg : ∀ g d a e, Statement (.cqProg g d a e) := by
  intro g d a e hw en hh
  obtain rfl : Encoding.slot (pack7_4_6_6_2_7 90#7 g d a e 1#7) = en := Option.some.inj hh
  have h25 : (fld (pack7_4_6_6_2_7 90#7 g d a e 1#7) 25 7).toNat = 0x5A := by simp
  show decodeWord (pack7_4_6_6_2_7 90#7 g d a e 1#7) = _
  refine decodeWord_of ?_ hw
  rw [decodeBits_op5A _ h25]
  simp
theorem cqCnt : ∀ g d e, Statement (.cqCnt g d e) := by
  intro g d e hw en hh
  obtain rfl : Encoding.slot (pack7_4_6_6_2_7 90#7 g d 0#6 e 2#7) = en := Option.some.inj hh
  have h25 : (fld (pack7_4_6_6_2_7 90#7 g d 0#6 e 2#7) 25 7).toNat = 0x5A := by simp
  show decodeWord (pack7_4_6_6_2_7 90#7 g d 0#6 e 2#7) = _
  refine decodeWord_of ?_ hw
  rw [decodeBits_op5A _ h25]
  simp
theorem hyStart : ∀ g a, Statement (.hyStart g a) := by
  intro g a hw en hh
  obtain rfl : Encoding.slot (pack7_4_6_6_9 91#7 g 0#6 a 0#9) = en := Option.some.inj hh
  have h25 : (fld (pack7_4_6_6_9 91#7 g 0#6 a 0#9) 25 7).toNat = 0x5B := by simp
  show decodeWord (pack7_4_6_6_9 91#7 g 0#6 a 0#9) = _
  refine decodeWord_of ?_ hw
  rw [decodeBits_op5B _ h25]
  simp
theorem hyStop : ∀ g, Statement (.hyStop g) := by
  intro g hw en hh
  obtain rfl : Encoding.slot (pack7_4_21 91#7 g 131072#21) = en := Option.some.inj hh
  have h25 : (fld (pack7_4_21 91#7 g 131072#21) 25 7).toNat = 0x5B := by simp
  have f0 : ¬ fld (pack7_4_21 91#7 g 131072#21) 15 6 = 0#6 := by
    intro h; have h := congrArg BitVec.toNat h; simp only [fld, pack7_4_21, BitVec.toNat_ofNat] at h; have := g.isLt; omega
  show decodeWord (pack7_4_21 91#7 g 131072#21) = _
  refine decodeWord_of ?_ hw
  rw [decodeBits_op5B _ h25]
  simp [f0]
theorem hyCred : ∀ g a, Statement (.hyCred g a) := by
  intro g a hw en hh
  obtain rfl : Encoding.slot (pack7_4_6_6_9 91#7 g 8#6 a 0#9) = en := Option.some.inj hh
  have h25 : (fld (pack7_4_6_6_9 91#7 g 8#6 a 0#9) 25 7).toNat = 0x5B := by simp
  have f0 : ¬ fld (pack7_4_6_6_9 91#7 g 8#6 a 0#9) 0 21 = 131072#21 := by
    intro h; have h := congrArg BitVec.toNat h; simp only [fld, pack7_4_6_6_9, BitVec.toNat_ofNat] at h; have := g.isLt; have := a.isLt; omega
  show decodeWord (pack7_4_6_6_9 91#7 g 8#6 a 0#9) = _
  refine decodeWord_of ?_ hw
  rw [decodeBits_op5B _ h25]
  simp [f0]
theorem hyBase : ∀ g a, Statement (.hyBase g a) := by
  intro g a hw en hh
  obtain rfl : Encoding.slot (pack7_4_6_6_9 91#7 g 12#6 a 0#9) = en := Option.some.inj hh
  have h25 : (fld (pack7_4_6_6_9 91#7 g 12#6 a 0#9) 25 7).toNat = 0x5B := by simp
  have f0 : ¬ fld (pack7_4_6_6_9 91#7 g 12#6 a 0#9) 0 21 = 131072#21 := by
    intro h; have h := congrArg BitVec.toNat h; simp only [fld, pack7_4_6_6_9, BitVec.toNat_ofNat] at h; have := g.isLt; have := a.isLt; omega
  show decodeWord (pack7_4_6_6_9 91#7 g 12#6 a 0#9) = _
  refine decodeWord_of ?_ hw
  rw [decodeBits_op5B _ h25]
  simp [f0]
theorem hyClr : ∀ g, Statement (.hyClr g) := by
  intro g hw en hh
  obtain rfl : Encoding.slot (pack7_4_21 91#7 g 524288#21) = en := Option.some.inj hh
  have h25 : (fld (pack7_4_21 91#7 g 524288#21) 25 7).toNat = 0x5B := by simp
  have f0 : ¬ fld (pack7_4_21 91#7 g 524288#21) 15 6 = 0#6 := by
    intro h; have h := congrArg BitVec.toNat h; simp only [fld, pack7_4_21, BitVec.toNat_ofNat] at h; have := g.isLt; omega
  have f1 : ¬ fld (pack7_4_21 91#7 g 524288#21) 15 6 = 8#6 := by
    intro h; have h := congrArg BitVec.toNat h; simp only [fld, pack7_4_21, BitVec.toNat_ofNat] at h; have := g.isLt; omega
  have f2 : ¬ fld (pack7_4_21 91#7 g 524288#21) 15 6 = 12#6 := by
    intro h; have h := congrArg BitVec.toNat h; simp only [fld, pack7_4_21, BitVec.toNat_ofNat] at h; have := g.isLt; omega
  show decodeWord (pack7_4_21 91#7 g 524288#21) = _
  refine decodeWord_of ?_ hw
  rw [decodeBits_op5B _ h25]
  simp [f0, f1, f2]
theorem hyPop : ∀ g a, Statement (.hyPop g a) := by
  intro g a hw en hh
  obtain rfl : Encoding.slot (pack7_4_6_6_9 91#7 g 20#6 a 0#9) = en := Option.some.inj hh
  have h25 : (fld (pack7_4_6_6_9 91#7 g 20#6 a 0#9) 25 7).toNat = 0x5B := by simp
  have f0 : ¬ fld (pack7_4_6_6_9 91#7 g 20#6 a 0#9) 0 21 = 131072#21 := by
    intro h; have h := congrArg BitVec.toNat h; simp only [fld, pack7_4_6_6_9, BitVec.toNat_ofNat] at h; have := g.isLt; have := a.isLt; omega
  have f1 : ¬ fld (pack7_4_6_6_9 91#7 g 20#6 a 0#9) 0 21 = 524288#21 := by
    intro h; have h := congrArg BitVec.toNat h; simp only [fld, pack7_4_6_6_9, BitVec.toNat_ofNat] at h; have := g.isLt; have := a.isLt; omega
  show decodeWord (pack7_4_6_6_9 91#7 g 20#6 a 0#9) = _
  refine decodeWord_of ?_ hw
  rw [decodeBits_op5B _ h25]
  simp [f0, f1]
theorem hyStat : ∀ g a, Statement (.hyStat g a) := by
  intro g a hw en hh
  obtain rfl : Encoding.slot (pack7_4_6_6_9 91#7 g 24#6 a 0#9) = en := Option.some.inj hh
  have h25 : (fld (pack7_4_6_6_9 91#7 g 24#6 a 0#9) 25 7).toNat = 0x5B := by simp
  have f0 : ¬ fld (pack7_4_6_6_9 91#7 g 24#6 a 0#9) 0 21 = 131072#21 := by
    intro h; have h := congrArg BitVec.toNat h; simp only [fld, pack7_4_6_6_9, BitVec.toNat_ofNat] at h; have := g.isLt; have := a.isLt; omega
  have f1 : ¬ fld (pack7_4_6_6_9 91#7 g 24#6 a 0#9) 0 21 = 524288#21 := by
    intro h; have h := congrArg BitVec.toNat h; simp only [fld, pack7_4_6_6_9, BitVec.toNat_ofNat] at h; have := g.isLt; have := a.isLt; omega
  show decodeWord (pack7_4_6_6_9 91#7 g 24#6 a 0#9) = _
  refine decodeWord_of ?_ hw
  rw [decodeBits_op5B _ h25]
  simp [f0, f1]
theorem hyProg : ∀ g a, Statement (.hyProg g a) := by
  intro g a hw en hh
  obtain rfl : Encoding.slot (pack7_4_6_6_9 91#7 g 28#6 a 0#9) = en := Option.some.inj hh
  have h25 : (fld (pack7_4_6_6_9 91#7 g 28#6 a 0#9) 25 7).toNat = 0x5B := by simp
  have f0 : ¬ fld (pack7_4_6_6_9 91#7 g 28#6 a 0#9) 0 21 = 131072#21 := by
    intro h; have h := congrArg BitVec.toNat h; simp only [fld, pack7_4_6_6_9, BitVec.toNat_ofNat] at h; have := g.isLt; have := a.isLt; omega
  have f1 : ¬ fld (pack7_4_6_6_9 91#7 g 28#6 a 0#9) 0 21 = 524288#21 := by
    intro h; have h := congrArg BitVec.toNat h; simp only [fld, pack7_4_6_6_9, BitVec.toNat_ofNat] at h; have := g.isLt; have := a.isLt; omega
  show decodeWord (pack7_4_6_6_9 91#7 g 28#6 a 0#9) = _
  refine decodeWord_of ?_ hw
  rw [decodeBits_op5B _ h25]
  simp [f0, f1]
theorem hyRdc : ∀ g a, Statement (.hyRdc g a) := by
  intro g a hw en hh
  obtain rfl : Encoding.slot (pack7_4_6_6_9 91#7 g 32#6 a 0#9) = en := Option.some.inj hh
  have h25 : (fld (pack7_4_6_6_9 91#7 g 32#6 a 0#9) 25 7).toNat = 0x5B := by simp
  have f0 : ¬ fld (pack7_4_6_6_9 91#7 g 32#6 a 0#9) 0 21 = 131072#21 := by
    intro h; have h := congrArg BitVec.toNat h; simp only [fld, pack7_4_6_6_9, BitVec.toNat_ofNat] at h; have := g.isLt; have := a.isLt; omega
  have f1 : ¬ fld (pack7_4_6_6_9 91#7 g 32#6 a 0#9) 0 21 = 524288#21 := by
    intro h; have h := congrArg BitVec.toNat h; simp only [fld, pack7_4_6_6_9, BitVec.toNat_ofNat] at h; have := g.isLt; have := a.isLt; omega
  show decodeWord (pack7_4_6_6_9 91#7 g 32#6 a 0#9) = _
  refine decodeWord_of ?_ hw
  rw [decodeBits_op5B _ h25]
  simp [f0, f1]
theorem hyDrop : ∀ g, Statement (.hyDrop g) := by
  intro g hw en hh
  obtain rfl : Encoding.slot (pack7_4_21 91#7 g 1179648#21) = en := Option.some.inj hh
  have h25 : (fld (pack7_4_21 91#7 g 1179648#21) 25 7).toNat = 0x5B := by simp
  have f0 : ¬ fld (pack7_4_21 91#7 g 1179648#21) 15 6 = 0#6 := by
    intro h; have h := congrArg BitVec.toNat h; simp only [fld, pack7_4_21, BitVec.toNat_ofNat] at h; have := g.isLt; omega
  have f1 : ¬ fld (pack7_4_21 91#7 g 1179648#21) 15 6 = 8#6 := by
    intro h; have h := congrArg BitVec.toNat h; simp only [fld, pack7_4_21, BitVec.toNat_ofNat] at h; have := g.isLt; omega
  have f2 : ¬ fld (pack7_4_21 91#7 g 1179648#21) 15 6 = 12#6 := by
    intro h; have h := congrArg BitVec.toNat h; simp only [fld, pack7_4_21, BitVec.toNat_ofNat] at h; have := g.isLt; omega
  have f3 : ¬ fld (pack7_4_21 91#7 g 1179648#21) 15 6 = 20#6 := by
    intro h; have h := congrArg BitVec.toNat h; simp only [fld, pack7_4_21, BitVec.toNat_ofNat] at h; have := g.isLt; omega
  have f4 : ¬ fld (pack7_4_21 91#7 g 1179648#21) 15 6 = 24#6 := by
    intro h; have h := congrArg BitVec.toNat h; simp only [fld, pack7_4_21, BitVec.toNat_ofNat] at h; have := g.isLt; omega
  have f5 : ¬ fld (pack7_4_21 91#7 g 1179648#21) 15 6 = 28#6 := by
    intro h; have h := congrArg BitVec.toNat h; simp only [fld, pack7_4_21, BitVec.toNat_ofNat] at h; have := g.isLt; omega
  have f6 : ¬ fld (pack7_4_21 91#7 g 1179648#21) 15 6 = 32#6 := by
    intro h; have h := congrArg BitVec.toNat h; simp only [fld, pack7_4_21, BitVec.toNat_ofNat] at h; have := g.isLt; omega
  show decodeWord (pack7_4_21 91#7 g 1179648#21) = _
  refine decodeWord_of ?_ hw
  rw [decodeBits_op5B _ h25]
  simp [f0, f1, f2, f3, f4, f5, f6]
theorem lsend : ∀ g l v a, Statement (.lsend g l v a) := by
  intro g l v a hw en hh
  obtain rfl : Encoding.slot (pack7_4_3_2_6_10 92#7 g l v a 0#10) = en := Option.some.inj hh
  have h25 : (fld (pack7_4_3_2_6_10 92#7 g l v a 0#10) 25 7).toNat = 0x5C := by simp
  show decodeWord (pack7_4_3_2_6_10 92#7 g l v a 0#10) = _
  refine decodeWord_of ?_ hw
  rw [decodeBits_op5C _ h25]
  simp
theorem lrecv : ∀ g l v a, Statement (.lrecv g l v a) := by
  intro g l v a hw en hh
  obtain rfl : Encoding.slot (pack7_4_3_2_6_10 93#7 g l v a 0#10) = en := Option.some.inj hh
  have h25 : (fld (pack7_4_3_2_6_10 93#7 g l v a 0#10) 25 7).toNat = 0x5D := by simp
  show decodeWord (pack7_4_3_2_6_10 93#7 g l v a 0#10) = _
  refine decodeWord_of ?_ hw
  rw [decodeBits_op5D _ h25]
  simp
theorem amoAddW : ∀ g d a b, Statement (.amoAddW g d a b) := by
  intro g d a b hw en hh
  obtain rfl : Encoding.slot (pack7_4_6_6_6_3 94#7 g d a b 0#3) = en := Option.some.inj hh
  have h25 : (fld (pack7_4_6_6_6_3 94#7 g d a b 0#3) 25 7).toNat = 0x5E := by simp
  show decodeWord (pack7_4_6_6_6_3 94#7 g d a b 0#3) = _
  refine decodeWord_of ?_ hw
  rw [decodeBits_op5E _ h25]
  simp
theorem amoAndW : ∀ g d a b, Statement (.amoAndW g d a b) := by
  intro g d a b hw en hh
  obtain rfl : Encoding.slot (pack7_4_6_6_6_3 94#7 g d a b 1#3) = en := Option.some.inj hh
  have h25 : (fld (pack7_4_6_6_6_3 94#7 g d a b 1#3) 25 7).toNat = 0x5E := by simp
  show decodeWord (pack7_4_6_6_6_3 94#7 g d a b 1#3) = _
  refine decodeWord_of ?_ hw
  rw [decodeBits_op5E _ h25]
  simp
theorem amoOrW : ∀ g d a b, Statement (.amoOrW g d a b) := by
  intro g d a b hw en hh
  obtain rfl : Encoding.slot (pack7_4_6_6_6_3 94#7 g d a b 2#3) = en := Option.some.inj hh
  have h25 : (fld (pack7_4_6_6_6_3 94#7 g d a b 2#3) 25 7).toNat = 0x5E := by simp
  show decodeWord (pack7_4_6_6_6_3 94#7 g d a b 2#3) = _
  refine decodeWord_of ?_ hw
  rw [decodeBits_op5E _ h25]
  simp
theorem amoXorW : ∀ g d a b, Statement (.amoXorW g d a b) := by
  intro g d a b hw en hh
  obtain rfl : Encoding.slot (pack7_4_6_6_6_3 94#7 g d a b 3#3) = en := Option.some.inj hh
  have h25 : (fld (pack7_4_6_6_6_3 94#7 g d a b 3#3) 25 7).toNat = 0x5E := by simp
  show decodeWord (pack7_4_6_6_6_3 94#7 g d a b 3#3) = _
  refine decodeWord_of ?_ hw
  rw [decodeBits_op5E _ h25]
  simp
theorem amoMinW : ∀ g d a b, Statement (.amoMinW g d a b) := by
  intro g d a b hw en hh
  obtain rfl : Encoding.slot (pack7_4_6_6_6_3 94#7 g d a b 4#3) = en := Option.some.inj hh
  have h25 : (fld (pack7_4_6_6_6_3 94#7 g d a b 4#3) 25 7).toNat = 0x5E := by simp
  show decodeWord (pack7_4_6_6_6_3 94#7 g d a b 4#3) = _
  refine decodeWord_of ?_ hw
  rw [decodeBits_op5E _ h25]
  simp
theorem amoMaxW : ∀ g d a b, Statement (.amoMaxW g d a b) := by
  intro g d a b hw en hh
  obtain rfl : Encoding.slot (pack7_4_6_6_6_3 94#7 g d a b 5#3) = en := Option.some.inj hh
  have h25 : (fld (pack7_4_6_6_6_3 94#7 g d a b 5#3) 25 7).toNat = 0x5E := by simp
  show decodeWord (pack7_4_6_6_6_3 94#7 g d a b 5#3) = _
  refine decodeWord_of ?_ hw
  rw [decodeBits_op5E _ h25]
  simp
theorem amoMinuW : ∀ g d a b, Statement (.amoMinuW g d a b) := by
  intro g d a b hw en hh
  obtain rfl : Encoding.slot (pack7_4_6_6_6_3 94#7 g d a b 6#3) = en := Option.some.inj hh
  have h25 : (fld (pack7_4_6_6_6_3 94#7 g d a b 6#3) 25 7).toNat = 0x5E := by simp
  show decodeWord (pack7_4_6_6_6_3 94#7 g d a b 6#3) = _
  refine decodeWord_of ?_ hw
  rw [decodeBits_op5E _ h25]
  simp
theorem amoMaxuW : ∀ g d a b, Statement (.amoMaxuW g d a b) := by
  intro g d a b hw en hh
  obtain rfl : Encoding.slot (pack7_4_6_6_6_3 94#7 g d a b 7#3) = en := Option.some.inj hh
  have h25 : (fld (pack7_4_6_6_6_3 94#7 g d a b 7#3) 25 7).toNat = 0x5E := by simp
  show decodeWord (pack7_4_6_6_6_3 94#7 g d a b 7#3) = _
  refine decodeWord_of ?_ hw
  rw [decodeBits_op5E _ h25]
  simp
theorem amoAddD : ∀ g d a b, Statement (.amoAddD g d a b) := by
  intro g d a b hw en hh
  obtain rfl : Encoding.slot (pack7_4_6_6_6_3 95#7 g d a b 0#3) = en := Option.some.inj hh
  have h25 : (fld (pack7_4_6_6_6_3 95#7 g d a b 0#3) 25 7).toNat = 0x5F := by simp
  show decodeWord (pack7_4_6_6_6_3 95#7 g d a b 0#3) = _
  refine decodeWord_of ?_ hw
  rw [decodeBits_op5F _ h25]
  simp
theorem amoAndD : ∀ g d a b, Statement (.amoAndD g d a b) := by
  intro g d a b hw en hh
  obtain rfl : Encoding.slot (pack7_4_6_6_6_3 95#7 g d a b 1#3) = en := Option.some.inj hh
  have h25 : (fld (pack7_4_6_6_6_3 95#7 g d a b 1#3) 25 7).toNat = 0x5F := by simp
  show decodeWord (pack7_4_6_6_6_3 95#7 g d a b 1#3) = _
  refine decodeWord_of ?_ hw
  rw [decodeBits_op5F _ h25]
  simp
theorem amoOrD : ∀ g d a b, Statement (.amoOrD g d a b) := by
  intro g d a b hw en hh
  obtain rfl : Encoding.slot (pack7_4_6_6_6_3 95#7 g d a b 2#3) = en := Option.some.inj hh
  have h25 : (fld (pack7_4_6_6_6_3 95#7 g d a b 2#3) 25 7).toNat = 0x5F := by simp
  show decodeWord (pack7_4_6_6_6_3 95#7 g d a b 2#3) = _
  refine decodeWord_of ?_ hw
  rw [decodeBits_op5F _ h25]
  simp
theorem amoXorD : ∀ g d a b, Statement (.amoXorD g d a b) := by
  intro g d a b hw en hh
  obtain rfl : Encoding.slot (pack7_4_6_6_6_3 95#7 g d a b 3#3) = en := Option.some.inj hh
  have h25 : (fld (pack7_4_6_6_6_3 95#7 g d a b 3#3) 25 7).toNat = 0x5F := by simp
  show decodeWord (pack7_4_6_6_6_3 95#7 g d a b 3#3) = _
  refine decodeWord_of ?_ hw
  rw [decodeBits_op5F _ h25]
  simp
theorem amoMinD : ∀ g d a b, Statement (.amoMinD g d a b) := by
  intro g d a b hw en hh
  obtain rfl : Encoding.slot (pack7_4_6_6_6_3 95#7 g d a b 4#3) = en := Option.some.inj hh
  have h25 : (fld (pack7_4_6_6_6_3 95#7 g d a b 4#3) 25 7).toNat = 0x5F := by simp
  show decodeWord (pack7_4_6_6_6_3 95#7 g d a b 4#3) = _
  refine decodeWord_of ?_ hw
  rw [decodeBits_op5F _ h25]
  simp
theorem amoMaxD : ∀ g d a b, Statement (.amoMaxD g d a b) := by
  intro g d a b hw en hh
  obtain rfl : Encoding.slot (pack7_4_6_6_6_3 95#7 g d a b 5#3) = en := Option.some.inj hh
  have h25 : (fld (pack7_4_6_6_6_3 95#7 g d a b 5#3) 25 7).toNat = 0x5F := by simp
  show decodeWord (pack7_4_6_6_6_3 95#7 g d a b 5#3) = _
  refine decodeWord_of ?_ hw
  rw [decodeBits_op5F _ h25]
  simp
theorem amoMinuD : ∀ g d a b, Statement (.amoMinuD g d a b) := by
  intro g d a b hw en hh
  obtain rfl : Encoding.slot (pack7_4_6_6_6_3 95#7 g d a b 6#3) = en := Option.some.inj hh
  have h25 : (fld (pack7_4_6_6_6_3 95#7 g d a b 6#3) 25 7).toNat = 0x5F := by simp
  show decodeWord (pack7_4_6_6_6_3 95#7 g d a b 6#3) = _
  refine decodeWord_of ?_ hw
  rw [decodeBits_op5F _ h25]
  simp
theorem amoMaxuD : ∀ g d a b, Statement (.amoMaxuD g d a b) := by
  intro g d a b hw en hh
  obtain rfl : Encoding.slot (pack7_4_6_6_6_3 95#7 g d a b 7#3) = en := Option.some.inj hh
  have h25 : (fld (pack7_4_6_6_6_3 95#7 g d a b 7#3) 25 7).toNat = 0x5F := by simp
  show decodeWord (pack7_4_6_6_6_3 95#7 g d a b 7#3) = _
  refine decodeWord_of ?_ hw
  rw [decodeBits_op5F _ h25]
  simp
theorem amoxSwapW : ∀ g d a b, Statement (.amoxSwapW g d a b) := by
  intro g d a b hw en hh
  obtain rfl : Encoding.slot (pack7_4_6_6_6_3 96#7 g d a b 0#3) = en := Option.some.inj hh
  have h25 : (fld (pack7_4_6_6_6_3 96#7 g d a b 0#3) 25 7).toNat = 0x60 := by simp
  show decodeWord (pack7_4_6_6_6_3 96#7 g d a b 0#3) = _
  refine decodeWord_of ?_ hw
  rw [decodeBits_op60 _ h25]
  simp
theorem amoxSwapD : ∀ g d a b, Statement (.amoxSwapD g d a b) := by
  intro g d a b hw en hh
  obtain rfl : Encoding.slot (pack7_4_6_6_6_3 96#7 g d a b 1#3) = en := Option.some.inj hh
  have h25 : (fld (pack7_4_6_6_6_3 96#7 g d a b 1#3) 25 7).toNat = 0x60 := by simp
  show decodeWord (pack7_4_6_6_6_3 96#7 g d a b 1#3) = _
  refine decodeWord_of ?_ hw
  rw [decodeBits_op60 _ h25]
  simp
theorem amoxCasW : ∀ g d a b, Statement (.amoxCasW g d a b) := by
  intro g d a b hw en hh
  obtain rfl : Encoding.slot (pack7_4_6_6_6_3 96#7 g d a b 2#3) = en := Option.some.inj hh
  have h25 : (fld (pack7_4_6_6_6_3 96#7 g d a b 2#3) 25 7).toNat = 0x60 := by simp
  show decodeWord (pack7_4_6_6_6_3 96#7 g d a b 2#3) = _
  refine decodeWord_of ?_ hw
  rw [decodeBits_op60 _ h25]
  simp
theorem amoxCasD : ∀ g d a b, Statement (.amoxCasD g d a b) := by
  intro g d a b hw en hh
  obtain rfl : Encoding.slot (pack7_4_6_6_6_3 96#7 g d a b 3#3) = en := Option.some.inj hh
  have h25 : (fld (pack7_4_6_6_6_3 96#7 g d a b 3#3) 25 7).toNat = 0x60 := by simp
  show decodeWord (pack7_4_6_6_6_3 96#7 g d a b 3#3) = _
  refine decodeWord_of ?_ hw
  rw [decodeBits_op60 _ h25]
  simp
theorem amoxFaddF32 : ∀ g d a b, Statement (.amoxFaddF32 g d a b) := by
  intro g d a b hw en hh
  obtain rfl : Encoding.slot (pack7_4_6_6_6_3 96#7 g d a b 4#3) = en := Option.some.inj hh
  have h25 : (fld (pack7_4_6_6_6_3 96#7 g d a b 4#3) 25 7).toNat = 0x60 := by simp
  show decodeWord (pack7_4_6_6_6_3 96#7 g d a b 4#3) = _
  refine decodeWord_of ?_ hw
  rw [decodeBits_op60 _ h25]
  simp
theorem redAddW : ∀ g a b, Statement (.redAddW g a b) := by
  intro g a b hw en hh
  obtain rfl : Encoding.slot (pack7_4_6_6_6_3 97#7 g 0#6 a b 0#3) = en := Option.some.inj hh
  have h25 : (fld (pack7_4_6_6_6_3 97#7 g 0#6 a b 0#3) 25 7).toNat = 0x61 := by simp
  show decodeWord (pack7_4_6_6_6_3 97#7 g 0#6 a b 0#3) = _
  refine decodeWord_of ?_ hw
  rw [decodeBits_op61 _ h25]
  simp
theorem redAddD : ∀ g a b, Statement (.redAddD g a b) := by
  intro g a b hw en hh
  obtain rfl : Encoding.slot (pack7_4_6_6_6_3 97#7 g 0#6 a b 1#3) = en := Option.some.inj hh
  have h25 : (fld (pack7_4_6_6_6_3 97#7 g 0#6 a b 1#3) 25 7).toNat = 0x61 := by simp
  show decodeWord (pack7_4_6_6_6_3 97#7 g 0#6 a b 1#3) = _
  refine decodeWord_of ?_ hw
  rw [decodeBits_op61 _ h25]
  simp
theorem redMinW : ∀ g a b, Statement (.redMinW g a b) := by
  intro g a b hw en hh
  obtain rfl : Encoding.slot (pack7_4_6_6_6_3 97#7 g 0#6 a b 2#3) = en := Option.some.inj hh
  have h25 : (fld (pack7_4_6_6_6_3 97#7 g 0#6 a b 2#3) 25 7).toNat = 0x61 := by simp
  show decodeWord (pack7_4_6_6_6_3 97#7 g 0#6 a b 2#3) = _
  refine decodeWord_of ?_ hw
  rw [decodeBits_op61 _ h25]
  simp
theorem redMaxW : ∀ g a b, Statement (.redMaxW g a b) := by
  intro g a b hw en hh
  obtain rfl : Encoding.slot (pack7_4_6_6_6_3 97#7 g 0#6 a b 3#3) = en := Option.some.inj hh
  have h25 : (fld (pack7_4_6_6_6_3 97#7 g 0#6 a b 3#3) 25 7).toNat = 0x61 := by simp
  show decodeWord (pack7_4_6_6_6_3 97#7 g 0#6 a b 3#3) = _
  refine decodeWord_of ?_ hw
  rw [decodeBits_op61 _ h25]
  simp
theorem redMinuW : ∀ g a b, Statement (.redMinuW g a b) := by
  intro g a b hw en hh
  obtain rfl : Encoding.slot (pack7_4_6_6_6_3 97#7 g 0#6 a b 4#3) = en := Option.some.inj hh
  have h25 : (fld (pack7_4_6_6_6_3 97#7 g 0#6 a b 4#3) 25 7).toNat = 0x61 := by simp
  show decodeWord (pack7_4_6_6_6_3 97#7 g 0#6 a b 4#3) = _
  refine decodeWord_of ?_ hw
  rw [decodeBits_op61 _ h25]
  simp
theorem redMaxuW : ∀ g a b, Statement (.redMaxuW g a b) := by
  intro g a b hw en hh
  obtain rfl : Encoding.slot (pack7_4_6_6_6_3 97#7 g 0#6 a b 5#3) = en := Option.some.inj hh
  have h25 : (fld (pack7_4_6_6_6_3 97#7 g 0#6 a b 5#3) 25 7).toNat = 0x61 := by simp
  show decodeWord (pack7_4_6_6_6_3 97#7 g 0#6 a b 5#3) = _
  refine decodeWord_of ?_ hw
  rw [decodeBits_op61 _ h25]
  simp
theorem redFaddF32 : ∀ g a b, Statement (.redFaddF32 g a b) := by
  intro g a b hw en hh
  obtain rfl : Encoding.slot (pack7_4_6_6_6_3 97#7 g 0#6 a b 6#3) = en := Option.some.inj hh
  have h25 : (fld (pack7_4_6_6_6_3 97#7 g 0#6 a b 6#3) 25 7).toNat = 0x61 := by simp
  show decodeWord (pack7_4_6_6_6_3 97#7 g 0#6 a b 6#3) = _
  refine decodeWord_of ?_ hw
  rw [decodeBits_op61 _ h25]
  simp
theorem redOrD : ∀ g a b, Statement (.redOrD g a b) := by
  intro g a b hw en hh
  obtain rfl : Encoding.slot (pack7_4_6_6_6_3 97#7 g 0#6 a b 7#3) = en := Option.some.inj hh
  have h25 : (fld (pack7_4_6_6_6_3 97#7 g 0#6 a b 7#3) 25 7).toNat = 0x61 := by simp
  show decodeWord (pack7_4_6_6_6_3 97#7 g 0#6 a b 7#3) = _
  refine decodeWord_of ?_ hw
  rw [decodeBits_op61 _ h25]
  simp
theorem scLdW : ∀ g d a, Statement (.scLdW g d a) := by
  intro g d a hw en hh
  obtain rfl : Encoding.slot (pack7_4_6_6_9 98#7 g d a 0#9) = en := Option.some.inj hh
  have h25 : (fld (pack7_4_6_6_9 98#7 g d a 0#9) 25 7).toNat = 0x62 := by simp
  show decodeWord (pack7_4_6_6_9 98#7 g d a 0#9) = _
  refine decodeWord_of ?_ hw
  rw [decodeBits_op62 _ h25]
  simp
theorem scLdD : ∀ g d a, Statement (.scLdD g d a) := by
  intro g d a hw en hh
  obtain rfl : Encoding.slot (pack7_4_6_6_9 98#7 g d a 1#9) = en := Option.some.inj hh
  have h25 : (fld (pack7_4_6_6_9 98#7 g d a 1#9) 25 7).toNat = 0x62 := by simp
  show decodeWord (pack7_4_6_6_9 98#7 g d a 1#9) = _
  refine decodeWord_of ?_ hw
  rw [decodeBits_op62 _ h25]
  simp
theorem scStW : ∀ g a b, Statement (.scStW g a b) := by
  intro g a b hw en hh
  obtain rfl : Encoding.slot (pack7_4_6_6_6_3 98#7 g 0#6 a b 2#3) = en := Option.some.inj hh
  have h25 : (fld (pack7_4_6_6_6_3 98#7 g 0#6 a b 2#3) 25 7).toNat = 0x62 := by simp
  have f0 : ¬ fld (pack7_4_6_6_6_3 98#7 g 0#6 a b 2#3) 0 9 = 0#9 := by
    intro h; have h := congrArg BitVec.toNat h; simp only [fld, pack7_4_6_6_6_3, BitVec.toNat_ofNat] at h; have := g.isLt; have := a.isLt; have := b.isLt; omega
  have f1 : ¬ fld (pack7_4_6_6_6_3 98#7 g 0#6 a b 2#3) 0 9 = 1#9 := by
    intro h; have h := congrArg BitVec.toNat h; simp only [fld, pack7_4_6_6_6_3, BitVec.toNat_ofNat] at h; have := g.isLt; have := a.isLt; have := b.isLt; omega
  show decodeWord (pack7_4_6_6_6_3 98#7 g 0#6 a b 2#3) = _
  refine decodeWord_of ?_ hw
  rw [decodeBits_op62 _ h25]
  simp [f0, f1]
theorem scStD : ∀ g a b, Statement (.scStD g a b) := by
  intro g a b hw en hh
  obtain rfl : Encoding.slot (pack7_4_6_6_6_3 98#7 g 0#6 a b 3#3) = en := Option.some.inj hh
  have h25 : (fld (pack7_4_6_6_6_3 98#7 g 0#6 a b 3#3) 25 7).toNat = 0x62 := by simp
  have f0 : ¬ fld (pack7_4_6_6_6_3 98#7 g 0#6 a b 3#3) 0 9 = 0#9 := by
    intro h; have h := congrArg BitVec.toNat h; simp only [fld, pack7_4_6_6_6_3, BitVec.toNat_ofNat] at h; have := g.isLt; have := a.isLt; have := b.isLt; omega
  have f1 : ¬ fld (pack7_4_6_6_6_3 98#7 g 0#6 a b 3#3) 0 9 = 1#9 := by
    intro h; have h := congrArg BitVec.toNat h; simp only [fld, pack7_4_6_6_6_3, BitVec.toNat_ofNat] at h; have := g.isLt; have := a.isLt; have := b.isLt; omega
  show decodeWord (pack7_4_6_6_6_3 98#7 g 0#6 a b 3#3) = _
  refine decodeWord_of ?_ hw
  rw [decodeBits_op62 _ h25]
  simp [f0, f1]
theorem scSwapW : ∀ g d a b, Statement (.scSwapW g d a b) := by
  intro g d a b hw en hh
  obtain rfl : Encoding.slot (pack7_4_6_6_6_3 98#7 g d a b 4#3) = en := Option.some.inj hh
  have h25 : (fld (pack7_4_6_6_6_3 98#7 g d a b 4#3) 25 7).toNat = 0x62 := by simp
  have f0 : ¬ fld (pack7_4_6_6_6_3 98#7 g d a b 4#3) 0 9 = 0#9 := by
    intro h; have h := congrArg BitVec.toNat h; simp only [fld, pack7_4_6_6_6_3, BitVec.toNat_ofNat] at h; have := g.isLt; have := d.isLt; have := a.isLt; have := b.isLt; omega
  have f1 : ¬ fld (pack7_4_6_6_6_3 98#7 g d a b 4#3) 0 9 = 1#9 := by
    intro h; have h := congrArg BitVec.toNat h; simp only [fld, pack7_4_6_6_6_3, BitVec.toNat_ofNat] at h; have := g.isLt; have := d.isLt; have := a.isLt; have := b.isLt; omega
  show decodeWord (pack7_4_6_6_6_3 98#7 g d a b 4#3) = _
  refine decodeWord_of ?_ hw
  rw [decodeBits_op62 _ h25]
  simp [f0, f1]
theorem scSwapD : ∀ g d a b, Statement (.scSwapD g d a b) := by
  intro g d a b hw en hh
  obtain rfl : Encoding.slot (pack7_4_6_6_6_3 98#7 g d a b 5#3) = en := Option.some.inj hh
  have h25 : (fld (pack7_4_6_6_6_3 98#7 g d a b 5#3) 25 7).toNat = 0x62 := by simp
  have f0 : ¬ fld (pack7_4_6_6_6_3 98#7 g d a b 5#3) 0 9 = 0#9 := by
    intro h; have h := congrArg BitVec.toNat h; simp only [fld, pack7_4_6_6_6_3, BitVec.toNat_ofNat] at h; have := g.isLt; have := d.isLt; have := a.isLt; have := b.isLt; omega
  have f1 : ¬ fld (pack7_4_6_6_6_3 98#7 g d a b 5#3) 0 9 = 1#9 := by
    intro h; have h := congrArg BitVec.toNat h; simp only [fld, pack7_4_6_6_6_3, BitVec.toNat_ofNat] at h; have := g.isLt; have := d.isLt; have := a.isLt; have := b.isLt; omega
  show decodeWord (pack7_4_6_6_6_3 98#7 g d a b 5#3) = _
  refine decodeWord_of ?_ hw
  rw [decodeBits_op62 _ h25]
  simp [f0, f1]
theorem scAddD : ∀ g d a b, Statement (.scAddD g d a b) := by
  intro g d a b hw en hh
  obtain rfl : Encoding.slot (pack7_4_6_6_6_3 98#7 g d a b 6#3) = en := Option.some.inj hh
  have h25 : (fld (pack7_4_6_6_6_3 98#7 g d a b 6#3) 25 7).toNat = 0x62 := by simp
  have f0 : ¬ fld (pack7_4_6_6_6_3 98#7 g d a b 6#3) 0 9 = 0#9 := by
    intro h; have h := congrArg BitVec.toNat h; simp only [fld, pack7_4_6_6_6_3, BitVec.toNat_ofNat] at h; have := g.isLt; have := d.isLt; have := a.isLt; have := b.isLt; omega
  have f1 : ¬ fld (pack7_4_6_6_6_3 98#7 g d a b 6#3) 0 9 = 1#9 := by
    intro h; have h := congrArg BitVec.toNat h; simp only [fld, pack7_4_6_6_6_3, BitVec.toNat_ofNat] at h; have := g.isLt; have := d.isLt; have := a.isLt; have := b.isLt; omega
  show decodeWord (pack7_4_6_6_6_3 98#7 g d a b 6#3) = _
  refine decodeWord_of ?_ hw
  rw [decodeBits_op62 _ h25]
  simp [f0, f1]
theorem scCasD : ∀ g d a b, Statement (.scCasD g d a b) := by
  intro g d a b hw en hh
  obtain rfl : Encoding.slot (pack7_4_6_6_6_3 98#7 g d a b 7#3) = en := Option.some.inj hh
  have h25 : (fld (pack7_4_6_6_6_3 98#7 g d a b 7#3) 25 7).toNat = 0x62 := by simp
  have f0 : ¬ fld (pack7_4_6_6_6_3 98#7 g d a b 7#3) 0 9 = 0#9 := by
    intro h; have h := congrArg BitVec.toNat h; simp only [fld, pack7_4_6_6_6_3, BitVec.toNat_ofNat] at h; have := g.isLt; have := d.isLt; have := a.isLt; have := b.isLt; omega
  have f1 : ¬ fld (pack7_4_6_6_6_3 98#7 g d a b 7#3) 0 9 = 1#9 := by
    intro h; have h := congrArg BitVec.toNat h; simp only [fld, pack7_4_6_6_6_3, BitVec.toNat_ofNat] at h; have := g.isLt; have := d.isLt; have := a.isLt; have := b.isLt; omega
  show decodeWord (pack7_4_6_6_6_3 98#7 g d a b 7#3) = _
  refine decodeWord_of ?_ hw
  rw [decodeBits_op62 _ h25]
  simp [f0, f1]
theorem drainBraid : ∀ g, Statement (.drainBraid g) := by
  intro g hw en hh
  obtain rfl : Encoding.slot (pack7_4_21 99#7 g 0#21) = en := Option.some.inj hh
  have h25 : (fld (pack7_4_21 99#7 g 0#21) 25 7).toNat = 0x63 := by simp
  show decodeWord (pack7_4_21 99#7 g 0#21) = _
  refine decodeWord_of ?_ hw
  rw [decodeBits_op63 _ h25]
  simp
theorem drainDie : ∀ g, Statement (.drainDie g) := by
  intro g hw en hh
  obtain rfl : Encoding.slot (pack7_4_21 99#7 g 1#21) = en := Option.some.inj hh
  have h25 : (fld (pack7_4_21 99#7 g 1#21) 25 7).toNat = 0x63 := by simp
  show decodeWord (pack7_4_21 99#7 g 1#21) = _
  refine decodeWord_of ?_ hw
  rw [decodeBits_op63 _ h25]
  simp
theorem drainDev : ∀ g, Statement (.drainDev g) := by
  intro g hw en hh
  obtain rfl : Encoding.slot (pack7_4_21 99#7 g 2#21) = en := Option.some.inj hh
  have h25 : (fld (pack7_4_21 99#7 g 2#21) 25 7).toNat = 0x63 := by simp
  show decodeWord (pack7_4_21 99#7 g 2#21) = _
  refine decodeWord_of ?_ hw
  rw [decodeBits_op63 _ h25]
  simp
theorem drainSys : ∀ g, Statement (.drainSys g) := by
  intro g hw en hh
  obtain rfl : Encoding.slot (pack7_4_21 99#7 g 3#21) = en := Option.some.inj hh
  have h25 : (fld (pack7_4_21 99#7 g 3#21) 25 7).toNat = 0x63 := by simp
  show decodeWord (pack7_4_21 99#7 g 3#21) = _
  refine decodeWord_of ?_ hw
  rw [decodeBits_op63 _ h25]
  simp
theorem splCall : ∀ g d a b, Statement (.splCall g d a b) := by
  intro g d a b hw en hh
  obtain rfl : Encoding.slot (pack7_4_6_6_6_3 100#7 g d a b 0#3) = en := Option.some.inj hh
  have h25 : (fld (pack7_4_6_6_6_3 100#7 g d a b 0#3) 25 7).toNat = 0x64 := by simp
  show decodeWord (pack7_4_6_6_6_3 100#7 g d a b 0#3) = _
  refine decodeWord_of ?_ hw
  rw [decodeBits_op64 _ h25]
  simp
theorem splCalln : ∀ g d a b, Statement (.splCalln g d a b) := by
  intro g d a b hw en hh
  obtain rfl : Encoding.slot (pack7_4_6_6_6_3 100#7 g d a b 1#3) = en := Option.some.inj hh
  have h25 : (fld (pack7_4_6_6_6_3 100#7 g d a b 1#3) 25 7).toNat = 0x64 := by simp
  show decodeWord (pack7_4_6_6_6_3 100#7 g d a b 1#3) = _
  refine decodeWord_of ?_ hw
  rw [decodeBits_op64 _ h25]
  simp
theorem splInst : ∀ g d a, Statement (.splInst g d a) := by
  intro g d a hw en hh
  obtain rfl : Encoding.slot (pack7_4_6_6_9 100#7 g d a 2#9) = en := Option.some.inj hh
  have h25 : (fld (pack7_4_6_6_9 100#7 g d a 2#9) 25 7).toNat = 0x64 := by simp
  have f0 : ¬ fld (pack7_4_6_6_9 100#7 g d a 2#9) 0 3 = 0#3 := by
    intro h; have h := congrArg BitVec.toNat h; simp only [fld, pack7_4_6_6_9, BitVec.toNat_ofNat] at h; have := g.isLt; have := d.isLt; have := a.isLt; omega
  have f1 : ¬ fld (pack7_4_6_6_9 100#7 g d a 2#9) 0 3 = 1#3 := by
    intro h; have h := congrArg BitVec.toNat h; simp only [fld, pack7_4_6_6_9, BitVec.toNat_ofNat] at h; have := g.isLt; have := d.isLt; have := a.isLt; omega
  show decodeWord (pack7_4_6_6_9 100#7 g d a 2#9) = _
  refine decodeWord_of ?_ hw
  rw [decodeBits_op64 _ h25]
  simp [f0, f1]
theorem splRm : ∀ g d, Statement (.splRm g d) := by
  intro g d hw en hh
  obtain rfl : Encoding.slot (pack7_4_6_15 100#7 g d 3#15) = en := Option.some.inj hh
  have h25 : (fld (pack7_4_6_15 100#7 g d 3#15) 25 7).toNat = 0x64 := by simp
  have f0 : ¬ fld (pack7_4_6_15 100#7 g d 3#15) 0 3 = 0#3 := by
    intro h; have h := congrArg BitVec.toNat h; simp only [fld, pack7_4_6_15, BitVec.toNat_ofNat] at h; have := g.isLt; have := d.isLt; omega
  have f1 : ¬ fld (pack7_4_6_15 100#7 g d 3#15) 0 3 = 1#3 := by
    intro h; have h := congrArg BitVec.toNat h; simp only [fld, pack7_4_6_15, BitVec.toNat_ofNat] at h; have := g.isLt; have := d.isLt; omega
  have f2 : ¬ fld (pack7_4_6_15 100#7 g d 3#15) 0 9 = 2#9 := by
    intro h; have h := congrArg BitVec.toNat h; simp only [fld, pack7_4_6_15, BitVec.toNat_ofNat] at h; have := g.isLt; have := d.isLt; omega
  show decodeWord (pack7_4_6_15 100#7 g d 3#15) = _
  refine decodeWord_of ?_ hw
  rw [decodeBits_op64 _ h25]
  simp [f0, f1, f2]
theorem knotAdd : ∀ g a b, Statement (.knotAdd g a b) := by
  intro g a b hw en hh
  obtain rfl : Encoding.slot (pack7_4_6_6_6_3 101#7 g 0#6 a b 0#3) = en := Option.some.inj hh
  have h25 : (fld (pack7_4_6_6_6_3 101#7 g 0#6 a b 0#3) 25 7).toNat = 0x65 := by simp
  show decodeWord (pack7_4_6_6_6_3 101#7 g 0#6 a b 0#3) = _
  refine decodeWord_of ?_ hw
  rw [decodeBits_op65 _ h25]
  simp
theorem knotRd : ∀ g d a, Statement (.knotRd g d a) := by
  intro g d a hw en hh
  obtain rfl : Encoding.slot (pack7_4_6_6_9 101#7 g d a 1#9) = en := Option.some.inj hh
  have h25 : (fld (pack7_4_6_6_9 101#7 g d a 1#9) 25 7).toNat = 0x65 := by simp
  have f0 : ¬ fld (pack7_4_6_6_9 101#7 g d a 1#9) 0 3 = 0#3 := by
    intro h; have h := congrArg BitVec.toNat h; simp only [fld, pack7_4_6_6_9, BitVec.toNat_ofNat] at h; have := g.isLt; have := d.isLt; have := a.isLt; omega
  show decodeWord (pack7_4_6_6_9 101#7 g d a 1#9) = _
  refine decodeWord_of ?_ hw
  rw [decodeBits_op65 _ h25]
  simp [f0]
theorem knotMax : ∀ g d a b, Statement (.knotMax g d a b) := by
  intro g d a b hw en hh
  obtain rfl : Encoding.slot (pack7_4_6_6_6_3 101#7 g d a b 2#3) = en := Option.some.inj hh
  have h25 : (fld (pack7_4_6_6_6_3 101#7 g d a b 2#3) 25 7).toNat = 0x65 := by simp
  have f0 : ¬ fld (pack7_4_6_6_6_3 101#7 g d a b 2#3) 0 9 = 1#9 := by
    intro h; have h := congrArg BitVec.toNat h; simp only [fld, pack7_4_6_6_6_3, BitVec.toNat_ofNat] at h; have := g.isLt; have := d.isLt; have := a.isLt; have := b.isLt; omega
  show decodeWord (pack7_4_6_6_6_3 101#7 g d a b 2#3) = _
  refine decodeWord_of ?_ hw
  rw [decodeBits_op65 _ h25]
  simp [f0]
theorem knotSwap : ∀ g d a b, Statement (.knotSwap g d a b) := by
  intro g d a b hw en hh
  obtain rfl : Encoding.slot (pack7_4_6_6_6_3 101#7 g d a b 3#3) = en := Option.some.inj hh
  have h25 : (fld (pack7_4_6_6_6_3 101#7 g d a b 3#3) 25 7).toNat = 0x65 := by simp
  have f0 : ¬ fld (pack7_4_6_6_6_3 101#7 g d a b 3#3) 0 9 = 1#9 := by
    intro h; have h := congrArg BitVec.toNat h; simp only [fld, pack7_4_6_6_6_3, BitVec.toNat_ofNat] at h; have := g.isLt; have := d.isLt; have := a.isLt; have := b.isLt; omega
  show decodeWord (pack7_4_6_6_6_3 101#7 g d a b 3#3) = _
  refine decodeWord_of ?_ hw
  rw [decodeBits_op65 _ h25]
  simp [f0]
theorem nrgQ : ∀ g d s, Statement (.nrgQ g d s) := by
  intro g d s hw en hh
  obtain rfl : Encoding.slot (pack7_4_6_8_7 102#7 g d s 0#7) = en := Option.some.inj hh
  have h25 : (fld (pack7_4_6_8_7 102#7 g d s 0#7) 25 7).toNat = 0x66 := by simp
  show decodeWord (pack7_4_6_8_7 102#7 g d s 0#7) = _
  refine decodeWord_of ?_ hw
  rw [decodeBits_op66 _ h25]
  simp
theorem nrgVreg : ∀ g a b, Statement (.nrgVreg g a b) := by
  intro g a b hw en hh
  obtain rfl : Encoding.slot (pack7_4_6_6_6_3 102#7 g 0#6 a b 1#3) = en := Option.some.inj hh
  have h25 : (fld (pack7_4_6_6_6_3 102#7 g 0#6 a b 1#3) 25 7).toNat = 0x66 := by simp
  have f0 : ¬ fld (pack7_4_6_6_6_3 102#7 g 0#6 a b 1#3) 0 7 = 0#7 := by
    intro h; have h := congrArg BitVec.toNat h; simp only [fld, pack7_4_6_6_6_3, BitVec.toNat_ofNat] at h; have := g.isLt; have := a.isLt; have := b.isLt; omega
  show decodeWord (pack7_4_6_6_6_3 102#7 g 0#6 a b 1#3) = _
  refine decodeWord_of ?_ hw
  rw [decodeBits_op66 _ h25]
  simp [f0]
theorem nrgVsw : ∀ g a, Statement (.nrgVsw g a) := by
  intro g a hw en hh
  obtain rfl : Encoding.slot (pack7_4_6_6_9 102#7 g 0#6 a 2#9) = en := Option.some.inj hh
  have h25 : (fld (pack7_4_6_6_9 102#7 g 0#6 a 2#9) 25 7).toNat = 0x66 := by simp
  have f0 : ¬ fld (pack7_4_6_6_9 102#7 g 0#6 a 2#9) 0 7 = 0#7 := by
    intro h; have h := congrArg BitVec.toNat h; simp only [fld, pack7_4_6_6_9, BitVec.toNat_ofNat] at h; have := g.isLt; have := a.isLt; omega
  have f1 : ¬ fld (pack7_4_6_6_9 102#7 g 0#6 a 2#9) 0 3 = 1#3 := by
    intro h; have h := congrArg BitVec.toNat h; simp only [fld, pack7_4_6_6_9, BitVec.toNat_ofNat] at h; have := g.isLt; have := a.isLt; omega
  show decodeWord (pack7_4_6_6_9 102#7 g 0#6 a 2#9) = _
  refine decodeWord_of ?_ hw
  rw [decodeBits_op66 _ h25]
  simp [f0, f1]
theorem cend : ∀ g, Statement (.cend g) := by
  intro g hw en hh
  obtain rfl : Encoding.slot (pack7_4_21 103#7 g 0#21) = en := Option.some.inj hh
  have h25 : (fld (pack7_4_21 103#7 g 0#21) 25 7).toNat = 0x67 := by simp
  show decodeWord (pack7_4_21 103#7 g 0#21) = _
  refine decodeWord_of ?_ hw
  rw [decodeBits_op67 _ h25]
  simp
theorem trap : ∀ g c, Statement (.trap g c) := by
  intro g c hw en hh
  obtain rfl : Encoding.slot (pack7_4_6_12_3 103#7 g 0#6 c 1#3) = en := Option.some.inj hh
  have h25 : (fld (pack7_4_6_12_3 103#7 g 0#6 c 1#3) 25 7).toNat = 0x67 := by simp
  have f0 : ¬ fld (pack7_4_6_12_3 103#7 g 0#6 c 1#3) 0 21 = 0#21 := by
    intro h; have h := congrArg BitVec.toNat h; simp only [fld, pack7_4_6_12_3, BitVec.toNat_ofNat] at h; have := g.isLt; have := c.isLt; omega
  show decodeWord (pack7_4_6_12_3 103#7 g 0#6 c 1#3) = _
  refine decodeWord_of ?_ hw
  rw [decodeBits_op67 _ h25]
  simp [f0]
theorem rtu : ∀ g, Statement (.rtu g) := by
  intro g hw en hh
  obtain rfl : Encoding.slot (pack7_4_21 103#7 g 2#21) = en := Option.some.inj hh
  have h25 : (fld (pack7_4_21 103#7 g 2#21) 25 7).toNat = 0x67 := by simp
  have f0 : ¬ fld (pack7_4_21 103#7 g 2#21) 0 3 = 1#3 := by
    intro h; have h := congrArg BitVec.toNat h; simp only [fld, pack7_4_21, BitVec.toNat_ofNat] at h; have := g.isLt; omega
  show decodeWord (pack7_4_21 103#7 g 2#21) = _
  refine decodeWord_of ?_ hw
  rw [decodeBits_op67 _ h25]
  simp [f0]
theorem bkpt : ∀ g, Statement (.bkpt g) := by
  intro g hw en hh
  obtain rfl : Encoding.slot (pack7_4_21 103#7 g 3#21) = en := Option.some.inj hh
  have h25 : (fld (pack7_4_21 103#7 g 3#21) 25 7).toNat = 0x67 := by simp
  have f0 : ¬ fld (pack7_4_21 103#7 g 3#21) 0 3 = 1#3 := by
    intro h; have h := congrArg BitVec.toNat h; simp only [fld, pack7_4_21, BitVec.toNat_ofNat] at h; have := g.isLt; omega
  show decodeWord (pack7_4_21 103#7 g 3#21) = _
  refine decodeWord_of ?_ hw
  rw [decodeBits_op67 _ h25]
  simp [f0]
theorem pin : ∀ g d a, Statement (.pin g d a) := by
  intro g d a hw en hh
  obtain rfl : Encoding.slot (pack7_4_6_6_9 104#7 g d a 0#9) = en := Option.some.inj hh
  have h25 : (fld (pack7_4_6_6_9 104#7 g d a 0#9) 25 7).toNat = 0x68 := by simp
  show decodeWord (pack7_4_6_6_9 104#7 g d a 0#9) = _
  refine decodeWord_of ?_ hw
  rw [decodeBits_op68 _ h25]
  simp
theorem unpin : ∀ g d a, Statement (.unpin g d a) := by
  intro g d a hw en hh
  obtain rfl : Encoding.slot (pack7_4_6_6_9 104#7 g d a 1#9) = en := Option.some.inj hh
  have h25 : (fld (pack7_4_6_6_9 104#7 g d a 1#9) 25 7).toNat = 0x68 := by simp
  show decodeWord (pack7_4_6_6_9 104#7 g d a 1#9) = _
  refine decodeWord_of ?_ hw
  rw [decodeBits_op68 _ h25]
  simp
theorem dbgMark : ∀ g a, Statement (.dbgMark g a) := by
  intro g a hw en hh
  obtain rfl : Encoding.slot (pack7_4_6_6_9 105#7 g 0#6 a 0#9) = en := Option.some.inj hh
  have h25 : (fld (pack7_4_6_6_9 105#7 g 0#6 a 0#9) 25 7).toNat = 0x69 := by simp
  show decodeWord (pack7_4_6_6_9 105#7 g 0#6 a 0#9) = _
  refine decodeWord_of ?_ hw
  rw [decodeBits_op69 _ h25]
  simp
theorem dbgBrk : ∀ g, Statement (.dbgBrk g) := by
  intro g hw en hh
  obtain rfl : Encoding.slot (pack7_4_21 105#7 g 1#21) = en := Option.some.inj hh
  have h25 : (fld (pack7_4_21 105#7 g 1#21) 25 7).toNat = 0x69 := by simp
  have f0 : ¬ fld (pack7_4_21 105#7 g 1#21) 0 9 = 0#9 := by
    intro h; have h := congrArg BitVec.toNat h; simp only [fld, pack7_4_21, BitVec.toNat_ofNat] at h; have := g.isLt; omega
  show decodeWord (pack7_4_21 105#7 g 1#21) = _
  refine decodeWord_of ?_ hw
  rw [decodeBits_op69 _ h25]
  simp [f0]
theorem barBraid : ∀ g a, Statement (.barBraid g a) := by
  intro g a hw en hh
  obtain rfl : Encoding.slot (pack7_4_6_6_9 106#7 g 0#6 a 0#9) = en := Option.some.inj hh
  have h25 : (fld (pack7_4_6_6_9 106#7 g 0#6 a 0#9) 25 7).toNat = 0x6A := by simp
  show decodeWord (pack7_4_6_6_9 106#7 g 0#6 a 0#9) = _
  refine decodeWord_of ?_ hw
  rw [decodeBits_op6A _ h25]
  simp
theorem routineEnd : Statement (.routineEnd) := by
  intro _ en hh
  obtain rfl : Encoding.routine (packR4_60 0#4 0#60) = en := Option.some.inj hh
  simp [decodeEncoding, decodeRoutine]
theorem routineNop : Statement (.routineNop) := by
  intro _ en hh
  obtain rfl : Encoding.routine (packR4_60 1#4 0#60) = en := Option.some.inj hh
  simp [decodeEncoding, decodeRoutine]
theorem ldb : ∀ bank fsel mb, Statement (.ldb bank fsel mb) := by
  intro bank fsel mb _ en hh
  obtain rfl : Encoding.routine (packR4_1_5_3_51 2#4 bank fsel mb 0#51) = en := Option.some.inj hh
  simp [decodeEncoding, decodeRoutine]
theorem pass : ∀ t row0 nrm1 bank ma, Statement (.pass t row0 nrm1 bank ma) := by
  intro t row0 nrm1 bank ma _ en hh
  obtain rfl : Encoding.routine (packR4_3_5_5_1_3_43 3#4 t row0 nrm1 bank ma 0#43) = en := Option.some.inj hh
  simp [decodeEncoding, decodeRoutine]
theorem passw : ∀ t row0 nrm1 bank ma, Statement (.passw t row0 nrm1 bank ma) := by
  intro t row0 nrm1 bank ma _ en hh
  obtain rfl : Encoding.routine (packR4_3_5_5_1_3_43 4#4 t row0 nrm1 bank ma 0#43) = en := Option.some.inj hh
  simp [decodeEncoding, decodeRoutine]
theorem setp : ∀ md imm, Statement (.setp md imm) := by
  intro md imm _ en hh
  obtain rfl : Encoding.routine (packR4_3_57 5#4 md imm) = en := Option.some.inj hh
  simp [decodeEncoding, decodeRoutine]
theorem addp : ∀ md imm, Statement (.addp md imm) := by
  intro md imm _ en hh
  obtain rfl : Encoding.routine (packR4_3_57 6#4 md imm) = en := Option.some.inj hh
  simp [decodeEncoding, decodeRoutine]
theorem setc : ∀ c n, Statement (.setc c n) := by
  intro c n _ en hh
  obtain rfl : Encoding.routine (packR4_1_46_13 7#4 c 0#46 n) = en := Option.some.inj hh
  simp [decodeEncoding, decodeRoutine]
theorem loop : ∀ c back, Statement (.loop c back) := by
  intro c back _ en hh
  obtain rfl : Encoding.routine (packR4_1_50_9 8#4 c 0#50 back) = en := Option.some.inj hh
  simp [decodeEncoding, decodeRoutine]
theorem skipz : ∀ mr fwd, Statement (.skipz mr fwd) := by
  intro mr fwd _ en hh
  obtain rfl : Encoding.routine (packR4_3_48_9 9#4 mr 0#48 fwd) = en := Option.some.inj hh
  simp [decodeEncoding, decodeRoutine]
theorem zero : ∀ t row0 nrm1, Statement (.zero t row0 nrm1) := by
  intro t row0 nrm1 _ en hh
  obtain rfl : Encoding.routine (packR4_3_5_5_47 10#4 t row0 nrm1 0#47) = en := Option.some.inj hh
  simp [decodeEncoding, decodeRoutine]
theorem bias : ∀ t row0 nrm1 ma, Statement (.bias t row0 nrm1 ma) := by
  intro t row0 nrm1 ma _ en hh
  obtain rfl : Encoding.routine (packR4_3_5_5_1_3_43 11#4 t row0 nrm1 0#1 ma 0#43) = en := Option.some.inj hh
  simp [decodeEncoding, decodeRoutine]
theorem scale : ∀ t row0 nrm1 e, Statement (.scale t row0 nrm1 e) := by
  intro t row0 nrm1 e _ en hh
  obtain rfl : Encoding.routine (packR4_3_5_5_1_9_37 12#4 t row0 nrm1 0#1 e 0#37) = en := Option.some.inj hh
  simp [decodeEncoding, decodeRoutine]
theorem routineCopy : ∀ t row0 nrm1 src srow0, Statement (.routineCopy t row0 nrm1 src srow0) := by
  intro t row0 nrm1 src srow0 _ en hh
  obtain rfl : Encoding.routine (packR4_3_5_5_3_5_39 13#4 t row0 nrm1 src srow0 0#39) = en := Option.some.inj hh
  simp [decodeEncoding, decodeRoutine]
theorem addt : ∀ t row0 nrm1 src srow0, Statement (.addt t row0 nrm1 src srow0) := by
  intro t row0 nrm1 src srow0 _ en hh
  obtain rfl : Encoding.routine (packR4_3_5_5_3_5_39 14#4 t row0 nrm1 src srow0 0#39) = en := Option.some.inj hh
  simp [decodeEncoding, decodeRoutine]
theorem maxz : ∀ t row0 nrm1, Statement (.maxz t row0 nrm1) := by
  intro t row0 nrm1 _ en hh
  obtain rfl : Encoding.routine (packR4_3_5_5_47 15#4 t row0 nrm1 0#47) = en := Option.some.inj hh
  simp [decodeEncoding, decodeRoutine]
theorem resultLanding : ∀ x0, Statement (.resultLanding x0) := by
  intro x0 _ e h; exact nomatch (show (Option.none : Option Encoding) = some e from h)
theorem loadDataArrival : ∀ x0 x1, Statement (.loadDataArrival x0 x1) := by
  intro x0 x1 _ e h; exact nomatch (show (Option.none : Option Encoding) = some e from h)
theorem stallClear : ∀ x0, Statement (.stallClear x0) := by
  intro x0 _ e h; exact nomatch (show (Option.none : Option Encoding) = some e from h)
theorem bound : ∀ x0, Statement (.bound x0) := by
  intro x0 _ e h; exact nomatch (show (Option.none : Option Encoding) = some e from h)
theorem deferredTrap : ∀ x0, Statement (.deferredTrap x0) := by
  intro x0 _ e h; exact nomatch (show (Option.none : Option Encoding) = some e from h)
theorem userTrapEntry : ∀ x0, Statement (.userTrapEntry x0) := by
  intro x0 _ e h; exact nomatch (show (Option.none : Option Encoding) = some e from h)
theorem contextEnded : ∀ x0, Statement (.contextEnded x0) := by
  intro x0 _ e h; exact nomatch (show (Option.none : Option Encoding) = some e from h)
theorem barrierArrival : ∀ x0, Statement (.barrierArrival x0) := by
  intro x0 _ e h; exact nomatch (show (Option.none : Option Encoding) = some e from h)
theorem scOrderPoint : ∀ x0, Statement (.scOrderPoint x0) := by
  intro x0 _ e h; exact nomatch (show (Option.none : Option Encoding) = some e from h)
theorem homeAtomicExecute : ∀ x0, Statement (.homeAtomicExecute x0) := by
  intro x0 _ e h; exact nomatch (show (Option.none : Option Encoding) = some e from h)
theorem spliceExecute : ∀ x0, Statement (.spliceExecute x0) := by
  intro x0 _ e h; exact nomatch (show (Option.none : Option Encoding) = some e from h)
theorem globalWritePerform : ∀ x0, Statement (.globalWritePerform x0) := by
  intro x0 _ e h; exact nomatch (show (Option.none : Option Encoding) = some e from h)
theorem fillComplete : ∀ x0, Statement (.fillComplete x0) := by
  intro x0 _ e h; exact nomatch (show (Option.none : Option Encoding) = some e from h)
theorem dirRecall : ∀ x0, Statement (.dirRecall x0) := by
  intro x0 _ e h; exact nomatch (show (Option.none : Option Encoding) = some e from h)
theorem ownershipRecall : ∀ x0, Statement (.ownershipRecall x0) := by
  intro x0 _ e h; exact nomatch (show (Option.none : Option Encoding) = some e from h)
theorem hostSnoop : ∀ x0 x1, Statement (.hostSnoop x0 x1) := by
  intro x0 x1 _ e h; exact nomatch (show (Option.none : Option Encoding) = some e from h)
theorem hostMemWrite : ∀ x0 x1, Statement (.hostMemWrite x0 x1) := by
  intro x0 x1 _ e h; exact nomatch (show (Option.none : Option Encoding) = some e from h)
theorem hostMemRead : ∀ x0 x1, Statement (.hostMemRead x0 x1) := by
  intro x0 x1 _ e h; exact nomatch (show (Option.none : Option Encoding) = some e from h)
theorem leaseTick : Statement (.leaseTick) := by
  intro _ e h; exact nomatch (show (Option.none : Option Encoding) = some e from h)
theorem rebaseSweep : Statement (.rebaseSweep) := by
  intro _ e h; exact nomatch (show (Option.none : Option Encoding) = some e from h)
theorem ropeEnable : ∀ x0, Statement (.ropeEnable x0) := by
  intro x0 _ e h; exact nomatch (show (Option.none : Option Encoding) = some e from h)
theorem ropeDisable : ∀ x0, Statement (.ropeDisable x0) := by
  intro x0 _ e h; exact nomatch (show (Option.none : Option Encoding) = some e from h)
theorem headWrite : ∀ x0 x1, Statement (.headWrite x0 x1) := by
  intro x0 x1 _ e h; exact nomatch (show (Option.none : Option Encoding) = some e from h)
theorem descriptorWriteObserved : ∀ x0, Statement (.descriptorWriteObserved x0) := by
  intro x0 _ e h; exact nomatch (show (Option.none : Option Encoding) = some e from h)
theorem nextWordObserved : ∀ x0, Statement (.nextWordObserved x0) := by
  intro x0 _ e h; exact nomatch (show (Option.none : Option Encoding) = some e from h)
theorem recordFetch : ∀ x0, Statement (.recordFetch x0) := by
  intro x0 _ e h; exact nomatch (show (Option.none : Option Encoding) = some e from h)
theorem knotWriteObserved : ∀ x0, Statement (.knotWriteObserved x0) := by
  intro x0 _ e h; exact nomatch (show (Option.none : Option Encoding) = some e from h)
theorem dispatchChoice : Statement (.dispatchChoice) := by
  intro _ e h; exact nomatch (show (Option.none : Option Encoding) = some e from h)
theorem teamArmed : ∀ x0 x1, Statement (.teamArmed x0 x1) := by
  intro x0 x1 _ e h; exact nomatch (show (Option.none : Option Encoding) = some e from h)
theorem launchFailure : ∀ x0 x1, Statement (.launchFailure x0 x1) := by
  intro x0 x1 _ e h; exact nomatch (show (Option.none : Option Encoding) = some e from h)
theorem taskRetire : ∀ x0, Statement (.taskRetire x0) := by
  intro x0 _ e h; exact nomatch (show (Option.none : Option Encoding) = some e from h)
theorem variantSwitch : ∀ x0, Statement (.variantSwitch x0) := by
  intro x0 _ e h; exact nomatch (show (Option.none : Option Encoding) = some e from h)
theorem matrixCommandStart : ∀ x0, Statement (.matrixCommandStart x0) := by
  intro x0 _ e h; exact nomatch (show (Option.none : Option Encoding) = some e from h)
theorem mftExecute : ∀ x0, Statement (.mftExecute x0) := by
  intro x0 _ e h; exact nomatch (show (Option.none : Option Encoding) = some e from h)
theorem mzeroExecute : ∀ x0, Statement (.mzeroExecute x0) := by
  intro x0 _ e h; exact nomatch (show (Option.none : Option Encoding) = some e from h)
theorem mmovExecute : ∀ x0, Statement (.mmovExecute x0) := by
  intro x0 _ e h; exact nomatch (show (Option.none : Option Encoding) = some e from h)
theorem ldbLoadComplete : ∀ x0 x1, Statement (.ldbLoadComplete x0 x1) := by
  intro x0 x1 _ e h; exact nomatch (show (Option.none : Option Encoding) = some e from h)
theorem callEnd : ∀ x0, Statement (.callEnd x0) := by
  intro x0 _ e h; exact nomatch (show (Option.none : Option Encoding) = some e from h)
theorem vaccTileRead : ∀ x0 x1, Statement (.vaccTileRead x0 x1) := by
  intro x0 x1 _ e h; exact nomatch (show (Option.none : Option Encoding) = some e from h)
theorem copyCommandStart : ∀ x0 x1, Statement (.copyCommandStart x0 x1) := by
  intro x0 x1 _ e h; exact nomatch (show (Option.none : Option Encoding) = some e from h)
theorem copyCommandEnd : ∀ x0 x1, Statement (.copyCommandEnd x0 x1) := by
  intro x0 x1 _ e h; exact nomatch (show (Option.none : Option Encoding) = some e from h)
theorem copyCommandPark : ∀ x0 x1, Statement (.copyCommandPark x0 x1) := by
  intro x0 x1 _ e h; exact nomatch (show (Option.none : Option Encoding) = some e from h)
theorem copyCommandResume : ∀ x0 x1, Statement (.copyCommandResume x0 x1) := by
  intro x0 x1 _ e h; exact nomatch (show (Option.none : Option Encoding) = some e from h)
theorem copyHold : ∀ x0, Statement (.copyHold x0) := by
  intro x0 _ e h; exact nomatch (show (Option.none : Option Encoding) = some e from h)
theorem copyHoldRelease : ∀ x0, Statement (.copyHoldRelease x0) := by
  intro x0 _ e h; exact nomatch (show (Option.none : Option Encoding) = some e from h)
theorem memoryDebit : ∀ x0 x1, Statement (.memoryDebit x0 x1) := by
  intro x0 x1 _ e h; exact nomatch (show (Option.none : Option Encoding) = some e from h)
theorem halyardBlockBegin : ∀ x0, Statement (.halyardBlockBegin x0) := by
  intro x0 _ e h; exact nomatch (show (Option.none : Option Encoding) = some e from h)
theorem halyardPush : ∀ x0, Statement (.halyardPush x0) := by
  intro x0 _ e h; exact nomatch (show (Option.none : Option Encoding) = some e from h)
theorem halyardCompletion : ∀ x0, Statement (.halyardCompletion x0) := by
  intro x0 _ e h; exact nomatch (show (Option.none : Option Encoding) = some e from h)
theorem halyardFault : ∀ x0, Statement (.halyardFault x0) := by
  intro x0 _ e h; exact nomatch (show (Option.none : Option Encoding) = some e from h)
theorem halyardStopComplete : ∀ x0, Statement (.halyardStopComplete x0) := by
  intro x0 _ e h; exact nomatch (show (Option.none : Option Encoding) = some e from h)
theorem flitArrival : ∀ x0 x1 x2, Statement (.flitArrival x0 x1 x2) := by
  intro x0 x1 x2 _ e h; exact nomatch (show (Option.none : Option Encoding) = some e from h)
theorem creditReturn : ∀ x0 x1, Statement (.creditReturn x0 x1) := by
  intro x0 x1 _ e h; exact nomatch (show (Option.none : Option Encoding) = some e from h)
theorem governorBoundary : ∀ x0, Statement (.governorBoundary x0) := by
  intro x0 _ e h; exact nomatch (show (Option.none : Option Encoding) = some e from h)
theorem opHopComplete : ∀ x0, Statement (.opHopComplete x0) := by
  intro x0 _ e h; exact nomatch (show (Option.none : Option Encoding) = some e from h)
theorem railFault : ∀ x0, Statement (.railFault x0) := by
  intro x0 _ e h; exact nomatch (show (Option.none : Option Encoding) = some e from h)
theorem droopTrip : ∀ x0, Statement (.droopTrip x0) := by
  intro x0 _ e h; exact nomatch (show (Option.none : Option Encoding) = some e from h)
theorem stretchEnd : ∀ x0, Statement (.stretchEnd x0) := by
  intro x0 _ e h; exact nomatch (show (Option.none : Option Encoding) = some e from h)
theorem feedOutOfRange : ∀ x0, Statement (.feedOutOfRange x0) := by
  intro x0 _ e h; exact nomatch (show (Option.none : Option Encoding) = some e from h)
theorem feedLoss : Statement (.feedLoss) := by
  intro _ e h; exact nomatch (show (Option.none : Option Encoding) = some e from h)
theorem feedOvervoltage : ∀ x0, Statement (.feedOvervoltage x0) := by
  intro x0 _ e h; exact nomatch (show (Option.none : Option Encoding) = some e from h)
theorem feedSwitchClose : ∀ x0, Statement (.feedSwitchClose x0) := by
  intro x0 _ e h; exact nomatch (show (Option.none : Option Encoding) = some e from h)
theorem faultRecordWrite : Statement (.faultRecordWrite) := by
  intro _ e h; exact nomatch (show (Option.none : Option Encoding) = some e from h)
theorem supervisorFaultRecordWrite : ∀ x0, Statement (.supervisorFaultRecordWrite x0) := by
  intro x0 _ e h; exact nomatch (show (Option.none : Option Encoding) = some e from h)
theorem trapRecordWrite : ∀ x0, Statement (.trapRecordWrite x0) := by
  intro x0 _ e h; exact nomatch (show (Option.none : Option Encoding) = some e from h)
theorem faultAnswer : ∀ x0 x1, Statement (.faultAnswer x0 x1) := by
  intro x0 x1 _ e h; exact nomatch (show (Option.none : Option Encoding) = some e from h)
theorem atsCompletion : ∀ x0 x1 x2 x3, Statement (.atsCompletion x0 x1 x2 x3) := by
  intro x0 x1 x2 x3 _ e h; exact nomatch (show (Option.none : Option Encoding) = some e from h)
theorem pageRequestResponse : ∀ x0 x1, Statement (.pageRequestResponse x0 x1) := by
  intro x0 x1 _ e h; exact nomatch (show (Option.none : Option Encoding) = some e from h)
theorem atsInvalidation : ∀ x0 x1 x2, Statement (.atsInvalidation x0 x1 x2) := by
  intro x0 x1 x2 _ e h; exact nomatch (show (Option.none : Option Encoding) = some e from h)
theorem rtEnable : ∀ x0, Statement (.rtEnable x0) := by
  intro x0 _ e h; exact nomatch (show (Option.none : Option Encoding) = some e from h)
theorem mqPush : ∀ x0, Statement (.mqPush x0) := by
  intro x0 _ e h; exact nomatch (show (Option.none : Option Encoding) = some e from h)
theorem fqHeadWrite : ∀ x0, Statement (.fqHeadWrite x0) := by
  intro x0 _ e h; exact nomatch (show (Option.none : Option Encoding) = some e from h)
theorem smqPush : ∀ x0 x1, Statement (.smqPush x0 x1) := by
  intro x0 x1 _ e h; exact nomatch (show (Option.none : Option Encoding) = some e from h)
theorem tqHeadWrite : ∀ x0 x1, Statement (.tqHeadWrite x0 x1) := by
  intro x0 x1 _ e h; exact nomatch (show (Option.none : Option Encoding) = some e from h)
theorem sfHeadWrite : ∀ x0 x1, Statement (.sfHeadWrite x0 x1) := by
  intro x0 x1 _ e h; exact nomatch (show (Option.none : Option Encoding) = some e from h)
theorem shoot : Statement (.shoot) := by
  intro _ e h; exact nomatch (show (Option.none : Option Encoding) = some e from h)
theorem fliph : Statement (.fliph) := by
  intro _ e h; exact nomatch (show (Option.none : Option Encoding) = some e from h)
theorem flipd : Statement (.flipd) := by
  intro _ e h; exact nomatch (show (Option.none : Option Encoding) = some e from h)
theorem resume : ∀ x0 x1, Statement (.resume x0 x1) := by
  intro x0 x1 _ e h; exact nomatch (show (Option.none : Option Encoding) = some e from h)
theorem wreg : ∀ x0 x1, Statement (.wreg x0 x1) := by
  intro x0 x1 _ e h; exact nomatch (show (Option.none : Option Encoding) = some e from h)
theorem stop : ∀ x0 x1, Statement (.stop x0 x1) := by
  intro x0 x1 _ e h; exact nomatch (show (Option.none : Option Encoding) = some e from h)
theorem withdraw : ∀ x0 x1, Statement (.withdraw x0 x1) := by
  intro x0 x1 _ e h; exact nomatch (show (Option.none : Option Encoding) = some e from h)
theorem dsave : ∀ x0 x1, Statement (.dsave x0 x1) := by
  intro x0 x1 _ e h; exact nomatch (show (Option.none : Option Encoding) = some e from h)
theorem fsave : ∀ x0 x1, Statement (.fsave x0 x1) := by
  intro x0 x1 _ e h; exact nomatch (show (Option.none : Option Encoding) = some e from h)
theorem restore : ∀ x0 x1, Statement (.restore x0 x1) := by
  intro x0 x1 _ e h; exact nomatch (show (Option.none : Option Encoding) = some e from h)
theorem term : ∀ x0 x1, Statement (.term x0 x1) := by
  intro x0 x1 _ e h; exact nomatch (show (Option.none : Option Encoding) = some e from h)
theorem fans : ∀ x0 x1, Statement (.fans x0 x1) := by
  intro x0 x1 _ e h; exact nomatch (show (Option.none : Option Encoding) = some e from h)
theorem stateReadback : ∀ x0, Statement (.stateReadback x0) := by
  intro x0 _ e h; exact nomatch (show (Option.none : Option Encoding) = some e from h)
theorem quiesce : ∀ x0, Statement (.quiesce x0) := by
  intro x0 _ e h; exact nomatch (show (Option.none : Option Encoding) = some e from h)
theorem bind : ∀ x0 x1, Statement (.bind x0 x1) := by
  intro x0 x1 _ e h; exact nomatch (show (Option.none : Option Encoding) = some e from h)
theorem unbind : ∀ x0 x1, Statement (.unbind x0 x1) := by
  intro x0 x1 _ e h; exact nomatch (show (Option.none : Option Encoding) = some e from h)
theorem root : ∀ x0 x1, Statement (.root x0 x1) := by
  intro x0 x1 _ e h; exact nomatch (show (Option.none : Option Encoding) = some e from h)
theorem route : ∀ x0 x1, Statement (.route x0 x1) := by
  intro x0 x1 _ e h; exact nomatch (show (Option.none : Option Encoding) = some e from h)
theorem floor : ∀ x0 x1, Statement (.floor x0 x1) := by
  intro x0 x1 _ e h; exact nomatch (show (Option.none : Option Encoding) = some e from h)
theorem update : ∀ x0 x1, Statement (.update x0 x1) := by
  intro x0 x1 _ e h; exact nomatch (show (Option.none : Option Encoding) = some e from h)
theorem query : ∀ x0 x1, Statement (.query x0 x1) := by
  intro x0 x1 _ e h; exact nomatch (show (Option.none : Option Encoding) = some e from h)
theorem getVersion : ∀ x0, Statement (.getVersion x0) := by
  intro x0 _ e h; exact nomatch (show (Option.none : Option Encoding) = some e from h)
theorem getCapabilities : ∀ x0, Statement (.getCapabilities x0) := by
  intro x0 _ e h; exact nomatch (show (Option.none : Option Encoding) = some e from h)
theorem negotiateAlgorithms : ∀ x0, Statement (.negotiateAlgorithms x0) := by
  intro x0 _ e h; exact nomatch (show (Option.none : Option Encoding) = some e from h)
theorem getDigests : ∀ x0, Statement (.getDigests x0) := by
  intro x0 _ e h; exact nomatch (show (Option.none : Option Encoding) = some e from h)
theorem getCertificate : ∀ x0, Statement (.getCertificate x0) := by
  intro x0 _ e h; exact nomatch (show (Option.none : Option Encoding) = some e from h)
theorem challenge : ∀ x0, Statement (.challenge x0) := by
  intro x0 _ e h; exact nomatch (show (Option.none : Option Encoding) = some e from h)
theorem getMeasurements : ∀ x0, Statement (.getMeasurements x0) := by
  intro x0 _ e h; exact nomatch (show (Option.none : Option Encoding) = some e from h)
theorem unsupportedRequest : ∀ x0, Statement (.unsupportedRequest x0) := by
  intro x0 _ e h; exact nomatch (show (Option.none : Option Encoding) = some e from h)
theorem coldReset : ∀ x0 x1 x2 x3, Statement (.coldReset x0 x1 x2 x3) := by
  intro x0 x1 x2 x3 _ e h; exact nomatch (show (Option.none : Option Encoding) = some e from h)
theorem modcapWrite : ∀ x0, Statement (.modcapWrite x0) := by
  intro x0 _ e h; exact nomatch (show (Option.none : Option Encoding) = some e from h)
theorem railfltClear : ∀ x0, Statement (.railfltClear x0) := by
  intro x0 _ e h; exact nomatch (show (Option.none : Option Encoding) = some e from h)
theorem drpcntRead : ∀ x0, Statement (.drpcntRead x0) := by
  intro x0 _ e h; exact nomatch (show (Option.none : Option Encoding) = some e from h)
theorem errlogRead : Statement (.errlogRead) := by
  intro _ e h; exact nomatch (show (Option.none : Option Encoding) = some e from h)
theorem cfenceWrite : ∀ x0, Statement (.cfenceWrite x0) := by
  intro x0 _ e h; exact nomatch (show (Option.none : Option Encoding) = some e from h)
theorem unfence : ∀ x0, Statement (.unfence x0) := by
  intro x0 _ e h; exact nomatch (show (Option.none : Option Encoding) = some e from h)
theorem wheadWrite : ∀ x0, Statement (.wheadWrite x0) := by
  intro x0 _ e h; exact nomatch (show (Option.none : Option Encoding) = some e from h)
theorem registerWrite : ∀ x0 x1 x2, Statement (.registerWrite x0 x1 x2) := by
  intro x0 x1 x2 _ e h; exact nomatch (show (Option.none : Option Encoding) = some e from h)
theorem arbitrationRound : Statement (.arbitrationRound) := by
  intro _ e h; exact nomatch (show (Option.none : Option Encoding) = some e from h)
theorem arbitrationMessage : ∀ x0, Statement (.arbitrationMessage x0) := by
  intro x0 _ e h; exact nomatch (show (Option.none : Option Encoding) = some e from h)
theorem heartbeatSend : Statement (.heartbeatSend) := by
  intro _ e h; exact nomatch (show (Option.none : Option Encoding) = some e from h)
theorem heartbeatReceive : ∀ x0 x1, Statement (.heartbeatReceive x0 x1) := by
  intro x0 x1 _ e h; exact nomatch (show (Option.none : Option Encoding) = some e from h)
theorem heartbeatTimeout : ∀ x0, Statement (.heartbeatTimeout x0) := by
  intro x0 _ e h; exact nomatch (show (Option.none : Option Encoding) = some e from h)
theorem fenceNotice : ∀ x0, Statement (.fenceNotice x0) := by
  intro x0 _ e h; exact nomatch (show (Option.none : Option Encoding) = some e from h)
theorem isolation : Statement (.isolation) := by
  intro _ e h; exact nomatch (show (Option.none : Option Encoding) = some e from h)
theorem checkpointPeriod : Statement (.checkpointPeriod) := by
  intro _ e h; exact nomatch (show (Option.none : Option Encoding) = some e from h)
theorem begin : ∀ x0, Statement (.begin x0) := by
  intro x0 _ e h; exact nomatch (show (Option.none : Option Encoding) = some e from h)
theorem done : ∀ x0 x1 x2, Statement (.done x0 x1 x2) := by
  intro x0 x1 x2 _ e h; exact nomatch (show (Option.none : Option Encoding) = some e from h)
theorem fail : ∀ x0 x1, Statement (.fail x0 x1) := by
  intro x0 x1 _ e h; exact nomatch (show (Option.none : Option Encoding) = some e from h)
theorem commit : ∀ x0, Statement (.commit x0) := by
  intro x0 _ e h; exact nomatch (show (Option.none : Option Encoding) = some e from h)
theorem checkpointMarker : ∀ x0 x1, Statement (.checkpointMarker x0 x1) := by
  intro x0 x1 _ e h; exact nomatch (show (Option.none : Option Encoding) = some e from h)
theorem wonusRecordWrite : Statement (.wonusRecordWrite) := by
  intro _ e h; exact nomatch (show (Option.none : Option Encoding) = some e from h)
theorem scrubPass : Statement .scrubPass := by
  intro _ e h; exact nomatch (show (Option.none : Option Encoding) = some e from h)
theorem sharedParityError : ∀ x0, Statement (.sharedParityError x0) := by
  intro x0 _ e h; exact nomatch (show (Option.none : Option Encoding) = some e from h)
theorem hubFatalError : Statement (.hubFatalError) := by
  intro _ e h; exact nomatch (show (Option.none : Option Encoding) = some e from h)
theorem envLimitExceeded : ∀ x0 x1, Statement (.envLimitExceeded x0 x1) := by
  intro x0 x1 _ e h; exact nomatch (show (Option.none : Option Encoding) = some e from h)
theorem fabricRequest : ∀ x0, Statement (.fabricRequest x0) := by
  intro x0 _ e h; exact nomatch (show (Option.none : Option Encoding) = some e from h)
theorem illegalEncoding : ∀ x0, Statement (.illegalEncoding x0) := by
  intro x0 _ e h; exact nomatch (show (Option.none : Option Encoding) = some e from h)
theorem monitorRequestOtherOp : ∀ x0 x1, Statement (.monitorRequestOtherOp x0 x1) := by
  intro x0 x1 _ e h; exact nomatch (show (Option.none : Option Encoding) = some e from h)
theorem maintenanceDescriptorInvalid : Statement (.maintenanceDescriptorInvalid) := by
  intro _ e h; exact nomatch (show (Option.none : Option Encoding) = some e from h)
theorem feedReturn : ∀ x0, Statement (.feedReturn x0) := by
  intro x0 _ e h; exact nomatch (show (Option.none : Option Encoding) = some e from h)

end Laws.RoundTrip

end Sys2Proof
end

