-- ==== Sys2Proof/Laws/State.lean ====
section
/-! SUPPORT. One lemma for each field under each update of State, and what the accessors read after each update. -/

namespace Sys2Proof.Machine

/-! ## setCtx -/

@[simp] theorem State.setCtx_parts (s : State) (x : CtxNo) (v : Ctx) : (s.setCtx x v).parts = s.parts := rfl
@[simp] theorem State.setCtx_cores (s : State) (x : CtxNo) (v : Ctx) : (s.setCtx x v).cores = s.cores := rfl
@[simp] theorem State.setCtx_dram (s : State) (x : CtxNo) (v : Ctx) : (s.setCtx x v).dram = s.dram := rfl
@[simp] theorem State.setCtx_hostMem (s : State) (x : CtxNo) (v : Ctx) : (s.setCtx x v).hostMem = s.hostMem := rfl
@[simp] theorem State.setCtx_poison (s : State) (x : CtxNo) (v : Ctx) : (s.setCtx x v).poison = s.poison := rfl
@[simp] theorem State.setCtx_lines (s : State) (x : CtxNo) (v : Ctx) : (s.setCtx x v).lines = s.lines := rfl
@[simp] theorem State.setCtx_evt (s : State) (x : CtxNo) (v : Ctx) : (s.setCtx x v).evt = s.evt := rfl
@[simp] theorem State.setCtx_swc (s : State) (x : CtxNo) (v : Ctx) : (s.setCtx x v).swc = s.swc := rfl
@[simp] theorem State.setCtx_dir (s : State) (x : CtxNo) (v : Ctx) : (s.setCtx x v).dir = s.dir := rfl
@[simp] theorem State.setCtx_owners (s : State) (x : CtxNo) (v : Ctx) : (s.setCtx x v).owners = s.owners := rfl
@[simp] theorem State.setCtx_pins (s : State) (x : CtxNo) (v : Ctx) : (s.setCtx x v).pins = s.pins := rfl
@[simp] theorem State.setCtx_dlt (s : State) (x : CtxNo) (v : Ctx) : (s.setCtx x v).dlt = s.dlt := rfl
@[simp] theorem State.setCtx_rmap (s : State) (x : CtxNo) (v : Ctx) : (s.setCtx x v).rmap = s.rmap := rfl
@[simp] theorem State.setCtx_routines (s : State) (x : CtxNo) (v : Ctx) : (s.setCtx x v).routines = s.routines := rfl
@[simp] theorem State.setCtx_asids (s : State) (x : CtxNo) (v : Ctx) : (s.setCtx x v).asids = s.asids := rfl
@[simp] theorem State.setCtx_tcache (s : State) (x : CtxNo) (v : Ctx) : (s.setCtx x v).tcache = s.tcache := rfl
@[simp] theorem State.setCtx_hostCached (s : State) (x : CtxNo) (v : Ctx) : (s.setCtx x v).hostCached = s.hostCached := rfl
@[simp] theorem State.setCtx_ops (s : State) (x : CtxNo) (v : Ctx) : (s.setCtx x v).ops = s.ops := rfl
@[simp] theorem State.setCtx_nextOp (s : State) (x : CtxNo) (v : Ctx) : (s.setCtx x v).nextOp = s.nextOp := rfl
@[simp] theorem State.setCtx_rev (s : State) (x : CtxNo) (v : Ctx) : (s.setCtx x v).rev = s.rev := rfl
@[simp] theorem State.setCtx_wpos (s : State) (x : CtxNo) (v : Ctx) : (s.setCtx x v).wpos = s.wpos := rfl
@[simp] theorem State.setCtx_scTaken (s : State) (x : CtxNo) (v : Ctx) : (s.setCtx x v).scTaken = s.scTaken := rfl
@[simp] theorem State.setCtx_ropes (s : State) (x : CtxNo) (v : Ctx) : (s.setCtx x v).ropes = s.ropes := rfl
@[simp] theorem State.setCtx_tasks (s : State) (x : CtxNo) (v : Ctx) : (s.setCtx x v).tasks = s.tasks := rfl
@[simp] theorem State.setCtx_nextTask (s : State) (x : CtxNo) (v : Ctx) : (s.setCtx x v).nextTask = s.nextTask := rfl
@[simp] theorem State.setCtx_lastRope (s : State) (x : CtxNo) (v : Ctx) : (s.setCtx x v).lastRope = s.lastRope := rfl
@[simp] theorem State.setCtx_retlog (s : State) (x : CtxNo) (v : Ctx) : (s.setCtx x v).retlog = s.retlog := rfl
@[simp] theorem State.setCtx_preempt (s : State) (x : CtxNo) (v : Ctx) : (s.setCtx x v).preempt = s.preempt := rfl
@[simp] theorem State.setCtx_saves (s : State) (x : CtxNo) (v : Ctx) : (s.setCtx x v).saves = s.saves := rfl
@[simp] theorem State.setCtx_gint (s : State) (x : CtxNo) (v : Ctx) : (s.setCtx x v).gint = s.gint := rfl
@[simp] theorem State.setCtx_islands (s : State) (x : CtxNo) (v : Ctx) : (s.setCtx x v).islands = s.islands := rfl
@[simp] theorem State.setCtx_ecls (s : State) (x : CtxNo) (v : Ctx) : (s.setCtx x v).ecls = s.ecls := rfl
@[simp] theorem State.setCtx_tct (s : State) (x : CtxNo) (v : Ctx) : (s.setCtx x v).tct = s.tct := rfl
@[simp] theorem State.setCtx_dcost (s : State) (x : CtxNo) (v : Ctx) : (s.setCtx x v).dcost = s.dcost := rfl
@[simp] theorem State.setCtx_newTabs (s : State) (x : CtxNo) (v : Ctx) : (s.setCtx x v).newTabs = s.newTabs := rfl
@[simp] theorem State.setCtx_host (s : State) (x : CtxNo) (v : Ctx) : (s.setCtx x v).host = s.host := rfl
@[simp] theorem State.setCtx_fids (s : State) (x : CtxNo) (v : Ctx) : (s.setCtx x v).fids = s.fids := rfl
@[simp] theorem State.setCtx_fqwait (s : State) (x : CtxNo) (v : Ctx) : (s.setCtx x v).fqwait = s.fqwait := rfl
@[simp] theorem State.setCtx_prgs (s : State) (x : CtxNo) (v : Ctx) : (s.setCtx x v).prgs = s.prgs := rfl
@[simp] theorem State.setCtx_ats (s : State) (x : CtxNo) (v : Ctx) : (s.setCtx x v).ats = s.ats := rfl
@[simp] theorem State.setCtx_hubWaits (s : State) (x : CtxNo) (v : Ctx) : (s.setCtx x v).hubWaits = s.hubWaits := rfl
@[simp] theorem State.setCtx_nextPrg (s : State) (x : CtxNo) (v : Ctx) : (s.setCtx x v).nextPrg = s.nextPrg := rfl
@[simp] theorem State.setCtx_mq (s : State) (x : CtxNo) (v : Ctx) : (s.setCtx x v).mq = s.mq := rfl
@[simp] theorem State.setCtx_sups (s : State) (x : CtxNo) (v : Ctx) : (s.setCtx x v).sups = s.sups := rfl
@[simp] theorem State.setCtx_mon (s : State) (x : CtxNo) (v : Ctx) : (s.setCtx x v).mon = s.mon := rfl
@[simp] theorem State.setCtx_mgmt (s : State) (x : CtxNo) (v : Ctx) : (s.setCtx x v).mgmt = s.mgmt := rfl
@[simp] theorem State.setCtx_wonus (s : State) (x : CtxNo) (v : Ctx) : (s.setCtx x v).wonus = s.wonus := rfl
@[simp] theorem State.setCtx_modSeq (s : State) (x : CtxNo) (v : Ctx) : (s.setCtx x v).modSeq = s.modSeq := rfl
@[simp] theorem State.setCtx_served (s : State) (x : CtxNo) (v : Ctx) : (s.setCtx x v).served = s.served := rfl
@[simp] theorem State.setCtx_waits (s : State) (x : CtxNo) (v : Ctx) : (s.setCtx x v).waits = s.waits := rfl
@[simp] theorem State.setCtx_links (s : State) (x : CtxNo) (v : Ctx) : (s.setCtx x v).links = s.links := rfl
@[simp] theorem State.setCtx_peers (s : State) (x : CtxNo) (v : Ctx) : (s.setCtx x v).peers = s.peers := rfl
@[simp] theorem State.setCtx_feeds (s : State) (x : CtxNo) (v : Ctx) : (s.setCtx x v).feeds = s.feeds := rfl
@[simp] theorem State.setCtx_ckRun (s : State) (x : CtxNo) (v : Ctx) : (s.setCtx x v).ckRun = s.ckRun := rfl
@[simp] theorem State.setCtx_ckpts (s : State) (x : CtxNo) (v : Ctx) : (s.setCtx x v).ckpts = s.ckpts := rfl
@[simp] theorem State.setCtx_ckGone (s : State) (x : CtxNo) (v : Ctx) : (s.setCtx x v).ckGone = s.ckGone := rfl
@[simp] theorem State.setCtx_evac (s : State) (x : CtxNo) (v : Ctx) : (s.setCtx x v).evac = s.evac := rfl
@[simp] theorem State.setCtx_errs (s : State) (x : CtxNo) (v : Ctx) : (s.setCtx x v).errs = s.errs := rfl
@[simp] theorem State.setCtx_ceTimes (s : State) (x : CtxNo) (v : Ctx) : (s.setCtx x v).ceTimes = s.ceTimes := rfl
@[simp] theorem State.setCtx_fatal (s : State) (x : CtxNo) (v : Ctx) : (s.setCtx x v).fatal = s.fatal := rfl
@[simp] theorem State.setCtx_now (s : State) (x : CtxNo) (v : Ctx) : (s.setCtx x v).now = s.now := rfl
@[simp] theorem State.setCtx_todo (s : State) (x : CtxNo) (v : Ctx) : (s.setCtx x v).todo = s.todo := rfl
@[simp] theorem State.setCtx_inputs (s : State) (x : CtxNo) (v : Ctx) : (s.setCtx x v).inputs = s.inputs := rfl
@[simp] theorem State.setCtx_issue (s : State) (x : CtxNo) (v : Ctx) : (s.setCtx x v).issue = s.issue := rfl
@[simp] theorem State.setCtx_freeCtr (s : State) (x : CtxNo) (v : Ctx) : (s.setCtx x v).freeCtr = s.freeCtr := rfl
@[simp] theorem State.setCtx_outbox (s : State) (x : CtxNo) (v : Ctx) : (s.setCtx x v).outbox = s.outbox := rfl

/-! ## setPart -/

@[simp] theorem State.setPart_ctxs (s : State) (n : Nat) (v : Part) : (s.setPart n v).ctxs = s.ctxs := rfl
@[simp] theorem State.setPart_cores (s : State) (n : Nat) (v : Part) : (s.setPart n v).cores = s.cores := rfl
@[simp] theorem State.setPart_dram (s : State) (n : Nat) (v : Part) : (s.setPart n v).dram = s.dram := rfl
@[simp] theorem State.setPart_hostMem (s : State) (n : Nat) (v : Part) : (s.setPart n v).hostMem = s.hostMem := rfl
@[simp] theorem State.setPart_poison (s : State) (n : Nat) (v : Part) : (s.setPart n v).poison = s.poison := rfl
@[simp] theorem State.setPart_lines (s : State) (n : Nat) (v : Part) : (s.setPart n v).lines = s.lines := rfl
@[simp] theorem State.setPart_evt (s : State) (n : Nat) (v : Part) : (s.setPart n v).evt = s.evt := rfl
@[simp] theorem State.setPart_swc (s : State) (n : Nat) (v : Part) : (s.setPart n v).swc = s.swc := rfl
@[simp] theorem State.setPart_dir (s : State) (n : Nat) (v : Part) : (s.setPart n v).dir = s.dir := rfl
@[simp] theorem State.setPart_owners (s : State) (n : Nat) (v : Part) : (s.setPart n v).owners = s.owners := rfl
@[simp] theorem State.setPart_pins (s : State) (n : Nat) (v : Part) : (s.setPart n v).pins = s.pins := rfl
@[simp] theorem State.setPart_dlt (s : State) (n : Nat) (v : Part) : (s.setPart n v).dlt = s.dlt := rfl
@[simp] theorem State.setPart_rmap (s : State) (n : Nat) (v : Part) : (s.setPart n v).rmap = s.rmap := rfl
@[simp] theorem State.setPart_routines (s : State) (n : Nat) (v : Part) : (s.setPart n v).routines = s.routines := rfl
@[simp] theorem State.setPart_asids (s : State) (n : Nat) (v : Part) : (s.setPart n v).asids = s.asids := rfl
@[simp] theorem State.setPart_tcache (s : State) (n : Nat) (v : Part) : (s.setPart n v).tcache = s.tcache := rfl
@[simp] theorem State.setPart_hostCached (s : State) (n : Nat) (v : Part) : (s.setPart n v).hostCached = s.hostCached := rfl
@[simp] theorem State.setPart_ops (s : State) (n : Nat) (v : Part) : (s.setPart n v).ops = s.ops := rfl
@[simp] theorem State.setPart_nextOp (s : State) (n : Nat) (v : Part) : (s.setPart n v).nextOp = s.nextOp := rfl
@[simp] theorem State.setPart_rev (s : State) (n : Nat) (v : Part) : (s.setPart n v).rev = s.rev := rfl
@[simp] theorem State.setPart_wpos (s : State) (n : Nat) (v : Part) : (s.setPart n v).wpos = s.wpos := rfl
@[simp] theorem State.setPart_scTaken (s : State) (n : Nat) (v : Part) : (s.setPart n v).scTaken = s.scTaken := rfl
@[simp] theorem State.setPart_ropes (s : State) (n : Nat) (v : Part) : (s.setPart n v).ropes = s.ropes := rfl
@[simp] theorem State.setPart_tasks (s : State) (n : Nat) (v : Part) : (s.setPart n v).tasks = s.tasks := rfl
@[simp] theorem State.setPart_nextTask (s : State) (n : Nat) (v : Part) : (s.setPart n v).nextTask = s.nextTask := rfl
@[simp] theorem State.setPart_lastRope (s : State) (n : Nat) (v : Part) : (s.setPart n v).lastRope = s.lastRope := rfl
@[simp] theorem State.setPart_retlog (s : State) (n : Nat) (v : Part) : (s.setPart n v).retlog = s.retlog := rfl
@[simp] theorem State.setPart_preempt (s : State) (n : Nat) (v : Part) : (s.setPart n v).preempt = s.preempt := rfl
@[simp] theorem State.setPart_saves (s : State) (n : Nat) (v : Part) : (s.setPart n v).saves = s.saves := rfl
@[simp] theorem State.setPart_gint (s : State) (n : Nat) (v : Part) : (s.setPart n v).gint = s.gint := rfl
@[simp] theorem State.setPart_islands (s : State) (n : Nat) (v : Part) : (s.setPart n v).islands = s.islands := rfl
@[simp] theorem State.setPart_ecls (s : State) (n : Nat) (v : Part) : (s.setPart n v).ecls = s.ecls := rfl
@[simp] theorem State.setPart_tct (s : State) (n : Nat) (v : Part) : (s.setPart n v).tct = s.tct := rfl
@[simp] theorem State.setPart_dcost (s : State) (n : Nat) (v : Part) : (s.setPart n v).dcost = s.dcost := rfl
@[simp] theorem State.setPart_newTabs (s : State) (n : Nat) (v : Part) : (s.setPart n v).newTabs = s.newTabs := rfl
@[simp] theorem State.setPart_host (s : State) (n : Nat) (v : Part) : (s.setPart n v).host = s.host := rfl
@[simp] theorem State.setPart_fids (s : State) (n : Nat) (v : Part) : (s.setPart n v).fids = s.fids := rfl
@[simp] theorem State.setPart_fqwait (s : State) (n : Nat) (v : Part) : (s.setPart n v).fqwait = s.fqwait := rfl
@[simp] theorem State.setPart_prgs (s : State) (n : Nat) (v : Part) : (s.setPart n v).prgs = s.prgs := rfl
@[simp] theorem State.setPart_ats (s : State) (n : Nat) (v : Part) : (s.setPart n v).ats = s.ats := rfl
@[simp] theorem State.setPart_hubWaits (s : State) (n : Nat) (v : Part) : (s.setPart n v).hubWaits = s.hubWaits := rfl
@[simp] theorem State.setPart_nextPrg (s : State) (n : Nat) (v : Part) : (s.setPart n v).nextPrg = s.nextPrg := rfl
@[simp] theorem State.setPart_mq (s : State) (n : Nat) (v : Part) : (s.setPart n v).mq = s.mq := rfl
@[simp] theorem State.setPart_sups (s : State) (n : Nat) (v : Part) : (s.setPart n v).sups = s.sups := rfl
@[simp] theorem State.setPart_mon (s : State) (n : Nat) (v : Part) : (s.setPart n v).mon = s.mon := rfl
@[simp] theorem State.setPart_mgmt (s : State) (n : Nat) (v : Part) : (s.setPart n v).mgmt = s.mgmt := rfl
@[simp] theorem State.setPart_wonus (s : State) (n : Nat) (v : Part) : (s.setPart n v).wonus = s.wonus := rfl
@[simp] theorem State.setPart_modSeq (s : State) (n : Nat) (v : Part) : (s.setPart n v).modSeq = s.modSeq := rfl
@[simp] theorem State.setPart_served (s : State) (n : Nat) (v : Part) : (s.setPart n v).served = s.served := rfl
@[simp] theorem State.setPart_waits (s : State) (n : Nat) (v : Part) : (s.setPart n v).waits = s.waits := rfl
@[simp] theorem State.setPart_links (s : State) (n : Nat) (v : Part) : (s.setPart n v).links = s.links := rfl
@[simp] theorem State.setPart_peers (s : State) (n : Nat) (v : Part) : (s.setPart n v).peers = s.peers := rfl
@[simp] theorem State.setPart_feeds (s : State) (n : Nat) (v : Part) : (s.setPart n v).feeds = s.feeds := rfl
@[simp] theorem State.setPart_ckRun (s : State) (n : Nat) (v : Part) : (s.setPart n v).ckRun = s.ckRun := rfl
@[simp] theorem State.setPart_ckpts (s : State) (n : Nat) (v : Part) : (s.setPart n v).ckpts = s.ckpts := rfl
@[simp] theorem State.setPart_ckGone (s : State) (n : Nat) (v : Part) : (s.setPart n v).ckGone = s.ckGone := rfl
@[simp] theorem State.setPart_evac (s : State) (n : Nat) (v : Part) : (s.setPart n v).evac = s.evac := rfl
@[simp] theorem State.setPart_errs (s : State) (n : Nat) (v : Part) : (s.setPart n v).errs = s.errs := rfl
@[simp] theorem State.setPart_ceTimes (s : State) (n : Nat) (v : Part) : (s.setPart n v).ceTimes = s.ceTimes := rfl
@[simp] theorem State.setPart_fatal (s : State) (n : Nat) (v : Part) : (s.setPart n v).fatal = s.fatal := rfl
@[simp] theorem State.setPart_now (s : State) (n : Nat) (v : Part) : (s.setPart n v).now = s.now := rfl
@[simp] theorem State.setPart_todo (s : State) (n : Nat) (v : Part) : (s.setPart n v).todo = s.todo := rfl
@[simp] theorem State.setPart_inputs (s : State) (n : Nat) (v : Part) : (s.setPart n v).inputs = s.inputs := rfl
@[simp] theorem State.setPart_issue (s : State) (n : Nat) (v : Part) : (s.setPart n v).issue = s.issue := rfl
@[simp] theorem State.setPart_freeCtr (s : State) (n : Nat) (v : Part) : (s.setPart n v).freeCtr = s.freeCtr := rfl
@[simp] theorem State.setPart_outbox (s : State) (n : Nat) (v : Part) : (s.setPart n v).outbox = s.outbox := rfl

/-! ## setCore -/

@[simp] theorem State.setCore_ctxs (s : State) (n : Nat) (v : Core) : (s.setCore n v).ctxs = s.ctxs := rfl
@[simp] theorem State.setCore_parts (s : State) (n : Nat) (v : Core) : (s.setCore n v).parts = s.parts := rfl
@[simp] theorem State.setCore_dram (s : State) (n : Nat) (v : Core) : (s.setCore n v).dram = s.dram := rfl
@[simp] theorem State.setCore_hostMem (s : State) (n : Nat) (v : Core) : (s.setCore n v).hostMem = s.hostMem := rfl
@[simp] theorem State.setCore_poison (s : State) (n : Nat) (v : Core) : (s.setCore n v).poison = s.poison := rfl
@[simp] theorem State.setCore_lines (s : State) (n : Nat) (v : Core) : (s.setCore n v).lines = s.lines := rfl
@[simp] theorem State.setCore_evt (s : State) (n : Nat) (v : Core) : (s.setCore n v).evt = s.evt := rfl
@[simp] theorem State.setCore_swc (s : State) (n : Nat) (v : Core) : (s.setCore n v).swc = s.swc := rfl
@[simp] theorem State.setCore_dir (s : State) (n : Nat) (v : Core) : (s.setCore n v).dir = s.dir := rfl
@[simp] theorem State.setCore_owners (s : State) (n : Nat) (v : Core) : (s.setCore n v).owners = s.owners := rfl
@[simp] theorem State.setCore_pins (s : State) (n : Nat) (v : Core) : (s.setCore n v).pins = s.pins := rfl
@[simp] theorem State.setCore_dlt (s : State) (n : Nat) (v : Core) : (s.setCore n v).dlt = s.dlt := rfl
@[simp] theorem State.setCore_rmap (s : State) (n : Nat) (v : Core) : (s.setCore n v).rmap = s.rmap := rfl
@[simp] theorem State.setCore_routines (s : State) (n : Nat) (v : Core) : (s.setCore n v).routines = s.routines := rfl
@[simp] theorem State.setCore_asids (s : State) (n : Nat) (v : Core) : (s.setCore n v).asids = s.asids := rfl
@[simp] theorem State.setCore_tcache (s : State) (n : Nat) (v : Core) : (s.setCore n v).tcache = s.tcache := rfl
@[simp] theorem State.setCore_hostCached (s : State) (n : Nat) (v : Core) : (s.setCore n v).hostCached = s.hostCached := rfl
@[simp] theorem State.setCore_ops (s : State) (n : Nat) (v : Core) : (s.setCore n v).ops = s.ops := rfl
@[simp] theorem State.setCore_nextOp (s : State) (n : Nat) (v : Core) : (s.setCore n v).nextOp = s.nextOp := rfl
@[simp] theorem State.setCore_rev (s : State) (n : Nat) (v : Core) : (s.setCore n v).rev = s.rev := rfl
@[simp] theorem State.setCore_wpos (s : State) (n : Nat) (v : Core) : (s.setCore n v).wpos = s.wpos := rfl
@[simp] theorem State.setCore_scTaken (s : State) (n : Nat) (v : Core) : (s.setCore n v).scTaken = s.scTaken := rfl
@[simp] theorem State.setCore_ropes (s : State) (n : Nat) (v : Core) : (s.setCore n v).ropes = s.ropes := rfl
@[simp] theorem State.setCore_tasks (s : State) (n : Nat) (v : Core) : (s.setCore n v).tasks = s.tasks := rfl
@[simp] theorem State.setCore_nextTask (s : State) (n : Nat) (v : Core) : (s.setCore n v).nextTask = s.nextTask := rfl
@[simp] theorem State.setCore_lastRope (s : State) (n : Nat) (v : Core) : (s.setCore n v).lastRope = s.lastRope := rfl
@[simp] theorem State.setCore_retlog (s : State) (n : Nat) (v : Core) : (s.setCore n v).retlog = s.retlog := rfl
@[simp] theorem State.setCore_preempt (s : State) (n : Nat) (v : Core) : (s.setCore n v).preempt = s.preempt := rfl
@[simp] theorem State.setCore_saves (s : State) (n : Nat) (v : Core) : (s.setCore n v).saves = s.saves := rfl
@[simp] theorem State.setCore_gint (s : State) (n : Nat) (v : Core) : (s.setCore n v).gint = s.gint := rfl
@[simp] theorem State.setCore_islands (s : State) (n : Nat) (v : Core) : (s.setCore n v).islands = s.islands := rfl
@[simp] theorem State.setCore_ecls (s : State) (n : Nat) (v : Core) : (s.setCore n v).ecls = s.ecls := rfl
@[simp] theorem State.setCore_tct (s : State) (n : Nat) (v : Core) : (s.setCore n v).tct = s.tct := rfl
@[simp] theorem State.setCore_dcost (s : State) (n : Nat) (v : Core) : (s.setCore n v).dcost = s.dcost := rfl
@[simp] theorem State.setCore_newTabs (s : State) (n : Nat) (v : Core) : (s.setCore n v).newTabs = s.newTabs := rfl
@[simp] theorem State.setCore_host (s : State) (n : Nat) (v : Core) : (s.setCore n v).host = s.host := rfl
@[simp] theorem State.setCore_fids (s : State) (n : Nat) (v : Core) : (s.setCore n v).fids = s.fids := rfl
@[simp] theorem State.setCore_fqwait (s : State) (n : Nat) (v : Core) : (s.setCore n v).fqwait = s.fqwait := rfl
@[simp] theorem State.setCore_prgs (s : State) (n : Nat) (v : Core) : (s.setCore n v).prgs = s.prgs := rfl
@[simp] theorem State.setCore_ats (s : State) (n : Nat) (v : Core) : (s.setCore n v).ats = s.ats := rfl
@[simp] theorem State.setCore_hubWaits (s : State) (n : Nat) (v : Core) : (s.setCore n v).hubWaits = s.hubWaits := rfl
@[simp] theorem State.setCore_nextPrg (s : State) (n : Nat) (v : Core) : (s.setCore n v).nextPrg = s.nextPrg := rfl
@[simp] theorem State.setCore_mq (s : State) (n : Nat) (v : Core) : (s.setCore n v).mq = s.mq := rfl
@[simp] theorem State.setCore_sups (s : State) (n : Nat) (v : Core) : (s.setCore n v).sups = s.sups := rfl
@[simp] theorem State.setCore_mon (s : State) (n : Nat) (v : Core) : (s.setCore n v).mon = s.mon := rfl
@[simp] theorem State.setCore_mgmt (s : State) (n : Nat) (v : Core) : (s.setCore n v).mgmt = s.mgmt := rfl
@[simp] theorem State.setCore_wonus (s : State) (n : Nat) (v : Core) : (s.setCore n v).wonus = s.wonus := rfl
@[simp] theorem State.setCore_modSeq (s : State) (n : Nat) (v : Core) : (s.setCore n v).modSeq = s.modSeq := rfl
@[simp] theorem State.setCore_served (s : State) (n : Nat) (v : Core) : (s.setCore n v).served = s.served := rfl
@[simp] theorem State.setCore_waits (s : State) (n : Nat) (v : Core) : (s.setCore n v).waits = s.waits := rfl
@[simp] theorem State.setCore_links (s : State) (n : Nat) (v : Core) : (s.setCore n v).links = s.links := rfl
@[simp] theorem State.setCore_peers (s : State) (n : Nat) (v : Core) : (s.setCore n v).peers = s.peers := rfl
@[simp] theorem State.setCore_feeds (s : State) (n : Nat) (v : Core) : (s.setCore n v).feeds = s.feeds := rfl
@[simp] theorem State.setCore_ckRun (s : State) (n : Nat) (v : Core) : (s.setCore n v).ckRun = s.ckRun := rfl
@[simp] theorem State.setCore_ckpts (s : State) (n : Nat) (v : Core) : (s.setCore n v).ckpts = s.ckpts := rfl
@[simp] theorem State.setCore_ckGone (s : State) (n : Nat) (v : Core) : (s.setCore n v).ckGone = s.ckGone := rfl
@[simp] theorem State.setCore_evac (s : State) (n : Nat) (v : Core) : (s.setCore n v).evac = s.evac := rfl
@[simp] theorem State.setCore_errs (s : State) (n : Nat) (v : Core) : (s.setCore n v).errs = s.errs := rfl
@[simp] theorem State.setCore_ceTimes (s : State) (n : Nat) (v : Core) : (s.setCore n v).ceTimes = s.ceTimes := rfl
@[simp] theorem State.setCore_fatal (s : State) (n : Nat) (v : Core) : (s.setCore n v).fatal = s.fatal := rfl
@[simp] theorem State.setCore_now (s : State) (n : Nat) (v : Core) : (s.setCore n v).now = s.now := rfl
@[simp] theorem State.setCore_todo (s : State) (n : Nat) (v : Core) : (s.setCore n v).todo = s.todo := rfl
@[simp] theorem State.setCore_inputs (s : State) (n : Nat) (v : Core) : (s.setCore n v).inputs = s.inputs := rfl
@[simp] theorem State.setCore_issue (s : State) (n : Nat) (v : Core) : (s.setCore n v).issue = s.issue := rfl
@[simp] theorem State.setCore_freeCtr (s : State) (n : Nat) (v : Core) : (s.setCore n v).freeCtr = s.freeCtr := rfl
@[simp] theorem State.setCore_outbox (s : State) (n : Nat) (v : Core) : (s.setCore n v).outbox = s.outbox := rfl

/-! ## setSup -/

@[simp] theorem State.setSup_ctxs (s : State) (n : Nat) (v : Sup) : (s.setSup n v).ctxs = s.ctxs := rfl
@[simp] theorem State.setSup_parts (s : State) (n : Nat) (v : Sup) : (s.setSup n v).parts = s.parts := rfl
@[simp] theorem State.setSup_cores (s : State) (n : Nat) (v : Sup) : (s.setSup n v).cores = s.cores := rfl
@[simp] theorem State.setSup_dram (s : State) (n : Nat) (v : Sup) : (s.setSup n v).dram = s.dram := rfl
@[simp] theorem State.setSup_hostMem (s : State) (n : Nat) (v : Sup) : (s.setSup n v).hostMem = s.hostMem := rfl
@[simp] theorem State.setSup_poison (s : State) (n : Nat) (v : Sup) : (s.setSup n v).poison = s.poison := rfl
@[simp] theorem State.setSup_lines (s : State) (n : Nat) (v : Sup) : (s.setSup n v).lines = s.lines := rfl
@[simp] theorem State.setSup_evt (s : State) (n : Nat) (v : Sup) : (s.setSup n v).evt = s.evt := rfl
@[simp] theorem State.setSup_swc (s : State) (n : Nat) (v : Sup) : (s.setSup n v).swc = s.swc := rfl
@[simp] theorem State.setSup_dir (s : State) (n : Nat) (v : Sup) : (s.setSup n v).dir = s.dir := rfl
@[simp] theorem State.setSup_owners (s : State) (n : Nat) (v : Sup) : (s.setSup n v).owners = s.owners := rfl
@[simp] theorem State.setSup_pins (s : State) (n : Nat) (v : Sup) : (s.setSup n v).pins = s.pins := rfl
@[simp] theorem State.setSup_dlt (s : State) (n : Nat) (v : Sup) : (s.setSup n v).dlt = s.dlt := rfl
@[simp] theorem State.setSup_rmap (s : State) (n : Nat) (v : Sup) : (s.setSup n v).rmap = s.rmap := rfl
@[simp] theorem State.setSup_routines (s : State) (n : Nat) (v : Sup) : (s.setSup n v).routines = s.routines := rfl
@[simp] theorem State.setSup_asids (s : State) (n : Nat) (v : Sup) : (s.setSup n v).asids = s.asids := rfl
@[simp] theorem State.setSup_tcache (s : State) (n : Nat) (v : Sup) : (s.setSup n v).tcache = s.tcache := rfl
@[simp] theorem State.setSup_hostCached (s : State) (n : Nat) (v : Sup) : (s.setSup n v).hostCached = s.hostCached := rfl
@[simp] theorem State.setSup_ops (s : State) (n : Nat) (v : Sup) : (s.setSup n v).ops = s.ops := rfl
@[simp] theorem State.setSup_nextOp (s : State) (n : Nat) (v : Sup) : (s.setSup n v).nextOp = s.nextOp := rfl
@[simp] theorem State.setSup_rev (s : State) (n : Nat) (v : Sup) : (s.setSup n v).rev = s.rev := rfl
@[simp] theorem State.setSup_wpos (s : State) (n : Nat) (v : Sup) : (s.setSup n v).wpos = s.wpos := rfl
@[simp] theorem State.setSup_scTaken (s : State) (n : Nat) (v : Sup) : (s.setSup n v).scTaken = s.scTaken := rfl
@[simp] theorem State.setSup_ropes (s : State) (n : Nat) (v : Sup) : (s.setSup n v).ropes = s.ropes := rfl
@[simp] theorem State.setSup_tasks (s : State) (n : Nat) (v : Sup) : (s.setSup n v).tasks = s.tasks := rfl
@[simp] theorem State.setSup_nextTask (s : State) (n : Nat) (v : Sup) : (s.setSup n v).nextTask = s.nextTask := rfl
@[simp] theorem State.setSup_lastRope (s : State) (n : Nat) (v : Sup) : (s.setSup n v).lastRope = s.lastRope := rfl
@[simp] theorem State.setSup_retlog (s : State) (n : Nat) (v : Sup) : (s.setSup n v).retlog = s.retlog := rfl
@[simp] theorem State.setSup_preempt (s : State) (n : Nat) (v : Sup) : (s.setSup n v).preempt = s.preempt := rfl
@[simp] theorem State.setSup_saves (s : State) (n : Nat) (v : Sup) : (s.setSup n v).saves = s.saves := rfl
@[simp] theorem State.setSup_gint (s : State) (n : Nat) (v : Sup) : (s.setSup n v).gint = s.gint := rfl
@[simp] theorem State.setSup_islands (s : State) (n : Nat) (v : Sup) : (s.setSup n v).islands = s.islands := rfl
@[simp] theorem State.setSup_ecls (s : State) (n : Nat) (v : Sup) : (s.setSup n v).ecls = s.ecls := rfl
@[simp] theorem State.setSup_tct (s : State) (n : Nat) (v : Sup) : (s.setSup n v).tct = s.tct := rfl
@[simp] theorem State.setSup_dcost (s : State) (n : Nat) (v : Sup) : (s.setSup n v).dcost = s.dcost := rfl
@[simp] theorem State.setSup_newTabs (s : State) (n : Nat) (v : Sup) : (s.setSup n v).newTabs = s.newTabs := rfl
@[simp] theorem State.setSup_host (s : State) (n : Nat) (v : Sup) : (s.setSup n v).host = s.host := rfl
@[simp] theorem State.setSup_fids (s : State) (n : Nat) (v : Sup) : (s.setSup n v).fids = s.fids := rfl
@[simp] theorem State.setSup_fqwait (s : State) (n : Nat) (v : Sup) : (s.setSup n v).fqwait = s.fqwait := rfl
@[simp] theorem State.setSup_prgs (s : State) (n : Nat) (v : Sup) : (s.setSup n v).prgs = s.prgs := rfl
@[simp] theorem State.setSup_ats (s : State) (n : Nat) (v : Sup) : (s.setSup n v).ats = s.ats := rfl
@[simp] theorem State.setSup_hubWaits (s : State) (n : Nat) (v : Sup) : (s.setSup n v).hubWaits = s.hubWaits := rfl
@[simp] theorem State.setSup_nextPrg (s : State) (n : Nat) (v : Sup) : (s.setSup n v).nextPrg = s.nextPrg := rfl
@[simp] theorem State.setSup_mq (s : State) (n : Nat) (v : Sup) : (s.setSup n v).mq = s.mq := rfl
@[simp] theorem State.setSup_mon (s : State) (n : Nat) (v : Sup) : (s.setSup n v).mon = s.mon := rfl
@[simp] theorem State.setSup_mgmt (s : State) (n : Nat) (v : Sup) : (s.setSup n v).mgmt = s.mgmt := rfl
@[simp] theorem State.setSup_wonus (s : State) (n : Nat) (v : Sup) : (s.setSup n v).wonus = s.wonus := rfl
@[simp] theorem State.setSup_modSeq (s : State) (n : Nat) (v : Sup) : (s.setSup n v).modSeq = s.modSeq := rfl
@[simp] theorem State.setSup_served (s : State) (n : Nat) (v : Sup) : (s.setSup n v).served = s.served := rfl
@[simp] theorem State.setSup_waits (s : State) (n : Nat) (v : Sup) : (s.setSup n v).waits = s.waits := rfl
@[simp] theorem State.setSup_links (s : State) (n : Nat) (v : Sup) : (s.setSup n v).links = s.links := rfl
@[simp] theorem State.setSup_peers (s : State) (n : Nat) (v : Sup) : (s.setSup n v).peers = s.peers := rfl
@[simp] theorem State.setSup_feeds (s : State) (n : Nat) (v : Sup) : (s.setSup n v).feeds = s.feeds := rfl
@[simp] theorem State.setSup_ckRun (s : State) (n : Nat) (v : Sup) : (s.setSup n v).ckRun = s.ckRun := rfl
@[simp] theorem State.setSup_ckpts (s : State) (n : Nat) (v : Sup) : (s.setSup n v).ckpts = s.ckpts := rfl
@[simp] theorem State.setSup_ckGone (s : State) (n : Nat) (v : Sup) : (s.setSup n v).ckGone = s.ckGone := rfl
@[simp] theorem State.setSup_evac (s : State) (n : Nat) (v : Sup) : (s.setSup n v).evac = s.evac := rfl
@[simp] theorem State.setSup_errs (s : State) (n : Nat) (v : Sup) : (s.setSup n v).errs = s.errs := rfl
@[simp] theorem State.setSup_ceTimes (s : State) (n : Nat) (v : Sup) : (s.setSup n v).ceTimes = s.ceTimes := rfl
@[simp] theorem State.setSup_fatal (s : State) (n : Nat) (v : Sup) : (s.setSup n v).fatal = s.fatal := rfl
@[simp] theorem State.setSup_now (s : State) (n : Nat) (v : Sup) : (s.setSup n v).now = s.now := rfl
@[simp] theorem State.setSup_todo (s : State) (n : Nat) (v : Sup) : (s.setSup n v).todo = s.todo := rfl
@[simp] theorem State.setSup_inputs (s : State) (n : Nat) (v : Sup) : (s.setSup n v).inputs = s.inputs := rfl
@[simp] theorem State.setSup_issue (s : State) (n : Nat) (v : Sup) : (s.setSup n v).issue = s.issue := rfl
@[simp] theorem State.setSup_freeCtr (s : State) (n : Nat) (v : Sup) : (s.setSup n v).freeCtr = s.freeCtr := rfl
@[simp] theorem State.setSup_outbox (s : State) (n : Nat) (v : Sup) : (s.setSup n v).outbox = s.outbox := rfl

/-! ## setRope -/

@[simp] theorem State.setRope_ctxs (s : State) (n : Nat) (v : Rope) : (s.setRope n v).ctxs = s.ctxs := rfl
@[simp] theorem State.setRope_parts (s : State) (n : Nat) (v : Rope) : (s.setRope n v).parts = s.parts := rfl
@[simp] theorem State.setRope_cores (s : State) (n : Nat) (v : Rope) : (s.setRope n v).cores = s.cores := rfl
@[simp] theorem State.setRope_dram (s : State) (n : Nat) (v : Rope) : (s.setRope n v).dram = s.dram := rfl
@[simp] theorem State.setRope_hostMem (s : State) (n : Nat) (v : Rope) : (s.setRope n v).hostMem = s.hostMem := rfl
@[simp] theorem State.setRope_poison (s : State) (n : Nat) (v : Rope) : (s.setRope n v).poison = s.poison := rfl
@[simp] theorem State.setRope_lines (s : State) (n : Nat) (v : Rope) : (s.setRope n v).lines = s.lines := rfl
@[simp] theorem State.setRope_evt (s : State) (n : Nat) (v : Rope) : (s.setRope n v).evt = s.evt := rfl
@[simp] theorem State.setRope_swc (s : State) (n : Nat) (v : Rope) : (s.setRope n v).swc = s.swc := rfl
@[simp] theorem State.setRope_dir (s : State) (n : Nat) (v : Rope) : (s.setRope n v).dir = s.dir := rfl
@[simp] theorem State.setRope_owners (s : State) (n : Nat) (v : Rope) : (s.setRope n v).owners = s.owners := rfl
@[simp] theorem State.setRope_pins (s : State) (n : Nat) (v : Rope) : (s.setRope n v).pins = s.pins := rfl
@[simp] theorem State.setRope_dlt (s : State) (n : Nat) (v : Rope) : (s.setRope n v).dlt = s.dlt := rfl
@[simp] theorem State.setRope_rmap (s : State) (n : Nat) (v : Rope) : (s.setRope n v).rmap = s.rmap := rfl
@[simp] theorem State.setRope_routines (s : State) (n : Nat) (v : Rope) : (s.setRope n v).routines = s.routines := rfl
@[simp] theorem State.setRope_asids (s : State) (n : Nat) (v : Rope) : (s.setRope n v).asids = s.asids := rfl
@[simp] theorem State.setRope_tcache (s : State) (n : Nat) (v : Rope) : (s.setRope n v).tcache = s.tcache := rfl
@[simp] theorem State.setRope_hostCached (s : State) (n : Nat) (v : Rope) : (s.setRope n v).hostCached = s.hostCached := rfl
@[simp] theorem State.setRope_ops (s : State) (n : Nat) (v : Rope) : (s.setRope n v).ops = s.ops := rfl
@[simp] theorem State.setRope_nextOp (s : State) (n : Nat) (v : Rope) : (s.setRope n v).nextOp = s.nextOp := rfl
@[simp] theorem State.setRope_rev (s : State) (n : Nat) (v : Rope) : (s.setRope n v).rev = s.rev := rfl
@[simp] theorem State.setRope_wpos (s : State) (n : Nat) (v : Rope) : (s.setRope n v).wpos = s.wpos := rfl
@[simp] theorem State.setRope_scTaken (s : State) (n : Nat) (v : Rope) : (s.setRope n v).scTaken = s.scTaken := rfl
@[simp] theorem State.setRope_tasks (s : State) (n : Nat) (v : Rope) : (s.setRope n v).tasks = s.tasks := rfl
@[simp] theorem State.setRope_nextTask (s : State) (n : Nat) (v : Rope) : (s.setRope n v).nextTask = s.nextTask := rfl
@[simp] theorem State.setRope_lastRope (s : State) (n : Nat) (v : Rope) : (s.setRope n v).lastRope = s.lastRope := rfl
@[simp] theorem State.setRope_retlog (s : State) (n : Nat) (v : Rope) : (s.setRope n v).retlog = s.retlog := rfl
@[simp] theorem State.setRope_preempt (s : State) (n : Nat) (v : Rope) : (s.setRope n v).preempt = s.preempt := rfl
@[simp] theorem State.setRope_saves (s : State) (n : Nat) (v : Rope) : (s.setRope n v).saves = s.saves := rfl
@[simp] theorem State.setRope_gint (s : State) (n : Nat) (v : Rope) : (s.setRope n v).gint = s.gint := rfl
@[simp] theorem State.setRope_islands (s : State) (n : Nat) (v : Rope) : (s.setRope n v).islands = s.islands := rfl
@[simp] theorem State.setRope_ecls (s : State) (n : Nat) (v : Rope) : (s.setRope n v).ecls = s.ecls := rfl
@[simp] theorem State.setRope_tct (s : State) (n : Nat) (v : Rope) : (s.setRope n v).tct = s.tct := rfl
@[simp] theorem State.setRope_dcost (s : State) (n : Nat) (v : Rope) : (s.setRope n v).dcost = s.dcost := rfl
@[simp] theorem State.setRope_newTabs (s : State) (n : Nat) (v : Rope) : (s.setRope n v).newTabs = s.newTabs := rfl
@[simp] theorem State.setRope_host (s : State) (n : Nat) (v : Rope) : (s.setRope n v).host = s.host := rfl
@[simp] theorem State.setRope_fids (s : State) (n : Nat) (v : Rope) : (s.setRope n v).fids = s.fids := rfl
@[simp] theorem State.setRope_fqwait (s : State) (n : Nat) (v : Rope) : (s.setRope n v).fqwait = s.fqwait := rfl
@[simp] theorem State.setRope_prgs (s : State) (n : Nat) (v : Rope) : (s.setRope n v).prgs = s.prgs := rfl
@[simp] theorem State.setRope_ats (s : State) (n : Nat) (v : Rope) : (s.setRope n v).ats = s.ats := rfl
@[simp] theorem State.setRope_hubWaits (s : State) (n : Nat) (v : Rope) : (s.setRope n v).hubWaits = s.hubWaits := rfl
@[simp] theorem State.setRope_nextPrg (s : State) (n : Nat) (v : Rope) : (s.setRope n v).nextPrg = s.nextPrg := rfl
@[simp] theorem State.setRope_mq (s : State) (n : Nat) (v : Rope) : (s.setRope n v).mq = s.mq := rfl
@[simp] theorem State.setRope_sups (s : State) (n : Nat) (v : Rope) : (s.setRope n v).sups = s.sups := rfl
@[simp] theorem State.setRope_mon (s : State) (n : Nat) (v : Rope) : (s.setRope n v).mon = s.mon := rfl
@[simp] theorem State.setRope_mgmt (s : State) (n : Nat) (v : Rope) : (s.setRope n v).mgmt = s.mgmt := rfl
@[simp] theorem State.setRope_wonus (s : State) (n : Nat) (v : Rope) : (s.setRope n v).wonus = s.wonus := rfl
@[simp] theorem State.setRope_modSeq (s : State) (n : Nat) (v : Rope) : (s.setRope n v).modSeq = s.modSeq := rfl
@[simp] theorem State.setRope_served (s : State) (n : Nat) (v : Rope) : (s.setRope n v).served = s.served := rfl
@[simp] theorem State.setRope_waits (s : State) (n : Nat) (v : Rope) : (s.setRope n v).waits = s.waits := rfl
@[simp] theorem State.setRope_links (s : State) (n : Nat) (v : Rope) : (s.setRope n v).links = s.links := rfl
@[simp] theorem State.setRope_peers (s : State) (n : Nat) (v : Rope) : (s.setRope n v).peers = s.peers := rfl
@[simp] theorem State.setRope_feeds (s : State) (n : Nat) (v : Rope) : (s.setRope n v).feeds = s.feeds := rfl
@[simp] theorem State.setRope_ckRun (s : State) (n : Nat) (v : Rope) : (s.setRope n v).ckRun = s.ckRun := rfl
@[simp] theorem State.setRope_ckpts (s : State) (n : Nat) (v : Rope) : (s.setRope n v).ckpts = s.ckpts := rfl
@[simp] theorem State.setRope_ckGone (s : State) (n : Nat) (v : Rope) : (s.setRope n v).ckGone = s.ckGone := rfl
@[simp] theorem State.setRope_evac (s : State) (n : Nat) (v : Rope) : (s.setRope n v).evac = s.evac := rfl
@[simp] theorem State.setRope_errs (s : State) (n : Nat) (v : Rope) : (s.setRope n v).errs = s.errs := rfl
@[simp] theorem State.setRope_ceTimes (s : State) (n : Nat) (v : Rope) : (s.setRope n v).ceTimes = s.ceTimes := rfl
@[simp] theorem State.setRope_fatal (s : State) (n : Nat) (v : Rope) : (s.setRope n v).fatal = s.fatal := rfl
@[simp] theorem State.setRope_now (s : State) (n : Nat) (v : Rope) : (s.setRope n v).now = s.now := rfl
@[simp] theorem State.setRope_todo (s : State) (n : Nat) (v : Rope) : (s.setRope n v).todo = s.todo := rfl
@[simp] theorem State.setRope_inputs (s : State) (n : Nat) (v : Rope) : (s.setRope n v).inputs = s.inputs := rfl
@[simp] theorem State.setRope_issue (s : State) (n : Nat) (v : Rope) : (s.setRope n v).issue = s.issue := rfl
@[simp] theorem State.setRope_freeCtr (s : State) (n : Nat) (v : Rope) : (s.setRope n v).freeCtr = s.freeCtr := rfl
@[simp] theorem State.setRope_outbox (s : State) (n : Nat) (v : Rope) : (s.setRope n v).outbox = s.outbox := rfl

/-! ## setIsland -/

@[simp] theorem State.setIsland_ctxs (s : State) (n : Nat) (v : Island) : (s.setIsland n v).ctxs = s.ctxs := rfl
@[simp] theorem State.setIsland_parts (s : State) (n : Nat) (v : Island) : (s.setIsland n v).parts = s.parts := rfl
@[simp] theorem State.setIsland_cores (s : State) (n : Nat) (v : Island) : (s.setIsland n v).cores = s.cores := rfl
@[simp] theorem State.setIsland_dram (s : State) (n : Nat) (v : Island) : (s.setIsland n v).dram = s.dram := rfl
@[simp] theorem State.setIsland_hostMem (s : State) (n : Nat) (v : Island) : (s.setIsland n v).hostMem = s.hostMem := rfl
@[simp] theorem State.setIsland_poison (s : State) (n : Nat) (v : Island) : (s.setIsland n v).poison = s.poison := rfl
@[simp] theorem State.setIsland_lines (s : State) (n : Nat) (v : Island) : (s.setIsland n v).lines = s.lines := rfl
@[simp] theorem State.setIsland_evt (s : State) (n : Nat) (v : Island) : (s.setIsland n v).evt = s.evt := rfl
@[simp] theorem State.setIsland_swc (s : State) (n : Nat) (v : Island) : (s.setIsland n v).swc = s.swc := rfl
@[simp] theorem State.setIsland_dir (s : State) (n : Nat) (v : Island) : (s.setIsland n v).dir = s.dir := rfl
@[simp] theorem State.setIsland_owners (s : State) (n : Nat) (v : Island) : (s.setIsland n v).owners = s.owners := rfl
@[simp] theorem State.setIsland_pins (s : State) (n : Nat) (v : Island) : (s.setIsland n v).pins = s.pins := rfl
@[simp] theorem State.setIsland_dlt (s : State) (n : Nat) (v : Island) : (s.setIsland n v).dlt = s.dlt := rfl
@[simp] theorem State.setIsland_rmap (s : State) (n : Nat) (v : Island) : (s.setIsland n v).rmap = s.rmap := rfl
@[simp] theorem State.setIsland_routines (s : State) (n : Nat) (v : Island) : (s.setIsland n v).routines = s.routines := rfl
@[simp] theorem State.setIsland_asids (s : State) (n : Nat) (v : Island) : (s.setIsland n v).asids = s.asids := rfl
@[simp] theorem State.setIsland_tcache (s : State) (n : Nat) (v : Island) : (s.setIsland n v).tcache = s.tcache := rfl
@[simp] theorem State.setIsland_hostCached (s : State) (n : Nat) (v : Island) : (s.setIsland n v).hostCached = s.hostCached := rfl
@[simp] theorem State.setIsland_ops (s : State) (n : Nat) (v : Island) : (s.setIsland n v).ops = s.ops := rfl
@[simp] theorem State.setIsland_nextOp (s : State) (n : Nat) (v : Island) : (s.setIsland n v).nextOp = s.nextOp := rfl
@[simp] theorem State.setIsland_rev (s : State) (n : Nat) (v : Island) : (s.setIsland n v).rev = s.rev := rfl
@[simp] theorem State.setIsland_wpos (s : State) (n : Nat) (v : Island) : (s.setIsland n v).wpos = s.wpos := rfl
@[simp] theorem State.setIsland_scTaken (s : State) (n : Nat) (v : Island) : (s.setIsland n v).scTaken = s.scTaken := rfl
@[simp] theorem State.setIsland_ropes (s : State) (n : Nat) (v : Island) : (s.setIsland n v).ropes = s.ropes := rfl
@[simp] theorem State.setIsland_tasks (s : State) (n : Nat) (v : Island) : (s.setIsland n v).tasks = s.tasks := rfl
@[simp] theorem State.setIsland_nextTask (s : State) (n : Nat) (v : Island) : (s.setIsland n v).nextTask = s.nextTask := rfl
@[simp] theorem State.setIsland_lastRope (s : State) (n : Nat) (v : Island) : (s.setIsland n v).lastRope = s.lastRope := rfl
@[simp] theorem State.setIsland_retlog (s : State) (n : Nat) (v : Island) : (s.setIsland n v).retlog = s.retlog := rfl
@[simp] theorem State.setIsland_preempt (s : State) (n : Nat) (v : Island) : (s.setIsland n v).preempt = s.preempt := rfl
@[simp] theorem State.setIsland_saves (s : State) (n : Nat) (v : Island) : (s.setIsland n v).saves = s.saves := rfl
@[simp] theorem State.setIsland_gint (s : State) (n : Nat) (v : Island) : (s.setIsland n v).gint = s.gint := rfl
@[simp] theorem State.setIsland_ecls (s : State) (n : Nat) (v : Island) : (s.setIsland n v).ecls = s.ecls := rfl
@[simp] theorem State.setIsland_tct (s : State) (n : Nat) (v : Island) : (s.setIsland n v).tct = s.tct := rfl
@[simp] theorem State.setIsland_dcost (s : State) (n : Nat) (v : Island) : (s.setIsland n v).dcost = s.dcost := rfl
@[simp] theorem State.setIsland_newTabs (s : State) (n : Nat) (v : Island) : (s.setIsland n v).newTabs = s.newTabs := rfl
@[simp] theorem State.setIsland_host (s : State) (n : Nat) (v : Island) : (s.setIsland n v).host = s.host := rfl
@[simp] theorem State.setIsland_fids (s : State) (n : Nat) (v : Island) : (s.setIsland n v).fids = s.fids := rfl
@[simp] theorem State.setIsland_fqwait (s : State) (n : Nat) (v : Island) : (s.setIsland n v).fqwait = s.fqwait := rfl
@[simp] theorem State.setIsland_prgs (s : State) (n : Nat) (v : Island) : (s.setIsland n v).prgs = s.prgs := rfl
@[simp] theorem State.setIsland_ats (s : State) (n : Nat) (v : Island) : (s.setIsland n v).ats = s.ats := rfl
@[simp] theorem State.setIsland_hubWaits (s : State) (n : Nat) (v : Island) : (s.setIsland n v).hubWaits = s.hubWaits := rfl
@[simp] theorem State.setIsland_nextPrg (s : State) (n : Nat) (v : Island) : (s.setIsland n v).nextPrg = s.nextPrg := rfl
@[simp] theorem State.setIsland_mq (s : State) (n : Nat) (v : Island) : (s.setIsland n v).mq = s.mq := rfl
@[simp] theorem State.setIsland_sups (s : State) (n : Nat) (v : Island) : (s.setIsland n v).sups = s.sups := rfl
@[simp] theorem State.setIsland_mon (s : State) (n : Nat) (v : Island) : (s.setIsland n v).mon = s.mon := rfl
@[simp] theorem State.setIsland_mgmt (s : State) (n : Nat) (v : Island) : (s.setIsland n v).mgmt = s.mgmt := rfl
@[simp] theorem State.setIsland_wonus (s : State) (n : Nat) (v : Island) : (s.setIsland n v).wonus = s.wonus := rfl
@[simp] theorem State.setIsland_modSeq (s : State) (n : Nat) (v : Island) : (s.setIsland n v).modSeq = s.modSeq := rfl
@[simp] theorem State.setIsland_served (s : State) (n : Nat) (v : Island) : (s.setIsland n v).served = s.served := rfl
@[simp] theorem State.setIsland_waits (s : State) (n : Nat) (v : Island) : (s.setIsland n v).waits = s.waits := rfl
@[simp] theorem State.setIsland_links (s : State) (n : Nat) (v : Island) : (s.setIsland n v).links = s.links := rfl
@[simp] theorem State.setIsland_peers (s : State) (n : Nat) (v : Island) : (s.setIsland n v).peers = s.peers := rfl
@[simp] theorem State.setIsland_feeds (s : State) (n : Nat) (v : Island) : (s.setIsland n v).feeds = s.feeds := rfl
@[simp] theorem State.setIsland_ckRun (s : State) (n : Nat) (v : Island) : (s.setIsland n v).ckRun = s.ckRun := rfl
@[simp] theorem State.setIsland_ckpts (s : State) (n : Nat) (v : Island) : (s.setIsland n v).ckpts = s.ckpts := rfl
@[simp] theorem State.setIsland_ckGone (s : State) (n : Nat) (v : Island) : (s.setIsland n v).ckGone = s.ckGone := rfl
@[simp] theorem State.setIsland_evac (s : State) (n : Nat) (v : Island) : (s.setIsland n v).evac = s.evac := rfl
@[simp] theorem State.setIsland_errs (s : State) (n : Nat) (v : Island) : (s.setIsland n v).errs = s.errs := rfl
@[simp] theorem State.setIsland_ceTimes (s : State) (n : Nat) (v : Island) : (s.setIsland n v).ceTimes = s.ceTimes := rfl
@[simp] theorem State.setIsland_fatal (s : State) (n : Nat) (v : Island) : (s.setIsland n v).fatal = s.fatal := rfl
@[simp] theorem State.setIsland_now (s : State) (n : Nat) (v : Island) : (s.setIsland n v).now = s.now := rfl
@[simp] theorem State.setIsland_todo (s : State) (n : Nat) (v : Island) : (s.setIsland n v).todo = s.todo := rfl
@[simp] theorem State.setIsland_inputs (s : State) (n : Nat) (v : Island) : (s.setIsland n v).inputs = s.inputs := rfl
@[simp] theorem State.setIsland_issue (s : State) (n : Nat) (v : Island) : (s.setIsland n v).issue = s.issue := rfl
@[simp] theorem State.setIsland_freeCtr (s : State) (n : Nat) (v : Island) : (s.setIsland n v).freeCtr = s.freeCtr := rfl
@[simp] theorem State.setIsland_outbox (s : State) (n : Nat) (v : Island) : (s.setIsland n v).outbox = s.outbox := rfl

/-! ## setLink -/

@[simp] theorem State.setLink_ctxs (s : State) (n : Nat) (v : LinkQ) : (s.setLink n v).ctxs = s.ctxs := rfl
@[simp] theorem State.setLink_parts (s : State) (n : Nat) (v : LinkQ) : (s.setLink n v).parts = s.parts := rfl
@[simp] theorem State.setLink_cores (s : State) (n : Nat) (v : LinkQ) : (s.setLink n v).cores = s.cores := rfl
@[simp] theorem State.setLink_dram (s : State) (n : Nat) (v : LinkQ) : (s.setLink n v).dram = s.dram := rfl
@[simp] theorem State.setLink_hostMem (s : State) (n : Nat) (v : LinkQ) : (s.setLink n v).hostMem = s.hostMem := rfl
@[simp] theorem State.setLink_poison (s : State) (n : Nat) (v : LinkQ) : (s.setLink n v).poison = s.poison := rfl
@[simp] theorem State.setLink_lines (s : State) (n : Nat) (v : LinkQ) : (s.setLink n v).lines = s.lines := rfl
@[simp] theorem State.setLink_evt (s : State) (n : Nat) (v : LinkQ) : (s.setLink n v).evt = s.evt := rfl
@[simp] theorem State.setLink_swc (s : State) (n : Nat) (v : LinkQ) : (s.setLink n v).swc = s.swc := rfl
@[simp] theorem State.setLink_dir (s : State) (n : Nat) (v : LinkQ) : (s.setLink n v).dir = s.dir := rfl
@[simp] theorem State.setLink_owners (s : State) (n : Nat) (v : LinkQ) : (s.setLink n v).owners = s.owners := rfl
@[simp] theorem State.setLink_pins (s : State) (n : Nat) (v : LinkQ) : (s.setLink n v).pins = s.pins := rfl
@[simp] theorem State.setLink_dlt (s : State) (n : Nat) (v : LinkQ) : (s.setLink n v).dlt = s.dlt := rfl
@[simp] theorem State.setLink_rmap (s : State) (n : Nat) (v : LinkQ) : (s.setLink n v).rmap = s.rmap := rfl
@[simp] theorem State.setLink_routines (s : State) (n : Nat) (v : LinkQ) : (s.setLink n v).routines = s.routines := rfl
@[simp] theorem State.setLink_asids (s : State) (n : Nat) (v : LinkQ) : (s.setLink n v).asids = s.asids := rfl
@[simp] theorem State.setLink_tcache (s : State) (n : Nat) (v : LinkQ) : (s.setLink n v).tcache = s.tcache := rfl
@[simp] theorem State.setLink_hostCached (s : State) (n : Nat) (v : LinkQ) : (s.setLink n v).hostCached = s.hostCached := rfl
@[simp] theorem State.setLink_ops (s : State) (n : Nat) (v : LinkQ) : (s.setLink n v).ops = s.ops := rfl
@[simp] theorem State.setLink_nextOp (s : State) (n : Nat) (v : LinkQ) : (s.setLink n v).nextOp = s.nextOp := rfl
@[simp] theorem State.setLink_rev (s : State) (n : Nat) (v : LinkQ) : (s.setLink n v).rev = s.rev := rfl
@[simp] theorem State.setLink_wpos (s : State) (n : Nat) (v : LinkQ) : (s.setLink n v).wpos = s.wpos := rfl
@[simp] theorem State.setLink_scTaken (s : State) (n : Nat) (v : LinkQ) : (s.setLink n v).scTaken = s.scTaken := rfl
@[simp] theorem State.setLink_ropes (s : State) (n : Nat) (v : LinkQ) : (s.setLink n v).ropes = s.ropes := rfl
@[simp] theorem State.setLink_tasks (s : State) (n : Nat) (v : LinkQ) : (s.setLink n v).tasks = s.tasks := rfl
@[simp] theorem State.setLink_nextTask (s : State) (n : Nat) (v : LinkQ) : (s.setLink n v).nextTask = s.nextTask := rfl
@[simp] theorem State.setLink_lastRope (s : State) (n : Nat) (v : LinkQ) : (s.setLink n v).lastRope = s.lastRope := rfl
@[simp] theorem State.setLink_retlog (s : State) (n : Nat) (v : LinkQ) : (s.setLink n v).retlog = s.retlog := rfl
@[simp] theorem State.setLink_preempt (s : State) (n : Nat) (v : LinkQ) : (s.setLink n v).preempt = s.preempt := rfl
@[simp] theorem State.setLink_saves (s : State) (n : Nat) (v : LinkQ) : (s.setLink n v).saves = s.saves := rfl
@[simp] theorem State.setLink_gint (s : State) (n : Nat) (v : LinkQ) : (s.setLink n v).gint = s.gint := rfl
@[simp] theorem State.setLink_islands (s : State) (n : Nat) (v : LinkQ) : (s.setLink n v).islands = s.islands := rfl
@[simp] theorem State.setLink_ecls (s : State) (n : Nat) (v : LinkQ) : (s.setLink n v).ecls = s.ecls := rfl
@[simp] theorem State.setLink_tct (s : State) (n : Nat) (v : LinkQ) : (s.setLink n v).tct = s.tct := rfl
@[simp] theorem State.setLink_dcost (s : State) (n : Nat) (v : LinkQ) : (s.setLink n v).dcost = s.dcost := rfl
@[simp] theorem State.setLink_newTabs (s : State) (n : Nat) (v : LinkQ) : (s.setLink n v).newTabs = s.newTabs := rfl
@[simp] theorem State.setLink_host (s : State) (n : Nat) (v : LinkQ) : (s.setLink n v).host = s.host := rfl
@[simp] theorem State.setLink_fids (s : State) (n : Nat) (v : LinkQ) : (s.setLink n v).fids = s.fids := rfl
@[simp] theorem State.setLink_fqwait (s : State) (n : Nat) (v : LinkQ) : (s.setLink n v).fqwait = s.fqwait := rfl
@[simp] theorem State.setLink_prgs (s : State) (n : Nat) (v : LinkQ) : (s.setLink n v).prgs = s.prgs := rfl
@[simp] theorem State.setLink_ats (s : State) (n : Nat) (v : LinkQ) : (s.setLink n v).ats = s.ats := rfl
@[simp] theorem State.setLink_hubWaits (s : State) (n : Nat) (v : LinkQ) : (s.setLink n v).hubWaits = s.hubWaits := rfl
@[simp] theorem State.setLink_nextPrg (s : State) (n : Nat) (v : LinkQ) : (s.setLink n v).nextPrg = s.nextPrg := rfl
@[simp] theorem State.setLink_mq (s : State) (n : Nat) (v : LinkQ) : (s.setLink n v).mq = s.mq := rfl
@[simp] theorem State.setLink_sups (s : State) (n : Nat) (v : LinkQ) : (s.setLink n v).sups = s.sups := rfl
@[simp] theorem State.setLink_mon (s : State) (n : Nat) (v : LinkQ) : (s.setLink n v).mon = s.mon := rfl
@[simp] theorem State.setLink_mgmt (s : State) (n : Nat) (v : LinkQ) : (s.setLink n v).mgmt = s.mgmt := rfl
@[simp] theorem State.setLink_wonus (s : State) (n : Nat) (v : LinkQ) : (s.setLink n v).wonus = s.wonus := rfl
@[simp] theorem State.setLink_modSeq (s : State) (n : Nat) (v : LinkQ) : (s.setLink n v).modSeq = s.modSeq := rfl
@[simp] theorem State.setLink_served (s : State) (n : Nat) (v : LinkQ) : (s.setLink n v).served = s.served := rfl
@[simp] theorem State.setLink_waits (s : State) (n : Nat) (v : LinkQ) : (s.setLink n v).waits = s.waits := rfl
@[simp] theorem State.setLink_peers (s : State) (n : Nat) (v : LinkQ) : (s.setLink n v).peers = s.peers := rfl
@[simp] theorem State.setLink_feeds (s : State) (n : Nat) (v : LinkQ) : (s.setLink n v).feeds = s.feeds := rfl
@[simp] theorem State.setLink_ckRun (s : State) (n : Nat) (v : LinkQ) : (s.setLink n v).ckRun = s.ckRun := rfl
@[simp] theorem State.setLink_ckpts (s : State) (n : Nat) (v : LinkQ) : (s.setLink n v).ckpts = s.ckpts := rfl
@[simp] theorem State.setLink_ckGone (s : State) (n : Nat) (v : LinkQ) : (s.setLink n v).ckGone = s.ckGone := rfl
@[simp] theorem State.setLink_evac (s : State) (n : Nat) (v : LinkQ) : (s.setLink n v).evac = s.evac := rfl
@[simp] theorem State.setLink_errs (s : State) (n : Nat) (v : LinkQ) : (s.setLink n v).errs = s.errs := rfl
@[simp] theorem State.setLink_ceTimes (s : State) (n : Nat) (v : LinkQ) : (s.setLink n v).ceTimes = s.ceTimes := rfl
@[simp] theorem State.setLink_fatal (s : State) (n : Nat) (v : LinkQ) : (s.setLink n v).fatal = s.fatal := rfl
@[simp] theorem State.setLink_now (s : State) (n : Nat) (v : LinkQ) : (s.setLink n v).now = s.now := rfl
@[simp] theorem State.setLink_todo (s : State) (n : Nat) (v : LinkQ) : (s.setLink n v).todo = s.todo := rfl
@[simp] theorem State.setLink_inputs (s : State) (n : Nat) (v : LinkQ) : (s.setLink n v).inputs = s.inputs := rfl
@[simp] theorem State.setLink_issue (s : State) (n : Nat) (v : LinkQ) : (s.setLink n v).issue = s.issue := rfl
@[simp] theorem State.setLink_freeCtr (s : State) (n : Nat) (v : LinkQ) : (s.setLink n v).freeCtr = s.freeCtr := rfl
@[simp] theorem State.setLink_outbox (s : State) (n : Nat) (v : LinkQ) : (s.setLink n v).outbox = s.outbox := rfl

/-! ## setPeer -/

@[simp] theorem State.setPeer_ctxs (s : State) (n : Nat) (v : Peer) : (s.setPeer n v).ctxs = s.ctxs := rfl
@[simp] theorem State.setPeer_parts (s : State) (n : Nat) (v : Peer) : (s.setPeer n v).parts = s.parts := rfl
@[simp] theorem State.setPeer_cores (s : State) (n : Nat) (v : Peer) : (s.setPeer n v).cores = s.cores := rfl
@[simp] theorem State.setPeer_dram (s : State) (n : Nat) (v : Peer) : (s.setPeer n v).dram = s.dram := rfl
@[simp] theorem State.setPeer_hostMem (s : State) (n : Nat) (v : Peer) : (s.setPeer n v).hostMem = s.hostMem := rfl
@[simp] theorem State.setPeer_poison (s : State) (n : Nat) (v : Peer) : (s.setPeer n v).poison = s.poison := rfl
@[simp] theorem State.setPeer_lines (s : State) (n : Nat) (v : Peer) : (s.setPeer n v).lines = s.lines := rfl
@[simp] theorem State.setPeer_evt (s : State) (n : Nat) (v : Peer) : (s.setPeer n v).evt = s.evt := rfl
@[simp] theorem State.setPeer_swc (s : State) (n : Nat) (v : Peer) : (s.setPeer n v).swc = s.swc := rfl
@[simp] theorem State.setPeer_dir (s : State) (n : Nat) (v : Peer) : (s.setPeer n v).dir = s.dir := rfl
@[simp] theorem State.setPeer_owners (s : State) (n : Nat) (v : Peer) : (s.setPeer n v).owners = s.owners := rfl
@[simp] theorem State.setPeer_pins (s : State) (n : Nat) (v : Peer) : (s.setPeer n v).pins = s.pins := rfl
@[simp] theorem State.setPeer_dlt (s : State) (n : Nat) (v : Peer) : (s.setPeer n v).dlt = s.dlt := rfl
@[simp] theorem State.setPeer_rmap (s : State) (n : Nat) (v : Peer) : (s.setPeer n v).rmap = s.rmap := rfl
@[simp] theorem State.setPeer_routines (s : State) (n : Nat) (v : Peer) : (s.setPeer n v).routines = s.routines := rfl
@[simp] theorem State.setPeer_asids (s : State) (n : Nat) (v : Peer) : (s.setPeer n v).asids = s.asids := rfl
@[simp] theorem State.setPeer_tcache (s : State) (n : Nat) (v : Peer) : (s.setPeer n v).tcache = s.tcache := rfl
@[simp] theorem State.setPeer_hostCached (s : State) (n : Nat) (v : Peer) : (s.setPeer n v).hostCached = s.hostCached := rfl
@[simp] theorem State.setPeer_ops (s : State) (n : Nat) (v : Peer) : (s.setPeer n v).ops = s.ops := rfl
@[simp] theorem State.setPeer_nextOp (s : State) (n : Nat) (v : Peer) : (s.setPeer n v).nextOp = s.nextOp := rfl
@[simp] theorem State.setPeer_rev (s : State) (n : Nat) (v : Peer) : (s.setPeer n v).rev = s.rev := rfl
@[simp] theorem State.setPeer_wpos (s : State) (n : Nat) (v : Peer) : (s.setPeer n v).wpos = s.wpos := rfl
@[simp] theorem State.setPeer_scTaken (s : State) (n : Nat) (v : Peer) : (s.setPeer n v).scTaken = s.scTaken := rfl
@[simp] theorem State.setPeer_ropes (s : State) (n : Nat) (v : Peer) : (s.setPeer n v).ropes = s.ropes := rfl
@[simp] theorem State.setPeer_tasks (s : State) (n : Nat) (v : Peer) : (s.setPeer n v).tasks = s.tasks := rfl
@[simp] theorem State.setPeer_nextTask (s : State) (n : Nat) (v : Peer) : (s.setPeer n v).nextTask = s.nextTask := rfl
@[simp] theorem State.setPeer_lastRope (s : State) (n : Nat) (v : Peer) : (s.setPeer n v).lastRope = s.lastRope := rfl
@[simp] theorem State.setPeer_retlog (s : State) (n : Nat) (v : Peer) : (s.setPeer n v).retlog = s.retlog := rfl
@[simp] theorem State.setPeer_preempt (s : State) (n : Nat) (v : Peer) : (s.setPeer n v).preempt = s.preempt := rfl
@[simp] theorem State.setPeer_saves (s : State) (n : Nat) (v : Peer) : (s.setPeer n v).saves = s.saves := rfl
@[simp] theorem State.setPeer_gint (s : State) (n : Nat) (v : Peer) : (s.setPeer n v).gint = s.gint := rfl
@[simp] theorem State.setPeer_islands (s : State) (n : Nat) (v : Peer) : (s.setPeer n v).islands = s.islands := rfl
@[simp] theorem State.setPeer_ecls (s : State) (n : Nat) (v : Peer) : (s.setPeer n v).ecls = s.ecls := rfl
@[simp] theorem State.setPeer_tct (s : State) (n : Nat) (v : Peer) : (s.setPeer n v).tct = s.tct := rfl
@[simp] theorem State.setPeer_dcost (s : State) (n : Nat) (v : Peer) : (s.setPeer n v).dcost = s.dcost := rfl
@[simp] theorem State.setPeer_newTabs (s : State) (n : Nat) (v : Peer) : (s.setPeer n v).newTabs = s.newTabs := rfl
@[simp] theorem State.setPeer_host (s : State) (n : Nat) (v : Peer) : (s.setPeer n v).host = s.host := rfl
@[simp] theorem State.setPeer_fids (s : State) (n : Nat) (v : Peer) : (s.setPeer n v).fids = s.fids := rfl
@[simp] theorem State.setPeer_fqwait (s : State) (n : Nat) (v : Peer) : (s.setPeer n v).fqwait = s.fqwait := rfl
@[simp] theorem State.setPeer_prgs (s : State) (n : Nat) (v : Peer) : (s.setPeer n v).prgs = s.prgs := rfl
@[simp] theorem State.setPeer_ats (s : State) (n : Nat) (v : Peer) : (s.setPeer n v).ats = s.ats := rfl
@[simp] theorem State.setPeer_hubWaits (s : State) (n : Nat) (v : Peer) : (s.setPeer n v).hubWaits = s.hubWaits := rfl
@[simp] theorem State.setPeer_nextPrg (s : State) (n : Nat) (v : Peer) : (s.setPeer n v).nextPrg = s.nextPrg := rfl
@[simp] theorem State.setPeer_mq (s : State) (n : Nat) (v : Peer) : (s.setPeer n v).mq = s.mq := rfl
@[simp] theorem State.setPeer_sups (s : State) (n : Nat) (v : Peer) : (s.setPeer n v).sups = s.sups := rfl
@[simp] theorem State.setPeer_mon (s : State) (n : Nat) (v : Peer) : (s.setPeer n v).mon = s.mon := rfl
@[simp] theorem State.setPeer_mgmt (s : State) (n : Nat) (v : Peer) : (s.setPeer n v).mgmt = s.mgmt := rfl
@[simp] theorem State.setPeer_wonus (s : State) (n : Nat) (v : Peer) : (s.setPeer n v).wonus = s.wonus := rfl
@[simp] theorem State.setPeer_modSeq (s : State) (n : Nat) (v : Peer) : (s.setPeer n v).modSeq = s.modSeq := rfl
@[simp] theorem State.setPeer_served (s : State) (n : Nat) (v : Peer) : (s.setPeer n v).served = s.served := rfl
@[simp] theorem State.setPeer_waits (s : State) (n : Nat) (v : Peer) : (s.setPeer n v).waits = s.waits := rfl
@[simp] theorem State.setPeer_links (s : State) (n : Nat) (v : Peer) : (s.setPeer n v).links = s.links := rfl
@[simp] theorem State.setPeer_feeds (s : State) (n : Nat) (v : Peer) : (s.setPeer n v).feeds = s.feeds := rfl
@[simp] theorem State.setPeer_ckRun (s : State) (n : Nat) (v : Peer) : (s.setPeer n v).ckRun = s.ckRun := rfl
@[simp] theorem State.setPeer_ckpts (s : State) (n : Nat) (v : Peer) : (s.setPeer n v).ckpts = s.ckpts := rfl
@[simp] theorem State.setPeer_ckGone (s : State) (n : Nat) (v : Peer) : (s.setPeer n v).ckGone = s.ckGone := rfl
@[simp] theorem State.setPeer_evac (s : State) (n : Nat) (v : Peer) : (s.setPeer n v).evac = s.evac := rfl
@[simp] theorem State.setPeer_errs (s : State) (n : Nat) (v : Peer) : (s.setPeer n v).errs = s.errs := rfl
@[simp] theorem State.setPeer_ceTimes (s : State) (n : Nat) (v : Peer) : (s.setPeer n v).ceTimes = s.ceTimes := rfl
@[simp] theorem State.setPeer_fatal (s : State) (n : Nat) (v : Peer) : (s.setPeer n v).fatal = s.fatal := rfl
@[simp] theorem State.setPeer_now (s : State) (n : Nat) (v : Peer) : (s.setPeer n v).now = s.now := rfl
@[simp] theorem State.setPeer_todo (s : State) (n : Nat) (v : Peer) : (s.setPeer n v).todo = s.todo := rfl
@[simp] theorem State.setPeer_inputs (s : State) (n : Nat) (v : Peer) : (s.setPeer n v).inputs = s.inputs := rfl
@[simp] theorem State.setPeer_issue (s : State) (n : Nat) (v : Peer) : (s.setPeer n v).issue = s.issue := rfl
@[simp] theorem State.setPeer_freeCtr (s : State) (n : Nat) (v : Peer) : (s.setPeer n v).freeCtr = s.freeCtr := rfl
@[simp] theorem State.setPeer_outbox (s : State) (n : Nat) (v : Peer) : (s.setPeer n v).outbox = s.outbox := rfl

/-! ## modTask -/

@[simp] theorem State.modTask_ctxs (s : State) (n : Nat) (f : Task → Task) : (s.modTask n f).ctxs = s.ctxs := rfl
@[simp] theorem State.modTask_parts (s : State) (n : Nat) (f : Task → Task) : (s.modTask n f).parts = s.parts := rfl
@[simp] theorem State.modTask_cores (s : State) (n : Nat) (f : Task → Task) : (s.modTask n f).cores = s.cores := rfl
@[simp] theorem State.modTask_dram (s : State) (n : Nat) (f : Task → Task) : (s.modTask n f).dram = s.dram := rfl
@[simp] theorem State.modTask_hostMem (s : State) (n : Nat) (f : Task → Task) : (s.modTask n f).hostMem = s.hostMem := rfl
@[simp] theorem State.modTask_poison (s : State) (n : Nat) (f : Task → Task) : (s.modTask n f).poison = s.poison := rfl
@[simp] theorem State.modTask_lines (s : State) (n : Nat) (f : Task → Task) : (s.modTask n f).lines = s.lines := rfl
@[simp] theorem State.modTask_evt (s : State) (n : Nat) (f : Task → Task) : (s.modTask n f).evt = s.evt := rfl
@[simp] theorem State.modTask_swc (s : State) (n : Nat) (f : Task → Task) : (s.modTask n f).swc = s.swc := rfl
@[simp] theorem State.modTask_dir (s : State) (n : Nat) (f : Task → Task) : (s.modTask n f).dir = s.dir := rfl
@[simp] theorem State.modTask_owners (s : State) (n : Nat) (f : Task → Task) : (s.modTask n f).owners = s.owners := rfl
@[simp] theorem State.modTask_pins (s : State) (n : Nat) (f : Task → Task) : (s.modTask n f).pins = s.pins := rfl
@[simp] theorem State.modTask_dlt (s : State) (n : Nat) (f : Task → Task) : (s.modTask n f).dlt = s.dlt := rfl
@[simp] theorem State.modTask_rmap (s : State) (n : Nat) (f : Task → Task) : (s.modTask n f).rmap = s.rmap := rfl
@[simp] theorem State.modTask_routines (s : State) (n : Nat) (f : Task → Task) : (s.modTask n f).routines = s.routines := rfl
@[simp] theorem State.modTask_asids (s : State) (n : Nat) (f : Task → Task) : (s.modTask n f).asids = s.asids := rfl
@[simp] theorem State.modTask_tcache (s : State) (n : Nat) (f : Task → Task) : (s.modTask n f).tcache = s.tcache := rfl
@[simp] theorem State.modTask_hostCached (s : State) (n : Nat) (f : Task → Task) : (s.modTask n f).hostCached = s.hostCached := rfl
@[simp] theorem State.modTask_ops (s : State) (n : Nat) (f : Task → Task) : (s.modTask n f).ops = s.ops := rfl
@[simp] theorem State.modTask_nextOp (s : State) (n : Nat) (f : Task → Task) : (s.modTask n f).nextOp = s.nextOp := rfl
@[simp] theorem State.modTask_rev (s : State) (n : Nat) (f : Task → Task) : (s.modTask n f).rev = s.rev := rfl
@[simp] theorem State.modTask_wpos (s : State) (n : Nat) (f : Task → Task) : (s.modTask n f).wpos = s.wpos := rfl
@[simp] theorem State.modTask_scTaken (s : State) (n : Nat) (f : Task → Task) : (s.modTask n f).scTaken = s.scTaken := rfl
@[simp] theorem State.modTask_ropes (s : State) (n : Nat) (f : Task → Task) : (s.modTask n f).ropes = s.ropes := rfl
@[simp] theorem State.modTask_nextTask (s : State) (n : Nat) (f : Task → Task) : (s.modTask n f).nextTask = s.nextTask := rfl
@[simp] theorem State.modTask_lastRope (s : State) (n : Nat) (f : Task → Task) : (s.modTask n f).lastRope = s.lastRope := rfl
@[simp] theorem State.modTask_retlog (s : State) (n : Nat) (f : Task → Task) : (s.modTask n f).retlog = s.retlog := rfl
@[simp] theorem State.modTask_preempt (s : State) (n : Nat) (f : Task → Task) : (s.modTask n f).preempt = s.preempt := rfl
@[simp] theorem State.modTask_saves (s : State) (n : Nat) (f : Task → Task) : (s.modTask n f).saves = s.saves := rfl
@[simp] theorem State.modTask_gint (s : State) (n : Nat) (f : Task → Task) : (s.modTask n f).gint = s.gint := rfl
@[simp] theorem State.modTask_islands (s : State) (n : Nat) (f : Task → Task) : (s.modTask n f).islands = s.islands := rfl
@[simp] theorem State.modTask_ecls (s : State) (n : Nat) (f : Task → Task) : (s.modTask n f).ecls = s.ecls := rfl
@[simp] theorem State.modTask_tct (s : State) (n : Nat) (f : Task → Task) : (s.modTask n f).tct = s.tct := rfl
@[simp] theorem State.modTask_dcost (s : State) (n : Nat) (f : Task → Task) : (s.modTask n f).dcost = s.dcost := rfl
@[simp] theorem State.modTask_newTabs (s : State) (n : Nat) (f : Task → Task) : (s.modTask n f).newTabs = s.newTabs := rfl
@[simp] theorem State.modTask_host (s : State) (n : Nat) (f : Task → Task) : (s.modTask n f).host = s.host := rfl
@[simp] theorem State.modTask_fids (s : State) (n : Nat) (f : Task → Task) : (s.modTask n f).fids = s.fids := rfl
@[simp] theorem State.modTask_fqwait (s : State) (n : Nat) (f : Task → Task) : (s.modTask n f).fqwait = s.fqwait := rfl
@[simp] theorem State.modTask_prgs (s : State) (n : Nat) (f : Task → Task) : (s.modTask n f).prgs = s.prgs := rfl
@[simp] theorem State.modTask_ats (s : State) (n : Nat) (f : Task → Task) : (s.modTask n f).ats = s.ats := rfl
@[simp] theorem State.modTask_hubWaits (s : State) (n : Nat) (f : Task → Task) : (s.modTask n f).hubWaits = s.hubWaits := rfl
@[simp] theorem State.modTask_nextPrg (s : State) (n : Nat) (f : Task → Task) : (s.modTask n f).nextPrg = s.nextPrg := rfl
@[simp] theorem State.modTask_mq (s : State) (n : Nat) (f : Task → Task) : (s.modTask n f).mq = s.mq := rfl
@[simp] theorem State.modTask_sups (s : State) (n : Nat) (f : Task → Task) : (s.modTask n f).sups = s.sups := rfl
@[simp] theorem State.modTask_mon (s : State) (n : Nat) (f : Task → Task) : (s.modTask n f).mon = s.mon := rfl
@[simp] theorem State.modTask_mgmt (s : State) (n : Nat) (f : Task → Task) : (s.modTask n f).mgmt = s.mgmt := rfl
@[simp] theorem State.modTask_wonus (s : State) (n : Nat) (f : Task → Task) : (s.modTask n f).wonus = s.wonus := rfl
@[simp] theorem State.modTask_modSeq (s : State) (n : Nat) (f : Task → Task) : (s.modTask n f).modSeq = s.modSeq := rfl
@[simp] theorem State.modTask_served (s : State) (n : Nat) (f : Task → Task) : (s.modTask n f).served = s.served := rfl
@[simp] theorem State.modTask_waits (s : State) (n : Nat) (f : Task → Task) : (s.modTask n f).waits = s.waits := rfl
@[simp] theorem State.modTask_links (s : State) (n : Nat) (f : Task → Task) : (s.modTask n f).links = s.links := rfl
@[simp] theorem State.modTask_peers (s : State) (n : Nat) (f : Task → Task) : (s.modTask n f).peers = s.peers := rfl
@[simp] theorem State.modTask_feeds (s : State) (n : Nat) (f : Task → Task) : (s.modTask n f).feeds = s.feeds := rfl
@[simp] theorem State.modTask_ckRun (s : State) (n : Nat) (f : Task → Task) : (s.modTask n f).ckRun = s.ckRun := rfl
@[simp] theorem State.modTask_ckpts (s : State) (n : Nat) (f : Task → Task) : (s.modTask n f).ckpts = s.ckpts := rfl
@[simp] theorem State.modTask_ckGone (s : State) (n : Nat) (f : Task → Task) : (s.modTask n f).ckGone = s.ckGone := rfl
@[simp] theorem State.modTask_evac (s : State) (n : Nat) (f : Task → Task) : (s.modTask n f).evac = s.evac := rfl
@[simp] theorem State.modTask_errs (s : State) (n : Nat) (f : Task → Task) : (s.modTask n f).errs = s.errs := rfl
@[simp] theorem State.modTask_ceTimes (s : State) (n : Nat) (f : Task → Task) : (s.modTask n f).ceTimes = s.ceTimes := rfl
@[simp] theorem State.modTask_fatal (s : State) (n : Nat) (f : Task → Task) : (s.modTask n f).fatal = s.fatal := rfl
@[simp] theorem State.modTask_now (s : State) (n : Nat) (f : Task → Task) : (s.modTask n f).now = s.now := rfl
@[simp] theorem State.modTask_todo (s : State) (n : Nat) (f : Task → Task) : (s.modTask n f).todo = s.todo := rfl
@[simp] theorem State.modTask_inputs (s : State) (n : Nat) (f : Task → Task) : (s.modTask n f).inputs = s.inputs := rfl
@[simp] theorem State.modTask_issue (s : State) (n : Nat) (f : Task → Task) : (s.modTask n f).issue = s.issue := rfl
@[simp] theorem State.modTask_freeCtr (s : State) (n : Nat) (f : Task → Task) : (s.modTask n f).freeCtr = s.freeCtr := rfl
@[simp] theorem State.modTask_outbox (s : State) (n : Nat) (f : Task → Task) : (s.modTask n f).outbox = s.outbox := rfl

/-! ## send -/

@[simp] theorem State.send_ctxs (s : State) (m : Msg) : (s.send m).ctxs = s.ctxs := rfl
@[simp] theorem State.send_parts (s : State) (m : Msg) : (s.send m).parts = s.parts := rfl
@[simp] theorem State.send_cores (s : State) (m : Msg) : (s.send m).cores = s.cores := rfl
@[simp] theorem State.send_dram (s : State) (m : Msg) : (s.send m).dram = s.dram := rfl
@[simp] theorem State.send_hostMem (s : State) (m : Msg) : (s.send m).hostMem = s.hostMem := rfl
@[simp] theorem State.send_poison (s : State) (m : Msg) : (s.send m).poison = s.poison := rfl
@[simp] theorem State.send_lines (s : State) (m : Msg) : (s.send m).lines = s.lines := rfl
@[simp] theorem State.send_evt (s : State) (m : Msg) : (s.send m).evt = s.evt := rfl
@[simp] theorem State.send_swc (s : State) (m : Msg) : (s.send m).swc = s.swc := rfl
@[simp] theorem State.send_dir (s : State) (m : Msg) : (s.send m).dir = s.dir := rfl
@[simp] theorem State.send_owners (s : State) (m : Msg) : (s.send m).owners = s.owners := rfl
@[simp] theorem State.send_pins (s : State) (m : Msg) : (s.send m).pins = s.pins := rfl
@[simp] theorem State.send_dlt (s : State) (m : Msg) : (s.send m).dlt = s.dlt := rfl
@[simp] theorem State.send_rmap (s : State) (m : Msg) : (s.send m).rmap = s.rmap := rfl
@[simp] theorem State.send_routines (s : State) (m : Msg) : (s.send m).routines = s.routines := rfl
@[simp] theorem State.send_asids (s : State) (m : Msg) : (s.send m).asids = s.asids := rfl
@[simp] theorem State.send_tcache (s : State) (m : Msg) : (s.send m).tcache = s.tcache := rfl
@[simp] theorem State.send_hostCached (s : State) (m : Msg) : (s.send m).hostCached = s.hostCached := rfl
@[simp] theorem State.send_ops (s : State) (m : Msg) : (s.send m).ops = s.ops := rfl
@[simp] theorem State.send_nextOp (s : State) (m : Msg) : (s.send m).nextOp = s.nextOp := rfl
@[simp] theorem State.send_rev (s : State) (m : Msg) : (s.send m).rev = s.rev := rfl
@[simp] theorem State.send_wpos (s : State) (m : Msg) : (s.send m).wpos = s.wpos := rfl
@[simp] theorem State.send_scTaken (s : State) (m : Msg) : (s.send m).scTaken = s.scTaken := rfl
@[simp] theorem State.send_ropes (s : State) (m : Msg) : (s.send m).ropes = s.ropes := rfl
@[simp] theorem State.send_tasks (s : State) (m : Msg) : (s.send m).tasks = s.tasks := rfl
@[simp] theorem State.send_nextTask (s : State) (m : Msg) : (s.send m).nextTask = s.nextTask := rfl
@[simp] theorem State.send_lastRope (s : State) (m : Msg) : (s.send m).lastRope = s.lastRope := rfl
@[simp] theorem State.send_retlog (s : State) (m : Msg) : (s.send m).retlog = s.retlog := rfl
@[simp] theorem State.send_preempt (s : State) (m : Msg) : (s.send m).preempt = s.preempt := rfl
@[simp] theorem State.send_saves (s : State) (m : Msg) : (s.send m).saves = s.saves := rfl
@[simp] theorem State.send_gint (s : State) (m : Msg) : (s.send m).gint = s.gint := rfl
@[simp] theorem State.send_islands (s : State) (m : Msg) : (s.send m).islands = s.islands := rfl
@[simp] theorem State.send_ecls (s : State) (m : Msg) : (s.send m).ecls = s.ecls := rfl
@[simp] theorem State.send_tct (s : State) (m : Msg) : (s.send m).tct = s.tct := rfl
@[simp] theorem State.send_dcost (s : State) (m : Msg) : (s.send m).dcost = s.dcost := rfl
@[simp] theorem State.send_newTabs (s : State) (m : Msg) : (s.send m).newTabs = s.newTabs := rfl
@[simp] theorem State.send_host (s : State) (m : Msg) : (s.send m).host = s.host := rfl
@[simp] theorem State.send_fids (s : State) (m : Msg) : (s.send m).fids = s.fids := rfl
@[simp] theorem State.send_fqwait (s : State) (m : Msg) : (s.send m).fqwait = s.fqwait := rfl
@[simp] theorem State.send_prgs (s : State) (m : Msg) : (s.send m).prgs = s.prgs := rfl
@[simp] theorem State.send_ats (s : State) (m : Msg) : (s.send m).ats = s.ats := rfl
@[simp] theorem State.send_hubWaits (s : State) (m : Msg) : (s.send m).hubWaits = s.hubWaits := rfl
@[simp] theorem State.send_nextPrg (s : State) (m : Msg) : (s.send m).nextPrg = s.nextPrg := rfl
@[simp] theorem State.send_mq (s : State) (m : Msg) : (s.send m).mq = s.mq := rfl
@[simp] theorem State.send_sups (s : State) (m : Msg) : (s.send m).sups = s.sups := rfl
@[simp] theorem State.send_mon (s : State) (m : Msg) : (s.send m).mon = s.mon := rfl
@[simp] theorem State.send_mgmt (s : State) (m : Msg) : (s.send m).mgmt = s.mgmt := rfl
@[simp] theorem State.send_wonus (s : State) (m : Msg) : (s.send m).wonus = s.wonus := rfl
@[simp] theorem State.send_modSeq (s : State) (m : Msg) : (s.send m).modSeq = s.modSeq := rfl
@[simp] theorem State.send_served (s : State) (m : Msg) : (s.send m).served = s.served := rfl
@[simp] theorem State.send_waits (s : State) (m : Msg) : (s.send m).waits = s.waits := rfl
@[simp] theorem State.send_links (s : State) (m : Msg) : (s.send m).links = s.links := rfl
@[simp] theorem State.send_peers (s : State) (m : Msg) : (s.send m).peers = s.peers := rfl
@[simp] theorem State.send_feeds (s : State) (m : Msg) : (s.send m).feeds = s.feeds := rfl
@[simp] theorem State.send_ckRun (s : State) (m : Msg) : (s.send m).ckRun = s.ckRun := rfl
@[simp] theorem State.send_ckpts (s : State) (m : Msg) : (s.send m).ckpts = s.ckpts := rfl
@[simp] theorem State.send_ckGone (s : State) (m : Msg) : (s.send m).ckGone = s.ckGone := rfl
@[simp] theorem State.send_evac (s : State) (m : Msg) : (s.send m).evac = s.evac := rfl
@[simp] theorem State.send_errs (s : State) (m : Msg) : (s.send m).errs = s.errs := rfl
@[simp] theorem State.send_ceTimes (s : State) (m : Msg) : (s.send m).ceTimes = s.ceTimes := rfl
@[simp] theorem State.send_fatal (s : State) (m : Msg) : (s.send m).fatal = s.fatal := rfl
@[simp] theorem State.send_now (s : State) (m : Msg) : (s.send m).now = s.now := rfl
@[simp] theorem State.send_todo (s : State) (m : Msg) : (s.send m).todo = s.todo := rfl
@[simp] theorem State.send_inputs (s : State) (m : Msg) : (s.send m).inputs = s.inputs := rfl
@[simp] theorem State.send_issue (s : State) (m : Msg) : (s.send m).issue = s.issue := rfl
@[simp] theorem State.send_freeCtr (s : State) (m : Msg) : (s.send m).freeCtr = s.freeCtr := rfl

/-! ## after -/

@[simp] theorem State.after_ctxs (s : State) (l : List Agent) : (s.after l).ctxs = s.ctxs := rfl
@[simp] theorem State.after_parts (s : State) (l : List Agent) : (s.after l).parts = s.parts := rfl
@[simp] theorem State.after_cores (s : State) (l : List Agent) : (s.after l).cores = s.cores := rfl
@[simp] theorem State.after_dram (s : State) (l : List Agent) : (s.after l).dram = s.dram := rfl
@[simp] theorem State.after_hostMem (s : State) (l : List Agent) : (s.after l).hostMem = s.hostMem := rfl
@[simp] theorem State.after_poison (s : State) (l : List Agent) : (s.after l).poison = s.poison := rfl
@[simp] theorem State.after_lines (s : State) (l : List Agent) : (s.after l).lines = s.lines := rfl
@[simp] theorem State.after_evt (s : State) (l : List Agent) : (s.after l).evt = s.evt := rfl
@[simp] theorem State.after_swc (s : State) (l : List Agent) : (s.after l).swc = s.swc := rfl
@[simp] theorem State.after_dir (s : State) (l : List Agent) : (s.after l).dir = s.dir := rfl
@[simp] theorem State.after_owners (s : State) (l : List Agent) : (s.after l).owners = s.owners := rfl
@[simp] theorem State.after_pins (s : State) (l : List Agent) : (s.after l).pins = s.pins := rfl
@[simp] theorem State.after_dlt (s : State) (l : List Agent) : (s.after l).dlt = s.dlt := rfl
@[simp] theorem State.after_rmap (s : State) (l : List Agent) : (s.after l).rmap = s.rmap := rfl
@[simp] theorem State.after_routines (s : State) (l : List Agent) : (s.after l).routines = s.routines := rfl
@[simp] theorem State.after_asids (s : State) (l : List Agent) : (s.after l).asids = s.asids := rfl
@[simp] theorem State.after_tcache (s : State) (l : List Agent) : (s.after l).tcache = s.tcache := rfl
@[simp] theorem State.after_hostCached (s : State) (l : List Agent) : (s.after l).hostCached = s.hostCached := rfl
@[simp] theorem State.after_ops (s : State) (l : List Agent) : (s.after l).ops = s.ops := rfl
@[simp] theorem State.after_nextOp (s : State) (l : List Agent) : (s.after l).nextOp = s.nextOp := rfl
@[simp] theorem State.after_rev (s : State) (l : List Agent) : (s.after l).rev = s.rev := rfl
@[simp] theorem State.after_wpos (s : State) (l : List Agent) : (s.after l).wpos = s.wpos := rfl
@[simp] theorem State.after_scTaken (s : State) (l : List Agent) : (s.after l).scTaken = s.scTaken := rfl
@[simp] theorem State.after_ropes (s : State) (l : List Agent) : (s.after l).ropes = s.ropes := rfl
@[simp] theorem State.after_tasks (s : State) (l : List Agent) : (s.after l).tasks = s.tasks := rfl
@[simp] theorem State.after_nextTask (s : State) (l : List Agent) : (s.after l).nextTask = s.nextTask := rfl
@[simp] theorem State.after_lastRope (s : State) (l : List Agent) : (s.after l).lastRope = s.lastRope := rfl
@[simp] theorem State.after_retlog (s : State) (l : List Agent) : (s.after l).retlog = s.retlog := rfl
@[simp] theorem State.after_preempt (s : State) (l : List Agent) : (s.after l).preempt = s.preempt := rfl
@[simp] theorem State.after_saves (s : State) (l : List Agent) : (s.after l).saves = s.saves := rfl
@[simp] theorem State.after_gint (s : State) (l : List Agent) : (s.after l).gint = s.gint := rfl
@[simp] theorem State.after_islands (s : State) (l : List Agent) : (s.after l).islands = s.islands := rfl
@[simp] theorem State.after_ecls (s : State) (l : List Agent) : (s.after l).ecls = s.ecls := rfl
@[simp] theorem State.after_tct (s : State) (l : List Agent) : (s.after l).tct = s.tct := rfl
@[simp] theorem State.after_dcost (s : State) (l : List Agent) : (s.after l).dcost = s.dcost := rfl
@[simp] theorem State.after_newTabs (s : State) (l : List Agent) : (s.after l).newTabs = s.newTabs := rfl
@[simp] theorem State.after_host (s : State) (l : List Agent) : (s.after l).host = s.host := rfl
@[simp] theorem State.after_fids (s : State) (l : List Agent) : (s.after l).fids = s.fids := rfl
@[simp] theorem State.after_fqwait (s : State) (l : List Agent) : (s.after l).fqwait = s.fqwait := rfl
@[simp] theorem State.after_prgs (s : State) (l : List Agent) : (s.after l).prgs = s.prgs := rfl
@[simp] theorem State.after_ats (s : State) (l : List Agent) : (s.after l).ats = s.ats := rfl
@[simp] theorem State.after_hubWaits (s : State) (l : List Agent) : (s.after l).hubWaits = s.hubWaits := rfl
@[simp] theorem State.after_nextPrg (s : State) (l : List Agent) : (s.after l).nextPrg = s.nextPrg := rfl
@[simp] theorem State.after_mq (s : State) (l : List Agent) : (s.after l).mq = s.mq := rfl
@[simp] theorem State.after_sups (s : State) (l : List Agent) : (s.after l).sups = s.sups := rfl
@[simp] theorem State.after_mon (s : State) (l : List Agent) : (s.after l).mon = s.mon := rfl
@[simp] theorem State.after_mgmt (s : State) (l : List Agent) : (s.after l).mgmt = s.mgmt := rfl
@[simp] theorem State.after_wonus (s : State) (l : List Agent) : (s.after l).wonus = s.wonus := rfl
@[simp] theorem State.after_modSeq (s : State) (l : List Agent) : (s.after l).modSeq = s.modSeq := rfl
@[simp] theorem State.after_served (s : State) (l : List Agent) : (s.after l).served = s.served := rfl
@[simp] theorem State.after_waits (s : State) (l : List Agent) : (s.after l).waits = s.waits := rfl
@[simp] theorem State.after_links (s : State) (l : List Agent) : (s.after l).links = s.links := rfl
@[simp] theorem State.after_peers (s : State) (l : List Agent) : (s.after l).peers = s.peers := rfl
@[simp] theorem State.after_feeds (s : State) (l : List Agent) : (s.after l).feeds = s.feeds := rfl
@[simp] theorem State.after_ckRun (s : State) (l : List Agent) : (s.after l).ckRun = s.ckRun := rfl
@[simp] theorem State.after_ckpts (s : State) (l : List Agent) : (s.after l).ckpts = s.ckpts := rfl
@[simp] theorem State.after_ckGone (s : State) (l : List Agent) : (s.after l).ckGone = s.ckGone := rfl
@[simp] theorem State.after_evac (s : State) (l : List Agent) : (s.after l).evac = s.evac := rfl
@[simp] theorem State.after_errs (s : State) (l : List Agent) : (s.after l).errs = s.errs := rfl
@[simp] theorem State.after_ceTimes (s : State) (l : List Agent) : (s.after l).ceTimes = s.ceTimes := rfl
@[simp] theorem State.after_fatal (s : State) (l : List Agent) : (s.after l).fatal = s.fatal := rfl
@[simp] theorem State.after_now (s : State) (l : List Agent) : (s.after l).now = s.now := rfl
@[simp] theorem State.after_inputs (s : State) (l : List Agent) : (s.after l).inputs = s.inputs := rfl
@[simp] theorem State.after_issue (s : State) (l : List Agent) : (s.after l).issue = s.issue := rfl
@[simp] theorem State.after_freeCtr (s : State) (l : List Agent) : (s.after l).freeCtr = s.freeCtr := rfl
@[simp] theorem State.after_outbox (s : State) (l : List Agent) : (s.after l).outbox = s.outbox := rfl

/-! ## Accessors -/

@[simp] theorem State.setCtx_part_at (s : State) (x : CtxNo) (v : Ctx) (y : Nat) : (s.setCtx x v).part y = s.part y := rfl
@[simp] theorem State.setCtx_core_at (s : State) (x : CtxNo) (v : Ctx) (y : Nat) : (s.setCtx x v).core y = s.core y := rfl
@[simp] theorem State.setCtx_sup_at (s : State) (x : CtxNo) (v : Ctx) (y : Nat) : (s.setCtx x v).sup y = s.sup y := rfl
@[simp] theorem State.setCtx_ropeOf_at (s : State) (x : CtxNo) (v : Ctx) (y : Nat) : (s.setCtx x v).ropeOf y = s.ropeOf y := rfl
@[simp] theorem State.setCtx_island_at (s : State) (x : CtxNo) (v : Ctx) (y : Nat) : (s.setCtx x v).island y = s.island y := rfl
@[simp] theorem State.setCtx_link_at (s : State) (x : CtxNo) (v : Ctx) (y : Nat) : (s.setCtx x v).link y = s.link y := rfl
@[simp] theorem State.setCtx_peer_at (s : State) (x : CtxNo) (v : Ctx) (y : Nat) : (s.setCtx x v).peer y = s.peer y := rfl
@[simp] theorem State.setCtx_taskQ_at (s : State) (x : CtxNo) (v : Ctx) (y : Nat) : (s.setCtx x v).task? y = s.task? y := rfl
@[simp] theorem State.setPart_ctx_at (s : State) (n : Nat) (v : Part) (y : CtxNo) : (s.setPart n v).ctx y = s.ctx y := rfl
@[simp] theorem State.setPart_core_at (s : State) (n : Nat) (v : Part) (y : Nat) : (s.setPart n v).core y = s.core y := rfl
@[simp] theorem State.setPart_sup_at (s : State) (n : Nat) (v : Part) (y : Nat) : (s.setPart n v).sup y = s.sup y := rfl
@[simp] theorem State.setPart_ropeOf_at (s : State) (n : Nat) (v : Part) (y : Nat) : (s.setPart n v).ropeOf y = s.ropeOf y := rfl
@[simp] theorem State.setPart_island_at (s : State) (n : Nat) (v : Part) (y : Nat) : (s.setPart n v).island y = s.island y := rfl
@[simp] theorem State.setPart_link_at (s : State) (n : Nat) (v : Part) (y : Nat) : (s.setPart n v).link y = s.link y := rfl
@[simp] theorem State.setPart_peer_at (s : State) (n : Nat) (v : Part) (y : Nat) : (s.setPart n v).peer y = s.peer y := rfl
@[simp] theorem State.setPart_taskQ_at (s : State) (n : Nat) (v : Part) (y : Nat) : (s.setPart n v).task? y = s.task? y := rfl
@[simp] theorem State.setCore_ctx_at (s : State) (n : Nat) (v : Core) (y : CtxNo) : (s.setCore n v).ctx y = s.ctx y := rfl
@[simp] theorem State.setCore_part_at (s : State) (n : Nat) (v : Core) (y : Nat) : (s.setCore n v).part y = s.part y := rfl
@[simp] theorem State.setCore_sup_at (s : State) (n : Nat) (v : Core) (y : Nat) : (s.setCore n v).sup y = s.sup y := rfl
@[simp] theorem State.setCore_ropeOf_at (s : State) (n : Nat) (v : Core) (y : Nat) : (s.setCore n v).ropeOf y = s.ropeOf y := rfl
@[simp] theorem State.setCore_island_at (s : State) (n : Nat) (v : Core) (y : Nat) : (s.setCore n v).island y = s.island y := rfl
@[simp] theorem State.setCore_link_at (s : State) (n : Nat) (v : Core) (y : Nat) : (s.setCore n v).link y = s.link y := rfl
@[simp] theorem State.setCore_peer_at (s : State) (n : Nat) (v : Core) (y : Nat) : (s.setCore n v).peer y = s.peer y := rfl
@[simp] theorem State.setCore_taskQ_at (s : State) (n : Nat) (v : Core) (y : Nat) : (s.setCore n v).task? y = s.task? y := rfl
@[simp] theorem State.setSup_ctx_at (s : State) (n : Nat) (v : Sup) (y : CtxNo) : (s.setSup n v).ctx y = s.ctx y := rfl
@[simp] theorem State.setSup_part_at (s : State) (n : Nat) (v : Sup) (y : Nat) : (s.setSup n v).part y = s.part y := rfl
@[simp] theorem State.setSup_core_at (s : State) (n : Nat) (v : Sup) (y : Nat) : (s.setSup n v).core y = s.core y := rfl
@[simp] theorem State.setSup_ropeOf_at (s : State) (n : Nat) (v : Sup) (y : Nat) : (s.setSup n v).ropeOf y = s.ropeOf y := rfl
@[simp] theorem State.setSup_island_at (s : State) (n : Nat) (v : Sup) (y : Nat) : (s.setSup n v).island y = s.island y := rfl
@[simp] theorem State.setSup_link_at (s : State) (n : Nat) (v : Sup) (y : Nat) : (s.setSup n v).link y = s.link y := rfl
@[simp] theorem State.setSup_peer_at (s : State) (n : Nat) (v : Sup) (y : Nat) : (s.setSup n v).peer y = s.peer y := rfl
@[simp] theorem State.setSup_taskQ_at (s : State) (n : Nat) (v : Sup) (y : Nat) : (s.setSup n v).task? y = s.task? y := rfl
@[simp] theorem State.setRope_ctx_at (s : State) (n : Nat) (v : Rope) (y : CtxNo) : (s.setRope n v).ctx y = s.ctx y := rfl
@[simp] theorem State.setRope_part_at (s : State) (n : Nat) (v : Rope) (y : Nat) : (s.setRope n v).part y = s.part y := rfl
@[simp] theorem State.setRope_core_at (s : State) (n : Nat) (v : Rope) (y : Nat) : (s.setRope n v).core y = s.core y := rfl
@[simp] theorem State.setRope_sup_at (s : State) (n : Nat) (v : Rope) (y : Nat) : (s.setRope n v).sup y = s.sup y := rfl
@[simp] theorem State.setRope_island_at (s : State) (n : Nat) (v : Rope) (y : Nat) : (s.setRope n v).island y = s.island y := rfl
@[simp] theorem State.setRope_link_at (s : State) (n : Nat) (v : Rope) (y : Nat) : (s.setRope n v).link y = s.link y := rfl
@[simp] theorem State.setRope_peer_at (s : State) (n : Nat) (v : Rope) (y : Nat) : (s.setRope n v).peer y = s.peer y := rfl
@[simp] theorem State.setRope_taskQ_at (s : State) (n : Nat) (v : Rope) (y : Nat) : (s.setRope n v).task? y = s.task? y := rfl
@[simp] theorem State.setIsland_ctx_at (s : State) (n : Nat) (v : Island) (y : CtxNo) : (s.setIsland n v).ctx y = s.ctx y := rfl
@[simp] theorem State.setIsland_part_at (s : State) (n : Nat) (v : Island) (y : Nat) : (s.setIsland n v).part y = s.part y := rfl
@[simp] theorem State.setIsland_core_at (s : State) (n : Nat) (v : Island) (y : Nat) : (s.setIsland n v).core y = s.core y := rfl
@[simp] theorem State.setIsland_sup_at (s : State) (n : Nat) (v : Island) (y : Nat) : (s.setIsland n v).sup y = s.sup y := rfl
@[simp] theorem State.setIsland_ropeOf_at (s : State) (n : Nat) (v : Island) (y : Nat) : (s.setIsland n v).ropeOf y = s.ropeOf y := rfl
@[simp] theorem State.setIsland_link_at (s : State) (n : Nat) (v : Island) (y : Nat) : (s.setIsland n v).link y = s.link y := rfl
@[simp] theorem State.setIsland_peer_at (s : State) (n : Nat) (v : Island) (y : Nat) : (s.setIsland n v).peer y = s.peer y := rfl
@[simp] theorem State.setIsland_taskQ_at (s : State) (n : Nat) (v : Island) (y : Nat) : (s.setIsland n v).task? y = s.task? y := rfl
@[simp] theorem State.setLink_ctx_at (s : State) (n : Nat) (v : LinkQ) (y : CtxNo) : (s.setLink n v).ctx y = s.ctx y := rfl
@[simp] theorem State.setLink_part_at (s : State) (n : Nat) (v : LinkQ) (y : Nat) : (s.setLink n v).part y = s.part y := rfl
@[simp] theorem State.setLink_core_at (s : State) (n : Nat) (v : LinkQ) (y : Nat) : (s.setLink n v).core y = s.core y := rfl
@[simp] theorem State.setLink_sup_at (s : State) (n : Nat) (v : LinkQ) (y : Nat) : (s.setLink n v).sup y = s.sup y := rfl
@[simp] theorem State.setLink_ropeOf_at (s : State) (n : Nat) (v : LinkQ) (y : Nat) : (s.setLink n v).ropeOf y = s.ropeOf y := rfl
@[simp] theorem State.setLink_island_at (s : State) (n : Nat) (v : LinkQ) (y : Nat) : (s.setLink n v).island y = s.island y := rfl
@[simp] theorem State.setLink_peer_at (s : State) (n : Nat) (v : LinkQ) (y : Nat) : (s.setLink n v).peer y = s.peer y := rfl
@[simp] theorem State.setLink_taskQ_at (s : State) (n : Nat) (v : LinkQ) (y : Nat) : (s.setLink n v).task? y = s.task? y := rfl
@[simp] theorem State.setPeer_ctx_at (s : State) (n : Nat) (v : Peer) (y : CtxNo) : (s.setPeer n v).ctx y = s.ctx y := rfl
@[simp] theorem State.setPeer_part_at (s : State) (n : Nat) (v : Peer) (y : Nat) : (s.setPeer n v).part y = s.part y := rfl
@[simp] theorem State.setPeer_core_at (s : State) (n : Nat) (v : Peer) (y : Nat) : (s.setPeer n v).core y = s.core y := rfl
@[simp] theorem State.setPeer_sup_at (s : State) (n : Nat) (v : Peer) (y : Nat) : (s.setPeer n v).sup y = s.sup y := rfl
@[simp] theorem State.setPeer_ropeOf_at (s : State) (n : Nat) (v : Peer) (y : Nat) : (s.setPeer n v).ropeOf y = s.ropeOf y := rfl
@[simp] theorem State.setPeer_island_at (s : State) (n : Nat) (v : Peer) (y : Nat) : (s.setPeer n v).island y = s.island y := rfl
@[simp] theorem State.setPeer_link_at (s : State) (n : Nat) (v : Peer) (y : Nat) : (s.setPeer n v).link y = s.link y := rfl
@[simp] theorem State.setPeer_taskQ_at (s : State) (n : Nat) (v : Peer) (y : Nat) : (s.setPeer n v).task? y = s.task? y := rfl
@[simp] theorem State.modTask_ctx_at (s : State) (n : Nat) (f : Task → Task) (y : CtxNo) : (s.modTask n f).ctx y = s.ctx y := rfl
@[simp] theorem State.modTask_part_at (s : State) (n : Nat) (f : Task → Task) (y : Nat) : (s.modTask n f).part y = s.part y := rfl
@[simp] theorem State.modTask_core_at (s : State) (n : Nat) (f : Task → Task) (y : Nat) : (s.modTask n f).core y = s.core y := rfl
@[simp] theorem State.modTask_sup_at (s : State) (n : Nat) (f : Task → Task) (y : Nat) : (s.modTask n f).sup y = s.sup y := rfl
@[simp] theorem State.modTask_ropeOf_at (s : State) (n : Nat) (f : Task → Task) (y : Nat) : (s.modTask n f).ropeOf y = s.ropeOf y := rfl
@[simp] theorem State.modTask_island_at (s : State) (n : Nat) (f : Task → Task) (y : Nat) : (s.modTask n f).island y = s.island y := rfl
@[simp] theorem State.modTask_link_at (s : State) (n : Nat) (f : Task → Task) (y : Nat) : (s.modTask n f).link y = s.link y := rfl
@[simp] theorem State.modTask_peer_at (s : State) (n : Nat) (f : Task → Task) (y : Nat) : (s.modTask n f).peer y = s.peer y := rfl
@[simp] theorem State.send_ctx_at (s : State) (m : Msg) (y : CtxNo) : (s.send m).ctx y = s.ctx y := rfl
@[simp] theorem State.send_part_at (s : State) (m : Msg) (y : Nat) : (s.send m).part y = s.part y := rfl
@[simp] theorem State.send_core_at (s : State) (m : Msg) (y : Nat) : (s.send m).core y = s.core y := rfl
@[simp] theorem State.send_sup_at (s : State) (m : Msg) (y : Nat) : (s.send m).sup y = s.sup y := rfl
@[simp] theorem State.send_ropeOf_at (s : State) (m : Msg) (y : Nat) : (s.send m).ropeOf y = s.ropeOf y := rfl
@[simp] theorem State.send_island_at (s : State) (m : Msg) (y : Nat) : (s.send m).island y = s.island y := rfl
@[simp] theorem State.send_link_at (s : State) (m : Msg) (y : Nat) : (s.send m).link y = s.link y := rfl
@[simp] theorem State.send_peer_at (s : State) (m : Msg) (y : Nat) : (s.send m).peer y = s.peer y := rfl
@[simp] theorem State.send_taskQ_at (s : State) (m : Msg) (y : Nat) : (s.send m).task? y = s.task? y := rfl
@[simp] theorem State.after_ctx_at (s : State) (l : List Agent) (y : CtxNo) : (s.after l).ctx y = s.ctx y := rfl
@[simp] theorem State.after_part_at (s : State) (l : List Agent) (y : Nat) : (s.after l).part y = s.part y := rfl
@[simp] theorem State.after_core_at (s : State) (l : List Agent) (y : Nat) : (s.after l).core y = s.core y := rfl
@[simp] theorem State.after_sup_at (s : State) (l : List Agent) (y : Nat) : (s.after l).sup y = s.sup y := rfl
@[simp] theorem State.after_ropeOf_at (s : State) (l : List Agent) (y : Nat) : (s.after l).ropeOf y = s.ropeOf y := rfl
@[simp] theorem State.after_island_at (s : State) (l : List Agent) (y : Nat) : (s.after l).island y = s.island y := rfl
@[simp] theorem State.after_link_at (s : State) (l : List Agent) (y : Nat) : (s.after l).link y = s.link y := rfl
@[simp] theorem State.after_peer_at (s : State) (l : List Agent) (y : Nat) : (s.after l).peer y = s.peer y := rfl
@[simp] theorem State.after_taskQ_at (s : State) (l : List Agent) (y : Nat) : (s.after l).task? y = s.task? y := rfl

@[simp] theorem State.setCtx_ctx_same (s : State) (x : CtxNo) (v : Ctx) : (s.setCtx x v).ctx x = v :=
  SMap.get_set_same _ _ _ _
theorem State.setCtx_ctx_ne (s : State) {x y : CtxNo} (v : Ctx) (h : y ≠ x) : (s.setCtx x v).ctx y = s.ctx y :=
  SMap.get_set_ne _ _ _ (fun e => h (Fin.ext e))
@[simp] theorem State.setPart_part_same (s : State) (n : Nat) (v : Part) : (s.setPart n v).part n = v :=
  SMap.get_set_same _ _ _ _
theorem State.setPart_part_ne (s : State) {n k : Nat} (v : Part) (h : k ≠ n) : (s.setPart n v).part k = s.part k :=
  SMap.get_set_ne _ _ _ h
@[simp] theorem State.setCore_core_same (s : State) (n : Nat) (v : Core) : (s.setCore n v).core n = v :=
  SMap.get_set_same _ _ _ _
theorem State.setCore_core_ne (s : State) {n k : Nat} (v : Core) (h : k ≠ n) : (s.setCore n v).core k = s.core k :=
  SMap.get_set_ne _ _ _ h
@[simp] theorem State.setSup_sup_same (s : State) (n : Nat) (v : Sup) : (s.setSup n v).sup n = v :=
  SMap.get_set_same _ _ _ _
theorem State.setSup_sup_ne (s : State) {n k : Nat} (v : Sup) (h : k ≠ n) : (s.setSup n v).sup k = s.sup k :=
  SMap.get_set_ne _ _ _ h
@[simp] theorem State.setRope_ropeOf_same (s : State) (n : Nat) (v : Rope) : (s.setRope n v).ropeOf n = v :=
  SMap.get_set_same _ _ _ _
theorem State.setRope_ropeOf_ne (s : State) {n k : Nat} (v : Rope) (h : k ≠ n) : (s.setRope n v).ropeOf k = s.ropeOf k :=
  SMap.get_set_ne _ _ _ h
@[simp] theorem State.setIsland_island_same (s : State) (n : Nat) (v : Island) : (s.setIsland n v).island n = v :=
  SMap.get_set_same _ _ _ _
theorem State.setIsland_island_ne (s : State) {n k : Nat} (v : Island) (h : k ≠ n) : (s.setIsland n v).island k = s.island k :=
  SMap.get_set_ne _ _ _ h
@[simp] theorem State.setLink_link_same (s : State) (n : Nat) (v : LinkQ) : (s.setLink n v).link n = v :=
  SMap.get_set_same _ _ _ _
theorem State.setLink_link_ne (s : State) {n k : Nat} (v : LinkQ) (h : k ≠ n) : (s.setLink n v).link k = s.link k :=
  SMap.get_set_ne _ _ _ h
@[simp] theorem State.setPeer_peer_same (s : State) (n : Nat) (v : Peer) : (s.setPeer n v).peer n = v :=
  SMap.get_set_same _ _ _ _
theorem State.setPeer_peer_ne (s : State) {n k : Nat} (v : Peer) (h : k ≠ n) : (s.setPeer n v).peer k = s.peer k :=
  SMap.get_set_ne _ _ _ h

/-! ## Updates by a function are writes of what it gives -/

@[simp] theorem State.modCtx_eq (s : State) (n : CtxNo) (f : Ctx → Ctx) : s.modCtx n f = s.setCtx n (f (s.ctx n)) := rfl
@[simp] theorem State.modCore_eq (s : State) (n : Nat) (f : Core → Core) : s.modCore n f = s.setCore n (f (s.core n)) := rfl
@[simp] theorem State.modSup_eq (s : State) (n : Nat) (f : Sup → Sup) : s.modSup n f = s.setSup n (f (s.sup n)) := rfl
@[simp] theorem State.modRope_eq (s : State) (n : Nat) (f : Rope → Rope) : s.modRope n f = s.setRope n (f (s.ropeOf n)) := rfl
@[simp] theorem State.modIsland_eq (s : State) (n : Nat) (f : Island → Island) : s.modIsland n f = s.setIsland n (f (s.island n)) := rfl

/-! ## Fresh numbers and free choices -/

@[simp] theorem State.fresh_ctxs (s : State) : (s.fresh).2.ctxs = s.ctxs := rfl
@[simp] theorem State.fresh_parts (s : State) : (s.fresh).2.parts = s.parts := rfl
@[simp] theorem State.fresh_cores (s : State) : (s.fresh).2.cores = s.cores := rfl
@[simp] theorem State.fresh_dram (s : State) : (s.fresh).2.dram = s.dram := rfl
@[simp] theorem State.fresh_hostMem (s : State) : (s.fresh).2.hostMem = s.hostMem := rfl
@[simp] theorem State.fresh_poison (s : State) : (s.fresh).2.poison = s.poison := rfl
@[simp] theorem State.fresh_lines (s : State) : (s.fresh).2.lines = s.lines := rfl
@[simp] theorem State.fresh_evt (s : State) : (s.fresh).2.evt = s.evt := rfl
@[simp] theorem State.fresh_swc (s : State) : (s.fresh).2.swc = s.swc := rfl
@[simp] theorem State.fresh_dir (s : State) : (s.fresh).2.dir = s.dir := rfl
@[simp] theorem State.fresh_owners (s : State) : (s.fresh).2.owners = s.owners := rfl
@[simp] theorem State.fresh_pins (s : State) : (s.fresh).2.pins = s.pins := rfl
@[simp] theorem State.fresh_dlt (s : State) : (s.fresh).2.dlt = s.dlt := rfl
@[simp] theorem State.fresh_rmap (s : State) : (s.fresh).2.rmap = s.rmap := rfl
@[simp] theorem State.fresh_routines (s : State) : (s.fresh).2.routines = s.routines := rfl
@[simp] theorem State.fresh_asids (s : State) : (s.fresh).2.asids = s.asids := rfl
@[simp] theorem State.fresh_tcache (s : State) : (s.fresh).2.tcache = s.tcache := rfl
@[simp] theorem State.fresh_hostCached (s : State) : (s.fresh).2.hostCached = s.hostCached := rfl
@[simp] theorem State.fresh_ops (s : State) : (s.fresh).2.ops = s.ops := rfl
@[simp] theorem State.fresh_rev (s : State) : (s.fresh).2.rev = s.rev := rfl
@[simp] theorem State.fresh_wpos (s : State) : (s.fresh).2.wpos = s.wpos := rfl
@[simp] theorem State.fresh_scTaken (s : State) : (s.fresh).2.scTaken = s.scTaken := rfl
@[simp] theorem State.fresh_ropes (s : State) : (s.fresh).2.ropes = s.ropes := rfl
@[simp] theorem State.fresh_tasks (s : State) : (s.fresh).2.tasks = s.tasks := rfl
@[simp] theorem State.fresh_nextTask (s : State) : (s.fresh).2.nextTask = s.nextTask := rfl
@[simp] theorem State.fresh_lastRope (s : State) : (s.fresh).2.lastRope = s.lastRope := rfl
@[simp] theorem State.fresh_retlog (s : State) : (s.fresh).2.retlog = s.retlog := rfl
@[simp] theorem State.fresh_preempt (s : State) : (s.fresh).2.preempt = s.preempt := rfl
@[simp] theorem State.fresh_saves (s : State) : (s.fresh).2.saves = s.saves := rfl
@[simp] theorem State.fresh_gint (s : State) : (s.fresh).2.gint = s.gint := rfl
@[simp] theorem State.fresh_islands (s : State) : (s.fresh).2.islands = s.islands := rfl
@[simp] theorem State.fresh_ecls (s : State) : (s.fresh).2.ecls = s.ecls := rfl
@[simp] theorem State.fresh_tct (s : State) : (s.fresh).2.tct = s.tct := rfl
@[simp] theorem State.fresh_dcost (s : State) : (s.fresh).2.dcost = s.dcost := rfl
@[simp] theorem State.fresh_newTabs (s : State) : (s.fresh).2.newTabs = s.newTabs := rfl
@[simp] theorem State.fresh_host (s : State) : (s.fresh).2.host = s.host := rfl
@[simp] theorem State.fresh_fids (s : State) : (s.fresh).2.fids = s.fids := rfl
@[simp] theorem State.fresh_fqwait (s : State) : (s.fresh).2.fqwait = s.fqwait := rfl
@[simp] theorem State.fresh_prgs (s : State) : (s.fresh).2.prgs = s.prgs := rfl
@[simp] theorem State.fresh_ats (s : State) : (s.fresh).2.ats = s.ats := rfl
@[simp] theorem State.fresh_hubWaits (s : State) : (s.fresh).2.hubWaits = s.hubWaits := rfl
@[simp] theorem State.fresh_nextPrg (s : State) : (s.fresh).2.nextPrg = s.nextPrg := rfl
@[simp] theorem State.fresh_mq (s : State) : (s.fresh).2.mq = s.mq := rfl
@[simp] theorem State.fresh_sups (s : State) : (s.fresh).2.sups = s.sups := rfl
@[simp] theorem State.fresh_mon (s : State) : (s.fresh).2.mon = s.mon := rfl
@[simp] theorem State.fresh_mgmt (s : State) : (s.fresh).2.mgmt = s.mgmt := rfl
@[simp] theorem State.fresh_wonus (s : State) : (s.fresh).2.wonus = s.wonus := rfl
@[simp] theorem State.fresh_modSeq (s : State) : (s.fresh).2.modSeq = s.modSeq := rfl
@[simp] theorem State.fresh_served (s : State) : (s.fresh).2.served = s.served := rfl
@[simp] theorem State.fresh_waits (s : State) : (s.fresh).2.waits = s.waits := rfl
@[simp] theorem State.fresh_links (s : State) : (s.fresh).2.links = s.links := rfl
@[simp] theorem State.fresh_peers (s : State) : (s.fresh).2.peers = s.peers := rfl
@[simp] theorem State.fresh_feeds (s : State) : (s.fresh).2.feeds = s.feeds := rfl
@[simp] theorem State.fresh_ckRun (s : State) : (s.fresh).2.ckRun = s.ckRun := rfl
@[simp] theorem State.fresh_ckpts (s : State) : (s.fresh).2.ckpts = s.ckpts := rfl
@[simp] theorem State.fresh_ckGone (s : State) : (s.fresh).2.ckGone = s.ckGone := rfl
@[simp] theorem State.fresh_evac (s : State) : (s.fresh).2.evac = s.evac := rfl
@[simp] theorem State.fresh_errs (s : State) : (s.fresh).2.errs = s.errs := rfl
@[simp] theorem State.fresh_ceTimes (s : State) : (s.fresh).2.ceTimes = s.ceTimes := rfl
@[simp] theorem State.fresh_fatal (s : State) : (s.fresh).2.fatal = s.fatal := rfl
@[simp] theorem State.fresh_now (s : State) : (s.fresh).2.now = s.now := rfl
@[simp] theorem State.fresh_todo (s : State) : (s.fresh).2.todo = s.todo := rfl
@[simp] theorem State.fresh_inputs (s : State) : (s.fresh).2.inputs = s.inputs := rfl
@[simp] theorem State.fresh_issue (s : State) : (s.fresh).2.issue = s.issue := rfl
@[simp] theorem State.fresh_freeCtr (s : State) : (s.fresh).2.freeCtr = s.freeCtr := rfl
@[simp] theorem State.fresh_outbox (s : State) : (s.fresh).2.outbox = s.outbox := rfl
@[simp] theorem State.choose_ctxs (s : State) (n : Nat) : (s.choose n).2.ctxs = s.ctxs := rfl
@[simp] theorem State.choose_parts (s : State) (n : Nat) : (s.choose n).2.parts = s.parts := rfl
@[simp] theorem State.choose_cores (s : State) (n : Nat) : (s.choose n).2.cores = s.cores := rfl
@[simp] theorem State.choose_dram (s : State) (n : Nat) : (s.choose n).2.dram = s.dram := rfl
@[simp] theorem State.choose_hostMem (s : State) (n : Nat) : (s.choose n).2.hostMem = s.hostMem := rfl
@[simp] theorem State.choose_poison (s : State) (n : Nat) : (s.choose n).2.poison = s.poison := rfl
@[simp] theorem State.choose_lines (s : State) (n : Nat) : (s.choose n).2.lines = s.lines := rfl
@[simp] theorem State.choose_evt (s : State) (n : Nat) : (s.choose n).2.evt = s.evt := rfl
@[simp] theorem State.choose_swc (s : State) (n : Nat) : (s.choose n).2.swc = s.swc := rfl
@[simp] theorem State.choose_dir (s : State) (n : Nat) : (s.choose n).2.dir = s.dir := rfl
@[simp] theorem State.choose_owners (s : State) (n : Nat) : (s.choose n).2.owners = s.owners := rfl
@[simp] theorem State.choose_pins (s : State) (n : Nat) : (s.choose n).2.pins = s.pins := rfl
@[simp] theorem State.choose_dlt (s : State) (n : Nat) : (s.choose n).2.dlt = s.dlt := rfl
@[simp] theorem State.choose_rmap (s : State) (n : Nat) : (s.choose n).2.rmap = s.rmap := rfl
@[simp] theorem State.choose_routines (s : State) (n : Nat) : (s.choose n).2.routines = s.routines := rfl
@[simp] theorem State.choose_asids (s : State) (n : Nat) : (s.choose n).2.asids = s.asids := rfl
@[simp] theorem State.choose_tcache (s : State) (n : Nat) : (s.choose n).2.tcache = s.tcache := rfl
@[simp] theorem State.choose_hostCached (s : State) (n : Nat) : (s.choose n).2.hostCached = s.hostCached := rfl
@[simp] theorem State.choose_ops (s : State) (n : Nat) : (s.choose n).2.ops = s.ops := rfl
@[simp] theorem State.choose_nextOp (s : State) (n : Nat) : (s.choose n).2.nextOp = s.nextOp := rfl
@[simp] theorem State.choose_rev (s : State) (n : Nat) : (s.choose n).2.rev = s.rev := rfl
@[simp] theorem State.choose_wpos (s : State) (n : Nat) : (s.choose n).2.wpos = s.wpos := rfl
@[simp] theorem State.choose_scTaken (s : State) (n : Nat) : (s.choose n).2.scTaken = s.scTaken := rfl
@[simp] theorem State.choose_ropes (s : State) (n : Nat) : (s.choose n).2.ropes = s.ropes := rfl
@[simp] theorem State.choose_tasks (s : State) (n : Nat) : (s.choose n).2.tasks = s.tasks := rfl
@[simp] theorem State.choose_nextTask (s : State) (n : Nat) : (s.choose n).2.nextTask = s.nextTask := rfl
@[simp] theorem State.choose_lastRope (s : State) (n : Nat) : (s.choose n).2.lastRope = s.lastRope := rfl
@[simp] theorem State.choose_retlog (s : State) (n : Nat) : (s.choose n).2.retlog = s.retlog := rfl
@[simp] theorem State.choose_preempt (s : State) (n : Nat) : (s.choose n).2.preempt = s.preempt := rfl
@[simp] theorem State.choose_saves (s : State) (n : Nat) : (s.choose n).2.saves = s.saves := rfl
@[simp] theorem State.choose_gint (s : State) (n : Nat) : (s.choose n).2.gint = s.gint := rfl
@[simp] theorem State.choose_islands (s : State) (n : Nat) : (s.choose n).2.islands = s.islands := rfl
@[simp] theorem State.choose_ecls (s : State) (n : Nat) : (s.choose n).2.ecls = s.ecls := rfl
@[simp] theorem State.choose_tct (s : State) (n : Nat) : (s.choose n).2.tct = s.tct := rfl
@[simp] theorem State.choose_dcost (s : State) (n : Nat) : (s.choose n).2.dcost = s.dcost := rfl
@[simp] theorem State.choose_newTabs (s : State) (n : Nat) : (s.choose n).2.newTabs = s.newTabs := rfl
@[simp] theorem State.choose_host (s : State) (n : Nat) : (s.choose n).2.host = s.host := rfl
@[simp] theorem State.choose_fids (s : State) (n : Nat) : (s.choose n).2.fids = s.fids := rfl
@[simp] theorem State.choose_fqwait (s : State) (n : Nat) : (s.choose n).2.fqwait = s.fqwait := rfl
@[simp] theorem State.choose_prgs (s : State) (n : Nat) : (s.choose n).2.prgs = s.prgs := rfl
@[simp] theorem State.choose_ats (s : State) (n : Nat) : (s.choose n).2.ats = s.ats := rfl
@[simp] theorem State.choose_hubWaits (s : State) (n : Nat) : (s.choose n).2.hubWaits = s.hubWaits := rfl
@[simp] theorem State.choose_nextPrg (s : State) (n : Nat) : (s.choose n).2.nextPrg = s.nextPrg := rfl
@[simp] theorem State.choose_mq (s : State) (n : Nat) : (s.choose n).2.mq = s.mq := rfl
@[simp] theorem State.choose_sups (s : State) (n : Nat) : (s.choose n).2.sups = s.sups := rfl
@[simp] theorem State.choose_mon (s : State) (n : Nat) : (s.choose n).2.mon = s.mon := rfl
@[simp] theorem State.choose_mgmt (s : State) (n : Nat) : (s.choose n).2.mgmt = s.mgmt := rfl
@[simp] theorem State.choose_wonus (s : State) (n : Nat) : (s.choose n).2.wonus = s.wonus := rfl
@[simp] theorem State.choose_modSeq (s : State) (n : Nat) : (s.choose n).2.modSeq = s.modSeq := rfl
@[simp] theorem State.choose_served (s : State) (n : Nat) : (s.choose n).2.served = s.served := rfl
@[simp] theorem State.choose_waits (s : State) (n : Nat) : (s.choose n).2.waits = s.waits := rfl
@[simp] theorem State.choose_links (s : State) (n : Nat) : (s.choose n).2.links = s.links := rfl
@[simp] theorem State.choose_peers (s : State) (n : Nat) : (s.choose n).2.peers = s.peers := rfl
@[simp] theorem State.choose_feeds (s : State) (n : Nat) : (s.choose n).2.feeds = s.feeds := rfl
@[simp] theorem State.choose_ckRun (s : State) (n : Nat) : (s.choose n).2.ckRun = s.ckRun := rfl
@[simp] theorem State.choose_ckpts (s : State) (n : Nat) : (s.choose n).2.ckpts = s.ckpts := rfl
@[simp] theorem State.choose_ckGone (s : State) (n : Nat) : (s.choose n).2.ckGone = s.ckGone := rfl
@[simp] theorem State.choose_evac (s : State) (n : Nat) : (s.choose n).2.evac = s.evac := rfl
@[simp] theorem State.choose_errs (s : State) (n : Nat) : (s.choose n).2.errs = s.errs := rfl
@[simp] theorem State.choose_ceTimes (s : State) (n : Nat) : (s.choose n).2.ceTimes = s.ceTimes := rfl
@[simp] theorem State.choose_fatal (s : State) (n : Nat) : (s.choose n).2.fatal = s.fatal := rfl
@[simp] theorem State.choose_now (s : State) (n : Nat) : (s.choose n).2.now = s.now := rfl
@[simp] theorem State.choose_todo (s : State) (n : Nat) : (s.choose n).2.todo = s.todo := rfl
@[simp] theorem State.choose_inputs (s : State) (n : Nat) : (s.choose n).2.inputs = s.inputs := rfl
@[simp] theorem State.choose_issue (s : State) (n : Nat) : (s.choose n).2.issue = s.issue := rfl
@[simp] theorem State.choose_outbox (s : State) (n : Nat) : (s.choose n).2.outbox = s.outbox := rfl

@[simp] theorem State.setCtx_me (s : State) (v : Ctx) : (s.setCtx s.issue.x v).me = v :=
  SMap.get_set_same _ _ _ _

end Sys2Proof.Machine
end

