-- ==== Sys2Proof/Tests/Slice0.lean ====
section
/-! SUPPORT. Tests: ill-formed terms are refused, words written out from the spec's encodings decode, states that meet the
hypotheses of the statements, and single steps whose results are worked out by hand. -/

namespace Sys2Proof.Tests

open Sys2Proof.Machine

set_option Elab.async false

/-- Each word decodes to its instruction. -/
noncomputable def decodesAll (l : List (BitVec 32 × Instr)) : Bool :=
  l.all (fun p => match decodeWord p.1 with
    | some i => decide (i = p.2)
    | none => false)

/-! ## Well-formedness: an ill-formed term for each check, refused -/

/-- R189, R192, R195 to R197: a call that links s4, a counter 3, an ec beyond 16 bits, bases out of range, special registers beyond
the table. -/
theorem test_ill_formed_scalar : [Instr.call 0 1 2 4, .lset 0 3 0, .lset 0 2 65536, .lsetReg 0 3 1, .rotSetv 0 32, .rotSetp 0 64,
    .mfs 0 1 14, .mts 0 1 14].all (fun i => !i.wf) = true := by decide
/-- R209 to R212, R219, R221: element types, formats, and a column block of 6. -/
theorem test_ill_formed_vector : [Instr.vfadd 0 1 2 3 3, .vfsub 0 1 2 3 3, .vfmul 0 1 2 3 3, .vfmin 0 1 2 3 3, .vfma 0 1 2 3 3,
    .vfms 0 1 2 3 3, .vfmax 0 1 2 3 3, .vcvtV0V31 0 1 2 14 8, .vcvtV32V63 0 1 2 8 20, .vcvtSatV0V31 0 1 2 15 8,
    .vcvtSatV32V63 0 1 2 8 31, .vtrLog2 0 1 2 7, .vtrExp2 0 1 2 11, .vtrRcp 0 1 2 0, .vtrRsqrt 0 1 2 31, .vtrSig 0 1 2 11,
    .vtrTanh 0 1 2 7, .vacc 0 1 2 3 6, .vaccLc 0 1 2 3 7].all (fun i => !i.wf) = true := by decide
/-- R232, R242 to R244, R257, R158: format pairs, an empty mask, MMOV formats, engine 2, selector 12. -/
theorem test_ill_formed_engine : [Instr.mft 0 0 0x12 0x11, .mzero 0 0, .mmovSt 0 1 2 3, .mmovStSat 0 1 2 7, .mmovLd 0 1 2 14,
    .cpyG2s 0 1 2 2, .cpyS2g 0 1 2 2, .cpyS2s 0 1 2 3, .cpyG2g 0 1 2 2, .cpyGath 0 1 2 2, .cpyScat 0 1 2 2, .cpyMcast 0 1 2 2,
    .cpyTr 0 1 2 3, .cqPop 0 1 2, .cqProg 0 1 2 2, .cqCnt 0 1 3, .nrgQ 0 1 12].all (fun i => !i.wf) = true := by decide
/-- R235, R237: format selectors above 16, rows past 31, a counter of 0 or above 4,096, a loop back by 0. -/
theorem test_ill_formed_routine : [Instr.ldb 0 17 0, .pass 0 31 1 0 0, .passw 0 1 31 0 0, .zero 0 16 16, .bias 0 31 1 0,
    .scale 0 31 1 0, .maxz 0 31 1, .routineCopy 0 31 1 0 0, .routineCopy 0 0 1 0 31, .addt 0 0 1 0 31, .setc 0 0, .setc 0 4097,
    .loop 0 0].all (fun i => !i.wf) = true := by decide

/-! ## Decoding: words from the encodings of the spec -/

/-- Words put together by hand from the formats of R168 and R172. -/
theorem test_decode_by_hand : decodesAll [
    (0x02628C38, .add 3 5 6 7), (0x3000841C, .adds 0 1 2 3 4), (0x060084FF, .addi 0 1 2 0x0FF), (0x0E008521, .srai 0 1 2 33),
    (0x36048005, .movi 0 9 5), (0x1401461E, .cmpLt 0 5 6 7), (0x1A11A3C8, .pand 0 70 71 72), (0x24040015, .setb 0 1 21),
    (0x28080064, .lset 0 1 100), (0x2C038680, .mfs 0 7 13), (0x4000841A, .vadd 0 1 2 3 2), (0x62008500, .vcvtV32V63 0 1 1 8 0),
    (0x6802420F, .vcmpLe 0 9 2 3), (0x7800A1C0, .vacc 0 1 2 3 4), (0x8008B000, .mcall 0 17 3), (0x88052900, .mft 0 2 0x12 0x12),
    (0xA0008432, .ldW 0 1 2 6), (0xAC0085F9, .vstH 0 1 2 63), (0xB0020A33, .bgtTouch 0 4 5 6), (0xB20084A8, .cpyScat 0 1 2 1),
    (0xB81F2400, .lsend 0 7 3 9), (0xBE008418, .amoAddD 0 1 2 3), (0xC400841F, .scCasD 0 1 2 3), (0xC6000002, .drainDev 0),
    (0xCA00841B, .knotSwap 0 1 2 3), (0xCC008580, .nrgQ 0 1 11), (0xCE0055E1, .trap 0 0xABC), (0xD4000600, .barBraid 0 3),
    (0x5A040210, .vfma 0 8 1 2 0)] = true := by decide +kernel

/-- A nop and an lp0 with a reserved bit set, two unassigned operations, and an lset of counter 3 are refused (R168, R173). -/
theorem test_decode_refuses : [(0x00000001 : BitVec 32), 0x26004001, 0x3A000000, 0xFE000000, 0x28180000].all
    (fun w => (decodeWord w).isNone) = true := by decide +kernel

/-- Routine words by the table of R235, one for each operation. -/
theorem test_decode_routine : ([(0x0000000000000000, .routineEnd), (0x1000000000000000, .routineNop),
    (0x2C28000000000000, .ldb 1 16 5), (0x3221E00000000000, .pass 1 2 3 1 4), (0x4221E00000000000, .passw 1 2 3 1 4),
    (0x5600000000000005, .setp 3 5), (0x6600000000000005, .addp 3 5), (0x7800000000000064, .setc 1 100),
    (0x8800000000000003, .loop 1 3), (0x9600000000000003, .skipz 3 3), (0xA221800000000000, .zero 1 2 3),
    (0xB221A00000000000, .bias 1 2 3 4), (0xC221BFE000000000, .scale 1 2 3 511), (0xD221D28000000000, .routineCopy 1 2 3 5 5),
    (0xE221D28000000000, .addt 1 2 3 5 5), (0xF221800000000000, .maxz 1 2 3)] : List (Word × Instr)).all
    (fun p => match decodeRoutine p.1 with | some i => decide (i = p.2) | none => false) = true := by decide +kernel

/-- The bundle of the example after R174: vfma of tag 7 in V1 under test 3, with T and D set. -/
theorem test_decode_bundle :
    (match decodeBundle true true 0x000000900000008300000000000000005A4486205A040210000000000000E003 with
      | .ok b => decide (b.drain = true ∧ b.t = true ∧ b.tagV1 = 7 ∧ b.opS = .nop ∧ b.opV0 = .vfma 0 8 1 2 0 ∧
          b.opV1 = .vfma 2 9 3 4 0 ∧ b.tests = [⟨.any, 3⟩] ∧ b.leaves = [some 1, none])
      | .error _ => false) = true := by decide +kernel

/-! Every slot operation: the fixed bits of its row of the opcode table with distinct values in its fields. -/

theorem test_decode_rows_0_0 : decodesAll [
    (0x00000000, .nop),
    (0x02B63440, .add 5 44 26 8),
    (0x02B63441, .sub 5 44 26 8),
    (0x02B63442, .and 5 44 26 8),
    (0x02B63443, .or 5 44 26 8),
    (0x02B63444, .xor 5 44 26 8),
    (0x02B63445, .andn 5 44 26 8),
    (0x02B63446, .min 5 44 26 8),
    (0x02B63447, .max 5 44 26 8),
    (0x04B63440, .minu 5 44 26 8),
    (0x04B63441, .maxu 5 44 26 8),
    (0x04B63442, .mul 5 44 26 8),
    (0x04B63443, .mulh 5 44 26 8),
    (0x04B63444, .mulhu 5 44 26 8),
    (0x04B63445, .sll 5 44 26 8),
    (0x04B63446, .srl 5 44 26 8),
    (0x04B63447, .sra 5 44 26 8),
    (0x06B63508, .addi 5 44 26 264),
    (0x08B63508, .andi 5 44 26 264),
    (0x0AB63508, .ori 5 44 26 264),
    (0x0CB63508, .xori 5 44 26 264),
    (0x0EB63408, .slli 5 44 26 8),
    (0x0EB63488, .srli 5 44 26 8),
    (0x0EB63508, .srai 5 44 26 8)] = true := by decide +kernel

theorem test_decode_rows_0_1 : decodesAll [
    (0x10B63508, .muli 5 44 26 264),
    (0x12B63446, .sel 5 44 26 8 6),
    (0x14AB1A20, .cmpEq 5 44 26 8),
    (0x14AB1A21, .cmpNe 5 44 26 8),
    (0x14AB1A22, .cmpLt 5 44 26 8),
    (0x14AB1A23, .cmpLe 5 44 26 8),
    (0x16AB1A20, .cmpLtu 5 44 26 8),
    (0x16AB1A21, .cmpLeu 5 44 26 8),
    (0x16AB1A22, .cmpTst 5 44 26 8),
    (0x16AB1A23, .cmpNtst 5 44 26 8),
    (0x18AB1A20, .cmpiEq 5 44 26 8),
    (0x18AB1A21, .cmpiNe 5 44 26 8),
    (0x18AB1A22, .cmpiLt 5 44 26 8),
    (0x18AB1A23, .cmpiLe 5 44 26 8),
    (0x1AAB2D08, .pand 5 44 90 8),
    (0x1CAB2D08, .por 5 44 90 8),
    (0x1EAB2D08, .pxor 5 44 90 8)] = true := by decide +kernel

theorem test_decode_rows_1_0 : decodesAll [
    (0x20AB2D08, .pandn 5 44 90 8),
    (0x22AB1A00, .pset 5 44 26),
    (0x22AB1A01, .pget 5 44 26),
    (0x22AB1A02, .pcnt 5 44 26),
    (0x22AB1A03, .pfirst 5 44 26),
    (0x24B00B5A, .setb 5 4 2906),
    (0x24B0201A, .setbReg 5 4 26),
    (0x26B01688, .call 5 4 90 8),
    (0x26A02B1A, .ret 5 44 26),
    (0x26B04000, .lp0 5 4),
    (0x26B06000, .lp1 5 4),
    (0x26B08000, .lpe 5 4),
    (0x28A9AB5A, .lset 5 1 109402),
    (0x28AC001A, .lsetReg 5 1 26),
    (0x2AA00000, .rotStep 5),
    (0x2AA80015, .rotSetv 5 21),
    (0x2AAC002C, .rotSetvReg 5 44),
    (0x2AB0002B, .rotSetp 5 43),
    (0x2AB4002C, .rotSetpReg 5 44),
    (0x2CB60580, .mfs 5 44 11),
    (0x2EB60580, .mts 5 44 11),
    (0x30B63446, .adds 5 44 26 8 6),
    (0x32B63400, .clz 5 44 26),
    (0x32B63401, .ctz 5 44 26)] = true := by decide +kernel

theorem test_decode_rows_1_1 : decodesAll [
    (0x32B63402, .popc 5 44 26),
    (0x32B63403, .rev8 5 44 26),
    (0x34B63400, .sextB 5 44 26),
    (0x34B63401, .sextH 5 44 26),
    (0x34B63402, .sextW 5 44 26),
    (0x34B63403, .zextB 5 44 26),
    (0x34B63404, .zextH 5 44 26),
    (0x34B63405, .zextW 5 44 26),
    (0x36B62B5A, .movi 5 44 11098),
    (0x38B63440, .div 5 44 26 8),
    (0x38B63441, .divu 5 44 26 8),
    (0x38B63442, .rem 5 44 26 8),
    (0x38B63443, .remu 5 44 26 8)] = true := by decide +kernel

theorem test_decode_rows_2_0 : decodesAll [
    (0x40B63446, .vadd 5 44 26 8 6),
    (0x42B63446, .vsub 5 44 26 8 6),
    (0x44B63446, .vmul 5 44 26 8 6),
    (0x46B63446, .vadds 5 44 26 8 6),
    (0x48B63446, .vsubs 5 44 26 8 6),
    (0x4AB63446, .vmin 5 44 26 8 6),
    (0x4CB63446, .vmax 5 44 26 8 6),
    (0x4EB63440, .vand 5 44 26 8),
    (0x4EB63441, .vor 5 44 26 8),
    (0x4EB63442, .vxor 5 44 26 8),
    (0x4EB63443, .vandn 5 44 26 8),
    (0x4EB63404, .vnot 5 44 26),
    (0x50B63440, .vsll 5 44 26 8),
    (0x50B63441, .vsrl 5 44 26 8),
    (0x50B63442, .vsra 5 44 26 8),
    (0x50B63443, .vslls 5 44 26 8),
    (0x50B63444, .vsrls 5 44 26 8),
    (0x50B63445, .vsras 5 44 26 8),
    (0x52B63442, .vfadd 5 44 26 8 2),
    (0x54B63442, .vfsub 5 44 26 8 2),
    (0x56B63442, .vfmul 5 44 26 8 2),
    (0x58B63442, .vfmin 5 44 26 8 2),
    (0x5AB63442, .vfma 5 44 26 8 2),
    (0x5CB63442, .vfms 5 44 26 8 2)] = true := by decide +kernel

theorem test_decode_rows_2_1 : decodesAll [
    (0x5EB63442, .vfmax 5 44 26 8 2)] = true := by decide +kernel

theorem test_decode_rows_3_0 : decodesAll [
    (0x60B66A4B, .vcvtV0V31 5 44 26 18 11),
    (0x62B66A4B, .vcvtV32V63 5 44 26 18 11),
    (0x64B66A4B, .vcvtSatV0V31 5 44 26 18 11),
    (0x66B66A4B, .vcvtSatV32V63 5 44 26 18 11),
    (0x68AB1A20, .vcmpEq 5 44 26 8),
    (0x68AB1A21, .vcmpNe 5 44 26 8),
    (0x68AB1A22, .vcmpLt 5 44 26 8),
    (0x68AB1A23, .vcmpLe 5 44 26 8),
    (0x6AAB1A20, .vcmpuLtu 5 44 26 8),
    (0x6AAB1A21, .vcmpuLeu 5 44 26 8),
    (0x6AAB1A22, .vcmpuTst 5 44 26 8),
    (0x6AAB1A23, .vcmpuNtst 5 44 26 8),
    (0x6CAB1A20, .vfcmpEq 5 44 26 8),
    (0x6CAB1A21, .vfcmpNe 5 44 26 8),
    (0x6CAB1A22, .vfcmpLt 5 44 26 8),
    (0x6CAB1A23, .vfcmpLe 5 44 26 8),
    (0x6EB63446, .vsel 5 44 26 8 6),
    (0x70B63440, .vperm 5 44 26 8),
    (0x70B63441, .vrotl 5 44 26 8),
    (0x70B63442, .vbcl 5 44 26 8),
    (0x70B63443, .vzipl 5 44 26 8),
    (0x70B63444, .vziph 5 44 26 8),
    (0x70B63445, .vuzpl 5 44 26 8),
    (0x70B63446, .vuzph 5 44 26 8)] = true := by decide +kernel

theorem test_decode_rows_3_1 : decodesAll [
    (0x72B63400, .vredFsum 5 44 26),
    (0x72B63401, .vredIsum 5 44 26),
    (0x72B63402, .vredFmax 5 44 26),
    (0x72B63403, .vredFmin 5 44 26),
    (0x72B63404, .vredImax 5 44 26),
    (0x72B63405, .vredImin 5 44 26),
    (0x72B63406, .vredAmax 5 44 26),
    (0x74B63448, .vtrLog2 5 44 26 9),
    (0x74B63449, .vtrExp2 5 44 26 9),
    (0x74B6344A, .vtrRcp 5 44 26 9),
    (0x74B6344B, .vtrRsqrt 5 44 26 9),
    (0x74B6344C, .vtrSig 5 44 26 9),
    (0x74B6344D, .vtrTanh 5 44 26 9),
    (0x76B63440, .vhash 5 44 26 8),
    (0x78B62440, .vacc 5 44 2 8 4),
    (0x78B62441, .vaccLc 5 44 2 8 4),
    (0x7AB63400, .vbc 5 44 26),
    (0x7AB63441, .vget 5 44 26 8),
    (0x7AB63442, .vput 5 44 26 8),
    (0x7AB63403, .viota 5 44 26)] = true := by decide +kernel

theorem test_decode_rows_4_0 : decodesAll [
    (0x80B62000, .mcall 5 44 2),
    (0x82B60000, .mwait 5 44),
    (0x84B1A000, .mpar 5 4 26),
    (0x86B1AB5A, .mpari 5 4 109402),
    (0x88B8D800, .mft 5 12 13 16),
    (0x8AB58000, .mzero 5 172),
    (0x8CB1A580, .mmovSt 5 4 26 11),
    (0x8CB1A5C0, .mmovStSat 5 4 26 11),
    (0x8CB1A581, .mmovLd 5 4 26 11),
    (0x8EBAC680, .mrsw 5 428 26),
    (0x90B65680, .mrse 5 44 346),
    (0x92B60000, .mstat 5 44),
    (0x92B60001, .mstatCnt 5 44)] = true := by decide +kernel

theorem test_decode_rows_5_0 : decodesAll [
    (0xA0B63440, .ldB 5 44 26 8),
    (0xA0B63441, .ldH 5 44 26 8),
    (0xA0B63442, .ldW 5 44 26 8),
    (0xA0B63443, .ldD 5 44 26 8),
    (0xA0B63444, .ldBs 5 44 26 8),
    (0xA0B63445, .ldHs 5 44 26 8),
    (0xA0B63446, .ldWs 5 44 26 8),
    (0xA2B63440, .ldvB 5 44 26 8),
    (0xA2B63441, .ldvH 5 44 26 8),
    (0xA2B63442, .ldvW 5 44 26 8),
    (0xA2B63443, .ldvD 5 44 26 8),
    (0xA2B63444, .ldvBs 5 44 26 8),
    (0xA2B63445, .ldvHs 5 44 26 8),
    (0xA2B63446, .ldvWs 5 44 26 8),
    (0xA4B63440, .stB 5 44 26 8),
    (0xA4B63441, .stH 5 44 26 8),
    (0xA4B63442, .stW 5 44 26 8),
    (0xA4B63443, .stD 5 44 26 8),
    (0xA6B63440, .stvB 5 44 26 8),
    (0xA6B63441, .stvH 5 44 26 8),
    (0xA6B63442, .stvW 5 44 26 8),
    (0xA6B63443, .stvD 5 44 26 8),
    (0xA8B63440, .vldV 5 44 26 8),
    (0xA8B63441, .vldBc 5 44 26 8)] = true := by decide +kernel

theorem test_decode_rows_5_1 : decodesAll [
    (0xA8B63442, .vldH 5 44 26 8),
    (0xAAB63440, .vldvV 5 44 26 8),
    (0xAAB63441, .vldvBc 5 44 26 8),
    (0xAAB63442, .vldvH 5 44 26 8),
    (0xACB63440, .vstV 5 44 26 8),
    (0xACB63441, .vstH 5 44 26 8),
    (0xAEB63440, .vstvV 5 44 26 8),
    (0xAEB63441, .vstvH 5 44 26 8),
    (0xB0B63400, .bgtMap 5 44 26),
    (0xB0B60001, .bgtUnmap 5 44),
    (0xB0B60002, .bgtFlush 5 44),
    (0xB0B63443, .bgtTouch 5 44 26 8),
    (0xB0B63404, .bgtQuery 5 44 26),
    (0xB2B63480, .cpyG2s 5 44 26 1),
    (0xB2B63488, .cpyS2g 5 44 26 1),
    (0xB2B63490, .cpyS2s 5 44 26 1),
    (0xB2B63498, .cpyG2g 5 44 26 1),
    (0xB2B634A0, .cpyGath 5 44 26 1),
    (0xB2B634A8, .cpyScat 5 44 26 1),
    (0xB2B634B0, .cpyMcast 5 44 26 1),
    (0xB2B634B8, .cpyTr 5 44 26 1),
    (0xB4B60080, .cqPop 5 44 1),
    (0xB4B63481, .cqProg 5 44 26 1),
    (0xB4B60082, .cqCnt 5 44 1)] = true := by decide +kernel

theorem test_decode_rows_5_2 : decodesAll [
    (0xB6A05800, .hyStart 5 44),
    (0xB6A20000, .hyStop 5),
    (0xB6A45800, .hyCred 5 44),
    (0xB6A65800, .hyBase 5 44),
    (0xB6A80000, .hyClr 5),
    (0xB6AA5800, .hyPop 5 44),
    (0xB6AC5800, .hyStat 5 44),
    (0xB6AE5800, .hyProg 5 44),
    (0xB6B05800, .hyRdc 5 44),
    (0xB6B20000, .hyDrop 5),
    (0xB8B22000, .lsend 5 4 2 8),
    (0xBAB22000, .lrecv 5 4 2 8),
    (0xBCB63440, .amoAddW 5 44 26 8),
    (0xBCB63441, .amoAndW 5 44 26 8),
    (0xBCB63442, .amoOrW 5 44 26 8),
    (0xBCB63443, .amoXorW 5 44 26 8),
    (0xBCB63444, .amoMinW 5 44 26 8),
    (0xBCB63445, .amoMaxW 5 44 26 8),
    (0xBCB63446, .amoMinuW 5 44 26 8),
    (0xBCB63447, .amoMaxuW 5 44 26 8),
    (0xBEB63440, .amoAddD 5 44 26 8),
    (0xBEB63441, .amoAndD 5 44 26 8),
    (0xBEB63442, .amoOrD 5 44 26 8),
    (0xBEB63443, .amoXorD 5 44 26 8)] = true := by decide +kernel

theorem test_decode_rows_5_3 : decodesAll [
    (0xBEB63444, .amoMinD 5 44 26 8),
    (0xBEB63445, .amoMaxD 5 44 26 8),
    (0xBEB63446, .amoMinuD 5 44 26 8),
    (0xBEB63447, .amoMaxuD 5 44 26 8)] = true := by decide +kernel

theorem test_decode_rows_6_0 : decodesAll [
    (0xC0B63440, .amoxSwapW 5 44 26 8),
    (0xC0B63441, .amoxSwapD 5 44 26 8),
    (0xC0B63442, .amoxCasW 5 44 26 8),
    (0xC0B63443, .amoxCasD 5 44 26 8),
    (0xC0B63444, .amoxFaddF32 5 44 26 8),
    (0xC2A058D0, .redAddW 5 44 26),
    (0xC2A058D1, .redAddD 5 44 26),
    (0xC2A058D2, .redMinW 5 44 26),
    (0xC2A058D3, .redMaxW 5 44 26),
    (0xC2A058D4, .redMinuW 5 44 26),
    (0xC2A058D5, .redMaxuW 5 44 26),
    (0xC2A058D6, .redFaddF32 5 44 26),
    (0xC2A058D7, .redOrD 5 44 26),
    (0xC4B63400, .scLdW 5 44 26),
    (0xC4B63401, .scLdD 5 44 26),
    (0xC4A058D2, .scStW 5 44 26),
    (0xC4A058D3, .scStD 5 44 26),
    (0xC4B63444, .scSwapW 5 44 26 8),
    (0xC4B63445, .scSwapD 5 44 26 8),
    (0xC4B63446, .scAddD 5 44 26 8),
    (0xC4B63447, .scCasD 5 44 26 8),
    (0xC6A00000, .drainBraid 5),
    (0xC6A00001, .drainDie 5),
    (0xC6A00002, .drainDev 5)] = true := by decide +kernel

theorem test_decode_rows_6_1 : decodesAll [
    (0xC6A00003, .drainSys 5),
    (0xC8B63440, .splCall 5 44 26 8),
    (0xC8B63441, .splCalln 5 44 26 8),
    (0xC8B63402, .splInst 5 44 26),
    (0xC8B60003, .splRm 5 44),
    (0xCAA058D0, .knotAdd 5 44 26),
    (0xCAB63401, .knotRd 5 44 26),
    (0xCAB63442, .knotMax 5 44 26 8),
    (0xCAB63443, .knotSwap 5 44 26 8),
    (0xCCB60500, .nrgQ 5 44 10),
    (0xCCA058D1, .nrgVreg 5 44 26),
    (0xCCA05802, .nrgVsw 5 44),
    (0xCEA00000, .cend 5),
    (0xCEA02D61, .trap 5 1452),
    (0xCEA00002, .rtu 5),
    (0xCEA00003, .bkpt 5),
    (0xD0B63400, .pin 5 44 26),
    (0xD0B63401, .unpin 5 44 26),
    (0xD2A05800, .dbgMark 5 44),
    (0xD2A00001, .dbgBrk 5),
    (0xD4A05800, .barBraid 5 44)] = true := by decide +kernel

/-! ## Witnesses: concrete states that meet the hypotheses of the statements -/

/-- The result of a resolution, compared. -/
def isLoc (e : Except (BitVec 8) Loc) (l : Loc) : Bool := match e with
  | .ok k => decide (k = l)
  | .error _ => false

/-- The fault of a resolution, compared. -/
def isCause (e : Except (BitVec 8) Loc) (c : BitVec 8) : Bool := match e with
  | .ok _ => false
  | .error k => decide (k = c)

/-- A translation, compared. -/
def isPa (e : Xlate) (pa : Nat) : Bool := match e with
  | .ok p a => decide (p = pa) && decide (a.coh = 0) && !a.host && !a.lease
  | _ => false

/-- One running context of task 0 on core 0, with an empty bundle. -/
def w0 : State := State.reset.probe 0

/-- That context with registers s1 to s4 = a, b, c, d. -/
def wRegs (a b c d : Word) : State :=
  w0.modCtx 0 (fun k => { k with s := (((k.s.set 1 a).set 2 b).set 3 c).set 4 d })

/-- An identity map of the first GiB for ASID 0: a table entry at 0 and a writable level-2 leaf at 0x2000. -/
def withMap (s : State) : State :=
  { s with asids := [(0, { AsidEnt.none with v := true })], dram := [(0, 1), (1, 0x20), (0x2000, 0x0B)] }

/-- The team of task 0, as loaded. -/
def t0 : Team := probeTeam 0

/-- A guard that is on: of every scalar, control, engine and system operation's statement (R56). -/
theorem witness_guarded_on : w0.me.guard0 0 = true ∧ w0.teamOf w0.issue.x = some t0 ∧
    (w0.modCtx 0 (fun k => { k with p := k.p.set 5 1 })).me.guard0 5 = true := by decide +kernel

/-- TranscendentalResults: a format, and elements of which every one is a special case (R92), the zeros of a cleared register. -/
theorem witness_transcendentals : ((8 : BitVec 5) = 8 ∨ (8 : BitVec 5) = 9 ∨ (8 : BitVec 5) = 10) ∧
    ∀ e < 32, (match fp32.value (elemOf (w0.me.rv 1) 32 e) with
      | .fin false 0 _ _ => true
      | _ => false) = true := by decide +kernel

/-- CallsAndReturns: a frame that just fits, one that crosses the limit by 16, and one that goes below 0. -/
theorem witness_calls :
    let s := (wRegs 0 0 0 32).modCtx 0 (fun k => { k with splim := 16 })
    let new (s : State) (f : BitVec 7) : Int := ((s.me.rs 4).toNat : Int) - 16 * (f.toNat : Int)
    s.me.guard0 0 = true ∧ (s.me.splim.toNat : Int) ≤ new s 1 ∧ 0 ≤ new s 1 ∧ (2 : BitVec 7) ≠ 0 ∧
      new s 2 < (s.me.splim.toNat : Int) ∧ new (wRegs 0 0 0 0) 1 < 0 := by decide +kernel

/-- ScalarLoadResults: an address of the own window, its last doubleword, a braid window, and a vault address; no other context has an
access on the way. Whether a load leaves its bank's queue at once is a free value (log 83): the clauses on it are implications. -/
theorem witness_scalar_load :
    let s := wRegs 8 0xFFFF8 0x400000 16
    let x := s.issue.x
    s.me.guard0 0 = true ∧ s.teamOf x = some t0 ∧ s.bufUsed x < 64 ∧ t0.lld = false ∧
      isLoc (s.resolve (ctxCore x) s.me.task false (s.me.rs 1).toNat 8) ⟨0, false, 8⟩ = true ∧
      isLoc (s.resolve (ctxCore x) s.me.task false (s.me.rs 2).toNat 8) ⟨0, false, 0xFFFF8⟩ = true ∧
      isLoc (s.resolve (ctxCore x) s.me.task false (s.me.rs 3).toNat 8) ⟨0, false, 0⟩ = true ∧
      isLoc (s.resolve (ctxCore x) s.me.task true (s.me.rs 4).toNat 8) ⟨0, true, 16⟩ = true ∧
      (∀ y : CtxNo, y ≠ x → (s.ctx y).stq = [] ∧ (s.ctx y).allFlights = []) ∧
      (let u := s.portFirst [(⟨0, false, 8⟩, 8)] false
       u.waitsFor x [(⟨0, false, 8⟩, 8)] = [] ∧ u.allUsable ⟨0, false, 8⟩ 8 = true ∧ u.poisoned ⟨0, false, 8⟩ = false ∧
         u.errs = []) := by
  decide +kernel

/-- ScalarLoadResults, the vaults of other cores: one on the same die and one on the other die, of a task of 65 teams. -/
theorem witness_far_vaults :
    let team (c : Nat) : Nat × Core := (c, { Core.none with teams := [{ t0 with core := c, pos := c }] })
    let s := { w0 with tasks := [{ probeTask with ncores := 65 }], cores := [team 0, team 1, team 64] }
    isLoc (s.resolve 0 0 true (2 ^ 24) 8) ⟨1, true, 0⟩ = true ∧ isLoc (s.resolve 0 0 true (64 * 2 ^ 24) 8) ⟨64, true, 0⟩ = true ∧
      s.allUsable ⟨64, true, 0⟩ 8 = true ∧ s.poisoned ⟨64, true, 0⟩ = false := by decide +kernel

/-- VectorLoadResults: all lanes of a 128-byte word group, and a guard with every lane off. -/
theorem witness_vector_load :
    let s := wRegs 128 0 0 0
    let at_ (i : Nat) : Loc := ⟨0, false, 128 + 4 * i⟩
    s.bufUsed s.issue.x < 64 ∧ s.me.guard 0 ≠ 0 ∧ s.me.guard 5 = 0 ∧
      (∀ i < 32, isLoc (s.resolve (ctxCore s.issue.x) s.me.task false (128 + 4 * i) 4) (at_ i) = true ∧
        s.allUsable (at_ i) 4 = true ∧ s.poisoned (at_ i) = false) ∧
      s.teamOf s.issue.x = some t0 ∧
      (let u := s.portFirst ((List.range 32).map (fun i => (at_ i, 4))) false
       u.waitsFor s.issue.x ((List.range 32).map (fun i => (at_ i, 4))) = [] ∧ u.errs = []) := by decide +kernel

/-- LoadAndStoreFaults: no free entry; ALIGN, RANGE and PLACE; a store below the limit; a store to a read-only bight. -/
theorem witness_load_store_faults :
    let s := wRegs 1 0x100000 0x1000000 8
    let r (a : Nat) (v : Bool) (n : Nat) := s.resolve (ctxCore s.issue.x) s.me.task v a n
    let f : Flight := { id := 1, due := 9, dst := .none, lanes := 0, value := none, flags := 0, buf := true, src := .none
                        lock := false, orig := 0 }
    let b : Bight := { Bight.none with vbase := 0x10000, stride := 64, count := 1, elem := 15, v := true }
    let ro := w0.modCore 0 (fun k => { k with teams := [{ t0 with bights := [(3, b)] }] })
    let lld := s.modCore 0 (fun k => { k with teams := [{ t0 with lld := true }] })
    lld.teamOf lld.issue.x = some { t0 with lld := true } ∧ lld.bufUsed 0 < 64 ∧ 0x400000 ≤ (lld.me.rs 3).toNat ∧ 64 ≤ (w0.modCtx 0 (fun k => { k with flight := List.replicate 64 f })).bufUsed 0 ∧
      isCause (r 1 false 8) 0x03 = true ∧ isCause (r 0x100000 false 8) 0x01 = true ∧ isCause (r 0x1000000 true 8) 0x02 = true ∧
      ((s.modCtx 0 (fun k => { k with splim := 16 })).me.rs 4).toNat < 16 ∧
      isLoc (ro.resolve 0 0 false 0 4) ⟨0, false, 0⟩ = true ∧ ro.readOnly ⟨0, false, 0⟩ 4 = true := by decide +kernel

/-- ScalarStoreEffects, VectorStoresAndMappedWords: a store that nothing stops, the last one of the window, one of all lanes, and a
store in its queue whose bank is free. How long a store waits is a free value (log 83): the two clauses on it are implications. -/
theorem witness_stores :
    let s := wRegs 16 0xFFFFC 0 64
    s.me.guard0 0 = true ∧ isLoc (s.resolve 0 0 false 16 8) ⟨0, false, 16⟩ = true ∧ s.readOnly ⟨0, false, 16⟩ 8 = false ∧
      isLoc (s.resolve 0 0 false 0xFFFFC 4) ⟨0, false, 0xFFFFC⟩ = true ∧ s.allUsable ⟨0, false, 16⟩ 1 = true ∧
      s.me.splim.toNat ≤ 64 ∧ (let u := s.portFirst [(⟨0, false, 16⟩, 8)] true
       u.waitsFor 0 [(⟨0, false, 16⟩, 8)] = [] ∧ u.allUsable ⟨0, false, 16⟩ 1 = true) ∧
      (let p := newStore 7 8 [(⟨0, false, 16⟩, 5)] [] 0 3
       p.elems = [(0, false, 16, 5)] ∧ p.hold = 0 ∧ s.clearOf 0 p.after = true ∧ p.flushed = [] ∧ p.raw = []) ∧
      ∀ i < 32, isLoc (s.resolve 0 0 false (64 + 4 * i) 4) ⟨0, false, 64 + 4 * i⟩ = true ∧
        s.readOnly ⟨0, false, 64 + 4 * i⟩ 4 = false := by decide +kernel

/-- A matrix engine with routine words END at 3 and COPY at 2, entry 5 installed over words 2 to 3, and queued commands. -/
def wMtx (q : List MCmd) (run : Option MRun) : State :=
  w0.modCore 0 (fun k => { k with mtx := { Mtx.none with
    rs := [(2, 0xD000000000000000)], ent := [(5, ⟨true, 2, 3, 0⟩)], queue := q, run := run } })

/-- A call of entry 5. -/
def wCall : MCmd := ⟨0, .call 5 0 0 (Vector.replicate 8 0) 0, []⟩

/-- MatrixOperations: room and no room, an installed and an empty entry, commands of the context, lanes on and off. -/
theorem witness_matrix_ops :
    let s := wMtx [] none
    let full := wMtx (List.replicate 8 wCall) none
    s.me.guard0 0 = true ∧ (s.core 0).mtx.cmds.length < 16 ∧ (s.core 0).mtx.qcnt 0 < 8 ∧ 8 ≤ (full.core 0).mtx.qcnt 0 ∧
      (SMap.get MEnt.none (s.core 0).mtx.ent 5).v = true ∧ (SMap.get MEnt.none (s.core 0).mtx.ent 6).v = false ∧
      (s.core 0).mtx.qcnt 0 = 0 ∧ 0 < (full.core 0).mtx.qcnt 0 ∧ s.me.guard 0 ≠ 0 ∧ s.me.guard 5 = 0 ∧
      s.bufUsed 0 < 64 := by decide +kernel

/-- RoutineStoreAndEntries: a word inside a span with and without a call that names it, a valid span and an invalid one. -/
theorem witness_routine_store :
    let s := wMtx [] none
    let m := (s.core 0).mtx
    let busy := ((wMtx [wCall] none).core 0).mtx
    m.cmds = [] ∧ busy.cmds = [wCall] ∧ (SMap.get MEnt.none m.ent 5).idx.toNat ≤ 3 ∧ 3 ≤ (SMap.get MEnt.none m.ent 5).endx.toNat ∧
      (m.validate 2).isSome = true ∧ ({ m with rs := [(0, 0x1000000000000001)] }.validate 0) = none := by
  decide +kernel

/-- BightMaps: a good descriptor at offset 0 for entry 3, and each failing test: the number, alignment, range, a descriptor word that
does not hold its data, an entry in use, V = 0, and a descriptor that breaks R104. -/
theorem witness_bight_maps :
    let d : Nat := 0x10000 + 64 * 2 ^ 64 + 2 ^ 96 + 15 * 2 ^ 120 + 2 ^ 163
    let s := (wRegs 0 8 0xFFFE8 0).modCore 0 (fun k => { k with spad := Memory.wrN [] 0 d 32 })
    let b : Bight := { Bight.none with stride := 64, count := 1, elem := 15, v := true }
    let f (d hi lo : Nat) : Nat := d / 2 ^ lo % 2 ^ (hi + 1 - lo)
    let m := w0.modCore 0 (fun k => { k with teams := [{ t0 with bights := [(3, b)] }] })
    s.me.guard0 0 = true ∧ s.teamOf 0 = some t0 ∧ (3 : Nat) < t0.nbgt ∧ (∀ k < 8, s.usable 0 false (t0.spadBase / 4 + k) = true) ∧
      (SMap.get Bight.none t0.bights 3).v = false ∧ s.descAt 0 = d ∧ f d 163 163 = 1 ∧
      f d 135 130 = 0 ∧ f d 255 172 = 0 ∧ f d 1 0 = 0 ∧ f d 119 96 = 1 ∧ f d 95 64 % 4 = 0 ∧ f d 129 120 = 15 ∧ f d 159 136 = 0 ∧
      4 * (0 + 16) ≤ t0.winSize (bightOf d 0).space ∧ t0.bights = [] ∧ ({ t0 with nbgt := 0 } : Team).nbgt ≤ 0 ∧
      (s.me.rs 2).toNat % 32 ≠ 0 ∧ t0.spadSize < 0xFFFE0 + 64 ∧ (SMap.get Bight.none [(3, b)] 3).v = true ∧
      m.usable 0 false (t0.spadBase / 4) = false ∧ m.storedWord 0 false (t0.spadBase / 4) = false ∧
      f (d - 2 ^ 163) 163 163 = 0 ∧ f (d + 2 ^ 130) 135 130 ≠ 0 := by decide +kernel

/-- BightOperations: a valid entry without a fill, the same with one in flight, and an entry that is not valid. -/
theorem witness_bight_ops :
    let b : Bight := { Bight.none with vbase := 0x10000, stride := 64, count := 1, elem := 15, wr := true, v := true }
    let t : Team := { t0 with bights := [(3, b)] }
    let s := w0.modCore 0 (fun k => { k with teams := [t] })
    let o : GOp := { id := 7, x := 0, core := 0, task := 0, asid := 0, kind := .fill 3, va := 0x10000, after := [], acq := false
                     scope := 0, orig := 0, fid := none, perm := false, eng := false }
    s.me.guard0 0 = true ∧ s.teamOf 0 = some t ∧ 3 < t.nbgt ∧ t.task = s.me.task ∧ (SMap.get Bight.none t.bights 3).v = true ∧
      (SMap.get Bight.none t.bights 4).v = false ∧ s.filling 0 s.me.task 3 = false ∧
      State.filling { s with ops := [o] } 0 s.me.task 3 = true ∧ s.me.stq = [] ∧ SMap.wf Side.none ((s.core 0).sides b.space) = true ∧
      ({ t0 with nbgt := 0 } : Team).nbgt ≤ 3 := by decide +kernel

/-- A copy block: 64 bytes from global address 0x10000 to the scratchpad at 256 (kind 0). -/
def wBlock : BitVec 512 := BitVec.ofNat 512 (0x10000 + 256 * 2 ^ 64 + 64 * 2 ^ 128 + 2 * 2 ^ 232)

/-- A copy command with that block and a tag. -/
def wCmd (st : CopySt) (prog : Nat) (x : Option CtxNo) : CopyCmd :=
  { tag := 5, x := x, task := 0, kind := 0, blk := wBlock, prog := prog, st := st, fmask := 0, excl := 0, fid := none
    fill := none, bad := none, paused := false, hid := 9, after := [], room := false }

/-- CopyPushesAndCompletionQueues: a good block, a full engine, ALIGN, RANGE, BIGHT and CMD; queues with and without a word, and
a command with the tag asked for. -/
theorem witness_copy_ops :
    let s := (wRegs 0 8 0xFFFE8 5).modCore 0 (fun k => { k with spad := Memory.wrN [] 0 wBlock.toNat 64 })
    let b : Bight := { Bight.none with vbase := 0x10000, stride := 64, count := 1, elem := 15, v := true }
    let m := w0.modCore 0 (fun k => { k with teams := [{ t0 with bights := [(3, b)] }] })
    let full := w0.modCore 0 (fun k => { k with eng0 := List.replicate 8 (wCmd .queued 0 (some 0)) })
    let q := w0.modCtx 0 (fun k => { k with cq := k.cq.set 0 [5] })
    s.me.guard0 0 = true ∧ (s.outCmds 0 0).length < 8 ∧ (live ((s.core 0).eng 0)).length < 32 ∧ s.blockUnusable 0 64 = false ∧
      s.blockAt 0 = wBlock ∧ blockBad 0 (s.blockAt 0) = false ∧ (s.blockAt 0).toNat / 2 ^ 384 = 0 ∧
      ¬ (full.outCmds 0 0).length < 8 ∧ (s.me.rs 2).toNat % 64 ≠ 0 ∧ t0.spadSize < 0xFFFC0 + 128 ∧ m.blockUnusable 0 64 = true ∧
      blockBad 1 (s.blockAt 0) = true ∧ w0.me.cqOf 0 = [] ∧ q.me.cqOf 0 = [5] ∧
      ((full.outCmds 0 0).find? (fun k => k.tag = (s.me.rs 4).setWidth 16)).isSome = true := by decide +kernel

/-- A state whose halyard is as given. -/
def wHal (h : Halyard) : State := w0.modCore 0 (fun k => { k with hal := h })

/-- HalyardOps: IDLE and RUN, a block that can be read, a queue with and without a word. -/
theorem witness_halyard_ops :
    w0.me.guard0 0 = true ∧ w0.teamOf 0 = some t0 ∧ (w0.core 0).hal.st = .idle ∧ w0.blockUnusable 0 64 = false ∧
      ((wHal { Halyard.none with st := .run }).core 0).hal.st ≠ .idle ∧ (w0.core 0).hal.cq = [] ∧ (8 : Nat) % 64 ≠ 0 ∧
      ({ t0 with spadSize := 64 } : Team).spadSize < 64 + 64 ∧
      (w0.modCore 0 (fun k => { k with teams := [{ t0 with bights := [(3,
        { Bight.none with vbase := 0x10000, stride := 64, count := 1, elem := 15, v := true })] }] })).blockUnusable 0 64 = true ∧
      ((wHal { Halyard.none with cq := [7] }).core 0).hal.cq = [7] := by decide +kernel

/-- LinkTransfers: an owned pair with a credit and a flit, one with neither, one that the task does not own, and buffers that are
misaligned, past the window and mapped. -/
theorem witness_links :
    let s (q : LinkQ) : State := { w0 with links := [(13, q)] }
    let good : LinkQ := ⟨[some 0x1234], 1, some 0, []⟩
    let bad : LinkQ := ⟨[], 0, some 0, []⟩
    (s good).me.guard0 0 = true ∧ (s good).teamOf 0 = some t0 ∧ (s good).linkFenced 3 = false ∧
      (s good).bufMapped 128 128 = false ∧ ((s good).link 13).owner = some (s good).me.task ∧ 0 < ((s good).link 13).credits ∧
      ((s good).link 13).flits = [0x1234] ∧ (s good).waitsFor 0 (((s good).flitStores 128 0x1234).map (fun e => (e.1, 8))) = [] ∧
      ((s bad).link 13).credits = 0 ∧ ((s bad).link 13).flits = [] ∧ (s ⟨[], 1, none, []⟩).link 13 = ⟨[], 1, none, []⟩ ∧
      (128 : Nat) % 8 = 0 ∧ 128 + 128 ≤ t0.spadSize ∧ (4 : Nat) % 8 ≠ 0 ∧ t0.spadSize < 0xFFF88 + 128 ∧
      ((s good).modCore 0 (fun k => { k with teams := [{ t0 with bights := [(3,
        { Bight.none with vbase := 0x10000, stride := 64, count := 1, elem := 15, v := true })] }] })).bufMapped 0 128 = true := by
  decide +kernel

/-- LinkTransfers, a fenced module: the one across a link, once its peers are fenced, whichever module this is. -/
theorem witness_fenced_link (l : Nat) :
    ({ w0 with mgmt := { w0.mgmt with fmask := 15 } } : State).linkFenced l = true := by
  have h : ∀ k < 4, bitOf 15 k = true := by decide
  exact (congrArg (true && ·) (h _ (Nat.mod_lt (Config.linkPeer l) (by decide)))).trans rfl

/-- A result that waits in the landing buffer. -/
def wFlight : Flight :=
  { id := 1, due := 9, dst := .s 2, lanes := allLanes, value := none, flags := 0, buf := true, src := .hub 7, lock := false, orig := 0 }

/-- GlobalOperationsIssue: with and without an entry, aligned and not, a knot index below 2^16 and at it. -/
theorem witness_global_ops :
    let full := w0.modCtx 0 (fun k => { k with flight := List.replicate 64 wFlight })
    w0.me.guard0 0 = true ∧ w0.bufUsed 0 < 64 ∧ ¬ full.bufUsed 0 < 64 ∧ ((wRegs 64 0 0 0).me.rs 1).toNat % 64 = 0 ∧
      ((wRegs 63 0 0 0).me.rs 1).toNat % 4 ≠ 0 ∧ ((wRegs 0xFFFF 0 0 0).me.rs 1).toNat < 2 ^ 16 ∧
      2 ^ 16 ≤ ((wRegs 0x10000 0 0 0).me.rs 1).toNat := by decide +kernel

/-- A map whose leaf lies in the hawser window of target t. -/
def withHawser (t : Nat) (s : State) : State :=
  { s with asids := [(0, { AsidEnt.none with v := true })]
           dram := [(0, 1), (1, 0x20), (0x2000, 0x0B), (0x2006, BitVec.ofNat 8 t)] }

/-- The address translates into a hawser window. -/
def isHawser (e : Xlate) : Bool := match e with
  | .ok p _ => paHawser p
  | _ => false

/-- The window of another module than this one is mapped there. -/
theorem hawser_xlate (t : Nat) (ht : t = 1 ∨ t = 2) (h : t - 1 ≠ Config.modnum.toNat) :
    isHawser ((withHawser t w0).xlate 0 0 0x10000 true) = true := by
  have hw : (withHawser t w0).walk 0 0x10000 = .leaf (2 ^ 48 * t + 11) 2 0x2000 := by
    have hv : paValid (entryPage (2 ^ 48 * t + 11)) = true := by
      rcases ht with rfl | rfl <;> simpa [paValid, paTarget, paOff, entryPage, bitsOf, dramSize] using h
    have e0 : Memory.rdN (withHawser t w0).dram 0 16 = 0x2001 := by rcases ht with rfl | rfl <;> decide +kernel
    have e1 : Memory.rdN (withHawser t w0).dram 0x2000 16 = 2 ^ 48 * t + 11 := by
      rcases ht with rfl | rfl <;> decide +kernel
    have hl : leafFault (2 ^ 48 * t + 11) 2 false = none := by
      unfold leafFault
      rw [hv]
      rcases ht with rfl | rfl <;> decide +kernel
    have hb : bitOf (2 ^ 48 * t + 11) 0 = true ∧ bitsOf (2 ^ 48 * t + 11) 1 2 = 1 := by
      rcases ht with rfl | rfl <;> decide +kernel
    have ha : (withHawser t w0).asid 0 = { AsidEnt.none with v := true } := rfl
    unfold State.walk
    rw [ha]
    show walkFrom (withHawser t w0).dram 0x10000 3 0 = _
    unfold walkFrom
    simp only [show (0 + 16 * bitsOf 0x10000 (12 + 9 * 3) 9) = 0 from by decide, e0]
    show walkFrom (withHawser t w0).dram 0x10000 2 0x2000 = _
    unfold walkFrom
    simp only [show (0x2000 + 16 * bitsOf 0x10000 (12 + 9 * 2) 9) = 0x2000 from by decide, e1, hb.1, hb.2, hl]
    rfl
  have hc : (withHawser t w0).cached 0 0 0x10000 = none := rfl
  have hb : (withHawser t w0).barred 0 0 0x10000 = false := rfl
  unfold State.xlate
  rw [hb]
  show isHawser ((withHawser t w0).look 0 0 0x10000 true) = true
  unfold State.look
  rw [hw, hc]
  rcases ht with rfl | rfl <;> decide +kernel

/-- ScAndSpliceIssue: a plain and a hawser address (of the first module that is not this one), no free entry, a misaligned address, buffers
for the operands and one that is misaligned, past the window or mapped, a good index and bad ones, and a task with a VTAB and without. -/
theorem witness_sc_splice :
    let s := withMap w0
    let v : State := { w0 with ropes := [(0, { Rope.none with vtab := 0x4000 })] }
    s.bufUsed 0 < 64 ∧ isPa (s.xlate 0 0 0x10000 true) 0x10000 = true ∧ s.bufMapped 64 128 = false ∧ v.myVtab ≠ 0 ∧
      (1 : Nat) % 32 ≠ 0 ∧ 1 / 32 % 8 = 0 ∧ 1 / 2 ^ 16 = 0 ∧ (0 : Nat) % 32 = 0 ∧ 32 / 32 % 8 ≠ 0 ∧ 2 ^ 16 / 2 ^ 16 ≠ 0 ∧ s.myVtab = 0 ∧
      (8 : Nat) % 64 ≠ 0 ∧ (64 : Nat) % 64 = 0 ∧ 64 + 128 ≤ t0.spadSize ∧ t0.spadSize < 0xFFFC0 + 128 ∧
      (s.modCore 0 (fun k => { k with teams := [{ t0 with bights := [(3,
        { Bight.none with vbase := 0x10000, stride := 64, count := 1, elem := 15, v := true })] }] })).bufMapped 0 128 = true ∧
      64 ≤ (s.modCtx 0 (fun k => { k with flight := List.replicate 64 wFlight })).bufUsed 0 := by decide +kernel

theorem witness_hawser : ∃ t, isHawser ((withHawser t w0).xlate 0 0 0x10000 true) = true := by
  by_cases h : Config.modnum.toNat = 0
  · exact ⟨2, hawser_xlate 2 (.inr rfl) (by omega)⟩
  · exact ⟨1, hawser_xlate 1 (.inl rfl) (by omega)⟩

/-- An operation of context 0, task 0, at virtual address va. -/
def wOp (kind : GKind) (va : Nat) : GOp :=
  { id := 7, x := 0, core := 0, task := 0, asid := 0, kind := kind, va := va, after := [], acq := false, scope := 0, orig := 0
    fid := none, perm := false, eng := false }

/-- The hypothesis `Reaches`, tested. -/
def reaches (s : State) (o : GOp) (pa n : Nat) (w : Bool) : Bool :=
  s.op? o.id = some o && s.clearOf o.x o.after && !s.recorded o.task && !o.perm && o.fid = none &&
    isPa (s.xlate o.core o.asid o.va w) pa && decide (pa + n ≤ 0x9000000000) && decide (s.owners = []) &&
    decide (s.errs = []) && decide (s.mon.table = none)

/-- The hypothesis `AtHome`, tested. -/
def atHome (s : State) (o : GOp) (pa n : Nat) (w : Bool) : Bool := reaches s o pa n w && !s.physBad pa n

/-- Task 0 with the identity map and one operation that waits to perform at its home. -/
def wHome (kind : GKind) (va : Nat) : State := { withMap w0 with ops := [wOp kind va] }

/-- GlobalIssueAndEnergyQueries: the task, its credit, and a table of variants with an entry 1 and an empty entry 2. -/
theorem witness_energy :
    let s := { withMap (wRegs 1 32 0 0) with
      ropes := [(0, { Rope.none with vtab := 0x4000 })], dram := (withMap w0).dram ++ [(0x4012, 1)]
      tasks := [{ probeTask with credit := [(0, 50)] }] }
    s.me.guard0 0 = true ∧ (s.task? s.me.task).isSome = true ∧
      ({ probeTask with credit := [(0, 50)] } : Task).credit.find? (fun p => p.1 = 0) = some (0, 50) ∧
      (s.me.rs 1).toNat = 1 ∧ s.myVtab ≠ 0 ∧ (s.vtabEntry 0 (s.taskAsid s.me.task) s.myVtab 1).1 ≠ 0 ∧
      (s.vtabEntry 0 (s.taskAsid s.me.task) s.myVtab 2).1 = 0 ∧ w0.myVtab = 0 ∧ s.owners = [] ∧ s.errs = [] ∧
      31 < (s.me.rs 2).toNat ∧ (s.me.rs 3).toNat = 0 := by decide +kernel

/-- DrainsAndBarriers: a mask of the own team alone, a mask that names an unplaced core, a pending mask that agrees or differs,
and an arrival that is alone or completes. -/
theorem witness_barriers :
    let s := wRegs 1 3 0 0
    let m (r : BitVec 6) : BitVec 4 := (s.me.rs r).setWidth 4
    let two := { (wRegs 3 0 0 0) with tasks := [{ probeTask with ncores := 2 }] }
    let both := two.setCtx 16 { Ctx.none with st := .ready }
    let w := s.modCtx 0 (fun k => { k with st := .stalled, bar := some (1, false, []) })
    let lone := both.modCtx 0 (fun k => { k with st := .stalled, bar := some (3, false, []) })
    s.me.guard0 0 = true ∧ (m 1).getLsbD 0 = true ∧ s.placed s.me.task 0 = true ∧ s.pendingMask s.me.task 0 = none ∧
      (m 2).getLsbD 1 = true ∧ s.placed s.me.task 1 = false ∧
      (two.modCtx 0 (fun k => { k with bar := some (1, false, []) })).pendingMask 0 0 = some 1 ∧
      (two.modCtx 0 (fun k => { k with bar := some (2, false, []) })).pendingMask 0 0 = some 2 ∧ (1 : BitVec 4).getLsbD 0 = true ∧
      (2 : BitVec 4).getLsbD 0 = false ∧ (m 1) ≠ 2 ∧
      (w.ctx 0).bar = some (1, false, []) ∧ w.clearOf 0 [] = true ∧ w.participants 0 0 1 = [0] ∧
      (w.core 0).team? 0 = some t0 ∧ t0.saving = false ∧ lone.participants 0 0 3 = [0, 16] ∧ (lone.ctx 16).st ≠ .ended ∧ (lone.ctx 16).bar = none := by decide +kernel

/-- SystemOperations: in and out of a handler, with and without DBG, recorded or not, with room in the ring and without. -/
theorem witness_system :
    let h := w0.modCtx 0 (fun k => { k with inh := true })
    let d := w0.modCtx 0 (fun k => { k with dbg := true })
    let r := { w0 with mgmt := { w0.mgmt with wrec := 1 } }
    h.me.inh = true ∧ w0.me.inh = false ∧ d.me.dbg = true ∧ w0.me.dbg = false ∧ w0.recorded w0.me.task = false ∧
      r.recorded r.me.task = true ∧ r.wonus = [] ∧ (r.mgmt.wtail - r.mgmt.whead).toNat < 2 ^ r.mgmt.wlog.toNat ∧
      2 ^ r.mgmt.wlog.toNat ≤ (({ r.mgmt with wtail := 1 } : Mgmt).wtail - r.mgmt.whead).toNat := by decide +kernel

/-- The running call of entry 5, at word 2. -/
def wRun : MRun :=
  { cmd := wCall, w := 2, rc0 := 0, rc1 := 0, m := Vector.replicate 8 0, steps := 0, wait := 0, row := 0, ended := false
    fill := none, bad := none, begun := false, stop := false, land := [], last := 0, lfill := none, lbad := none }

/-- A read of the matrix engine, compared. -/
def isRead (e : ERead) (v : Nat) : Bool := match e with
  | .ok w => decide (w = v)
  | _ => false

/-- RoutineControlAndTileWords, RoutineLoadsAndPasses: a running call with its team, banks EMPTY, LOADING and LOADED, an
accepted and a refused pair, an aligned offset, one past the window and one that is not aligned, readable rows, accesses still to
perform, words that are not usable or hold poison, and a fill that failed. -/
theorem witness_routine_words :
    let s := wMtx [] (some wRun)
    let m := (s.core 0).mtx
    let pair := SMap.get (0 : BitVec 10) [(0, 0x252)] 0
    let bank (st : BankSt) : State := s.setCore 0 { s.core 0 with mtx := { m with bank0 := ⟨st, 18, 18, []⟩ } }
    let late : MRun := { wRun with land := [(0, 5)], stop := true }
    m.run = some wRun ∧ wRun.ended = false ∧ s.teamOf wRun.cmd.x = some t0 ∧ wRun.cmd.x.val / 16 = 0 ∧ wRun.row = 0 ∧
      wRun.stop = false ∧ late.stop = true ∧ m.cyc < SMap.get 0 late.land 0 ∧ SMap.get 0 wRun.land 0 ≤ m.cyc ∧
      ((bank .loaded).core 0).mtx.bank0.st = .loaded ∧ ((bank (.loading 1536 0 24 2 1)).core 0).mtx.bank0.st = .loading 1536 0 24 2 1 ∧
      (modeOf 18 18).isSome = true ∧
      wCall.kind = .call 5 0 0 (Vector.replicate 8 0) 0 ∧ modeOf 0 0 = none ∧
      modeOf (pair.setWidth 5) ((pair >>> 5).setWidth 5) = some ⟨96, 4, 96, 24, 25⟩ ∧ m.bank0.st = .empty ∧
      (1536 : Nat) % 768 = 0 ∧ (769 : Nat) % 768 ≠ 0 ∧ 1536 + 768 * 24 ≤ t0.vaultSize ∧ t0.vaultSize < 16777215 + 768 * 24 ∧
      (∀ i < 32, isRead (s.engineRead 0 wRun (384 * i) 384) 0 = true) ∧
      (∀ w, w < 192 → s.usable 0 false w = true ∧ s.poisoned ⟨0, false, 4 * w⟩ = false) ∧ s.errs = [] ∧ s.clearOf 0 [] = true ∧
      State.clearOf { s with ops := [wOp .pin 0x10000] } 0 [7] = false ∧
      (s.modCore 0 (fun k => { k with teams := [{ t0 with bights := [(3, { Bight.none with vbase := 0x10000, stride := 64, count := 1, elem := 15, v := true })] }] })).usable 0 false 0 = false ∧
      (s.modCore 0 (fun k => { k with spadPoison := [0] })).poisoned ⟨0, false, 0⟩ = true ∧
      ({ wRun with bad := some 4 } : MRun).bad = some 4 := by decide +kernel

/-- ContextEvents: each clause's context. -/
theorem witness_context_events :
    let c := w0.me
    let at_ (k : Ctx) : State := w0.setCtx 0 k
    let d : Deferred := ⟨0x02, 0x04, 0x10000, 3⟩
    let ready : Ctx := { c with st := .ready }
    ({ c with st := .stalled, limit := 5, dcount := 5 } : Ctx).limit ≠ 0 ∧ (at_ { c with st := .stalled }).blocked 0 = false ∧
      (at_ ready).recorded ready.task = false ∧ (at_ { ready with deferred := [d] }).me.deferred = d :: [] ∧
      (at_ ready).teamOf 0 = some t0 ∧ t0.nbun ≤ ({ ready with pc := 1 } : Ctx).pc.toNat ∧ ready.pc.toNat < t0.nbun ∧
      ready.pc.toNat ∈ ({ t0 with ipar := [0] } : Team).ipar ∧ ready.pc.toNat ∉ t0.ipar ∧
      bundleCause t0.mtx t0.hal (SMap.get 0 (probeTeam (0x80000000)).bundles 0) = some (.rsvd, 5) ∧
      ({ ready with throttle := true, utv := 0x2010 } : Ctx).utv.getLsbD 13 = true ∧ ready.inh = false ∧
      ready.held = [] ∧ ready.rpar = [] ∧ ready.flight = [] ∧ (let f : Flight := { wFlight with dst := .vrb, value := some 3 }
        ({ ready with flight := [f] } : Ctx).landBases = { ready with vrb := 3 }) ∧
      (∀ o ∈ w0.ops, o.x = (0 : CtxNo) → o.eng = true) ∧ ({ c with st := .stalled, ending := true } : Ctx).flight = [] ∧
      (let r := { at_ ready with mgmt := { w0.mgmt with wrec := 1, wlog := 4 } }
       r.recorded ready.task = true ∧ r.wonus = [] ∧ (r.mgmt.wtail - r.mgmt.whead).toNat < 2 ^ r.mgmt.wlog.toNat ∧
        2 ^ r.mgmt.wlog.toNat ≤ (({ r.mgmt with wtail := 16 } : Mgmt).wtail - r.mgmt.whead).toNat) := by
  decide +kernel

/-- ResultArrival: a result due without data, one that is not, a load with its data there, a vector load of two lanes, and an
accumulator read of a tile that is busy or not. -/
theorem witness_results :
    let f : Flight := { wFlight with due := 0 }
    let ld : Flight := { wFlight with src := .mem 4 true false [{ lane := 0, core := 0, vault := false, off := 8, val := none }] [] }
    let busy : MRun := { wRun with cmd := ⟨0, .mzero 1, []⟩ }
    let es : List Elem := [{ lane := 0, core := 0, vault := true, off := 8, val := none },
      { lane := 31, core := 0, vault := false, off := 0, val := none }]
    (f.due ≤ (w0.part 0).pcyc ∧ f.value = none ∧ f.lock = false) ∧ ld.value = none ∧ ld.hold = 0 ∧
      ({ ld with hold := 3 } : Flight).hold = 3 ∧ w0.errs = [] ∧ (0 : Nat) ≤ (w0.part 0).pcyc ∧ (w0.part 0).pcyc < 5 ∧
      (∀ e ∈ es, e.val = none ∧ w0.allUsable ⟨e.core, e.vault, e.off⟩ 4 = true ∧ w0.poisoned ⟨e.core, e.vault, e.off⟩ = false) ∧
      w0.allUsable ⟨0, false, 8⟩ 4 = true ∧ w0.poisoned ⟨0, false, 8⟩ = false ∧ (w0.core 0).mtx.busy 0 = false ∧
      ((wMtx [] (some busy)).core 0).mtx.busy 0 = true := by decide +kernel

/-- HomeAtomicExecutes, SpliceExecutes, GlobalWritePerforms: each kind of operation at its home; an SC operation in its place. -/
theorem witness_homes :
    atHome (wHome (.amo .add 8 1 0 true) 0x10000) (wOp (.amo .add 8 1 0 true) 0x10000) 0x10000 8 true = true ∧
      atHome (wHome (.knot .swap 1 true) 0x10000) (wOp (.knot .swap 1 true) 0x10000) 0x10000 8 true = true ∧
      atHome (wHome (.sc .add 8 1 0 true) 0x10000) (wOp (.sc .add 8 1 0 true) 0x10000) 0x10000 8 true = true ∧
      w0.wpos = (wOp .pin 0).x.val ∧ w0.scTaken = false ∧ (∀ k < 64, w0.sliceBusy k = false) ∧
      atHome (wHome (.splice 3 0 (some 64)) 0x10000) (wOp (.splice 3 0 (some 64)) 0x10000) 0x10000 64 true = true ∧
      atHome (wHome (.splice 3 0 none) 0x10000) (wOp (.splice 3 0 none) 0x10000) 0x10000 64 true = true ∧
      reaches { wHome (.splice 3 0 none) 0x10000 with poison := [0x2000] } (wOp (.splice 3 0 none) 0x10000) 0x10000 64 true = true ∧
      ({ wHome (.splice 3 0 none) 0x10000 with poison := [0x2000] } : State).physBad 0x10000 64 = true ∧
      w0.rmap = [] ∧ (List.find? (fun e => e.1 = 3) [((3 : Nat), (5 : Nat))]) = some (3, 5) ∧
      atHome (wHome (.wb 3 true [(0x10004, 9)] 1) 0x10000) (wOp (.wb 3 true [(0x10004, 9)] 1) 0x10000) 0x10000 64 true = true ∧
      atHome (wHome (.vreg 5) 0x10000) (wOp (.vreg 5) 0x10000) 0x10000 16 true = true ∧
      atHome (wHome .pin 0x10000) (wOp .pin 0x10000) 0x10000 64 false = true ∧
      (wHome (.rm 3) 0).op? 7 = some (wOp (.rm 3) 0) ∧
      atHome (wHome (.fill 3) 0x10000) (wOp (.fill 3) 0x10000) 0x10000 64 false = true := by decide +kernel

/-- An entry of one line at 0x10000, mapped over the first 16 words of the scratchpad. -/
def wEntry : Bight := { Bight.none with vbase := 0x10000, stride := 64, count := 1, elem := 15, wr := true, v := true }

/-- Task 0 with that entry, the side bits x of word 0, and the identity map with PATTR p. -/
def wMapped (x : Side) (p : Nat) : State :=
  let s := withMap w0
  { s with cores := [(0, { Core.none with teams := [{ t0 with bights := [(3, wEntry)] }], spadSide := [(0, x)] })]
           dram := s.dram ++ (if p = 0 then [] else [(0x2008, BitVec.ofNat 8 p)]) }

/-- FillCompletes: a fill of a line of a valid entry while no result is pending. -/
theorem witness_fill :
    let s := { wMapped Side.none 0 with ops := [wOp (.fill 3) 0x10000] }
    let t : Team := { t0 with bights := [(3, wEntry)] }
    atHome s (wOp (.fill 3) 0x10000) 0x10000 64 false = true ∧ (s.core 0).team? 0 = some t ∧
      SMap.get Bight.none t.bights 3 = wEntry ∧ wEntry.v = true ∧
      (∀ x : CtxNo, (s.ctx x).stq = [] ∧ (s.ctx x).flight = [] ∧ (s.ctx x).held = [] ∧ (s.ctx x).heldU = []) := by
  decide +kernel

/-- RecallsWriteBack: well-formed side bits, a core without dirty words, and one with a single dirty word of the entry recalled. -/
theorem witness_recalls :
    let s := wMapped .stored 1
    let d : DirEnt := ⟨16, 0, 0, 3, 0⟩
    let line := 8 * 2 ^ 48 + 0x105
    line / 2 ^ 48 % 16 = 8 ∧ line % 64 + [(7 : Byte), 8].length ≤ 64 ∧ s.owners = [] ∧ (∀ k v, SMap.wf Side.none ((s.core k).sides v) = true) ∧
      (∀ k v w, (SMap.get Side.none ((State.reset.core k).sides v) w).dirty = false) ∧
      (∀ k v w, (SMap.get Side.none ((s.core k).sides v) w).dirty = true → k = 0 ∧ v = false ∧ w = 0) ∧
      (∃ m, (s.core 0).mapOf false 0 = some m ∧ m.n = d.n ∧ m.task = d.task ∧ m.b.gen = d.gen ∧
        ∃ a, s.mapXlate 0 m true = .ok 0x10000 a ∧ a.coh = 1 ∧ a.host = false ∧ homeSlice a 0x10000 = d.slice) := by
  refine ⟨by decide, by decide, rfl, fun k v => ?_, fun k v w => by cases v <;> rfl, fun k v w h => ?_, _, rfl, rfl, rfl, rfl, ⟨1, false, false, 0, 0, 0⟩, by decide +kernel, rfl, rfl, by decide⟩
  · by_cases hk : k = 0
    · subst hk; cases v <;> rfl
    · have : (wMapped .stored 1).core k = Core.none := if_neg hk
      rw [this]; cases v <;> rfl
  · by_cases hk : k = 0
    · subst hk
      cases v with
      | true => exact nomatch (show false = true from h)
      | false =>
        by_cases hw : w = 0
        · exact ⟨rfl, rfl, hw⟩
        · rw [show (SMap.get Side.none (((wMapped .stored 1).core 0).sides false) w) = Side.none from if_neg hw] at h
          exact absurd h (by decide)
    · have hc : (wMapped .stored 1).core k = Core.none := if_neg hk
      rw [hc] at h
      cases v <;> exact absurd h (by simp [Core.sides, Core.none, SMap.get, Side.none])

/-- RecallsWriteBack: no error and no ASID table, a snoop of device memory that its slice serves and one that waits behind another, and an
owned word, captured or not. -/
theorem witness_snoops :
    let o : Owner := ⟨0x4000, 0, 0, 3, false, 0, none⟩
    w0.errs = [] ∧ w0.mon.table = none ∧ w0.waits = [] ∧ (∀ k < 64, w0.sliceBusy k = false) ∧
      ({ w0 with waits := [.snoop 64 []] } : State).waits ≠ [] ∧ (0x10000 : Nat) / 2 ^ 48 % 16 = 0 ∧ 0x10000 + 64 ≤ 0x9000000000 ∧
      4 * o.word + 4 ≤ 0x9000000000 ∧ 4 * o.word < 0x10000 + 4 ∧ 0x10000 < 4 * o.word + 4 ∧ o.cap = none ∧
      ({ o with cap := some (0x10000, 7) } : Owner).cap = some (0x10000, 7) ∧ 0x10004 + 4 ≥ 4 * o.word + 4 ∧
      w0.slotOf 0 = 0 := by decide +kernel

/-- HomeAgents: an access that ends at the top of the HDM range, one past it, one that waits behind another, clocks within 2^31 of a
base, a full ring and one with space, and errors that a pass at cycle 0 finds and one at cycle 1 does not. -/
theorem witness_home_agents :
    (0x8FFFFFFFC0 : Nat) + 64 ≤ 0x9000000000 ∧ (0x9000000000 : Nat) < 0x8FFFFFFFC0 + 65 ∧ w0.owners = [] ∧
      (∀ k < 128, ((w0.core k).pts - 0).toNat < 2 ^ 31) ∧ ({ w0 with wonus := [⟨8, 0, 0, 0, 0⟩] } : State).wonus ≠ [] ∧
      (w0.mgmt.wtail - w0.mgmt.whead).toNat < 2 ^ w0.mgmt.wlog.toNat ∧
      w0.errs = [] ∧ w0.waits = [] ∧ (∀ k < 64, w0.sliceBusy k = false) ∧ w0.mon.table = none ∧
      ({ w0 with waits := [.read 0 8] } : State).waits ≠ [] ∧ (0 : Nat) % 172800000000000 = 0 ∧ (1 : Nat) % 7200000000000 ≠ 0 ∧
      (0x10000 / 64 : Nat) ∉ w0.hostCached ∧ (0x10000 / 64 : Nat) ∈ ({ w0 with hostCached := [0x400] } : State).hostCached := by decide +kernel

/-! Ropes, tasks, engines, the governor. -/

/-- A rope table at 0x4000 with rope 0 as the engine holds it, and the 64 bytes of its descriptor. -/
def wRope (k : Rope) (d : Nat) : State :=
  let s := withMap w0
  { s with host := { s.host with rten := true, rtbase := 1 }, ropes := [(0, k)], dram := Memory.wrN s.dram 0x4000 d 64 }

/-- A doubleword or a line that the rope engine reads, compared. -/
def ropeReads (s : State) (k : Rope) (va n x : Nat) : Bool :=
  isPa (s.xlate 128 k.asid va false) va && decide (va + n ≤ 0x9000000000) && !s.physBad va n && decide (Memory.rdN s.dram va n = x)

/-- RopeEvents: EN set on a good and on a bad descriptor, EN cleared, HEAD written, PRIO at 47 and 48, a NEXT word that is 0, a
record address or neither, a record that can start and one that breaks R16, and a knot at its threshold and below. -/
theorem witness_ropes :
    let d : Nat := 1 + 47 * 4 + 2 ^ 64 + 0x5000 * 2 ^ 192
    let bad : Nat := d + 4
    let k : Rope := { Rope.none with en := true, st := .head, mask := 1 }
    let f : Fetched := ⟨0x5000, BitVec.ofNat 512 (2 ^ 206 + 8 * 2 ^ 256 + 3 * 2 ^ 272), 0, none, false, []⟩
    let s := wRope { k with knots := 0x6000, fetched := [f] } (d + 0x6000 * 2 ^ 256)
    (wRope k d).host.rten = true ∧ (wRope k d).mgmt.quiesce = false ∧ (wRope k d).owners = [] ∧ (wRope k d).hubWaits = [] ∧ Rope.none.en = false ∧
      Rope.none.st = .off ∧ (Memory.rdN (wRope k d).dram 0x4000 64) = d ∧ d.testBit 0 = true ∧ descBad d = false ∧
      descBad bad = true ∧ k.en = true ∧ (wRope k d).preempt = [] ∧ (0x5000 : Nat) % 64 = 0 ∧ d / 2 ^ 2 % 2 ^ 6 ≤ 47 ∧
      47 < bad / 2 ^ 2 % 2 ^ 6 ∧ descAsid d = k.asid ∧ descKnots d = k.knots ∧ descVtab d = k.vtab ∧
      ropeReads (wRope k d) k 0x5000 8 0 = true ∧ ropeReads (wRope k d) k 0x4018 8 0x5000 = true ∧
      (0xBD : Nat) % 64 ≠ 0 ∧ ropeReads (wRope k d) k 0x4000 8 0xBD = true ∧
      ropeReads (wRope k d) k 0x5000 64 0 = true ∧ recBad 0 k.vtab.toNat = false ∧ recBad (2 ^ 195) 0 = true ∧
      f.recd.toNat / 2 ^ 206 % 2 ^ 3 = 1 ∧ f.recd.toNat / 2 ^ 256 % 2 ^ 16 = 8 ∧ f.recd.toNat / 2 ^ 272 % 2 ^ 48 = 3 ∧
      descKnots (Memory.rdN s.dram 0x4000 64) = 0x6000 ∧ ropeReads s k 0x6040 8 0 = true ∧ s.errs = [] ∧
      (∀ h < 64, s.sliceJustServed h = false) ∧ k.kept = [] ∧ k.failed = [] ∧ (0x5000 : Word) ∈ ({ k with failed := [0x5000] } : Rope).failed ∧
      (0x4018 : Word) ∈ ({ k with kept := [0x4018] } : Rope).kept ∧ s.launching 0 0x4018 = false ∧
      (BitVec.ofNat 512 (2 ^ 206)).toNat / 2 ^ 272 % 2 ^ 48 = 0 := by decide +kernel

/-- A native image of n teams at 0x20000: the header, an entry for each team at +128 (one context, one bundle at +512), and an
empty bundle. -/
def wImage (shape n : Nat) (m : Memory) : Memory :=
  let hdr : Nat := 0x46414852 + 2 ^ 32 + 6 * 2 ^ 40 + shape * 2 ^ 48 + 1024 * 2 ^ 96 + 128 * 2 ^ 128
  let te : Nat := 1 + 2 ^ 16 + 512 * 2 ^ 32
  (List.range n).foldl (fun m p => Memory.wrN m (0x20080 + 64 * p) te 64) (Memory.wrN m 0x20000 hdr 128)

/-- A record of that image with a shape. -/
def wRec (shape : Nat) : BitVec 512 := BitVec.ofNat 512 (0x20000 * 2 ^ 64 + shape * 2 ^ 192)

/-- The value and the state of a read that succeeds. -/
def rdOk : SupRd → Bool
  | .ok _ _ => true
  | _ => false
def rdVal : SupRd → Nat
  | .ok v _ => v
  | _ => 0
def rdSt (d : State) : SupRd → State
  | .ok _ s => s
  | _ => d

theorem rd_eq (d : State) {r : SupRd} (h : rdOk r = true) : r = .ok (rdVal r) (rdSt d r) := by
  cases r <;> first | rfl | exact nomatch (show false = true from h)

/-- A rope with one fetched record of a one-core image on pages that bypass the system cache, and nothing dispatched. -/
def wStart : State :=
  let f : Fetched := ⟨0x5000, wRec 0, 0, none, false, []⟩
  let k : Rope := { Rope.none with en := true, st := .head, mask := 3, head := 0x5000, fetched := [f] }
  let s := wRope k (1 + 3 * 2 ^ 64)
  { s with tasks := [], cores := [], ctxs := [], dram := wImage 0 1 (Memory.wrN s.dram 0x2009 8 1) }

/-- LaunchEvents, the choice: one eligible record, an image that reads, and base core 0 the lowest that fits. -/
theorem witness_dispatch :
    let f : Fetched := ⟨0x5000, wRec 0, 0, none, false, []⟩
    let k := wStart.ropeOf 0
    let t := newTask 0 k f wStart.nextTask
    let r := wStart.teamsRead (lowCore k.mask) t
    let s1 := rdSt wStart r
    let tes := (List.range t.ncores).map (piece (rdVal r / 2 ^ 1024) 64)
    wStart.host.rten = true ∧ wStart.ropes = [(0, k)] ∧ wStart.tasks = [] ∧ wStart.ckRun = none ∧ k.en = true ∧ k.st = .head ∧
      k.fetched = [f] ∧ k.inflight.toNat < 4 ∧ f.recd.toNat / 2 ^ 206 % 2 ^ 3 = 0 ∧ basesIn k.mask t.ncores = [0, 1] ∧
      wStart.neverAffordable [0, 1] t.ncores t.eclass.toNat = false ∧ rdOk r = true ∧ s1.ropeOf 0 = k ∧
      s1.nextTask = wStart.nextTask ∧ s1.tasks = [] ∧ s1.preempt = [] ∧ s1.owners = [] ∧ s1.errs = [] ∧ wStart.mgmt.quiesce = false ∧
      s1.linksFree (hdrLinks (rdVal r)) t.id = true ∧ s1.canPay 0 t.ncores t.eclass.toNat = true ∧
      (s1.roomsAt 0 [] tes).isSome = true := by decide +kernel

/-- A rope's look-over that starts a record, and the rope and record of it. -/
def startOf (v : Verdict × List (Task × List Nat) × State) : Option (Nat × Word) := match v with
  | (.start t _ _, [], _) => some (t.rope.val, t.recAddr)
  | _ => none

/-- LaunchEvents, two ropes: each has a startable record at one priority, and the look-over of one leaves the other. -/
theorem witness_two_ropes :
    let k := wStart.ropeOf 0
    let s : State := { wStart with ropes := [(0, k), (1, k)], dram := Memory.wrN wStart.dram 0x4040 (1 + 3 * 2 ^ 64) 64 }
    let a := s.scan 0 (s.candidates 0) []
    let s1 := a.2.2
    let b := s1.scan 1 (s1.candidates 1) []
    let s2 := b.2.2
    s.host.rten = true ∧ s.mgmt.quiesce = false ∧ s.ckRun = none ∧ s.ropeOf 0 = k ∧ s.ropeOf 1 = k ∧ k.en = true ∧ k.st = .head ∧
      startOf a = some (0, 0x5000) ∧ startOf b = some (1, 0x5000) ∧ s1.ropeOf 1 = k ∧ s1.ckRun = none ∧ s2.ropeOf 0 = k ∧
      s2.ropeOf 1 = k ∧ s2.lastRope = s.lastRope ∧ s2.preempt = [] ∧ SMap.get 255 s.lastRope k.prio.toNat ≤ 255 := by
  decide +kernel

/-- A task of two teams whose image lies in the second GiB. -/
def t0L : Task := { probeTask with recd := wRec 1, image := 0x40020000, ncores := 2, st := .loading }

/-- That task while it is loaded, with neither team armed; the second GiB is the host's memory. -/
def wLoading : State :=
  let team (c : Nat) : Team := { t0 with
    core := c, pos := c, mtx := false, hal := false, nbgt := 0, armed := false, spadSize := 0, vaultSize := 0 }
  let s := withMap State.reset
  { s with mon := { s.mon with boot := .up }
           tasks := [t0L], cores := [(0, { Core.none with teams := [team 0] }), (1, { Core.none with teams := [team 1] })]
           dram := s.dram ++ [(0x2010, 0x0B), (0x2016, 0x08), (0x2018, 0x04)], hostMem := wImage 1 2 [] }

theorem load_ok (d : State) {r : SupRd} (h : rdOk r = true) (k : Nat → State → Load) :
    r.load k = k (rdVal r) (rdSt d r) := by
  rw [rd_eq d h]; rfl

theorem texts_nil {s : State} {t : Task} {c : Nat} {l : List Nat} (h : l = [])
    (k : List TeamText → State → Load) : s.readTexts t c l k = k [] s := by
  subst h; rfl

/-- LaunchEvents, an armed team: the image of the task reads and passes the verifier, whatever follows. -/
theorem witness_image : ∃ i s0, (∀ k, wLoading.withImage t0L 0 0 k = k i s0) ∧ i.profile = .native ∧
    teChunks i.te i.chunks = [] ∧ teBights i.te i.bgt = [] ∧ ((s0.core 1).team? 0).all (fun w => !w.armed) = true := by
  refine ⟨?i, ?s, fun k => ?goal, ?_⟩
  case goal =>
    unfold State.withImage
    refine (load_ok wLoading (by decide +kernel) _).trans ?_
    refine (if_neg (by decide +kernel)).trans ?_
    refine (load_ok wLoading (by decide +kernel) _).trans ?_
    refine (if_neg (by decide +kernel)).trans ?_
    refine (load_ok wLoading (by decide +kernel) _).trans ?_
    refine (load_ok wLoading (by decide +kernel) _).trans ?_
    refine (load_ok wLoading (by decide +kernel) _).trans ?_
    refine (load_ok wLoading (by decide +kernel) _).trans ?_
    refine (load_ok wLoading (by decide +kernel) _).trans ?_
    refine (load_ok wLoading (by decide +kernel) _).trans ?_
    refine (if_neg (by decide +kernel)).trans ?_
    refine (texts_nil (by decide +kernel) _).trans ?_
    refine (if_neg (by decide +kernel)).trans ?_
    refine (if_neg (by decide +kernel)).trans ?_
    exact rfl
  decide +kernel

/-- LaunchEvents, the other clauses: an unarmed team of a loading task with an unarmed sibling; a saved task whose teams are all
armed; one credit to give back. -/
theorem witness_launch :
    let t := { probeTask with st := .loading, was := .saved }
    let s : State := { w0 with tasks := [t], mon := { w0.mon with boot := .up } }
    let u := ({ t0 with mtx := false, hal := false, nbgt := 0, armed := false, spadSize := 0, vaultSize := 0 } : Team)
    wLoading.task? 0 = some t0L ∧ t0L.st = .loading ∧ t0L.was = .loading ∧ (wLoading.core 0).team? 0 = some u ∧ u.armed = false ∧
      u.parts = [0] ∧ u.nctx ≤ 4 * u.parts.length ∧ (wLoading.core 1).team? 0 = some { u with core := 1, pos := 1 } ∧
      s.task? t.id = some t ∧ (s.core 0).team? t.id = some t0 ∧ t0.armed = true ∧ s.mon.supsHeld = false ∧
      wLoading.mon.supsHeld = false ∧
      ({ t0L with credit := [(5, 50)] } : Task).credit = [(5, 50)] ∧ (5 : Nat) < 128 := by decide +kernel

/-- RetirementEvents: a running task whose contexts have ended or stopped, nothing outstanding, a retired one with a signal left
and with none, a table with an entry 1 and an empty entry 2, a switching task. -/
theorem witness_retirement :
    let s := wRope { Rope.none with en := true, vtab := 0x6000, knots := 0x8000 } (1 + 0x8000 * 2 ^ 256 + 0x6000 * 2 ^ 320)
    let k := s.ropeOf 0
    let d := Memory.rdN s.dram 0x4000 64
    let ended := (s.setCtx 0 { Ctx.none with st := .ended }).setCore 0 { s.core 0 with teams := [{ t0 with hal := false }] }
    let e := Memory.wrN s.dram 0x6010 0x30000 16
    descAsid d = k.asid ∧ descKnots d = k.knots ∧ descVtab d = k.vtab ∧ s.task? 0 = some probeTask ∧ s.owners = [] ∧ s.hubWaits = [] ∧
      s.commandsDone 0 0 = true ∧ s.ops = [] ∧ s.links = [] ∧ s.preempt = [] ∧ t0.bights = [] ∧ t0.ctxNos = [0] ∧
      (ended.ctx 0).st = .ended ∧ probeTask.recd.toNat / 2 ^ 209 % 4 = 0 ∧ probeTask.st = .running ∧
      isPa (s.xlate 128 k.asid (0x8000 + 8 * 3) true) 0x8018 = true ∧ s.physBad 0x8018 8 = false ∧
      isPa (s.xlate 128 k.asid (0x6000 + 16 * 1) false) 0x6010 = true ∧ s.physBad 0x6010 16 = false ∧
      Memory.rdN e 0x6010 16 % 2 ^ 64 ≠ 0 ∧ Memory.rdN e 0x6020 16 % 2 ^ 64 = 0 ∧
      (ended.core 0).team? 0 = some { t0 with hal := false } := by decide +kernel

/-- MatrixEngineEvents: a waiting command with nothing before it and one that waits, each running command, an ended call, a bank
that loads from rows that can be read, a refused and an accepted MMOV descriptor. -/
theorem witness_matrix_events :
    let k : MCmd := ⟨0, .mzero 3, [7]⟩
    let s := wMtx [wCall] none
    let w : State := { wMtx [k] none with ops := [wOp .pin 0x10000] }
    let bad : Nat := 2 ^ 30
    let good : Nat := 64 + 4 * 2 ^ 20 + 1 * 2 ^ 25 + 768 * 2 ^ 32
    let r : MRun := { wRun with cmd := ⟨0, .mmov true false 2 2 (BitVec.ofNat 64 good) 0, []⟩ }
    r.row = 0 ∧ r.begun = false ∧ (s.core 0).mtx.past = [] ∧ (s.core 0).mtx.bank1.st = .empty ∧ ({ wRun with ended := true } : MRun).last ≤ (s.core 0).mtx.cyc ∧ (0 : Nat) < 25 ∧ (25 : Nat) ≤ 52 ∧
      (s.core 0).mtx.run = none ∧ (s.core 0).mtx.queue = wCall :: [] ∧ s.clearOf wCall.x wCall.after = true ∧
      w.clearOf k.x k.after = false ∧ ({ wRun with ended := true } : MRun).ended = true ∧ (s.core 0).mtx.bank0.st = .empty ∧
      (∀ i, i < 192 * 2 → s.allUsable ⟨0, true, t0.vaultBase + 1536 + 4 * i⟩ 4 = true) ∧
      (s.core 0).vaultPoison = [] ∧ s.errs = [] ∧ bad / 2 ^ 30 % 4 ≠ 0 ∧ good / 2 ^ 30 % 4 = 0 ∧ good / 2 ^ 46 = 0 ∧
      good / 2 ^ 20 % 2 ^ 5 + good / 2 ^ 25 % 2 ^ 5 < 32 ∧ good % 4 = 0 ∧ good / 2 ^ 32 % 4 = 0 ∧
      24 * (cvtFmt 2).width = 768 ∧ isRead ((wMtx [] (some r)).engineRead 0 r 64 768) 0 = true ∧
      isRead ((wMtx [] (some r)).engineRead 0 r 832 768) 0 = true ∧ s.teamOf 0 = some t0 ∧
      (∀ w, w < 1024 → (s.core 0).mapOf false w = none) ∧ (s.ctx 0).mstat.toNat / 2 ^ 8 % 16 = 0 := by decide +kernel

/-- A state with one command on engine 0. -/
def wEng (k : CopyCmd) : State := w0.modCore 0 (fun c => { c with eng0 := [k] })

/-- CopyEngineEvents: queued, ended, parked and held commands; a source page that is not present, with a route; an island that
holds energy and one that holds none. -/
theorem witness_copy_events :
    let q := wCmd .queued 0 (some 0)
    let f := blockOf wBlock
    let s := wEng (wCmd .running 0 (some 0))
    let routed := { s with host := { s.host with route := [(0, 1)] }, asids := [(0, { AsidEnt.none with v := true })] }
    (wEng q).core 0 = { w0.core 0 with eng0 := [q] } ∧ routed.owners = [] ∧ routed.errs = [] ∧ (w0.core 0).eng1 = [] ∧ w0.task? 0 = some probeTask ∧
      probeTask.st ≠ .loading ∧ q.after = [] ∧ q.kind ≠ 6 ∧ f.units 0 ≤ 64 ∧ 0 < f.units 0 ∧ f.ssp = 2 ∧
      (f.saddr + 0 / f.len * f.spitch + 0 % f.len) % 2 ^ 64 = 0x10000 ∧ routed.xlate 0 (routed.taskAsid 0) 0x10000 false = .fault 1 ∧
      (s.island 0).hold ≤ 0 ∧ (wCmd .running 0 (some 0)).atLine = true ∧ s.rateHeld 0 = false ∧
      0 < ((s.setIsland 0 { s.island 0 with hold := 1 }).island 0).hold := by decide +kernel

/-- CopyEngineEvents, a fill: one that waits on a fault identifier, and one whose page can be read. -/
theorem witness_copy_fill :
    let o : GOp := { wOp (.fill 3) 0x10000 with fid := some 5 }
    let k : CopyCmd := { wCmd .running 0 (some 0) with fill := some 7 }
    let s : State := { withMap (wEng k) with ops := [o] }
    k.fill = some o.id ∧ o.fid.isSome = true ∧ o ∈ s.ops ∧ s.fillFaulted o = true ∧ s.fillFaulted { o with fid := none } = false ∧
      s.fids.length < 4096 := by decide +kernel

/-- CopyEngineEvents, a fault with a route: the command waits on an identifier, whichever is free. -/
theorem witness_copy_park :
    let s := wEng (wCmd .running 0 (some 0))
    let routed := { s with host := { s.host with route := [(0, 1)] }, asids := [(0, { AsidEnt.none with v := true })] }
    ∃ t, routed.faultAt 1 (routed.taskAsid 0) 0x10000 false (routed.claimOf 0) 1 0 =
      (.wait (Config.choice routed.freeCtr % 4096), t) := ⟨_, rfl⟩

/-- HalyardEvents: the states of the clauses. -/
theorem witness_halyard_events :
    let h : Halyard := { Halyard.none with st := .run, cur := some 0 }
    let k : HSent := ⟨9, 0, 0, true, some 0⟩
    (w0.core 0).teams.find? (fun t => t.hal) = some t0 ∧ t0.spadSize < 0xFFFC0 + 128 ∧ (8 : Nat) % 64 ≠ 0 ∧
      (∀ i < 16, w0.allUsable ⟨0, false, t0.spadBase + 4 * i⟩ 4 = true ∧ w0.poisoned ⟨0, false, t0.spadBase + 4 * i⟩ = false) ∧
      h.taken = false ∧ h.failed = false ∧ h.rel = [] ∧ w0.errs = [] ∧ h.cr = 0 ∧ h.sent = [] ∧ h.bad = none ∧ h.cq.length < 8 ∧ k.status = some 0 ∧ k.post = true ∧
      ((w0.core 0).eng0.filter (fun k => k.x.isNone)).length < 4 ∧ hblockBad (BitVec.ofNat 512 (2 ^ 511)) = true ∧
      ∃ b, hblockBad b = false := by
  refine ⟨?_, ?_, ?_, ?_, ?_, ?_, ?_, ?_, ?_, ?_, ?_, ?_, ?_, ?_, ?_, ?_, BitVec.ofNat 512 (wBlock.toNat), ?_⟩ <;> decide +kernel

/-! Energy, power, links, the chassis, queues, the supervisors, the monitor. -/

/-- GovernorEvents: no table write waits, floors of 0 within a cap of 0, and limits of 2 by a temperature and by a breach below a
contract's OPMIN of 3 with a warning interval; a contract with a PMAX of 5 that an island's 6 exceeds; a rail that failed; a cap below
PEAKCAP. The table of EFFCAP's ceilings is a free value (log 12): the clause on it is an implication. -/
theorem witness_governor :
    let s := { w0 with tct := [(0, 3 * 2 ^ 24)] }
    let p := { w0 with tct := [(0, 5 + 3 * 2 ^ 24)] }
    let gi : GovInput := ⟨[⟨0, 6, Vector.replicate 4 1, 0⟩], [], [], [(0, 2)]⟩
    let floor := (SMap.get (0 : Word) s.tct probeTask.tcon.toNat).toNat / 2 ^ 24 % 2 ^ 3
    let cap (m : Mgmt) : Nat := max m.mincap.toNat (min m.modcap.toNat m.peakcap.toNat)
    let bad : Mgmt := { s.mgmt with railflt := 1, railNew := 1 }
    s.newTabs = [] ∧ ((List.range 196).map (fun i => (s.island i).gfloor)).foldl (· + ·) 0 ≤ 0 ∧ (s.core 0).teams = [t0] ∧
      s.task? t0.task = some probeTask ∧ 2 < floor ∧ s.mgmt.railflt = 0 ∧ s.mgmt.railNew = 0 ∧ s.mgmt.chen = false ∧
      (SMap.get (0 : Word) s.tct 0).toNat % 2 ^ 24 = 0 ∧ (SMap.get (0 : Word) p.tct 0).toNat % 2 ^ 24 = 5 ∧
      (gi.energy 0).au = 6 ∧ gi.breach = [(0, 2)] ∧ BitVec.ofNat 16 (cap s.mgmt) = s.mgmt.peakcap ∧
      BitVec.ofNat 16 (cap { s.mgmt with peakcap := 800, modcap := 500 }) ≠ 800 ∧
      bad.railflt.getLsbD (3 / 16) = true ∧ bad.railNew.getLsbD (3 / 16) = true ∧ (s.island 0).apend = false ∧
      s.mgmt.kann ≠ 0 ∧ (s.gint + 1).toNat + s.mgmt.kann.toNat < 2 ^ 64 ∧ (s.ctx 0).st ≠ .empty ∧ t0.ctxNos = [0] ∧
      probeTask.base = 0 ∧ (s.core 0).team? probeTask.id = some t0 := by decide +kernel

/-- PowerEvents: a hop to the operating point in force, a clock that is not stretched, feeds with both and with
one switch closed. -/
theorem witness_power :
    let u := { w0.core 0 with clk := { Clock.none with hop := some 0 } }
    u.clk.hop = some 0 ∧ (w0.island 0).op = 0 ∧ (w0.core 0).clk.stretch = false ∧
      w0.feeds.down = false ∧ w0.feeds.swB = true ∧ ({ w0.feeds with swB := false } : Feeds).swB = false ∧
      w0.feeds.okA = true ∧ w0.feeds.okB = true := by decide +kernel

/-- LinkAndModuleEvents: 63 and 64 flits in a queue, the chassis enabled with no member and with one, fabric requests at the top
of DRAM and past it, a core fenced now, limits met and exceeded, a WHEAD within the ring and beyond it. -/
theorem witness_modules :
    let q (n : Nat) : LinkQ := ⟨List.replicate n (some 0), 0, none, []⟩
    let m := { w0.mgmt with chen := true }
    ((q 63).rx.filterMap id).length < 64 ∧ 64 ≤ ((q 64).rx.filterMap id).length ∧ m.chen = true ∧ m.chmemb = 0 ∧
      ({ m with chmemb := 15 } : Mgmt).chmemb.getLsbD 3 = true ∧
      (∀ n : Nat, ∃ x y z : ArbMsg, x.round = n ∧ n < y.round ∧ (z.round < n ∨ n = 0)) ∧ (0x8FFFFFFFF8 : Nat) + 8 ≤ 0x9000000000 ∧
      (0x9000000000 : Nat) < 0x8FFFFFFFFC + 8 ∧ w0.physBad 0x10000 8 = false ∧
      ({ w0 with poison := [0x2000] } : State).physBad 0x10000 8 = true ∧ (1 : BitVec 128).getLsbD 0 = true ∧
      m.cfence.getLsbD 0 = false ∧ (w0.core 0).teams = [t0] ∧ probeTask.st = .running ∧ m.rhlim.toNat < 86 ∧
      ¬ m.rhlim.toNat < 85 ∧ (m.wtail - 0).toNat ≤ 2 ^ m.wlog.toNat ∧
      2 ^ m.wlog.toNat < (m.wtail - 1).toNat ∧ w0.host.rten = false ∧ m.wrec = 0 ∧ w0.peers = [] := by
  refine ⟨by decide, by decide, by decide, by decide, by decide, fun n => ⟨⟨n, 0, 0, 0, 0, 0, 0⟩, ⟨n + 1, 0, 0, 0, 0, 0, 0⟩, ⟨n - 1, 0, 0, 0, 0, 0, 0⟩, rfl, Nat.lt_succ_self n, ?_⟩, ?_⟩
  · show n - 1 < n ∨ n = 0
    omega
  · decide +kernel

/-- LinkAndModuleEvents, the errors: granules at the ends of a scratchpad and of DRAM, no core fenced, and a core with no corrected error
and with as many recent ones as CETHR. -/
theorem witness_errors :
    let s : State := { w0 with ceTimes := [(1, List.replicate 64 0)] }
    8 * 131071 + 8 ≤ 1048576 ∧ 8 * 0x11FFFFFFFF + 8 ≤ 0x9000000000 ∧ w0.mgmt.cfence = 0 ∧
      (SMap.get ([] : List Nat) s.ceTimes 0).length < s.mgmt.cethr ∧ s.mgmt.cethr ≤ (SMap.get ([] : List Nat) s.ceTimes 1).length ∧
      ∀ k ∈ SMap.get ([] : List Nat) s.ceTimes 1, s.now < k + 172800000000000 := by decide +kernel

/-- ChassisEvents: members heard and silent, a module already fenced, checkpoints running, none and one stored. -/
theorem witness_chassis :
    let m := { w0.mgmt with chen := true, chmemb := 15 }
    let r : CkRun := ⟨5, [], false, [], false, some 2, false⟩
    let r' : CkRun := { r with written := true }
    let c : Ckpt := ⟨5, [], [], [], [], [(13, [none])], [(13, 4)]⟩
    let s : State := { State.reset with mgmt := { m with ckcommit := 5, fmask := 4 }, ckpts := [c], ckRun := some r }
    let p : State := { State.reset with peers := [(0, { Peer.none with silent := 10000000 }),
      (1, { Peer.none with silent := 10000000 }), (2, { Peer.none with silent := 10000000 }),
      (3, { Peer.none with silent := 10000000 })] }
    s.fatal = false ∧ m.chmemb.getLsbD 1 = true ∧ m.fmask.getLsbD 1 = false ∧ s.mgmt.fmask.getLsbD 2 = true ∧
      s.mgmt.unfence.getLsbD 2 = false ∧ s.tasks = [] ∧ s.ckpts = [c] ∧ s.mgmt.ckcommit = c.n ∧ State.reset.ckpts = [] ∧
      (∀ k < 4, 10000000 ≤ (p.peer k).silent) ∧ (State.reset.peer 1).silent < 10000000 ∧ State.reset.ckRun = none ∧
      s.ckRun = some r ∧ ({ w0.mgmt with ckper := 1, ckropes := 1 } : Mgmt).ckropes.getLsbD 0 = true ∧
      m.retrain.getLsbD 2 = false ∧ ({ m with unfence := 4, retrain := 4 } : Mgmt).retrain.getLsbD 2 = true ∧
      w0.mgmt.chen = false ∧ c.flits = [(13, [none])] ∧ c.credits = [(13, 4)] ∧ probeTask.st = .running ∧
      w0.tasks = [probeTask] ∧ probeTask.rope.val = 0 ∧ s.ckGone = false ∧ r.n = 5 ∧ r.written = false ∧ r'.written = true ∧
      r'.buddy = some 2 ∧ m.chen = true ∧ s.mgmt.fmask.getLsbD 2 = true ∧ m.fmask.getLsbD 2 = false ∧ r'.stopped = [] := by
  decide +kernel

/-- ChassisEvents: a module whose peers are all fenced has no buddy, and one with a lower member is not the coordinator. -/
theorem witness_buddy (h : Config.modnum = 1) :
    let m := { w0.mgmt with chen := true, chmemb := 15 }
    ({ State.reset with mgmt := { m with fmask := 13 } } : State).buddy = none ∧
      ({ State.reset with mgmt := m } : State).coordinator ≠ Config.modnum.toNat := by
  simp only [State.buddy, State.coordinator, State.survivors, State.others, State.isFenced, Mgmt.peers, self, h]
  decide +kernel

/-- A fault that waits for its answer. -/
def wFault (claim : BitVec 8) : FaultRec :=
  { fid := 3, kind := 1, wr := false, fwd := false, final := false, asid := 0, claim := claim, src := 0, va := 0x10000, core := 0 }

/-- HostQueueEvents: records that wait with room and without, a queue that translates, pushes with room and at 16, an invalidation
of one ASID's range, faults of the host and of another, ATS and page requests with their entries. -/
theorem witness_host_queues :
    let s := { withMap w0 with fqwait := [wFault 1], fids := [wFault 1], host := { w0.host with fqen := true, route := [(1, 1)] } }
    let u : Sup := { Sup.none with fwait := [wFault 1], sftail := 256 }
    let q : AtsReq := { asid := 0, page := 16, w := false, claim := 1, core := 0 }
    let o : MDesc := ⟨some 0, .sup 0 0⟩
    let e : AsidEnt := { AsidEnt.none with v := true, pasid := 9, prien := true }
    s.fqwait = wFault 1 :: [] ∧ s.host.fqen = true ∧ s.owners = [] ∧ s.errs = [] ∧ s.mon.table = none ∧
      isPa (s.xlate 128 0 (s.host.fqbase.toNat * 4096 + 16 * (s.host.fqtail.toNat % 256)) true) 0 = true ∧
      (s.host.fqtail - s.host.fqhead).toNat ≠ 2 ^ (s.host.fqlog.toNat + 8) ∧ (u.sftail - u.sfhead).toNat = 256 ∧
      u.fwait = wFault 1 :: [] ∧ (Sup.none.sftail - Sup.none.sfhead).toNat ≠ 256 ∧
      (List.replicate 16 o).all (fun m => m.orig.pushed) = true ∧ w0.mq = [] ∧
      List.filter (fun p : Nat × AsidEnt => p.2.v && decide (p.2.pasid = 9)) [(0, e)] = [(0, e)] ∧ (1 : Nat) ≤ 2 ^ 36 ∧
      s.fids.find? (fun g => g.fid = 3) = some (wFault 1) ∧ (SMap.get (0 : BitVec 2) s.host.route 1).getLsbD 0 = true ∧
      (SMap.get (0 : BitVec 2) s.host.route 2).getLsbD 0 = false ∧
      ({ w0 with ats := [q] } : State).ats.find? (fun q => q.asid = 0 && q.page = 0x10000 / 4096) = some q ∧
      State.walk { s with dram := [(0, 1), (1, 0x20), (0x2000, 0x0D), (0x2008, 4)] } q.asid (q.page * 4096) =
        .ats (0x4000000000000000D) 2 ∧ q.w = false ∧ ({ q with w := true } : AtsReq).w = true ∧
      s.opWaits ⟨q.asid, q.page, q.w⟩ none (wOp (.amo .ld 8 0 0 true) 0x10000) = false ∧ s.hubWaits = [] ∧
      ({ w0 with prgs := [(5, q)] } : State).prgs.find? (fun p => p.1 = 5) = some (5, q) ∧ w0.prgs.length < 256 ∧
      SMap.get (0 : BitVec 2) s.host.route q.claim.toNat = 1 := by decide +kernel

/-- MaintenanceEvents: a good descriptor of each operation and bad ones, a flip with a leaf of each bias and with none, and side
bits without DIRTY words. -/
theorem witness_maintenance :
    let good (op : Nat) : BitVec 256 := BitVec.ofNat 256 (op + 0x10000 * 2 ^ 64 + 2 ^ 128)
    let s := { withMap State.reset with mq := [⟨some (good 1), .sup 0 64⟩] }
    let h := { s with dram := s.dram ++ [(0x2008, 4)] }
    s.owners = [] ∧ s.errs = [] ∧ s.mon.table = none ∧ s.mq = [⟨some (good 1), .sup 0 64⟩] ∧ (∀ k v, ∀ e ∈ (s.core k).sides v, e.2.dirty = false) ∧
      (good 1).toNat % 16 = 1 ∧ (good 1).extractLsb' 4 28 = 0 ∧ (good 1).extractLsb' 48 16 = 0 ∧
      (good 1).extractLsb' 164 28 = 0 ∧ (good 1).extractLsb' 200 56 = 0 ∧ (good 1).toNat / 2 ^ 128 % 2 ^ 36 ≠ 0 ∧
      (good 4).toNat % 16 = 4 ∧ s.cores = [] ∧ s.flipPage (good 2) = some (0, 2 ^ 30, 0x2000, 0xB) ∧ (0xB : Nat).testBit 66 = false ∧
      (h.flipPage (good 3)).isSome = true ∧ s.flipPage (BitVec.ofNat 256 (2 + 0x40000000 * 2 ^ 64 + 2 ^ 128)) = none ∧
      isPa (s.look 128 0 (0x5000 + 24) true) 0x5018 = true ∧ (s.asid 0).hmgd = false ∧ s.ops = [] ∧ s.hostCached = [] ∧
      isPa (s.lookOld 0 0 0x10000 false) 0x10000 = true ∧ ¬(0 ≤ 64 * 0x1000000 ∧ 64 * 0x1000000 < 2 ^ 30) := by
  refine ⟨rfl, rfl, rfl, rfl, fun k v e h => ?_, ?_⟩
  · cases v <;> exact nomatch (show e ∈ [] from h)
  · decide +kernel

/-- SupervisorCommands: words of each code for the contexts of core 0 and one for another group; contexts and tasks in the states
of the clauses; a team that can be saved, stopped or frozen; a fault of the supervisor's. -/
theorem witness_supervisor :
    let word (code arg page : Nat) : Word := BitVec.ofNat 64 (code + arg * 2 ^ 16 + page * 2 ^ 32)
    let other : Word := BitVec.ofNat 64 (1 + 8 * 2 ^ 4)
    let team : Team := { t0 with hal := false, mtx := false }
    let stopped := (w0.setCtx 0 { Ctx.none with st := .stopped }).setCore 0 { Core.none with teams := [team] }
    let trapped := stopped.setCtx 0 { Ctx.none with st := .trapped }
    let task := { probeTask with st := .stopping }
    let s := { stopped with tasks := [task] }
    s.owners = [] ∧ s.errs = [] ∧ ({ probeTask with st := .loading, supStop := true } : Task).st = .loading ∧
      (w0.sup 0).spoll = false ∧ (w0.sup 0).sbusy = false ∧ (w0.sup 0).scq = [] ∧ other.toNat / 2 ^ 4 % 2 ^ 7 / 8 ≠ 0 ∧
      (word 2 0x40D 0).toNat % 2 ^ 4 = 2 ∧ (word 2 0x40D 0).toNat / 2 ^ 4 % 2 ^ 7 / 8 = 0 ∧
      (word 2 0x40D 0).toNat / 2 ^ 16 % 2 ^ 16 = 0x40D ∧ (word 5 0 0x100).toNat / 2 ^ 32 = 0x100 ∧
      (trapped.ctx 0).st = .trapped ∧ (trapped.ctx 0).ending = false ∧ (stopped.ctx 0).st ≠ .trapped ∧
      (s.ctx 0).st ≠ .empty ∧ s.task? (s.ctx 0).task = some task ∧ SMap.wf Ctx.none s.ctxs = true ∧
      (∀ e ∈ s.ctxs, e.1 < 2048) ∧ s.preempt = [] ∧ task.base = 0 ∧ task.ncores = 1 ∧ task.credit = [] ∧
      (s.core 0).team? task.id = some team ∧ team.core = 0 ∧ team.bights = [] ∧ s.ops = [] ∧ s.liveCmds 0 task.id = [] ∧
      team.ctxNos = [0] ∧ (s.ctx 0).flight = [] ∧ (s.ctx 0).stq = [] ∧ (s.ctx 0).atStop = true ∧
      (s.part (ctxPartNo 0)).frozen = false ∧ 0x100 * 4096 + (0xC6000 + team.spadSize + team.vaultSize + 80 * (s.engineImage team).length) ≤
        0x9000000000 ∧ (s.ropeOf 0).badNext = none ∧ (s.ropeOf 0).fetched = [] ∧ s.granted 1 = none := by decide +kernel

/-- SaveAreaBytes: a stopped task of one team with one context, saved to page 256 by DSAVE. -/
theorem witness_save_area :
    let w : Word := BitVec.ofNat 64 (5 + 0x100 * 2 ^ 32)
    let team : Team := { t0 with hal := false, mtx := false }
    let stopped := (w0.setCtx 0 { Ctx.none with st := .stopped }).setCore 0 { Core.none with teams := [team] }
    let task := { probeTask with st := .stopping }
    let s := { stopped with tasks := [task] }
    (s.sup 0).spoll = false ∧ (s.sup 0).sbusy = false ∧ (s.sup 0).scq = [] ∧ w.toNat / 2 ^ 4 % 2 ^ 7 / 8 = 0 ∧ w.toNat % 2 ^ 4 = 5 ∧
      (s.ctx (ctxOf (w.toNat / 2 ^ 11 % 2 ^ 4))).st ≠ .empty ∧ s.task? (s.ctx 0).task = some task ∧ task.base = 0 ∧
      task.ncores = 1 ∧ task.sw = none ∧ task.credit = [] ∧ task.doneParts = [] ∧ (s.core 0).team? task.id = some team ∧
      team.core = 0 ∧ team.bights = [] ∧ s.owners = [] ∧ s.errs = [] ∧ s.mon.table = none ∧ s.ops = [] ∧ s.liveCmds 0 task.id = [] ∧ s.engineImage team = [] ∧
      team.ctxNos = [0] ∧ (s.ctx 0).flight = [] ∧ (s.ctx 0).held = [] ∧ (s.ctx 0).heldU = [] ∧ (s.ctx 0).stq = [] ∧
      (s.ctx 0).atStop = true ∧ (s.part (ctxPartNo 0)).frozen = false ∧ Memory.wf (s.core 0).spad = true ∧
      Memory.wf (s.core 0).vault = true ∧
      4096 * (w.toNat / 2 ^ 32) + (0xC6000 + team.spadSize + team.vaultSize) ≤ 0x9000000000 := by decide +kernel

/-- SupervisorCommands, RESTORE and FANS: a core granted to a saved task, whose area is sound or holds a poisoned granule, and a fault
routed to the supervisor and the host. -/
theorem witness_restore_fans :
    let task := { probeTask with st := .loading, was := .saved }
    let s := { w0 with tasks := [task] }
    let v : SavedTeam := ⟨0x100, false, 0, 0, 0, 0, t0, [], [0], [3], [], [], [], [], none, none, [], []⟩
    let back : State := { s with saves := [v], mon := { s.mon with boot := .up, saveAreas := [0x100] } }
    let f := { wFault 1 with fid := 7 }
    let r := { w0 with fids := [f], host := { w0.host with route := [(1, 3)] } }
    (back.granted 0).isSome = true ∧ v ∈ back.saves ∧ v.task = task.id ∧ v.pos = t0.pos ∧ v.page ∈ back.mon.saveAreas ∧ back.errs = [] ∧
      back.poison = [] ∧ back.mon.supsHeld = false ∧ 4096 * v.page < 8 * 0x20000 + 8 ∧ 8 * 0x20000 < 4096 * v.page + 0xC6000 ∧
      (s.granted 0).isSome = true ∧ s.mon.saveAreas = [] ∧ (s.core 0).team? 0 = some t0 ∧ t0.armed = true ∧
      r.fids.find? (fun g => g.fid = 7) = some f ∧ (SMap.get (0 : BitVec 2) r.host.route f.claim.toNat).getLsbD 1 = true ∧
      (SMap.get (0 : BitVec 2) r.host.route f.claim.toNat).getLsbD 0 = true ∧ f.fwd = false ∧ f.core / 8 = 0 := by decide +kernel

/-- MonitorEvents: a module that is up, off and halted, with its feeds and without; a table; a request that comes after another; a page
outside DRAM and one that a flip under way holds; requests without reserved bits; ASIDs bound and free; floors within and
beyond MINCAP; targets 2 and 3; bytes that can be read. -/
theorem witness_monitor :
    let up : State := { withMap State.reset with mon := { Monitor.none with boot := .up } }
    let b : BitVec 512 := BitVec.ofNat 512 (1 + 5 * 2 ^ 16 + 0x8000 * 2 ^ 64)
    let queued : State := { up with mon := { up.mon with queue := [.req none b] } }
    let away : State := { up with dram := [(0, 1), (1, 0x20), (0x2000, 0x0B), (0x2006, 8), (0x2008, 4)] }
    let flip : State := { up with mq := [⟨some (BitVec.ofNat 256 (1 + 0x10000 * 2 ^ 64 + 2 ^ 128)), .sup 0 64⟩] }
    up.feeds.powered = true ∧ ({ up.feeds with okA := false, okB := false } : Feeds).powered = false ∧ up.mon.poll = false ∧
      up.errs = [] ∧ up.hubWaits = [] ∧ queued.mon.queue ≠ [] ∧ ({ up.mon with table := some 0x8000 } : Monitor).table = some 0x8000 ∧
      (match away.xlate 128 0 0x10000 false with
        | .ok p _ => decide (0x9000000000 < p + 64)
        | _ => false) = true ∧ (∀ h < 64, up.sliceJustServed h = false) ∧ 0x10000 % 64 + 64 ≤ 64 ∧
      (match flip.xlate 128 0 0x10000 false with
        | .hold => true
        | _ => false) = true ∧
      up.mon.boot = .up ∧ up.mon.queue = [] ∧ up.mq = [] ∧ State.reset.mon.boot = .off ∧ b.extractLsb' 8 8 = 0 ∧
      b.extractLsb' 32 32 = 0 ∧ b.extractLsb' 256 256 = 0 ∧ b.toNat / 2 ^ 64 % 2 ^ 64 % 8192 = 0 ∧
      b.toNat / 2 ^ 64 % 2 ^ 64 + 8192 ≤ 0x9000000000 ∧ b.toNat / 2 ^ 128 % 2 ^ 64 < 2 ^ 32 ∧ (up.asid (b.extractLsb' 16 16)).v = false ∧
      (up.asid 0).v = true ∧ up.ropes = [] ∧ up.tasks = [] ∧ probeTask.st ≠ .retired ∧
      ((List.range 196).map (fun i => if i = 0 then 0 else (up.island i).gfloor)).foldl (· + ·) 0 ≤ up.mgmt.mincap.toNat * 2 ^ 30 / 100000 ∧
      up.mgmt.mincap.toNat * 2 ^ 30 / 100000 < ((List.range 196).map (fun i => if i = 0 then 1 else (up.island i).gfloor)).foldl (· + ·) 0 ∧
      isPa (up.xlate 128 0 0x10000 false) 0x10000 = true ∧ up.owners = [] ∧ (∀ k : Fin 3, up.mon.flash[k] = Flash.none) ∧
      (⟨none, .monitor none false⟩ : MDesc) ∈ ({ up with mq := [⟨none, .monitor none false⟩] } : State).mq := by decide +kernel

/-- GlobalWritePerforms: an installation with the monitor free, in its turn, with a request of the host before it, and one that is in the
queue already. -/
theorem witness_installations :
    let s := wHome (.rm 3) 0
    let after (q : MonReq) : State := { s with mon := { s.mon with queue := [q] } }
    s.op? 7 = some (wOp (.rm 3) 0) ∧ s.mon.poll = false ∧ s.monBusy = false ∧ (after (.req none 0)).monBusy = true ∧
      MonReq.inst 7 ∉ (after (.req none 0)).mon.queue ∧ MonReq.inst 7 ∈ (after (.inst 7)).mon.queue := by decide +kernel

/-- GuardedOffDoesNothing: an operation with a guard that is off. -/
theorem witness_guarded_off : guardOf (.add 5 1 2 3) ≠ 0 ∧ laneWise (.add 5 1 2 3) = false ∧
    w0.me.guard0 (guardOf (.add 5 1 2 3)) = false := by decide +kernel

/-- LaterLandingRemains: two results for one register, at cycles before, between, at and after their landings. -/
theorem witness_landings :
    let f : Flight := { wFlight with due := 5, value := some 1 }
    let g : Flight := { wFlight with due := 9, value := some 2 }
    f.lock = false ∧ g.lock = false ∧ f.back = 0 ∧ g.back = 0 ∧ ({ f with back := 3 } : Flight).back ≠ 0 ∧ f.dst = g.dst ∧ 4 < f.due ∧ f.due ≤ 5 ∧ 8 < g.due ∧ g.due ≤ 9 := by decide +kernel

/-- TrapEntry: a queue with room and a full one. -/
theorem witness_trap_entry : (w0.sup 0).twait = [] ∧ ((w0.sup 0).tqtail - (w0.sup 0).tqhead).toNat < 256 ∧
    256 ≤ (({ w0.sup 0 with tqtail := 256 } : Sup).tqtail - (w0.sup 0).tqhead).toNat := by decide +kernel

/-- A team that runs a bundle with add s3, s1, s2 alone. -/
def wStep : State := State.reset.probe (bundleOf 0x02018210)

/-- StepRunsDecodedInstruction, an outside event: one that a module which is up takes, and one that a module without power does not. -/
theorem witness_step_event :
    let up : State := { State.reset with mon := { State.reset.mon with boot := .up } }
    up.hears .errlogRead = true ∧
      State.hears { up with feeds := { up.feeds with down := true } } .errlogRead = false := by decide +kernel

/-- StepRunsDecodedInstruction, a bundle: partition 0 awake, its context RUNNING with nothing that stops the bundle. -/
theorem witness_step_bundle :
    let s0 : State := { wStep with todo := [] }
    let s1 := s0.arrive 0
    let post := s1.prepare 0 none
    let u := (post.modCtx 0 (fun c => c)).tentative 0
    let c := u.ctx 0
    wStep.inputs = [] ∧ wStep.todo = [.part 0] ∧ s0.asleep 0 = false ∧ s0.keptFrozen 0 = false ∧ s1.frozenAt 0 = false ∧
      (partCtxs 0).find? (fun y => (post.ctx y).st = .running) = some 0 ∧ (post.ctx 0).swt = none ∧
      (post.ctx 0).deferred = [] ∧ (post.ctx 0).atLimit = false ∧ (post.ctx 0).throttle = false ∧
      (match u.fetchBundle 0 with
        | .ok b =>
          let l := u.leafOf 0 b
          let ops := bundleRuns b l.1 l.2.isSome
          decide (ops = [(0, .add 0 3 1 2)]) && !destClash c ops && !inhBad c ops && !u.bundleStalls 0 b ops &&
            (c.reads b ops).all (fun p => !c.interlocked (u.cycleOf 0) p.reg && decide (p.reg ∉ c.rpar))
        | .error _ => false) = true ∧
      c.dbg = false ∧ c.flight = [] := by decide +kernel

/-- What the bundle that partition 0's context would run finds: none where fetching it traps, else whether two of its operations clash,
return outside a handler, read a pending register in debug mode, stall, wait for a late load, read a register with a parity error, and
whether an operation of it faults. -/
noncomputable def stops (s : State) : Option (List Bool) :=
  let s1 := State.arrive { s with todo := [] } 0
  let u := ((s1.prepare 0 none).modCtx 0 (fun c => c)).tentative 0
  let c := u.ctx 0
  match u.fetchBundle 0 with
  | .error _ => none
  | .ok b =>
    let l := u.leafOf 0 b
    let ops := bundleRuns b l.1 l.2.isSome
    let reads := c.reads b ops
    some [destClash c ops, inhBad c ops, c.dbg && reads.any (c.pendingAt (u.cycleOf 0)), u.bundleStalls 0 b ops,
      reads.any (fun p => c.interlocked (u.cycleOf 0) p.reg) || c.flight.any (fun f => f.late (u.cycleOf 0)),
      reads.any (fun p => c.rpar.contains p.reg), (u.firstTrap 0 (u.cycleOf 0) b ops).isSome]

/-- StepRunsDecodedInstruction, the stops of a bundle, one at a time, and a bundle of two operations with none: an illegal encoding, two
vadd to v1, rtu outside a handler, s1 pending in debug mode, a load without an entry, a late result, a parity error in s1, a load at an
odd address. -/
theorem witness_step_stops :
    let run (b : BitVec 256) (f : Ctx → Ctx) : State := (State.reset.probe b).modCtx 0 f
    let two (w : Nat) : BitVec 256 := BitVec.ofNat 256 (0x40008412 * 2 ^ 64 + w * 2 ^ 96)
    let add := bundleOf 0x02018210
    stops (run 0x80000000 id) = none ∧
      stops (run (two 0x40008412) id) = some [true, false, false, false, false, false, false] ∧
      stops (run (two 0x40010412) id) = some [false, false, false, false, false, false, false] ∧
      stops (run (bundleOf 0xCE000002) id) = some [false, true, false, false, false, false, true] ∧
      stops (run add (fun c => { c with dbg := true, flight := [{ wFlight with dst := .s 1 }] })) =
        some [false, false, true, false, false, false, false] ∧
      stops (run (bundleOf 0xA0028203) (fun c => { c with flight := List.replicate 64 wFlight })) =
        some [false, false, false, true, false, false, false] ∧
      stops (run add (fun c => { c with flight := [{ wFlight with due := 0 }] })) = some [false, false, false, false, true, false, false] ∧
      stops (run add (fun c => { c with rpar := [.s 1] })) = some [false, false, false, false, false, true, false] ∧
      stops (run (bundleOf 0xA0028203) (fun c => { c with s := c.s.set 1 3 })) =
        some [false, false, false, false, false, false, true] := by decide +kernel

/-- StepRunsDecodedInstruction, the choice of a context: one RUNNING; none RUNNING and the second READY; the running one leaves, with
another READY and with none. -/
theorem witness_select :
    let s := State.reset.setCtx 1 { Ctx.none with st := .ready }
    let r := w0.setCtx 1 { Ctx.none with st := .ready }
    (w0.ctx 0).st = .running ∧ (∀ k : Fin 4, (s.ctx ⟨k.val, by omega⟩).st ≠ .running) ∧ (s.part 0).last = 3 ∧
      (s.ctx 0).st ≠ .ready ∧ (s.ctx 1).st = .ready ∧ (r.ctx 1).st = .ready ∧ (∀ k : Fin 4, (w0.ctx ⟨k.val, by omega⟩).st ≠ .ready) := by
  decide +kernel

/-- StepKeepsCanonicalForm: the reset state is in canonical form, and a step from it answers a next state. -/
theorem witness_canonical : Claims.Canonical State.reset ∧ ∃ t, step State.reset = .next t := ⟨Claims.canonical_reset, _, rfl⟩

/-- EncodeDecodeRoundTrip: a slot operation, a routine operation and an event by their places in Instr. -/
theorem witness_places : (Instr.add 0 0 0 0).ctorIdx < Instr.routineEnd.ctorIdx ∧
    Instr.routineEnd.ctorIdx ≤ (Instr.zero 0 0 0).ctorIdx ∧ (Instr.zero 0 0 0).ctorIdx < (Instr.resultLanding 0).ctorIdx ∧
    (Instr.resultLanding 0).ctorIdx ≤ Instr.leaseTick.ctorIdx := by decide

/-- StepRunsDecodedInstruction, a routine word: a running call at a COPY word that decodes, with a step left. -/
theorem witness_step_routine :
    let s := { wMtx [] (some wRun) with todo := [.mtx 0] }
    let s1 := State.loads { s with todo := [] } 0
    s1.runOf 0 = some wRun ∧ wRun.wait = 0 ∧ (s1.stepsSpent 0).isNone = true ∧
      decodeRoutine (SMap.get 0 (s1.mtx 0).rs wRun.w) = some (.routineCopy 0 0 0 0 0) := by decide +kernel

/-- EncodeDecodeRoundTrip: well-formed instructions with a slot word and with a routine word. -/
theorem witness_encodings : (Instr.add 3 5 6 7).wf = true ∧ encode (.add 3 5 6 7) = some (.slot 0x02628C38) ∧
    (Instr.pass 1 2 3 1 4).wf = true ∧ encode (.pass 1 2 3 1 4) = some (.routine 0x3221E00000000000) := by decide +kernel

/-! ## One step each: results worked out by hand from the rules -/

/-- One step of the probe context, whose bundle holds only the slot word w, from the context f gives. -/
noncomputable def stepWord (w : BitVec 32) (f : Ctx → Ctx) : State :=
  match step ((State.reset.probe (bundleOf w)).modCtx 0 f) with
  | .next t => t
  | _ => State.reset

/-- Registers s1, s2 and s4. -/
def regs (a b d : Word) (k : Ctx) : Ctx := { k with s := ((k.s.set 1 a).set 2 b).set 4 d }

/-- The results in flight: destination, low 64 bits and landing cycle. -/
def inFlight (s : State) : List (Dest × Option Word × Nat) :=
  (s.ctx 0).flight.map (fun f => (f.dst, f.value.map (fun v => v.setWidth 64), f.due))

/-- The class and cause of the first record of supervisor 0's trap queue, its FADDR, and how many there are (R370). -/
def firstTrap (s : State) : Nat × Nat × Nat × Nat :=
  let n := Memory.rdN (s.sup 0).sram (s.sup 0).tqbase.toNat 32
  (n % 2 ^ 8, n / 2 ^ 8 % 2 ^ 8, n / 2 ^ 64 % 2 ^ 64, (s.sup 0).tqtail.toNat)

/-- R178: add wraps modulo 2^64; of -1 and -1 the signed high half is 0 and the unsigned one 2^64 - 2. R179: srai keeps the
sign. R180: -7 / 2 truncates to -3 with remainder -1; a zero divisor gives -1 and the dividend; -2^63 / -1 wraps. R181: clz of
1, rev8, and the extension of 0x80. R182: movi of -1. R184: -1 is below 1 signed and above it unsigned. -/
theorem test_scalar_steps : List.all ([
    (0x02028210, (regs (-1) 2 0), .s 5, 1, 1),
    (0x04028213, (regs (-1) (-1) 0), .s 5, 0, 3),
    (0x04028214, (regs (-1) (-1) 0), .s 5, (-2), 3),
    (0x0E028302, (regs (-16) 0 0), .s 5, (-4), 1),
    (0x38028210, (regs (-7) 2 0), .s 5, (-3), 24),
    (0x38028212, (regs (-7) 2 0), .s 5, (-1), 24),
    (0x38028210, (regs 5 0 0), .s 5, (-1), 24),
    (0x38028212, (regs 5 0 0), .s 5, 5, 24),
    (0x38028210, (regs 0x8000000000000000 (-1) 0), .s 5, 0x8000000000000000, 24),
    (0x32028200, (regs 1 0 0), .s 5, 63, 1),
    (0x32028203, (regs 0x0102030405060708 0 0), .s 5, 0x0807060504030201, 1),
    (0x34028200, (regs 0x80 0 0), .s 5, (-128), 1),
    (0x3602FFFF, id, .s 5, (-1), 1),
    (0x1402410A, (regs (-1) 1 0), .p 9, 0xFFFFFFFF, 1),
    (0x16024108, (regs (-1) 1 0), .p 9, 0, 1)] : List (BitVec 32 × (Ctx → Ctx) × Dest × Word × Nat))
    (fun p => decide (inFlight (stepWord p.1 p.2.1) = [(p.2.2.1, some p.2.2.2.1, p.2.2.2.2)])) = true := by decide +kernel

/-- R189, R191: a frame of 32 that just fits posts s4 and the link; one that does not takes SPILL CALL with the new s4, -16.
R193: lp0 with a counter of 0 lands 0 and falls through. R292: trap 0xABC is taken in the next cycle. R294: bkpt takes DBG cause
1. R97, R370: ldd at address 4 takes MEM ALIGN with that address. -/
theorem test_control_steps : inFlight (stepWord 0x26000085 (regs 0 0 32)) = [(.s 4, some 0, 1), (.s 5, some 2, 1)] ∧
    firstTrap (stepWord 0x26000085 (regs 0 0 16)) = (3, 1, 2 ^ 64 - 16, 1) ∧
    ((stepWord 0x26000085 (regs 0 0 16)).ctx 0).st = .trapped ∧
    inFlight (stepWord 0x26004000 id) = [(.lc0, some 0, 1)] ∧ ((stepWord 0x26004000 id).ctx 0).pc = 1 ∧
    ((stepWord 0xCE0055E1 id).ctx 0).swt = some 0xABC ∧ firstTrap (stepWord 0xCE000003 id) = (12, 1, 0, 1) ∧
    firstTrap (stepWord 0xA0028203 (regs 4 0 0)) = (2, 3, 4, 1) := by decide +kernel

/-- R98, R250: the queued std of a doubleword at 16 leaves its eight bytes little-endian, and none beside them; std of s2 at
s1 - 8 = 17 takes MEM ALIGN there. R202: vadd on 32-bit elements carries nothing from one lane to the next. -/
theorem test_store_and_vector_steps :
    let m := ((w0.pollStores 0 [newStore 7 8 [(⟨0, false, 16⟩, 0x0102030405060708)] [] 0 0]).2.core 0).spad
    let t := stepWord 0x40028212 (fun k => { k with v := (k.v.set 1 0xFFFFFFFF).set 2 1 })
    Memory.rd m 15 = 0 ∧ Memory.rd m 16 = 8 ∧ Memory.rd m 23 = 1 ∧ Memory.rd m 24 = 0 ∧
      firstTrap (stepWord 0xA40103FB (regs 25 0 0)) = (2, 3, 17, 1) ∧ (t.ctx 0).flight.map (fun f => (f.value, f.due)) = [(some 0, 2)] := by decide +kernel

/-- The running call after one routine word. -/
noncomputable def stepRoutine (w : Nat) : Option MRun :=
  match step (State.reset.placeWord 64 w) with
  | .next t => t.runOf 0
  | _ => none

/-- R235: setp m1, -1 extends bit 56; skipz of a zero register goes on 1 + FWD words. -/
theorem test_routine_words : (stepRoutine 0x53FFFFFFFFFFFFFF).map (fun r => (r.m[1], r.w)) = some (-1, 1) ∧
    (stepRoutine 0x9000000000000005).map (fun r => r.w) = some 6 := by decide +kernel

/-- R116: a tick raises every core's clock by 1. -/
theorem test_lease_tick : (match exec .leaseTick State.reset with
    | .next t => decide ((t.core 0).pts = 1 ∧ (t.core 127).pts = 1)
    | _ => false) = true := by decide +kernel

/-- R367, R408, R409, R411: an uncorrectable bundle of the instruction store is marked in the team whose text holds it, counted, and the
core is fenced; a corrected error of DRAM is counted alone. -/
theorem test_store_errors : (match exec .scrubPass
    { State.reset.placeWord 32 0 with errs := [⟨.istore 0 0, true⟩, ⟨.dram 3, false⟩] } with
    | .next t => decide ((t.core 0).teams.map (·.ipar) = [[0]] ∧ t.mgmt.cfence = 1 ∧ t.mgmt.uecnt = 1 ∧ t.mgmt.cecnt = 1 ∧
        t.mgmt.lstore = 5 ∧ t.mgmt.laddr = 24 ∧ t.poison = [])
    | _ => false) = true := by decide +kernel

end Sys2Proof.Tests
end

section
/-! SUPPORT. Canonical form is kept, part 1: the form of what a step answers, and the functions of memory, energy, the slots and the
matrix engine. For each function of the model that answers a state, `Canonical.f` says that it keeps the form; a function that
answers a result with a state in it has its `…Kept`, and one that answers an outcome its `NextCanonical`. A change of fields that the
form does not speak of is `Canonical.frame`. -/

namespace Sys2Proof.Claims

open Sys2Proof Sys2Proof.Machine

-- One proof after another: hundreds at once would each hold a thread's stack.
set_option Elab.async false

variable {s : State}

/-! ## The form of what a step answers -/

/-- The two stores of a core are in canonical form. -/
def StoresWf (k : Core) : Prop := Memory.wf k.spad = true ∧ Memory.wf k.vault = true

/-- The SRAM of a supervisor is in canonical form. -/
def SramWf (u : Sup) : Prop := Memory.wf u.sram = true

/-- An outcome that goes on goes on in canonical form. -/
structure NextCanonical (o : Out) : Prop where
  of_next : ∀ {t}, o = .next t → Canonical t

theorem NextCanonical.next (h : Canonical s) : NextCanonical (.next s) := ⟨fun e => by cases e; exact h⟩

theorem NextCanonical.fault {r} : NextCanonical (.fault r) := ⟨nofun⟩

/-- The memories and the maps that the canonical form speaks of. -/
def formed (s : State) :=
  (s.dram, s.hostMem, s.cores, s.sups, s.ctxs, s.parts, s.ropes, s.islands, s.links, s.peers, s.asids, s.routines, s.evt,
    s.swc, s.lastRope, s.retlog, s.ecls, s.tct, s.dcost, s.modSeq, s.served, s.ceTimes)

/-- A state with the same memories and maps is in canonical form too. -/
theorem Canonical.of_formed {t : State} (h : Canonical s) (e : formed t = formed s := by rfl) : Canonical t := by
  simp only [formed, Prod.mk.injEq] at e
  obtain ⟨hdram, hhost, hcores, hsups, hctxs, hparts, hropes, hislands, hlinks, hpeers, hasids, hroutines, hevt, hswc, hlast,
    hretlog, hecls, htct, hdcost, hmodSeq, hserved, hceTimes⟩ := e
  have hcore : t.core = s.core := by funext c; simp only [State.core, hcores]
  have hsup : t.sup = s.sup := by funext k; simp only [State.sup, hsups]
  obtain ⟨⟩ := h
  constructor <;> simp only [*, implies_true]

/-- The state that a translation for an operation carries is in canonical form. -/
def OpXKept : OpX → Prop
  | .ok _ _ s | .wait s | .bad s => Canonical s

/-- The state that a hub unit's access carries is in canonical form. -/
def HubXKept : HubX → Prop
  | .ok _ _ s | .wait s | .bad s => Canonical s

/-- The state that a rope's read carries is in canonical form. -/
def RopeRdKept : RopeRd → Prop
  | .ok _ _ _ s | .wait s | .bad s => Canonical s

/-- The state that a supervisor's read carries is in canonical form. -/
def SupRdKept : SupRd → Prop
  | .ok _ s | .wait s | .bad s => Canonical s

/-- The state that a load carries is in canonical form. -/
def LoadKept : Load → Prop
  | .done s | .wait s | .bad s => Canonical s

/-- The state that a read of an image carries is in canonical form. -/
def ImgRdKept : ImgRd → Prop
  | .ok _ s | .wait s | .bad s => Canonical s

/-- The state that an engine's read waits in, if it waits, is in canonical form. -/
def EReadKept : ERead → Prop
  | .wait s => Canonical s
  | _ => True

/-- The state that a copy unit carries is in canonical form. -/
def UResKept : URes → Prop
  | .ok _ s | .wait _ s | .park _ s | .fail _ s => Canonical s

/-- The state that a supervisor command carries is in canonical form. -/
def CmdResKept : CmdRes → Prop
  | .done _ s | .odd s | .busy s => Canonical s

/-- The state that a monitor request carries is in canonical form. -/
def ReqResKept : ReqRes → Prop
  | .done _ _ s | .shoot _ s | .wait s => Canonical s

/-- The outcome of a bundle that ran is in canonical form. -/
def AttemptKept : Attempt → Prop
  | .done o => NextCanonical o
  | _ => True

/-! ## Choices, folds and pairs -/

section Shapes

variable {α β : Type} {c : Prop} [Decidable c] {t : State}

theorem Canonical.ite (hs : Canonical s) (ht : Canonical t) : Canonical (if c then s else t) :=
  iteInduction (fun _ => hs) (fun _ => ht)

theorem Canonical.when (h : Canonical s) (ht : Canonical s → Canonical t) : Canonical (if c then t else s) := .ite (ht h) h

theorem Canonical.unless (h : Canonical s) (ht : Canonical s → Canonical t) : Canonical (if c then s else t) :=
  .ite h (ht h)

theorem Canonical.ite_snd {a b : α × State} (ha : Canonical a.2) (hb : Canonical b.2) : Canonical (if c then a else b).2 :=
  iteInduction (motive := fun (r : _ × State) => Canonical r.2) (fun _ => ha) (fun _ => hb)

theorem NextCanonical.ite {a b : Out} (ha : NextCanonical a) (hb : NextCanonical b) : NextCanonical (if c then a else b) :=
  iteInduction (fun _ => ha) (fun _ => hb)

theorem StoresWf.ite {a b : Core} (ha : StoresWf a) (hb : StoresWf b) : StoresWf (if c then a else b) :=
  iteInduction (fun _ => ha) (fun _ => hb)

theorem SramWf.ite {a b : Sup} (ha : SramWf a) (hb : SramWf b) : SramWf (if c then a else b) :=
  iteInduction (fun _ => ha) (fun _ => hb)

theorem HubXKept.ite {a b : HubX} (ha : HubXKept a) (hb : HubXKept b) : HubXKept (if c then a else b) :=
  iteInduction (fun _ => ha) (fun _ => hb)

theorem RopeRdKept.ite {a b : RopeRd} (ha : RopeRdKept a) (hb : RopeRdKept b) : RopeRdKept (if c then a else b) :=
  iteInduction (fun _ => ha) (fun _ => hb)

theorem SupRdKept.ite {a b : SupRd} (ha : SupRdKept a) (hb : SupRdKept b) : SupRdKept (if c then a else b) :=
  iteInduction (fun _ => ha) (fun _ => hb)

theorem LoadKept.ite {a b : Load} (ha : LoadKept a) (hb : LoadKept b) : LoadKept (if c then a else b) :=
  iteInduction (fun _ => ha) (fun _ => hb)

theorem ImgRdKept.ite {a b : ImgRd} (ha : ImgRdKept a) (hb : ImgRdKept b) : ImgRdKept (if c then a else b) :=
  iteInduction (fun _ => ha) (fun _ => hb)

theorem EReadKept.ite {a b : ERead} (ha : EReadKept a) (hb : EReadKept b) : EReadKept (if c then a else b) :=
  iteInduction (fun _ => ha) (fun _ => hb)

theorem UResKept.ite {a b : URes} (ha : UResKept a) (hb : UResKept b) : UResKept (if c then a else b) :=
  iteInduction (fun _ => ha) (fun _ => hb)

theorem CmdResKept.ite {a b : CmdRes} (ha : CmdResKept a) (hb : CmdResKept b) : CmdResKept (if c then a else b) :=
  iteInduction (fun _ => ha) (fun _ => hb)

theorem ReqResKept.ite {a b : ReqRes} (ha : ReqResKept a) (hb : ReqResKept b) : ReqResKept (if c then a else b) :=
  iteInduction (fun _ => ha) (fun _ => hb)

theorem AttemptKept.ite {a b : Attempt} (ha : AttemptKept a) (hb : AttemptKept b) : AttemptKept (if c then a else b) :=
  iteInduction (fun _ => ha) (fun _ => hb)

theorem Canonical.foldl {f : State → α → State} {l : List α} (h : Canonical s)
    (hf : ∀ t a, Canonical t → Canonical (f t a)) : Canonical (l.foldl f s) :=
  l.foldlRecOn f h fun t ht a _ => hf t a ht

theorem Canonical.foldl_snd {f : β × State → α → β × State} {l : List α} {r : β × State} (h : Canonical r.2)
    (hf : ∀ (r : β × State) a, Canonical r.2 → Canonical (f r a).2) : Canonical (l.foldl f r).2 :=
  l.foldlRecOn (motive := fun (r : _ × State) => Canonical r.2) f h fun r hr a _ => hf r a hr

theorem StoresWf.foldl {f : Core → α → Core} {l : List α} {k : Core} (h : StoresWf k)
    (hf : ∀ k a, StoresWf k → StoresWf (f k a)) : StoresWf (l.foldl f k) :=
  l.foldlRecOn f h fun k hk a _ => hf k a hk

/-- The state of a pair that is known by its parts. -/
theorem Canonical.of_snd {r : α × State} {a : α} (h : Canonical r.2) (e : r = (a, t)) : Canonical t := by
  subst e
  exact h

end Shapes

/-! ## Cores and supervisors -/

theorem Canonical.core {c : Nat} (h : Canonical s) : StoresWf (s.core c) := ⟨h.spad c, h.vault c⟩

theorem Canonical.sup {k : Nat} (h : Canonical s) : SramWf (s.sup k) := h.sram k

theorem Canonical.putCore {c : Nat} {k : Core} (h : Canonical s) (hk : StoresWf k) : Canonical (s.setCore c k) :=
  h.setCore c k hk.1 hk.2

/-- A change of a core keeps the form where it keeps that of the two stores together. -/
theorem Canonical.onCore {c : Nat} {f : Core → Core} (h : Canonical s) (hf : ∀ k, StoresWf k → StoresWf (f k)) :
    Canonical (s.modCore c f) :=
  h.putCore (hf _ h.core)

theorem Canonical.modSup {k : Nat} {f : Sup → Sup} (h : Canonical s) (hf : ∀ u, SramWf u → SramWf (f u)) :
    Canonical (s.modSup k f) :=
  h.setSup k _ (hf _ h.sup)

/-- A change of the other fields keeps the form. -/
theorem Canonical.frame
    {poison lines dir owners pins dlt rmap tcache hostCached ops nextOp rev wpos scTaken tasks nextTask preempt saves gint
    newTabs host fids fqwait prgs ats hubWaits nextPrg mq mon mgmt wonus waits feeds ckRun ckpts ckGone evac errs fatal now
    todo inputs issue freeCtr outbox}
    (h : Canonical s) : Canonical { s with
      poison := poison, lines := lines, dir := dir, owners := owners, pins := pins, dlt := dlt, rmap := rmap, tcache := tcache,
      hostCached := hostCached, ops := ops, nextOp := nextOp, rev := rev, wpos := wpos, scTaken := scTaken, tasks := tasks,
      nextTask := nextTask, preempt := preempt, saves := saves, gint := gint, newTabs := newTabs, host := host, fids := fids,
      fqwait := fqwait, prgs := prgs, ats := ats, hubWaits := hubWaits, nextPrg := nextPrg, mq := mq, mon := mon, mgmt := mgmt,
      wonus := wonus, waits := waits, feeds := feeds, ckRun := ckRun, ckpts := ckpts, ckGone := ckGone, evac := evac, errs := errs,
      fatal := fatal, now := now, todo := todo, inputs := inputs, issue := issue, freeCtr := freeCtr, outbox := outbox } :=
  h.of_formed

/-- DRAM takes new bytes: canonical where they are. -/
theorem Canonical.withDram {m : Memory} (h : Canonical s) (hm : Memory.wf m = true) : Canonical { s with dram := m } :=
  { h with dram := hm }

/-- A change of a core that leaves its two stores. -/
theorem Canonical.tuneCore {c : Nat} {f : Core → Core} (h : Canonical s)
    (hf : ∀ k, (f k).spad = k.spad ∧ (f k).vault = k.vault := by exact fun _ => ⟨rfl, rfl⟩) : Canonical (s.modCore c f) :=
  h.onCore fun k hk => ⟨(congrArg Memory.wf (hf k).1).trans hk.1, (congrArg Memory.wf (hf k).2).trans hk.2⟩

/-- A change of a supervisor that leaves its SRAM. -/
theorem Canonical.tuneSup {k : Nat} {f : Sup → Sup} (h : Canonical s)
    (hf : ∀ u, (f u).sram = u.sram := by exact fun _ => rfl) : Canonical (s.modSup k f) :=
  h.modSup fun u hu => (congrArg Memory.wf (hf u)).trans hu

/-- A core with the same stores. -/
theorem StoresWf.frame {c k : Core} (h : StoresWf c)
    (e : k.spad = c.spad ∧ k.vault = c.vault := by exact ⟨rfl, rfl⟩) : StoresWf k :=
  ⟨(congrArg Memory.wf e.1).trans h.1, (congrArg Memory.wf e.2).trans h.2⟩

/-- A supervisor with the same SRAM. -/
theorem SramWf.frame {u v : Sup} (h : SramWf u) (e : v.sram = u.sram := by rfl) : SramWf v := (congrArg Memory.wf e).trans h

/-! ## Results, traps and guards -/

theorem Canonical.modCtx {x f} (h : Canonical s) : Canonical (s.modCtx x f) := h.setCtx _ _

theorem Canonical.modRope {r f} (h : Canonical s) : Canonical (s.modRope r f) := h.setRope _ _

theorem Canonical.modIsland {i f} (h : Canonical s) : Canonical (s.modIsland i f) := h.setIsland _ _

theorem Canonical.modTask {t f} (h : Canonical s) : Canonical (s.modTask t f) := h.frame

theorem StoresWf.modTeam {c : Core} {t f} (h : StoresWf c) : StoresWf (c.modTeam t f) := h.frame

theorem Canonical.choose {n} (h : Canonical s) : Canonical (s.choose n).2 := h.frame

theorem Canonical.send {m} (h : Canonical s) : Canonical (s.send m) := h.frame

theorem Canonical.after {l} (h : Canonical s) : Canonical (s.after l) := h.frame

theorem Canonical.land {dst lanes v flags lat} (h : Canonical s) : Canonical (s.land dst lanes v flags lat) := h.modCtx

theorem Canonical.landS {d w lat} (h : Canonical s) : Canonical (s.landS d w lat) := h.land

theorem Canonical.landP {d lanes w flags lat} (h : Canonical s) : Canonical (s.landP d lanes w flags lat) := h.land

theorem Canonical.landV {d lanes v flags lat} (h : Canonical s) : Canonical (s.landV d lanes v flags lat) := h.land

theorem SramWf.drainTraps {u : Sup} {n} (h : SramWf u) : SramWf (u.drainTraps n) := by
  induction n generalizing u with
  | zero => exact h
  | succ n ih =>
    unfold Sup.drainTraps
    split
    · exact h
    · exact .ite h (ih (Memory.wf_wrN _ _ _ _ h))

theorem SramWf.addTrap {u : Sup} {r} (h : SramWf u) : SramWf (u.addTrap r) := h.frame.drainTraps

theorem Canonical.takeTrap {x i orig} (h : Canonical s) : Canonical (s.takeTrap x i orig) := by
  unfold State.takeTrap
  exact (h.modSup fun _ u => u.addTrap).frame.modCtx

theorem Canonical.stallCtx {x} (h : Canonical s) : Canonical (s.stallCtx x) := h.modCtx

/-- An operation runs, stalls or traps, or its guard is off (R56). -/
theorem Canonical.gated {eff : State} {g p} (h : Canonical s) (h2 : Canonical eff) : Canonical (s.gated g p eff) := by
  dsimp only [State.gated]
  split
  · split
    · exact h2
    · exact h.stallCtx
    · exact h.takeTrap
  · exact h

/-! ## Results of the slots' operations -/

theorem Canonical.opS {g d w lat} (h : Canonical s) : Canonical (s.opS g d w lat) := h.gated h.landS

theorem Canonical.opP {g d w} (h : Canonical s) : Canonical (s.opP g d w) := h.gated h.landP

theorem Canonical.opD {g d w} (h : Canonical s) : Canonical (s.opD g d w) := h.gated h.land

theorem Canonical.opV {g d v flags lat} (h : Canonical s) : Canonical (s.opV g d v flags lat) := h.landV

theorem Canonical.opVP {g p f} (h : Canonical s) : Canonical (s.opVP g p f) := h.landP

theorem Canonical.setLeaf {target} (h : Canonical s) : Canonical (s.setLeaf target) := h.frame

/-! ## Translation -/

theorem Canonical.cacheIn {core asid va} (h : Canonical s) : Canonical (s.cacheIn core asid va) := by
  dsimp only [State.cacheIn]
  split
  · split
    · exact h.frame
    · exact h.frame.frame
  · exact h.frame

theorem Canonical.routeFault {f} (h : Canonical s) : Canonical (s.routeFault f) := by
  unfold State.routeFault
  exact .ite h.tuneSup (.ite h.frame h)

theorem Canonical.faultAt {k asid va w claim src core} (h : Canonical s) :
    Canonical (s.faultAt k asid va w claim src core).2 := by
  dsimp only [State.faultAt]
  refine .ite_snd h.routeFault (.ite_snd h ?_)
  split
  · exact h
  · split
    · exact h
    · exact h.frame.routeFault

/-! ## Errors of the stores -/

theorem Canonical.evacuate {c} (h : Canonical s) : Canonical (s.evacuate c) :=
  h.foldl fun _ _ h => h.modTask.unless fun h => h.frame

theorem Canonical.fenceCore {c} (h : Canonical s) : Canonical (s.fenceCore c) := .ite h h.frame.evacuate

theorem Canonical.corrected {c} (h : Canonical s) : Canonical (s.corrected c) :=
  .when { h with ceTimes := SMap.wf_set _ _ _ _ h.ceTimes } fun h => h.fenceCore

theorem Canonical.memError {e store g} (h : Canonical s) : Canonical (s.memError e store g) := .ite h h.frame

theorem Canonical.storeError {e c vault g} (h : Canonical s) : Canonical (s.storeError e c vault g) :=
  .ite h (.ite (h.frame.onCore (fun _ k => .ite k.frame k.frame)) h.frame.corrected)

theorem Canonical.istoreError {e c n} (h : Canonical s) : Canonical (s.istoreError e c n) := by
  dsimp only [State.istoreError]
  split
  · exact h
  · split
    · refine .fenceCore ?_
      split
      · exact h.frame.onCore fun _ k => k.modTeam
      · exact h.frame
    · exact h.frame

theorem Canonical.regError {x code} (h : Canonical s) : Canonical (s.regError x code) := by
  dsimp only [State.regError]
  split
  · exact .ite h h.modCtx
  · exact h

theorem Canonical.storeErr {e} (h : Canonical s) : Canonical (s.storeErr e) := by
  dsimp only [State.storeErr]
  split
  · exact h.storeError
  · exact h.storeError
  · exact h.istoreError
  · exact h.memError
  · exact h.frame
  · exact h.memError
  · exact h.regError

theorem Canonical.findErrs {p} (h : Canonical s) : Canonical (s.findErrs p) := .ite (h.frame.foldl fun _ _ h => h.storeErr) h

theorem Canonical.findMem {pa n} (h : Canonical s) : Canonical (s.findMem pa n) := h.findErrs

theorem Canonical.findStore {core vault off n} (h : Canonical s) : Canonical (s.findStore core vault off n) := h.findErrs

theorem Canonical.findBundle {x} (h : Canonical s) : Canonical (s.findBundle x) := h.findErrs

/-! ## Accesses to memory -/

theorem StoresWf.store {c : Core} {vault} (h : StoresWf c) : Memory.wf (c.store vault) = true :=
  iteInduction (motive := fun m => Memory.wf m = true) (fun _ => h.2) (fun _ => h.1)

theorem StoresWf.setStore {c : Core} {vault m} (h : StoresWf c) (hm : Memory.wf m = true) : StoresWf (c.setStore vault m) :=
  .ite ⟨h.1, hm⟩ ⟨hm, h.2⟩

/-- A write of one of a core's stores keeps the form of both. -/
theorem StoresWf.wrStore {c : Core} {vault a v n} (h : StoresWf c) :
    StoresWf (c.setStore vault (Memory.wrN (c.store vault) a v n)) :=
  h.setStore (Memory.wf_wrN _ _ _ _ h.store)

theorem StoresWf.setSide {c : Core} {vault w b} (h : StoresWf c) : StoresWf (c.setSide vault w b) := .ite h.frame h.frame

theorem StoresWf.clearPoison {c : Core} {vault off n} (h : StoresWf c) : StoresWf (c.clearPoison vault off n) := by
  unfold Core.clearPoison
  exact .ite h.frame h.frame

theorem Canonical.wrLoc {l n v} (h : Canonical s) : Canonical (s.wrLoc l n v) :=
  h.onCore fun _ k => k.wrStore.clearPoison.foldl fun _ _ h => .ite h.setSide h

theorem Canonical.wrPlain {l n v} (h : Canonical s) : Canonical (s.wrPlain l n v) :=
  h.onCore fun _ k => k.wrStore.clearPoison

theorem Canonical.addOp {x core task kind va after acq scope orig} (h : Canonical s) :
    Canonical (s.addOp x core task kind va after acq scope orig).2 :=
  h.frame

theorem Canonical.startFill {x id core m orig} (h : Canonical s) : Canonical (s.startFill x id core m orig).2 := by
  dsimp only [State.startFill]
  split
  · exact h
  · exact h.addOp

theorem Canonical.fillSome {x id l ws orig} (h : Canonical s) : Canonical (s.fillSome x id l ws orig).2 := by
  dsimp only [State.fillSome]
  refine .foldl_snd h fun _ _ h => .ite_snd h ?_
  split
  · exact h
  · exact h.startFill

theorem Canonical.fillWords {x id l n orig} (h : Canonical s) : Canonical (s.fillWords x id l n orig).2 := h.fillSome

theorem Canonical.engFill {core l n} (h : Canonical s) : Canonical (s.engFill core l n).2 := by
  unfold State.engFill
  exact h.fillWords.frame

theorem Canonical.drain {x scope} (h : Canonical s) : Canonical (s.drain x scope) := by
  unfold State.drain
  exact h.modCtx

theorem Canonical.pollElem {x id n orig e} (h : Canonical s) : Canonical (s.pollElem x id n orig e).2 := by
  dsimp only [State.pollElem]
  split
  · exact h
  · exact .ite_snd h.findStore h.fillSome

theorem Canonical.pollElems {x id n orig l} (h : Canonical s) : Canonical (s.pollElems x id n orig l).2 := by
  induction l generalizing s with
  | nil => exact h
  | cons e r ih => exact ih h.pollElem

theorem Canonical.pollFlight {x f} (h : Canonical s) : Canonical (s.pollFlight x f).2 := by
  dsimp only [State.pollFlight]
  split
  · exact h
  · split
    · split
      · exact h
      · split
        · split
          · dsimp only
            exact h.pollElems.modCtx
          · exact h.pollElems
        · exact h.pollElems
    · exact .ite_snd h (.ite_snd h.wrPlain (.ite_snd h.wrLoc h.fillWords))
    · exact h

theorem Canonical.pollList {x l} (h : Canonical s) : Canonical (s.pollList x l).2 := by
  induction l generalizing s with
  | nil => exact h
  | cons f r ih => exact ih h.pollFlight

theorem Canonical.storeElem {p e} (h : Canonical s) : Canonical (s.storeElem p e) := by
  unfold State.storeElem
  exact h.wrLoc.foldl fun _ _ h => .ite (h.onCore (fun _ k => k.setSide)) (.ite (h.onCore (fun _ k => .ite k.setSide k)) h)

theorem Canonical.pollStores {x l} (h : Canonical s) : Canonical (s.pollStores x l).2 := by
  induction l generalizing s with
  | nil => exact h
  | cons p r ih =>
    unfold State.pollStores
    refine .ite_snd (ih h) (.ite_snd (ih (h.foldl fun _ _ h => h.storeElem).modCtx) (ih ?_))
    split
    · exact h.fillWords
    · exact h

theorem Canonical.queueStore {x n es after hold orig} (h : Canonical s) : Canonical (s.queueStore x n es after hold orig) :=
  h.frame.modCtx

theorem Canonical.pollCtx {x} (h : Canonical s) : Canonical (s.pollCtx x) := by
  unfold State.pollCtx
  exact .ite h h.pollList.modCtx.pollList.modCtx.pollList.modCtx.pollStores

/-! ## Debits -/

theorem Canonical.debit {i au} (h : Canonical s) : Canonical (s.debit i au) := h.modIsland

theorem Canonical.credit {i au} (h : Canonical s) : Canonical (s.credit i au) := h.modIsland

theorem Canonical.memDebit {i task} (h : Canonical s) : Canonical (s.memDebit i task) := by
  dsimp only [State.memDebit]
  split
  · exact h.modIsland.modTask
  · exact h.modIsland

/-! ## Vector operations -/

theorem Canonical.opVI {g d a b t f lat} (h : Canonical s) : Canonical (s.opVI g d a b t f lat) := by
  unfold State.opVI
  exact h.opV

theorem Canonical.opLanes {g d f lat} (h : Canonical s) : Canonical (s.opLanes g d f lat) := h.opV

/-! ## Vector floating-point operations -/

theorem Canonical.opElems {g d w n r lat} (h : Canonical s) : Canonical (s.opElems g d w n r lat) := h.opV

theorem Canonical.opF2 {g d a b t f} (h : Canonical s) : Canonical (s.opF2 g d a b t f) := by
  unfold State.opF2
  exact h.opElems

theorem Canonical.opFma {g d a b t sub} (h : Canonical s) : Canonical (s.opFma g d a b t sub) := by
  unfold State.opFma
  exact h.opElems

theorem Canonical.opFsel {g d a b t useB} (h : Canonical s) : Canonical (s.opFsel g d a b t useB) := by
  unfold State.opFsel
  exact h.opElems

theorem Canonical.opCvt {g d a df sf sat} (h : Canonical s) : Canonical (s.opCvt g d a df sf sat) := by
  unfold State.opCvt
  exact h.opElems

theorem Canonical.redOut {d w flags lat} (h : Canonical s) : Canonical (s.redOut d w flags lat) := h.landV

theorem NextCanonical.execVredFsum {g d a} (h : Canonical s) : NextCanonical (execVredFsum g d a s) := by
  unfold Machine.execVredFsum
  exact .next h.redOut

theorem NextCanonical.execVredAmax {g d a} (h : Canonical s) : NextCanonical (execVredAmax g d a s) := by
  unfold Machine.execVredAmax
  exact .next h.landV

theorem Canonical.opTrans {g d a m f} (h : Canonical s) : Canonical (s.opTrans g d a m f) := by
  unfold State.opTrans
  exact h.opElems

/-! ## Matrix engines -/

theorem Canonical.setMtx {c m} (h : Canonical s) : Canonical (s.setMtx c m) := h.tuneCore

theorem Canonical.modMtx {c f} (h : Canonical s) : Canonical (s.modMtx c f) := h.tuneCore

theorem Canonical.pushM {k} (h : Canonical s) : Canonical (s.pushM k) := h.modMtx

theorem Canonical.postVacc {g d tile row cb} (h : Canonical s) : Canonical (s.postVacc g d tile row cb) := h.frame.modCtx

theorem Canonical.bufGated {eff : State} {g} (h : Canonical s) (h2 : Canonical eff) : Canonical (s.bufGated g eff) := by
  dsimp only [State.bufGated]
  split
  · exact h
  · split
    · exact h.stallCtx
    · exact h2

/-! ## Routines of the matrix engine -/

theorem Canonical.modRun {c f} (h : Canonical s) : Canonical (s.modRun c f) := h.modMtx

theorem Canonical.mtxStart {c} (h : Canonical s) : Canonical (s.mtxStart c) := by
  dsimp only [State.mtxStart]
  split
  · exact h.setMtx
  · exact h

theorem Canonical.mFlags {x f} (h : Canonical s) : Canonical (s.mFlags x f) := h.modCtx

theorem Canonical.mRecord {c code word row} (h : Canonical s) : Canonical (s.mRecord c code word row) := by
  dsimp only [State.mRecord]
  split
  · exact h
  · exact h.modCtx

theorem Canonical.mFault {c code word row} (h : Canonical s) : Canonical (s.mFault c code word row) := h.mRecord.modRun

theorem Canonical.mPoison {c k code word} (h : Canonical s) : Canonical (s.mPoison c k code word) := h.mRecord.modRun

theorem Canonical.onCall {f} (h : Canonical s) (hf : ∀ a0 a1, Canonical (f a0 a1)) : Canonical (onCall s f) := by
  dsimp only [Machine.onCall]
  split
  · split
    · exact .ite h (hf _ _)
    · exact h
  · exact h

theorem NextCanonical.execLdb {bank fsel mb} (h : Canonical s) : NextCanonical (execLdb bank fsel mb s) := by
  dsimp only [Machine.execLdb]
  refine .next (h.onCall fun _ _ => ?_)
  split
  · exact h.modMtx.mFault
  · exact .ite h.modMtx.mFault (.ite h.modMtx.mFault h.modMtx.modMtx.modRun)

theorem Canonical.loadRow {c k r} (h : Canonical s) : Canonical (s.loadRow c k r) := by
  dsimp only [State.loadRow]
  split
  · split
    · exact h
    · split
      · split
        · exact h.findStore.modMtx.modRun.mPoison
        · exact h.findStore.engFill.modRun
      · exact .ite h.findStore.modMtx.modRun.mPoison h.findStore.modMtx
  · exact h

theorem Canonical.loads {c} (h : Canonical s) : Canonical (s.loads c) := by
  dsimp only [State.loads]
  split
  · exact h.modMtx.loadRow
  · exact h.modMtx

theorem Canonical.doRow {c x tile row f} (h : Canonical s) : Canonical (s.doRow c x tile row f) := by
  unfold State.doRow
  exact h.setMtx.mFlags

theorem Canonical.engineFind {c r o n} (h : Canonical s) : Canonical (s.engineFind c r o n) := by
  dsimp only [State.engineFind]
  split
  · exact h.findStore
  · exact h

theorem Canonical.engineRead {c r o n} {res} (h : Canonical s) (e : s.engineRead c r o n = res) : EReadKept res := by
  subst e
  dsimp only [State.engineRead]
  split
  · exact trivial
  · split
    · exact trivial
    · split
      · split
        · exact trivial
        · exact h.engFill.modRun
      · exact .ite trivial trivial

theorem Canonical.hold {c} (h : Canonical s) : Canonical (s.hold c) := h.modRun

theorem Canonical.passRow {c r md bank d tile row0 nrm1 first} (h : Canonical s) :
    Canonical (s.passRow c r md bank d tile row0 nrm1 first) := by
  dsimp only [State.passRow]
  refine .ite h.mFault (.ite h.mFault (.ite h.hold ?_))
  split
  · exact h.engineFind.engineFind.mFault
  · next e => exact (h.engineFind.engineFind.engineRead e).hold
  · split
    · exact h.engineFind.engineFind.mFault
    · next e => exact (h.engineFind.engineFind.engineRead e).hold
    · exact h.engineFind.engineFind.doRow.modRun

theorem Canonical.doPass {t row0 nrm1 bank ma first} (h : Canonical s) : Canonical (doPass t row0 nrm1 bank ma first s) := by
  dsimp only [Machine.doPass]
  refine h.onCall fun _ _ => ?_
  split
  · exact h.mFault
  · exact h.hold
  · split
    · exact h.mFault
    · exact h.passRow

theorem Canonical.mapRows {c x tile row0 f n} (h : Canonical s) : Canonical (s.mapRows c x tile row0 f n) := by
  induction n with
  | zero => exact h
  | succ n ih => exact ih.doRow

theorem Canonical.rowWord {t row0 nrm1 from_ f} (h : Canonical s) : Canonical (rowWord t row0 nrm1 s from_ f) :=
  h.onCall (fun _ _ => h.mapRows.modRun)

theorem NextCanonical.execBias {t row0 nrm1 ma} (h : Canonical s) : NextCanonical (execBias t row0 nrm1 ma s) := by
  dsimp only [Machine.execBias]
  refine .next (h.onCall (fun _ _ => .ite h.mFault (.ite h.hold ?_)))
  split
  · exact h.engineFind.mFault
  · next e => exact (h.engineFind.engineRead e).hold
  · exact h.engineFind.rowWord

theorem Canonical.endRun {c} (h : Canonical s) : Canonical (s.endRun c) := h.modMtx

theorem Canonical.mftRun {c} (h : Canonical s) : Canonical (s.mftRun c) := by
  dsimp only [State.mftRun]
  split
  · split
    · exact h.modMtx.modRun
    · exact h
  · exact h

theorem Canonical.mzeroRun {c} (h : Canonical s) : Canonical (s.mzeroRun c) := by
  dsimp only [State.mzeroRun]
  split
  · split
    · exact h.modMtx.modRun
    · exact h
  · exact h

theorem Canonical.mmovStore {c off v n} (h : Canonical s) : Canonical (s.mmovStore c off v n) := by
  induction n with
  | zero => exact h
  | succ n ih => exact ih.wrLoc

theorem Canonical.moveFault {c code row} (h : Canonical s) : Canonical (s.moveFault c code row) := h.mFault.modRun

theorem Canonical.mmovRows {c ld sat acc fmt desc mode nrm1 n} (h : Canonical s) :
    Canonical (s.mmovRows c ld sat acc fmt desc mode nrm1 n) := by
  induction n generalizing s with
  | zero => exact h.modRun
  | succ n ih =>
    dsimp only [State.mmovRows]
    split
    · exact h
    · refine .ite h.moveFault (.ite ?_ (.ite h.frame.moveFault (ih h.mmovStore.mFlags)))
      split
      · exact h.engineFind.moveFault
      · next e => exact (h.engineFind.engineRead e).modRun
      · exact ih h.engineFind.doRow

theorem Canonical.mmovRun {c} (h : Canonical s) : Canonical (s.mmovRun c) := by
  dsimp only [State.mmovRun]
  split
  · split
    · exact .ite h.moveFault (.ite h.moveFault (.ite h h.modRun.mmovRows))
    · exact h
  · exact h

theorem Canonical.callEnd {c} (h : Canonical s) : Canonical (s.callEnd c) := by
  dsimp only [State.callEnd]
  split
  · split
    · split
      · exact h.modCtx.endRun
      · exact h.endRun
    · exact h
  · exact h

theorem Canonical.stepsSpent {c t} (h : Canonical s) (e : s.stepsSpent c = some t) : Canonical t := by
  unfold State.stepsSpent at e
  split at e
  · split at e
    · cases e
      exact h.mFault
    · cases e
  · cases e

theorem Canonical.loadAll {c b n} (h : Canonical s) : Canonical (s.loadAll c b n) := by
  induction n generalizing s with
  | zero => exact h.modMtx
  | succ n ih =>
    unfold State.loadAll
    split
    · exact .ite (ih h.loadRow) (ih h)
    · exact ih h

end Sys2Proof.Claims
end

section
/-! SUPPORT. Canonical form is kept, part 2: leases, directories, write-backs, fills and the operations at their home. -/

namespace Sys2Proof.Claims

open Sys2Proof Sys2Proof.Machine

set_option Elab.async false

variable {s : State}

/-! ## Lines, leases and directories -/

theorem Canonical.headWritten {l} (h : Canonical s) : Canonical (s.headWritten l) := by
  unfold State.headWritten
  exact h.foldl fun _ _ h => h.modRope

theorem Canonical.writeData {l} (h : Canonical s) : Canonical (s.writeData l) := by
  unfold State.writeData
  exact (h.foldl fun _ _ h => h.physWr _ _ _).headWritten.frame

theorem Canonical.serve {slice} (h : Canonical s) : Canonical (s.serve slice) :=
  { h with served := SMap.wf_set _ _ slice (s.now + 1) h.served }

theorem StoresWf.clearClean {c : Core} {vault p} (h : StoresWf c) : StoresWf (c.clearClean vault p) :=
  h.foldl fun _ _ h => h.setSide

theorem StoresWf.clearTest {c : Core} {p} (h : StoresWf c) : StoresWf (c.clearTest p) := h.clearClean.clearClean

theorem Canonical.clearCopiesOf {k p} (h : Canonical s) : Canonical (s.clearCopiesOf k p) :=
  h.frame.onCore fun _ k => k.clearTest

theorem Canonical.clearCopies {p} (h : Canonical s) : Canonical (s.clearCopies p) := h.foldl fun _ _ h => h.clearCopiesOf

theorem Canonical.invalidateFor {own a pa l} (h : Canonical s) : Canonical (s.invalidateFor own a pa l) :=
  .ite h.clearCopies (.ite h.clearCopies h)

theorem Canonical.setLineTs {t} (h : Canonical s) : Canonical (s.setLineTs t) := h.frame

theorem Canonical.raisePts {core p} (h : Canonical s) : Canonical (s.raisePts core p) := h.tuneCore

theorem Canonical.raiseSwc {slice p} (h : Canonical s) : Canonical (s.raiseSwc slice p) :=
  { h with swc := SMap.wf_set _ _ _ _ h.swc }

theorem Canonical.leaseRead {core slice line lt} (h : Canonical s) : Canonical (s.leaseRead core slice line lt).2 := by
  unfold State.leaseRead
  exact h.setLineTs.raisePts

theorem Canonical.countWrite {slice} (h : Canonical s) :
    Canonical { s with modSeq := SMap.set 0 s.modSeq slice (SMap.get 0 s.modSeq slice + 1) } :=
  { h with modSeq := SMap.wf_set _ _ slice (SMap.get 0 s.modSeq slice + 1) h.modSeq }

theorem Canonical.stampWrite {core a pa} (h : Canonical s) : Canonical (s.stampWrite core a pa) := by
  unfold State.stampWrite
  refine .ite ?_ h.raiseSwc.countWrite
  split
  · exact h.raiseSwc.countWrite.setLineTs.raiseSwc.tuneCore
  · exact h.raiseSwc.countWrite.setLineTs.raiseSwc

theorem Canonical.evictLine {t} (h : Canonical s) : Canonical (s.evictLine t) := { h with evt := SMap.wf_set _ _ _ _ h.evt }

theorem Canonical.evictFor {slice} (h : Canonical s) : Canonical (s.evictFor slice) := by
  dsimp only [State.evictFor]
  split
  · refine .memDebit ?_
    split
    · exact h.frame.evictLine
    · exact h.frame
  · split
    · exact h.frame.evictLine
    · exact h.frame

theorem Canonical.markStream {a line} (h : Canonical s) : Canonical (s.markStream a line) := .ite h.frame h

theorem Canonical.dramAccess {a pa i task} (h : Canonical s) : Canonical (s.dramAccess a pa i task) :=
  .ite h (.ite h.memDebit (h.frame.markStream.when fun h => h.memDebit.evictFor))

theorem Canonical.dropLine {core line} (h : Canonical s) : Canonical (s.dropLine core line) := h.clearCopiesOf

theorem Canonical.leaseRecord {core line rts} (h : Canonical s) : Canonical (s.leaseRecord core line rts) := by
  dsimp only [State.leaseRecord]
  split
  · exact h.tuneCore
  · split
    · exact h.tuneCore
    · split
      · exact h.dropLine.tuneCore
      · exact h

theorem Canonical.backInvalidate {pa} (h : Canonical s) : Canonical (s.backInvalidate pa) := .ite h.frame.send h

theorem Canonical.writeOwned {w own a pa l} (h : Canonical s) : Canonical (s.writeOwned w own a pa l) :=
  .ite h.writeData ((h.invalidateFor.when fun h => h.stampWrite.dramAccess).unless fun h => h.backInvalidate).writeData

theorem Canonical.poisonWord {word} (h : Canonical s) : Canonical (s.poisonWord word) := .ite h h.frame

theorem Canonical.recallOwner {a o} (h : Canonical s) : Canonical (s.recallOwner a o) := by
  dsimp only [State.recallOwner]
  split
  · refine .poisonWord (.writeOwned ?_)
    split
    · exact h.frame.frame
    · exact h.frame.onCore fun _ k => k.setSide
  · refine .writeOwned ?_
    split
    · exact h.frame.frame
    · exact h.frame.onCore fun _ k => k.setSide

theorem Canonical.recallThose {p a pa n} (h : Canonical s) : Canonical (s.recallThose p a pa n) :=
  h.foldl fun _ _ h => h.recallOwner

theorem Canonical.recallIf {p a pa n} (h : Canonical s) : Canonical (s.recallIf p a pa n) := h.recallThose.findMem

theorem Canonical.recallOwners {keep a pa n} (h : Canonical s) : Canonical (s.recallOwners keep a pa n) := h.recallIf

theorem Canonical.recallOthers {core task a pa n} (h : Canonical s) : Canonical (s.recallOthers core task a pa n) :=
  h.recallIf

theorem Canonical.findSpan {l p} (h : Canonical s) : Canonical (s.findSpan l p) := .ite h h.findMem

theorem Canonical.writeHome {w own a pa l} (h : Canonical s) : Canonical (s.writeHome w own a pa l) :=
  (h.foldl fun _ _ h => h.recallThose.findSpan).writeOwned

theorem Canonical.readHome {w a pa n} (h : Canonical s) : Canonical (s.readHome w a pa n).2 := by
  unfold State.readHome
  exact h.recallOwners.when fun h => h.dramAccess

theorem Canonical.recallTables {asid va} (h : Canonical s) : Canonical (s.recallTables asid va) :=
  .ite h (h.foldl fun _ _ h => h.recallOwners)

theorem Canonical.walked {core asid va} (h : Canonical s) : Canonical (s.walked core asid va) :=
  h.cacheIn.unless fun h => h.recallTables

theorem Canonical.walkReads {core asid va} (h : Canonical s) : Canonical (s.walkReads core asid va) := .ite h h.recallTables

theorem Canonical.setAsid {a e} (h : Canonical s) : Canonical (s.setAsid a e) := by
  have ha : Canonical { s with asids := SMap.set AsidEnt.none s.asids a.toNat e } :=
    { h with asids := SMap.wf_set _ _ _ _ h.asids }
  dsimp only [State.setAsid]
  split
  · next t _ =>
    have hb := ha.backInvalidate (pa := t + 16 * a.toNat)
    exact (hb.withDram (Memory.wf_wrN _ (t + 16 * a.toNat) e.word 16 hb.dram)).frame
  · exact ha

theorem Canonical.writeGroup {core x g} (h : Canonical s) : Canonical (s.writeGroup core x g) := by
  dsimp only [State.writeGroup]
  split
  · exact h
  · split
    · exact .ite h (h.frame.foldl fun _ _ h => h.onCore fun _ k => k.setSide).writeHome
    · exact h

theorem Canonical.recallUnder {core x p} (h : Canonical s) : Canonical (s.recallUnder core x p) := by
  unfold State.recallUnder
  exact (h.foldl fun _ _ h => h.writeGroup).clearCopiesOf

theorem Canonical.recallWords {core p} (h : Canonical s) : Canonical (s.recallWords core p) := h.recallUnder

theorem Canonical.recallAll {p} (h : Canonical s) : Canonical (s.recallAll p) := h.foldl fun _ _ h => h.recallWords

theorem Canonical.dirRecall {slice} (h : Canonical s) : Canonical (s.dirRecall slice) := by
  dsimp only [State.dirRecall]
  split
  · exact h
  · exact h.recallWords.frame

theorem Canonical.register {slice e gen} (h : Canonical s) : Canonical (s.register slice e gen) :=
  .ite h (Canonical.ite h.dirRecall h).frame

theorem Canonical.wonusWrite (h : Canonical s) : Canonical s.wonusWrite := by
  dsimp only [State.wonusWrite]
  split
  · exact h
  · exact .ite h h.writeHome.frame

theorem Canonical.wonusDrain {n} (h : Canonical s) : Canonical (s.wonusDrain n) := by
  induction n generalizing s with
  | zero => exact h
  | succ n ih => exact ih h.wonusWrite

theorem Canonical.wonusLog {task typ src seq data} (h : Canonical s) : Canonical (s.wonusLog task typ src seq data) :=
  .ite h.frame.wonusDrain h

theorem Canonical.logHome {task slice data} (h : Canonical s) : Canonical (s.logHome task slice data) := h.wonusLog

theorem Canonical.logHostRead {task a pa n v} (h : Canonical s) : Canonical (s.logHostRead task a pa n v) :=
  .ite (h.foldl fun _ _ h => h.wonusLog) h

theorem Canonical.snoopLine {pa} (h : Canonical s) : Canonical (s.snoopLine pa) := h.recallAll

theorem Canonical.atSlices {pa n i f} (h : Canonical s) (hf : ∀ t, Canonical t → Canonical (f t)) :
    Canonical (s.atSlices pa n i f) := by
  unfold State.atSlices
  exact .ite h.frame (hf _ (h.foldl fun _ _ h => h.serve))

theorem NextCanonical.execHostSnoop {pa data} (h : Canonical s) : NextCanonical (execHostSnoop pa data s) := by
  unfold Machine.execHostSnoop
  exact .next (.ite (h.atSlices fun _ h => h.snoopLine.stampWrite.dramAccess.writeData) (h.snoopLine.when fun h => h.writeData))

theorem Canonical.snoopRange {line n} (h : Canonical s) : Canonical (s.snoopRange line n) := by
  induction n generalizing s line with
  | zero => exact h
  | succ n ih => exact ih h.snoopLine

theorem Canonical.writeLines {w a n l} (h : Canonical s) : Canonical (s.writeLines w a n l) := by
  induction n generalizing s l with
  | zero => exact h
  | succ n ih =>
    cases l with
    | nil => exact h
    | cons p r => exact ih h.writeHome

theorem NextCanonical.execHostMemWrite {pa data} (h : Canonical s) : NextCanonical (execHostMemWrite pa data s) :=
  .ite (.next (h.atSlices (fun _ h => (Canonical.ite h.snoopRange h).writeLines))) .fault

theorem Canonical.trackLines {line n} (h : Canonical s) : Canonical (s.trackLines line n) := by
  induction n generalizing s line with
  | zero => exact h
  | succ n ih => exact ih h.dramAccess.frame

theorem Canonical.readLines {pa n} (h : Canonical s) : Canonical (s.readLines pa n) := h.send.trackLines

theorem NextCanonical.execHostMemRead {pa n} (h : Canonical s) : NextCanonical (execHostMemRead pa n s) :=
  .ite (.next (h.atSlices (fun _ h => h.recallOwners.readLines))) .fault

theorem NextCanonical.execLeaseTick (h : Canonical s) : NextCanonical (execLeaseTick s) := by
  unfold Machine.execLeaseTick
  exact .next (h.frame.foldl fun _ _ h => h.tuneCore)

theorem Canonical.rebaseCore {core lo} (h : Canonical s) : Canonical (s.rebaseCore core lo) := by
  unfold State.rebaseCore
  exact (h.foldl fun _ _ h => h.dropLine).tuneCore

/-- A map whose entries are raised one after another stays in canonical form. -/
theorem raised_wf {lo : BitVec 32} {l : List Nat} {m : SMap (BitVec 32)} (h : SMap.wf 0 m = true) :
    SMap.wf 0 (l.foldl (fun m k => if serialLT (SMap.get 0 m k) lo then SMap.set 0 m k lo else m) m) = true :=
  l.foldlRecOn (motive := fun m => SMap.wf 0 m = true) _ h fun _ hm _ _ =>
    iteInduction (motive := fun m => SMap.wf 0 m = true) (fun _ => SMap.wf_set _ _ _ _ hm) (fun _ => hm)

theorem NextCanonical.execRebaseSweep (h : Canonical s) : NextCanonical (execRebaseSweep s) :=
  .next (.foldl { h with evt := raised_wf h.evt, swc := raised_wf h.swc } fun _ _ h => h.rebaseCore)

/-! ## Splice routines -/

theorem Canonical.extend {n d} (h : Canonical s) : Canonical (s.extend n d) := h.frame

theorem Canonical.install {asid n body} (h : Canonical s) : Canonical (s.install asid n body).2 := by
  dsimp only [State.install]
  refine .ite_snd h (.ite_snd h (.ite_snd h ?_))
  split
  · exact h
  · exact .extend { h with routines := SMap.wf_set _ _ _ _ h.routines }

theorem Canonical.unmapRoutine {asid n} (h : Canonical s) : Canonical (s.unmapRoutine asid n).2 := .ite_snd h.frame h

/-! ## Operations at their home -/

theorem Canonical.deliver {x id v fl} (h : Canonical s) : Canonical (s.deliver x id v fl) := h.modCtx

theorem Canonical.deliverW {x id w} (h : Canonical s) : Canonical (s.deliverW x id w) := by
  dsimp only [State.deliverW]
  split <;> exact h.modCtx

theorem Canonical.report {x cls cause a orig} (h : Canonical s) : Canonical (s.report x cls cause a orig) := h.modCtx

theorem Canonical.doneOp {id} (h : Canonical s) : Canonical (s.doneOp id) := h.frame

theorem Canonical.modOp {id f} (h : Canonical s) : Canonical (s.modOp id f) := h.frame

theorem Canonical.failOp {o cause} (h : Canonical s) : Canonical (s.failOp o cause) := h.doneOp.deliver.deliverW.report

theorem Canonical.askAts {asid va w claim core} (h : Canonical s) : Canonical (s.askAts asid va w claim core) :=
  .ite h h.frame.send

/-- Translation for an operation: a walk, a hold or a fault (R357). -/
theorem Canonical.opXlate {o w src} {res} (h : Canonical s) (e : s.opXlate o w src = res) : OpXKept res := by
  subst e
  dsimp only [State.opXlate]
  split
  · exact h
  · split
    · exact h
    · split
      · exact h.walked
      · exact h
      · split
        · exact h.walkReads.modOp
        · exact h.walkReads.askAts
      · split
        · next e => exact (Canonical.of_snd h.walkReads.faultAt e).modOp
        · next e => exact Canonical.of_snd h.walkReads.faultAt e
        · next e => exact Canonical.of_snd h.walkReads.faultAt e

theorem Canonical.atHomeSlice {pa a} (h : Canonical s) : Canonical (s.atHomeSlice pa a).2 := .ite_snd h (.ite_snd h h.serve)

theorem Canonical.hubAccess {who core asid va w claim src fcore} {res} (h : Canonical s)
    (e : s.hubAccess who core asid va w claim src fcore = res) : HubXKept res := by
  subst e
  have hq : Canonical { s with hubWaits := s.hubWaits.filter (fun h => !(h.is who asid va w)) } := h.frame
  dsimp only [State.hubAccess]
  refine .ite hq (.ite hq.frame ?_)
  split
  · split
    · next e => exact (Canonical.of_snd hq.atHomeSlice e).walked
    · next e => exact Canonical.of_snd hq.atHomeSlice e
  · exact hq
  · exact hq.walkReads.askAts.frame
  · split
    · next e => exact (Canonical.of_snd hq.walkReads.faultAt e).frame
    · next e => exact Canonical.of_snd hq.walkReads.faultAt e
    · next e => exact Canonical.of_snd hq.walkReads.faultAt e

theorem Canonical.forgetTask {task} (h : Canonical s) : Canonical (s.forgetTask task) := h.frame

theorem Canonical.forgetRope {r} (h : Canonical s) : Canonical (s.forgetRope r) := h.frame

theorem Canonical.fillWord {core t b lease line v k} (h : Canonical s) : Canonical (s.fillWord core t b lease line v k) := by
  dsimp only [State.fillWord]
  split
  · exact h
  · exact .ite h (h.onCore (fun _ k => k.wrStore.setSide))

theorem Canonical.pollAll (h : Canonical s) : Canonical s.pollAll := h.foldl fun _ _ h => h.pollCtx

theorem Canonical.failFlights {x core task n line cause} (h : Canonical s) :
    Canonical (s.failFlights x core task n line cause) := by
  unfold State.failFlights
  exact (h.modCtx.foldl fun _ _ h => h.report).foldl fun _ _ h => h.report

theorem StoresWf.tellEngines {c : Core} {id bad} (h : StoresWf c) : StoresWf (Core.tellEngines id bad c) := by
  unfold Core.tellEngines
  exact h.frame

theorem Canonical.tellEngines {id bad} (h : Canonical s) : Canonical (s.tellEngines id bad) :=
  h.foldl fun _ _ h => h.onCore fun _ k => k.tellEngines

theorem Canonical.failFill {o n cause} (h : Canonical s) : Canonical (s.failFill o n cause) := by
  unfold State.failFill
  exact (h.foldl fun _ _ h => h.failFlights).doneOp.tellEngines

theorem Canonical.dropExpired {core line} (h : Canonical s) : Canonical (s.dropExpired core line) :=
  .ite h (h.onCore (fun _ k => k.clearTest))

theorem Canonical.fillHome {o n b pa a v} (h : Canonical s) : Canonical (s.fillHome o n b pa a v) := by
  unfold State.fillHome
  exact .ite h (.ite h.logHostRead (.ite h.register (.ite h.leaseRead.dropExpired.leaseRecord.wonusLog h)))

theorem Canonical.peerLease {o a pa} (h : Canonical s) : Canonical (s.peerLease o a pa) :=
  .ite h.frame.raisePts.dropExpired.leaseRecord h

theorem Canonical.dropWords {core t b line drop} (h : Canonical s) : Canonical (s.dropWords core t b line drop) := by
  unfold State.dropWords
  exact h.onCore fun _ k => k.clearClean

theorem Canonical.fillAt {o n t b pa a} (h : Canonical s) : Canonical (s.fillAt o n t b pa a) := by
  unfold State.fillAt
  exact .ite h.recallOwners.dramAccess.failFill (h.recallOwners.fillHome.peerLease.dramAccess.foldl
    fun _ _ h => h.fillWord).doneOp.tellEngines.pollAll.dropWords

theorem Canonical.performFill {o n} (h : Canonical s) : Canonical (s.performFill o n) := by
  dsimp only [State.performFill]
  split
  · exact h.doneOp
  · split
    · exact h
    · split
      · next e => exact h.opXlate e
      · next e => exact (h.opXlate e).failFill
      · next e => exact (h.opXlate e).fillAt

theorem Canonical.redirty {o n gen ws} (h : Canonical s) : Canonical (s.redirty o n gen ws) := by
  dsimp only [State.redirty]
  split
  · exact h
  · split
    · exact h
    · refine h.foldl fun _ _ h => ?_
      split
      · exact h.onCore fun _ k => k.setSide
      · exact h

theorem Canonical.dropDir {core task n gen} (h : Canonical s) : Canonical (s.dropDir core task n gen) := by
  unfold State.dropDir
  exact .ite h h.frame

theorem Canonical.keepCopies {o n gen a pa ws} (h : Canonical s) : Canonical (s.keepCopies o n gen a pa ws) := by
  dsimp only [State.keepCopies]
  split
  · exact h
  · exact .ite h (.ite h.register (.ite (h.foldl fun _ _ h => h.onCore (fun _ k => .ite k.setSide k)) h))

theorem Canonical.endCaptured {o words} (h : Canonical s) : Canonical (s.endCaptured o words) := h.frame

theorem Canonical.performWb {o n ws gen} (h : Canonical s) : Canonical (s.performWb o n ws gen) := by
  dsimp only [State.performWb]
  split
  · exact h
  · split
    · next e => exact h.opXlate e
    · next e => exact (h.opXlate e).doneOp.redirty.dropDir
    · next e =>
      have hx : Canonical _ := h.opXlate e
      exact .ite hx.doneOp.redirty.dropDir hx.endCaptured.writeHome.keepCopies.doneOp.dropDir

theorem Canonical.acquireAt {o slice} (h : Canonical s) : Canonical (s.acquireAt o slice) := .ite h.raisePts h

theorem StoresWf.writeWords {c : Core} {vault v ws} (h : StoresWf c) : StoresWf (c.writeWords vault v ws) := by
  induction ws generalizing c v with
  | nil => exact h
  | cons w r ih => exact ih h.wrStore.setSide

theorem StoresWf.clearPairs {c : Core} {vault ws} (h : StoresWf c) : StoresWf (c.clearPairs vault ws) :=
  h.foldl fun _ _ h => .ite h.clearPoison h

theorem Canonical.finishAmo {o slice x fl} (h : Canonical s) : Canonical (s.finishAmo o slice x fl) :=
  h.logHome.acquireAt.doneOp.deliver

theorem Canonical.amoInBight {o fn n y z b ws} (h : Canonical s) : Canonical (s.amoInBight o fn n y z b ws).1 := by
  dsimp only [State.amoInBight]
  split
  · exact h.onCore fun _ k => k.writeWords.clearPairs
  · exact h

theorem Canonical.takeOwnership {o a pa n e b ws} (h : Canonical s) : Canonical (s.takeOwnership o a pa n e b ws) := by
  unfold State.takeOwnership
  refine Canonical.frame (.onCore ?_ fun _ k => k.clearPairs)
  exact h.recallOwners.backInvalidate.invalidateFor.register.foldl fun _ _ h => .ite h (h.onCore fun _ k => k.writeWords)

theorem Canonical.amoLease {o a pa ret} (h : Canonical s) : Canonical (s.amoLease o a pa ret) := .ite h.leaseRead h

theorem Canonical.amoRecall {o a pa n ret} (h : Canonical s) : Canonical (s.amoRecall o a pa n ret) :=
  .ite h.recallOwners h.recallOthers

theorem Canonical.amoAtHome {o fn n y z a pa} (h : Canonical s) : Canonical (s.amoAtHome o fn n y z a pa).1 := by
  dsimp only [State.amoAtHome]
  split
  · exact h.writeOwned
  · exact h.dramAccess
  · exact h.stampWrite.dramAccess

theorem Canonical.bumpSeq {slice} (h : Canonical s) : Canonical (s.bumpSeq slice) :=
  { h with modSeq := SMap.wf_set _ _ slice (SMap.get 0 s.modSeq slice + 1) h.modSeq }

theorem Canonical.amoOwned {o fn n y z e b ws} (h : Canonical s) : Canonical (s.amoOwned o fn n y z e b ws) :=
  .ite h.failOp h.amoInBight.bumpSeq.logHome.doneOp.deliver

theorem Canonical.amoAtPeer {o fn n y z ret a pa} (h : Canonical s) : Canonical (s.amoAtPeer o fn n y z ret a pa) := by
  unfold State.amoAtPeer
  exact (h.frame.send.when fun h => h.raisePts).wonusLog.doneOp.deliver

theorem Canonical.amoPlace {o fn n y z ret own pa a} (h : Canonical s) : Canonical (s.amoPlace o fn n y z ret own pa a) := by
  dsimp only [State.amoPlace]
  split
  · exact .ite h.failOp h.amoAtPeer
  · split
    · exact .ite h.recallOwners.failOp (.ite h.recallOwners.takeOwnership.dramAccess.failOp
        h.recallOwners.takeOwnership.dramAccess.amoInBight.bumpSeq.finishAmo)
    · exact .ite h.amoRecall.failOp h.amoRecall.amoLease.amoAtHome.finishAmo

theorem Canonical.performAmo {o fn n y z ret} (h : Canonical s) : Canonical (s.performAmo o fn n y z ret) := by
  dsimp only [State.performAmo]
  split
  · exact h
  · split
    · split
      · exact h.amoOwned
      · split
        · next e => exact h.opXlate e
        · next e => exact (h.opXlate e).failOp
        · next e => exact (h.opXlate e).amoPlace
    · split
      · next e => exact h.opXlate e
      · next e => exact (h.opXlate e).failOp
      · next e => exact (h.opXlate e).amoPlace

theorem Canonical.performKnot {o fn y} (h : Canonical s) : Canonical (s.performKnot o fn y) := by
  dsimp only [State.performKnot]
  split
  · exact h
  · split
    · next e => exact h.opXlate e
    · next e => exact (h.opXlate e).failOp
    · next e =>
      have hx : Canonical _ := h.opXlate e
      exact .ite hx.failOp (.ite hx.recallOwners.failOp hx.recallOwners.amoAtHome.finishAmo)

theorem Canonical.performSc {o fn n y z} (h : Canonical s) : Canonical (s.performSc o fn n y z) := by
  dsimp only [State.performSc]
  split
  · exact h
  · split
    · next e => exact h.opXlate e
    · next e => exact (h.opXlate e).failOp
    · next e =>
      have hx : Canonical _ := h.opXlate e
      exact .ite hx.failOp (.ite hx (.ite hx.serve.recallOwners.failOp
        hx.serve.recallOwners.frame.wonusLog.amoAtHome.finishAmo))

theorem NextCanonical.execScOrderPoint {id} (h : Canonical s) : NextCanonical (execScOrderPoint id s) := by
  dsimp only [Machine.execScOrderPoint]
  refine .next ?_
  split
  · split
    · exact h.performSc
    · exact h
  · exact h

theorem NextCanonical.execHomeAtomicExecute {id} (h : Canonical s) : NextCanonical (execHomeAtomicExecute id s) := by
  dsimp only [Machine.execHomeAtomicExecute]
  refine .next ?_
  split
  · split
    · exact h.performAmo
    · exact h.performKnot
    · exact h
  · exact h

theorem Canonical.finishSplice {o wbuf status r} (h : Canonical s) : Canonical (s.finishSplice o wbuf status r) := by
  dsimp only [State.finishSplice]
  split
  · exact h.doneOp.deliver.deliverW
  · exact h.doneOp.unless fun h => h.report

theorem Canonical.performSplice {o num opd wbuf} (h : Canonical s) : Canonical (s.performSplice o num opd wbuf) := by
  unfold State.performSplice
  refine .ite h ?_
  split
  · next e => exact h.opXlate e
  · next e => exact (h.opXlate e).failOp
  · next e =>
    have hx : Canonical _ := h.opXlate e
    refine .ite hx.failOp ?_
    split
    · exact hx.finishSplice
    · exact .ite hx.recallOthers.finishSplice hx.recallOthers.writeOwned.logHome.acquireAt.finishSplice

theorem NextCanonical.execSpliceExecute {id} (h : Canonical s) : NextCanonical (execSpliceExecute id s) := by
  dsimp only [Machine.execSpliceExecute]
  refine .next ?_
  split
  · split
    · exact h.performSplice
    · exact h
  · exact h

theorem Canonical.performPin {o un} (h : Canonical s) : Canonical (s.performPin o un) := by
  unfold State.performPin
  refine .ite h ?_
  split
  · next e => exact h.opXlate e
  · next e => exact (h.opXlate e).failOp
  · next e =>
    have hx : Canonical _ := h.opXlate e
    exact .ite hx.failOp (.ite hx.failOp (.ite (.ite hx.frame.doneOp.deliver hx.doneOp.deliver)
      (.ite hx.doneOp.deliver (.ite hx.doneOp.deliver hx.dramAccess.frame.doneOp.deliver))))

theorem Canonical.performVreg {o d} (h : Canonical s) : Canonical (s.performVreg o d) := by
  unfold State.performVreg
  refine .ite h ?_
  split
  · next e => exact h.opXlate e
  · next e => exact (h.opXlate e).failOp
  · next e =>
    have hx : Canonical _ := h.opXlate e
    exact .ite hx.failOp hx.writeHome.doneOp

theorem Canonical.monTake (h : Canonical s) : Canonical s.monTake := h.frame

theorem Canonical.monPut {q} (h : Canonical s) : Canonical (s.monPut q) := h.frame

theorem Canonical.serveMon {q f} (h : Canonical s) (hf : ∀ t, Canonical t → Canonical (f t)) :
    Canonical (s.serveMon q f) :=
  .ite (hf _ h.monTake) (.ite h.monPut (hf _ h))

theorem Canonical.serveInst {id f} (h : Canonical s) (hf : ∀ t, Canonical t → Canonical (f t)) :
    Canonical (s.serveInst id f) :=
  .ite h (h.serveMon (fun _ h => hf _ h))

theorem NextCanonical.execGlobalWritePerform {id} (h : Canonical s) : NextCanonical (execGlobalWritePerform id s) := by
  refine .next ?_
  split
  · next o _ =>
    generalize o.kind = kind
    cases kind with
    | wb => exact h.performWb
    | vreg => exact h.performVreg
    | pin | unpin => exact h.performPin
    | inst => exact h.serveInst fun _ h => h.install.doneOp.deliver
    | rm => exact h.serveInst fun _ h => h.unmapRoutine.doneOp.deliver
    | _ => exact h
  · exact h.frame

theorem NextCanonical.execFillComplete {id} (h : Canonical s) : NextCanonical (execFillComplete id s) := by
  dsimp only [Machine.execFillComplete]
  refine .next ?_
  split
  · split
    · exact h.performFill
    · exact h
  · exact h

/-- Polling the results of a list that carry a number keeps the form (R61). -/
theorem Canonical.pollNamed {x : CtxNo} {id : Nat} {l : List Flight} (h : Canonical s) :
    Canonical (l.foldl (fun (r : List Flight × State) f =>
      if f.id = id then let a := r.2.pollFlight x f; (r.1 ++ [a.1], a.2) else (r.1 ++ [f], r.2)) ([], s)).2 :=
  Canonical.foldl_snd h fun _ _ h => .ite_snd h.pollFlight h

end Sys2Proof.Claims
end

section
/-! SUPPORT. Canonical form is kept, part 3: loads, stores, bights, copies, halyards, links and the partition's cycle. -/

namespace Sys2Proof.Claims

open Sys2Proof Sys2Proof.Machine

set_option Elab.async false

variable {s : State}

/-! ## Loads and stores -/

theorem Canonical.portFirst {ls store} (h : Canonical s) : Canonical (s.portFirst ls store) := by
  unfold State.portFirst
  exact h.foldl fun _ _ h => .ite h h.modCtx.pollCtx

theorem Canonical.postLoad {vault n a k sext bcast dst lanes es} (h : Canonical s) :
    Canonical (s.postLoad vault n a k sext bcast dst lanes es) := by
  unfold State.postLoad
  exact h.portFirst.frame.pollFlight.modCtx

theorem Canonical.loadOp {g vault n sext d a k} (h : Canonical s) : Canonical (loadOp s g vault n sext d a k) := by
  unfold Machine.loadOp
  exact h.gated h.postLoad

theorem Canonical.vgated {eff : State} {p} (h : Canonical s) (h2 : Canonical eff) : Canonical (s.vgated p eff) := by
  dsimp only [State.vgated]
  split
  · exact h2
  · exact h.stallCtx
  · exact h.takeTrap

theorem Canonical.vloadOp {g vault m bcast d a k} (h : Canonical s) : Canonical (vloadOp s g vault m bcast d a k) := by
  unfold Machine.vloadOp
  exact .ite h (h.vgated h.postLoad)

/-- The cores of another canonical state may stand in for a state's own. -/
theorem Canonical.withCores {u : State} {n : Nat} {c : Prop} [Decidable c] (h : Canonical s) (hu : Canonical u) :
    Canonical { s with nextOp := n, cores := if c then u.cores else s.cores } :=
  iteInduction (motive := fun k => Canonical { s with nextOp := n, cores := k })
    (fun _ => { h with cores := hu.cores, spad := hu.spad, vault := hu.vault }) (fun _ => h.frame)

theorem Canonical.storeElems {n es} (h : Canonical s) : Canonical (s.storeElems n es) := by
  dsimp only [State.storeElems]
  have hp : Canonical (s.portFirst (es.map (fun e => (e.1, n))) true) := h.portFirst
  generalize s.portFirst (es.map (fun e => (e.1, n))) true = t at hp
  exact .ite (hp.foldl fun _ _ h => h.frame.pollFlight.modCtx) (hp.withCores (hp.foldl fun _ _ h => h.wrLoc)).modCtx

theorem Canonical.storeOp {g vault n d a k} (h : Canonical s) : Canonical (storeOp s g vault n d a k) := by
  unfold Machine.storeOp
  exact h.gated h.storeElems

theorem Canonical.vstoreOp {g vault m d a k} (h : Canonical s) : Canonical (vstoreOp s g vault m d a k) := by
  unfold Machine.vstoreOp
  exact .ite h (h.vgated h.storeElems)

/-! ## Bights -/

theorem Canonical.setEntry {core task n b} (h : Canonical s) : Canonical (s.setEntry core task n b) :=
  h.onCore fun _ k => k.modTeam

theorem StoresWf.clearRange {c : Core} {vault lo n} (h : StoresWf c) : StoresWf (c.clearRange vault lo n) := by
  unfold Core.clearRange
  exact .ite h.frame h.frame

theorem Canonical.startLine {x core t n b line orig} (h : Canonical s) : Canonical (s.startLine x core t n b line orig) :=
  .ite h h.addOp

theorem Canonical.startElems {x core t n b orig e k} (h : Canonical s) : Canonical (s.startElems x core t n b orig e k) := by
  induction k generalizing s e with
  | zero => exact h
  | succ k ih => exact ih (h.foldl fun _ _ h => h.startLine)

theorem Canonical.enterBight {x core task n b orig} (h : Canonical s) : Canonical (s.enterBight x core task n b orig) := by
  dsimp only [State.enterBight]
  split
  · exact h
  · exact (h.setEntry.onCore fun _ k => k.clearRange).modCtx.when fun h => h.startElems

theorem Canonical.enterMap {x core task n d orig} (h : Canonical s) : Canonical (s.enterMap x core task n d orig) :=
  h.frame.enterBight

theorem Canonical.startWbs {x core task n flush gen orig k l} (h : Canonical s) :
    Canonical (s.startWbs x core task n flush gen orig k l) := by
  induction k generalizing s l with
  | zero => exact h
  | succ k ih =>
    cases l with
    | nil => exact h
    | cons w r => exact ih h.addOp

theorem Canonical.endOwnership {x core task n lo b} (h : Canonical s) : Canonical (s.endOwnership x core task n lo b) :=
  h.frame

theorem Canonical.markFlushed {x core vault lo n} (h : Canonical s) : Canonical (s.markFlushed x core vault lo n) := by
  unfold State.markFlushed
  exact h.modCtx

theorem Canonical.flushEntry {x core task n flush orig} (h : Canonical s) :
    Canonical (s.flushEntry x core task n flush orig) := by
  dsimp only [State.flushEntry]
  split
  · exact h
  · exact h.endOwnership.markFlushed.startWbs.foldl fun _ _ h => h.onCore fun _ k => .ite k.setSide k

theorem Canonical.freeWords {core vault w k} (h : Canonical s) : Canonical (s.freeWords core vault w k) := by
  induction k generalizing s w with
  | zero => exact h
  | succ k ih => exact ih (.ite h (h.frame.onCore fun _ k => k.wrStore))

theorem Canonical.unmapEntry {x core task n orig} (h : Canonical s) : Canonical (s.unmapEntry x core task n orig) := by
  dsimp only [State.unmapEntry]
  split
  · exact h
  · exact (h.flushEntry.freeWords.onCore fun _ k => k.clearRange).setEntry.dropDir

theorem Canonical.touch {n e0 k} (h : Canonical s) : Canonical (s.touch n e0 k) := by
  unfold State.touch
  exact .ite h.startElems h

/-! ## Copy engines -/

theorem StoresWf.setEng {c : Core} {e l} (h : StoresWf c) : StoresWf (c.setEng e l) := .ite h.frame h.frame

theorem Canonical.setCmd {c e i k} (h : Canonical s) : Canonical (s.setCmd c e i k) := h.onCore fun _ k => k.setEng

theorem Canonical.pushCopy {k d a e} (h : Canonical s) : Canonical (s.pushCopy k d a e) := by
  unfold State.pushCopy
  exact (h.onCore fun _ k => k.setEng).landS.modCtx

theorem Canonical.cpy {g k d a e} (h : Canonical s) : Canonical (s.cpy g k d a e) := h.gated h.pushCopy

theorem NextCanonical.execCqPop {g d e} (h : Canonical s) : NextCanonical (execCqPop g d e s) := by
  dsimp only [Machine.execCqPop]
  refine .next (h.gated ?_)
  split
  · exact h
  · exact h.landS.modCtx.onCore fun _ k => k.setEng

theorem Canonical.engGlobal {core task src a w f res} (h : Canonical s) (hf : ∀ pa k t, Canonical t → UResKept (f pa k t))
    (e : s.engGlobal core task src a w f = res) : UResKept res := by
  subst e
  dsimp only [State.engGlobal]
  split
  · exact hf _ _ _ (.ite h h.walked)
  · exact h
  · split
    · exact h.walkReads
    · exact h.walkReads.askAts
  · split
    · next e => exact .of_snd h.walkReads.faultAt e
    · next e => exact .of_snd h.walkReads.faultAt e
    · next e => exact .of_snd h.walkReads.faultAt e

theorem Canonical.engRead {core task src sp a n first res} (h : Canonical s)
    (e : s.engRead core task src sp a n first = res) : UResKept res := by
  subst e
  dsimp only [State.engRead]
  split
  · split
    · exact h
    · refine h.engGlobal (fun _ _ _ h => ?_) rfl
      exact .ite h (.ite h h.readHome.logHostRead)
  · split
    · exact h
    · exact .ite h.findStore.engFill (.ite h.findStore h.findStore)

theorem Canonical.cleanGranule {pa whole} (h : Canonical s) : Canonical (s.cleanGranule pa whole) := .ite h.frame h

theorem Canonical.cleanLoc {l whole} (h : Canonical s) : Canonical (s.cleanLoc l whole) :=
  .ite (h.onCore (fun _ k => k.clearPoison)) h

theorem Canonical.engWrite {core task src sp a n v first whole res} (h : Canonical s)
    (e : s.engWrite core task src sp a n v first whole = res) : UResKept res := by
  subst e
  dsimp only [State.engWrite]
  split
  · split
    · exact h
    · refine h.engGlobal (fun _ _ _ h => ?_) rfl
      exact .ite h h.writeHome.cleanGranule
  · split
    · exact h
    · exact .ite h (.ite h.engFill h.wrLoc.cleanLoc)

theorem UResKept.bind {r : URes} {f} (h : UResKept r) (hf : ∀ v t, Canonical t → UResKept (f v t)) :
    UResKept (r.bind f) := by
  cases r with
  | ok v s => exact hf _ _ h
  | _ => exact h

theorem Canonical.mcastByte {v ls whole} {res} (h : Canonical s) (e : s.mcastByte v ls whole = res) : UResKept res := by
  subst e
  dsimp only [State.mcastByte]
  split
  · exact h
  · split
    · exact h.engFill
    · exact h.foldl fun _ _ h => h.wrLoc.cleanLoc

theorem Canonical.copyUnit {core c fresh} {res} (h : Canonical s) (e : s.copyUnit core c fresh = res) : UResKept res := by
  subst e
  dsimp only [State.copyUnit]
  split
  · refine (h.engRead rfl).bind (fun _ _ h => ?_)
    refine (h.engRead rfl).bind (fun _ _ h => ?_)
    exact h.engWrite rfl
  · split
    · refine (h.engRead rfl).bind (fun _ _ h => ?_)
      refine (h.engRead rfl).bind (fun _ _ h => ?_)
      exact h.engWrite rfl
    · refine (h.engRead rfl).bind (fun _ _ h => ?_)
      exact .ite (h.mcastByte rfl) (h.engWrite rfl)

theorem Canonical.endCmd {core e i c status} (h : Canonical s) : Canonical (s.endCmd core e i c status) := by
  dsimp only [State.endCmd]
  split
  · exact h.setCmd.modCtx
  · exact h.onCore fun _ k => k.setEng.frame

theorem Canonical.copyEnd {core e} (h : Canonical s) : Canonical (s.copyEnd core e) := by
  dsimp only [State.copyEnd]
  split
  · exact h
  · split
    · exact h
    · split
      · exact h.endCmd
      · exact .ite h.endCmd h

theorem Canonical.copyResume {core e} (h : Canonical s) : Canonical (s.copyResume core e) := by
  dsimp only [State.copyResume]
  split
  · exact h
  · split
    · exact h
    · split
      · exact h.setCmd
      · exact h

theorem Canonical.copyStart {core e} (h : Canonical s) : Canonical (s.copyStart core e) := by
  dsimp only [State.copyStart]
  split
  · exact h
  · split
    · exact h
    · split
      · exact h
      · exact .ite h.setCmd h

theorem Canonical.copyOne {core e fresh} (h : Canonical s) : Canonical (s.copyOne core e fresh) := by
  dsimp only [State.copyOne]
  split
  · exact h
  · split
    · exact h
    · split
      · exact h.copyEnd
      · split
        · exact h.setCmd
        · split
          · exact h
          · split
            · exact h.setCmd
            · split
              · exact h.setCmd
              · split
                · exact h
                · split
                  · next e => exact ((h.foldl fun _ _ h => h.serve).copyUnit e).setCmd
                  · next e => exact ((h.foldl fun _ _ h => h.serve).copyUnit e).setCmd
                  · next e => exact ((h.foldl fun _ _ h => h.serve).copyUnit e).setCmd
                  · next e => exact ((h.foldl fun _ _ h => h.serve).copyUnit e).endCmd

theorem Canonical.copyPark {core e} (h : Canonical s) : Canonical (s.copyPark core e) := by
  dsimp only [State.copyPark]
  split
  · exact h
  · split
    · exact h
    · split
      · exact h.setCmd
      · split
        · next e => exact (h.copyUnit e).setCmd
        · exact h

theorem Canonical.copyUnits {core e fresh k} (h : Canonical s) : Canonical (s.copyUnits core e fresh k) := by
  induction k generalizing s fresh with
  | zero => exact h
  | succ k ih => exact ih h.copyOne

theorem Canonical.copyHold {core} (h : Canonical s) : Canonical (s.copyHold core) := by
  unfold State.copyHold
  exact h.tuneCore

theorem Canonical.copyRelease {core} (h : Canonical s) : Canonical (s.copyRelease core) := by
  unfold State.copyRelease
  exact h.tuneCore

theorem Canonical.copyStep {core e} (h : Canonical s) : Canonical (s.copyStep core e) := by
  unfold State.copyStep
  exact h.copyRelease.copyResume.copyStart.copyUnits

/-! ## Halyards -/

theorem Canonical.modHal {c f} (h : Canonical s) : Canonical (s.modHal c f) := h.tuneCore

theorem NextCanonical.execHyPop {g a} (h : Canonical s) : NextCanonical (execHyPop g a s) := by
  dsimp only [Machine.execHyPop]
  refine .next (h.gated ?_)
  split
  · exact h
  · exact h.landS.modHal

theorem Canonical.halBegin {c} (h : Canonical s) : Canonical (s.halBegin c) := by
  dsimp only [State.halBegin]
  split
  · exact h
  · split
    · exact h
    · split
      · exact h.modHal
      · split
        · exact h.findStore.frame.modHal
        · split
          · exact h.findStore.engFill.modHal
          · exact .ite h.findStore.modHal h.findStore.modHal

theorem Canonical.halPush {c} (h : Canonical s) : Canonical (s.halPush c) := by
  dsimp only [State.halPush]
  split
  · exact .ite h (.ite h.modHal (.ite h.modHal ((Canonical.ite h.modHal h).unless
      fun h => (h.frame.onCore fun _ k => k.setEng).modHal)))
  · exact h

theorem Canonical.halFault {c} (h : Canonical s) : Canonical (s.halFault c) := by
  dsimp only [State.halFault]
  split
  · exact h
  · exact h.modHal

theorem Canonical.halStopped {c} (h : Canonical s) : Canonical (s.halStopped c) := by
  unfold State.halStopped
  exact .ite h.modHal h

theorem Canonical.halStep {c} (h : Canonical s) : Canonical (s.halStep c) :=
  .ite h h.halFault.modHal.halStopped.halBegin.halPush

/-! ## Links -/

theorem NextCanonical.execLsend {g l v a} (h : Canonical s) : NextCanonical (execLsend g l v a s) := by
  unfold Machine.execLsend
  exact .next (h.gated (h.setLink _ _).drain)

theorem NextCanonical.execLrecv {g l v a} (h : Canonical s) : NextCanonical (execLrecv g l v a s) := by
  dsimp only [Machine.execLrecv]
  refine .next (h.gated ?_)
  split
  · exact h
  · exact (h.storeElems.setLink _ _).send

theorem Canonical.linkSend {p n} (h : Canonical s) : Canonical (s.linkSend p n) := by
  induction n generalizing s with
  | zero => exact h
  | succ n ih =>
    unfold State.linkSend
    split
    · exact h
    · exact .ite (ih (h.setLink _ _).send) h

theorem Canonical.linksSend (h : Canonical s) : Canonical s.linksSend := h.foldl fun _ _ h => h.linkSend

theorem NextCanonical.execFlitArrival {link vc flit} (h : Canonical s) : NextCanonical (execFlitArrival link vc flit s) := by
  unfold Machine.execFlitArrival
  exact .next (.ite (h.setLink _ _) h)

theorem NextCanonical.execCreditReturn {link vc} (h : Canonical s) : NextCanonical (execCreditReturn link vc s) := by
  unfold Machine.execCreditReturn
  exact .next (h.setLink _ _)

theorem NextCanonical.execCheckpointMarker {link vc} (h : Canonical s) : NextCanonical (execCheckpointMarker link vc s) := by
  unfold Machine.execCheckpointMarker
  exact .next (h.setLink _ _)

/-! ## Atomics, barriers and system operations -/

theorem Canonical.hubFlight {dst lat buf src} (h : Canonical s) : Canonical (s.hubFlight dst lat buf src) := h.modCtx

theorem Canonical.issueOp {kind va n rel acq scope dst} (h : Canonical s) :
    Canonical (s.issueOp kind va n rel acq scope dst) := by
  dsimp only [State.issueOp]
  split
  · refine .modCtx ?_
    split
    · exact (Canonical.ite h.drain h).addOp.hubFlight
    · exact (Canonical.ite h.drain h).addOp
  · split
    · refine .modCtx ?_
      split
      · exact (Canonical.ite h.drain h).addOp.hubFlight
      · exact (Canonical.ite h.drain h).addOp
    · split
      · exact (Canonical.ite h.drain h).addOp.hubFlight
      · exact (Canonical.ite h.drain h).addOp

theorem Canonical.amoOp {g fn n d a b} (h : Canonical s) : Canonical (s.amoOp g fn n d a b) := h.gated h.issueOp

theorem Canonical.redOp {g fn n a b} (h : Canonical s) : Canonical (s.redOp g fn n a b) := h.gated h.issueOp

theorem Canonical.vtabRead {x vtab j} (h : Canonical s) : Canonical (s.vtabRead x vtab j) := by
  dsimp only [State.vtabRead]
  split
  · exact h.walked.readHome
  · exact h

theorem Canonical.scOp {g fn n d a b ret} (h : Canonical s) : Canonical (s.scOp g fn n d a b ret) := h.gated h.issueOp

theorem Canonical.drainOp {g scope} (h : Canonical s) : Canonical (s.drainOp g scope) := h.gated h.drain

theorem NextCanonical.execSplCall {g d a b} (h : Canonical s) : NextCanonical (execSplCall g d a b s) := by
  unfold Machine.execSplCall
  exact .next (h.gated h.issueOp.hubFlight)

theorem Canonical.knotOp {g fn a b dst} (h : Canonical s) : Canonical (s.knotOp g fn a b dst) := h.gated h.issueOp

theorem NextCanonical.execNrgVreg {g a b} (h : Canonical s) : NextCanonical (execNrgVreg g a b s) := by
  unfold Machine.execNrgVreg
  exact .next (h.gated h.issueOp)

theorem Canonical.pinOp {g k d a} (h : Canonical s) : Canonical (s.pinOp g k d a) := h.gated h.issueOp

theorem Canonical.barGoes {x} (h : Canonical s) : Canonical (s.barGoes x) := h.modCtx

theorem Canonical.barComplete {task braid m} (h : Canonical s) : Canonical (s.barComplete task braid m) := by
  unfold State.barComplete
  exact .ite (h.foldl fun _ _ h => h.barGoes) h

theorem Canonical.barArrive {x} (h : Canonical s) : Canonical (s.barArrive x) := by
  dsimp only [State.barArrive]
  split
  · exact h
  · exact (Canonical.ite h h.modCtx).barComplete

/-! ## Loops and stages -/

theorem Canonical.closeLoop {d lc b} (h : Canonical s) : Canonical (s.closeLoop d lc b) := .ite h.land.setLeaf h.land

theorem Canonical.rotate (h : Canonical s) : Canonical s.rotate := h.land.land

theorem Canonical.stage {w} (h : Canonical s) : Canonical (s.stage w) := h.rotate.land

theorem Canonical.closePipe {b} (h : Canonical s) : Canonical (s.closePipe b) := by
  unfold State.closePipe
  exact .ite h.land.stage.setLeaf (.ite h.land.land.stage.setLeaf (.ite h.land.land.stage h.land))

/-! ## Operations that may stall -/

/-- The operations that may stall, run again: those of one shape share a case. -/
theorem NextCanonical.stallRun {i} (h : Canonical s) : NextCanonical (stallRun i s) := by
  cases i with
  | vacc | vaccLc => exact .next (h.bufGated h.postVacc)
  | mcall | mft | mzero | mmovSt | mmovStSat | mmovLd => exact .next (h.gated h.pushM)
  | mwait => exact .next (h.gated h.landS.modCtx)
  | mpar | mpari => exact .next h.opD
  | mrsw | mrse => exact .next (h.gated h.modMtx)
  | mstat | mstatCnt | cqProg | cqCnt | hyStat | hyProg | hyRdc => exact .next h.opS
  | ldB | ldH | ldW | ldD | ldBs | ldHs | ldWs | ldvB | ldvH | ldvW | ldvD | ldvBs | ldvHs | ldvWs => exact .next h.loadOp
  | stB | stH | stW | stD | stvB | stvH | stvW | stvD => exact .next h.storeOp
  | vldV | vldBc | vldH | vldvV | vldvBc | vldvH => exact .next h.vloadOp
  | vstV | vstH | vstvV | vstvH => exact .next h.vstoreOp
  | bgtMap => exact .next (h.gated h.enterMap)
  | bgtUnmap => exact .next (h.gated h.unmapEntry)
  | bgtFlush => exact .next (h.gated h.flushEntry)
  | bgtTouch => exact .next (h.gated h.touch)
  | bgtQuery => exact .next (h.gated h.landS)
  | cpyG2s | cpyS2g | cpyS2s | cpyG2g | cpyGath | cpyScat | cpyMcast | cpyTr => exact .next h.cpy
  | cqPop => exact .execCqPop h
  | hyStart | hyStop | hyCred | hyBase | hyClr | hyDrop => exact .next (h.gated h.modHal)
  | hyPop => exact .execHyPop h
  | lsend => exact .execLsend h
  | lrecv => exact .execLrecv h
  | amoAddW | amoAndW | amoOrW | amoXorW | amoMinW | amoMaxW | amoMinuW | amoMaxuW | amoAddD | amoAndD | amoOrD | amoXorD
  | amoMinD | amoMaxD | amoMinuD | amoMaxuD | amoxSwapW | amoxSwapD | amoxCasW | amoxCasD | amoxFaddF32 =>
    exact .next h.amoOp
  | redAddW | redAddD | redMinW | redMaxW | redMinuW | redMaxuW | redFaddF32 | redOrD => exact .next h.redOp
  | scLdW | scLdD | scStW | scStD | scSwapW | scSwapD | scAddD | scCasD => exact .next h.scOp
  | drainBraid | drainDie | drainDev | drainSys => exact .next h.drainOp
  | splCall => exact .execSplCall h
  | splCalln | splInst | splRm => exact .next (h.gated h.issueOp)
  | knotAdd | knotRd | knotMax | knotSwap => exact .next h.knotOp
  | nrgQ | trap | barBraid => exact .next (h.gated h.modCtx)
  | nrgVreg => exact .execNrgVreg h
  | nrgVsw => exact .next (h.gated h.vtabRead.modTask)
  | cend | rtu => exact .next (h.gated h.modCtx.frame)
  | bkpt | dbgBrk => exact .next (h.gated h)
  | pin | unpin => exact .next h.pinOp
  | dbgMark => exact .next (h.gated h.wonusLog)
  | _ => exact .next h

/-! ## The partition's cycle -/

theorem Canonical.modPart {q f} (h : Canonical s) : Canonical (s.modPart q f) := h.setPart _ _

theorem Canonical.storeW {x off v orig} (h : Canonical s) : Canonical (s.storeW x off v orig) := by
  dsimp only [State.storeW]
  split
  · exact h
  · exact .ite (h.foldl fun _ _ h => h.wrLoc) h.queueStore

theorem Canonical.landOuts {x t} (h : Canonical s) : Canonical (s.landOuts x t) := by
  dsimp only [State.landOuts]
  refine h.foldl fun _ _ h => ?_
  split
  · exact h.storeW
  · exact h

theorem Canonical.landCtx {x t} (h : Canonical s) : Canonical (s.landCtx x t) := h.landOuts.modCtx

theorem Canonical.arrive {q} (h : Canonical s) : Canonical (s.arrive q) :=
  h.foldl fun _ _ h => h.modCtx.pollCtx.modCtx.when fun h => h.barArrive

theorem Canonical.landAll {q skip} (h : Canonical s) : Canonical (s.landAll q skip) := h.foldl fun _ _ h => .ite h h.landCtx

theorem Canonical.tentative {x} (h : Canonical s) : Canonical (s.tentative x) := by
  unfold State.tentative
  exact h.modCtx.landCtx

theorem Canonical.stallClear {x} (h : Canonical s) : Canonical (s.stallClear x) := by
  unfold State.stallClear
  exact .ite h.modCtx h

theorem Canonical.select {q} (h : Canonical s) : Canonical (s.select q) := by
  dsimp only [State.select]
  split
  · exact h
  · split
    · exact h.modCtx
    · exact h

theorem Canonical.leave {x} (h : Canonical s) : Canonical (s.leave x) := by
  dsimp only [State.leave]
  split
  · exact h.modPart.modCtx
  · exact h.modPart.modPart

theorem Canonical.leaveIf {was x} (h : Canonical s) : Canonical (s.leaveIf was x) := .ite h.leave h

theorem Canonical.trapped {x i orig} (h : Canonical s) : Canonical (s.trapped x i orig) := h.takeTrap.wonusLog

theorem Canonical.throttlePoint {x} (h : Canonical s) : Canonical (s.throttlePoint x) := h.frame.wonusLog

theorem Canonical.deferredTrap {x} (h : Canonical s) : Canonical (s.deferredTrap x) := by
  dsimp only [State.deferredTrap]
  split
  · exact h
  · exact h.modCtx.trapped

theorem NextCanonical.execIllegalEncoding {x} (h : Canonical s) : NextCanonical (execIllegalEncoding x s) := by
  dsimp only [Machine.execIllegalEncoding]
  refine .next ?_
  split
  · exact .ite h.trapped.leaveIf h
  · exact h

theorem Canonical.endCtx {x} (h : Canonical s) : Canonical (s.endCtx x) := by
  unfold State.endCtx
  exact .ite h (.ite h.deferredTrap (.ite h.modCtx h))

theorem Canonical.clearStalls {q} (h : Canonical s) : Canonical (s.clearStalls q) :=
  (h.foldl fun _ _ h => h.stallClear).select

theorem Canonical.prepare {q skip} (h : Canonical s) : Canonical (s.prepare q skip) :=
  (h.modPart.landAll.foldl fun _ _ h => h.endCtx.stallClear).select

theorem Canonical.endCycle {q} (h : Canonical s) : Canonical (s.endCycle q) := (h.foldl fun _ _ h => h.modCtx).modPart

theorem Canonical.freeze {q} (h : Canonical s) : Canonical (s.freeze q) := h.modPart.clearStalls

end Sys2Proof.Claims
end

section
/-! SUPPORT. Canonical form is kept, part 4: ropes, launches, retirement, saves and the dispatcher. -/

namespace Sys2Proof.Claims

open Sys2Proof Sys2Proof.Machine

set_option Elab.async false

variable {s : State}

/-! ## Ropes -/

theorem Canonical.descRead {r} (h : Canonical s) : Canonical (s.descRead r) := h.readHome

theorem Canonical.writeDescWord {w r o v} (h : Canonical s) : Canonical (s.writeDescWord w r o v) := by
  unfold State.writeDescWord
  exact h.writeHome

theorem Canonical.putRope {r k} (h : Canonical s) : Canonical (s.putRope r k) := by
  unfold State.putRope
  exact ((Canonical.ite h.writeDescWord h).when fun h => h.writeDescWord).setRope _ _

theorem Canonical.ropeFaultRecord {r} (h : Canonical s) : Canonical (s.ropeFaultRecord r) := by
  unfold State.ropeFaultRecord
  exact h.frame.routeFault

theorem Canonical.ropeFault {r code} (h : Canonical s) : Canonical (s.ropeFault r code) := .ite h h.putRope.ropeFaultRecord

theorem Canonical.settleRope {r} (h : Canonical s) : Canonical (s.settleRope r) := by
  unfold State.settleRope
  exact h.putRope.when fun h => h.ropeFaultRecord

theorem Canonical.updRope {r f} (h : Canonical s) : Canonical (s.updRope r f) := by
  unfold State.updRope
  exact h.putRope.when fun h => h.ropeFaultRecord

theorem Canonical.holdRecord {r addr code} (h : Canonical s) : Canonical (s.holdRecord r addr code) := h.updRope

theorem Canonical.ropeView {r} (h : Canonical s) : Canonical (s.ropeView r).2 := by
  unfold State.ropeView
  exact .ite_snd h (h.frame.when fun h => h.descRead)

theorem Canonical.ropeRead {who r asid va n} {res} (h : Canonical s) (e : s.ropeRead who r asid va n = res) :
    RopeRdKept res := by
  subst e
  dsimp only [State.ropeRead]
  split
  · next e => exact .ite (h.hubAccess e).readHome (h.hubAccess e).readHome
  · next e => exact h.hubAccess e
  · next e => exact h.hubAccess e

theorem Canonical.latchWait {r addr k} (h : Canonical s) : Canonical (s.latchWait r addr k) := by
  dsimp only [State.latchWait]
  split
  · exact h
  · split
    · exact h
    · split
      · exact h.modRope
      · split
        · next e => exact h.ropeView.ropeRead e
        · next e => exact (h.ropeView.ropeRead e).holdRecord
        · next e =>
          have hx : Canonical _ := h.ropeView.ropeRead e
          exact .ite hx.holdRecord (.ite hx.modRope hx)

theorem Canonical.latchAll {r} (h : Canonical s) : Canonical (s.latchAll r) :=
  h.foldl fun _ _ h => h.foldl fun _ _ h => h.latchWait

theorem Canonical.ropeStart {r} (h : Canonical s) : Canonical (s.ropeStart r) := by
  unfold State.ropeStart
  exact .ite (h.descRead.setRope _ _).ropeFault (h.descRead.setRope _ _).putRope

theorem NextCanonical.execRopeEnable {r} (h : Canonical s) : NextCanonical (execRopeEnable r s) := by
  unfold Machine.execRopeEnable
  exact .next ((Canonical.ite h h.writeDescWord).when fun h => h.ropeStart)

theorem Canonical.resumeStopped {task} (h : Canonical s) : Canonical (s.resumeStopped task) :=
  h.foldl fun _ _ h => .ite h.modCtx h

theorem Canonical.unstop {task} (h : Canonical s) : Canonical (s.unstop task) := by
  dsimp only [State.unstop]
  split
  · exact .ite (h.modTask.unless fun h => h.resumeStopped) h
  · exact h

theorem Canonical.withdraw {p} (h : Canonical s) : Canonical (s.withdraw p) := by
  dsimp only [State.withdraw]
  refine h.frame.foldl fun _ _ h => .ite h ?_
  split
  · exact .ite h h.unstop
  · exact h

theorem Canonical.withdrawIf {c} (h : Canonical s) : Canonical (s.withdrawIf c) := h.foldl fun _ _ h => h.withdraw

theorem NextCanonical.execRopeDisable {r} (h : Canonical s) : NextCanonical (execRopeDisable r s) := by
  unfold Machine.execRopeDisable
  exact .ite (.next (Canonical.ite h.writeDescWord h).putRope.withdrawIf.forgetRope) (.next (.ite h.writeDescWord h))

theorem NextCanonical.execHeadWrite {r head} (h : Canonical s) : NextCanonical (execHeadWrite r head s) := by
  unfold Machine.execHeadWrite
  exact .ite (.ite (.next ((h.descRead.unless fun h => h.writeDescWord).setRope _ _).ropeFault)
    (.next (h.descRead.unless fun h => h.writeDescWord).putRope)) (.next h)

theorem NextCanonical.execDescriptorWriteObserved {r} (h : Canonical s) :
    NextCanonical (execDescriptorWriteObserved r s) := by
  unfold Machine.execDescriptorWriteObserved
  exact .ite (.next (h.descRead.modRope.when fun h => h.ropeFault)) (.next h)

theorem Canonical.followNext {r addr next} (h : Canonical s) : Canonical (s.followNext r addr next) :=
  .ite h.updRope h.updRope

theorem NextCanonical.execNextWordObserved {r} (h : Canonical s) : NextCanonical (execNextWordObserved r s) := by
  dsimp only [Machine.execNextWordObserved]
  split
  · split
    · exact .next h
    · split
      · next e => exact .next (h.ropeView.ropeRead e)
      · next e => exact .next (h.ropeView.ropeRead e).followNext
      · next e => exact .next (.ite (h.ropeView.ropeRead e) (h.ropeView.ropeRead e).followNext)
  · exact .next h

theorem Canonical.takeRecord {r addr n vtab} (h : Canonical s) : Canonical (s.takeRecord r addr n vtab) := by
  unfold State.takeRecord
  exact h.modRope.settleRope.latchAll

theorem Canonical.fetchBad {r a} (h : Canonical s) : Canonical (s.fetchBad r a) := .ite h.modRope.followNext h.updRope

theorem NextCanonical.execRecordFetch {r} (h : Canonical s) : NextCanonical (execRecordFetch r s) := by
  dsimp only [Machine.execRecordFetch]
  split
  · split
    · next e => exact .next (h.ropeView.ropeRead e)
    · next e => exact .next (h.ropeView.ropeRead e).fetchBad
    · next e =>
      have hx : Canonical _ := h.ropeView.ropeRead e
      exact .ite (.next (.ite hx.modRope.settleRope hx.modRope.followNext)) (.next hx.takeRecord)
  · exact .next h

/-! ## Reads for a task -/

theorem SupRdKept.of_ok {r : SupRd} {v t} (h : SupRdKept r) (e : r = .ok v t) : Canonical t := by
  subst e
  exact h

theorem Canonical.supRead {who pays core asid task va n fuel r} (h : Canonical s)
    (e : s.supRead who pays core asid task va n fuel = r) : SupRdKept r := by
  subst e
  induction fuel generalizing s va n with
  | zero => exact h
  | succ fuel ih =>
    dsimp only [State.supRead]
    refine .ite h ?_
    split
    · next e => exact h.hubAccess e
    · next e => exact h.hubAccess e
    · next e =>
      have hx : Canonical _ := h.hubAccess e
      refine .ite hx.readHome ?_
      split
      · next e2 => exact SupRdKept.of_ok (ih hx.readHome) e2
      · exact ih hx.readHome

theorem SupRdKept.bind {r : SupRd} {f} (h : SupRdKept r) (hf : ∀ v t, Canonical t → SupRdKept (f v t)) :
    SupRdKept (r.bind f) := by
  cases r with
  | ok v s => exact hf _ _ h
  | _ => exact h

/-! ## Placement and launch -/

theorem Canonical.place {t tes rooms} (h : Canonical s) : Canonical (s.place t tes rooms) := by
  unfold State.place
  exact (((h.foldl fun _ _ h => h.tuneCore).foldl fun _ _ h => h.debit).foldl fun _ _ h => .ite (h.setLink _ _) h).frame

theorem Canonical.returnCredit {task} (h : Canonical s) : Canonical (s.returnCredit task) := by
  dsimp only [State.returnCredit]
  split
  · exact h
  · exact (h.foldl fun _ _ h => h.credit).modTask

theorem Canonical.beginSave {task} (h : Canonical s) : Canonical (s.beginSave task) := h.returnCredit.modTask

theorem Canonical.freeTeam {core task} (h : Canonical s) : Canonical (s.freeTeam core task) := by
  dsimp only [State.freeTeam]
  split
  · exact h
  · exact ((h.foldl fun _ _ h => h.setCtx _ _).foldl fun _ _ h => h.setPart _ _).frame.onCore
      fun _ k => k.clearRange.clearRange.frame

theorem Canonical.freeTeams {t} (h : Canonical s) : Canonical (s.freeTeams t) := h.foldl fun _ _ h => h.freeTeam

theorem Canonical.freeLinks {task} (h : Canonical s) : Canonical (s.freeLinks task) :=
  h.foldl fun _ _ h => .ite (h.setLink _ _) h

theorem Canonical.recordBack {t} (h : Canonical s) : Canonical (s.recordBack t) := by
  dsimp only [State.recordBack]
  exact .ite (.ite h.putRope.ropeFaultRecord h.putRope) (.ite h.putRope h.putRope)

theorem Canonical.launchFail {t} (h : Canonical s) : Canonical (s.launchFail t) := by
  unfold State.launchFail
  exact .ite h.returnCredit.freeTeams.freeLinks.frame.recordBack
    (h.returnCredit.freeTeams.when fun h => h.freeLinks).modTask.ropeFault

theorem SupRdKept.load {r : SupRd} {k} (h : SupRdKept r) (hk : ∀ v t, Canonical t → LoadKept (k v t)) :
    LoadKept (r.load k) := by
  cases r with
  | ok v s => exact hk _ _ h
  | _ => exact h

theorem Canonical.imageRead {t core off n} {res} (h : Canonical s) (e : s.imageRead t core off n = res) : SupRdKept res := by
  subst e
  unfold State.imageRead
  exact h.supRead rfl

theorem Canonical.readTexts {t core l k r} (h : Canonical s) (hk : ∀ x t, Canonical t → LoadKept (k x t))
    (e : s.readTexts t core l k = r) : LoadKept r := by
  subst e
  induction l generalizing s k with
  | nil => exact hk _ _ h
  | cons te r ih => exact (h.imageRead rfl).load fun _ _ h => ih h fun _ _ h => hk _ _ h

theorem StoresWf.zeroWindows {c : Core} {t} (h : StoresWf c) : StoresWf (c.zeroWindows t) :=
  have hc := (h.clearRange (vault := false) (lo := t.spadBase / 4) (n := t.spadSize / 4)).clearRange
    (vault := true) (lo := t.vaultBase / 4) (n := t.vaultSize / 4)
  ⟨Memory.wf_clearRange _ _ _ hc.1, Memory.wf_clearRange _ _ _ hc.2⟩

theorem Canonical.loadChunks {t team l k r} (h : Canonical s) (hk : ∀ t, Canonical t → LoadKept (k t))
    (e : s.loadChunks t team l k = r) : LoadKept r := by
  subst e
  induction l generalizing s with
  | nil => exact hk _ h
  | cons c r ih => exact (h.imageRead rfl).load fun _ _ h => ih (h.onCore fun _ k => k.wrStore)

theorem Canonical.withImage {t core pos k res} (h : Canonical s) (hk : ∀ i t, Canonical t → LoadKept (k i t))
    (e : s.withImage t core pos k = res) : LoadKept res := by
  subst e
  refine (h.imageRead rfl).load fun _ _ h => ?_
  refine .ite h ((h.imageRead rfl).load fun _ _ h => ?_)
  refine .ite h ((h.imageRead rfl).load fun _ _ h => ?_)
  refine (h.imageRead rfl).load fun _ _ h => ?_
  refine (h.imageRead rfl).load fun _ _ h => ?_
  refine (h.imageRead rfl).load fun _ _ h => ?_
  refine (h.imageRead rfl).load fun _ _ h => ?_
  refine (h.imageRead rfl).load fun _ _ h => ?_
  refine .ite h (h.readTexts (fun _ _ h => ?_) rfl)
  exact .ite h (.ite h (hk _ _ h))

theorem StoresWf.startEngines {c : Core} {te fmt} (h : StoresWf c) : StoresWf (c.startEngines te fmt) := h.frame

theorem Canonical.armFresh {t team} {res} (h : Canonical s) (e : s.armFresh t team = res) : LoadKept res := by
  subst e
  dsimp only [State.armFresh]
  refine h.withImage (fun _ _ h => ?_) rfl
  refine (h.onCore (fun _ k => k.zeroWindows.startEngines)).loadChunks (fun _ h => ?_) rfl
  exact (((h.foldl fun _ _ h => h.enterMap).foldl fun _ _ h => h.setPart _ _).foldl fun _ _ h => h.setCtx _ _).onCore
    fun _ k => k.modTeam

theorem Canonical.installSplices {asid v n} (h : Canonical s) : Canonical (s.installSplices asid v n).2 := by
  induction n with
  | zero => exact h
  | succ n ih =>
    dsimp only [State.installSplices]
    refine .ite_snd ih ?_
    split
    · exact .ite_snd ih ih
    · exact ih.install

theorem Canonical.acquireWaits {t slices} (h : Canonical s) : Canonical (s.acquireWaits t slices) :=
  h.foldl fun _ _ h => h.foldl fun _ _ h => h.raisePts

theorem Canonical.acquireOpen {t n r} (h : Canonical s) (e : State.acquireOpen t n s = r) : LoadKept r := by
  subst e
  induction n generalizing s with
  | zero => exact h
  | succ n ih =>
    dsimp only [State.acquireOpen]
    refine .ite (ih h) ?_
    split
    · next e => exact ih (h.ropeView.hubAccess e).acquireWaits
    · next e => exact h.ropeView.hubAccess e
    · next e => exact ih (h.ropeView.hubAccess e)

theorem LoadKept.bind {r : Load} {f} (h : LoadKept r) (hf : ∀ t, Canonical t → LoadKept (f t)) :
    LoadKept (r.bind f) := by
  cases r with
  | done s => exact hf _ h
  | _ => exact h

theorem Canonical.begun {t} (h : Canonical s) : Canonical (s.begun t) := h.modTask

theorem Canonical.beginTask {t res} (h : Canonical s) (e : s.beginTask t = res) : LoadKept res := by
  subst e
  refine .ite h (.ite h.begun.frame ((h.acquireOpen rfl).bind fun _ h => ?_))
  refine (h.imageRead rfl).load fun _ _ h => ?_
  refine (h.imageRead rfl).load fun _ _ h => ?_
  refine .ite (Canonical.ite h h.monPut) (.ite (Canonical.begun ?_) ?_) <;>
    exact (Canonical.ite h.monTake h).installSplices

theorem NextCanonical.execLaunchFailure {task pos} (h : Canonical s) : NextCanonical (execLaunchFailure task pos s) := by
  dsimp only [Machine.execLaunchFailure]
  refine .next ?_
  split
  · exact .ite h.launchFail h
  · exact h

/-! ## Retirement and variant switches -/

theorem Canonical.unmapTeam {core task} (h : Canonical s) : Canonical (s.unmapTeam core task) := by
  dsimp only [State.unmapTeam]
  split
  · exact h
  · exact h.foldl fun _ _ h => .ite h.unmapEntry h

theorem Canonical.windDown {t} (h : Canonical s) : Canonical (s.windDown t).2 := by
  unfold State.windDown
  exact h.foldl fun _ _ h => h.unmapTeam

theorem Canonical.discardFlits {p} (h : Canonical s) : Canonical (s.discardFlits p) := by
  unfold State.discardFlits
  exact (h.setLink _ _).foldl fun _ _ h => h.send

theorem Canonical.discardAll {task} (h : Canonical s) : Canonical (s.discardAll task).2 :=
  .foldl_snd h fun _ _ h => .ite_snd h.discardFlits h

theorem Canonical.logRetired {r e} (h : Canonical s) : Canonical (s.logRetired r e) :=
  { h with retlog := SMap.wf_set _ _ _ _ h.retlog }

theorem Canonical.leaveTask {t status tclass sigs} (h : Canonical s) : Canonical (s.leaveTask t status tclass sigs) := by
  unfold State.leaveTask
  exact h.discardAll.putRope.logRetired.freeLinks.forgetTask.withdrawIf.settleRope.modTask

theorem Canonical.signal {t i} (h : Canonical s) : Canonical (s.signal t i).2 := by
  dsimp only [State.signal]
  split
  · next e => exact h.ropeView.hubAccess e
  · next e => exact h.ropeView.hubAccess e
  · next e => exact .ite_snd (h.ropeView.hubAccess e).readHome.ropeFault (h.ropeView.hubAccess e).readHome.writeHome

theorem Canonical.signalTask {t} (h : Canonical s) : Canonical (s.signalTask t) := by
  dsimp only [State.signalTask]
  split
  · exact h.frame
  · split
    · exact h.signal
    · split
      · exact h.signal.frame
      · exact .ite h.signal.signal.frame h.signal.signal.modTask

theorem Canonical.retireStep {t} (h : Canonical s) : Canonical (s.retireStep t) := by
  dsimp only [State.retireStep]
  split
  · exact h.signalTask
  · split
    · split
      · split
        · exact h.windDown.returnCredit.freeTeams.leaveTask.signalTask
        · exact h.windDown.returnCredit.freeTeams.leaveTask
      · exact h.windDown
    · exact h

theorem NextCanonical.execTaskRetire {task} (h : Canonical s) : NextCanonical (execTaskRetire task s) := by
  dsimp only [Machine.execTaskRetire]
  refine .next ?_
  split
  · exact h.retireStep
  · exact h

theorem Canonical.dropTeam {core task} (h : Canonical s) : Canonical (s.dropTeam core task) := h.frame.freeTeam

theorem Canonical.terminate {t cores tclass} (h : Canonical s) : Canonical (s.terminate t cores tclass) := by
  dsimp only [State.terminate]
  split
  · exact (h.foldl fun _ _ h => h.dropTeam).modTask
  · exact (h.foldl fun _ _ h => h.dropTeam).modTask.when fun h => h.returnCredit.leaveTask.frame

theorem Canonical.stopHal {core} (h : Canonical s) : Canonical (s.stopHal core) := h.modHal

theorem Canonical.switchStep {t} (h : Canonical s) : Canonical (s.switchStep t) := by
  dsimp only [State.switchStep]
  split
  · exact h
  · split
    · split
      · split
        · next e => exact h.ropeView.ropeRead e
        · next e => exact (h.ropeView.ropeRead e).modTask
        · next e => exact (h.ropeView.ropeRead e).modTask
      · exact h
    · split
      · split
        · split
          · refine .modTask (.freeLinks (.freeTeams (.returnCredit (.windDown (h.foldl fun _ _ h => ?_)))))
            split
            · exact .ite h.stopHal h
            · exact h
          · refine .windDown (h.foldl fun _ _ h => ?_)
            split
            · exact .ite h.stopHal h
            · exact h
        · refine h.foldl fun _ _ h => ?_
          split
          · exact .ite h.stopHal h
          · exact h
      · exact h

theorem NextCanonical.execVariantSwitch {task} (h : Canonical s) : NextCanonical (execVariantSwitch task s) := by
  dsimp only [Machine.execVariantSwitch]
  refine .next ?_
  split
  · exact h.switchStep
  · exact h

/-! ## Save areas -/

theorem Canonical.debitLines {pa core task n} (h : Canonical s) : Canonical (s.debitLines pa core task n) := by
  induction n generalizing s pa with
  | zero => exact h
  | succ n ih => exact ih h.dramAccess

theorem putContexts_wf {m a free l} (hm : Memory.wf m = true) : Memory.wf (s.putContexts m a free l) = true := by
  induction l generalizing m a with
  | nil => exact hm
  | cons x r ih => exact ih (Memory.wf_putWords _ _ _ (Memory.wf_putWords _ _ _ hm))

/-- The bytes of a team's block leave the memory in canonical form (R377). -/
theorem putBlock_wf {m a u frozen cmds} (hm : Memory.wf m = true) : Memory.wf (s.putBlock m a u frozen cmds) = true := by
  have hh : Memory.wf (m.putWords a ((List.range 0x200).map (headWord u frozen (s.core u.core) cmds.length))) = true :=
    Memory.wf_putWords _ _ _ hm
  refine Memory.wf_putWords _ _ _ (Memory.wf_putWindow _ _ _ (Memory.wf_putWindow _ _ _ (Memory.wf_clearRange _ _ _
    (putContexts_wf ?_))))
  exact iteInduction (motive := fun m => Memory.wf m = true) (fun _ => Memory.wf_putWords _ _ _ hh) (fun _ => hh)

theorem keepTable_wf {m} (hm : Memory.wf m = true) : Memory.wf (s.keepTable m) = true := by
  unfold State.keepTable
  split
  · exact hm
  · exact Memory.wf_putWindow _ _ _ (Memory.wf_clearRange _ _ _ hm)

theorem Canonical.writeBlock {task u page frozen cmds} (h : Canonical s) :
    Canonical (s.writeBlock task u page frozen cmds) :=
  .debitLines { h with dram := keepTable_wf (putBlock_wf h.dram) }

/-! ## Saves and restores of teams -/

theorem Canonical.flushTeam {u} (h : Canonical s) : Canonical (s.flushTeam u) := by
  unfold State.flushTeam
  exact (h.onCore (fun _ k => k.modTeam)).foldl fun _ _ h => h.flushEntry

theorem Canonical.saveTeam {t u page frozen} (h : Canonical s) : Canonical (s.saveTeam t u page frozen) := by
  dsimp only [State.saveTeam]
  split
  · exact h.writeBlock.frame.freeTeam.modTask
  · exact h.writeBlock.frame.freeTeam.modTask.when fun h => h.modTask

theorem Canonical.saveStep {t core page frozen} (h : Canonical s) : Canonical (s.saveStep t core page frozen) := by
  dsimp only [State.saveStep]
  split
  · exact h
  · exact ((h.onCore (fun _ k => k.modTeam)).when fun h => h.stopHal).unless fun h => .ite h.flushTeam (.ite h.saveTeam h)

theorem Canonical.autoSave {t} (h : Canonical s) : Canonical (s.autoSave t) := by
  dsimp only [State.autoSave]
  refine h.foldl fun _ _ h => ?_
  split
  · exact h.saveStep
  · exact h

theorem Canonical.savesStep (h : Canonical s) : Canonical s.savesStep := by
  dsimp only [State.savesStep]
  refine h.foldl fun _ _ h => ?_
  split
  · exact .ite h.autoSave h
  · exact h

theorem Canonical.preemptOne {p} (h : Canonical s) : Canonical (s.preemptOne p) := by
  unfold State.preemptOne
  exact h.frame.when fun h => h.foldl fun _ _ h => .ite h.beginSave h

theorem Canonical.preemptStep (h : Canonical s) : Canonical s.preemptStep :=
  (Canonical.ite h (h.foldl fun _ _ h => h.preemptOne)).savesStep

theorem Canonical.requeue {u p} (h : Canonical s) : Canonical (s.requeue u p) := by
  unfold State.requeue
  exact h.onCore fun _ k => k.setEng

/-- A team's windows take saved bytes: the stores stay in canonical form (R380). -/
theorem StoresWf.restored {c : Core} {t : Team} {spad vault : Memory} (h : StoresWf c) : StoresWf { c.zeroWindows t with
      spad := Memory.putWindow (c.zeroWindows t).spad t.spadBase spad
      vault := Memory.putWindow (c.zeroWindows t).vault t.vaultBase vault } :=
  ⟨Memory.wf_putWindow _ _ _ h.zeroWindows.1, Memory.wf_putWindow _ _ _ h.zeroWindows.2⟩

theorem Canonical.restoreTeam {t u res} (h : Canonical s) (e : s.restoreTeam t u = res) : LoadKept res := by
  subst e
  unfold State.restoreTeam
  split
  · exact h
  · refine .ite h.findMem (h.findMem.withImage (fun _ _ h => ?_) rfl)
    refine Canonical.onCore ?_ fun _ k => k.modTeam
    refine .foldl (.foldl (Canonical.frame (.foldl (.foldl ?_ fun _ _ h => .ite h.frame.enterBight h)
      fun _ _ h => h.requeue)) fun _ _ h => h.setPart _ _) fun _ _ h => h.setCtx _ _
    exact h.debitLines.onCore fun _ k => k.restored.frame

theorem Canonical.armTeam {t pos} (h : Canonical s) : Canonical (s.armTeam t pos) := by
  dsimp only [State.armTeam]
  refine .ite h ?_
  split
  · exact h
  · next u _ =>
    have hr : LoadKept (if u.armed then .done s else if t.was = .saved then s.restoreTeam t u else s.armFresh t u) :=
      .ite h (.ite (h.restoreTeam rfl) (h.armFresh rfl))
    split
    · next e => exact (show LoadKept (.wait _) from e ▸ hr)
    · next e => exact Canonical.launchFail (show LoadKept (.bad _) from e ▸ hr)
    · next r e =>
      have hd : Canonical r := (show LoadKept (.done r) from e ▸ hr)
      split
      · next e => exact hd.beginTask e
      · next e => exact hd.beginTask e
      · next e => exact (hd.beginTask e).launchFail

theorem NextCanonical.execTeamArmed {task pos} (h : Canonical s) : NextCanonical (execTeamArmed task pos s) := by
  dsimp only [Machine.execTeamArmed]
  refine .next ?_
  split
  · exact h.armTeam
  · exact h

/-! ## The dispatcher's choice -/

theorem Canonical.teamsRead {core t} {res} (h : Canonical s) (e : s.teamsRead core t = res) : SupRdKept res := by
  subst e
  dsimp only [State.teamsRead]
  refine (h.supRead rfl).bind (fun _ _ h => ?_)
  split
  · exact h
  · refine (h.supRead rfl).bind (fun _ _ h => ?_)
    exact .ite h h

theorem Canonical.badImage {t} (h : Canonical s) : Canonical (s.badImage t) := .ite h.holdRecord h.ropeFault

theorem Canonical.fit {t bases} (h : Canonical s) : Canonical (s.fit t bases).2 := by
  dsimp only [State.fit]
  split
  · next e => exact h.teamsRead e
  · next e => exact (h.teamsRead e).badImage
  · next e =>
      refine .ite_snd (h.teamsRead e) ?_
      split
      · exact h.teamsRead e
      · exact .ite_snd (h.teamsRead e) (h.teamsRead e)

theorem Canonical.substitute {t bases ready} (h : Canonical s) : Canonical (s.substitute t bases ready).2 := by
  dsimp only [State.substitute]
  refine .ite_snd h.ropeFault ?_
  split
  · next e => exact h.ropeView.ropeRead e
  · next e => exact (h.ropeView.ropeRead e).holdRecord
  · next e =>
    have hx : Canonical _ := h.ropeView.ropeRead e
    exact .ite_snd hx.ropeFault (.ite_snd hx.fit hx)

theorem Canonical.judge {t ready} (h : Canonical s) : Canonical (s.judge t ready).2 := by
  unfold State.judge
  exact .ite_snd h.ropeFault (.ite_snd h.substitute (.ite_snd h.fit h))

theorem Canonical.scan {r l c} (h : Canonical s) : Canonical (s.scan r l c).2.2 := by
  induction l generalizing s c with
  | nil => exact h
  | cons a rest ih =>
    unfold State.scan
    split
    · exact h
    · split
      · next e => exact .of_snd h.judge e
      · next e => exact ih (.of_snd h.judge e)
      · next e => exact ih (.of_snd h.judge e)

theorem Canonical.lookOver {l k} (h : Canonical s) : Canonical (s.lookOver l k).2 := by
  induction l generalizing s k with
  | nil => exact h
  | cons r rest ih =>
    dsimp only [State.lookOver]
    refine .ite_snd (ih h) ?_
    have hs := h.scan (r := r) (l := s.candidates r) (c := [])
    split
    · next e => exact ih (by rw [e] at hs; exact hs)
    · next e => exact ih (by rw [e] at hs; exact hs)

theorem Canonical.startTask {t tes rooms} (h : Canonical s) : Canonical (s.startTask t tes rooms) := by
  have hr {u : State} {n r} (h : Canonical u) : Canonical { u with lastRope := SMap.set 255 u.lastRope n r } :=
    { h with lastRope := SMap.wf_set _ _ _ _ h.lastRope }
  exact ((hr (h.frame.place.acquireWaits.when fun h => h.frame.wonusLog)).when fun h => h.updRope).withdrawIf

theorem Canonical.preemptFor {c} (h : Canonical s) : Canonical (s.preemptFor c) := by
  dsimp only [State.preemptFor]
  split
  · exact h
  · exact h.frame.foldl fun _ _ h => h.modTask

theorem Canonical.tryPreempt {n l} (h : Canonical s) : Canonical (s.tryPreempt n l) := by
  induction n generalizing l with
  | zero => exact h
  | succ n ih =>
    unfold State.tryPreempt
    split
    · exact h
    · exact .ite h.preemptFor ih

theorem NextCanonical.execDispatchChoice (h : Canonical s) : NextCanonical (execDispatchChoice s) := by
  dsimp only [Machine.execDispatchChoice]
  split
  · exact .next h
  · refine .next (.tryPreempt ?_)
    split
    · exact h.lookOver.startTask
    · exact h.lookOver

end Sys2Proof.Claims
end

section
/-! SUPPORT. Canonical form is kept, part 5: the governor, faults, the host, supervisors, the monitor, checkpoints and registers. -/

namespace Sys2Proof.Claims

open Sys2Proof Sys2Proof.Machine

set_option Elab.async false

variable {s : State}

/-! ## The governor and the feeds -/

theorem Canonical.debitMeasured {m} (h : Canonical s) : Canonical (s.debitMeasured m) := by
  unfold State.debitMeasured
  exact h.modIsland.foldl fun _ _ h => h.modTask

theorem Canonical.grant {p} (h : Canonical s) : Canonical (s.grant p) := h.modIsland

theorem Canonical.raiseThrottle {c aop} (h : Canonical s) : Canonical (s.raiseThrottle c aop) := by
  dsimp only [State.raiseThrottle]
  refine h.foldl fun _ _ h => h.foldl fun _ _ h => ?_
  split
  · exact h.foldl fun _ _ h => h.modCtx
  · exact h

theorem Canonical.boundaryCore {gi n c} (h : Canonical s) : Canonical (s.boundaryCore gi n c) := by
  unfold State.boundaryCore
  exact (h.setIsland _ _).frame.tuneCore.when fun h => h.raiseThrottle

theorem Canonical.applyTabs (h : Canonical s) : Canonical s.applyTabs :=
  have ht : Canonical (s.newTabs.foldl (fun (s : State) (w : Bool × Nat × Word) =>
      if w.1 then { s with tct := SMap.set 0 s.tct w.2.1 w.2.2 }
      else { s with ecls := SMap.set 0 s.ecls w.2.1 w.2.2 }) s) :=
    h.foldl fun _ _ h => .ite { h with tct := SMap.wf_set _ _ _ _ h.tct } { h with ecls := SMap.wf_set _ _ _ _ h.ecls }
  { ht with }

theorem Canonical.power {n} (h : Canonical s) : Canonical (s.power n) := by
  unfold State.power
  exact h.frame

theorem NextCanonical.execGovernorBoundary {gi} (h : Canonical s) : NextCanonical (execGovernorBoundary gi s) := by
  unfold Machine.execGovernorBoundary
  exact .next (((h.applyTabs.frame.foldl fun _ _ h => h.debitMeasured).foldl fun _ _ h => h.grant).foldl
    fun _ _ h => h.boundaryCore).power.frame

theorem NextCanonical.execOpHopComplete {c} (h : Canonical s) : NextCanonical (execOpHopComplete c s) := by
  dsimp only [Machine.execOpHopComplete]
  split
  · exact .next h
  · exact .next h.frame.tuneCore

theorem NextCanonical.execRailFault {grp} (h : Canonical s) : NextCanonical (execRailFault grp s) := by
  unfold Machine.execRailFault
  exact .next (h.frame.foldl fun _ _ h => h.modIsland.tuneCore)

theorem Canonical.powerOff (h : Canonical s) : Canonical s.powerOff := { canonical_reset with hostMem := h.hostMem }

theorem NextCanonical.execFeedOutOfRange {f} (h : Canonical s) : NextCanonical (execFeedOutOfRange f s) :=
  .ite (.next h) (.ite (.next h.frame) (.next (h.frame.send.when fun h => h.powerOff)))

theorem NextCanonical.execFeedLoss (h : Canonical s) : NextCanonical (execFeedLoss s) := by
  unfold Machine.execFeedLoss
  exact .next (h.frame.unless fun h => h.powerOff)

theorem NextCanonical.execFeedOvervoltage {f} (h : Canonical s) : NextCanonical (execFeedOvervoltage f s) :=
  .ite (.next h) (.next (h.frame.unless fun h => h.powerOff))

theorem NextCanonical.execModcapWrite {v} (h : Canonical s) : NextCanonical (execModcapWrite v s) := .next h.frame

theorem NextCanonical.execRailfltClear {v} (h : Canonical s) : NextCanonical (execRailfltClear v s) := .next h.frame

theorem NextCanonical.execDrpcntRead {c} (h : Canonical s) : NextCanonical (execDrpcntRead c s) := by
  unfold Machine.execDrpcntRead
  exact .next h.tuneCore.send

theorem Canonical.fencedOut (h : Canonical s) : Canonical s.fencedOut := h.foldl fun _ _ h => .ite (h.setPeer _ _) h

theorem NextCanonical.execArbitrationRound (h : Canonical s) : NextCanonical (execArbitrationRound s) :=
  .ite (.next h) (.next ((((h.setPeer _ _).foldl fun _ _ h => h.setPeer _ _).fencedOut.foldl
    fun _ _ h => h.setPeer _ _).setPeer _ _).frame.send)

/-! ## Answers to faults -/

theorem Canonical.endOps {k fid} (h : Canonical s) : Canonical (s.endOps k fid) := h.frame

theorem Canonical.endCmds {k fid} (h : Canonical s) : Canonical (s.endCmds k fid) := by
  unfold State.endCmds
  exact h.foldl fun _ _ h => h.tuneCore

theorem Canonical.endHub {k fid} (h : Canonical s) : Canonical (s.endHub k fid) := h.frame

theorem Canonical.endWaiters {k fid} (h : Canonical s) : Canonical (s.endWaiters k fid) := h.endOps.endCmds.endHub

theorem Canonical.retryWaiters {fid} (h : Canonical s) : Canonical (s.retryWaiters fid) := by
  unfold State.retryWaiters
  exact h.frame.foldl fun _ _ h => h.tuneCore

theorem Canonical.answer {f perm} (h : Canonical s) : Canonical (s.answer f perm) := by
  unfold State.answer
  exact .ite h.frame.endWaiters h.frame.retryWaiters

theorem NextCanonical.execFaultAnswer {fid res} (h : Canonical s) : NextCanonical (execFaultAnswer fid res s) := by
  dsimp only [Machine.execFaultAnswer]
  split
  · exact .next h.frame
  · exact .next (h.frame.when fun h => h.answer)

theorem Canonical.atsFault {q kind} (h : Canonical s) : Canonical (s.atsFault q kind) := by
  dsimp only [State.atsFault]
  split
  · next e => exact (Canonical.of_snd h.faultAt e).endWaiters
  · next e => exact .of_snd h.faultAt e

theorem Canonical.atsMissing {q} (h : Canonical s) : Canonical (s.atsMissing q) := by
  unfold State.atsMissing
  exact .ite h.frame.send h.atsFault

theorem Canonical.cacheAts {q pa bits w} (h : Canonical s) : Canonical (s.cacheAts q pa bits w) := by
  dsimp only [State.cacheAts]
  split
  · exact h.frame
  · exact h

theorem NextCanonical.execAtsCompletion {asid va a w} (h : Canonical s) :
    NextCanonical (execAtsCompletion asid va a w s) := by
  dsimp only [Machine.execAtsCompletion]
  split
  · exact .next h
  · refine .next ?_
    split
    · exact .ite h.frame.atsMissing h.frame.cacheAts
    · exact h.frame.atsMissing
    · exact h.frame.atsFault

theorem NextCanonical.execPageRequestResponse {prg code} (h : Canonical s) :
    NextCanonical (execPageRequestResponse prg code s) := by
  dsimp only [Machine.execPageRequestResponse]
  split
  · exact .next h
  · exact .next (h.frame.unless fun h => h.frame.atsFault)

/-! ## The host's port -/

theorem Canonical.hubTake {x va w} (h : Canonical s) : Canonical (s.hubTake x va w).2 := by
  dsimp only [State.hubTake]
  split
  · exact h.walked
  · exact h.askAts
  · exact h

theorem Canonical.hubXlate {va w} (h : Canonical s) : Canonical (s.hubXlate va w).2 := h.hubTake

theorem Canonical.statusXlate {va} (h : Canonical s) : Canonical (s.statusXlate va).2 := h.hubTake

theorem NextCanonical.execFaultRecordWrite (h : Canonical s) : NextCanonical (execFaultRecordWrite s) := by
  dsimp only [Machine.execFaultRecordWrite]
  split
  · exact .next h
  · split
    · exact .next h
    · split
      · next e => exact .next (Canonical.of_snd h.hubXlate e)
      · next e => exact .next (Canonical.of_snd h.hubXlate e).writeHome.frame

theorem SramWf.addFault {u : Sup} (h : SramWf u) : SramWf u.addFault := by
  unfold Sup.addFault
  split
  · exact h
  · exact .ite h (Memory.wf_wrN _ _ _ _ h)

theorem NextCanonical.execFqHeadWrite {v} (h : Canonical s) : NextCanonical (execFqHeadWrite v s) := .next h.frame

theorem NextCanonical.execTqHeadWrite {k v} (h : Canonical s) : NextCanonical (execTqHeadWrite k v s) := .next h.tuneSup

theorem NextCanonical.execSfHeadWrite {k v} (h : Canonical s) : NextCanonical (execSfHeadWrite k v s) := .next h.tuneSup

theorem NextCanonical.execRtEnable {v} (h : Canonical s) : NextCanonical (execRtEnable v s) := by
  unfold Machine.execRtEnable
  exact .next h.frame

theorem NextCanonical.execQuiesce {v} (h : Canonical s) : NextCanonical (execQuiesce v s) := .next h.frame

theorem Canonical.readDesc {va} (h : Canonical s) : Canonical (s.readDesc va).2 := by
  dsimp only [State.readDesc]
  split
  · next e => exact .of_snd h.hubXlate e
  · next e =>
      dsimp only
      exact (Canonical.of_snd h.hubXlate e).readHome

theorem NextCanonical.execMqPush {v} (h : Canonical s) : NextCanonical (execMqPush v s) := by
  unfold Machine.execMqPush
  exact .ite (.next h.frame.frame) (.next h.frame.readDesc.frame)

theorem NextCanonical.execSmqPush {k v} (h : Canonical s) : NextCanonical (execSmqPush k v s) := by
  unfold Machine.execSmqPush
  exact .ite (.next h.tuneSup.tuneSup) (.next h.tuneSup.frame)

theorem NextCanonical.execAtsInvalidation {pasid va npg} (h : Canonical s) :
    NextCanonical (execAtsInvalidation pasid va npg s) := by
  unfold Machine.execAtsInvalidation
  exact .next (.ite h.send h.frame)

/-! ## The maintenance queue -/

theorem Canonical.mqHead (h : Canonical s) : Canonical s.mqHead.2 := by
  dsimp only [State.mqHead]
  split
  · exact h
  · split
    · exact h
    · split
      · next e => exact (Canonical.of_snd h.readDesc e).frame
      · next e => exact .of_snd h.readDesc e
    · exact h

theorem Canonical.unpause (h : Canonical s) : Canonical s.unpause := by
  unfold State.unpause
  exact h.foldl fun _ _ h => h.tuneCore

theorem Canonical.dropPins {p} (h : Canonical s) : Canonical (s.dropPins p) := h.frame

theorem Canonical.unmapAll {asid} (h : Canonical s) : Canonical (s.unmapAll asid) := h.foldl fun _ _ h => h.unmapRoutine

theorem Canonical.respond {ch status rval} (h : Canonical s) : Canonical (s.respond ch status rval) := by
  dsimp only [State.respond]
  split
  · exact h.send
  · exact h.tuneSup

theorem Canonical.tellDone {m d status} (h : Canonical s) : Canonical (s.tellDone m d status).2 := by
  dsimp only [State.tellDone]
  split
  · split
    · next e => exact .of_snd h.statusXlate e
    · next e => exact (Canonical.of_snd h.statusXlate e).writeHome
  · dsimp only
    refine h.modSup fun _ u => ?_
    exact Memory.wf_wrN _ _ _ _ u
  · exact .ite h.send h
  · exact (Canonical.ite h.dropPins.unmapAll.setAsid h).respond

theorem Canonical.mqFinish {m d status} (h : Canonical s) : Canonical (s.mqFinish m d status) := by
  unfold State.mqFinish
  exact h.tellDone.when fun h => h.frame.unpause

theorem Canonical.landFill {id p} (h : Canonical s) : Canonical (s.landFill id p) := by
  dsimp only [State.landFill]
  split
  · exact h
  · split
    · split
      · exact h
      · split
        · exact h.frame.fillAt
        · exact h
    · exact h

theorem Canonical.evict {f p} (h : Canonical s) : Canonical (s.evict f p) := by
  unfold State.evict
  exact (h.foldl fun _ _ h => h.landFill).foldl fun _ _ h => h.recallUnder

theorem Canonical.shootRange {asid page n} (h : Canonical s) : Canonical (s.shootRange asid page n) := by
  unfold State.shootRange
  exact h.evict.dropPins.frame

theorem Canonical.hostBack {p} (h : Canonical s) : Canonical (s.hostBack p) := by
  dsimp only [State.hostBack]
  refine h.foldl fun _ _ h => ?_
  split
  · exact h.frame.backInvalidate.writeHome
  · exact h.frame.backInvalidate

theorem Canonical.flip {p host} (h : Canonical s) : Canonical (s.flip p host) := by
  unfold State.flip
  exact (Canonical.ite h h.hostBack).evict.dropPins.writeHome.frame

theorem Canonical.mqOp {op f} (h : Canonical s) (hf : ∀ m d t, Canonical t → Canonical (f m d t)) :
    Canonical (s.mqOp op f) := by
  dsimp only [State.mqOp]
  split
  · next e =>
    have hm : Canonical _ := .of_snd h.mqHead e
    exact .ite hm (.ite hm.mqFinish (hf _ _ _ hm))
  · next e => exact .of_snd h.mqHead e

theorem NextCanonical.execShoot (h : Canonical s) : NextCanonical (execShoot s) :=
  .next (h.mqOp (fun _ _ _ h => .ite h.shootRange.mqFinish h))

theorem NextCanonical.execFliph (h : Canonical s) : NextCanonical (execFliph s) := by
  dsimp only [Machine.execFliph]
  refine .next (h.mqOp fun _ _ _ h => ?_)
  split
  · exact h.mqFinish
  · exact .ite h.mqFinish (.ite h.flip.mqFinish h)

theorem NextCanonical.execFlipd (h : Canonical s) : NextCanonical (execFlipd s) := by
  dsimp only [Machine.execFlipd]
  refine .next (h.mqOp fun _ _ _ h => ?_)
  split
  · exact h.mqFinish
  · exact .ite h.mqFinish (.ite h.flip.mqFinish h)

theorem NextCanonical.execMaintenanceDescriptorInvalid (h : Canonical s) :
    NextCanonical (execMaintenanceDescriptorInvalid s) := by
  dsimp only [Machine.execMaintenanceDescriptorInvalid]
  refine .next ?_
  split
  · next e => exact .ite (Canonical.of_snd h.mqHead e).mqFinish (.of_snd h.mqHead e)
  · next e => exact .of_snd h.mqHead e

/-! ## Supervisor commands -/

/-- However a command's step ends, only the supervisor's registers take its result (R371). -/
theorem CmdResKept.close {r : CmdRes} {k} (h : CmdResKept r) : Canonical (r.close k) := by
  dsimp only [CmdRes.close]
  split
  · next e => exact h.tuneSup
  · next e => exact h.frame.tuneSup
  · next e => exact h.tuneSup

theorem Canonical.cmdBegin {k w t own f} (h : Canonical s) (hf : ∀ b t u, Canonical u → CmdResKept (f b t u)) :
    Canonical (s.cmdBegin k w t own f) := by
  unfold State.cmdBegin
  refine .ite (CmdResKept.close ?_) (hf _ _ _ h.tuneSup).close
  exact h.tuneSup

theorem Canonical.command {k w code own f} (h : Canonical s) (hf : ∀ b t u, Canonical u → CmdResKept (f b t u)) :
    Canonical (s.command k w code own f) := by
  dsimp only [State.command]
  split
  · exact h
  · split
    · split
      · exact (hf _ _ _ h.tuneSup).close
      · split
        · refine h.tuneSup.tuneSup.cmdBegin (fun _ _ _ h => ?_)
          exact hf _ _ _ h
        · exact h.tuneSup
    · split
      · exact h.tuneSup.tuneSup
      · refine h.tuneSup.cmdBegin (fun _ _ _ h => ?_)
        exact hf _ _ _ h

theorem NextCanonical.execResume {k w} (h : Canonical s) : NextCanonical (execResume k w s) := by
  dsimp only [Machine.execResume]
  refine .next (h.command fun _ _ _ h => ?_)
  exact .ite h.modCtx h

theorem NextCanonical.execWreg {k w} (h : Canonical s) : NextCanonical (execWreg k w s) := by
  dsimp only [Machine.execWreg]
  refine .next (h.command fun _ _ _ h => ?_)
  split
  · exact h
  · split
    · exact h.setCtx _ _
    · exact h

theorem NextCanonical.execStop {k w} (h : Canonical s) : NextCanonical (execStop k w s) := by
  dsimp only [Machine.execStop]
  refine .next (h.command fun _ _ _ h => ?_)
  split
  · exact .ite h.modTask (.ite h.modTask (.ite h h))
  · exact h

theorem Canonical.withdrawStop {t} (h : Canonical s) : Canonical (s.withdrawStop t) := h.withdrawIf.unstop

theorem NextCanonical.execWithdraw {k w} (h : Canonical s) : NextCanonical (execWithdraw k w s) := by
  dsimp only [Machine.execWithdraw]
  refine .next (h.command fun _ _ _ h => ?_)
  split
  · exact .ite h.withdrawStop (.ite h.withdrawIf.modTask h)
  · exact h

theorem Canonical.savePoll {t core page frz} {res} (h : Canonical s) (e : s.savePoll t core page frz = res) :
    CmdResKept res := by
  subst e
  dsimp only [State.savePoll]
  split
  · exact h
  · exact .ite h.saveStep h.saveStep

theorem Canonical.saveBegin {t core page frz} {res} (h : Canonical s) (e : s.saveBegin t core page frz = res) :
    CmdResKept res := by
  subst e
  dsimp only [State.saveBegin]
  split
  · exact h
  · exact .ite h (h.frame.beginSave.modTask.savePoll rfl)

theorem NextCanonical.execDsave {k w} (h : Canonical s) : NextCanonical (execDsave k w s) := by
  dsimp only [Machine.execDsave]
  refine .next (h.command fun _ _ _ h => ?_)
  split
  · exact h.savePoll rfl
  · split
    · exact .ite (h.saveBegin rfl) h
    · exact h

theorem NextCanonical.execFsave {k w} (h : Canonical s) : NextCanonical (execFsave k w s) := by
  dsimp only [Machine.execFsave]
  refine .next (h.command fun _ _ _ h => ?_)
  split
  · exact h.savePoll rfl
  · split
    · exact .ite (h.saveBegin rfl) h
    · exact h

theorem NextCanonical.execRestore {k w} (h : Canonical s) : NextCanonical (execRestore k w s) := by
  dsimp only [Machine.execRestore]
  refine .next (h.command fun _ _ _ h => ?_)
  split
  · exact h
  · split
    · exact h
    · split
      · exact h
      · split
        · exact h.armTeam
        · exact .ite h.armTeam h.armTeam

theorem NextCanonical.execTerm {k w} (h : Canonical s) : NextCanonical (execTerm k w s) := by
  dsimp only [Machine.execTerm]
  refine .next (h.command fun _ _ _ h => ?_)
  split
  · exact .ite h (.ite h.terminate h)
  · exact h

theorem Canonical.forward {f} (h : Canonical s) : Canonical (s.forward f) := h.frame

theorem NextCanonical.execFans {k w} (h : Canonical s) : NextCanonical (execFans k w s) := by
  dsimp only [Machine.execFans]
  refine .next (h.command fun _ _ _ h => ?_)
  split
  · exact h
  · split
    · exact h
    · split
      · exact h.answer
      · exact h.answer
      · exact .ite h.forward h
      · exact h

/-! ## Readback -/

theorem NextCanonical.execStateReadback {addr} (h : Canonical s) : NextCanonical (execStateReadback addr s) := by
  dsimp only [Machine.execStateReadback]
  split <;> exact .next h.send

/-! ## The monitor -/

theorem Canonical.declare {i} (h : Canonical s) : Canonical (s.declare i) := by
  unfold State.declare
  exact .ite h.modIsland h

theorem Canonical.withTables {mgmt} {ecls tct : SMap Word} {dcost : SMap (BitVec 16)} (h : Canonical s)
    (he : SMap.wf 0 ecls = true) (ht : SMap.wf 0 tct = true) (hd : SMap.wf 0 dcost = true) :
    Canonical { s with mgmt := mgmt, ecls := ecls, tct := tct, dcost := dcost } :=
  { h with ecls := he, tct := ht, dcost := hd }

/-- A map written key by key from the empty one is in canonical form. -/
theorem written_wf {α : Type} [DecidableEq α] {d : α} {l : List Nat} {f : Nat → α} :
    SMap.wf d (l.foldl (fun t i => SMap.set d t i (f i)) []) = true :=
  l.foldlRecOn (motive := fun m => SMap.wf d m = true) _ rfl fun _ hm _ _ => SMap.wf_set _ _ _ _ hm

theorem Canonical.loadFirmware (h : Canonical s) : Canonical s.loadFirmware := by
  unfold State.loadFirmware
  refine .foldl (.foldl (.foldl (Canonical.setAsid ?_) fun _ _ h => h.modIsland) fun _ _ h => h.tuneSup)
    fun _ _ h => h.declare
  exact h.withTables written_wf written_wf written_wf

theorem NextCanonical.execColdReset {monitor sup mgmt fuses} (h : Canonical s) :
    NextCanonical (execColdReset monitor sup mgmt fuses s) := by
  dsimp only [Machine.execColdReset]
  split
  · exact .next h.powerOff
  · split
    · exact .next h.powerOff.frame.frame
    · split
      · exact .next h.powerOff.frame.frame
      · split
        · exact .next h.powerOff.frame.frame
        · exact .next h.powerOff.frame.frame.loadFirmware

theorem Canonical.spdm {k param code data} (h : Canonical s) : Canonical (s.spdm k param code data) :=
  .ite (h.serveMon (fun _ h => h.send)) h

theorem NextCanonical.execGetMeasurements {param} (h : Canonical s) : NextCanonical (execGetMeasurements param s) := by
  unfold Machine.execGetMeasurements
  exact .next (.ite h.spdm (.ite h.spdm h.spdm))

theorem Canonical.postBlock {ch b} (h : Canonical s) : Canonical (s.postBlock ch b) := by
  dsimp only [State.postBlock]
  split
  · exact h
  · exact h.tuneSup

theorem ReqResKept.of_done {r : ReqRes} {st v t} (h : ReqResKept r) (e : r = .done st v t) : Canonical t := by
  subst e
  exact h

theorem ReqResKept.of_shoot {r : ReqRes} {u t} (h : ReqResKept r) (e : r = .shoot u t) : Canonical t := by
  subst e
  exact h

theorem ReqResKept.of_wait {r : ReqRes} {t} (h : ReqResKept r) (e : r = .wait t) : Canonical t := by
  subst e
  exact h

theorem Canonical.request {ch b f} (h : Canonical s) (hf : ∀ t, Canonical t → ReqResKept (f t)) :
    Canonical (s.request ch b f) := by
  dsimp only [State.request]
  split
  · exact h
  · refine h.postBlock.serveMon (fun _ h => ?_)
    split
    · next e => exact (ReqResKept.of_done (hf _ h) e).respond
    · next e => exact (ReqResKept.of_shoot (hf _ h) e).frame
    · next e => exact (ReqResKept.of_wait (hf _ h) e).frame

theorem Canonical.hostOnly {ch b f res} (h : Canonical s) (hf : ∀ t, Canonical t → ReqResKept (f t))
    (e : hostOnly ch b f s = res) : ReqResKept res := by
  subst e
  unfold Machine.hostOnly
  exact .ite h (.ite h (hf _ h))

theorem Canonical.bindAs {a e w} (h : Canonical s) : Canonical (s.bindAs a e w) := h.frame.setAsid

theorem NextCanonical.execBind {ch b} (h : Canonical s) : NextCanonical (execBind ch b s) := by
  dsimp only [Machine.execBind]
  refine .next (h.request fun _ h => ?_)
  refine h.hostOnly (fun _ h => ?_) rfl
  exact .ite h (.ite h h.bindAs)

theorem NextCanonical.execUnbind {ch b} (h : Canonical s) : NextCanonical (execUnbind ch b s) := by
  dsimp only [Machine.execUnbind]
  refine .next (h.request fun _ h => ?_)
  refine h.hostOnly (fun _ h => ?_) rfl
  exact .ite h h

theorem NextCanonical.execRoot {ch b} (h : Canonical s) : NextCanonical (execRoot ch b s) := by
  dsimp only [Machine.execRoot]
  refine .next (h.request fun _ h => ?_)
  refine h.hostOnly (fun _ h => ?_) rfl
  exact .ite h (.ite h h.setAsid)

theorem NextCanonical.execRoute {ch b} (h : Canonical s) : NextCanonical (execRoute ch b s) := by
  dsimp only [Machine.execRoute]
  refine .next (h.request fun _ h => ?_)
  refine h.hostOnly (fun _ h => ?_) rfl
  exact .ite h (.ite h h.bindAs)

theorem NextCanonical.execFloor {ch b} (h : Canonical s) : NextCanonical (execFloor ch b s) := by
  dsimp only [Machine.execFloor]
  refine .next (h.request fun _ h => ?_)
  refine h.hostOnly (fun _ h => ?_) rfl
  exact .ite h h.modIsland

theorem ImgRdKept.of_ok {r : ImgRd} {l t} (h : ImgRdKept r) (e : r = .ok l t) : Canonical t := by
  subst e
  exact h

theorem Canonical.readAsid0 {va n fuel r} (h : Canonical s) (e : s.readAsid0 va n fuel = r) : ImgRdKept r := by
  subst e
  induction fuel generalizing s va n with
  | zero => exact h
  | succ fuel ih =>
    dsimp only [State.readAsid0]
    refine .ite h ?_
    split
    · next e => exact h.hubAccess e
    · next e => exact h.hubAccess e
    · next e =>
      have hr : Canonical _ := h.hubAccess e
      refine .ite hr ?_
      split
      · next e2 => exact ImgRdKept.of_ok (ih hr.readHome) e2
      · exact ih hr.readHome

theorem Canonical.stageImage {t l} {res} (h : Canonical s) (e : s.stageImage t l = res) : ReqResKept res := by
  subst e
  unfold State.stageImage
  exact .ite h (.ite h h.frame)

theorem NextCanonical.execUpdate {ch b} (h : Canonical s) : NextCanonical (execUpdate ch b s) := by
  dsimp only [Machine.execUpdate]
  refine .next (h.request fun _ h => ?_)
  refine h.hostOnly (fun _ h => ?_) rfl
  split
  · exact h
  · split
    · exact .ite h.frame h
    · split
      · next e => exact (h.readAsid0 e).stageImage rfl
      · next e => exact h.readAsid0 e
      · next e => exact h.readAsid0 e

theorem NextCanonical.execQuery {ch b} (h : Canonical s) : NextCanonical (execQuery ch b s) := by
  dsimp only [Machine.execQuery]
  refine .next (h.request fun _ h => ?_)
  exact .ite h h

theorem NextCanonical.execMonitorRequestOtherOp {ch b} (h : Canonical s) :
    NextCanonical (execMonitorRequestOtherOp ch b s) := by
  dsimp only [Machine.execMonitorRequestOtherOp]
  refine .next (h.request fun _ h => ?_)
  exact h

/-! ## Checkpoints -/

theorem Canonical.ckStart {n} (h : Canonical s) : Canonical (s.ckStart n) := by
  unfold State.ckStart
  exact h.frame

theorem Canonical.ckStop {r} (h : Canonical s) : Canonical (s.ckStop r) := by
  unfold State.ckStop
  exact h.frame.foldl fun _ _ h => h.modTask

theorem Canonical.ckMark {r} (h : Canonical s) : Canonical (s.ckMark r) := h.frame.foldl fun _ _ h => h.setLink _ _

theorem Canonical.ckResume {l} (h : Canonical s) : Canonical (s.ckResume l) := by
  dsimp only [State.ckResume]
  refine .foldl (h.foldl fun _ p h => h.onCore fun _ k => ?_) fun _ _ h => ?_
  · exact (k.modTeam (t := p.1.id) (f := fun u => { u with leaving := false })).frame
  split
  · exact .ite h h.unstop
  · exact h

theorem Canonical.ckCommit {n nomir} (h : Canonical s) : Canonical (s.ckCommit n nomir) := h.frame

theorem Canonical.ckMaybeCommit (h : Canonical s) : Canonical s.ckMaybeCommit := by
  unfold State.ckMaybeCommit
  exact .ite h.ckCommit.send h

theorem Canonical.ckReport {n ok nomir} (h : Canonical s) : Canonical (s.ckReport n ok nomir) := by
  unfold State.ckReport
  exact (Canonical.ite (h.setPeer _ _) h.frame).send

theorem Canonical.ckWrite {slot bytes} (h : Canonical s) : Canonical (s.ckWrite slot bytes) :=
  .ite (h.withDram (Memory.wf_putWords _ _ _ h.dram)).frame h

theorem Canonical.mirrorBytes {b slot n} (h : Canonical s) : Canonical (s.mirrorBytes b slot n) := by
  dsimp only [State.mirrorBytes]
  split
  · exact h.foldl fun _ _ h => h.send
  · exact h

theorem Canonical.ckMirror {b n} (h : Canonical s) : Canonical (s.ckMirror b n) := by
  dsimp only [State.ckMirror]
  split
  · exact h.mirrorBytes.send
  · exact h

theorem Canonical.ckEnd {r ok} (h : Canonical s) : Canonical (s.ckEnd r ok) := h.frame.ckResume.ckReport.ckMaybeCommit

theorem Canonical.ckFinish {r} (h : Canonical s) : Canonical (s.ckFinish r) := by
  unfold State.ckFinish
  exact .ite (h.foldl fun _ _ h => h.setLink _ _).frame.ckWrite.frame.ckMirror (h.foldl fun _ _ h => h.setLink _ _).ckEnd

theorem Canonical.ckMirrored {r} (h : Canonical s) : Canonical (s.ckMirrored r) := by
  dsimp only [State.ckMirrored]
  split
  · exact h.ckEnd
  · exact .ite h.frame.ckMirror h.ckEnd

theorem Canonical.ckStep {r} (h : Canonical s) : Canonical (s.ckStep r) :=
  .ite h.ckMirrored (.ite h.ckStop ((h.foldl fun _ _ h => .ite h.stopHal h).unless
    fun h => .ite h.ckMark (.ite (h.foldl fun _ _ h => h.flushTeam) (.ite h h.ckFinish))))

theorem Canonical.dropMarkers (h : Canonical s) : Canonical s.dropMarkers := h.foldl fun _ _ h => h.setLink _ _

theorem Canonical.ckBegin {n} (h : Canonical s) : Canonical (s.ckBegin n) := by
  dsimp only [State.ckBegin]
  split
  · exact (Canonical.ite h h.dropMarkers).ckResume.ckStart
  · exact h.ckStart

theorem NextCanonical.execBegin {n} (h : Canonical s) : NextCanonical (execBegin n s) := by
  dsimp only [Machine.execBegin]
  refine .next ?_
  split
  · exact .ite h.ckStep h.ckBegin
  · exact h.ckBegin

theorem NextCanonical.execCheckpointPeriod (h : Canonical s) : NextCanonical (execCheckpointPeriod s) :=
  .ite (.next h) (.next h.ckBegin.send)

/-- A range of DRAM takes saved bytes (R422). -/
theorem Canonical.withRange {lo n w poison hostCached} (h : Canonical s) : Canonical { s with
      dram := Memory.putWindow (s.dram.clearRange lo n) lo w, poison := poison, hostCached := hostCached } :=
  (h.withDram (Memory.wf_putWindow _ _ _ (Memory.wf_clearRange _ _ _ h.dram))).frame

theorem Canonical.putRange {m} (h : Canonical s) : Canonical (s.putRange m) := by
  dsimp only [State.putRange]
  exact h.frame.clearCopies.withRange

theorem Canonical.ckRestore {k} (h : Canonical s) : Canonical (s.ckRestore k) := by
  unfold State.ckRestore
  exact ((h.foldl fun _ _ h => h.putRange).foldl fun _ _ h => h.setRope _ _).frame.foldl fun _ _ h => h.setLink _ _

theorem Canonical.emptyPairs {k} (h : Canonical s) : Canonical (s.emptyPairs k) := h.foldl fun _ _ h => h.setLink _ _

theorem Canonical.rollBack (h : Canonical s) : Canonical s.rollBack := by
  dsimp only [State.rollBack]
  cases s.ckpts.find? (fun k => k.n = s.mgmt.ckcommit) with
  | none => exact h.frame.dropMarkers.foldl fun _ _ h => h.terminate.frame
  | some k => exact (h.frame.dropMarkers.emptyPairs.foldl fun _ _ h => h.terminate.frame).ckRestore

/-! ## The chassis -/

theorem Canonical.fenceModule {m} (h : Canonical s) : Canonical (s.fenceModule m) := .ite h h.frame.frame.send.rollBack

theorem NextCanonical.execHeartbeatReceive {k ck} (h : Canonical s) : NextCanonical (execHeartbeatReceive k ck s) := by
  unfold Machine.execHeartbeatReceive
  exact .ite (.next h) (.next (h.frame.setPeer _ _).frame)

theorem NextCanonical.execUnfence {v} (h : Canonical s) : NextCanonical (execUnfence v s) := by
  unfold Machine.execUnfence
  exact .next h.frame

theorem Canonical.retrainStep (h : Canonical s) : Canonical s.retrainStep := .ite h h.frame

theorem Canonical.countSilence (h : Canonical s) : Canonical s.countSilence := h.foldl fun _ _ h => h.setPeer _ _

theorem Canonical.fabricHere {q} (h : Canonical s) : Canonical (s.fabricHere q) := by
  dsimp only [State.fabricHere]
  split
  · exact h.writeHome.send
  · split
    · exact h.readHome.send
    · split
      · exact h.readHome.send
      · refine .send ?_
        split
        · exact h.readHome.writeHome.stampWrite
        · exact h.readHome.stampWrite

theorem NextCanonical.execFabricRequest {q} (h : Canonical s) : NextCanonical (execFabricRequest q s) :=
  .next (.ite (.ite (h.atSlices (fun _ h => h.fabricHere)) h.send) (.ite h.send h))

theorem NextCanonical.execCfenceWrite {v} (h : Canonical s) : NextCanonical (execCfenceWrite v s) := by
  unfold Machine.execCfenceWrite
  exact .next (h.frame.foldl fun _ _ h => h.evacuate)

theorem Canonical.evacStep (h : Canonical s) : Canonical s.evacStep := by
  dsimp only [State.evacStep]
  refine h.foldl fun _ _ h => ?_
  split
  · exact h.frame
  · split
    · exact h.modTask
    · exact .ite h.beginSave h
    · exact h
    · exact h
    · exact h.frame

theorem NextCanonical.execSharedParityError {c} (h : Canonical s) : NextCanonical (execSharedParityError c s) := by
  unfold Machine.execSharedParityError
  exact .next (h.frame.foldl fun _ _ h => h.terminate)

theorem NextCanonical.execErrlogRead (h : Canonical s) : NextCanonical (execErrlogRead s) := by
  unfold Machine.execErrlogRead
  exact .next h.frame.send

theorem NextCanonical.execEnvLimitExceeded {rh corr} (h : Canonical s) : NextCanonical (execEnvLimitExceeded rh corr s) := by
  unfold Machine.execEnvLimitExceeded
  exact .next (.ite h.frame.send h.frame)

theorem NextCanonical.execWheadWrite {v} (h : Canonical s) : NextCanonical (execWheadWrite v s) := by
  unfold Machine.execWheadWrite
  exact .next (.ite h h.frame)

/-! ## Register writes -/

theorem NextCanonical.writeBar {off v} (h : Canonical s) : NextCanonical (s.writeBar off v) := by
  dsimp only [State.writeBar]
  split
  · exact .next (.ite h h.frame)
  · exact .execRtEnable h
  · exact .execMqPush h
  · exact .next h.frame
  · exact .next h.frame
  · exact .next h.frame
  · exact .execFqHeadWrite h
  · exact .execFaultAnswer h
  · exact .next (.ite h.frame h)

theorem Canonical.writeChassis {v} (h : Canonical s) : Canonical (s.writeChassis v) := by
  dsimp only [State.writeChassis]
  refine Canonical.when (Canonical.foldl { h with } fun _ _ h => .ite h (h.setPeer _ _)) fun h =>
    h.foldl fun _ _ h => h.setPeer _ _

theorem NextCanonical.writeMgmt {off v} (h : Canonical s) : NextCanonical (s.writeMgmt off v) := by
  dsimp only [State.writeMgmt]
  split
  · exact .execModcapWrite h
  · exact .execRailfltClear h
  · exact .next h.writeChassis
  · exact .execCfenceWrite h
  · exact .execCfenceWrite h
  · exact .execUnfence h
  · exact .execQuiesce h
  · exact .execWheadWrite h
  · exact .next h.frame

theorem NextCanonical.writeScmd {k v} (h : Canonical s) : NextCanonical (s.writeScmd k v) := by
  dsimp only [State.writeScmd]
  split
  · exact .execResume h
  · exact .execWreg h
  · exact .execStop h
  · exact .execWithdraw h
  · exact .execDsave h
  · exact .execFsave h
  · exact .execRestore h
  · exact .execTerm h
  · exact .execFans h
  · refine .next (h.command (fun _ _ _ h => ?_))
    exact h

theorem NextCanonical.writeSup {k off v} (h : Canonical s) : NextCanonical (s.writeSup k off v) := by
  dsimp only [State.writeSup]
  split
  · exact .execTqHeadWrite h
  · exact .writeScmd h
  · exact .next h.tuneSup
  · exact .next h.tuneSup
  · exact .execSfHeadWrite h
  · exact .next h.tuneSup
  · exact .execSmqPush h
  · exact .next h.tuneSup
  · exact .next h

theorem NextCanonical.execRegisterWrite {space off v} (h : Canonical s) : NextCanonical (execRegisterWrite space off v s) :=
  have hd {off v} : Canonical { s with dcost := SMap.set 0 s.dcost off v } :=
    { h with dcost := SMap.wf_set _ _ _ _ h.dcost }
  .ite (.writeBar h) (.ite (.writeMgmt h) (.ite (.writeSup h) (.ite (.next (.ite h.frame h)) (.ite (.next (.ite h.frame h))
    (.ite (.next (.ite hd h)) (.ite (.next (.ite h.modIsland h)) (.ite (.next (.ite h.frame h)) (.next h))))))))

end Sys2Proof.Claims
end

section
/-! SUPPORT. Canonical form is kept, part 6: the dispatch, the issue of a bundle, the turns and the step. -/

namespace Sys2Proof.Claims

open Sys2Proof Sys2Proof.Machine

set_option Elab.async false

variable {s : State}

/-! ## The dispatch -/

/-- The rule of an operation that may stall, where the dispatch runs it. -/
theorem NextCanonical.ofStallRun {i} (h : Canonical s) (e : Machine.exec i s = Machine.stallRun i s := by rfl) :
    NextCanonical (exec i s) :=
  e ▸ .stallRun h

/-- The dispatch: what an operation or an event answers is in canonical form. Operations of one shape share a case. -/
theorem NextCanonical.exec {i} (h : Canonical s) : NextCanonical (exec i s) := by
  cases i with
  | nop => exact .next h
  | add | sub | and | or | xor | andn | min | max | minu | maxu | mul | mulh | mulhu | sll | srl | sra | addi | andi | ori
  | xori | slli | srli | srai | muli | sel | pget | pcnt | pfirst | mfs | adds | clz | ctz | popc | rev8 | sextB | sextH
  | sextW | zextB | zextH | zextW | movi | div | divu | rem | remu | vget =>
    exact .next h.opS
  | cmpEq | cmpNe | cmpLt | cmpLe | cmpLtu | cmpLeu | cmpTst | cmpNtst | cmpiEq | cmpiNe | cmpiLt | cmpiLe | pand | por
  | pxor | pandn | pset =>
    exact .next h.opP
  | setb | setbReg | lset | lsetReg | rotSetv | rotSetvReg | rotSetp | rotSetpReg | mts => exact .next h.opD
  | call => exact .next (h.gated h.landS.landS.setLeaf)
  | ret => exact .next (h.gated h.landS.setLeaf)
  | lp0 | lp1 => exact .next (h.gated h.closeLoop)
  | lpe => exact .next (h.gated h.closePipe)
  | rotStep => exact .next (h.gated h.rotate)
  | vadd | vsub | vmul | vadds | vsubs | vmin | vmax => exact .next h.opVI
  | vand | vor | vxor | vandn | vnot => exact .next h.opV
  | vsll | vsrl | vsra | vslls | vsrls | vsras | vsel | vperm | vrotl | vbcl | vzipl | vziph | vuzpl | vuzph | vhash | vbc
  | viota =>
    exact .next h.opLanes
  | vfadd | vfsub | vfmul => exact .next h.opF2
  | vfmin | vfmax => exact .next h.opFsel
  | vfma | vfms => exact .next h.opFma
  | vcvtV0V31 | vcvtV32V63 | vcvtSatV0V31 | vcvtSatV32V63 => exact .next h.opCvt
  | vcmpEq | vcmpNe | vcmpLt | vcmpLe | vcmpuLtu | vcmpuLeu | vcmpuTst | vcmpuNtst | vfcmpEq | vfcmpNe | vfcmpLt
  | vfcmpLe =>
    exact .next h.opVP
  | vredFsum => exact .execVredFsum h
  | vredIsum | vredFmax | vredFmin | vredImax | vredImin => exact .next h.redOut
  | vredAmax => exact .execVredAmax h
  | vtrLog2 | vtrExp2 | vtrRcp | vtrRsqrt | vtrSig | vtrTanh => exact .next h.opTrans
  | vacc | vaccLc | mcall | mwait | mpar | mpari | mft | mzero | mmovSt | mmovStSat | mmovLd | mrsw | mrse | mstat
  | mstatCnt | ldB | ldH | ldW | ldD | ldBs | ldHs | ldWs | ldvB | ldvH | ldvW | ldvD | ldvBs | ldvHs | ldvWs | stB | stH
  | stW | stD | stvB | stvH | stvW | stvD | vldV | vldBc | vldH | vldvV | vldvBc | vldvH | vstV | vstH | vstvV | vstvH
  | bgtMap | bgtUnmap | bgtFlush | bgtTouch | bgtQuery | cpyG2s | cpyS2g | cpyS2s | cpyG2g | cpyGath | cpyScat | cpyMcast
  | cpyTr | cqPop | cqProg | cqCnt | hyStart | hyStop | hyCred | hyBase | hyClr | hyPop | hyStat | hyProg | hyRdc | hyDrop
  | lsend | lrecv | amoAddW | amoAndW | amoOrW | amoXorW | amoMinW | amoMaxW | amoMinuW | amoMaxuW | amoAddD | amoAndD
  | amoOrD | amoXorD | amoMinD | amoMaxD | amoMinuD | amoMaxuD | amoxSwapW | amoxSwapD | amoxCasW | amoxCasD | amoxFaddF32
  | redAddW | redAddD | redMinW | redMaxW | redMinuW | redMaxuW | redFaddF32 | redOrD | scLdW | scLdD | scStW | scStD
  | scSwapW | scSwapD | scAddD | scCasD | drainBraid | drainDie | drainDev | drainSys | splCall | splCalln | splInst | splRm
  | knotAdd | knotRd | knotMax | knotSwap | nrgQ | nrgVreg | nrgVsw | cend | trap | rtu | bkpt | pin | unpin | dbgMark
  | dbgBrk | barBraid =>
    exact .ofStallRun h
  | vput => exact .next h.landV
  | routineEnd | routineNop | setp | addp | setc | loop | skipz => exact .next (h.onCall (fun _ _ => h.modRun))
  | ldb => exact .execLdb h
  | pass | passw => exact .next h.doPass
  | zero | scale | routineCopy | addt | maxz => exact .next h.rowWord
  | bias => exact .execBias h
  | resultLanding => exact .next (.ite h h.landAll)
  | loadDataArrival => exact .next h.pollNamed.modCtx.pollNamed.modCtx.pollNamed.modCtx
  | stallClear => exact .next h.stallClear
  | bound => exact .next (.ite h.trapped.leaveIf h)
  | deferredTrap => exact .next (.ite h.deferredTrap.leaveIf h)
  | userTrapEntry => exact .next (.ite (h.modCtx.when fun h => h.throttlePoint) h)
  | contextEnded => exact .next h.endCtx
  | barrierArrival => exact .next h.barArrive
  | scOrderPoint => exact .execScOrderPoint h
  | homeAtomicExecute => exact .execHomeAtomicExecute h
  | spliceExecute => exact .execSpliceExecute h
  | globalWritePerform => exact .execGlobalWritePerform h
  | fillComplete => exact .execFillComplete h
  | dirRecall => exact .next h.dirRecall
  | ownershipRecall => exact .next h.recallOwners
  | hostSnoop => exact .execHostSnoop h
  | hostMemWrite => exact .execHostMemWrite h
  | hostMemRead => exact .execHostMemRead h
  | leaseTick => exact .execLeaseTick h
  | rebaseSweep => exact .execRebaseSweep h
  | ropeEnable => exact .execRopeEnable h
  | ropeDisable => exact .execRopeDisable h
  | headWrite => exact .execHeadWrite h
  | descriptorWriteObserved => exact .execDescriptorWriteObserved h
  | nextWordObserved => exact .execNextWordObserved h
  | recordFetch => exact .execRecordFetch h
  | knotWriteObserved => exact .next (.ite h.latchAll h)
  | dispatchChoice => exact .execDispatchChoice h
  | teamArmed => exact .execTeamArmed h
  | launchFailure => exact .execLaunchFailure h
  | taskRetire => exact .execTaskRetire h
  | variantSwitch => exact .execVariantSwitch h
  | matrixCommandStart => exact .next h.mtxStart
  | mftExecute => exact .next h.mftRun
  | mzeroExecute => exact .next h.mzeroRun
  | mmovExecute => exact .next h.mmovRun
  | ldbLoadComplete => exact .next h.loadAll
  | callEnd => exact .next h.callEnd
  | vaccTileRead => exact .next h.modCtx
  | copyCommandStart => exact .next h.copyStart
  | copyCommandEnd => exact .next h.copyEnd
  | copyCommandPark => exact .next h.copyPark
  | copyCommandResume => exact .next h.copyResume
  | copyHold => exact .next (.ite h.copyHold h)
  | copyHoldRelease => exact .next h.copyRelease
  | memoryDebit => exact .next h.memDebit
  | halyardBlockBegin => exact .next h.halBegin
  | halyardPush => exact .next h.halPush
  | halyardCompletion => exact .next h.modHal
  | halyardFault => exact .next h.halFault
  | halyardStopComplete => exact .next h.halStopped
  | flitArrival => exact .execFlitArrival h
  | creditReturn => exact .execCreditReturn h
  | governorBoundary => exact .execGovernorBoundary h
  | opHopComplete => exact .execOpHopComplete h
  | railFault => exact .execRailFault h
  | droopTrip => exact .next (h.onCore (fun _ k => .ite k k.frame))
  | stretchEnd => exact .next h.tuneCore
  | feedOutOfRange => exact .execFeedOutOfRange h
  | feedLoss => exact .execFeedLoss h
  | feedOvervoltage => exact .execFeedOvervoltage h
  | feedSwitchClose => exact .next (.ite h (.ite h.frame h))
  | faultRecordWrite => exact .execFaultRecordWrite h
  | supervisorFaultRecordWrite => exact .next (h.modSup (fun _ u => u.addFault))
  | trapRecordWrite => exact .next (h.modSup (fun _ u => u.drainTraps))
  | faultAnswer => exact .execFaultAnswer h
  | atsCompletion => exact .execAtsCompletion h
  | pageRequestResponse => exact .execPageRequestResponse h
  | atsInvalidation => exact .execAtsInvalidation h
  | rtEnable => exact .execRtEnable h
  | mqPush => exact .execMqPush h
  | fqHeadWrite => exact .execFqHeadWrite h
  | smqPush => exact .execSmqPush h
  | tqHeadWrite => exact .execTqHeadWrite h
  | sfHeadWrite => exact .execSfHeadWrite h
  | shoot => exact .execShoot h
  | fliph => exact .execFliph h
  | flipd => exact .execFlipd h
  | resume => exact .execResume h
  | wreg => exact .execWreg h
  | stop => exact .execStop h
  | withdraw => exact .execWithdraw h
  | dsave => exact .execDsave h
  | fsave => exact .execFsave h
  | restore => exact .execRestore h
  | term => exact .execTerm h
  | fans => exact .execFans h
  | stateReadback => exact .execStateReadback h
  | quiesce => exact .execQuiesce h
  | bind => exact .execBind h
  | unbind => exact .execUnbind h
  | root => exact .execRoot h
  | route => exact .execRoute h
  | floor => exact .execFloor h
  | update => exact .execUpdate h
  | query => exact .execQuery h
  | getVersion | getCapabilities | getDigests | unsupportedRequest => exact .next h.spdm
  | negotiateAlgorithms | getCertificate | challenge => exact .next (.ite h.spdm h.spdm)
  | getMeasurements => exact .execGetMeasurements h
  | coldReset => exact .execColdReset h
  | modcapWrite => exact .execModcapWrite h
  | railfltClear => exact .execRailfltClear h
  | drpcntRead => exact .execDrpcntRead h
  | errlogRead => exact .execErrlogRead h
  | cfenceWrite => exact .execCfenceWrite h
  | unfence => exact .execUnfence h
  | wheadWrite => exact .execWheadWrite h
  | registerWrite => exact .execRegisterWrite h
  | arbitrationRound => exact .execArbitrationRound h
  | arbitrationMessage => exact .next (.ite (h.setPeer _ _) h)
  | heartbeatSend => exact .next (.ite h.send h)
  | heartbeatReceive => exact .execHeartbeatReceive h
  | heartbeatTimeout => exact .next (.ite h.fenceModule h)
  | fenceNotice => exact .next h.fenceModule
  | isolation => exact .next (.ite (h.frame.foldl fun _ _ h => h.fenceModule) h)
  | checkpointPeriod => exact .execCheckpointPeriod h
  | begin => exact .execBegin h
  | done => exact .next ((h.setPeer _ _).ckMaybeCommit)
  | fail => exact .next (.ite h.frame h)
  | commit => exact .next h.ckCommit
  | checkpointMarker => exact .execCheckpointMarker h
  | wonusRecordWrite => exact .next h.wonusWrite
  | scrubPass => exact .next h.findErrs
  | sharedParityError => exact .execSharedParityError h
  | hubFatalError => exact .next h.frame
  | envLimitExceeded => exact .execEnvLimitExceeded h
  | fabricRequest => exact .execFabricRequest h
  | illegalEncoding => exact .execIllegalEncoding h
  | monitorRequestOtherOp => exact .execMonitorRequestOtherOp h
  | maintenanceDescriptorInvalid => exact .execMaintenanceDescriptorInvalid h
  | feedReturn => exact .next (.ite h h.frame)

/-! ## The issue of a bundle -/

theorem NextCanonical.runOps {x t b l} (h : Canonical s) : NextCanonical (State.runOps x t b l s) := by
  induction l generalizing s with
  | nil => exact .next h
  | cons p r ih =>
    unfold State.runOps
    split
    · next e => exact ih ((NextCanonical.exec h.frame).of_next e)
    · exact .exec h.frame

theorem Canonical.afterBundle {x b leaf drain stop} (h : Canonical s) : Canonical (s.afterBundle x b leaf drain stop) := by
  unfold State.afterBundle
  exact .ite ((Canonical.ite h h.modCtx).when fun h => h.modCtx).modCtx.leave
    (((Canonical.ite h h.modCtx).when fun h => h.modCtx).when fun h => h.modCtx.leave)

/-- A bundle that issues: its operations run in slot order, each on what the one before left (R66, R369). -/
theorem Canonical.attempt {u : State} {x} {res} (h : Canonical u) (e : u.attempt x = res) : AttemptKept res := by
  subst e
  dsimp only [State.attempt]
  split
  · trivial
  · refine .ite trivial (.ite trivial ?_)
    split
    · trivial
    · refine .ite trivial (.ite trivial (.ite trivial ?_))
      split
      · trivial
      · have hr {t b ops l} : NextCanonical (State.runOps x t b ops (State.modCtx { u with issue := l } x
            (fun c => { c with waiting := none }))) := .runOps h.frame.modCtx
        split
        · next e => exact NextCanonical.next (Canonical.afterBundle (hr.of_next e))
        · exact hr

theorem AttemptKept.of_done {a : Attempt} {o} (h : AttemptKept a) (e : a = .done o) : NextCanonical o := by
  subst e
  exact h

/-- Traps start from `pre`, a bundle that stalls or issues from `post`, a freeze from `froz` (R369). -/
theorem NextCanonical.tryIssue {pre post froz : State} {x} (hpre : Canonical pre) (hpost : Canonical post)
    (hfroz : Canonical froz) : NextCanonical (pre.tryIssue post froz x) := by
  dsimp only [State.tryIssue]
  split
  · exact .next hpre.modCtx.trapped.leave.endCycle
  · refine .ite (.next hpre.deferredTrap.leave.endCycle) (.ite (.next hpre.trapped.leave.endCycle) ?_)
    split
    · exact .next (hpre.modCtx.when fun h => h.throttlePoint).trapped.leave.endCycle
    · exact .next (Canonical.ite (hpre.modCtx.when fun h => h.throttlePoint) hpost.modCtx).modCtx.leave.endCycle
    · exact .next hfroz.freeze
    · next e =>
      refine .next (Canonical.endCycle ((AttemptKept.of_done (Canonical.attempt ?_ e) rfl).of_next rfl))
      exact .tentative (.ite (hpre.modCtx.when fun h => h.throttlePoint)
        (.ite (hpre.modCtx.when fun h => h.throttlePoint) hpost.modCtx))
    · next e =>
      refine AttemptKept.of_done (Canonical.attempt ?_ e) rfl
      exact .tentative (.ite (hpre.modCtx.when fun h => h.throttlePoint)
        (.ite (hpre.modCtx.when fun h => h.throttlePoint) hpost.modCtx))

theorem Canonical.drainPorts {q} (h : Canonical s) : Canonical (s.drainPorts q) := h.foldl fun _ _ h => h.modCtx.pollStores

theorem NextCanonical.partCycle {q} (h : Canonical s) : NextCanonical (s.partCycle q) := by
  dsimp only [State.partCycle]
  refine .ite (.next h) (.ite (.next h.drainPorts) (.ite (.next h.arrive.freeze) ?_))
  split
  · exact .next h.arrive.prepare.endCycle
  · exact .tryIssue h.arrive.findBundle.prepare h.arrive.findBundle.prepare h.arrive.findBundle

theorem NextCanonical.mtxCycle {c} (h : Canonical s) : NextCanonical (s.mtxCycle c) := by
  dsimp only [State.mtxCycle]
  split
  · exact .next h.loads.mtxStart
  · split
    · exact .next h.loads.callEnd
    · split
      · exact .next h.loads.modRun
      · split
        · exact .next h.loads.mftRun
        · exact .next h.loads.mzeroRun
        · exact .next h.loads.mmovRun
        · split
          · next e => exact .next (h.loads.stepsSpent e)
          · split
            · exact .exec h.loads.frame
            · exact .next h.loads

/-! ## What the units look at -/

theorem Canonical.every {n l} (h : Canonical s) : Canonical (s.every n l) := .ite h.after h

theorem Canonical.timers (h : Canonical s) : Canonical s.timers := by
  have hg {l m} : Canonical (((((s.every 64 [.ev .leaseTick]).every (64 * 2 ^ 26) [.ev .rebaseSweep]).every 16
      [.ev .dispatchChoice]).every m [.ev .scrubPass]).every 20000 l) := h.every.every.every.every.every
  exact .ite (.ite hg.every.every hg) (Canonical.ite hg.every.every hg).every

theorem Canonical.pollRopes (h : Canonical s) : Canonical s.pollRopes := .ite h.frame.after h

theorem NextCanonical.supTurn {k} (h : Canonical s) : NextCanonical (s.supTurn k) := by
  dsimp only [State.supTurn]
  split
  · exact .exec h.tuneSup
  · split
    · exact .exec h.tuneSup
    · exact .next h

theorem Canonical.pollHops (h : Canonical s) : Canonical s.pollHops := by
  unfold State.pollHops
  exact .ite h h.frame.after

theorem Canonical.polls (h : Canonical s) : Canonical s.polls := by
  unfold State.polls
  exact h.pollRopes.pollHops.after.after

/-! ## The hub cycle and the turns -/

theorem Canonical.coreTick {c} (h : Canonical s) : Canonical (s.coreTick c) := by
  unfold State.coreTick
  exact .ite h ((h.putCore h.core.frame).when fun h => h.after)

theorem Canonical.wheelTick (h : Canonical s) : Canonical s.wheelTick := h.frame

/-- A hub cycle: each of its parts keeps the form, in their order. -/
theorem Canonical.hubTick (h : Canonical s) : Canonical s.hubTick :=
  h.frame.unless fun h => ((h.wheelTick.frame.linksSend.preemptStep.evacStep.after.when
    fun h => h.countSilence).retrainStep.timers.foldl fun _ _ h => h.coreTick).polls.after

theorem NextCanonical.homeTurn (h : Canonical s) : NextCanonical s.homeTurn := by
  dsimp only [State.homeTurn]
  split
  · exact .next h.choose
  · split
    · exact .next h.choose.frame
    · split <;>
      · refine .exec ?_
        split
        · exact h.choose.frame.when fun h => h.serve
        · exact h.choose.frame

theorem NextCanonical.monTurn (h : Canonical s) : NextCanonical s.monTurn := by
  dsimp only [State.monTurn]
  split
  · exact .next h
  · split
    · exact .next h
    · split
      · exact .next (.ite h h.monTake)
      · split
        · next e => exact .next ((NextCanonical.exec h.frame).of_next e).frame
        · exact .exec h.frame

theorem NextCanonical.turn {a} (h : Canonical s) : NextCanonical (s.turn a) := by
  dsimp only [State.turn]
  split
  · exact .partCycle h
  · exact .mtxCycle h
  · exact .next h.copyStep
  · exact .next h.halStep
  · exact .supTurn h
  · exact .monTurn h
  · exact .homeTurn h
  · exact .exec h

/-! ## One step -/

/-- A step is an outside event, an agent's turn or a hub cycle. -/
theorem NextCanonical.step (h : Canonical s) : NextCanonical (step s) := by
  dsimp only [Machine.step]
  split
  · exact .ite (.exec h.frame) (.next h.frame)
  · exact .turn h.frame
  · exact .next h.hubTick

end Sys2Proof.Claims
end

section Settled

open Sys2Proof Sys2Proof.Machine Sys2Proof.Claims

/-- Settles O11: what a step answers, whether it takes an outside event, gives an agent its turn or begins a hub cycle, is in
canonical form where the state before it is. -/
theorem stepKeepsCanonicalForm : Obligations.StepKeepsCanonicalForm := by
  unfold Obligations.StepKeepsCanonicalForm
  intro s t h e
  exact (NextCanonical.step h).of_next e

end Settled

section
/-! SUPPORT. What an operation under its guard answers, and the rules of drains and of braid barriers (R56, R130, R282, R283). -/

namespace Sys2Proof.Claims

open Sys2Proof Sys2Proof.Machine

variable {s : State}

/-! ## An operation under its guard -/

theorem gated_go {g eff} (h : s.me.guard0 g = true) : s.gated g .go eff = eff := by simp [State.gated, h]

theorem gated_stall {g eff} (h : s.me.guard0 g = true) :
    s.gated g .stall eff = s.setCtx s.issue.x { s.me with st := .stalled } := by
  simp only [State.gated, h, if_true]; rfl

theorem gated_trap {g eff i} (h : s.me.guard0 g = true) : s.gated g (.trap i) eff = s.takeTrap s.issue.x i none := by
  simp [State.gated, h]

/-! ## Drains -/

theorem exec_drains (g : BitVec 4) :
    exec (.drainBraid g) s = .next (s.drainOp g 0) ∧ exec (.drainDie g) s = .next (s.drainOp g 1) ∧
      exec (.drainDev g) s = .next (s.drainOp g 2) ∧ exec (.drainSys g) s = .next (s.drainOp g 3) :=
  ⟨rfl, rfl, rfl, rfl⟩

theorem drainOp_eq {g scope} (h : s.me.guard0 g = true) :
    s.drainOp g scope = s.setCtx s.issue.x
      { s.me with fence := s.me.fence.filter (s.outstanding s.issue.x) ++ s.drainSet s.issue.x scope } :=
  gated_go h

/-! ## The tests of a bar -/

theorem mem_maskCores {b k : Nat} {m : BitVec 4} : k ∈ maskCores b m ↔ ∃ q < 4, m.getLsbD q = true ∧ 4 * b + q = k := by
  simp [maskCores, List.mem_filterMap]

/-- The mask of a bar holds the issuing team and names only teams of the task (R283). -/
def MaskOk (s : State) (m : BitVec 4) : Prop :=
  m.getLsbD (s.issue.x.val / 16 % 4) = true ∧
    ∀ q < 4, m.getLsbD q = true → s.placed s.me.task (4 * (s.issue.x.val / 16 / 4) + q) = true

theorem maskOk_iff {m : BitVec 4} :
    MaskOk s m ↔ (!m.getLsbD (ctxCore s.issue.x % 4) ||
      (maskCores (ctxCore s.issue.x / 4) m).any (fun c => !s.placed s.myTask c)) = false := by
  simp only [MaskOk, Bool.or_eq_false_iff, Bool.not_eq_false', List.any_eq_false, mem_maskCores, ctxCore, State.myTask,
    Bool.not_eq_true, Bool.not_eq_false']
  constructor
  · rintro ⟨own, placed⟩
    exact ⟨own, by rintro _ ⟨q, hq, hm, rfl⟩; exact placed q hq hm⟩
  · rintro ⟨own, placed⟩
    exact ⟨own, fun q hq hm => placed _ ⟨q, hq, hm, rfl⟩⟩

theorem barPre_of_not_maskOk {a} (h : ¬MaskOk s (barMask s a)) :
    barPre s a = .trap ⟨0x09, 0x01, 4, (barMask s a).setWidth 64⟩ := by
  rw [maskOk_iff, Bool.not_eq_false] at h
  simp only [barPre, h, if_true]; rfl

theorem barPre_of_maskOk {a} (h : MaskOk s (barMask s a)) :
    barPre s a = match s.pendingMask s.me.task (s.issue.x.val / 16 / 4) with
      | none => .go
      | some p => if p = barMask s a then .go
        else if p.getLsbD (s.issue.x.val / 16 % 4) then .trap ⟨0x09, 0x02, 4, (barMask s a).setWidth 64⟩ else .stall := by
  rw [maskOk_iff] at h
  simp only [barPre, h, Bool.false_eq_true, if_false]; rfl

/-! ## The arrival of a bar -/

/-- The context as it goes on once its barrier completes (R37, R40, R283). -/
def wentOn (s : State) (y : CtxNo) : Ctx :=
  { s.ctx y with
    bar := none
    st := if (s.ctx y).st ≠ .stalled then (s.ctx y).st else if (s.ctx y).barDrain && s.stopAsked y then .stopped else .ready }

theorem barGoes_eq {x} : s.barGoes x = s.setCtx x (wentOn s x) := by
  simp only [State.barGoes, State.modCtx_eq, wentOn, ite_not]

theorem stopAsked_barGoes {x y} : (s.barGoes x).stopAsked y = s.stopAsked y := by
  have task : ((s.barGoes x).ctx y).task = (s.ctx y).task := by
    by_cases e : y = x
    · subst e; simp [barGoes_eq, wentOn]
    · simp [barGoes_eq, State.setCtx_ctx_ne _ _ e]
  unfold State.stopAsked
  rw [task, barGoes_eq]
  rfl

/-- A context that goes on again is the same. -/
theorem wentOn_barGoes {x y} : wentOn (s.barGoes x) y = wentOn s y := by
  unfold wentOn
  rw [stopAsked_barGoes]
  by_cases e : y = x
  · subst e
    rw [barGoes_eq, State.setCtx_ctx_same]
    by_cases h : (s.ctx y).st = .stalled
    · cases hd : (s.ctx y).barDrain && s.stopAsked y <;> simp [wentOn, h, hd]
    · simp [wentOn, h]
  · rw [barGoes_eq, State.setCtx_ctx_ne _ _ e]

theorem foldl_barGoes_ctx (l : List CtxNo) (y : CtxNo) :
    (l.foldl State.barGoes s).ctx y = if y ∈ l then wentOn s y else s.ctx y := by
  induction l generalizing s with
  | nil => simp
  | cons x r ih =>
    rw [List.foldl_cons, ih, wentOn_barGoes]
    by_cases e : y = x
    · subst e; simp [barGoes_eq]
    · simp [barGoes_eq, State.setCtx_ctx_ne _ _ e, e]

theorem foldl_barGoes_frame (l : List CtxNo) (m : SMap Ctx) :
    { l.foldl State.barGoes s with ctxs := m } = { s with ctxs := m } := by
  induction l generalizing s with
  | nil => rfl
  | cons x r ih => rw [List.foldl_cons, ih, barGoes_eq]; rfl

theorem arrivedOrEnded_iff {m y} :
    s.arrivedOrEnded m y = true ↔ (s.ctx y).st = .ended ∨ ∃ l, (s.ctx y).bar = some (m, true, l) := by
  unfold State.arrivedOrEnded
  cases h : (s.ctx y).bar with
  | none => simp
  | some b => obtain ⟨k, counted, l⟩ := b; simp; tauto

/-- Every named team is on its core, and the save of none has begun (R283). -/
def TeamsHere (s : State) (task braid : Nat) (m : BitVec 4) : Prop :=
  ∀ k ∈ maskCores braid m, ∃ t, (s.core k).team? task = some t ∧ t.saving = false

theorem teamsHere_iff {task braid m} :
    TeamsHere s task braid m ↔ ((maskCores braid m).all fun c => match (s.core c).team? task with
      | some t => !t.saving
      | none => false) = true := by
  simp only [TeamsHere, List.all_eq_true]
  refine forall₂_congr fun k _ => ?_
  cases (s.core k).team? task <;> simp

theorem barComplete_of {task braid m} (h : TeamsHere s task braid m)
    (ha : ∀ y ∈ s.participants task braid m, s.arrivedOrEnded m y = true) :
    s.barComplete task braid m = (s.participants task braid m).foldl State.barGoes s := by
  have := teamsHere_iff.1 h
  simp only [State.barComplete]
  rw [if_pos]
  simp only [Bool.and_eq_true, List.all_eq_true (p := s.arrivedOrEnded m)]
  exact ⟨this, ha⟩

theorem barComplete_of_not {task braid m}
    (h : ¬TeamsHere s task braid m ∨ ∃ y ∈ s.participants task braid m, ¬s.arrivedOrEnded m y = true) :
    s.barComplete task braid m = s := by
  simp only [State.barComplete]
  rw [if_neg]
  simp only [Bool.and_eq_true, List.all_eq_true (p := s.arrivedOrEnded m), not_and_or, not_forall]
  exact h.imp (fun hn => fun he => hn (teamsHere_iff.2 he)) (fun ⟨y, hy, hn⟩ => ⟨y, hy, hn⟩)

theorem barArrive_eq {x m e} (hb : (s.ctx x).bar = some (m, false, e)) (hc : s.clearOf x e = true) :
    s.barArrive x = (s.setCtx x { s.ctx x with bar := some (m, true, []) }).barComplete (s.ctx x).task (x.val / 64) m := by
  simp [State.barArrive, hb, hc, ctxCore, Nat.div_div_eq_div_mul]

end Sys2Proof.Claims
end

section Settled

open Sys2Proof Sys2Proof.Machine Sys2Proof.Claims

/-- Settles O27: a drain is one write of the context's fences, a bar's tests are decided by its mask and the pending one, and an
arrival lets every participant go on or changes nothing more. -/
theorem drainsAndBarriers : Obligations.DrainsAndBarriers := by
  unfold Obligations.DrainsAndBarriers
  refine ⟨⟨fun s g hg => ?_, fun s g ra hg => ?_⟩, fun s x m e => ?_⟩
  · obtain ⟨h0, h1, h2, h3⟩ := exec_drains (s := s) g
    exact ⟨by rw [h0, drainOp_eq hg], by rw [h1, drainOp_eq hg], by rw [h2, drainOp_eq hg], by rw [h3, drainOp_eq hg]⟩
  · have run : exec (.barBraid g ra) s = .next (s.gated g (barPre s ra)
        (s.setCtx s.issue.x { s.me with bar := some (barMask s ra, false, s.drainSet s.issue.x 0) })) := rfl
    refine ⟨fun ok pending => ?_, fun bad => ?_, fun ok p pending ne held => ?_, fun ok p pending ne held => ?_⟩
    · have go : barPre s ra = .go := by
        rw [barPre_of_maskOk ok]
        rcases pending with h | h <;> simp [h, barMask]
      rw [run, go, gated_go hg]; rfl
    · rw [run, barPre_of_not_maskOk bad, gated_trap hg]; rfl
    · rw [run, barPre_of_maskOk ok, pending]
      have ne : p ≠ barMask s ra := ne
      simp only [ne, if_false, held, if_true]
      rw [gated_trap hg]; rfl
    · rw [run, barPre_of_maskOk ok, pending]
      have ne : p ≠ barMask s ra := ne
      simp only [ne, if_false, held, Bool.false_eq_true]
      rw [gated_stall hg]; rfl
  · intro c s1 ps here hb hc
    have run : exec (.barrierArrival x) s = .next (s1.barComplete c.task (x.val / 64) m) := by
      rw [← barArrive_eq hb hc]; rfl
    refine ⟨fun h => ?_, fun hh ha => ⟨ps.foldl State.barGoes s1, ?_, ?_, fun y => foldl_barGoes_ctx ps y⟩⟩
    · rw [run]
      refine congrArg _ (barComplete_of_not (h.imp id ?_))
      rintro ⟨y, hy, hne, hl⟩
      exact ⟨y, hy, fun hy => by rcases arrivedOrEnded_iff.1 hy with h | ⟨l, h⟩; exacts [hne h, hl l h]⟩
    · rw [run]
      exact congrArg _ (barComplete_of hh fun y hy => arrivedOrEnded_iff.2 (ha y hy))
    · rw [foldl_barGoes_frame]; rfl

end Settled

section
/-! SUPPORT. What an access of a unit of the hub to device memory leaves as it was, where no word is owned and no store has an
error: the frame of `readHome` and of `writeHome` (R105 to R122, R125, R141, R155, R277, R347, R408). -/

namespace Sys2Proof.Claims

open Sys2Proof Sys2Proof.Machine

variable {s t u : State}

/-! ## The frame -/

/-- A state without what an access of a unit of the hub to device memory may change. A field that stands here is the same before and
after such an access; `congrArg` of its projection, or of a function that reads such fields alone, says so. -/
def still (s : State) : State := { s with
  islands := [], freeCtr := 0, lines := [], evt := [], swc := [], modSeq := [], served := [], tcache := [], cores := [], ops := []
  hostCached := [], outbox := [], ropes := [], dram := [], poison := [] }

/-- A core without the side bits of its bight words. -/
def bareCore (c : Core) : Core := { c with spadSide := [], vaultSide := [] }

/-- An operation without the words that its fill drops. -/
def bareOp (o : GOp) : GOp := { o with drop := [] }

/-- An access of a unit of the hub made t of s: of the cores only side bits changed, of the operations only what their fills drop, and
no core's island paid. -/
structure Accessed (s t : State) : Prop where
  still : still t = still s
  core : ∀ k, bareCore (t.core k) = bareCore (s.core k)
  ops : t.ops.map bareOp = s.ops.map bareOp
  island : ∀ i < 128, t.island i = s.island i

/-- The access wrote nothing: neither memory nor the ropes changed, and no message left. -/
structure ReadOnly (s t : State) : Prop extends Accessed s t where
  dram : t.dram = s.dram
  poison : t.poison = s.poison
  ropes : t.ropes = s.ropes
  outbox : t.outbox = s.outbox
  hostCached : t.hostCached = s.hostCached

theorem Accessed.refl : Accessed s s := ⟨rfl, fun _ => rfl, rfl, fun _ _ => rfl⟩

theorem Accessed.trans (h : Accessed s t) (k : Accessed t u) : Accessed s u :=
  ⟨k.still.trans h.still, fun c => (k.core c).trans (h.core c), k.ops.trans h.ops, fun i hi => (k.island i hi).trans (h.island i hi)⟩

/-- A change of fields that the frame does not speak of. -/
theorem Accessed.of_still (e : Claims.still t = Claims.still s) (hc : t.cores = s.cores := by rfl) (ho : t.ops = s.ops := by rfl)
    (hi : t.islands = s.islands := by rfl) : Accessed s t :=
  ⟨e, fun k => by simp only [State.core, hc], by rw [ho], fun i _ => by simp only [State.island, hi]⟩

theorem ReadOnly.refl : ReadOnly s s := ⟨.refl, rfl, rfl, rfl, rfl, rfl⟩

theorem ReadOnly.trans (h : ReadOnly s t) (k : ReadOnly t u) : ReadOnly s u :=
  ⟨h.toAccessed.trans k.toAccessed, k.dram.trans h.dram, k.poison.trans h.poison, k.ropes.trans h.ropes, k.outbox.trans h.outbox,
    k.hostCached.trans h.hostCached⟩

theorem ReadOnly.of_still (e : Claims.still t = Claims.still s := by rfl) (hc : t.cores = s.cores := by rfl)
    (ho : t.ops = s.ops := by rfl) (hi : t.islands = s.islands := by rfl)
    (h : (t.dram, t.poison, t.ropes, t.outbox, t.hostCached) = (s.dram, s.poison, s.ropes, s.outbox, s.hostCached) := by rfl) :
    ReadOnly s t := by
  simp only [Prod.mk.injEq] at h
  obtain ⟨hd, hp, hr, hb, hh⟩ := h
  exact ⟨.of_still e hc ho hi, hd, hp, hr, hb, hh⟩

theorem ReadOnly.ite {c : Prop} [Decidable c] (ht : ReadOnly s t) (hu : ReadOnly s u) : ReadOnly s (if c then t else u) := by
  split
  · exact ht
  · exact hu

theorem ReadOnly.foldl {α : Type} {f : State → α → State} (hf : ∀ s a, ReadOnly s (f s a)) (l : List α) (s : State) :
    ReadOnly s (l.foldl f s) := by
  induction l generalizing s with
  | nil => exact .refl
  | cons a r ih => exact (hf s a).trans (ih _)

/-! ## What the frame says of accessors -/

namespace Accessed

variable (h : Accessed s t)
include h

theorem ctxs : t.ctxs = s.ctxs := (congrArg State.ctxs h.still :)
theorem ctx (x : CtxNo) : t.ctx x = s.ctx x := congrArg (·.ctx x) h.still
theorem tasks : t.tasks = s.tasks := (congrArg State.tasks h.still :)
theorem task? (n : Nat) : t.task? n = s.task? n := congrArg (·.task? n) h.still
theorem mgmt : t.mgmt = s.mgmt := (congrArg State.mgmt h.still :)
theorem host : t.host = s.host := (congrArg State.host h.still :)
theorem mon : t.mon = s.mon := (congrArg State.mon h.still :)
theorem hostMem : t.hostMem = s.hostMem := (congrArg State.hostMem h.still :)
theorem owners : t.owners = s.owners := (congrArg State.owners h.still :)
theorem errs : t.errs = s.errs := (congrArg State.errs h.still :)
theorem preempt : t.preempt = s.preempt := (congrArg State.preempt h.still :)
theorem link (p : Nat) : t.link p = s.link p := congrArg (·.link p) h.still
theorem team? (c n : Nat) : (t.core c).team? n = (s.core c).team? n := congrArg (·.team? n) (h.core c)

end Accessed

theorem ReadOnly.ropeOf (h : ReadOnly s t) (r : Nat) : t.ropeOf r = s.ropeOf r := by simp only [State.ropeOf, h.ropes]

theorem ReadOnly.physBad (h : ReadOnly s t) (pa n : Nat) : t.physBad pa n = s.physBad pa n := by
  simp only [State.physBad, State.fenced, h.poison, h.mgmt]

/-! ## Copies in bights -/

theorem bareCore_setSide (c : Core) (v : Bool) (w : Nat) (b : Side) : bareCore (c.setSide v w b) = bareCore c := by
  cases v <;> rfl

theorem bareCore_clearClean (c : Core) (v : Bool) (p : Nat → Bool) : bareCore (c.clearClean v p) = bareCore c := by
  unfold Core.clearClean
  generalize (c.sides v).filter _ = l
  induction l generalizing c with
  | nil => rfl
  | cons e r ih => rw [List.foldl_cons, ih, bareCore_setSide]

theorem bareCore_clearTest (c : Core) (p : MapInfo → Bool) : bareCore (c.clearTest p) = bareCore c := by
  rw [Core.clearTest, bareCore_clearClean, bareCore_clearClean]

theorem bareOp_markFill (k : Nat) (p : MapInfo → Bool) (o : GOp) : bareOp (s.markFill k p o) = bareOp o := by
  unfold State.markFill
  split
  · split <;> rfl
  · rfl

/-- A core takes a value that differs in its side bits alone. -/
theorem ReadOnly.setCore {c : Nat} {k : Core} (e : bareCore k = bareCore (s.core c)) : ReadOnly s (s.setCore c k) :=
  ⟨⟨rfl, fun j => by
      by_cases h : j = c
      · subst h; rw [State.setCore_core_same, e]
      · rw [State.setCore_core_ne _ _ h], rfl, fun _ _ => rfl⟩, rfl, rfl, rfl, rfl, rfl⟩

theorem ReadOnly.clearCopiesOf (k : Nat) (p : MapInfo → Bool) : ReadOnly s (s.clearCopiesOf k p) := by
  have marked : ReadOnly s { s with ops := s.ops.map (s.markFill k p) } :=
    ⟨⟨rfl, fun _ => rfl, by simp [Function.comp_def, bareOp_markFill], fun _ _ => rfl⟩, rfl, rfl, rfl, rfl, rfl⟩
  exact marked.trans (.setCore (bareCore_clearTest _ _))

theorem ReadOnly.clearCopies (p : Nat → MapInfo → Bool) : ReadOnly s (s.clearCopies p) := .foldl (fun _ _ => .clearCopiesOf _ _) _ _

theorem ReadOnly.invalidateFor (own : Option EntId) (a : Attr) (pa : Nat) (l : List Span) : ReadOnly s (s.invalidateFor own a pa l) :=
  .ite (.clearCopies _) (.ite (.clearCopies _) .refl)

/-! ## Timestamps and debits -/

theorem ReadOnly.raiseSwc {slice : Nat} {p : BitVec 32} : ReadOnly s (s.raiseSwc slice p) := .of_still

theorem ReadOnly.setLineTs {x : LineTs} : ReadOnly s (s.setLineTs x) := .of_still

theorem ReadOnly.stampWrite (a : Attr) (pa : Nat) : ReadOnly s (s.stampWrite none a pa) := by
  have raised : ReadOnly s ({ s.raiseSwc (homeSlice a pa) s.dlt with
      modSeq := SMap.set 0 s.modSeq (homeSlice a pa) (SMap.get 0 s.modSeq (homeSlice a pa) + 1) }) :=
    ReadOnly.trans (t := s.raiseSwc (homeSlice a pa) s.dlt) .raiseSwc .of_still
  exact .ite ((raised.trans .setLineTs).trans .raiseSwc) raised

theorem ReadOnly.memDebit {i : Nat} (hi : 128 ≤ i) : ReadOnly s (s.memDebit i none) :=
  ⟨⟨rfl, fun _ => rfl, rfl, fun j hj => State.setIsland_island_ne _ _ (by omega)⟩, rfl, rfl, rfl, rfl, rfl⟩

theorem ReadOnly.evictFor (slice : Nat) : ReadOnly s (s.evictFor slice) := by
  unfold State.evictFor
  have evicted : ∀ o : Option LineTs, ReadOnly s (match o with
      | some v => ({ s with freeCtr := s.freeCtr + 1 } : State).evictLine v
      | none => { s with freeCtr := s.freeCtr + 1 }) := fun o => by cases o <;> exact .of_still
  exact .ite ((evicted _).trans (.memDebit (by omega))) (evicted _)

theorem ReadOnly.markStream (a : Attr) (line : Nat) : ReadOnly s (s.markStream a line) := .ite .of_still .refl

theorem ReadOnly.dramAccess (a : Attr) (pa : Nat) {i : Nat} (hi : 128 ≤ i) : ReadOnly s (s.dramAccess a pa i none) := by
  unfold State.dramAccess
  have streamed : ReadOnly s (State.markStream { s with freeCtr := s.freeCtr + 1 } a (pa / 64)) :=
    ReadOnly.trans .of_still (.markStream _ _)
  exact .ite .refl (.ite (.memDebit hi) (.ite ((streamed.trans (.memDebit hi)).trans (.evictFor _)) streamed))

/-! ## Owned words and errors: there are none -/

theorem findErrs_of_nil (h : s.errs = []) (p : ErrAt → Bool) : s.findErrs p = s := by simp [State.findErrs, h]

theorem findMem_of_nil (h : s.errs = []) (pa n : Nat) : s.findMem pa n = s := findErrs_of_nil h _

theorem recallThose_of_nil (h : s.owners = []) (p : Owner → Bool) (a : Attr) (pa n : Nat) : s.recallThose p a pa n = s := by
  simp [State.recallThose, h]

theorem recallOwners_of_nil (ho : s.owners = []) (he : s.errs = []) (keep : Option EntId) (a : Attr) (pa n : Nat) :
    s.recallOwners keep a pa n = s := by
  simp [State.recallOwners, State.recallIf, recallThose_of_nil ho, findMem_of_nil he]

/-! ## Reads -/

theorem readHome_value (ho : s.owners = []) (he : s.errs = []) (w : Who) (a : Attr) (pa n : Nat) :
    (s.readHome w a pa n).1 = s.physRd pa n := by
  simp only [State.readHome, recallOwners_of_nil ho he]

theorem ReadOnly.readHome (ho : s.owners = []) (he : s.errs = []) {w : Who} (hi : 128 ≤ w.island) (ht : w.task = none) (a : Attr)
    (pa n : Nat) : ReadOnly s (s.readHome w a pa n).2 := by
  simp only [State.readHome, recallOwners_of_nil ho he, ht]
  exact .ite (.dramAccess _ _ hi) .refl

theorem paTarget_of_le {pa n : Nat} (h : pa + n ≤ 0x9000000000) (hn : 0 < n) : paTarget pa = 0 := by
  rw [paTarget, Nat.div_eq_of_lt (by omega)]

theorem paHawser_of_le {pa n : Nat} (h : pa + n ≤ 0x9000000000) (hn : 0 < n) : paHawser pa = false := by
  simp [paHawser, paTarget_of_le h hn]

theorem physRd_of_le {pa n : Nat} (h : pa + n ≤ 0x9000000000) (hn : 0 < n) : s.physRd pa n = Memory.rdN s.dram pa n := by
  simp [State.physRd, paTarget_of_le h hn]

/-! ## Writes -/

theorem writeHome_of_nil (ho : s.owners = []) (he : s.errs = []) (w : Who) (own : Option EntId) (a : Attr) (pa : Nat)
    (l : List Span) : s.writeHome w own a pa l = s.writeOwned w own a pa l := by
  have kept : ∀ m : List Span, m.foldl (fun s p => (s.recallThose (fun _ => true) a p.pa p.n).findSpan l p) s = s := by
    intro m
    induction m with
    | nil => rfl
    | cons p r ih =>
      rw [List.foldl_cons, recallThose_of_nil ho]
      have : s.findSpan l p = s := by simp [State.findSpan, findMem_of_nil he]
      rw [this, ih]
  rw [State.writeHome, kept]

/-- What precedes the data of a write at its home: invalidations, timestamps and the transfer. -/
def beforeData (s : State) (w : Who) (own : Option EntId) (a : Attr) (pa : Nat) (l : List Span) : State :=
  let u := s.invalidateFor own a pa l
  if w.first then (u.stampWrite w.core a pa).dramAccess a pa w.island w.task else u

theorem ReadOnly.beforeData {w : Who} (hc : w.core = none) (hi : 128 ≤ w.island) (ht : w.task = none) (own : Option EntId)
    (a : Attr) (pa : Nat) (l : List Span) : ReadOnly s (beforeData s w own a pa l) := by
  have copies := ReadOnly.invalidateFor (s := s) own a pa l
  simp only [Claims.beforeData, hc, ht]
  exact .ite ((copies.trans (.stampWrite _ _)).trans (.dramAccess _ _ hi)) copies

theorem writeHome_eq (ho : s.owners = []) (he : s.errs = []) (w : Who) (own : Option EntId) (a : Attr) {pa : Nat}
    (hpa : paHawser pa = false) (l : List Span) : s.writeHome w own a pa l =
      (if w.host then beforeData s w own a pa l else (beforeData s w own a pa l).backInvalidate pa).writeData l := by
  rw [writeHome_of_nil ho he, State.writeOwned, hpa]
  rfl

theorem Accessed.backInvalidate (pa : Nat) : Accessed s (s.backInvalidate pa) := by
  unfold State.backInvalidate
  split
  · exact .of_still rfl
  · exact .refl

theorem Accessed.setRope {r : Nat} {k : Rope} : Accessed s (s.setRope r k) := .of_still rfl

theorem Accessed.headWritten (l : List Span) : Accessed s (s.headWritten l) := by
  dsimp only [State.headWritten]
  generalize s.ropes.filter _ = m
  induction m generalizing s with
  | nil => exact .refl
  | cons e r ih =>
    rw [List.foldl_cons]
    exact Accessed.setRope.trans ih

theorem headWritten_dram (l : List Span) : (s.headWritten l).dram = s.dram := by
  dsimp only [State.headWritten]
  generalize s.ropes.filter _ = m
  induction m generalizing s with
  | nil => rfl
  | cons e r ih => rw [List.foldl_cons, ih]; rfl

theorem headWritten_outbox (l : List Span) : (s.headWritten l).outbox = s.outbox := by
  dsimp only [State.headWritten]
  generalize s.ropes.filter _ = m
  induction m generalizing s with
  | nil => rfl
  | cons e r ih => rw [List.foldl_cons, ih]; rfl

theorem physWr_of_dram {pa n v : Nat} (h : paTarget pa = 0) : s.physWr pa n v = { s with dram := s.dramWr pa n v } := by
  simp [State.physWr, h]

theorem writeData_one {pa n v : Nat} (h : paTarget pa = 0) : s.writeData [⟨pa, n, v⟩] =
    { (State.headWritten { s with dram := s.dramWr pa n v } [⟨pa, n, v⟩]) with
      poison := ((State.headWritten { s with dram := s.dramWr pa n v } [⟨pa, n, v⟩]).poison.filter
        (fun g => !coversGranule [⟨pa, n, v⟩] g)) } := by
  simp only [State.writeData, List.foldl_cons, List.foldl_nil, physWr_of_dram h]

theorem Accessed.writeData_one {pa n v : Nat} (h : paTarget pa = 0) : Accessed s (s.writeData [⟨pa, n, v⟩]) := by
  rw [Claims.writeData_one h]
  have data : Accessed s { s with dram := s.dramWr pa n v } := .of_still rfl
  exact (data.trans (.headWritten _)).trans (.of_still rfl)

theorem writeData_one_dram {pa n v : Nat} (h : paTarget pa = 0) : (s.writeData [⟨pa, n, v⟩]).dram = s.dramWr pa n v := by
  rw [writeData_one h]
  exact headWritten_dram _

theorem backInvalidate_dram (pa : Nat) : (s.backInvalidate pa).dram = s.dram := by
  unfold State.backInvalidate
  split <;> rfl

/-- A write of one span by a unit of the hub. -/
theorem Accessed.writeHome_one (ho : s.owners = []) (he : s.errs = []) {w : Who} (hc : w.core = none) (hi : 128 ≤ w.island)
    (ht : w.task = none) (own : Option EntId) (a : Attr) {pa n v : Nat} (hpa : paTarget pa = 0) :
    Accessed s (s.writeHome w own a pa [⟨pa, n, v⟩]) := by
  have before := (ReadOnly.beforeData (s := s) hc hi ht own a pa [⟨pa, n, v⟩]).toAccessed
  rw [writeHome_eq ho he _ _ _ (by simp [paHawser, hpa])]
  refine Accessed.trans ?_ (.writeData_one hpa)
  split
  · exact before
  · exact before.trans (.backInvalidate _)

theorem dramWr_congr (hd : t.dram = s.dram) (hm : t.mon = s.mon) (pa n v : Nat) : t.dramWr pa n v = s.dramWr pa n v := by
  simp only [State.dramWr, hd, hm]

theorem writeHome_one_dram (ho : s.owners = []) (he : s.errs = []) {w : Who} (hc : w.core = none) (hi : 128 ≤ w.island)
    (ht : w.task = none) (own : Option EntId) (a : Attr) {pa n v : Nat} (hpa : paTarget pa = 0) :
    (s.writeHome w own a pa [⟨pa, n, v⟩]).dram = s.dramWr pa n v := by
  have before := ReadOnly.beforeData (s := s) hc hi ht own a pa [⟨pa, n, v⟩]
  rw [writeHome_eq ho he _ _ _ (by simp [paHawser, hpa]), writeData_one_dram hpa]
  split
  · exact dramWr_congr before.dram before.mon _ _ _
  · exact dramWr_congr ((backInvalidate_dram _).trans before.dram)
      ((Accessed.backInvalidate _).mon.trans before.mon) _ _ _

theorem dramWr_of_apart {pa : Nat} (h : ApartFromTable s pa) {n : Nat} (hn : n ≤ 128) (v : Nat) :
    s.dramWr pa n v = Memory.wrN s.dram pa v n := by
  unfold State.dramWr
  split
  · rfl
  · next b hb =>
    rw [if_pos]
    rcases h b hb with h | h
    · simp only [Bool.or_eq_true, decide_eq_true_eq]; omega
    · simp only [Bool.or_eq_true, decide_eq_true_eq]; omega

end Sys2Proof.Claims
end

section
/-! SUPPORT. The events of one context: stalls that clear, traps before a bundle, entry into the user trap handler, records of a
recorded task, and the end of a context (R38, R47, R55, R173, R275, R284, R368, R372, R423). -/

namespace Sys2Proof.Claims

open Sys2Proof Sys2Proof.Machine

variable {s : State} {x : CtxNo}

/-! ## Records of the Wonus log -/

theorem wonusLog_of_not_recorded {task : Nat} (h : s.recorded task = false) (typ src seq : Nat) (data : Word) :
    s.wonusLog task typ src seq data = s := by simp [State.wonusLog, h]

/-- The oldest waiting record of a ring with space is written at its home. -/
theorem wonusWrite_of_room {r : WonusRec} (hw : s.wonus = [r]) (hf : s.mgmt.ringFull = false) (ho : s.owners = []) (he : s.errs = [])
    (hpa : s.mgmt.wbase.toNat * 64 + 16 * (s.mgmt.wtail.toNat % 2 ^ s.mgmt.wlog.toNat) + 16 ≤ 0x9000000000) :
    ∃ u, s.wonusWrite = { u with wonus := [], mgmt := { s.mgmt with wtail := s.mgmt.wtail + 1 } } ∧ Accessed s u ∧
      u.dram = s.dramWr (s.mgmt.wbase.toNat * 64 + 16 * (s.mgmt.wtail.toNat % 2 ^ s.mgmt.wlog.toNat)) 16 r.word := by
  have target := paTarget_of_le hpa (by omega)
  have acc := Accessed.writeHome_one ho he (w := whoPort) rfl (by decide) rfl none
    (s.hostAttr (s.mgmt.wbase.toNat * 64 + 16 * (s.mgmt.wtail.toNat % 2 ^ s.mgmt.wlog.toNat))) (n := 16) (v := r.word) target
  refine ⟨_, ?_, acc, writeHome_one_dram ho he rfl (by decide) rfl _ _ target⟩
  simp only [State.wonusWrite, hw, hf, Bool.false_eq_true, if_false, acc.mgmt]

/-- A recorded task logs one record where none waits (R423). -/
theorem logs_wonusLog {task typ src seq : Nat} {data : Word} (hr : s.recorded task = true) (hw : s.wonus = []) :
    Logs s (.next (s.wonusLog task typ src seq data))
      ⟨BitVec.ofNat 4 typ, BitVec.ofNat 8 src, BitVec.ofNat 20 (s.slotOf task), BitVec.ofNat 32 seq, data⟩ := by
  let r : WonusRec := ⟨BitVec.ofNat 4 typ, BitVec.ofNat 8 src, BitVec.ofNat 20 (s.slotOf task), BitVec.ofNat 32 seq, data⟩
  have one : s.wonusLog task typ src seq data = ({ s with wonus := [r] } : State).wonusWrite := by
    simp only [State.wonusLog, hr, hw, if_true, List.nil_append, List.length_singleton, State.wonusDrain]; rfl
  rw [one]
  refine ⟨fun full => ?_, fun room hpa ho he apart => ?_⟩
  · have : s.mgmt.ringFull = true := decide_eq_true full
    simp only [State.wonusWrite, this, if_true]; rfl
  · have hf : s.mgmt.ringFull = false := decide_eq_false (Nat.not_le.2 room)
    obtain ⟨u, hu, acc, dram⟩ := wonusWrite_of_room (s := { s with wonus := [r] }) rfl hf ho he hpa
    rw [hu]
    have ids (l m : List GOp) (e : l.map bareOp = m.map bareOp) : l.map (·.id) = m.map (·.id) := by
      simpa [Function.comp_def, bareOp] using congrArg (List.map (·.id)) e
    exact ⟨_, rfl, rfl, rfl, dram.trans (dramWr_of_apart apart (by omega) _), acc.hostMem, acc.ctxs, ids _ _ acc.ops, acc.tasks⟩

/-! ## Traps before a bundle -/

theorem trapped_of_not_recorded {i orig} (h : s.recorded (s.ctx x).task = false) : s.trapped x i orig = s.takeTrap x i orig := by
  unfold State.trapped
  exact wonusLog_of_not_recorded (s := s.takeTrap x i orig) h _ _ _ _

theorem canTrap_of_ready {c : Ctx} (h : c.st = .ready) : c.canTrap = true := by simp [Ctx.canTrap, h]

/-- The record of a context, as the statement writes it: SRC is the context's place in its core. -/
theorem ctxSrc_eq : ctxSrc x = x.val % 16 := by simp only [ctxSrc, ctxPart, ctxSlot]; omega

/-- A trap of a recorded task is logged with its class and cause (R423). -/
theorem logs_trapped {i : TrapInfo} {orig} (hr : s.recorded (s.ctx x).task = true) (hw : s.wonus = []) :
    Logs (s.takeTrap x i orig) (.next (s.trapped x i orig))
      ⟨5, BitVec.ofNat 8 (x.val % 16), BitVec.ofNat 20 (s.slotOf (s.ctx x).task),
        BitVec.ofNat 32 (s.part (x.val / 4)).pcyc, BitVec.ofNat 64 (i.cls.toNat + i.cause.toNat * 2 ^ 8)⟩ := by
  rw [← ctxSrc_eq]
  exact logs_wonusLog (s := s.takeTrap x i orig) hr hw

theorem exec_bound (hst : (s.ctx x).st = .ready) (hl : (s.ctx x).limit ≠ 0) (hd : (s.ctx x).dcount = (s.ctx x).limit) :
    exec (.bound x) s = .next (s.trapped x ⟨0x04, 0x01, 7, 0⟩ none) := by
  have limit : (s.ctx x).atLimit = true := by simp only [Ctx.atLimit, hd, decide_true, Bool.and_true]; exact decide_eq_true hl
  show Host.Outcome.next (if _ then _ else _) = _
  rw [canTrap_of_ready hst, limit, hst]
  rfl

theorem exec_deferredTrap {d r} (hst : (s.ctx x).st = .ready) (hd : (s.ctx x).deferred = d :: r) :
    exec (.deferredTrap x) s =
      .next (State.trapped (s.setCtx x { s.ctx x with deferred := r }) x ⟨d.cls, d.cause, 4, d.faddr⟩ (some d.orig)) := by
  show Host.Outcome.next (if _ then _ else _) = _
  rw [canTrap_of_ready hst, hst, hd]
  simp only [State.deferredTrap, hd]
  rfl

theorem exec_illegalEncoding {i} (hst : (s.ctx x).st = .ready) (hf : s.fetchCause x = some i) :
    exec (.illegalEncoding x) s = .next (s.trapped x i none) := by
  show Host.Outcome.next (match s.fetchCause x with
    | some i => if (s.ctx x).canTrap then (s.trapped x i none).leaveIf (s.ctx x).st x else s
    | none => s) = _
  rw [hf, canTrap_of_ready hst, hst]
  rfl

theorem fetchCause_of_past {team} (ht : s.teamOf x = some team) (h : team.nbun ≤ (s.ctx x).pc.toNat) :
    s.fetchCause x = some ⟨0x01, 0x09, 7, 0⟩ := by
  simp only [State.fetchCause, ht, h, if_true]; rfl

theorem fetchCause_of_ipar {team} (ht : s.teamOf x = some team) (h : (s.ctx x).pc.toNat < team.nbun)
    (hi : (s.ctx x).pc.toNat ∈ team.ipar) : s.fetchCause x = some ⟨0x0D, 0x01, 7, 0⟩ := by
  simp only [State.fetchCause, ht, Nat.not_le.2 h, if_false, List.contains_iff_mem.2 hi, if_true]; rfl

theorem fetchCause_of_bundle {team cause part} (ht : s.teamOf x = some team) (h : (s.ctx x).pc.toNat < team.nbun)
    (hi : (s.ctx x).pc.toNat ∉ team.ipar)
    (hb : bundleCause team.mtx team.hal (SMap.get 0 team.bundles (s.ctx x).pc.toNat) = some (cause, part)) :
    s.fetchCause x = some ⟨0x01, cause.code, part, 0⟩ := by
  have notin : team.ipar.contains (s.ctx x).pc.toNat = false := by simpa using hi
  simp only [State.fetchCause, ht, Nat.not_le.2 h, if_false, notin, Bool.false_eq_true, hb, Option.map_some]; rfl

/-! ## Entry into the user trap handler -/

/-- A context without what the landing of a change of VRB or PRB writes. -/
def pastBases (c : Ctx) : Ctx := { c with vrb := 0, prb := 0, astat := 0, rpar := [] }

theorem pastBases_landOne {c : Ctx} {f : Flight} (h : f.dst = .vrb ∨ f.dst = .prb) : pastBases (c.landOne f) = pastBases c := by
  unfold Ctx.landOne
  split
  · rcases h with h | h <;> rw [h] <;> rfl
  · rfl

theorem pastBases_foldl {l : List Flight} (h : ∀ f ∈ l, f.dst = .vrb ∨ f.dst = .prb) (c : Ctx) :
    pastBases (l.foldl Ctx.landOne c) = pastBases c := by
  induction l generalizing c with
  | nil => rfl
  | cons f r ih =>
    rw [List.foldl_cons, ih (fun g hg => h g (List.mem_cons_of_mem _ hg)), pastBases_landOne (h f (by simp))]

theorem mem_insDue {f g : Flight} {l : List Flight} : g ∈ insDue f l ↔ g = f ∨ g ∈ l := by
  induction l with
  | nil => simp [insDue]
  | cons k r ih =>
    unfold insDue
    split
    · simp
    · simp only [List.mem_cons, ih]; tauto

theorem mem_byDue {g : Flight} {l : List Flight} : g ∈ byDue l ↔ g ∈ l := by
  suffices ∀ acc, g ∈ l.foldl (fun acc f => insDue f acc) acc ↔ g ∈ l ∨ g ∈ acc by simpa [byDue] using this []
  induction l with
  | nil => simp
  | cons f r ih => intro acc; rw [List.foldl_cons, ih, mem_insDue]; simp only [List.mem_cons]; tauto

/-- The landing of the bases changes no field that the entry saves. -/
theorem pastBases_landBases (c : Ctx) : pastBases c.landBases = pastBases { c with
    flight := c.flight.filter (fun f => !(f.dst = .vrb || f.dst = .prb))
    held := c.held.filter (fun f => !(f.dst = .vrb || f.dst = .prb)) } := by
  refine pastBases_foldl (fun f hf => ?_) _
  rw [List.mem_append, mem_byDue, List.mem_filter, List.mem_filter] at hf
  rcases hf with ⟨_, hf⟩ | ⟨_, hf⟩
  · simpa using hf
  · simpa using hf

theorem landBases_of_none {c : Ctx} (h : ∀ f ∈ c.flight ++ c.held, f.dst ≠ .vrb ∧ f.dst ≠ .prb) : c.landBases = c := by
  have hf : c.flight.filter (fun f => f.dst = .vrb || f.dst = .prb) = [] := by
    rw [List.filter_eq_nil_iff]; intro f hf; simpa using h f (List.mem_append_left _ hf)
  have hh : c.held.filter (fun f => f.dst = .vrb || f.dst = .prb) = [] := by
    rw [List.filter_eq_nil_iff]; intro f hf; simpa using h f (List.mem_append_right _ hf)
  have kf : c.flight.filter (fun f => !(f.dst = .vrb || f.dst = .prb)) = c.flight := by
    rw [List.filter_eq_self]; intro f hf; simpa using h f (List.mem_append_left _ hf)
  have kh : c.held.filter (fun f => !(f.dst = .vrb || f.dst = .prb)) = c.held := by
    rw [List.filter_eq_self]; intro f hf; simpa using h f (List.mem_append_right _ hf)
  simp only [Ctx.landBases, hf, hh, kf, kh]
  rfl

/-- One change of a base is in flight: it lands, and every other result stays as it was. -/
theorem landBases_of_one {c : Ctx} {a b : List Flight} {f : Flight} {v : VReg} (hc : c.flight = a ++ f :: b) (hh : c.held = [])
    (hv : f.value = some v) (hd : f.dst = .vrb ∨ f.dst = .prb) (hfl : f.flags = 0) (hr : c.rpar = [])
    (ho : ∀ h ∈ a ++ b, h.dst ≠ .vrb ∧ h.dst ≠ .prb) :
    c.landBases = { c with
      flight := a ++ b, vrb := if f.dst = .vrb then v.setWidth 5 else c.vrb, prb := if f.dst = .prb then v.setWidth 6 else c.prb } := by
  have none (l : List Flight) (hl : ∀ h ∈ l, h.dst ≠ .vrb ∧ h.dst ≠ .prb) :
      l.filter (fun f => f.dst = .vrb || f.dst = .prb) = [] ∧ l.filter (fun f => !(f.dst = .vrb || f.dst = .prb)) = l := by
    rw [List.filter_eq_nil_iff, List.filter_eq_self]
    exact ⟨fun h hm => by simpa using hl h hm, fun h hm => by simpa using hl h hm⟩
  obtain ⟨na, ka⟩ := none a fun h hm => ho h (List.mem_append_left _ hm)
  obtain ⟨nb, kb⟩ := none b fun h hm => ho h (List.mem_append_right _ hm)
  have base : (f.dst = .vrb || f.dst = .prb) = true := by simpa using hd
  have one : c.landBases = Ctx.landOne { c with flight := a ++ b, held := [] } f := by
    simp only [Ctx.landBases, hc, hh, List.filter_append, List.filter_cons, base, na, nb, ka, kb, if_true, Bool.not_true,
      Bool.false_eq_true, if_false, List.nil_append, List.filter_nil]
    rfl
  rw [one]
  simp only [Ctx.landOne, hv, hfl, hr]
  rcases hd with h | h
  · simp [h, Ctx.write, Ctx.orFlags, ← hh]
  · simp [h, Ctx.write, Ctx.orFlags, ← hh]

theorem throttleEntry_of_utv {c : Ctx} {t : Nat} (ht : c.throttle = true) (hi : c.inh = false) (hu : c.utv.getLsbD 13 = true) :
    c.throttleEntry t = { c.landBases with
      upc := c.pc, unpc := c.npc, ubp := c.bp, pc := (c.utv.setWidth 13).setWidth 64
      npc := (c.utv.setWidth 13).setWidth 64 + 1, bp := false, inh := true, throttle := false, release := false
      flight := [], held := []
      heldU := c.heldU ++ c.landBases.held ++ c.landBases.flight.map (fun f => { f with due := f.due - t }) } := by
  have past := pastBases_landBases c
  have utv : c.utv.setWidth 64 &&& 0x1FFF = (c.utv.setWidth 13).setWidth 64 := by
    ext i hi
    have bits : ∀ i < 64, (0x1FFF : BitVec 64).getLsbD i = decide (i < 13) := by decide
    have low := bits i hi
    simp only [BitVec.getElem_and, BitVec.getElem_setWidth, BitVec.getLsbD_setWidth]
    rw [← BitVec.getLsbD_eq_getElem, low, Bool.and_comm]
  have hpc : c.landBases.pc = c.pc := (congrArg Ctx.pc past :)
  have hnpc : c.landBases.npc = c.npc := (congrArg Ctx.npc past :)
  have hbp : c.landBases.bp = c.bp := (congrArg Ctx.bp past :)
  have hutv : c.landBases.utv = c.utv := (congrArg Ctx.utv past :)
  have hheld : c.landBases.heldU = c.heldU := (congrArg Ctx.heldU past :)
  simp only [Ctx.throttleEntry, ht, hi, hu, Bool.not_true, Bool.or_self, Bool.false_eq_true, if_false, if_true, Ctx.userTrap, hpc,
    hnpc, hbp, hutv, hheld, utv]
  rfl

theorem throttleEntry_of_no_utv {c : Ctx} {t : Nat} (ht : c.throttle = true) (hi : c.inh = false) (hu : c.utv.getLsbD 13 = false) :
    c.throttleEntry t = { c with throttle := false } :=
  (if_neg (by rw [ht, hi]; decide)).trans (if_neg (by rw [hu]; decide))

theorem entersUser_eq {c : Ctx} (ht : c.throttle = true) (hi : c.inh = false) : c.entersUser = c.utv.getLsbD 13 := by
  simp only [Ctx.entersUser, ht, hi, Bool.not_false, Bool.true_and]

theorem task_landBases (c : Ctx) : c.landBases.task = c.task := (congrArg Ctx.task (pastBases_landBases c) :)

theorem exec_userTrapEntry (hst : (s.ctx x).st = .ready) : exec (.userTrapEntry x) s =
    .next (if (s.ctx x).entersUser then
        State.throttlePoint (s.setCtx x ((s.ctx x).throttleEntry (s.part (x.val / 4)).pcyc)) x
      else s.setCtx x ((s.ctx x).throttleEntry (s.part (x.val / 4)).pcyc)) := by
  show Host.Outcome.next (if _ then _ else _) = _
  rw [canTrap_of_ready hst]
  rfl

/-! ## Stalls and the end of a context -/

theorem exec_stallClear (hst : (s.ctx x).st = .stalled) (he : (s.ctx x).ending = false)
    (h : ((s.ctx x).limit ≠ 0 ∧ (s.ctx x).dcount = (s.ctx x).limit) ∨ s.blocked x = false) :
    exec (.stallClear x) s = .next (s.setCtx x { s.ctx x with st := .ready }) := by
  have clear : ((s.ctx x).atLimit || !s.blocked x) = true := by
    rw [Bool.or_eq_true]
    refine h.imp (fun ⟨hl, hd⟩ => ?_) (fun hb => by rw [hb]; rfl)
    exact Bool.and_eq_true_iff.2 ⟨decide_eq_true hl, decide_eq_true hd⟩
  refine congrArg Host.Outcome.next (if_pos ?_)
  rw [hst, he, clear]; rfl

theorem exec_contextEnded (he : (s.ctx x).ending = true) (hst : (s.ctx x).st = .stalled) (hd : (s.ctx x).deferred = [])
    (h : s.endable x = true) : exec (.contextEnded x) s = .next (s.setCtx x { s.ctx x with st := .ended }) := by
  refine congrArg Host.Outcome.next ((if_neg ?_).trans ((if_neg ?_).trans (if_pos h)))
  · rw [he, hst]; decide
  · rw [hd]; decide

end Sys2Proof.Claims
end

section Settled

open Sys2Proof Sys2Proof.Machine Sys2Proof.Claims

/-- Settles O31: each event is one write of its context or one trap, and of a recorded task one record more. -/
theorem contextEvents : Obligations.ContextEvents := by
  unfold Obligations.ContextEvents
  intro s x c t
  refine ⟨fun hst he h => exec_stallClear hst he h, fun hst hl hd hr => ?_, fun d r hst hd hr => ?_, fun team hst hr hteam => ?_,
    fun hst ht hi hr => ⟨fun hu => ?_, fun hu => ?_⟩, fun h => landBases_of_none h,
    fun a b f v hc hh hv hd hfl hrp ho => landBases_of_one hc hh hv hd hfl hrp ho, ?_,
    fun he hst hd hf hh hu hq ho => exec_contextEnded he hst hd ?_⟩
  · rw [exec_bound hst hl hd, trapped_of_not_recorded hr]
  · have hr' : (s.setCtx x { c with deferred := r }).recorded ((s.setCtx x { c with deferred := r }).ctx x).task = false := by
      rw [State.setCtx_ctx_same]; exact hr
    rw [exec_deferredTrap hst hd, trapped_of_not_recorded hr']
  · refine ⟨fun h => ?_, fun h hi => ?_, fun cause part h hi hb => ?_⟩
    · rw [exec_illegalEncoding hst (fetchCause_of_past hteam h), trapped_of_not_recorded hr]
    · rw [exec_illegalEncoding hst (fetchCause_of_ipar hteam h hi), trapped_of_not_recorded hr]
    · rw [exec_illegalEncoding hst (fetchCause_of_bundle hteam h hi hb), trapped_of_not_recorded hr]
  · rw [exec_userTrapEntry hst, if_pos ((entersUser_eq ht hi).trans hu), throttleEntry_of_utv ht hi hu]
    refine congrArg _ (wonusLog_of_not_recorded ?_ _ _ _ _)
    rw [State.setCtx_ctx_same]
    exact (congrArg s.recorded (task_landBases c)).trans hr
  · rw [exec_userTrapEntry hst, if_neg (by rw [entersUser_eq ht hi, hu]; decide), throttleEntry_of_no_utv ht hi hu]
  · intro rec_ hst hr hw
    refine ⟨fun hl hd => ?_, fun d r hd => ?_, fun team hteam h => ?_, fun ht hi hu => ?_⟩
    · rw [exec_bound hst hl hd]; exact logs_trapped hr hw
    · have hr' : (s.setCtx x { c with deferred := r }).recorded ((s.setCtx x { c with deferred := r }).ctx x).task = true := by
        rw [State.setCtx_ctx_same]; exact hr
      rw [exec_deferredTrap hst hd]
      have := logs_trapped (i := ⟨d.cls, d.cause, 4, d.faddr⟩) (orig := some d.orig) hr' hw
      rw [State.setCtx_ctx_same] at this
      exact this
    · rw [exec_illegalEncoding hst (fetchCause_of_past hteam h)]; exact logs_trapped hr hw
    · rw [exec_userTrapEntry hst, if_pos ((entersUser_eq ht hi).trans hu)]
      have task : (c.throttleEntry t).task = c.task := by
        rw [throttleEntry_of_utv ht hi hu]; exact task_landBases c
      let u : State := { (s.setCtx x (c.throttleEntry t)) with freeCtr := s.freeCtr + 1 }
      have at_x : u.ctx x = c.throttleEntry t := State.setCtx_ctx_same _ _ _
      refine ⟨Config.stateWord 6 s.freeCtr, u, ?_, ?_, ?_, fun y hy => State.setCtx_ctx_ne _ _ hy, rfl⟩
      · have := logs_wonusLog (s := u) (task := c.task) (typ := 6) (src := ctxSrc x) (seq := t)
          (data := Config.stateWord 6 s.freeCtr) hr hw
        rw [ctxSrc_eq] at this
        unfold State.throttlePoint
        rw [State.setCtx_ctx_same, task, ctxSrc_eq]
        exact this
      · rw [at_x, throttleEntry_of_utv ht hi hu]
      · rw [at_x, throttleEntry_of_utv ht hi hu]
  · have ops : (s.ops.any fun o => o.x = x && !o.eng && o.kind.endWaits) = false := by
      rw [List.any_eq_false]
      intro o hm
      by_cases e : o.x = x
      · rcases ho o hm e with h | h <;> simp [h]
      · simp [e]
    have hf : (s.ctx x).flight = [] := hf
    have hh : (s.ctx x).held = [] := hh
    have hu : (s.ctx x).heldU = [] := hu
    have hq : (s.ctx x).stq = [] := hq
    simp only [State.endable, hf, hh, hu, hq, ops]
    rfl

end Settled

section
/-! SUPPORT. The tests and the transfers of Hawser links (R43, R44, R138, R270). -/

namespace Sys2Proof.Claims

open Sys2Proof Sys2Proof.Machine

variable {s : State}

/-! ## The tests of R270 -/

theorem myTeam_of {t : Team} (h : s.teamOf s.issue.x = some t) : s.myTeam = t := by simp [State.myTeam, h]

/-- The buffer of 128 bytes at offset o is aligned, within the window and not mapped. -/
def BufferOk (s : State) (t : Team) (o : Nat) : Prop := o % 8 = 0 ∧ o + 128 ≤ t.spadSize ∧ s.bufMapped o 128 = false

/-- What R270 raises at the first of its conditions that holds, of the test p of a link operation. -/
structure LinkRefuses (s : State) (t : Team) (pair o : Nat) (p : Pre) : Prop where
  align : o % 8 ≠ 0 → p = memTrap mALIGN o
  range : o % 8 = 0 → t.spadSize < o + 128 → p = memTrap mRANGE o
  bight : o % 8 = 0 → o + 128 ≤ t.spadSize → s.bufMapped o 128 = true → p = memTrap mBIGHT o
  link : BufferOk s t o → s.ownsPair pair = false → p = noAddrTrap s mLINK

variable {t : Team} {pair o : Nat}

theorem linkChecks_refuses (ht : s.teamOf s.issue.x = some t) : LinkRefuses s t pair o (linkChecks s pair o) := by
  refine ⟨fun h => if_pos h, fun h hr => ?_, fun h hr hb => ?_, fun ⟨h, hr, hb⟩ hl => ?_⟩
  · rw [linkChecks, if_neg (not_not_intro h), myTeam_of ht, if_pos hr]
  · rw [linkChecks, if_neg (not_not_intro h), myTeam_of ht, if_neg (Nat.not_lt.2 hr), if_pos hb]
  · rw [linkChecks, if_neg (not_not_intro h), myTeam_of ht, if_neg (Nat.not_lt.2 hr), hb, if_neg Bool.false_ne_true, hl]
    rfl

theorem LinkRefuses.congr {p q : Pre} (h : LinkRefuses s t pair o p) (e : q = p) : LinkRefuses s t pair o q := e ▸ h

theorem linkChecks_go (ht : s.teamOf s.issue.x = some t) (hb : BufferOk s t o) (hl : s.ownsPair pair = true) :
    linkChecks s pair o = .go := by
  obtain ⟨h, hr, hb⟩ := hb
  rw [linkChecks, if_neg (not_not_intro h), myTeam_of ht, if_neg (Nat.not_lt.2 hr), hb, if_neg Bool.false_ne_true, hl,
    if_neg (by decide)]

/-- On a fenced link the last test fails too. -/
def fencedChecks (s : State) (pair o : Nat) : Pre :=
  match linkChecks s pair o with
  | .go => noAddrTrap s mLINK
  | r => r

theorem fencedChecks_refuses (ht : s.teamOf s.issue.x = some t) : LinkRefuses s t pair o (fencedChecks s pair o) := by
  have r := linkChecks_refuses (pair := pair) (o := o) ht
  refine ⟨fun h => ?_, fun h hr => ?_, fun h hr hb => ?_, fun hb hl => ?_⟩
  · rw [fencedChecks, r.align h]; rfl
  · rw [fencedChecks, r.range h hr]; rfl
  · rw [fencedChecks, r.bight h hr hb]; rfl
  · rw [fencedChecks, r.link hb hl]; rfl

theorem fencedChecks_of_ok (ht : s.teamOf s.issue.x = some t) (hb : BufferOk s t o) (hl : s.ownsPair pair = true) :
    fencedChecks s pair o = noAddrTrap s mLINK := by
  rw [fencedChecks, linkChecks_go ht hb hl]

variable {l : BitVec 3} {v : BitVec 2} {a : BitVec 6}

theorem lsendPre_of_fenced (h : s.linkFenced l.toNat = true) :
    lsendPre s l v a = fencedChecks s (pairNo l.toNat v.toNat) (s.me.rs a).toNat := by
  simp only [lsendPre, h, if_true]; rfl

theorem lsendPre_of_no_credit (h : s.linkFenced l.toNat = false) (hc : (s.link (pairNo l.toNat v.toNat)).credits = 0) :
    lsendPre s l v a = .stall := by
  simp only [lsendPre, h, Bool.false_eq_true, if_false, hc, if_true]

theorem lsendPre_of_credit (h : s.linkFenced l.toNat = false) (hc : 0 < (s.link (pairNo l.toNat v.toNat)).credits) :
    lsendPre s l v a = linkChecks s (pairNo l.toNat v.toNat) (s.me.rs a).toNat := by
  simp only [lsendPre, h, Bool.false_eq_true, if_false, Nat.pos_iff_ne_zero.1 hc]

theorem lrecvPre_of_flit (h : (s.link (pairNo l.toNat v.toNat)).flits ≠ []) :
    lrecvPre s l v a = linkChecks s (pairNo l.toNat v.toNat) (s.me.rs a).toNat := by
  simp only [lrecvPre, List.isEmpty_iff, h, if_false]

theorem lrecvPre_of_no_flit (h : s.linkFenced l.toNat = false) (hf : (s.link (pairNo l.toNat v.toNat)).flits = []) :
    lrecvPre s l v a = .stall := by
  simp only [lrecvPre, hf, List.isEmpty_nil, if_true, h, Bool.false_eq_true, if_false]

theorem lrecvPre_of_fenced (h : s.linkFenced l.toNat = true) (hf : (s.link (pairNo l.toNat v.toNat)).flits = []) :
    lrecvPre s l v a = fencedChecks s (pairNo l.toNat v.toNat) (s.me.rs a).toNat := by
  simp only [lrecvPre, hf, List.isEmpty_nil, if_true, h]; rfl

/-! ## The flit's bytes -/

theorem filterMap_dropFlit {q : List (Option VReg)} {f r} (h : q.filterMap id = f :: r) : (dropFlit q).filterMap id = r := by
  induction q with
  | nil => cases h
  | cons e q ih =>
    cases e with
    | none => exact ih h
    | some d => exact (List.cons.inj h).2

/-- A write of n bytes, byte by byte. -/
theorem rd_wrN_in (m : Memory) (a v n i : Nat) (h : i < n) : Memory.rd (Memory.wrN m a v n) (a + i) = BitVec.ofNat 8 (v / 256 ^ i) := by
  induction n generalizing m a v i with
  | zero => omega
  | succ n ih =>
    cases i with
    | zero => simp [Memory.wrN, Memory.rd_wrN_out]
    | succ i =>
      rw [Memory.wrN, show a + (i + 1) = a + 1 + i by omega, ih _ _ _ _ (by omega), Nat.div_div_eq_div_mul, Nat.pow_succ,
        Nat.mul_comm 256]

/-- The low k 64-bit parts of a flit, written from address b. -/
def flitMem (m : Memory) (b : Nat) (f : VReg) (k : Nat) : Memory :=
  (List.range k).foldl (fun m k => Memory.wrN m (b + 8 * k) (bitsOf f.toNat (64 * k) 64) 8) m

theorem flitMem_succ (m : Memory) (b : Nat) (f : VReg) (k : Nat) :
    flitMem m b f (k + 1) = Memory.wrN (flitMem m b f k) (b + 8 * k) (bitsOf f.toNat (64 * k) 64) 8 := by
  simp [flitMem, List.range_succ]

theorem rd_flitMem_out (m : Memory) (b : Nat) (f : VReg) (k i : Nat) (h : i < b ∨ b + 8 * k ≤ i) :
    Memory.rd (flitMem m b f k) i = Memory.rd m i := by
  induction k with
  | zero => rfl
  | succ k ih => rw [flitMem_succ, Memory.rd_wrN_out _ _ _ _ _ (by omega), ih (by omega)]

theorem byte_of_part (x k j : Nat) (h : j < 8) : bitsOf x (64 * k) 64 / 256 ^ j % 256 = x / 2 ^ (8 * (8 * k + j)) % 256 := by
  have e : 2 ^ 64 = 256 ^ j * 2 ^ (8 * (8 - j)) := by
    rw [show (256 : Nat) = 2 ^ 8 from rfl, ← Nat.pow_mul, ← Nat.pow_add]; congr 1; omega
  have d : (256 : Nat) ∣ 2 ^ (8 * (8 - j)) := by
    rw [show (256 : Nat) = 2 ^ 8 from rfl]; exact Nat.pow_dvd_pow _ (by omega)
  rw [bitsOf, e, Nat.mod_mul_right_div_self, Nat.mod_mod_of_dvd _ d, Nat.div_div_eq_div_mul,
    show (256 : Nat) ^ j = 2 ^ (8 * j) by rw [show (256 : Nat) = 2 ^ 8 from rfl, ← Nat.pow_mul], ← Nat.pow_add]
  congr 3; omega

theorem rd_flitMem (m : Memory) (b : Nat) (f : VReg) (k i : Nat) (h : i < 8 * k) :
    Memory.rd (flitMem m b f k) (b + i) = BitVec.ofNat 8 (f.toNat / 2 ^ (8 * i) % 256) := by
  induction k with
  | zero => omega
  | succ k ih =>
    rw [flitMem_succ]
    by_cases hk : i < 8 * k
    · rw [Memory.rd_wrN_out _ _ _ _ _ (by omega), ih hk]
    · obtain ⟨j, rfl⟩ : ∃ j, i = 8 * k + j := ⟨i - 8 * k, by omega⟩
      rw [← Nat.add_assoc, rd_wrN_in _ _ _ _ _ (by omega), ← byte_of_part _ _ _ (by omega)]
      apply BitVec.eq_of_toNat_eq
      simp

/-! ## The store of a flit -/

theorem spad_wrLoc {c off n v : Nat} :
    ((s.wrLoc ⟨c, false, off⟩ n v).core c).spad = Memory.wrN (s.core c).spad off v n := by
  have side : ∀ (l : List Nat) (k : Core),
      (l.foldl (fun c w => if (c.mapOf false w).isSome then c.setSide false w .stored else c) k).spad = k.spad := by
    intro l
    induction l with
    | nil => exact fun _ => rfl
    | cons w r ih =>
      intro k
      rw [List.foldl_cons, ih]
      split <;> rfl
  simp only [State.wrLoc, State.modCore, State.setCore_core_same, side]
  rfl

theorem foldl_wrLoc_spad {c b : Nat} (f : VReg) (l : List Nat) :
    ((l.foldl (fun u k => u.wrLoc ⟨c, false, b + 8 * k⟩ 8 (bitsOf f.toNat (64 * k) 64)) s).core c).spad =
      l.foldl (fun m k => Memory.wrN m (b + 8 * k) (bitsOf f.toNat (64 * k) 64) 8) (s.core c).spad := by
  induction l generalizing s with
  | nil => rfl
  | cons k r ih => rw [List.foldl_cons, ih, spad_wrLoc]; rfl

theorem flitStores_spad {f : VReg} (u : State) (o : Nat) :
    ((((s.flitStores o f).foldl (fun u e => u.wrLoc e.1 8 e.2.toNat) u)).core s.myCore).spad =
      flitMem (u.core s.myCore).spad (s.myTeam.spadBase + o) f 16 := by
  have part (k : Nat) : (BitVec.ofNat 64 (bitsOf f.toNat (64 * k) 64)).toNat = bitsOf f.toNat (64 * k) 64 := by
    simp [bitsOf]
  rw [State.flitStores, List.foldl_map]
  simp only [part]
  exact foldl_wrLoc_spad f _

theorem core_congr {t u : State} (h : t.cores = u.cores) (k : Nat) : t.core k = u.core k := by rw [State.core, h]; rfl

/-- The state u once the issuing context's store of 8-byte elements performed, or entered its store queue to wait. -/
def storedAfter (s u : State) (es : List (Loc × Word)) (after : List Nat) (hold : Nat) : State :=
  let now := after.isEmpty && decide (hold = 0)
  State.modCtx { u with
    nextOp := u.nextOp + 1
    cores := if now then (es.foldl (fun u e => u.wrLoc e.1 8 e.2.toNat) u).cores else u.cores } s.issue.x (fun c =>
    { c with stq := if now then c.stq else c.stq ++ [newStore u.nextOp 8 es after hold s.me.pc] })

/-- A store of 8-byte elements is no merge. -/
theorem storeElems_eight (es : List (Loc × Word)) : s.storeElems 8 es =
    let u := s.portFirst (es.map (fun e => (e.1, 8))) true
    storedAfter s u es (u.waitsFor s.issue.x (es.map (fun e => (e.1, 8)))) (Config.storeHold u.nextOp % 4) := by
  have none (u : State) : ¬(es.any (fun e => u.isMerge e.1 8)) = true := by simp [State.isMerge]
  rw [State.storeElems]
  exact if_neg (none _)

variable {u : State} {es : List (Loc × Word)} {after : List Nat} {hold : Nat}

theorem storedAfter_now (hh : hold = 0) (ha : after = []) :
    (storedAfter s u es after hold).cores = (es.foldl (fun u e => u.wrLoc e.1 8 e.2.toNat) u).cores ∧
      (storedAfter s u es after hold).ctx s.issue.x = u.ctx s.issue.x := by
  subst hh ha
  exact ⟨rfl, State.setCtx_ctx_same _ _ _⟩

theorem storedAfter_later (h : 0 < hold ∨ after ≠ []) :
    (storedAfter s u es after hold).cores = u.cores ∧ (storedAfter s u es after hold).ctx s.issue.x =
      { u.ctx s.issue.x with stq := (u.ctx s.issue.x).stq ++ [newStore u.nextOp 8 es after hold s.me.pc] } := by
  have later : (after.isEmpty && decide (hold = 0)) = false := by
    rcases h with h | h
    · simp [Nat.pos_iff_ne_zero.1 h]
    · simp [h]
  simp only [storedAfter, later]
  exact ⟨rfl, State.setCtx_ctx_same _ _ _⟩

/-! ## The two operations -/

theorem exec_lsend {g : BitVec 4} : exec (.lsend g l v a) s =
    .next (s.gated g (lsendPre s l v a)
      (State.drain (s.setLink (pairNo l.toNat v.toNat) { s.link (pairNo l.toNat v.toNat) with
        credits := (s.link (pairNo l.toNat v.toNat)).credits - 1
        tx := (s.link (pairNo l.toNat v.toNat)).tx ++ [(s.issue.x, s.allOutstanding s.issue.x,
          some (BitVec.ofNat 1024 (s.seen s.issue.x s.myCore false (s.myTeam.spadBase + (s.me.rs a).toNat) 128)))] })
        s.issue.x 3)) := rfl

/-- The effect of lrecv on a state u whose store is done: the oldest flit leaves the queue, and a credit returns. -/
def received (u : State) (p : Nat) (q : LinkQ) (m : Msg) : State := (u.setLink p { q with rx := dropFlit q.rx }).send m

theorem exec_lrecv {g : BitVec 4} : exec (.lrecv g l v a) s =
    .next (s.gated g (lrecvPre s l v a) (match (s.link (pairNo l.toNat v.toNat)).flits with
      | [] => s
      | f :: _ => received (s.storeElems 8 (s.flitStores (s.me.rs a).toNat f)) (pairNo l.toNat v.toNat)
          (s.link (pairNo l.toNat v.toNat)) (.credit l.toNat v.toNat))) := rfl

theorem received_link {p q m} : (received u p q m).link p = { q with rx := dropFlit q.rx } := SMap.get_set_same _ _ _ _

/-- The store of a flit changes its 128 bytes of the issuing core's scratchpad, or none of them yet. -/
theorem storedAfter_spad {o : Nat} {f : VReg} (after : List Nat) (hold : Nat) :
    ((storedAfter s u (s.flitStores o f) after hold).core s.myCore).spad =
      if hold = 0 ∧ after = [] then flitMem (u.core s.myCore).spad (s.myTeam.spadBase + o) f 16 else (u.core s.myCore).spad := by
  split
  · next h =>
    rw [core_congr (storedAfter_now h.1 h.2).1, flitStores_spad]
  · next h =>
    rw [not_and_or, ← ne_eq, ← Nat.pos_iff_ne_zero] at h
    rw [core_congr (storedAfter_later h).1]

/-- What lrecv leaves of a state u, whether its store performs now or later. -/
theorem received_storedAfter (p : Nat) (q : LinkQ) (m : Msg) (o : Nat) (f : VReg) (after : List Nat) (hold : Nat) :
    let es := s.flitStores o f
    let w := received (storedAfter s u es after hold) p q m
    let b := s.myTeam.spadBase + o
    w.outbox = u.outbox ++ [m] ∧
      (∀ i, i < b ∨ b + 128 ≤ i → Memory.rd (w.core s.myCore).spad i = Memory.rd (u.core s.myCore).spad i) ∧
      (hold = 0 → after = [] → w.ctx s.issue.x = u.ctx s.issue.x ∧
        ∀ i < 128, Memory.rd (w.core s.myCore).spad (b + i) = BitVec.ofNat 8 (f.toNat / 2 ^ (8 * i) % 256)) ∧
      (0 < hold ∨ after ≠ [] → w.cores = u.cores ∧ w.ctx s.issue.x =
        { u.ctx s.issue.x with stq := (u.ctx s.issue.x).stq ++ [newStore u.nextOp 8 es after hold s.me.pc] }) := by
  intro es w b
  have spad : (w.core s.myCore).spad = _ := storedAfter_spad after hold
  refine ⟨rfl, fun i hi => ?_, fun h0 ha => ⟨(storedAfter_now h0 ha).2, fun i hi => ?_⟩, fun h => storedAfter_later h⟩
  · rw [spad]
    split
    · exact rd_flitMem_out _ _ _ _ _ (by omega)
    · rfl
  · rw [spad, if_pos ⟨h0, ha⟩, rd_flitMem _ _ _ _ _ (by omega)]

end Sys2Proof.Claims
end

section Settled

open Sys2Proof Sys2Proof.Machine Sys2Proof.Claims

/-- Settles O23: the tests of both operations are those of R270 in order, and their effects are one write of the pair with a drain
or with the store of the flit. -/
theorem linkTransfers : Obligations.LinkTransfers := by
  unfold Obligations.LinkTransfers
  intro s g l v ra t hg x c p q o data fenced inside owned refuses hteam
  have traps {out : Out} {eff : State} {pre : Pre} (ho : out = .next (s.gated g pre eff)) {i : TrapInfo} (hp : pre = .trap i) :
      out = .next (s.takeTrap x i none) := by rw [ho, hp, gated_trap hg]
  have stalls {out : Out} {eff : State} {pre : Pre} (ho : out = .next (s.gated g pre eff)) (hp : pre = .stall) :
      Stalls s out := by rw [Stalls, ho, hp, gated_stall hg]
  let free := Config.freeFaddr s.freeCtr
  have faddr : (BitVec.ofNat 64 (s.me.rs ra).toNat) = s.me.rs ra := by simp
  have refused {out : Out} {eff : State} {pre : Pre} (ho : out = .next (s.gated g pre eff))
      (r : LinkRefuses s t p o pre) : refuses out := by
    refine ⟨fun h => ?_, fun h hr => ?_, fun h hr hb => ?_, fun hi hn => ⟨free, ?_⟩⟩
    · rw [← faddr]; exact traps ho (r.align h)
    · rw [← faddr]; exact traps ho (r.range h hr)
    · rw [← faddr]; exact traps ho (r.bight h hr hb)
    · exact traps ho (r.link hi (decide_eq_false hn))
  refine ⟨fun hf hc => stalls exec_lsend (lsendPre_of_no_credit hf hc), fun hf hq => stalls exec_lrecv (lrecvPre_of_no_flit hf hq),
    fun h => refused exec_lsend ?_, fun h => refused exec_lrecv ?_, fun hf hi hown => ⟨⟨free, ?_⟩, fun hq => ⟨free, ?_⟩⟩,
    fun hi hown => ⟨fun hf hc => ⟨_, rfl, ?_⟩, fun f r hfl => ?_⟩⟩
  · cases hf : fenced with
    | true => exact (fencedChecks_refuses hteam).congr (lsendPre_of_fenced hf)
    | false => exact (linkChecks_refuses hteam).congr (lsendPre_of_credit hf (h.resolve_left (by rw [hf]; decide)))
  · by_cases hq : q.flits = []
    · exact (fencedChecks_refuses hteam).congr (lrecvPre_of_fenced (h.resolve_right (not_not_intro hq)) hq)
    · exact (linkChecks_refuses hteam).congr (lrecvPre_of_flit hq)
  · exact traps exec_lsend ((lsendPre_of_fenced hf).trans (fencedChecks_of_ok hteam hi (decide_eq_true hown)))
  · exact traps exec_lrecv ((lrecvPre_of_fenced hf hq).trans (fencedChecks_of_ok hteam hi (decide_eq_true hown)))
  · have go := (lsendPre_of_credit hf hc).trans (linkChecks_go hteam hi (decide_eq_true hown))
    rw [exec_lsend, go, gated_go hg, myTeam_of hteam]
    rfl
  · have hne : q.flits ≠ [] := by rw [hfl]; exact List.cons_ne_nil _ _
    have run : exec (.lrecv g l v ra) s =
        .next (received (s.storeElems 8 (s.flitStores o f)) p q (.credit l.toNat v.toNat)) := by
      have go := (lrecvPre_of_flit hne).trans (linkChecks_go hteam hi (decide_eq_true hown))
      rw [exec_lrecv, go, gated_go hg]
      have hfl : (s.link (pairNo l.toNat v.toNat)).flits = f :: r := hfl
      rw [hfl]
      rfl
    intro es u hold wait
    rw [storeElems_eight] at run
    obtain ⟨out, apart, now, later⟩ := received_storedAfter (s := s) (u := u) p q (.credit l.toNat v.toNat) o f wait hold
    rw [myTeam_of hteam] at apart now
    exact ⟨_, run, out, ⟨_, received_link⟩, by rw [received_link]; exact filterMap_dropFlit hfl, apart, now, later⟩

end Settled

section
/-! SUPPORT. The rope engine: its reads, its copy of a descriptor, and its events (R13, R16, R20, R23, R24, R35, R427, R428). -/

namespace Sys2Proof.Claims

open Sys2Proof Sys2Proof.Machine

variable {s t u : State}

/-! ## Accesses that translate -/

theorem ReadOnly.cacheIn (core : Nat) (asid : BitVec 16) (va : Nat) : ReadOnly s (s.cacheIn core asid va) := by
  simp only [State.cacheIn]
  split
  · split
    · exact .of_still
    · exact .of_still
  · exact .of_still

theorem recallTables_of_nil (ho : s.owners = []) (he : s.errs = []) (asid : BitVec 16) (va : Nat) : s.recallTables asid va = s := by
  simp [State.recallTables, ho, he]

theorem ReadOnly.walked (ho : s.owners = []) (he : s.errs = []) (core : Nat) (asid : BitVec 16) (va : Nat) :
    ReadOnly s (s.walked core asid va) := by
  have cached := ReadOnly.cacheIn (s := s) core asid va
  unfold State.walked
  rw [recallTables_of_nil (cached.owners.trans ho) (cached.errs.trans he)]
  exact .ite cached cached

theorem ReadOnly.serve (slice : Nat) : ReadOnly s (s.serve slice) := .of_still

/-- An access of a unit of the hub that waits for nothing, translates and finds its slice free. -/
theorem hubAccess_ok (hw : s.hubWaits = []) (ho : s.owners = []) (he : s.errs = []) {who core asid va w claim src fcore pa a}
    (hx : s.xlate core asid va w = .ok pa a) (hpa : paHawser pa = false) (hs : s.sliceJustServed (homeSlice a pa) = false) :
    ∃ t, s.hubAccess who core asid va w claim src fcore = .ok pa a t ∧ ReadOnly s t := by
  have same : { s with hubWaits := [] } = s := by rw [← hw]
  refine ⟨(s.serve (homeSlice a pa)).walked core asid va, ?_, (ReadOnly.serve (homeSlice a pa)).trans (.walked (s := s.serve _) ho he _ _ _)⟩
  simp only [State.hubAccess, hw, List.find?_nil, List.filter_nil, Option.any_none, Bool.false_eq_true, if_false, same, hx,
    State.atHomeSlice, hpa, hs]

/-! ## Reads for a rope -/

/-- No word is owned, no error stored and no access waiting. -/
structure Quiet (s : State) : Prop where
  owners : s.owners = []
  errs : s.errs = []
  waits : s.hubWaits = []

/-- The engine runs, undisturbed. -/
structure EngineRuns (s : State) : Prop extends Quiet s where
  runs : s.ropesRun = true

theorem ropeRead_ok (e : Quiet s) {who r asid va n pa a} (hn : 0 < n) (hx : s.xlate 128 asid (va % 2 ^ 64) false = .ok pa a)
    (hpa : pa + n ≤ 0x9000000000) (hb : s.physBad pa n = false) (hs : s.sliceJustServed (homeSlice a pa) = false) :
    ∃ t, s.ropeRead who r asid va n = .ok (Memory.rdN s.dram pa n) a (homeSlice a pa) t ∧ ReadOnly s t := by
  obtain ⟨u, access, only⟩ := hubAccess_ok (who := who) (claim := (s.ropeOf r).owner) (src := srcRope)
    (fcore := lowCore (s.ropeOf r).mask) e.waits e.owners e.errs hx (paHawser_of_le hpa hn) hs
  have ho := only.owners.trans e.owners
  have he := only.errs.trans e.errs
  have read := ReadOnly.readHome (s := u) ho he (w := whoRope) (by decide) rfl a pa n
  refine ⟨(u.readHome whoRope a pa n).2, ?_, only.trans read⟩
  have good : (u.readHome whoRope a pa n).2.physBad pa n = false := by rw [(only.trans read).physBad, hb]
  simp only [State.ropeRead, access, good, Bool.false_eq_true, if_false, readHome_value ho he, physRd_of_le hpa hn, only.dram]

/-- The engine reads n bytes with value x for a rope in an ASID, at home slice h. -/
def RopeReads (s : State) (asid : BitVec 16) (va n x h : Nat) : Prop :=
  ∃ pa a, s.xlate 128 asid (va % 2 ^ 64) false = .ok pa a ∧ a.lease = false ∧ pa + n ≤ 0x9000000000 ∧ s.physBad pa n = false ∧
    x = Memory.rdN s.dram pa n ∧ h = homeSlice a pa ∧ s.sliceJustServed h = false

/-- The descriptor in memory agrees with the engine's copy. -/
def SameDesc (s : State) (r : Nat) : Prop :=
  descAsid (s.ropeDesc r) = (s.ropeOf r).asid ∧ descKnots (s.ropeDesc r) = (s.ropeOf r).knots ∧
    descVtab (s.ropeDesc r) = (s.ropeOf r).vtab

theorem ropeView_of_same {r : Nat} (h : SameDesc s r) :
    s.ropeView r = (((s.ropeOf r).asid, (s.ropeOf r).knots.toNat, (s.ropeOf r).vtab.toNat), s) := by
  obtain ⟨ha, hk, hv⟩ := h
  simp only [State.ropeView, ha, hk, hv, decide_true, Bool.and_self, if_true]

theorem ReadOnly.descRead (ho : s.owners = []) (he : s.errs = []) (r : Nat) : ReadOnly s (s.descRead r) :=
  .readHome ho he (by decide) rfl _ _ _

theorem ReadOnly.ropeDesc (h : ReadOnly s t) (r : Nat) : t.ropeDesc r = s.ropeDesc r := by
  simp only [State.ropeDesc, State.ropeAddr, h.dram, h.host]

theorem Accessed.launching (h : Accessed s t) : t.launching = s.launching := by
  funext r a; simp only [State.launching, h.tasks]

/-! ## The engine's copy -/

theorem ropes_routeFault (f : FaultRec) : (s.routeFault f).ropes = s.ropes := by
  simp only [State.routeFault]
  split
  · rfl
  · split <;> rfl

theorem ropeOf_ropeFaultRecord (r q : Nat) : (s.ropeFaultRecord r).ropeOf q = s.ropeOf q := by
  simp only [State.ropeFaultRecord, State.ropeOf, ropes_routeFault]

@[simp] theorem ropeOf_putRope (r : Nat) (k : Rope) : (s.putRope r k).ropeOf r = k := by
  simp only [State.putRope, State.setRope_ropeOf_same]

theorem ropeOf_ropeFault {r : Nat} (h : (s.ropeOf r).st ≠ .fault) (code : BitVec 8) :
    (s.ropeFault r code).ropeOf r = { s.ropeOf r with st := .fault, fcode := code } := by
  rw [State.ropeFault, if_neg h, ropeOf_ropeFaultRecord, ropeOf_putRope]

theorem ropeOf_updRope (r : Nat) (f : Rope → Rope) :
    (s.updRope r f).ropeOf r = (f (s.ropeOf r)).settled (s.launching r) := by
  simp only [State.updRope]
  split
  · rw [ropeOf_ropeFaultRecord, ropeOf_putRope]
  · rw [ropeOf_putRope]

theorem ropeOf_settleRope (r : Nat) : (s.settleRope r).ropeOf r = (s.ropeOf r).settled (s.launching r) := by
  simp only [State.settleRope]
  split
  · rw [ropeOf_ropeFaultRecord, ropeOf_putRope]
  · rw [ropeOf_putRope]

/-! ## The EN bit -/

/-- The engine's copy of a rope whose descriptor d it takes up. -/
def takenUp (k : Rope) (d : Nat) : Rope := { k with
  en := true, pre := descPre d, prio := BitVec.ofNat 6 (descPrio d), asid := descAsid d, owner := descOwner d
  mask := descMask d, knots := descKnots d, vtab := descVtab d, head := descHead d
  retired := BitVec.ofNat 32 (bitsOf d 416 32), fetched := if k.head = descHead d then k.fetched else [], last := none
  waitNext := false, badNext := none
  kept := if k.head = descHead d then k.kept else [], failed := [] }

theorem ropeOf_ropeStart (ho : s.owners = []) (he : s.errs = []) {r : Nat} (hst : (s.ropeOf r).st ≠ .fault) :
    (s.ropeStart r).ropeOf r = if descBad (s.ropeDesc r) then
        { takenUp (s.ropeOf r) (s.ropeDesc r) with st := .fault, fcode := fCONFIG }
      else { takenUp (s.ropeOf r) (s.ropeDesc r) with
        toFetch := descHead (s.ropeDesc r), st := if descHead (s.ropeDesc r) = 0 then .link else .head } := by
  have only := ReadOnly.descRead (s := s) ho he r
  simp only [State.ropeStart, only.ropeDesc, only.ropeOf]
  split
  · rw [ropeOf_ropeFault]
    · simp only [State.setRope_ropeOf_same, takenUp]
    · simpa only [State.setRope_ropeOf_same] using hst
  · simp only [ropeOf_putRope, State.setRope_ropeOf_same, takenUp]

theorem exec_ropeEnable (e : EngineRuns s) {r : RopeNo} (hen : (s.ropeOf r.val).en = false) (hd : descEn (s.ropeDesc r.val) = true) :
    exec (.ropeEnable r) s = .next (s.ropeStart r.val) := by
  have run : (s.ropesRun && !(s.ropeOf r.val).en) = true := by rw [e.runs, hen]; rfl
  show Host.Outcome.next (if ((if descEn (s.ropeDesc r.val) then s else _) : State).ropesRun && _ then _ else _) = _
  rw [hd]
  exact congrArg _ (if_pos run)

/-- A descriptor lies in the module's own memory. -/
theorem paTarget_desc {r o : Nat} (hr : r < 256) (ho : o < 64) : paTarget (s.ropeAddr r + o) = 0 := by
  have base := s.host.rtbase.isLt
  rw [paTarget, State.ropeAddr, Nat.div_eq_of_lt (by omega)]

/-- A write of a descriptor's first word is no write of any HEAD. -/
theorem headWritten_of_first {r v : Nat} : s.headWritten [⟨s.ropeAddr r + 0, 8, v⟩] = s := by
  have none : s.ropes.filter (fun e => !e.2.en && !(e.2.kept.isEmpty && e.2.fetched.isEmpty) &&
      ([⟨s.ropeAddr r + 0, 8, v⟩] : List Span).any (fun p => decide (p.pa < s.ropeAddr e.1 + 32) && decide (s.ropeAddr e.1 + 24 < p.pa + p.n))) =
      [] := by
    rw [List.filter_eq_nil_iff]
    intro e _ h
    obtain ⟨p, hp, hit⟩ := List.any_eq_true.1 (Bool.and_eq_true_iff.1 h).2
    obtain rfl := List.mem_singleton.1 hp
    obtain ⟨below, above⟩ := Bool.and_eq_true_iff.1 hit
    have below := of_decide_eq_true below
    have above := of_decide_eq_true above
    simp only [State.ropeAddr] at below above
    omega
  dsimp only [State.headWritten]
  rw [none]
  rfl

/-- A write of a descriptor's first word leaves the engine's copies. -/
theorem ropes_writeFirst (ho : s.owners = []) (he : s.errs = []) {w : Who} (hc : w.core = none) (hi : 128 ≤ w.island)
    (ht : w.task = none) {r v : Nat} (hr : r < 256) :
    (s.writeDescWord w r 0 v).ropes = s.ropes ∧ Accessed s (s.writeDescWord w r 0 v) := by
  have target : paTarget (s.ropeAddr r + 0) = 0 := paTarget_desc hr (by decide)
  refine ⟨?_, .writeHome_one ho he hc hi ht _ _ target⟩
  unfold State.writeDescWord
  rw [writeHome_eq ho he _ _ _ (by simp only [paHawser, target]; rfl)]
  have before := ReadOnly.beforeData (s := s) hc hi ht none (s.hostAttr (s.ropeAddr r + 0)) (s.ropeAddr r + 0)
    [⟨s.ropeAddr r + 0, 8, v % 2 ^ 64⟩]
  have data (u : State) (hu : Accessed s u) (hr : u.ropes = s.ropes) :
      (u.writeData [⟨s.ropeAddr r + 0, 8, v % 2 ^ 64⟩]).ropes = s.ropes := by
    have addr : s.ropeAddr r = u.ropeAddr r := by simp only [State.ropeAddr, hu.host]
    rw [writeData_one target, addr]
    have none := headWritten_of_first (s := { u with dram := u.dramWr (u.ropeAddr r + 0) 8 (v % 2 ^ 64) }) (r := r) (v := v % 2 ^ 64)
    exact (congrArg State.ropes none).trans hr
  split
  · exact data _ before.toAccessed before.ropes
  · refine data _ (before.toAccessed.trans (.backInvalidate _)) ?_
    rw [← before.ropes, State.backInvalidate]
    split <;> rfl

/-- The engine's copy of a rope that its software turned off. -/
def turnedOff (k : Rope) (launching : Word → Bool) : Rope :=
  let live := k.fetched.dropWhile (fun f => f.gone && !launching f.addr)
  { k with
    en := false, st := .off, fetched := live.takeWhile (·.gone), last := none, waitNext := false, toFetch := 0, badNext := none
    failed := []
    kept := (k.kept ++ ((live.dropWhile (·.gone)).filter (·.gone)).map (·.addr) ++
      if k.st = .link && k.last.isSome || k.st = .fault && k.badNext.isSome then [k.head] else []).eraseDups }

/-- The state once software's write of EN = 0 is in memory. -/
def enCleared (s : State) (r : Nat) : State :=
  if descEn (s.ropeDesc r) then s.writeDescWord whoPort r 0 (bitsOf (s.ropeDesc r) 0 64 - 1) else s

theorem exec_ropeDisable_eq (r : RopeNo) : exec (.ropeDisable r) s =
    if (enCleared s r.val).ropesRun && ((enCleared s r.val).ropeOf r.val).en then
      .next ((((enCleared s r.val).putRope r.val (turnedOff ((enCleared s r.val).ropeOf r.val)
        ((enCleared s r.val).launching r.val))).withdrawIf (fun p => p.rope = r)).forgetRope r.val)
    else .next (enCleared s r.val) := by
  show execRopeDisable r s = _
  unfold execRopeDisable enCleared turnedOff
  rfl

theorem Accessed.writeDescWord (ho : s.owners = []) (he : s.errs = []) {w : Who} (hc : w.core = none) (hi : 128 ≤ w.island)
    (ht : w.task = none) {r o v : Nat} (hr : r < 256) (hof : o < 64) :
    Accessed s (s.writeDescWord w r o v) :=
  .writeHome_one ho he hc hi ht _ _ (paTarget_desc hr hof)

theorem Accessed.putRope (ho : s.owners = []) (he : s.errs = []) {r : Nat} (hr : r < 256) (k : Rope) :
    Accessed s (s.putRope r k) := by
  have word (t : State) (h : Accessed s t) (o v : Nat) (hof : o < 64) : Accessed s (t.writeDescWord whoRope r o v) :=
    h.trans (.writeDescWord (h.owners.trans ho) (h.errs.trans he) rfl (by decide) rfl hr hof)
  have headed : Accessed s (if k.head ≠ (s.ropeOf r).head then s.writeDescWord whoRope r 24 k.head.toNat else s) := by
    split
    · exact word _ .refl _ _ (by decide)
    · exact .refl
  unfold State.putRope
  refine Accessed.trans ?_ .setRope
  split
  · exact word _ headed _ _ (by decide)
  · exact headed

theorem withdrawIf_of_nil (h : s.preempt = []) (c : Preempt → Bool) : s.withdrawIf c = s := by simp [State.withdrawIf, h]

theorem ropeOf_forgetRope (r q : Nat) : (s.forgetRope r).ropeOf q = s.ropeOf q := rfl

theorem exec_ropeDisable (e : EngineRuns s) {r : RopeNo} (hen : (s.ropeOf r.val).en = true) (hp : s.preempt = []) :
    ∃ t, exec (.ropeDisable r) s = .next t ∧ t.ropeOf r.val = turnedOff (s.ropeOf r.val) (s.launching r.val) := by
  have first := ropes_writeFirst e.owners e.errs (w := whoPort) rfl (by decide) rfl (v := bitsOf (s.ropeDesc r.val) 0 64 - 1) r.isLt
  have acc : Accessed s (enCleared s r.val) := by
    unfold enCleared; split
    · exact first.2
    · exact .refl
  have rope : (enCleared s r.val).ropeOf r.val = s.ropeOf r.val := by
    unfold enCleared; split
    · rw [State.ropeOf, first.1]; rfl
    · rfl
  have run : ((enCleared s r.val).ropesRun && ((enCleared s r.val).ropeOf r.val).en) = true := by
    have : (enCleared s r.val).ropesRun = s.ropesRun := by simp only [State.ropesRun, acc.host, acc.mgmt]
    rw [this, e.runs, rope, hen]; rfl
  have put := acc.trans (.putRope (acc.owners.trans e.owners) (acc.errs.trans e.errs) r.isLt
    (turnedOff (s.ropeOf r.val) (s.launching r.val)))
  rw [exec_ropeDisable_eq, if_pos run, rope, acc.launching, withdrawIf_of_nil (put.preempt.trans hp)]
  exact ⟨_, rfl, by rw [ropeOf_forgetRope, ropeOf_putRope]⟩

theorem mem_kept_turnedOff {k : Rope} {launching : Word → Bool} {a : Word} : a ∈ (turnedOff k launching).kept ↔ a ∈ k.kept ∨
    (∃ f ∈ (k.fetched.dropWhile (fun f => f.gone && !launching f.addr)).dropWhile (fun f => f.gone), f.gone = true ∧ f.addr = a) ∨
    (a = k.head ∧ ((k.st = .link ∧ k.last ≠ none) ∨ (k.st = .fault ∧ k.badNext ≠ none))) := by
  have named : (k.st = .link && k.last.isSome || k.st = .fault && k.badNext.isSome) = true ↔
      ((k.st = .link ∧ k.last ≠ none) ∨ (k.st = .fault ∧ k.badNext ≠ none)) := by
    simp [Option.isSome_iff_ne_none]
  simp only [turnedOff, List.mem_eraseDups, List.mem_append, List.mem_map, List.mem_filter, ← named, or_assoc, and_assoc]
  refine or_congr_right (or_congr_right ?_)
  split <;> simp_all

/-! ## HEAD and the fields that software may write -/

theorem exec_headWrite (e : EngineRuns s) {r : RopeNo} {head : Word} (hst : (s.ropeOf r.val).st = .link)
    (hl : (s.ropeOf r.val).last = none) (ht : (s.ropeOf r.val).toFetch = 0) (hh : head ≠ 0) :
    ∃ t, exec (.headWrite r head) s = .next t ∧ t.ropeOf r.val =
      if head.toNat % 64 ≠ 0 then { s.ropeOf r.val with head := head, st := .fault, fcode := fCONFIG }
      else { s.ropeOf r.val with head := head, toFetch := head, st := .head } := by
  have run : (s.ropesRun && (s.ropeOf r.val).st = .link && (s.ropeOf r.val).last.isNone && (s.ropeOf r.val).toFetch = 0 &&
      head ≠ 0) = true := by
    simp only [e.runs, hst, hl, ht, decide_true, Option.isNone_none, Bool.true_and]
    exact decide_eq_true hh
  let w := if descHead ((s.descRead r.val).ropeDesc r.val) = head then s.descRead r.val
    else (s.descRead r.val).writeDescWord whoPort r.val 24 head.toNat
  have eq : exec (.headWrite r head) s = if head.toNat % 64 ≠ 0 then
        .next ((w.setRope r.val { s.ropeOf r.val with head := head }).ropeFault r.val fCONFIG)
      else .next (w.putRope r.val { s.ropeOf r.val with head := head, toFetch := head, st := .head }) := if_pos run
  rw [eq]
  split
  · refine ⟨_, rfl, ?_⟩
    rw [ropeOf_ropeFault]
    · simp only [State.setRope_ropeOf_same]
    · simp [hst]
  · exact ⟨_, rfl, ropeOf_putRope _ _⟩

/-- The engine's copy after a look at the descriptor d. -/
def looked (k : Rope) (d : Nat) : Rope := { k with
  pre := descPre d, prio := BitVec.ofNat 6 (descPrio d), owner := descOwner d, mask := descMask d }

theorem looked_of_same {k : Rope} {d : Nat} (hp : k.pre = descPre d) (hq : k.prio.toNat = descPrio d) (ho : k.owner = descOwner d)
    (hm : k.mask = descMask d) : looked k d = k := by
  have : BitVec.ofNat 6 (descPrio d) = k.prio := by rw [← hq]; simp
  rw [looked, ← hp, this, ← ho, ← hm]

theorem exec_descriptorWriteObserved (e : EngineRuns s) {r : RopeNo} (hen : (s.ropeOf r.val).en = true)
    (hst : (s.ropeOf r.val).st ≠ .fault)
    (hok : descPrio (s.ropeDesc r.val) ≤ 47 ∨ (s.ropeOf r.val).prio.toNat ≤ 47) :
    ∃ t, exec (.descriptorWriteObserved r) s = .next t ∧ t.ropeOf r.val =
      if 47 < descPrio (s.ropeDesc r.val) then { looked (s.ropeOf r.val) (s.ropeDesc r.val) with st := .fault, fcode := fCONFIG }
      else looked (s.ropeOf r.val) (s.ropeDesc r.val) := by
  let d := s.ropeDesc r.val
  let k := s.ropeOf r.val
  by_cases same : k.pre = descPre d ∧ k.prio.toNat = descPrio d ∧ k.owner = descOwner d ∧ k.mask = descMask d
  · obtain ⟨hp, hq, ho, hm⟩ := same
    have low : ¬47 < descPrio d := by
      rcases hok with h | h
      · exact Nat.not_lt.2 h
      · rw [← hq]; exact Nat.not_lt.2 h
    refine ⟨s, if_neg ?_, ?_⟩
    · simp [k, d] at hp hq ho hm ⊢; tauto
    · rw [if_neg low, looked_of_same hp hq ho hm]
  · have run : (s.ropesRun && k.en && !(k.pre = descPre d && k.prio.toNat = descPrio d && k.owner = descOwner d && k.mask = descMask d)) = true := by
      have : k.en = true := hen
      simp only [e.runs, this, Bool.true_and, Bool.not_eq_true', Bool.and_eq_false_iff, decide_eq_false_iff_not]
      tauto
    have only := ReadOnly.descRead (s := s) e.owners e.errs r.val
    let w := (s.descRead r.val).modRope r.val (fun k => looked k d)
    have eq : exec (.descriptorWriteObserved r) s = .next (if 47 < descPrio d then w.ropeFault r.val fCONFIG else w) := if_pos run
    have rope : w.ropeOf r.val = looked k d := by
      simp only [w, State.modRope_eq, State.setRope_ropeOf_same, only.ropeOf, k]
    rw [eq]
    refine ⟨_, rfl, ?_⟩
    split
    · rw [ropeOf_ropeFault (by rw [rope]; exact hst), rope]
    · exact rope

/-! ## NEXT words and records -/

/-- A read for a rope whose descriptor agrees with the engine's copy. -/
theorem viewRead_ok (e : Quiet s) {r : Nat} (same : SameDesc s r) {who va n x h} (hn : 0 < n)
    (hr : RopeReads s (s.ropeOf r).asid va n x h) :
    ∃ a t, (s.ropeView r).2.ropeRead who r (s.ropeView r).1.1 va n = .ok x a h t ∧ a.lease = false ∧ ReadOnly s t := by
  obtain ⟨pa, a, hx, hl, hpa, hb, rfl, rfl, hs⟩ := hr
  obtain ⟨t, read, only⟩ := ropeRead_ok e hn hx hpa hb hs
  rw [ropeView_of_same same]
  exact ⟨a, t, read, hl, only⟩

theorem settled_of_toFetch {k : Rope} {launching : Word → Bool} (hst : k.st = .link ∨ k.st = .head)
    (hf : k.fetched.dropWhile (fun f => f.gone && !launching f.addr) = []) (ht : k.toFetch ≠ 0) :
    k.settled launching = { k with fetched := [], st := .head, head := k.toFetch } := by
  have on : ¬(k.st = .off || k.st = .fault) = true := by rcases hst with h | h <;> simp [h]
  simp only [Rope.settled, hf]
  rw [if_neg on]
  exact if_pos ht

theorem settled_of_badNext {k : Rope} {launching : Word → Bool} {a : Word} (hst : k.st = .link ∨ k.st = .head)
    (hf : k.fetched = []) (ht : k.toFetch = 0) (hb : k.badNext = some a) :
    k.settled launching = { k with st := .fault, fcode := fRECORD, head := a } := by
  have on : ¬(k.st = .off || k.st = .fault) = true := by rcases hst with h | h <;> simp [h]
  have drop : k.fetched.dropWhile (fun f => f.gone && !launching f.addr) = [] := by rw [hf]; rfl
  have same : { k with fetched := [] } = k := by rw [← hf]
  simp only [Rope.settled, drop, same]
  rw [if_neg on]
  simp only [Rope.live, hf, List.filter_nil, ht, hb]
  rfl

/-- One record is fetched and not dispatched: it holds the rope's HEAD, and the fault code held against it if any. -/
theorem settled_of_one {k : Rope} {launching : Word → Bool} {f : Fetched} (hst : k.st = .head) (hf : k.fetched = [f])
    (hg : f.gone = false) : k.settled launching = match f.bad with
      | some c => { k with st := .fault, fcode := c, head := f.addr }
      | none => { k with st := .head, head := f.addr } := by
  have on : ¬(k.st = .off || k.st = .fault) = true := by simp [hst]
  have drop : k.fetched.dropWhile (fun f => f.gone && !launching f.addr) = [f] := by rw [hf]; simp [List.dropWhile, hg]
  have same : { k with fetched := [f] } = k := by rw [← hf]
  simp only [Rope.settled, drop, same]
  rw [if_neg on]
  simp only [Rope.live, hf, List.filter_cons, hg]
  rfl

theorem exec_nextWordObserved (e : EngineRuns s) {r : RopeNo} (same : SameDesc s r.val)
    (hst : (s.ropeOf r.val).st = .link ∨ (s.ropeOf r.val).st = .head) (hw : (s.ropeOf r.val).waitNext = true) {a : Word}
    (hl : (s.ropeOf r.val).last = some a) {x h : Nat} (hr : RopeReads s (s.ropeOf r.val).asid a.toNat 8 x h) :
    ∃ t, ReadOnly s t ∧ exec (.nextWordObserved r) s = .next (if x = 0 then t else t.followNext r.val a x) := by
  obtain ⟨at_, t, read, -, only⟩ := viewRead_ok e.toQuiet same (who := .rope r.val a) (by decide) hr
  refine ⟨t, only, ?_⟩
  have run : (s.ropesRun && ((s.ropeOf r.val).st = .link || (s.ropeOf r.val).st = .head) && (s.ropeOf r.val).waitNext) = true := by
    rw [e.runs, hw]
    rcases hst with h | h <;> rw [h] <;> rfl
  show execNextWordObserved r s = _
  unfold execNextWordObserved
  simp only [run, if_true, hl, read]

/-- A NEXT word that names a record makes it the one to be fetched. -/
theorem ropeOf_followNext {r : Nat} {a : Word} {x : Nat} (hst : (s.ropeOf r).st = .link ∨ (s.ropeOf r).st = .head)
    (hf : (s.ropeOf r).fetched.dropWhile (fun f => f.gone && !s.launching r f.addr) = [])
    (hx : x % 64 = 0) (hz : x ≠ 0) (hlt : x < 2 ^ 64) :
    (s.followNext r a x).ropeOf r = { s.ropeOf r with
      fetched := [], waitNext := false, toFetch := BitVec.ofNat 64 x, st := .head, head := BitVec.ofNat 64 x } := by
  have nz : BitVec.ofNat 64 x ≠ 0 := fun h => hz (by
    have := congrArg BitVec.toNat h
    rwa [BitVec.toNat_ofNat, Nat.mod_eq_of_lt hlt] at this)
  rw [State.followNext, if_neg (not_not_intro hx), ropeOf_updRope, settled_of_toFetch]
  exacts [hst, hf, nz]

/-- A NEXT word that breaks R16, of a dispatched record with nothing fetched behind it, faults the rope. -/
theorem ropeOf_followNext_bad {r : Nat} {a : Word} {x : Nat} (hst : (s.ropeOf r).st = .link ∨ (s.ropeOf r).st = .head)
    (hf : (s.ropeOf r).fetched = []) (ht : (s.ropeOf r).toFetch = 0) (hx : x % 64 ≠ 0) :
    (s.followNext r a x).ropeOf r = { s.ropeOf r with
      waitNext := false, badNext := some a, st := .fault, fcode := fRECORD, head := a } := by
  have live : (s.ropeOf r).live.any (fun f => f.addr = a) = false := by simp [Rope.live, hf]
  rw [State.followNext, if_pos hx, ropeOf_updRope, live, if_neg (by decide), settled_of_badNext]
  exacts [hst, hf, ht, rfl]

/-! ## Knots -/

theorem latchWait_of_bad {r k : Nat} {f : Fetched} (hf : (s.ropeOf r).fetched = [f]) (hg : f.gone = false) (hb : f.bad.isSome = true) :
    s.latchWait r f.addr k = s := by
  have found : (s.ropeOf r).live.find? (fun g => g.addr = f.addr) = some f := by simp [Rope.live, hf, hg]
  simp only [State.latchWait, found, hb, Bool.true_or, if_true]

theorem latchWait_of_past {r k : Nat} {f : Fetched} (hf : (s.ropeOf r).fetched = [f]) (hg : f.gone = false)
    (hk : recNwait f.recd.toNat ≤ k) : s.latchWait r f.addr k = s := by
  have found : (s.ropeOf r).live.find? (fun g => g.addr = f.addr) = some f := by simp [Rope.live, hf, hg]
  simp only [State.latchWait, found, hk, decide_true, Bool.or_true, Bool.true_or, if_true]

theorem latchAll_one {r : Nat} {f : Fetched} (hf : (s.ropeOf r).fetched = [f]) (hg : f.gone = false) :
    s.latchAll r = (((s.latchWait r f.addr 0).latchWait r f.addr 1).latchWait r f.addr 2).latchWait r f.addr 3 := by
  have live : (s.ropeOf r).live = [f] := by simp [Rope.live, hf, hg]
  have four : List.range 4 = [0, 1, 2, 3] := rfl
  rw [State.latchAll, live, four]
  simp only [List.foldl_cons, List.foldl_nil]

/-- Nothing is left to latch of the one fetched record. -/
theorem latchAll_of_done {r : Nat} {f : Fetched} (hf : (s.ropeOf r).fetched = [f]) (hg : f.gone = false)
    (h : f.bad.isSome = true ∨ recNwait f.recd.toNat = 0) : s.latchAll r = s := by
  have one (k : Nat) : s.latchWait r f.addr k = s :=
    h.elim (fun hb => latchWait_of_bad hf hg hb) (fun hn => latchWait_of_past hf hg (by omega))
  rw [latchAll_one hf hg, one, one, one, one]

theorem latchAll_first {r : Nat} {f : Fetched} (hf : (s.ropeOf r).fetched = [f]) (hg : f.gone = false)
    (hn : recNwait f.recd.toNat = 1) (ht : ∃ g : Fetched, ((s.latchWait r f.addr 0).ropeOf r).fetched = [g] ∧ g.gone = false ∧
      g.recd = f.recd ∧ g.addr = f.addr) : s.latchAll r = s.latchWait r f.addr 0 := by
  obtain ⟨g, hgf, hgg, hgr, hga⟩ := ht
  have rest (k : Nat) (hk : 1 ≤ k) : (s.latchWait r f.addr 0).latchWait r f.addr k = s.latchWait r f.addr 0 := by
    rw [← hga]
    rw [← hga] at hgf
    exact latchWait_of_past hgf hgg (by rw [hgr, hn]; exact hk)
  rw [latchAll_one hf hg, rest 1 (by decide), rest 2 (by decide), rest 3 (by decide)]

/-- The engine's copy once the one fetched record's first wait is latched, with the home slices that its read gave. -/
def latchedFirst (k : Rope) (f : Fetched) (homes : List Nat) : Rope :=
  { k with fetched := [{ f with latched := 1, homes := (f.homes ++ homes).eraseDups }] }

/-- What the first wait of the one fetched record asks for (R16). -/
theorem latchWait_first (e : EngineRuns s) {r : Nat} {f : Fetched} (hf : (s.ropeOf r).fetched = [f]) (hg : f.gone = false)
    (hb : f.bad = none) (hn : recNwait f.recd.toNat = 1) (hl : f.latched = 0) :
    ((recWait f.recd.toNat 0).2 = 0 → (s.latchWait r f.addr 0).ropeOf r = latchedFirst (s.ropeOf r) f []) ∧
      (SameDesc s r → (recWait f.recd.toNat 0).2 ≠ 0 → ∀ x h,
        RopeReads s (s.ropeOf r).asid ((s.ropeOf r).knots.toNat + 8 * (recWait f.recd.toNat 0).1) 8 x h →
        (s.latchWait r f.addr 0).ropeOf r =
          if (recWait f.recd.toNat 0).2 ≤ x then latchedFirst (s.ropeOf r) f [h] else s.ropeOf r) := by
  have found : (s.ropeOf r).live.find? (fun g => g.addr = f.addr) = some f := by simp [Rope.live, hf, hg]
  have open_ : (f.bad.isSome || decide (recNwait f.recd.toNat ≤ 0) || f.latched.getLsbD 0) = false := by simp [hb, hn, hl]
  have set (t : State) (ht : t.ropeOf r = s.ropeOf r) (homes : List Nat) :
      (t.modRope r (fun p => { p with fetched := p.fetched.map (fun g => if g.addr = f.addr && !g.gone then
        { g with latched := g.latched ||| BitVec.ofNat 4 (2 ^ 0), homes := (g.homes ++ homes).eraseDups } else g) })).ropeOf r =
      latchedFirst (s.ropeOf r) f homes := by
    simp [ht, hf, hg, hl, latchedFirst]
  refine ⟨fun hz => ?_, fun same hz x h hr => ?_⟩
  · simp only [State.latchWait, found, open_, Bool.false_eq_true, if_false, hz, if_true]
    exact set s rfl []
  · obtain ⟨a, t, read, lease, only⟩ := viewRead_ok e.toQuiet same (who := .rope r f.addr) (by decide) hr
    have knots : (s.ropeView r).1.2.1 = (s.ropeOf r).knots.toNat := by rw [ropeView_of_same same]
    simp only [State.latchWait, found, open_, Bool.false_eq_true, if_false, hz, knots, read, lease]
    split
    · exact set t (only.ropeOf r) [h]
    · exact only.ropeOf r

theorem exec_knotWriteObserved (e : EngineRuns s) {r : RopeNo} (hst : (s.ropeOf r.val).st = .head) :
    exec (.knotWriteObserved r) s = .next (s.latchAll r.val) := by
  have run : (s.ropesRun && (s.ropeOf r.val).st = .head) = true := by rw [e.runs, hst]; rfl
  exact congrArg _ (if_pos run)

/-! ## Records -/

/-- The engine's copy once it has fetched a record of bytes n, with what it holds against it. -/
def fetchedOne (k : Rope) (n : Nat) (bad : Option (BitVec 8)) : Rope := { k with
  fetched := [⟨k.toFetch, BitVec.ofNat 512 n, 0, bad, false, []⟩], last := some k.toFetch, waitNext := decide (recNext n = 0)
  toFetch := if recNext n % 64 = 0 then BitVec.ofNat 64 (recNext n) else 0
  failed := k.failed.filter (fun b => b ≠ k.toFetch) }

/-- What is held against a record as it is fetched (R16, R35). -/
def heldAgainst (k : Rope) (n : Nat) : Option (BitVec 8) :=
  if recBad n k.vtab.toNat then some fRECORD else if k.failed.contains k.toFetch then some fIMAGE else none

theorem ropeOf_takeRecord {r n : Nat} (hst : (s.ropeOf r).st = .head) (hf : (s.ropeOf r).fetched = []) (words : (BitVec.ofNat 512 n).toNat = n)
    (hd : heldAgainst (s.ropeOf r) n ≠ none ∨ recNwait n = 0) :
    (s.takeRecord r (s.ropeOf r).toFetch n (s.ropeOf r).vtab.toNat).ropeOf r =
      match heldAgainst (s.ropeOf r) n with
      | some c => { fetchedOne (s.ropeOf r) n (some c) with st := .fault, fcode := c, head := (s.ropeOf r).toFetch }
      | none => { fetchedOne (s.ropeOf r) n none with st := .head, head := (s.ropeOf r).toFetch } := by
  let k := s.ropeOf r
  let t := s.setRope r (fetchedOne k n (heldAgainst k n))
  have taken : s.takeRecord r k.toFetch n k.vtab.toNat = (t.settleRope r).latchAll r := by
    have : s.modRope r (fun q => { q with
        fetched := q.fetched ++ [⟨k.toFetch, BitVec.ofNat 512 n, 0,
          if recBad n k.vtab.toNat then some fRECORD else if q.failed.contains k.toFetch then some fIMAGE else none, false, []⟩]
        failed := q.failed.filter (fun b => b ≠ k.toFetch)
        last := some k.toFetch, waitNext := decide (recNext n = 0)
        toFetch := if recNext n % 64 = 0 then BitVec.ofNat 64 (recNext n) else 0 }) = t := by
      simp only [State.modRope_eq, t, fetchedOne, hf, k, List.nil_append, heldAgainst]
    rw [← this]
    rfl
  have settled : (t.settleRope r).ropeOf r = match heldAgainst k n with
      | some c => { fetchedOne k n (some c) with st := .fault, fcode := c, head := k.toFetch }
      | none => { fetchedOne k n none with st := .head, head := k.toFetch } := by
    rw [ropeOf_settleRope, State.setRope_ropeOf_same]
    have one := settled_of_one (k := fetchedOne k n (heldAgainst k n)) (launching := t.launching r) hst rfl rfl
    rw [one]
    cases heldAgainst k n <;> rfl
  have one : ((t.settleRope r).ropeOf r).fetched = [⟨k.toFetch, BitVec.ofNat 512 n, 0, heldAgainst k n, false, []⟩] := by
    rw [settled]
    cases heldAgainst k n <;> rfl
  have done : (heldAgainst k n).isSome = true ∨ recNwait (BitVec.ofNat 512 n).toNat = 0 := by
    rw [words, Option.isSome_iff_ne_none]; exact hd
  show (s.takeRecord r k.toFetch n k.vtab.toNat).ropeOf r = _
  rw [taken, latchAll_of_done one rfl done, settled]

/-- The read of the record to be fetched: 8 bytes of one that was kept, else all of it. -/
theorem exec_recordFetch (e : EngineRuns s) {r : RopeNo} (same : SameDesc s r.val) (hst : (s.ropeOf r.val).st = .head)
    (ht : (s.ropeOf r.val).toFetch ≠ 0) (hf : (s.ropeOf r.val).fetched = []) {old : Bool}
    (hk : (s.ropeOf r.val).kept.contains (s.ropeOf r.val).toFetch = old) {n h : Nat}
    (hr : RopeReads s (s.ropeOf r.val).asid (s.ropeOf r.val).toFetch.toNat (if old then 8 else 64) n h) :
    ∃ t, ReadOnly s t ∧ exec (.recordFetch r) s = .next (if old then
        let u := t.modRope r.val (fun k => { k with
          toFetch := 0, last := some (s.ropeOf r.val).toFetch, waitNext := true
          kept := k.kept.filter (fun b => b ≠ (s.ropeOf r.val).toFetch)
          fetched := k.fetched ++ [⟨(s.ropeOf r.val).toFetch, BitVec.ofNat 512 n, 0, none, true, []⟩] })
        if recNext n = 0 then u.settleRope r.val else u.followNext r.val (s.ropeOf r.val).toFetch (recNext n)
      else t.takeRecord r.val (s.ropeOf r.val).toFetch n (s.ropeOf r.val).vtab.toNat) := by
  obtain ⟨a, t, read, -, only⟩ := viewRead_ok e.toQuiet same (who := .rope r.val (s.ropeOf r.val).toFetch) (by split <;> decide) hr
  refine ⟨t, only, ?_⟩
  have vtab : (s.ropeView r.val).1.2.2 = (s.ropeOf r.val).vtab.toNat := by rw [ropeView_of_same same]
  have run : (s.ropesRun && (s.ropeOf r.val).st = .head && (s.ropeOf r.val).toFetch ≠ 0 &&
      decide ((s.ropeOf r.val).live.length < 4)) = true := by
    simp only [e.runs, hst, decide_true, Bool.true_and, Rope.live, hf, List.filter_nil, List.length_nil, Bool.and_eq_true]
    exact ⟨decide_eq_true ht, by decide⟩
  show execRecordFetch r s = _
  unfold execRecordFetch
  simp only [run, if_true, hk, read, vtab]
  cases old <;> rfl

/-- A record that the engine kept gives its NEXT word alone. -/
theorem ropeOf_keptRecord {k : Rope} {r n : Nat} {t : State} (hr : t.ropeOf r = k) (hst : k.st = .head) (hf : k.fetched = [])
    (hl : t.launching r k.toFetch = false) (hn : recNext n = n) (hz : n ≠ 0) (hx : n % 64 = 0) (hlt : n < 2 ^ 64) :
    ((t.modRope r (fun q => { q with
        toFetch := 0, last := some k.toFetch, waitNext := true, kept := q.kept.filter (fun b => b ≠ k.toFetch)
        fetched := q.fetched ++ [⟨k.toFetch, BitVec.ofNat 512 n, 0, none, true, []⟩] })).followNext r k.toFetch (recNext n)).ropeOf r =
      { k with
        toFetch := BitVec.ofNat 64 n, head := BitVec.ofNat 64 n, last := some k.toFetch, waitNext := false
        kept := k.kept.filter (fun b => b ≠ k.toFetch) } := by
  rw [hn, ropeOf_followNext]
  · simp only [State.modRope_eq, State.setRope_ropeOf_same, hr, ← hst, ← hf]
  · exact .inr (by simpa only [State.modRope_eq, State.setRope_ropeOf_same, hr] using hst)
  · have none : ∀ u : State, u.launching r k.toFetch = false →
        ([⟨k.toFetch, BitVec.ofNat 512 n, 0, none, true, []⟩] : List Fetched).dropWhile (fun f => f.gone && !u.launching r f.addr) = [] := by
      intro u hu
      simp [hu]
    simp only [State.modRope_eq, State.setRope_ropeOf_same, hr, hf, List.nil_append]
    exact none _ hl
  · exact hx
  · exact hz
  · exact hlt

/-! ## Fields as the statements write them -/

theorem ofNat_bitsOf (d lo n : Nat) : BitVec.ofNat n (bitsOf d lo n) = BitVec.ofNat n (d / 2 ^ lo) :=
  BitVec.eq_of_toNat_eq (by simp [bitsOf])

theorem testBit_eq_bitOf (d i : Nat) : d.testBit i = bitOf d i := by
  rw [Nat.testBit_eq_decide_div_mod_eq, bitOf]

theorem rdN_lt (m : Memory) (a n : Nat) : Memory.rdN m a n < 256 ^ n := by
  induction n generalizing a with
  | zero => exact Nat.one_pos
  | succ n ih =>
    have := ih (a + 1)
    have := (Memory.rd m a).isLt
    rw [Memory.rdN, Nat.pow_succ]
    omega

theorem toNat_ofNat_bytes {w n k : Nat} (hw : w = 8 * k) (h : n < 256 ^ k) : (BitVec.ofNat w n).toNat = n := by
  rw [show (256 : Nat) = 2 ^ 8 from rfl, ← Nat.pow_mul, ← hw] at h
  rw [BitVec.toNat_ofNat, Nat.mod_eq_of_lt h]

theorem recNext_of_word {n : Nat} (h : n < 2 ^ 64) : recNext n = n := by
  rw [recNext, bitsOf, Nat.pow_zero, Nat.div_one, Nat.mod_eq_of_lt h]

theorem recWait_first (n : Nat) : recWait n 0 = (n / 2 ^ 256 % 2 ^ 16, n / 2 ^ 272 % 2 ^ 48) := by
  simp only [recWait, bitsOf, Nat.mul_zero, Nat.add_zero]

theorem takenUp_eq (k : Rope) (d : Nat) : takenUp k d =
    let head : Word := BitVec.ofNat 64 (d / 2 ^ 192)
    { k with
      en := true, pre := d.testBit 1, prio := BitVec.ofNat 6 (d / 2 ^ 2), asid := BitVec.ofNat 16 (d / 2 ^ 8)
      owner := BitVec.ofNat 8 (d / 2 ^ 24), mask := BitVec.ofNat 128 (d / 2 ^ 64), head := head
      knots := BitVec.ofNat 64 (d / 2 ^ 256), vtab := BitVec.ofNat 64 (d / 2 ^ 320), retired := BitVec.ofNat 32 (d / 2 ^ 416)
      fetched := if k.head = head then k.fetched else [], last := none, waitNext := false, badNext := none
      kept := if k.head = head then k.kept else [], failed := [] } := by
  simp only [takenUp, descPre, descPrio, descAsid, descOwner, descMask, descKnots, descVtab, descHead, ofNat_bitsOf, testBit_eq_bitOf]

theorem looked_eq (k : Rope) (d : Nat) : looked k d = { k with
    pre := d.testBit 1, prio := BitVec.ofNat 6 (d / 2 ^ 2), owner := BitVec.ofNat 8 (d / 2 ^ 24), mask := BitVec.ofNat 128 (d / 2 ^ 64) } := by
  simp only [looked, descPre, descPrio, descOwner, descMask, ofNat_bitsOf, testBit_eq_bitOf]

end Sys2Proof.Claims
end

section Settled

open Sys2Proof Sys2Proof.Machine Sys2Proof.Claims

/-- Settles O39: the reads of the engine change nothing of it, and each event is then one change of its copy of the descriptor. -/
theorem ropeEvents : Obligations.RopeEvents := by
  unfold Obligations.RopeEvents
  intro s r k addr d hten hq ho he hw hpa gives same reads
  have e : EngineRuns s := ⟨⟨ho, he, hw⟩, by simp [State.ropesRun, hten, hq]⟩
  have desc : s.ropeDesc r.val = d := rfl
  refine ⟨fun hen hst hd => ?_, fun hen hp => ?_, fun head hst hl ht hh => ?_, fun hen hst => ?_,
    fun a x h hsame hst hwait hl hf ht hr => ?_, fun n h hsame hst ht hf hkept hr => ?_,
    fun n h hsame hst ht hf hkept hr hz hx hl => ?_, fun f hsame hst hf hg hb hn hlat => ?_⟩
  · have eq := exec_ropeEnable e hen ((testBit_eq_bitOf d 0).symm.trans hd)
    have rope := ropeOf_ropeStart (r := r.val) ho he (by rw [show (s.ropeOf r.val).st = _ from hst]; decide)
    rw [desc, takenUp_eq] at rope
    refine ⟨fun good => ⟨_, eq, ?_⟩, fun bad => ⟨_, eq, ?_⟩⟩
    · rw [rope, good, descHead, ofNat_bitsOf]; rfl
    · rw [rope, bad]; rfl
  · obtain ⟨t, eq, rope⟩ := exec_ropeDisable e hen hp
    refine ⟨t, eq, fun a => ?_, ?_⟩
    · rw [rope]; exact mem_kept_turnedOff
    · rw [rope]; rfl
  · obtain ⟨t, eq, rope⟩ := exec_headWrite e hst hl ht hh
    refine ⟨fun hx => ⟨t, eq, ?_⟩, fun hx => ⟨t, eq, ?_⟩⟩
    · rw [rope, if_neg (not_not_intro hx)]
    · rw [rope, if_pos hx]; rfl
  · have prio : descPrio d = d / 2 ^ 2 % 2 ^ 6 := rfl
    have look := exec_descriptorWriteObserved e hen hst
    rw [desc, looked_eq, prio] at look
    refine ⟨fun hle => ?_, fun hgt hle => ?_⟩
    · obtain ⟨t, eq, rope⟩ := look (.inl hle)
      exact ⟨t, eq, by rw [rope, if_neg (Nat.not_lt.2 hle)]⟩
    · obtain ⟨t, eq, rope⟩ := look (.inr hle)
      exact ⟨t, eq, by rw [rope, if_pos hgt]; rfl⟩
  · obtain ⟨t, only, eq⟩ := exec_nextWordObserved e hsame hst hwait hl hr
    have rope := only.ropeOf r.val
    have hst' : (t.ropeOf r.val).st = .link ∨ (t.ropeOf r.val).st = .head := by rw [rope]; exact hst
    have hf' : (t.ropeOf r.val).fetched = [] := by rw [rope]; exact hf
    have hlt : x < 2 ^ 64 := by
      obtain ⟨pa, -, -, -, -, -, hx, -⟩ := hr
      rw [hx]; exact rdN_lt _ _ 8
    refine ⟨fun hz => ⟨t, by rw [eq, if_pos hz], rope⟩, fun hz hx => ⟨_, by rw [eq, if_neg hz], ?_⟩,
      fun hx hbn => ⟨_, by rw [eq, if_neg (fun hz => hx (by rw [hz]))], ?_⟩⟩
    · rw [ropeOf_followNext hst' (by rw [hf']; rfl) hx hz hlt, rope, ← hf]
    · rw [ropeOf_followNext_bad hst' hf' (by rw [rope]; exact ht) hx, rope]; rfl
  · have notKept : k.kept.contains k.toFetch = false := by rw [hkept]; rfl
    obtain ⟨t, only, eq⟩ := exec_recordFetch e hsame hst ht hf notKept hr
    have rope := only.ropeOf r.val
    have words : (BitVec.ofNat 512 n).toNat = n := by
      obtain ⟨pa, -, -, -, -, -, hx, -⟩ := hr
      exact toNat_ofNat_bytes (k := 64) rfl (by rw [hx]; exact rdN_lt _ _ 64)
    have taken := ropeOf_takeRecord (s := t) (r := r.val) (n := n) (by rw [rope]; exact hst) (by rw [rope]; exact hf) words
    rw [rope] at taken
    have next : recNext n = n % 2 ^ 64 := by simp [recNext, bitsOf]
    have one (bad : Option (BitVec 8)) : fetchedOne k n bad = { k with
        fetched := [⟨k.toFetch, BitVec.ofNat 512 n, 0, bad, false, []⟩], last := some k.toFetch
        waitNext := decide (n % 2 ^ 64 = 0), toFetch := if n % 2 ^ 64 % 64 = 0 then BitVec.ofNat 64 (n % 2 ^ 64) else 0
        failed := k.failed.filter (fun b => b ≠ k.toFetch) } := by rw [fetchedOne, next]
    refine ⟨fun good hn hnf => ⟨_, eq, ?_⟩, fun good hfl => ⟨_, eq, ?_⟩, fun bad => ⟨_, eq, ?_⟩⟩
    · have held : heldAgainst k n = none := by simp [heldAgainst, good, hnf]
      refine (taken (.inr hn)).trans ?_
      rw [show heldAgainst (s.ropeOf r.val) n = none from held]
      exact congrArg (fun q : Rope => { q with st := .head, head := k.toFetch }) (one none)
    · have held : heldAgainst k n = some fIMAGE := by simp [heldAgainst, good, hfl]
      refine (taken (.inl (by rw [show heldAgainst (s.ropeOf r.val) n = _ from held]; simp))).trans ?_
      rw [show heldAgainst (s.ropeOf r.val) n = _ from held]
      exact congrArg (fun q : Rope => { q with st := .fault, fcode := fIMAGE, head := k.toFetch }) (one (some fIMAGE))
    · have held : heldAgainst k n = some fRECORD := by simp [heldAgainst, bad]
      refine (taken (.inl (by rw [show heldAgainst (s.ropeOf r.val) n = _ from held]; simp))).trans ?_
      rw [show heldAgainst (s.ropeOf r.val) n = _ from held]
      exact congrArg (fun q : Rope => { q with st := .fault, fcode := fRECORD, head := k.toFetch }) (one (some fRECORD))
  · have kept : k.kept.contains k.toFetch = true := List.contains_iff_mem.2 hkept
    obtain ⟨t, only, eq⟩ := exec_recordFetch e hsame hst ht hf kept hr
    have hlt : n < 2 ^ 64 := by
      obtain ⟨pa, -, -, -, -, -, hx, -⟩ := hr
      rw [hx]; exact rdN_lt _ _ 8
    have next := recNext_of_word hlt
    refine ⟨_, eq, ?_⟩
    rw [if_pos rfl, if_neg (by rw [next]; exact hz)]
    exact ropeOf_keptRecord (only.ropeOf r.val) hst hf (by rw [only.launching]; exact hl) next hz hx hlt
  · have eq := exec_knotWriteObserved e hst
    have nwait : recNwait f.recd.toNat = 1 := hn
    obtain ⟨zero, knot⟩ := latchWait_first e hf hg hb nwait hlat
    rw [recWait_first] at zero knot
    have latched (homes : List Nat) (h : (s.latchWait r.val f.addr 0).ropeOf r.val = latchedFirst k f homes) :
        s.latchAll r.val = s.latchWait r.val f.addr 0 :=
      latchAll_first hf hg nwait ⟨{ f with latched := 1, homes := (f.homes ++ homes).eraseDups }, by rw [h]; rfl, hg, rfl, rfl⟩
    intro index threshold
    refine ⟨fun hz => ⟨_, eq, ?_⟩, fun x h hz hr => ⟨fun hle => ⟨_, eq, ?_⟩, fun hlt => ⟨_, eq, ?_⟩⟩⟩
    · rw [latched [] (zero hz), zero hz, latchedFirst, List.append_nil]
    · have rope := (knot hsame hz x h hr).trans (if_pos hle)
      rw [latched [h] rope, rope]; rfl
    · have rope := (knot hsame hz x h hr).trans (if_neg (Nat.not_le.2 hlt))
      rw [latchAll_first hf hg nwait ⟨f, by rw [rope]; exact hf, hg, rfl, rfl⟩, rope]

end Settled

section
/-! SUPPORT. The end of a task: what is freed, what its rope counts and logs, its signals, and the variant switch (R22, R45, R153,
R164, R376). -/

namespace Sys2Proof.Claims

open Sys2Proof Sys2Proof.Machine

variable {s t u : State}

/-! ## Tasks and credits -/

theorem task?_id {n : Nat} {k : Task} (h : s.task? n = some k) : k.id = n := by
  simpa using List.find?_some h

theorem task?_modTask {n : Nat} {f : Task → Task} (hf : ∀ k : Task, (f k).id = k.id) :
    (s.modTask n f).task? n = (s.task? n).map f := by
  simp only [State.task?, State.modTask]
  induction s.tasks with
  | nil => rfl
  | cons k r ih =>
    by_cases h : k.id = n
    · simp [h, hf]
    · simp [h, ih]

theorem task?_modTask_some {n : Nat} {k : Task} {f : Task → Task} (h : s.task? n = some k) (hf : ∀ k : Task, (f k).id = k.id) :
    (s.modTask n f).task? n = some (f k) := by rw [task?_modTask hf, h]; rfl

theorem task?_filter {n : Nat} {l : List Task} (h : s.tasks = l.filter (fun k => k.id ≠ n)) : s.task? n = none := by
  simp [State.task?, h, List.find?_filter]

/-- A credit's return changes one island, and nothing else. -/
theorem credits_frame (l : List (Nat × Nat)) : l.foldl (fun s p => s.credit p.1 p.2) s =
    { s with islands := (l.foldl (fun s p => s.credit p.1 p.2) s).islands } := by
  induction l generalizing s with
  | nil => rfl
  | cons p r ih => rw [List.foldl_cons, ih]; rfl

/-- The HOLD of an island that AU are credited to (R153). -/
def creditedHold (k : Island) (au : Int) : Int := if k.max < k.hold + au then max k.hold k.max else satHold (k.hold + au)

theorem island_credit (i : Nat) (au : Int) : (s.credit i au).island i = { s.island i with hold := creditedHold (s.island i) au } := by
  rw [State.credit, State.modIsland_eq, State.setIsland_island_same]; rfl

/-- The return of a task's credit. -/
theorem returnCredit_eq {k : Task} (h : s.task? k.id = some k) : ∃ m, s.returnCredit k.id =
    State.modTask { s with islands := m } k.id (fun t => { t with credit := [] }) ∧
    ∀ i au, k.credit = [(i, au)] → (s.returnCredit k.id).island i = { s.island i with hold := creditedHold (s.island i) au } := by
  refine ⟨(k.credit.foldl (fun s p => s.credit p.1 p.2) s).islands, ?_, fun i au hc => ?_⟩
  · simp only [State.returnCredit, h]
    rw [credits_frame]
  · simp only [State.returnCredit, h, hc, List.foldl_cons, List.foldl_nil]
    exact island_credit i au

/-! ## Freeing -/

/-- What the freeing of teams leaves as it was. -/
def unfreed (s : State) : State := { s with ctxs := [], parts := [], cores := [], dir := [], owners := [] }

theorem foldl_setCtx_frame (l : List CtxNo) (c : Ctx) : l.foldl (fun s x => s.setCtx x c) s =
    { s with ctxs := (l.foldl (fun s x => s.setCtx x c) s).ctxs } := by
  induction l generalizing s with
  | nil => rfl
  | cons x r ih => rw [List.foldl_cons, ih]; rfl

theorem foldl_setPart_frame (l : List Nat) (b : Nat) (p : Part) : l.foldl (fun s q => s.setPart (b + q) p) s =
    { s with parts := (l.foldl (fun s q => s.setPart (b + q) p) s).parts } := by
  induction l generalizing s with
  | nil => rfl
  | cons x r ih => rw [List.foldl_cons, ih]; rfl

theorem unfreed_freeTeam (c task : Nat) : unfreed (s.freeTeam c task) = unfreed s := by
  simp only [State.freeTeam]
  split
  · rfl
  · rw [foldl_setPart_frame, foldl_setCtx_frame]; rfl

theorem owners_freeTeam (ho : s.owners = []) (c task : Nat) : (s.freeTeam c task).owners = [] := by
  simp only [State.freeTeam]
  split
  · exact ho
  · rw [foldl_setPart_frame, foldl_setCtx_frame]
    simp [State.modCore_eq, ho]

theorem team?_freeTeam (c task k : Nat) : ((s.freeTeam c task).core k).team? task = if k = c then none else (s.core k).team? task := by
  simp only [State.freeTeam]
  cases h : (s.core c).team? task with
  | none =>
    by_cases e : k = c
    · rw [if_pos e, e]; exact h
    · rw [if_neg e]
  | some w =>
    simp only [State.modCore_eq]
    by_cases e : k = c
    · rw [if_pos e, e, State.setCore_core_same]
      simp [Core.team?, List.find?_filter]
    · rw [if_neg e, State.setCore_core_ne _ _ e, foldl_setPart_frame, foldl_setCtx_frame]
      rfl

theorem unfreed_foldl (l : List Nat) (task : Nat) : unfreed (l.foldl (fun s c => s.freeTeam c task) s) = unfreed s := by
  induction l generalizing s with
  | nil => rfl
  | cons c r ih => rw [List.foldl_cons, ih, unfreed_freeTeam]

theorem owners_foldl (ho : s.owners = []) (l : List Nat) (task : Nat) : (l.foldl (fun s c => s.freeTeam c task) s).owners = [] := by
  induction l generalizing s with
  | nil => exact ho
  | cons c r ih => exact ih (owners_freeTeam ho c task)

theorem team?_foldl (l : List Nat) (task k : Nat) :
    ((l.foldl (fun s c => s.freeTeam c task) s).core k).team? task = if k ∈ l then none else (s.core k).team? task := by
  induction l generalizing s with
  | nil => rfl
  | cons c r ih =>
    rw [List.foldl_cons, ih, team?_freeTeam]
    by_cases hr : k ∈ r <;> by_cases hc : k = c <;> simp [hr, hc]

/-! ## The rope that a task leaves -/

theorem settled_counts (k : Rope) (launching : Word → Bool) :
    (k.settled launching).inflight = k.inflight ∧ (k.settled launching).retired = k.retired := by
  simp only [Rope.settled]
  split
  · exact ⟨rfl, rfl⟩
  · split
    · split <;> exact ⟨rfl, rfl⟩
    · split
      · exact ⟨rfl, rfl⟩
      · split
        · exact ⟨rfl, rfl⟩
        · split <;> exact ⟨rfl, rfl⟩

/-- A fault record changes no more than the queues that it may enter. -/
theorem ropeFaultRecord_frame (r : Nat) : ∃ f q, s.ropeFaultRecord r = { s with sups := f, fqwait := q, freeCtr := s.freeCtr + 1 } := by
  simp only [State.ropeFaultRecord, State.routeFault]
  split
  · exact ⟨_, _, rfl⟩
  · split
    · exact ⟨_, _, rfl⟩
    · exact ⟨_, _, rfl⟩

theorem putRope_frame (ho : s.owners = []) (he : s.errs = []) {r : Nat} (hr : r < 256) (k : Rope) :
    ∃ w, s.putRope r k = w ∧ Accessed s w ∧ w.ropeOf r = k := ⟨_, rfl, .putRope ho he hr k, ropeOf_putRope r k⟩

/-- A rope is settled: of all that the frame of an access speaks of, only the engine's copy changes. -/
theorem settleRope_frame (ho : s.owners = []) (he : s.errs = []) {r : Nat} (hr : r < 256) :
    ∃ w f q n, Accessed s w ∧ w.ropeOf r = (s.ropeOf r).settled (s.launching r) ∧
      s.settleRope r = { w with sups := f, fqwait := q, freeCtr := n } := by
  obtain ⟨w, hw, acc, rope⟩ := putRope_frame ho he hr ((s.ropeOf r).settled (s.launching r))
  simp only [State.settleRope, hw]
  split
  · obtain ⟨f, q, fault⟩ := ropeFaultRecord_frame (s := w) r
    exact ⟨w, f, q, _, acc, rope, fault⟩
  · exact ⟨w, w.sups, w.fqwait, w.freeCtr, acc, rope, rfl⟩

theorem link_of_nil (hl : s.links = []) (p : Nat) : s.link p = LinkQ.none := by rw [State.link, hl]; rfl

theorem discardAll_of_nil (hl : s.links = []) (task : Nat) : s.discardAll task = (0, s) := by
  suffices ∀ l : List Nat, l.foldl (fun (r : Nat × State) p =>
      if (r.2.link p).owner = some task then (r.1 + (r.2.link p).flits.length, r.2.discardFlits p) else r) (0, s) = (0, s) from this _
  intro l
  induction l with
  | nil => rfl
  | cons p r ih => rw [List.foldl_cons, link_of_nil hl, if_neg (by simp [LinkQ.none]), ih]

theorem freeLinks_of_nil (hl : s.links = []) (task : Nat) : s.freeLinks task = s := by
  suffices ∀ l : List Nat, l.foldl (fun s p => if (s.link p).owner = some task then s.setLink p { s.link p with owner := none } else s) s = s
    from this _
  intro l
  induction l with
  | nil => rfl
  | cons p r ih => rw [List.foldl_cons, link_of_nil hl, if_neg (by simp [LinkQ.none]), ih]

/-- The log entry of a task that leaves with nothing discarded. -/
def leftEntry (k : Rope) (t : Task) (status tclass : BitVec 8) : RetEnt :=
  { recAddr := t.recAddr, joule := t.joule, status := status, tclass := tclass
    dflits := BitVec.ofNat 16 (min (t.dflits + 0) 65535), rseq := k.retired + 1 }

/-- A retirement log with one more entry, which keeps the last 16 (R376). -/
def logged (l : List RetEnt) (e : RetEnt) : List RetEnt := (l ++ [e]).drop ((l ++ [e]).length - 16)

theorem getLast?_logged (l : List RetEnt) (e : RetEnt) : (logged l e).getLast? = some e := by
  simp [logged, List.getLast?_drop]

/-- A task leaves: of what its freeing and the return of its credit touch nothing changes, its rope counts and logs it, and its signals
are still to be sent. -/
theorem leaveTask_frame (ho : s.owners = []) (he : s.errs = []) (hl : s.links = []) (hp : s.preempt = []) (k : Task)
    (status tclass : BitVec 8) (sigs : List Nat) :
    ∃ w u : State, Accessed s w ∧ Accessed { w with
        retlog := SMap.set [] w.retlog k.rope.val
          (logged (SMap.get [] w.retlog k.rope.val) (leftEntry (s.ropeOf k.rope.val) k status tclass))
        hubWaits := w.hubWaits.filter (fun h => h.who ≠ .task k.id) } u ∧
      (u.ropeOf k.rope.val).inflight = (s.ropeOf k.rope.val).inflight - 1 ∧
      (u.ropeOf k.rope.val).retired = (s.ropeOf k.rope.val).retired + 1 ∧
      ∃ f q n, s.leaveTask k status tclass sigs =
        State.modTask { u with sups := f, fqwait := q, freeCtr := n } k.id (fun t => { t with st := .retired, sigs := sigs }) := by
  obtain ⟨w, hw, acc, rope⟩ := putRope_frame ho he k.rope.isLt
    { s.ropeOf k.rope.val with inflight := (s.ropeOf k.rope.val).inflight - 1, retired := (s.ropeOf k.rope.val).retired + 1 }
  have links : w.links = [] := ((congrArg State.links acc.still :) : w.links = s.links).trans hl
  let v := (w.logRetired k.rope.val (leftEntry (s.ropeOf k.rope.val) k status tclass)).forgetTask k.id
  have left : s.leaveTask k status tclass sigs = (v.settleRope k.rope.val).modTask k.id (fun t => { t with st := .retired, sigs := sigs }) := by
    simp only [State.leaveTask, discardAll_of_nil hl, hw]
    rw [freeLinks_of_nil (by exact links), withdrawIf_of_nil (by exact acc.preempt.trans hp)]
    rfl
  obtain ⟨u, f, q, n, acc', rope', settle⟩ := settleRope_frame (s := v) (acc.owners.trans ho) (acc.errs.trans he) k.rope.isLt
  obtain ⟨inflight, retired⟩ := settled_counts (v.ropeOf k.rope.val) (v.launching k.rope.val)
  have same : v.ropeOf k.rope.val = w.ropeOf k.rope.val := rfl
  refine ⟨w, u, acc, acc', ?_, ?_, f, q, n, by rw [left, settle]⟩
  · rw [rope', inflight, same, rope]
  · rw [rope', retired, same, rope]

/-! ## Tasks that have nothing left to do -/

/-- Every context of the task on its cores satisfies p. -/
def EveryCtx (s : State) (t : Task) (p : Ctx → Prop) : Prop :=
  ∀ c ∈ t.cores, ∀ w, (s.core c).team? t.id = some w → ∀ x ∈ w.ctxNos, p (s.ctx x)

theorem allCtxs_iff {k : Task} {p : Ctx → Bool} : s.allCtxs k.id k.cores p = true ↔ EveryCtx s k (fun c => p c = true) := by
  simp only [State.allCtxs, State.ctxsOn, List.all_eq_true, List.mem_flatMap, EveryCtx]
  constructor
  · intro h c hc w hw x hx
    exact h x ⟨c, hc, by rw [hw]; exact hx⟩
  · rintro h x ⟨c, hc, hx⟩
    cases hw : (s.core c).team? k.id with
    | none => rw [hw] at hx; simp at hx
    | some w => rw [hw] at hx; exact h c hc w hw x hx

/-- On a core of the task every command is done, no operation is outstanding and nothing is mapped. -/
structure IdleOn (s : State) (task c : Nat) : Prop where
  done : s.commandsDone task c = true
  ops : ∀ o ∈ s.ops, o.task = task → o.core ≠ c
  unmapped : ∀ w, (s.core c).team? task = some w → ∀ e ∈ w.bights, e.2.v = false

theorem unmapTeam_idle {task c : Nat} (h : IdleOn s task c) : s.unmapTeam c task = s := by
  simp only [State.unmapTeam]
  split
  · rfl
  · next w hw =>
    have none := h.unmapped w hw
    revert none
    generalize w.bights = l
    intro none
    induction l with
    | nil => rfl
    | cons e r ih =>
      rw [List.foldl_cons, none e (by simp)]
      exact ih fun e he => none e (List.mem_cons_of_mem _ he)

theorem windDown_idle {k : Task} (h : ∀ c ∈ k.cores, IdleOn s k.id c) : s.windDown k = (true, s) := by
  have same : k.cores.foldl (fun s c => s.unmapTeam c k.id) s = s := by
    revert h
    generalize k.cores = l
    intro h
    induction l with
    | nil => rfl
    | cons c r ih =>
      rw [List.foldl_cons, unmapTeam_idle (h c (by simp))]
      exact ih fun c hc => h c (List.mem_cons_of_mem _ hc)
  have all : (k.cores.all (fun c => !s.mapped c k.id && !s.opsLeft k.id c)) = true := by
    rw [List.all_eq_true]
    intro c hc
    obtain ⟨-, ops, unmapped⟩ := h c hc
    have hm : s.mapped c k.id = false := by
      simp only [State.mapped]
      split
      · next w hw => rw [List.any_eq_false]; intro e he; rw [unmapped w hw e he]; decide
      · rfl
    have ho : s.opsLeft k.id c = false := by
      rw [State.opsLeft, List.any_eq_false]
      intro o hm
      have := ops o hm
      simpa using this
    rw [hm, ho]; rfl
  simp only [State.windDown, same, all]

/-- The credit of a task is back and its teams are free. -/
def handedBack (s : State) (k : Task) : State := (s.returnCredit k.id).freeTeams k

/-- What is freed of a task, as the statement says it. -/
def FreedIn (s u : State) (k : Task) : Prop := (∀ c ∈ k.cores, (u.core c).team? k.id = none) ∧
  ∀ i au, k.credit = [(i, au)] → i < 128 → (u.island i).hold = creditedHold (s.island i) au

theorem handedBack_freed {k : Task} (h : s.task? k.id = some k) : FreedIn s (handedBack s k) k := by
  obtain ⟨m, -, credit⟩ := returnCredit_eq h
  refine ⟨fun c hc => ?_, fun i au hc _ => ?_⟩
  · rw [handedBack, State.freeTeams, team?_foldl, if_pos hc]
  · have island : (handedBack s k).island i = (s.returnCredit k.id).island i := congrArg (·.island i) (unfreed_foldl _ _)
    rw [island, credit i au hc]

/-- Of the other fields, only the task's credit changes. -/
theorem handedBack_rest {k : Task} (h : s.task? k.id = some k) :
    (handedBack s k).task? k.id = some { k with credit := [] } ∧ (∀ r, (handedBack s k).ropeOf r = s.ropeOf r) ∧
      (handedBack s k).errs = s.errs ∧ (handedBack s k).links = s.links ∧ (handedBack s k).preempt = s.preempt ∧
      (s.owners = [] → (handedBack s k).owners = []) := by
  obtain ⟨m, back, -⟩ := returnCredit_eq h
  have frame : unfreed (handedBack s k) = unfreed (State.modTask { s with islands := m } k.id (fun t => { t with credit := [] })) := by
    rw [← back]; exact unfreed_foldl _ _
  have task : (handedBack s k).task? k.id = (State.modTask { s with islands := m } k.id (fun t => { t with credit := [] })).task? k.id :=
    congrArg (·.task? k.id) frame
  refine ⟨?_, fun r => congrArg (·.ropeOf r) frame, (congrArg State.errs frame :), (congrArg State.links frame :),
    (congrArg State.preempt frame :), fun ho => owners_foldl (by rw [back]; exact ho) _ _⟩
  exact task.trans (task?_modTask_some h fun _ => rfl)

/-! ## Retirement -/

theorem exec_taskRetire {k : Task} (h : s.task? k.id = some k) : exec (.taskRetire k.id) s = .next (s.retireStep k) := by
  show Host.Outcome.next (match s.task? k.id with
    | some t => s.retireStep t
    | none => s) = _
  rw [h]

theorem retireStep_of_retired {k : Task} (h : k.st = .retired) : s.retireStep k = s.signalTask k := if_pos h

theorem signalTask_nil {k : Task} (h : k.sigs = []) : s.signalTask k = { s with tasks := s.tasks.filter (fun w => w.id ≠ k.id) } := by
  rw [State.signalTask, h]

theorem signalTask_one {k : Task} {i : Nat} (h : k.sigs = [i]) (hs : (s.signal k i).1 = true) :
    s.signalTask k = { (s.signal k i).2 with tasks := (s.signal k i).2.tasks.filter (fun w => w.id ≠ k.id) } := by
  simp only [State.signalTask, h, hs, Bool.not_true, Bool.false_eq_true, if_false]

/-- A signal that reaches its knot adds 1 to it (R22). -/
theorem signal_ok (e : Quiet s) {k : Task} (same : SameDesc s k.rope.val) {i pa a}
    (hx : s.xlate 128 (s.ropeOf k.rope.val).asid (((s.ropeOf k.rope.val).knots.toNat + 8 * i) % 2 ^ 64) true = .ok pa a)
    (hl : a.lease = false) (hpa : pa + 8 ≤ 0x9000000000) (hb : s.physBad pa 8 = false)
    (hs : s.sliceJustServed (homeSlice a pa) = false) (apart : ApartFromTable s pa) :
    (s.signal k i).1 = true ∧ (s.signal k i).2.dram = Memory.wrN s.dram pa ((Memory.rdN s.dram pa 8 + 1) % 2 ^ 64) 8 := by
  have target := paTarget_of_le hpa (by decide)
  have hawser := paHawser_of_le hpa (by decide)
  obtain ⟨t, access, only⟩ := hubAccess_ok (who := .task k.id) (claim := (s.ropeOf k.rope.val).owner) (src := srcRope)
    (fcore := lowCore (s.ropeOf k.rope.val).mask) e.waits e.owners e.errs hx hawser hs
  have ho := only.owners.trans e.owners
  have hr := only.errs.trans e.errs
  let who : Who := { whoRope with first := false }
  have read := only.trans (ReadOnly.readHome (s := t) ho hr (w := who) (by decide) rfl a pa 8)
  have value : (t.readHome who a pa 8).1 = Memory.rdN s.dram pa 8 := by
    rw [readHome_value ho hr, physRd_of_le hpa (by decide), only.dram]
  have good : (a.lease || paHawser pa || (t.readHome who a pa 8).2.physBad pa 8) = false := by rw [hl, hawser, read.physBad, hb]; rfl
  have eq : s.signal k i = (true, (t.readHome who a pa 8).2.writeHome whoRope none a pa [⟨pa, 8, ((t.readHome who a pa 8).1 + 1) % 2 ^ 64⟩]) := by
    simp only [State.signal, ropeView_of_same same, access]
    exact if_neg (by rw [good]; decide)
  rw [eq]
  refine ⟨rfl, ?_⟩
  rw [writeHome_one_dram (read.owners.trans e.owners) (read.errs.trans e.errs) rfl (by decide) rfl _ _ target, value,
    dramWr_congr read.dram read.mon, dramWr_of_apart apart (by decide)]

theorem recSigs_of_none {n : Nat} (h : n / 2 ^ 209 % 4 = 0) : recSigs n = [] := by
  have : recNsig n = 0 := h
  rw [recSigs, this]; rfl

/-- A task with nothing left to do retires in one step, where it signals nothing. -/
theorem retireStep_idle (ho : s.owners = []) (he : s.errs = []) (hl : s.links = []) (hp : s.preempt = []) {k : Task}
    (h : s.task? k.id = some k) (hst : k.st = .running) (idle : ∀ c ∈ k.cores, IdleOn s k.id c)
    (ended : EveryCtx s k (fun c => c.st = .ended)) (hs : recSigs k.recd.toNat = []) :
    let r := k.rope.val
    let u := s.retireStep k
    u.task? k.id = none ∧ FreedIn s u k ∧ (u.ropeOf r).inflight = (s.ropeOf r).inflight - 1 ∧
      (u.ropeOf r).retired = (s.ropeOf r).retired + 1 ∧ (SMap.get [] u.retlog r).getLast? = some (leftEntry (s.ropeOf r) k 0 0) := by
  intro r u
  obtain ⟨task, ropes, errs, links, preempt, owners⟩ := handedBack_rest h
  obtain ⟨w, v, acc, acc', inflight, retired, f, q, n, left⟩ :=
    leaveTask_frame (owners ho) (errs.trans he) (links.trans hl) (preempt.trans hp) k 0 0 (recSigs k.recd.toNat)
  obtain ⟨teams, islands⟩ := handedBack_freed h
  have ready : ((k.st = .running || k.st = .stopping) && s.allCtxs k.id k.cores (fun c => c.st = .ended) &&
      k.cores.all (s.commandsDone k.id)) = true := by
    have all := allCtxs_iff (s := s) (k := k) (p := fun c => c.st = .ended) |>.2 (by simpa using ended)
    have done : k.cores.all (s.commandsDone k.id) = true := List.all_eq_true.2 fun c hc => (idle c hc).done
    rw [hst, all, done]; rfl
  let leave := (handedBack s k).leaveTask k 0 0 (recSigs k.recd.toNat)
  have gone : leave.task? k.id = some { k with credit := [], st := .retired, sigs := [] } := by
    have : v.task? k.id = some { k with credit := [] } := (acc'.task? k.id).trans ((acc.task? k.id).trans task)
    rw [show leave = _ from left, hs]
    exact task?_modTask_some this fun _ => rfl
  have eq : u = { leave with tasks := leave.tasks.filter (fun w => w.id ≠ k.id) } := by
    have notYet : ¬k.st = .retired := by rw [hst]; decide
    have gone' : (((s.returnCredit k.id).freeTeams k).leaveTask k 0 0 (recSigs k.recd.toNat)).task? k.id = _ := gone
    have step : u = leave.signalTask { k with credit := [], st := .retired, sigs := [] } := by
      simp only [u, State.retireStep, notYet, if_false, ready, if_true, windDown_idle idle, gone']
      rfl
    rw [step]
    exact signalTask_nil rfl
  have core (c n : Nat) : (u.core c).team? n = ((handedBack s k).core c).team? n := by
    rw [eq, show leave = _ from left]
    exact (acc'.team? c n).trans (acc.team? c n)
  have island (i : Nat) (hi : i < 128) : u.island i = (handedBack s k).island i := by
    rw [eq, show leave = _ from left]
    exact (acc'.island i hi).trans (acc.island i hi)
  refine ⟨task?_filter (l := leave.tasks) (by rw [eq]), ⟨fun c hc => by rw [core, teams c hc], fun i au hc hi => ?_⟩, ?_, ?_, ?_⟩
  · rw [island i hi]; exact islands i au hc hi
  · rw [eq, show leave = _ from left, ← ropes]; exact inflight
  · rw [eq, show leave = _ from left, ← ropes]; exact retired
  · have log : u.retlog = v.retlog := by rw [eq, show leave = _ from left]; rfl
    have entry : v.retlog = SMap.set [] w.retlog r (logged (SMap.get [] w.retlog r) (leftEntry ((handedBack s k).ropeOf r) k 0 0)) :=
      (congrArg State.retlog acc'.still :)
    rw [log, entry, SMap.get_set_same, getLast?_logged, ropes]

/-! ## The variant switch -/

theorem exec_variantSwitch {k : Task} (h : s.task? k.id = some k) : exec (.variantSwitch k.id) s = .next (s.switchStep k) := by
  show Host.Outcome.next (match s.task? k.id with
    | some t => s.switchStep t
    | none => s) = _
  rw [h]

theorem id_switchTo (k : Task) (j e : Nat) : (switchTo k j e).id = k.id := by
  unfold switchTo; split <;> rfl

/-- Once every context has stopped, and not every one has ended, the named entry is read and taken up. -/
theorem switchStep_stopped (e : Quiet s) {k : Task} (h : s.task? k.id = some k) (hst : k.st = .running) {j : Nat} (hj : k.sw = some j)
    (same : SameDesc s k.rope.val) (stopped : EveryCtx s k (fun c => c.st = .stopped))
    (notEnded : ¬EveryCtx s k (fun c => c.st = .ended)) {pa a}
    (hx : s.xlate 128 (s.ropeOf k.rope.val).asid (((s.ropeOf k.rope.val).vtab.toNat + 16 * j) % 2 ^ 64) false = .ok pa a)
    (hpa : pa + 16 ≤ 0x9000000000) (hb : s.physBad pa 16 = false) (hs : s.sliceJustServed (homeSlice a pa) = false) :
    (s.switchStep k).task? k.id = some (switchTo k j (Memory.rdN s.dram pa 16)) := by
  obtain ⟨t, read, only⟩ := ropeRead_ok (who := .task k.id) (r := k.rope.val) e (by decide) hx hpa hb hs
  have atStop : s.allCtxs k.id k.cores Ctx.atStop = true :=
    allCtxs_iff.2 fun c hc w hw x hx => by simp [Ctx.atStop, stopped c hc w hw x hx]
  have ended : s.allCtxs k.id k.cores (fun c => c.st = .ended) = false := by
    rw [Bool.eq_false_iff]
    intro all
    have := allCtxs_iff.1 all
    exact notEnded (by simpa using this)
  have step : s.switchStep k = t.modTask k.id (fun t => switchTo t j (Memory.rdN s.dram pa 16)) := by
    simp only [State.switchStep, hj, hst, decide_true, Bool.true_or, if_true, atStop, ended, Bool.not_false, Bool.and_self,
      ropeView_of_same same, read]
  rw [step]
  exact task?_modTask_some ((only.task? k.id).trans h) fun u => id_switchTo u j _

/-- A switch asks a team's halyard to stop. -/
def haltOn (task : Nat) (s : State) (c : Nat) : State :=
  match (s.core c).team? task with
  | some u => if u.hal then s.stopHal c else s
  | none => s

theorem haltOn_of_no_hal {task c : Nat} (h : ∀ w, (s.core c).team? task = some w → w.hal = false) : haltOn task s c = s := by
  unfold haltOn
  split
  · next w hw => rw [h w hw, if_neg (by decide)]
  · rfl

theorem foldl_haltOn_of_no_hal {task : Nat} {l : List Nat} (h : ∀ c ∈ l, ∀ w, (s.core c).team? task = some w → w.hal = false) :
    l.foldl (haltOn task) s = s := by
  induction l with
  | nil => rfl
  | cons c r ih =>
    rw [List.foldl_cons, haltOn_of_no_hal (h c (by simp))]
    exact ih fun c hc => h c (List.mem_cons_of_mem _ hc)

theorem switchStep_of_switching {k : Task} (hst : k.st = .switching) {j : Nat} (hj : k.sw = some j) : s.switchStep k =
    let u := k.cores.foldl (haltOn k.id) s
    if k.cores.all (u.commandsDone k.id) then
      if (u.windDown k).1 then
        ((handedBack (u.windDown k).2 k).freeLinks k.id).modTask k.id (fun t => { t with st := .switched, sw := none, supStop := false })
      else (u.windDown k).2
    else u := by
  have notYet : ¬(k.st = .running || k.st = .stopping) = true := by rw [hst]; decide
  simp only [State.switchStep, hj]
  rw [if_neg notYet, if_pos hst]
  rfl

/-- Once nothing is left to do, the task is freed to wait on its rope. -/
theorem switchStep_switching (hl : s.links = []) {k : Task} (h : s.task? k.id = some k) (hst : k.st = .switching) {j : Nat}
    (hj : k.sw = some j) (idle : ∀ c ∈ k.cores, IdleOn s k.id c)
    (noHal : ∀ c ∈ k.cores, ∀ w, (s.core c).team? k.id = some w → w.hal = false) :
    FreedIn s (s.switchStep k) k ∧
      (s.switchStep k).task? k.id = some { k with st := .switched, sw := none, supStop := false, credit := [] } := by
  obtain ⟨task, -, -, links, -, -⟩ := handedBack_rest h
  have done : k.cores.all (s.commandsDone k.id) = true := List.all_eq_true.2 fun c hc => (idle c hc).done
  have step : s.switchStep k = (handedBack s k).modTask k.id (fun t => { t with st := .switched, sw := none, supStop := false }) := by
    rw [switchStep_of_switching hst hj]
    simp only [foldl_haltOn_of_no_hal noHal, done, if_true, windDown_idle idle, freeLinks_of_nil (links.trans hl)]
  rw [step]
  exact ⟨handedBack_freed h, task?_modTask_some task fun _ => rfl⟩

theorem switchTo_eq (k : Task) (j e : Nat) : switchTo k j e =
    if e % 2 ^ 64 = 0 then { k with
      st := .switching, image := BitVec.ofNat 64 (k.recd.toNat / 2 ^ 64), eclass := BitVec.ofNat 4 (k.recd.toNat / 2 ^ 196)
      tcon := BitVec.ofNat 4 (k.recd.toNat / 2 ^ 200), variant := 0 }
    else { k with
      st := .switching, image := BitVec.ofNat 64 e, eclass := BitVec.ofNat 4 (e / 2 ^ 64)
      tcon := BitVec.ofNat 4 (e / 2 ^ 68), variant := j } := by
  have low : bitsOf e 0 64 = e % 2 ^ 64 := by rw [bitsOf, Nat.pow_zero, Nat.div_one]
  have word : BitVec.ofNat 64 (e % 2 ^ 64) = BitVec.ofNat 64 e := by rw [← low, ofNat_bitsOf, Nat.pow_zero, Nat.div_one]
  simp only [switchTo, recImage, recEclass, recTcon, ofNat_bitsOf, low, word]

end Sys2Proof.Claims
end

section Settled

open Sys2Proof Sys2Proof.Machine Sys2Proof.Claims

/-- Settles O41: a retirement is one step of the task's signals, or its handing back followed by its leave; a switch takes its entry up, and
is then a handing back too. -/
theorem retirementEvents : Obligations.RetirementEvents := by
  unfold Obligations.RetirementEvents
  intro s t r k d same idle every freed h ho he
  have idleOn (hi : idle) : ∀ c ∈ t.cores, IdleOn s t.id c := fun c hc => by
    obtain ⟨done, ops, unmapped⟩ := hi.2.2 c hc
    exact ⟨done, ops, unmapped⟩
  refine ⟨fun hst hs => ?_, fun i pa a hst hs hsame hw hx hl hpa hb hsl apart => ?_, fun hst hi ended hsig => ?_,
    fun j pa a hst hj hsame hw stopped notEnded hx hpa hb hsl => ?_, fun j hst hj hi noHal => ?_⟩
  · rw [exec_taskRetire h, retireStep_of_retired hst, signalTask_nil hs]
  · obtain ⟨sent, dram⟩ := signal_ok ⟨ho, he, hw⟩ hsame hx hl hpa hb hsl apart
    refine ⟨_, exec_taskRetire h, ?_⟩
    rw [retireStep_of_retired hst, signalTask_one hs sent]
    exact ⟨task?_filter rfl, dram⟩
  · obtain ⟨gone, free, inflight, retired, log⟩ :=
      retireStep_idle ho he hi.1 hi.2.1 h hst (idleOn hi) ended (recSigs_of_none hsig)
    exact ⟨_, exec_taskRetire h, gone, free, inflight, retired, _, log, rfl, rfl, rfl, rfl, rfl⟩
  · intro e
    refine ⟨_, exec_variantSwitch h, ?_⟩
    rw [switchStep_stopped ⟨ho, he, hw⟩ h hst hj hsame stopped notEnded hx hpa hb hsl, switchTo_eq]
  · obtain ⟨free, task⟩ := switchStep_switching hi.1 h hst hj (idleOn hi) noHal
    exact ⟨_, exec_variantSwitch h, free, task⟩

end Settled

section
/-! SUPPORT. Links, chassis arbitration, requests of the fabric, and registers (R6, R44, R156, R405, R406, R414, R420, R423, R425). -/

namespace Sys2Proof.Claims

open Sys2Proof Sys2Proof.Machine

variable {s t u : State}

/-! ## Links -/

theorem exec_flitArrival (l : Fin 8) (vc : Fin 4) (f : VReg) : exec (.flitArrival l vc f) s =
    .next (if (s.link (pairNo l.val vc.val)).flits.length < 64 then
      s.setLink (pairNo l.val vc.val) { s.link (pairNo l.val vc.val) with rx := (s.link (pairNo l.val vc.val)).rx ++ [some f] } else s) := rfl

/-! ## Arbitration -/

/-- The share of a module that hears no peer, of its own message (R405). -/
def shareAlone (own : ArbMsg) : Nat :=
  if own.chbud < own.mincap then own.mincap else own.mincap + min (arbExcess own) (own.chbud - own.mincap)

theorem arbShares_one (own : ArbMsg) : arbShares own.chbud [] [own] = [(own.modnum, shareAlone own)] := by
  have t1 : total ([] : List Nat) = 0 := rfl
  have t2 (x : Nat) : total [x] = x := by simp [total]
  simp only [arbShares, List.map_cons, List.map_nil, t1, t2, Nat.zero_add, shareAlone]
  split
  · rfl
  · split
    · next h => rw [Nat.min_eq_left h]
    · next h =>
      have pos : 0 < arbExcess own := by omega
      rw [Nat.mul_div_cancel _ pos, Nat.min_eq_right (by omega), Nat.sub_self]
      rfl

theorem share_alone {own : ArbMsg} (hp : s.mgmt.peers = []) (hm : own.modnum < 4) : s.share own =
    if 4 ≤ (s.peer own.modnum).missing then own.fallback else shareAlone own := by
  have members (f : Nat → Option ArbMsg) (hf : ∀ k, f k = if k = own.modnum then some own else none) :
      (List.range 4).filterMap f = [own] := by
    have four : List.range 4 = [0, 1, 2, 3] := rfl
    have cases4 : own.modnum = 0 ∨ own.modnum = 1 ∨ own.modnum = 2 ∨ own.modnum = 3 := by omega
    rw [four]
    rcases cases4 with h | h | h | h <;> simp [hf, h]
  simp only [State.share, hp, List.filterMap_nil, List.map_nil, List.foldl_nil]
  rw [members _ (fun k => by simp), arbShares_one]
  simp

theorem frame_foldl_setPeer (f : Peer → Peer) (l : List Nat) : l.foldl (fun s k => s.setPeer k (f (s.peer k))) s =
    { s with peers := (l.foldl (fun s k => s.setPeer k (f (s.peer k))) s).peers } := by
  induction l generalizing s with
  | nil => rfl
  | cons x r ih => rw [List.foldl_cons, ih]; rfl

theorem peer_foldl_setPeer (f : Peer → Peer) {l : List Nat} (hl : l.Nodup) (j : Nat) :
    (l.foldl (fun s k => s.setPeer k (f (s.peer k))) s).peer j = if j ∈ l then f (s.peer j) else s.peer j := by
  induction l generalizing s with
  | nil => rfl
  | cons x r ih =>
    obtain ⟨hx, hr⟩ := List.nodup_cons.1 hl
    rw [List.foldl_cons, ih hr]
    by_cases e : j = x
    · subst e; simp [hx]
    · simp [e, State.setPeer_peer_ne _ _ e]

theorem fencedOut_frame : s.fencedOut = { s with peers := s.fencedOut.peers } := by
  unfold State.fencedOut
  generalize List.range 4 = l
  induction l generalizing s with
  | nil => rfl
  | cons x r ih =>
    rw [List.foldl_cons, ih]
    split <;> rfl

/-- What this module's message says now. -/
theorem ownMsg_congr (h : t.mgmt = s.mgmt) (round : Nat) : t.ownMsg round = s.ownMsg round := by
  simp only [State.ownMsg, h]

/-- The peers at the end of a round, where no member was heard. -/
def roundEnded (s : State) : State :=
  (List.range 4).foldl (fun s k => s.setPeer k (s.peer k).endRound)
    (s.setPeer Config.modnum.toNat { s.peer Config.modnum.toNat with fresh := false })

/-- The peers once the next round begins. -/
def roundBegun (s : State) (next : Nat) : State :=
  (List.range 4).foldl (fun s k => s.setPeer k ((s.peer k).beginRound next)) s.fencedOut

/-- The module's message for the round that begins is kept and sent, and the share of the round before is in force. -/
def roundSent (s : State) (own : ArbMsg) (n share : Nat) : State :=
  let t := s.setPeer Config.modnum.toNat { s.peer Config.modnum.toNat with last := some own }
  State.send { t with mgmt := { t.mgmt with chround := BitVec.ofNat 32 n, chshare := BitVec.ofNat 16 share } } (.arb own)

theorem peer_roundSent (own : ArbMsg) (n share : Nat) : ((roundSent s own n share).peer Config.modnum.toNat).last = some own := by
  have same := State.setPeer_peer_same s Config.modnum.toNat { s.peer Config.modnum.toNat with last := some own }
  exact congrArg Peer.last same

theorem exec_arbitrationRound_eq (hc : s.mgmt.chen = true) (hp : s.mgmt.peers = []) : exec .arbitrationRound s =
    .next (roundSent (roundBegun (roundEnded s) s.roundNo) ((roundBegun (roundEnded s) s.roundNo).ownMsg s.roundNo)
      ((s.roundNo + 2 ^ 32 - 1) % 2 ^ 32) ((roundEnded s).share ((roundEnded s).sentMsg ((s.roundNo + 2 ^ 32 - 1) % 2 ^ 32)))) := by
  show execArbitrationRound s = _
  simp only [execArbitrationRound, hc, hp, List.any_nil, Bool.not_true, Bool.false_eq_true, if_false]
  rfl

theorem roundEnded_frame : roundEnded s = { s with peers := (roundEnded s).peers } := by
  unfold roundEnded
  rw [frame_foldl_setPeer]
  rfl

theorem roundBegun_frame (next : Nat) : roundBegun s next = { s with peers := (roundBegun s next).peers } := by
  unfold roundBegun
  rw [frame_foldl_setPeer (fun p => p.beginRound next), fencedOut_frame]

theorem mgmt_roundEnded : (roundEnded s).mgmt = s.mgmt := (congrArg State.mgmt roundEnded_frame :)

theorem peer_roundEnded : (roundEnded s).peer Config.modnum.toNat =
    Peer.endRound { s.peer Config.modnum.toNat with fresh := false } := by
  unfold roundEnded
  rw [peer_foldl_setPeer Peer.endRound List.nodup_range, if_pos (List.mem_range.2 Config.modnum.isLt), State.setPeer_peer_same]

theorem sentMsg_roundEnded (n : Nat) : (roundEnded s).sentMsg n = s.sentMsg n := by
  have last : ((roundEnded s).peer Config.modnum.toNat).last = (s.peer Config.modnum.toNat).last := by rw [peer_roundEnded]; rfl
  simp only [State.sentMsg, last, ownMsg_congr mgmt_roundEnded]

theorem share_roundEnded {own : ArbMsg} (hp : s.mgmt.peers = []) (hm : own.modnum = Config.modnum.toNat) : (roundEnded s).share own =
    if 4 ≤ (s.peer Config.modnum.toNat).missing + 1 then own.fallback else shareAlone own := by
  rw [share_alone (by rw [mgmt_roundEnded]; exact hp) (by rw [hm]; exact Config.modnum.isLt), hm, peer_roundEnded]
  rfl

/-- A round of arbitration in which no peer is a member. -/
theorem exec_arbitrationRound (hc : s.mgmt.chen = true) (hp : s.mgmt.peers = [])
    (hm : (s.sentMsg ((s.roundNo + 2 ^ 32 - 1) % 2 ^ 32)).modnum = Config.modnum.toNat) :
    let n := (s.roundNo + 2 ^ 32 - 1) % 2 ^ 32
    let own := s.sentMsg n
    ∃ t, exec .arbitrationRound s = .next t ∧
      t.mgmt = { s.mgmt with
        chround := BitVec.ofNat 32 n
        chshare := BitVec.ofNat 16 (if 4 ≤ (s.peer Config.modnum.toNat).missing + 1 then own.fallback else shareAlone own) } ∧
      t.outbox = s.outbox ++ [.arb (s.ownMsg s.roundNo)] ∧ (t.peer Config.modnum.toNat).last = some (s.ownMsg s.roundNo) := by
  intro n own
  have frame := (roundBegun_frame (s := roundEnded s) s.roundNo)
  have mgmt : (roundBegun (roundEnded s) s.roundNo).mgmt = (roundEnded s).mgmt := (congrArg State.mgmt frame :)
  have outbox : (roundBegun (roundEnded s) s.roundNo).outbox = (roundEnded s).outbox := (congrArg State.outbox frame :)
  have sent : (roundEnded s).outbox = s.outbox := (congrArg State.outbox roundEnded_frame :)
  replace mgmt := mgmt.trans mgmt_roundEnded
  replace outbox := outbox.trans sent
  rw [exec_arbitrationRound_eq hc hp, sentMsg_roundEnded, share_roundEnded hp hm, ownMsg_congr mgmt]
  generalize roundBegun (roundEnded s) s.roundNo = v at mgmt outbox
  refine ⟨_, rfl, ?_, ?_, ?_⟩
  · simp only [roundSent, State.send, State.setPeer, mgmt]
    rfl
  · simp only [roundSent, State.send, State.setPeer, outbox]
  · exact peer_roundSent _ _ _

/-! ## Requests at slices -/

theorem lineSlices_any {p : Nat → Bool} {line n : Nat} : (s.lineSlices line n).any p = true ↔
    ∃ k < n, p (homeSlice (s.hostAttr (64 * (line + k))) (64 * (line + k))) = true := by
  induction n generalizing line with
  | zero => simp [State.lineSlices]
  | succ n ih =>
    rw [State.lineSlices, List.any_cons, Bool.or_eq_true, ih]
    constructor
    · rintro (h | ⟨k, hk, h⟩)
      · exact ⟨0, by omega, h⟩
      · exact ⟨k + 1, by omega, by rwa [Nat.add_assoc, Nat.add_comm 1] at h⟩
    · rintro ⟨k, hk, h⟩
      cases k with
      | zero => exact .inl h
      | succ k => exact .inr ⟨k, by omega, by rwa [Nat.add_assoc, Nat.add_comm 1]⟩

theorem atSlices_wait {pa n : Nat} {i : HostAcc} {f : State → State}
    (h : s.waits ≠ [] ∨ ∃ k < (pa % 64 + n + 63) / 64,
      s.sliceBusy (homeSlice (s.hostAttr (64 * (pa / 64 + k))) (64 * (pa / 64 + k))) = true) :
    s.atSlices pa n i f = { s with waits := s.waits ++ [i] } := by
  refine if_pos (Bool.or_eq_true_iff.2 (h.imp (fun h => ?_) lineSlices_any.2))
  rw [Bool.not_eq_true', List.isEmpty_eq_false_iff]
  exact h

theorem atSlices_go {pa n : Nat} {i : HostAcc} {f : State → State} (hw : s.waits = [])
    (h : ∀ k < (pa % 64 + n + 63) / 64,
      s.sliceBusy (homeSlice (s.hostAttr (64 * (pa / 64 + k))) (64 * (pa / 64 + k))) = false) :
    ∃ t, ReadOnly s t ∧ s.atSlices pa n i f = f t := by
  refine ⟨_, ReadOnly.foldl (fun _ _ => .serve _) (s.lineSlices (pa / 64) ((pa % 64 + n + 63) / 64)) s, if_neg ?_⟩
  rw [hw, Bool.or_eq_true, not_or]
  refine ⟨by simp, fun busy => ?_⟩
  obtain ⟨k, hk, hb⟩ := lineSlices_any.1 busy
  rw [h k hk] at hb
  cases hb

/-! ## Accesses at the home for a peer -/

/-- The message with which a device write takes back a line that the host caches. -/
def snoops (s : State) (line : Nat) : List Msg := if s.hostCached.contains line then [.backInvalidate line] else []

theorem backInvalidate_outbox {pa : Nat} (h : paTarget pa = 0) : (s.backInvalidate pa).outbox = s.outbox ++ snoops s (pa / 64) := by
  simp only [State.backInvalidate, snoops, h, decide_true, Bool.true_and]
  split
  · rfl
  · exact (List.append_nil _).symm

theorem writeHome_one_outbox (ho : s.owners = []) (he : s.errs = []) {w : Who} (hc : w.core = none) (hi : 128 ≤ w.island)
    (ht : w.task = none) (hh : w.host = false) (own : Option EntId) (a : Attr) {pa n v : Nat} (hpa : paTarget pa = 0) :
    (s.writeHome w own a pa [⟨pa, n, v⟩]).outbox = s.outbox ++ snoops s (pa / 64) := by
  have before := ReadOnly.beforeData (s := s) hc hi ht own a pa [⟨pa, n, v⟩]
  rw [writeHome_eq ho he _ _ _ (by simp [paHawser, hpa]), hh, if_neg (by decide), writeData_one hpa]
  refine (headWritten_outbox _).trans ((backInvalidate_outbox hpa).trans ?_)
  rw [before.outbox, snoops, before.hostCached]
  rfl

theorem natBytes_rdN (m : Memory) (a n : Nat) : natBytes (Memory.rdN m a n) n = Memory.bytes m a n := by
  induction n generalizing a with
  | zero => rfl
  | succ n ih =>
    have low := (Memory.rd m a).isLt
    have byte : BitVec.ofNat 8 ((Memory.rd m a).toNat + 256 * Memory.rdN m (a + 1) n) = Memory.rd m a := by
      apply BitVec.eq_of_toNat_eq
      rw [BitVec.toNat_ofNat]
      omega
    rw [natBytes, Memory.rdN, Memory.bytes, byte, ← ih]
    congr 2
    omega

theorem rdN_congr {m m' : Memory} {a n : Nat} (h : ∀ k, a ≤ k → Memory.rd m k = Memory.rd m' k) : Memory.rdN m a n = Memory.rdN m' a n := by
  induction n generalizing a with
  | zero => rfl
  | succ n ih => rw [Memory.rdN, Memory.rdN, h a (Nat.le_refl a), ih fun k hk => h k (by omega)]

/-- A write of what memory holds leaves every byte. -/
theorem rd_wrN_rdN (m : Memory) (a n k : Nat) : Memory.rd (Memory.wrN m a (Memory.rdN m a n) n) k = Memory.rd m k := by
  induction n generalizing m a with
  | zero => rfl
  | succ n ih =>
    have low := (Memory.rd m a).isLt
    have byte : BitVec.ofNat 8 ((Memory.rd m a).toNat + 256 * Memory.rdN m (a + 1) n) = Memory.rd m a := by
      apply BitVec.eq_of_toNat_eq
      rw [BitVec.toNat_ofNat]
      omega
    have rest : ((Memory.rd m a).toNat + 256 * Memory.rdN m (a + 1) n) / 256 = Memory.rdN (Memory.wr m a (Memory.rd m a)) (a + 1) n := by
      rw [rdN_congr (m := m) (m' := Memory.wr m a (Memory.rd m a)) fun k hk => (Memory.rd_wr_ne m _ (by omega)).symm]
      omega
    rw [Memory.rdN, Memory.wrN, byte, rest, ih]
    by_cases e : k = a
    · rw [e, Memory.rd_wr_same]
    · rw [Memory.rd_wr_ne _ _ e]

theorem signedN_eq {n x : Nat} (hx : x < 2 ^ (8 * n)) (hn : 0 < n) : signedN n x = (BitVec.ofNat (8 * n) x).toInt := by
  have bit : (BitVec.ofNat (8 * n) x).msb = bitOf x (8 * n - 1) := by
    rw [BitVec.msb_eq_getLsbD_last, BitVec.getLsbD_ofNat, testBit_eq_bitOf]
    simp; omega
  rw [BitVec.toInt_eq_msb_cond, bit, BitVec.toNat_ofNat, Nat.mod_eq_of_lt hx, signedN]
  push_cast
  rfl

/-- The n bytes at pa lie outside the ASID table, which only the monitor writes (R391). -/
def OutsideTable (s : State) (pa n : Nat) : Prop := ∀ b, s.mon.table = some b → pa + n ≤ b ∨ b + 1048576 ≤ pa

theorem dramWr_of_outside {pa n : Nat} (h : OutsideTable s pa n) (v : Nat) : s.dramWr pa n v = Memory.wrN s.dram pa v n := by
  unfold State.dramWr
  split
  · rfl
  · next b hb =>
    rw [if_pos]
    simp only [Bool.or_eq_true, decide_eq_true_eq]
    exact h b hb

/-- The new value that an atomic of the fabric stores; a compare that fails stores the old one. -/
def fabricNew (q : FabricReq) (x : Nat) : Nat :=
  ((amoNew (amoOfF q.func) q.n x (q.data.toNat % 2 ^ (8 * q.n)) (q.exp.toNat % 2 ^ (8 * q.n))).1).getD x

/-- A compare of the fabric fails. -/
def CompareFails (q : FabricReq) (x : Nat) : Prop := q.func = 9 ∧ x ≠ q.exp.toNat % 2 ^ (8 * q.n)

theorem amoOfF_ne_ld (f : Nat) : amoOfF f ≠ .ld := by
  unfold amoOfF
  split <;> simp

theorem amoOfF_eq_cas {f : Nat} : amoOfF f = .cas ↔ f = 9 := by
  unfold amoOfF
  split <;> simp_all

theorem amoNew_eq_none {fn : AmoFn} {n x y z : Nat} (hl : fn ≠ .ld) : (amoNew fn n x y z).1 = none ↔ fn = .cas ∧ x ≠ z := by
  cases fn <;> simp [amoNew] at hl ⊢

variable {q : FabricReq}

/-- A write for a peer at its home. -/
theorem fabricHere_write (ho : s.owners = []) (he : s.errs = []) (hn : 0 < q.n) (hpa : q.off + q.n ≤ 0x9000000000)
    (apart : OutsideTable s q.off q.n) (hk : q.kind = 1) :
    (s.fabricHere q).dram = Memory.wrN s.dram q.off q.data.toNat q.n ∧
      (s.fabricHere q).outbox = s.outbox ++ snoops s (q.off / 64) ++ [.fabric [] false] := by
  have target := paTarget_of_le hpa hn
  have eq : s.fabricHere q = (s.writeHome whoPort none (s.hostAttr q.off) q.off [⟨q.off, q.n, q.data.toNat⟩]).send (.fabric [] false) :=
    if_pos hk
  rw [eq]
  refine ⟨?_, ?_⟩
  · exact (writeHome_one_dram ho he rfl (by decide) rfl _ _ target).trans (dramWr_of_outside apart _)
  · exact congrArg (· ++ [Msg.fabric [] false]) (writeHome_one_outbox ho he rfl (by decide) rfl rfl _ _ target)

/-- The state after the read of a request that is no write. -/
def fabricRead (s : State) (q : FabricReq) : State := (s.readHome whoPort (s.hostAttr q.off) q.off q.n).2

theorem ReadOnly.fabricRead (ho : s.owners = []) (he : s.errs = []) : ReadOnly s (fabricRead s q) :=
  .readHome ho he (by decide) rfl _ _ _

theorem fabricHere_poisoned (ho : s.owners = []) (he : s.errs = []) (hk : q.kind ≠ 1) (hb : s.physBad q.off q.n = true) :
    (s.fabricHere q).dram = s.dram ∧ (s.fabricHere q).outbox = s.outbox ++ [.fabric [] true] := by
  have read := ReadOnly.fabricRead (q := q) ho he
  have bad : (fabricRead s q).physBad q.off q.n = true := by rw [read.physBad, hb]
  have eq : s.fabricHere q = (fabricRead s q).send (.fabric [] true) := (if_neg hk).trans (if_pos bad)
  rw [eq]
  exact ⟨read.dram, congrArg (· ++ [Msg.fabric [] true]) read.outbox⟩

theorem fabricHere_read (ho : s.owners = []) (he : s.errs = []) (hn : 0 < q.n) (hpa : q.off + q.n ≤ 0x9000000000) (hk : q.kind = 0)
    (hb : s.physBad q.off q.n = false) :
    (s.fabricHere q).dram = s.dram ∧ (s.fabricHere q).outbox = s.outbox ++ [.fabric (Memory.bytes s.dram q.off q.n) false] := by
  have read := ReadOnly.fabricRead (q := q) ho he
  have bad : ¬(fabricRead s q).physBad q.off q.n = true := by rw [read.physBad, hb]; decide
  have eq : s.fabricHere q = (fabricRead s q).send
      (.fabric (natBytes (s.readHome whoPort (s.hostAttr q.off) q.off q.n).1 q.n) false) :=
    (if_neg (by rw [hk]; decide)).trans ((if_neg bad).trans (if_pos hk))
  rw [eq, readHome_value ho he, physRd_of_le hpa hn, natBytes_rdN]
  exact ⟨read.dram, congrArg (· ++ [_]) read.outbox⟩

/-- An atomic for a peer at its home. -/
theorem fabricHere_atomic (ho : s.owners = []) (he : s.errs = []) (hn : 0 < q.n) (hpa : q.off + q.n ≤ 0x9000000000)
    (apart : OutsideTable s q.off q.n) (hk : q.kind ≠ 1) (hz : q.kind ≠ 0) (hb : s.physBad q.off q.n = false) :
    let x := Memory.rdN s.dram q.off q.n
    (∀ k, Memory.rd (s.fabricHere q).dram k = Memory.rd (Memory.wrN s.dram q.off (fabricNew q x) q.n) k) ∧
      (CompareFails q x → (s.fabricHere q).outbox = s.outbox ++ [.fabric (Memory.bytes s.dram q.off q.n) false]) ∧
      (¬CompareFails q x → (s.fabricHere q).outbox =
        s.outbox ++ snoops s (q.off / 64) ++ [.fabric (Memory.bytes s.dram q.off q.n) false]) := by
  intro x
  have target := paTarget_of_le hpa hn
  have read := ReadOnly.fabricRead (q := q) ho he
  have bad : ¬(fabricRead s q).physBad q.off q.n = true := by rw [read.physBad, hb]; decide
  have value : (s.readHome whoPort (s.hostAttr q.off) q.off q.n).1 = x := by rw [readHome_value ho he, physRd_of_le hpa hn]
  have none_iff : (amoNew (amoOfF q.func) q.n x (q.data.toNat % 2 ^ (8 * q.n)) (q.exp.toNat % 2 ^ (8 * q.n))).1 = none ↔ CompareFails q x := by
    rw [amoNew_eq_none (amoOfF_ne_ld _), amoOfF_eq_cas]; rfl
  have skip : s.fabricHere q = State.send
      (match (amoNew (amoOfF q.func) q.n (s.readHome whoPort (s.hostAttr q.off) q.off q.n).1 (q.data.toNat % 2 ^ (8 * q.n))
          (q.exp.toNat % 2 ^ (8 * q.n))).1 with
        | some v => ((fabricRead s q).writeHome { whoPort with first := false } none (s.hostAttr q.off) q.off [⟨q.off, q.n, v⟩]).stampWrite none
            (s.hostAttr q.off) q.off
        | none => (fabricRead s q).stampWrite none (s.hostAttr q.off) q.off)
      (.fabric (natBytes (s.readHome whoPort (s.hostAttr q.off) q.off q.n).1 q.n) false) :=
    (if_neg hk).trans ((if_neg bad).trans ((if_neg hz).trans rfl))
  rw [value, natBytes_rdN] at skip
  cases hv : (amoNew (amoOfF q.func) q.n x (q.data.toNat % 2 ^ (8 * q.n)) (q.exp.toNat % 2 ^ (8 * q.n))).1 with
  | none =>
    have stamped := ReadOnly.stampWrite (s := fabricRead s q) (s.hostAttr q.off) q.off
    have new : fabricNew q x = x := by rw [fabricNew, hv]; rfl
    rw [hv] at skip
    rw [skip]
    refine ⟨fun k => ?_, fun _ => ?_, fun h => absurd (none_iff.1 hv) h⟩
    · rw [new, rd_wrN_rdN]
      exact congrArg (Memory.rd · k) (stamped.dram.trans read.dram)
    · exact congrArg (· ++ [_]) (stamped.outbox.trans read.outbox)
  | some v =>
    have new : fabricNew q x = v := by rw [fabricNew, hv]; rfl
    have wrote := writeHome_one_dram (s := fabricRead s q) (read.owners.trans ho) (read.errs.trans he)
      (w := { whoPort with first := false }) rfl (by decide) rfl none (s.hostAttr q.off) (n := q.n) (v := v) target
    have sent := writeHome_one_outbox (s := fabricRead s q) (read.owners.trans ho) (read.errs.trans he)
      (w := { whoPort with first := false }) rfl (by decide) rfl rfl none (s.hostAttr q.off) (n := q.n) (v := v) target
    have stamped := ReadOnly.stampWrite
      (s := (fabricRead s q).writeHome { whoPort with first := false } none (s.hostAttr q.off) q.off [⟨q.off, q.n, v⟩]) (s.hostAttr q.off) q.off
    have lines : snoops (fabricRead s q) (q.off / 64) = snoops s (q.off / 64) := by rw [snoops, read.hostCached]; rfl
    rw [hv] at skip
    rw [skip]
    refine ⟨fun k => ?_, fun h => absurd (none_iff.2 h) (by rw [hv]; simp), fun _ => ?_⟩
    · rw [new]
      refine congrArg (Memory.rd · k) (stamped.dram.trans (wrote.trans ?_))
      rw [dramWr_congr read.dram read.mon, dramWr_of_outside apart]
    · refine congrArg (· ++ [_]) (stamped.outbox.trans (sent.trans ?_))
      rw [read.outbox, lines]

/-- The value that each function of the fabric gives (R278, R279, R414). -/
theorem fabricNew_eq (hn : 0 < q.n) {x y : Nat} (hx : x < 2 ^ (8 * q.n)) (hy : y = q.data.toNat % 2 ^ (8 * q.n)) : fabricNew q x =
    match q.func with
    | 0 => (x + y) % 2 ^ (8 * q.n)
    | 1 => x &&& y
    | 2 => x ||| y
    | 3 => x ^^^ y
    | 4 => if (BitVec.ofNat (8 * q.n) y).toInt < (BitVec.ofNat (8 * q.n) x).toInt then y else x
    | 5 => if (BitVec.ofNat (8 * q.n) x).toInt < (BitVec.ofNat (8 * q.n) y).toInt then y else x
    | 6 => min x y
    | 7 => max x y
    | 8 => y
    | 9 => if x = q.exp.toNat % 2 ^ (8 * q.n) then y else x
    | _ => (fp32AddR x y).code := by
  have sy := signedN_eq (x := y) (hy ▸ Nat.mod_lt _ (Nat.two_pow_pos _)) hn
  have sx := signedN_eq hx hn
  rw [fabricNew, ← sy, ← sx, ← hy]
  generalize q.func = f
  split
  · rfl
  · rfl
  · rfl
  · rfl
  · rfl
  · rfl
  · simp only [amoOfF, amoNew, Option.getD_some]; split <;> omega
  · simp only [amoOfF, amoNew, Option.getD_some]; split <;> omega
  · rfl
  · simp only [amoOfF, amoNew]; split <;> rfl
  · next h0 h1 h2 h3 h4 h5 h6 h7 h8 h9 =>
    have : amoOfF f = .fadd := by unfold amoOfF; split <;> simp_all
    rw [this]
    rfl

/-! ## Requests of the fabric -/

theorem exec_fabricRequest_here (ht : q.target = Config.modnum.toNat) (hpa : q.off + q.n ≤ 0x9000000000) :
    exec (.fabricRequest q) s = .next (s.atSlices q.off q.n (.fabric q) (·.fabricHere q)) :=
  congrArg _ ((if_pos ht).trans (if_pos hpa))

theorem exec_fabricRequest_beyond (ht : q.target = Config.modnum.toNat) (hpa : 0x9000000000 < q.off + q.n) :
    exec (.fabricRequest q) s = .next { s with outbox := s.outbox ++ [.fabric [] true] } :=
  congrArg _ ((if_pos ht).trans (if_neg (Nat.not_le.2 hpa)))

theorem exec_fabricRequest_some : ∃ t, exec (.fabricRequest q) s = .next t := ⟨_, rfl⟩

/-! ## Messages of arbitration -/

theorem mem_peers {m : Mgmt} {k : Nat} : k ∈ m.peers ↔ k < 4 ∧ k ≠ Config.modnum.toNat ∧ m.chmemb.getLsbD k = true := by
  simp [Mgmt.peers]

theorem exec_arbitrationMessage (a : ArbMsg) : exec (.arbitrationMessage a) s =
    .next (if s.mgmt.chen && s.mgmt.peers.contains a.modnum then
      s.setPeer a.modnum ((s.peer a.modnum).hear s.roundNo a) else s) := rfl

/-! ## Registers -/

theorem exec_envLimitExceeded (rh corr : BitVec 8) : exec (.envLimitExceeded rh corr) s =
    .next (if s.mgmt.rhlim.toNat < rh.toNat || s.mgmt.corlim.toNat < corr.toNat then
      { s with mgmt := { s.mgmt with rh := rh, corr := corr, envw := true }, outbox := s.outbox ++ [.report 2] }
    else { s with mgmt := { s.mgmt with rh := rh, corr := corr } }) := rfl

theorem exec_wheadWrite (v : Word) : exec (.wheadWrite v) s =
    .next (if 2 ^ s.mgmt.wlog.toNat < (s.mgmt.wtail - v.setWidth 32).toNat then s
      else { s with mgmt := { s.mgmt with whead := v.setWidth 32 } }) := rfl

theorem exec_write_rtbase (v : Word) : exec (.registerWrite 0 0x10 v) s =
    .next (if s.host.rten then s else { s with host := { s.host with rtbase := v.extractLsb' 14 34 } }) := rfl

theorem exec_write_ring (v : Word) : exec (.registerWrite 1 0x578 v) s = .next { s with mgmt := s.mgmt.ring v } := rfl

theorem exec_write_smbox (k : SupNo) (v : Word) : exec (.registerWrite (2 + k.val) 0x28 v) s =
    .next (s.setSup k.val { s.sup k.val with smbox := v }) := by
  have sup : Fin.ofNat 16 (2 + k.val - 2) = k := by
    apply Fin.ext
    simp [Fin.ofNat]
  show execRegisterWrite (2 + k.val) 0x28 v s = _
  rw [execRegisterWrite, if_neg (by omega), if_neg (by omega), if_pos (by omega), sup]
  rfl

theorem exec_write_max {i : Nat} (hi : i < 196) (v : Word) : exec (.registerWrite 21 i v) s =
    .next (s.setIsland i { s.island i with max := v.toNat % 2 ^ 31 }) := congrArg _ (if_pos hi)

end Sys2Proof.Claims
end

section
/-! SUPPORT. Core fences, errors of the stores, and the tasks that an error ends (R375, R407 to R411). -/

namespace Sys2Proof.Claims

open Sys2Proof Sys2Proof.Machine

variable {s t u : State}

/-! ## Tasks that a fence moves elsewhere -/

/-- A running task begins to stop. -/
def stopIf (k : Task) : Task := if k.st = .running then { k with st := .stopping } else k

theorem id_stopIf (k : Task) : (stopIf k).id = k.id := by unfold stopIf; split <;> rfl

theorem cores_stopIf (k : Task) : (stopIf k).cores = k.cores := by unfold stopIf; split <;> rfl

theorem stopIf_stopIf (k : Task) : stopIf (stopIf k) = stopIf k := by
  by_cases h : k.st = .running
  · simp [stopIf, h]
  · simp [stopIf, h]

theorem task?_modTask_ne {n m : Nat} {f : Task → Task} (h : m ≠ n) (hf : ∀ k : Task, (f k).id = k.id) :
    (s.modTask n f).task? m = s.task? m := by
  simp only [State.task?, State.modTask]
  induction s.tasks with
  | nil => rfl
  | cons k r ih =>
    have same : (if k.id = n then f k else k).id = k.id := by split <;> simp [hf]
    by_cases e : k.id = m
    · have : ¬k.id = n := fun e' => h (e.symm.trans e')
      simp [e, h]
    · simp [e, same, ih]

/-- A fence of cores made t of s: running tasks begin to stop, and tasks join those that move elsewhere. -/
structure Evacuated (s t : State) : Prop where
  mgmt : t.mgmt = s.mgmt
  cores : t.cores = s.cores
  rest : (t.lastRope, t.preempt, t.ropes) = (s.lastRope, s.preempt, s.ropes)
  evac : ∀ n ∈ s.evac, n ∈ t.evac
  tasks : ∀ n, t.task? n = s.task? n ∨ t.task? n = (s.task? n).map stopIf

theorem Evacuated.refl : Evacuated s s := ⟨rfl, rfl, rfl, fun _ h => h, fun _ => .inl rfl⟩

theorem Evacuated.trans (h : Evacuated s t) (k : Evacuated t u) : Evacuated s u := by
  refine ⟨k.mgmt.trans h.mgmt, k.cores.trans h.cores, k.rest.trans h.rest, fun n hn => k.evac n (h.evac n hn), fun n => ?_⟩
  rcases k.tasks n with e | e <;> rcases h.tasks n with e' | e' <;> rw [e, e']
  · exact .inl rfl
  · exact .inr rfl
  · exact .inr rfl
  · right
    rw [Option.map_map]
    congr 1
    funext k
    exact stopIf_stopIf k

/-- One task that a fence moves elsewhere. -/
def evacOne (s : State) (k : Task) : State :=
  let s := s.modTask k.id stopIf
  if s.evac.contains k.id then s else { s with evac := s.evac ++ [k.id] }

theorem task?_evacOne (k : Task) (n : Nat) : (evacOne s k).task? n = if n = k.id then (s.task? n).map stopIf else s.task? n := by
  have same : (evacOne s k).task? n = (s.modTask k.id stopIf).task? n := by
    unfold evacOne; dsimp only; split <;> rfl
  rw [same]
  split
  · next e => rw [e, task?_modTask id_stopIf]
  · next e => exact task?_modTask_ne e id_stopIf

theorem mem_evac_evacOne (k : Task) (n : Nat) : n ∈ (evacOne s k).evac ↔ n = k.id ∨ n ∈ s.evac := by
  unfold evacOne
  dsimp only
  split
  · next h =>
    have : k.id ∈ s.evac := List.contains_iff_mem.1 h
    refine ⟨.inr, fun hn => hn.elim (fun e => ?_) id⟩
    rw [e]; exact this
  · show n ∈ s.evac ++ [k.id] ↔ _
    rw [List.mem_append, List.mem_singleton, or_comm]

theorem Evacuated.one (k : Task) : Evacuated s (evacOne s k) := by
  refine ⟨?_, ?_, ?_, fun n hn => (mem_evac_evacOne k n).2 (.inr hn), fun n => ?_⟩
  · unfold evacOne; dsimp only; split <;> rfl
  · unfold evacOne; dsimp only; split <;> rfl
  · unfold evacOne; dsimp only; split <;> rfl
  · rw [task?_evacOne]
    split
    · exact .inr rfl
    · exact .inl rfl

theorem Evacuated.all (l : List Task) : Evacuated s (l.foldl evacOne s) := by
  induction l generalizing s with
  | nil => exact .refl
  | cons k r ih => exact (Evacuated.one k).trans ih

theorem Evacuated.evacuate (c : Nat) : Evacuated s (s.evacuate c) := .all _

/-- The task of number n, k before, moves elsewhere. -/
def Moves (t : State) (n : Nat) (k : Task) : Prop := n ∈ t.evac ∧ t.task? n = some (stopIf k)

theorem Moves.mono {n : Nat} {k : Task} (h : Moves t n k) (e : Evacuated t u) : Moves u n k := by
  obtain ⟨hn, hk⟩ := h
  refine ⟨e.evac n hn, ?_⟩
  rcases e.tasks n with e | e <;> rw [e, hk]
  rw [Option.map_some, stopIf_stopIf]

theorem moves_of_mem {l : List Task} {n : Nat} {k : Task} (hn : n ∈ l.map (·.id)) (h : s.task? n = some k ∨ s.task? n = some (stopIf k)) :
    Moves (l.foldl evacOne s) n k := by
  induction l generalizing s with
  | nil => simp at hn
  | cons j r ih =>
    by_cases e : n = j.id
    · have first : Moves (evacOne s j) n k := by
        refine ⟨(mem_evac_evacOne j n).2 (.inl e), ?_⟩
        rw [task?_evacOne, if_pos e]
        rcases h with h | h <;> rw [h]
        · rfl
        · rw [Option.map_some, stopIf_stopIf]
      exact first.mono (.all r)
    · refine ih ?_ ?_
      · simpa [e] using hn
      · rw [task?_evacOne, if_neg e]; exact h

theorem moves_evacuate {c : Nat} {w : Team} {k : Task} (hw : w ∈ (s.core c).teams)
    (h : s.task? w.task = some k ∨ s.task? w.task = some (stopIf k)) : Moves (s.evacuate c) w.task k := by
  refine moves_of_mem ?_ h
  obtain ⟨j, hj⟩ : ∃ j, s.task? w.task = some j := h.elim (fun h => ⟨_, h⟩) fun h => ⟨_, h⟩
  exact List.mem_map.2 ⟨j, List.mem_filterMap.2 ⟨w, hw, hj⟩, task?_id hj⟩

/-- Every task with a team on one of the cores moves elsewhere. -/
theorem moves_foldl {l : List Nat} {c : Nat} (hc : c ∈ l) {w : Team} {k : Task} (hw : w ∈ (s.core c).teams)
    (h : s.task? w.task = some k ∨ s.task? w.task = some (stopIf k)) : Moves (l.foldl (fun s c => s.evacuate c) s) w.task k := by
  have rest (l : List Nat) (u : State) : Evacuated u (l.foldl (fun s c => s.evacuate c) u) := by
    induction l generalizing u with
    | nil => exact .refl
    | cons d r ih => exact (Evacuated.evacuate d).trans (ih _)
  induction l generalizing s with
  | nil => simp at hc
  | cons d r ih =>
    have first := Evacuated.evacuate (s := s) d
    by_cases e : c = d
    · subst e
      exact (moves_evacuate hw h).mono (rest r _)
    · refine ih ((List.mem_cons.1 hc).resolve_left e) (by rw [core_congr first.cores]; exact hw) ?_
      rcases first.tasks w.task with e | e <;> rw [e]
      · exact h
      · rcases h with h | h <;> rw [h] <;> simp [stopIf_stopIf]

theorem mgmt_foldl_evacuate (l : List Nat) : (l.foldl (fun s c => s.evacuate c) s).mgmt = s.mgmt := by
  induction l generalizing s with
  | nil => rfl
  | cons c r ih => rw [List.foldl_cons, ih, (Evacuated.evacuate c).mgmt]

/-! ## Errors that a pass finds -/

/-- A pass finds the only error that is stored. -/
theorem scrub_one {e : MemErr} (h : State.scrubs { s with errs := [e] } e.at_ = true) :
    exec .scrubPass { s with errs := [e] } = .next (State.storeErr { s with errs := [] } e) := by
  have found : State.findErrs { s with errs := [e] } (State.scrubs { s with errs := [e] }) = State.storeErr { s with errs := [] } e := by
    simp only [State.findErrs, List.any_cons, h, Bool.true_or, if_true, List.filter_cons, Bool.not_true, Bool.false_eq_true,
      if_false, List.filter_nil, List.foldl_cons, List.foldl_nil]
  exact congrArg _ found

/-- A granule of a scratchpad is in range. -/
theorem storeErr_spad {c : CoreNo} {g : Nat} {d : Bool} (hg : 8 * g + 8 ≤ 1048576) : s.storeErr ⟨.spad c g, d⟩ =
    if d then State.modCore { s with mgmt := s.mgmt.logError d 1 (some c.val) none } c.val (fun k =>
        { k with spadPoison := markGranule k.spadPoison g })
      else State.corrected { s with mgmt := s.mgmt.logError d 1 (some c.val) none } c.val :=
  if_neg (Nat.not_lt.2 hg)

theorem storeErr_dram {g : Nat} {d : Bool} (hg : 8 * g + 8 ≤ 0x9000000000) : s.storeErr ⟨.dram g, d⟩ =
    { s with
      mgmt := s.mgmt.logError d 5 none (some (8 * g)), poison := if d then markGranule s.poison g else s.poison } :=
  if_neg (Nat.not_lt.2 hg)

theorem mem_markGranule (l : List Nat) (g : Nat) : g ∈ markGranule l g := by
  unfold markGranule
  split
  · next h => exact List.contains_iff_mem.1 h
  · simp

theorem granules_own (g : Nat) : granules (8 * g) 8 = [g] := by
  have one : (8 * g % 8 + 8 + 7) / 8 = 1 := by omega
  have at_ : 8 * g / 8 = g := by omega
  rw [granules, one, at_]
  rfl

theorem physBad_of_granule {g : Nat} (hg : 8 * g + 8 ≤ 0x9000000000) (h : g ∈ s.poison) : s.physBad (8 * g) 8 = true := by
  rw [State.physBad, paTarget_of_le hg (by decide), granules_own]
  simp [h]

theorem Evacuated.fenceCore (c : Nat) : ∃ f, Evacuated { s with mgmt := { s.mgmt with cfence := f } } (s.fenceCore c) ∧
    f = if s.mgmt.cfence.getLsbD c then s.mgmt.cfence else s.mgmt.cfence ||| BitVec.ofNat 128 (2 ^ c) := by
  refine ⟨_, ?_, rfl⟩
  unfold State.fenceCore State.coreFenced
  split
  · exact .refl
  · exact .evacuate c

theorem cores_corrected (c : Nat) : (s.corrected c).cores = s.cores := by
  simp only [State.corrected]
  generalize SMap.set [] s.ceTimes c (_ ++ _) = m
  split
  · obtain ⟨f, e, -⟩ := Evacuated.fenceCore (s := { s with ceTimes := m }) c
    exact e.cores
  · rfl

theorem mgmt_corrected_few {c : Nat} (h : (SMap.get [] s.ceTimes c).length < s.mgmt.cethr) : (s.corrected c).mgmt = s.mgmt := by
  have len := List.length_filter_le (fun t => decide (s.now < t + ceWindow)) (SMap.get [] s.ceTimes c)
  simp only [State.corrected]
  rw [if_neg]
  rw [List.length_append, List.length_singleton]
  omega

theorem mgmt_corrected_many {c : Nat} (hf : s.mgmt.cfence = 0) (h : s.mgmt.cethr ≤ (SMap.get [] s.ceTimes c).length)
    (recent : ∀ k ∈ SMap.get [] s.ceTimes c, s.now < k + 172800000000000) :
    (s.corrected c).mgmt = { s.mgmt with cfence := BitVec.ofNat 128 (2 ^ c) } := by
  have all : (SMap.get [] s.ceTimes c).filter (fun t => decide (s.now < t + ceWindow)) = SMap.get [] s.ceTimes c := by
    rw [List.filter_eq_self]
    exact fun k hk => decide_eq_true (recent k hk)
  simp only [State.corrected, all]
  rw [if_pos (by rw [List.length_append, List.length_singleton]; omega)]
  obtain ⟨f, e, hfe⟩ := Evacuated.fenceCore (s := { s with ceTimes := SMap.set [] s.ceTimes c (SMap.get [] s.ceTimes c ++ [s.now]) }) c
  rw [e.mgmt, hfe]
  simp [hf]

/-- A pass finds an error of two bits in a granule of a scratchpad. -/
theorem scrub_spad_double {c : CoreNo} {g : Nat} (hg : 8 * g + 8 ≤ 1048576) :
    ∃ t, exec .scrubPass { s with errs := [⟨.spad c g, true⟩] } = .next t ∧
      t.mgmt = s.mgmt.logError true 1 (some c.val) none ∧
      t.core c.val = { s.core c.val with spadPoison := markGranule (s.core c.val).spadPoison g } :=
  ⟨_, (scrub_one rfl).trans (congrArg _ ((storeErr_spad hg).trans (if_pos rfl))), rfl, State.setCore_core_same _ _ _⟩

/-- A pass finds an error of one bit in a granule of a scratchpad. -/
theorem scrub_spad_single {c : CoreNo} {g : Nat} (hg : 8 * g + 8 ≤ 1048576) :
    ∃ t, exec .scrubPass { s with errs := [⟨.spad c g, false⟩] } = .next t ∧ t.core c.val = s.core c.val ∧
      (s.mgmt.cfence = 0 →
        ((SMap.get [] s.ceTimes c.val).length < s.mgmt.cethr → t.mgmt = s.mgmt.logError false 1 (some c.val) none) ∧
        (s.mgmt.cethr ≤ (SMap.get [] s.ceTimes c.val).length →
          (∀ k ∈ SMap.get [] s.ceTimes c.val, s.now < k + 172800000000000) →
          t.mgmt = { s.mgmt.logError false 1 (some c.val) none with cfence := BitVec.ofNat 128 (2 ^ c.val) })) :=
  ⟨_, (scrub_one rfl).trans (congrArg _ ((storeErr_spad hg).trans (if_neg Bool.false_ne_true))),
    core_congr (cores_corrected _) _, fun hf => ⟨fun few => mgmt_corrected_few few, fun many recent => mgmt_corrected_many hf many recent⟩⟩

theorem scrubs_dram {g : Nat} (hnow : s.now % 172800000000000 = 0) : s.scrubs (.dram g) = true := decide_eq_true hnow

theorem scrub_dram_double {g : Nat} (hg : 8 * g + 8 ≤ 0x9000000000) (hnow : s.now % 172800000000000 = 0) :
    ∃ t, exec .scrubPass { s with errs := [⟨.dram g, true⟩] } = .next t ∧
      t.mgmt = s.mgmt.logError true 5 none (some (8 * g)) ∧ t.poison = markGranule s.poison g ∧ t.dram = s.dram :=
  ⟨_, (scrub_one (scrubs_dram (s := { s with errs := [⟨.dram g, true⟩] }) hnow)).trans (congrArg _ (storeErr_dram hg)), rfl, rfl, rfl⟩

theorem scrub_dram_single {g : Nat} (hg : 8 * g + 8 ≤ 0x9000000000) (hnow : s.now % 172800000000000 = 0) :
    exec .scrubPass { s with errs := [⟨.dram g, false⟩] } = .next { s with
      errs := [], mgmt := s.mgmt.logError false 5 none (some (8 * g)) } :=
  (scrub_one (scrubs_dram (s := { s with errs := [⟨.dram g, false⟩] }) hnow)).trans (congrArg _ (storeErr_dram hg))

/-! ## What an access at a home changes in tasks -/

/-- The state once an owned word has no owner any more. -/
def unowned (s : State) (o : Owner) : State :=
  match o.cap with
  | some v => { s with owners := s.owners.filter (fun p => p ≠ o), ops := dropWbWord o.core o.task v.1 s.ops }
  | none => State.modCore { s with owners := s.owners.filter (fun p => p ≠ o) } o.core (fun c => c.setSide o.vault o.w (.clean none))

theorem recallOwner_eq (a : Attr) (o : Owner) : s.recallOwner a o =
    let t := (unowned s o).writeOwned (whoCore o.core o.task) (some ⟨o.core, o.task, o.n⟩) a (4 * o.word)
      [⟨4 * o.word, 4, o.bytes s⟩]
    if s.ownerPoison o then t.poisonWord o.word else t := rfl

/-- What no access at a home changes in a task: all but the energy it is charged, and that it begins to stop when a core of it is fenced. -/
def ident (k : Task) : Task := { stopIf k with joule := 0, debits := 0 }

theorem id_ident (k : Task) : (ident k).id = k.id := id_stopIf k

theorem cores_ident (k : Task) : (ident k).cores = k.cores := cores_stopIf k

theorem ident_stopIf (k : Task) : ident (stopIf k) = ident k := by rw [ident, stopIf_stopIf]; rfl

theorem ident_charged (k : Task) (joule : Word) (debits : Nat) : ident { k with joule := joule, debits := debits } = ident k := by
  by_cases h : k.st = .running
  · simp [ident, stopIf, h]
  · simp [ident, stopIf, h]

/-- An access at a home, or an error that it finds, made t of s: of the tasks only what `ident` leaves out changed, no fence of a core
ended, and neither the requests of the dispatcher, nor the ropes last started, nor a priority changed. -/
structure Homed (s t : State) : Prop where
  tasks : ∀ n, (t.task? n).map ident = (s.task? n).map ident
  fence : ∀ c, s.mgmt.cfence.getLsbD c = true → t.mgmt.cfence.getLsbD c = true
  lastRope : t.lastRope = s.lastRope
  preempt : t.preempt = s.preempt
  prio : ∀ r, (t.ropeOf r).prio = (s.ropeOf r).prio

namespace Homed

theorem refl : Homed s s := ⟨fun _ => rfl, fun _ h => h, rfl, rfl, fun _ => rfl⟩

theorem trans (h : Homed s t) (k : Homed t u) : Homed s u :=
  ⟨fun n => (k.tasks n).trans (h.tasks n), fun c hc => k.fence c (h.fence c hc), k.lastRope.trans h.lastRope, k.preempt.trans h.preempt,
    fun r => (k.prio r).trans (h.prio r)⟩

/-- A change of other fields. -/
theorem of_eq (h : (t.tasks, t.mgmt, t.lastRope, t.preempt, t.ropes) = (s.tasks, s.mgmt, s.lastRope, s.preempt, s.ropes) := by rfl) :
    Homed s t := by
  simp only [Prod.mk.injEq] at h
  obtain ⟨tasks, mgmt, lastRope, preempt, ropes⟩ := h
  exact ⟨fun n => by rw [State.task?, tasks]; rfl, fun c hc => by rw [mgmt]; exact hc, lastRope, preempt,
    fun r => by rw [State.ropeOf, ropes]; rfl⟩

theorem of_accessed (h : Accessed s t) (hp : ∀ r, (t.ropeOf r).prio = (s.ropeOf r).prio) : Homed s t :=
  ⟨fun n => by rw [h.task?], fun c hc => by rw [h.mgmt]; exact hc, (congrArg State.lastRope h.still :), h.preempt, hp⟩

theorem of_readOnly (h : ReadOnly s t) : Homed s t := of_accessed h.toAccessed fun r => by rw [h.ropeOf]

theorem ite {c : Prop} [Decidable c] (ht : Homed s t) (hu : Homed s u) : Homed s (if c then t else u) := by
  split
  · exact ht
  · exact hu

theorem foldl {α : Type} {f : State → α → State} (hf : ∀ s a, Homed s (f s a)) (l : List α) (s : State) : Homed s (l.foldl f s) := by
  induction l generalizing s with
  | nil => exact .refl
  | cons a r ih => exact (hf s a).trans (ih _)

theorem modTask {n : Nat} {f : Task → Task} (hf : ∀ k : Task, ident (f k) = ident k) : Homed s (s.modTask n f) := by
  have hi (k : Task) : (f k).id = k.id := by rw [← id_ident, hf, id_ident]
  refine ⟨fun m => ?_, fun _ h => h, rfl, rfl, fun _ => rfl⟩
  by_cases e : m = n
  · rw [e, task?_modTask hi, Option.map_map]
    congr 1
    funext k
    exact hf k
  · rw [task?_modTask_ne e hi]

theorem of_evacuated (h : Evacuated s t) : Homed s t := by
  obtain ⟨lastRope, rest⟩ := Prod.mk.inj h.rest
  obtain ⟨preempt, ropes⟩ := Prod.mk.inj rest
  refine ⟨fun n => ?_, fun c hc => by rw [h.mgmt]; exact hc, lastRope, preempt, fun r => by rw [State.ropeOf, ropes]; rfl⟩
  rcases h.tasks n with e | e <;> rw [e]
  rw [Option.map_map]
  congr 1
  funext k
  exact ident_stopIf k

theorem setRope {r : Nat} {k : Rope} (h : k.prio = (s.ropeOf r).prio) : Homed s (s.setRope r k) := by
  refine of_accessed .setRope fun q => ?_
  by_cases e : q = r
  · rw [e, State.setRope_ropeOf_same, h]
  · rw [State.setRope_ropeOf_ne _ _ e]

theorem headWritten (l : List Span) : Homed s (s.headWritten l) := by
  have one (s : State) (e : Nat × Rope) : Homed s (s.modRope e.1 (fun k => { k with kept := [], fetched := [] })) := .setRope rfl
  exact foldl one _ _

theorem backInvalidate (pa : Nat) : Homed s (s.backInvalidate pa) := .ite .of_eq .refl

theorem poison {p : List Nat} : Homed s { s with poison := p } := .of_eq

theorem modCore {c : Nat} {f : Core → Core} : Homed s (s.modCore c f) := .of_eq

theorem writeData (l : List Span) : Homed s (s.writeData l) := by
  have one (s : State) (p : Span) : Homed s (s.physWr p.pa p.n p.v) := by
    unfold State.physWr
    exact .ite .of_eq (.ite .of_eq .of_eq)
  exact ((foldl one l s).trans (.headWritten l)).trans .poison

theorem raiseSwc {slice : Nat} {p : BitVec 32} : Homed s (s.raiseSwc slice p) := .of_eq

theorem setLineTs {x : LineTs} : Homed s (s.setLineTs x) := .of_eq

theorem modSeq {m : SMap Nat} : Homed s { s with modSeq := m } := .of_eq

theorem stampWrite (core : Option Nat) (a : Attr) (pa : Nat) : Homed s (s.stampWrite core a pa) := by
  unfold State.stampWrite
  have raised := (raiseSwc (s := s) (slice := homeSlice a pa) (p := s.clockOf core)).trans (modSeq
    (m := SMap.set 0 (s.raiseSwc (homeSlice a pa) (s.clockOf core)).modSeq (homeSlice a pa)
      (SMap.get 0 (s.raiseSwc (homeSlice a pa) (s.clockOf core)).modSeq (homeSlice a pa) + 1)))
  refine .ite ?_ raised
  split
  · exact ((raised.trans .setLineTs).trans .raiseSwc).trans .modCore
  · exact (raised.trans .setLineTs).trans .raiseSwc

theorem memDebit (i : Nat) (task : Option Nat) : Homed s (s.memDebit i task) := by
  unfold State.memDebit
  cases task with
  | none => exact .of_eq
  | some t => exact .trans (t := State.modIsland s i _) .of_eq (.modTask (ident_charged · _ _))

theorem dramAccess (a : Attr) (pa i : Nat) (task : Option Nat) : Homed s (s.dramAccess a pa i task) := by
  unfold State.dramAccess
  have streamed : Homed s (State.markStream { s with freeCtr := s.freeCtr + 1 } a (pa / 64)) :=
    .trans (t := { s with freeCtr := s.freeCtr + 1 }) .of_eq (.of_readOnly (.markStream _ _))
  exact .ite .refl (.ite (.memDebit i task)
    (.ite ((streamed.trans (.memDebit i task)).trans (.of_readOnly (.evictFor _))) streamed))

theorem writeOwned (w : Who) (own : Option EntId) (a : Attr) (pa : Nat) (l : List Span) : Homed s (s.writeOwned w own a pa l) := by
  unfold State.writeOwned
  refine .ite (.writeData l) ?_
  have copies : Homed s (s.invalidateFor own a pa l) := .of_readOnly (.invalidateFor own a pa l)
  have before : Homed s (if w.first then ((s.invalidateFor own a pa l).stampWrite w.core a pa).dramAccess a pa w.island w.task
      else s.invalidateFor own a pa l) := .ite ((copies.trans (.stampWrite _ _ _)).trans (.dramAccess _ _ _ _)) copies
  refine trans ?_ (.writeData l)
  split
  · exact before
  · exact before.trans (.backInvalidate pa)

theorem recallOwner (a : Attr) (o : Owner) : Homed s (s.recallOwner a o) := by
  have free : Homed s (unowned s o) := by
    unfold unowned
    split
    · exact .of_eq
    · exact .of_eq
  have wrote := free.trans (.writeOwned (whoCore o.core o.task) (some ⟨o.core, o.task, o.n⟩) a (4 * o.word) [⟨4 * o.word, 4, o.bytes s⟩])
  rw [recallOwner_eq]
  exact .ite (wrote.trans (.ite .refl .poison)) wrote

theorem fenceCore (c : Nat) : Homed s (s.fenceCore c) := by
  unfold State.fenceCore
  refine .ite .refl (.trans (t := { s with mgmt := { s.mgmt with cfence := s.mgmt.cfence ||| BitVec.ofNat 128 (2 ^ c) } })
    ⟨fun _ => rfl, fun d hd => ?_, rfl, rfl, fun _ => rfl⟩ (of_evacuated (.evacuate c)))
  rw [BitVec.getLsbD_or, hd, Bool.true_or]

/-- A change of ERRLOG and of what follows from it alone. -/
theorem log {m : Mgmt} (h : m.cfence = s.mgmt.cfence) : Homed s { s with mgmt := m } :=
  ⟨fun _ => rfl, fun c hc => by rw [h]; exact hc, rfl, rfl, fun _ => rfl⟩

theorem corrected (c : Nat) : Homed s (s.corrected c) := by
  simp only [State.corrected]
  generalize SMap.set [] s.ceTimes c (_ ++ _) = m
  exact .ite (.trans (t := { s with ceTimes := m }) .of_eq (.fenceCore c)) .of_eq

theorem storeErr (e : MemErr) : Homed s (s.storeErr e) := by
  obtain ⟨at_, d⟩ := e
  have logged (store : BitVec 4) (core pa : Option Nat) : Homed s { s with mgmt := s.mgmt.logError d store core pa } := log rfl
  have granule (store : BitVec 4) (g : Nat) : Homed s (s.memError ⟨at_, d⟩ store g) :=
    .ite .refl ((logged store none (some (8 * g))).trans .poison)
  have local_ (c : Nat) (vault : Bool) (g : Nat) : Homed s (s.storeError ⟨at_, d⟩ c vault g) :=
    .ite .refl (.ite ((logged (if vault then 2 else 1) (some c) none).trans .modCore) ((logged _ _ _).trans (.corrected c)))
  cases at_ with
  | spad c g => exact local_ c.val false g
  | vault c g => exact local_ c.val true g
  | istore c n =>
    refine .ite .refl (.ite ((logged 3 (some c.val) none).trans (.trans ?_ (.fenceCore c.val))) (logged 3 (some c.val) none))
    split
    · exact .of_eq
    · exact .refl
  | cache g => exact granule 4 g
  | table => exact logged 4 none none
  | dram g => exact granule 5 g
  | reg x code =>
    show Homed s (s.regError x code)
    unfold State.regError
    split
    · exact .ite .refl .of_eq
    · exact .refl

theorem findErrs (p : ErrAt → Bool) : Homed s (s.findErrs p) :=
  .ite (.trans (t := { s with errs := s.errs.filter (fun e => !p e.at_) }) .of_eq (foldl (fun _ e => .storeErr e) _ _)) .refl

theorem writeHome (w : Who) (own : Option EntId) (a : Attr) (pa : Nat) (l : List Span) : Homed s (s.writeHome w own a pa l) := by
  have recalled (s : State) (p : Span) : Homed s ((s.recallThose (fun _ => true) a p.pa p.n).findSpan l p) :=
    (foldl (fun _ o => .recallOwner a o) _ s).trans (.ite .refl (.findErrs _))
  exact (foldl recalled l s).trans (.writeOwned w own a pa l)

/-- The engine's copy of a rope changes, its priority stays. -/
theorem putRope {r : Nat} {k : Rope} (h : k.prio = (s.ropeOf r).prio) : Homed s (s.putRope r k) := by
  have word (s : State) (o v : Nat) : Homed s (s.writeDescWord whoRope r o v) := .writeHome _ _ _ _ _
  have headed : Homed s (if k.head ≠ (s.ropeOf r).head then s.writeDescWord whoRope r 24 k.head.toNat else s) := .ite (word _ _ _) .refl
  have put (t : State) (ht : Homed s t) : Homed s (t.setRope r k) := ht.trans (.setRope (h.trans (ht.prio r).symm))
  unfold State.putRope
  dsimp only
  split
  · exact put _ (headed.trans (word _ _ _))
  · exact put _ headed

/-- A rope's counts change. -/
theorem counted (r : Nat) (inflight : BitVec 3) (retired : BitVec 32) :
    Homed s (s.putRope r { s.ropeOf r with inflight := inflight, retired := retired }) :=
  .putRope rfl

theorem ropeFaultRecord (r : Nat) : Homed s (s.ropeFaultRecord r) := by
  obtain ⟨f, q, eq⟩ := ropeFaultRecord_frame (s := s) r
  rw [eq]
  exact .of_eq

theorem prio_settled (k : Rope) (launching : Word → Bool) : (k.settled launching).prio = k.prio := by
  simp only [Rope.settled]
  split
  · rfl
  · split
    · split <;> rfl
    · split
      · rfl
      · split
        · rfl
        · split <;> rfl

theorem settleRope (r : Nat) : Homed s (s.settleRope r) := by
  have put := putRope (s := s) (r := r) (prio_settled (s.ropeOf r) (s.launching r))
  exact .ite (put.trans (.ropeFaultRecord r)) put

theorem updRope {r : Nat} {f : Rope → Rope} (hf : ∀ k, (f k).prio = k.prio) : Homed s (s.updRope r f) := by
  have put := putRope (s := s) (r := r) ((prio_settled (f (s.ropeOf r)) (s.launching r)).trans (hf _))
  exact .ite (put.trans (.ropeFaultRecord r)) put

end Homed

/-! ## Tasks that an error ends -/

/-- No fence of a core ends from s to t, and no task appears or moves. -/
structure Shrinks (s t : State) : Prop where
  fence : ∀ c, s.mgmt.cfence.getLsbD c = true → t.mgmt.cfence.getLsbD c = true
  tasks : ∀ n k, t.task? n = some k → ∃ j, s.task? n = some j ∧ k.cores = j.cores

namespace Shrinks

theorem refl : Shrinks s s := ⟨fun _ h => h, fun _ k h => ⟨k, h, rfl⟩⟩

theorem trans (h : Shrinks s t) (k : Shrinks t u) : Shrinks s u := by
  refine ⟨fun c hc => k.fence c (h.fence c hc), fun n m hm => ?_⟩
  obtain ⟨j, hj, e⟩ := k.tasks n m hm
  obtain ⟨i, hi, e'⟩ := h.tasks n j hj
  exact ⟨i, hi, e.trans e'⟩

/-- A change of other fields. -/
theorem of_eq (ht : t.tasks = s.tasks) (hm : t.mgmt = s.mgmt) : Shrinks s t :=
  ⟨fun c hc => by rw [hm]; exact hc, fun n k hk => ⟨k, by rw [State.task?, ← ht]; exact hk, rfl⟩⟩

theorem of_homed (h : Homed s t) : Shrinks s t := by
  refine ⟨h.fence, fun n k hk => ?_⟩
  have same := h.tasks n
  rw [hk] at same
  obtain ⟨j, hj, e⟩ := Option.map_eq_some_iff.1 same.symm
  exact ⟨j, hj, by rw [← cores_ident, ← e, cores_ident]⟩

theorem task?_none (h : Shrinks s t) {n : Nat} (hn : s.task? n = none) : t.task? n = none := by
  cases e : t.task? n with
  | none => rfl
  | some k =>
    obtain ⟨j, hj, -⟩ := h.tasks n k e
    rw [hn] at hj
    cases hj

theorem ite {c : Prop} [Decidable c] (ht : Shrinks s t) (hu : Shrinks s u) : Shrinks s (if c then t else u) := by
  split
  · exact ht
  · exact hu

theorem foldl {α : Type} {f : State → α → State} (hf : ∀ s a, Shrinks s (f s a)) (l : List α) (s : State) : Shrinks s (l.foldl f s) := by
  induction l generalizing s with
  | nil => exact .refl
  | cons a r ih => exact (hf s a).trans (ih _)

theorem modTask {n : Nat} {f : Task → Task} (hi : ∀ k : Task, (f k).id = k.id) (hc : ∀ k : Task, (f k).cores = k.cores) :
    Shrinks s (s.modTask n f) := by
  refine ⟨fun _ h => h, fun m k hk => ?_⟩
  by_cases e : m = n
  · subst e
    rw [task?_modTask hi] at hk
    obtain ⟨j, hj, rfl⟩ := Option.map_eq_some_iff.1 hk
    exact ⟨j, hj, hc j⟩
  · rw [task?_modTask_ne e hi] at hk
    exact ⟨k, hk, rfl⟩

/-- The tasks of one number are forgotten. -/
theorem forget {n : Nat} (ht : t.tasks = s.tasks.filter (fun k => k.id ≠ n)) (hm : t.mgmt = s.mgmt) : Shrinks s t := by
  refine ⟨fun c hc => by rw [hm]; exact hc, fun m k hk => ⟨k, ?_, rfl⟩⟩
  have id := task?_id hk
  rw [State.task?, ht, List.find?_filter] at hk
  have ne : m ≠ n := by
    have := List.find?_some hk
    simp only [decide_eq_true_eq] at this
    exact id ▸ this.1
  rw [← hk, State.task?]
  refine List.find?_congr fun j _ => ?_
  by_cases e : j.id = m
  · simp [e, ne]
  · simp [e]

theorem freeTeam (c task : Nat) : Shrinks s (s.freeTeam c task) :=
  .of_eq (congrArg State.tasks (unfreed_freeTeam c task) :) (congrArg State.mgmt (unfreed_freeTeam c task) :)

theorem dropOps {l : List GOp} : Shrinks s { s with ops := l } := .of_eq rfl rfl

theorem dropTeam (c task : Nat) : Shrinks s (s.dropTeam c task) := dropOps.trans (.freeTeam c task)

theorem returnCredit (task : Nat) : Shrinks s (s.returnCredit task) := by
  have one (s : State) (p : Nat × Nat) : Shrinks s (s.credit p.1 p.2) := .of_eq rfl rfl
  unfold State.returnCredit
  split
  · exact .refl
  · refine (foldl one _ s).trans (modTask ?_ ?_)
    · exact fun _ => rfl
    · exact fun _ => rfl

theorem setLink {p : Nat} {q : LinkQ} : Shrinks s (s.setLink p q) := .of_eq rfl rfl

theorem send {m : Msg} : Shrinks s (s.send m) := .of_eq rfl rfl

theorem discardAll (task : Nat) : Shrinks s (s.discardAll task).2 := by
  unfold State.discardAll
  suffices ∀ (l : List Nat) (a : Nat × State), Shrinks a.2 (l.foldl (fun (r : Nat × State) p =>
      if (r.2.link p).owner = some task then (r.1 + (r.2.link p).flits.length, r.2.discardFlits p) else r) a).2 from this (List.range 32) (0, s)
  intro l
  induction l with
  | nil => exact fun _ => .refl
  | cons p r ih =>
    intro a
    refine .trans ?_ (ih _)
    dsimp only
    split
    · exact setLink.trans (foldl (fun _ _ => .send) _ _)
    · exact .refl

theorem logRetired {r : Nat} {e : RetEnt} : Shrinks s (s.logRetired r e) := .of_eq rfl rfl

theorem freeLinks (task : Nat) : Shrinks s (s.freeLinks task) := foldl (fun _ _ => .ite .setLink .refl) _ _

theorem forgetTask (task : Nat) : Shrinks s (s.forgetTask task) := .of_eq rfl rfl

theorem resumeStopped (task : Nat) : Shrinks s (s.resumeStopped task) := by
  have one (s : State) (e : Nat × Ctx) : Shrinks s (if e.2.task = task && e.2.st = .stopped then
      s.modCtx (ctxOf e.1) (fun c => { c with st := .ready }) else s) := .ite (.of_eq rfl rfl) .refl
  exact foldl one _ _

theorem unstop (task : Nat) : Shrinks s (s.unstop task) := by
  unfold State.unstop
  split
  · have running := modTask (s := s) (n := task) (f := fun t => { t with st := .running, supStop := false }) (fun _ => rfl) fun _ => rfl
    exact .ite (.ite running (running.trans (.resumeStopped task))) .refl
  · exact .refl

theorem withdraw (p : Preempt) : Shrinks s (s.withdraw p) := by
  have one (s : State) (t : Nat) : Shrinks s (if s.preempt.any (fun q => q.victims.contains t) then s
      else match s.task? t with
        | some k => if k.supStop then s else s.unstop t
        | none => s) := by
    refine .ite .refl ?_
    split
    · exact .ite .refl (.unstop t)
    · exact .refl
  exact .trans (t := { s with preempt := s.preempt.filter (fun q => q ≠ p) }) (.of_eq rfl rfl) (foldl one _ _)

theorem withdrawIf (c : Preempt → Bool) : Shrinks s (s.withdrawIf c) := foldl (fun _ p => .withdraw p) _ _

theorem leaveTask (k : Task) (status tclass : BitVec 8) (sigs : List Nat) : Shrinks s (s.leaveTask k status tclass sigs) :=
  ((((((((discardAll k.id).trans (.of_homed (.counted _ _ _))).trans .logRetired).trans (.freeLinks k.id)).trans (.forgetTask k.id)).trans
    (.withdrawIf _)).trans (.of_homed (.settleRope _)))).trans (.modTask (fun _ => rfl) fun _ => rfl)

end Shrinks

/-- A task whose teams are dropped on some of its cores. -/
def droppedOn (s : State) (k : Task) (cores : List Nat) : State := cores.foldl (fun s c => s.dropTeam c k.id) s

/-- The tasks and the saves of a number are forgotten. -/
def forgotten (s : State) (n : Nat) : State :=
  { s with tasks := s.tasks.filter (fun w => w.id ≠ n), saves := s.saves.filter (fun w => w.task ≠ n) }

theorem task?_forgotten (n : Nat) : (forgotten s n).task? n = none := task?_filter rfl

theorem Shrinks.forgotten (n : Nat) : Shrinks s (forgotten s n) := .forget rfl rfl

/-- A task with some of its cores done. -/
def doneOn (k : Task) (cores : List Nat) (u : Task) : Task :=
  { u with doneParts := (u.doneParts ++ (cores.filter (k.cores.contains ·))).eraseDups }

theorem terminate_eq (k : Task) (cores : List Nat) (tclass : BitVec 8) : s.terminate k cores tclass =
    match ((droppedOn s k cores).modTask k.id (doneOn k cores)).task? k.id with
    | none => (droppedOn s k cores).modTask k.id (doneOn k cores)
    | some u => if u.cores.all (fun c => u.doneParts.contains c) then
        forgotten ((((droppedOn s k cores).modTask k.id (doneOn k cores)).returnCredit k.id).leaveTask u 1 tclass []) k.id
      else (droppedOn s k cores).modTask k.id (doneOn k cores) := by
  unfold State.terminate droppedOn doneOn
  rfl

/-- The task t ends on all its cores: it is gone. -/
theorem terminate_all {k : Task} (tclass : BitVec 8) (h : ∀ j, s.task? k.id = some j → j.cores = k.cores) :
    Shrinks s (s.terminate k k.cores tclass) ∧ (s.terminate k k.cores tclass).task? k.id = none := by
  rw [terminate_eq]
  have dropped : Shrinks s (droppedOn s k k.cores) := .foldl (fun _ c => .dropTeam c k.id) _ _
  have parts := dropped.trans (.modTask (n := k.id) (f := doneOn k k.cores) (fun _ => rfl) fun _ => rfl)
  have task := task?_modTask (s := droppedOn s k k.cores) (n := k.id) (f := doneOn k k.cores) fun _ => rfl
  generalize (droppedOn s k k.cores).modTask k.id (doneOn k k.cores) = d at parts task ⊢
  cases hu : d.task? k.id with
  | none => exact ⟨parts, hu⟩
  | some u =>
    have same : u.cores = k.cores := by
      obtain ⟨j, hj, e⟩ := parts.tasks k.id u hu
      exact e.trans (h j hj)
    have all : (u.cores.all (fun c => u.doneParts.contains c)) = true := by
      rw [hu] at task
      obtain ⟨j, -, rfl⟩ := Option.map_eq_some_iff.1 task.symm
      rw [same, List.all_eq_true]
      intro c hc
      rw [List.contains_iff_mem, doneOn, List.mem_eraseDups, List.mem_append, List.mem_filter]
      exact .inr ⟨hc, List.contains_iff_mem.2 hc⟩
    have left := (parts.trans (.returnCredit k.id)).trans (.leaveTask u 1 tclass [])
    simp only [all, if_true]
    exact ⟨left.trans (.forgotten k.id), task?_forgotten k.id⟩

/-- The tasks of a list end on all their cores, one after another. -/
theorem terminate_list {l : List Task} (tclass : BitVec 8) (h : ∀ k ∈ l, ∀ j, s.task? k.id = some j → j.cores = k.cores) :
    Shrinks s (l.foldl (fun s k => s.terminate k k.cores tclass) s) ∧
      ∀ k ∈ l, (l.foldl (fun s k => s.terminate k k.cores tclass) s).task? k.id = none := by
  induction l generalizing s with
  | nil => exact ⟨.refl, fun k hk => by simp at hk⟩
  | cons k r ih =>
    obtain ⟨first, gone⟩ := terminate_all tclass (h k (by simp))
    have rest := ih (s := s.terminate k k.cores tclass) fun m hm j hj => by
      obtain ⟨i, hi, e⟩ := first.tasks m.id j hj
      exact e.trans (h m (List.mem_cons_of_mem _ hm) i hi)
    refine ⟨first.trans rest.1, fun m hm => ?_⟩
    rcases List.mem_cons.1 hm with rfl | hm
    · exact rest.1.task?_none gone
    · exact rest.2 m hm

end Sys2Proof.Claims
end

section Settled

open Sys2Proof Sys2Proof.Machine Sys2Proof.Claims

/-- Settles O47: every event is one change of the field that its rule names, reached through the frame of the accesses it makes. -/
theorem linkAndModuleEvents : Obligations.LinkAndModuleEvents := by
  unfold Obligations.LinkAndModuleEvents
  intro s m
  refine ⟨fun l vc f => ⟨fun h => ?_, fun h => ?_, rfl, rfl⟩, fun hc hm => ?_, fun a hc ha hb => ?_,
    fun q hq hpa h => ?_, fun q ho he hn hw h apart => ?_, fun v => ?_, fun c => ?_, ⟨fun c g hg => ⟨?_, ?_⟩, fun g hg hnow => ⟨?_, ?_⟩⟩,
    rfl, rfl, fun rh corr => ⟨fun h => ?_, fun h h' => ?_⟩,
    fun v => ⟨fun h => ?_, fun h => ?_, rfl, fun h => ?_, fun h => ?_, fun h => ?_, fun k => ?_, fun i hi => ?_⟩⟩
  · rw [exec_flitArrival]; exact congrArg _ (if_pos h)
  · rw [exec_flitArrival]; exact congrArg _ (if_neg (Nat.not_lt.2 h))
  · intro next n regs mine share hmod
    have alone : m.peers = [] := by simp [Mgmt.peers, hm]
    obtain ⟨t, run, mgmt, out, last⟩ := exec_arbitrationRound hc alone hmod
    refine ⟨t, run, mgmt.trans ?_, out, last⟩
    have shares : (if 4 ≤ (s.peer Config.modnum.toNat).missing + 1 then mine.fallback else shareAlone mine) = share := by
      simp only [share]
      by_cases h : (s.peer Config.modnum.toNat).missing + 1 < 4
      · rw [if_pos h, if_neg (Nat.not_le.2 h)]; rfl
      · rw [if_neg h, if_pos (Nat.not_lt.1 h)]
    exact congrArg (fun k => { m with chround := BitVec.ofNat 32 n, chshare := BitVec.ofNat 16 k }) shares
  · refine ⟨_, exec_arbitrationMessage a, fun hne => ?_, fun he => if_neg ?_⟩
    · have heard : (m.chen && m.peers.contains a.modnum) = true := by
        rw [hc, List.contains_iff_mem.2 (mem_peers.2 ⟨ha, hne, hb⟩)]; rfl
      intro now p later
      refine (if_pos heard).trans (congrArg (s.setPeer a.modnum) ?_)
      rfl
    · have own : a.modnum ∉ s.mgmt.peers := fun h => (mem_peers.1 h).2.1 he
      rw [Bool.and_eq_true, List.contains_iff_mem]
      exact fun h => own h.2
  · rw [exec_fabricRequest_here hq hpa, atSlices_wait h]
  · by_cases htgt : q.target = Config.modnum.toNat
    · by_cases hpa : q.off + q.n ≤ 0x9000000000
      · obtain ⟨t, only, go⟩ := atSlices_go (i := .fabric q) (f := (·.fabricHere q)) hw h
        have hn0 : 0 < q.n := by omega
        have ho' := only.owners.trans ho
        have he' := only.errs.trans he
        have apart' : OutsideTable t q.off q.n := by rw [OutsideTable, only.mon]; exact apart
        have bad := only.physBad q.off q.n
        have lines : snoops t (q.off / 64) = snoops s (q.off / 64) := by rw [snoops, only.hostCached]; rfl
        refine ⟨t.fabricHere q, by rw [exec_fabricRequest_here htgt hpa, go], fun _ hgt => absurd hpa (Nat.not_le.2 hgt), fun _ _ => ?_⟩
        intro x y sg new line snooped
        have hx : x < 2 ^ (8 * q.n) := by
          have := rdN_lt s.dram q.off q.n
          rwa [show (256 : Nat) = 2 ^ 8 from rfl, ← Nat.pow_mul] at this
        have newEq : fabricNew q x = new := fabricNew_eq hn0 hx rfl
        refine ⟨fun hk => ?_, fun hk hb => ?_, fun hk hb => ?_⟩
        · obtain ⟨dram, out⟩ := fabricHere_write ho' he' hn0 hpa apart' hk
          rw [dram, out, only.dram, only.outbox, lines]
          exact ⟨rfl, rfl⟩
        · obtain ⟨dram, out⟩ := fabricHere_poisoned ho' he' hk (bad.trans hb)
          rw [dram, out, only.dram, only.outbox]
          exact ⟨rfl, rfl⟩
        · by_cases hz : q.kind = 0
          · obtain ⟨dram, out⟩ := fabricHere_read ho' he' hn0 hpa hz (bad.trans hb)
            rw [dram, out, only.dram, only.outbox, if_pos (.inl hz)]
            exact ⟨rfl, fun _ => rfl, fun h => absurd hz h⟩
          · obtain ⟨dram, failed, done⟩ := fabricHere_atomic ho' he' hn0 hpa apart' hk hz (bad.trans hb)
            rw [only.dram] at dram failed done
            rw [only.outbox] at failed done
            rw [newEq] at dram
            refine ⟨?_, fun h => absurd h hz, fun _ => dram⟩
            by_cases hf : CompareFails q x
            · rw [failed hf, if_pos (.inr hf)]
            · rw [done hf, lines, if_neg (fun h => h.elim hz hf)]
              rfl
      · have hgt := Nat.not_le.1 hpa
        exact ⟨_, exec_fabricRequest_beyond htgt hgt, fun _ _ => rfl, fun _ hle => absurd hle hpa⟩
    · obtain ⟨t, run⟩ := exec_fabricRequest_some (s := s) (q := q)
      exact ⟨t, run, fun h => absurd h htgt, fun h => absurd h htgt⟩
  · let new := (List.range 128).filter (fun c => v.getLsbD c && !m.cfence.getLsbD c)
    refine ⟨new.foldl (fun s c => s.evacuate c) { s with mgmt := { m with cfence := v } }, rfl, mgmt_foldl_evacuate _, ?_⟩
    intro c hc hv hm u hu w hw
    have mem : c ∈ new := List.mem_filter.2 ⟨List.mem_range.2 hc, by rw [hv, hm]; rfl⟩
    obtain ⟨evac, task⟩ := moves_foldl (s := { s with mgmt := { m with cfence := v } }) mem hu (.inl hw)
    rw [task?_id hw]
    exact ⟨evac, fun hst => ⟨_, task, by rw [stopIf, if_pos hst]⟩⟩
  · let s1 : State := { s with mgmt := { m with
      cfence := m.cfence ||| BitVec.ofNat 128 (2 ^ c.val), lstore := lsLATCH, lcore := BitVec.ofNat 7 c.val } }
    have residents {k : Task} (hk : k ∈ s1.residents c.val) : ∃ u ∈ (s.core c.val).teams, s.task? u.task = some k := by
      obtain ⟨u, hu, hk⟩ := List.mem_filterMap.1 hk
      exact ⟨u, hu, hk⟩
    obtain ⟨shrinks, gone⟩ := terminate_list (s := s1) (l := s1.residents c.val) tcFENCE fun k hk j hj => by
      obtain ⟨u, -, hu⟩ := residents hk
      have : s.task? k.id = some k := by rw [task?_id hu]; exact hu
      rw [Option.some.inj (hj.symm.trans this)]
    refine ⟨_, rfl, shrinks.fence c.val ?_, fun u hu w hw => gone w (List.mem_filterMap.2 ⟨u, hu, hw⟩)⟩
    show (m.cfence ||| BitVec.ofNat 128 (2 ^ c.val)).getLsbD c.val = true
    rw [BitVec.getLsbD_or, BitVec.getLsbD_ofNat, Nat.testBit_two_pow_self, decide_eq_true c.isLt]
    exact Bool.or_true _
  · obtain ⟨t, run, mgmt, core⟩ := scrub_spad_double (s := s) (c := c) hg
    refine ⟨t, run, mgmt, ?_, ?_⟩ <;> rw [core]
    exact mem_markGranule _ _
  · obtain ⟨t, run, core, mgmt⟩ := scrub_spad_single (s := s) (c := c) hg
    exact ⟨t, run, core, mgmt⟩
  · obtain ⟨t, run, mgmt, poison, dram⟩ := scrub_dram_double hg hnow
    exact ⟨t, run, mgmt, physBad_of_granule hg (poison ▸ mem_markGranule _ _), dram⟩
  · exact scrub_dram_single hg hnow
  · rw [exec_envLimitExceeded]
    exact congrArg _ (if_pos (by simpa using h))
  · rw [exec_envLimitExceeded]
    have within : ¬(m.rhlim.toNat < rh.toNat ∨ m.corlim.toNat < corr.toNat) := by omega
    exact congrArg _ (if_neg (by simpa using within))
  · rw [exec_wheadWrite]; exact congrArg _ (if_pos h)
  · rw [exec_wheadWrite]; exact congrArg _ (if_neg (Nat.not_lt.2 h))
  · rw [exec_write_rtbase, h]; rfl
  · rw [exec_write_rtbase, h]; rfl
  · rw [exec_write_ring]
    exact congrArg (fun m' => Host.Outcome.next { s with mgmt := m' }) (if_pos h)
  · exact exec_write_smbox k v
  · exact exec_write_max hi v

end Settled

section
/-! SUPPORT. The placement of a task and the dispatcher's choice among ropes (R26 to R28, R139, R164). -/

namespace Sys2Proof.Claims

open Sys2Proof Sys2Proof.Machine

variable {s t u : State}

/-! ## Placement -/

/-- A state without what a placement changes. -/
def unplaced (s : State) : State := { s with cores := [], islands := [], links := [], tasks := [] }

/-- Teams join the cores of a placement. -/
def addTeams (s : State) (t : Task) (l : List (Nat × Nat × Room)) : State :=
  l.foldl (fun s p => s.modCore (t.base + p.2.1) (fun c => { c with teams := c.teams ++ [teamAt t.id t.base p] })) s

/-- Islands that follow each other are debited. -/
def debitAll (s : State) (b n r : Nat) : State := (List.range n).foldl (fun s p => s.debit (b + p) r) s

/-- The task owns the links that its image asks for. -/
def takeLinks (s : State) (t : Task) : State :=
  (List.range 32).foldl (fun s p => if t.links.getLsbD p then s.setLink p { s.link p with owner := some t.id } else s) s

/-- The placed task. -/
def placedTask (s : State) (t : Task) : Task :=
  { t with st := .loading, credit := (List.range t.ncores).map (fun p => (t.base + p, s.resv t.eclass.toNat)) }

theorem addTeams_frame (t : Task) (l : List (Nat × Nat × Room)) : addTeams s t l = { s with cores := (addTeams s t l).cores } := by
  unfold addTeams
  induction l generalizing s with
  | nil => rfl
  | cons p r ih => rw [List.foldl_cons, ih]; rfl

theorem debitAll_frame (b n r : Nat) : debitAll s b n r = { s with islands := (debitAll s b n r).islands } := by
  unfold debitAll
  generalize List.range n = l
  induction l generalizing s with
  | nil => rfl
  | cons p r ih => rw [List.foldl_cons, ih]; rfl

theorem takeLinks_frame (t : Task) : takeLinks s t = { s with links := (takeLinks s t).links } := by
  unfold takeLinks
  generalize List.range 32 = l
  induction l generalizing s with
  | nil => rfl
  | cons p r ih =>
    rw [List.foldl_cons, ih]
    split <;> rfl

theorem place_eq (t : Task) (tes : List Nat) (rooms : List Room) : s.place t tes rooms =
    let u := takeLinks (debitAll (addTeams s t (tes.zip ((List.range tes.length).zip rooms))) t.base t.ncores (s.resv t.eclass.toNat)) t
    { u with tasks := s.tasks.filter (fun w => w.id ≠ t.id) ++ [placedTask s t] } := by
  have resv : (addTeams s t (tes.zip ((List.range tes.length).zip rooms))).resv t.eclass.toNat = s.resv t.eclass.toNat := by
    rw [addTeams_frame]; rfl
  have tasks : (takeLinks (debitAll (addTeams s t (tes.zip ((List.range tes.length).zip rooms))) t.base t.ncores
      (s.resv t.eclass.toNat)) t).tasks = s.tasks := by
    rw [takeLinks_frame, debitAll_frame, addTeams_frame]
  have eq : s.place t tes rooms =
      let v := addTeams s t (tes.zip ((List.range tes.length).zip rooms))
      let u := takeLinks (debitAll v t.base t.ncores (v.resv t.eclass.toNat)) t
      { u with tasks := u.tasks.filter (fun w => w.id ≠ t.id) ++ [{ t with
        st := .loading, credit := (List.range t.ncores).map (fun p => (t.base + p, v.resv t.eclass.toNat)) }] } := rfl
  rw [eq]
  dsimp only
  rw [resv, tasks]
  rfl

theorem unplaced_place (t : Task) (tes : List Nat) (rooms : List Room) : unplaced (s.place t tes rooms) = unplaced s := by
  rw [place_eq, takeLinks_frame, debitAll_frame, addTeams_frame]; rfl

theorem task?_place (t : Task) (tes : List Nat) (rooms : List Room) : (s.place t tes rooms).task? t.id = some (placedTask s t) := by
  have : (s.place t tes rooms).tasks = s.tasks.filter (fun w => w.id ≠ t.id) ++ [placedTask s t] := by rw [place_eq]
  have other : (s.tasks.filter (fun w => w.id ≠ t.id)).find? (fun w => w.id = t.id) = none := by
    rw [List.find?_eq_none]
    exact fun w hw h => of_decide_eq_true (List.mem_filter.1 hw).2 (of_decide_eq_true h)
  rw [State.task?, this, List.find?_append, other]
  simp [placedTask]

theorem island_debitAll (b n r i : Nat) : (debitAll s b n r).island i =
    if b ≤ i ∧ i < b + n then { s.island i with hold := satHold ((s.island i).hold - r) } else s.island i := by
  unfold debitAll
  induction n with
  | zero => rw [if_neg (by omega)]; rfl
  | succ n ih =>
    rw [List.range_succ, List.foldl_append, List.foldl_cons, List.foldl_nil, State.debit, State.modIsland_eq]
    by_cases e : i = b + n
    · rw [e] at ih ⊢
      rw [State.setIsland_island_same, ih, if_neg (by omega), if_pos (by omega)]
    · rw [State.setIsland_island_ne _ _ e, ih]
      simp only [show b ≤ i ∧ i < b + n ↔ b ≤ i ∧ i < b + (n + 1) by omega]

theorem island_place (t : Task) (tes : List Nat) (rooms : List Room) {p : Nat} (hp : p < t.ncores) :
    (s.place t tes rooms).island (t.base + p) = { s.island (t.base + p) with
      hold := satHold ((s.island (t.base + p)).hold - s.resv t.eclass.toNat) } := by
  have debited : (s.place t tes rooms).island (t.base + p) =
      (debitAll (addTeams s t (tes.zip ((List.range tes.length).zip rooms))) t.base t.ncores (s.resv t.eclass.toNat)).island (t.base + p) := by
    rw [place_eq, takeLinks_frame]; rfl
  rw [debited, island_debitAll, if_pos (by omega), addTeams_frame]
  rfl

theorem core_place (t : Task) (tes : List Nat) (rooms : List Room) (c : Nat) :
    (s.place t tes rooms).core c = (addTeams s t (tes.zip ((List.range tes.length).zip rooms))).core c := by
  rw [place_eq, takeLinks_frame, debitAll_frame]; rfl

theorem pts_addTeams (t : Task) (l : List (Nat × Nat × Room)) (c : Nat) : ((addTeams s t l).core c).pts = (s.core c).pts := by
  unfold addTeams
  induction l generalizing s with
  | nil => rfl
  | cons p r ih =>
    rw [List.foldl_cons, ih, State.modCore_eq]
    by_cases e : c = t.base + p.2.1
    · rw [e, State.setCore_core_same]
    · rw [State.setCore_core_ne _ _ e]

theorem pts_place (t : Task) (tes : List Nat) (rooms : List Room) (c : Nat) : ((s.place t tes rooms).core c).pts = (s.core c).pts := by
  rw [core_place, pts_addTeams]

/-- A task with a team on core c, or one that is to join, has one there. -/
theorem team?_addTeams {t : Task} {l : List (Nat × Nat × Room)} {c : Nat}
    (h : ((s.core c).team? t.id).isSome = true ∨ ∃ p ∈ l, t.base + p.2.1 = c) : (((addTeams s t l).core c).team? t.id).isSome = true := by
  unfold addTeams
  induction l generalizing s with
  | nil => simpa using h
  | cons p r ih =>
    refine ih ?_
    simp only [State.modCore_eq]
    by_cases e : c = t.base + p.2.1
    · left
      rw [e, State.setCore_core_same]
      simp [Core.team?, teamAt]
    · rw [State.setCore_core_ne _ _ e]
      refine h.imp_right ?_
      rintro ⟨q, hq, rfl⟩
      rcases List.mem_cons.1 hq with rfl | hq
      · exact absurd rfl e
      · exact ⟨q, hq, rfl⟩

theorem team?_place {t : Task} {tes : List Nat} {rooms : List Room} {p : Nat} (hp : p < tes.length) (hr : rooms.length = tes.length) :
    (((s.place t tes rooms).core (t.base + p)).team? t.id).isSome = true := by
  rw [core_place]
  refine team?_addTeams (.inr ⟨(tes[p], p, rooms[p]), ?_, rfl⟩)
  rw [List.mem_iff_getElem]
  exact ⟨p, by simp [hr, hp], by simp⟩

theorem length_roomsAt {b : Nat} {skip tes : List Nat} {rooms : List Room} (h : s.roomsAt b skip tes = some rooms) :
    rooms.length = tes.length := by
  unfold State.roomsAt at h
  dsimp only at h
  split at h
  · next all =>
    obtain rfl := Option.some.inj h
    rw [List.length_filterMap_eq_countP, List.countP_eq_length.2]
    · simp
    · exact fun a ha => List.all_eq_true.1 all a ha
  · cases h

/-! ## The acquires at a placement (R139) -/

/-- Cores that follow each other take a write clock. -/
def raiseAll (s : State) (b n : Nat) (k : Nat) : State := (List.range n).foldl (fun s p => s.raisePts (b + p) (SMap.get 0 s.swc k)) s

theorem raiseAll_frame (b n k : Nat) : raiseAll s b n k = { s with cores := (raiseAll s b n k).cores } := by
  unfold raiseAll
  generalize List.range n = l
  induction l generalizing s with
  | nil => rfl
  | cons p r ih => rw [List.foldl_cons, ih]; rfl

theorem core_raiseAll (b n k i : Nat) : (raiseAll s b n k).core i =
    if b ≤ i ∧ i < b + n then { s.core i with pts := serialMax (s.core i).pts (SMap.get 0 s.swc k) } else s.core i := by
  have swc (n : Nat) : (raiseAll s b n k).swc = s.swc := by rw [raiseAll_frame]
  induction n with
  | zero => rw [if_neg (by omega)]; rfl
  | succ n ih =>
    have last : raiseAll s b (n + 1) k = (raiseAll s b n k).raisePts (b + n) (SMap.get 0 (raiseAll s b n k).swc k) := by
      simp only [raiseAll, List.range_succ, List.foldl_append, List.foldl_cons, List.foldl_nil]
    rw [last, State.raisePts, State.modCore_eq, swc]
    by_cases e : i = b + n
    · rw [e] at ih ⊢
      rw [State.setCore_core_same, ih, if_neg (by omega), if_pos (by omega)]
    · rw [State.setCore_core_ne _ _ e, ih]
      simp only [show b ≤ i ∧ i < b + n ↔ b ≤ i ∧ i < b + (n + 1) by omega]

theorem acquireWaits_frame (t : Task) (l : List Nat) : s.acquireWaits t l = { s with cores := (s.acquireWaits t l).cores } := by
  have all : s.acquireWaits t l = l.foldl (fun s k => raiseAll s t.base t.ncores k) s := rfl
  rw [all]
  clear all
  induction l generalizing s with
  | nil => rfl
  | cons k r ih => rw [List.foldl_cons, ih, raiseAll_frame]

theorem teams_acquireWaits (t : Task) (l : List Nat) (c : Nat) : ((s.acquireWaits t l).core c).teams = (s.core c).teams := by
  have all : s.acquireWaits t l = l.foldl (fun s k => raiseAll s t.base t.ncores k) s := rfl
  rw [all]
  clear all
  induction l generalizing s with
  | nil => rfl
  | cons k r ih =>
    rw [List.foldl_cons, ih, core_raiseAll]
    split <;> rfl

theorem pts_acquireWaits_one (t : Task) (k : Nat) {p : Nat} (hp : p < t.ncores) :
    ((s.acquireWaits t [k]).core (t.base + p)).pts = serialMax (s.core (t.base + p)).pts (SMap.get 0 s.swc k) := by
  have one : s.acquireWaits t [k] = raiseAll s t.base t.ncores k := rfl
  rw [one, core_raiseAll, if_pos (by omega)]

/-! ## The start of a task -/

/-- A task that its rope starts for the first time has a slot of its own. -/
def slotted (s : State) (t : Task) : Task := if t.was = .loading then { t with slot := s.freeSlot } else t

/-- The state once a task is placed and its acquires are made. -/
def placed (s : State) (t : Task) (tes : List Nat) (rooms : List Room) : State :=
  State.acquireWaits (State.place { s with nextTask := s.nextTask + 1 } (slotted s t) tes rooms) (slotted s t) (slotted s t).homes

/-- A variant that starts is logged. -/
def variantLogged (s : State) (t : Task) : State :=
  if t.variant ≠ 0 && t.was ≠ .saved then
    State.wonusLog { s with freeCtr := s.freeCtr + 1 } t.id 4 (Config.stateWord 4 s.freeCtr).toNat
      (Config.stateWord 5 s.freeCtr).toNat (BitVec.ofNat 64 t.variant)
  else s

/-- The rope last started at its priority is r. -/
def lastStarted (s : State) (r : Nat) : State := { s with lastRope := SMap.set 255 s.lastRope (s.ropeOf r).prio.toNat r }

/-- A rope with one more task in flight. -/
def oneMore (a : Word) (k : Rope) : Rope := { k with
  inflight := k.inflight + 1
  fetched := k.fetched.map (fun f => if f.addr = a && !f.gone then { f with gone := true } else f) }

theorem startTask_eq (t : Task) (tes : List Nat) (rooms : List Room) : s.startTask t tes rooms =
    let v := lastStarted (variantLogged (placed s t tes rooms) (slotted s t)) t.rope.val
    (if (slotted s t).was = .loading then v.updRope t.rope.val (oneMore t.recAddr) else v).withdrawIf
      (fun p => p.rope = t.rope && p.recAddr = t.recAddr) := by
  have same : (slotted s t).rope = t.rope ∧ (slotted s t).recAddr = t.recAddr := by unfold slotted; split <;> exact ⟨rfl, rfl⟩
  have eq : s.startTask t tes rooms =
      let v := lastStarted (variantLogged (placed s t tes rooms) (slotted s t)) t.rope.val
      (if (slotted s t).was = .loading then v.updRope t.rope.val (oneMore (slotted s t).recAddr) else v).withdrawIf
        (fun p => p.rope = (slotted s t).rope && p.recAddr = (slotted s t).recAddr) := rfl
  rw [eq, same.1, same.2]

theorem slotted_same (t : Task) : slotted s t = { t with slot := (slotted s t).slot } := by
  by_cases h : t.was = .loading
  · rw [slotted, if_pos h]
  · rw [slotted, if_neg h]

theorem unplaced_placed (t : Task) (tes : List Nat) (rooms : List Room) :
    unplaced (placed s t tes rooms) = { unplaced s with nextTask := s.nextTask + 1 } := by
  have frame : unplaced (placed s t tes rooms) = unplaced (State.place { s with nextTask := s.nextTask + 1 } (slotted s t) tes rooms) := by
    rw [placed, acquireWaits_frame]; rfl
  rw [frame, unplaced_place]
  rfl

theorem task?_placed (t : Task) (tes : List Nat) (rooms : List Room) :
    (placed s t tes rooms).task? t.id = some (placedTask s (slotted s t)) := by
  have frame : (placed s t tes rooms).task? t.id =
      (State.place { s with nextTask := s.nextTask + 1 } (slotted s t) tes rooms).task? (slotted s t).id := by
    rw [placed, acquireWaits_frame, slotted_same]; rfl
  rw [frame, task?_place]
  rfl

theorem Homed.wonusWrite : Homed s s.wonusWrite := by
  unfold State.wonusWrite
  split
  · exact .refl
  · next r rest _ =>
    refine .ite .refl ?_
    have wrote := Homed.writeHome (s := s) whoPort none (s.hostAttr (s.mgmt.wbase.toNat * 64 + 16 * (s.mgmt.wtail.toNat % 2 ^ s.mgmt.wlog.toNat)))
      (s.mgmt.wbase.toNat * 64 + 16 * (s.mgmt.wtail.toNat % 2 ^ s.mgmt.wlog.toNat))
      [⟨s.mgmt.wbase.toNat * 64 + 16 * (s.mgmt.wtail.toNat % 2 ^ s.mgmt.wlog.toNat), 16, r.word⟩]
    exact wrote.trans ⟨fun _ => rfl, fun _ h => h, rfl, rfl, fun _ => rfl⟩

theorem Homed.wonusDrain (n : Nat) : Homed s (s.wonusDrain n) := by
  induction n generalizing s with
  | zero => exact .refl
  | succ n ih => exact Homed.wonusWrite.trans ih

theorem Homed.wonusLog (task typ src seq : Nat) (data : Word) : Homed s (s.wonusLog task typ src seq data) := by
  refine .ite ?_ .refl
  exact .trans (t := { s with wonus := s.wonus ++
      [(⟨BitVec.ofNat 4 typ, BitVec.ofNat 8 src, BitVec.ofNat 20 (s.slotOf task), BitVec.ofNat 32 seq, data⟩ : WonusRec)] })
    .of_eq (.wonusDrain _)

theorem Homed.variantLogged (t : Task) : Homed s (variantLogged s t) :=
  .ite (.trans (t := { s with freeCtr := s.freeCtr + 1 }) .of_eq (.wonusLog _ _ _ _ _)) .refl

/-- What an access at a home keeps of a task that is being loaded. -/
theorem Homed.loading (h : Homed s t) {n : Nat} {k : Task} (hk : s.task? n = some k) (hst : k.st = .loading) :
    ∃ x, t.task? n = some x ∧ x.rope = k.rope ∧ x.recAddr = k.recAddr ∧ x.st = .loading := by
  have same := h.tasks n
  rw [hk] at same
  obtain ⟨x, hx, e⟩ := Option.map_eq_some_iff.1 same
  have own : ident k = { k with joule := 0, debits := 0 } := by rw [ident, stopIf, if_neg (by rw [hst]; decide)]
  rw [own] at e
  have rope := congrArg Task.rope e
  have addr := congrArg Task.recAddr e
  have st := congrArg Task.st e
  by_cases run : x.st = .running
  · simp [ident, stopIf, run, hst] at st
  · rw [ident, stopIf, if_neg run] at rope addr st
    exact ⟨x, hx, rope, addr, st.trans hst⟩

/-- The start of a task names its rope as the one last started at its priority, and the task is being loaded. -/
theorem startTask_starts (hp : s.preempt = []) (t : Task) (tes : List Nat) (rooms : List Room) :
    let u := s.startTask t tes rooms
    SMap.get 255 u.lastRope (s.ropeOf t.rope.val).prio.toNat = t.rope.val ∧
      ∃ x, u.task? t.id = some x ∧ x.rope = t.rope ∧ x.recAddr = t.recAddr ∧ x.st = .loading := by
  have frame := unplaced_placed (s := s) t tes rooms
  have ropes : (placed s t tes rooms).ropeOf t.rope.val = s.ropeOf t.rope.val := congrArg (·.ropeOf t.rope.val) frame
  have preempt : (placed s t tes rooms).preempt = s.preempt := (congrArg State.preempt frame :)
  have logged := Homed.variantLogged (s := placed s t tes rooms) (slotted s t)
  let v := lastStarted (variantLogged (placed s t tes rooms) (slotted s t)) t.rope.val
  have last : SMap.get 255 v.lastRope (s.ropeOf t.rope.val).prio.toNat = t.rope.val := by
    have : (s.ropeOf t.rope.val).prio = ((variantLogged (placed s t tes rooms) (slotted s t)).ropeOf t.rope.val).prio := by
      rw [logged.prio, ropes]
    rw [this]
    exact SMap.get_set_same _ _ _ _
  have counted : Homed v (if (slotted s t).was = .loading then v.updRope t.rope.val (oneMore t.recAddr) else v) :=
    .ite (.updRope fun _ => rfl) .refl
  rw [startTask_eq]
  dsimp only
  rw [withdrawIf_of_nil (counted.preempt.trans (logged.preempt.trans (preempt.trans hp)))]
  refine ⟨by rw [counted.lastRope]; exact last, ?_⟩
  obtain ⟨x, hx, rope, addr, st⟩ := logged.loading (task?_placed t tes rooms) rfl
  obtain ⟨y, hy, rope', addr', st'⟩ := counted.loading hx st
  refine ⟨y, hy, ?_, ?_, st'⟩
  · rw [rope', rope, slotted_same]; rfl
  · rw [addr', addr, slotted_same]; rfl

/-! ## A first start that no access of another unit meets -/

/-- A rope is changed and settled: of all that the frame of an access speaks of, only the engine's copy changes. -/
theorem updRope_frame (ho : s.owners = []) (he : s.errs = []) {r : Nat} (hr : r < 256) (f : Rope → Rope) :
    ∃ w q g n, Accessed s w ∧ w.ropeOf r = (f (s.ropeOf r)).settled (s.launching r) ∧
      s.updRope r f = { w with sups := q, fqwait := g, freeCtr := n } := by
  obtain ⟨w, hw, acc, rope⟩ := putRope_frame ho he hr ((f (s.ropeOf r)).settled (s.launching r))
  simp only [State.updRope, hw]
  split
  · obtain ⟨q, g, fault⟩ := ropeFaultRecord_frame (s := w) r
    exact ⟨w, q, g, _, acc, rope, fault⟩
  · exact ⟨w, w.sups, w.fqwait, w.freeCtr, acc, rope, rfl⟩

theorem updRope_accessed (ho : s.owners = []) (he : s.errs = []) {r : Nat} (hr : r < 256) (f : Rope → Rope) :
    ∃ w, Accessed s w ∧ (s.updRope r f).ropeOf r = (f (s.ropeOf r)).settled (s.launching r) ∧
      (s.updRope r f).nextTask = w.nextTask ∧ (∀ n, (s.updRope r f).task? n = w.task? n) ∧
      (∀ i, (s.updRope r f).island i = w.island i) ∧ (∀ c, (s.updRope r f).core c = w.core c) ∧
      (s.updRope r f).preempt = w.preempt := by
  obtain ⟨w, q, g, n, acc, -, eq⟩ := updRope_frame ho he hr f
  refine ⟨w, acc, ropeOf_updRope _ _, ?_⟩
  rw [eq]
  exact ⟨rfl, fun _ => rfl, fun _ => rfl, fun _ => rfl, rfl⟩

theorem core_placed (t : Task) (tes : List Nat) (rooms : List Room) {p : Nat} (hp : p < t.ncores) :
    (p < tes.length → rooms.length = tes.length → (((placed s t tes rooms).core (t.base + p)).team? t.id).isSome = true) ∧
    ∀ h, t.homes = [h] → ((placed s t tes rooms).core (t.base + p)).pts = serialMax (s.core (t.base + p)).pts (SMap.get 0 s.swc h) := by
  have id : (slotted s t).id = t.id := by rw [slotted_same]
  have base : (slotted s t).base = t.base := by rw [slotted_same]
  have count : p < (slotted s t).ncores := by rw [slotted_same]; exact hp
  have homes : (slotted s t).homes = t.homes := by rw [slotted_same]
  rw [placed, homes, ← base, ← id]
  refine ⟨fun ht hr => ?_, fun h hh => ?_⟩
  · rw [Core.team?, teams_acquireWaits]
    exact team?_place ht hr
  · rw [hh, pts_acquireWaits_one _ _ count, pts_place]
    exact congrArg (fun m => serialMax _ (SMap.get 0 m h))
      (congrArg State.swc (unplaced_place (s := { s with nextTask := s.nextTask + 1 }) _ tes rooms) :)

theorem island_placed (t : Task) (tes : List Nat) (rooms : List Room) {p : Nat} (hp : p < t.ncores) :
    ((placed s t tes rooms).island (t.base + p)).hold = satHold ((s.island (t.base + p)).hold - s.resv t.eclass.toNat) := by
  have frame : (placed s t tes rooms).island (t.base + p) =
      (State.place { s with nextTask := s.nextTask + 1 } (slotted s t) tes rooms).island (t.base + p) := by
    rw [placed, acquireWaits_frame]; rfl
  rw [frame, slotted_same]
  exact congrArg Island.hold (island_place (s := { s with nextTask := s.nextTask + 1 }) { t with slot := (slotted s t).slot } tes rooms hp)

/-- The first element of a rising list that satisfies a test is the least. -/
theorem find?_of_least {l : List Nat} {p : Nat → Bool} {b : Nat} (hl : l.Pairwise (· ≤ ·)) (hb : b ∈ l) (hp : p b = true)
    (least : ∀ c ∈ l, p c = true → b ≤ c) : l.find? p = some b := by
  induction l with
  | nil => simp at hb
  | cons a r ih =>
    obtain ⟨first, rest⟩ := List.pairwise_cons.1 hl
    by_cases ha : p a = true
    · rw [List.find?_cons_of_pos ha]
      rcases List.mem_cons.1 hb with rfl | hb
      · rfl
      · rw [Nat.le_antisymm (first b hb) (least a (by simp) ha)]
    · rw [List.find?_cons_of_neg ha]
      refine ih rest ((List.mem_cons.1 hb).resolve_left ?_) fun c hc => least c (List.mem_cons_of_mem _ hc)
      rintro rfl
      exact ha hp

/-- With no task every slot is free. -/
theorem slot_slotted {t : Task} (htasks : s.tasks = []) (hw : t.was = .loading) : (slotted s t).slot = 0 := by
  have free : (List.range 1024).find? (fun k => s.tasks.all (fun t => t.slot ≠ k)) = some 0 :=
    find?_of_least List.pairwise_le_range (List.mem_range.2 (by decide)) (by rw [htasks]; rfl) fun _ _ _ => Nat.zero_le _
  have lowest : s.freeSlot = 0 := by rw [State.freeSlot, free, Option.getD_some]
  rw [slotted, if_pos hw]
  generalize s.freeSlot = k at lowest ⊢
  exact lowest

/-- The task as it stands once it is placed for the first time. -/
theorem placedTask_first {t : Task} (hw : t.was = .loading) : ∃ n, (s.tasks = [] → n = 0) ∧ placedTask s (slotted s t) =
    { t with st := .loading, credit := (List.range t.ncores).map (fun p => (t.base + p, s.resv t.eclass.toNat)), slot := n } := by
  refine ⟨(slotted s t).slot, fun h => slot_slotted h hw, ?_⟩
  generalize hn : (slotted s t).slot = n
  rw [slotted_same, hn]
  rfl

/-- What the first start of a task gives, where it finds no owned word and no error. -/
structure Started (s u : State) (t : Task) : Prop where
  inflight : (u.ropeOf t.rope.val).inflight = (s.ropeOf t.rope.val).inflight + 1
  nextTask : u.nextTask = s.nextTask + 1
  task : u.task? t.id = some (placedTask s (slotted s t))
  hold : ∀ p < t.ncores, t.base + p < 128 →
    (u.island (t.base + p)).hold = satHold ((s.island (t.base + p)).hold - s.resv t.eclass.toNat)
  team : ∀ p < t.ncores, ((u.core (t.base + p)).team? t.id).isSome = true
  pts : ∀ p < t.ncores, ∀ h, t.homes = [h] → (u.core (t.base + p)).pts = serialMax (s.core (t.base + p)).pts (SMap.get 0 s.swc h)

theorem startTask_first (ho : s.owners = []) (he : s.errs = []) (hp : s.preempt = []) {t : Task} (hw : t.was = .loading)
    (hv : t.variant = 0) {tes : List Nat} {rooms : List Room} (ht : tes.length = t.ncores) (hr : rooms.length = tes.length) :
    Started s (s.startTask t tes rooms) t := by
  have frame := unplaced_placed (s := s) t tes rooms
  have task := task?_placed (s := s) t tes rooms
  have island {p : Nat} (hp : p < t.ncores) := island_placed (s := s) t tes rooms hp
  have core {p : Nat} (hp : p < t.ncores) := core_placed (s := s) t tes rooms hp
  have logged : variantLogged (placed s t tes rooms) (slotted s t) = placed s t tes rooms := by
    rw [slotted_same, variantLogged, hv]; rfl
  have was : (slotted s t).was = .loading := by rw [slotted_same]; exact hw
  have ropes : (placed s t tes rooms).ropeOf t.rope.val = s.ropeOf t.rope.val := congrArg (·.ropeOf t.rope.val) frame
  have owners : (placed s t tes rooms).owners = [] := (congrArg State.owners frame :).trans ho
  have errs : (placed s t tes rooms).errs = [] := (congrArg State.errs frame :).trans he
  have preempt : (placed s t tes rooms).preempt = [] := (congrArg State.preempt frame :).trans hp
  have next : (placed s t tes rooms).nextTask = s.nextTask + 1 := (congrArg State.nextTask frame :)
  rw [startTask_eq]
  dsimp only
  rw [logged, if_pos was]
  generalize placed s t tes rooms = v at task island core ropes owners errs preempt next
  obtain ⟨w, acc, rope, hn, htask, hi, hc, hpre⟩ := updRope_accessed (s := lastStarted v t.rope.val) owners errs t.rope.isLt (oneMore t.recAddr)
  rw [withdrawIf_of_nil (hpre.trans (acc.preempt.trans preempt))]
  refine ⟨?_, ?_, ?_, fun p hp hb => ?_, fun p hp => ?_, fun p hp h hh => ?_⟩
  · rw [rope, (settled_counts _ _).1, ← ropes]; rfl
  · rw [hn, ← next]; exact (congrArg State.nextTask acc.still :)
  · rw [htask, acc.task?]; exact task
  · rw [hi, acc.island _ hb]; exact island hp
  · rw [hc, acc.team?]; exact (core hp).1 (by rw [ht]; exact hp) hr
  · rw [hc]; exact ((congrArg Core.pts (acc.core (t.base + p)) :)).trans ((core hp).2 h hh)

/-! ## The choice -/

theorem basesIn_rising (mask : BitVec 128) (n : Nat) : (basesIn mask n).Pairwise (· ≤ ·) :=
  ((List.pairwise_le_range).map _ fun _ _ h => Nat.mul_le_mul_right n h).filter _

theorem lt_of_basesIn {mask : BitVec 128} {n b p : Nat} (h : b ∈ basesIn mask n) (hp : p < n) : b + p < 128 := by
  have all := List.all_eq_true.1 (List.mem_filter.1 h).2 p (List.mem_range.2 hp)
  by_contra past
  rw [BitVec.getLsbD_of_ge mask (b + p) (Nat.not_lt.1 past)] at all
  cases all

/-- A record whose teams find room starts at the lowest base that satisfies R27. -/
theorem fit_start {t : Task} {bases tes : List Nat} {v b : Nat} {rooms : List Room}
    (read : s.teamsRead (lowCore (s.ropeOf t.rope.val).mask) t = .ok v u)
    (htes : tes = (List.range t.ncores).map (piece (v / 2 ^ 1024) 64)) (free : u.linksFree (hdrLinks v) t.id = true)
    (first : bases.find? (fun b => u.canPay b t.ncores t.eclass.toNat && (u.roomsAt b [] tes).isSome) = some b)
    (room : u.roomsAt b [] tes = some rooms) :
    s.fit t bases = (.start { t with links := hdrLinks v, base := b } tes rooms, u) := by
  subst htes
  simp only [State.fit, read, free, Bool.not_true, Bool.false_eq_true, if_false, first, room, Option.getD_some]

theorem judge_ready {t : Task} (place : basesIn (s.ropeOf t.rope.val).mask t.ncores ≠ [])
    (afford : s.neverAffordable (basesIn (s.ropeOf t.rope.val).mask t.ncores) t.ncores t.eclass.toNat = false) :
    s.judge t true = s.fit t (basesIn (s.ropeOf t.rope.val).mask t.ncores) := by
  have some : (basesIn (s.ropeOf t.rope.val).mask t.ncores).isEmpty = false := by simpa using place
  simp only [State.judge, some, afford, Bool.false_eq_true, if_false, if_true]

theorem scan_one {r : Nat} {t v : Task} {tes : List Nat} {rooms : List Room} (hst : (s.ropeOf r).st = .head)
    (judged : s.judge t true = (.start v tes rooms, u)) : s.scan r [(t, true)] [] = (.start v tes rooms, [], u) := by
  have ok : ¬(s.ropeOf r).st = .fault := by rw [hst]; decide
  simp only [State.scan, if_neg ok, judged]

/-- A look at a rope whose scan gives a startable record. -/
theorem lookOver_start {r : Nat} {rest : List Nat} {best : Option (Task × List Nat × List Room)} {t : Task} {tes : List Nat}
    {rooms : List Room} (hen : (s.ropeOf r).en = true) (hst : (s.ropeOf r).st = .head) (hck : s.ckRun = none)
    (scan : s.scan r (s.candidates r) [] = (.start t tes rooms, [], u)) :
    s.lookOver (r :: rest) ⟨best, []⟩ = u.lookOver rest
      ⟨if (match best with
        | some b => u.comesFirst r b.1.rope.val
        | none => true) = true then some (t, tes, rooms) else best, []⟩ := by
  have run : ¬(!(s.ropeOf r).en || (s.ropeOf r).st = .off || (s.ropeOf r).st = .fault || (s.ckRun.isSome && s.mgmt.ckropes.getLsbD r)) = true := by
    simp [hen, hst, hck]
  rw [State.lookOver]
  dsimp only
  rw [if_neg run, scan]
  rfl

/-- The choice starts the best record that a look over the ropes gives. -/
theorem exec_dispatchChoice_start {t : Task} {tes : List Nat} {rooms : List Room} (run : s.ropesRun = true)
    (look : s.lookOver (s.ropes.map (·.1)) ⟨none, []⟩ = (⟨some (t, tes, rooms), []⟩, u)) :
    exec .dispatchChoice s = .next (u.startTask t tes rooms) := by
  show execDispatchChoice s = _
  have go : ¬(!s.ropesRun) = true := by rw [run]; decide
  rw [execDispatchChoice, if_neg go, look]
  rfl

theorem comesFirst_iff (a b : Nat) : s.comesFirst a b = true ↔ (s.ropeOf b).prio.toNat < (s.ropeOf a).prio.toNat ∨
    (s.ropeOf a).prio = (s.ropeOf b).prio ∧ s.turnOf a < s.turnOf b := by
  simp [State.comesFirst, BitVec.toNat_inj]

theorem turnOf_eq {r last : Nat} (h : SMap.get 255 s.lastRope (s.ropeOf r).prio.toNat = last) (hl : last ≤ 255) :
    s.turnOf r = (r + 511 - last) % 256 := by
  rw [State.turnOf, h]
  congr 1
  omega

/-- Of two ropes exactly one comes first. -/
theorem comesFirst_not {a b : Nat} (ha : a < 256) (hb : b < 256) (hab : a ≠ b)
    (hla : SMap.get 255 s.lastRope (s.ropeOf a).prio.toNat ≤ 255) :
    s.comesFirst b a = true ↔ ¬s.comesFirst a b = true := by
  rw [comesFirst_iff, comesFirst_iff]
  by_cases e : (s.ropeOf a).prio = (s.ropeOf b).prio
  · have ta := turnOf_eq rfl hla
    have tb := turnOf_eq (s := s) (r := b) (last := SMap.get 255 s.lastRope (s.ropeOf a).prio.toNat) (by rw [e]) hla
    simp only [e, true_and, Nat.lt_irrefl, false_or]
    omega
  · have ne : (s.ropeOf a).prio.toNat ≠ (s.ropeOf b).prio.toNat := fun h => e (BitVec.eq_of_toNat_eq h)
    simp only [e, Ne.symm e, false_and, or_false]
    omega

theorem ready_of_no_waits {f : Fetched} (h : f.recd.toNat / 2 ^ 206 % 2 ^ 3 = 0) : f.ready = true := by
  have : recNwait f.recd.toNat = 0 := h
  rw [Fetched.ready, this]
  rfl

/-- The only record of a rope without tasks is its only candidate. -/
theorem candidates_one {r : Nat} {f : Fetched} (htasks : s.tasks = []) (hf : (s.ropeOf r).fetched = [f]) (hg : f.gone = false)
    (hb : f.bad = none) (hready : f.ready = true) (hin : (s.ropeOf r).inflight.toNat < 4) :
    s.candidates r = [(newTask r (s.ropeOf r) f s.nextTask, true)] := by
  have live : (s.ropeOf r).live = [f] := by simp [Rope.live, hf, hg]
  simp only [State.candidates, State.restarts, htasks, live, List.filter_nil, List.foldl_nil, List.map_nil, List.map_cons,
    hready, hb, decide_eq_true hin, Option.isNone_none, if_true, Bool.and_true, List.filter_cons]
  split <;> simp

/-- With one rope, whose only record finds room, the choice starts that record at the base b. -/
theorem exec_dispatchChoice_one {r : RopeNo} {f : Fetched} {v b : Nat} {tes : List Nat} {rooms : List Room} (run : s.ropesRun = true)
    (hropes : s.ropes.map (·.1) = [r.val]) (hck : s.ckRun = none) (hen : (s.ropeOf r.val).en = true) (hst : (s.ropeOf r.val).st = .head)
    (cand : s.candidates r.val = [(newTask r.val (s.ropeOf r.val) f s.nextTask, true)])
    (fitted : s.judge (newTask r.val (s.ropeOf r.val) f s.nextTask) true =
      (.start { newTask r.val (s.ropeOf r.val) f s.nextTask with links := hdrLinks v, base := b } tes rooms, u)) :
    exec .dispatchChoice s =
      .next (u.startTask { newTask r.val (s.ropeOf r.val) f s.nextTask with links := hdrLinks v, base := b } tes rooms) := by
  refine exec_dispatchChoice_start run ?_
  rw [hropes]
  exact lookOver_start hen hst hck (by rw [cand]; exact scan_one hst fitted)

/-- With two ropes that both have a startable record, the choice starts that of the rope that comes first. -/
theorem exec_dispatchChoice_two {a b : Nat} {ta tb : Task} {ea eb : List Nat} {ma mb : List Room} (run : s.ropesRun = true)
    (hropes : s.ropes.map (·.1) = [a, b]) (hck : s.ckRun = none) (hcku : u.ckRun = none)
    (ena : (s.ropeOf a).en = true) (sta : (s.ropeOf a).st = .head) (enb : (u.ropeOf b).en = true) (stb : (u.ropeOf b).st = .head)
    (scanA : s.scan a (s.candidates a) [] = (.start ta ea ma, [], u)) (scanB : u.scan b (u.candidates b) [] = (.start tb eb mb, [], t)) :
    exec .dispatchChoice s = .next
      (if t.comesFirst b ta.rope.val then t.startTask tb eb mb else t.startTask ta ea ma) := by
  have look : s.lookOver (s.ropes.map (·.1)) ⟨none, []⟩ =
      (⟨if t.comesFirst b ta.rope.val then some (tb, eb, mb) else some (ta, ea, ma), []⟩, t) := by
    rw [hropes, lookOver_start ena sta hck scanA, lookOver_start enb stb hcku scanB]
    rfl
  split
  · next h => rw [if_pos h] at look; exact exec_dispatchChoice_start run look
  · next h => rw [if_neg h] at look; exact exec_dispatchChoice_start run look

end Sys2Proof.Claims
end

section
/-! SUPPORT. Gang start, and launches that fail (R33, R35, R36, R54). -/

namespace Sys2Proof.Claims

open Sys2Proof Sys2Proof.Machine

variable {s t u : State}

/-! ## Contexts of a team -/

theorem ctx_foldl_setCtx {g : State → Nat → Ctx} (hg : ∀ (s : State) x v j, g (s.setCtx x v) j = g s j) {l : List (CtxNo × Nat)}
    (distinct : (l.map (·.1)).Nodup) {x : CtxNo} {j : Nat} (h : (x, j) ∈ l) :
    (l.foldl (fun s p => s.setCtx p.1 (g s p.2)) s).ctx x = g s j := by
  have keep {l : List (CtxNo × Nat)} {s : State} (h : x ∉ l.map (·.1)) :
      (l.foldl (fun s p => s.setCtx p.1 (g s p.2)) s).ctx x = s.ctx x := by
    induction l generalizing s with
    | nil => rfl
    | cons p r ih =>
      have apart : x ≠ p.1 ∧ x ∉ r.map (·.1) := by simpa using h
      rw [List.foldl_cons, ih apart.2, State.setCtx_ctx_ne _ _ apart.1]
  induction l generalizing s with
  | nil => simp at h
  | cons p r ih =>
    obtain ⟨first, rest⟩ := List.nodup_cons.1 distinct
    rw [List.foldl_cons]
    rcases List.mem_cons.1 h with rfl | h
    · rw [keep first, State.setCtx_ctx_same]
    · rw [ih rest h, hg]

theorem foldl_setCtx_rest {g : State → Nat → Ctx} (l : List (CtxNo × Nat)) :
    l.foldl (fun s p => s.setCtx p.1 (g s p.2)) s = { s with ctxs := (l.foldl (fun s p => s.setCtx p.1 (g s p.2)) s).ctxs } := by
  induction l generalizing s with
  | nil => rfl
  | cons p r ih => rw [List.foldl_cons, ih]; rfl

/-- The number of context j of a team on core c. -/
def ctxAt (c : Nat) (parts : List Nat) (j : Nat) : Nat := 16 * c + 4 * (parts.getD (j / 4) 0) + j % 4

/-- What a team's partitions are: distinct ones of four that hold its contexts. -/
structure GoodParts (w : Team) : Prop where
  core : w.core < 128
  distinct : w.parts.Nodup
  four : ∀ p ∈ w.parts, p < 4
  room : w.nctx ≤ 4 * w.parts.length

theorem GoodParts.part_lt {w : Team} (h : GoodParts w) {j : Nat} (hj : j < w.nctx) : w.parts.getD (j / 4) 0 < 4 := by
  have room := h.room
  have : j / 4 < w.parts.length := by omega
  rw [List.getD_eq_getElem _ _ this]
  exact h.four _ (List.getElem_mem _)

theorem GoodParts.ctxAt_lt {w : Team} (h : GoodParts w) {j : Nat} (hj : j < w.nctx) : ctxAt w.core w.parts j < 2048 := by
  have part := h.part_lt hj
  have core := h.core
  rw [ctxAt]
  omega

theorem GoodParts.ctxAt_inj {w : Team} (h : GoodParts w) {i j : Nat} (hi : i < w.nctx) (hj : j < w.nctx)
    (e : ctxAt w.core w.parts i = ctxAt w.core w.parts j) : i = j := by
  have pi := h.part_lt hi
  have pj := h.part_lt hj
  rw [ctxAt, ctxAt] at e
  have same : w.parts.getD (i / 4) 0 = w.parts.getD (j / 4) 0 := by omega
  have room := h.room
  have li : i / 4 < w.parts.length := by omega
  have lj : j / 4 < w.parts.length := by omega
  rw [List.getD_eq_getElem _ _ li, List.getD_eq_getElem _ _ lj] at same
  have := (h.distinct.getElem_inj_iff (hi := li) (hj := lj)).1 same
  omega

theorem ctxNos_eq (w : Team) : w.ctxNos = (List.range w.nctx).map (fun j => ctxOf (ctxAt w.core w.parts j)) := rfl

theorem GoodParts.ctxNos_nodup {w : Team} (h : GoodParts w) : w.ctxNos.Nodup := by
  rw [ctxNos_eq]
  refine List.Nodup.map_on (fun i hi j hj e => ?_) List.nodup_range
  have hi := List.mem_range.1 hi
  have hj := List.mem_range.1 hj
  have := congrArg Fin.val e
  simp only [ctxOf, Fin.val_ofNat, Nat.mod_eq_of_lt (h.ctxAt_lt hi), Nat.mod_eq_of_lt (h.ctxAt_lt hj)] at this
  exact h.ctxAt_inj hi hj this

theorem GoodParts.mem_zip {w : Team} (h : GoodParts w) {j : Nat} (hj : j < w.nctx) {x : CtxNo} (hx : x.val = ctxAt w.core w.parts j) :
    (x, j) ∈ w.ctxNos.zip (List.range w.nctx) := by
  have own : x = ctxOf (ctxAt w.core w.parts j) := Fin.ext (by rw [hx]; exact (Nat.mod_eq_of_lt (h.ctxAt_lt hj)).symm)
  rw [ctxNos_eq, own, List.mem_iff_getElem]
  exact ⟨j, by simpa using hj, by simp⟩

/-! ## Gang start -/

/-- The context with number j of a team at gang start. -/
def startOf (t : Task) (w : Team) (i : ImgTabs) (s : State) (j : Nat) : Ctx :=
  startCtx s.mgmt.drainCap t i.te w.pos j (teEntry i.te j) (hdrDrain i.hdr) (s.ropeOf t.rope.val).pre
    (decide (i.profile = .interlocked)) (s.placedThrottle t)

/-- The core of a team at gang start, its windows zero and its engines reset. -/
def coreReset (s : State) (w : Team) (i : ImgTabs) : State := s.modCore w.core (fun c => (c.zeroWindows w).startEngines i.te i.fmt)

/-- The partitions of a team at gang start. -/
def partsReset (s : State) (w : Team) : State := w.parts.foldl (fun s p => s.setPart (4 * w.core + p) Machine.Part.none) s

/-- The contexts of a team at gang start. -/
def ctxsStarted (s : State) (t : Task) (w : Team) (i : ImgTabs) : State :=
  (w.ctxNos.zip (List.range w.nctx)).foldl (fun s p => s.setCtx p.1 (startOf t w i s p.2)) s

/-- The team is armed with its text. -/
def textLoaded (s : State) (t : Task) (w : Team) (i : ImgTabs) : State :=
  s.modCore w.core (fun c => c.modTeam t.id (fun u => u.withText i.text))

/-- A team without chunks and bights, of an image whose text is not rewritten, is loaded. -/
theorem armFresh_native {t : Task} {w : Team} {i : ImgTabs} (image : ∀ k, s.withImage t w.core w.pos k = k i u) (native : i.profile = .native)
    (chunks : teChunks i.te i.chunks = []) (bights : teBights i.te i.bgt = []) :
    s.armFresh t w = .done (textLoaded (ctxsStarted (partsReset (coreReset u w i) w) t w i) t w i) := by
  have plain : ¬i.profile = .rewritten := by rw [native]; decide
  simp only [State.armFresh, image, chunks, State.loadChunks, bights, List.foldl_nil, if_neg plain]
  rfl

theorem partsReset_frame (w : Team) : partsReset s w = { s with parts := (partsReset s w).parts } :=
  foldl_setPart_frame w.parts (4 * w.core) Machine.Part.none

theorem ctxsStarted_frame (t : Task) (w : Team) (i : ImgTabs) : ctxsStarted s t w i = { s with ctxs := (ctxsStarted s t w i).ctxs } :=
  foldl_setCtx_rest _

/-- The state once a team is loaded. -/
def armedState (s : State) (t : Task) (w : Team) (i : ImgTabs) : State :=
  textLoaded (ctxsStarted (partsReset (coreReset s w i) w) t w i) t w i

theorem core_armed_same (t : Task) (w : Team) (i : ImgTabs) : (armedState s t w i).core w.core =
    (((s.core w.core).zeroWindows w).startEngines i.te i.fmt).modTeam t.id (fun u => u.withText i.text) := by
  have before : (ctxsStarted (partsReset (coreReset s w i) w) t w i).core w.core = (coreReset s w i).core w.core := by
    rw [ctxsStarted_frame, partsReset_frame]; rfl
  rw [armedState, textLoaded, State.modCore_eq, State.setCore_core_same, before, coreReset, State.modCore_eq, State.setCore_core_same]

theorem core_armed_ne (t : Task) (w : Team) (i : ImgTabs) {c : Nat} (h : c ≠ w.core) : (armedState s t w i).core c = s.core c := by
  have before : (ctxsStarted (partsReset (coreReset s w i) w) t w i).core c = (coreReset s w i).core c := by
    rw [ctxsStarted_frame, partsReset_frame]; rfl
  rw [armedState, textLoaded, State.modCore_eq, State.setCore_core_ne _ _ h, before, coreReset, State.modCore_eq, State.setCore_core_ne _ _ h]

theorem rd_clearRange (m : Memory) {lo n a : Nat} (h : lo ≤ a) (h' : a < lo + n) : Memory.rd (m.clearRange lo n) a = 0 := by
  refine SMap.get_notin _ _ _ fun e he => ?_
  have out := (List.mem_filter.1 he).2
  simp only [Bool.or_eq_true, decide_eq_true_eq] at out
  omega

/-- The windows of a team that is loaded without chunks are zero. -/
theorem windows_armed (t : Task) (w : Team) (i : ImgTabs) :
    (∀ a, w.spadBase ≤ a → a < w.spadBase + w.spadSize → Memory.rd ((armedState s t w i).core w.core).spad a = 0) ∧
    ∀ a, w.vaultBase ≤ a → a < w.vaultBase + w.vaultSize → Memory.rd ((armedState s t w i).core w.core).vault a = 0 := by
  rw [core_armed_same]
  exact ⟨fun a h h' => rd_clearRange _ h h', fun a h h' => rd_clearRange _ h h'⟩

theorem ctx_armed {w : Team} (h : GoodParts w) (t : Task) (i : ImgTabs) {j : Nat} (hj : j < w.nctx) {x : CtxNo}
    (hx : x.val = ctxAt w.core w.parts j) : (armedState s t w i).ctx x = startOf t w i s j := by
  have frame : startOf t w i (partsReset (coreReset s w i) w) j = startOf t w i s j := by rw [partsReset_frame]; rfl
  have distinct : ((w.ctxNos.zip (List.range w.nctx)).map (·.1)).Nodup := by
    rw [List.map_fst_zip (by simp [ctxNos_eq])]
    exact h.ctxNos_nodup
  rw [← frame]
  exact ctx_foldl_setCtx (fun _ _ _ _ => rfl) distinct (h.mem_zip hj hx)

theorem rs_startCtx (cap : Nat) (t : Task) (te pos j entry drain : Nat) (pre compat throttle : Bool) (n : BitVec 6) :
    (startCtx cap t te pos j entry drain pre compat throttle).rs n =
      if n = 1 then BitVec.ofNat 64 (t.recd.toNat / 2 ^ 128) else if n = 2 then BitVec.ofNat 64 j
      else if n = 3 then BitVec.ofNat 64 pos else if n = 4 then BitVec.ofNat 64 (teSpadWin te) else 0 := by
  have named (k : BitVec 6) : k.toNat = n.toNat ↔ n = k := ⟨fun h => (BitVec.eq_of_toNat_eq h).symm, fun h => by rw [h]⟩
  have one : 1 = n.toNat ↔ n = 1 := named 1
  have two : 2 = n.toNat ↔ n = 2 := named 2
  have three : 3 = n.toNat ↔ n = 3 := named 3
  have four : 4 = n.toNat ↔ n = 4 := named 4
  simp only [Ctx.rs, startCtx, Vector.getElem_set, Vector.getElem_replicate, recArgs, ofNat_bitsOf, one, two, three, four]
  by_cases h1 : n = 1
  · subst h1; rfl
  by_cases h2 : n = 2
  · subst h2; rfl
  by_cases h3 : n = 3
  · subst h3; rfl
  simp only [h1, h2, h3, if_false]
  by_cases h4 : n = 4
  · subst h4; rfl
  · simp only [h4, if_false, ite_self]

/-! ## A team is armed -/

theorem exec_teamArmed {t : Task} (h : s.task? t.id = some t) (pos : Nat) : exec (.teamArmed t.id pos) s = .next (s.armTeam t pos) := by
  show Host.Outcome.next (match s.task? t.id with
    | some t => s.armTeam t pos
    | none => s) = _
  rw [h]

/-- A team of a task that is being loaded, whose load and beginning are done. -/
theorem armTeam_done {t : Task} {pos : Nat} {w : Team} {v : State} (hs : s.mon.supsHeld = false) (hst : t.st = .loading)
    (hp : pos < t.ncores) (hw : (s.core (t.base + pos)).team? t.id = some w)
    (load : (if w.armed then Load.done s else if t.was = .saved then s.restoreTeam t w else s.armFresh t w) = .done v)
    (begins : v.beginTask t = .done u) : s.armTeam t pos = u := by
  have go : ¬(t.st ≠ .loading || decide (t.ncores ≤ pos) || s.mon.supsHeld) = true := by
    simp [hs, hst, hp]
  simp only [State.armTeam, if_neg go, hw, load, begins]

theorem beginTask_waits {t : Task} (h : s.allArmed t = false) : s.beginTask t = .done s := by
  simp only [State.beginTask, h, Bool.not_false, if_true]

theorem beginTask_saved {t : Task} (h : s.allArmed t = true) (hw : t.was = .saved) :
    s.beginTask t = .done { s.begun t with saves := s.saves.filter (fun v => v.task ≠ t.id) } := by
  simp only [State.beginTask, h, hw, Bool.not_true, Bool.false_eq_true, if_false, if_true]

theorem allArmed_of {t : Task} (h : ∀ p < t.ncores, ∃ w, (s.core (t.base + p)).team? t.id = some w ∧ w.armed = true) :
    s.allArmed t = true := by
  refine List.all_eq_true.2 fun c hc => ?_
  obtain ⟨p, hp, rfl⟩ := List.mem_map.1 hc
  obtain ⟨w, hw, armed⟩ := h p (List.mem_range.1 hp)
  simp only [hw, armed]

theorem allArmed_of_not {t : Task} {p : Nat} (hp : p < t.ncores)
    (h : ∀ w, (s.core (t.base + p)).team? t.id = some w → w.armed = false) : s.allArmed t = false := by
  rw [Bool.eq_false_iff]
  intro all
  have := List.all_eq_true.1 all (t.base + p) (List.mem_map.2 ⟨p, List.mem_range.2 hp, rfl⟩)
  split at this
  · next w hw => rw [h w hw] at this; cases this
  · cases this

/-! ## Launches that fail -/

theorem exec_launchFailure {t : Task} (h : s.task? t.id = some t) (hst : t.st = .loading) {pos : Nat} (hp : pos < t.ncores) :
    exec (.launchFailure t.id pos) s = .next (s.launchFail t) := by
  show Host.Outcome.next (match s.task? t.id with
    | some t => if t.st = TaskSt.loading && decide (pos < t.ncores) then s.launchFail t else s
    | none => s) = _
  have go : (t.st = TaskSt.loading && decide (pos < t.ncores)) = true := by simp [hst, hp]
  rw [h]
  dsimp only
  rw [if_pos go]

theorem freeLinks_frame (task : Nat) : s.freeLinks task = { s with links := (s.freeLinks task).links } := by
  unfold State.freeLinks
  generalize List.range 32 = l
  induction l generalizing s with
  | nil => rfl
  | cons p r ih =>
    rw [List.foldl_cons, ih]
    split <;> rfl

theorem inflight_back (k : Rope) (a : Word) : (k.back a).inflight = k.inflight - 1 := by
  simp only [Rope.back]
  split <;> split <;> rfl

/-- The copy of a rope that is OFF, to which a record of a failed launch returns. -/
def offBack (k : Rope) (a : Word) : Rope :=
  let k := { k with inflight := k.inflight - 1 }
  if k.fetched.any (fun f => f.addr = a) then { k with
    head := a
    kept := (((k.fetched.dropWhile (fun f => f.addr ≠ a)).drop 1).map (·.addr) ++ k.kept).eraseDups
    fetched := k.fetched.takeWhile (fun f => f.addr ≠ a) }
  else { k with kept := k.kept.filter (fun b => b ≠ a) }

theorem inflight_offBack (k : Rope) (a : Word) : (offBack k a).inflight = k.inflight - 1 := by
  simp only [offBack]
  split <;> rfl

/-- The rope settled with the record of a failed launch, and the fault that this raises. -/
def onBack (s : State) (r : Nat) (a : Word) : State :=
  let b := (s.ropeOf r).back a
  let n := b.settled (s.launching r)
  let u := s.putRope r n
  if n.st = .fault && b.st ≠ .fault then u.ropeFaultRecord r else u

theorem recordBack_eq (t : Task) : s.recordBack t = if (s.ropeOf t.rope.val).en then onBack s t.rope.val t.recAddr
    else s.putRope t.rope.val (offBack (s.ropeOf t.rope.val) t.recAddr) := by
  simp only [State.recordBack, onBack, offBack]
  split
  · rfl
  · split <;> rfl

/-- What a unit of the hub changes where a record returns to rope r. -/
structure GivenBack (s t : State) (r : Nat) : Prop where
  inflight : (t.ropeOf r).inflight = (s.ropeOf r).inflight - 1
  task : ∀ n, t.task? n = s.task? n
  island : ∀ i < 128, t.island i = s.island i
  team : ∀ c n, (t.core c).team? n = (s.core c).team? n

theorem GivenBack.of_accessed {r : Nat} (h : Accessed s t) (hi : (t.ropeOf r).inflight = (s.ropeOf r).inflight - 1) : GivenBack s t r :=
  ⟨hi, h.task?, h.island, h.team?⟩

theorem GivenBack.fault {r : Nat} (h : GivenBack s t r) : GivenBack s (t.ropeFaultRecord r) r := by
  obtain ⟨inflight, task, island, team⟩ := h
  obtain ⟨q, g, fault⟩ := ropeFaultRecord_frame (s := t) r
  refine ⟨by rw [ropeOf_ropeFaultRecord]; exact inflight, ?_, ?_, ?_⟩ <;> rw [fault]
  · exact task
  · exact island
  · exact team

theorem GivenBack.putRope (ho : s.owners = []) (he : s.errs = []) {r : Nat} (hr : r < 256) {k : Rope}
    (hk : k.inflight = (s.ropeOf r).inflight - 1) : GivenBack s (s.putRope r k) r :=
  .of_accessed (.putRope ho he hr k) (by rw [ropeOf_putRope, hk])

/-- The record of a failed launch returns to its rope. -/
theorem GivenBack.recordBack (ho : s.owners = []) (he : s.errs = []) (t : Task) : GivenBack s (s.recordBack t) t.rope.val := by
  rw [recordBack_eq]
  split
  · have put := GivenBack.putRope ho he t.rope.isLt
      (((settled_counts ((s.ropeOf t.rope.val).back t.recAddr) (s.launching t.rope.val)).1).trans (inflight_back _ _))
    simp only [onBack]
    split
    · exact put.fault
    · exact put
  · exact .putRope ho he t.rope.isLt (inflight_offBack _ _)

/-- The first launch of a record fails: its task is gone, and what it held is back. -/
theorem launchFail_first (ho : s.owners = []) (he : s.errs = []) {t : Task} (h : s.task? t.id = some t) (hw : t.was = .loading) :
    (s.launchFail t).task? t.id = none ∧ FreedIn s (s.launchFail t) t ∧
      ((s.launchFail t).ropeOf t.rope.val).inflight = (s.ropeOf t.rope.val).inflight - 1 := by
  obtain ⟨teams, islands⟩ := handedBack_freed h
  obtain ⟨-, ropes, errs, -, -, owners⟩ := handedBack_rest h
  let v : State := { (handedBack s t).freeLinks t.id with tasks := (handedBack s t).tasks.filter (fun u => u.id ≠ t.id) }
  have eq : s.launchFail t = v.recordBack t := if_pos hw
  have frame : v = { handedBack s t with
      links := v.links, tasks := (handedBack s t).tasks.filter (fun u => u.id ≠ t.id) } := by
    simp only [v]; rw [freeLinks_frame]
  have gone : v.task? t.id = none := task?_filter (l := (handedBack s t).tasks) (by rfl)
  have ho' : v.owners = [] := by rw [frame]; exact owners ho
  have he' : v.errs = [] := by rw [frame]; exact errs.trans he
  have rope' : v.ropeOf t.rope.val = s.ropeOf t.rope.val := by rw [frame, ← ropes]; rfl
  have island' (i : Nat) : v.island i = (handedBack s t).island i := by rw [frame]; rfl
  have core' (c : Nat) : v.core c = (handedBack s t).core c := by rw [frame]; rfl
  rw [eq]
  clear_value v
  obtain ⟨rope, task, island, team⟩ := GivenBack.recordBack ho' he' t
  refine ⟨?_, ⟨fun c hc => ?_, fun i au hc hi => ?_⟩, ?_⟩
  · rw [task]; exact gone
  · rw [team, core']; exact teams c hc
  · rw [island i hi, island']; exact islands i au hc hi
  · rw [rope, rope']

end Sys2Proof.Claims
end

section Settled

open Sys2Proof Sys2Proof.Machine Sys2Proof.Claims

/-- Settles O40: the choice is one look over the ropes, a start is a placement and a count of its rope, a team is armed by updates that each
touch one map, and a failed launch is a handing back. -/
theorem launchEvents : Obligations.LaunchEvents := by
  unfold Obligations.LaunchEvents
  refine ⟨?_, ?_, ?_, ?_, ?_⟩
  · intro s s1 r f v b tes rooms k t bases fits hrt hq hropes htasks hck hen hst hf hg hb hin hw hbases hafford hread htes hk1 hn1 ht1
      hp1 ho1 he1 hfree hmem hfits hleast hrooms
    have run : s.ropesRun = true := by rw [State.ropesRun, hrt, hq]; rfl
    have rope : t.rope = r := Fin.ext (Nat.mod_eq_of_lt r.isLt)
    have first : bases.find? (fun b => s1.canPay b t.ncores t.eclass.toNat && (s1.roomsAt b [] tes).isSome) = some b :=
      find?_of_least (basesIn_rising _ _) hmem (Bool.and_eq_true_iff.2 hfits) fun c hc h => hleast c hc (Bool.and_eq_true_iff.1 h)
    have ropeK : s.ropeOf t.rope.val = k := by rw [rope]
    have judged : s.judge t true = (.start { t with links := hdrLinks v, base := b } tes rooms, s1) := by
      rw [judge_ready (by rw [ropeK]; exact hbases) (by rw [ropeK]; exact hafford), ropeK]
      exact fit_start (v := v) (by rw [ropeK]; exact hread) htes hfree first hrooms
    have cand : s.candidates r.val = [(t, true)] := candidates_one htasks hf hg hb (ready_of_no_waits hw) hin
    refine ⟨_, exec_dispatchChoice_one run (by rw [hropes]; rfl) hck hen hst cand judged, ?_⟩
    have started := startTask_first ho1 he1 hp1 (t := { t with links := hdrLinks v, base := b }) rfl rfl (tes := tes) (rooms := rooms)
      (by rw [htes, List.length_map, List.length_range]) (length_roomsAt hrooms)
    obtain ⟨inflight, next, task, hold, team, pts⟩ := started
    obtain ⟨n, slot, placed⟩ := placedTask_first (s := s1) (t := { t with links := hdrLinks v, base := b }) rfl
    rw [placed] at task
    refine ⟨?_, by rw [next, hn1], ⟨_, task, rfl, rfl, rfl, rfl, ofNat_bitsOf _ _ _, rope, rfl, rfl, slot ht1, rfl⟩, fun p hp =>
      ⟨hold p hp (lt_of_basesIn hmem hp), team p hp, pts p hp⟩⟩
    have same : ({ t with links := hdrLinks v, base := b } : Machine.Task).rope.val = r.val := congrArg Fin.val rope
    rw [same, hk1] at inflight
    exact inflight
  · intro s s1 s2 a b ta tb ea eb ma mb ka kb last after first starts hab hrt hq hck hropes hen hla hlb scanA hk1 hck1 scanB hka hkb
      hlast hpre hta htb
    obtain ⟨ena, enb, sta, stb⟩ := hen
    have run : s.ropesRun = true := by rw [State.ropesRun, hrt, hq]; rfl
    have ropeA : ta.rope.val = a.val := by rw [hta]
    have choice := exec_dispatchChoice_two run (by rw [hropes]; rfl) hck hck1 ena sta (by rw [hk1]; exact enb) (by rw [hk1]; exact stb) scanA scanB
    rw [ropeA] at choice
    have order : s2.comesFirst a.val b.val = true ↔ first := by
      rw [comesFirst_iff, turnOf_eq rfl (by rw [hka, hlast]; exact hla), turnOf_eq rfl (by rw [hkb, hlast]; exact hlb), hka, hkb, hlast]
    have other := comesFirst_not a.isLt b.isLt (fun h => hab (Fin.ext h)) (by rw [hka, hlast]; exact hla)
    by_cases hf : first
    · rw [if_neg (fun h => other.1 h (order.2 hf))] at choice
      obtain ⟨last, task⟩ := startTask_starts hpre ta ea ma
      rw [hta, hka] at last
      rw [hta] at task
      exact ⟨_, choice, fun _ => ⟨last, task⟩, fun h => absurd hf h⟩
    · rw [if_pos (other.2 fun h => hf (order.1 h))] at choice
      obtain ⟨last, task⟩ := startTask_starts hpre tb eb mb
      rw [htb, hkb] at last
      rw [htb] at task
      exact ⟨_, choice, fun h => absurd h hf, fun _ => ⟨last, task⟩⟩
  · intro s s0 t pos w i c hs ht hst hw hp hteam harmed hcore hpos hc hnodup hfour hroom image native chunks bights wait
    obtain ⟨p, hpn, hne, waits⟩ := wait
    have place : t.base + pos = w.core := hcore.symm
    have parts : GoodParts w := ⟨by rw [hcore]; exact hc, hnodup, hfour, hroom⟩
    have load := armFresh_native (s := s) (u := s0) (t := t) (w := w) (by rw [hcore, hpos]; exact image) native chunks bights
    have begins : (armedState s0 t w i).beginTask t = .done (armedState s0 t w i) := by
      refine beginTask_waits (allArmed_of_not hpn ?_)
      rw [core_armed_ne _ _ _ (by omega)]
      exact waits
    have run := armTeam_done hs hst hp hteam (by rw [if_neg (by rw [harmed]; decide), if_neg (by rw [hw]; decide)]; exact load) begins
    obtain ⟨spad, vault⟩ := windows_armed (s := s0) t w i
    refine ⟨_, exec_teamArmed ht pos, ?_⟩
    rw [run]
    rw [hcore] at spad vault
    refine ⟨spad, vault, fun j hj x hx => ?_⟩
    have own := ctx_armed (s := s0) parts t i hj (x := x) (by rw [hx, ctxAt, hcore])
    intro k
    have own : k = startOf t w i s0 j := own
    refine ⟨?_, fun n => ?_⟩
    · rw [own, startOf, native]
      rfl
    · rw [own, startOf, hpos]
      exact rs_startCtx _ _ _ _ _ _ _ _ _ _ _
  · intro s t pos w hs ht hst hw hp hteam harmed all
    have begins := beginTask_saved (allArmed_of all) hw
    rw [exec_teamArmed ht, armTeam_done hs hst hp hteam (if_pos harmed) begins]
    rfl
  · intro s t pos i au ht hst hw hp hcredit hi ho he k h m
    obtain ⟨gone, ⟨teams, islands⟩, inflight⟩ := launchFail_first ho he ht hw
    refine ⟨_, exec_launchFailure ht hst hp, gone, inflight, ?_, fun p hp => teams _ (List.mem_map.2 ⟨p, List.mem_range.2 hp, rfl⟩)⟩
    rw [islands i au hcredit hi]
    rfl

end Settled

section
/-! SUPPORT. What a plain operation under its guard posts, and the rotation of the bases (R55 to R57, R187 to R197). -/

namespace Sys2Proof.Claims

open Sys2Proof Sys2Proof.Machine

variable {s u : State} {g : BitVec 4}

/-! ## Results of plain operations -/

theorem land_eq_posted (dst : Dest) (lanes : BitVec 32) (v : VReg) (flags : BitVec 5) (lat : Nat) :
    s.land dst lanes v flags lat = posted s dst lanes v flags lat := rfl

theorem postsS_opS (h : s.me.guard0 g = true) (d : BitVec 6) (w : Word) (lat : Nat) : PostsS s (.next (s.opS g d w lat)) d w lat := by
  rw [State.opS, gated_go h]; rfl

theorem postsD_opD (h : s.me.guard0 g = true) (dst : Dest) (w : Word) : PostsD s (.next (s.opD g dst w)) dst w := by
  rw [State.opD, gated_go h]; rfl

theorem me_withD (dst : Dest) (w : Word) : (withD s dst w).me =
    { s.me with flight := s.me.flight ++ [flightOf (s.issue.cycle + 1) dst allLanes (w.setWidth 1024) 0 s.me.pc] } :=
  State.setCtx_me s _

theorem land_zero (dst : Dest) : s.land dst allLanes 0 0 1 = withD s dst 0 := by
  have zero : (0 : Word).setWidth 1024 = (0 : VReg) := by simp
  rw [withD, zero]; rfl

/-- A counted loop takes the leaf while its counter exceeds 1 (R193). -/
theorem closeLoop_eq (d : Dest) (lc : BitVec 32) (b : BitVec 3) : s.closeLoop d lc b =
    if 1 < lc.toNat then taken (withD s d ((lc - 1).setWidth 64)) (s.target b) else withD s d 0 := by
  rw [State.closeLoop, land_zero]; rfl

/-! ## The rotation of lpe (R194) -/

theorem vrb_down (x : BitVec 5) : (x - 1).setWidth 64 = BitVec.ofNat 64 ((x.toNat + 31) % 32) := by
  bv_omega

theorem prb_down (x : BitVec 6) : (x - 1).toNat = (x.toNat + 63) % 64 := by
  bv_omega

/-- u with both bases of a context stepped down and its stage predicate posted (R194). -/
def rotated (c : Ctx) (u : State) (stage : Word) : State :=
  let np := (c.prb.toNat + 63) % 64
  withD (withD (withD u .vrb (BitVec.ofNat 64 ((c.vrb.toNat + 31) % 32))) .prb (BitVec.ofNat 64 np)) (.p (Fin.ofNat 128 (64 + np))) stage

theorem stage_eq_rotated {c : Ctx} (hv : u.me.vrb = c.vrb) (hp : u.me.prb = c.prb) (w : BitVec 32) :
    u.stage w = rotated c u (w.setWidth 64) := by
  have np : (c.prb - 1).setWidth 64 = BitVec.ofNat 64 ((c.prb.toNat + 63) % 64) := by
    rw [← prb_down, BitVec.ofNat_toNat]
  have reg (h : 64 + (c.prb - 1).toNat < 128) : (⟨64 + (c.prb - 1).toNat, h⟩ : Fin 128) = Fin.ofNat 128 (64 + (c.prb.toNat + 63) % 64) := by
    apply Fin.ext
    rw [← prb_down]
    exact (Nat.mod_eq_of_lt h).symm
  have whole : (w.setWidth 64).setWidth 1024 = w.setWidth 1024 := by
    apply BitVec.eq_of_toNat_eq; have := w.isLt; simp only [BitVec.toNat_setWidth]; omega
  simp only [State.stage, State.rotate, rotated, withD, land_eq_posted, hv, hp, vrb_down, np, reg, whole, ofWord]

theorem stage_withD (dst : Dest) (v : Word) (w : BitVec 32) :
    (withD s dst v).stage w = rotated s.me (withD s dst v) (w.setWidth 64) :=
  stage_eq_rotated (by rw [me_withD]) (by rw [me_withD]) w

theorem stage_withD_withD (dst dst' : Dest) (v v' : Word) (w : BitVec 32) :
    (withD (withD s dst v) dst' v').stage w = rotated s.me (withD (withD s dst v) dst' v') (w.setWidth 64) :=
  stage_eq_rotated (by rw [me_withD, me_withD]) (by rw [me_withD, me_withD]) w

theorem closePipe_eq (b : BitVec 3) :
    s.closePipe b =
      if 1 < s.me.lc0.toNat then taken (rotated s.me (withD s .lc0 ((s.me.lc0 - 1).setWidth 64)) 0xFFFFFFFF) (s.target b)
      else if 1 < s.me.ec.toNat then
        taken (rotated s.me (withD (withD s .lc0 0) .ec ((s.me.ec - 1).setWidth 64)) 0) (s.target b)
      else if s.me.ec.toNat = 1 then rotated s.me (withD (withD s .lc0 0) .ec 0) 0
      else withD s .lc0 0 := by
  have put (s : State) (d : Dest) (w : Word) : s.land d allLanes (ofWord w) 0 1 = withD s d w := rfl
  have ec : s.me.ec = 1 ↔ s.me.ec.toNat = 1 := ⟨fun h => by rw [h]; rfl, fun h => BitVec.eq_of_toNat_eq h⟩
  have leaf (s : State) (t : Word) : s.setLeaf t = taken s t := rfl
  have ones : allLanes.setWidth 64 = (0xFFFFFFFF : Word) := by decide
  have zero : (0 : BitVec 32).setWidth 64 = (0 : Word) := by decide
  simp only [State.closePipe, put, leaf, ec, stage_withD_withD, zero]
  simp only [stage_withD, ones]

/-! ## Special registers (R51, R53, R196, R197) -/

theorem cstatOf_eq (x : CtxNo) (c : Ctx) :
    cstatOf x c = BitVec.ofNat 64 (x.val % 4 + 4 * (x.val / 4 % 4) + 16 * c.tctx.toNat + 256 * (x.val / 16) +
      2 ^ 16 * b2n c.bp + 2 ^ 17 * b2n c.dbg + 2 ^ 18 * b2n c.compat + 2 ^ 19 * b2n c.inh) := by
  simp only [cstatOf, cstatLow, ctxSlot, ctxPart, ctxCore, Nat.mul_comm]

theorem sregDst_eq (r : BitVec 8) :
    sregDst r = if r = 0 then .astat else if r = 4 then .vrb else if r = 5 then .prb else if r = 6 then .lc0
      else if r = 7 then .lc1 else if r = 8 then .ec else if r = 9 then .utv else .none := by
  unfold sregDst
  split <;> simp_all [← BitVec.toNat_inj]

end Sys2Proof.Claims
end

section Settled

open Sys2Proof Sys2Proof.Machine Sys2Proof.Claims

/-- Settles O4: each form is one plain operation under its guard, the loops close by the counters that they read, and the rotation of lpe
reads the bases of the issuing context after what it has posted. -/
theorem targetLoopAndSpecialRegisters : Obligations.TargetLoopAndSpecialRegisters := by
  unfold Obligations.TargetLoopAndSpecialRegisters
  refine ⟨fun s g bd t lc i ra hg => ?_, ⟨fun s g bd hg => ⟨?_, ?_⟩, fun s g bd hg => ?_⟩, fun s g d hg => ?_, fun s g d r hg => ?_⟩
  · exact ⟨postsD_opD hg _ _, postsD_opD hg _ _, postsD_opD hg _ _, postsD_opD hg _ _, postsD_opD hg _ _, postsD_opD hg _ _,
      postsD_opD hg _ _, postsD_opD hg _ _, congrArg _ (gated_go hg)⟩
  · exact congrArg _ ((gated_go hg).trans (closeLoop_eq _ _ _))
  · exact congrArg _ ((gated_go hg).trans (closeLoop_eq _ _ _))
  · exact congrArg _ ((gated_go hg).trans (closePipe_eq bd))
  · have reads (r : BitVec 8) : PostsS s (exec (.mfs g d r) s) d (sregOf s.issue.x s.me s.issue.cycle r) 1 := postsS_opS hg _ _ _
    have cstat := reads 1
    rw [show sregOf s.issue.x s.me s.issue.cycle 1 = cstatOf s.issue.x s.me from rfl, cstatOf_eq] at cstat
    exact ⟨reads 0, cstat, reads 2, reads 3, reads 4, reads 5, reads 6, reads 7, reads 8, reads 9, reads 10, reads 11, reads 12, reads 13⟩
  · rw [← sregDst_eq]
    exact postsD_opD hg _ _

end Settled

section
/-! SUPPORT. Operations whose guard is off (R56). -/

namespace Sys2Proof.Claims

open Sys2Proof Sys2Proof.Machine

variable {s : State}

theorem gated_off {g p eff} (h : s.me.guard0 g = false) : s.gated g p eff = s := by simp [State.gated, h]

/-- What an operation under a guard that is off answers. -/
theorem next_gated_off {g p eff} (h : s.me.guard0 g = false) : (.next (s.gated g p eff) : Out) = .next s := by rw [gated_off h]

end Sys2Proof.Claims
end

section Settled

open Sys2Proof Sys2Proof.Machine Sys2Proof.Claims

/-- Settles O54: an operation that has a guard and does not act lane by lane is its effect under that guard. -/
theorem guardedOffDoesNothing : Obligations.GuardedOffDoesNothing := by
  unfold Obligations.GuardedOffDoesNothing
  intro s i guarded scalar off
  cases i with
  | add | sub | and | or | xor | andn | min | max | minu | maxu | mul | mulh | mulhu | sll | srl | sra | addi | andi | ori
  | xori | slli | srli | srai | muli | sel | pget | pcnt | pfirst | mfs | adds | clz | ctz | popc | rev8 | sextB | sextH
  | sextW | zextB | zextH | zextW | movi | div | divu | rem | remu | vget
  | cmpEq | cmpNe | cmpLt | cmpLe | cmpLtu | cmpLeu | cmpTst | cmpNtst | cmpiEq | cmpiNe | cmpiLt | cmpiLe | pand | por
  | pxor | pandn | pset | setb | setbReg | lset | lsetReg | rotSetv | rotSetvReg | rotSetp | rotSetpReg | mts | call | ret
  | lp0 | lp1 | lpe | rotStep | mcall | mwait | mpar | mpari | mft | mzero | mmovSt | mmovStSat | mmovLd | mrsw | mrse
  | mstat | mstatCnt | ldB | ldH | ldW | ldD | ldBs | ldHs | ldWs | ldvB | ldvH | ldvW | ldvD | ldvBs | ldvHs | ldvWs
  | stB | stH | stW | stD | stvB | stvH | stvW | stvD
  | bgtMap | bgtUnmap | bgtFlush | bgtTouch | bgtQuery | cpyG2s | cpyS2g | cpyS2s | cpyG2g | cpyGath | cpyScat | cpyMcast
  | cpyTr | cqPop | cqProg | cqCnt | hyStart | hyStop | hyCred | hyBase | hyClr | hyPop | hyStat | hyProg | hyRdc | hyDrop
  | lsend | lrecv | amoAddW | amoAndW | amoOrW | amoXorW | amoMinW | amoMaxW | amoMinuW | amoMaxuW | amoAddD | amoAndD
  | amoOrD | amoXorD | amoMinD | amoMaxD | amoMinuD | amoMaxuD | amoxSwapW | amoxSwapD | amoxCasW | amoxCasD | amoxFaddF32
  | redAddW | redAddD | redMinW | redMaxW | redMinuW | redMaxuW | redFaddF32 | redOrD | scLdW | scLdD | scStW | scStD
  | scSwapW | scSwapD | scAddD | scCasD | drainBraid | drainDie | drainDev | drainSys | splCall | splCalln | splInst | splRm
  | knotAdd | knotRd | knotMax | knotSwap | nrgQ | nrgVreg | nrgVsw | cend | trap | rtu | bkpt | pin | unpin | dbgMark
  | dbgBrk | barBraid =>
    exact next_gated_off off
  | vadd | vsub | vmul | vadds | vsubs | vmin | vmax | vand | vor | vxor | vandn | vnot | vsll | vsrl | vsra | vslls | vsrls
  | vsras | vfadd | vfsub | vfmul | vfmin | vfma | vfms | vfmax | vcvtV0V31 | vcvtV32V63 | vcvtSatV0V31 | vcvtSatV32V63
  | vcmpEq | vcmpNe | vcmpLt | vcmpLe | vcmpuLtu | vcmpuLeu | vcmpuTst | vcmpuNtst | vfcmpEq | vfcmpNe | vfcmpLt | vfcmpLe
  | vsel | vperm | vrotl | vbcl | vzipl | vziph | vuzpl | vuzph | vredFsum | vredIsum | vredFmax | vredFmin | vredImax
  | vredImin | vredAmax | vtrLog2 | vtrExp2 | vtrRcp | vtrRsqrt | vtrSig | vtrTanh | vhash | vacc | vaccLc | vbc | vput
  | viota | vldV | vldBc | vldH | vldvV | vldvBc | vldvH | vstV | vstH | vstvV | vstvH =>
    exact nomatch (scalar : true = false)
  | _ => exact absurd rfl guarded

end Settled

section
/-! SUPPORT. Lanes of a vector register, and the landing of the results of one destination (R56 to R58, R61, R198). -/

namespace Sys2Proof.Claims

open Sys2Proof Sys2Proof.Machine

/-! ## Lanes -/

theorem lanesNat_lt (f : Nat → Lane32) (n : Nat) : lanesNat f n < 2 ^ (32 * n) := by
  induction n with
  | zero => simp [lanesNat]
  | succ n ih =>
    have := (f n).isLt
    have : (f n).toNat * 2 ^ (32 * n) + 2 ^ (32 * n) ≤ 2 ^ 32 * 2 ^ (32 * n) := by
      rw [← Nat.succ_mul]; exact Nat.mul_le_mul_right _ this
    rw [lanesNat, Nat.mul_succ, Nat.pow_add, Nat.mul_comm (2 ^ (32 * n))]
    omega

/-- Lane i of an image of n lanes. -/
theorem lanesNat_lane (f : Nat → Lane32) {i n : Nat} (h : i < n) : lanesNat f n / 2 ^ (32 * i) % 2 ^ 32 = (f i).toNat := by
  induction n with
  | zero => omega
  | succ n ih =>
    rw [lanesNat]
    rcases Nat.lt_succ_iff_lt_or_eq.1 h with h | rfl
    · obtain ⟨k, rfl⟩ := Nat.exists_eq_add_of_lt h
      have split : (f (i + k + 1)).toNat * 2 ^ (32 * (i + k + 1)) = 2 ^ (32 * i) * (2 ^ 32 * ((f (i + k + 1)).toNat * 2 ^ (32 * k))) := by
        rw [show 32 * (i + k + 1) = 32 * i + (32 + 32 * k) by omega, Nat.pow_add, Nat.pow_add]; ac_rfl
      rw [split, Nat.add_mul_div_left _ _ (Nat.two_pow_pos _), Nat.add_mul_mod_self_left, ih h]
    · rw [Nat.add_mul_div_right _ _ (Nat.two_pow_pos _), Nat.div_eq_of_lt (lanesNat_lt f i), Nat.zero_add]
      exact Nat.mod_eq_of_lt (f i).isLt

theorem toNat_ofNat_of_lt {k w : Nat} (h : k < 2 ^ w) : (BitVec.ofNat w k).toNat = k := by
  rw [BitVec.toNat_ofNat, Nat.mod_eq_of_lt h]

theorem laneOf_vregOf (f : Nat → Lane32) {i : Nat} (h : i < 32) : laneOf (vregOf f) i = f i := by
  apply BitVec.eq_of_toNat_eq
  have bits : 32 * 32 = 1024 := rfl
  have image : (vregOf f).toNat = lanesNat f 32 := toNat_ofNat_of_lt (bits ▸ lanesNat_lt f 32)
  rw [laneOf, BitVec.extractLsb'_toNat, image, Nat.shiftRight_eq_div_pow]
  exact lanesNat_lane f h

theorem laneOf_mergeLanes (lanes : BitVec 32) (old new : VReg) {i : Nat} (h : i < 32) :
    laneOf (mergeLanes lanes old new) i = if lanes.getLsbD i then laneOf new i else laneOf old i :=
  laneOf_vregOf _ h

/-! ## The landing of one result -/

section One

variable {c : Ctx} {f g : Flight} {v w : VReg}

theorem lands_iff {t : Nat} (hf : f.value = some v) : f.lands t = true ↔ f.due ≤ t ∧ f.back = 0 := by
  simp [Flight.lands, Flight.here, hf]

theorem flight_write (d : Dest) (lanes : BitVec 32) : (c.write d lanes v).flight = c.flight := by
  cases d with
  | s n | p n => simp only [Ctx.write]; split <;> rfl
  | _ => rfl

theorem astat_write {d : Dest} (hd : d ≠ .astat) (lanes : BitVec 32) : (c.write d lanes v).astat = c.astat := by
  cases d with
  | s n | p n => simp only [Ctx.write]; split <;> rfl
  | astat => exact absurd rfl hd
  | _ => rfl

theorem flight_landOne : (c.landOne f).flight = c.flight := by
  unfold Ctx.landOne
  split
  · exact flight_write _ _
  · rfl

theorem s_landOne {n : Fin 64} (hf : f.value = some v) (hd : f.dst = .s n) (hn : n ≠ 0) :
    (c.landOne f).s = c.s.set n.val (v.setWidth 64) := by
  simp [Ctx.landOne, hf, hd, Ctx.orFlags, Ctx.write, hn]

theorem v_landOne {n : Fin 64} (hf : f.value = some v) (hd : f.dst = .v n) :
    (c.landOne f).v = c.v.set n.val (mergeLanes f.lanes c.v[n.val] v) := by
  simp [Ctx.landOne, hf, hd, Ctx.orFlags, Ctx.write]

theorem astat_landOne (hf : f.value = some v) (hd : f.dst ≠ .astat) : (c.landOne f).astat = c.astat ||| f.flags.setWidth 32 := by
  simp only [Ctx.landOne, hf, Ctx.orFlags, astat_write hd]

end One

/-! ## What lands in one cycle -/

theorem yieldTo_of_unlocked {f : Flight} (h : f.lock = false) (g : Flight) : f.yieldTo g = f := by simp [Flight.yieldTo, h]

theorem foldl_yieldTo_of_unlocked {f : Flight} (h : f.lock = false) (l : List Flight) : l.foldl Flight.yieldTo f = f := by
  induction l with
  | nil => rfl
  | cons g r ih => rw [List.foldl_cons, yieldTo_of_unlocked h, ih]

theorem yieldAll_of_unlocked {l : List Flight} (h : ∀ f ∈ l, f.lock = false) (t : Nat) :
    yieldAll t l = l.filter (fun f => !f.lands t) := by
  induction l with
  | nil => rfl
  | cons f r ih =>
    have rest := ih fun g hg => h g (List.mem_cons_of_mem _ hg)
    cases hl : f.lands t <;> simp [yieldAll, hl, rest, foldl_yieldTo_of_unlocked (h f List.mem_cons_self)]

/-- Where no load of an interlocked image is in flight and all results have one destination, those that are due land in the order of their
cycles and the others stay (R57, R58). -/
theorem landDue_eq {c : Ctx} {d : Dest} (hlock : ∀ f ∈ c.flight, f.lock = false) (hd : ∀ f ∈ c.flight, f.dst = d) (t : Nat) :
    c.landDue t = (byDue (c.flight.filter (fun f => f.lands t))).foldl Ctx.landOne
      { c with flight := c.flight.filter (fun f => !f.lands t) } := by
  have stay : (yieldAll t c.flight).map (yieldBack t c.flight) = c.flight.filter (fun f => !f.lands t) := by
    rw [yieldAll_of_unlocked hlock]
    exact (List.map_congr_left fun f hf => foldl_yieldTo_of_unlocked (hlock f (List.mem_of_mem_filter hf)) _).trans (List.map_id _)
  have dst : ∀ f ∈ byDue (c.flight.filter (fun f => f.lands t)), f.dst = d := fun f hf =>
    hd f (List.mem_of_mem_filter (mem_byDue.1 hf))
  simp only [Ctx.landDue, stay]
  generalize byDue (c.flight.filter (fun f => f.lands t)) = due at dst
  by_cases h : d = .astat
  · have all : due.filter (fun f => f.dst = .astat) = due := List.filter_eq_self.2 fun f hf => by simp [dst f hf, h]
    have none : due.filter (fun f => f.dst ≠ .astat) = [] := List.filter_eq_nil_iff.2 fun f hf => by simp [dst f hf, h]
    rw [all, none]; rfl
  · have none : due.filter (fun f => f.dst = .astat) = [] := List.filter_eq_nil_iff.2 fun f hf => by simp [dst f hf, h]
    have all : due.filter (fun f => f.dst ≠ .astat) = due := List.filter_eq_self.2 fun f hf => by simp [dst f hf, h]
    rw [none, all]; rfl

theorem byDue_pair (f g : Flight) : byDue [f, g] = if f.due ≤ g.due then [f, g] else [g, f] := by
  by_cases h : f.due ≤ g.due
  · simp [byDue, insDue, h, Nat.not_lt.2 h]
  · simp [byDue, insDue, h, Nat.lt_of_not_le h]

/-- What two results of one destination leave that land one after the other: the register has the later one, lane by lane for a vector
register, and the flags of both are in ASTAT (R58, R198). -/
theorem landOne_landOne {c : Ctx} {f g : Flight} {v w : VReg} (hv : f.value = some v) (hw : g.value = some w) (hd : f.dst = g.dst) :
    ((c.landOne f).landOne g).flight = c.flight ∧
    (∀ n, f.dst = .s n → n ≠ 0 → ((c.landOne f).landOne g).s[n] = w.setWidth 64 ∧
      ∀ m, m ≠ n → ((c.landOne f).landOne g).s[m] = c.s[m]) ∧
    (∀ n, f.dst = .v n → (∀ i < 32, laneOf ((c.landOne f).landOne g).v[n] i =
        if g.lanes.getLsbD i then laneOf w i else if f.lanes.getLsbD i then laneOf v i else laneOf c.v[n] i) ∧
      ∀ m, m ≠ n → ((c.landOne f).landOne g).v[m] = c.v[m]) ∧
    (f.dst ≠ .astat → ((c.landOne f).landOne g).astat = c.astat ||| f.flags.setWidth 32 ||| g.flags.setWidth 32) := by
  refine ⟨by rw [flight_landOne, flight_landOne], fun n hn h0 => ?_, fun n hn => ?_, fun hn => ?_⟩
  · rw [s_landOne hw (hd ▸ hn) h0, s_landOne hv hn h0]
    refine ⟨by simp, fun m hm => ?_⟩
    have : n.val ≠ m.val := fun e => hm (Fin.ext e.symm)
    simp [this]
  · rw [v_landOne hw (hd ▸ hn), v_landOne hv hn]
    refine ⟨fun i hi => ?_, fun m hm => ?_⟩
    · simp [laneOf_mergeLanes, hi]
    · have : n.val ≠ m.val := fun e => hm (Fin.ext e.symm)
      simp [this]
  · rw [astat_landOne hw (hd ▸ hn), astat_landOne hv hn]

end Sys2Proof.Claims
end

section Settled

open Sys2Proof Sys2Proof.Machine Sys2Proof.Claims

/-- Settles O55: results of one destination that no load of an interlocked image holds up land one after the other in the order of their
cycles, each over what the ones before it left. -/
theorem laterLandingRemains : Obligations.LaterLandingRemains := by
  unfold Obligations.LaterLandingRemains
  intro c f g v w t hfl hv hw hlf hlg hd
  have land := landDue_eq (c := c) (d := g.dst) (by simp [hfl, hlf, hlg]) (by simp [hfl, hd]) t
  rw [hfl] at land
  have stays (h : Flight) {x : VReg} (hx : h.value = some x) (hn : t < h.due ∨ h.back ≠ 0) : h.lands t = false := by
    rw [← Bool.not_eq_true, lands_iff hx]; omega
  refine ⟨fun hf hg => ?_, fun hf hb hg => ?_, fun hf hg hbf hbg => ?_⟩
  · rw [land]
    simp only [List.filter_cons, stays f hv hf, stays g hw hg, List.filter_nil, Bool.not_false, if_true, Bool.false_eq_true, if_false]
    rw [← hfl]; rfl
  · have one : c.landDue t = Ctx.landOne { c with flight := [g] } f := by
      rw [land]
      simp [(lands_iff hv).2 ⟨hf, hb⟩, stays g hw (.inl hg), byDue, insDue]
    rw [one]
    refine ⟨flight_landOne, fun n hn h0 => ?_, fun n hn i hi => ?_⟩
    · rw [s_landOne hv hn h0]; simp
    · rw [v_landOne hv hn]
      have merged := laneOf_mergeLanes f.lanes c.v[n.val] v hi
      simpa [laneOf] using merged
  · have both : c.landDue t = (byDue [f, g]).foldl Ctx.landOne { c with flight := [] } := by
      rw [land]
      simp [(lands_iff hv).2 ⟨hf, hbf⟩, (lands_iff hw).2 ⟨hg, hbg⟩]
    rw [both, byDue_pair]
    by_cases order : f.due ≤ g.due
    · simp only [order, if_true, List.foldl_cons, List.foldl_nil]
      exact landOne_landOne hv hw hd
    · simp only [order, if_false, List.foldl_cons, List.foldl_nil]
      obtain ⟨fl, s, v, astat⟩ := landOne_landOne (c := { c with flight := [] }) hw hv hd.symm
      rw [hd]
      exact ⟨fl, s, v, fun hn => by rw [astat hn, BitVec.or_assoc, BitVec.or_assoc, BitVec.or_comm (BitVec.setWidth 32 f.flags)]⟩

end Settled

section
/-! SUPPORT. The outcomes of an operation by what its tests say, and the tests of global operations (R48, R56, R60, R275, R281, R285,
R290). -/

namespace Sys2Proof.Claims

open Sys2Proof Sys2Proof.Machine

variable {s : State} {g : BitVec 4} {p : Pre} {eff : State}

/-! ## Outcomes -/

theorem next_gated (hg : s.me.guard0 g = true) (hp : p = .go) : (.next (s.gated g p eff) : Out) = .next eff := by
  rw [hp, gated_go hg]

theorem stalls_gated (hg : s.me.guard0 g = true) (hp : p = .stall) : Stalls s (.next (s.gated g p eff)) := by
  rw [Stalls, hp, gated_stall hg]

theorem traps_gated {cls cause part faddr} (hg : s.me.guard0 g = true) (hp : p = .trap ⟨cls, cause, part, faddr⟩) :
    Traps s (.next (s.gated g p eff)) cls cause part faddr := by
  rw [Traps, hp, gated_trap hg]

/-! ## Tests -/

theorem bufPre_full (h : ¬s.bufUsed s.issue.x < 64) : bufPre s = .stall := if_pos (Nat.not_lt.1 h)

theorem bufPre_room (h : s.bufUsed s.issue.x < 64) : bufPre s = .go := if_neg (Nat.not_le.2 h)

/-- A MEM trap at the address that a register holds. -/
theorem memTrap_toNat (cause : BitVec 8) (w : Word) : memTrap cause w.toNat = .trap ⟨0x02, cause, 4, w⟩ := by
  rw [memTrap, BitVec.ofNat_toNat, BitVec.setWidth_eq]; rfl

/-- The first test of an operation of the hub: a landing-buffer entry when it returns a value (R60). -/
def roomPre (s : State) (ret : Bool) : Pre := if ret then bufPre s else .go

theorem roomPre_full {ret : Bool} (hr : ret = true) (h : ¬s.bufUsed s.issue.x < 64) : roomPre s ret = .stall := by
  rw [roomPre, if_pos hr, bufPre_full h]

theorem roomPre_room {ret : Bool} (h : ret = true → s.bufUsed s.issue.x < 64) : roomPre s ret = .go := by
  cases ret with
  | false => rfl
  | true => exact bufPre_room (h rfl)

section Tests

variable {a : BitVec 6} {n : Nat} {ret : Bool}

theorem globalPre_eq : globalPre s a n ret = match roomPre s ret with
    | .go => if (s.me.rs a).toNat % n ≠ 0 then memTrap mALIGN (s.me.rs a).toNat else .go
    | p => p := rfl

theorem globalPre_full (hr : ret = true) (h : ¬s.bufUsed s.issue.x < 64) : globalPre s a n ret = .stall := by
  rw [globalPre_eq, roomPre_full hr h]

theorem globalPre_align (h : ret = true → s.bufUsed s.issue.x < 64) (ha : (s.me.rs a).toNat % n ≠ 0) :
    globalPre s a n ret = .trap ⟨0x02, 0x03, 4, s.me.rs a⟩ := by
  rw [globalPre_eq, roomPre_room h]; exact (if_pos ha).trans (memTrap_toNat _ _)

theorem globalPre_go (h : ret = true → s.bufUsed s.issue.x < 64) (ha : (s.me.rs a).toNat % n = 0) : globalPre s a n ret = .go := by
  rw [globalPre_eq, roomPre_room h]; exact if_neg (not_not.2 ha)

theorem knotPre_eq : knotPre s a ret = match roomPre s ret with
    | .go => if 2 ^ 16 ≤ (s.me.rs a).toNat then memTrap mRANGE (s.me.rs a).toNat else .go
    | p => p := rfl

theorem knotPre_full (hr : ret = true) (h : ¬s.bufUsed s.issue.x < 64) : knotPre s a ret = .stall := by
  rw [knotPre_eq, roomPre_full hr h]

theorem knotPre_range (h : ret = true → s.bufUsed s.issue.x < 64) (ha : 2 ^ 16 ≤ (s.me.rs a).toNat) :
    knotPre s a ret = .trap ⟨0x02, 0x01, 4, s.me.rs a⟩ := by
  rw [knotPre_eq, roomPre_room h]; exact (if_pos ha).trans (memTrap_toNat _ _)

theorem knotPre_go (h : ret = true → s.bufUsed s.issue.x < 64) (ha : (s.me.rs a).toNat < 2 ^ 16) : knotPre s a ret = .go := by
  rw [knotPre_eq, roomPre_room h]; exact if_neg (Nat.not_le.2 ha)

end Tests

/-! ## Global operations under their guard -/

variable (hg : s.me.guard0 g = true)
include hg

/-- A value-returning operation on an address of n bytes: a stall without an entry, MEM ALIGN, or its effect (R60, R275). -/
theorem global_returning (a : BitVec 6) (n : Nat) (eff : State) :
    let o : Out := .next (s.gated g (globalPre s a n true) eff)
    (¬s.bufUsed s.issue.x < 64 → Stalls s o) ∧
    (s.bufUsed s.issue.x < 64 → (s.me.rs a).toNat % n ≠ 0 → Traps s o 0x02 0x03 4 (s.me.rs a)) ∧
    (s.bufUsed s.issue.x < 64 → (s.me.rs a).toNat % n = 0 → o = .next eff) :=
  ⟨fun h => stalls_gated hg (globalPre_full rfl h), fun h ha => traps_gated hg (globalPre_align (fun _ => h) ha),
    fun h ha => next_gated hg (globalPre_go (fun _ => h) ha)⟩

/-- One that returns nothing takes no entry (R280). -/
theorem global_silent (a : BitVec 6) (n : Nat) (eff : State) :
    let o : Out := .next (s.gated g (globalPre s a n false) eff)
    ((s.me.rs a).toNat % n ≠ 0 → Traps s o 0x02 0x03 4 (s.me.rs a)) ∧ ((s.me.rs a).toNat % n = 0 → o = .next eff) :=
  ⟨fun ha => traps_gated hg (globalPre_align nofun ha), fun ha => next_gated hg (globalPre_go nofun ha)⟩

/-- A knot operation: a stall without an entry where it returns a value, MEM RANGE, or its effect (R285). -/
theorem knot_gated (a : BitVec 6) (ret : Bool) (eff : State) :
    let o : Out := .next (s.gated g (knotPre s a ret) eff)
    (ret = true → ¬s.bufUsed s.issue.x < 64 → Stalls s o) ∧
    ((ret = true → s.bufUsed s.issue.x < 64) → 2 ^ 16 ≤ (s.me.rs a).toNat → Traps s o 0x02 0x01 4 (s.me.rs a)) ∧
    ((ret = true → s.bufUsed s.issue.x < 64) → (s.me.rs a).toNat < 2 ^ 16 → o = .next eff) :=
  ⟨fun hr h => stalls_gated hg (knotPre_full hr h), fun h ha => traps_gated hg (knotPre_range h ha),
    fun h ha => next_gated hg (knotPre_go h ha)⟩

end Sys2Proof.Claims
end

section Settled

open Sys2Proof Sys2Proof.Machine Sys2Proof.Claims

/-- Settles O24: an atomic, a pin and an unpin are value-returning operations on their address, a reduction is a silent one, and the tests
of a knot operation are those of its index. -/
theorem globalOperationsIssue : Obligations.GlobalOperationsIssue := by
  unfold Obligations.GlobalOperationsIssue
  intro s g d ra rb hg va room rel acq scope low dst far amo red knot
  have returns (n : Nat) (eff : State) := global_returning hg ra n eff
  have silent (n : Nat) (eff : State) := global_silent hg ra n eff
  have knots (ret : Bool) (eff : State) := knot_gated hg ra ret eff
  refine ⟨returns 4 _, returns 4 _, returns 4 _, returns 4 _, returns 4 _, returns 4 _, returns 4 _, returns 4 _, returns 8 _, returns 8 _,
    returns 8 _, returns 8 _, returns 8 _, returns 8 _, returns 8 _, returns 8 _, returns 4 _, returns 8 _, returns 4 _, returns 8 _,
    returns 4 _, silent 4 _, silent 8 _, silent 4 _, silent 4 _, silent 4 _, silent 4 _, silent 4 _, silent 8 _, knots false _,
    knots true _, knots true _, knots true _, returns 64 _, returns 64 _⟩

end Settled

section
/-! SUPPORT. The tests of SC operations, splices and registrations (R60, R137, R163, R275, R281, R290). -/

namespace Sys2Proof.Claims

open Sys2Proof Sys2Proof.Machine

variable {s : State} {g : BitVec 4}

/-! ## SC operations -/

/-- The address translates into a hawser window (R137). -/
def InHawser (s : State) (va : Nat) (w : Bool) : Prop :=
  ∃ pa a, s.xlate (s.issue.x.val / 16) (s.taskAsid s.me.task) va w = .ok pa a ∧ paHawser pa = true

section Sc

variable {a : BitVec 6} {n : Nat} {ret w : Bool}

theorem scPre_of_global {p : Pre} (h : globalPre s a n ret = p) (hp : p ≠ .go) : scPre s a n ret w = p := by
  rw [scPre, h]
  cases p with
  | go => exact absurd rfl hp
  | stall | trap => rfl

theorem scPre_wheel (h : globalPre s a n ret = .go) (hh : InHawser s (s.me.rs a).toNat w) :
    scPre s a n ret w = .trap ⟨0x02, 0x08, 4, s.me.rs a⟩ := by
  obtain ⟨pa, attr, hx, hw⟩ := hh
  have hx : s.xlate (ctxCore s.issue.x) (s.taskAsid s.myTask) (s.me.rs a).toNat w = .ok pa attr := hx
  simp only [scPre, h, hx, hw, if_true]
  exact memTrap_toNat _ _

theorem scPre_go (h : globalPre s a n ret = .go) (hh : ¬InHawser s (s.me.rs a).toNat w) : scPre s a n ret w = .go := by
  rw [scPre, h]
  dsimp only
  split
  · next pa attr hx => exact if_neg fun hw => hh ⟨pa, attr, hx, hw⟩
  · rfl

end Sc

/-- An SC operation: a stall without an entry where it returns a value, MEM ALIGN, MEM WHEEL in a hawser window, or its effect
(R60, R137, R275, R281). -/
theorem sc_gated (hg : s.me.guard0 g = true) (a : BitVec 6) (n : Nat) (ret w : Bool) (eff : State) :
    let o : Out := .next (s.gated g (scPre s a n ret w) eff)
    (ret = true → ¬s.bufUsed s.issue.x < 64 → Stalls s o) ∧
    ((ret = true → s.bufUsed s.issue.x < 64) →
      ((s.me.rs a).toNat % n ≠ 0 → Traps s o 0x02 0x03 4 (s.me.rs a)) ∧
      ((s.me.rs a).toNat % n = 0 → InHawser s (s.me.rs a).toNat w → Traps s o 0x02 0x08 4 (s.me.rs a)) ∧
      ((s.me.rs a).toNat % n = 0 → ¬InHawser s (s.me.rs a).toNat w → o = .next eff)) :=
  ⟨fun hr h => stalls_gated hg (scPre_of_global (globalPre_full hr h) nofun), fun h =>
    ⟨fun ha => traps_gated hg (scPre_of_global (globalPre_align h ha) nofun),
      fun ha hh => traps_gated hg (scPre_wheel (globalPre_go h ha) hh), fun ha hh => next_gated hg (scPre_go (globalPre_go h ha) hh)⟩⟩

/-! ## Buffers of splices -/

section Buffer

variable {t : Team} (ht : s.teamOf s.issue.x = some t) {w : Word} {n : Nat}

theorem myTeam_eq (ht : s.teamOf s.issue.x = some t) : s.myTeam = t := by rw [State.myTeam, ht]; rfl

theorem bufferPre_align (ha : w.toNat % 64 ≠ 0) : bufferPre s w.toNat n = .trap ⟨0x02, 0x03, 4, w⟩ := by
  rw [bufferPre, if_pos ha]; exact memTrap_toNat _ _

include ht

theorem bufferPre_range (ha : w.toNat % 64 = 0) (hr : t.spadSize < w.toNat + n) :
    bufferPre s w.toNat n = .trap ⟨0x02, 0x01, 4, w⟩ := by
  rw [bufferPre, myTeam_eq ht, if_neg (not_not.2 ha), if_pos hr]; exact memTrap_toNat _ _

theorem bufferPre_bight (ha : w.toNat % 64 = 0) (hr : w.toNat + n ≤ t.spadSize) (hm : s.bufMapped w.toNat n = true) :
    bufferPre s w.toNat n = .trap ⟨0x02, 0x06, 4, w⟩ := by
  rw [bufferPre, myTeam_eq ht, if_neg (not_not.2 ha), if_neg (Nat.not_lt.2 hr), if_pos hm]; exact memTrap_toNat _ _

theorem bufferPre_go (ha : w.toNat % 64 = 0) (hr : w.toNat + n ≤ t.spadSize) (hm : s.bufMapped w.toNat n = false) :
    bufferPre s w.toNat n = .go := by
  rw [bufferPre, myTeam_eq ht, if_neg (not_not.2 ha), if_neg (Nat.not_lt.2 hr), if_neg (by simp [hm])]

/-- A buffer that breaks R290 traps, where the tests of an operation come down to those of its buffer. -/
theorem buffer_traps (hg : s.me.guard0 g = true) {p : Pre} {ok : Prop} (hp : ok → p = bufferPre s w.toNat n) (eff : State) :
    let o : Out := .next (s.gated g p eff)
    (ok → w.toNat % 64 ≠ 0 → Traps s o 0x02 0x03 4 w) ∧
    (ok → w.toNat % 64 = 0 → t.spadSize < w.toNat + n → Traps s o 0x02 0x01 4 w) ∧
    (ok → w.toNat % 64 = 0 → w.toNat + n ≤ t.spadSize → s.bufMapped w.toNat n = true → Traps s o 0x02 0x06 4 w) :=
  ⟨fun h ha => traps_gated hg ((hp h).trans (bufferPre_align ha)), fun h ha hr => traps_gated hg ((hp h).trans (bufferPre_range ht ha hr)),
    fun h ha hr hm => traps_gated hg ((hp h).trans (bufferPre_bight ht ha hr hm))⟩

end Buffer

theorem splPre_of_global {a b : BitVec 6} {n : Nat} {ret : Bool} {p : Pre} (h : globalPre s a 64 ret = p) (hp : p ≠ .go) :
    splPre s a b n ret = p := by
  rw [splPre, h]
  cases p with
  | go => exact absurd rfl hp
  | stall | trap => rfl

theorem splPre_buffer {a b : BitVec 6} {n : Nat} {ret : Bool} (h : ret = true → s.bufUsed s.issue.x < 64)
    (ha : (s.me.rs a).toNat % 64 = 0) : splPre s a b n ret = bufferPre s (s.me.rs b).toNat n := by
  rw [splPre, globalPre_go h ha]

theorem splInstPre_full {a : BitVec 6} (h : ¬s.bufUsed s.issue.x < 64) : splInstPre s a = .stall := by
  rw [splInstPre, bufPre_full h]

theorem splInstPre_buffer {a : BitVec 6} (h : s.bufUsed s.issue.x < 64) : splInstPre s a = bufferPre s (s.me.rs a).toNat 64 := by
  rw [splInstPre, bufPre_room h]

/-! ## Registrations -/

/-- The index and the reserved bits of a registration's operand (R163). -/
def GoodIndex (b : Nat) : Prop := b % 32 ≠ 0 ∧ b / 32 % 8 = 0 ∧ b / 2 ^ 16 = 0

section Vreg

variable {a b : BitVec 6}

theorem bitsOf_zero (v n : Nat) : bitsOf v 0 n = v % 2 ^ n := by rw [bitsOf, Nat.pow_zero, Nat.div_one]

theorem badIndex_iff (w : Word) :
    (bitsOf w.toNat 0 5 = 0 || bitsOf w.toNat 5 3 ≠ 0 || bitsOf w.toNat 16 48 ≠ 0) = true ↔ ¬GoodIndex w.toNat := by
  have := w.isLt
  simp only [Bool.or_eq_true, decide_eq_true_eq]
  unfold GoodIndex bitsOf
  omega

theorem vregPre_index (h : ¬GoodIndex (s.me.rs b).toNat) :
    vregPre s a b = .trap ⟨0x07, 0x04, 4, BitVec.ofNat 64 ((s.me.rs b).toNat % 32)⟩ := by
  rw [vregPre, if_pos ((badIndex_iff _).2 h), bitsOf_zero]; rfl

theorem vregPre_vtab (h : GoodIndex (s.me.rs b).toNat) (hv : s.myVtab = 0) :
    vregPre s a b = .trap ⟨0x07, 0x01, 4, BitVec.ofNat 64 ((s.me.rs b).toNat % 32)⟩ := by
  rw [vregPre, if_neg fun e => (badIndex_iff _).1 e h, if_pos hv, bitsOf_zero]; rfl

theorem vregPre_entry (h : GoodIndex (s.me.rs b).toNat) (hv : s.myVtab ≠ 0) (ha : (s.me.rs a).toNat % 64 ≠ 0) :
    vregPre s a b = .trap ⟨0x07, 0x02, 4, BitVec.ofNat 64 ((s.me.rs b).toNat % 32)⟩ := by
  rw [vregPre, if_neg fun e => (badIndex_iff _).1 e h, if_neg hv, bitsOf_zero (s.me.rs b).toNat, bitsOf_zero]
  exact if_pos ha

theorem vregPre_go (h : GoodIndex (s.me.rs b).toNat) (hv : s.myVtab ≠ 0) (ha : (s.me.rs a).toNat % 64 = 0) :
    vregPre s a b = .go := by
  rw [vregPre, if_neg fun e => (badIndex_iff _).1 e h, if_neg hv, bitsOf_zero (s.me.rs a).toNat]
  exact if_neg (not_not.2 ha)

end Vreg

end Sys2Proof.Claims
end

section Settled

open Sys2Proof Sys2Proof.Machine Sys2Proof.Claims

/-- Settles O25: an SC operation is tested for its entry, its address and its window; a splice for its entry, its line and its buffer; a
registration for its index, its table and its entry. -/
theorem scAndSpliceIssue : Obligations.ScAndSpliceIssue := by
  unfold Obligations.ScAndSpliceIssue
  refine ⟨fun s g d ra rb hg => ?_, fun s g d ra rb t hg ht => ?_⟩
  · have sc (n : Nat) (ret w : Bool) (eff : State) := sc_gated hg ra n ret w eff
    exact ⟨sc 4 true false _, sc 8 true false _, sc 4 false true _, sc 8 false true _, sc 4 true true _, sc 8 true true _,
      sc 8 true true _, sc 8 true true _⟩
  · intro va b rel acq dst num room buffer badBuffer j goodIndex
    have team : s.myTeam = t := myTeam_eq ht
    have line (ret : Bool) (n : Nat) (eff : State) (hr : ret = true → room) (ha : va % 64 ≠ 0) :
        Traps s (.next (s.gated g (splPre s ra rb n ret) eff)) 0x02 0x03 4 (s.me.rs ra) :=
      traps_gated hg (splPre_of_global (globalPre_align hr ha) nofun)
    refine ⟨fun hr ha hb => ?_, fun ha hb => ?_, fun hr => ?_, fun hr => line true 128 _ fun _ => hr, line false 64 _ nofun,
      buffer_traps ht hg (fun h => splPre_buffer (fun _ => h.1) h.2) _, buffer_traps ht hg (fun h => splPre_buffer (ret := false) nofun h) _,
      buffer_traps ht hg splInstPre_buffer _, fun hr => ?_, fun hr hb => ?_, fun h => ?_, fun h hv => ?_, fun h hv ha => ?_, fun h hv ha => ?_⟩
    · obtain ⟨hb, hs, hm⟩ := hb
      refine (next_gated hg ((splPre_buffer (fun _ => hr) ha).trans (bufferPre_go ht hb hs hm))).trans ?_
      rw [team]; rfl
    · obtain ⟨hb, hs, hm⟩ := hb
      exact next_gated hg ((splPre_buffer (ret := false) nofun ha).trans (bufferPre_go ht hb hs hm))
    · exact ⟨stalls_gated hg (splPre_of_global (globalPre_full rfl hr) nofun), stalls_gated hg (bufPre_full hr),
        stalls_gated hg (splInstPre_full hr)⟩
    · exact next_gated hg (bufPre_room hr)
    · obtain ⟨hb, hs, hm⟩ := hb
      exact next_gated hg ((splInstPre_buffer hr).trans (bufferPre_go ht hb hs hm))
    · exact traps_gated hg (vregPre_index h)
    · exact traps_gated hg (vregPre_vtab h hv)
    · exact traps_gated hg (vregPre_entry h hv ha)
    · refine (next_gated hg (vregPre_go h hv ha)).trans ?_
      rw [bitsOf_zero]; rfl

end Settled

section
/-! SUPPORT. The state after a global operation's issue, the energy query's values, and what the read of a variant entry changes
(R126, R128, R130, R132, R136, R155, R158, R164, R274, R286). -/

namespace Sys2Proof.Claims

open Sys2Proof Sys2Proof.Machine

variable {s t u : State} {g : BitVec 4} {d : BitVec 6}

/-! ## Issue of a global operation -/

/-- The fences of the issuing context after a drain that a release asks for (R130, R132). -/
def drainedFence (s : State) (rel : Bool) (scope : BitVec 2) : List Nat :=
  if rel then s.me.fence.filter (s.outstanding s.issue.x) ++ s.drainSet s.issue.x scope else s.me.fence

/-- A context with one more result, the value of operation id, due at a cycle (R60). -/
def withHub (id due : Nat) (d : Dest) (c : Ctx) : Ctx :=
  { c with flight := c.flight ++ [{ flightOf due d allLanes 0 0 c.pc with value := none, buf := true, src := .hub id }] }

/-- The results of the issuing context with the one that a value-returning operation posts (R60). -/
def hubFlights (s : State) (dst : Option (Dest × Nat)) : List Flight :=
  match dst with
  | some (d, lat) => (withHub s.nextOp (s.issue.cycle + lat) d s.me).flight
  | none => s.me.flight

/-- The issuing context after the issue of a global operation (R132, R136). -/
def issuedCtx (s : State) (isSc rel acq : Bool) (scope : BitVec 2) (dst : Option (Dest × Nat)) : Ctx :=
  { s.me with
    flight := hubFlights s dst
    fence := if !isSc && acq then drainedFence s rel scope ++ [s.nextOp] else drainedFence s rel scope
    scFence := if isSc then s.me.scFence.filter (s.outstanding s.issue.x) ++ [s.nextOp] else s.me.scFence }

/-- The operation that an issue adds (R132). -/
def issuedOp (s : State) (kind : GKind) (va n : Nat) (rel acq : Bool) (scope : BitVec 2) : GOp :=
  { id := s.nextOp, x := s.issue.x, core := s.issue.x.val / 16, task := s.me.task, asid := s.taskAsid s.me.task, kind := kind, va := va
    after := s.opAfter va n rel scope, acq := acq, scope := scope, orig := s.me.pc, fid := none, perm := false, eng := false }

/-- u is s with another value of the issuing context, a further operation and the next number. -/
structure Issued (s u : State) (c : Ctx) (op : GOp) : Prop where
  rest : { u with ctxs := s.ctxs } = { s with nextOp := s.nextOp + 1, ops := s.ops ++ [op] }
  me : u.ctx s.issue.x = c
  others : ∀ y, y ≠ s.issue.x → u.ctx y = s.ctx y

theorem Issued.modCtx {c : Ctx} {op : GOp} (h : Issued s u c op) (f : Ctx → Ctx) : Issued s (u.modCtx s.issue.x f) (f c) op :=
  ⟨h.rest, by rw [State.modCtx_eq, State.setCtx_ctx_same, h.me],
    fun y hy => (State.setCtx_ctx_ne _ _ hy).trans (h.others y hy)⟩

/-- The operation stands among those that wait to perform, after the drain of a release (R132). -/
def opAdded (s : State) (kind : GKind) (va n : Nat) (rel acq : Bool) (scope : BitVec 2) : State :=
  { (if rel then s.drain s.issue.x scope else s) with
    nextOp := s.nextOp + 1, ops := s.ops ++ [issuedOp s kind va n rel acq scope] }

/-- The result of a value-returning operation with number id is in flight (R60). -/
def resultAdded (u : State) (id : Nat) (dst : Option (Dest × Nat)) : State :=
  match dst with
  | some (d, lat) => u.hubFlight d lat true (.hub id)
  | none => u

theorem Issued.me_eq {c : Ctx} {op : GOp} (h : Issued s u c op) : u.me = c := by
  have issue : u.issue = s.issue := (congrArg State.issue h.rest :)
  rw [State.me, issue, h.me]

theorem issueOp_eq (kind : GKind) (va n : Nat) (rel acq : Bool) (scope : BitVec 2) (dst : Option (Dest × Nat)) :
    s.issueOp kind va n rel acq scope dst =
      let u := resultAdded (opAdded s kind va n rel acq scope) s.nextOp dst
      if kind.isSc then u.modCtx s.issue.x (fun c => { c with scFence := c.scFence.filter (s.outstanding s.issue.x) ++ [s.nextOp] })
      else if acq then u.modCtx s.issue.x (fun c => { c with fence := c.fence ++ [s.nextOp] }) else u := by
  cases rel with
  | false => rfl
  | true => rfl

theorem opAdded_issued (kind : GKind) (va n : Nat) (rel acq : Bool) (scope : BitVec 2) :
    Issued s (opAdded s kind va n rel acq scope) { s.me with fence := drainedFence s rel scope }
      (issuedOp s kind va n rel acq scope) := by
  cases rel with
  | false => exact ⟨rfl, rfl, fun _ _ => rfl⟩
  | true => exact ⟨rfl, State.setCtx_ctx_same _ _ _, fun y hy => State.setCtx_ctx_ne s _ hy⟩

theorem resultAdded_issued (kind : GKind) (va n : Nat) (rel acq : Bool) (scope : BitVec 2) (dst : Option (Dest × Nat)) :
    Issued s (resultAdded (opAdded s kind va n rel acq scope) s.nextOp dst)
      { s.me with flight := hubFlights s dst, fence := drainedFence s rel scope } (issuedOp s kind va n rel acq scope) := by
  have added := opAdded_issued (s := s) kind va n rel acq scope
  match dst, rel with
  | none, _ => exact added
  | some (d, lat), false => exact added.modCtx (withHub s.nextOp (s.issue.cycle + lat) d)
  | some (d, lat), true => exact added.modCtx (withHub s.nextOp (s.issue.cycle + lat) d)

theorem issueOp_issued (kind : GKind) (va n : Nat) (rel acq : Bool) (scope : BitVec 2) (dst : Option (Dest × Nat)) :
    Issued s (s.issueOp kind va n rel acq scope dst) (issuedCtx s kind.isSc rel acq scope dst)
      (issuedOp s kind va n rel acq scope) := by
  have sent := resultAdded_issued (s := s) kind va n rel acq scope dst
  rw [issueOp_eq]
  cases kind.isSc with
  | true => exact sent.modCtx (fun c => { c with scFence := c.scFence.filter (s.outstanding s.issue.x) ++ [s.nextOp] })
  | false =>
    cases acq with
    | true => exact sent.modCtx (fun c => { c with fence := c.fence ++ [s.nextOp] })
    | false => exact sent

/-! ## Energy queries -/

theorem nrgQ_reads (hg : s.me.guard0 g = true) (sel : BitVec 8) {w : Word} (hw : nrgValue s s.issue.x sel.toNat = w) :
    (64 ≤ s.bufUsed s.issue.x → Stalls s (exec (.nrgQ g d sel) s)) ∧
    (s.bufUsed s.issue.x < 64 → exec (.nrgQ g d sel) s = .next (s.setCtx s.issue.x { s.me with flight := s.me.flight ++
      [{ flightOf (s.issue.cycle + 1) (if d = 0 then .none else .s ⟨d.toNat, d.isLt⟩) allLanes (w.setWidth 1024) 0 s.me.pc with
         buf := true }] })) := by
  subst hw
  exact ⟨fun h => stalls_gated hg (bufPre_full (Nat.not_lt.2 h)), fun h => next_gated hg (bufPre_room h)⟩

/-! ## Variant requests -/

/-- A read at its home that the accounts of task i pay: of the fields that this names, those accounts alone changed (R141, R155). -/
structure PaidBy (i : Nat) (s t : State) : Prop where
  same : (t.ctxs, t.cores, t.dram, t.hostMem, t.ops, t.owners, t.errs) = (s.ctxs, s.cores, s.dram, s.hostMem, s.ops, s.owners, s.errs)
  others : ∀ k, k ≠ i → t.task? k = s.task? k
  own : ∀ k, s.task? i = some k → ∃ n m, t.task? i = some { k with joule := n, debits := m }

section Paid

variable {i : Nat}

theorem PaidBy.of_tasks (ht : t.tasks = s.tasks := by rfl)
    (h : (t.ctxs, t.cores, t.dram, t.hostMem, t.ops, t.owners, t.errs) =
      (s.ctxs, s.cores, s.dram, s.hostMem, s.ops, s.owners, s.errs) := by rfl) : PaidBy i s t :=
  ⟨h, fun k _ => by simp only [State.task?, ht], fun k hk => ⟨k.joule, k.debits, by simp only [State.task?, ht]; exact hk⟩⟩

theorem PaidBy.trans (h : PaidBy i s t) (k : PaidBy i t u) : PaidBy i s u :=
  ⟨k.same.trans h.same, fun j hj => (k.others j hj).trans (h.others j hj), fun x hx =>
    have ⟨_, _, hx⟩ := h.own x hx
    have ⟨n, m, hx⟩ := k.own _ hx
    ⟨n, m, hx⟩⟩

theorem PaidBy.ite {c : Prop} [Decidable c] (ht : PaidBy i s t) (hu : PaidBy i s u) : PaidBy i s (if c then t else u) := by
  split
  · exact ht
  · exact hu

theorem PaidBy.memDebit (island : Nat) : PaidBy i s (s.memDebit island (some i)) :=
  ⟨rfl, fun _ hk => task?_modTask_ne hk fun _ => rfl, fun _ hk => ⟨_, _, task?_modTask_some hk fun _ => rfl⟩⟩

theorem PaidBy.memDebit_none (island : Nat) : PaidBy i s (s.memDebit island none) := .of_tasks

theorem PaidBy.cacheIn (core : Nat) (asid : BitVec 16) (va : Nat) : PaidBy i s (s.cacheIn core asid va) := by
  simp only [State.cacheIn]
  split
  · split
    · exact .of_tasks
    · exact .of_tasks
  · exact .of_tasks

theorem PaidBy.walked (ho : s.owners = []) (he : s.errs = []) (core : Nat) (asid : BitVec 16) (va : Nat) :
    PaidBy i s (s.walked core asid va) := by
  have ro := ReadOnly.cacheIn (s := s) core asid va
  unfold State.walked
  rw [recallTables_of_nil (ro.owners.trans ho) (ro.errs.trans he)]
  exact .ite (.cacheIn core asid va) (.cacheIn core asid va)

theorem PaidBy.evictFor (slice : Nat) : PaidBy i s (s.evictFor slice) := by
  unfold State.evictFor
  have evicted : ∀ o : Option LineTs, PaidBy i s (match o with
      | some v => ({ s with freeCtr := s.freeCtr + 1 } : State).evictLine v
      | none => { s with freeCtr := s.freeCtr + 1 }) := fun o => by cases o <;> exact .of_tasks
  exact .ite ((evicted _).trans (.memDebit_none _)) (evicted _)

theorem PaidBy.markStream (a : Attr) (line : Nat) : PaidBy i s (s.markStream a line) := .ite .of_tasks .of_tasks

theorem PaidBy.dramAccess (a : Attr) (pa island : Nat) : PaidBy i s (s.dramAccess a pa island (some i)) := by
  unfold State.dramAccess
  have streamed : PaidBy i s (State.markStream { s with freeCtr := s.freeCtr + 1 } a (pa / 64)) :=
    PaidBy.trans (.of_tasks) (.markStream a (pa / 64))
  exact .ite .of_tasks (.ite (.memDebit _) (.ite ((streamed.trans (.memDebit _)).trans (.evictFor _)) streamed))

theorem PaidBy.readHome (ho : s.owners = []) (he : s.errs = []) (core : Nat) (a : Attr) (pa n : Nat) :
    PaidBy i s (s.readHome (whoCore core i) a pa n).2 := by
  simp only [State.readHome, recallOwners_of_nil ho he]
  exact .ite (.dramAccess _ _ _) .of_tasks

theorem PaidBy.vtabRead (ho : s.owners = []) (he : s.errs = []) (x : CtxNo) (vtab j : Nat) :
    PaidBy (s.ctx x).task s (s.vtabRead x vtab j) := by
  dsimp only [State.vtabRead]
  split
  · have walk := PaidBy.walked (i := (s.ctx x).task) ho he (ctxCore x) (s.taskAsid (s.ctx x).task) (vtab + 16 * j)
    have same := walk.same
    simp only [Prod.mk.injEq] at same
    obtain ⟨-, -, -, -, -, owners, errs⟩ := same
    exact walk.trans (.readHome (owners.trans ho) (errs.trans he) _ _ _ _)
  · exact .of_tasks

end Paid

section Switch

variable {ra : BitVec 6}

theorem vswPre_index (h : (s.me.rs ra).toNat = 0 ∨ 31 < (s.me.rs ra).toNat) : vswPre s ra = .trap ⟨0x07, 0x04, 4, s.me.rs ra⟩ :=
  if_pos (by simpa using h)

/-- The entry that s[ra] names is empty, or there is no table (R164, log 98). -/
def NoVariant (s : State) (ra : BitVec 6) : Prop :=
  s.myVtab = 0 ∨ (s.vtabEntry (s.issue.x.val / 16) (s.taskAsid s.me.task) s.myVtab (s.me.rs ra).toNat).1 = 0

theorem vswPre_of_index (h : 1 ≤ (s.me.rs ra).toNat) (h' : (s.me.rs ra).toNat ≤ 31) : vswPre s ra =
    if s.myVtab = 0 || (s.vtabEntry (ctxCore s.issue.x) (s.taskAsid s.me.task) s.myVtab (s.me.rs ra).toNat).1 = 0 then
      nrgTrap 0x03 (s.me.rs ra) else .go :=
  if_neg (by simp; omega)

theorem vswPre_empty (h : 1 ≤ (s.me.rs ra).toNat) (h' : (s.me.rs ra).toNat ≤ 31) (he : NoVariant s ra) :
    vswPre s ra = .trap ⟨0x07, 0x03, 4, s.me.rs ra⟩ :=
  (vswPre_of_index h h').trans (if_pos (by simp only [Bool.or_eq_true, decide_eq_true_eq]; exact he))

theorem vswPre_go (h : 1 ≤ (s.me.rs ra).toNat) (h' : (s.me.rs ra).toNat ≤ 31) (he : ¬NoVariant s ra) : vswPre s ra = .go :=
  (vswPre_of_index h h').trans (if_neg (by simp only [Bool.or_eq_true, decide_eq_true_eq]; exact he))

end Switch

end Sys2Proof.Claims
end

section Settled

open Sys2Proof Sys2Proof.Machine Sys2Proof.Claims

/-- Settles O26: an issue adds one operation and changes its own context alone; a query reads its selector's value; a switch request reads
its entry at the home, which the task's accounts pay, and then stands on the task. -/
theorem globalIssueAndEnergyQueries : Obligations.GlobalIssueAndEnergyQueries := by
  unfold Obligations.GlobalIssueAndEnergyQueries
  refine ⟨fun s kind va n rel acq scope dst => ?_, fun s g d ra hg => ?_⟩
  · intro x t
    have issued := issueOp_issued (s := s) kind va n rel acq scope dst
    have me : t.me = issuedCtx s kind.isSc rel acq scope dst := issued.me_eq
    obtain ⟨rest, -, others⟩ := issued
    refine ⟨⟨issuedOp s kind va n rel acq scope, (congrArg State.ops rest :), rfl, rfl, rfl, rfl, rfl, rfl, rfl, rfl, rfl,
        fun id hid ho => ?_, fun id hid => ?_, fun hr id hid => ?_⟩,
      (congrArg State.nextOp rest :), (congrArg State.cores rest :), (congrArg State.dram rest :), (congrArg State.hostMem rest :),
      others, ?_, ?_, ?_, ?_, ?_⟩
    · exact List.mem_append_left _ (List.mem_append_left _ (List.mem_filter.2 ⟨hid, ho⟩))
    · exact List.mem_append_left _ (List.mem_append_right _ hid)
    · exact List.mem_append_right _ (by rw [if_pos hr]; exact hid)
    · rw [me]; rfl
    · rintro rfl
      rw [me]; rfl
    · rintro d lat rfl
      exact ⟨_, by rw [me]; rfl, rfl, rfl, rfl, rfl, rfl⟩
    · intro hs
      rw [me]
      exact ⟨if_neg (by simp [hs]), fun ha => by simp [issuedCtx, hs, ha]⟩
    · intro hs
      rw [me]
      simp [issuedCtx, hs]
  · refine ⟨nrgQ_reads hg 0 rfl, nrgQ_reads hg 1 rfl, nrgQ_reads hg 2 rfl, nrgQ_reads hg 4 rfl, nrgQ_reads hg 5 rfl,
      nrgQ_reads hg 6 rfl, nrgQ_reads hg 7 rfl,
      fun t ht => ?_,
      fun h h' he => ?_,
      fun h h' he => traps_gated hg (vswPre_empty h h' he), fun h => traps_gated hg (vswPre_index h)⟩
    · have ht : s.task? (s.ctx s.issue.x).task = some t := ht
      have credit {au : Nat} (h : t.credit.find? (fun p => p.1 = s.issue.x.val / 16) = some (s.issue.x.val / 16, au)) :
          t.creditOn (ctxCore s.issue.x) = au :=
        congrArg (fun o : Option (Nat × Nat) => (o.map Prod.snd).getD 0) h
      exact ⟨nrgQ_reads hg 3 (by simp [nrgValue, ht]), fun au hau => nrgQ_reads hg 8 (by simp [nrgValue, ht, credit hau]),
        nrgQ_reads hg 11 (by simp [nrgValue, ht]), nrgQ_reads hg 9 (by simp [nrgValue, ht]), nrgQ_reads hg 10 (by simp [nrgValue, ht])⟩
    · refine ⟨_, next_gated hg (vswPre_go h h' he), fun ho hr => ?_⟩
      have paid := PaidBy.vtabRead ho hr s.issue.x s.myVtab (s.me.rs ra).toNat
      have same := paid.same
      simp only [Prod.mk.injEq] at same
      obtain ⟨ctxs, cores, dram, hostMem, ops, -, -⟩ := same
      refine ⟨ctxs, cores, dram, hostMem, ops, fun i hi => ?_, fun t ht => ?_⟩
      · rw [task?_modTask_ne hi, paid.others i hi]
        exact fun _ => rfl
      · obtain ⟨n, m, own⟩ := paid.own t ht
        exact ⟨n, m, task?_modTask_some own fun _ => rfl⟩

end Settled

section
/-! SUPPORT. Room in the matrix engine's queue, the tests of its commands, and accumulator reads (R60, R221, R222, R229, R240). -/

namespace Sys2Proof.Claims

open Sys2Proof Sys2Proof.Machine

variable {s : State} {g : BitVec 4}

/-- The engine of the issuing context's core takes one more of its commands (R229, log 21). -/
def MtxRoom (s : State) : Prop :=
  (s.core (s.issue.x.val / 16)).mtx.cmds.length < 16 ∧ (s.core (s.issue.x.val / 16)).mtx.qcnt s.issue.x < 8

theorem full_iff : s.myMtx.full s.issue.x = true ↔ ¬MtxRoom s := by
  rw [Mtx.full, Bool.or_eq_true, decide_eq_true_eq, decide_eq_true_eq, MtxRoom, not_and_or, Nat.not_lt, Nat.not_lt]; rfl

theorem cmdPre_go (h : MtxRoom s) : cmdPre s = .go := if_neg (by rw [full_iff]; exact not_not.2 h)

theorem cmdPre_stall (h : ¬MtxRoom s) : cmdPre s = .stall := if_pos (full_iff.2 h)

theorem mcallPre_room (h : MtxRoom s) (e : BitVec 6) :
    mcallPre s e = if (s.myMtx.entry e.toNat).v then .go else .trap ⟨tMTX, 0x01, 3, e.setWidth 64⟩ :=
  if_neg (by rw [full_iff]; exact not_not.2 h)

theorem mcallPre_stall (h : ¬MtxRoom s) (e : BitVec 6) : mcallPre s e = .stall := if_pos (full_iff.2 h)

theorem mcallPre_go {e : BitVec 6} (h : MtxRoom s) (hv : (s.myMtx.entry e.toNat).v = true) : mcallPre s e = .go :=
  (mcallPre_room h e).trans (if_pos hv)

theorem mcallPre_entry {e : BitVec 6} (h : MtxRoom s) (hv : (s.myMtx.entry e.toNat).v = false) :
    mcallPre s e = .trap ⟨0x08, 0x01, 3, e.setWidth 64⟩ :=
  (mcallPre_room h e).trans (if_neg (by rw [hv]; decide))

theorem mwaitPre_go (h : s.myMtx.qcnt s.issue.x = 0) : mwaitPre s = .go := if_neg (by omega)

theorem mwaitPre_stall (h : 0 < s.myMtx.qcnt s.issue.x) : mwaitPre s = .stall := if_pos h

theorem imm_eq (i : BitVec 18) : s.imm i = if i = 0x20000 then s.issue.limm else i.signExtend 64 := by
  have escape : i.toNat = 2 ^ (18 - 1) ↔ i = 0x20000 := ⟨fun h => BitVec.eq_of_toNat_eq h, fun h => by rw [h]; rfl⟩
  simp only [State.imm, immOf, escape]

/-! ## Accumulator reads -/

section Reads

variable {eff : State}

theorem bufGated_off (h : s.me.guard g = 0) : s.bufGated g eff = s := if_pos h

theorem bufGated_full (h : s.me.guard g ≠ 0) (hb : 64 ≤ s.bufUsed s.issue.x) :
    s.bufGated g eff = s.setCtx s.issue.x { s.me with st := .stalled } := by
  rw [State.bufGated, if_neg h, bufPre_full (Nat.not_lt.2 hb)]; rfl

theorem bufGated_room (h : s.me.guard g ≠ 0) (hb : s.bufUsed s.issue.x < 64) : s.bufGated g eff = eff := by
  rw [State.bufGated, if_neg h, bufPre_room hb]

/-- An accumulator read of a row, by what its guard and the landing buffer say. -/
theorem vacc_gated (d : BitVec 6) (tile row cb : Nat) :
    (s.me.guard g = 0 → (.next (s.bufGated g (s.postVacc g d tile row cb)) : Out) = .next s) ∧
    (s.me.guard g ≠ 0 → 64 ≤ s.bufUsed s.issue.x → Stalls s (.next (s.bufGated g (s.postVacc g d tile row cb)))) ∧
    (s.me.guard g ≠ 0 → s.bufUsed s.issue.x < 64 → (.next (s.bufGated g (s.postVacc g d tile row cb)) : Out) =
      .next (s.postVacc g d tile row cb)) :=
  ⟨fun h => congrArg _ (bufGated_off h), fun h hb => congrArg _ (bufGated_full h hb), fun h hb => congrArg _ (bufGated_room h hb)⟩

end Reads

end Sys2Proof.Claims
end

section Settled

open Sys2Proof Sys2Proof.Machine Sys2Proof.Claims

/-- Settles O17: a command's test is the room that the engine has, and an accumulator read takes a landing-buffer entry. -/
theorem matrixOperations : Obligations.MatrixOperations := by
  unfold Obligations.MatrixOperations
  refine ⟨fun s g e ra acc ft af bf fmt mask hg => ⟨fun room => ?_, fun full => ?_⟩, fun s g d ra n i hg => ?_,
    fun s g d acc row cb => ⟨vacc_gated d _ _ _, vacc_gated d _ _ _⟩⟩
  · have go (eff : State) : (.next (s.gated g (cmdPre s) eff) : Out) = .next eff := next_gated hg (cmdPre_go room)
    exact ⟨fun hv => next_gated hg (mcallPre_go room hv), fun hv => traps_gated hg (mcallPre_entry room hv), go _, go _, go _, go _, go _⟩
  · have stall (eff : State) : Stalls s (.next (s.gated g (cmdPre s) eff)) := stalls_gated hg (cmdPre_stall full)
    exact ⟨stalls_gated hg (mcallPre_stall full e), stall _, stall _, stall _, stall _, stall _⟩
  · refine ⟨postsS_opS hg _ _ _, postsS_opS hg _ _ _, postsD_opD hg _ _, ?_, fun hq => ?_, fun hq => stalls_gated hg (mwaitPre_stall hq)⟩
    · rw [← imm_eq]
      exact postsD_opD hg _ _
    · exact ⟨s.landS d (mstatOf s) 1, rfl, next_gated hg (mwaitPre_go hq)⟩

end Settled

section
/-! SUPPORT. The contexts of a partition, and the elements of a load at the memory port (R57, R60, R61, R97 to R100, R125, R222, R250). -/

namespace Sys2Proof.Claims

open Sys2Proof Sys2Proof.Machine

variable {s t u : State} {x : CtxNo}

/-! ## Maps and contexts -/

theorem SMap.put_put_self {α : Type} (m : SMap α) (n : Nat) (v : α) : SMap.put (SMap.put m n v) n v = SMap.put m n v := by
  induction m with
  | nil => simp [SMap.put]
  | cons e r ih =>
    obtain ⟨k, w⟩ := e
    simp only [SMap.put]
    split
    · simp [SMap.put]
    · next hlt =>
      split
      · simp [SMap.put]
      · next hne => simp [SMap.put, hlt, hne, ih]

theorem SMap.del_del {α : Type} (m : SMap α) (n : Nat) : SMap.del (SMap.del m n) n = SMap.del m n := by
  induction m with
  | nil => rfl
  | cons e r ih =>
    obtain ⟨k, w⟩ := e
    simp only [SMap.del]
    split
    · exact ih
    · next hne => simp [SMap.del, hne, ih]

theorem SMap.set_set_self {α : Type} [DecidableEq α] (d : α) (m : SMap α) (n : Nat) (v : α) :
    SMap.set d (SMap.set d m n v) n v = SMap.set d m n v := by
  unfold SMap.set
  split
  · exact SMap.del_del m n
  · exact SMap.put_put_self m n v

theorem setCtx_setCtx_self (c : Ctx) : (s.setCtx x c).setCtx x c = s.setCtx x c := by
  simp only [State.setCtx, SMap.set_set_self]

theorem val_ctxOf {n : Nat} (h : n < 2048) : (ctxOf n).val = n := Nat.mod_eq_of_lt h

theorem mem_partCtxs {q : Nat} (hq : q < 512) (y : CtxNo) : y ∈ partCtxs q ↔ y.val / 4 = q := by
  simp only [partCtxs, List.mem_map, List.mem_range]
  constructor
  · rintro ⟨k, hk, rfl⟩
    rw [val_ctxOf (by omega)]; omega
  · rintro rfl
    exact ⟨y.val % 4, Nat.mod_lt _ (by omega), Fin.ext (by rw [val_ctxOf (by omega)]; omega)⟩

theorem nodup_partCtxs {q : Nat} (hq : q < 512) : (partCtxs q).Nodup := by
  refine List.Nodup.map_on (fun a ha b hb h => ?_) List.nodup_range
  rw [List.mem_range] at ha hb
  have := congrArg Fin.val h
  rw [val_ctxOf (by omega), val_ctxOf (by omega)] at this
  omega

/-! ## Landing in a partition -/

/-- No result of a context is the W of a splice. -/
def NoW (c : Ctx) : Prop := ∀ f ∈ c.flight, ∀ op off, f.src ≠ .wout op off

theorem landOuts_of_noW (h : NoW (s.ctx x)) (t : Nat) : s.landOuts x t = s := by
  have stays : ∀ l : List Flight, (∀ f ∈ l, ∀ op off, f.src ≠ .wout op off) → l.foldl (fun s f =>
      match f.src with
      | .wout _ off => s.storeW x off f.value f.orig
      | _ => s) s = s := by
    intro l hl
    induction l with
    | nil => rfl
    | cons f r ih =>
      rw [List.foldl_cons]
      have here : (match f.src with
        | .wout _ off => s.storeW x off f.value f.orig
        | _ => s) = s := by
        split
        · next e => exact absurd e (hl f List.mem_cons_self _ _)
        · rfl
      rw [here]
      exact ih fun f hf => hl f (List.mem_cons_of_mem _ hf)
  exact stays _ fun f hf => h f (List.mem_filter.1 hf).1

theorem landCtx_of_noW (h : NoW (s.ctx x)) (t : Nat) : s.landCtx x t = s.setCtx x ((s.ctx x).landDue t) := by
  rw [State.landCtx, landOuts_of_noW h]; rfl

/-- u is s with what is due at t landed in the contexts of a list. -/
structure Landed (l : List CtxNo) (t : Nat) (s u : State) : Prop where
  rest : { u with ctxs := s.ctxs } = s
  ctx : ∀ y, u.ctx y = if y ∈ l then (s.ctx y).landDue t else s.ctx y

theorem landed_foldl {q : Nat} (l : List CtxNo) (hn : l.Nodup) (s : State) (hw : ∀ y ∈ l, NoW (s.ctx y)) :
    Landed l (s.part q).pcyc s (l.foldl (fun s x => if some x = none then s else s.landCtx x (s.part q).pcyc) s) := by
  induction l generalizing s with
  | nil => exact ⟨rfl, fun y => by simp⟩
  | cons x r ih =>
    obtain ⟨hx, hr⟩ := List.nodup_cons.1 hn
    rw [List.foldl_cons, if_neg (by simp), landCtx_of_noW (hw x List.mem_cons_self)]
    have keep : ∀ y ∈ r, (s.setCtx x ((s.ctx x).landDue (s.part q).pcyc)).ctx y = s.ctx y := fun y hy =>
      State.setCtx_ctx_ne _ _ fun e => hx (e ▸ hy)
    obtain ⟨rest, ctx⟩ := ih hr (s.setCtx x ((s.ctx x).landDue (s.part q).pcyc)) fun y hy => by
      rw [keep y hy]; exact hw y (List.mem_cons_of_mem _ hy)
    refine ⟨(congrArg (fun z : State => { z with ctxs := s.ctxs }) rest :), fun y => ?_⟩
    rw [ctx]
    by_cases hy : y ∈ r
    · rw [if_pos hy, if_pos (List.mem_cons_of_mem _ hy), keep y hy]; rfl
    · rw [if_neg hy]
      by_cases e : y = x
      · subst e
        rw [State.setCtx_ctx_same, if_pos List.mem_cons_self]
      · rw [State.setCtx_ctx_ne _ _ e, if_neg (by simp [e, hy])]

theorem landAll_landed {q : Nat} (hq : q < 512) (h : ∀ y : CtxNo, y.val / 4 = q → NoW (s.ctx y)) :
    Landed (partCtxs q) (s.part q).pcyc s (s.landAll q none) :=
  landed_foldl (partCtxs q) (nodup_partCtxs hq) s fun y hy => h y ((mem_partCtxs hq y).1 hy)

theorem late_iff (f : Flight) (t : Nat) : f.late t = true ↔ f.due ≤ t ∧ (f.value = none ∨ f.back ≠ 0) ∧ f.lock = false := by
  simp only [Flight.late, Flight.here, Bool.and_eq_true, Bool.not_eq_true', Bool.and_eq_false_iff, decide_eq_true_eq,
    decide_eq_false_iff_not, Option.isSome_eq_false_iff, Option.isNone_iff_eq_none, and_assoc, ne_eq]

theorem frozenAt_iff {q : Nat} (hq : q < 512) : s.frozenAt q = true ↔ ∃ y : CtxNo, y.val / 4 = q ∧
    ∃ f ∈ (s.ctx y).flight, f.due ≤ (s.part q).pcyc ∧ (f.value = none ∨ f.back ≠ 0) ∧ f.lock = false := by
  simp only [State.frozenAt, List.any_eq_true, mem_partCtxs hq, late_iff]

/-! ## The elements of a load -/

theorem findStore_of_nil (h : s.errs = []) (core : Nat) (vault : Bool) (off n : Nat) : s.findStore core vault off n = s :=
  findErrs_of_nil h _

/-- An element with the value that the store holds for it. -/
def loadedElem (s : State) (n : Nat) (e : Elem) : Elem :=
  { e with val := some (BitVec.ofNat 64 (s.rdLoc ⟨e.core, e.vault, e.off⟩ n)) }

/-- The element waits, and its words hold their data. -/
def Elem.Ready (s : State) (n : Nat) (e : Elem) : Prop := e.val = none ∧ s.allUsable ⟨e.core, e.vault, e.off⟩ n = true

theorem pollElem_ready (he : s.errs = []) {n : Nat} {e : Elem} (h : Elem.Ready s n e) (id : Nat) (orig : Word) :
    s.pollElem x id n orig e = (loadedElem s n e, s) := by
  obtain ⟨hv, hu⟩ := h
  have usable : (e.mappedWords n).all (s.usable e.core e.vault) = true :=
    List.all_eq_true.2 fun w hw => List.all_eq_true.1 hu w (List.mem_filter.1 hw).1
  simp only [State.pollElem, hv, usable, if_true, findStore_of_nil he]
  rfl

theorem pollElems_ready (he : s.errs = []) {n : Nat} {es : List Elem} (h : ∀ e ∈ es, Elem.Ready s n e) (id : Nat) (orig : Word) :
    s.pollElems x id n orig es = (es.map (loadedElem s n), s) := by
  induction es with
  | nil => rfl
  | cons e r ih =>
    have rest := ih fun e he => h e (List.mem_cons_of_mem _ he)
    simp only [State.pollElems, pollElem_ready he (h e List.mem_cons_self), rest, List.map_cons]

section Flights

variable {f : Flight} {n : Nat} {sext bcast : Bool} {es : List Elem} {after : List Nat}

theorem pollFlight_waits (hv : f.value = none) (hs : f.src = .mem n sext bcast es after)
    (h : 0 < f.hold ∨ s.clearOf x after = false) : s.pollFlight x f = (f, s) := by
  have wait : (decide (0 < f.hold) || !s.clearOf x after) = true := by simpa using h
  simp only [State.pollFlight, hv, hs, Option.isSome_none, Bool.false_eq_true, if_false, wait, if_true]

theorem pollFlight_loads (hv : f.value = none) (hs : f.src = .mem n sext bcast es []) (hh : f.hold = 0) (he : s.errs = [])
    (h : ∀ e ∈ es, Elem.Ready s n e) (hp : ∀ e ∈ es, s.poisoned ⟨e.core, e.vault, e.off⟩ = false) : s.pollFlight x f =
      ({ f with value := some (loadValue f.dst n sext bcast (es.map (loadedElem s n)))
                src := .mem n sext bcast (es.map (loadedElem s n)) [] }, s) := by
  have go : (decide (0 < f.hold) || !s.clearOf x []) = false := by simp [hh, State.clearOf]
  have all : (es.map (loadedElem s n)).all (fun e => e.val.isSome) = true := by simp [loadedElem]
  have clean : s.anyPoison (es.map (loadedElem s n)) = false := by
    rw [State.anyPoison, List.any_map, List.any_eq_false]
    exact fun e hm => by rw [Function.comp, loadedElem, hp e hm]; decide
  simp only [State.pollFlight, hv, hs, Option.isSome_none, Bool.false_eq_true, if_false, go, pollElems_ready he h, all, if_true, clean]

end Flights

/-! ## Values -/

theorem loadValue_scalar (d : Fin 64) (n : Nat) (sext bcast : Bool) (e : Elem) :
    loadValue (.s d) n sext bcast [loadedElem s n e] =
      (extendLoad n sext (BitVec.ofNat 64 (s.rdLoc ⟨e.core, e.vault, e.off⟩ n))).setWidth 1024 := rfl

/-- A value of n bytes is its own low n bytes. -/
theorem toNat_lowBytes {n v : Nat} (hn : n ≤ 8) (h : v < 2 ^ (8 * n)) : (BitVec.ofNat 64 v).toNat % 2 ^ (8 * n) = v := by
  have : v < 2 ^ 64 := lt_of_lt_of_le h (Nat.pow_le_pow_right (by omega) (by omega))
  rw [BitVec.toNat_ofNat, Nat.mod_eq_of_lt this, Nat.mod_eq_of_lt h]

theorem two_pow_bits {n : Nat} (hn : 0 < n) : 2 ^ (8 * n) = 2 * 2 ^ (8 * n - 1) := by
  rw [← pow_succ', Nat.sub_add_cancel (by omega)]

theorem bitOf_top {n v : Nat} (hn : 0 < n) (h : v < 2 ^ (8 * n)) : bitOf v (8 * n - 1) = true ↔ 2 ^ (8 * n - 1) ≤ v := by
  rw [two_pow_bits hn] at h
  have quot : v / 2 ^ (8 * n - 1) < 2 := Nat.div_lt_of_lt_mul (by rwa [Nat.mul_comm] at h)
  rw [bitOf, decide_eq_true_eq, Nat.mod_eq_of_lt quot, ← Nat.one_le_div_iff (by positivity)]
  omega

theorem extendLoad_eq {n v : Nat} (hn : 0 < n) (h8 : n ≤ 8) (h : v < 2 ^ (8 * n)) (sext : Bool) :
    extendLoad n sext (BitVec.ofNat 64 v) =
      if sext = true ∧ 2 ^ (8 * n - 1) ≤ v then BitVec.ofInt 64 ((v : Int) - 2 ^ (8 * n)) else BitVec.ofNat 64 v := by
  have low := toNat_lowBytes h8 h
  have lowInt : ((BitVec.ofNat 64 v).toNat % 2 ^ (8 * n) : Int) = v := mod_cast low
  simp only [extendLoad, low, lowInt, bitOf_top hn h, apply_ite (BitVec.ofInt 64), BitVec.ofInt_natCast]
  cases sext with
  | false => simp
  | true => simp

theorem signExtend_ofNat {n v : Nat} (hn : 0 < n) (h : v < 2 ^ (8 * n)) : (BitVec.ofNat (8 * n) v).signExtend 64 =
    if 2 ^ (8 * n - 1) ≤ v then BitVec.ofInt 64 ((v : Int) - 2 ^ (8 * n)) else BitVec.ofNat 64 v := by
  have half : 2 * v < 2 ^ (8 * n) ↔ ¬2 ^ (8 * n - 1) ≤ v := by rw [two_pow_bits hn]; omega
  rw [BitVec.signExtend, BitVec.toInt_eq_toNat_cond, BitVec.toNat_ofNat, Nat.mod_eq_of_lt h]
  simp only [half, ite_not, apply_ite (BitVec.ofInt 64), BitVec.ofInt_natCast, Nat.cast_pow, Nat.cast_ofNat]

theorem rdLoc_lt (l : Loc) (n : Nat) : s.rdLoc l n < 2 ^ (8 * n) := by
  rw [pow_mul]; exact rdN_lt _ _ _

theorem loadValue_extended (d : Fin 64) {n : Nat} (hn : 0 < n) (h8 : n ≤ 8) (sext bcast : Bool) (e : Elem) :
    loadValue (.s d) n sext bcast [loadedElem s n e] =
      (if sext then (BitVec.ofNat (8 * n) (s.rdLoc ⟨e.core, e.vault, e.off⟩ n)).signExtend 64
        else BitVec.ofNat 64 (s.rdLoc ⟨e.core, e.vault, e.off⟩ n)).setWidth 1024 := by
  rw [loadValue_scalar, extendLoad_eq hn h8 (rdLoc_lt _ _), signExtend_ofNat hn (rdLoc_lt _ _)]
  cases sext with
  | false => simp
  | true => simp

theorem loadValue_lane (d : Fin 64) {n i : Nat} (hi : i < 32) {bcast sext : Bool} {es : List Elem} {e : Elem}
    (h : es.find? (fun e => bcast || e.lane = i) = some e) :
    (loadValue (.v d) n sext bcast (es.map (loadedElem s n))).extractLsb' (32 * i) 32 =
      BitVec.ofNat 32 (s.rdLoc ⟨e.core, e.vault, e.off⟩ n) := by
  have found : (es.map (loadedElem s n)).find? (fun e => bcast || e.lane = i) = some (loadedElem s n e) := by
    rw [List.find?_map, Function.comp_def]
    exact congrArg _ h
  refine (laneOf_vregOf _ hi).trans ?_
  simp only [found, loadedElem, Option.getD_some]
  bv_omega

/-! ## Accumulator reads at their tile -/

section Tiles

variable {f : Flight} {tile row cb a t : Nat}

theorem vaccArrive_stays (hs : f.src = .vacc tile row cb a) (h : (s.mtx (ctxCore x)).busy tile = true ∨ t < a) :
    s.vaccArrive x t f = f := by
  rcases h with busy | early
  · simp [State.vaccArrive, hs, State.vaccRead, busy]
  · simp [State.vaccArrive, hs, early]

theorem vaccArrive_reads (hv : f.value = none) (hs : f.src = .vacc tile row cb a) (hb : (s.mtx (ctxCore x)).busy tile = false)
    (ha : a ≤ t) : s.vaccArrive x t f = { f with value := some ((s.mtx (ctxCore x)).vaccValue tile row cb) } := by
  simp [State.vaccArrive, hs, State.vaccRead, hv, hb, ha]

theorem vaccValue_lane {m : Mtx} (ht : tile < 8) (hr : row < 32) {i : Nat} (hi : i < 32) :
    (m.vaccValue tile row cb).extractLsb' (32 * i) 32 = SMap.get (0 : BitVec 32) m.acc (tile * 6144 + row * 192 + (32 * cb + i)) := by
  refine (laneOf_vregOf _ hi).trans ?_
  rw [Mtx.accAt, accKey, Nat.mod_eq_of_lt ht, Nat.mod_eq_of_lt hr]

end Tiles

/-! ## The arrival of one result's data -/

section Alone

variable {f g : Flight}

/-- f is the only result of a context, in flight or held. -/
structure Alone (c : Ctx) (f : Flight) : Prop where
  flight : c.flight = [f]
  held : c.held = []
  heldU : c.heldU = []

theorem Alone.self {c : Ctx} (h : Alone c f) : { c with flight := [f] } = c := by rw [← h.flight]

theorem Alone.poll (h : Alone (s.ctx x) f) (hp : s.pollFlight x f = (g, s)) :
    exec (.loadDataArrival x f.id) s = .next (s.setCtx x { s.ctx x with flight := [g] }) := by
  change execLoadDataArrival x f.id s = _
  simp only [execLoadDataArrival, h.flight, List.foldl_cons, List.foldl_nil, if_true, hp, List.nil_append, State.modCtx_eq,
    State.setCtx_ctx_same, h.held, h.heldU, setCtx_setCtx_self]

theorem Alone.vacc (h : Alone (s.ctx x) f) : exec (.vaccTileRead x f.id) s =
    .next (s.setCtx x { s.ctx x with flight := [s.vaccArrive x (s.part (ctxPartNo x)).pcyc f] }) := by
  change execVaccTileRead x f.id s = _
  simp only [execVaccTileRead, State.modCtx_eq, Ctx.mapFlights, h.flight, h.held, h.heldU, List.map_cons, List.map_nil, if_true]

end Alone

end Sys2Proof.Claims
end

section Settled

open Sys2Proof Sys2Proof.Machine Sys2Proof.Claims

/-- Settles O32: the contexts of a partition land one after another, and an arrival takes the bytes of each element that is usable, or the
tile's row and columns. -/
theorem resultArrival : Obligations.ResultArrival := by
  unfold Obligations.ResultArrival
  refine ⟨fun s q => ?_, fun s x f n sext bcast e d => ?_, fun s x f n bcast es d => ?_, fun s x f tile row cb a => ?_⟩
  · refine ⟨fun frozen => congrArg Host.Outcome.next (if_pos ((frozenAt_iff q.isLt).2 frozen)), fun h => ?_⟩
    have runs : ¬s.frozenAt q.val = true := by
      rw [frozenAt_iff q.isLt]
      rintro ⟨y, hy, f, hf, late⟩
      exact (h y hy f hf).1 late
    obtain ⟨rest, ctx⟩ := landAll_landed q.isLt fun y hy f hf => (h y hy f hf).2
    refine ⟨_, congrArg Host.Outcome.next (if_neg runs), rest, fun y => (ctx y).trans ?_⟩
    simp only [mem_partCtxs q.isLt]
  · intro c hf hh hu hv hs hd he
    have alone : Alone (s.ctx x) f := ⟨hf, hh, hu⟩
    refine ⟨fun hw => ?_, fun h0 hval hn usable clean => ?_⟩
    · rw [alone.poll (pollFlight_waits hv hs (.inl hw)), alone.self]
    · have ready : ∀ k ∈ [e], Elem.Ready s n k := by simpa using ⟨hval, usable⟩
      refine ⟨_, alone.poll (pollFlight_loads hv hs h0 he ready (by simpa using clean)), rfl, ?_, fun y hy => State.setCtx_ctx_ne _ _ hy⟩
      rw [State.setCtx_ctx_same, hd, List.map_singleton, loadValue_extended d (by omega) (by omega)]
      rfl
  · intro c hf hh hu hv hs hd hn hw he hes
    have alone : Alone (s.ctx x) f := ⟨hf, hh, hu⟩
    refine ⟨_, _, _, alone.poll (pollFlight_loads hv hs hw he (fun e he => ⟨(hes e he).1, (hes e he).2.1⟩) fun e he => (hes e he).2.2),
      rfl, State.setCtx_ctx_same _ _ _, rfl, rfl, fun y hy => State.setCtx_ctx_ne _ _ hy, fun i hi e hfind => ?_⟩
    rw [hd]
    exact loadValue_lane d hi hfind
  · intro c m hf hh hu hv hs ht hr
    have alone : Alone (s.ctx x) f := ⟨hf, hh, hu⟩
    refine ⟨fun stays => ?_, fun free arrived => 
      ⟨m.vaccValue tile row cb, ?_, fun i hi => vaccValue_lane ht hr hi⟩⟩
    · rw [alone.vacc, vaccArrive_stays (t := (s.part (ctxPartNo x)).pcyc) hs stays, alone.self]
    · rw [alone.vacc, vaccArrive_reads (t := (s.part (ctxPartNo x)).pcyc) hv hs free arrived]; rfl

end Settled

section
/-! SUPPORT. The tests of a load, what it posts, and when its data is back (R57, R60, R97 to R102, R249 to R251, R312). -/

namespace Sys2Proof.Claims

open Sys2Proof Sys2Proof.Machine

variable {s u : State} {x : CtxNo}

/-! ## Accesses that wait -/

/-- What an access must wait for is outstanding. -/
theorem outstanding_of_waitsFor {ls : List (Loc × Nat)} {id : Nat} (h : id ∈ s.waitsFor x ls) : s.outstanding x id = true := by
  simp only [State.waitsFor, List.mem_append, List.mem_map, List.mem_filter, Bool.and_eq_true] at h
  rcases h with (fence | ⟨-, h⟩) | (⟨f, ⟨hf, hp, -⟩, rfl⟩ | ⟨p, ⟨hp, -⟩, rfl⟩)
  · split at fence
    · exact absurd fence List.not_mem_nil
    · exact (List.mem_filter.1 fence).2
  · exact h
  · have : (s.ctx x).allFlights.any (fun g => g.pending && g.id = f.id) = true := List.any_eq_true.2 ⟨f, hf, by simp [hp]⟩
    simp [State.outstanding, this]
  · have : (s.ctx x).stq.any (fun q => q.id = p.id) = true := List.any_eq_true.2 ⟨p, hp, by simp⟩
    simp [State.outstanding, this]

theorem clearOf_waitsFor {ls : List (Loc × Nat)} (h : s.waitsFor x ls ≠ []) : s.clearOf x (s.waitsFor x ls) = false := by
  obtain ⟨id, hid⟩ := List.exists_mem_of_ne_nil _ h
  rw [State.clearOf, List.all_eq_false]
  exact ⟨id, hid, by rw [outstanding_of_waitsFor hid]; decide⟩

/-- A visit of the port changes the value and the source of a result and nothing else of it. -/
theorem pollFlight_keeps (f : Flight) :
    { (s.pollFlight x f).1 with value := f.value, src := f.src } = f := by
  simp only [State.pollFlight]
  split
  · rfl
  · split
    · split
      · rfl
      · split
        · split <;> rfl
        · rfl
    · split
      · rfl
      · split
        · rfl
        · split <;> rfl
    · rfl

/-! ## The next number -/

/-- u with its next number taken. -/
def numbered (u : State) : State := { u with nextOp := u.nextOp + 1 }

theorem clearOf_numbered (l : List Nat) : (numbered u).clearOf x l = u.clearOf x l := rfl
theorem poisoned_numbered (l : Loc) : (numbered u).poisoned l = u.poisoned l := rfl
theorem errs_numbered : (numbered u).errs = u.errs := rfl
theorem usable_numbered (c : Nat) (v : Bool) (w : Nat) : (numbered u).usable c v w = u.usable c v w := rfl
theorem loadedElem_numbered : loadedElem (numbered u) = loadedElem u := rfl

theorem allUsable_numbered (l : Loc) (n : Nat) : (numbered u).allUsable l n = u.allUsable l n := by
  simp only [State.allUsable, usable_numbered]

/-! ## What a load posts -/

section Load

variable (s) (vault : Bool) (n a k : Nat) (sext bcast : Bool) (dst : Dest) (lanes : BitVec 32) (es : List (Nat × Loc))

/-- The state that a load finds at the port: the queued stores of the partition's other contexts have performed (R99, R312). -/
def atPort : State := s.portFirst (es.map (fun e => (e.2, n))) false

/-- The elements of a load, none read yet. -/
def loadElems : List Elem := es.map (fun e => ⟨e.1, e.2.core, e.2.vault, e.2.off, none, [], !vault && decide (0x400000 ≤ a)⟩)

/-- The result of a load as it issues (R60, R249). -/
def loadFlight : Flight :=
  { id := (atPort s n es).nextOp, due := s.issue.cycle + s.loadLat vault a + k, dst := dst, lanes := lanes, value := none, flags := 0
    buf := true
    src := .mem n sext bcast (loadElems vault a es) ((atPort s n es).waitsFor s.issue.x (es.map (fun e => (e.2, n))))
    lock := s.me.compat && !vault, orig := s.me.pc
    back := (es.map (fun e => s.returnTime vault a e.2)).foldl Nat.max 0
    hold := if es.isEmpty then 0 else Config.loadHold (atPort s n es).nextOp % 4 }

variable {s vault n a k sext bcast dst lanes es}

theorem postLoad_posts : ∃ (g : Flight) (u : State), s.postLoad vault n a k sext bcast dst lanes es =
      u.setCtx s.issue.x { u.ctx s.issue.x with flight := (u.ctx s.issue.x).flight ++ [g] } ∧
    { g with value := none, src := (loadFlight s vault n a k sext bcast dst lanes es).src } =
      loadFlight s vault n a k sext bcast dst lanes es ∧
    ((loadFlight s vault n a k sext bcast dst lanes es).hold = 0 →
      (atPort s n es).waitsFor s.issue.x (es.map (fun e => (e.2, n))) = [] →
      (∀ e ∈ es, (atPort s n es).allUsable e.2 n = true ∧ (atPort s n es).poisoned e.2 = false) → (atPort s n es).errs = [] →
      u = numbered (atPort s n es) ∧
        g.value = some (loadValue dst n sext bcast ((loadElems vault a es).map (loadedElem (atPort s n es) n)))) ∧
    (0 < (loadFlight s vault n a k sext bcast dst lanes es).hold ∨
        (atPort s n es).waitsFor s.issue.x (es.map (fun e => (e.2, n))) ≠ [] →
      u = numbered (atPort s n es) ∧ g.value = none ∧ g.src = (loadFlight s vault n a k sext bcast dst lanes es).src) := by
  refine ⟨((numbered (atPort s n es)).pollFlight s.issue.x (loadFlight s vault n a k sext bcast dst lanes es)).1,
    ((numbered (atPort s n es)).pollFlight s.issue.x (loadFlight s vault n a k sext bcast dst lanes es)).2, rfl, pollFlight_keeps _,
    fun hold wait ready errs => ?_, fun wait => ?_⟩
  · have src : (loadFlight s vault n a k sext bcast dst lanes es).src = .mem n sext bcast (loadElems vault a es) [] := by
      rw [← wait]; rfl
    have elems : ∀ e ∈ loadElems vault a es, e.val = none ∧ (atPort s n es).allUsable ⟨e.core, e.vault, e.off⟩ n = true ∧
        (atPort s n es).poisoned ⟨e.core, e.vault, e.off⟩ = false := by
      intro e he
      obtain ⟨p, hp, rfl⟩ := List.mem_map.1 he
      exact ⟨rfl, ready p hp⟩
    rw [pollFlight_loads (s := numbered (atPort s n es)) rfl src hold (errs_numbered.trans errs) ?_ ?_]
    · exact ⟨rfl, by rw [loadedElem_numbered]; rfl⟩
    · exact fun e he => ⟨(elems e he).1, (allUsable_numbered _ _).trans (elems e he).2.1⟩
    · exact fun e he => (poisoned_numbered _).trans (elems e he).2.2
  · rw [pollFlight_waits (s := numbered (atPort s n es)) rfl rfl
      (wait.imp_right fun h => (clearOf_numbered _).trans (clearOf_waitsFor h))]
    exact ⟨rfl, rfl, rfl⟩

end Load

/-! ## The tests of a load -/

section Tests

variable {vault : Bool} {n a : Nat} {l : List Nat} {w : Team}

theorem firstBad_of_ok (h : ∀ b ∈ l, ∃ p, s.myResolve vault b n = .ok p) : s.firstBad vault n l = none := by
  induction l with
  | nil => rfl
  | cons b r ih =>
    obtain ⟨p, hp⟩ := h b List.mem_cons_self
    simp only [State.firstBad, hp, ih fun c hc => h c (List.mem_cons_of_mem _ hc)]

theorem firstBad_split {p q : List Nat} {b : Nat} {c : BitVec 8} (hp : ∀ e ∈ p, ∀ c, ¬s.myResolve vault e n = .error c)
    (hb : s.myResolve vault b n = .error c) : s.firstBad vault n (p ++ b :: q) = some (c, b) := by
  induction p with
  | nil => simp only [List.nil_append, State.firstBad, hb]
  | cons e r ih =>
    cases he : s.myResolve vault e n with
    | error k => exact absurd he (hp e List.mem_cons_self k)
    | ok k => simp only [List.cons_append, State.firstBad, he, ih fun d hd => hp d (List.mem_cons_of_mem _ hd)]

theorem lldBad_eq (hw : s.teamOf s.issue.x = some w) : s.lldBad vault a = (!vault && decide (0x400000 ≤ a) && w.lld) := by
  rw [State.lldBad, hw]

theorem lldBad_iff (hw : s.teamOf s.issue.x = some w) : s.lldBad vault a = true ↔ vault = false ∧ 0x400000 ≤ a ∧ w.lld = true := by
  simp only [lldBad_eq hw, Bool.and_eq_true, Bool.not_eq_true', decide_eq_true_eq, and_assoc]

theorem loadPre_full (h : 64 ≤ s.bufUsed s.issue.x) : loadPre s vault n a l = .stall := by
  rw [loadPre, bufPre_full (Nat.not_lt.2 h)]

theorem loadPre_room (h : s.bufUsed s.issue.x < 64) : loadPre s vault n a l =
    if s.lldBad vault a then memTrap mRANGE a
    else match s.firstBad vault n l with
      | some (c, b) => memTrap c b
      | none => .go := by
  rw [loadPre, bufPre_room h] <;> rfl

theorem loadPre_closed (h : s.bufUsed s.issue.x < 64) (hl : s.lldBad vault a = true) : loadPre s vault n a l = memTrap mRANGE a :=
  (loadPre_room h).trans (if_pos hl)

theorem loadPre_bad (h : s.bufUsed s.issue.x < 64) (hl : ¬s.lldBad vault a = true) {c : BitVec 8} {b : Nat}
    (hb : s.firstBad vault n l = some (c, b)) : loadPre s vault n a l = memTrap c b := by
  rw [loadPre_room h, if_neg hl, hb]

theorem loadPre_go (h : s.bufUsed s.issue.x < 64) (hl : ¬s.lldBad vault a = true) (hb : s.firstBad vault n l = none) :
    loadPre s vault n a l = .go := by
  rw [loadPre_room h, if_neg hl, hb]

theorem locsOf_map {α : Type} {is : List α} {f : α → Nat} {p : α → Loc} (h : ∀ i ∈ is, s.myResolve vault (f i) n = .ok (p i)) :
    s.locsOf vault n (is.map f) = is.map p := by
  induction is with
  | nil => rfl
  | cons i r ih =>
    have rest := ih fun j hj => h j (List.mem_cons_of_mem _ hj)
    simp only [State.locsOf] at rest ⊢
    simp only [List.map_cons, List.filterMap_cons, h i List.mem_cons_self, rest]

end Tests

/-! ## Latencies and return times (R57, R102, R249) -/

section Times

variable {vault : Bool} {a : Nat} {l : Loc} {w : Team}

theorem loadLat_eq (hw : s.teamOf s.issue.x = some w) : s.loadLat vault a =
    if vault then (if a / 2 ^ 24 % 2 ^ 7 = w.pos then 10 else 48)
    else if a < 0x400000 then (if s.me.compat then 4 else 6) else if s.me.compat then 12 else 14 := by
  rw [State.loadLat, hw]; rfl

theorem returnTime_local : s.returnTime false a l = if a < 0x400000 then 6 else 14 := rfl

theorem returnTime_own (h : l.core = ctxCore s.issue.x) : s.returnTime true a l = 10 := by
  simp [State.returnTime, h]

theorem returnTime_near (h : l.core ≠ ctxCore s.issue.x) (hd : l.core / 64 = ctxCore s.issue.x / 64) :
    24 ≤ s.returnTime true a l ∧ s.returnTime true a l ≤ 48 := by
  simp only [State.returnTime, Bool.not_true, Bool.false_eq_true, if_false, h, hd, if_true]
  omega

theorem returnTime_far (hd : l.core / 64 ≠ ctxCore s.issue.x / 64) :
    160 ≤ s.returnTime true a l ∧ s.returnTime true a l ≤ 320 := by
  have h : l.core ≠ ctxCore s.issue.x := fun e => hd (by rw [e])
  simp only [State.returnTime, Bool.not_true, Bool.false_eq_true, if_false, h, hd]
  omega

theorem returnTime_le : s.returnTime vault a l ≤ 320 := by
  dsimp only [State.returnTime]
  split_ifs <;> omega

end Times

theorem loadValue_dstS (d : BitVec 6) {n : Nat} (hn : 0 < n) (h8 : n ≤ 8) (sext bcast : Bool) (e : Elem) :
    loadValue (dstS d) n sext bcast [loadedElem s n e] =
      (if sext = true ∧ 2 ^ (8 * n - 1) ≤ s.rdLoc ⟨e.core, e.vault, e.off⟩ n then
          BitVec.ofInt 64 ((s.rdLoc ⟨e.core, e.vault, e.off⟩ n : Int) - 2 ^ (8 * n))
        else BitVec.ofNat 64 (s.rdLoc ⟨e.core, e.vault, e.off⟩ n) : Word).setWidth 1024 := by
  rw [← extendLoad_eq hn h8 (rdLoc_lt _ _)]
  unfold dstS
  split <;> rfl

/-! ## The queues of the banks -/

/-- One context's part of what performs first: its queued accesses to these words, if it is not the issuing context x. -/
def portStep (x : CtxNo) (ls : List (Loc × Nat)) (store : Bool) (s : State) (y : CtxNo) : State :=
  if y = x || !((s.ctx y).stq.any (fun p => decide (0 < p.hold) && portShares ls p.locs) ||
      (s.ctx y).allFlights.any (fun f => store && decide (0 < f.hold) && f.pending && portShares ls f.locs)) then s
  else
    State.pollCtx (s.modCtx y (fun c =>
      { c.mapFlights (fun f => if store && decide (0 < f.hold) && f.pending && portShares ls f.locs then { f with hold := 0 } else f) with
        stq := c.stq.map (fun p => if decide (0 < p.hold) && portShares ls p.locs then { p with hold := 0 } else p) })) y

theorem portFirst_eq (ls : List (Loc × Nat)) (store : Bool) :
    s.portFirst ls store = (partCtxs (ctxPartNo s.issue.x)).foldl (portStep s.issue.x ls store) s := rfl

/-- Nothing that the partition's other contexts have in the queues of the banks at these words: nothing performs first (R99, R312). -/
theorem portFirst_idle {ls : List (Loc × Nat)} {store : Bool}
    (h : ∀ y, y ≠ s.issue.x → y.val / 4 = s.issue.x.val / 4 →
      (∀ p ∈ (s.ctx y).stq, 0 < p.hold → ∀ b ∈ p.locs, ∀ l ∈ ls, shareWord b l = false) ∧
      (store = true → ∀ f ∈ (s.ctx y).allFlights, 0 < f.hold → f.pending = true → ∀ b ∈ f.locs, ∀ l ∈ ls, shareWord b l = false)) :
    s.portFirst ls store = s := by
  have apart {l : List (Loc × Nat)} (hl : ∀ b ∈ l, ∀ k ∈ ls, shareWord b k = false) : portShares ls l = false := by
    simpa [portShares] using hl
  have idle : ∀ y ∈ partCtxs (ctxPartNo s.issue.x), (y = s.issue.x ||
      !((s.ctx y).stq.any (fun p => decide (0 < p.hold) && portShares ls p.locs) ||
        (s.ctx y).allFlights.any (fun f => store && decide (0 < f.hold) && f.pending && portShares ls f.locs))) = true := by
    intro y hy
    by_cases e : y = s.issue.x
    · simp [e]
    · obtain ⟨stores, loads⟩ := h y e ((mem_partCtxs (Nat.div_lt_of_lt_mul s.issue.x.isLt) y).1 hy)
      have noStore : (s.ctx y).stq.any (fun p => decide (0 < p.hold) && portShares ls p.locs) = false :=
        List.any_eq_false.2 fun p hp => by
          simp only [Bool.and_eq_true, decide_eq_true_eq]
          exact fun ⟨hh, hs⟩ => absurd hs (by simp [apart (stores p hp hh)])
      have noLoad : (s.ctx y).allFlights.any (fun f => store && decide (0 < f.hold) && f.pending && portShares ls f.locs) = false :=
        List.any_eq_false.2 fun f hf => by
          simp only [Bool.and_eq_true, decide_eq_true_eq]
          exact fun ⟨⟨⟨hst, hh⟩, hp⟩, hs⟩ => absurd hs (by simp [apart (loads hst f hf hh hp)])
      simp [noStore, noLoad]
  have stays : ∀ l : List CtxNo, (∀ y ∈ l, y ∈ partCtxs (ctxPartNo s.issue.x)) → l.foldl (portStep s.issue.x ls store) s = s := by
    intro l hl
    induction l with
    | nil => rfl
    | cons y r ih =>
      rw [List.foldl_cons, portStep, if_pos (idle y (hl y List.mem_cons_self))]
      exact ih fun z hz => hl z (List.mem_cons_of_mem _ hz)
  exact (portFirst_eq ls store).trans (stays _ fun _ hy => hy)

end Sys2Proof.Claims
end

section Settled

open Sys2Proof Sys2Proof.Machine Sys2Proof.Claims

/-- Settles O12: a load that passes its tests posts the result that the port gives it, and nothing performs before it where the queues of the
banks hold nothing for its words. -/
theorem scalarLoadResults : Obligations.ScalarLoadResults := by
  unfold Obligations.ScalarLoadResults
  refine ⟨fun s g d ra k t l hg ht hb => ?_, fun s ls store h => portFirst_idle h⟩
  intro x a local_ vault_ out
  have load (vault : Bool) (n : Nat) (sext : Bool) (hn : 0 < n) (h8 : n ≤ 8) :
      out (.next (loadOp s g vault n sext d ra k)) vault n sext := by
    intro open_ resolves u hold wait v w
    have ok : s.myResolve vault a n = .ok l := resolves
    have locs : s.locsOf vault n [a] = [l] := locsOf_map (is := [()]) (f := fun _ => a) (p := fun _ => l) fun _ _ => ok
    have closed : ¬s.lldBad vault a = true := by
      rw [lldBad_iff ht]
      rintro ⟨hv, ha, hl⟩
      rw [open_ hv ha] at hl
      exact absurd hl (by decide)
    have runs : loadOp s g vault n sext d ra k =
        s.postLoad vault n a k.toNat sext false (dstS d) allLanes [(0, l)] := by
      rw [loadOp, loadPre_go hb closed (firstBad_of_ok (by simpa using ⟨l, ok⟩)), gated_go hg, locs]; rfl
    obtain ⟨f, u', posted, kept, now, later⟩ := postLoad_posts (s := s) (vault := vault) (n := n) (a := a) (k := k.toNat) (sext := sext)
      (bcast := false) (dst := dstS d) (lanes := allLanes) (es := [(0, l)])
    have due : f.due = s.issue.cycle + s.loadLat vault a + k.toNat := (congrArg Flight.due kept :)
    have back : f.back = s.returnTime vault a l := (congrArg Flight.back kept :).trans (Nat.zero_max _)
    refine ⟨f, u', congrArg _ (runs.trans posted), (congrArg Flight.dst kept :), (congrArg Flight.lanes kept :), (congrArg Flight.flags kept :),
      (congrArg Flight.buf kept :), by rw [due, loadLat_eq ht], (congrArg Flight.hold kept :), (congrArg Flight.orig kept :),
      fun hv => ?_, fun hv hc => ?_, fun hv hc hd => ?_, fun hv hd => ?_, fun h0 hw usable clean errs => ?_, later⟩
    · rw [back, hv, returnTime_local]
    · rw [back, hv, returnTime_own hc]
    · rw [back, hv]; exact returnTime_near hc hd
    · rw [back, hv]; exact returnTime_far hd
    · obtain ⟨hu, value⟩ := now h0 hw (by simpa using ⟨usable, clean⟩) errs
      exact ⟨hu, value.trans (congrArg some (loadValue_dstS d hn h8 sext false _))⟩
  exact ⟨load false 1 false (by decide) (by decide), load false 2 false (by decide) (by decide), load false 4 false (by decide) (by decide),
    load false 8 false (by decide) (by decide), load false 1 true (by decide) (by decide), load false 2 true (by decide) (by decide),
    load false 4 true (by decide) (by decide), load true 1 false (by decide) (by decide), load true 2 false (by decide) (by decide),
    load true 4 false (by decide) (by decide), load true 8 false (by decide) (by decide), load true 1 true (by decide) (by decide),
    load true 2 true (by decide) (by decide), load true 4 true (by decide) (by decide)⟩

end Settled

section
/-! SUPPORT. The elements of a vector load, lane by lane (R57, R102, R249, R251). -/

namespace Sys2Proof.Claims

open Sys2Proof Sys2Proof.Machine

variable {s : State} {vault bcast : Bool} {a m : Nat} {lanes : BitVec 32}

theorem vecAddrs_lanes : vecAddrs lanes m a false = (lanesBelow lanes m).map (fun i => a + 4 * i) := rfl

theorem vecAddrs_bcast (h : lanes ≠ 0) : vecAddrs lanes m a true = [0].map (fun i => a + 4 * i) := if_neg h

theorem zip_map_self {α β : Type} (l : List α) (f : α → β) : l.zip (l.map f) = l.map (fun i => (i, f i)) := by
  induction l with
  | nil => rfl
  | cons i r ih => rw [List.map_cons, List.zip_cons_cons, ih, List.map_cons]

/-- The lanes that read a word: the enabled ones among the first m, or one for all. -/
def laneList (lanes : BitVec 32) (m : Nat) (bcast : Bool) : List Nat := if bcast then [0] else lanesBelow lanes m

theorem vecAddrs_eq (h : lanes ≠ 0) : vecAddrs lanes m a bcast = (laneList lanes m bcast).map (fun i => a + 4 * i) := by
  cases bcast with
  | false => exact vecAddrs_lanes
  | true => exact vecAddrs_bcast h

/-- A vector load whose words resolve posts its elements, lane by lane. -/
theorem vloadOp_eq {g : BitVec 4} {d ra k : BitVec 6} {at_ : Nat → Loc} (hl : s.me.guard g ≠ 0)
    (hb : s.bufUsed s.issue.x < 64) (hc : ¬s.lldBad vault (s.me.rs ra).toNat = true)
    (h : ∀ i ∈ laneList (s.me.guard g) m bcast, s.myResolve vault ((s.me.rs ra).toNat + 4 * i) 4 = .ok (at_ i)) :
    vloadOp s g vault m bcast d ra k = s.postLoad vault 4 (s.me.rs ra).toNat k.toNat false bcast (s.me.dstV d) (s.me.guard g)
      ((laneList (s.me.guard g) m bcast).map (fun i => (i, at_ i))) := by
  have ok : ∀ b ∈ vecAddrs (s.me.guard g) m (s.me.rs ra).toNat bcast, ∃ p, s.myResolve vault b 4 = .ok p := by
    rw [vecAddrs_eq hl]
    intro b hm
    obtain ⟨i, hi, rfl⟩ := List.mem_map.1 hm
    exact ⟨_, h i hi⟩
  have locs : s.locsOf vault 4 (vecAddrs (s.me.guard g) m (s.me.rs ra).toNat bcast) = (laneList (s.me.guard g) m bcast).map at_ := by
    rw [vecAddrs_eq hl]; exact locsOf_map h
  simp only [vloadOp, if_neg hl, loadPre_go hb hc (firstBad_of_ok ok), State.vgated, locs]
  exact congrArg _ (zip_map_self _ _)

theorem vloadOp_off {g : BitVec 4} {d ra k : BitVec 6} (hl : s.me.guard g = 0) : vloadOp s g vault m bcast d ra k = s := if_pos hl

/-! ## When the data of the last element is back -/

theorem foldl_max_le {l : List Nat} {b i : Nat} (hi : i ≤ b) (h : ∀ k ∈ l, k ≤ b) : l.foldl Nat.max i ≤ b := by
  induction l generalizing i with
  | nil => exact hi
  | cons k r ih => exact ih (Nat.max_le.2 ⟨hi, h k List.mem_cons_self⟩) fun j hj => h j (List.mem_cons_of_mem _ hj)

theorem foldl_max_same {l : List Nat} {b i : Nat} (hi : i ≤ b) (hl : l ≠ []) (h : ∀ k ∈ l, k = b) : l.foldl Nat.max i = b := by
  induction l generalizing i with
  | nil => exact absurd rfl hl
  | cons k r ih =>
    have hk : Nat.max i k = b := by rw [h k List.mem_cons_self]; exact Nat.max_eq_right hi
    rw [List.foldl_cons, hk]
    by_cases hr : r = []
    · rw [hr]; rfl
    · exact ih le_rfl hr fun j hj => h j (List.mem_cons_of_mem _ hj)

/-! ## The lanes of the value -/

theorem find?_lane {ls : List Nat} {f : Nat → Elem} (hf : ∀ i, (f i).lane = i) (i : Nat) :
    (ls.map f).find? (fun e => decide (e.lane = i)) = if i ∈ ls then some (f i) else none := by
  induction ls with
  | nil => rfl
  | cons j r ih =>
    rw [List.map_cons, List.find?_cons, hf, ih]
    by_cases e : j = i
    · simp [e]
    · simp [e, Ne.symm e]

theorem word_of_rdLoc (l : Loc) : (BitVec.ofNat 64 (s.rdLoc l 4)).setWidth 32 = BitVec.ofNat 32 (s.rdLoc l 4) := by
  bv_omega

theorem loadValue_lanes (d : Fin 64) {ls : List Nat} {at_ : Nat → Loc} (hb : bcast = true → ls = [0]) :
    loadValue (.v d) 4 false bcast ((loadElems vault a (ls.map (fun i => (i, at_ i)))).map (loadedElem s 4)) =
      vregOf (fun i => if bcast = true then BitVec.ofNat 32 (s.rdLoc (at_ 0) 4)
        else if i ∈ ls then BitVec.ofNat 32 (s.rdLoc (at_ i) 4) else 0) := by
  have elems : (loadElems vault a (ls.map (fun i => (i, at_ i)))).map (loadedElem s 4) = ls.map (fun i => loadedElem s 4
      ⟨i, (at_ i).core, (at_ i).vault, (at_ i).off, none, [], !vault && decide (0x400000 ≤ a)⟩) := by
    simp only [loadElems, List.map_map, Function.comp_def]
  rw [elems]
  refine congrArg vregOf (funext fun i => ?_)
  cases bcast with
  | true => rw [hb rfl, ← word_of_rdLoc]; rfl
  | false =>
    simp only [Bool.false_or, find?_lane (f := fun i => loadedElem s 4
      ⟨i, (at_ i).core, (at_ i).vault, (at_ i).off, none, [], !vault && decide (0x400000 ≤ a)⟩) fun _ => rfl]
    by_cases hi : i ∈ ls
    · simp only [hi, if_true, ← word_of_rdLoc]; rfl
    · simp only [hi]; rfl

end Sys2Proof.Claims
end

section Settled

open Sys2Proof Sys2Proof.Machine Sys2Proof.Claims

/-- Settles O13: the elements of a vector load are those of its lanes, its data is back when the last of theirs is, and each lane of its value
is the word of its own element, or of the only one. -/
theorem vectorLoadResults : Obligations.VectorLoadResults := by
  unfold Obligations.VectorLoadResults
  intro s g d ra k t at_ ht hb x a lanes local_ vault_ out on
  have load (vault bc : Bool) (m : Nat) (hl : lanes ≠ 0) :
      out (.next (vloadOp s g vault m bc d ra k)) vault bc (laneList lanes m bc) := by
    intro open_ resolves u hold wait word
    have closed : ¬s.lldBad vault a = true := by
      rw [lldBad_iff ht]
      rintro ⟨hv, ha, hl⟩
      rw [open_ hv ha] at hl
      exact absurd hl (by decide)
    have runs := vloadOp_eq (m := m) (bcast := bc) (d := d) (k := k) hl hb closed resolves
    obtain ⟨f, u', posted, kept, now, later⟩ := postLoad_posts (s := s) (vault := vault) (n := 4) (a := a) (k := k.toNat) (sext := false)
      (bcast := bc) (dst := s.me.dstV d) (lanes := lanes) (es := (laneList lanes m bc).map (fun i => (i, at_ i)))
    have locs : ((laneList lanes m bc).map (fun i => (i, at_ i))).map (fun e => (e.2, 4)) =
        (laneList lanes m bc).map (fun i => (at_ i, 4)) := by simp only [List.map_map, Function.comp_def]
    have port : atPort s 4 ((laneList lanes m bc).map (fun i => (i, at_ i))) = u := congrArg (s.portFirst · false) locs
    have elems : loadElems vault a ((laneList lanes m bc).map (fun i => (i, at_ i))) = (laneList lanes m bc).map (fun i =>
        ⟨i, (at_ i).core, (at_ i).vault, (at_ i).off, none, [], !vault && decide (0x400000 ≤ a)⟩) := by
      simp only [loadElems, List.map_map, Function.comp_def]
    have due : f.due = s.issue.cycle + s.loadLat vault a + k.toNat := (congrArg Flight.due kept :)
    have held : (loadFlight s vault 4 a k.toNat false bc (s.me.dstV d) lanes ((laneList lanes m bc).map (fun i => (i, at_ i)))).hold = hold := by
      simp only [loadFlight, port, List.isEmpty_iff, List.map_eq_nil_iff]; rfl
    have back : f.back = ((laneList lanes m bc).map (fun i => s.returnTime vault a (at_ i))).foldl Nat.max 0 := by
      refine (congrArg Flight.back kept :).trans ?_
      simp only [loadFlight, List.map_map, Function.comp_def]
    have same {n : Nat} (hn : laneList lanes m bc ≠ []) (h : ∀ i ∈ laneList lanes m bc, s.returnTime vault a (at_ i) = n) :
        f.back = n :=
      back.trans (foldl_max_same (Nat.zero_le n) (by simpa using hn) (by simpa using h))
    rw [locs, port] at now later
    refine ⟨f, u', congrArg _ (runs.trans posted), (congrArg Flight.dst kept :), (congrArg Flight.lanes kept :), (congrArg Flight.flags kept :),
      (congrArg Flight.buf kept :), by rw [due, loadLat_eq ht], (congrArg Flight.hold kept :).trans held, (congrArg Flight.orig kept :),
      fun hv hn => same hn fun i _ => ?_, fun hv hn hc => same hn fun i hi => ?_,
      back.trans_le (foldl_max_le (Nat.zero_le _) (by simpa using fun i _ => returnTime_le)), fun h0 hw usable errs => ?_, fun hw => ?_⟩
    · rw [hv, returnTime_local]
    · rw [hv, returnTime_own (hc i hi)]
    · obtain ⟨hu, value⟩ := now (held.trans h0) hw (by simpa using usable) errs
      exact ⟨hu, value.trans (congrArg some (loadValue_lanes _ fun hb => by rw [hb]; rfl))⟩
    · obtain ⟨hu, value, src⟩ := later (hw.imp_left fun h => held.symm ▸ h)
      refine ⟨hu, value, src.trans ?_⟩
      simp only [loadFlight, elems, port, locs]; rfl
  refine ⟨fun hl => ⟨load false false 32 hl, load false false 16 hl, load false true 32 hl, load true false 32 hl, load true false 16 hl,
    load true true 32 hl⟩, fun hl => ?_⟩
  have off (vault bc : Bool) (m : Nat) : (.next (vloadOp s g vault m bc d ra k) : Out) = .next s := congrArg _ (vloadOp_off hl)
  exact ⟨off _ _ _, off _ _ _, off _ _ _, off _ _ _, off _ _ _, off _ _ _⟩

end Settled

section
/-! SUPPORT. The tests of loads and stores in their order (R60, R97, R107, R249, R329, R369). -/

namespace Sys2Proof.Claims

open Sys2Proof Sys2Proof.Machine

variable {s : State} {vault : Bool} {n : Nat} {l p q : List Nat} {b : Nat} {c : BitVec 8} {ra : BitVec 6}

/-! ## An operation that its tests stop -/

/-- The outcome is what these tests say, where they let the operation not pass. -/
structure Tested (s : State) (t : Pre) (o : Out) : Prop where
  stall : t = .stall → Stalls s o
  trap : ∀ {cls cause part faddr}, t = .trap ⟨cls, cause, part, faddr⟩ → Traps s o cls cause part faddr

theorem tested_gated {g : BitVec 4} {t : Pre} {eff : State} (hg : s.me.guard0 g = true) : Tested s t (.next (s.gated g t eff)) :=
  ⟨stalls_gated hg, traps_gated hg⟩

theorem tested_vgated {t : Pre} {eff : State} : Tested s t (.next (s.vgated t eff)) :=
  ⟨fun h => by rw [h]; rfl, fun h => by rw [h]; rfl⟩

theorem tested_vload {g : BitVec 4} {m : Nat} {bcast : Bool} {d k : BitVec 6} (hl : s.me.guard g ≠ 0) :
    Tested s (loadPre s vault 4 (s.me.rs ra).toNat (vecAddrs (s.me.guard g) m (s.me.rs ra).toNat bcast))
      (.next (vloadOp s g vault m bcast d ra k)) := by
  simp only [vloadOp, if_neg hl]
  exact tested_vgated

theorem tested_vstore {g : BitVec 4} {m : Nat} {d k : BitVec 6}
    (hl : vecAddrs (s.me.guard g) m (storeAddr s ra k (4 * m)) false ≠ []) :
    Tested s (storePre s vault 4 ra (vecAddrs (s.me.guard g) m (storeAddr s ra k (4 * m)) false))
      (.next (vstoreOp s g vault m d ra k)) := by
  simp only [vstoreOp, List.isEmpty_iff, if_neg hl]
  exact tested_vgated

/-! ## Addresses that do not resolve -/

theorem resolve_align {core task : Nat} (h : b % n ≠ 0) : s.resolve core task vault b n = .error 0x03 := if_pos h

/-- An address takes a cause that precedes the spill check (R329). -/
def Early (s : State) (vault : Bool) (n b : Nat) : Prop := s.myResolve vault b n = .error 0x01 ∨ s.myResolve vault b n = .error 0x03

theorem early_iff (h : s.myResolve vault b n = .error c) : earlyCause c = true ↔ Early s vault n b := by
  simp only [earlyCause, Bool.or_eq_true, decide_eq_true_eq, Early, h, Except.error.injEq]; rfl

theorem firstEarly_cons (h : ¬Early s vault n b) : s.firstEarly vault n (b :: l) = s.firstEarly vault n l := by
  rw [State.firstEarly]
  split
  · next e => rw [if_neg (by rwa [early_iff e])]
  · rfl

theorem firstEarly_none (h : ∀ b ∈ l, ¬Early s vault n b) : s.firstEarly vault n l = none := by
  induction l with
  | nil => rfl
  | cons b r ih => rw [firstEarly_cons (h b List.mem_cons_self), ih fun e he => h e (List.mem_cons_of_mem _ he)]

theorem firstEarly_split (hp : ∀ e ∈ p, ¬Early s vault n e) (hb : s.myResolve vault b n = .error c) (he : Early s vault n b) :
    s.firstEarly vault n (p ++ b :: q) = some (c, b) := by
  induction p with
  | nil => simp only [List.nil_append, State.firstEarly, hb, (early_iff hb).2 he, if_true]
  | cons e r ih => rw [List.cons_append, firstEarly_cons (hp e List.mem_cons_self), ih fun d hd => hp d (List.mem_cons_of_mem _ hd)]

/-! ## The tests of a store -/

theorem mem_locsOf {k : Loc} : k ∈ s.locsOf vault n l ↔ ∃ b ∈ l, s.myResolve vault b n = .ok k := by
  simp only [State.locsOf, List.mem_filterMap]
  refine exists_congr fun b => and_congr_right fun _ => ?_
  cases s.myResolve vault b n with
  | error e => simp
  | ok m => simp

/-- A merge store of this list finds no landing-buffer entry (R107). -/
def NoEntry (s : State) (vault : Bool) (n : Nat) (l : List Nat) : Prop :=
  (∃ b ∈ l, ∃ k, s.myResolve vault b n = .ok k ∧ s.isMerge k n = true) ∧ 64 ≤ s.bufUsed s.issue.x

/-- A store of this list based on s4 has an address below the spill limit (R329). -/
def Spills (s : State) (vault : Bool) (ra : BitVec 6) (l : List Nat) : Prop :=
  (vault = false ∧ ra = 4) ∧ ∃ b ∈ l, b < s.me.splim.toNat

theorem stall_iff : ((s.locsOf vault n l).any (fun p => s.isMerge p n) && bufPre s = .stall) = true ↔ NoEntry s vault n l := by
  have full : bufPre s = .stall ↔ 64 ≤ s.bufUsed s.issue.x := by
    rw [bufPre]
    split
    · next h => simp [h]
    · next h => simp [h]
  simp only [Bool.and_eq_true, List.any_eq_true, mem_locsOf, decide_eq_true_eq, full, NoEntry]
  refine and_congr_left fun _ => ⟨fun ⟨k, ⟨b, hb, hk⟩, hm⟩ => ⟨b, hb, k, hk, hm⟩, fun ⟨b, hb, k, hk, hm⟩ => ⟨k, ⟨b, hb, hk⟩, hm⟩⟩

theorem based_iff : (!vault && decide (ra = 4)) = true ↔ vault = false ∧ ra = 4 := by simp

theorem spill_iff : (!vault && ra = 4 && l.any (fun b => decide (b < s.me.splim.toNat))) = true ↔ Spills s vault ra l := by
  simp only [Bool.and_eq_true, Bool.not_eq_true', decide_eq_true_eq, List.any_eq_true, Spills]

theorem not_noEntry (h : ∀ b ∈ l, ∀ k, s.myResolve vault b n = .ok k → n < 4 → s.allUsable k n = true ∨ s.bufUsed s.issue.x < 64) :
    ¬NoEntry s vault n l := by
  rintro ⟨⟨b, hb, k, hk, hm⟩, full⟩
  simp only [State.isMerge, Bool.and_eq_true, decide_eq_true_eq, List.any_eq_true, Bool.not_eq_true'] at hm
  obtain ⟨hn, w, hw, hu, -⟩ := hm
  rcases h b hb k hk hn with usable | room
  · rw [State.allUsable, List.all_eq_true] at usable
    rw [usable w hw] at hu
    exact absurd hu (by decide)
  · omega

theorem storePre_stall (h : NoEntry s vault n l) : storePre s vault n ra l = .stall := if_pos (stall_iff.2 h)

/-- The tests of a store that does not stall, in their order. -/
theorem storePre_eq (h : ¬NoEntry s vault n l) : storePre s vault n ra l =
    match if !vault && ra = 4 then s.firstEarly vault n l else none with
    | some (c, b) => memTrap c b
    | none =>
      if !vault && ra = 4 && l.any (fun b => decide (b < s.me.splim.toNat)) then .trap ⟨tSPILL, 0x02, 4, BitVec.ofNat 64 (l.headD 0)⟩
      else
        match s.firstBad vault n l with
        | some (c, b) => memTrap c b
        | none =>
          match l.find? (fun b => (s.locsOf vault n [b]).any (fun p => s.readOnly p n)) with
          | some b => memTrap mBRO b
          | none => .go := if_neg (mt stall_iff.1 h)

theorem storePre_early (h : ¬NoEntry s vault n l) (based : vault = false ∧ ra = 4) (he : s.firstEarly vault n l = some (c, b)) :
    storePre s vault n ra l = memTrap c b := by
  rw [storePre_eq h, if_pos (based_iff.2 based), he]

theorem early_none (h : vault = false ∧ ra = 4 → ∀ b ∈ l, ¬Early s vault n b) :
    (if !vault && ra = 4 then s.firstEarly vault n l else none) = none := by
  split
  · next e => exact firstEarly_none (h (based_iff.1 e))
  · rfl

theorem storePre_spill (h : ¬NoEntry s vault n l) (spill : Spills s vault ra l) (he : ∀ b ∈ l, ¬Early s vault n b) :
    storePre s vault n ra l = .trap ⟨0x03, 0x02, 4, BitVec.ofNat 64 (l.headD 0)⟩ := by
  rw [storePre_eq h, early_none fun _ => he]
  exact if_pos (spill_iff.2 spill)

theorem storePre_bad (h : ¬NoEntry s vault n l) (spill : ¬Spills s vault ra l)
    (he : vault = false ∧ ra = 4 → ∀ b ∈ l, ¬Early s vault n b) (hb : s.firstBad vault n l = some (c, b)) :
    storePre s vault n ra l = memTrap c b := by
  rw [storePre_eq h, early_none he, hb]
  exact if_neg (mt spill_iff.1 spill)

theorem storePre_readOnly (h : ¬NoEntry s vault n l) (spill : ¬Spills s vault ra l)
    (he : vault = false ∧ ra = 4 → ∀ b ∈ l, ¬Early s vault n b) (hb : s.firstBad vault n l = none)
    (hr : l.find? (fun b => (s.locsOf vault n [b]).any (fun p => s.readOnly p n)) = some b) :
    storePre s vault n ra l = memTrap mBRO b := by
  rw [storePre_eq h, early_none he, hb, hr]
  exact if_neg (mt spill_iff.1 spill)

theorem readOnly_iff : (s.locsOf vault n [b]).any (fun p => s.readOnly p n) = true ↔
    ∃ k, s.myResolve vault b n = .ok k ∧ s.readOnly k n = true := by
  simp only [List.any_eq_true, mem_locsOf, List.mem_singleton, exists_eq_left]

/-- The first address of a list in a read-only bight. -/
theorem find?_readOnly (hb : ∃ k, s.myResolve vault b n = .ok k ∧ s.readOnly k n = true)
    (hp : ∀ e ∈ p, ¬∃ k, s.myResolve vault e n = .ok k ∧ s.readOnly k n = true) :
    (p ++ b :: q).find? (fun b => (s.locsOf vault n [b]).any (fun p => s.readOnly p n)) = some b := by
  have none : p.find? (fun b => (s.locsOf vault n [b]).any (fun p => s.readOnly p n)) = none :=
    List.find?_eq_none.2 fun e he => mt readOnly_iff.1 (hp e he)
  rw [List.find?_append, none, List.find?_cons, readOnly_iff.2 hb]
  rfl

end Sys2Proof.Claims
end

section Settled

open Sys2Proof Sys2Proof.Machine Sys2Proof.Claims

/-- Settles O14: the tests of a load and of a store, read in their order; each clause names the first test that fails. -/
theorem loadAndStoreFaults : Obligations.LoadAndStoreFaults := by
  unfold Obligations.LoadAndStoreFaults
  refine ⟨fun s g d ra k t ht => ?_, fun s g d ra k => ?_⟩
  · intro x a lanes out on
    have load {o : Out} (vault : Bool) (n : Nat) (l : List Nat) (ho : Tested s (loadPre s vault n a l) o) : out o vault n l := by
      refine ⟨fun hb => ho.stall (loadPre_full hb), fun hb hc => ho.trap (loadPre_closed hb ((lldBad_iff ht).2 hc)),
        fun hb hc p b q c hl hp hbad => ho.trap ?_, fun b _ => resolve_align⟩
      exact loadPre_bad hb (mt (lldBad_iff ht).1 hc) (by rw [hl]; exact firstBad_split hp hbad)
    refine ⟨fun hg => ?_, fun hl => ?_⟩
    · have scalar (vault : Bool) (n : Nat) (sext : Bool) : out (.next (loadOp s g vault n sext d ra k)) vault n [a] :=
        load vault n [a] (tested_gated hg)
      exact ⟨scalar _ _ _, scalar _ _ _, scalar _ _ _, scalar _ _ _, scalar _ _ _, scalar _ _ _, scalar _ _ _, scalar _ _ _, scalar _ _ _,
        scalar _ _ _, scalar _ _ _, scalar _ _ _, scalar _ _ _, scalar _ _ _⟩
    · have each (vault : Bool) (m : Nat) : out (.next (vloadOp s g vault m false d ra k)) vault 4 (on m) := 
        load vault 4 (on m) (tested_vload (m := m) (bcast := false) hl)
      have one (vault : Bool) (m : Nat) : out (.next (vloadOp s g vault m true d ra k)) vault 4 [a] :=
        load vault 4 [a] (by rw [← show vecAddrs lanes m a true = [a] from if_neg hl]; exact tested_vload hl)
      exact ⟨each _ _, each _ _, one _ _, each _ _, each _ _, one _ _⟩
  · intro x lanes base out on
    have store {o : Out} (vault : Bool) (n : Nat) (l : List Nat) (ho : l ≠ [] → Tested s (storePre s vault n ra l) o) : out o vault n l := by
      have tested {b : Nat} (hb : b ∈ l) : Tested s (storePre s vault n ra l) o := ho (List.ne_nil_of_mem hb)
      have within {b : Nat} {p r : List Nat} (h : l = p ++ b :: r) : b ∈ l := by simp [h]
      refine ⟨fun b hb k hk hm full => (tested hb).stall (storePre_stall ⟨⟨b, hb, k, hk, hm⟩, full⟩), fun room => ?_⟩
      have free := not_noEntry room
      refine ⟨?_, fun spill he => ?_, ?_, ?_⟩
      · rintro based b c ⟨p, r, hl, he, hp⟩ hb
        exact (tested (within hl)).trap (storePre_early free based (by rw [hl]; exact firstEarly_split hp hb he))
      · obtain ⟨-, b, hb, -⟩ := id spill
        exact (tested hb).trap (storePre_spill free spill he)
      · rintro spill he b c ⟨p, r, hl, -, hp⟩ hb
        exact (tested (within hl)).trap (storePre_bad free spill he
          (by rw [hl]; exact firstBad_split (fun e hm k hk => hp e hm ⟨k, hk⟩) hb))
      · rintro spill resolves b ⟨p, r, hl, hb, hp⟩
        have ok : ∀ e ∈ l, ∃ k, s.myResolve vault e n = .ok k := fun e he => by
          cases hk : s.myResolve vault e n with
          | error c => exact absurd hk (resolves e he c)
          | ok k => exact ⟨k, rfl⟩
        refine (tested (within hl)).trap (storePre_readOnly free spill (fun _ e he => ?_) (firstBad_of_ok ok) ?_)
        · rintro (h | h)
          · exact resolves e he _ h
          · exact resolves e he _ h
        · rw [hl]
          exact find?_readOnly hb hp
    have scalar (vault : Bool) (n : Nat) (hg : s.me.guard0 g = true) : out (.next (storeOp s g vault n d ra k)) vault n [base n] :=
      store vault n [base n] fun _ => tested_gated hg
    have each (vault : Bool) (m : Nat) : out (.next (vstoreOp s g vault m d ra k)) vault 4 (on m) := store vault 4 (on m) tested_vstore
    exact ⟨fun hg => ⟨scalar _ _ hg, scalar _ _ hg, scalar _ _ hg, scalar _ _ hg, scalar _ _ hg, scalar _ _ hg, scalar _ _ hg,
      scalar _ _ hg⟩, each _ _, each _ _, each _ _, each _ _⟩

end Settled

section
/-! SUPPORT. The selector of a partition and the tests of a bundle in their order (R47 to R50, R59, R61, R173, R174, R317, R367, R369). -/

namespace Sys2Proof.Claims

open Sys2Proof Sys2Proof.Machine

variable {s u : State} {x : CtxNo} {q : Nat}

/-! ## The selector (R47) -/

/-- Slot k modulo 4 of a partition. -/
def slotOf (q k : Nat) : CtxNo := Fin.ofNat 2048 (4 * q + k % 4)

/-- j is the distance from slot k of the first READY slot, in ascending order. -/
def FirstReady (s : State) (q k j : Nat) : Prop :=
  j < 4 ∧ (s.ctx (slotOf q (k + j))).st = .ready ∧ ∀ i < j, (s.ctx (slotOf q (k + i))).st ≠ .ready

/-- s with slot k of a partition running. -/
def runsSlot (q : Nat) (s : State) (k : Nat) : State :=
  s.setCtx (slotOf q k) { s.ctx (slotOf q k) with st := .running }

theorem nextReady_eq (k : Nat) : s.nextReady q k =
    ((List.range 4).map (fun i => slotOf q (k + 1 + i))).find? (fun x => (s.ctx x).st = .ready) := rfl

theorem nextReady_first {k j : Nat} (h : FirstReady s q (k + 1) j) : s.nextReady q k = some (slotOf q (k + 1 + j)) := by
  obtain ⟨hj, ready, before⟩ := h
  have found : (List.range 4).find? (fun i => decide ((s.ctx (slotOf q (k + 1 + i))).st = .ready)) = some j :=
    List.find?_range_eq_some.2 ⟨decide_eq_true ready, List.mem_range.2 hj, fun i hi => by simpa using before i hi⟩
  rw [nextReady_eq, List.find?_map]
  exact congrArg (Option.map _) found

theorem nextReady_none {k : Nat} (h : ∀ j < 4, (s.ctx (slotOf q j)).st ≠ .ready) : s.nextReady q k = none := by
  rw [nextReady_eq, List.find?_eq_none]
  intro y hy
  obtain ⟨i, -, rfl⟩ := List.mem_map.1 hy
  have same : slotOf q (k + 1 + i) = slotOf q ((k + 1 + i) % 4) := by rw [slotOf, slotOf, Nat.mod_mod]
  rw [same]
  simpa using h _ (Nat.mod_lt _ (by omega))

theorem running_iff : (partCtxs q).any (fun x => (s.ctx x).st = .running) = true ↔ ∃ k < 4, (s.ctx (slotOf q k)).st = .running := by
  simp only [partCtxs, List.any_map, List.any_eq_true, List.mem_range, Function.comp, decide_eq_true_eq]
  refine exists_congr fun k => and_congr_right fun hk => ?_
  rw [slotOf, Nat.mod_eq_of_lt hk]; rfl

theorem select_running (h : ∃ k < 4, (s.ctx (slotOf q k)).st = .running) : s.select q = s := if_pos (running_iff.2 h)

theorem select_idle (h : ∀ k < 4, (s.ctx (slotOf q k)).st ≠ .running) : s.select q =
    match s.nextReady q (s.part q).last.toNat with
    | some x => s.modCtx x (fun c => { c with st := .running })
    | none => s :=
  if_neg fun e => by
    obtain ⟨k, hk, hr⟩ := running_iff.1 e
    exact h k hk hr

theorem select_first {j : Nat} (h : ∀ k < 4, (s.ctx (slotOf q k)).st ≠ .running)
    (hj : FirstReady s q ((s.part q).last.toNat + 1) j) : s.select q = runsSlot q s ((s.part q).last.toNat + 1 + j) := by
  rw [select_idle h, nextReady_first hj]; rfl

theorem select_none (h : ∀ k < 4, (s.ctx (slotOf q k)).st ≠ .running) (hr : ∀ j < 4, (s.ctx (slotOf q j)).st ≠ .ready) :
    s.select q = s := by
  rw [select_idle h, nextReady_none hr]

theorem ctxPartNo_slotOf {k : Nat} (hq : q < 512) : ctxPartNo (slotOf q k) = q := by
  have : (slotOf q k).val = 4 * q + k % 4 := Nat.mod_eq_of_lt (by omega)
  rw [ctxPartNo, this]; omega

theorem ctxSlot_slotOf {k : Nat} (hq : q < 512) : ctxSlot (slotOf q k) = k % 4 := by
  have : (slotOf q k).val = 4 * q + k % 4 := Nat.mod_eq_of_lt (by omega)
  rw [ctxSlot, this]; omega

/-- s with slot k as the place that its partition keeps (R47). -/
def keptSlot (s : State) (q k : Nat) : State :=
  s.setPart q { s.part q with last := BitVec.ofNat 2 k, ran := BitVec.ofNat 2 k }

theorem leave_eq {k : Nat} (hq : q < 512) (hk : k < 4) : s.leave (slotOf q k) =
    match (keptSlot s q k).nextReady q k with
    | some y => (keptSlot s q k).modCtx y (fun c => { c with st := .running })
    | none => (keptSlot s q k).modPart q (fun p => { p with last := 3 }) := by
  simp only [State.leave, ctxPartNo_slotOf hq, ctxSlot_slotOf hq, Nat.mod_eq_of_lt hk]
  rfl

theorem leave_first {k j : Nat} (hq : q < 512) (hk : k < 4) (hj : FirstReady s q (k + 1) j) :
    s.leave (slotOf q k) = runsSlot q (keptSlot s q k) (k + 1 + j) := by
  rw [leave_eq hq hk, nextReady_first (s := keptSlot s q k) hj]; rfl

theorem leave_none {k : Nat} (hq : q < 512) (hk : k < 4) (hr : ∀ j < 4, (s.ctx (slotOf q j)).st ≠ .ready) :
    s.leave (slotOf q k) = (keptSlot s q k).setPart q { s.part q with last := 3, ran := BitVec.ofNat 2 k } := by
  rw [leave_eq hq hk, nextReady_none (s := keptSlot s q k) hr]
  simp only [State.modPart, keptSlot, State.setPart_part_same]

/-! ## The tests of a bundle -/

section Bundle

variable {b : Bundle} {ops : List (Nat × Instr)} {c : Ctx} {t : Nat} {i : TrapInfo}

/-- The operations of a bundle that execute (R65). -/
def opsOf (u : State) (x : CtxNo) (b : Bundle) : List (Nat × Instr) := bundleRuns b (u.leafOf x b).1 (u.leafOf x b).2.isSome

/-- What the operations of a bundle read. -/
def readsOf (u : State) (x : CtxNo) (b : Bundle) : List RegRead := (u.ctx x).reads b (opsOf u x b)

/-- The state in which the first operation of a bundle runs. -/
def opsStart (u : State) (x : CtxNo) (b : Bundle) : State :=
  { u.setCtx x { u.ctx x with waiting := none } with issue := issueOf x (u.cycleOf x) 0 b none }

/-- A bundle that stalls on nothing and reads no parity error: its first fault, or its operations. -/
noncomputable def bundleRun (u : State) (x : CtxNo) (b : Bundle) : Attempt :=
  match u.firstTrap x (u.cycleOf x) b (opsOf u x b) with
  | some i => .trap i
  | none =>
    match State.runOps x (u.cycleOf x) b (opsOf u x b) (opsStart u x b) with
    | .next s => .done (.next (s.afterBundle x b (u.leafOf x b).2 (u.isDrain x b) (u.stopAsked x)))
    | o => .done o

/-- The tests that follow DEST, ILLEGAL and EARLY. -/
noncomputable def bundleRest (u : State) (x : CtxNo) (b : Bundle) : Attempt :=
  if u.bundleStalls x b (opsOf u x b) then .stall b
  else if (readsOf u x b).any (fun p => (u.ctx x).interlocked (u.cycleOf x) p.reg) ||
      (u.ctx x).flight.any (fun f => f.late (u.cycleOf x)) then .freeze
  else if (readsOf u x b).any (fun p => (u.ctx x).rpar.contains p.reg) then .trap ⟨0x0D, 0x02, 7, 0⟩
  else bundleRun u x b

/-- The first register of a bundle with a result pending, in debug mode (R59). -/
def earlyRead (u : State) (x : CtxNo) (b : Bundle) : Option RegRead :=
  if (u.ctx x).dbg then (readsOf u x b).find? ((u.ctx x).pendingAt (u.cycleOf x)) else none

theorem attempt_error (h : u.fetchBundle x = .error i) : u.attempt x = .trap i := by
  simp only [State.attempt, h]

theorem attempt_ok (h : u.fetchBundle x = .ok b) : u.attempt x =
    if destClash (u.ctx x) (opsOf u x b) then .trap ⟨0x01, 0x06, 7, 0⟩
    else if inhBad (u.ctx x) (opsOf u x b) then .trap ⟨0x01, 0x0C, 4, 0⟩
    else match earlyRead u x b with
      | some p => .trap ⟨0x05, 0x01, BitVec.ofNat 3 p.part, BitVec.ofNat 64 p.reg.code⟩
      | none => bundleRest u x b := by
  simp only [State.attempt, h]
  rfl

theorem destClash_iff : destClash c ops = true ↔
    ¬ops.Pairwise (fun j k => ∀ d ∈ c.dests j.2, d ≠ .none → d ∉ c.dests k.2) := by
  induction ops with
  | nil => simp [destClash]
  | cons k r ih =>
    have head : (c.dests k.2).any (fun d => d ≠ .none && r.any (fun k => (c.dests k.2).contains d)) = true ↔
        ¬∀ j ∈ r, ∀ d ∈ c.dests k.2, d ≠ .none → d ∉ c.dests j.2 := by
      simp only [List.any_eq_true, Bool.and_eq_true, decide_eq_true_eq, List.contains_iff_mem, not_forall, not_not, exists_prop]
      exact ⟨fun ⟨d, hd, hn, j, hj, hm⟩ => ⟨j, hj, d, hd, hn, hm⟩, fun ⟨j, hj, d, hd, hn, hm⟩ => ⟨d, hd, hn, j, hj, hm⟩⟩
    rw [List.pairwise_cons, destClash, Bool.or_eq_true, ih, not_and_or]
    exact or_congr_left head

theorem inhBad_iff : inhBad c ops = true ↔ ∃ k ∈ ops, ∃ g, k.2 = .rtu g ∧ c.guard0 g = true ∧ c.inh = false := by
  simp only [inhBad, List.any_eq_true]
  refine exists_congr fun k => and_congr_right fun _ => ?_
  constructor
  · intro h
    split at h
    · next g e => exact ⟨g, e, by simpa using h⟩
    · exact absurd h (by decide)
  · rintro ⟨g, e, hg, hi⟩
    rw [e]
    simp [hg, hi]

/-- A result is for the register that an operation reads, in a v register for one of the lanes that it reads (R59). -/
def Hits (p : RegRead) (f : Flight) : Prop := f.dst = p.reg ∧ f.lanes ≠ 0 ∧ ∀ n, p.reg = .v n → f.lanes &&& p.lanes ≠ 0

/-- A register that is read has a result pending at cycle t (R59). -/
def Pending (c : Ctx) (t : Nat) (p : RegRead) : Prop := (∃ f ∈ c.flight, t < f.due ∧ Hits p f) ∨ ∃ f ∈ c.heldU, Hits p f

theorem hits_iff (p : RegRead) (f : Flight) :
    (f.dst = p.reg && (if p.reg.isV then f.lanes &&& p.lanes else f.lanes) ≠ 0) = true ↔ Hits p f := by
  rw [Bool.and_eq_true, decide_eq_true_eq, decide_eq_true_eq]
  refine and_congr_right fun _ => ?_
  by_cases hv : ∃ n, p.reg = .v n
  · obtain ⟨n, hn⟩ := hv
    have some_of_both : f.lanes &&& p.lanes ≠ 0 → f.lanes ≠ 0 := fun h e => h (by rw [e]; exact BitVec.zero_and)
    rw [hn]
    exact ⟨fun h => ⟨some_of_both h, fun _ _ => h⟩, fun h => h.2 n rfl⟩
  · have scalar : p.reg.isV = false := by
      unfold Dest.isV
      split
      · next n e => exact absurd ⟨n, e⟩ hv
      · rfl
    rw [scalar]
    exact ⟨fun h => ⟨h, fun n e => absurd ⟨n, e⟩ hv⟩, fun h => h.1⟩

theorem pendingAt_iff (p : RegRead) : c.pendingAt t p = true ↔ Pending c t p := by
  simp only [Ctx.pendingAt, List.any_append, Bool.or_eq_true, List.any_filter, List.any_eq_true, Bool.and_eq_true,
    decide_eq_true_eq, Pending, ← hits_iff]

/-! ## The operations of a bundle -/

/-- The operation runs alone in the state that the bundle found, and gives z (R369). -/
def Trial (u : State) (x : CtxNo) (t : Nat) (b : Bundle) (k : Nat × Instr) (z : State) : Prop :=
  exec k.2 { u with issue := issueOf x t k.1 b none } = .next z

theorem firstTrap_cons {k : Nat × Instr} {z : State} (h : Trial u x t b k z) :
    u.firstTrap x t b (k :: ops) = if (z.ctx x).st = .trapped then z.issue.trap else u.firstTrap x t b ops := by
  rw [State.firstTrap, h]

theorem firstTrap_none (h : ∀ k ∈ ops, ∃ z, Trial u x t b k z ∧ (z.ctx x).st ≠ .trapped) : u.firstTrap x t b ops = none := by
  induction ops with
  | nil => rfl
  | cons k r ih =>
    obtain ⟨z, hz, hn⟩ := h k List.mem_cons_self
    rw [firstTrap_cons hz, if_neg hn, ih fun m hm => h m (List.mem_cons_of_mem _ hm)]

theorem firstTrap_split {l₁ l₂ : List (Nat × Instr)} {k : Nat × Instr} {z : State}
    (h : ∀ m ∈ l₁, ∃ w, Trial u x t b m w ∧ (w.ctx x).st ≠ .trapped) (hz : Trial u x t b k z) (ht : (z.ctx x).st = .trapped) :
    u.firstTrap x t b (l₁ ++ k :: l₂) = z.issue.trap := by
  induction l₁ with
  | nil => exact (firstTrap_cons hz).trans (if_pos ht)
  | cons m r ih =>
    obtain ⟨w, hw, hn⟩ := h m List.mem_cons_self
    rw [List.cons_append, firstTrap_cons hw, if_neg hn, ih fun j hj => h j (List.mem_cons_of_mem _ hj)]

/-- The operations of a bundle run one after another along a list of states. -/
theorem runOps_along {vs : List State} (hl : vs.length = ops.length + 1) (hh : vs.head? = some s)
    (hs : ∀ j k v w, ops[j]? = some k → vs[j]? = some v → vs[j + 1]? = some w →
      exec k.2 { v with issue := { issueOf x t k.1 b v.issue.leaf with jumped := v.issue.jumped } } = .next w)
    {v : State} (hv : vs.getLast? = some v) : State.runOps x t b ops s = .next v := by
  induction ops generalizing s vs with
  | nil =>
    obtain ⟨w, rfl⟩ := List.length_eq_one_iff.1 hl
    have first : w = s := Option.some.inj hh
    have last : w = v := Option.some.inj hv
    rw [State.runOps, ← first, last]
  | cons k r ih =>
    match vs, hl with
    | a :: w :: rest, hl =>
      have same : a = s := Option.some.inj hh
      subst same
      rw [State.runOps, hs 0 k a w rfl rfl rfl]
      exact ih (vs := w :: rest) (by simpa using hl) rfl (fun j m y z hm hy hz => hs (j + 1) m y z hm hy hz) (by simpa using hv)

end Bundle

/-! ## What the tests say, in their order (R369) -/

section Tests

variable {b : Bundle} {i : TrapInfo}

/-- Two operations of the bundle name one destination (R50). -/
def Clash (u : State) (x : CtxNo) (b : Bundle) : Prop :=
  ¬(opsOf u x b).Pairwise (fun j k => ∀ d ∈ (u.ctx x).dests j.2, d ≠ .none → d ∉ (u.ctx x).dests k.2)

/-- The bundle has an rtu that acts outside a handler (R293). -/
def NoHandler (u : State) (x : CtxNo) (b : Bundle) : Prop :=
  ∃ k ∈ opsOf u x b, ∃ g, k.2 = .rtu g ∧ (u.ctx x).guard0 g = true ∧ (u.ctx x).inh = false

/-- A register that the bundle reads has a result pending at this cycle (R59). -/
def PendingNow (u : State) (x : CtxNo) (p : RegRead) : Prop := Pending (u.ctx x) (u.cycleOf x) p

theorem attempt_clash (h : u.fetchBundle x = .ok b) (hc : Clash u x b) : u.attempt x = .trap ⟨0x01, 0x06, 7, 0⟩ := by
  rw [attempt_ok h, if_pos (destClash_iff.2 hc)]

theorem attempt_noHandler (h : u.fetchBundle x = .ok b) (hc : ¬Clash u x b) (hn : NoHandler u x b) :
    u.attempt x = .trap ⟨0x01, 0x0C, 4, 0⟩ := by
  rw [attempt_ok h, if_neg (mt destClash_iff.1 hc), if_pos (inhBad_iff.2 hn)]

theorem attempt_legal (h : u.fetchBundle x = .ok b) (hc : ¬Clash u x b) (hn : ¬NoHandler u x b) : u.attempt x =
    match earlyRead u x b with
    | some p => .trap ⟨0x05, 0x01, BitVec.ofNat 3 p.part, BitVec.ofNat 64 p.reg.code⟩
    | none => bundleRest u x b := by
  rw [attempt_ok h, if_neg (mt destClash_iff.1 hc), if_neg (mt inhBad_iff.1 hn)]

theorem earlyRead_first {l₁ l₂ : List RegRead} {p : RegRead} (hd : (u.ctx x).dbg = true) (hr : readsOf u x b = l₁ ++ p :: l₂)
    (h₁ : ∀ w ∈ l₁, ¬PendingNow u x w) (hp : PendingNow u x p) : earlyRead u x b = some p := by
  have none : l₁.find? ((u.ctx x).pendingAt (u.cycleOf x)) = none :=
    List.find?_eq_none.2 fun w hw => mt (pendingAt_iff w).1 (h₁ w hw)
  rw [earlyRead, if_pos hd, hr, List.find?_append, none, List.find?_cons, (pendingAt_iff p).2 hp]
  rfl

theorem earlyRead_none (h : (u.ctx x).dbg = false ∨ ∀ p ∈ readsOf u x b, ¬PendingNow u x p) : earlyRead u x b = none := by
  unfold earlyRead
  split
  · next hd =>
    refine List.find?_eq_none.2 fun p hp => mt (pendingAt_iff p).1 (h.resolve_left ?_ p hp)
    rw [hd]; decide
  · rfl

theorem bundleRest_stall (h : u.bundleStalls x b (opsOf u x b) = true) : bundleRest u x b = .stall b := if_pos h

/-- A load of an interlocked image that the bundle needs, or another result, is late (R61, R317). -/
def LateLoad (u : State) (x : CtxNo) (b : Bundle) : Prop :=
  (∃ p ∈ readsOf u x b, (u.ctx x).interlocked (u.cycleOf x) p.reg = true) ∨ ∃ f ∈ (u.ctx x).flight, f.late (u.cycleOf x) = true

theorem late_load_iff : ((readsOf u x b).any (fun p => (u.ctx x).interlocked (u.cycleOf x) p.reg) ||
    (u.ctx x).flight.any (fun f => f.late (u.cycleOf x))) = true ↔ LateLoad u x b := by
  simp only [Bool.or_eq_true, List.any_eq_true, LateLoad]

theorem parity_iff : (readsOf u x b).any (fun p => (u.ctx x).rpar.contains p.reg) = true ↔
    ∃ p ∈ readsOf u x b, p.reg ∈ (u.ctx x).rpar := by
  simp only [List.any_eq_true, List.contains_iff_mem]

theorem bundleRest_freeze (h : u.bundleStalls x b (opsOf u x b) = false) (hl : LateLoad u x b) : bundleRest u x b = .freeze := by
  rw [bundleRest, if_neg (by rw [h]; decide), if_pos (late_load_iff.2 hl)]

theorem bundleRest_parity (h : u.bundleStalls x b (opsOf u x b) = false) (hl : ¬LateLoad u x b)
    (hp : ∃ p ∈ readsOf u x b, p.reg ∈ (u.ctx x).rpar) : bundleRest u x b = .trap ⟨0x0D, 0x02, 7, 0⟩ := by
  rw [bundleRest, if_neg (by rw [h]; decide), if_neg (mt late_load_iff.1 hl), if_pos (parity_iff.2 hp)]

theorem bundleRest_run (h : u.bundleStalls x b (opsOf u x b) = false) (hl : ¬LateLoad u x b)
    (hp : ∀ p ∈ readsOf u x b, p.reg ∉ (u.ctx x).rpar) : bundleRest u x b = bundleRun u x b := by
  rw [bundleRest, if_neg (by rw [h]; decide), if_neg (mt late_load_iff.1 hl),
    if_neg fun e => let ⟨p, hm, hr⟩ := parity_iff.1 e; hp p hm hr]

theorem bundleRun_trap (h : u.firstTrap x (u.cycleOf x) b (opsOf u x b) = some i) : bundleRun u x b = .trap i := by
  rw [bundleRun, h]

theorem bundleRun_done {v : State} (h : u.firstTrap x (u.cycleOf x) b (opsOf u x b) = none)
    (hv : State.runOps x (u.cycleOf x) b (opsOf u x b) (opsStart u x b) = .next v) : bundleRun u x b =
      .done (.next (v.afterBundle x b (u.leafOf x b).2 (u.isDrain x b) (u.stopAsked x))) := by
  rw [bundleRun, h, hv]

end Tests

/-! ## The cycle of a partition that issues (R47, R61) -/

theorem findBundle_of_nil (h : s.errs = []) : s.findBundle x = s := findErrs_of_nil h _

/-- A cycle of a partition that is awake and not frozen and has a running context. -/
theorem partCycle_issues (ha : s.asleep q = false) (hk : s.keptFrozen q = false) (hf : (s.arrive q).frozenAt q = false)
    (he : (s.arrive q).errs = [])
    (hx : (partCtxs q).find? (fun y => (((s.arrive q).prepare q none).ctx y).st = .running) = some x) :
    s.partCycle q = State.tryIssue ((s.arrive q).prepare q (some x)) ((s.arrive q).prepare q none) (s.arrive q) x := by
  simp only [State.partCycle, ha, hk, hf, Bool.false_eq_true, if_false, hx, findBundle_of_nil he]

/-- A state as the tests that precede a bundle leave it, when none of them has anything to do. -/
def same (x : CtxNo) (s : State) : State := s.modCtx x (fun c => c)

/-- A context has left the issue slot and the cycle ends. -/
def endedCycle (x : CtxNo) (s : State) : Out := .next ((s.leave x).endCycle (x.val / 4))

/-- What becomes of a bundle, as the cycle's outcome. -/
def outcomeOf (pre post froz : State) (x : CtxNo) : Attempt → Out
  | .trap i => endedCycle x ((same x pre).trapped x i none)
  | .stall b => endedCycle x ((same x post).modCtx x (fun k => { k with st := .stalled, waiting := some b }))
  | .freeze => .next (froz.freeze (x.val / 4))
  | .done (.next s) => .next (s.endCycle (x.val / 4))
  | .done o => o

/-- No test precedes the bundle: it is tried in a state in which what is due has landed. -/
theorem tryIssue_bundle {pre post froz : State} (hs : (post.ctx x).swt = none) (hd : (post.ctx x).deferred = [])
    (hl : (post.ctx x).atLimit = false) (ht : (post.ctx x).throttle = false) : State.tryIssue pre post froz x =
      outcomeOf pre post froz x (((same x (if (post.ctx x).release then pre else post)).tentative x).attempt x) := by
  have enters : (post.ctx x).entersUser = false := by rw [Ctx.entersUser, ht]; rfl
  have branch : same x (if (post.ctx x).release then pre else post) = if (post.ctx x).release then same x pre else same x post :=
    apply_ite _ _ _ _
  rw [branch]
  simp only [State.tryIssue, hs, hd, hl, ht, enters, List.isEmpty_nil, Bool.not_true, Bool.false_eq_true, if_false, Bool.false_and]
  rfl

/-- The decoded word of a routine that runs (R229, R235). -/
theorem mtxCycle_runs {n : Nat} {run : MRun} {a₁ a₂ a₃ a₄ a₅} {i : Instr} (hr : (s.loads n).runOf n = some run) (hw : run.wait = 0)
    (he : run.ended = false) (hk : run.cmd.kind = .call a₁ a₂ a₃ a₄ a₅) (hs : (s.loads n).stepsSpent n = none)
    (hd : decodeRoutine (SMap.get 0 ((s.loads n).mtx n).rs run.w) = some i) : s.mtxCycle n =
      exec i { s.loads n with issue := { (s.loads n).issue with x := run.cmd.x } } := by
  simp only [State.mtxCycle, hr, he, hw, hk, hs, hd, Bool.false_eq_true, Nat.lt_irrefl, if_false]

theorem step_agent {a : Agent} {r : List Agent} (hi : s.inputs = []) (ht : s.todo = a :: r) : step s = State.turn { s with todo := r } a := by
  simp only [step, hi, ht]

/-- The step of a partition that issues. -/
theorem step_issues {q : PartNo} {r : List Agent} {s0 : State} (hs : s0 = { s with todo := r }) (hi : s.inputs = [])
    (ht : s.todo = .part q :: r) (ha : s0.asleep q.val = false) (hk : s0.keptFrozen q.val = false)
    (hf : (s0.arrive q.val).frozenAt q.val = false) (he : (s0.arrive q.val).errs = [])
    {pre post : State} (hpre : (s0.arrive q.val).prepare q.val (some x) = pre) (hpost : (s0.arrive q.val).prepare q.val none = post)
    (hx : (partCtxs q.val).find? (fun y => (post.ctx y).st = .running) = some x)
    (hw : (post.ctx x).swt = none) (hd : (post.ctx x).deferred = []) (hl : (post.ctx x).atLimit = false)
    (hth : (post.ctx x).throttle = false) : step s = outcomeOf pre post (s0.arrive q.val) x
      (((same x (if (post.ctx x).release then pre else post)).tentative x).attempt x) := by
  subst hs hpre hpost
  exact (step_agent hi ht).trans ((partCycle_issues ha hk hf he hx).trans (tryIssue_bundle hw hd hl hth))

end Sys2Proof.Claims
end

section Settled

open Sys2Proof Sys2Proof.Machine Sys2Proof.Claims

/-- Settles O57: a step is its turn, and the cycle of a partition that issues is its running context's bundle, taken through its tests in
their order. -/
theorem stepRunsDecodedInstruction : Obligations.StepRunsDecodedInstruction := by
  unfold Obligations.StepRunsDecodedInstruction
  refine fun s => ⟨fun i r hi => ⟨fun hh => ?_, fun hh => ?_⟩, fun hi ht => ?_, fun i r hi ht => ?_, ?_, fun q => ?_, ?_⟩
  · simp only [step, hi, hh, if_true]
  · simp only [step, hi, hh, Bool.false_eq_true, if_false]
  · simp only [step, hi, ht]
  · simp only [step, hi, ht]; rfl
  · intro c r run a b d e f i hi ht s1 hr hw he hk hs hd
    have cycle : step s = State.mtxCycle { s with todo := r } c.val := step_agent hi ht
    exact cycle.trans (mtxCycle_runs hr hw he hk hs hd)
  · exact ⟨select_running, fun hn => ⟨fun j hj => select_first hn hj, select_none hn⟩, fun k => ⟨fun j hj => leave_first q.isLt k.isLt hj,
      leave_none q.isLt k.isLt⟩⟩
  · intro q r x hi htodo s0 s1 post pre c0 ha hk hf he hx hswt hdef hlim hthr _ u c t ended traps
    have cycle : step s = outcomeOf pre post s1 x (u.attempt x) := by
      exact step_issues (s0 := s0) rfl hi htodo ha hk hf he rfl rfl hx hswt hdef hlim hthr
    have of {o : Attempt} (h : u.attempt x = o) : step s = outcomeOf pre post s1 x o := cycle.trans (congrArg _ h)
    have trapsOf {i : TrapInfo} (h : u.attempt x = .trap i) : traps i := of h
    have slot : x.val / 4 = q.val := (mem_partCtxs q.isLt x).1 (List.mem_of_find?_eq_some hx)
    refine ⟨fun i h => trapsOf (attempt_error h), fun b hb => ?_⟩
    intro l ops reads clash noHandler hits pending trial
    refine ⟨fun hc => trapsOf (attempt_clash hb hc), fun hc hn => trapsOf (attempt_noHandler hb hc hn), fun hc hn =>
      ⟨fun l₁ p l₂ hd hr h₁ hp => trapsOf ?_, fun hp => ?_⟩⟩
    · rw [attempt_legal hb hc hn, earlyRead_first hd hr h₁ hp]
    · have rest : u.attempt x = bundleRest u x b := by rw [attempt_legal hb hc hn, earlyRead_none hp]
      refine ⟨fun hs => of (rest.trans (bundleRest_stall hs)), fun hs => ⟨fun hl => ?_, fun hl hf => ?_⟩⟩
      · rw [← slot]
        exact of (rest.trans (bundleRest_freeze hs hl))
      · have inTime : ¬LateLoad u x b := by
          rintro (⟨p, hm, hp⟩ | ⟨f, hm, hp⟩)
          · exact absurd (hl p hm) (by rw [hp]; decide)
          · exact absurd (hf f hm) (by rw [hp]; decide)
        refine ⟨fun hr => trapsOf (rest.trans (bundleRest_parity hs inTime hr)), fun hr => ?_⟩
        have run := rest.trans (bundleRest_run hs inTime hr)
        refine ⟨fun l₁ k l₂ z i hops h₁ hz ht hi => trapsOf (run.trans (bundleRun_trap ?_)), fun vs hall hlen hhead hvs v hv =>
          of (run.trans (bundleRun_done (firstTrap_none hall) (runOps_along hlen hhead hvs hv)))⟩
        rw [show opsOf u x b = l₁ ++ k :: l₂ from hops, firstTrap_split h₁ hz ht, hi]

end Settled

section
/-! SUPPORT. The tree of a reduction (R90, R91, R218). -/

namespace Sys2Proof.Claims

open Sys2Proof Sys2Proof.Machine

/-! ## The tree -/

section Tree

variable {α β : Type} {op : α → α → α} {r : α → α → Prop}

theorem length_pairUp (op : α → α → α) (l : List α) : (pairUp op l).length = (l.length + 1) / 2 := by
  induction l using pairUp.induct with
  | case1 x y l ih => simp only [pairUp, List.length_cons, ih]; omega
  | case2 l short =>
    rw [pairUp.eq_2 _ l short]
    match l, short with
    | [], _ | [_], _ => simp
    | x :: y :: l, short => exact absurd rfl (short x y l)

theorem length_reduceTree (op : α → α → α) {n : Nat} {l : List α} (h : l.length = 2 ^ n) : (reduceTree op n l).length = 1 := by
  induction n generalizing l with
  | zero => exact h
  | succ n ih => exact ih (by rw [length_pairUp, h, Nat.pow_succ]; omega)

/-- Five levels leave one of 32 values. -/
theorem reduceTree_lanes (op : α → α → α) (d : α) (f : Nat → α) :
    reduceTree op 5 ((List.range 32).map f) = [reduce32 op d f] := by
  obtain ⟨x, hx⟩ := List.length_eq_one_iff.1 (length_reduceTree (n := 5) op (l := (List.range 32).map f) (by simp))
  rw [reduce32, hx, List.headD_cons]

/-- What a level of the tree keeps of its list, the tree keeps. -/
theorem reduceTree_keeps {q : List α → β} (h : ∀ l, q (pairUp op l) = q l) (n : Nat) (l : List α) :
    q (reduceTree op n l) = q l := by
  induction n generalizing l with
  | zero => rfl
  | succ n ih => exact (ih _).trans (h l)

theorem sum_pairUp {n : Nat} (l : List (BitVec n)) : (pairUp (fun x y => x + y) l).sum = l.sum := by
  induction l using pairUp.induct with
  | case1 x y l ih => simp only [pairUp, List.sum_cons, ih, BitVec.add_assoc]
  | case2 l short => rw [pairUp.eq_2 _ l short]

theorem reduce32_sum {n : Nat} (d : BitVec n) (f : Nat → BitVec n) :
    reduce32 (fun x y => x + y) d f = ((List.range 32).map f).sum := by
  have keeps := reduceTree_keeps (q := List.sum) (sum_pairUp (n := n)) 5 ((List.range 32).map f)
  rwa [reduceTree_lanes _ d, List.sum_singleton] at keeps

theorem mem_of_mem_pairUp (h : ∀ x y, op x y = x ∨ op x y = y) {l : List α} {z : α} (hz : z ∈ pairUp op l) : z ∈ l := by
  induction l using pairUp.induct with
  | case1 x y l ih =>
    rw [pairUp, List.mem_cons] at hz
    rcases hz with rfl | hz
    · rcases h x y with e | e <;> simp [e]
    · simp [ih hz]
  | case2 l short => rwa [pairUp.eq_2 _ l short] at hz

theorem exists_above_pairUp (refl : ∀ x, r x x) (left : ∀ x y, r x (op x y)) (right : ∀ x y, r y (op x y)) {l : List α} {x : α}
    (hx : x ∈ l) : ∃ z ∈ pairUp op l, r x z := by
  induction l using pairUp.induct with
  | case1 a b l ih =>
    rw [pairUp]
    rcases List.mem_cons.1 hx with rfl | hx
    · exact ⟨_, List.mem_cons_self, left _ _⟩
    · rcases List.mem_cons.1 hx with rfl | hx
      · exact ⟨_, List.mem_cons_self, right _ _⟩
      · obtain ⟨z, hz, hr⟩ := ih hx
        exact ⟨z, List.mem_cons_of_mem _ hz, hr⟩
  | case2 l short => exact ⟨x, by rwa [pairUp.eq_2 _ l short], refl x⟩

/-- A tree whose step answers one of its two values answers one of the lanes. -/
theorem reduce32_mem (h : ∀ x y, op x y = x ∨ op x y = y) (d : α) (f : Nat → α) : ∃ i < 32, reduce32 op d f = f i := by
  have mem (n : Nat) : ∀ l, ∀ z ∈ reduceTree op n l, z ∈ l := by
    induction n with
    | zero => exact fun _ _ hz => hz
    | succ n ih => exact fun l z hz => mem_of_mem_pairUp h (ih _ z hz)
  have root := mem 5 ((List.range 32).map f) (reduce32 op d f) (by rw [reduceTree_lanes op d]; exact List.mem_singleton_self _)
  obtain ⟨i, hi, e⟩ := List.mem_map.1 root
  exact ⟨i, List.mem_range.1 hi, e.symm⟩

/-- A tree whose step answers a value above both answers one above every lane. -/
theorem reduce32_above (refl : ∀ x, r x x) (trans : ∀ x y z, r x y → r y z → r x z) (left : ∀ x y, r x (op x y))
    (right : ∀ x y, r y (op x y)) (d : α) (f : Nat → α) {i : Nat} (hi : i < 32) : r (f i) (reduce32 op d f) := by
  have above (n : Nat) : ∀ l, ∀ x ∈ l, ∃ z ∈ reduceTree op n l, r x z := by
    induction n with
    | zero => exact fun _ x hx => ⟨x, hx, refl x⟩
    | succ n ih =>
      intro l x hx
      obtain ⟨y, hy, hxy⟩ := exists_above_pairUp refl left right hx
      obtain ⟨z, hz, hyz⟩ := ih _ y hy
      exact ⟨z, hz, trans _ _ _ hxy hyz⟩
  obtain ⟨z, hz, h⟩ := above 5 ((List.range 32).map f) (f i) (List.mem_map.2 ⟨i, List.mem_range.2 hi, rfl⟩)
  rw [reduceTree_lanes op d, List.mem_singleton] at hz
  exact hz ▸ h

end Tree

/-! ## The step over lanes that may be absent -/

section Lanes

variable {α : Type} {op : α → α → α} {key : α → Int}

/-- The order by a key of lanes that may be absent: an absent lane lies below every other. -/
def BelowBy (key : α → Int) (x y : Option α) : Prop := ∀ a, x = some a → ∃ b, y = some b ∧ key a ≤ key b

theorem belowBy_refl (x : Option α) : BelowBy key x x := fun a h => ⟨a, h, le_rfl⟩

theorem belowBy_trans (x y z : Option α) (hxy : BelowBy key x y) (hyz : BelowBy key y z) : BelowBy key x z := fun a ha =>
  have ⟨b, hb, hab⟩ := hxy a ha
  have ⟨c, hc, hbc⟩ := hyz b hb
  ⟨c, hc, hab.trans hbc⟩

/-- A step answers one of its two values, whose key the other's does not exceed. -/
def SelectsHigher (key : α → Int) (op : α → α → α) : Prop :=
  ∀ x y, (op x y = x ∧ key y ≤ key x) ∨ (op x y = y ∧ key x ≤ key y)

theorem SelectsHigher.left_le (h : SelectsHigher key op) (x y : α) : key x ≤ key (op x y) := by
  rcases h x y with ⟨e, -⟩ | ⟨e, le⟩ <;> rw [e]
  exact le

theorem SelectsHigher.right_le (h : SelectsHigher key op) (x y : α) : key y ≤ key (op x y) := by
  rcases h x y with ⟨e, le⟩ | ⟨e, -⟩ <;> rw [e]
  exact le

theorem optStep_eq_or (h : SelectsHigher key op) : ∀ x y, optStep op x y = x ∨ optStep op x y = y
  | some x, some y => (h x y).imp (fun ⟨e, _⟩ => congrArg some e) (fun ⟨e, _⟩ => congrArg some e)
  | some _, none => .inl rfl
  | none, _ => .inr rfl

theorem belowBy_optStep_left (h : SelectsHigher key op) : ∀ x y, BelowBy key x (optStep op x y)
  | some x, some y => fun _ e => ⟨op x y, rfl, Option.some.inj e ▸ h.left_le x y⟩
  | some _, none => belowBy_refl _
  | none, _ => nofun

theorem belowBy_optStep_right (h : SelectsHigher key op) : ∀ x y, BelowBy key y (optStep op x y)
  | some x, some y => fun _ e => ⟨op x y, rfl, Option.some.inj e ▸ h.right_le x y⟩
  | some _, none => nofun
  | none, _ => belowBy_refl _

/-- The tree of a step that selects the higher key: an enabled lane whose key no enabled lane exceeds, or the given value when none is
enabled (R90). -/
theorem reduce32_optStep_getD (sel : SelectsHigher key op) (on : Nat → Bool) (a : Nat → α) (c : α) :
    let w := (reduce32 (optStep op) none (fun i => if on i then some (a i) else none)).getD c
    (∀ i < 32, on i = true → key (a i) ≤ key w) ∧
      ((∃ i < 32, on i = true ∧ w = a i) ∨ ((∀ i < 32, on i = false) ∧ w = c)) := by
  let lane (i : Nat) : Option α := if on i then some (a i) else none
  have above (i : Nat) (hi : i < 32) : BelowBy key (lane i) (reduce32 (optStep op) none lane) :=
    reduce32_above belowBy_refl belowBy_trans (belowBy_optStep_left sel) (belowBy_optStep_right sel) none lane hi
  have lane_on {i : Nat} (h : on i = true) : lane i = some (a i) := if_pos h
  obtain ⟨j, hj, root⟩ := reduce32_mem (optStep_eq_or sel) none lane
  cases hr : reduce32 (optStep op) none lane with
  | none =>
    have off (i : Nat) (hi : i < 32) : on i = false := Bool.eq_false_iff.2 fun h => by
      obtain ⟨b, hb, -⟩ := above i hi _ (lane_on h)
      rw [hr] at hb
      cases hb
    exact ⟨fun i hi h => absurd (off i hi) (by simp [h]), .inr ⟨off, rfl⟩⟩
  | some w =>
    refine ⟨fun i hi h => ?_, .inl ⟨j, hj, ?_⟩⟩
    · obtain ⟨b, hb, hle⟩ := above i hi _ (lane_on h)
      rw [hr] at hb
      cases hb
      exact hle
    · rw [hr] at root
      cases h : on j with
      | false => simp [lane, h] at root
      | true => exact ⟨rfl, Option.some.inj (root.trans (lane_on h))⟩

end Lanes

/-- The sum of lanes that enter as 0 where they are excluded is that of the enabled lanes. -/
theorem sum_getD_eq_sum_filter {n : Nat} (on : Nat → Bool) (a : Nat → BitVec n) (l : List Nat) :
    (l.map fun i => (if on i then some (a i) else none).getD 0).sum = ((l.filter on).map a).sum := by
  induction l with
  | nil => rfl
  | cons i l ih =>
    rw [List.map_cons, List.sum_cons, ih]
    cases h : on i <;> simp [h]

/-! ## The signed selections -/

theorem selectsHigher_signedMax : SelectsHigher BitVec.toInt (fun x y : Lane32 => if x.slt y then y else x) := by
  intro x y
  simp only [BitVec.slt_iff_toInt_lt]
  split
  · exact .inr ⟨rfl, by omega⟩
  · exact .inl ⟨rfl, by omega⟩

/-- The lower value is the one whose negated value is higher. -/
theorem selectsHigher_signedMin : SelectsHigher (fun x => -x.toInt) (fun x y : Lane32 => if y.slt x then y else x) := by
  intro x y
  simp only [BitVec.slt_iff_toInt_lt]
  split
  · exact .inr ⟨rfl, by omega⟩
  · exact .inl ⟨rfl, by omega⟩

end Sys2Proof.Claims
end

section Settled

open Sys2Proof Sys2Proof.Machine Sys2Proof.Claims

/-- Settles O9: the floating trees are those of the model's operations lane by lane, the integer sum does not depend on the order of the
tree, and a tree whose step answers the higher (or lower) of two lanes answers a lane that none exceeds. -/
theorem vectorReductionResults : Obligations.VectorReductionResults := by
  unfold Obligations.VectorReductionResults
  intro s g d ra on a one lane canon flane fsum amax
  refine ⟨?_, ?_, rfl, rfl, ?_, ?_, rfl⟩
  · have lanes (i : Nat) : (s.redLane g ra i).getD 0x80000000 = if on i then a i else 0x80000000 := by
      rw [State.redLane]; exact apply_ite (Option.getD · _) _ _ _
    have tree : fsum = reduce32 (fsumStep s.me.rmode s.me.ftz) ⟨0x80000000, 0⟩ (fun i => ⟨((s.redLane g ra i).getD 0x80000000).toNat, 0⟩) := by
      simp only [fsum, lanes]
    rw [tree]; rfl
  · have sum : reduce32 (fun x y => x + y) 0 (fun i => (s.redLane g ra i).getD 0) = (((List.range 32).filter on).map a).sum :=
      (reduce32_sum 0 _).trans (sum_getD_eq_sum_filter on a _)
    rw [← sum]; rfl
  · exact ⟨_, rfl, reduce32_optStep_getD selectsHigher_signedMax on a _⟩
  · obtain ⟨below, winner⟩ := reduce32_optStep_getD selectsHigher_signedMin on a 0x7FFFFFFF
    exact ⟨_, rfl, fun i hi h => neg_le_neg_iff.1 (below i hi h), winner⟩

end Settled

section
/-! SUPPORT. Elements of a vector register and their flags, and the special cases of the transcendentals (R77, R92, R202, R219). -/

namespace Sys2Proof.Claims

open Sys2Proof Sys2Proof.Machine

/-! ## Elements -/

theorem elemsNat_lt (w : Nat) (f : Nat → Nat) (n : Nat) : elemsNat w f n < 2 ^ (w * n) := by
  induction n with
  | zero => simp [elemsNat]
  | succ n ih =>
    have elem : f n % 2 ^ w + 1 ≤ 2 ^ w := Nat.mod_lt _ (Nat.two_pow_pos _)
    calc elemsNat w f n + f n % 2 ^ w * 2 ^ (w * n)
      _ < (f n % 2 ^ w + 1) * 2 ^ (w * n) := by rw [Nat.succ_mul]; omega
      _ ≤ 2 ^ w * 2 ^ (w * n) := Nat.mul_le_mul_right _ elem
      _ = 2 ^ (w * (n + 1)) := by rw [Nat.mul_succ, Nat.pow_add, Nat.mul_comm]

/-- Element e of an image of n elements. -/
theorem bitsOf_elemsNat (w : Nat) (f : Nat → Nat) {e n : Nat} (h : e < n) : bitsOf (elemsNat w f n) (w * e) w = f e % 2 ^ w := by
  induction n with
  | zero => omega
  | succ n ih =>
    rw [bitsOf, elemsNat]
    rcases Nat.lt_succ_iff_lt_or_eq.1 h with h | rfl
    · obtain ⟨k, rfl⟩ := Nat.exists_eq_add_of_lt h
      have split : f (e + k + 1) % 2 ^ w * 2 ^ (w * (e + k + 1)) = 2 ^ (w * e) * (2 ^ w * (f (e + k + 1) % 2 ^ w * 2 ^ (w * k))) := by
        rw [show w * (e + k + 1) = w * e + (w + w * k) by ring, Nat.pow_add, Nat.pow_add]; ac_rfl
      rw [split, Nat.add_mul_div_left _ _ (Nat.two_pow_pos _), Nat.add_mul_mod_self_left]
      exact ih h
    · rw [Nat.add_mul_div_right _ _ (Nat.two_pow_pos _), Nat.div_eq_of_lt (elemsNat_lt w f e), Nat.zero_add, Nat.mod_mod]

theorem toNat_ofNat_elemsNat {w n b : Nat} (h : w * n ≤ b) (f : Nat → Nat) : (BitVec.ofNat b (elemsNat w f n)).toNat = elemsNat w f n :=
  toNat_ofNat_of_lt ((elemsNat_lt w f n).trans_le (Nat.pow_le_pow_right Nat.two_pos h))

theorem elemOf_vregElems {w n e : Nat} (hw : w * n ≤ 1024) (f : Nat → Nat) (h : e < n) : elemOf (vregElems w n f) w e = f e % 2 ^ w := by
  rw [elemOf, vregElems, toNat_ofNat_elemsNat hw, bitsOf_elemsNat w f h]

/-- Where each written element sets one flag or none, the flags of a result are that flag when some written element sets it. -/
theorem flagsOf_eq_flagIf {lanes : BitVec 32} {w n : Nat} {f : Nat → BitVec 5} {set : Nat → Bool} {fl : BitVec 5}
    (h : ∀ e < n, elemOn lanes w e = true → f e = flagIf (set e) fl) :
    flagsOf lanes w f n = flagIf ((List.range n).any fun e => elemOn lanes w e && set e) fl := by
  induction n with
  | zero => rfl
  | succ n ih =>
    rw [flagsOf, ih fun e he => h e (by omega), List.range_succ, List.any_append]
    cases on : elemOn lanes w n with
    | false => simp [on]
    | true =>
      rw [if_pos rfl, h n (by omega) on]
      simp only [List.any_cons, List.any_nil, on, Bool.true_and, Bool.or_false, flagIf]
      cases set n <;> cases (List.range n).any _ <;> simp

/-- Elements that are special cases hold their codes, and where every written element is one, the flags are NV when one of them names
it (R92). -/
theorem elements_of_special {lanes : BitVec 32} {w : Nat} {x : Nat → Rounded} {r : Nat → Option (Nat × Bool)}
    (h : ∀ e c, r e = some c → x e = ⟨c.1, flagIf c.2 fNV⟩ ∧ c.1 < 2 ^ w) :
    let n := 1024 / w
    (∀ e < n, ∀ c, r e = some c → elemOf (vregElems w n fun e => (x e).code) w e = c.1) ∧
      ((∀ e < n, elemOn lanes w e = true → (r e).isSome = true) → flagsOf lanes w (fun e => (x e).flags) n =
        if (List.range n).any (fun e => elemOn lanes w e && (r e).any (·.2)) then 1 else 0) := by
  refine ⟨fun e he c hc => ?_, fun all => flagsOf_eq_flagIf fun e he on => ?_⟩
  · obtain ⟨hx, hlt⟩ := h e c hc
    rw [elemOf_vregElems (Nat.mul_div_le _ _) _ he, hx, Nat.mod_eq_of_lt hlt]
  · obtain ⟨c, hc⟩ := Option.isSome_iff_exists.1 (all e he on)
    rw [(h e c hc).1, hc]; rfl

/-! ## Special cases of a transcendental (R92) -/

/-- The floating formats of the vector operations (R172). -/
def IsVectorFmt (k : FpFmt) : Prop := k = fp32 ∨ k = fp16 ∨ k = bf16

/-- A column of R92's table: the code for each kind of operand, and whether it comes with NV. -/
structure Specials where
  pinf : Nat × Bool
  ninf : Nat × Bool
  pzero : Nat × Bool
  nzero : Nat × Bool
  neg : Option (Nat × Bool)
  unit : Option (Nat × Bool)

/-- The entry for an operand of value x and code c; none where the exact result is rounded. -/
def Specials.entry (t : Specials) (k : FpFmt) (c : Nat) (x : Exact) : Option (Nat × Bool) :=
  match x with
  | .nan _ => some (k.nanCode false, false)
  | .inf false => some t.pinf
  | .inf true => some t.ninf
  | .fin sg 0 _ _ => some (if sg then t.nzero else t.pzero)
  | .fin true _ _ _ => t.neg
  | .fin false _ _ _ => if c = k.bias * 2 ^ k.mb then t.unit else none

/-- An enclosed value rounds to an entry's code, with its flags. -/
abbrev RoundsTo (k : FpFmt) (ftz : Bool) (v : Enclosed) (c : Nat × Bool) : Prop :=
  v.round k ftz = ⟨c.1, flagIf c.2 fNV⟩ ∧ c.1 < 2 ^ k.width

/-- A transcendental answers the entries of its column. -/
structure Follows (t : Specials) (k : FpFmt) (ftz : Bool) (f : Exact → Enclosed) : Prop where
  nan b : RoundsTo k ftz (f (.nan b)) (k.nanCode false, false)
  pinf : RoundsTo k ftz (f (.inf false)) t.pinf
  ninf : RoundsTo k ftz (f (.inf true)) t.ninf
  zero sg e st : RoundsTo k ftz (f (.fin sg 0 e st)) (if sg then t.nzero else t.pzero)
  neg m e st c : m ≠ 0 → t.neg = some c → RoundsTo k ftz (f (.fin true m e st)) c
  unit c : t.unit = some c → RoundsTo k ftz (f (.fin false (2 ^ k.mb) (-(k.mb : Int)) false)) c

section Formats

variable {k : FpFmt} (hk : IsVectorFmt k) (ftz : Bool)

include hk

theorem roundsTo_nan (nv : Bool) : RoundsTo k ftz (.exact (.nan false) nv) (k.nanCode false, nv) := by
  rcases hk with rfl | rfl | rfl <;> revert ftz nv <;> decide

theorem roundsTo_inf (neg : Bool) :
    RoundsTo k ftz (.exact (.inf neg) false) (if neg then 2 ^ (k.width - 1) + k.infCode else k.infCode, false) := by
  rcases hk with rfl | rfl | rfl <;> revert ftz neg <;> decide

theorem roundsTo_zero (neg : Bool) :
    RoundsTo k ftz (.exact (.fin neg 0 0 false) false) (if neg then 2 ^ (k.width - 1) else 0, false) := by
  rcases hk with rfl | rfl | rfl <;> revert ftz neg <;> decide

theorem roundsTo_one (neg : Bool) :
    RoundsTo k ftz (.exact (.fin neg 1 0 false) false)
      (if neg then 2 ^ (k.width - 1) + k.bias * 2 ^ k.mb else k.bias * 2 ^ k.mb, false) := by
  rcases hk with rfl | rfl | rfl <;> revert ftz neg <;> decide

theorem roundsTo_half : RoundsTo k ftz (.exact (.fin false 1 (-1) false) false) ((k.bias - 1) * 2 ^ k.mb, false) := by
  rcases hk with rfl | rfl | rfl <;> revert ftz <;> decide

theorem roundsTo_two : RoundsTo k ftz (.exact (.fin false 1 1 false) false) ((k.bias + 1) * 2 ^ k.mb, false) := by
  rcases hk with rfl | rfl | rfl <;> revert ftz <;> decide

/-- The code of +1.0 is a normal value, which the flush leaves. -/
theorem flushIn_value_one : k.flushIn ftz (k.value (k.bias * 2 ^ k.mb)) = .fin false (2 ^ k.mb) (-(k.mb : Int)) false := by
  rcases hk with rfl | rfl | rfl <;> revert ftz <;> decide

variable {ftz}

theorem Follows.roundsTo_entry {t : Specials} {f : Exact → Enclosed} (h : Follows t k ftz f) {code : Nat} {x : Exact}
    {c : Nat × Bool} (hx : k.flushIn ftz (k.value code) = x) : t.entry k code x = some c → RoundsTo k ftz (f x) c := by
  match x with
  | .nan b => rintro ⟨⟩; exact h.nan b
  | .inf false => rintro ⟨⟩; exact h.pinf
  | .inf true => rintro ⟨⟩; exact h.ninf
  | .fin neg 0 e st => rintro ⟨⟩; exact h.zero neg e st
  | .fin true (m + 1) e st => exact h.neg (m + 1) e st c m.succ_ne_zero
  | .fin false (m + 1) e st =>
    intro hc
    obtain ⟨is_one, hu⟩ := Option.ite_none_right_eq_some.1 hc
    rw [← hx, is_one, flushIn_value_one hk ftz]
    exact h.unit c hu

end Formats

/-! ## The columns of the table -/

/-- The column of log2. -/
def log2Specials (k : FpFmt) : Specials :=
  { pinf := (k.infCode, false), ninf := (k.nanCode false, true)
    pzero := (2 ^ (k.width - 1) + k.infCode, false), nzero := (2 ^ (k.width - 1) + k.infCode, false)
    neg := some (k.nanCode false, true), unit := some (0, false) }

/-- The column of exp2. -/
def exp2Specials (k : FpFmt) : Specials :=
  { pinf := (k.infCode, false), ninf := (0, false), pzero := (k.bias * 2 ^ k.mb, false), nzero := (k.bias * 2 ^ k.mb, false)
    neg := none, unit := some ((k.bias + 1) * 2 ^ k.mb, false) }

/-- The column of the reciprocal. -/
def rcpSpecials (k : FpFmt) : Specials :=
  { pinf := (0, false), ninf := (2 ^ (k.width - 1), false), pzero := (k.infCode, false)
    nzero := (2 ^ (k.width - 1) + k.infCode, false), neg := none, unit := some (k.bias * 2 ^ k.mb, false) }

/-- The column of the reciprocal square root. -/
def rsqrtSpecials (k : FpFmt) : Specials :=
  { pinf := (0, false), ninf := (k.nanCode false, true), pzero := (k.infCode, false)
    nzero := (2 ^ (k.width - 1) + k.infCode, false), neg := some (k.nanCode false, true), unit := some (k.bias * 2 ^ k.mb, false) }

/-- The column of the sigmoid. -/
def sigSpecials (k : FpFmt) : Specials :=
  { pinf := (k.bias * 2 ^ k.mb, false), ninf := (0, false), pzero := ((k.bias - 1) * 2 ^ k.mb, false)
    nzero := ((k.bias - 1) * 2 ^ k.mb, false), neg := none, unit := none }

/-- The column of tanh. -/
def tanhSpecials (k : FpFmt) : Specials :=
  { pinf := (k.bias * 2 ^ k.mb, false), ninf := (2 ^ (k.width - 1) + k.bias * 2 ^ k.mb, false), pzero := (0, false)
    nzero := (2 ^ (k.width - 1), false), neg := none, unit := none }

section Columns

variable {k : FpFmt} (hk : IsVectorFmt k) (ftz : Bool)

include hk

theorem transLog2_follows : Follows (log2Specials k) k ftz transLog2 where
  nan _ := roundsTo_nan hk ftz false
  pinf := roundsTo_inf hk ftz false
  ninf := roundsTo_nan hk ftz true
  zero sg _ _ := by cases sg <;> exact roundsTo_inf hk ftz true
  neg m e st c hm := by
    rintro ⟨⟩
    rw [show transLog2 (.fin true m e st) = .exact (.nan false) true by simp [transLog2, hm]]
    exact roundsTo_nan hk ftz true
  unit c := by
    rintro ⟨⟩
    rcases hk with rfl | rfl | rfl <;> revert ftz <;> decide

theorem transExp2_follows : Follows (exp2Specials k) k ftz transExp2 where
  nan _ := roundsTo_nan hk ftz false
  pinf := roundsTo_inf hk ftz false
  ninf := roundsTo_zero hk ftz false
  zero sg _ _ := by cases sg <;> exact roundsTo_one hk ftz false
  neg _ _ _ _ _ := nofun
  unit c := by
    rintro ⟨⟩
    rcases hk with rfl | rfl | rfl <;> revert ftz <;> decide

theorem transRcp_follows : Follows (rcpSpecials k) k ftz transRcp where
  nan _ := roundsTo_nan hk ftz false
  pinf := roundsTo_zero hk ftz false
  ninf := roundsTo_zero hk ftz true
  zero sg _ _ := by cases sg <;> exact roundsTo_inf hk ftz _
  neg _ _ _ _ _ := nofun
  unit c := by
    rintro ⟨⟩
    rcases hk with rfl | rfl | rfl <;> revert ftz <;> decide

theorem transRsqrt_follows : Follows (rsqrtSpecials k) k ftz transRsqrt where
  nan _ := roundsTo_nan hk ftz false
  pinf := roundsTo_zero hk ftz false
  ninf := roundsTo_nan hk ftz true
  zero sg _ _ := by cases sg <;> exact roundsTo_inf hk ftz _
  neg m e st c hm := by
    rintro ⟨⟩
    rw [show transRsqrt (.fin true m e st) = .exact (.nan false) true by simp [transRsqrt, hm]]
    exact roundsTo_nan hk ftz true
  unit c := by
    rintro ⟨⟩
    rcases hk with rfl | rfl | rfl <;> revert ftz <;> decide

theorem transSig_follows : Follows (sigSpecials k) k ftz transSig where
  nan _ := roundsTo_nan hk ftz false
  pinf := roundsTo_one hk ftz false
  ninf := roundsTo_zero hk ftz false
  zero sg _ _ := by cases sg <;> exact roundsTo_half hk ftz
  neg _ _ _ _ _ := nofun
  unit _ := nofun

theorem transTanh_follows : Follows (tanhSpecials k) k ftz transTanh where
  nan _ := roundsTo_nan hk ftz false
  pinf := roundsTo_one hk ftz false
  ninf := roundsTo_one hk ftz true
  zero sg _ _ := by cases sg <;> exact roundsTo_zero hk ftz _
  neg _ _ _ _ _ := nofun
  unit _ := nofun

end Columns

end Sys2Proof.Claims
end

section Settled

open Sys2Proof Sys2Proof.Machine Sys2Proof.Claims

/-- Settles O10: a transcendental posts one elementwise result, whatever the free pick between its bounds, and an element whose operand is
a special case takes the code and the flags of its entry in the table. -/
theorem transcendentalResults : Obligations.TranscendentalResults := by
  unfold Obligations.TranscendentalResults
  refine ⟨fun s g d ra m => ⟨rfl, rfl, rfl, rfl, rfl, rfl⟩, fun s g d ra m hm => ?_⟩
  intro k w n lanes nan inf sign one half two row completes
  have fmt : fpOf (m.toNat - 8) = k ∧ IsVectorFmt k := by
    rcases hm with rfl | rfl | rfl <;> simp [k, fpOf, IsVectorFmt]
  obtain ⟨hfpOf, hk⟩ := fmt
  let src (e : Nat) : Exact := k.flushIn s.me.ftz (k.value (elemOf (s.me.rv ra) w e))
  have of {i : Instr} {f : Exact → Enclosed} {t : Specials} (run : exec i s = .next (s.opTrans g d ra m f))
      (h : Follows t k s.me.ftz f) : completes i fun e => t.entry k (elemOf (s.me.rv ra) w e) (src e) :=
    ⟨_, _, run.trans (by rw [State.opTrans, hfpOf]; rfl), elements_of_special fun e c hc => h.roundsTo_entry hk rfl hc⟩
  exact ⟨of rfl (transLog2_follows hk _), of rfl (transExp2_follows hk _), of rfl (transRcp_follows hk _),
    of rfl (transRsqrt_follows hk _), of rfl (transSig_follows hk _), of rfl (transTanh_follows hk _)⟩

end Settled

section
/-! SUPPORT. The stores of a core and their side bits after each write, and what a store operation does once its tests pass (R98, R99,
R105, R107, R128, R131, R250, R251, R312, R329, R408). -/

namespace Sys2Proof.Claims

open Sys2Proof Sys2Proof.Machine

variable {s u : State}

/-! ## Stores, side bits and teams of a core after each update -/

@[simp] theorem store_setSide (c : Core) (v u : Bool) (w : Nat) (b : Side) : (c.setSide v w b).store u = c.store u := by
  unfold Core.setSide
  split <;> rfl

@[simp] theorem teams_setSide (c : Core) (v : Bool) (w : Nat) (b : Side) : (c.setSide v w b).teams = c.teams := by
  unfold Core.setSide
  split <;> rfl

theorem side_setSide (c : Core) (v u : Bool) (w k : Nat) (b : Side) :
    (c.setSide v w b).side u k = if u = v ∧ k = w then b else c.side u k := by
  by_cases hk : k = w
  · subst hk
    cases u <;> cases v <;> simp [Core.setSide, Core.side, Core.sides]
  · cases u <;> cases v <;> simp [Core.setSide, Core.side, Core.sides, SMap.get_set_ne _ _ _ hk, hk]

theorem store_setStore (c : Core) (v u : Bool) (m : Memory) : (c.setStore v m).store u = if u = v then m else c.store u := by
  cases u <;> cases v <;> rfl

@[simp] theorem side_setStore (c : Core) (v u : Bool) (m : Memory) (w : Nat) : (c.setStore v m).side u w = c.side u w := by
  cases u <;> cases v <;> rfl

@[simp] theorem teams_setStore (c : Core) (v : Bool) (m : Memory) : (c.setStore v m).teams = c.teams := by
  cases v <;> rfl

@[simp] theorem store_clearPoison (c : Core) (v u : Bool) (off n : Nat) : (c.clearPoison v off n).store u = c.store u := by
  cases v <;> rfl

@[simp] theorem side_clearPoison (c : Core) (v u : Bool) (off n w : Nat) : (c.clearPoison v off n).side u w = c.side u w := by
  cases v <;> rfl

@[simp] theorem teams_clearPoison (c : Core) (v : Bool) (off n : Nat) : (c.clearPoison v off n).teams = c.teams := by
  cases v <;> rfl

/-- Which entry maps a word depends on the teams alone. -/
theorem mapOf_congr {c d : Core} (h : c.teams = d.teams) (v : Bool) (w : Nat) : c.mapOf v w = d.mapOf v w := by
  rw [Core.mapOf, h]; rfl

/-- The state reads core k as the value that was written, or as before. -/
theorem core_setCore (s : State) (c k : Nat) (v : Core) : (s.setCore c v).core k = if k = c then v else s.core k := by
  split
  · next h => rw [h, State.setCore_core_same]
  · next h => exact State.setCore_core_ne s v h

/-! ## A store at a location (R98, R105) -/

/-- A word of a core's store after a store: it is VALID and DIRTY where an entry maps it. -/
def markWord (v : Bool) (c : Core) (w : Nat) : Core := if (c.mapOf v w).isSome then c.setSide v w .stored else c

theorem store_markWord (v u : Bool) (c : Core) (w : Nat) : (markWord v c w).store u = c.store u := by
  unfold markWord
  split
  · exact store_setSide ..
  · rfl

theorem teams_markWord (v : Bool) (c : Core) (w : Nat) : (markWord v c w).teams = c.teams := by
  unfold markWord
  split
  · exact teams_setSide ..
  · rfl

theorem side_markWord (v u : Bool) (c : Core) (w k : Nat) : (markWord v c w).side u k =
    if u = v ∧ k = w ∧ (c.mapOf u k).isSome = true then .stored else c.side u k := by
  unfold markWord
  by_cases hw : (c.mapOf v w).isSome = true
  · rw [if_pos hw, side_setSide]
    refine if_congr (and_congr_right fun hu => (iff_self_and).2 fun hk => ?_) rfl rfl
    rwa [hu, hk]
  · rw [if_neg hw, if_neg]
    rintro ⟨rfl, rfl, h⟩
    exact hw h

/-- Some words of a core's store after a store. -/
def marked (v : Bool) (ws : List Nat) (c : Core) : Core := ws.foldl (markWord v) c

theorem store_marked (v u : Bool) (ws : List Nat) (c : Core) : (marked v ws c).store u = c.store u := by
  induction ws generalizing c with
  | nil => rfl
  | cons w r ih => exact (ih _).trans (store_markWord ..)

theorem teams_marked (v : Bool) (ws : List Nat) (c : Core) : (marked v ws c).teams = c.teams := by
  induction ws generalizing c with
  | nil => rfl
  | cons w r ih => exact (ih _).trans (teams_markWord ..)

theorem side_marked (v u : Bool) (ws : List Nat) (k : Nat) (c : Core) :
    (marked v ws c).side u k = if u = v ∧ k ∈ ws ∧ (c.mapOf u k).isSome = true then .stored else c.side u k := by
  induction ws generalizing c with
  | nil => rw [if_neg fun h => absurd h.2.1 List.not_mem_nil]; rfl
  | cons w r ih =>
    refine (ih _).trans ?_
    rw [mapOf_congr (teams_markWord ..), side_markWord, ← ite_or]
    refine if_congr ?_ rfl rfl
    rw [List.mem_cons]
    tauto

theorem core_wrLoc (s : State) (l : Loc) (n v k : Nat) : (s.wrLoc l n v).core k =
    if k = l.core then marked l.vault (wordsOf l.off n) (((s.core l.core).setStore l.vault
      (Memory.wrN ((s.core l.core).store l.vault) l.off v n)).clearPoison l.vault l.off n) else s.core k :=
  core_setCore ..

theorem store_wrLoc (s : State) (l : Loc) (n v k : Nat) (u : Bool) : ((s.wrLoc l n v).core k).store u =
    if k = l.core ∧ u = l.vault then Memory.wrN ((s.core k).store u) l.off v n else (s.core k).store u := by
  rw [core_wrLoc]
  by_cases hk : k = l.core
  · subst hk
    rw [if_pos rfl, store_marked, store_clearPoison, store_setStore]
    by_cases hu : u = l.vault
    · subst hu; simp
    · simp [hu]
  · simp [hk]

theorem teams_wrLoc (s : State) (l : Loc) (n v k : Nat) : ((s.wrLoc l n v).core k).teams = (s.core k).teams := by
  rw [core_wrLoc]
  split
  · next h => rw [teams_marked, teams_clearPoison, teams_setStore, h]
  · rfl

theorem side_wrLoc (s : State) (l : Loc) (n v k : Nat) (u : Bool) (w : Nat) : ((s.wrLoc l n v).core k).side u w =
    if k = l.core ∧ u = l.vault ∧ w ∈ wordsOf l.off n ∧ ((s.core k).mapOf u w).isSome = true then .stored
    else (s.core k).side u w := by
  rw [core_wrLoc]
  by_cases hk : k = l.core
  · subst hk
    rw [if_pos rfl, side_marked, side_clearPoison, side_setStore,
      mapOf_congr ((teams_clearPoison ..).trans (teams_setStore ..))]
    simp
  · simp [hk]

/-- A store leaves every byte outside it. -/
theorem rd_wrLoc_out {l : Loc} {n v k i : Nat} {u : Bool} (h : k ≠ l.core ∨ u ≠ l.vault ∨ i < l.off ∨ l.off + n ≤ i) :
    Memory.rd (((s.wrLoc l n v).core k).store u) i = Memory.rd ((s.core k).store u) i := by
  rw [store_wrLoc]
  split
  · next e => exact Memory.rd_wrN_out _ _ _ _ _ ((h.resolve_left (not_not.2 e.1)).resolve_left (not_not.2 e.2))
  · rfl

/-- The bytes of a store read as the number stored. -/
theorem rdN_wrLoc (l : Loc) (n v : Nat) :
    Memory.rdN (((s.wrLoc l n v).core l.core).store l.vault) l.off n = v % 256 ^ n := by
  rw [store_wrLoc, if_pos ⟨rfl, rfl⟩, Memory.rdN_wrN]

/-- Stores leave every byte outside them. -/
theorem rd_foldl_wrLoc_out {n k i : Nat} {u : Bool} (es : List (Loc × Word)) (s : State)
    (h : ∀ e ∈ es, k ≠ e.1.core ∨ u ≠ e.1.vault ∨ i < e.1.off ∨ e.1.off + n ≤ i) :
    Memory.rd (((es.foldl (fun u e => u.wrLoc e.1 n e.2.toNat) s).core k).store u) i = Memory.rd ((s.core k).store u) i := by
  induction es generalizing s with
  | nil => rfl
  | cons e r ih =>
    rw [List.foldl_cons, ih _ fun f hf => h f (List.mem_cons_of_mem _ hf), rd_wrLoc_out (h e List.mem_cons_self)]

/-- A context written with its own value reads as before, and so does every other. -/
theorem ctx_setCtx_self (u : State) (x y : CtxNo) : (u.setCtx x (u.ctx x)).ctx y = u.ctx y := by
  by_cases h : y = x
  · rw [h, State.setCtx_ctx_same]
  · exact State.setCtx_ctx_ne u _ h

/-! ## The elements of a store that is no merge -/

/-- Words that are usable take no merge store (R107). -/
theorem isMerge_of_usable {l : Loc} {n : Nat} (h : n < 4 → s.allUsable l n = true) : s.isMerge l n = false := by
  by_cases hn : n < 4
  · have usable := List.all_eq_true.1 (h hn)
    have none : (wordsOf l.off n).any (fun w => !s.usable l.core l.vault w && !s.storedWord l.core l.vault w) = false :=
      List.any_eq_false.2 fun w hw => by simp [usable w hw]
    rw [State.isMerge, none, Bool.and_false]
  · simp [State.isMerge, hn]

section Elements

variable {n : Nat} {es : List (Loc × Word)}

/-- The state that a store finds at the port (R99, R312). -/
def storePort (s : State) (n : Nat) (es : List (Loc × Word)) : State := s.portFirst (es.map (fun e => (e.1, n))) true

/-- What a store that finds this state follows (R128, R130, R131). -/
def storeWaits (s : State) (n : Nat) (es : List (Loc × Word)) : List Nat :=
  (storePort s n es).waitsFor s.issue.x (es.map (fun e => (e.1, n)))

/-- How long it waits in the queue of its bank (log 83). -/
def storeWait (s : State) (n : Nat) (es : List (Loc × Word)) : Nat := Config.storeHold (storePort s n es).nextOp % 4

theorem storeElems_eq (hm : ∀ e ∈ es, (storePort s n es).isMerge e.1 n = false) : s.storeElems n es =
    let u := storePort s n es
    let now := (storeWaits s n es).isEmpty && decide (storeWait s n es = 0)
    State.modCtx { u with
      nextOp := u.nextOp + 1
      cores := if now then (es.foldl (fun u e => u.wrLoc e.1 n e.2.toNat) u).cores else u.cores } s.issue.x (fun c =>
      { c with stq := if now then c.stq else c.stq ++ [newStore u.nextOp n es (storeWaits s n es) (storeWait s n es) s.me.pc] }) :=
  if_neg (by rw [List.any_eq_true]; rintro ⟨e, he, h⟩; exact Bool.false_ne_true ((hm e he).symm.trans h))

/-- A store that waits for nothing writes its elements and changes nothing else. -/
theorem storeElems_now (hm : ∀ e ∈ es, (storePort s n es).isMerge e.1 n = false) (hold : storeWait s n es = 0)
    (wait : storeWaits s n es = []) :
    (s.storeElems n es).cores = (es.foldl (fun u e => u.wrLoc e.1 n e.2.toNat) (storePort s n es)).cores ∧
      (∀ y, (s.storeElems n es).ctx y = (storePort s n es).ctx y) ∧ (s.storeElems n es).dram = (storePort s n es).dram ∧
      (s.storeElems n es).hostMem = (storePort s n es).hostMem ∧ (s.storeElems n es).issue = (storePort s n es).issue := by
  rw [storeElems_eq hm, hold, wait]
  exact ⟨rfl, fun y => ctx_setCtx_self _ _ y, rfl, rfl, rfl⟩

/-- A store that waits enters the context's queue and changes nothing else. -/
theorem storeElems_later (hm : ∀ e ∈ es, (storePort s n es).isMerge e.1 n = false)
    (h : 0 < storeWait s n es ∨ storeWaits s n es ≠ []) : s.storeElems n es =
      State.setCtx { storePort s n es with nextOp := (storePort s n es).nextOp + 1 } s.issue.x { (storePort s n es).ctx s.issue.x with
        stq := ((storePort s n es).ctx s.issue.x).stq ++
          [newStore (storePort s n es).nextOp n es (storeWaits s n es) (storeWait s n es) s.me.pc] } := by
  have later : ((storeWaits s n es).isEmpty && decide (storeWait s n es = 0)) = false := by
    rcases h with h | h
    · simp [Nat.pos_iff_ne_zero.1 h]
    · simp [h]
  rw [storeElems_eq hm, later]
  rfl

end Elements

/-! ## Stores whose tests pass -/

/-- Every address of a list is that of its location, which a store may write, and none is below the spill limit (R98, R107, R329). -/
def Passes (s : State) (vault : Bool) (n : Nat) (ra : BitVec 6) (l : List (Nat × Loc)) : Prop :=
  ∀ p ∈ l, s.myResolve vault p.1 n = .ok p.2 ∧ s.readOnly p.2 n = false ∧ s.isMerge p.2 n = false ∧
    (vault = false → ra = 4 → s.me.splim.toNat ≤ p.1)

section Passing

variable {vault : Bool} {n : Nat} {ra : BitVec 6} {l : List (Nat × Loc)}

theorem locsOf_passing (h : Passes s vault n ra l) : s.locsOf vault n (l.map (·.1)) = l.map (·.2) := by
  induction l with
  | nil => rfl
  | cons p r ih =>
    simp only [List.map_cons, State.locsOf, List.filterMap_cons, (h p List.mem_cons_self).1]
    exact congrArg _ (ih fun q hq => h q (List.mem_cons_of_mem _ hq))

theorem storePre_passing (h : Passes s vault n ra l) : storePre s vault n ra (l.map (·.1)) = .go := by
  have resolved : ∀ b ∈ l.map (·.1), ∃ k, s.myResolve vault b n = .ok k ∧ s.readOnly k n = false ∧ s.isMerge k n = false := by
    intro b hb
    obtain ⟨p, hp, rfl⟩ := List.mem_map.1 hb
    obtain ⟨hr, ho, hm, -⟩ := h p hp
    exact ⟨p.2, hr, ho, hm⟩
  have room : ¬NoEntry s vault n (l.map (·.1)) := by
    rintro ⟨⟨b, hb, k, hk, hm⟩, -⟩
    obtain ⟨k', hk', -, hm'⟩ := resolved b hb
    rw [hk', Except.ok.injEq] at hk
    rw [← hk, hm'] at hm
    exact absurd hm (by decide)
  have above : ¬Spills s vault ra (l.map (·.1)) := by
    rintro ⟨⟨hv, ha⟩, b, hb, lt⟩
    obtain ⟨p, hp, rfl⟩ := List.mem_map.1 hb
    obtain ⟨-, -, -, le⟩ := h p hp
    exact absurd lt (Nat.not_lt.2 (le hv ha))
  have early : ∀ b ∈ l.map (·.1), ¬Early s vault n b := by
    intro b hb e
    obtain ⟨k, hk, -⟩ := resolved b hb
    rw [Early, hk] at e
    simp at e
  have writable : (l.map (·.1)).find? (fun b => (s.locsOf vault n [b]).any (fun p => s.readOnly p n)) = none := by
    refine List.find?_eq_none.2 fun b hb hr => ?_
    obtain ⟨k, hk, ro⟩ := readOnly_iff.1 hr
    obtain ⟨k', hk', ho, -⟩ := resolved b hb
    rw [hk', Except.ok.injEq] at hk
    rw [← hk, ho] at ro
    exact absurd ro (by decide)
  rw [storePre_eq room, early_none fun _ => early, firstBad_of_ok fun b hb => ?_, writable]
  · exact if_neg (mt spill_iff.1 above)
  · obtain ⟨k, hk, -⟩ := resolved b hb
    exact ⟨k, hk⟩

theorem storeOp_passing {g : BitVec 4} {d k : BitVec 6} {o : Loc} (hg : s.me.guard0 g = true)
    (h : Passes s vault n ra [(storeAddr s ra k n, o)]) : storeOp s g vault n d ra k =
      s.storeElems n [(o, BitVec.ofNat 64 ((s.me.rs d).toNat % 2 ^ (8 * n)))] := by
  have locs : s.locsOf vault n [storeAddr s ra k n] = [o] := locsOf_passing h
  have pre : storePre s vault n ra [storeAddr s ra k n] = .go := storePre_passing h
  rw [storeOp, pre, gated_go hg, locs]
  rfl

theorem vstoreOp_off {g : BitVec 4} {m : Nat} {d k : BitVec 6} (h : lanesBelow (s.me.guard g) m = []) :
    vstoreOp s g vault m d ra k = s := by
  simp [vstoreOp, vecAddrs, h]

theorem vstoreOp_passing {g : BitVec 4} {m : Nat} {d k : BitVec 6} {at_ : Nat → Loc} (hl : lanesBelow (s.me.guard g) m ≠ [])
    (h : Passes s vault 4 ra ((lanesBelow (s.me.guard g) m).map (fun i => (storeAddr s ra k (4 * m) + 4 * i, at_ i)))) :
    vstoreOp s g vault m d ra k =
      s.storeElems 4 ((lanesBelow (s.me.guard g) m).map (fun i => (at_ i, (laneOf (s.me.rv d) i).setWidth 64))) := by
  have addrs : vecAddrs (s.me.guard g) m (storeAddr s ra k (4 * m)) false =
      ((lanesBelow (s.me.guard g) m).map (fun i => (storeAddr s ra k (4 * m) + 4 * i, at_ i))).map (·.1) :=
    (List.map_map (f := fun i => (storeAddr s ra k (4 * m) + 4 * i, at_ i)) (g := Prod.fst)).symm
  have some_ : ¬(vecAddrs (s.me.guard g) m (storeAddr s ra k (4 * m)) false).isEmpty = true := by
    simpa [vecAddrs] using hl
  refine (if_neg some_).trans ?_
  rw [addrs, storePre_passing h, locsOf_passing h, List.map_map]
  exact congrArg (s.storeElems 4) List.zip_map'


end Passing

/-! ## A queued store performs (R128, R131) -/

theorem storeFill_of_usable {p : PendStore} {l : Loc} {v : Word} (h : p.n < 4 → s.allUsable l p.n = true) :
    s.storeFill p (l.core, l.vault, l.off, v) = false := by
  by_cases hn : p.n < 4
  · have usable := List.all_eq_true.1 (h hn)
    have none : (wordsOf l.off p.n).any (fun w => !p.raw.contains (l.vault, w) && !s.usable l.core l.vault w) = false :=
      List.any_eq_false.2 fun w hw => by simp [usable w hw]
    rw [State.storeFill, none, Bool.and_false]
  · simp [State.storeFill, hn]

/-- A store none of whose words was captured or mapped meanwhile performs as one that issues. -/
theorem storeElem_plain {p : PendStore} {e : Nat × Bool × Nat × Word} (hf : p.flushed = []) (hr : p.raw = []) :
    s.storeElem p e = s.wrLoc ⟨e.1, e.2.1, e.2.2.1⟩ p.n e.2.2.2.toNat := by
  simp only [State.storeElem, hf, hr, List.contains_nil, Bool.false_eq_true, if_false]
  exact List.foldl_fixed ..

theorem pollStores_one {x : CtxNo} {p : PendStore} {l : Loc} {v : Word} (he : p.elems = [(l.core, l.vault, l.off, v)])
    (hh : p.hold = 0) (ha : s.clearOf x p.after = true) (hu : p.n < 4 → s.allUsable l p.n = true) (hf : p.flushed = [])
    (hr : p.raw = []) : s.pollStores x [p] = ([], (s.wrLoc l p.n v.toNat).modCtx x (fun c =>
      { c with stq := c.stq.filter (fun q => q.id ≠ p.id) })) := by
  have ready : ¬(0 < p.hold || !s.clearOf x p.after) = true := by simp [hh, ha]
  have whole : p.elems.find? (s.storeFill p) = none := by
    rw [he, List.find?_cons, storeFill_of_usable hu]; rfl
  simp only [State.pollStores, if_neg ready, whole, Option.isNone_none, if_true]
  rw [he, List.foldl_cons, storeElem_plain hf hr]
  rfl

end Sys2Proof.Claims
end

section Settled

open Sys2Proof Sys2Proof.Machine Sys2Proof.Claims

/-- Settles O15: a scalar store whose tests pass is a store of one element, now or from its queue. -/
theorem scalarStoreEffects : Obligations.ScalarStoreEffects := by
  unfold Obligations.ScalarStoreEffects
  refine ⟨fun s g d ra k l hg => ?_, fun s x p l v he hh ha hu hf hr => ?_⟩
  · intro x out
    have store (vault : Bool) (n : Nat) (hn : n ≤ 8) : out (.next (storeOp s g vault n d ra k)) vault n := by
      intro resolves spill writable usable
      let v := (s.me.rs d).toNat % 2 ^ (8 * n)
      have pass : Passes s vault n ra [(storeAddr s ra k n, l)] := by
        intro p hp
        rw [List.mem_singleton] at hp
        subst hp
        exact ⟨resolves, writable, isMerge_of_usable fun h => (usable h).1, spill⟩
      have value : (BitVec.ofNat 64 v).toNat = v := by
        refine (BitVec.toNat_ofNat ..).trans (Nat.mod_eq_of_lt (lt_of_lt_of_le (Nat.mod_lt _ (Nat.two_pow_pos _)) ?_))
        exact Nat.pow_le_pow_right (by omega) (by omega)
      have plain : ∀ e ∈ [(l, BitVec.ofNat 64 v)], (storePort s n [(l, BitVec.ofNat 64 v)]).isMerge e.1 n = false := by
        intro e he
        rw [List.mem_singleton] at he
        subst he
        exact isMerge_of_usable fun h => (usable h).2
      rw [storeOp_passing hg pass]
      refine ⟨fun h0 hw => ⟨_, rfl, ?_⟩, fun h => congrArg _ (storeElems_later plain h)⟩
      obtain ⟨cores, ctxs, dram, host, issue⟩ := storeElems_now plain h0 hw
      refine ⟨?_, fun c u' i h => ?_, ctxs, dram, host, issue⟩
      · rw [core_congr cores]
        refine (rdN_wrLoc l n _).trans ?_
        rw [value, ← Nat.pow_mul 2 8 n]
        exact Nat.mod_mod _ _
      · rw [core_congr cores]
        exact rd_wrLoc_out h
    exact ⟨store _ _ (by decide), store _ _ (by decide), store _ _ (by decide), store _ _ (by decide), store _ _ (by decide),
      store _ _ (by decide), store _ _ (by decide), store _ _ (by decide)⟩
  · intro t
    have poll := pollStores_one he hh ha hu hf hr
    have ht : t = _ := congrArg Prod.snd poll
    refine ⟨congrArg Prod.fst poll, ?_, ?_, fun c u i h => ?_, fun y hy => ?_, ?_, ?_⟩
    · rw [ht]; exact congrArg Ctx.stq (State.setCtx_ctx_same ..)
    · rw [ht]; exact rdN_wrLoc l p.n v.toNat
    · rw [ht]; exact rd_wrLoc_out h
    · rw [ht]; exact State.setCtx_ctx_ne _ _ hy
    · rw [ht]; rfl
    · rw [ht]; rfl

/-- Settles O16: a vector store whose tests pass is a store of one word for each enabled lane; a store at a location in its bytes and its
side bits. -/
theorem vectorStoresAndMappedWords : Obligations.VectorStoresAndMappedWords := by
  unfold Obligations.VectorStoresAndMappedWords
  refine ⟨fun s g d ra k at_ => ?_, fun s l n v => ?_⟩
  · intro x lanes out
    have store (vault : Bool) (m : Nat) : out (.next (vstoreOp s g vault m d ra k)) vault m := by
      refine ⟨fun h => congrArg _ (vstoreOp_off h), fun hl pass => ?_⟩
      let ls := lanesBelow (s.me.guard g) m
      let u := s.portFirst (ls.map (fun i => (at_ i, 4))) true
      let hold := Config.storeHold u.nextOp % 4
      let wait := u.waitsFor x (ls.map (fun i => (at_ i, 4)))
      let es : List (Loc × Word) := ls.map (fun i => (at_ i, (laneOf (s.me.rv d) i).setWidth 64))
      have port : storePort s 4 es = u := by
        simp only [storePort, es, List.map_map]; rfl
      have waits : storeWaits s 4 es = wait := by
        simp only [storeWaits, port, es, List.map_map]; rfl
      have held : storeWait s 4 es = hold := by rw [storeWait, port]
      have plain : ∀ e ∈ es, (storePort s 4 es).isMerge e.1 4 = false := fun e _ => isMerge_of_usable (by omega)
      have passes : Passes s vault 4 ra (ls.map (fun i => (storeAddr s ra k (4 * m) + 4 * i, at_ i))) := by
        intro p hp
        obtain ⟨i, hi, rfl⟩ := List.mem_map.1 hp
        obtain ⟨hr, ho, hs⟩ := pass i hi
        exact ⟨hr, ho, isMerge_of_usable (by omega), hs⟩
      have now := storeElems_now plain
      have later := storeElems_later plain
      rw [port, waits, held] at now later
      rw [vstoreOp_passing hl passes]
      refine ⟨fun h0 hw => ⟨_, rfl, ?_⟩, fun h => congrArg _ (later h)⟩
      obtain ⟨cores, ctxs, dram, host, -⟩ := now h0 hw
      refine ⟨?_, fun c v j h => ?_, ctxs, dram, host⟩
      · refine cores.trans ?_
        rw [List.foldl_map]
        simp only [BitVec.toNat_setWidth, Nat.mod_eq_of_lt (lt_trans (laneOf _ _).isLt (by decide : 2 ^ 32 < 2 ^ 64))]
        rfl
      · rw [core_congr cores]
        refine rd_foldl_wrLoc_out _ _ fun e he => ?_
        obtain ⟨i, hi, rfl⟩ := List.mem_map.1 he
        exact h i hi
    exact ⟨store _ _, store _ _, store _ _, store _ _⟩
  · refine ⟨rdN_wrLoc l n v, fun w hw hm => ?_, fun c u w h => ?_⟩
    · exact (side_wrLoc ..).trans (if_pos ⟨rfl, rfl, hw, hm⟩)
    · refine (side_wrLoc ..).trans (if_neg ?_)
      rintro ⟨hc, hu, hw, hm⟩
      rcases h with h | h | h | h
      · exact h hc
      · exact h hu
      · exact h hw
      · rw [h] at hm; exact absurd hm (by decide)

end Settled

section
/-! SUPPORT. The tests and the effect of bgt.map, and the fills that an entry starts (R103 to R106, R252, R253, R255). -/

namespace Sys2Proof.Claims

open Sys2Proof Sys2Proof.Machine

variable {s : State} {t : Team} {x : CtxNo} {core task n : Nat} {b : Bight} {orig : Word}

/-! ## Teams and ranges of a core -/

theorem team?_modTeam (c : Core) (task : Nat) {f : Team → Team} (hf : ∀ t, (f t).task = t.task) :
    (c.modTeam task f).team? task = (c.team? task).map f := by
  have go (l : List Team) : (l.map (fun k => if k.task = task then f k else k)).find? (fun k => k.task = task) =
      (l.find? (fun k => k.task = task)).map f := by
    induction l with
    | nil => rfl
    | cons k r ih => by_cases h : k.task = task <;> simp [h, hf, ih]
  exact go c.teams

/-- A team with entry n replaced. -/
def withEntry (t : Team) (n : Nat) (b : Bight) : Team := { t with bights := SMap.set Bight.none t.bights n b }

theorem entry_same (t : Team) (n : Nat) (b : Bight) : SMap.get Bight.none (withEntry t n b).bights n = b :=
  SMap.get_set_same _ _ _ _

theorem entry_ne (t : Team) {n k : Nat} (b : Bight) (h : k ≠ n) :
    SMap.get Bight.none (withEntry t n b).bights k = SMap.get Bight.none t.bights k :=
  SMap.get_set_ne _ _ _ h

theorem team?_withEntry (c : Core) (task n : Nat) (b : Bight) :
    (c.modTeam task (fun t => withEntry t n b)).team? task = (c.team? task).map (fun t => withEntry t n b) :=
  team?_modTeam c task fun _ => rfl

theorem side_clearRange (c : Core) (v u : Bool) (lo n w : Nat) :
    (c.clearRange v lo n).side u w = if u = v ∧ lo ≤ w ∧ w < lo + n then Side.none else c.side u w := by
  have kept (m : SMap Side) : SMap.get Side.none (m.filter (fun e => decide (e.1 < lo) || decide (lo + n ≤ e.1))) w =
      if lo ≤ w ∧ w < lo + n then Side.none else SMap.get Side.none m w := by
    rw [SMap.get_filter Side.none (fun a => decide (a < lo) || decide (lo + n ≤ a)), ← ite_not]
    refine if_congr ?_ rfl rfl
    simp only [Bool.or_eq_true, decide_eq_true_eq]
    omega
  cases u <;> cases v <;> simp [Core.clearRange, Core.side, Core.sides, kept]

theorem store_clearRange (c : Core) (v u : Bool) (lo n : Nat) : (c.clearRange v lo n).store u = c.store u := by
  cases v <;> rfl

theorem teams_clearRange (c : Core) (v : Bool) (lo n : Nat) : (c.clearRange v lo n).teams = c.teams := by
  cases v <;> rfl

/-! ## The fills that an entry starts (R106, R253, R255) -/

/-- Starting a line's fill changes nothing but the operations and the next number. -/
theorem startLine_frame (line : Nat) :
    { s.startLine x core t n b line orig with ops := s.ops, nextOp := s.nextOp } = s := by
  unfold State.startLine
  split <;> rfl

theorem startLines_frame (l : List Nat) :
    { l.foldl (fun s l => s.startLine x core t n b l orig) s with ops := s.ops, nextOp := s.nextOp } = s := by
  induction l generalizing s with
  | nil => rfl
  | cons a r ih =>
    calc { r.foldl (fun s l => s.startLine x core t n b l orig) (s.startLine x core t n b a orig) with
            ops := s.ops, nextOp := s.nextOp }
        = { s.startLine x core t n b a orig with ops := s.ops, nextOp := s.nextOp } :=
          congrArg (fun u : State => { u with ops := s.ops, nextOp := s.nextOp }) ih
      _ = s := startLine_frame a

theorem startElems_frame (e k : Nat) :
    { s.startElems x core t n b orig e k with ops := s.ops, nextOp := s.nextOp } = s := by
  induction k generalizing s e with
  | zero => rfl
  | succ k ih =>
    exact (congrArg (fun u : State => { u with ops := s.ops, nextOp := s.nextOp }) (ih (e + 1))).trans (startLines_frame _)

/-! ## A descriptor's fields (R103, R104) -/

theorem bightOf_fields (d gen : Nat) : let b := bightOf d gen
    b.vbase.toNat = bitsOf d 0 64 ∧ b.stride.toNat = bitsOf d 64 32 ∧ b.count.toNat = bitsOf d 96 24 ∧
      b.elem.toNat = bitsOf d 120 10 ∧ b.loff.toNat = bitsOf d 136 24 ∧ b.lt.toNat = bitsOf d 164 8 := by
  simp [bightOf, bitsOf]

/-- The words of a descriptor's range. -/
theorem words_bightOf (d gen : Nat) : (bightOf d gen).words = bitsOf d 96 24 * (bitsOf d 120 10 + 1) := by
  obtain ⟨-, -, count, elem, -⟩ := bightOf_fields d gen
  rw [Bight.words, Bight.w4, count, elem]

theorem overlaps_iff {a b : Bight} : a.overlaps b = true ↔
    a.space = b.space ∧ a.loff.toNat < b.loff.toNat + b.words ∧ b.loff.toNat < a.loff.toNat + a.words := by
  simp only [Bight.overlaps, Bool.and_eq_true, decide_eq_true_eq, and_assoc]

theorem mapBad_iff (d gen : Nat) : t.mapBad n d = true ↔
    bitsOf d 130 6 ≠ 0 ∨ bitsOf d 172 84 ≠ 0 ∨ bitsOf d 0 2 ≠ 0 ∨ bitsOf d 96 24 = 0 ∨ bitsOf d 64 32 % 4 ≠ 0 ∨
      (1 < bitsOf d 96 24 ∧ bitsOf d 64 32 < 4 * (bitsOf d 120 10 + 1)) ∨
      t.winSize (bightOf d gen).space < 4 * (bitsOf d 136 24 + bitsOf d 96 24 * (bitsOf d 120 10 + 1)) ∨
      ∃ e ∈ t.bights, e.1 ≠ n ∧ e.2.v = true ∧ e.2.space = (bightOf d gen).space ∧
        e.2.loff.toNat < bitsOf d 136 24 + bitsOf d 96 24 * (bitsOf d 120 10 + 1) ∧
        bitsOf d 136 24 < e.2.loff.toNat + e.2.count.toNat * (e.2.elem.toNat + 1) := by
  obtain ⟨-, stride, count, elem, loff, -⟩ := bightOf_fields d 0
  have empty : (bightOf d 0).count = 0 ↔ bitsOf d 96 24 = 0 := by rw [← count, ← BitVec.toNat_inj]; rfl
  have width : (bightOf d 0).w4 = bitsOf d 120 10 + 1 := by rw [Bight.w4, elem]
  simp only [Team.mapBad, bightRsvd, Bool.or_eq_true, Bool.and_eq_true, decide_eq_true_eq, List.any_eq_true, overlaps_iff, empty,
    width, stride, count, loff, words_bightOf, or_assoc, and_assoc]
  rfl

/-! ## The tests of bgt.map (R252, R253) -/

section Tests

variable {m a : BitVec 6} (ht : s.teamOf s.issue.x = some t)
include ht

/-- A word of the descriptor at own-window offset o does not hold its data for the context (R100, R107). -/
theorem blockUnusable_iff (o : Nat) : s.blockUnusable o 32 = true ↔ ∃ k < 8,
    s.usable s.myCore false ((t.spadBase + o) / 4 + k) = false ∧ s.storedWord s.myCore false ((t.spadBase + o) / 4 + k) = false := by
  simp only [State.blockUnusable, myTeam_of ht, List.any_eq_true, List.mem_range, Bool.and_eq_true, Bool.not_eq_true']

theorem bgtBad_iff : bgtBad s m = true ↔ t.nbgt ≤ m.toNat := by rw [bgtBad, myTeam_of ht, decide_eq_true_eq]

theorem myEntry_of : s.myEntry m = SMap.get Bight.none t.bights m.toNat := by rw [State.myEntry, myTeam_of ht]

theorem mapPre_number (h : t.nbgt ≤ m.toNat) : mapPre s m a = noAddrTrap s mBIGHT := if_pos ((bgtBad_iff ht).2 h)

/-- The tests after the number's, in their order. -/
theorem mapPre_eq (h : m.toNat < t.nbgt) : mapPre s m a =
    let o := (s.me.rs a).toNat
    if o % 32 ≠ 0 then memTrap mALIGN o
    else if t.spadSize < o + 32 then memTrap mRANGE o
    else if s.blockUnusable o 32 then memTrap mBIGHT o
    else if (SMap.get Bight.none t.bights m.toNat).v || !bitOf (s.descAt o) 163 || t.mapBad m.toNat (s.descAt o) then memTrap mBIGHT o
    else .go := by
  rw [← myTeam_of ht]
  exact if_neg (mt (bgtBad_iff ht).1 (Nat.not_le.2 h))

theorem mapPre_align (h : m.toNat < t.nbgt) (ho : (s.me.rs a).toNat % 32 ≠ 0) :
    mapPre s m a = .trap ⟨0x02, 0x03, 4, s.me.rs a⟩ := by
  rw [mapPre_eq ht h, ← memTrap_toNat]
  exact if_pos ho

theorem mapPre_range (h : m.toNat < t.nbgt) (ho : (s.me.rs a).toNat % 32 = 0) (hr : t.spadSize < (s.me.rs a).toNat + 32) :
    mapPre s m a = .trap ⟨0x02, 0x01, 4, s.me.rs a⟩ := by
  rw [mapPre_eq ht h, ← memTrap_toNat]
  exact (if_neg (not_not.2 ho)).trans (if_pos hr)

/-- The tests that a descriptor inside the window takes. -/
theorem mapPre_inside (h : m.toNat < t.nbgt) (ho : (s.me.rs a).toNat % 32 = 0) (hr : (s.me.rs a).toNat + 32 ≤ t.spadSize) :
    mapPre s m a =
      if s.blockUnusable (s.me.rs a).toNat 32 then .trap ⟨0x02, 0x06, 4, s.me.rs a⟩
      else if (SMap.get Bight.none t.bights m.toNat).v || !bitOf (s.descAt (s.me.rs a).toNat) 163 ||
        t.mapBad m.toNat (s.descAt (s.me.rs a).toNat) then .trap ⟨0x02, 0x06, 4, s.me.rs a⟩
      else .go := by
  rw [mapPre_eq ht h, ← memTrap_toNat]
  exact (if_neg (not_not.2 ho)).trans (if_neg (Nat.not_lt.2 hr))

end Tests

/-! ## The entry (R105, R253) -/

/-- The state with an entry made, before its fills. -/
def entered (s : State) (x : CtxNo) (core task n : Nat) (b : Bight) (t : Team) : State :=
  ((s.setEntry core task n b).modCore core (fun c => c.clearRange b.space (t.bightBase b) b.words)).modCtx x
    (fun c => c.markRaw core b.space (t.bightBase b) b.words)

theorem enterBight_eq (ht : (s.core core).team? task = some t) : s.enterBight x core task n b orig =
    if b.pf then (entered s x core task n b t).startElems x core t n b orig 0 b.count.toNat else entered s x core task n b t := by
  unfold State.enterBight
  rw [ht]
  rfl

/-- The fills change nothing but operations and numbers, and there are none without PF. -/
theorem enterBight_keeps (ht : (s.core core).team? task = some t) : let u := s.enterBight x core task n b orig
    u.cores = (entered s x core task n b t).cores ∧ u.ctxs = (entered s x core task n b t).ctxs ∧ u.dram = s.dram ∧
      (b.pf = false → u.ops = s.ops) := by
  rw [enterBight_eq ht]
  split
  · next h =>
    have frame := startElems_frame (s := entered s x core task n b t) (x := x) (core := core) (t := t) (n := n) (b := b)
      (orig := orig) 0 b.count.toNat
    exact ⟨(congrArg State.cores frame :), (congrArg State.ctxs frame :), (congrArg State.dram frame :),
      fun e => absurd h (by rw [e]; decide)⟩
  · exact ⟨rfl, rfl, rfl, fun _ => rfl⟩

theorem core_entered (k : Nat) : (entered s x core task n b t).core k =
    if k = core then ((s.core core).modTeam task (fun t => withEntry t n b)).clearRange
      b.space (t.bightBase b) b.words else s.core k := by
  refine (core_setCore ..).trans ?_
  split
  · next h => exact congrArg (Core.clearRange · _ _ _) (State.setCore_core_same ..)
  · next h => exact State.setCore_core_ne _ _ h

theorem store_entered (k : Nat) (v : Bool) : ((entered s x core task n b t).core k).store v = (s.core k).store v := by
  rw [core_entered]
  split
  · next h => rw [store_clearRange, h]; rfl
  · rfl

theorem side_entered {w : Nat} (lo : t.bightBase b ≤ w) (hi : w < t.bightBase b + b.words) :
    ((entered s x core task n b t).core core).side b.space w = Side.none := by
  rw [core_entered, if_pos rfl, side_clearRange, if_pos ⟨rfl, lo, hi⟩]

theorem team?_entered (ht : (s.core core).team? task = some t) : ((entered s x core task n b t).core core).team? task =
    some (withEntry t n b) := by
  rw [core_entered, if_pos rfl, Core.team?, teams_clearRange]
  refine (team?_withEntry ..).trans ?_
  rw [ht]; rfl

theorem ctx_entered (y : CtxNo) : (entered s x core task n b t).ctx y =
    if y = x then (s.ctx x).markRaw core b.space (t.bightBase b) b.words else s.ctx y := by
  split
  · next h => rw [h]; exact State.setCtx_ctx_same _ _ _
  · next h => exact State.setCtx_ctx_ne _ _ h

theorem ctx_congr {u v : State} (h : u.ctxs = v.ctxs) (y : CtxNo) : u.ctx y = v.ctx y := by rw [State.ctx, h]; rfl

end Sys2Proof.Claims
end

section Settled

open Sys2Proof Sys2Proof.Machine Sys2Proof.Claims

/-- Settles O19: the tests of bgt.map in their order, and the entry that a map whose tests pass makes. -/
theorem bightMaps : Obligations.BightMaps := by
  unfold Obligations.BightMaps
  intro s g n ra t hg ht x c o d b f words inUse unusable breaks
  have badWord : s.blockUnusable o 32 = true ↔ unusable := blockUnusable_iff ht o
  have bad : t.mapBad n.toNat d = true ↔ breaks := mapBad_iff d s.nextOp
  have second : ((SMap.get Bight.none t.bights n.toNat).v || !bitOf (s.descAt o) 163 || t.mapBad n.toNat d) = true ↔
      inUse ∨ ¬f 163 163 = 1 ∨ breaks := by
    rw [Bool.or_eq_true, Bool.or_eq_true, bad, Bool.not_eq_true', bitOf, decide_eq_false_iff_not, or_assoc]
    rfl
  refine ⟨fun hn ho hr usable free valid good => ?_, fun hn => ⟨_, traps_gated hg (mapPre_number ht hn)⟩, fun hn =>
    ⟨fun ho => traps_gated hg (mapPre_align ht hn ho), fun ho hr => traps_gated hg (mapPre_range ht hn ho hr), fun ho hr fails =>
      traps_gated hg ?_⟩⟩
  · have pass : mapPre s n ra = .go := by
      rw [mapPre_inside ht hn ho hr, if_neg (mt badWord.1 usable), if_neg (mt second.1 ?_)]
      rintro (h | h | h)
      · exact free h
      · exact h valid
      · exact good h
    let numbered : State := { s with nextOp := s.nextOp + 1 }
    obtain ⟨cores, ctxs, dram, fills⟩ := enterBight_keeps (s := numbered) (x := x) (core := c) (task := s.me.task)
      (n := n.toNat) (b := b) (orig := s.me.pc) ht
    obtain ⟨vbase, stride, count, elem, loff, lt⟩ := bightOf_fields d s.nextOp
    have space : b.space = decide (f 160 160 = 1) := rfl
    have wr : b.wr = decide (f 161 161 = 1) := rfl
    have pf : b.pf = decide (f 162 162 = 1) := rfl
    have own : (numbered.enterBight x c s.me.task n.toNat b s.me.pc).ctx x = s.me.markRaw c b.space (t.bightBase b) b.words :=
      (ctx_congr ctxs x).trans ((ctx_entered x).trans (if_pos rfl))
    have team : (numbered.enterBight x c s.me.task n.toNat b s.me.pc).teamOf x =
        some (withEntry t n.toNat b) := by
      rw [State.teamOf, own, core_congr cores]
      exact team?_entered (s := numbered) ht
    refine ⟨numbered.enterBight x c s.me.task n.toNat b s.me.pc, next_gated hg pass,
      ⟨withEntry t n.toNat b, team, entry_same .., fun k hk => entry_ne _ _ hk⟩,
      ⟨vbase, stride, count, elem, loff, space, wr, pf, decide_eq_true valid, lt⟩, fun w lo hi => ?_, fun k v => ?_,
      dram, own, fun y hy => ?_, fills⟩
    · exact (congrArg (Core.side · b.space w) (core_congr cores c)).trans (side_entered lo hi)
    · exact (congrArg (Core.store · v) (core_congr cores k)).trans (store_entered k v)
    · exact (ctx_congr ctxs y).trans ((ctx_entered y).trans (if_neg hy))
  · rw [mapPre_inside ht hn ho hr]
    split
    · rfl
    · next usable =>
      refine if_pos (second.2 ?_)
      rcases fails with h | h | h | h
      · exact absurd (badWord.2 h) usable
      · exact .inl h
      · exact .inr (.inl (by rw [h]; decide))
      · exact .inr (.inr h)

end Settled

section
/-! SUPPORT. What a flush, an unmap, a touch and a query of a bight do (R103, R105, R106, R108, R252, R254 to R256). -/

namespace Sys2Proof.Claims

open Sys2Proof Sys2Proof.Machine

variable {s : State} {t : Team} {x : CtxNo} {core task n : Nat} {b : Bight} {orig : Word}

/-! ## The DIRTY words of a range -/

/-- What a key reads as, where that is no default, is its entry. -/
theorem mem_of_get {α : Type} {d : α} {m : SMap α} {k : Nat} (h : SMap.get d m k ≠ d) : (k, SMap.get d m k) ∈ m := by
  induction m with
  | nil => exact absurd rfl h
  | cons e r ih =>
    by_cases hk : k = e.1
    · subst hk; simp [SMap.get]
    · simp only [SMap.get, if_neg hk] at h ⊢
      exact List.mem_cons_of_mem _ (ih h)

/-- In a map whose keys rise, each entry is what its key reads as. -/
theorem get_of_mem {α : Type} {d : α} {m : SMap α} {lo : Nat} (hm : SMap.rising lo m = true) {e : Nat × α} (he : e ∈ m) :
    SMap.get d m e.1 = e.2 := by
  induction m generalizing lo with
  | nil => exact absurd he List.not_mem_nil
  | cons c r ih =>
    simp only [SMap.rising, Bool.and_eq_true] at hm
    rcases List.mem_cons.1 he with rfl | he
    · simp [SMap.get]
    · have := SMap.rising_of_mem r _ hm.2 e he
      rw [SMap.get, if_neg (by omega)]
      exact ih hm.2 he

theorem inRange_of_dirtyIn {v : Bool} {lo k w : Nat} (h : w ∈ s.dirtyIn x core v lo k) : lo ≤ w ∧ w < lo + k := by
  simp only [State.dirtyIn, List.mem_eraseDups, List.mem_append, List.mem_map, List.mem_filter, List.mem_flatMap, Bool.and_eq_true,
    decide_eq_true_eq] at h
  rcases h with ⟨e, ⟨-, -, lo, hi⟩, rfl⟩ | ⟨p, -, e, -, h⟩
  · exact ⟨lo, hi⟩
  · split at h
    · simp only [List.mem_filter, Bool.and_eq_true, decide_eq_true_eq] at h
      obtain ⟨-, ⟨⟨⟨lo, hi⟩, -⟩, -⟩, -⟩ := h
      exact ⟨lo, hi⟩
    · exact absurd h List.not_mem_nil

theorem mem_dirtyIn_of_dirty {v : Bool} {lo k w : Nat} (hr : lo ≤ w ∧ w < lo + k) (hd : ((s.core core).side v w).dirty = true) :
    w ∈ s.dirtyIn x core v lo k := by
  have listed := mem_of_get (d := Side.none) (m := (s.core core).sides v) (k := w) fun e => by
    rw [Core.side, e] at hd; exact absurd hd (by decide)
  rw [State.dirtyIn, List.mem_eraseDups]
  exact List.mem_append_left _ (List.mem_map.2 ⟨_, List.mem_filter.2 ⟨listed, by
    simp only [Bool.and_eq_true, decide_eq_true_eq]; exact ⟨hd, hr⟩⟩, rfl⟩)

/-- Where no store of the context is queued, the DIRTY words of the range are those of the store. -/
theorem mem_dirtyIn_iff {v : Bool} {lo k w : Nat} (hq : (s.ctx x).stq = [])
    (hw : SMap.wf Side.none ((s.core core).sides v) = true) :
    w ∈ s.dirtyIn x core v lo k ↔ lo ≤ w ∧ w < lo + k ∧ ((s.core core).side v w).dirty = true := by
  refine ⟨fun h => ?_, fun ⟨lo, hi, hd⟩ => mem_dirtyIn_of_dirty ⟨lo, hi⟩ hd⟩
  obtain ⟨lo, hi⟩ := inRange_of_dirtyIn h
  refine ⟨lo, hi, ?_⟩
  simp only [State.dirtyIn, hq, List.flatMap_nil, List.append_nil, List.mem_eraseDups, List.mem_map, List.mem_filter,
    Bool.and_eq_true] at h
  obtain ⟨e, ⟨he, hd, -⟩, rfl⟩ := h
  simp only [SMap.wf, Bool.and_eq_true] at hw
  rw [Core.side, get_of_mem hw.1 he]
  exact hd

/-! ## The write-backs of captured words (R108) -/

section WriteBacks

variable {flush : Bool} {gen : Nat} {ws : List (Nat × BitVec 32)} {old now new : List GOp}

/-- The new operations are one write-back for each line of some captured words, with exactly those words. -/
structure WritesBack (x : CtxNo) (core task n : Nat) (flush : Bool) (gen : Nat) (ws : List (Nat × BitVec 32)) (new : List GOp) : Prop where
  lines : (new.map (·.va)).Nodup
  each : ∀ o ∈ new, o.x = x ∧ o.core = core ∧ o.task = task ∧ o.va % 64 = 0 ∧ ∃ l, o.kind = .wb n flush l gen ∧ l ≠ [] ∧
    ∀ w ∈ l, w ∈ ws ∧ w.1 / 64 * 64 = o.va
  all : ∀ w ∈ ws, ∃ o ∈ new, ∃ l, o.kind = .wb n flush l gen ∧ w ∈ l

/-- The words of the new operations are the captured ones. -/
theorem WritesBack.words (h : WritesBack x core task n flush gen ws new) (w : Nat × BitVec 32) :
    (∃ o ∈ new, ∃ l, o.kind = .wb n flush l gen ∧ w ∈ l) ↔ w ∈ ws := by
  refine ⟨fun ⟨o, ho, l, hk, hw⟩ => ?_, h.all w⟩
  obtain ⟨-, -, -, -, l', hk', -, hl⟩ := h.each o ho
  rw [hk, GKind.wb.injEq] at hk'
  obtain ⟨-, -, rfl, -⟩ := hk'
  exact (hl w hw).1

/-- One operation more: the write-back of the first word's line. -/
theorem WritesBack.cons {w : Nat × BitVec 32} {r : List (Nat × BitVec 32)} {o : GOp}
    (ho : o.x = x ∧ o.core = core ∧ o.task = task ∧ o.va = w.1 / 64 * 64 ∧
      o.kind = .wb n flush (w :: r.filter (fun v => v.1 / 64 = w.1 / 64)) gen)
    (h : WritesBack x core task n flush gen (r.filter (fun v => v.1 / 64 ≠ w.1 / 64)) new) :
    WritesBack x core task n flush gen (w :: r) (o :: new) := by
  obtain ⟨hx, hc, ht, hv, hk⟩ := ho
  refine ⟨List.nodup_cons.2 ⟨fun hm => ?_, h.lines⟩, fun p hp => ?_, fun v hv' => ?_⟩
  · obtain ⟨p, hp, e⟩ := List.mem_map.1 hm
    obtain ⟨-, -, -, -, l, -, ne, hl⟩ := h.each p hp
    obtain ⟨v, hv'⟩ := List.exists_mem_of_ne_nil l ne
    obtain ⟨mem, line⟩ := hl v hv'
    have apart := (List.mem_filter.1 mem).2
    simp only [decide_eq_true_eq] at apart
    have same : p.va = o.va := e
    omega
  · rcases List.mem_cons.1 hp with rfl | hp
    · refine ⟨hx, hc, ht, by omega, _, hk, List.cons_ne_nil _ _, fun v hv' => ?_⟩
      rcases List.mem_cons.1 hv' with rfl | hv'
      · exact ⟨List.mem_cons_self, hv.symm⟩
      · obtain ⟨mem, line⟩ := List.mem_filter.1 hv'
        simp only [decide_eq_true_eq] at line
        exact ⟨List.mem_cons_of_mem _ mem, by rw [line, hv]⟩
    · obtain ⟨px, pc, pt, pv, l, pk, ne, hl⟩ := h.each p hp
      exact ⟨px, pc, pt, pv, l, pk, ne, fun v hv' =>
        ⟨List.mem_cons_of_mem _ (List.mem_filter.1 (hl v hv').1).1, (hl v hv').2⟩⟩
  · by_cases line : v.1 / 64 = w.1 / 64
    · refine ⟨o, List.mem_cons_self, _, hk, ?_⟩
      rcases List.mem_cons.1 hv' with rfl | hv'
      · exact List.mem_cons_self
      · exact List.mem_cons_of_mem _ (List.mem_filter.2 ⟨hv', decide_eq_true line⟩)
    · have : v ∈ r := (List.mem_cons.1 hv').resolve_left fun e => line (by rw [e])
      obtain ⟨p, hp, l, hk', hl⟩ := h.all v (List.mem_filter.2 ⟨this, decide_eq_true line⟩)
      exact ⟨p, List.mem_cons_of_mem _ hp, l, hk', hl⟩

/-- The write-backs of some words are new operations, and nothing else changes but the next number. -/
theorem startWbs_starts (k : Nat) (hk : ws.length ≤ k) : ∃ new m, WritesBack x core task n flush gen ws new ∧
    s.startWbs x core task n flush gen orig k ws = { s with ops := s.ops ++ new, nextOp := m } := by
  induction k generalizing s ws with
  | zero =>
    rw [List.eq_nil_of_length_eq_zero (Nat.le_zero.1 hk)]
    exact ⟨[], s.nextOp, ⟨List.nodup_nil, by simp, by simp⟩, by rw [List.append_nil]; rfl⟩
  | succ k ih =>
    cases ws with
    | nil => exact ⟨[], s.nextOp, ⟨List.nodup_nil, by simp, by simp⟩, by rw [List.append_nil]; rfl⟩
    | cons w r =>
      have shorter : (r.filter (fun v => v.1 / 64 ≠ w.1 / 64)).length ≤ k :=
        (List.length_filter_le ..).trans (Nat.le_of_succ_le_succ hk)
      let o : GOp :=
        { id := s.nextOp, x := x, core := core, task := task, asid := s.taskAsid task
          kind := .wb n flush (w :: r.filter (fun v => v.1 / 64 = w.1 / 64)) gen, va := w.1 / 64 * 64
          after := s.openFences x ++ s.sameBytes x s.nextOp (w.1 / 64 * 64) 64 ++ (s.ctx x).stq.map (·.id)
          acq := false, scope := 0, orig := orig, fid := none, perm := false, eng := false }
      obtain ⟨new, m, hw, he⟩ := ih (s := { s with ops := s.ops ++ [o], nextOp := s.nextOp + 1 }) shorter
      refine ⟨o :: new, m, hw.cons ⟨rfl, rfl, rfl, rfl, rfl⟩, he.trans ?_⟩
      simp only [List.append_assoc, List.singleton_append]

end WriteBacks

/-! ## DIRTY of the captured words is cleared -/

theorem clean_of_not_dirty {d : Side} (h : d.dirty = false) : { d with dirty := false } = d := by rw [← h]

/-- A word of a core's store is not DIRTY any more. -/
def cleanWord (v : Bool) (c : Core) (w : Nat) : Core :=
  if (c.side v w).dirty then c.setSide v w { c.side v w with dirty := false } else c

theorem store_cleanWord (v u : Bool) (c : Core) (w : Nat) : (cleanWord v c w).store u = c.store u := by
  unfold cleanWord
  split
  · exact store_setSide ..
  · rfl

theorem teams_cleanWord (v : Bool) (c : Core) (w : Nat) : (cleanWord v c w).teams = c.teams := by
  unfold cleanWord
  split
  · exact teams_setSide ..
  · rfl

theorem side_cleanWord (v u : Bool) (c : Core) (w k : Nat) : (cleanWord v c w).side u k =
    if u = v ∧ k = w then { c.side u k with dirty := false } else c.side u k := by
  unfold cleanWord
  by_cases h : (c.side v w).dirty = true
  · rw [if_pos h, side_setSide]
    split
    · next e => rw [e.1, e.2]
    · rfl
  · rw [if_neg h]
    split
    · next e => rw [e.1, e.2, clean_of_not_dirty (Bool.not_eq_true _ ▸ h)]
    · rfl

/-- Some words of a core's store are not DIRTY any more. -/
def cleaned (v : Bool) (l : List Nat) (c : Core) : Core := l.foldl (cleanWord v) c

theorem store_cleaned (v u : Bool) (l : List Nat) (c : Core) : (cleaned v l c).store u = c.store u := by
  induction l generalizing c with
  | nil => rfl
  | cons w r ih => exact (ih _).trans (store_cleanWord ..)

theorem teams_cleaned (v : Bool) (l : List Nat) (c : Core) : (cleaned v l c).teams = c.teams := by
  induction l generalizing c with
  | nil => rfl
  | cons w r ih => exact (ih _).trans (teams_cleanWord ..)

theorem side_cleaned (v u : Bool) (l : List Nat) (k : Nat) (c : Core) : (cleaned v l c).side u k =
    if u = v ∧ k ∈ l then { c.side u k with dirty := false } else c.side u k := by
  induction l generalizing c with
  | nil => simp [cleaned]
  | cons w r ih =>
    refine (ih _).trans ?_
    rw [side_cleanWord]
    by_cases hu : u = v
    · by_cases hw : k = w <;> by_cases hr : k ∈ r <;> simp [hu, hw, hr]
    · simp [hu]

/-- Updates of one core, one after another. -/
theorem foldl_modCore {α : Type} (f : Core → α → Core) (c : Nat) (l : List α) (s : State) :
    ∃ m, l.foldl (fun u a => u.modCore c (fun k => f k a)) s = { s with cores := m } ∧
      ∀ k, State.core { s with cores := m } k = if k = c then l.foldl f (s.core c) else s.core k := by
  induction l generalizing s with
  | nil => exact ⟨s.cores, rfl, fun k => by split <;> simp_all⟩
  | cons a r ih =>
    obtain ⟨m, he, hm⟩ := ih (s.modCore c (fun k => f k a))
    refine ⟨m, he, fun k => (hm k).trans ?_⟩
    simp only [State.modCore_eq, State.setCore_core_same, List.foldl_cons]
    split
    · rfl
    · next h => exact State.setCore_core_ne _ _ h

/-! ## Capture (R108, R254) -/

/-- The stores that the context has queued to a range take note of the capture. -/
def flushedStore (core : Nat) (v : Bool) (lo n : Nat) (p : PendStore) : PendStore :=
  { p with flushed := p.flushed ++ (p.elems.flatMap (fun e =>
      if e.1 = core && e.2.1 = v then
        ((wordsOf e.2.2.1 p.n).filter (fun w => decide (lo ≤ w) && decide (w < lo + n))).map (fun w => (v, w)) else [])) }

/-- The context with its queue after the capture of a range. -/
def flushedCtx (c : Ctx) (core : Nat) (v : Bool) (lo n : Nat) : Ctx := { c with stq := c.stq.map (flushedStore core v lo n) }

section Capture

variable {flush : Bool} (h : s.entryOf core task n = some (t, b))
include h

/-- What a flush, or the capture of an unmap, changes: the new operations are the write-backs of the captured words, DIRTY of the range is
clear, the owned words and the context's queued stores take note, and nothing else changes. -/
theorem flushEntry_form : ∃ new m cs ow, WritesBack x core task n flush b.gen (s.captured x core t b) new ∧
    s.flushEntry x core task n flush orig = { s with
      ops := s.ops ++ new, nextOp := m, cores := cs, owners := ow
      ctxs := SMap.set Ctx.none s.ctxs x.val (flushedCtx (s.ctx x) core b.space (t.bightBase b) b.words) } ∧
    ∀ k, let u := SMap.get Core.none cs k
      (∀ v, u.store v = (s.core k).store v) ∧ u.teams = (s.core k).teams ∧
        ∀ v w, u.side v w = if k = core ∧ v = b.space ∧ t.bightBase b ≤ w ∧ w < t.bightBase b + b.words then
          { (s.core k).side v w with dirty := false } else (s.core k).side v w := by
  let ended := s.endOwnership x core task n (t.bightBase b) b
  let noted := ended.markFlushed x core b.space (t.bightBase b) b.words
  let dirty := ended.dirtyIn x core b.space (t.bightBase b) b.words
  have form : s.flushEntry x core task n flush orig = dirty.foldl (fun u w => u.modCore core (fun c => cleanWord b.space c w))
      (noted.startWbs x core task n flush b.gen orig (s.captured x core t b).length (s.captured x core t b)) := by
    simp only [State.flushEntry, h]
    rfl
  obtain ⟨new, m, hw, hs⟩ := startWbs_starts (x := x) (core := core) (task := task) (n := n) (flush := flush) (gen := b.gen) (orig := orig)
    (s := noted) (ws := s.captured x core t b) _ (le_refl _)
  obtain ⟨cs, hc, hk⟩ := foldl_modCore (cleanWord b.space) core dirty { noted with ops := s.ops ++ new, nextOp := m }
  refine ⟨new, m, cs, _, hw, by rw [form, hs]; exact hc, fun k => ?_⟩
  have core_k : SMap.get Core.none cs k = if k = core then cleaned b.space dirty (s.core core) else s.core k := hk k
  by_cases e : k = core
  · subst e
    rw [core_k, if_pos rfl]
    refine ⟨fun v => store_cleaned .., teams_cleaned .., fun v w => ?_⟩
    rw [side_cleaned]
    by_cases hv : v = b.space
    · subst hv
      by_cases hr : t.bightBase b ≤ w ∧ w < t.bightBase b + b.words
      · rw [if_pos (⟨rfl, rfl, hr⟩ : k = k ∧ _)]
        split
        · rfl
        · next hd =>
          refine (clean_of_not_dirty ?_).symm
          by_contra e
          exact hd ⟨rfl, mem_dirtyIn_of_dirty hr (Bool.not_eq_false _ ▸ e)⟩
      · rw [if_neg fun e => hr (inRange_of_dirtyIn e.2), if_neg fun e => hr ⟨e.2.2.1, e.2.2.2⟩]
    · rw [if_neg fun e => hv e.1, if_neg fun e => hv e.2.1]
  · rw [core_k, if_neg e]
    exact ⟨fun _ => rfl, rfl, fun v w => (if_neg fun h => e h.1).symm⟩

end Capture

/-! ## Words that hold a free value once they are unmapped (R105, log 13) -/

/-- Words of a range that were never filled nor stored take a free value; nothing else changes but the count of free values. -/
theorem freeWords_form (v : Bool) (w k : Nat) (s : State) : ∃ cs f, s.freeWords core v w k = { s with cores := cs, freeCtr := f } ∧
    ∀ c, let u := SMap.get Core.none cs c
      (∀ y a, u.side y a = (s.core c).side y a) ∧ u.teams = (s.core c).teams ∧
        ∀ y a, (c = core ∧ y = v ∧ w ≤ a / 4 ∧ a / 4 < w + k → ((s.core c).side y (a / 4)).defined = true) →
          Memory.rd (u.store y) a = Memory.rd ((s.core c).store y) a := by
  induction k generalizing s w with
  | zero => exact ⟨s.cores, s.freeCtr, rfl, fun c => ⟨fun _ _ => rfl, rfl, fun _ _ _ => rfl⟩⟩
  | succ k ih =>
    by_cases hd : ((s.core core).side v w).defined = true
    · obtain ⟨cs, f, he, hk⟩ := ih (w + 1) s
      refine ⟨cs, f, ?_, fun c => ⟨(hk c).1, (hk c).2.1, fun y a ha => (hk c).2.2 y a fun hr => ha ⟨hr.1, hr.2.1, by omega, by omega⟩⟩⟩
      rw [State.freeWords, if_pos hd, he]
    · let u : State := State.modCore { s with freeCtr := s.freeCtr + 1 } core (fun c =>
        c.setStore v (Memory.wrN (c.store v) (4 * w) (Config.freeWord s.freeCtr).toNat 4))
      obtain ⟨cs, f, he, hk⟩ := ih (w + 1) u
      have core_u (c : Nat) : u.core c = if c = core then (s.core core).setStore v
          (Memory.wrN ((s.core core).store v) (4 * w) (Config.freeWord s.freeCtr).toNat 4) else s.core c := core_setCore ..
      have side_u (c : Nat) (y : Bool) (a : Nat) : (u.core c).side y a = (s.core c).side y a := by
        rw [core_u]
        split
        · next e => rw [side_setStore, e]
        · rfl
      refine ⟨cs, f, ?_, fun c => ⟨fun y a => ((hk c).1 y a).trans (side_u c y a), (hk c).2.1.trans ?_, fun y a ha => ?_⟩⟩
      · rw [State.freeWords, if_neg hd, he]; rfl
      · rw [core_u]
        split
        · next e => rw [teams_setStore, e]
        · rfl
      · refine ((hk c).2.2 y a fun hr => ?_).trans ?_
        · rw [side_u]
          exact ha ⟨hr.1, hr.2.1, by omega, by omega⟩
        · rw [core_u]
          split
          · next e =>
            subst e
            rw [store_setStore]
            split
            · next e =>
              subst e
              refine Memory.rd_wrN_out _ _ _ _ _ ?_
              by_contra hc
              have : a / 4 = w := by omega
              exact hd (by rw [← this]; exact ha ⟨rfl, rfl, by omega, by omega⟩)
            · rfl
          · rfl

/-! ## The unmap of an entry (R105, R254) -/

theorem ite_dir (p : Prop) [Decidable p] (d : List DirEnt) :
    (if p then s else { s with dir := d }) = { s with dir := if p then s.dir else d } := by split <;> rfl

theorem dropDir_form (gen : Nat) : ∃ d, s.dropDir core task n gen = { s with dir := d } := ⟨_, ite_dir ..⟩

/-- What an unmap changes: the write-backs of the captured words are new operations, the words of the range are unmapped, the entry is
free, a word that was never filled nor stored takes a free value, and no other word, byte, context, nor the memory changes. -/
theorem unmapEntry_form (h : s.entryOf core task n = some (t, b)) :
    let u := s.unmapEntry x core task n orig
    ∃ new, WritesBack x core task n false b.gen (s.captured x core t b) new ∧ u.ops = s.ops ++ new ∧ u.issue = s.issue ∧
      u.dram = s.dram ∧ u.hostMem = s.hostMem ∧
      u.ctxs = SMap.set Ctx.none s.ctxs x.val (flushedCtx (s.ctx x) core b.space (t.bightBase b) b.words) ∧
      (u.core core).team? task = ((s.core core).team? task).map (fun t => withEntry t n Bight.none) ∧
      (∀ k v w, (u.core k).side v w = if k = core ∧ v = b.space ∧ t.bightBase b ≤ w ∧ w < t.bightBase b + b.words then Side.none
        else (s.core k).side v w) ∧
      ∀ k v a, (k = core ∧ v = b.space ∧ t.bightBase b ≤ a / 4 ∧ a / 4 < t.bightBase b + b.words →
          ((s.core k).side v (a / 4)).defined = true) → Memory.rd ((u.core k).store v) a = Memory.rd ((s.core k).store v) a := by
  obtain ⟨new, m, cs, ow, hw, hf, hk⟩ := flushEntry_form (x := x) (flush := false) (orig := orig) h
  obtain ⟨fs, f, hfree, hd⟩ := freeWords_form (core := core) b.space (t.bightBase b) b.words { s with
    ops := s.ops ++ new, nextOp := m, cores := cs, owners := ow
    ctxs := SMap.set Ctx.none s.ctxs x.val (flushedCtx (s.ctx x) core b.space (t.bightBase b) b.words) }
  let freed : State := { s with
    ops := s.ops ++ new, nextOp := m, cores := fs, owners := ow, freeCtr := f
    ctxs := SMap.set Ctx.none s.ctxs x.val (flushedCtx (s.ctx x) core b.space (t.bightBase b) b.words) }
  obtain ⟨d, hdir⟩ := dropDir_form (core := core) (task := task) (n := n) (gen := b.gen) (s :=
    (freed.modCore core (fun c => c.clearRange b.space (t.bightBase b) b.words)).setEntry core task n Bight.none)
  have form : s.unmapEntry x core task n orig =
      { (freed.modCore core (fun c => c.clearRange b.space (t.bightBase b) b.words)).setEntry core task n Bight.none with dir := d } := by
    rw [← hdir]
    simp only [State.unmapEntry, h, hf]
    rw [hfree]
  have core_k (k : Nat) : State.core { (freed.modCore core (fun c => c.clearRange b.space (t.bightBase b) b.words)).setEntry core task n
      Bight.none with dir := d } k = if k = core then ((freed.core core).clearRange b.space (t.bightBase b) b.words).modTeam task
        (fun t => withEntry t n Bight.none) else freed.core k := by
    refine (core_setCore ..).trans ?_
    split
    · exact congrArg (fun c : Core => c.modTeam task (fun t => withEntry t n Bight.none)) (State.setCore_core_same ..)
    · next e => exact State.setCore_core_ne _ _ e
  have side_freed (k : Nat) (v : Bool) (w : Nat) (hr : ¬(k = core ∧ v = b.space ∧ t.bightBase b ≤ w ∧ w < t.bightBase b + b.words)) :
      (freed.core k).side v w = (s.core k).side v w := ((hd k).1 v w).trans (((hk k).2.2 v w).trans (if_neg hr))
  refine ⟨new, hw, ?_⟩
  simp only [form, core_k]
  refine ⟨rfl, rfl, rfl, rfl, rfl, ?_, fun k v w => ?_, fun k v a ha => ?_⟩
  · have same : (freed.core core).teams = (s.core core).teams := (hd core).2.1.trans (hk core).2.1
    rw [if_pos trivial, team?_withEntry, Core.team?, teams_clearRange, same]
    rfl
  · by_cases e : k = core
    · subst e
      rw [if_pos rfl]
      refine (side_clearRange ..).trans ?_
      by_cases hr : v = b.space ∧ t.bightBase b ≤ w ∧ w < t.bightBase b + b.words
      · rw [if_pos hr, if_pos ⟨rfl, hr⟩]
      · rw [if_neg hr, if_neg fun h => hr h.2]
        exact side_freed k v w fun h => hr h.2
    · rw [if_neg e, if_neg fun h => e h.1]
      exact side_freed k v w fun h => e h.1
  · have freed_rd : Memory.rd ((freed.core k).store v) a = Memory.rd ((s.core k).store v) a := by
      refine ((hd k).2.2 v a fun hr => ?_).trans (congrArg (Memory.rd · a) ((hk k).1 v))
      refine (congrArg Side.defined ((hk k).2.2 v (a / 4))).trans ?_
      rw [if_pos hr]
      exact ha hr
    split
    · next e =>
      subst e
      exact (congrArg (Memory.rd · a) (store_clearRange ..)).trans freed_rd
    · exact freed_rd

/-! ## The fills of some lines (R106, R255) -/

section Lines

variable {l : List Nat} {orig : Word}

/-- Fills of some lines: each line is being filled then or had all its words usable, and no other fill is new. -/
theorem startLines_starts (hl : ∀ a ∈ l, a % 64 = 0) (s : State) : ∃ new m,
    l.foldl (fun s a => s.startLine x core t n b a orig) s = { s with ops := s.ops ++ new, nextOp := m } ∧
      (∀ a ∈ l, (∃ o ∈ s.ops ++ new, o.kind = .fill n ∧ o.core = core ∧ o.task = t.task ∧ o.va = a) ∨
        ∀ i ∈ b.lineWords a, s.usable core b.space (t.bightBase b + i) = true) ∧
      ∀ o ∈ new, o.kind = .fill n ∧ o.x = x ∧ o.core = core ∧ o.task = t.task ∧ o.va ∈ l ∧
        ∃ i ∈ b.lineWords o.va, s.usable core b.space (t.bightBase b + i) = false := by
  induction l generalizing s with
  | nil => exact ⟨[], s.nextOp, by rw [List.append_nil]; rfl, by simp, by simp⟩
  | cons a r ih =>
    have rest : ∀ a ∈ r, a % 64 = 0 := fun c hc => hl c (List.mem_cons_of_mem _ hc)
    by_cases hf : ((s.fillOf core t.task n a).isSome || (b.lineWords a).all (fun i => s.usable core b.space (t.bightBase b + i))) = true
    · obtain ⟨new, m, he, hall, hnew⟩ := ih rest s
      refine ⟨new, m, ?_, fun c hc => ?_, fun o ho => ?_⟩
      · rw [List.foldl_cons, State.startLine, if_pos hf, he]
      · rcases List.mem_cons.1 hc with rfl | hc
        · rcases Bool.or_eq_true_iff.1 hf with hf | hf
          · obtain ⟨o, ho⟩ := Option.isSome_iff_exists.1 hf
            have mem := List.mem_of_find?_eq_some ho
            have eqs := List.find?_some ho
            simp only [Bool.and_eq_true, decide_eq_true_eq] at eqs
            obtain ⟨⟨⟨hc, ht⟩, hk⟩, hv⟩ := eqs
            have := hl c List.mem_cons_self
            exact .inl ⟨o, List.mem_append_left _ mem, hk, hc, ht, by rw [hv, lineVa]; omega⟩
          · exact .inr (List.all_eq_true.1 hf)
        · exact hall c hc
      · obtain ⟨hk, hx, hc, ht, hv, hu⟩ := hnew o ho
        exact ⟨hk, hx, hc, ht, List.mem_cons_of_mem _ hv, hu⟩
    · let o : GOp :=
        { id := s.nextOp, x := x, core := core, task := t.task, asid := s.taskAsid t.task, kind := .fill n, va := a
          after := s.openFences x ++ s.sameBytes x s.nextOp a 64 ++ (s.ctx x).rawIds s.nextOp
          acq := false, scope := 0, orig := orig, fid := none, perm := false, eng := false }
      obtain ⟨new, m, he, hall, hnew⟩ := ih rest { s with ops := s.ops ++ [o], nextOp := s.nextOp + 1 }
      simp only [List.append_assoc, List.singleton_append] at hall
      refine ⟨o :: new, m, ?_, fun c hc => ?_, fun p hp => ?_⟩
      · rw [List.foldl_cons, State.startLine, if_neg hf]
        refine he.trans ?_
        simp only [List.append_assoc, List.singleton_append]
      · rcases List.mem_cons.1 hc with rfl | hc
        · exact .inl ⟨o, by simp, rfl, rfl, rfl, rfl⟩
        · exact hall c hc
      · rcases List.mem_cons.1 hp with rfl | hp
        · simp only [Bool.or_eq_true, not_or, List.all_eq_true, not_forall, Bool.not_eq_true] at hf
          obtain ⟨-, i, hi, hu⟩ := hf
          exact ⟨rfl, rfl, rfl, rfl, List.mem_cons_self, i, hi, hu⟩
        · obtain ⟨hk, hx, hc, ht, hv, hu⟩ := hnew p hp
          exact ⟨hk, hx, hc, ht, List.mem_cons_of_mem _ hv, hu⟩

end Lines

/-- The lines of elements e to e + k - 1. -/
def elemsLines (b : Bight) (e k : Nat) : List Nat := (List.range' e k).flatMap b.elemLines

theorem startElems_eq (e k : Nat) (s : State) : s.startElems x core t n b orig e k =
    (elemsLines b e k).foldl (fun s a => s.startLine x core t n b a orig) s := by
  induction k generalizing s e with
  | zero => rfl
  | succ k ih =>
    rw [State.startElems, ih, elemsLines, elemsLines, List.range'_succ, List.flatMap_cons, List.foldl_append]

/-- The lines of an element are those of its bytes. -/
theorem mem_elemLines {e a : Nat} : a ∈ b.elemLines e ↔
    ∃ j < 4 * (b.elem.toNat + 1), a = (b.vbase.toNat + e * b.stride.toNat + j) % 2 ^ 64 / 64 * 64 := by
  simp only [Bight.elemLines, Bight.w4, List.mem_map, List.mem_range]
  generalize b.vbase.toNat + e * b.stride.toNat = v
  constructor
  · rintro ⟨k, hk, rfl⟩
    refine ⟨64 * k - v % 2 ^ 64 % 64, by omega, ?_⟩
    omega
  · rintro ⟨j, hj, rfl⟩
    refine ⟨(v % 2 ^ 64 % 64 + j) / 64, by omega, ?_⟩
    omega

theorem mem_elemsLines {e k a : Nat} : a ∈ elemsLines b e k ↔ ∃ i, e ≤ i ∧ i < e + k ∧
    ∃ j < 4 * (b.elem.toNat + 1), a = (b.vbase.toNat + i * b.stride.toNat + j) % 2 ^ 64 / 64 * 64 := by
  simp only [elemsLines, List.mem_flatMap, List.mem_range'_1, mem_elemLines, and_assoc]

/-! ## The state word of an entry (R256) -/

theorem getLsbD_of_bit {w : Word} {i : Nat} {f : Bool} (h : w.toNat / 2 ^ i % 2 = b2n f) : w.getLsbD i = f := by
  rw [BitVec.getLsbD, Nat.testBit_eq_decide_div_mod_eq, h]
  cases f <;> rfl

theorem b2n_le (f : Bool) : b2n f ≤ 1 := by cases f <;> decide

/-- The fields of a word of seven bits and a count of 24 bits from bit 32 on. -/
theorem stateWord_fields (v wr sp pf fill dirty wbk : Bool) {k : Nat} (hk : k < 2 ^ 24) :
    let w : Word := BitVec.ofNat 64 (b2n v + b2n wr * 2 + b2n sp * 2 ^ 2 + b2n pf * 2 ^ 3 + b2n fill * 2 ^ 4 + b2n dirty * 2 ^ 5 +
      b2n wbk * 2 ^ 6 + k * 2 ^ 32)
    w.getLsbD 0 = v ∧ w.getLsbD 1 = wr ∧ w.getLsbD 2 = sp ∧ w.getLsbD 3 = pf ∧ w.getLsbD 4 = fill ∧ w.getLsbD 5 = dirty ∧
      w.getLsbD 6 = wbk ∧ w.toNat / 2 ^ 7 % 2 ^ 25 = 0 ∧ w.toNat / 2 ^ 32 = k := by
  intro w
  have h0 := b2n_le v
  have h1 := b2n_le wr
  have h2 := b2n_le sp
  have h3 := b2n_le pf
  have h4 := b2n_le fill
  have h5 := b2n_le dirty
  have h6 := b2n_le wbk
  have value : w.toNat = b2n v + b2n wr * 2 + b2n sp * 2 ^ 2 + b2n pf * 2 ^ 3 + b2n fill * 2 ^ 4 + b2n dirty * 2 ^ 5 +
      b2n wbk * 2 ^ 6 + k * 2 ^ 32 := (BitVec.toNat_ofNat ..).trans (Nat.mod_eq_of_lt (by omega))
  exact ⟨getLsbD_of_bit (by omega), getLsbD_of_bit (by omega), getLsbD_of_bit (by omega), getLsbD_of_bit (by omega),
    getLsbD_of_bit (by omega), getLsbD_of_bit (by omega), getLsbD_of_bit (by omega), by omega, by omega⟩

end Sys2Proof.Claims
end

section
/-! SUPPORT. The entry that a bight operation names, its tests, and its state word (R103, R252, R254, R256). -/

namespace Sys2Proof.Claims

open Sys2Proof Sys2Proof.Machine

variable {s : State} {t : Team} {n : BitVec 6}

/-! ## The entry that an operation names -/

theorem entryOf_of {m : Nat} (ht : s.teamOf s.issue.x = some t) :
    s.entryOf (ctxCore s.issue.x) s.me.task m =
      if (SMap.get Bight.none t.bights m).v = true then some (t, SMap.get Bight.none t.bights m) else none := by
  have team : (s.core (ctxCore s.issue.x)).team? s.me.task = some t := ht
  simp only [State.entryOf, team]

theorem flushEntry_none {x : CtxNo} {core task m : Nat} {flush : Bool} {orig : Word} (h : s.entryOf core task m = none) :
    s.flushEntry x core task m flush orig = s := by simp only [State.flushEntry, h]

theorem unmapEntry_none {x : CtxNo} {core task m : Nat} {orig : Word} (h : s.entryOf core task m = none) :
    s.unmapEntry x core task m orig = s := by simp only [State.unmapEntry, h]

/-- A captured word and its value (R108). -/
theorem mem_captured {x : CtxNo} {core : Nat} {b : Bight} {a : Nat} {v : BitVec 32} : (a, v) ∈ s.captured x core t b ↔
    ∃ w ∈ s.dirtyIn x core b.space (t.bightBase b) b.words,
      a = b.va (w - t.bightBase b) ∧ v = BitVec.ofNat 32 (s.seen x core b.space (4 * w) 4) := by
  simp only [State.captured, List.mem_map, Prod.mk.injEq]
  exact exists_congr fun w => and_congr_right fun _ => and_congr eq_comm eq_comm

/-- A capture changes only the queue of the context, and of that only the marks of captured words. -/
theorem ctx_flushed {u s : State} {x : CtxNo} {core : Nat} {v : Bool} {lo k : Nat}
    (h : u.ctxs = SMap.set Ctx.none s.ctxs x.val (flushedCtx (s.ctx x) core v lo k)) :
    u.ctx x = { s.ctx x with stq := (u.ctx x).stq } ∧
      (u.ctx x).stq.map (fun p => { p with flushed := [] }) = (s.ctx x).stq.map (fun p => { p with flushed := [] }) ∧
      ∀ y, y ≠ x → u.ctx y = s.ctx y := by
  have own : u.ctx x = flushedCtx (s.ctx x) core v lo k := (congrArg (SMap.get Ctx.none · x.val) h).trans (SMap.get_set_same ..)
  refine ⟨by rw [own]; rfl, ?_, fun y hy => ?_⟩
  · rw [own]
    exact List.map_map
  · exact (congrArg (SMap.get Ctx.none · y.val) h).trans (SMap.get_set_ne _ _ _ fun e => hy (Fin.ext e))

theorem me_flushed {u s : State} (hi : u.issue = s.issue) (h : u.ctx s.issue.x = { s.ctx s.issue.x with stq := (u.ctx s.issue.x).stq }) :
    u.me = { s.me with stq := u.me.stq } := by
  rw [State.me, hi]
  exact h

section Tests

variable (ht : s.teamOf s.issue.x = some t)
include ht

theorem numberPre_go (h : n.toNat < t.nbgt) : (if bgtBad s n then noAddrTrap s mBIGHT else .go) = .go :=
  if_neg (mt (bgtBad_iff ht).1 (Nat.not_le.2 h))

theorem numberPre_bad (h : t.nbgt ≤ n.toNat) : (if bgtBad s n then noAddrTrap s mBIGHT else .go) = noAddrTrap s mBIGHT :=
  if_pos ((bgtBad_iff ht).2 h)

theorem unmapPre_bad (h : t.nbgt ≤ n.toNat) : unmapPre s n = noAddrTrap s mBIGHT := if_pos ((bgtBad_iff ht).2 h)

theorem unmapPre_eq (h : n.toNat < t.nbgt) : unmapPre s n =
    if (SMap.get Bight.none t.bights n.toNat).v && s.filling s.myCore s.myTask n.toNat then .stall else .go := by
  rw [← myTeam_of ht]
  exact if_neg (mt (bgtBad_iff ht).1 (Nat.not_le.2 h))

theorem unmapPre_go (h : n.toNat < t.nbgt)
    (hf : (SMap.get Bight.none t.bights n.toNat).v = true → s.filling s.myCore s.myTask n.toNat = false) : unmapPre s n = .go := by
  rw [unmapPre_eq ht h]
  refine if_neg fun e => ?_
  obtain ⟨hv, ff⟩ := Bool.and_eq_true_iff.1 e
  exact Bool.false_ne_true ((hf hv).symm.trans ff)

/-- The state word of entry n is made of its fields (R256). -/
theorem bgtState_eq : s.bgtState n =
    let b := SMap.get Bight.none t.bights n.toNat
    BitVec.ofNat 64 (b2n b.v + b2n b.wr * 2 + b2n b.space * 2 ^ 2 + b2n b.pf * 2 ^ 3 +
      b2n (b.v && s.filling s.myCore s.myTask n.toNat) * 2 ^ 4 +
      b2n (b.v && !(s.dirtyIn s.issue.x s.myCore b.space (t.bightBase b) b.words).isEmpty) * 2 ^ 5 +
      b2n (s.ops.any (fun o => o.core = s.myCore && o.task = s.myTask && match o.kind with
        | .wb m f _ _ => f && m = n.toNat
        | _ => false)) * 2 ^ 6 + b.count.toNat * 2 ^ 32) := by
  rw [← myTeam_of ht]
  rfl

end Tests

/-- WBK: a write-back that a flush of entry n started is in flight (R256). -/
theorem wbk_iff {core task m : Nat} : (s.ops.any (fun o => o.core = core && o.task = task && match o.kind with
      | .wb k f _ _ => f && k = m
      | _ => false)) = true ↔
    ∃ o ∈ s.ops, o.core = core ∧ o.task = task ∧ ∃ ws k, o.kind = .wb m true ws k := by
  simp only [List.any_eq_true, Bool.and_eq_true, decide_eq_true_eq, and_assoc]
  refine exists_congr fun o => and_congr_right fun _ => and_congr_right fun _ => and_congr_right fun _ => ?_
  cases o.kind with
  | wb k f ws g => cases f <;> simp
  | _ => simp

end Sys2Proof.Claims
end

section Settled

open Sys2Proof Sys2Proof.Machine Sys2Proof.Claims

/-- Settles O20: a flush and an unmap capture the range's DIRTY words line by line; a touch starts the fills of its elements' lines; a query
reads the entry's state. -/
theorem bightOperations : Obligations.BightOperations := by
  unfold Obligations.BightOperations
  refine ⟨fun s g n t hg => ?_, fun s g n ra rb t hg => ?_⟩
  · intro x c b lo inRange dirty started ht hn
    have entry := entryOf_of (m := n.toNat) ht
    have go := numberPre_go ht hn
    have starts {u : State} {new : List GOp} {flush : Bool} (hw : WritesBack x c s.me.task n.toNat flush b.gen (s.captured x c t b) new)
        (ho : u.ops = s.ops ++ new) : started u new flush := by
      refine ⟨ho, hw.lines, fun o hm => ?_, fun a v => (hw.words (a, v)).trans mem_captured⟩
      obtain ⟨hx, hc, htask, hva, ws, hk, -, hl⟩ := hw.each o hm
      exact ⟨hx, hc, htask, hva, ws, hk, fun w hw => (hl w hw).2⟩
    refine ⟨fun hq hwf w => mem_dirtyIn_iff hq hwf, fun hv => ?_, fun hv => ?_, fun hv hf => ?_, fun hv hf => ?_⟩
    · have none : s.entryOf (ctxCore x) s.me.task n.toNat = none := entry.trans (if_neg fun e => Bool.false_ne_true (hv.symm.trans e))
      have pre : unmapPre s n = .go := unmapPre_go ht hn fun e => absurd (hv.symm.trans e) Bool.false_ne_true
      exact ⟨(next_gated hg go).trans (congrArg _ (flushEntry_none none)), (next_gated hg pre).trans (congrArg _ (unmapEntry_none none))⟩
    · obtain ⟨new, m, cs, ow, hw, hf, hk⟩ := flushEntry_form (x := x) (flush := true) (orig := s.me.pc) (entry.trans (if_pos hv))
      let u : State := { s with
        ops := s.ops ++ new, nextOp := m, cores := cs, owners := ow
        ctxs := SMap.set Ctx.none s.ctxs x.val (flushedCtx (s.ctx x) c b.space lo b.words) }
      obtain ⟨own, queue, others⟩ := ctx_flushed (u := u) (s := s) (x := x) rfl
      exact ⟨u, new, (next_gated hg go).trans (congrArg _ hf), starts hw rfl, fun k v w hr => ((hk k).2.2 v w).trans (if_pos hr),
        fun k v w hr => ((hk k).2.2 v w).trans (if_neg hr), fun k => ⟨(hk k).1 false, (hk k).1 true, (hk k).2.1⟩, others, own, queue,
        rfl⟩
    · exact stalls_gated hg ((unmapPre_eq ht hn).trans (if_pos (Bool.and_eq_true_iff.2 ⟨hv, hf⟩)))
    · obtain ⟨new, hw, ops, issue, dram, host, ctxs, team, side, rd⟩ :=
        unmapEntry_form (x := x) (orig := s.me.pc) (entry.trans (if_pos hv))
      obtain ⟨own, -, others⟩ := ctx_flushed ctxs
      have task : ((s.unmapEntry x c s.me.task n.toNat s.me.pc).ctx x).task = s.me.task := (congrArg Ctx.task own :)
      refine ⟨s.unmapEntry x c s.me.task n.toNat s.me.pc, new, next_gated hg (unmapPre_go ht hn fun _ => hf), starts hw ops,
        ⟨withEntry t n.toNat Bight.none, ?_, entry_same .., fun k hk => entry_ne _ _ hk⟩, fun k v w hr => (side k v w).trans (if_pos hr),
        fun k v w hr => (side k v w).trans (if_neg hr), rd, others, me_flushed issue own, dram, host⟩
      rw [State.teamOf, task]
      exact team.trans (congrArg (Option.map _) ht)
  · intro x c b lo e0 line asked ht
    refine ⟨fun hn => ⟨_, _, _, _, traps_gated hg (unmapPre_bad ht hn), traps_gated hg (numberPre_bad ht hn),
      traps_gated hg (numberPre_bad ht hn), traps_gated hg (numberPre_bad ht hn)⟩, fun hn => ?_⟩
    have go := numberPre_go ht hn
    have entry : s.myEntry n = b := myEntry_of ht
    have team : s.myTeam = t := myTeam_of ht
    refine ⟨fun hv => ?_, fun hv => ?_, ?_⟩
    · refine (next_gated hg go).trans (congrArg _ ?_)
      rw [State.touch, entry]
      exact if_neg fun e => Bool.false_ne_true (hv.symm.trans e)
    · let k := min (s.me.rs rb).toNat (b.count.toNat - e0)
      have touched : s.touch n e0 (s.me.rs rb).toNat =
          (elemsLines b e0 k).foldl (fun u a => u.startLine x c t n.toNat b a s.me.pc) s := by
        rw [State.touch, entry, team]
        exact (if_pos hv).trans (startElems_eq (x := x) (core := c) (t := t) (n := n.toNat) (b := b) (orig := s.me.pc) e0 k s)
      have asks (a : Nat) : a ∈ elemsLines b e0 k ↔ ∃ e j, asked e j ∧ a = line e j := by
        refine mem_elemsLines.trans (exists_congr fun e => ⟨fun ⟨lo, hi, j, hj, ha⟩ => ⟨j, ⟨lo, ?_, ?_, hj⟩, ha⟩,
          fun ⟨j, ⟨lo, hi, hc, hj⟩, ha⟩ => ⟨lo, ?_, j, hj, ha⟩⟩) <;> omega
      have whole : ∀ a ∈ elemsLines b e0 k, a % 64 = 0 := by
        intro a ha
        obtain ⟨e, j, -, rfl⟩ := (asks a).1 ha
        exact Nat.mul_mod_left ..
      obtain ⟨new, m, he, hall, hnew⟩ := startLines_starts (x := x) (core := c) (t := t) (n := n.toNat) (b := b) (orig := s.me.pc) whole s
      refine ⟨{ s with ops := s.ops ++ new, nextOp := m }, new, (next_gated hg go).trans (congrArg _ (touched.trans he)), rfl,
        fun e j h => hall _ ((asks _).2 ⟨e, j, h, rfl⟩), fun o ho => ?_, rfl⟩
      obtain ⟨hk, hx, hc, htask, hva, hu⟩ := hnew o ho
      exact ⟨hk, hx, hc, htask, (asks _).1 hva, hu⟩
    · refine ⟨s.bgtState n, next_gated hg go, ?_⟩
      rw [bgtState_eq ht]
      obtain ⟨hv, hw, hs, hp, hf, hd, hk, hz, hc⟩ := stateWord_fields b.v b.wr b.space b.pf (b.v && s.filling c s.me.task n.toNat)
        (b.v && !(s.dirtyIn x c b.space lo b.words).isEmpty) (s.ops.any (fun o => o.core = s.myCore && o.task = s.myTask &&
          match o.kind with
          | .wb m f _ _ => f && m = n.toNat
          | _ => false)) b.count.isLt
      exact ⟨hv, hw, hs, hp, hf, hd, (iff_of_eq (congrArg (· = true) hk)).trans wbk_iff, hz, hc⟩

end Settled

section
/-! SUPPORT. The halyard's events (R266 to R269): the block it reads, the command it pushes, the words it posts. -/

namespace Sys2Proof.Claims
open Sys2Proof Sys2Proof.Machine

variable {s : State} {c : Nat} {h : Halyard} {t : Team} {blk : BitVec 512}

theorem halWord_ofNat (b r v : Nat) (hv : v < 256) :
    halWord b r (BitVec.ofNat 8 v) = BitVec.ofNat 64 (b + r % 2 ^ 24 * 2 ^ 20 + v * 2 ^ 44) := by
  rw [halWord, BitVec.toNat_ofNat, Nat.mod_eq_of_lt hv]

/-! ### Block begin -/

theorem active_of (h : HalSt) (run : h = .run ∨ h = .wait) : h.active = true := by
  rcases run with rfl | rfl <;> rfl

/-- Nothing keeps the halyard from reading the block that it stands at. -/
structure Begins (s : State) (c : Nat) (t : Team) : Prop where
  team : (s.core c).halTeam = some t
  active : (s.hal c).st = .run ∨ (s.hal c).st = .wait
  noBlock : (s.hal c).cur = none
  failed : (s.hal c).failed = false
  done : ∀ p ∈ (s.hal c).rel, s.outstanding p.1 p.2 = false

theorem Begins.goes (b : Begins s c t) :
    (!(s.hal c).st.active || (s.hal c).cur.isSome || (s.hal c).rel.any (fun p => s.outstanding p.1 p.2)) = false := by
  have quiet : (s.hal c).rel.any (fun p => s.outstanding p.1 p.2) = false :=
    List.any_eq_false.2 fun p hp => by simp [b.done p hp]
  simp [active_of _ b.active, b.noBlock, quiet]

theorem halBegin_off (b : Begins s c t) (bad : t.spadSize < (s.hal c).blk.toNat + 64 ∨ (s.hal c).blk.toNat % 64 ≠ 0) :
    s.halBegin c = s.modHal c (fun h => h.blockFault 0x09) := by
  simp only [State.halBegin, b.team, b.goes, Bool.false_eq_true, if_false]
  exact if_pos (by simpa using bad)

/-- The halyard reads a block whose words all hold their data: it takes it, or faults on it (R266, R267). -/
theorem halBegin_read (b : Begins s c t) (fits : (s.hal c).blk.toNat + 64 ≤ t.spadSize) (al : (s.hal c).blk.toNat % 64 = 0)
    (noErr : s.errs = [])
    (held : ∀ k < 16, s.allUsable ⟨c, false, t.spadBase + (s.hal c).blk.toNat + 4 * k⟩ 4 = true ∧
      s.poisoned ⟨c, false, t.spadBase + (s.hal c).blk.toNat + 4 * k⟩ = false) :
    s.halBegin c =
      (let v := BitVec.ofNat 512 (Memory.rdN (s.core c).spad (t.spadBase + (s.hal c).blk.toNat) 64)
       if hblockBad v then s.modHal c (fun h => h.blockFault 0x09)
       else s.modHal c (fun h => { h with cur := some v, fill := none })) := by
  let ws := (List.range 16).map (fun k => t.spadBase + (s.hal c).blk.toNat + 4 * k)
  have clean : ws.any (fun a => s.poisoned ⟨c, false, a⟩) = false := by
    refine List.any_eq_false.2 fun a ha => ?_
    obtain ⟨k, hk, rfl⟩ := List.mem_map.1 ha
    simp [(held k (List.mem_range.1 hk)).2]
  have all : ws.find? (fun a => !s.allUsable ⟨c, false, a⟩ 4) = none := by
    refine List.find?_eq_none.2 fun a ha => ?_
    obtain ⟨k, hk, rfl⟩ := List.mem_map.1 ha
    simp [(held k (List.mem_range.1 hk)).1]
  have inside : (decide (t.spadSize < (s.hal c).blk.toNat + 64) || decide ((s.hal c).blk.toNat % 64 ≠ 0)) = false := by
    simp [al]; omega
  simp only [State.halBegin, b.team, b.goes, inside, findStore_of_nil noErr, b.failed, Bool.false_eq_true, if_false, Bool.false_or]
  rw [if_neg (by rw [clean]; exact Bool.false_ne_true), all]

/-! ### Push -/

theorem halPush_credit (cur : (s.hal c).cur = some blk) (team : (s.core c).halTeam = some t)
    (run : (s.hal c).st = .run ∨ (s.hal c).st = .wait) (rep : (s.hal c).ridx.toNat ≤ (hblockOf blk).rep)
    (cons : (hblockOf blk).cons = true) (tk : (s.hal c).taken = false) (cr : (s.hal c).cr = 0) :
    s.halPush c = s.modHal c (fun h => { h with st := .wait }) := by
  simp [State.halPush, cur, team, active_of _ run, Nat.not_lt.2 rep, cons, tk, cr]

theorem halPush_past (cur : (s.hal c).cur = some blk) (team : (s.core c).halTeam = some t)
    (run : (s.hal c).st = .run ∨ (s.hal c).st = .wait) (rep : (hblockOf blk).rep < (s.hal c).ridx.toNat) :
    s.halPush c = s.modHal c (fun h => h.nextBlock (hblockOf blk)) := by
  simp [State.halPush, cur, team, active_of _ run, rep]

/-- The halyard after it has the credit of a repetition, where the block takes credits. -/
def credited (s : State) (c : Nat) (b : HBlock) : State :=
  if b.cons && !(s.hal c).taken then s.modHal c (fun h => { h with cr := h.cr - 1, taken := true, st := .run }) else s

/-- The command that a halyard pushes next. -/
def nextCmd (s : State) (c : Nat) (t : Team) (blk : BitVec 512) : CopyCmd :=
  newCmd none t.task (hblockOf blk).kind 0 (halCommand blk (s.hal c).hbase (s.hal c).ridx.toNat) s.nextOp (s.hal c).rel

theorem core_modHal (s : State) (c : Nat) (f : Halyard → Halyard) :
    (s.modHal c f).core c = { s.core c with hal := f (s.core c).hal } := by
  rw [State.modHal, State.modCore, core_setCore, if_pos rfl]

theorem core_credited (s : State) (c : Nat) (b : HBlock) (tk : (s.hal c).taken = false) :
    (credited s c b).core c = { s.core c with hal := { s.hal c with
      cr := if b.cons then (s.hal c).cr - 1 else (s.hal c).cr
      taken := b.cons
      st := if b.cons then .run else (s.hal c).st } } := by
  unfold credited
  rw [tk]
  cases b.cons
  · exact congrArg (fun v => ({ s.core c with hal := { s.hal c with taken := v } } : Core)) tk
  · exact core_modHal s c (fun h => { h with cr := h.cr - 1, taken := true, st := .run })

theorem nextOp_credited (s : State) (c : Nat) (b : HBlock) : (credited s c b).nextOp = s.nextOp := by
  unfold credited
  split <;> rfl

theorem core_pushed (s : State) (c e : Nat) (cmd : CopyCmd) (f : Halyard → Halyard) :
    (State.modHal (State.modCore { s with nextOp := s.nextOp + 1 } c (fun k => k.setEng e (k.eng e ++ [cmd]))) c f).core c =
      { (s.core c).setEng e ((s.core c).eng e ++ [cmd]) with hal := f (s.core c).hal } := by
  rw [core_modHal, State.modCore, core_setCore, if_pos rfl]
  unfold Core.setEng
  split <;> rfl

theorem eng_setEng (u : Core) (e : Nat) (l : List CopyCmd) : (u.setEng e l).eng e = l := by
  unfold Core.eng Core.setEng
  split <;> rfl

/-- The halyard has its credit and the room: it pushes the command of its repetition (R267). -/
theorem halPush_pushes (cur : (s.hal c).cur = some blk) (team : (s.core c).halTeam = some t)
    (run : (s.hal c).st = .run ∨ (s.hal c).st = .wait) (rep : (s.hal c).ridx.toNat ≤ (hblockOf blk).rep)
    (cr : (hblockOf blk).cons = true → (s.hal c).cr ≠ 0)
    (room : (credited s c (hblockOf blk)).halRoom c (hblockOf blk).eng = true) :
    s.halPush c =
      State.modHal (State.modCore { credited s c (hblockOf blk) with nextOp := (credited s c (hblockOf blk)).nextOp + 1 } c
        (fun k => k.setEng (hblockOf blk).eng (k.eng (hblockOf blk).eng ++
          [{ nextCmd s c t blk with hid := (credited s c (hblockOf blk)).nextOp }]))) c
        (fun k => { k with
          ridx := k.ridx + 1, taken := false
          sent := k.sent ++ [⟨(credited s c (hblockOf blk)).nextOp, k.blk.toNat, (s.hal c).ridx.toNat,
            (hblockOf blk).post = 2 || ((hblockOf blk).post = 1 && (s.hal c).ridx.toNat = (hblockOf blk).rep), none⟩] }) := by
  have credit : ((hblockOf blk).cons && !(s.hal c).taken && decide ((s.hal c).cr = 0)) = false := by
    cases hc : (hblockOf blk).cons
    · rfl
    · have paid : (s.hal c).cr ≠ 0#32 := cr hc
      simp [paid]
  simp only [State.halPush, cur, team, active_of _ run, Bool.not_true, Bool.false_and, Bool.false_eq_true, if_false,
    Nat.not_lt.2 rep, credit]
  have go := room
  unfold credited at go
  simp only [go, Bool.not_true, Bool.false_eq_true, if_false]
  rfl

/-- The block of a pushed command: the addresses of its repetition, and the block's fields above them (R267). -/
theorem halCommand_fields (b : BitVec 512) (base : Word) (r : Nat) :
    (halCommand b base r).toNat / 2 ^ 128 = b.toNat / 2 ^ 128 % 2 ^ 256 ∧
    (halCommand b base r).setWidth 64 = BitVec.ofInt 64 (((blockOf b).saddr : Int) + (r : Int) * (hblockOf b).sinc) +
      (if (blockOf b).ssp = 2 then base else 0) ∧
    (halCommand b base r).extractLsb' 64 64 = BitVec.ofInt 64 (((blockOf b).daddr : Int) +
      ((if (hblockOf b).dwrap = 0 then r else r % ((hblockOf b).dwrap + 1) : Nat) : Int) * (hblockOf b).dinc) +
      (if (blockOf b).dsp = 2 then base else 0) := by
  have wrap : (if (hblockOf b).dwrap = 0 then (r : Int) else ((r % ((hblockOf b).dwrap + 1) : Nat) : Int)) =
      ((if (hblockOf b).dwrap = 0 then r else r % ((hblockOf b).dwrap + 1) : Nat) : Int) := by
    split <;> rfl
  simp only [halCommand, wrap]
  generalize hsrc : BitVec.ofInt 64 (((blockOf b).saddr : Int) + (r : Int) * (hblockOf b).sinc) +
    (if (blockOf b).ssp = 2 then base else 0) = src
  generalize hdst : BitVec.ofInt 64 (((blockOf b).daddr : Int) + _) + (if (blockOf b).dsp = 2 then base else 0) = dst
  have hs := src.isLt
  have hd := dst.isLt
  have hi : b.toNat % 2 ^ 384 / 2 ^ 128 = b.toNat / 2 ^ 128 % 2 ^ 256 := by omega
  rw [hi]
  have hq : b.toNat / 2 ^ 128 % 2 ^ 256 < 2 ^ 256 := Nat.mod_lt _ (by decide)
  generalize b.toNat / 2 ^ 128 % 2 ^ 256 = q at hq
  have whole : (BitVec.ofNat 512 (q * 2 ^ 128 + dst.toNat * 2 ^ 64 + src.toNat)).toNat =
      q * 2 ^ 128 + dst.toNat * 2 ^ 64 + src.toNat := by
    rw [BitVec.toNat_ofNat]
    exact Nat.mod_eq_of_lt (by omega)
  refine ⟨by rw [whole]; omega, BitVec.eq_of_toNat_eq ?_, BitVec.eq_of_toNat_eq ?_⟩
  · rw [BitVec.toNat_setWidth, whole]; omega
  · rw [BitVec.extractLsb'_toNat, whole, Nat.shiftRight_eq_div_pow]; omega

/-! ### Words and faults -/

theorem settle_one {k : HSent} (one : h.sent = [k]) (quiet : h.bad = none) (ok : k.status = some 0) (post : k.post = true)
    (room : h.cq.length < 8) : h.settle (h.sent.length + 1) = { h with sent := [], cq := h.cq ++ [halWord k.blk k.rep 0] } := by
  rw [one]
  simp [Halyard.settle, one, ok, post, room, quiet]

theorem settle_bad {w : Word} (no : h.sent = []) (bad : h.bad = some w) (room : h.cq.length < 8) :
    h.settle (h.sent.length + 1) = { h with cq := h.cq ++ [w], bad := none, fst := w.extractLsb' 44 8 } := by
  have field : BitVec.ofNat 8 (bitsOf w.toNat 44 8) = w.extractLsb' 44 8 := by
    rw [ofNat_bitsOf]
    exact BitVec.eq_of_toNat_eq (by
      rw [BitVec.extractLsb'_toNat, BitVec.toNat_ofNat, Nat.shiftRight_eq_div_pow])
  rw [no]
  simp [Halyard.settle, no, bad, room, field]

theorem halFault_one {k : HSent} {v : BitVec 8} (one : (s.hal c).sent = [k]) (quiet : (s.hal c).bad = none)
    (st : k.status = some v) (hv : v ≠ 0) (nf : (s.hal c).st ≠ .fault) :
    s.halFault c = s.setCore c { s.core c with hal := { s.hal c with
      sent := [], st := .fault, bad := some (halWord k.blk k.rep v) } } := by
  have quiet' : (s.core c).hal.bad = none := quiet
  have nf' : (s.core c).hal.st ≠ .fault := nf
  have one' : (s.core c).hal.sent = [k] := one
  have hv' : v ≠ 0#8 := hv
  simp [State.halFault, State.hal, State.modHal, State.modCore, one', st, hv', quiet', nf']

theorem halStopped_of (stop : (s.hal c).st = .stopping) (tk : (s.hal c).taken = false)
    (no : ∀ k ∈ (s.core c).eng0 ++ (s.core c).eng1, k.x ≠ none) :
    s.halStopped c = s.modHal c (fun h => { h with st := .idle, cur := none }) := by
  have none_ (l : List CopyCmd) (hl : ∀ k ∈ l, k.x ≠ none) : (l.filter (fun k => k.x.isNone)).length = 0 := by
    rw [List.length_eq_zero_iff, List.filter_eq_nil_iff]
    intro k hk
    simpa using hl k hk
  have zero : s.halOut c 0 + s.halOut c 1 = 0 := by
    have h0 : s.halOut c 0 = 0 := none_ _ fun k hk => no k (List.mem_append_left _ hk)
    have h1 : s.halOut c 1 = 0 := none_ _ fun k hk => no k (List.mem_append_right _ hk)
    omega
  simp [State.halStopped, stop, tk, zero]

end Sys2Proof.Claims
end

section Settled
open Sys2Proof Sys2Proof.Machine Sys2Proof.Claims

/-- Settles O44: each event of the halyard by the branch of the sequencer that its hypotheses choose. -/
theorem halyardEvents : Obligations.HalyardEvents := by
  unfold Obligations.HalyardEvents
  intro s c t u h put word team
  have put_eq (f : Halyard → Halyard) : s.modHal c.val f = put (f h) := rfl
  refine ⟨?_, ?_, ?_, ?_, ?_⟩
  · intro act none_ failed done
    have b : Begins s c.val t := ⟨team, act, none_, failed, done⟩
    intro faults v
    have faulty : (s.hal c.val).blockFault 0x09 = faults := by
      simp only [Halyard.blockFault, halWord]
      rfl
    refine ⟨fun off => ?_, fun fits al noErr held => ?_⟩
    · exact congrArg Host.Outcome.next ((halBegin_off b off).trans (congrArg put faulty))
    · have read := halBegin_read b fits al noErr held
      refine ⟨fun bad => ?_, fun ok => ?_⟩
      · exact congrArg Host.Outcome.next (read.trans ((if_pos bad).trans (congrArg put faulty)))
      · exact congrArg Host.Outcome.next (read.trans (if_neg (ok ▸ Bool.false_ne_true)))
  · intro blk cur run b f r eng
    refine ⟨fun rep cons tk cr => ?_, fun rep last sent => ?_, fun rep last => ?_, fun rep cr tk few fewer room => ?_⟩
    · exact congrArg Host.Outcome.next (halPush_credit cur team run rep cons tk cr)
    · refine congrArg Host.Outcome.next ((halPush_past cur team run rep).trans (congrArg put ?_))
      exact (if_pos last).trans (if_pos (List.isEmpty_iff.2 sent))
    · refine congrArg Host.Outcome.next ((halPush_past cur team run rep).trans (congrArg put ?_))
      exact if_neg (last ▸ Bool.false_ne_true)
    · have core := core_credited s c.val b tk
      have roomy : (credited s c.val b).halRoom c.val b.eng = true := by
        simp only [State.halRoom, State.halOut, State.eng, State.hal, core, live, Bool.and_eq_true, decide_eq_true_eq]
        exact ⟨⟨few, fewer⟩, room⟩
      have pushed := halPush_pushes cur team run rep cr roomy
      refine ⟨_, { nextCmd s c.val t blk with hid := (credited s c.val b).nextOp }, congrArg Host.Outcome.next pushed, ?_,
        rfl, rfl, rfl, rfl, rfl, rfl, nextOp_credited .., ?_⟩
      · rw [core_pushed, core]
        exact eng_setEng _ _ _
      · obtain ⟨high, src, dst⟩ := halCommand_fields blk (s.hal c.val).hbase (s.hal c.val).ridx.toNat
        refine ⟨high, src, dst, ?_⟩
        rw [core_pushed, core, nextOp_credited]
        simp only [Bool.decide_or, Bool.decide_and]
        rfl
  · intro k one none_
    refine ⟨fun ok post room => ?_, fun v st hv nf => ?_⟩
    · exact congrArg Host.Outcome.next (congrArg put (settle_one one none_ ok post room))
    · exact congrArg Host.Outcome.next (halFault_one one none_ st hv nf)
  · intro w no bad room
    exact congrArg Host.Outcome.next (congrArg put (settle_bad no bad room))
  · intro stop tk no
    exact congrArg Host.Outcome.next (halStopped_of stop tk no)

end Settled

section
/-! SUPPORT. What an access of a core to a page without copies charges and nothing else, and a fill's words (R105, R106, R109, R155). -/

namespace Sys2Proof.Claims
open Sys2Proof Sys2Proof.Machine

variable {s t u : State}

/-! ### Bytes of a number read from memory -/

theorem rdN_add (m : Memory) (a j k : Nat) : Memory.rdN m a (j + k) = Memory.rdN m a j + 256 ^ j * Memory.rdN m (a + j) k := by
  induction j generalizing a with
  | zero => simp [Memory.rdN]
  | succ j ih =>
    have next := ih (a + 1)
    rw [Nat.add_right_comm j 1 k, Memory.rdN, next, Memory.rdN, show a + (j + 1) = a + 1 + j by omega]
    ring

/-- Some bytes of a number that was read. -/
theorem rdN_part (m : Memory) (a : Nat) {j k n : Nat} (h : j + k ≤ n) :
    Memory.rdN m a n / 256 ^ j % 256 ^ k = Memory.rdN m (a + j) k := by
  obtain ⟨r, rfl⟩ := Nat.exists_eq_add_of_le h
  rw [Nat.add_assoc, rdN_add, Nat.add_mul_div_left _ _ (Nat.pow_pos (by decide)), Nat.div_eq_of_lt (rdN_lt ..), Nat.zero_add,
    rdN_add, Nat.add_mul_mod_self_left, Nat.mod_eq_of_lt (rdN_lt ..)]

theorem rdN_eq_of_rd {m m' : Memory} {a n : Nat} (h : ∀ k, a ≤ k → k < a + n → Memory.rd m k = Memory.rd m' k) :
    Memory.rdN m a n = Memory.rdN m' a n := by
  induction n generalizing a with
  | zero => rfl
  | succ n ih => rw [Memory.rdN, Memory.rdN, h a (Nat.le_refl a) (by omega), ih fun k lo hi => h k (by omega) (by omega)]

theorem rdN_wrN_apart (m : Memory) {a b n k : Nat} (v : Nat) (h : b + k ≤ a ∨ a + n ≤ b) :
    Memory.rdN (Memory.wrN m a v n) b k = Memory.rdN m b k :=
  rdN_eq_of_rd fun i lo hi => Memory.rd_wrN_out _ _ _ _ _ (by omega)

/-! ### What an access charges -/

/-- A state without what a read of a core at a home may change: the accounts, the timestamps, and what the caches hold. -/
def uncharged (s : State) : State := { s with
  islands := [], tasks := [], freeCtr := 0, lines := [], evt := [], swc := [], modSeq := [], served := [], tcache := [] }

/-- t is s after accesses that charge and stamp, and change nothing else. -/
def Charged (s t : State) : Prop := uncharged t = uncharged s

namespace Charged

theorem refl : Charged s s := rfl

theorem trans (h : Charged s t) (k : Charged t u) : Charged s u := Eq.trans k h

theorem ite {c : Prop} [Decidable c] (ht : Charged s t) (hu : Charged s u) : Charged s (if c then t else u) := by
  split
  · exact ht
  · exact hu

theorem cores (h : Charged s t) : t.cores = s.cores := (congrArg State.cores h :)
theorem core (h : Charged s t) (k : Nat) : t.core k = s.core k := (congrArg (State.core · k) h :)
theorem ctxs (h : Charged s t) : t.ctxs = s.ctxs := (congrArg State.ctxs h :)
theorem ctx (h : Charged s t) (x : CtxNo) : t.ctx x = s.ctx x := (congrArg (State.ctx · x) h :)
theorem ops (h : Charged s t) : t.ops = s.ops := (congrArg State.ops h :)
theorem dram (h : Charged s t) : t.dram = s.dram := (congrArg State.dram h :)
theorem hostMem (h : Charged s t) : t.hostMem = s.hostMem := (congrArg State.hostMem h :)
theorem mon (h : Charged s t) : t.mon = s.mon := (congrArg State.mon h :)
theorem mgmt (h : Charged s t) : t.mgmt = s.mgmt := (congrArg State.mgmt h :)
theorem owners (h : Charged s t) : t.owners = s.owners := (congrArg State.owners h :)
theorem errs (h : Charged s t) : t.errs = s.errs := (congrArg State.errs h :)
theorem physBad (h : Charged s t) (pa n : Nat) : t.physBad pa n = s.physBad pa n := (congrArg (State.physBad · pa n) h :)

theorem of_eq (h : uncharged t = uncharged s := by rfl) : Charged s t := h

theorem modTask {n : Nat} {f : Task → Task} : Charged s (s.modTask n f) := of_eq

theorem memDebit (i : Nat) (task : Option Nat) : Charged s (s.memDebit i task) := by
  unfold State.memDebit
  cases task <;> exact of_eq

theorem markStream (a : Attr) (line : Nat) : Charged s (s.markStream a line) := .ite of_eq .refl

theorem evictFor (slice : Nat) : Charged s (s.evictFor slice) := by
  unfold State.evictFor
  have evicted (o : Option LineTs) : Charged s (match o with
      | some v => ({ s with freeCtr := s.freeCtr + 1 } : State).evictLine v
      | none => { s with freeCtr := s.freeCtr + 1 }) := by cases o <;> exact of_eq
  exact .ite ((evicted _).trans (.memDebit _ _)) (evicted _)

theorem dramAccess (a : Attr) (pa i : Nat) (task : Option Nat) : Charged s (s.dramAccess a pa i task) := by
  unfold State.dramAccess
  have streamed : Charged s (State.markStream { s with freeCtr := s.freeCtr + 1 } a (pa / 64)) :=
    .trans (t := { s with freeCtr := s.freeCtr + 1 }) of_eq (.markStream _ _)
  exact .ite .refl (.ite (.memDebit i task) (.ite ((streamed.trans (.memDebit i task)).trans (.evictFor _)) streamed))

theorem cacheIn (core : Nat) (asid : BitVec 16) (va : Nat) : Charged s (s.cacheIn core asid va) := by
  simp only [State.cacheIn]
  split
  · split <;> exact of_eq
  · exact of_eq

theorem walked (ho : s.owners = []) (he : s.errs = []) (core : Nat) (asid : BitVec 16) (va : Nat) :
    Charged s (s.walked core asid va) := by
  have cached := Charged.cacheIn (s := s) core asid va
  unfold State.walked
  rw [recallTables_of_nil (cached.owners.trans ho) (cached.errs.trans he)]
  exact .ite cached cached

end Charged

/-! ### VALID cleared on clean words (R109) -/

/-- One word of a store: its side bits and its value. -/
def cell (c : Core) (v : Bool) (w : Nat) : Side × Nat := (c.side v w, Memory.rdN (c.store v) (4 * w) 4)

theorem cell_setSide_ne {c : Core} {v u : Bool} {w k : Nat} (b : Side) (h : ¬(u = v ∧ w = k)) : cell (c.setSide v k b) u w = cell c u w := by
  rw [cell, side_setSide, if_neg h, store_setSide]
  rfl

theorem foldl_dropped (v : Bool) (w : Nat) (l : List (Nat × Side)) (c : Core) :
    let d := l.foldl (fun c e => c.setSide v e.1 { e.2 with valid := false }) c
    (∀ u, d.store u = c.store u) ∧ d.teams = c.teams ∧
      ((∀ e ∈ l, e.1 ≠ w) → d.side v w = c.side v w) ∧
      ((∃ e ∈ l, e.1 = w) → ∃ e ∈ l, e.1 = w ∧ d.side v w = { e.2 with valid := false }) := by
  induction l generalizing c with
  | nil => exact ⟨fun _ => rfl, rfl, fun _ => rfl, fun ⟨_, h, _⟩ => absurd h List.not_mem_nil⟩
  | cons a r ih =>
    obtain ⟨store, teams, other, hit⟩ := ih (c.setSide v a.1 { a.2 with valid := false })
    refine ⟨fun u => (store u).trans (store_setSide ..), teams.trans (teams_setSide ..), fun no => ?_, fun _ => ?_⟩
    · rw [List.foldl_cons, other fun e he => no e (List.mem_cons_of_mem _ he), side_setSide,
        if_neg fun e => no a List.mem_cons_self e.2.symm]
    · by_cases later : ∃ e ∈ r, e.1 = w
      · obtain ⟨e, he, hw, hs⟩ := hit later
        exact ⟨e, List.mem_cons_of_mem _ he, hw, hs⟩
      · have here : a.1 = w := by
          next some_ =>
            obtain ⟨e, he, hw⟩ := some_
            rcases List.mem_cons.1 he with rfl | he
            · exact hw
            · exact absurd ⟨e, he, hw⟩ later
        refine ⟨a, List.mem_cons_self, here, ?_⟩
        rw [List.foldl_cons, other fun e he hw => later ⟨e, he, hw⟩, side_setSide, if_pos ⟨rfl, here.symm⟩]

theorem store_clearClean (c : Core) (v u : Bool) (p : Nat → Bool) : (c.clearClean v p).store u = c.store u :=
  (foldl_dropped v 0 _ c).1 u

theorem teams_clearClean (c : Core) (v : Bool) (p : Nat → Bool) : (c.clearClean v p).teams = c.teams :=
  (foldl_dropped v 0 _ c).2.1

/-- A word that the test does not name keeps its side bits. -/
theorem side_clearClean_out {c : Core} {v : Bool} {p : Nat → Bool} {w : Nat} (h : p w = false) :
    (c.clearClean v p).side v w = c.side v w := by
  obtain ⟨-, -, other, -⟩ := foldl_dropped v w ((c.sides v).filter (fun e => e.2.valid && !e.2.dirty && p e.1)) c
  refine other fun e he hw => ?_
  have := (List.mem_filter.1 he).2
  simp [hw, h] at this

/-- A word that the test names is DIRTY, or not VALID any more. -/
theorem side_clearClean_in {c : Core} {v : Bool} {p : Nat → Bool} {w : Nat} (h : p w = true)
    (hd : ((c.clearClean v p).side v w).dirty = false) : ((c.clearClean v p).side v w).valid = false := by
  obtain ⟨-, -, other, hit⟩ := foldl_dropped v w ((c.sides v).filter (fun e => e.2.valid && !e.2.dirty && p e.1)) c
  by_cases found : ∃ e ∈ (c.sides v).filter (fun e => e.2.valid && !e.2.dirty && p e.1), e.1 = w
  · obtain ⟨e, -, -, hs⟩ := hit found
    exact (congrArg Side.valid hs :)
  · have kept : (c.clearClean v p).side v w = c.side v w := other fun e he hw => found ⟨e, he, hw⟩
    rw [kept] at hd ⊢
    by_contra hv
    rw [Bool.not_eq_false] at hv
    have ne : SMap.get Side.none (c.sides v) w ≠ Side.none := fun e => by
      have := congrArg Side.valid e
      exact Bool.false_ne_true (this.symm.trans hv)
    refine found ⟨_, List.mem_filter.2 ⟨mem_of_get ne, ?_⟩, rfl⟩
    have hv' : (SMap.get Side.none (c.sides v) w).valid = true := hv
    have hd' : (SMap.get Side.none (c.sides v) w).dirty = false := hd
    simp [hv', hd', h]

/-! ### The words of a filled line (R105, R106) -/

/-- Two places of a line are two words of an entry. -/
theorem wordAt_inj {b : Bight} {va i j k : Nat} (hj : j < 16) (hk : k < 16) (h : b.wordAt (va + 4 * j) = some i)
    (h' : b.wordAt (va + 4 * k) = some i) : j = k := by
  have lt := b.vbase.isLt
  have offset (o o' : Nat) (ho : o = (va + 4 * j + 2 ^ 64 - b.vbase.toNat) % 2 ^ 64)
      (ho' : o' = (va + 4 * k + 2 ^ 64 - b.vbase.toNat) % 2 ^ 64) : o % 4 = o' % 4 ∧ (o = o' → j = k) := by omega
  obtain ⟨rem, same⟩ := offset _ _ rfl rfl
  refine same ?_
  unfold Bight.wordAt at h h'
  revert h h' rem
  generalize (va + 4 * j + 2 ^ 64 - b.vbase.toNat) % 2 ^ 64 = o
  generalize (va + 4 * k + 2 ^ 64 - b.vbase.toNat) % 2 ^ 64 = o'
  intro h h' rem
  by_cases one : b.count = 1
  · simp only [one, if_true, Option.ite_none_right_eq_some, Option.some.injEq, Nat.zero_mul, Nat.zero_add] at h h'
    omega
  · simp only [one, if_false, Option.ite_none_right_eq_some, Bool.and_eq_true, decide_eq_true_eq, Option.some.injEq] at h h'
    obtain ⟨⟨-, hr⟩, hi⟩ := h
    obtain ⟨⟨-, hr'⟩, hi'⟩ := h'
    have low : o % b.stride.toNat / 4 < b.w4 := by omega
    have low' : o' % b.stride.toNat / 4 < b.w4 := by omega
    have elem : o / b.stride.toNat = o' / b.stride.toNat := by
      have e : (o % b.stride.toNat / 4 + b.w4 * (o / b.stride.toNat)) / b.w4 =
          (o' % b.stride.toNat / 4 + b.w4 * (o' / b.stride.toNat)) / b.w4 := by
        rw [Nat.mul_comm b.w4, Nat.mul_comm b.w4]; congr 1; omega
      rwa [Nat.add_mul_div_left _ _ (by omega), Nat.add_mul_div_left _ _ (by omega), Nat.div_eq_of_lt low, Nat.div_eq_of_lt low',
        Nat.zero_add, Nat.zero_add] at e
    have hq := Nat.div_add_mod o b.stride.toNat
    have hq' := Nat.div_add_mod o' b.stride.toNat
    rw [elem] at hi hq
    generalize b.stride.toNat * (o' / b.stride.toNat) = q at hq hq'
    omega

/-- A word without a copy: neither VALID nor DIRTY. -/
def Side.fresh (b : Side) : Prop := b.valid = false ∧ b.dirty = false

/-- One place of a filled line in a core's store. -/
def fillPlaced (t : Team) (b : Bight) (lease : Option Nat) (line v : Nat) (c : Core) (k : Nat) : Core :=
  match b.wordAt (line + 4 * k) with
  | none => c
  | some i =>
    let w := t.bightBase b + i
    if (c.side b.space w).valid || (c.side b.space w).dirty then c
    else (c.setStore b.space (Memory.wrN (c.store b.space) (4 * w) (bitsOf v (32 * k) 32) 4)).setSide b.space w (.clean lease)

theorem foldl_fillWord (core : Nat) (t : Team) (b : Bight) (lease : Option Nat) (line v : Nat) (l : List Nat) (s : State) :
    ∃ m, l.foldl (fun u k => u.fillWord core t b lease line v k) s = { s with cores := m } ∧
      ∀ k, State.core { s with cores := m } k = if k = core then l.foldl (fillPlaced t b lease line v) (s.core core) else s.core k := by
  induction l generalizing s with
  | nil => exact ⟨s.cores, rfl, fun k => by split <;> simp_all⟩
  | cons j r ih =>
    have one : ∃ m, s.fillWord core t b lease line v j = { s with cores := m } ∧
        ∀ k, State.core { s with cores := m } k = if k = core then fillPlaced t b lease line v (s.core core) j else s.core k := by
      have same : ∀ k, s.core k = if k = core then s.core core else s.core k := fun k => by split <;> simp_all
      unfold State.fillWord fillPlaced
      cases b.wordAt (line + 4 * j) with
      | none => exact ⟨s.cores, rfl, same⟩
      | some i =>
        dsimp only
        split
        · exact ⟨s.cores, rfl, same⟩
        · exact ⟨_, rfl, fun k => core_setCore s core k _⟩
    obtain ⟨m, he, hm⟩ := one
    obtain ⟨m', he', hm'⟩ := ih { s with cores := m }
    refine ⟨m', by rw [List.foldl_cons, he, he'], fun k => (hm' k).trans ?_⟩
    rw [hm core, if_pos rfl, hm k, List.foldl_cons]
    split <;> rfl

section Places

variable {tm : Team} {b : Bight} {lease : Option Nat} {line v : Nat}

theorem cell_fillPlaced_ne {c : Core} {j w : Nat} (h : ¬Side.fresh (c.side b.space w) ∨ ∀ i, b.wordAt (line + 4 * j) = some i →
    w ≠ tm.bightBase b + i) : cell (fillPlaced tm b lease line v c j) b.space w = cell c b.space w := by
  unfold fillPlaced
  cases hw : b.wordAt (line + 4 * j) with
  | none => rfl
  | some i =>
    dsimp only
    split
    · rfl
    · next hf =>
      simp only [Bool.or_eq_true, not_or, Bool.not_eq_true] at hf
      have ne : w ≠ tm.bightBase b + i := by
        rcases h with h | h
        · rintro rfl; exact h hf
        · exact h i hw
      rw [cell, side_setSide, if_neg fun e => ne e.2, store_setSide, store_setStore, if_pos rfl, side_setStore,
        rdN_wrN_apart _ _ (by omega)]
      rfl

theorem cell_fillPlaced {c : Core} {j i : Nat} (hw : b.wordAt (line + 4 * j) = some i)
    (hf : Side.fresh (c.side b.space (tm.bightBase b + i))) :
    cell (fillPlaced tm b lease line v c j) b.space (tm.bightBase b + i) = (.clean lease, bitsOf v (32 * j) 32) := by
  obtain ⟨hv, hd⟩ := hf
  unfold fillPlaced
  rw [hw]
  dsimp only
  rw [if_neg (by simp [hv, hd]), cell, side_setSide, if_pos ⟨rfl, rfl⟩, store_setSide, store_setStore, if_pos rfl, Memory.rdN_wrN]
  exact Prod.ext rfl (Nat.mod_eq_of_lt (Nat.mod_lt _ (by decide)))

theorem cell_filled_ne {w : Nat} (l : List Nat) (c : Core)
    (h : ¬Side.fresh (c.side b.space w) ∨ ∀ k ∈ l, ∀ i, b.wordAt (line + 4 * k) = some i → w ≠ tm.bightBase b + i) :
    cell (l.foldl (fillPlaced tm b lease line v) c) b.space w = cell c b.space w := by
  induction l generalizing c with
  | nil => rfl
  | cons j r ih =>
    have one : cell (fillPlaced tm b lease line v c j) b.space w = cell c b.space w :=
      cell_fillPlaced_ne (h.imp_right fun h => h j List.mem_cons_self)
    have side : (fillPlaced tm b lease line v c j).side b.space w = c.side b.space w := congrArg Prod.fst one
    refine (ih _ (h.imp (fun h => ?_) fun h k hk => h k (List.mem_cons_of_mem _ hk))).trans one
    rwa [side]

/-- A word of the line without a copy takes its value of the line. -/
theorem cell_filled {k i : Nat} (hw : b.wordAt (line + 4 * k) = some i) (l : List Nat) (hl : ∀ j ∈ l, j < 16) (hk : k ∈ l) (c : Core)
    (hf : Side.fresh (c.side b.space (tm.bightBase b + i))) :
    cell (l.foldl (fillPlaced tm b lease line v) c) b.space (tm.bightBase b + i) = (.clean lease, bitsOf v (32 * k) 32) := by
  induction l generalizing c with
  | nil => exact absurd hk List.not_mem_nil
  | cons j r ih =>
    by_cases e : k = j
    · subst e
      have one := cell_fillPlaced (lease := lease) (v := v) hw hf
      have side : (fillPlaced tm b lease line v c k).side b.space (tm.bightBase b + i) = .clean lease := congrArg Prod.fst one
      refine (cell_filled_ne r _ (.inl fun fresh => ?_)).trans one
      rw [side] at fresh
      exact Bool.false_ne_true fresh.1.symm
    · have one := cell_fillPlaced_ne (tm := tm) (lease := lease) (v := v) (c := c) (j := j) (w := tm.bightBase b + i) (.inr fun i' hi' eq => by
        have : i = i' := Nat.add_left_cancel eq
        subst this
        exact e (wordAt_inj (hl k hk) (hl j List.mem_cons_self) hw hi'))
      have side : (fillPlaced tm b lease line v c j).side b.space (tm.bightBase b + i) = c.side b.space (tm.bightBase b + i) :=
        congrArg Prod.fst one
      refine ih (fun j hj => hl j (List.mem_cons_of_mem _ hj)) ((List.mem_cons.1 hk).resolve_left e) _ ?_
      rwa [side]

end Places

/-! ### Who is told, and who waits (R110) -/

theorem cell_tellEngines (id : Nat) (bad : Option Nat) (c : Core) (v : Bool) (w : Nat) :
    cell (c.tellEngines id bad) v w = cell c v w := by
  cases v <;> rfl

theorem tellEngines_form (id : Nat) (bad : Option Nat) : ∃ m, s.tellEngines id bad = { s with cores := m } ∧
    ∀ k v w, cell (State.core { s with cores := m } k) v w = cell (s.core k) v w := by
  unfold State.tellEngines
  generalize s.cores = l
  induction l generalizing s with
  | nil => exact ⟨s.cores, rfl, fun _ _ _ => rfl⟩
  | cons e r ih =>
    obtain ⟨m, he, hm⟩ := ih (s := s.modCore e.1 (Core.tellEngines id bad))
    refine ⟨m, he, fun k v w => (hm k v w).trans ?_⟩
    rw [State.modCore, core_setCore]
    split
    · next h => rw [cell_tellEngines, h]
    · rfl

theorem pollCtx_quiet {x : CtxNo} (hq : (s.ctx x).stq = []) (hp : ∀ f ∈ (s.ctx x).allFlights, f.pending = false) : s.pollCtx x = s := by
  have none_ : (s.ctx x).allFlights.all (fun f => !f.pending) = true := List.all_eq_true.2 fun f hf => by simp [hp f hf]
  exact if_pos (by rw [none_, hq]; rfl)

theorem pollAll_quiet (h : ∀ x, (s.ctx x).stq = [] ∧ ∀ f ∈ (s.ctx x).allFlights, f.pending = false) : s.pollAll = s := by
  unfold State.pollAll
  generalize s.ctxs = l
  induction l with
  | nil => rfl
  | cons e r ih =>
    obtain ⟨hq, hp⟩ := h (ctxOf e.1)
    rw [List.foldl_cons, pollCtx_quiet hq hp, ih]

/-! ### A fill at the home of a page without copies (R106, R109) -/

variable {o : GOp} {pa n : Nat} {a : Attr} {w : Bool}

/-- The parts of `Reaches`, by their names, with what they give at once. -/
structure Reached (s : State) (o : GOp) (pa : Nat) (a : Attr) (n : Nat) (w : Bool) : Prop where
  op : s.op? o.id = some o
  free : s.opFree o = true
  unwaited : s.wonusWaits o.task = false
  xlate : ∀ src, s.opXlate o w src = .ok pa a (s.walked o.core o.asid o.va)
  walk : Charged s (s.walked o.core o.asid o.va)
  le : pa + n ≤ 0x9000000000
  host : a.host = false
  coh : a.coh = 0
  owners : s.owners = []
  errs : s.errs = []
  apart : ApartFromTable s pa

theorem reached (h : Reaches s o pa a n w) : Reached s o pa a n w := by
  obtain ⟨op, free, recorded, perm, fid, xl, le, host, coh, owners, errs, apart⟩ := h
  refine ⟨op, free, by rw [State.wonusWaits, recorded]; rfl, fun src => ?_, .walked owners errs _ _ _, le, host, coh, owners, errs, apart⟩
  rw [State.opXlate, perm, if_neg Bool.false_ne_true, fid, Option.isSome_none, if_neg Bool.false_ne_true, xl]

theorem Attr.dir_of_coh (h : a.coh = 0) : a.dir = false := by simp [Attr.dir, h]

theorem Attr.lease_of_coh (h : a.coh = 0) : a.lease = false := by simp [Attr.lease, h]

variable {tm : Team} {b : Bight}

/-- What a fill of a page without copies does at its home: the access is charged, and the words take their values. -/
theorem fillAt_plain (ho : s.owners = []) (he : s.errs = []) (hb : s.physBad pa 64 = false) (le : pa + 64 ≤ 0x9000000000)
    (host : a.host = false) (coh : a.coh = 0) : s.fillAt o n tm b pa a =
      ((((((List.range 16).foldl (fun u k => u.fillWord o.core tm b none o.va (Memory.rdN s.dram pa 64) k)
        (s.dramAccess a pa o.core (some o.task))).doneOp o.id).tellEngines o.id none).pollAll).dropWords o.core tm b o.va o.drop) := by
  have hawser := paHawser_of_le le (by decide)
  have home (v : Nat) : s.fillHome o n b pa a v = s := by
    simp [State.fillHome, hawser, host, Attr.dir_of_coh coh, Attr.lease_of_coh coh]
  have peer : s.peerLease o a pa = s := by simp [State.peerLease, hawser]
  rw [State.fillAt, recallOwners_of_nil ho he, if_neg (hb ▸ Bool.false_ne_true)]
  simp only [physRd_of_le le (by decide), home, peer, Attr.lease_of_coh coh, Bool.false_eq_true, if_false]

/-- The words that a fill dropped, of a core that has taken the line. -/
def droppedWords (tm : Team) (b : Bight) (o : GOp) : List Nat :=
  o.drop.filterMap (fun k => (b.wordAt (o.va + 4 * k)).map (fun i => tm.bightBase b + i))

theorem mem_droppedWords {k i : Nat} (hk : k ∈ o.drop) (hw : b.wordAt (o.va + 4 * k) = some i) :
    tm.bightBase b + i ∈ droppedWords tm b o := List.mem_filterMap.2 ⟨k, hk, by rw [hw]; rfl⟩

/-- A fill that may perform: what it leaves, and its core with the line's words (R105, R106, R109). -/
theorem performFill_plain (h : AtHome s o pa a 64 false) (ht : (s.core o.core).team? o.task = some tm)
    (hb : SMap.get Bight.none tm.bights n = b) (hv : b.v = true)
    (quiet : ∀ x, (s.ctx x).stq = [] ∧ ∀ f ∈ (s.ctx x).allFlights, f.pending = false) :
    let u := s.performFill o n
    u.ops = s.ops.filter (fun p => p.id ≠ o.id) ∧ u.dram = s.dram ∧ u.ctxs = s.ctxs ∧
      ∃ c, (∀ v w, cell c v w =
          cell ((List.range 16).foldl (fillPlaced tm b none o.va (Memory.rdN s.dram pa 64)) (s.core o.core)) v w) ∧
        u.core o.core = c.clearClean b.space (fun w => (droppedWords tm b o).contains w) := by
  obtain ⟨reach, good⟩ := h
  have r := reached reach
  let t := s.walked o.core o.asid o.va
  let p := t.dramAccess a pa o.core (some o.task)
  have charged : Charged s p := r.walk.trans (.dramAccess _ _ _ _)
  have entry : s.entryOf o.core o.task n = some (tm, b) := by
    simp only [State.entryOf, ht, hb]
    exact if_pos hv
  have fill : s.performFill o n = t.fillAt o n tm b pa a := by
    simp only [State.performFill, entry, r.free, r.unwaited, r.xlate]
    rfl
  have plain := fillAt_plain (s := t) (o := o) (n := n) (tm := tm) (b := b) (r.walk.owners.trans r.owners) (r.walk.errs.trans r.errs)
    ((r.walk.physBad pa 64).trans good) r.le r.host r.coh
  obtain ⟨m, filled, core⟩ := foldl_fillWord o.core tm b none o.va (Memory.rdN t.dram pa 64) (List.range 16) p
  obtain ⟨m', told, cells⟩ := tellEngines_form (s := State.doneOp { p with cores := m } o.id) o.id none
  have still : State.pollAll { State.doneOp { p with cores := m } o.id with cores := m' } =
      { State.doneOp { p with cores := m } o.id with cores := m' } := by
    refine pollAll_quiet fun x => ?_
    have same : State.ctx { State.doneOp { p with cores := m } o.id with cores := m' } x = s.ctx x := charged.ctx x
    rw [same]
    exact quiet x
  have all : s.performFill o n =
      State.dropWords { State.doneOp { p with cores := m } o.id with cores := m' } o.core tm b o.va o.drop := by
    rw [fill, plain, filled, told, still]
  rw [all]
  refine ⟨congrArg (List.filter _) charged.ops, charged.dram, charged.ctxs, _, fun v w => ?_, State.setCore_core_same _ _ _⟩
  have same : cell (State.core { State.doneOp { p with cores := m } o.id with cores := m' } o.core) v w =
      cell (State.core { p with cores := m } o.core) v w := cells o.core v w
  rw [same, core, if_pos rfl, charged.core, r.walk.dram]

end Sys2Proof.Claims
end

section Settled
open Sys2Proof Sys2Proof.Machine Sys2Proof.Claims

/-- Settles O36: a fill at its home places the words of the line that have no copy, one by one, and then drops those that an
invalidation met. -/
theorem fillCompletes : Obligations.FillCompletes := by
  unfold Obligations.FillCompletes
  intro s o pa a n t b kind home team entry valid quiet side word fresh
  have op : s.op? o.id = some o := home.1.1
  have exec_eq : exec (.fillComplete o.id) s = .next (s.performFill o n) := by
    show execFillComplete o.id s = _
    simp only [execFillComplete, op, kind]
  have calm (x : CtxNo) : (s.ctx x).stq = [] ∧ ∀ f ∈ (s.ctx x).allFlights, f.pending = false := quiet x
  obtain ⟨ops, dram, ctxs, c, cells, core⟩ := performFill_plain home team entry valid calm
  have at_ (u : State) (w : Nat) : (side u w, word u w) = cell (u.core o.core) b.space w := by
    show (SMap.get _ _ _, _) = cell _ _ _
    rw [cell, Core.side, Core.sides, Core.store]
  have kept (hd : o.drop = []) (w : Nat) : cell ((s.performFill o n).core o.core) b.space w =
      cell ((List.range 16).foldl (fillPlaced t b none o.va (Memory.rdN s.dram pa 64)) (s.core o.core)) b.space w := by
    have no : (droppedWords t b o).contains w = false := by simp [droppedWords, hd]
    rw [core, cell, side_clearClean_out no, store_clearClean]
    exact cells b.space w
  refine ⟨s.performFill o n, exec_eq, ops, dram, ctxs, fun k hk i hw hd => ?_, fun hd k hk i hw hf => ?_, fun hd w hw => ?_⟩
  · have named : (droppedWords t b o).contains (t.bightBase b + i) = true :=
      List.contains_iff_mem.2 (mem_droppedWords hk hw)
    have eq : side (s.performFill o n) (t.bightBase b + i) =
        (c.clearClean b.space (fun w => (droppedWords t b o).contains w)).side b.space (t.bightBase b + i) := by
      rw [← core]; exact congrArg Prod.fst (at_ _ _)
    rw [eq] at hd ⊢
    exact side_clearClean_in (p := fun w => (droppedWords t b o).contains w) named hd
  · have was : side s (t.bightBase b + i) = (s.core o.core).side b.space (t.bightBase b + i) := congrArg Prod.fst (at_ _ _)
    have placed := cell_filled (tm := t) (lease := none) (v := Memory.rdN s.dram pa 64) hw (List.range 16)
      (fun j hj => List.mem_range.1 hj) (List.mem_range.2 hk) (s.core o.core) (was ▸ hf)
    have value : bitsOf (Memory.rdN s.dram pa 64) (32 * k) 32 = Memory.rdN s.dram (pa + 4 * k) 4 := by
      rw [← rdN_part s.dram pa (show 4 * k + 4 ≤ 64 by omega), bitsOf, show 256 = 2 ^ 8 from rfl, ← Nat.pow_mul, ← Nat.pow_mul,
        ← Nat.mul_assoc]
    obtain ⟨hs, hv⟩ := Prod.mk.inj ((at_ _ _).trans ((kept hd _).trans placed))
    exact ⟨hs, hv.trans value⟩
  · have other := cell_filled_ne (tm := t) (lease := none) (line := o.va) (v := Memory.rdN s.dram pa 64) (List.range 16) (s.core o.core)
      (hw.imp (fun hn hf => hn ((congrArg Side.fresh (congrArg Prod.fst (at_ s w))).mpr hf)) fun h k hk => h k (List.mem_range.1 hk))
    exact Prod.mk.inj ((at_ _ _).trans ((kept hd w).trans (other.trans (at_ s w).symm)))

end Settled

section
/-! SUPPORT. Writes at the home by a core, and how an operation ends (R108, R125, R155, R274). -/

namespace Sys2Proof.Claims
open Sys2Proof Sys2Proof.Machine

variable {s t u : State} {o : GOp} {pa n : Nat} {a : Attr}

/-! ### What a write at a home changes -/

/-- A state without the data of device memory, and who is told of a write to it. -/
def undata (s : State) : State := { s with hostCached := [], outbox := [], ropes := [], dram := [], poison := [] }

/-- A state without what a write at a home may change besides copies. -/
def unwritten (s : State) : State := undata (uncharged s)

/-- t is s after writes of device memory that touch no copy. -/
def Wrote (s t : State) : Prop := unwritten t = unwritten s

namespace Wrote

theorem refl : Wrote s s := rfl

theorem trans (h : Wrote s t) (k : Wrote t u) : Wrote s u := Eq.trans k h

theorem of_eq (h : unwritten t = unwritten s := by rfl) : Wrote s t := h

theorem of_charged (h : Charged s t) : Wrote s t := congrArg undata h

theorem cores (h : Wrote s t) : t.cores = s.cores := (congrArg State.cores h :)
theorem core (h : Wrote s t) (k : Nat) : t.core k = s.core k := (congrArg (State.core · k) h :)
theorem ctxs (h : Wrote s t) : t.ctxs = s.ctxs := (congrArg State.ctxs h :)
theorem ops (h : Wrote s t) : t.ops = s.ops := (congrArg State.ops h :)
theorem hostMem (h : Wrote s t) : t.hostMem = s.hostMem := (congrArg State.hostMem h :)
theorem mon (h : Wrote s t) : t.mon = s.mon := (congrArg State.mon h :)
theorem owners (h : Wrote s t) : t.owners = s.owners := (congrArg State.owners h :)
theorem errs (h : Wrote s t) : t.errs = s.errs := (congrArg State.errs h :)

theorem headWritten (l : List Span) : Wrote s (s.headWritten l) := by
  dsimp only [State.headWritten]
  generalize s.ropes.filter _ = m
  induction m generalizing s with
  | nil => exact .refl
  | cons e r ih => exact Wrote.trans (t := s.modRope e.1 _) of_eq ih

theorem backInvalidate (pa : Nat) : Wrote s (s.backInvalidate pa) := by
  unfold State.backInvalidate
  split <;> exact of_eq

end Wrote

/-- The memory after the writes of some spans. -/
def spansWritten (m : Memory) (l : List Span) : Memory := l.foldl (fun m p => Memory.wrN m p.pa p.v p.n) m

theorem spansWritten_one (m : Memory) (p : Span) : spansWritten m [p] = Memory.wrN m p.pa p.v p.n := rfl

/-- A span stands in device memory, apart from the ASID table. -/
def InDram (s : State) (p : Span) : Prop := paTarget p.pa = 0 ∧ OutsideTable s p.pa p.n

theorem physWrs_dram (l : List Span) (h : ∀ p ∈ l, InDram s p) :
    l.foldl (fun s p => s.physWr p.pa p.n p.v) s = { s with dram := spansWritten s.dram l } := by
  induction l generalizing s with
  | nil => rfl
  | cons p r ih =>
    obtain ⟨target, outside⟩ := h p List.mem_cons_self
    rw [List.foldl_cons, physWr_of_dram target, dramWr_of_outside outside]
    exact ih fun q hq => h q (List.mem_cons_of_mem _ hq)

/-- The data of spans of device memory. -/
theorem writeData_dram (l : List Span) (h : ∀ p ∈ l, InDram s p) :
    Wrote s (s.writeData l) ∧ (s.writeData l).dram = spansWritten s.dram l := by
  simp only [State.writeData, physWrs_dram l h]
  have head := Wrote.headWritten (s := { s with dram := spansWritten s.dram l }) l
  exact ⟨(Wrote.trans (t := { s with dram := spansWritten s.dram l }) .of_eq head).trans .of_eq, headWritten_dram l⟩

theorem Charged.stampWrite (core : Option Nat) (pa : Nat) (h : a.lease = false) : Charged s (s.stampWrite core a pa) := by
  unfold State.stampWrite
  rw [if_neg (h ▸ Bool.false_ne_true)]
  exact .of_eq

/-- A write at its home that no lease follows: the copies go first, then its data is in memory (R114, R125). -/
theorem writeHome_wrote (ho : s.owners = []) (he : s.errs = []) (w : Who) (own : Option EntId) (hpa : paHawser pa = false)
    (hl : a.lease = false) (l : List Span) (h : ∀ p ∈ l, InDram s p)
    (hd : (s.invalidateFor own a pa l).dram = s.dram) (hm : (s.invalidateFor own a pa l).mon = s.mon) :
    Wrote (s.invalidateFor own a pa l) (s.writeHome w own a pa l) ∧
      (s.writeHome w own a pa l).dram = spansWritten s.dram l := by
  have before : Charged (s.invalidateFor own a pa l) (beforeData s w own a pa l) := by
    unfold beforeData
    exact .ite (.trans (.stampWrite _ _ hl) (.dramAccess _ _ _ _)) .refl
  have told : Wrote (s.invalidateFor own a pa l)
      (if w.host then beforeData s w own a pa l else (beforeData s w own a pa l).backInvalidate pa) ∧
      (if w.host then beforeData s w own a pa l else (beforeData s w own a pa l).backInvalidate pa).dram = s.dram := by
    split
    · exact ⟨.of_charged before, before.dram.trans hd⟩
    · exact ⟨(Wrote.of_charged before).trans (.backInvalidate _), (backInvalidate_dram _).trans (before.dram.trans hd)⟩
  rw [writeHome_eq ho he w own a hpa l]
  obtain ⟨wrote, dram⟩ := told
  have inside : ∀ p ∈ l, InDram (if w.host then beforeData s w own a pa l else (beforeData s w own a pa l).backInvalidate pa) p :=
    fun p hp => ⟨(h p hp).1, fun b hb => (h p hp).2 b (by rw [← hm, ← wrote.mon]; exact hb)⟩
  obtain ⟨data, mem⟩ := writeData_dram l inside
  exact ⟨wrote.trans data, mem.trans (by rw [dram])⟩

theorem invalidateFor_plain (host : a.host = false) (coh : a.coh = 0) (own : Option EntId) (l : List Span) :
    s.invalidateFor own a pa l = s := by simp [State.invalidateFor, host, coh]

theorem writeHome_plain (ho : s.owners = []) (he : s.errs = []) (w : Who) (own : Option EntId) (hpa : paHawser pa = false)
    (host : a.host = false) (coh : a.coh = 0) (l : List Span) (h : ∀ p ∈ l, InDram s p) :
    Wrote s (s.writeHome w own a pa l) ∧ (s.writeHome w own a pa l).dram = spansWritten s.dram l := by
  have copies := invalidateFor_plain (s := s) (pa := pa) host coh own l
  have wrote := writeHome_wrote ho he w own hpa (Attr.lease_of_coh coh) l h (by rw [copies]) (by rw [copies])
  rwa [copies] at wrote

/-! ### The end of an operation (R274) -/

theorem give_hub (f : Flight) (id : Nat) (v : Word) (fl : BitVec 5) :
    f.give id v fl = if f.src = .hub id then { f with value := some (v.setWidth 1024), flags := fl } else f := rfl

/-- An operation ends with a value after changes that touch no operation, context, host byte or store. -/
theorem endsWith (ops : t.ops = s.ops) (ctxs : t.ctxs = s.ctxs) (hostMem : t.hostMem = s.hostMem) (cores : t.cores = s.cores)
    (v : Word) (fl : BitVec 5) : EndsWith s ((t.doneOp o.id).deliver o.x o.id v fl) o v fl := by
  have same (y : CtxNo) : State.ctx (t.doneOp o.id) y = s.ctx y := ctx_congr (u := t.doneOp o.id) ctxs y
  refine ⟨congrArg (List.filter _) ops, ?_, fun y hy => ?_, hostMem, fun k => ?_⟩
  · refine (State.setCtx_ctx_same _ _ _).trans ?_
    rw [same]
    simp only [Ctx.mapFlights, give_hub]
  · exact (State.setCtx_ctx_ne _ _ hy).trans (same y)
  · have core : State.core ((t.doneOp o.id).deliver o.x o.id v fl) k = s.core k := core_congr cores k
    exact ⟨congrArg Core.spad core, congrArg Core.vault core⟩

/-! ### Write-backs and registrations (R108, R163) -/

theorem InDram.of_apart (apart : ApartFromTable s pa) (le : pa + n ≤ 0x9000000000) {p : Span} (lo : pa < p.pa + 64)
    (hi : p.pa + p.n ≤ pa + 128) (hp : p.pa < pa + n) : InDram s p := by
  refine ⟨by rw [paTarget, Nat.div_eq_of_lt (by omega)], fun b hb => ?_⟩
  have h : pa + 128 ≤ b ∨ b + 1048576 + 64 ≤ pa := apart b hb
  omega

/-- The spans of a write-back's words. -/
def wbSpans (pa : Nat) (ws : List (Nat × BitVec 32)) : List Span :=
  ws.map (fun w => Span.mk (pa / 64 * 64 + w.1 % 64) 4 w.2.toNat)

theorem spansWritten_wb (m : Memory) (pa : Nat) (ws : List (Nat × BitVec 32)) : spansWritten m (wbSpans pa ws) =
    ws.foldl (fun m w => Memory.wrN m (pa / 64 * 64 + w.1 % 64) w.2.toNat 4) m := by
  rw [spansWritten, wbSpans, List.foldl_map]

theorem Reached.inDram (r : Reached s o pa a 64 w) (ws : List (Nat × BitVec 32)) : ∀ p ∈ wbSpans pa ws, InDram s p := by
  intro p hp
  obtain ⟨w, -, rfl⟩ := List.mem_map.1 hp
  refine InDram.of_apart r.apart r.le ?_ ?_ ?_
  · show pa < pa / 64 * 64 + w.1 % 64 + 64; omega
  · show pa / 64 * 64 + w.1 % 64 + 4 ≤ pa + 128; omega
  · show pa / 64 * 64 + w.1 % 64 < pa + 64; omega

theorem keepCopies_plain (coh : a.coh = 0) (n gen pa : Nat) (ws : List (Nat × BitVec 32)) :
    s.keepCopies o n gen a pa ws = s := by
  unfold State.keepCopies
  split
  · rfl
  · simp [Attr.dir_of_coh coh, Attr.lease_of_coh coh]

theorem endCaptured_of_nil (h : s.owners = []) (l : List Nat) : s.endCaptured o l = s := by
  cases s
  simp only at h
  subst h
  rfl

/-- A write-back of a page without copies performs. -/
theorem performWb_plain (h : Reaches s o pa a 64 true) (n gen : Nat) (ws : List (Nat × BitVec 32)) :
    let t := s.performWb o n ws gen
    t.dram = spansWritten s.dram (wbSpans pa ws) ∧ t.ops = s.ops.filter (fun p => p.id ≠ o.id) ∧ t.ctxs = s.ctxs ∧
      t.hostMem = s.hostMem := by
  have r := reached h
  let e := (s.walked o.core o.asid o.va).endCaptured o ((wbSpans pa ws).map (fun p => p.pa / 4))
  let u := e.writeHome (whoCore o.core o.task) (some ⟨o.core, o.task, n⟩) a pa (wbSpans pa ws)
  have ended : e = s.walked o.core o.asid o.va := endCaptured_of_nil (r.walk.owners.trans r.owners) _
  have charged : Charged s e := ended ▸ r.walk
  have hawser := paHawser_of_le r.le (by decide)
  have fenced : (s.walked o.core o.asid o.va).fenced pa = false := by simp [State.fenced, hawser]
  obtain ⟨wrote, dram⟩ := writeHome_plain (s := e) (charged.owners.trans r.owners) (charged.errs.trans r.errs) (whoCore o.core o.task)
    (some ⟨o.core, o.task, n⟩) hawser r.host r.coh (wbSpans pa ws) fun p hp =>
      ⟨(r.inDram ws p hp).1, fun b hb => (r.inDram ws p hp).2 b (by rw [← charged.mon]; exact hb)⟩
  have form : s.performWb o n ws gen = (u.doneOp o.id).dropDir o.core o.task n gen := by
    simp only [State.performWb, r.free, r.xlate, fenced, Bool.not_true, Bool.false_eq_true, if_false, keepCopies_plain r.coh]
    rfl
  obtain ⟨d, dropped⟩ := dropDir_form (s := u.doneOp o.id) (core := o.core) (task := o.task) (n := n) gen
  rw [form, dropped]
  exact ⟨dram.trans (by rw [charged.dram]), congrArg (List.filter _) (wrote.ops.trans charged.ops), wrote.ctxs.trans charged.ctxs,
    wrote.hostMem.trans charged.hostMem⟩

/-- A registration writes its 16 bytes. -/
theorem performVreg_plain (h : AtHome s o pa a 16 true) (d : BitVec 128) :
    let t := s.performVreg o d
    t.dram = Memory.wrN s.dram pa d.toNat 16 ∧ t.ops = s.ops.filter (fun p => p.id ≠ o.id) ∧ t.ctxs = s.ctxs ∧
      t.hostMem = s.hostMem := by
  obtain ⟨reach, good⟩ := h
  have r := reached reach
  let u := (s.walked o.core o.asid o.va).writeHome (whoCore o.core o.task) none a pa [⟨pa, 16, d.toNat⟩]
  obtain ⟨wrote, dram⟩ := writeHome_plain (s := s.walked o.core o.asid o.va) (r.walk.owners.trans r.owners) (r.walk.errs.trans r.errs)
    (whoCore o.core o.task) none (paHawser_of_le r.le (by decide)) r.host r.coh [⟨pa, 16, d.toNat⟩] fun p hp => by
      rw [List.mem_singleton.1 hp]
      have inside := InDram.of_apart (p := ⟨pa, 16, d.toNat⟩) r.apart r.le (by simp) (by simp) (by simp)
      exact ⟨inside.1, fun b hb => inside.2 b (by rw [← r.walk.mon]; exact hb)⟩
  have form : s.performVreg o d = u.doneOp o.id := by
    simp only [State.performVreg, r.free, r.xlate, r.walk.physBad, good, Bool.not_true, Bool.false_eq_true, if_false]
    rfl
  rw [form]
  exact ⟨dram.trans (by rw [r.walk.dram, spansWritten_one]), congrArg (List.filter _) (wrote.ops.trans r.walk.ops),
    wrote.ctxs.trans r.walk.ctxs, wrote.hostMem.trans r.walk.hostMem⟩

/-! ### Pins (R123, R295) -/

theorem Charged.pins (h : Charged s t) : t.pins = s.pins := (congrArg State.pins h :)

/-- The state after a pin or an unpin: its answer given, its line held or free. -/
def pinAnswered (t : State) (o : GOp) (v : Word) : State := (t.doneOp o.id).deliver o.x o.id v 0

theorem endsWith_charged (h : Charged s t) (p : List Pin) (v : Word) : EndsWith s (pinAnswered { t with pins := p } o v) o v 0 :=
  endsWith (t := { t with pins := p }) h.ops h.ctxs h.hostMem h.cores v 0

section Pins

variable (h : AtHome s o pa a 64 false)
include h

theorem performPin_eq (un : Bool) : s.performPin o un =
    (let t := s.walked o.core o.asid o.va
     if un then
       if s.pins.any (fun p => p.line = pa / 64 && p.asid = o.asid) then
         pinAnswered { t with pins := s.pins.filter (fun p => p.line ≠ pa / 64) } o 0
       else pinAnswered t o 1
     else if s.pins.any (fun p => p.line = pa / 64) then pinAnswered t o 1
     else if 32768 ≤ (s.pins.filter (fun p => p.slice = homeSlice a pa)).length then pinAnswered t o 2
     else
       let u := t.dramAccess a pa o.core (some o.task)
       pinAnswered { u with pins := s.pins ++ [⟨pa / 64, o.va, homeSlice a pa, o.asid⟩] } o 0) := by
  obtain ⟨reach, good⟩ := h
  have r := reached reach
  have paid : ((s.walked o.core o.asid o.va).dramAccess a pa o.core (some o.task)).pins = s.pins :=
    (r.walk.trans (.dramAccess a pa o.core (some o.task))).pins
  simp only [State.performPin, r.free, r.xlate, paHawser_of_le r.le (by decide), r.walk.physBad, good, r.walk.pins, paid, State.pinned,
    Bool.not_true, Bool.false_eq_true, if_false]
  rfl

end Pins

/-! ### The monitor's queue (R389) -/

section Queue

variable {id : Nat} {f : State → State}

theorem serveInst_waiting (hp : s.mon.poll = false) (h : .inst id ∈ s.mon.queue) : s.serveInst id f = s :=
  if_pos (by rw [hp, List.contains_iff_mem.2 h]; rfl)

theorem not_waiting (h : .inst id ∉ s.mon.queue) : s.mon.queue.contains (.inst id) = false :=
  Bool.eq_false_iff.2 fun e => h (List.contains_iff_mem.1 e)

theorem serveInst_enters (hp : s.mon.poll = false) (h : .inst id ∉ s.mon.queue) (busy : s.monBusy = true) :
    s.serveInst id f = { s with mon := { s.mon with queue := s.mon.queue ++ [.inst id] } } := by
  have new : ¬(!s.mon.poll && s.mon.queue.contains (.inst id)) = true := by rw [not_waiting h, Bool.and_false]; exact Bool.false_ne_true
  exact (if_neg new).trans ((if_neg (hp ▸ Bool.false_ne_true)).trans (if_pos busy))

/-- A request whose turn it is is carried out. -/
theorem serveInst_goes (h : s.mon.poll = true ∨ s.monBusy = false) : ∃ m, s.serveInst id f = f { s with mon := m } := by
  by_cases hp : s.mon.poll = true
  · refine ⟨{ s.mon with queue := s.mon.queue.drop 1, poll := false }, ?_⟩
    exact (if_neg (by rw [hp]; exact Bool.false_ne_true)).trans (if_pos hp)
  · have idle := h.resolve_left hp
    have empty : s.mon.queue = [] := by
      have := (Bool.or_eq_false_iff.1 idle).2
      simpa using this
    refine ⟨s.mon, (if_neg ?_).trans ((if_neg hp).trans (if_neg (idle ▸ Bool.false_ne_true)))⟩
    rw [empty]
    exact fun e => Bool.false_ne_true ((Bool.and_false _).symm.trans e)

end Queue

/-! ### Routines (R287, R291) -/

section Routines

variable {asid : BitVec 16} {num : Nat} {body : BitVec 512}

theorem rmapOf_isSome : (s.rmapOf asid num).isSome = s.rmap.any (fun e => e.1 = asid.toNat * 256 + num) := by
  rw [State.rmapOf, Option.isSome_map, Bool.eq_iff_iff, List.find?_isSome, List.any_eq_true]

/-- An index is some number's. -/
def IndexUsed (s : State) (k : Nat) : Prop := ∃ e ∈ s.rmap, e.2 = k

theorem indexUsed_iff (k : Nat) : s.rmap.any (fun e => e.2 = k) = true ↔ IndexUsed s k := by
  simp [List.any_eq_true, IndexUsed]

theorem freeIndex_none {f k : Nat} (h : ∀ j, k ≤ j → j < k + f → IndexUsed s j) : s.freeIndex f k = none := by
  induction f generalizing k with
  | zero => rfl
  | succ f ih =>
    rw [State.freeIndex, if_pos ((indexUsed_iff k).2 (h k (Nat.le_refl k) (by omega)))]
    exact ih fun j lo hi => h j (by omega) (by omega)

theorem freeIndex_some {f k m : Nat} (lo : k ≤ m) (hi : m < k + f) (free : ¬IndexUsed s m)
    (h : ∀ j, k ≤ j → j < m → IndexUsed s j) : s.freeIndex f k = some m := by
  induction f generalizing k with
  | zero => omega
  | succ f ih =>
    rw [State.freeIndex]
    by_cases e : k = m
    · rw [if_neg (by rw [e, indexUsed_iff]; exact free), e]
    · rw [if_pos ((indexUsed_iff k).2 (h k (Nat.le_refl k) (by omega)))]
      exact ih (by omega) (by omega) fun j lo hi => h j (by omega) hi

/-- What an installation changes, with its status (R287, R291). -/
structure Installs (s : State) (asid : BitVec 16) (num : Nat) (body : BitVec 512) (st : Nat) (rm : List (Nat × Nat))
    (ro : SMap (BitVec 512)) : Prop where
  denied : (s.asid asid).splok = false → st = 4
  bad : (s.asid asid).splok = true → splBad body 16 0 false = true → st = 1
  known : (s.asid asid).splok = true → splBad body 16 0 false = false →
    s.rmap.any (fun e => e.1 = asid.toNat * 256 + num) = true → st = 3
  full : (s.asid asid).splok = true → splBad body 16 0 false = false →
    s.rmap.any (fun e => e.1 = asid.toNat * 256 + num) = false → (∀ k < 64, IndexUsed s k) → st = 2
  refused : st ≠ 0 → rm = s.rmap ∧ ro = s.routines
  placed : ∀ k < 64, (s.asid asid).splok = true → splBad body 16 0 false = false →
    s.rmap.any (fun e => e.1 = asid.toNat * 256 + num) = false → ¬IndexUsed s k → (∀ j < k, IndexUsed s j) →
    st = 0 ∧ rm = s.rmap ++ [(asid.toNat * 256 + num, k)] ∧ SMap.get 0 ro k = body

theorem install_form : ∃ st rm ro mo, s.install asid num body = (st, { s with rmap := rm, routines := ro, mon := mo }) ∧
    Installs s asid num body st rm ro := by
  unfold State.install
  by_cases ok : (s.asid asid).splok = true
  · rw [if_neg (by rw [ok]; decide)]
    by_cases bad : splBad body 16 0 false = true
    · exact ⟨1, s.rmap, s.routines, s.mon, if_pos bad, by
        constructor <;> simp [ok, bad]⟩
    · rw [if_neg bad, rmapOf_isSome]
      rw [Bool.not_eq_true] at bad
      by_cases known : s.rmap.any (fun e => e.1 = asid.toNat * 256 + num) = true
      · exact ⟨3, s.rmap, s.routines, s.mon, if_pos known, by
          constructor <;> simp [ok, bad, known]⟩
      · rw [if_neg known]
        rw [Bool.not_eq_true] at known
        cases free : s.freeIndex 64 0 with
        | none =>
          refine ⟨2, s.rmap, s.routines, s.mon, rfl, ?_⟩
          refine ⟨fun h => ?_, fun _ h => ?_, fun _ _ h => ?_, fun _ _ _ _ => rfl, fun _ => ⟨rfl, rfl⟩, fun k hk _ _ _ hf hu => ?_⟩
          · exact absurd (h.symm.trans ok) Bool.false_ne_true
          · exact absurd (bad.symm.trans h) Bool.false_ne_true
          · exact absurd (known.symm.trans h) Bool.false_ne_true
          · have some_ := freeIndex_some (k := 0) (f := 64) (Nat.zero_le k) (by omega) hf fun j _ hj => hu j hj
            rw [free] at some_
            cases some_
        | some m =>
          refine ⟨0, _, _, _, rfl, ?_⟩
          refine ⟨fun h => ?_, fun _ h => ?_, fun _ _ h => ?_, fun _ _ _ h => ?_, fun h => absurd rfl h, fun k hk _ _ _ hf hu => ?_⟩
          · exact absurd (h.symm.trans ok) Bool.false_ne_true
          · exact absurd (bad.symm.trans h) Bool.false_ne_true
          · exact absurd (known.symm.trans h) Bool.false_ne_true
          · have none_ := freeIndex_none (k := 0) (f := 64) fun j _ hj => h j (by omega)
            rw [free] at none_
            cases none_
          · have some_ := freeIndex_some (k := 0) (f := 64) (Nat.zero_le k) (by omega) hf fun j _ hj => hu j hj
            rw [free] at some_
            cases some_
            exact ⟨rfl, rfl, SMap.get_set_same _ _ _ _⟩
  · rw [Bool.not_eq_true] at ok
    exact ⟨4, s.rmap, s.routines, s.mon, if_pos (by rw [ok]; rfl), by
      constructor <;> simp [ok]⟩

end Routines

end Sys2Proof.Claims
end

section Settled
open Sys2Proof Sys2Proof.Machine Sys2Proof.Claims

/-- Settles O35: writes of a page without copies through `writeHome_plain`, pins by the branch that answers, and the monitor's requests by
their turn. -/
theorem globalWritePerforms : Obligations.GlobalWritePerforms := by
  unfold Obligations.GlobalWritePerforms
  refine ⟨fun s o pa a n gen fl ws kind home => ?_, fun s o pa a d kind home => ?_, fun s o pa a kind home => ?_,
    fun s o num body kind op quiet => ?_, fun s o num body kind op turn => ?_, fun s o num kind op turn => ?_⟩
  · obtain ⟨dram, rest⟩ := performWb_plain home.1 n gen ws
    refine ⟨s.performWb o n ws gen, ?_, dram.trans (spansWritten_wb _ _ _), rest⟩
    show execGlobalWritePerform o.id s = _
    simp only [execGlobalWritePerform, (reached home.1).op, kind]
  · refine ⟨s.performVreg o d, ?_, performVreg_plain home d⟩
    show execGlobalWritePerform o.id s = _
    simp only [execGlobalWritePerform, (reached home.1).op, kind]
  · intro slice held mine room
    have r := reached home.1
    have charged (p : List Pin) (v : Word) := endsWith_charged (o := o) r.walk p v
    have paid := r.walk.trans (.dramAccess a pa o.core (some o.task))
    have same (v : Word) : (pinAnswered (s.walked o.core o.asid o.va) o v).pins = s.pins := r.walk.pins
    have ends (v : Word) : EndsWith s (pinAnswered (s.walked o.core o.asid o.va) o v) o v 0 :=
      endsWith r.walk.ops r.walk.ctxs r.walk.hostMem r.walk.cores v 0
    rcases kind with pin | unpin
    · have run : exec (.globalWritePerform o.id) s = .next (s.performPin o false) := by
        show execGlobalWritePerform o.id s = _
        simp only [execGlobalWritePerform, r.op, pin]
      rw [run, performPin_eq home, pin]
      simp only [Bool.false_eq_true, if_false]
      by_cases hh : held = true
      · refine ⟨_, congrArg _ (if_pos hh), r.walk.dram, fun _ _ => ⟨same 1, ends 1⟩, fun _ no => ?_, fun _ no => ?_, nofun, nofun⟩
        · exact absurd (no.symm.trans hh) Bool.false_ne_true
        · exact absurd (no.symm.trans hh) Bool.false_ne_true
      · by_cases hr : room
        · refine ⟨_, congrArg _ ((if_neg hh).trans (if_neg (Nat.not_le.2 hr))), paid.dram, fun _ yes => absurd yes hh,
            fun _ _ _ => ⟨rfl, endsWith_charged paid _ 0⟩, fun _ _ no => absurd hr no, nofun, nofun⟩
        · exact ⟨_, congrArg _ ((if_neg hh).trans (if_pos (Nat.not_lt.1 hr))), r.walk.dram, fun _ yes => absurd yes hh,
            fun _ _ yes => absurd yes hr, fun _ _ _ => ⟨same 2, ends 2⟩, nofun, nofun⟩
    · have run : exec (.globalWritePerform o.id) s = .next (s.performPin o true) := by
        show execGlobalWritePerform o.id s = _
        simp only [execGlobalWritePerform, r.op, unpin]
      rw [run, performPin_eq home, unpin]
      simp only [if_true]
      by_cases hm : mine = true
      · refine ⟨_, congrArg _ (if_pos hm), r.walk.dram, nofun, nofun, nofun, fun _ _ => ⟨rfl, endsWith_charged r.walk _ 0⟩, fun _ no => ?_⟩
        exact absurd (no.symm.trans hm) Bool.false_ne_true
      · exact ⟨_, congrArg _ (if_neg hm), r.walk.dram, nofun, nofun, nofun, fun _ yes => absurd yes hm, fun _ _ => ⟨same 1, ends 1⟩⟩
  · have run : ∃ f, exec (.globalWritePerform o.id) s = .next (s.serveInst o.id f) := by
      rcases kind with kind | kind
      · exact ⟨_, by show execGlobalWritePerform o.id s = _; simp only [execGlobalWritePerform, op, kind]; rfl⟩
      · exact ⟨_, by show execGlobalWritePerform o.id s = _; simp only [execGlobalWritePerform, op, kind]; rfl⟩
    obtain ⟨f, run⟩ := run
    rw [run]
    exact ⟨fun h => congrArg _ (serveInst_waiting quiet h), fun h busy => congrArg _ (serveInst_enters quiet h busy)⟩
  · intro key known used
    obtain ⟨m, goes⟩ := serveInst_goes (id := o.id) (f := fun s =>
      ((s.install o.asid num body).2.doneOp o.id).deliver o.x o.id (BitVec.ofNat 64 (s.install o.asid num body).1) 0) turn
    obtain ⟨st, rm, ro, mo, form, inst⟩ := install_form (s := { s with mon := m }) (asid := o.asid) (num := num) (body := body)
    refine ⟨State.deliver (State.doneOp { s with mon := mo, rmap := rm, routines := ro } o.id) o.x o.id (BitVec.ofNat 64 st) 0, st, ?_,
      endsWith (t := { s with mon := mo, rmap := rm, routines := ro }) rfl rfl rfl rfl _ _, rfl, inst.denied, inst.bad, inst.known,
      inst.full, inst.refused, inst.placed⟩
    show execGlobalWritePerform o.id s = _
    simp only [execGlobalWritePerform, op, kind]
    rw [goes, form]
  · intro key
    obtain ⟨m, goes⟩ := serveInst_goes (id := o.id) (f := fun s =>
      ((s.unmapRoutine o.asid num).2.doneOp o.id).deliver o.x o.id (BitVec.ofNat 64 (s.unmapRoutine o.asid num).1) 0) turn
    have run : exec (.globalWritePerform o.id) s = .next (State.deliver (State.doneOp
        (State.unmapRoutine { s with mon := m } o.asid num).2 o.id) o.x o.id
          (BitVec.ofNat 64 (State.unmapRoutine { s with mon := m } o.asid num).1) 0) := by
      show execGlobalWritePerform o.id s = _
      simp only [execGlobalWritePerform, op, kind]
      exact congrArg _ goes
    rw [run, State.unmapRoutine, rmapOf_isSome]
    by_cases there : s.rmap.any (fun e => e.1 = o.asid.toNat * 256 + num) = true
    · rw [if_pos there]
      refine ⟨_, rfl, rfl, fun _ => ⟨rfl, endsWith (t := { s with mon := m, rmap := _ }) rfl rfl rfl rfl _ _⟩, fun no => ?_⟩
      obtain ⟨e, he, hk⟩ := List.any_eq_true.1 there
      exact absurd (of_decide_eq_true hk) (no e he)
    · rw [if_neg there]
      refine ⟨_, rfl, rfl, fun ⟨e, he, hk⟩ => ?_, fun _ => ⟨rfl, endsWith (t := { s with mon := m }) rfl rfl rfl rfl _ _⟩⟩
      exact absurd (List.any_eq_true.2 ⟨e, he, decide_eq_true hk⟩) there

end Settled

section
/-! SUPPORT. The host's accesses, the clocks of the leases, the sweep and the scrubber (R116, R120, R133, R156, R347, R407). -/

namespace Sys2Proof.Claims
open Sys2Proof Sys2Proof.Machine

variable {s t u : State}

/-! ### The bytes of a host's write -/

/-- Spans of one byte each, with their values by address. -/
def Bytewise (f : Nat → Nat) (l : List Span) : Prop := ∀ p ∈ l, p.n = 1 ∧ p.v = f p.pa

theorem rd_spansWritten {f : Nat → Nat} {l : List Span} (h : Bytewise f l) (m : Memory) (k : Nat) :
    Memory.rd (spansWritten m l) k = if k ∈ l.map Span.pa then BitVec.ofNat 8 (f k) else Memory.rd m k := by
  induction l generalizing m with
  | nil => rfl
  | cons p r ih =>
    obtain ⟨hn, hv⟩ := h p List.mem_cons_self
    rw [spansWritten, List.foldl_cons]
    refine (ih (fun q hq => h q (List.mem_cons_of_mem _ hq)) _).trans ?_
    by_cases later : k ∈ r.map Span.pa
    · rw [if_pos later, if_pos (by rw [List.map_cons]; exact List.mem_cons_of_mem _ later)]
    · rw [if_neg later, hn, Memory.wrN, Memory.wrN]
      by_cases e : k = p.pa
      · rw [if_pos (by rw [e]; exact List.mem_cons_self), e, Memory.rd_wr_same, hv]
      · rw [if_neg (by rw [List.map_cons, List.mem_cons]; exact fun h => h.elim e later), Memory.rd_wr_ne _ _ e]

theorem mem_byteSpans {data : List Byte} {pa : Nat} {p : Span} (h : p ∈ byteSpans pa data) :
    pa ≤ p.pa ∧ p.pa < pa + data.length ∧ p.n = 1 ∧ p.v = (data.getD (p.pa - pa) 0).toNat := by
  induction data generalizing pa with
  | nil => exact absurd h List.not_mem_nil
  | cons b r ih =>
    rcases List.mem_cons.1 h with rfl | h
    · exact ⟨Nat.le_refl _, by simp, rfl, by simp⟩
    · obtain ⟨lo, hi, hn, hv⟩ := ih h
      refine ⟨by omega, by rw [List.length_cons]; omega, hn, ?_⟩
      rw [hv, show p.pa - pa = (p.pa - (pa + 1)) + 1 by omega, List.getD_cons_succ]

theorem mem_map_byteSpans {data : List Byte} {pa k : Nat} : k ∈ (byteSpans pa data).map Span.pa ↔ pa ≤ k ∧ k < pa + data.length := by
  induction data generalizing pa with
  | nil => simp only [byteSpans, List.map_nil, List.not_mem_nil, List.length_nil, false_iff]; omega
  | cons b r ih =>
    simp only [byteSpans, List.map_cons, List.mem_cons, ih, List.length_cons]
    omega

theorem bytewise_byteSpans (pa : Nat) (data : List Byte) : Bytewise (fun k => (data.getD (k - pa) 0).toNat) (byteSpans pa data) :=
  fun _ hp => (mem_byteSpans hp).2.2

theorem length_byteSpans (pa : Nat) (data : List Byte) : (byteSpans pa data).length = data.length := by
  induction data generalizing pa with
  | nil => rfl
  | cons b r ih => rw [byteSpans, List.length_cons, ih, List.length_cons]

/-- The bytes of a list of bytes, written at their place. -/
theorem rd_byteSpans (m : Memory) (pa : Nat) (data : List Byte) (k : Nat) : Memory.rd (spansWritten m (byteSpans pa data)) k =
    if pa ≤ k ∧ k < pa + data.length then data.getD (k - pa) 0 else Memory.rd m k := by
  rw [rd_spansWritten (bytewise_byteSpans pa data)]
  simp only [mem_map_byteSpans, BitVec.ofNat_toNat, BitVec.setWidth_eq]

/-! ### A write of a unit of the hub at its home -/

theorem Accessed.writeData_dram (l : List Span) (h : ∀ p ∈ l, InDram s p) : Accessed s (s.writeData l) := by
  simp only [State.writeData, physWrs_dram l h]
  have data : Accessed s { s with dram := spansWritten s.dram l } := .of_still rfl
  exact (data.trans (.headWritten l)).trans (.of_still rfl)

theorem writeHome_hub (ho : s.owners = []) (he : s.errs = []) {w : Who} (hc : w.core = none) (hi : 128 ≤ w.island) (ht : w.task = none)
    (a : Attr) {pa : Nat} (hpa : paHawser pa = false) (l : List Span) (h : ∀ p ∈ l, InDram s p) :
    Accessed s (s.writeHome w none a pa l) ∧ (s.writeHome w none a pa l).dram = spansWritten s.dram l := by
  have before := ReadOnly.beforeData (s := s) hc hi ht none a pa l
  have told : Accessed s (if w.host then beforeData s w none a pa l else (beforeData s w none a pa l).backInvalidate pa) ∧
      (if w.host then beforeData s w none a pa l else (beforeData s w none a pa l).backInvalidate pa).dram = s.dram := by
    split
    · exact ⟨before.toAccessed, before.dram⟩
    · exact ⟨before.toAccessed.trans (.backInvalidate _), (backInvalidate_dram _).trans before.dram⟩
  rw [writeHome_eq ho he w none a hpa l]
  obtain ⟨acc, dram⟩ := told
  have inside : ∀ p ∈ l, InDram (if w.host then beforeData s w none a pa l else (beforeData s w none a pa l).backInvalidate pa) p :=
    fun p hp => ⟨(h p hp).1, fun b hb => (h p hp).2 b (by rw [← acc.mon]; exact hb)⟩
  exact ⟨acc.trans (.writeData_dram l inside), (writeData_dram l inside).2.trans (by rw [dram])⟩

/-- Spans that the host writes, line by line. -/
theorem writeLines_host {f : Nat → Nat} (a : Attr) (k : Nat) (l : List Span) (hk : l.length ≤ k) (hb : Bytewise f l)
    (ho : s.owners = []) (he : s.errs = []) (h : ∀ p ∈ l, InDram s p) (j : Nat) :
    Memory.rd (s.writeLines whoHost a k l).dram j = if j ∈ l.map Span.pa then BitVec.ofNat 8 (f j) else Memory.rd s.dram j := by
  induction k generalizing l s with
  | zero =>
    rw [List.length_eq_zero_iff.1 (Nat.le_zero.1 hk)]
    rfl
  | succ k ih =>
    cases l with
    | nil => rfl
    | cons p r =>
      let same (q : Span) : Bool := q.pa / 64 = p.pa / 64
      have sub : ∀ q ∈ p :: r.filter same, q ∈ p :: r := fun q hq =>
        (List.mem_cons.1 hq).elim (fun e => e ▸ List.mem_cons_self) fun hq => List.mem_cons_of_mem _ (List.mem_filter.1 hq).1
      have rest : ∀ q ∈ r.filter (fun q => !same q), q ∈ p :: r := fun q hq => List.mem_cons_of_mem _ (List.mem_filter.1 hq).1
      have target : paHawser p.pa = false := by simp [paHawser, (h p List.mem_cons_self).1]
      obtain ⟨acc, dram⟩ := writeHome_hub ho he (w := whoHost) rfl (by decide) rfl a target (p :: r.filter same)
        fun q hq => h q (sub q hq)
      have len : (r.filter (fun q => !same q)).length ≤ k :=
        (List.length_filter_le _ _).trans (Nat.le_of_succ_le_succ hk)
      rw [State.writeLines]
      refine (ih (s := s.writeHome whoHost none a p.pa (p :: r.filter same)) _ len (fun q hq => hb q (rest q hq)) (acc.owners.trans ho)
        (acc.errs.trans he) fun q hq => ⟨(h q (rest q hq)).1, fun b hm => (h q (rest q hq)).2 b (by rw [← acc.mon]; exact hm)⟩).trans ?_
      rw [dram, rd_spansWritten fun q hq => hb q (sub q hq)]
      have split_ : j ∈ (p :: r).map Span.pa ↔ j ∈ (r.filter (fun q => !same q)).map Span.pa ∨ j ∈ (p :: r.filter same).map Span.pa := by
        simp only [List.map_cons, List.mem_cons, List.mem_map, List.mem_filter]
        constructor
        · rintro (e | ⟨q, hq, e⟩)
          · exact .inr (.inl e)
          · cases hs : same q
            · exact .inl ⟨q, ⟨hq, by simp [hs]⟩, e⟩
            · exact .inr (.inr ⟨q, ⟨hq, hs⟩, e⟩)
        · rintro (⟨q, ⟨hq, -⟩, e⟩ | e | ⟨q, ⟨hq, -⟩, e⟩)
          · exact .inr ⟨q, hq, e⟩
          · exact .inl e
          · exact .inr ⟨q, hq, e⟩
      by_cases late : j ∈ (r.filter (fun q => !same q)).map Span.pa
      · rw [if_pos late, if_pos (split_.2 (.inl late))]
      · rw [if_neg late]
        by_cases now : j ∈ (p :: r.filter same).map Span.pa
        · rw [if_pos now, if_pos (split_.2 (.inr now))]
        · rw [if_neg now, if_neg fun e => (split_.1 e).elim late now]

/-! ### No word owned, no error stored: what snoops and writes keep so -/

/-- t has the owners, the errors, the monitor and the directory of s. -/
def SameAgents (s t : State) : Prop := (t.owners, t.errs, t.mon, t.dir) = (s.owners, s.errs, s.mon, s.dir)

namespace SameAgents

theorem refl : SameAgents s s := rfl

theorem of_eq (h : (t.owners, t.errs, t.mon, t.dir) = (s.owners, s.errs, s.mon, s.dir) := by rfl) : SameAgents s t := h

theorem trans (h : SameAgents s t) (k : SameAgents t u) : SameAgents s u := Eq.trans k h

theorem ite {c : Prop} [Decidable c] (ht : SameAgents s t) (hu : SameAgents s u) : SameAgents s (if c then t else u) := by
  split
  · exact ht
  · exact hu

theorem foldl {α : Type} {f : State → α → State} (hf : ∀ s a, SameAgents s (f s a)) (l : List α) (s : State) :
    SameAgents s (l.foldl f s) := by
  induction l generalizing s with
  | nil => exact .refl
  | cons a r ih => exact (hf s a).trans (ih _)

theorem of_accessed (h : Accessed s t) : SameAgents s t := by
  rw [SameAgents, h.owners, h.errs, h.mon, show t.dir = s.dir from (congrArg State.dir h.still :)]

theorem of_charged (h : Charged s t) : SameAgents s t := by
  rw [SameAgents, h.owners, h.errs, h.mon, show t.dir = s.dir from (congrArg State.dir h :)]

theorem owners (h : SameAgents s t) : t.owners = s.owners := congrArg Prod.fst h
theorem errs (h : SameAgents s t) : t.errs = s.errs := congrArg (·.2.1) h
theorem mon (h : SameAgents s t) : t.mon = s.mon := congrArg (·.2.2.1) h
theorem dir (h : SameAgents s t) : t.dir = s.dir := congrArg (·.2.2.2) h

theorem stampWrite (core : Option Nat) (a : Attr) (pa : Nat) : SameAgents s (s.stampWrite core a pa) := by
  unfold State.stampWrite
  refine .ite ?_ of_eq
  cases core <;> exact of_eq

theorem writeData (l : List Span) : SameAgents s (s.writeData l) := by
  have one (s : State) (p : Span) : SameAgents s (s.physWr p.pa p.n p.v) := by
    unfold State.physWr
    exact .ite of_eq (.ite of_eq of_eq)
  have head := of_accessed (Accessed.headWritten (s := l.foldl (fun s p => s.physWr p.pa p.n p.v) s) l)
  exact ((foldl one l s).trans head).trans of_eq

theorem beforeData (w : Who) (own : Option EntId) (a : Attr) (pa : Nat) (l : List Span) : SameAgents s (beforeData s w own a pa l) := by
  have copies : SameAgents s (s.invalidateFor own a pa l) := of_accessed (ReadOnly.invalidateFor own a pa l).toAccessed
  unfold Claims.beforeData
  exact .ite ((copies.trans (.stampWrite _ _ _)).trans (of_charged (.dramAccess _ _ _ _))) copies

theorem writeOwned (w : Who) (own : Option EntId) (a : Attr) (pa : Nat) (l : List Span) : SameAgents s (s.writeOwned w own a pa l) := by
  have before := beforeData (s := s) w own a pa l
  unfold State.writeOwned
  refine .ite (.writeData l) (.trans ?_ (.writeData l))
  exact .ite before (before.trans (of_accessed (.backInvalidate pa)))

end SameAgents

/-- No word is owned, no store has an error, and the monitor and the directory are m and d. -/
structure Unowned (m : Monitor) (d : List DirEnt) (s : State) : Prop where
  owners : s.owners = []
  errs : s.errs = []
  mon : s.mon = m
  dir : s.dir = d

namespace Unowned

variable {m : Monitor} {d : List DirEnt}

theorem keep (h : Unowned m d s) (k : SameAgents s t) : Unowned m d t :=
  ⟨k.owners.trans h.owners, k.errs.trans h.errs, k.mon.trans h.mon, k.dir.trans h.dir⟩

theorem writeGroup (h : Unowned m d s) (core : Nat) (x : MapInfo → Xlate) (g : List DirtyWord) : Unowned m d (s.writeGroup core x g) := by
  cases g with
  | nil => exact h
  | cons e r =>
    unfold State.writeGroup
    dsimp only
    split
    · split
      · exact h
      · have free : Unowned m d { s with owners := s.owners.filter (fun o =>
            !(o.core = core && o.cap.isNone && (e :: r).any (fun e => o.vault = e.vault && o.w = e.w))) } :=
          ⟨by rw [h.owners]; rfl, h.errs, h.mon, h.dir⟩
        have clean := free.keep (.foldl (f := fun s (e : DirtyWord) => s.modCore core (fun c => c.setSide e.vault e.w (.clean none)))
          (fun _ _ => .of_eq) (e :: r) _)
        rw [writeHome_of_nil clean.owners clean.errs]
        exact clean.keep (.writeOwned _ _ _ _ _)
    · exact h

theorem recallWords (h : Unowned m d s) (core : Nat) (p : MapInfo → Bool) : Unowned m d (s.recallWords core p) := by
  have groups (l : List (List DirtyWord)) (u : State) (hu : Unowned m d u) :
      Unowned m d (l.foldl (fun s g => s.writeGroup core (fun m => s.mapXlate core m true) g) u) := by
    induction l generalizing u with
    | nil => exact hu
    | cons g r ih => exact ih _ (hu.writeGroup core _ g)
  exact (groups _ s h).keep (.of_accessed (ReadOnly.clearCopiesOf core p).toAccessed)

theorem snoopLine (h : Unowned m d s) (pa : Nat) : Unowned m d (s.snoopLine pa) := by
  unfold State.snoopLine State.recallAll
  generalize s.cores = l
  generalize (fun k => s.at k (fun _ q a => a.host && q / 64 = pa / 64)) = p
  induction l generalizing s with
  | nil => exact h
  | cons c r ih => exact ih (h.recallWords c.1 (p c.1))

theorem snoopRange (h : Unowned m d s) (line k : Nat) : Unowned m d (s.snoopRange line k) := by
  induction k generalizing s line with
  | zero => exact h
  | succ k ih => exact ih (h.snoopLine (64 * line)) (line + 1)

end Unowned

/-! ### Accesses of the host (R144, R156, R347) -/

variable {pa n : Nat}

/-- An access of the host or of a peer has to wait at a slice. -/
def HostWaits (s : State) (pa n : Nat) : Prop := s.waits ≠ [] ∨ ∃ k < (pa % 64 + n + 63) / 64,
  s.sliceBusy (homeSlice (s.hostAttr (64 * (pa / 64 + k))) (64 * (pa / 64 + k))) = true

theorem foldl_serve (l : List Nat) : ∃ m, l.foldl State.serve s = { s with served := m } := by
  induction l generalizing s with
  | nil => exact ⟨s.served, rfl⟩
  | cons a r ih =>
    obtain ⟨m, h⟩ := ih (s := s.serve a)
    exact ⟨m, h⟩

/-- An access that need not wait is served by its slices. -/
theorem atSlices_served (h : ¬HostWaits s pa n) (i : HostAcc) (f : State → State) :
    ∃ m, s.atSlices pa n i f = f { s with served := m } := by
  obtain ⟨m, served⟩ := foldl_serve (s := s) (s.lineSlices (pa / 64) ((pa % 64 + n + 63) / 64))
  refine ⟨m, (if_neg fun busy => h ?_).trans (congrArg f served)⟩
  refine (Bool.or_eq_true_iff.1 busy).imp (fun e => ?_) lineSlices_any.1
  rw [Bool.not_eq_true', List.isEmpty_eq_false_iff] at e
  exact e

/-- A host write that performs: its bytes are in memory, and no other of a page without HOST bias changes. -/
theorem hostWrite_performs (h : Unowned s.mon s.dir s) (data : List Byte) (le : pa + data.length ≤ 0x9000000000)
    (apart : OutsideTable s pa data.length) :
    let t := State.writeLines (if (s.hostAttr pa).host then s.snoopRange (pa / 64) ((pa % 64 + data.length + 63) / 64) else s) whoHost
      (State.hostAttr (if (s.hostAttr pa).host then s.snoopRange (pa / 64) ((pa % 64 + data.length + 63) / 64) else s) pa)
      data.length (byteSpans pa data)
    (∀ k, pa ≤ k → k < pa + data.length → Memory.rd t.dram k = data.getD (k - pa) 0) ∧
      ((s.hostAttr pa).host = false → ∀ k, k < pa ∨ pa + data.length ≤ k → Memory.rd t.dram k = Memory.rd s.dram k) := by
  have ready : Unowned s.mon s.dir (if (s.hostAttr pa).host then s.snoopRange (pa / 64) ((pa % 64 + data.length + 63) / 64) else s) := by
    split
    · exact h.snoopRange _ _
    · exact h
  have inside (t : State) (ht : t.mon = s.mon) : ∀ p ∈ byteSpans pa data, InDram t p := fun p hp => by
    obtain ⟨lo, hi, hn, -⟩ := mem_byteSpans hp
    refine ⟨by rw [paTarget, Nat.div_eq_of_lt (by omega)], fun b hb => ?_⟩
    have := apart b (by rw [← ht]; exact hb)
    omega
  have wrote (t : State) (ht : Unowned s.mon s.dir t) (a : Attr) (k : Nat) :=
    writeLines_host a data.length (byteSpans pa data) (Nat.le_of_eq (length_byteSpans pa data)) (bytewise_byteSpans pa data)
      ht.owners ht.errs (inside t ht.mon) k
  refine ⟨fun k lo hi => ?_, fun plain k out => ?_⟩
  · rw [wrote _ ready, if_pos (mem_map_byteSpans.2 ⟨lo, hi⟩), BitVec.ofNat_toNat, BitVec.setWidth_eq]
  · rw [wrote _ ready, if_neg (by rw [mem_map_byteSpans]; omega), if_neg (by rw [plain]; exact Bool.false_ne_true)]

/-- The lines of a host read are tracked, and neither memory nor a message changes. -/
theorem trackLines_tracks (k : Nat) (line : Nat) : let t := s.trackLines line k
    t.dram = s.dram ∧ t.outbox = s.outbox ∧ (∀ l ∈ s.hostCached, l ∈ t.hostCached) ∧
      ∀ l, line ≤ l → l < line + k → l ∈ t.hostCached := by
  induction k generalizing s line with
  | zero => exact ⟨rfl, rfl, fun _ h => h, fun l lo hi => by omega⟩
  | succ k ih =>
    let t := s.dramAccess (s.hostAttr (64 * line)) (64 * line) 194 none
    have charged : Charged s t := .dramAccess _ _ _ _
    have access := ReadOnly.dramAccess (s := s) (s.hostAttr (64 * line)) (64 * line) (i := 194) (by decide)
    let c := if t.hostCached.contains line then t.hostCached else t.hostCached ++ [line]
    have here : line ∈ c := by
      show line ∈ if _ then _ else _
      split
      · next h => exact List.contains_iff_mem.1 h
      · exact List.mem_append_right _ (List.mem_singleton.2 rfl)
    have more : ∀ l ∈ s.hostCached, l ∈ c := fun l hl => by
      have there : l ∈ t.hostCached := access.hostCached ▸ hl
      show l ∈ if _ then _ else _
      split
      · exact there
      · exact List.mem_append_left _ there
    obtain ⟨dram, outbox, old, new⟩ := ih (s := { t with hostCached := c }) (line + 1)
    refine ⟨dram.trans charged.dram, outbox.trans access.outbox, fun l hl => old l (more l hl), fun l lo hi => ?_⟩
    by_cases e : l = line
    · rw [e]; exact old line here
    · exact new l (by omega) (by omega)

theorem readLines_reads (hn : 0 < n) (le : pa + n ≤ 0x9000000000) : let t := s.readLines pa n
    t.dram = s.dram ∧ t.outbox = s.outbox ++ [.hostRead pa (Memory.bytes s.dram pa n)] ∧
      ∀ l, pa / 64 ≤ l → l ≤ (pa + n - 1) / 64 → l ∈ t.hostCached := by
  obtain ⟨dram, outbox, -, new⟩ := trackLines_tracks (s := s.send (.hostRead pa (natBytes (s.physRd pa n) n)))
    ((pa % 64 + n + 63) / 64) (pa / 64)
  refine ⟨dram, outbox.trans ?_, fun l lo hi => new l lo (by omega)⟩
  rw [physRd_of_le le hn, natBytes_rdN]
  rfl

end Sys2Proof.Claims
end

section
/-! SUPPORT. What the home agents do at every core, line and store: the lease clock, the sweep, the scrubber (R116, R120, R133, R407). -/

namespace Sys2Proof.Claims
open Sys2Proof Sys2Proof.Machine

variable {s t u : State}

/-! ### The lease clock (R116) -/

theorem serialLT_iff (p q : BitVec 32) : serialLT p q = true ↔ 1 ≤ (q - p).toNat ∧ (q - p).toNat ≤ 2 ^ 31 - 1 := by
  simp only [serialLT, Bool.and_eq_true, decide_eq_true_eq]

/-- Every core of a list of numbers takes a value made of its own. -/
theorem foldl_modCores (f : Core → Core) (l : List Nat) (nodup : l.Nodup) (s : State) :
    ∃ m, l.foldl (fun u c => u.modCore c f) s = { s with cores := m } ∧
      ∀ k, State.core { s with cores := m } k = if k ∈ l then f (s.core k) else s.core k := by
  induction l generalizing s with
  | nil => exact ⟨s.cores, rfl, fun _ => rfl⟩
  | cons c r ih =>
    obtain ⟨notMem, rest⟩ := List.nodup_cons.1 nodup
    obtain ⟨m, he, hm⟩ := ih rest (s.modCore c f)
    refine ⟨m, he, fun k => (hm k).trans ?_⟩
    rw [State.modCore, core_setCore]
    by_cases e : k = c
    · rw [e, if_neg notMem, if_pos rfl, if_pos List.mem_cons_self]
    · rw [if_neg e]
      simp only [List.mem_cons, e, false_or]

/-- The serial maximum of a list is one of its members, and none lies after it where all lie in half of the circle. -/
theorem foldl_serialMax (f : Nat → BitVec 32) (l : List Nat) (p : BitVec 32) :
    let q := l.foldl (fun p k => serialMax p (f k)) p
    (q = p ∨ ∃ k ∈ l, q = f k) ∧
      ∀ base : BitVec 32, (p - base).toNat < 2 ^ 31 → (∀ k ∈ l, (f k - base).toNat < 2 ^ 31) →
        (p - base).toNat ≤ (q - base).toNat ∧ ∀ k ∈ l, (f k - base).toNat ≤ (q - base).toNat := by
  induction l generalizing p with
  | nil => exact ⟨.inl rfl, fun _ _ _ => ⟨Nat.le_refl _, fun _ h => absurd h List.not_mem_nil⟩⟩
  | cons c r ih =>
    obtain ⟨from_, most⟩ := ih (serialMax p (f c))
    refine ⟨?_, fun base hp hl => ?_⟩
    · rcases from_ with e | ⟨k, hk, e⟩
      · rw [List.foldl_cons, e, serialMax]
        split
        · exact .inr ⟨c, List.mem_cons_self, rfl⟩
        · exact .inl rfl
      · exact .inr ⟨k, List.mem_cons_of_mem _ hk, e⟩
    · have hc := hl c List.mem_cons_self
      have one : (p - base).toNat ≤ (serialMax p (f c) - base).toNat ∧ (f c - base).toNat ≤ (serialMax p (f c) - base).toNat ∧
          (serialMax p (f c) - base).toNat < 2 ^ 31 := by
        unfold serialMax
        by_cases lt : serialLT p (f c) = true
        · rw [if_pos lt]
          rw [serialLT_iff] at lt
          bv_omega
        · rw [if_neg lt]
          rw [serialLT_iff] at lt
          bv_omega
      obtain ⟨hp', hc', half⟩ := one
      obtain ⟨first, others⟩ := most base half fun k hk => hl k (List.mem_cons_of_mem _ hk)
      refine ⟨hp'.trans first, fun k hk => ?_⟩
      rcases List.mem_cons.1 hk with rfl | hk
      · exact hc'.trans first
      · exact others k hk

theorem maxPts_of_core : ∃ k < 128, s.maxPts = (s.core k).pts := by
  obtain ⟨from_, -⟩ := foldl_serialMax (fun k => (s.core k).pts) (List.range 128) (s.core 0).pts
  rcases from_ with e | ⟨k, hk, e⟩
  · exact ⟨0, by decide, e⟩
  · exact ⟨k, List.mem_range.1 hk, e⟩

theorem le_maxPts {base : BitVec 32} (h : ∀ k < 128, ((s.core k).pts - base).toNat < 2 ^ 31) {k : Nat} (hk : k < 128) :
    ((s.core k).pts - base).toNat ≤ (s.maxPts - base).toNat :=
  ((foldl_serialMax (fun k => (s.core k).pts) (List.range 128) (s.core 0).pts).2 base (h 0 (by decide))
    fun k hk => h k (List.mem_range.1 hk)).2 k (List.mem_range.2 hk)

/-- One core's clock at a tick (R116). -/
def ticked (dlt : BitVec 32) (k : Core) : Core := { k with pts := serialMax (k.pts + 1) (dlt - 0x100000) }

/-- Every core's clock steps. -/
theorem leaseTick_cores : ∃ m, exec .leaseTick s = .next { s with dlt := s.maxPts, cores := m } ∧
    ∀ k < 128, State.core { s with dlt := s.maxPts, cores := m } k = ticked s.maxPts (s.core k) := by
  have form : exec .leaseTick s =
      .next ((List.range 128).foldl (fun u c => u.modCore c (ticked s.maxPts)) { s with dlt := s.maxPts }) := by
    show execLeaseTick s = _
    unfold execLeaseTick ticked
    generalize List.range 128 = l
    rfl
  obtain ⟨m, eq, core⟩ := foldl_modCores (ticked s.maxPts) (List.range 128) List.nodup_range { s with dlt := s.maxPts }
  rw [form, eq]
  exact ⟨m, rfl, fun k hk => (core k).trans (if_pos (List.mem_range.2 hk))⟩

/-! ### The sweep (R120, R133) -/

/-- One timestamp of a map of slices, raised. -/
def raiseOne (lo : BitVec 32) (m : SMap (BitVec 32)) (k : Nat) : SMap (BitVec 32) :=
  if serialLT (SMap.get 0 m k) lo then SMap.set 0 m k lo else m

theorem get_raiseOne (lo : BitVec 32) (m : SMap (BitVec 32)) (k j : Nat) : SMap.get 0 (raiseOne lo m k) j =
    if j = k ∧ serialLT (SMap.get 0 m j) lo = true then lo else SMap.get 0 m j := by
  unfold raiseOne
  by_cases e : j = k
  · subst e
    by_cases lt : serialLT (SMap.get 0 m j) lo = true
    · rw [if_pos lt, if_pos ⟨rfl, lt⟩, SMap.get_set_same]
    · rw [if_neg lt, if_neg fun h => lt h.2]
  · refine Eq.trans ?_ (if_neg fun h => e h.1).symm
    split
    · exact SMap.get_set_ne _ _ _ e
    · rfl

theorem get_raised (lo : BitVec 32) (l : List Nat) (nodup : l.Nodup) (m : SMap (BitVec 32)) (j : Nat) :
    SMap.get 0 (l.foldl (raiseOne lo) m) j = if j ∈ l ∧ serialLT (SMap.get 0 m j) lo = true then lo else SMap.get 0 m j := by
  induction l generalizing m with
  | nil => simp
  | cons k r ih =>
    obtain ⟨notMem, rest⟩ := List.nodup_cons.1 nodup
    rw [List.foldl_cons, ih rest, get_raiseOne]
    by_cases e : j = k
    · subst e
      simp only [notMem, false_and, if_false, true_and, List.mem_cons_self]
    · simp only [e, false_and, if_false, List.mem_cons, false_or]

/-- A state without its cores and its operations. -/
def coreless (s : State) : State := { s with cores := [], ops := [] }

theorem coreless_clearCopiesOf (k : Nat) (p : MapInfo → Bool) : coreless (s.clearCopiesOf k p) = coreless s := rfl

theorem lease_of_bareCore {c d : Core} (h : bareCore c = bareCore d) : c.lease = d.lease := (congrArg Core.lease h :)

theorem dropLines_keeps (c : Nat) (l : List Lease) (s : State) : let t := l.foldl (fun s e => s.dropLine c e.line) s
    coreless t = coreless s ∧ ∀ k, (t.core k).lease = (s.core k).lease := by
  induction l generalizing s with
  | nil => exact ⟨rfl, fun _ => rfl⟩
  | cons e r ih =>
    obtain ⟨same, lease⟩ := ih (s.dropLine c e.line)
    have one : ReadOnly s (s.dropLine c e.line) := .clearCopiesOf _ _
    exact ⟨same, fun k => (lease k).trans (lease_of_bareCore (one.core k))⟩

theorem rebaseCore_keeps (c : Nat) (lo : BitVec 32) : coreless (s.rebaseCore c lo) = coreless s ∧
    ∀ k, ((s.rebaseCore c lo).core k).lease =
      if k = c then (s.core k).lease.filter (fun e => !serialLT e.rts lo) else (s.core k).lease := by
  obtain ⟨same, lease⟩ := dropLines_keeps c ((s.core c).lease.filter (fun e => serialLT e.rts lo)) s
  refine ⟨same, fun k => ?_⟩
  simp only [State.rebaseCore, State.modCore, core_setCore]
  split
  · next e => subst e; exact congrArg (List.filter _) (lease k)
  · exact lease k

theorem rebaseCores_keeps (lo : BitVec 32) (l : List (Nat × Core)) (s : State) : let t := l.foldl (fun s c => s.rebaseCore c.1 lo) s
    coreless t = coreless s ∧
      ∀ k e, e ∈ (t.core k).lease ↔ e ∈ (s.core k).lease ∧ (k ∈ l.map (·.1) → serialLT e.rts lo = false) := by
  induction l generalizing s with
  | nil => exact ⟨rfl, fun k e => by simp⟩
  | cons c r ih =>
    obtain ⟨same, lease⟩ := ih (s.rebaseCore c.1 lo)
    obtain ⟨same', lease'⟩ := rebaseCore_keeps (s := s) c.1 lo
    refine ⟨same.trans same', fun k e => (lease k e).trans ?_⟩
    rw [lease', List.map_cons, List.mem_cons]
    by_cases hk : k = c.1
    · rw [if_pos hk, List.mem_filter, Bool.not_eq_true']
      constructor
      · rintro ⟨⟨he, lt⟩, -⟩
        exact ⟨he, fun _ => lt⟩
      · rintro ⟨he, lt⟩
        exact ⟨⟨he, lt (.inl hk)⟩, fun _ => lt (.inl hk)⟩
    · simp only [hk, if_false, false_or]

/-- A core that the map does not list has no lease. -/
theorem mem_keys_of_lease {k : Nat} {e : Lease} (h : e ∈ (s.core k).lease) : k ∈ s.cores.map (·.1) := by
  have ne : SMap.get Core.none s.cores k ≠ Core.none := fun eq => by
    have none_ : (s.core k).lease = [] := congrArg Core.lease eq
    rw [none_] at h
    exact absurd h List.not_mem_nil
  exact List.mem_map.2 ⟨_, mem_of_get ne, rfl⟩

/-! ### The scrubber (R407, R408) -/

/-- Errors of the stores were found: no value changed, and no stored error came or went. -/
structure Found (s t : State) : Prop where
  rest : (t.dram, t.hostMem, t.errs) = (s.dram, s.hostMem, s.errs)
  stores : ∀ k, ((t.core k).spad, (t.core k).vault) = ((s.core k).spad, (s.core k).vault)

namespace Found

theorem refl : Found s s := ⟨rfl, fun _ => rfl⟩

theorem of_eq (h : (t.dram, t.hostMem, t.errs) = (s.dram, s.hostMem, s.errs) := by rfl) (hc : t.cores = s.cores := by rfl) : Found s t :=
  ⟨h, fun k => by rw [core_congr hc]⟩

theorem trans (h : Found s t) (k : Found t u) : Found s u := ⟨k.rest.trans h.rest, fun c => (k.stores c).trans (h.stores c)⟩

theorem ite {c : Prop} [Decidable c] (ht : Found s t) (hu : Found s u) : Found s (if c then t else u) := by
  split
  · exact ht
  · exact hu

theorem foldl {α : Type} {f : State → α → State} (hf : ∀ s a, Found s (f s a)) (l : List α) (s : State) : Found s (l.foldl f s) := by
  induction l generalizing s with
  | nil => exact .refl
  | cons a r ih => exact (hf s a).trans (ih _)

theorem modCore {c : Nat} {f : Core → Core} (h : ∀ k, ((f k).spad, (f k).vault) = (k.spad, k.vault)) : Found s (s.modCore c f) := by
  refine ⟨rfl, fun k => ?_⟩
  rw [State.modCore, core_setCore]
  split
  · next e => rw [h, e]
  · rfl

theorem fenceCore (c : Nat) : Found s (s.fenceCore c) := by
  unfold State.fenceCore State.evacuate
  refine .ite .refl (.trans (t := { s with mgmt := { s.mgmt with cfence := s.mgmt.cfence ||| BitVec.ofNat 128 (2 ^ c) } }) .of_eq
    (foldl (fun s t => ?_) _ _))
  exact .ite .of_eq .of_eq

theorem corrected (c : Nat) : Found s (s.corrected c) := by
  simp only [State.corrected]
  generalize SMap.set [] s.ceTimes c (_ ++ _) = m
  exact .ite (.trans (t := { s with ceTimes := m }) .of_eq (.fenceCore c)) .of_eq

theorem log {m : Mgmt} : Found s { s with mgmt := m } := .of_eq

theorem storeErr (e : MemErr) : Found s (s.storeErr e) := by
  obtain ⟨at_, d⟩ := e
  have granule (store : BitVec 4) (g : Nat) : Found s (s.memError ⟨at_, d⟩ store g) := .ite .refl .of_eq
  have local_ (c : Nat) (vault : Bool) (g : Nat) : Found s (s.storeError ⟨at_, d⟩ c vault g) :=
    .ite .refl (.ite (log.trans (.modCore fun k => by cases vault <;> rfl)) (log.trans (.corrected c)))
  cases at_ with
  | spad c g => exact local_ c.val false g
  | vault c g => exact local_ c.val true g
  | istore c n =>
    refine .ite .refl (.ite (.trans (t := { s with mgmt := s.mgmt.logError d 3 (some c.val) none }) log (.trans ?_ (.fenceCore c.val))) log)
    split
    · exact .modCore fun k => rfl
    · exact .refl
  | cache g => exact granule 4 g
  | table => exact log
  | dram g => exact granule 5 g
  | reg x code =>
    show Found s (s.regError x code)
    unfold State.regError
    split
    · exact .ite .refl .of_eq
    · exact .refl

/-- Errors are found, and only those that the test names go. -/
theorem findErrs (p : ErrAt → Bool) : (s.findErrs p).errs = s.errs.filter (fun e => !p e.at_) ∧
    ((s.findErrs p).dram, (s.findErrs p).hostMem) = (s.dram, s.hostMem) ∧
    ∀ k, (((s.findErrs p).core k).spad, ((s.findErrs p).core k).vault) = ((s.core k).spad, (s.core k).vault) := by
  unfold State.findErrs
  split
  · have all := foldl (fun _ e => storeErr e) (s.errs.filter (fun e => p e.at_)) { s with errs := s.errs.filter (fun e => !p e.at_) }
    exact ⟨congrArg (·.2.2) all.rest, congrArg (fun r => (r.1, r.2.1)) all.rest, all.stores⟩
  · next none_ =>
    refine ⟨?_, rfl, fun _ => rfl⟩
    rw [List.filter_eq_self.2]
    intro e he
    rw [Bool.not_eq_true, List.any_eq_false] at none_
    simpa using none_ e he

end Found

/-! ### The Wonus ring (R423) -/

theorem wonusWrite_room {r : WonusRec} {rest : List WonusRec} (hw : s.wonus = r :: rest) (room : s.mgmt.ringFull = false) :
    s.wonusWrite = (let pa := s.mgmt.wbase.toNat * 64 + 16 * (s.mgmt.wtail.toNat % 2 ^ s.mgmt.wlog.toNat)
      let t := s.writeHome whoPort none (s.hostAttr pa) pa [⟨pa, 16, r.word⟩]
      { t with wonus := rest, mgmt := { t.mgmt with wtail := t.mgmt.wtail + 1 } }) := by
  simp only [State.wonusWrite, hw, room, Bool.false_eq_true, if_false]

/-- The oldest waiting record goes to a ring with space. -/
theorem wonusWrite_oldest {r : WonusRec} {rest : List WonusRec} (hw : s.wonus = r :: rest) (room : s.mgmt.ringFull = false)
    (ho : s.owners = []) (he : s.errs = [])
    (le : s.mgmt.wbase.toNat * 64 + 16 * (s.mgmt.wtail.toNat % 2 ^ s.mgmt.wlog.toNat) + 16 ≤ 0x9000000000)
    (apart : ApartFromTable s (s.mgmt.wbase.toNat * 64 + 16 * (s.mgmt.wtail.toNat % 2 ^ s.mgmt.wlog.toNat))) :
    s.wonusWrite.wonus = rest ∧ s.wonusWrite.mgmt = { s.mgmt with wtail := s.mgmt.wtail + 1 } ∧
      s.wonusWrite.dram = Memory.wrN s.dram (s.mgmt.wbase.toNat * 64 + 16 * (s.mgmt.wtail.toNat % 2 ^ s.mgmt.wlog.toNat)) r.word 16 := by
  have form := wonusWrite_room hw room
  generalize s.mgmt.wbase.toNat * 64 + 16 * (s.mgmt.wtail.toNat % 2 ^ s.mgmt.wlog.toNat) = pa at le apart form ⊢
  rw [form]
  obtain ⟨acc, dram⟩ := writeHome_hub ho he (w := whoPort) rfl (by decide) rfl (s.hostAttr pa) (paHawser_of_le le (by decide))
    [⟨pa, 16, r.word⟩] fun p hp => by
      rw [List.mem_singleton.1 hp]
      exact InDram.of_apart (p := ⟨pa, 16, r.word⟩) apart le (by simp) (by simp) (by simp)
  exact ⟨rfl, congrArg (fun m : Mgmt => { m with wtail := m.wtail + 1 }) acc.mgmt, dram.trans (spansWritten_one _ _)⟩

end Sys2Proof.Claims
end

section Settled
open Sys2Proof Sys2Proof.Machine Sys2Proof.Claims

/-- Settles O38: host accesses through their slices, the clocks, the sweep and the scrubber core by core and line by line, and the ring. -/
theorem homeAgents : Obligations.HomeAgents := by
  unfold Obligations.HomeAgents
  intro s before waits
  have lt_iff (p q : BitVec 32) : serialLT p q = true ↔ before p q := serialLT_iff p q
  refine ⟨fun pa data => ⟨fun beyond => ?_, fun le wait => ?_, fun le go ho he apart => ?_⟩,
    fun pa n => ⟨fun beyond => ?_, fun le wait => ?_, fun le go hn ho he => ?_⟩, fun pa hpa => ⟨fun out => ?_, fun in_ => ?_⟩, ?_, ?_, ?_,
    fun r rest hw => ?_⟩
  · exact if_neg (by simp [hdmOk, dramSize, Nat.not_le.2 beyond])
  · exact (if_pos (decide_eq_true le)).trans (congrArg _ (atSlices_wait wait))
  · obtain ⟨m, eq⟩ := atSlices_served go (.write pa data) (fun s =>
      State.writeLines (if (s.hostAttr pa).host then s.snoopRange (pa / 64) ((pa % 64 + data.length + 63) / 64) else s) whoHost
        (State.hostAttr (if (s.hostAttr pa).host then s.snoopRange (pa / 64) ((pa % 64 + data.length + 63) / 64) else s) pa)
        data.length (byteSpans pa data))
    exact ⟨_, (if_pos (decide_eq_true le)).trans (congrArg _ eq),
      hostWrite_performs (s := { s with served := m }) ⟨ho, he, rfl, rfl⟩ data le apart⟩
  · exact if_neg (by simp [hdmOk, dramSize, Nat.not_le.2 beyond])
  · exact (if_pos (decide_eq_true le)).trans (congrArg _ (atSlices_wait wait))
  · obtain ⟨m, eq⟩ := atSlices_served go (.read pa n) (fun s => (s.recallOwners none (s.hostAttr pa) pa n).readLines pa n)
    have owned : State.recallOwners { s with served := m } none (State.hostAttr { s with served := m } pa) pa n = { s with served := m } :=
      recallOwners_of_nil (s := { s with served := m }) ho he _ _ _ _
    exact ⟨_, (if_pos (decide_eq_true le)).trans (congrArg _ (eq.trans (congrArg (State.readLines · pa n) owned))),
      readLines_reads (s := { s with served := m }) hn le⟩
  · have no : s.hostCached.contains (pa / 64) = false := by simpa using out
    exact if_neg (by rw [no, Bool.and_false]; exact Bool.false_ne_true)
  · have target : paTarget pa = 0 := by rw [paTarget, Nat.div_eq_of_lt hpa]
    have yes : s.hostCached.contains (pa / 64) = true := by simpa using in_
    exact if_pos (by rw [yes, decide_eq_true target]; rfl)
  · obtain ⟨m, eq, core⟩ := leaseTick_cores (s := s)
    refine ⟨_, eq, maxPts_of_core (s := s), fun base h k hk => le_maxPts (s := s) h hk, fun k hk => ?_⟩
    intro p q
    have mine : State.core { s with dlt := s.maxPts, cores := m } k = { s.core k with pts := serialMax p q } := core k hk
    refine ⟨fun lt => ?_, fun lt => ?_, ?_⟩
    · exact (congrArg Core.pts mine).trans (if_pos ((lt_iff p q).2 lt))
    · exact (congrArg Core.pts mine).trans (if_neg fun e => lt ((lt_iff p q).1 e))
    · exact congrArg (fun c : Core => { c with pts := (s.core k).pts }) mine
  · let lo := s.dlt - 0x40000000
    let raised : State := { s with
      lines := s.lines.map (fun (t : LineTs) => if serialLT t.rts lo then { t with rts := lo, wts := lo } else t)
      evt := (List.range 64).foldl (raiseOne lo) s.evt, swc := (List.range 64).foldl (raiseOne lo) s.swc }
    obtain ⟨same, lease⟩ := rebaseCores_keeps lo raised.cores raised
    have lines : (raised.cores.foldl (fun s c => s.rebaseCore c.1 lo) raised).lines = raised.lines := (congrArg State.lines same :)
    have evt : (raised.cores.foldl (fun s c => s.rebaseCore c.1 lo) raised).evt = raised.evt := (congrArg State.evt same :)
    have swc : (raised.cores.foldl (fun s c => s.rebaseCore c.1 lo) raised).swc = raised.swc := (congrArg State.swc same :)
    refine ⟨_, rfl, (congrArg State.dram same :), fun t ht => ⟨fun lt => ?_, fun lt => ?_⟩, ?_, fun k hk => ?_, fun k l => ?_⟩
    · exact lines ▸ List.mem_map.2 ⟨t, ht, if_pos ((lt_iff _ _).2 lt)⟩
    · exact lines ▸ List.mem_map.2 ⟨t, ht, if_neg fun e => lt ((lt_iff _ _).1 e)⟩
    · exact (congrArg List.length lines).trans (List.length_map _)
    · have get (m : SMap (BitVec 32)) := get_raised lo (List.range 64) List.nodup_range m k
      have in_ : k ∈ List.range 64 := List.mem_range.2 hk
      refine ⟨fun lt => ?_, fun lt => ?_, fun lt => ?_, fun lt => ?_⟩
      · exact (congrArg (SMap.get 0 · k) evt).trans ((get s.evt).trans (if_pos ⟨in_, (lt_iff _ _).2 lt⟩))
      · exact (congrArg (SMap.get 0 · k) evt).trans ((get s.evt).trans (if_neg fun e => lt ((lt_iff _ _).1 e.2)))
      · exact (congrArg (SMap.get 0 · k) swc).trans ((get s.swc).trans (if_pos ⟨in_, (lt_iff _ _).2 lt⟩))
      · exact (congrArg (SMap.get 0 · k) swc).trans ((get s.swc).trans (if_neg fun e => lt ((lt_iff _ _).1 e.2)))
    · refine (lease k l).trans (and_congr_right fun hl => ?_)
      have listed : k ∈ raised.cores.map (·.1) := mem_keys_of_lease hl
      rw [← lt_iff, Bool.not_eq_true]
      exact ⟨fun h => h listed, fun h _ => h⟩
  · intro met
    have met_iff (e : MemErr) : s.scrubs e.at_ = true ↔ met e := by
      obtain ⟨at_, d⟩ := e
      cases at_ with
      | spad c g => exact iff_of_true rfl trivial
      | vault c g => exact iff_of_true rfl trivial
      | istore c n => exact iff_of_true rfl trivial
      | cache g => exact decide_eq_true_iff
      | table => exact decide_eq_true_iff
      | dram g => exact decide_eq_true_iff
      | reg x code => exact iff_of_false Bool.false_ne_true id
    obtain ⟨errs, mems, stores⟩ := Found.findErrs (s := s) s.scrubs
    refine ⟨s.findErrs s.scrubs, rfl, congrArg Prod.fst mems, congrArg Prod.snd mems, fun e => ?_, fun k => Prod.mk.inj (stores k),
      fun none_ => if_neg fun some_ => ?_⟩
    · rw [errs, List.mem_filter, Bool.not_eq_true', ← Bool.not_eq_true, met_iff]
    · obtain ⟨e, he, hs⟩ := List.any_eq_true.1 some_
      exact none_ e he ((met_iff e).1 hs)
  · intro m size pa
    refine ⟨fun full => ?_, fun room le ho he apart => ?_⟩
    · have ring : s.mgmt.ringFull = true := decide_eq_true full
      show Host.Outcome.next s.wonusWrite = _
      simp only [State.wonusWrite, hw, ring, if_true]
    · exact ⟨_, rfl, wonusWrite_oldest hw (decide_eq_false (Nat.not_le.2 room)) ho he le apart⟩

end Settled

section
/-! SUPPORT. Recalls and snoops: dirty words go home, clean ones stop to be VALID (R108, R115, R122, R141). -/

namespace Sys2Proof.Claims
open Sys2Proof Sys2Proof.Machine

variable {s t u : State}

/-! ### Translation reads no copy -/

theorem tableMem_of_nil (h : s.owners = []) : s.tableMem = s.dram := by rw [State.tableMem, h]; rfl

/-- Two states translate alike: the same tables, caches, save areas and free choices. -/
structure SameTables (s t : State) : Prop where
  owners : s.owners = []
  owners' : t.owners = []
  rest : (t.dram, t.asids, t.tcache, t.mon, t.freeCtr, t.tasks) = (s.dram, s.asids, s.tcache, s.mon, s.freeCtr, s.tasks)

theorem SameTables.mapXlate (h : SameTables s t) (k : Nat) (m : MapInfo) (w : Bool) : t.mapXlate k m w = s.mapXlate k m w := by
  obtain ⟨ho, ho', rest⟩ := h
  simp only [Prod.mk.injEq] at rest
  obtain ⟨dram, asids, tcache, mon, freeCtr, tasks⟩ := rest
  simp only [State.mapXlate, State.look, State.walk, State.asid, State.cached, State.shown, State.taskAsid, State.task?,
    tableMem_of_nil ho, tableMem_of_nil ho', dram, asids, tcache, mon, freeCtr, tasks]

theorem SameTables.of_coreless (ho : s.owners = []) (h : coreless t = coreless s) : SameTables s t :=
  ⟨ho, (congrArg State.owners h :).trans ho,
    (congrArg (fun u : State => (u.dram, u.asids, u.tcache, u.mon, u.freeCtr, u.tasks)) h :)⟩

theorem SameTables.at (h : SameTables s t) (k : Nat) (p : MapInfo → Nat → Attr → Bool) : t.at k p = s.at k p := by
  funext m
  simp only [State.at, h.mapXlate]

/-! ### Side bits after a drop of copies -/

/-- The side bits of every store are in canonical form. -/
def SidesWf (s : State) : Prop := ∀ k v, SMap.wf Side.none ((s.core k).sides v) = true

theorem side_of_mem {c : Core} {v : Bool} (h : SMap.wf Side.none (c.sides v) = true) {e : Nat × Side} (he : e ∈ c.sides v) :
    c.side v e.1 = e.2 := get_of_mem (Bool.and_eq_true_iff.1 h).1 he

theorem sides_setSide (c : Core) (v u : Bool) (w : Nat) (b : Side) : (c.setSide v w b).sides u =
    if u = v then SMap.set Side.none (c.sides u) w b else c.sides u := by
  cases u <;> cases v <;> rfl

theorem wf_setSide {c : Core} (h : ∀ u, SMap.wf Side.none (c.sides u) = true) (v : Bool) (w : Nat) (b : Side) (u : Bool) :
    SMap.wf Side.none ((c.setSide v w b).sides u) = true := by
  rw [sides_setSide]
  split
  · exact SMap.wf_set _ _ _ _ (h u)
  · exact h u

theorem wf_clearClean {c : Core} (h : ∀ u, SMap.wf Side.none (c.sides u) = true) (v : Bool) (p : Nat → Bool) (u : Bool) :
    SMap.wf Side.none ((c.clearClean v p).sides u) = true := by
  unfold Core.clearClean
  generalize (c.sides v).filter _ = l
  induction l generalizing c with
  | nil => exact h u
  | cons e r ih => exact ih (wf_setSide h v e.1 _)

theorem wf_clearTest {c : Core} (h : ∀ u, SMap.wf Side.none (c.sides u) = true) (p : MapInfo → Bool) (u : Bool) :
    SMap.wf Side.none ((c.clearTest p).sides u) = true := wf_clearClean (wf_clearClean h false _) true _ u

theorem side_clearClean_other (c : Core) {v u : Bool} (p : Nat → Bool) (h : u ≠ v) (w : Nat) :
    (c.clearClean v p).side u w = c.side u w := by
  unfold Core.clearClean
  generalize (c.sides v).filter _ = l
  induction l generalizing c with
  | nil => rfl
  | cons e r ih => rw [List.foldl_cons, ih, side_setSide, if_neg fun e => h e.1]

theorem invalid_self {b : Side} (h : b.valid = false) : { b with valid := false } = b := by rw [← h]

/-- A drop clears VALID on the clean words that it names. -/
theorem side_clearClean {c : Core} {v : Bool} (h : SMap.wf Side.none (c.sides v) = true) (p : Nat → Bool) (w : Nat) :
    (c.clearClean v p).side v w =
      if p w = true ∧ (c.side v w).dirty = false then { c.side v w with valid := false } else c.side v w := by
  obtain ⟨-, -, other, hit⟩ := foldl_dropped v w ((c.sides v).filter (fun e => e.2.valid && !e.2.dirty && p e.1)) c
  by_cases found : ∃ e ∈ (c.sides v).filter (fun e => e.2.valid && !e.2.dirty && p e.1), e.1 = w
  · obtain ⟨e, he, hw, hs⟩ := hit found
    obtain ⟨mem, named⟩ := List.mem_filter.1 he
    have own : c.side v w = e.2 := hw ▸ side_of_mem h mem
    simp only [Bool.and_eq_true, Bool.not_eq_true'] at named
    rw [if_pos ⟨hw ▸ named.2, own ▸ named.1.2⟩, own]
    exact hs
  · have kept : (c.clearClean v p).side v w = c.side v w := other fun e he hw => found ⟨e, he, hw⟩
    rw [kept]
    split
    · next named =>
      by_cases hv : (c.side v w).valid = true
      · have ne : SMap.get Side.none (c.sides v) w ≠ Side.none := fun e =>
          Bool.false_ne_true ((congrArg Side.valid e : (c.side v w).valid = false).symm.trans hv)
        refine absurd ⟨_, List.mem_filter.2 ⟨mem_of_get ne, ?_⟩, rfl⟩ found
        have hv' : (SMap.get Side.none (c.sides v) w).valid = true := hv
        have hd' : (SMap.get Side.none (c.sides v) w).dirty = false := named.2
        simp [hv', hd', named.1]
      · exact (invalid_self (Bool.not_eq_true _ ▸ hv)).symm
    · rfl

theorem mapTest_congr {c d : Core} (h : c.teams = d.teams) (p : MapInfo → Bool) (v : Bool) (w : Nat) : c.mapTest p v w = d.mapTest p v w := by
  rw [Core.mapTest, mapOf_congr h]; rfl

theorem side_clearTest {c : Core} (h : ∀ u, SMap.wf Side.none (c.sides u) = true) (p : MapInfo → Bool) (v : Bool) (w : Nat) :
    (c.clearTest p).side v w =
      if c.mapTest p v w = true ∧ (c.side v w).dirty = false then { c.side v w with valid := false } else c.side v w := by
  cases v
  · rw [Core.clearTest, side_clearClean_other _ _ (by decide), side_clearClean (h false)]
  · rw [Core.clearTest, side_clearClean (wf_clearClean h false _ true), side_clearClean_other _ _ (by decide)]

/-- What a drop of copies in one core does to every word. -/
theorem side_clearCopiesOf (h : SidesWf s) (c : Nat) (p : MapInfo → Bool) (k : Nat) (v : Bool) (w : Nat) :
    ((s.clearCopiesOf c p).core k).side v w =
      if (k = c ∧ (s.core k).mapTest p v w = true) ∧ ((s.core k).side v w).dirty = false then
        { (s.core k).side v w with valid := false } else (s.core k).side v w := by
  have core : (s.clearCopiesOf c p).core k = if k = c then (s.core c).clearTest p else s.core k :=
    core_setCore { s with ops := s.ops.map (s.markFill c p) } c k _
  rw [core]
  by_cases e : k = c
  · subst e
    rw [if_pos rfl, side_clearTest (h k)]
    simp only [true_and]
  · rw [if_neg e, if_neg fun h => e h.1.1]

theorem wf_clearCopiesOf (h : SidesWf s) (c : Nat) (p : MapInfo → Bool) : SidesWf (s.clearCopiesOf c p) := fun k v => by
  have core : (s.clearCopiesOf c p).core k = if k = c then (s.core c).clearTest p else s.core k :=
    core_setCore { s with ops := s.ops.map (s.markFill c p) } c k _
  rw [core]
  split
  · exact wf_clearTest (h c) p v
  · exact h k v

/-! ### Copies dropped, and nothing else -/

/-- t is s after the copies that N names are not VALID any more, where they were clean. -/
structure Cleared (s t : State) (N : Nat → Bool → Nat → Prop) : Prop where
  rest : coreless t = coreless s
  bare : ∀ k, bareCore (t.core k) = bareCore (s.core k)
  wf : SidesWf t
  gone : ∀ k v w, N k v w → ((s.core k).side v w).dirty = false →
    (t.core k).side v w = { (s.core k).side v w with valid := false }
  other : ∀ k v w, ¬(N k v w ∧ ((s.core k).side v w).dirty = false) → (t.core k).side v w = (s.core k).side v w

namespace Cleared

variable {N : Nat → Bool → Nat → Prop}

theorem teams (h : Cleared s t N) (k : Nat) : (t.core k).teams = (s.core k).teams := (congrArg Core.teams (h.bare k) :)

theorem store (h : Cleared s t N) (k : Nat) (v : Bool) : (t.core k).store v = (s.core k).store v :=
  (congrArg (Core.store · v) (h.bare k) :)

theorem dirty (h : Cleared s t N) (k : Nat) (v : Bool) (w : Nat) : ((t.core k).side v w).dirty = ((s.core k).side v w).dirty := by
  by_cases hit : N k v w ∧ ((s.core k).side v w).dirty = false
  · rw [h.gone k v w hit.1 hit.2]
  · rw [h.other k v w hit]

theorem refl (h : SidesWf s) : Cleared s s (fun _ _ _ => False) := ⟨rfl, fun _ => rfl, h, nofun, fun _ _ _ _ => rfl⟩

theorem step (h : Cleared s t N) (c : Nat) (p : MapInfo → Bool) :
    Cleared s (t.clearCopiesOf c p) (fun k v w => N k v w ∨ k = c ∧ (s.core k).mapTest p v w = true) := by
  have test (k : Nat) (v : Bool) (w : Nat) : (t.core k).mapTest p v w = (s.core k).mapTest p v w := mapTest_congr (h.teams k) p v w
  have side (k : Nat) (v : Bool) (w : Nat) := side_clearCopiesOf h.wf c p k v w
  refine ⟨h.rest, fun k => ((ReadOnly.clearCopiesOf c p).core k).trans (h.bare k), wf_clearCopiesOf h.wf c p, fun k v w hit hd => ?_,
    fun k v w miss => ?_⟩
  · rw [side, test, h.dirty]
    by_cases before : N k v w
    · rw [h.gone k v w before hd]
      split <;> rfl
    · rw [if_pos ⟨hit.resolve_left before, hd⟩, h.other k v w fun e => before e.1]
  · have not_ : ¬(N k v w ∧ ((s.core k).side v w).dirty = false) := fun e => miss ⟨.inl e.1, e.2⟩
    rw [side, test, h.dirty, if_neg fun e => miss ⟨.inr e.1, e.2⟩, h.other k v w not_]

end Cleared

/-! ### Recalls where no word is dirty -/

/-- No word of a core is DIRTY. -/
def CoreClean (s : State) (k : Nat) : Prop := ∀ v w, ((s.core k).side v w).dirty = false

theorem dirtyWords_of_clean (wf : SidesWf s) {k : Nat} (h : CoreClean s k) (p : MapInfo → Bool) : s.dirtyWords k p = [] := by
  have none_ (v : Bool) (f : Nat × Side → Option DirtyWord) (hf : ∀ e, e.2.dirty = false → f e = none) :
      ((s.core k).sides v).filterMap f = [] :=
    List.filterMap_eq_nil_iff.2 fun e he => hf e (by rw [← side_of_mem (wf k v) he]; exact h v e.1)
  have both (a b : List DirtyWord) (ha : a = []) (hb : b = []) : a ++ b = [] := by rw [ha, hb]; rfl
  exact both _ _ (none_ false _ fun e he => if_neg (he ▸ Bool.false_ne_true)) (none_ true _ fun e he => if_neg (he ▸ Bool.false_ne_true))

theorem recallWords_of_clean (wf : SidesWf s) {k : Nat} (h : CoreClean s k) (p : MapInfo → Bool) :
    s.recallWords k p = s.clearCopiesOf k p := by
  simp only [State.recallWords, State.recallUnder, dirtyWords_of_clean wf h, List.length_nil, groupWords, List.foldl_nil]

/-- Recalls of cores without a dirty word only drop copies. -/
theorem recalls_clean (p : Nat → MapInfo → Bool) (l : List (Nat × Core)) {N : Nat → Bool → Nat → Prop} (h : Cleared s t N)
    (clean : ∀ c ∈ l, CoreClean s c.1) : Cleared s (l.foldl (fun t c => t.recallWords c.1 (p c.1)) t)
      (fun k v w => N k v w ∨ k ∈ l.map (·.1) ∧ (s.core k).mapTest (p k) v w = true) := by
  induction l generalizing t N with
  | nil => exact ⟨h.rest, h.bare, h.wf, fun k v w hit => h.gone k v w (hit.resolve_right fun e => absurd e.1 List.not_mem_nil),
      fun k v w miss => h.other k v w fun (e : N k v w ∧ _) => miss ⟨.inl e.1, e.2⟩⟩
  | cons c r ih =>
    have cl : CoreClean t c.1 := fun v w => by rw [h.dirty]; exact clean c List.mem_cons_self v w
    have rest := ih (h.step c.1 (p c.1)) fun d hd => clean d (List.mem_cons_of_mem _ hd)
    have step : (c :: r).foldl (fun t c => t.recallWords c.1 (p c.1)) t =
        r.foldl (fun t c => t.recallWords c.1 (p c.1)) (t.clearCopiesOf c.1 (p c.1)) := by
      rw [List.foldl_cons, recallWords_of_clean h.wf cl]
    rw [step]
    refine ⟨rest.rest, rest.bare, rest.wf, fun k v w hit => rest.gone k v w ?_, fun k v w miss => rest.other k v w fun e => miss ⟨?_, e.2⟩⟩
    · rcases hit with hn | ⟨hk, ht⟩
      · exact .inl (.inl hn)
      · rcases List.mem_cons.1 hk with e | hk
        · exact .inl (.inr ⟨e, e ▸ ht⟩)
        · exact .inr ⟨hk, ht⟩
    · rcases e.1 with (hn | ⟨hk, ht⟩) | ⟨hk, ht⟩
      · exact .inl hn
      · exact .inr ⟨by rw [hk]; exact List.mem_cons_self, hk ▸ ht⟩
      · exact .inr ⟨List.mem_cons_of_mem _ hk, ht⟩

/-! ### Side bits that only get weaker -/

/-- From s to t no word became VALID or DIRTY. -/
structure Milder (s t : State) : Prop where
  wf : SidesWf s → SidesWf t
  valid : ∀ k v w, ((s.core k).side v w).valid = false → ((t.core k).side v w).valid = false
  dirty : ∀ k v w, ((s.core k).side v w).dirty = false → ((t.core k).side v w).dirty = false
  teams : ∀ k, (t.core k).teams = (s.core k).teams

namespace Milder

theorem refl : Milder s s := ⟨id, fun _ _ _ h => h, fun _ _ _ h => h, fun _ => rfl⟩

theorem trans (h : Milder s t) (k : Milder t u) : Milder s u :=
  ⟨fun wf => k.wf (h.wf wf), fun c v w e => k.valid c v w (h.valid c v w e), fun c v w e => k.dirty c v w (h.dirty c v w e),
    fun c => (k.teams c).trans (h.teams c)⟩

theorem of_cores (h : ∀ k, (((t.core k).spadSide, (t.core k).vaultSide), (t.core k).teams) =
    (((s.core k).spadSide, (s.core k).vaultSide), (s.core k).teams)) : Milder s t := by
  have sides (k : Nat) (v : Bool) : (t.core k).sides v = (s.core k).sides v := by
    have both := congrArg Prod.fst (h k)
    cases v
    · exact congrArg Prod.fst both
    · exact congrArg Prod.snd both
  have side (k : Nat) (v : Bool) (w : Nat) : (t.core k).side v w = (s.core k).side v w := congrArg (SMap.get Side.none · w) (sides k v)
  exact ⟨fun wf k v => by rw [sides]; exact wf k v, fun k v w e => by rw [side]; exact e, fun k v w e => by rw [side]; exact e,
    fun k => congrArg Prod.snd (h k)⟩

theorem of_eq (h : t.cores = s.cores) : Milder s t := of_cores fun k => by rw [core_congr h]

theorem of_wrote (h : Wrote s t) : Milder s t := of_eq h.cores

theorem ite {c : Prop} [Decidable c] (ht : Milder s t) (hu : Milder s u) : Milder s (if c then t else u) := by
  split
  · exact ht
  · exact hu

theorem clearClean_side (c : Core) (v u : Bool) (p : Nat → Bool) (w : Nat) :
    ((c.side u w).valid = false → ((c.clearClean v p).side u w).valid = false) ∧
      ((c.side u w).dirty = false → ((c.clearClean v p).side u w).dirty = false) := by
  by_cases e : u = v
  · subst e
    obtain ⟨-, -, other, hit⟩ := foldl_dropped u w ((c.sides u).filter (fun e => e.2.valid && !e.2.dirty && p e.1)) c
    by_cases found : ∃ e ∈ (c.sides u).filter (fun e => e.2.valid && !e.2.dirty && p e.1), e.1 = w
    · obtain ⟨e, he, -, hs⟩ := hit found
      have named := (List.mem_filter.1 he).2
      simp only [Bool.and_eq_true, Bool.not_eq_true'] at named
      exact ⟨fun _ => (congrArg Side.valid hs :), fun _ => (congrArg Side.dirty hs :).trans named.1.2⟩
    · have kept : (c.clearClean u p).side u w = c.side u w := other fun e he hw => found ⟨e, he, hw⟩
      rw [kept]
      exact ⟨id, id⟩
  · rw [side_clearClean_other c p e w]
    exact ⟨id, id⟩

theorem clearCopiesOf (c : Nat) (p : MapInfo → Bool) : Milder s (s.clearCopiesOf c p) := by
  have core (k : Nat) : (s.clearCopiesOf c p).core k = if k = c then (s.core c).clearTest p else s.core k :=
    core_setCore { s with ops := s.ops.map (s.markFill c p) } c k _
  have both (d : Core) (v : Bool) (w : Nat) : ((d.side v w).valid = false → ((d.clearTest p).side v w).valid = false) ∧
      ((d.side v w).dirty = false → ((d.clearTest p).side v w).dirty = false) := by
    have first := clearClean_side d false v (d.mapTest p false) w
    have second := clearClean_side (d.clearClean false (d.mapTest p false)) true v (d.mapTest p true) w
    exact ⟨fun e => second.1 (first.1 e), fun e => second.2 (first.2 e)⟩
  refine ⟨fun wf => wf_clearCopiesOf wf c p, fun k v w e => ?_, fun k v w e => ?_, fun k => ?_⟩
  · rw [core]; split
    · next h => exact (both _ v w).1 (h ▸ e)
    · exact e
  · rw [core]; split
    · next h => exact (both _ v w).2 (h ▸ e)
    · exact e
  · rw [core]; split
    · next h => rw [h, Core.clearTest, teams_clearClean, teams_clearClean]
    · rfl

theorem clearCopies (p : Nat → MapInfo → Bool) : Milder s (s.clearCopies p) := by
  unfold State.clearCopies
  generalize s.cores = l
  induction l generalizing s with
  | nil => exact .refl
  | cons c r ih => exact (clearCopiesOf c.1 (p c.1)).trans ih

theorem invalidateFor (own : Option EntId) (a : Attr) (pa : Nat) (l : List Span) : Milder s (s.invalidateFor own a pa l) :=
  .ite (.clearCopies _) (.ite (.clearCopies _) .refl)

end Milder

/-! ### The recall of one dirty word (R108) -/

theorem filterMap_one {α β : Type} {l : List (Nat × α)} {lo : Nat} (rising : SMap.rising lo l = true) {e : Nat × α} (he : e ∈ l)
    {f : Nat × α → Option β} {b : β} (hf : f e = some b) (other : ∀ d ∈ l, d.1 ≠ e.1 → f d = none) : l.filterMap f = [b] := by
  induction l generalizing lo with
  | nil => exact absurd he List.not_mem_nil
  | cons c r ih =>
    simp only [SMap.rising, Bool.and_eq_true] at rising
    have later (d : Nat × α) (hd : d ∈ r) : d.1 ≠ c.1 := by
      have := SMap.rising_of_mem r _ rising.2 d hd
      omega
    rcases List.mem_cons.1 he with rfl | he
    · rw [List.filterMap_cons, hf, List.filterMap_eq_nil_iff.2 fun d hd => other d (List.mem_cons_of_mem _ hd) (later d hd)]
    · rw [List.filterMap_cons, other c List.mem_cons_self fun e' => later e he e'.symm]
      exact ih rising.2 he fun d hd => other d (List.mem_cons_of_mem _ hd)

/-- A dirty word of a bight as a recall takes it. -/
def takenWord (s : State) (k : Nat) (v : Bool) (w : Nat) (m : MapInfo) : DirtyWord :=
  ⟨v, w, m, BitVec.ofNat 32 (Memory.rdN ((s.core k).store v) (4 * w) 4)⟩

/-- The one word that is DIRTY in a state. -/
structure OnlyDirty (s : State) (k : Nat) (v : Bool) (w : Nat) : Prop where
  dirty : ((s.core k).side v w).dirty = true
  only : ∀ k' v' w', ((s.core k').side v' w').dirty = true → k' = k ∧ v' = v ∧ w' = w

theorem OnlyDirty.clean {k : Nat} {v : Bool} {w : Nat} (h : OnlyDirty s k v w) {k' : Nat} {v' : Bool} {w' : Nat}
    (ne : ¬(k' = k ∧ v' = v ∧ w' = w)) : ((s.core k').side v' w').dirty = false :=
  Bool.eq_false_iff.2 fun e => ne (h.only k' v' w' e)

section DirtyWord

variable {k w pa : Nat} {v : Bool} {m : MapInfo} {a : Attr} {p : MapInfo → Bool}

theorem dirtyWords_one (wf : SidesWf s) (h : OnlyDirty s k v w) (hm : (s.core k).mapOf v w = some m) (hp : p m = true) :
    s.dirtyWords k p = [takenWord s k v w m] := by
  let f (u : Bool) (e : Nat × Side) : Option DirtyWord :=
    if e.2.dirty then
      match (s.core k).mapOf u e.1 with
      | some m => if p m then some ⟨u, e.1, m, BitVec.ofNat 32 (Memory.rdN ((s.core k).store u) (4 * e.1) 4)⟩ else none
      | none => none
    else none
  have here : ((s.core k).sides v).filterMap (f v) = [takenWord s k v w m] := by
    have ne : SMap.get Side.none ((s.core k).sides v) w ≠ Side.none := fun e =>
      Bool.false_ne_true ((congrArg Side.dirty e : ((s.core k).side v w).dirty = false).symm.trans h.dirty)
    refine filterMap_one (Bool.and_eq_true_iff.1 (wf k v)).1 (mem_of_get ne) ?_ fun d hd hne => ?_
    · have dirty : (SMap.get Side.none ((s.core k).sides v) w).dirty = true := h.dirty
      show (if _ then _ else _) = _
      rw [if_pos dirty, hm]
      exact if_pos hp
    · have clean : d.2.dirty = false := by
        rw [← side_of_mem (wf k v) hd]
        exact h.clean fun e => hne e.2.2
      exact if_neg (clean ▸ Bool.false_ne_true)
  have there (u : Bool) (hu : u ≠ v) : ((s.core k).sides u).filterMap (f u) = [] := by
    refine List.filterMap_eq_nil_iff.2 fun d hd => ?_
    have clean : d.2.dirty = false := by
      rw [← side_of_mem (wf k u) hd]
      exact h.clean fun e => hu e.2.1
    exact if_neg (clean ▸ Bool.false_ne_true)
  have both : s.dirtyWords k p = ((s.core k).sides false).filterMap (f false) ++ ((s.core k).sides true).filterMap (f true) := rfl
  rw [both]
  cases v
  · rw [here, there true (by decide)]; rfl
  · rw [here, there false (by decide)]; rfl

/-- The one span of a dirty word's write-back. -/
def wordSpan (pa : Nat) (d : DirtyWord) : Span := ⟨pa / 64 * 64 + d.m.va % 64, 4, d.v.toNat⟩

theorem owners_filter_of_nil (h : s.owners = []) (f : Owner → Bool) : { s with owners := s.owners.filter f } = s := by
  cases s
  simp only at h
  subst h
  rfl

theorem writeGroup_one (ho : s.owners = []) {x : MapInfo → Xlate} {d : DirtyWord} (hx : x d.m = .ok pa a) (hpa : paHawser pa = false) :
    s.writeGroup k x [d] = State.writeHome (s.modCore k (fun c => c.setSide d.vault d.w (.clean none))) (whoCore k d.m.task)
      (some (d.m.ent k)) a pa [wordSpan pa d] := by
  have fenced : s.fenced pa = false := by simp [State.fenced, hpa]
  simp only [State.writeGroup, hx, fenced, Bool.false_eq_true, if_false, owners_filter_of_nil ho, List.foldl_cons, List.foldl_nil,
    List.map_cons, List.map_nil]
  rfl

/-- A state whose one dirty word is gone home: memory has it, and no word is DIRTY. -/
structure SentHome (s u : State) (k : Nat) (v : Bool) (w : Nat) (m : MapInfo) (pa : Nat) : Prop where
  dram : u.dram = Memory.wrN s.dram (pa / 64 * 64 + m.va % 64) (Memory.rdN ((s.core k).store v) (4 * w) 4) 4
  valid : ((u.core k).side v w).valid = false
  clean : ∀ k v w, ((u.core k).side v w).dirty = false
  wf : SidesWf u

theorem SentHome.milder (h : SentHome s t k v w m pa) (dram : u.dram = t.dram) (mild : Milder t u) : SentHome s u k v w m pa :=
  ⟨dram.trans h.dram, mild.valid k v w h.valid, fun k v w => mild.dirty k v w (h.clean k v w), mild.wf h.wf⟩

/-- A word that the translation finds in device memory, on a page that no lease follows, may go home. -/
structure GoesHome (s : State) (k : Nat) (m : MapInfo) (pa : Nat) (a : Attr) : Prop where
  owners : s.owners = []
  errs : s.errs = []
  xlate : s.mapXlate k m true = .ok pa a
  le : pa + 64 ≤ 0x9000000000
  apart : ApartFromTable s pa
  lease : a.lease = false

/-- A recall writes the one dirty word back, and drops it (R108). -/
theorem recallWords_dirty (g : GoesHome s k m pa a) (wf : SidesWf s) (h : OnlyDirty s k v w) (hm : (s.core k).mapOf v w = some m)
    (hp : p m = true) : SentHome s (s.recallWords k p) k v w m pa := by
  let d := takenWord s k v w m
  let c := s.modCore k (fun c => c.setSide v w (.clean none))
  have hawser := paHawser_of_le g.le (by decide)
  have value : d.v.toNat = Memory.rdN ((s.core k).store v) (4 * w) 4 := by
    have lt := rdN_lt ((s.core k).store v) (4 * w) 4
    exact (BitVec.toNat_ofNat _ _).trans (Nat.mod_eq_of_lt lt)
  have form : s.recallWords k p = (c.writeHome (whoCore k m.task) (some (m.ent k)) a pa [wordSpan pa d]).clearCopiesOf k p := by
    have one : s.writeGroup k (fun m => s.mapXlate k m true) [d] = c.writeHome (whoCore k m.task) (some (m.ent k)) a pa [wordSpan pa d] :=
      writeGroup_one g.owners g.xlate hawser
    simp only [State.recallWords, State.recallUnder, dirtyWords_one wf h hm hp, List.length_singleton, groupWords, List.filter_nil,
      List.foldl_cons, List.foldl_nil]
    rw [one]
  have copies := ReadOnly.invalidateFor (s := c) (some (m.ent k)) a pa [wordSpan pa d]
  obtain ⟨wrote, dram⟩ := writeHome_wrote (s := c) g.owners g.errs (whoCore k m.task) (some (m.ent k)) hawser g.lease [wordSpan pa d]
    (fun q hq => by
      rw [List.mem_singleton.1 hq]
      refine InDram.of_apart (n := 64) g.apart g.le ?_ ?_ ?_
      · show pa < pa / 64 * 64 + m.va % 64 + 64; omega
      · show pa / 64 * 64 + m.va % 64 + 4 ≤ pa + 128; omega
      · show pa / 64 * 64 + m.va % 64 < pa + 64; omega) copies.dram copies.mon
  have core (j : Nat) : c.core j = if j = k then (s.core k).setSide v w (.clean none) else s.core j := core_setCore s k j _
  have cleanC (k' : Nat) (v' : Bool) (w' : Nat) : ((c.core k').side v' w').dirty = false := by
    rw [core]
    split
    · next e =>
      rw [side_setSide]
      split
      · rfl
      · next ne => exact h.clean fun all => ne all.2
    · next e => exact h.clean fun all => e all.1
  have wfC : SidesWf c := fun k' v' => by
    rw [core]
    split
    · exact wf_setSide (wf k) v w _ v'
    · exact wf k' v'
  have mild : Milder c (c.writeHome (whoCore k m.task) (some (m.ent k)) a pa [wordSpan pa d]) :=
    (Milder.invalidateFor _ _ _ _).trans (.of_wrote wrote)
  have last := Milder.clearCopiesOf (s := c.writeHome (whoCore k m.task) (some (m.ent k)) a pa [wordSpan pa d]) k p
  rw [form]
  generalize c.writeHome (whoCore k m.task) (some (m.ent k)) a pa [wordSpan pa d] = b at dram mild last
  have dirtyB (k' : Nat) (v' : Bool) (w' : Nat) := mild.dirty k' v' w' (cleanC k' v' w')
  have named : (b.core k).mapTest p v w = true := by
    have teams : (b.core k).teams = (s.core k).teams := (mild.teams k).trans (by rw [core, if_pos rfl, teams_setSide])
    rw [mapTest_congr teams, Core.mapTest, hm]
    exact hp
  refine ⟨dram.trans ?_, ?_, fun k' v' w' => last.dirty k' v' w' (dirtyB k' v' w'), last.wf (mild.wf wfC)⟩
  · rw [spansWritten_one, ← value]
    rfl
  · rw [side_clearCopiesOf (mild.wf wfC), if_pos ⟨⟨rfl, named⟩, dirtyB k v w⟩]

theorem SentHome.recalls (h : SentHome s t k v w m pa) (p : Nat → MapInfo → Bool) (l : List (Nat × Core)) :
    SentHome s (l.foldl (fun t c => t.recallWords c.1 (p c.1)) t) k v w m pa := by
  induction l generalizing t with
  | nil => exact h
  | cons c r ih =>
    rw [List.foldl_cons, recallWords_of_clean h.wf (h.clean c.1)]
    exact ih (h.milder (ReadOnly.clearCopiesOf _ _).dram (.clearCopiesOf _ _))

theorem GoesHome.of_cleared (g : GoesHome s k m pa a) {N : Nat → Bool → Nat → Prop} (h : Cleared s t N) : GoesHome t k m pa a :=
  ⟨(congrArg State.owners h.rest :).trans g.owners, (congrArg State.errs h.rest :).trans g.errs,
    ((SameTables.of_coreless g.owners h.rest).mapXlate k m true).trans g.xlate, g.le,
    fun b hb => g.apart b ((congrArg (fun u : State => u.mon.table) h.rest :).symm.trans hb), g.lease⟩

theorem OnlyDirty.of_cleared (h : OnlyDirty s k v w) {N : Nat → Bool → Nat → Prop} (c : Cleared s t N) : OnlyDirty t k v w :=
  ⟨(c.dirty k v w).trans h.dirty, fun k' v' w' e => h.only k' v' w' ((c.dirty k' v' w').symm.trans e)⟩

/-- Recalls of all cores find the one dirty word at its core. -/
theorem recalls_dirty (p : Nat → MapInfo → Bool) (g : GoesHome s k m pa a) (h : OnlyDirty s k v w)
    (hm : (s.core k).mapOf v w = some m) (hp : p k m = true) (l : List (Nat × Core)) (hk : k ∈ l.map (·.1))
    {N : Nat → Bool → Nat → Prop} (c : Cleared s t N) :
    SentHome s (l.foldl (fun t c => t.recallWords c.1 (p c.1)) t) k v w m pa := by
  induction l generalizing t N with
  | nil => exact absurd hk List.not_mem_nil
  | cons e r ih =>
    rw [List.foldl_cons]
    by_cases here : e.1 = k
    · rw [here]
      have map : (t.core k).mapOf v w = some m := (mapOf_congr (c.teams k) v w).trans hm
      have sent := recallWords_dirty (p := p k) (g.of_cleared c) c.wf (h.of_cleared c) map hp
      have base : SentHome s (t.recallWords k (p k)) k v w m pa :=
        ⟨sent.dram.trans (by rw [c.store, show t.dram = s.dram from (congrArg State.dram c.rest :)]), sent.valid, sent.clean, sent.wf⟩
      exact base.recalls p r
    · have clean : CoreClean t e.1 := fun v' w' => (h.of_cleared c).clean fun all => here all.1
      rw [recallWords_of_clean c.wf clean]
      exact ih ((List.mem_cons.1 hk).resolve_left fun eq => here eq.symm) (c.step e.1 (p e.1))

end DirtyWord

end Sys2Proof.Claims
end

section
/-! SUPPORT. Host snoops with the bytes they carry, and recalls of owned words (R122, R141, R156). -/

namespace Sys2Proof.Claims
open Sys2Proof Sys2Proof.Machine

variable {s t u : State}

/-! ### Words that a test on addresses names -/

/-- A word of a store is mapped and translates to an address that satisfies a test. -/
def MapHits (s : State) (k : Nat) (p : MapInfo → Nat → Attr → Prop) (v : Bool) (w : Nat) : Prop :=
  ∃ m pa a, (s.core k).mapOf v w = some m ∧ s.mapXlate k m false = .ok pa a ∧ p m pa a

theorem at_of_ok {k : Nat} {q : MapInfo → Nat → Attr → Bool} {m : MapInfo} {pa : Nat} {a : Attr}
    (h : s.mapXlate k m false = .ok pa a) : s.at k q m = q m pa a := by rw [State.at, h]

theorem mapTest_at_iff {k : Nat} {q : MapInfo → Nat → Attr → Bool} {p : MapInfo → Nat → Attr → Prop} {v : Bool} {w : Nat}
    (h : ∀ m pa a, q m pa a = true ↔ p m pa a) : (s.core k).mapTest (s.at k q) v w = true ↔ MapHits s k p v w := by
  unfold Core.mapTest MapHits
  cases hm : (s.core k).mapOf v w with
  | none => exact ⟨fun e => absurd e Bool.false_ne_true, nofun⟩
  | some m =>
    dsimp only
    unfold State.at
    cases hx : s.mapXlate k m false with
    | ok pa a =>
      refine (h m pa a).trans ⟨fun e => ⟨m, pa, a, rfl, hx, e⟩, ?_⟩
      rintro ⟨m', pa', a', hm', hx', e⟩
      cases hm'
      rw [hx] at hx'
      cases hx'
      exact e
    | ats => exact ⟨fun e => absurd e Bool.false_ne_true, by rintro ⟨m', _, _, hm', hx', _⟩; cases hm'; rw [hx] at hx'; cases hx'⟩
    | fault c => exact ⟨fun e => absurd e Bool.false_ne_true, by rintro ⟨m', _, _, hm', hx', _⟩; cases hm'; rw [hx] at hx'; cases hx'⟩
    | hold => exact ⟨fun e => absurd e Bool.false_ne_true, by rintro ⟨m', _, _, hm', hx', _⟩; cases hm'; rw [hx] at hx'; cases hx'⟩

/-- A core with a mapped word, or with a dirty one, is listed. -/
theorem mem_keys_of_ne {k : Nat} (h : s.core k ≠ Core.none) : k ∈ s.cores.map (·.1) := List.mem_map.2 ⟨_, mem_of_get h, rfl⟩

theorem mem_keys_of_map {k w : Nat} {v : Bool} {m : MapInfo} (h : (s.core k).mapOf v w = some m) : k ∈ s.cores.map (·.1) :=
  mem_keys_of_ne fun e => by rw [e] at h; exact absurd h (by simp [Core.mapOf, Core.none])

/-! ### Snoops (R122) -/

/-- The words of a HOST-bias line. -/
def OnLine (line : Nat) (_ : MapInfo) (pa : Nat) (a : Attr) : Prop := a.host = true ∧ pa / 64 = line / 64

/-- The test of a snoop. -/
def snoopTest (line : Nat) (_ : MapInfo) (q : Nat) (a : Attr) : Bool := a.host && q / 64 = line / 64

theorem snoopTest_iff (line : Nat) (m : MapInfo) (q : Nat) (a : Attr) : snoopTest line m q a = true ↔ OnLine line m q a := by
  simp [snoopTest, OnLine]

/-- A snoop where no word is dirty drops the copies of its line. -/
theorem snoopLine_clean (wf : SidesWf s) (clean : ∀ k, CoreClean s k) (line : Nat) :
    ∃ N, Cleared s (s.snoopLine line) N ∧ ∀ k v w, N k v w ↔ MapHits s k (OnLine line) v w := by
  refine ⟨_, recalls_clean (fun k => s.at k (snoopTest line)) s.cores (.refl wf) fun c _ => clean c.1, fun k v w => ?_⟩
  rw [false_or, mapTest_at_iff (snoopTest_iff line)]
  refine ⟨And.right, fun h => ⟨?_, h⟩⟩
  obtain ⟨m, -, -, hm, -⟩ := h
  exact mem_keys_of_map hm

theorem snoopLine_dirty {k w line pa : Nat} {v : Bool} {m : MapInfo} {a : Attr} (g : GoesHome s k m pa a) (wf : SidesWf s)
    (h : OnlyDirty s k v w) (hm : (s.core k).mapOf v w = some m) (hx : s.mapXlate k m false = .ok pa a) (on : OnLine line m pa a) :
    SentHome s (s.snoopLine line) k v w m pa :=
  recalls_dirty (fun k => s.at k (snoopTest line)) g h hm ((at_of_ok hx).trans ((snoopTest_iff line m pa a).2 on)) s.cores
    (mem_keys_of_map hm) (.refl wf)

/-! ### The bytes that a snoop carries (R122, R133) -/

theorem Charged.raiseSwc {slice : Nat} {p : BitVec 32} : Charged s (s.raiseSwc slice p) := .of_eq

theorem Charged.setLineTs {x : LineTs} : Charged s (s.setLineTs x) := .of_eq

theorem Charged.modSeq {m : SMap Nat} : Charged s { s with modSeq := m } := .of_eq

theorem Charged.stampWrite_none (a : Attr) (pa : Nat) : Charged s (s.stampWrite none a pa) := by
  have raised := (Charged.raiseSwc (s := s) (slice := homeSlice a pa) (p := s.dlt)).trans (.modSeq
    (m := SMap.set 0 (s.raiseSwc (homeSlice a pa) s.dlt).modSeq (homeSlice a pa)
      (SMap.get 0 (s.raiseSwc (homeSlice a pa) s.dlt).modSeq (homeSlice a pa) + 1)))
  exact .ite ((raised.trans .setLineTs).trans .raiseSwc) raised

theorem take_line {line : Nat} {data : List Byte} (h : line % 64 + data.length ≤ 64) : data.take (64 - line % 64) = data :=
  List.take_of_length_le (by omega)

/-- Bytes of the host's memory, one by one. -/
theorem physWrs_host {data : List Byte} {pa o : Nat} (h : ∀ k < data.length, paTarget (pa + k) = 8 ∧ paOff (pa + k) = o + k) (s : State) :
    (byteSpans pa data).foldl (fun s p => s.physWr p.pa p.n p.v) s = { s with hostMem := spansWritten s.hostMem (byteSpans o data) } := by
  induction data generalizing pa o s with
  | nil => rfl
  | cons b r ih =>
    obtain ⟨target, off⟩ := h 0 (by simp)
    have one : s.physWr pa 1 b.toNat = { s with hostMem := Memory.wrN s.hostMem o b.toNat 1 } := by
      rw [Nat.add_zero] at target off
      simp [State.physWr, target, off]
    rw [byteSpans, List.foldl_cons]
    show List.foldl _ (s.physWr pa 1 b.toNat) _ = _
    rw [one]
    exact ih (pa := pa + 1) (o := o + 1) (fun k hk => by
      have := h (k + 1) (by rw [List.length_cons]; omega)
      rwa [Nat.add_right_comm pa 1 k, Nat.add_right_comm o 1 k]) _

theorem headWritten_hostMem (l : List Span) : (s.headWritten l).hostMem = s.hostMem := (Accessed.headWritten l).hostMem

theorem writeData_host {data : List Byte} {line : Nat} (target : line / 2 ^ 48 % 16 = 8) (h : line % 64 + data.length ≤ 64) :
    (s.writeData (byteSpans line data)).dram = s.dram ∧
      (s.writeData (byteSpans line data)).hostMem = spansWritten s.hostMem (byteSpans (line % 2 ^ 48) data) := by
  have place : ∀ k < data.length, paTarget (line + k) = 8 ∧ paOff (line + k) = line % 2 ^ 48 + k := fun k hk => by
    unfold paTarget paOff
    omega
  simp only [State.writeData, physWrs_host place]
  exact ⟨headWritten_dram _, headWritten_hostMem _⟩

/-- The slice that a snoop of a line asks. -/
theorem hostWaits_line (line : Nat) : HostWaits s (64 * (line / 64)) 64 ↔
    s.waits ≠ [] ∨ s.sliceBusy (homeSlice (s.hostAttr (64 * (line / 64))) (64 * (line / 64))) = true := by
  have one : (64 * (line / 64) % 64 + 64 + 63) / 64 = 1 := by omega
  have same : 64 * (64 * (line / 64) / 64 + 0) = 64 * (line / 64) := by omega
  unfold HostWaits
  rw [one]
  refine or_congr_right ⟨?_, fun busy => ⟨0, by decide, by rw [same]; exact busy⟩⟩
  rintro ⟨k, hk, busy⟩
  obtain rfl : k = 0 := by omega
  rwa [same] at busy

theorem hostSnoop_waits {line : Nat} (h : line < 2 ^ 48) (data : List Byte)
    (wait : s.waits ≠ [] ∨ s.sliceBusy (homeSlice (s.hostAttr (64 * (line / 64))) (64 * (line / 64))) = true) :
    exec (.hostSnoop line data) s = .next { s with waits := s.waits ++ [.snoop line data] } := by
  have target : paTarget line = 0 := by rw [paTarget, Nat.div_eq_of_lt h]
  exact congrArg _ ((if_pos target).trans (atSlices_wait ((hostWaits_line line).2 wait)))

/-- The state of a snoop of device memory before its bytes are written: its line dropped, the access stamped and charged. -/
def snooped (s : State) (line : Nat) : State :=
  let t := s.snoopLine line
  (t.stampWrite none (t.hostAttr line) line).dramAccess (t.hostAttr line) line 194 none

theorem charged_snooped (line : Nat) : Charged (s.snoopLine line) (snooped s line) := (Charged.stampWrite_none _ _).trans (.dramAccess _ _ _ _)

/-- A snoop that need not wait drops its line, and then writes its bytes. -/
theorem hostSnoop_goes {line : Nat} {data : List Byte} (hd : line % 64 + data.length ≤ 64) (target : paTarget line = 0)
    (go : ¬HostWaits s (64 * (line / 64)) 64) :
    ∃ m, exec (.hostSnoop line data) s = .next ((snooped { s with served := m } line).writeData (byteSpans line data)) := by
  obtain ⟨m, eq⟩ := atSlices_served go (.snoop line data) (fun s =>
    (snooped s line).writeData (byteSpans line (data.take (64 - line % 64))))
  rw [take_line hd] at eq
  refine ⟨m, (congrArg Host.Outcome.next ((if_pos target).trans ?_)).trans (congrArg Host.Outcome.next eq)⟩
  rw [take_line hd]
  rfl

theorem hostSnoop_host {line : Nat} {data : List Byte} (hd : line % 64 + data.length ≤ 64) (target : paTarget line = 8) :
    exec (.hostSnoop line data) s = .next ((s.snoopLine line).writeData (byteSpans line data)) := by
  have whole := take_line hd
  refine (congrArg Host.Outcome.next ((if_neg (by omega)).trans (if_pos target))).trans ?_
  rw [whole]

theorem writeData_nil : (s.writeData []).cores = s.cores ∧ (s.writeData []).dram = s.dram := by
  obtain ⟨wrote, dram⟩ := writeData_dram (s := s) [] nofun
  exact ⟨wrote.cores, dram⟩

/-- A snoop without bytes leaves cores and memory as the drop of its line does, at a slice that has served it. -/
theorem hostSnoop_bare (line : Nat) (go : paTarget line = 0 → ¬HostWaits s (64 * (line / 64)) 64) :
    ∃ m u, exec (.hostSnoop line []) s = .next u ∧ u.cores = (State.snoopLine { s with served := m } line).cores ∧
      u.dram = (State.snoopLine { s with served := m } line).dram := by
  have short : line % 64 + ([] : List Byte).length ≤ 64 := by rw [List.length_nil]; omega
  by_cases dev : paTarget line = 0
  · obtain ⟨m, eq⟩ := hostSnoop_goes short dev (go dev)
    have charged := charged_snooped (s := { s with served := m }) line
    obtain ⟨cores, dram⟩ := writeData_nil (s := snooped { s with served := m } line)
    exact ⟨m, _, eq, cores.trans charged.cores, dram.trans charged.dram⟩
  · by_cases host : paTarget line = 8
    · obtain ⟨cores, dram⟩ := writeData_nil (s := s.snoopLine line)
      exact ⟨s.served, _, hostSnoop_host short host, cores, dram⟩
    · exact ⟨s.served, _, congrArg Host.Outcome.next ((if_neg dev).trans (if_neg host)), rfl, rfl⟩

/-! ### Recalls of owned words (R141) -/

theorem Milder.stampWrite (core : Option Nat) (a : Attr) (pa : Nat) : Milder s (s.stampWrite core a pa) := by
  unfold State.stampWrite
  refine .ite ?_ (.of_eq rfl)
  cases core with
  | none => exact .of_eq rfl
  | some c =>
    refine .of_cores fun k => ?_
    dsimp only
    rw [State.modCore, core_setCore]
    split
    · next e => subst e; rfl
    · rfl

theorem stampWrite_dram (core : Option Nat) (a : Attr) (pa : Nat) : (s.stampWrite core a pa).dram = s.dram := by
  unfold State.stampWrite
  cases core <;> dsimp only <;> split <;> rfl

/-- What precedes the data of a write makes no word VALID or DIRTY, and writes nothing. -/
theorem beforeData_mild (w : Who) (own : Option EntId) (a : Attr) (pa : Nat) (l : List Span) :
    Milder s (beforeData s w own a pa l) ∧ (beforeData s w own a pa l).dram = s.dram := by
  have copies := ReadOnly.invalidateFor (s := s) own a pa l
  have charged : Charged ((s.invalidateFor own a pa l).stampWrite w.core a pa)
    (((s.invalidateFor own a pa l).stampWrite w.core a pa).dramAccess a pa w.island w.task) := .dramAccess _ _ _ _
  unfold beforeData
  dsimp only
  split
  · exact ⟨((Milder.invalidateFor _ _ _ _).trans (.stampWrite _ _ _)).trans (.of_eq charged.cores),
      charged.dram.trans ((stampWrite_dram _ _ _).trans copies.dram)⟩
  · exact ⟨.invalidateFor _ _ _ _, copies.dram⟩

/-- A write of device memory at its home, ownership settled. -/
theorem writeOwned_mild (w : Who) (own : Option EntId) (a : Attr) {pa : Nat} (hpa : paHawser pa = false) (l : List Span)
    (h : ∀ p ∈ l, InDram s p) : Milder s (s.writeOwned w own a pa l) ∧ (s.writeOwned w own a pa l).dram = spansWritten s.dram l := by
  obtain ⟨mild, dram⟩ := beforeData_mild (s := s) w own a pa l
  have agents := SameAgents.beforeData (s := s) w own a pa l
  let b := if w.host then beforeData s w own a pa l else (beforeData s w own a pa l).backInvalidate pa
  have told : (Milder s b ∧ b.dram = s.dram) ∧ b.mon = s.mon := by
    show (Milder s (if _ then _ else _) ∧ State.dram (if _ then _ else _) = _) ∧ State.mon (if _ then _ else _) = _
    split
    · exact ⟨⟨mild, dram⟩, agents.mon⟩
    · have back := Wrote.backInvalidate (s := beforeData s w own a pa l) pa
      exact ⟨⟨mild.trans (.of_wrote back), (backInvalidate_dram _).trans dram⟩, back.mon.trans agents.mon⟩
  obtain ⟨⟨mild', dram'⟩, mon⟩ := told
  have form : s.writeOwned w own a pa l = b.writeData l := by
    unfold State.writeOwned
    rw [hpa]
    rfl
  obtain ⟨wrote, data⟩ := writeData_dram (s := b) l fun p hp => ⟨(h p hp).1, fun t ht => (h p hp).2 t (mon ▸ ht)⟩
  rw [form]
  exact ⟨mild'.trans (.of_wrote wrote), data.trans (by rw [dram'])⟩

theorem poisonWord_keeps (n : Nat) : (s.poisonWord n).dram = s.dram ∧ (s.poisonWord n).owners = s.owners ∧
    (s.poisonWord n).errs = s.errs ∧ (s.poisonWord n).cores = s.cores := by
  unfold State.poisonWord
  split <;> exact ⟨rfl, rfl, rfl, rfl⟩

/-- The recall of the one owned word: its owner's bytes are in memory, and it has no owner any more. -/
theorem recallOwner_only {o : Owner} (ho : s.owners = [o]) (he : s.errs = []) (le : 4 * o.word + 4 ≤ 0x9000000000)
    (apart : ApartFromTable s (4 * o.word)) (a : Attr) : let u := s.recallOwner a o
    u.owners = [] ∧ u.errs = [] ∧ u.dram = Memory.wrN s.dram (4 * o.word) (o.bytes s) 4 ∧
      (o.cap = none → ((u.core o.core).side o.vault o.w).dirty = false) := by
  have free : (unowned s o).owners = [] ∧ (unowned s o).errs = [] ∧ (unowned s o).dram = s.dram ∧ (unowned s o).mon = s.mon ∧
      (o.cap = none → (((unowned s o).core o.core).side o.vault o.w).dirty = false) := by
    have none_ : s.owners.filter (fun p => p ≠ o) = [] := by rw [ho]; simp
    unfold unowned
    cases hc : o.cap with
    | some v => exact ⟨none_, he, rfl, rfl, nofun⟩
    | none =>
      refine ⟨none_, he, rfl, rfl, fun _ => ?_⟩
      have core : (State.modCore { s with owners := s.owners.filter (fun p => p ≠ o) } o.core
          (fun c => c.setSide o.vault o.w (.clean none))).core o.core = (s.core o.core).setSide o.vault o.w (.clean none) :=
        State.setCore_core_same _ _ _
      rw [core, side_setSide, if_pos ⟨rfl, rfl⟩]
      rfl
  obtain ⟨owners, errs, dram, mon, clean⟩ := free
  have inside : ∀ p ∈ [Span.mk (4 * o.word) 4 (o.bytes s)], InDram (unowned s o) p := fun p hp => by
    rw [List.mem_singleton.1 hp]
    have dev := InDram.of_apart (p := ⟨4 * o.word, 4, o.bytes s⟩) apart le (by simp) (by simp) (by simp)
    exact ⟨dev.1, fun b hb => dev.2 b (mon ▸ hb)⟩
  obtain ⟨mild, wrote⟩ := writeOwned_mild (s := unowned s o) (whoCore o.core o.task) (some ⟨o.core, o.task, o.n⟩) a
    (paHawser_of_le le (by decide)) _ inside
  have agents := SameAgents.writeOwned (s := unowned s o) (whoCore o.core o.task) (some ⟨o.core, o.task, o.n⟩) a (4 * o.word)
    [⟨4 * o.word, 4, o.bytes s⟩]
  rw [recallOwner_eq]
  generalize State.writeOwned (unowned s o) _ _ _ _ _ = t at mild wrote agents ⊢
  have data : t.dram = Memory.wrN s.dram (4 * o.word) (o.bytes s) 4 := by rw [wrote, spansWritten_one, dram]
  have side (h : o.cap = none) := mild.dirty o.core o.vault o.w (clean h)
  dsimp only
  split
  · obtain ⟨pd, po, pe, pc⟩ := poisonWord_keeps (s := t) o.word
    exact ⟨po.trans (agents.owners.trans owners), pe.trans (agents.errs.trans errs), pd.trans data, fun h => by
      rw [core_congr pc]; exact side h⟩
  · exact ⟨agents.owners.trans owners, agents.errs.trans errs, data, side⟩

theorem ownershipRecall_hit {o : Owner} {pa : Nat} (ho : s.owners = [o]) (he : s.errs = [])
    (le : 4 * o.word + 4 ≤ 0x9000000000) (apart : ApartFromTable s (4 * o.word)) (lo : 4 * o.word < pa + 4) (hi : pa < 4 * o.word + 4) :
    exec (.ownershipRecall pa) s = .next (s.recallOwner (s.hostAttr pa) o) := by
  obtain ⟨-, errs, -⟩ := recallOwner_only ho he le apart (s.hostAttr pa)
  have one : s.recallThose (fun p => none ≠ some (EntId.mk p.core p.task p.n)) (s.hostAttr pa) pa 4 = s.recallOwner (s.hostAttr pa) o := by
    simp [State.recallThose, ho, lo, hi]
  show Host.Outcome.next (State.findMem (s.recallThose (fun p => none ≠ some (EntId.mk p.core p.task p.n)) (s.hostAttr pa) pa 4) pa 4) = _
  rw [one, findMem_of_nil errs]

theorem ownershipRecall_miss {o : Owner} {pa : Nat} (ho : s.owners = [o]) (he : s.errs = [])
    (off : pa + 4 ≤ 4 * o.word ∨ 4 * o.word + 4 ≤ pa) : exec (.ownershipRecall pa) s = .next s := by
  have none_ : s.recallThose (fun p => none ≠ some (EntId.mk p.core p.task p.n)) (s.hostAttr pa) pa 4 = s := by
    have out : (decide (4 * o.word < pa + 4) && decide (pa < 4 * o.word + 4)) = false := by
      rw [Bool.and_eq_false_iff, decide_eq_false_iff_not, decide_eq_false_iff_not]
      omega
    simp [State.recallThose, ho, out]
  show Host.Outcome.next (State.findMem (s.recallThose (fun p => none ≠ some (EntId.mk p.core p.task p.n)) (s.hostAttr pa) pa 4) pa 4) = _
  rw [none_, findMem_of_nil he]

end Sys2Proof.Claims
end

section Settled
open Sys2Proof Sys2Proof.Machine Sys2Proof.Claims

/-- Settles O37: a recall without a dirty word only drops the copies that it names; the one dirty word goes home first. -/
theorem recallsWriteBack : Obligations.RecallsWriteBack := by
  unfold Obligations.RecallsWriteBack
  intro s ho he wf side hits inv clean onlyDirty writtenBack
  have one_dirty {k : Nat} {v : Bool} {w : Nat} (hd : (side s k v w).dirty = true) (h : onlyDirty k v w) : OnlyDirty s k v w := ⟨hd, h⟩
  refine ⟨fun sl d hd => ?_, fun sl none_ => ?_, fun line => ?_, fun o pa => ?_⟩
  · intro named
    let q (m : MapInfo) (pa : Nat) (a : Attr) : Bool :=
      a.dir && m.task = d.task && m.n = d.n && m.b.gen = d.gen && homeSlice a pa = sl.val
    have q_iff (m : MapInfo) (pa : Nat) (a : Attr) : q m pa a = true ↔ named m pa a := by
      simp [q, named, Attr.dir, and_assoc]
    let u := s.recallWords d.core (s.at d.core q)
    have eq : exec (.dirRecall sl) s = .next { u with dir := u.dir.filter (fun e => e ≠ d) } := by
      show Host.Outcome.next (s.dirRecall sl.val) = _
      simp only [State.dirRecall, hd]
      rfl
    have agents : Unowned s.mon s.dir u := Unowned.recallWords ⟨ho, he, rfl, rfl⟩ d.core _
    refine ⟨_, eq, congrArg (List.filter _) agents.dir, fun cl => ?_, fun v w m pa a hdirty only hm hx hxw le apart hn => ?_⟩
    · have form : u = s.clearCopiesOf d.core (s.at d.core q) := recallWords_of_clean wf (fun v w => cl d.core v w) _
      have core (k : Nat) : State.core { u with dir := u.dir.filter (fun e => e ≠ d) } k = (s.clearCopiesOf d.core (s.at d.core q)).core k := by
        rw [← form]; rfl
      refine ⟨(congrArg State.dram form).trans (ReadOnly.clearCopiesOf _ _).dram, fun k v w => ?_⟩
      have law := side_clearCopiesOf wf d.core (s.at d.core q) k v w
      rw [← core] at law
      have test : (k = d.core ∧ (s.core k).mapTest (s.at d.core q) v w = true) ↔ k = d.core ∧ hits k named v w := by
        refine and_congr_right fun hk => ?_
        subst hk
        exact mapTest_at_iff q_iff
      refine ⟨fun hk hit => law.trans (if_pos ⟨test.2 ⟨hk, hit⟩, cl k v w⟩), fun miss => law.trans (if_neg fun h => miss (test.1 h.1))⟩
    · have lease : a.lease = false := by simp [Attr.lease, hn.1]
      have sent := recallWords_dirty (p := s.at d.core q) ⟨ho, he, hxw, le, apart, lease⟩ wf (one_dirty hdirty only) hm
        ((at_of_ok hx).trans ((q_iff m pa a).2 hn))
      exact ⟨sent.dram, sent.valid, sent.clean d.core v w⟩
  · have no : s.dir.find? (fun e => e.slice = sl.val) = none := List.find?_eq_none.2 fun e h => by simpa using none_ e h
    show Host.Outcome.next (s.dirRecall sl.val) = _
    simp only [State.dirRecall, no]
  · intro named
    have waits_iff := hostWaits_line (s := s) line
    refine ⟨fun data cl target len => ?_, ?_, ?_, ?_⟩
    · obtain ⟨N, cleared, -⟩ := snoopLine_clean wf cl line
      obtain ⟨dram, host⟩ := writeData_host (s := s.snoopLine line) target len
      refine ⟨_, hostSnoop_host len target, dram.trans (congrArg State.dram cleared.rest :), fun k => ?_⟩
      rw [host, show (s.snoopLine line).hostMem = s.hostMem from (congrArg State.hostMem cleared.rest :), rd_byteSpans]
    · exact fun data h wait => hostSnoop_waits h data wait
    · intro data cl idle free le apart len
      have target : paTarget line = 0 := paTarget_of_le le (by decide)
      have go : ¬HostWaits s (64 * (line / 64)) 64 := by
        rw [waits_iff]
        exact fun h => h.elim (fun w => w idle) fun b => Bool.false_ne_true (free.symm.trans b)
      obtain ⟨m, eq⟩ := hostSnoop_goes len target go
      have charged := charged_snooped (s := { s with served := m }) line
      obtain ⟨N, cleared, -⟩ := snoopLine_clean (s := { s with served := m }) wf cl line
      have mon : (snooped { s with served := m } line).mon = s.mon := charged.mon.trans (congrArg State.mon cleared.rest :)
      obtain ⟨wrote, dram⟩ := writeData_dram (s := snooped { s with served := m } line) (byteSpans line data) fun p hp => by
        obtain ⟨lo, hi, hn, -⟩ := mem_byteSpans hp
        have dev := InDram.of_apart (p := p) apart le (by omega) (by omega) (by omega)
        exact ⟨dev.1, fun b hb => dev.2 b (mon ▸ hb)⟩
      refine ⟨_, eq, wrote.hostMem.trans (charged.hostMem.trans (congrArg State.hostMem cleared.rest :)), fun k => ?_⟩
      rw [dram, show (snooped { s with served := m } line).dram = s.dram from charged.dram.trans (congrArg State.dram cleared.rest :), rd_byteSpans]
    · intro idle
      obtain ⟨m, u, eq, cores, dram⟩ := hostSnoop_bare line fun dev => by
        rw [waits_iff]
        obtain ⟨none_, free⟩ := idle dev
        exact fun h => h.elim (fun w => w none_) fun b => Bool.false_ne_true (free.symm.trans b)
      have tables : SameTables s { s with served := m } := ⟨ho, ho, rfl⟩
      have core (k : Nat) := core_congr cores k
      refine ⟨u, eq, fun cl => ?_, fun k v w e pa a hdirty only hm hx hxw le apart hn => ?_⟩
      · obtain ⟨N, cleared, iff_⟩ := snoopLine_clean (s := { s with served := m }) wf cl line
        have same (k : Nat) (v : Bool) (w : Nat) : N k v w ↔ hits k named v w := by
          rw [iff_]
          unfold MapHits
          simp only [tables.mapXlate]
          rfl
        refine ⟨dram.trans (congrArg State.dram cleared.rest :), fun k v w => ⟨fun hit => ?_, fun miss => ?_⟩⟩
        · exact (congrArg (Core.side · v w) (core k)).trans (cleared.gone k v w ((same k v w).2 hit) (cl k v w))
        · exact (congrArg (Core.side · v w) (core k)).trans (cleared.other k v w fun h => miss ((same k v w).1 h.1))
      · have lease : a.lease = false := by simp [Attr.lease, hn.1]
        have sent := snoopLine_dirty (s := { s with served := m }) (line := line)
          ⟨ho, he, (tables.mapXlate k e true).trans hxw, le, apart, lease⟩ wf ⟨hdirty, only⟩ hm
          ((tables.mapXlate k e false).trans hx) hn
        refine ⟨dram.trans sent.dram, ?_, ?_⟩
        · exact (congrArg (fun c : Core => (c.side v w).valid) (core k)).trans sent.valid
        · exact (congrArg (fun c : Core => (c.side v w).dirty) (core k)).trans (sent.clean k v w)
  · intro s1 le apart
    refine ⟨fun lo hi => ?_, fun off => ownershipRecall_miss (s := s1) rfl he off⟩
    obtain ⟨owners, -, dram, clean⟩ := recallOwner_only (s := s1) rfl he le apart (s1.hostAttr pa)
    refine ⟨_, ownershipRecall_hit (s := s1) rfl he le apart lo hi, owners, fun cap => ⟨dram.trans ?_, clean cap⟩, fun va v cap => dram.trans ?_⟩
    · simp only [Owner.bytes, cap]
      rfl
    · simp only [Owner.bytes, cap]
      rfl

end Settled

section
/-! SUPPORT. The words of a matrix routine: where a call stands, how it faults, waits and reads the scratchpad (R230, R236 to R239, R245). -/

namespace Sys2Proof.Claims
open Sys2Proof Sys2Proof.Machine

variable {s t u : State} {c e a f : Nat} {p : Vector Word 8} {ws : BitVec 8} {r : MRun}

/-! ### The engine of a core -/

theorem SMap.put_put {α : Type} (m : SMap α) (n : Nat) (v w : α) : SMap.put (SMap.put m n v) n w = SMap.put m n w := by
  induction m with
  | nil => simp [SMap.put]
  | cons b r ih =>
    simp only [SMap.put]
    split
    · simp [SMap.put]
    · split
      · simp [SMap.put]
      · next h h' => simp [SMap.put, h, h', ih]

theorem setCore_setCore {v w : Core} (hv : v ≠ Core.none) (hw : w ≠ Core.none) : (s.setCore c v).setCore c w = s.setCore c w := by
  simp only [State.setCore, SMap.set, if_neg hv, if_neg hw, SMap.put_put]

theorem mtx_setMtx (m : Mtx) (k : Nat) : ((s.setMtx c m).core k) = if k = c then { s.core c with mtx := m } else s.core k :=
  core_setCore s c k _

theorem modMtx_eq (g : Mtx → Mtx) : s.modMtx c g = s.setMtx c (g (s.mtx c)) := rfl

theorem mtx_of_set (m : Mtx) : (s.setMtx c m).mtx c = m := congrArg Core.mtx ((mtx_setMtx m c).trans (if_pos rfl))

theorem ne_none_of_run {k : Core} (h : k.mtx.run ≠ none) : k ≠ Core.none := fun e => h (by rw [e]; rfl)

/-- The second of two settings of an engine with a running command stands. -/
theorem setMtx_setMtx {m m' : Mtx} (h : m.run ≠ none) (h' : m'.run ≠ none) : (s.setMtx c m).setMtx c m' = s.setMtx c m' := by
  have core : (s.setMtx c m).core c = { s.core c with mtx := m } := (mtx_setMtx m c).trans (if_pos rfl)
  rw [State.setMtx, State.modCore, core]
  exact setCore_setCore (ne_none_of_run h) (ne_none_of_run h')

theorem modRun_of_run {m : Mtx} (hm : s.mtx c = m) (h : m.run = some r) (g : MRun → MRun) :
    s.modRun c g = s.setMtx c { m with run := some (g r) } := by
  rw [State.modRun, modMtx_eq, hm, h]
  rfl

/-- Which team an engine works for does not depend on the engines. -/
theorem runTeam_setMtx (m : Mtx) (r : MRun) : (s.setMtx c m).runTeam r = s.runTeam r := by
  have core := mtx_setMtx (s := s) (c := c) m (ctxCore r.cmd.x)
  show ((s.setMtx c m).core (ctxCore r.cmd.x)).team? (s.ctx r.cmd.x).task = (s.core (ctxCore r.cmd.x)).team? (s.ctx r.cmd.x).task
  rw [core]
  split
  · next h => rw [h]; rfl
  · rfl

/-! ### A call at a word -/

/-- A call runs on the issuing core's engine and has not ended. -/
structure AtWord (s : State) (c : Nat) (r : MRun) (e a f : Nat) (p : Vector Word 8) (ws : BitVec 8) (team : Team) : Prop where
  core : ctxCore s.issue.x = c
  run : (s.mtx c).run = some r
  call : r.cmd.kind = .call e a f p ws
  going : r.ended = false
  team : s.runTeam r = some team

variable {team : Team}

theorem AtWord.onCall (h : AtWord s c r e a f p ws team) (g : Nat → MRun → State) : onCall s g = g c r := by
  obtain ⟨core, run, call, going, -⟩ := h
  have run' : s.runOf c = some r := run
  simp only [Machine.onCall, core, run', call, going, Bool.false_eq_true, if_false]

/-- The word waits: it has issued and not completed. -/
theorem AtWord.hold (h : AtWord s c r e a f p ws team) : s.hold c = s.setMtx c { s.mtx c with run := some { r with begun := true } } :=
  modRun_of_run rfl h.run _

/-! ### Faults (R239, R245) -/

/-- Fields of MSTAT after its first fault. -/
theorem mstat_fields {low code fe word row : Nat} (hl : low < 2 ^ 8) (hc : code < 16) :
    let v := (BitVec.ofNat 64 (low + code * 2 ^ 8 + b2n false * 2 ^ 12 + fe % 64 * 2 ^ 13 + word % 512 * 2 ^ 19 + row % 32 * 2 ^ 28)).toNat
    v / 2 ^ 8 % 16 = code ∧ v / 2 ^ 13 % 64 = fe % 64 ∧ v / 2 ^ 19 % 512 = word % 512 ∧ v / 2 ^ 28 % 32 = row % 32 := by
  have h1 := Nat.mod_lt fe (show 0 < 64 by decide)
  have h2 := Nat.mod_lt word (show 0 < 512 by decide)
  have h3 := Nat.mod_lt row (show 0 < 32 by decide)
  have none_ : b2n false = 0 := rfl
  rw [none_, BitVec.toNat_ofNat]
  generalize fe % 64 = x at h1 ⊢
  generalize word % 512 = y at h2 ⊢
  generalize row % 32 = z at h3 ⊢
  omega

/-- The call ended with a fault at its word: u has engine q otherwise, and MSTAT keeps the first fault. -/
structure Faulted (s u : State) (c : Nat) (r : MRun) (q : Mtx) (e code row : Nat) : Prop where
  mtx : (u.core c).mtx = { q with run := some (r.finish q.cyc) }
  first : (s.ctx r.cmd.x).mstat.toNat / 2 ^ 8 % 16 = 0 → (u.ctx r.cmd.x).mstat.toNat / 2 ^ 8 % 16 = code ∧
    (u.ctx r.cmd.x).mstat.toNat / 2 ^ 13 % 64 = e % 64 ∧ (u.ctx r.cmd.x).mstat.toNat / 2 ^ 19 % 512 = r.w % 512 ∧
    (u.ctx r.cmd.x).mstat.toNat / 2 ^ 28 % 32 = row % 32
  later : (s.ctx r.cmd.x).mstat.toNat / 2 ^ 8 % 16 ≠ 0 → u.ctx r.cmd.x = s.ctx r.cmd.x

theorem mFault_faulted {q : Mtx} (hq : s.mtx c = q) (run : q.run = some r) (call : r.cmd.kind = .call e a f p ws) {code : Nat}
    (hc : code < 16) (row : Nat) : Faulted s (s.mFault c code r.w row) c r q e code row := by
  have run' : s.runOf c = some r := (congrArg Mtx.run hq).trans run
  let rec_ (k : Ctx) : Ctx :=
    if bitsOf k.mstat.toNat 8 4 = 0 then
      { k with mstat := BitVec.ofNat 64 (k.mstat.toNat % 2 ^ 8 + code * 2 ^ 8 + b2n false * 2 ^ 12 + e % 64 * 2 ^ 13 +
          r.w % 512 * 2 ^ 19 + row % 32 * 2 ^ 28) }
    else k
  have recorded : s.mRecord c code r.w row = s.modCtx r.cmd.x rec_ := by
    simp only [State.mRecord, run', call]
    rfl
  have form : s.mFault c code r.w row = (s.modCtx r.cmd.x rec_).setMtx c { q with run := some (r.finish (s.mtx c).cyc) } := by
    rw [State.mFault, recorded]
    exact modRun_of_run (s := s.modCtx r.cmd.x rec_) hq run _
  have ctx : (s.mFault c code r.w row).ctx r.cmd.x = rec_ (s.ctx r.cmd.x) := by
    rw [form]
    exact State.setCtx_ctx_same _ _ _
  refine ⟨?_, fun zero => ?_, fun kept => ?_⟩
  · rw [form, hq]
    exact mtx_of_set _
  · have new : rec_ (s.ctx r.cmd.x) = _ := if_pos zero
    rw [ctx, new]
    exact mstat_fields (Nat.mod_lt _ (by decide)) hc
  · rw [ctx]
    exact if_neg kept

/-- A fault of the call at hand. -/
theorem AtWord.faults (h : AtWord s c r e a f p ws team) {code : Nat} (hc : code < 16) (row : Nat) :
    Faulted s (s.mFault c code r.w row) c r (s.mtx c) e code row :=
  mFault_faulted rfl h.run h.call hc row

/-! ### Reads of the scratchpad (R105, R238, R239) -/

/-- A word holds a byte of n bytes at an offset. -/
def Covers (lo n w : Nat) : Prop := lo / 4 ≤ w ∧ 4 * w < lo + n

/-- The words that the engine tests for n bytes at an offset. -/
def readWords (lo n : Nat) : List Nat :=
  ((List.range (lo % 4 + n + 3)).filterMap (fun k => if k % 4 = 0 then some (lo / 4 + k / 4) else none)).filter (fun w => 4 * w < lo + n)

theorem mem_readWords {lo n w : Nat} : w ∈ readWords lo n ↔ Covers lo n w := by
  simp only [readWords, List.mem_filter, List.mem_filterMap, List.mem_range, decide_eq_true_eq, Covers]
  constructor
  · rintro ⟨⟨k, -, hk⟩, hi⟩
    split at hk
    · cases hk; exact ⟨by omega, hi⟩
    · cases hk
  · rintro ⟨lo_, hi⟩
    refine ⟨⟨4 * (w - lo / 4), by omega, ?_⟩, hi⟩
    rw [if_pos (by omega)]
    congr 1
    omega

/-- Every word of n bytes is usable. -/
def Whole (s : State) (c lo n : Nat) : Prop := ∀ w, Covers lo n w → s.usable c false w = true

/-- No word of n bytes is poisoned. -/
def Sound (s : State) (c lo n : Nat) : Prop := ∀ w, Covers lo n w → s.poisoned ⟨c, false, 4 * w⟩ = false

section Reads

variable {o n : Nat}

theorem engineFind_of_nil (h : s.errs = []) (r : MRun) : s.engineFind c r o n = s := by
  unfold State.engineFind
  split
  · exact findStore_of_nil h _ _ _ _
  · rfl

theorem engineRead_eq (ht : s.runTeam r = some team) (fits : o + n ≤ team.spadSize) : s.engineRead c r o n =
    match (readWords (team.spadBase + o) n).find? (fun w => !s.usable c false w) with
    | some w =>
      match r.bad with
      | some b => .fault (if b = 4 then 5 else 6)
      | none => .wait ((s.engFill c ⟨c, false, 4 * w⟩ 4).2.modRun c (fun r => { r with fill := (s.engFill c ⟨c, false, 4 * w⟩ 4).1 }))
    | none =>
      if (readWords (team.spadBase + o) n).any (fun w => s.poisoned ⟨c, false, 4 * w⟩) then .fault 6
      else .ok (Memory.rdN (s.core c).spad (team.spadBase + o) n) := by
  simp only [State.engineRead, ht]
  exact if_neg (Nat.not_lt.2 fits)

theorem engineRead_range (ht : s.runTeam r = some team) (off : team.spadSize < o + n) : s.engineRead c r o n = .fault 1 := by
  simp only [State.engineRead, ht]
  exact if_pos off

theorem find_of_whole (h : Whole s c (team.spadBase + o) n) :
    (readWords (team.spadBase + o) n).find? (fun w => !s.usable c false w) = none :=
  List.find?_eq_none.2 fun w hw => by simp [h w (mem_readWords.1 hw)]

theorem find_of_not_whole (h : ¬Whole s c (team.spadBase + o) n) : ∃ w, Covers (team.spadBase + o) n w ∧ s.usable c false w = false ∧
    (readWords (team.spadBase + o) n).find? (fun w => !s.usable c false w) = some w := by
  cases hf : (readWords (team.spadBase + o) n).find? (fun w => !s.usable c false w) with
  | none =>
    refine absurd (fun w hw => ?_) h
    simpa using List.find?_eq_none.1 hf w (mem_readWords.2 hw)
  | some w => exact ⟨w, mem_readWords.1 (List.mem_of_find?_eq_some hf), by simpa using List.find?_some hf, rfl⟩

theorem engineRead_ok (ht : s.runTeam r = some team) (fits : o + n ≤ team.spadSize) (whole : Whole s c (team.spadBase + o) n)
    (sound : Sound s c (team.spadBase + o) n) : s.engineRead c r o n = .ok (Memory.rdN (s.core c).spad (team.spadBase + o) n) := by
  rw [engineRead_eq ht fits, find_of_whole whole]
  exact if_neg fun bad => by
    obtain ⟨w, hw, hp⟩ := List.any_eq_true.1 bad
    exact Bool.false_ne_true ((sound w (mem_readWords.1 hw)).symm.trans hp)

theorem engineRead_poison (ht : s.runTeam r = some team) (fits : o + n ≤ team.spadSize) (whole : Whole s c (team.spadBase + o) n)
    (bad : ¬Sound s c (team.spadBase + o) n) : s.engineRead c r o n = .fault 6 := by
  rw [engineRead_eq ht fits, find_of_whole whole]
  refine if_pos (by_contra fun none_ => bad fun w hw => ?_)
  rw [Bool.not_eq_true, List.any_eq_false] at none_
  simpa using none_ w (mem_readWords.2 hw)

theorem engineRead_failed (ht : s.runTeam r = some team) (fits : o + n ≤ team.spadSize) (not_ : ¬Whole s c (team.spadBase + o) n)
    {b : Nat} (hb : r.bad = some b) : s.engineRead c r o n = .fault (if b = 4 then 5 else 6) := by
  obtain ⟨w, -, -, hf⟩ := find_of_not_whole not_
  rw [engineRead_eq ht fits, hf, hb]

/-- The fill of one unusable word that an engine starts or joins: its operation, and nothing else. -/
theorem engFill_one {w : Nat} (h : s.usable c false w = false) : ∃ k id os m, (s.core c).mapOf false w = some k ∧
    s.engFill c ⟨c, false, 4 * w⟩ 4 = (some id, { s with ops := os, nextOp := m }) ∧
    ∃ o ∈ os, o.id = id ∧ o.core = c ∧ o.task = k.task ∧ o.kind = .fill k.n ∧ o.va = k.va / 64 * 64 := by
  have word : wordsOf (4 * w) 4 = [w] := by
    rw [wordsOf, if_pos (by omega), Nat.mul_div_cancel_left w (by decide)]
  cases hk : (s.core c).mapOf false w with
  | none =>
    have yes : s.usable c false w = true := by simp only [State.usable, hk]
    exact absurd (h.symm.trans yes) Bool.false_ne_true
  | some k =>
    have some_ : s.fillWords (ctxOf (16 * c)) 0 ⟨c, false, 4 * w⟩ 4 0 =
        (some (s.startFill (ctxOf (16 * c)) 0 c k 0).1, (s.startFill (ctxOf (16 * c)) 0 c k 0).2) := by
      simp only [State.fillWords, State.fillSome, word, List.foldl_cons, List.foldl_nil, h, hk, Bool.false_eq_true, if_false]
    have started : ∃ id os m, s.startFill (ctxOf (16 * c)) 0 c k 0 = (id, { s with ops := os, nextOp := m }) ∧
        ∃ o ∈ os, o.id = id ∧ o.core = c ∧ o.task = k.task ∧ o.kind = .fill k.n ∧ o.va = k.va / 64 * 64 := by
      unfold State.startFill
      cases hf : s.fillOf c k.task k.n k.va with
      | some o =>
        have found := List.find?_some hf
        simp only [Bool.and_eq_true, decide_eq_true_eq] at found
        obtain ⟨⟨⟨core, task⟩, kind⟩, va⟩ := found
        exact ⟨o.id, s.ops, s.nextOp, rfl, o, List.mem_of_find?_eq_some hf, rfl, core, task, kind, va⟩
      | none => exact ⟨_, _, _, rfl, _, List.mem_append_right _ (List.mem_singleton.2 rfl), rfl, rfl, rfl, rfl, rfl⟩
    obtain ⟨id, os, m, eq, o, mem, rest⟩ := started
    refine ⟨k, id, os.map (fun o => if s.nextOp ≤ o.id then { o with eng := true } else o), m, rfl, ?_,
      if s.nextOp ≤ o.id then { o with eng := true } else o, List.mem_map.2 ⟨o, mem, rfl⟩, ?_⟩
    · simp only [State.engFill, some_, eq]
    · split <;> exact rest

end Reads

end Sys2Proof.Claims
end

section
/-! SUPPORT. LDB, BIAS and the rows of PASS and PASSW (R232, R236, R238, R239). -/

namespace Sys2Proof.Claims
open Sys2Proof Sys2Proof.Machine

variable {s u : State} {c e a f : Nat} {p : Vector Word 8} {ws : BitVec 8} {r : MRun} {team : Team}

/-! ### LDB (R236, R238) -/

theorem bank_toNat (m : Mtx) (b : BitVec 1) : m.bank b.toNat = if b = 0 then m.bank0 else m.bank1 := by
  simp only [Mtx.bank, ← BitVec.toNat_inj, BitVec.toNat_zero, BitVec.ofNat_eq_ofNat]

theorem setBank_toNat (m : Mtx) (b : BitVec 1) (k : Bank) :
    m.setBank b.toNat k = if b = 0 then { m with bank0 := k } else { m with bank1 := k } := by
  simp only [Mtx.setBank, ← BitVec.toNat_inj, BitVec.toNat_zero, BitVec.ofNat_eq_ofNat]

theorem setBank_past (m : Mtx) (n : Nat) (k : Bank) : (m.setBank n k).past = m.past := by
  rw [Mtx.setBank]
  split <;> rfl

/-- A taken bank is EMPTY, and a load of it goes on without it. -/
theorem takeBank_eq (m : Mtx) (n : Nat) : m.takeBank n = { m.setBank n { m.bank n with st := .empty } with
    past := m.past ++ (match (m.bank n).st with
      | .loading o x y w z => [⟨o, x, y, w, z⟩]
      | _ => []) } := by
  have past := setBank_past m n { m.bank n with st := .empty }
  unfold Mtx.takeBank
  simp only
  generalize m.setBank n _ = q at past ⊢
  rw [← past]
  cases (m.bank n).st with
  | loading o x y w z => rfl
  | empty => simp only [List.append_nil]
  | loaded => simp only [List.append_nil]

/-- A bank that is set leaves the run, the time and the formats. -/
theorem setBank_same (m : Mtx) (n : Nat) (k : Bank) :
    (m.setBank n k).run = m.run ∧ (m.setBank n k).cyc = m.cyc ∧ (m.setBank n k).ft = m.ft := by
  rw [Mtx.setBank]
  split <;> exact ⟨rfl, rfl, rfl⟩

theorem takeBank_same (m : Mtx) (n : Nat) :
    (m.takeBank n).run = m.run ∧ (m.takeBank n).cyc = m.cyc ∧ (m.takeBank n).ft = m.ft := by
  rw [takeBank_eq]
  exact setBank_same m n _

section Ldb

variable (b : BitVec 1) (fsel : BitVec 5) (ma : BitVec 3)

/-- The format entry that LDB names. -/
def ldbPair (m : Mtx) (fsel : BitVec 5) (f : Nat) : BitVec 10 := m.ftAt (if fsel.toNat < 16 then fsel.toNat else f)

/-- The vault offset that LDB names. -/
def ldbOffset (r : MRun) (ma : BitVec 3) : Nat := (r.m[ma.toNat]'ma.isLt).toNat

theorem ldbPair_eq (m : Mtx) (f : Nat) :
    ldbPair m fsel f = SMap.get (0 : BitVec 10) m.ft (if fsel.toNat < 16 then fsel.toNat else f % 16) := by
  rw [ldbPair, Mtx.ftAt]
  split
  · next h => rw [Nat.mod_eq_of_lt h]
  · rfl

/-- The pair that LDB names has no mode. -/
theorem AtWord.ldb_format (h : AtWord s c r e a f p ws team)
    (none_ : modeOf ((ldbPair (s.mtx c) fsel f).setWidth 5) ((ldbPair (s.mtx c) fsel f >>> 5).setWidth 5) = none) :
    execLdb b fsel ma s = .next ((s.setMtx c ((s.mtx c).takeBank b.toNat)).mFault c 3 r.w 0) := by
  have ft : ((s.mtx c).takeBank b.toNat).ftAt (if fsel.toNat < 16 then fsel.toNat else f) = ldbPair (s.mtx c) fsel f := by
    rw [Mtx.ftAt, (takeBank_same _ _).2.2]
    rfl
  simp only [execLdb, h.onCall, modMtx_eq, mtx_of_set, h.call, ft, none_]

variable {md : Mode}

/-- LDB of an accepted pair: the tests of its offset, then the load. -/
theorem AtWord.ldb_mode (h : AtWord s c r e a f p ws team)
    (mode : modeOf ((ldbPair (s.mtx c) fsel f).setWidth 5) ((ldbPair (s.mtx c) fsel f >>> 5).setWidth 5) = some md) :
    execLdb b fsel ma s = .next (
      if 2 ^ 24 ≤ ldbOffset r ma ∨ team.vaultSize < ldbOffset r ma + 768 * md.rb then
        (s.setMtx c ((s.mtx c).takeBank b.toNat)).mFault c 1 r.w 0
      else if ldbOffset r ma % 768 ≠ 0 then (s.setMtx c ((s.mtx c).takeBank b.toNat)).mFault c 2 r.w 0
      else s.setMtx c { ((s.mtx c).takeBank b.toNat).setBank b.toNat
        ⟨.loading (ldbOffset r ma) 0 md.rb r.w ((s.mtx c).cyc + 1), (ldbPair (s.mtx c) fsel f).setWidth 5,
          (ldbPair (s.mtx c) fsel f >>> 5).setWidth 5, []⟩ with run := some r.nextWord }) := by
  obtain ⟨run, cyc, formats⟩ := takeBank_same (s.mtx c) b.toNat
  have ft : ((s.mtx c).takeBank b.toNat).ftAt (if fsel.toNat < 16 then fsel.toNat else f) = ldbPair (s.mtx c) fsel f := by
    rw [Mtx.ftAt, formats]
    rfl
  have has (m : Mtx) (hm : m.run = some r) : m.run ≠ none := hm ▸ Option.some_ne_none r
  have taken : ((s.mtx c).takeBank b.toNat).run = some r := run.trans h.run
  have start (k : Bank) : ((s.setMtx c ((s.mtx c).takeBank b.toNat)).setMtx c (((s.mtx c).takeBank b.toNat).setBank b.toNat k)).modRun c
      MRun.nextWord = s.setMtx c { ((s.mtx c).takeBank b.toNat).setBank b.toNat k with run := some r.nextWord } := by
    have set_ := (setBank_same ((s.mtx c).takeBank b.toNat) b.toNat k).1.trans taken
    rw [setMtx_setMtx (has _ taken) (has _ set_), modRun_of_run (mtx_of_set _) set_]
    exact setMtx_setMtx (has _ set_) (Option.some_ne_none _)
  simp only [execLdb, h.onCall, modMtx_eq, mtx_of_set, h.call, ft, mode, runTeam_setMtx, h.team, start, cyc, ldbOffset,
    Bool.or_eq_true, decide_eq_true_eq]
  rfl

/-- A fault of LDB, with its bank EMPTY. -/
theorem AtWord.ldb_faults (h : AtWord s c r e a f p ws team) {code : Nat} (hc : code < 16) :
    Faulted s ((s.setMtx c ((s.mtx c).takeBank b.toNat)).mFault c code r.w 0) c r ((s.mtx c).takeBank b.toNat) e code 0 := by
  obtain ⟨mtx, first, later⟩ := mFault_faulted (s := s.setMtx c ((s.mtx c).takeBank b.toNat)) (mtx_of_set _)
    ((takeBank_same _ _).1.trans h.run) h.call hc 0
  exact ⟨mtx, first, later⟩

end Ldb

/-! ### What follows a read of the scratchpad (R239) -/

/-- A read that ends the call, waits, or goes on with its bytes. -/
def afterRead (s : State) (c : Nat) (r : MRun) (row : Nat) (x : ERead) (go : Nat → State) : State :=
  match x with
  | .fault code => s.mFault c code r.w row
  | .wait u => u.hold c
  | .ok v => go v

/-- The word waits for a fill of one word of n bytes, started or joined. -/
def Fills (s : State) (c : Nat) (r : MRun) (lo n : Nat) (u : State) : Prop :=
  ∃ w k id, Covers lo n w ∧ (s.core c).mapOf false w = some k ∧
    (u.core c).mtx = { s.mtx c with run := some { r with begun := true, fill := some id } } ∧
    (∃ o ∈ u.ops, o.id = id ∧ o.core = c ∧ o.task = k.task ∧ o.kind = .fill k.n ∧ o.va = k.va / 64 * 64) ∧
    u = { s with cores := u.cores, ops := u.ops, nextOp := u.nextOp }

/-- A read of n bytes waits for a word that is not usable, or ends the call when a fill failed or a byte is poisoned. -/
structure Reads (s : State) (c : Nat) (r : MRun) (e lo n row : Nat) (u : State) : Prop where
  fill : ¬Whole s c lo n → r.bad = none → Fills s c r lo n u
  failed : ∀ k, ¬Whole s c lo n → r.bad = some k → Faulted s u c r (s.mtx c) e (if k = 4 then 5 else 6) row
  poison : Whole s c lo n → ¬Sound s c lo n → Faulted s u c r (s.mtx c) e 6 row

section Reading

variable {o n : Nat}

theorem AtWord.fills (h : AtWord s c r e a f p ws team) (fits : o + n ≤ team.spadSize) (not_ : ¬Whole s c (team.spadBase + o) n)
    (good : r.bad = none) : ∃ u, s.engineRead c r o n = .wait u ∧ Fills s c r (team.spadBase + o) n (u.hold c) := by
  obtain ⟨w, hw, unusable, hf⟩ := find_of_not_whole not_
  obtain ⟨k, id, os, m, hk, started, op⟩ := engFill_one unusable
  let s0 : State := { s with ops := os, nextOp := m }
  let r1 : MRun := { r with fill := some id }
  let m1 : Mtx := { s.mtx c with run := some r1 }
  have waits : s.engineRead c r o n = .wait (s0.setMtx c m1) := by
    rw [engineRead_eq h.team fits, hf, good]
    show ERead.wait _ = _
    rw [started]
    exact congrArg ERead.wait (modRun_of_run (s := s0) rfl h.run _)
  have held : (s0.setMtx c m1).hold c = s0.setMtx c { m1 with run := some { r1 with begun := true } } :=
    (modRun_of_run (mtx_of_set m1) rfl _).trans (setMtx_setMtx (Option.some_ne_none _) (Option.some_ne_none _))
  exact ⟨_, waits, w, k, id, hw, hk, by rw [held]; exact mtx_of_set _, by rw [held]; exact op, by rw [held]; rfl⟩

theorem AtWord.reads (h : AtWord s c r e a f p ws team) (fits : o + n ≤ team.spadSize) (row : Nat) (go : Nat → State) :
    Reads s c r e (team.spadBase + o) n row (afterRead s c r row (s.engineRead c r o n) go) := by
  refine ⟨fun not_ good => ?_, fun k not_ bad => ?_, fun whole bad => ?_⟩
  · obtain ⟨u, waits, fills⟩ := h.fills fits not_ good
    rw [waits]
    exact fills
  · rw [engineRead_failed h.team fits not_ bad]
    exact h.faults (by split <;> decide) row
  · rw [engineRead_poison h.team fits whole bad]
    exact h.faults (by decide) row

theorem AtWord.read_ok (h : AtWord s c r e a f p ws team) (fits : o + n ≤ team.spadSize) (whole : Whole s c (team.spadBase + o) n)
    (sound : Sound s c (team.spadBase + o) n) (row : Nat) (go : Nat → State) :
    afterRead s c r row (s.engineRead c r o n) go = go (Memory.rdN (s.core c).spad (team.spadBase + o) n) := by
  rw [engineRead_ok h.team fits whole sound]
  rfl

end Reading

/-! ### BIAS (R235, R238, R239) -/

section Bias

variable (t ma : BitVec 3) (row0 nrm1 : BitVec 5)

/-- The window offset that BIAS names. -/
def biasOffset (r : MRun) (ma : BitVec 3) : Nat := (r.m[ma.toNat]'ma.isLt).toNat % 2 ^ 20

theorem biasOffset_eq : bitsOf (r.m[ma.toNat]'ma.isLt).toNat 0 20 = biasOffset r ma := by
  simp only [bitsOf, biasOffset, pow_zero, Nat.div_one]

theorem AtWord.bias_align (h : AtWord s c r e a f p ws team) (off : biasOffset r ma % 4 ≠ 0) :
    execBias t row0 nrm1 ma s = .next (s.mFault c 2 r.w 0) := by
  simp only [execBias, h.onCall, biasOffset_eq, if_pos off]

theorem AtWord.bias_waits (h : AtWord s c r e a f p ws team) (on : biasOffset r ma % 4 = 0) (wait : s.mayAccess r = false) :
    execBias t row0 nrm1 ma s = .next (s.hold c) := by
  simp only [execBias, h.onCall, biasOffset_eq, on, wait, ne_eq, not_true_eq_false, if_false, Bool.not_false, if_true]

/-- BIAS reads its 768 bytes and goes on. -/
theorem AtWord.bias_reads (h : AtWord s c r e a f p ws team) (on : biasOffset r ma % 4 = 0) (ready : s.mayAccess r = true)
    (calm : s.errs = []) : ∃ go, execBias t row0 nrm1 ma s = .next (afterRead s c r 0 (s.engineRead c r (biasOffset r ma) 768) go) := by
  refine ⟨fun v => rowWord t row0 nrm1 s (fun _ => (s.mtx c).cyc + 2) (fun m r i n =>
    fp32AddR (m.accAt (r.tile t.toNat) (row0.toNat + i) n).toNat (bitsOf v (32 * n) 32)), ?_⟩
  simp only [execBias, h.onCall, biasOffset_eq, on, ready, engineFind_of_nil calm, ne_eq, not_true_eq_false, if_false, Bool.not_true,
    Bool.false_eq_true]
  rfl

end Bias

/-! ### Rows of a pass (R236, R238, R239) -/

theorem rowWrite_run (m : Mtx) (tile row : Nat) (g : Nat → Rounded) (n : Nat) : (rowWrite m tile row g n).1.run = m.run := by
  induction n with
  | zero => rfl
  | succ n ih => exact ih

theorem accKey_of_lt {p l col : Nat} (hp : p < 8) (hl : l < 32) : accKey p l col = p * 6144 + l * 192 + col := by
  rw [accKey, Nat.mod_eq_of_lt hp, Nat.mod_eq_of_lt hl]

/-- A row write sets the first n elements of its row and no other element. -/
theorem rowWrite_acc (m : Mtx) {tile row : Nat} (ht : tile < 8) (hr : row < 32) (g : Nat → Rounded) {p l col : Nat} (hp : p < 8)
    (hl : l < 32) (hcol : col < 192) {n : Nat} (hn : n ≤ 192) : (rowWrite m tile row g n).1.accAt p l col =
      if p = tile ∧ l = row ∧ col < n then BitVec.ofNat 32 (g col).code else m.accAt p l col := by
  induction n with
  | zero => exact (if_neg fun h => Nat.not_lt_zero _ h.2.2).symm
  | succ n ih =>
    show SMap.get 0 (SMap.set 0 _ (accKey tile row n) _) (accKey p l col) = _
    rw [accKey_of_lt ht hr, accKey_of_lt hp hl]
    by_cases hit : p = tile ∧ l = row ∧ col = n
    · obtain ⟨rfl, rfl, rfl⟩ := hit
      rw [SMap.get_set_same, if_pos ⟨rfl, rfl, Nat.lt_succ_self _⟩]
    · rw [SMap.get_set_ne _ _ _ (by omega), ← accKey_of_lt hp hl]
      refine (ih (by omega)).trans ?_
      by_cases before : p = tile ∧ l = row ∧ col < n
      · rw [if_pos before, if_pos ⟨before.1, before.2.1, by omega⟩]
      · rw [if_neg before, if_neg (by omega)]

/-- The engine with a row of a tile written, and the flags of its elements. -/
def wroteRow (m : Mtx) (tile row : Nat) (g : Nat → Rounded) : Mtx × BitVec 5 := rowWrite m tile row g 192

theorem wroteRow_run (m : Mtx) (tile row : Nat) (g : Nat → Rounded) : (wroteRow m tile row g).1.run = m.run :=
  rowWrite_run m tile row g 192

theorem wroteRow_acc (m : Mtx) {tile row : Nat} (ht : tile < 8) (hr : row < 32) (g : Nat → Rounded) {p l col : Nat} (hp : p < 8)
    (hl : l < 32) (hcol : col < 192) : (wroteRow m tile row g).1.accAt p l col =
      if p = tile ∧ l = row then BitVec.ofNat 32 (g col).code else m.accAt p l col := by
  rw [wroteRow, rowWrite_acc m ht hr g hp hl hcol (Nat.le_refl 192)]
  simp only [hcol, and_true]

theorem doRow_eq (s : State) (c : Nat) (x : CtxNo) (tile row : Nat) (g : Nat → Rounded) : s.doRow c x tile row g =
    (s.setMtx c (wroteRow (s.mtx c) tile row g).1).mFlags x (wroteRow (s.mtx c) tile row g).2 := rfl

section Pass

variable (t ma : BitVec 3) (row0 nrm1 : BitVec 5) (b : BitVec 1) (first : Bool)

theorem AtWord.pass_empty (h : AtWord s c r e a f p ws team) (st : ((s.mtx c).bank b.toNat).st = .empty) :
    doPass t row0 nrm1 b ma first s = s.mFault c 4 r.w r.row := by
  simp only [doPass, h.onCall, st]

theorem AtWord.pass_loading (h : AtWord s c r e a f p ws team) {o x y w z : Nat}
    (st : ((s.mtx c).bank b.toNat).st = .loading o x y w z) : doPass t row0 nrm1 b ma first s = s.hold c := by
  simp only [doPass, h.onCall, st]

variable {md : Mode} {bank : Bank}

theorem AtWord.pass_loaded (h : AtWord s c r e a f p ws team) (hb : (s.mtx c).bank b.toNat = bank) (st : bank.st = .loaded)
    (mode : modeOf bank.af bank.bf = some md) : doPass t row0 nrm1 b ma first s =
      s.passRow c r md bank (r.m[ma.toNat]'ma.isLt).toNat ((a + t.toNat) % 8) row0.toNat nrm1.toNat first := by
  have tile : r.tile t.toNat = (a + t.toNat) % 8 := by simp only [MRun.tile, h.call]
  simp only [doPass, h.onCall, hb, st, mode, tile]

end Pass

/-- Pitch of the element rows of a pass's descriptor. -/
def passPitch (d : Nat) : Nat := bitsOf d 40 12

/-- Window offset of the elements of a pass's row at hand. -/
def passElems (r : MRun) (d : Nat) : Nat := d % 2 ^ 20 + r.row * passPitch d

/-- Window offset of the scales of a pass's row at hand. -/
def passScales (r : MRun) (d : Nat) : Nat := bitsOf d 20 20 + r.row * bitsOf d 52 12

section PassRow

variable {md : Mode} {bank : Bank} {d tile row0 nrm1 : Nat} {first : Bool}

/-- The state after a row has entered the array: its elements, flags and landing time. -/
def enteredRow (s : State) (c : Nat) (r : MRun) (md : Mode) (bank : Bank) (tile row0 nrm1 : Nat) (first : Bool) (av sv : Nat) : State :=
  (s.doRow c r.cmd.x tile (row0 + r.row) (fun n =>
    passElem md bank av sv n ((s.mtx c).accAt tile (row0 + r.row) n).toNat first)).modRun c
      (fun r => r.passEntered (s.mtx c).cyc tile row0 nrm1)

theorem passPitch_eq : bitsOf d 40 12 = passPitch d := rfl

theorem passElems_eq : bitsOf d 0 20 + r.row * passPitch d = passElems r d := by
  simp only [bitsOf, passElems, pow_zero, Nat.div_one]

theorem passScales_eq : bitsOf d 20 20 + r.row * bitsOf d 52 12 = passScales r d := rfl

theorem passRow_align (off : passElems r d % 4 ≠ 0 ∨ passPitch d % 4 ≠ 0) :
    s.passRow c r md bank d tile row0 nrm1 first = s.mFault c 2 r.w r.row := by
  simp only [State.passRow, passPitch_eq, passElems_eq]
  exact if_pos (Bool.or_eq_true_iff.2 (off.imp decide_eq_true decide_eq_true))

/-- The row's elements and their pitch are multiples of 4 bytes. -/
def Aligned (r : MRun) (d : Nat) : Prop := passElems r d % 4 = 0 ∧ passPitch d % 4 = 0

theorem passRow_range (ht : s.runTeam r = some team) (on : Aligned r d)
    (off : team.spadSize < passElems r d + md.abytes ∨ team.spadSize < passScales r d + md.nb) :
    s.passRow c r md bank d tile row0 nrm1 first = s.mFault c 1 r.w r.row := by
  obtain ⟨elems, pitch⟩ := on
  simp only [State.passRow, passPitch_eq, passElems_eq, passScales_eq, ht, elems, pitch, ne_eq, not_true_eq_false, decide_false, Bool.or_self,
    Bool.false_eq_true, if_false]
  exact if_pos (by simpa using off)

/-- The row's bytes and scales lie in the window. -/
def Inside (team : Team) (md : Mode) (r : MRun) (d : Nat) : Prop :=
  passElems r d + md.abytes ≤ team.spadSize ∧ passScales r d + md.nb ≤ team.spadSize

theorem passRow_waits (ht : s.runTeam r = some team) (on : Aligned r d) (fits : Inside team md r d)
    (early : (s.mtx c).cyc < r.landsAt tile (row0 + r.row) ∨ s.mayAccess r = false) :
    s.passRow c r md bank d tile row0 nrm1 first = s.hold c := by
  obtain ⟨elems, pitch⟩ := on
  obtain ⟨bytes, scales⟩ := fits
  have inside : (decide (team.spadSize < passElems r d + md.abytes) || decide (team.spadSize < passScales r d + md.nb)) ≠ true := by
    simp only [ne_eq, Bool.or_eq_true, decide_eq_true_eq]
    omega
  simp only [State.passRow, passPitch_eq, passElems_eq, passScales_eq, ht, elems, pitch, ne_eq, not_true_eq_false, decide_false, Bool.or_self,
    Bool.false_eq_true, if_false]
  refine (if_neg inside).trans (if_pos ?_)
  simpa using early

/-- A row that may enter reads its elements, then its scales, then enters. -/
theorem passRow_reads (ht : s.runTeam r = some team) (on : Aligned r d) (fits : Inside team md r d)
    (landed : r.landsAt tile (row0 + r.row) ≤ (s.mtx c).cyc) (ready : s.mayAccess r = true) (calm : s.errs = []) :
    s.passRow c r md bank d tile row0 nrm1 first = afterRead s c r r.row (s.engineRead c r (passElems r d) md.abytes) fun av =>
      afterRead s c r r.row (s.engineRead c r (passScales r d) md.nb) fun sv => enteredRow s c r md bank tile row0 nrm1 first av sv := by
  obtain ⟨elems, pitch⟩ := on
  obtain ⟨bytes, scales⟩ := fits
  have inside : (decide (team.spadSize < passElems r d + md.abytes) || decide (team.spadSize < passScales r d + md.nb)) ≠ true := by
    simp only [ne_eq, Bool.or_eq_true, decide_eq_true_eq]
    omega
  have enter : (decide ((s.mtx c).cyc < r.landsAt tile (row0 + r.row)) || !s.mayAccess r) ≠ true := by
    simp only [ready, Bool.not_true, Bool.or_false, ne_eq, decide_eq_true_eq]
    omega
  simp only [State.passRow, passPitch_eq, passElems_eq, passScales_eq, ht, elems, pitch, ne_eq, not_true_eq_false, decide_false, Bool.or_self,
    Bool.false_eq_true, if_false, engineFind_of_nil calm]
  exact (if_neg inside).trans (if_neg enter)

theorem passEntered_land (h : tile < 8) (inRow : row0 + r.row < 32) (cyc : Nat) :
    SMap.get 0 (r.passEntered cyc tile row0 nrm1).land (tile * 32 + (row0 + r.row)) = cyc + 8 ∧
      (r.passEntered cyc tile row0 nrm1).last = max r.last (cyc + 8) := by
  have key : landKey tile (row0 + r.row) = tile * 32 + (row0 + r.row) := by
    rw [landKey, Nat.mod_eq_of_lt h, Nat.mod_eq_of_lt inRow]
  have landed := SMap.get_set_same 0 r.land (tile * 32 + (row0 + r.row)) (cyc + 8)
  unfold MRun.passEntered
  rw [key]
  split <;> exact ⟨landed, rfl⟩

theorem passEntered_rest (le : r.row ≤ nrm1) (cyc : Nat) :
    { r.passEntered cyc tile row0 nrm1 with land := r.land, last := r.last } =
      if r.row = nrm1 then { r.nextWord with fill := none } else { r with row := r.row + 1, begun := true, fill := none } := by
  unfold MRun.passEntered
  by_cases last : r.row = nrm1
  · rw [if_pos last, if_pos last.ge]
    rfl
  · rw [if_neg last, if_neg (by omega)]

/-- A row that enters: the engine's run and elements, and what it leaves. -/
structure Entered (s u : State) (c : Nat) (r : MRun) (tile row row0 nrm1 : Nat) (g : Nat → Rounded) : Prop where
  run : (u.core c).mtx.run = some (r.passEntered (s.mtx c).cyc tile row0 nrm1)
  acc : ∀ p l col, p < 8 → l < 32 → col < 192 → (u.core c).mtx.accAt p l col =
    if p = tile ∧ l = row then BitVec.ofNat 32 (g col).code else (s.mtx c).accAt p l col
  dram : u.dram = s.dram
  spad : (u.core c).spad = (s.core c).spad
  vault : (u.core c).vault = (s.core c).vault

/-- The engine w with its row written, its flags and its run set, is what a row leaves that enters. -/
theorem entered_of_wrote {row : Nat} {g : Nat → Rounded} {w : Mtx × BitVec 5} (run : w.1.run = some r)
    (acc : ∀ p l col, p < 8 → l < 32 → col < 192 → w.1.accAt p l col =
      if p = tile ∧ l = row then BitVec.ofNat 32 (g col).code else (s.mtx c).accAt p l col) (x : CtxNo) :
    Entered s (((s.setMtx c w.1).mFlags x w.2).modRun c (fun r => r.passEntered (s.mtx c).cyc tile row0 nrm1)) c r tile row row0 nrm1 g := by
  let s1 : State := (s.setMtx c w.1).mFlags x w.2
  have core1 : s1.core c = { s.core c with mtx := w.1 } := (mtx_setMtx w.1 c).trans (if_pos rfl)
  have form : s1.modRun c (fun r => r.passEntered (s.mtx c).cyc tile row0 nrm1) =
      s1.setMtx c { w.1 with run := some (r.passEntered (s.mtx c).cyc tile row0 nrm1) } :=
    modRun_of_run (congrArg Core.mtx core1) run _
  have core : (s1.modRun c (fun r => r.passEntered (s.mtx c).cyc tile row0 nrm1)).core c =
      { s.core c with mtx := { w.1 with run := some (r.passEntered (s.mtx c).cyc tile row0 nrm1) } } := by
    rw [form, (mtx_setMtx _ c).trans (if_pos rfl), core1]
  exact ⟨congrArg (·.mtx.run) core, fun p l col hp hl hcol => (congrArg (·.mtx.accAt p l col) core).trans (acc p l col hp hl hcol),
    (congrArg State.dram form).trans rfl, (congrArg Core.spad core).trans rfl, (congrArg Core.vault core).trans rfl⟩

theorem enteredRow_entered (run : (s.mtx c).run = some r) (ht : tile < 8) (hr : row0 + r.row < 32) (av sv : Nat) :
    Entered s (enteredRow s c r md bank tile row0 nrm1 first av sv) c r tile (row0 + r.row) row0 nrm1 (fun n =>
      passElem md bank av sv n ((s.mtx c).accAt tile (row0 + r.row) n).toNat first) := by
  rw [enteredRow, doRow_eq]
  exact entered_of_wrote ((wroteRow_run _ _ _ _).trans run) (fun p l col => wroteRow_acc (s.mtx c) ht hr _) _

end PassRow

end Sys2Proof.Claims
end

section
/-! SUPPORT. The outcomes of LDB, BIAS, PASS and PASSW as executed words (R236 to R239, R245). -/

namespace Sys2Proof.Claims
open Sys2Proof Sys2Proof.Machine

variable {s u : State} {c e a f : Nat} {p : Vector Word 8} {ws : BitVec 8} {r : MRun} {team : Team}

/-- The outcome ends the call with a fault: the engine is q otherwise, and MSTAT keeps the first fault. -/
def Fails (s : State) (c : Nat) (r : MRun) (e : Nat) (out : Out) (q : Mtx) (code row : Nat) : Prop :=
  ∃ u, out = .next u ∧
    (u.core c).mtx = { q with run := some { r with
      ended := true, row := 0, fill := none, bad := none, begun := false, last := max r.last ((s.mtx c).cyc + 1) } } ∧
    ((s.ctx r.cmd.x).mstat.toNat / 2 ^ 8 % 16 = 0 → (u.ctx r.cmd.x).mstat.toNat / 2 ^ 8 % 16 = code ∧
      (u.ctx r.cmd.x).mstat.toNat / 2 ^ 13 % 64 = e % 64 ∧ (u.ctx r.cmd.x).mstat.toNat / 2 ^ 19 % 512 = r.w % 512 ∧
      (u.ctx r.cmd.x).mstat.toNat / 2 ^ 28 % 32 = row % 32) ∧
    ((s.ctx r.cmd.x).mstat.toNat / 2 ^ 8 % 16 ≠ 0 → u.ctx r.cmd.x = s.ctx r.cmd.x)

theorem Faulted.fails {q q' : Mtx} {code row : Nat} {out : Out} (F : Faulted s u c r q e code row) (eq : out = .next u) (hq : q = q')
    (cyc : q.cyc = (s.mtx c).cyc) : Fails s c r e out q' code row := by
  obtain ⟨mtx, first, later⟩ := F
  subst hq
  refine ⟨u, eq, mtx.trans ?_, first, later⟩
  rw [cyc]
  rfl

/-- The outcome of a read of n bytes that are not all usable and sound. -/
def ReadsOf (s : State) (c : Nat) (r : MRun) (e : Nat) (out : Out) (lo n row : Nat) : Prop :=
  (¬Whole s c lo n → r.bad = none → ∃ u w k id, out = .next u ∧ Covers lo n w ∧ (s.core c).mapOf false w = some k ∧
    (u.core c).mtx = { s.mtx c with run := some { r with begun := true, fill := some id } } ∧
    (∃ o ∈ u.ops, o.id = id ∧ o.core = c ∧ o.task = k.task ∧ o.kind = .fill k.n ∧ o.va = k.va / 64 * 64) ∧
    u = { s with cores := u.cores, ops := u.ops, nextOp := u.nextOp }) ∧
  (∀ k, ¬Whole s c lo n → r.bad = some k → Fails s c r e out (s.mtx c) (if k = 4 then 5 else 6) row) ∧
  (Whole s c lo n → ¬Sound s c lo n → Fails s c r e out (s.mtx c) 6 row)

theorem Reads.readsOf {lo n row : Nat} {out : Out} (R : Reads s c r e lo n row u) (eq : out = .next u) : ReadsOf s c r e out lo n row := by
  refine ⟨fun not_ good => ?_, fun k not_ bad => (R.failed k not_ bad).fails eq rfl rfl, fun whole bad => (R.poison whole bad).fails eq rfl rfl⟩
  obtain ⟨w, k, id, rest⟩ := R.fill not_ good
  exact ⟨u, w, k, id, eq, rest⟩

/-- The outcome of a row that enters the array. -/
def Enters (s : State) (c : Nat) (r : MRun) (tile row nrm1 : Nat) (g : Nat → Nat → Rounded) (out : Out) : Prop :=
  ∃ u q, out = .next u ∧ (u.core c).mtx.run = some q ∧ SMap.get 0 q.land (tile * 32 + row) = (s.mtx c).cyc + 8 ∧
    q.last = max r.last ((s.mtx c).cyc + 8) ∧
    { q with land := r.land, last := r.last } = (if r.row = nrm1 then { r.nextWord with fill := none }
      else { r with row := r.row + 1, begun := true, fill := none }) ∧
    (∀ p l col, p < 8 → l < 32 → col < 192 → (SMap.get (0 : BitVec 32) (u.core c).mtx.acc (p * 6144 + l * 192 + col)).toNat =
      if p = tile ∧ l = row then (g col (SMap.get (0 : BitVec 32) (s.mtx c).acc (p * 6144 + l * 192 + col)).toNat).code % 2 ^ 32
      else (SMap.get (0 : BitVec 32) (s.mtx c).acc (p * 6144 + l * 192 + col)).toNat) ∧
    u.dram = s.dram ∧ (u.core c).spad = (s.core c).spad ∧ (u.core c).vault = (s.core c).vault

theorem Entered.enters {tile row0 nrm1 : Nat} {g : Nat → Nat → Rounded} {out : Out}
    (E : Entered s u c r tile (row0 + r.row) row0 nrm1 (fun n => g n ((s.mtx c).accAt tile (row0 + r.row) n).toNat)) (eq : out = .next u)
    (ht : tile < 8) (hr : row0 + r.row < 32) (le : r.row ≤ nrm1) :
    Enters s c r tile (row0 + r.row) nrm1 g out := by
  obtain ⟨run, acc, dram, spad, vault⟩ := E
  obtain ⟨lands, last⟩ := passEntered_land (r := r) (nrm1 := nrm1) ht hr (s.mtx c).cyc
  refine ⟨u, _, eq, run, lands, last, passEntered_rest le _, fun p l col hp hl hcol => ?_, dram, spad, vault⟩
  rw [← accKey_of_lt hp hl]
  refine (congrArg BitVec.toNat (acc p l col hp hl hcol)).trans ?_
  split
  · next hit =>
    obtain ⟨rfl, rfl⟩ := hit
    exact BitVec.toNat_ofNat _ _
  · rfl

theorem landsAt_eq {tile row : Nat} (ht : tile < 8) (hr : row < 32) : r.landsAt tile row = SMap.get 0 r.land (tile * 32 + row) := by
  rw [MRun.landsAt, landKey, Nat.mod_eq_of_lt ht, Nat.mod_eq_of_lt hr]

/-- The taken bank by its bit. -/
theorem takeBank_toNat (m : Mtx) (b : BitVec 1) : m.takeBank b.toNat =
    { (if b = 0 then { m with bank0 := { (if b = 0 then m.bank0 else m.bank1) with st := .empty } }
        else { m with bank1 := { (if b = 0 then m.bank0 else m.bank1) with st := .empty } }) with
      past := m.past ++ (match (if b = 0 then m.bank0 else m.bank1).st with
        | .loading o x y w z => [⟨o, x, y, w, z⟩]
        | _ => []) } := by
  rw [takeBank_eq, setBank_toNat, bank_toNat] <;> rfl

section Row

variable {t ma : BitVec 3} {row0 nrm1 : BitVec 5} {b : BitVec 1} {md : Mode} {bank : Bank} {d : Nat}

/-- A row of PASS or PASSW on a LOADED bank: its faults, waits and reads in their order, and the row that enters. -/
theorem AtWord.pass_row (h : AtWord s c r e a f p ws team) (hb : (s.mtx c).bank b.toNat = bank) (st : bank.st = .loaded)
    (mode : modeOf bank.af bank.bf = some md) (hd : (r.m[ma.toNat]'ma.isLt).toNat = d) (rows : row0.toNat + nrm1.toNat < 32)
    (le : r.row ≤ nrm1.toNat) (first : Bool) {out : Out} (eq : out = .next (doPass t row0 nrm1 b ma first s)) :
    (passElems r d % 4 ≠ 0 ∨ passPitch d % 4 ≠ 0 → Fails s c r e out (s.mtx c) 2 r.row) ∧
    (Aligned r d →
      (team.spadSize < passElems r d + md.abytes ∨ team.spadSize < passScales r d + md.nb → Fails s c r e out (s.mtx c) 1 r.row) ∧
      (Inside team md r d →
        ((s.mtx c).cyc < SMap.get 0 r.land ((a + t.toNat) % 8 * 32 + (row0.toNat + r.row)) ∨ s.mayAccess r = false →
          out = .next (s.hold c)) ∧
        (SMap.get 0 r.land ((a + t.toNat) % 8 * 32 + (row0.toNat + r.row)) ≤ (s.mtx c).cyc → s.mayAccess r = true → s.errs = [] →
          ReadsOf s c r e out (team.spadBase + passElems r d) md.abytes r.row ∧
          (Whole s c (team.spadBase + passElems r d) md.abytes → Sound s c (team.spadBase + passElems r d) md.abytes →
            ReadsOf s c r e out (team.spadBase + passScales r d) md.nb r.row ∧
            (Whole s c (team.spadBase + passScales r d) md.nb → Sound s c (team.spadBase + passScales r d) md.nb →
              Enters s c r ((a + t.toNat) % 8) (row0.toNat + r.row) nrm1.toNat (fun n old =>
                passElem md bank (Memory.rdN (s.core c).spad (team.spadBase + passElems r d) md.abytes)
                  (Memory.rdN (s.core c).spad (team.spadBase + passScales r d) md.nb) n old first) out))))) := by
  have ht : (a + t.toNat) % 8 < 8 := Nat.mod_lt _ (by decide)
  have hr : row0.toNat + r.row < 32 := by omega
  rw [h.pass_loaded t ma row0 nrm1 b first hb st mode, hd] at eq
  rw [← landsAt_eq ht hr]
  refine ⟨fun off => ?_, fun on => ⟨fun off => ?_, fun fits => ⟨fun early => ?_, fun landed ready calm => ?_⟩⟩⟩
  · exact (h.faults (by decide) _).fails (eq.trans (congrArg _ (passRow_align off))) rfl rfl
  · exact (h.faults (by decide) _).fails (eq.trans (congrArg _ (passRow_range h.team on off))) rfl rfl
  · exact eq.trans (congrArg _ (passRow_waits h.team on fits early))
  · rw [passRow_reads h.team on fits landed ready calm] at eq
    refine ⟨(h.reads fits.1 _ _).readsOf eq, fun whole sound => ?_⟩
    rw [h.read_ok fits.1 whole sound] at eq
    refine ⟨(h.reads fits.2 _ _).readsOf eq, fun whole' sound' => ?_⟩
    rw [h.read_ok fits.2 whole' sound'] at eq
    exact (enteredRow_entered h.run ht hr _ _).enters (g := fun n old => passElem md bank _ _ n old first) eq ht hr le

end Row

end Sys2Proof.Claims
end

section Settled
open Sys2Proof Sys2Proof.Machine Sys2Proof.Claims

/-- Settles O30: each word's faults, waits and reads in the order of its tests; a read that waits starts or joins the fill of one word; a
row that enters sets its 192 elements. -/
theorem routineLoadsAndPasses : Obligations.RoutineLoadsAndPasses := by
  unfold Obligations.RoutineLoadsAndPasses
  intro s r t ma row0 nrm1 fsel b e a f p ws team c m run call going hteam _
  have h : AtWord s c r e a f p ws team := ⟨rfl, run, call, going, hteam⟩
  have emptied : (s.mtx c).takeBank b.toNat = _ := takeBank_toNat m b
  have cyc := (takeBank_same m b.toNat).2.1
  have bank := bank_toNat m b
  have held : s.hold c = _ := h.hold
  have wait {ready : Bool} (no : ¬ready = true) : ready = false := Bool.not_eq_true _ ▸ no
  refine ⟨fun none_ => ?_, fun md mode => ?_, fun st => ⟨?_, ?_⟩,
    ⟨fun off => ?_, fun on no => ?_, fun on ready calm => ⟨fun off => ?_, fun fits => ?_⟩⟩, fun o x y w z st => ⟨?_, ?_⟩,
    fun md av sv st mode rows le => ?_⟩
  · exact (h.ldb_faults b (by decide)).fails (h.ldb_format b fsel ma (by rw [ldbPair_eq]; exact none_)) emptied cyc
  · have eq := h.ldb_mode b fsel ma (md := md) (by rw [ldbPair_eq]; exact mode)
    have inside (low : ldbOffset r ma < 2 ^ 24) (fits : ldbOffset r ma + 768 * md.rb ≤ team.vaultSize) :=
      not_or.2 ⟨Nat.not_le.2 low, Nat.not_lt.2 fits⟩
    refine ⟨fun off => ?_, fun low fits off => ?_, fun low fits on => ?_⟩
    · exact (h.ldb_faults b (by decide)).fails (eq.trans (congrArg _ (if_pos off))) emptied cyc
    · exact (h.ldb_faults b (by decide)).fails (eq.trans (congrArg _ ((if_neg (inside low fits)).trans (if_pos off)))) emptied cyc
    · refine (eq.trans (congrArg _ ((if_neg (inside low fits)).trans (if_neg (not_not.2 on))))).trans ?_
      rw [setBank_toNat, emptied, ldbPair_eq]
      rfl
  · exact (h.faults (by decide) _).fails (congrArg _ (h.pass_empty t ma row0 nrm1 b false ((congrArg Bank.st bank).trans st))) rfl rfl
  · exact (h.faults (by decide) _).fails (congrArg _ (h.pass_empty t ma row0 nrm1 b true ((congrArg Bank.st bank).trans st))) rfl rfl
  · exact (h.faults (by decide) _).fails (h.bias_align t ma row0 nrm1 off) rfl rfl
  · exact (h.bias_waits t ma row0 nrm1 on (wait no)).trans (congrArg _ held)
  · obtain ⟨go, eq⟩ := h.bias_reads t ma row0 nrm1 on ready calm
    rw [engineRead_range (o := biasOffset r ma) h.team off] at eq
    exact (h.faults (by decide) _).fails eq rfl rfl
  · obtain ⟨go, eq⟩ := h.bias_reads t ma row0 nrm1 on ready calm
    exact (h.reads fits 0 go).readsOf eq
  · exact congrArg _ ((h.pass_loading t ma row0 nrm1 b false ((congrArg Bank.st bank).trans st)).trans held)
  · exact congrArg _ ((h.pass_loading t ma row0 nrm1 b true ((congrArg Bank.st bank).trans st)).trans held)
  · have row (first : Bool) {out : Out} (eq : out = .next (doPass t row0 nrm1 b ma first s)) :=
      h.pass_row bank st mode rfl rows le first eq
    have pass := row false (out := exec (.pass t row0 nrm1 b ma) s) rfl
    have passw := row true (out := exec (.passw t row0 nrm1 b ma) s) rfl
    obtain ⟨align, aligned⟩ := pass
    obtain ⟨alignW, alignedW⟩ := passw
    refine ⟨fun off => ⟨align off, alignW off⟩, fun elems pitch => ?_⟩
    obtain ⟨range, inside⟩ := aligned ⟨elems, pitch⟩
    obtain ⟨rangeW, insideW⟩ := alignedW ⟨elems, pitch⟩
    refine ⟨fun off => ⟨range off, rangeW off⟩, fun bytes scales => ?_⟩
    obtain ⟨waits, enters⟩ := inside ⟨bytes, scales⟩
    obtain ⟨waitsW, entersW⟩ := insideW ⟨bytes, scales⟩
    refine ⟨fun early => ⟨(waits (early.imp_right wait)).trans (congrArg _ held), (waitsW (early.imp_right wait)).trans (congrArg _ held)⟩,
      fun landed ready calm => ?_⟩
    obtain ⟨reads, after⟩ := enters landed ready calm
    obtain ⟨readsW, afterW⟩ := entersW landed ready calm
    refine ⟨⟨reads, readsW⟩, fun whole sound => ⟨(after whole sound).1, (afterW whole sound).1⟩,
      fun whole sound whole' sound' hav hsv => ?_⟩
    subst hav hsv
    exact ⟨(after whole sound).2 whole' sound', (afterW whole sound).2 whole' sound'⟩

end Settled
